-- ==== Sys2Proof/Word.lean ====
section
/-! DEFINITION. The word types of the Kilrid K-128 and the one table type every collection of the state uses. -/

namespace Sys2Proof

/-- A byte of memory (R1). -/
abbrev Byte := BitVec 8
/-- An index word (R56). -/
abbrev IndexWord := BitVec 16
/-- A scalar register's contents (R16). -/
abbrev Word := BitVec 64
/-- The 1,024 bits of a vector register or operand latch (R16, R66). -/
abbrev Lanes := BitVec 1024
/-- A vector predicate (R16). -/
abbrev VPred := BitVec 128
/-- A bundle's 384 bits (R56). -/
abbrev BundleBits := BitVec 384
/-- One slot of a bundle, 48 bits (R61). -/
abbrev SlotBits := BitVec 48
/-- A 64-byte packet, item or record (R269, R326, R347). -/
abbrev Packet64 := BitVec 512

/-- A table: values by number, an absent number standing for a default. Rising keys, no default listed
(the operations of Machine/Tab.lean keep that form). -/
abbrev Tab (α : Type) := List (Nat × α)

end Sys2Proof
end

