-- ==== Sys2Proof/Syntax.lean ====
section
/-! DEFINITION. The operations and events of the K-128: one constructor of `Instr` for each row of the
opcode table. A slot operation holds the fields of its slot (R61, R69); an event holds the data that
arrives with it or the names of the parts it concerns. -/

namespace Sys2Proof

/-- The two scalar ALUs (R72). -/
inductive AluUnit | ia | ib
  deriving DecidableEq, Repr
/-- The two vector units (R81). -/
inductive VecUnit | va | vb
  deriving DecidableEq, Repr
/-- Scopes, narrowest first (R6). -/
inductive Scope | c | k | d | v | f
  deriving DecidableEq, Repr

/-- The guard field of a slot (R61): GP and GN. -/
structure Guard where
  gp : BitVec 5
  gn : Bool
  deriving DecidableEq, Repr

/-- Formats S and V (R69): guard, SRC, O port, OL, W. -/
structure OpS where
  g  : Guard
  t  : BitVec 9
  o  : BitVec 9
  ol : Bool
  w  : BitVec 6
  deriving DecidableEq, Repr

/-- Format M (R69): guard, SRC, DISP, W, H. -/
structure OpM where
  g    : Guard
  t    : BitVec 9
  disp : BitVec 6
  w    : BitVec 6
  h    : BitVec 4
  deriving DecidableEq, Repr

/-- Format T (R69): guard, SRC, MODE, ACC, B. -/
structure OpT where
  g    : Guard
  t    : BitVec 9
  mode : BitVec 2
  acc  : BitVec 4
  b    : BitVec 7
  deriving DecidableEq, Repr

/-- A plain move (R65): the slot that holds it, guard, source port, destination port. -/
structure OpMove where
  slot : BitVec 3
  g    : Guard
  src  : BitVec 9
  dst  : BitVec 9
  deriving DecidableEq, Repr

/-- A fabric packet: the header fields of R290, the flits that follow, and the KEY that they are enciphered under (R427). -/
structure Packet where
  kind  : BitVec 6
  dmod  : BitVec 12
  smod  : BitVec 12
  world : BitVec 2
  fseq  : BitVec 32
  /-- AUTH as it arrives (R428) -/
  auth  : BitVec 64
  tag   : BitVec 12
  inc   : BitVec 4
  win   : BitVec 8
  off   : BitVec 32
  ftag  : BitVec 16
  sctx  : BitVec 9
  batch : BitVec 2
  errv  : Bool
  err   : BitVec 4
  birth : BitVec 12
  key   : BitVec 8
  /-- the issuer's port holds that key (R427) -/
  keyOk : Bool
  /-- a request of the module's own memory, OFF a physical address (R290) -/
  own   : Bool
  /-- the flits after the header, as they cross the fabric -/
  data  : Lanes
  deriving DecidableEq, Repr

/-- The name of a stream: (HMOD, SIDX) (R326). -/
structure StreamId where
  hmod : BitVec 12
  sidx : BitVec 16
  deriving DecidableEq, Repr

/-- What an end-transfer item carries (R337), the belay note included (R350). -/
structure XferBody where
  sid  : StreamId
  cons : Bool
  chk  : BitVec 32
  nseq : BitVec 32
  aseq : BitVec 32
  capc : BitVec 4
  mc   : BitVec 8
  peer : BitVec 12
  pmc  : BitVec 8
  consumed : BitVec 32
  src  : BitVec 12
  note : Option (BitVec 12)
  deriving DecidableEq, Repr

/-- The content of an item: 64 bytes of data, or an end transfer (R329, R337). -/
inductive ItemBody
  | data (x : Packet64)
  | xfer (x : XferBody)
  deriving DecidableEq, Repr

/-- An item on its way to the consumer's holder (R329); `prod` is the producer's holder. -/
structure ItemMsg where
  dst  : BitVec 12
  sid  : StreamId
  prod : BitVec 12
  seq  : BitVec 32
  body : ItemBody
  deriving DecidableEq, Repr

/-- An acknowledgement of acceptance (R331). -/
structure AckMsg where
  dst : BitVec 12
  sid : StreamId
  seq : BitVec 32
  deriving DecidableEq, Repr

/-- A space report (R331): the count of items consumed so far. -/
structure SpaceMsg where
  dst : BitVec 12
  sid : StreamId
  consumed : BitVec 32
  deriving DecidableEq, Repr

/-- arrived, moved and its acknowledgement, and drained (R339): `cons` tells which end moved, `mc` its
move count, `loc` the new holder. -/
structure MoveMsg where
  dst  : BitVec 12
  sid  : StreamId
  cons : Bool
  mc   : BitVec 8
  loc  : BitVec 12
  /-- the holder it left -/
  old  : BitVec 12
  deriving DecidableEq, Repr

/-- redirected(B) (R339), with the move count it belongs to. -/
structure RedirMsg where
  dst : BitVec 12
  sid : StreamId
  mc  : BitVec 8
  bnd : BitVec 32
  deriving DecidableEq, Repr

/-- The notice of an sclose, or of another end's removal (R338, R340). `cons` names the end closed or removed; for a
consumer end, items below `aseq` were accepted; for a producer end the orphan notice stands there. -/
structure CloseMsg where
  dst  : BitVec 12
  sid  : StreamId
  cons : Bool
  aseq : BitVec 32
  orphan : Bool
  /-- the items an old holder stored are lost (R340) -/
  lost : Bool := false
  deriving DecidableEq, Repr

/-- A belay note (R349). -/
structure NoteMsg where
  dst  : BitVec 12
  sid  : StreamId
  part : BitVec 12
  deriving DecidableEq, Repr

/-- A request to host a ring (R346, R355). -/
structure RingReq where
  dst    : BitVec 12
  iss    : BitVec 12
  jidx   : BitVec 12
  ftag   : BitVec 16
  capc   : BitVec 4
  seqid  : Word
  cstep  : BitVec 32
  tail   : BitVec 32
  ckpt   : Word
  sid    : StreamId
  holder : BitVec 12
  mc     : BitVec 8
  pmc    : BitVec 8
  /-- the bound end's capacity code, and the number that step TAIL will take -/
  ecapc  : BitVec 4
  neseq  : BitVec 32
  deriving DecidableEq, Repr

/-- A partner's answer to a host request (R353): accepted or refused. -/
structure RingAns where
  dst  : BitVec 12
  part : BitVec 12
  jidx : BitVec 12
  ok   : Bool
  deriving DecidableEq, Repr

/-- An append (R347, R351): the record, the issue generation's currency and the consumer's holder. -/
structure AppendMsg where
  dst    : BitVec 12
  iss    : BitVec 12
  jidx   : BitVec 12
  recd   : Packet64
  holder : BitVec 12
  deriving DecidableEq, Repr

/-- An append's acknowledgement, or its refusal with class 2 (R347, R362). -/
structure AppendAck where
  dst  : BitVec 12
  part : BitVec 12
  jidx : BitVec 12
  step : BitVec 32
  ok   : Bool
  deriving DecidableEq, Repr

/-- A jrec request (R352); `token` names the pending result at the issuer. -/
structure JrecReq where
  dst   : BitVec 12
  iss   : BitVec 12
  jidx  : BitVec 12
  step  : BitVec 32
  token : Nat
  deriving DecidableEq, Repr

/-- A jrec reply (R352): record, held bit, or a refusal with class 2 (R362). -/
structure JrecRep where
  dst   : BitVec 12
  part  : BitVec 12
  jidx  : BitVec 12
  token : Nat
  held  : Bool
  recd  : Packet64
  stale : Bool
  deriving DecidableEq, Repr

/-- A release message (R354, R362): free the whole ring, or the records below a checkpoint. -/
structure ReleaseMsg where
  dst  : BitVec 12
  iss  : BitVec 12
  jidx : BitVec 12
  all  : Bool
  step : BitVec 32
  ckpt : Word
  deriving DecidableEq, Repr

/-- A hosting module's release notice to an issuer (R362). -/
structure NoticeMsg where
  dst  : BitVec 12
  part : BitVec 12
  jidx : BitVec 12
  deriving DecidableEq, Repr

/-- A ring copy order from the issuer to the old partner, or its completion (R355). -/
structure CopyMsg where
  dst   : BitVec 12
  iss   : BitVec 12
  jidx  : BitVec 12
  newp  : BitVec 12
  cstep : BitVec 32
  tail  : BitVec 32
  recs  : List Packet64
  done  : Bool
  deriving DecidableEq, Repr

/-- One member's contribution to a collective, as it reached this module (R283). -/
structure CollMember where
  rank  : Nat
  kind  : BitVec 2
  count : BitVec 32
  efmt  : BitVec 4
  rop   : Bool
  ctag  : BitVec 32
  data  : List Byte
  /-- which of its bytes are poisoned, where any is (R413) -/
  pois  : List Bool := []
  /-- device time at which it reached this module -/
  came  : Nat := 0
  deriving DecidableEq, Repr

/-- A message between modules (or from this module to itself). -/
inductive Msg
  | packet (p : Packet)
  | item (m : ItemMsg)
  | ack (m : AckMsg)
  | space (m : SpaceMsg)
  | arrived (m : MoveMsg)
  | moved (m : MoveMsg)
  | movedAck (m : MoveMsg)
  | redirected (m : RedirMsg)
  | drained (m : MoveMsg)
  | close (m : CloseMsg)
  | note (m : NoteMsg)
  | ringReq (m : RingReq)
  | ringAns (m : RingAns)
  | append (m : AppendMsg)
  | appendAck (m : AppendAck)
  | jrecReq (m : JrecReq)
  | jrecRep (m : JrecRep)
  | release (m : ReleaseMsg)
  | notice (m : NoticeMsg)
  | copy (m : CopyMsg)
  /-- A member's contribution to a collective, on its way to member module `dst` (R283). -/
  | coll (dst : BitVec 16) (m : CollMember)
  /-- Data answered to an outside reader: a host or general-purpose core read, a report, a certificate. -/
  | out (bytes : List Byte)
  deriving DecidableEq, Repr

/-- An access from the host link or a general-purpose core (R312, R442): issued under no slot. -/
structure BusAccess where
  pa    : BitVec 39
  write : Bool
  world : BitVec 2
  n     : Nat
  data  : List Byte
  deriving DecidableEq, Repr

/-- Which register block a register access names (R439). -/
inductive RegBlock | hub | ms (die : BitVec 2)
  deriving DecidableEq, Repr

/-- An error in a symbol of a sector's codeword (R411): the bits of the symbol that are flipped. -/
structure SymErr where
  sym  : BitVec 8
  flip : BitVec 8
  deriving DecidableEq, Repr

/-- A bit flipped in a burst (R414): the beat, the parity group, and the wire of the group, 32 being its parity wire. -/
structure WireFlip where
  beat : BitVec 3
  grp  : BitVec 6
  wire : BitVec 6
  deriving DecidableEq, Repr

/-- A burst on a vertical-bus channel (R414, R415): the line, the direction, the bits flipped in each try, and the failing
wires of the failing group that the walking patterns find. -/
structure Burst where
  line  : BitVec 29
  write : Bool
  tries : List (List WireFlip)
  wires : List (BitVec 6)
  deriving DecidableEq, Repr

/-- A verifier datagram (R435): slot, version bound at acceptance, and its bytes. -/
structure VerifierMsg where
  nonce   : BitVec 256
  cslot   : BitVec 3
  world   : BitVec 2
  slot    : Option (BitVec 4)
  cipher  : List Byte
  deriving DecidableEq, Repr

/-- Verifier message kinds (R435). -/
inductive VerifierKind | chal | cert | imp
  deriving DecidableEq, Repr

/-- A power-step datagram (R443). -/
structure PowerDatagram where
  src   : BitVec 32
  level : Byte
  seq   : BitVec 32
  /-- the tag it carries (R443) -/
  mac   : BitVec 64
  zeros : Bool
  deriving DecidableEq, Repr

/-- A frame at the management port (R443). -/
inductive Frame
  | verifier (k : VerifierKind) (m : VerifierMsg)
  | power (d : PowerDatagram)
  | other (bytes : List Byte)
  deriving DecidableEq, Repr

/-- Boot configuration and image facts that board flash supplies (R440, R441). -/
structure BootBlob where
  imagesOk : Option Nat
  images   : List (BitVec 256)
  fabmod   : BitVec 12
  spare    : BitVec 11
  dlsec    : BitVec 32
  psaddr   : List (BitVec 32)
  drain    : Word
  /-- the drained set in its region passes its check (R450) -/
  drainOk  : Bool := true
  deriving DecidableEq, Repr

/-- Where Mortan binds one unit of a launch (R373): core and row, or the pending list when `row = none`. -/
structure Place where
  core  : Nat
  row   : Option Nat
  savea : BitVec 39
  arga  : BitVec 39
  dbase : BitVec 12
  dload : Bool
  deriving DecidableEq, Repr

/-- A reply addressed to a saved unit (R403). -/
structure Reply where
  kind  : BitVec 16
  port  : BitVec 9
  w     : BitVec 6
  token : Nat
  marks : BitVec 32
  time  : Word
  value : Packet64
  deriving DecidableEq, Repr

/-- The operations and events of the K-128, one constructor for each row of the opcode table. -/
inductive Instr
  -- issue, landing and release
  | nop
  -- plain moves
  | move (m : OpMove)
  | moveSplat (m : OpMove)
  | moveHi (m : OpMove)
  -- ia and ib
  | add (u : AluUnit) (f : OpS)
  | sub (u : AluUnit) (f : OpS)
  | and (u : AluUnit) (f : OpS)
  | or (u : AluUnit) (f : OpS)
  | xor (u : AluUnit) (f : OpS)
  | andn (u : AluUnit) (f : OpS)
  | orn (u : AluUnit) (f : OpS)
  | shl (u : AluUnit) (f : OpS)
  | shr (u : AluUnit) (f : OpS)
  | sra (u : AluUnit) (f : OpS)
  | ror (u : AluUnit) (f : OpS)
  | min (u : AluUnit) (f : OpS)
  | max (u : AluUnit) (f : OpS)
  | minn (u : AluUnit) (f : OpS)
  | maxn (u : AluUnit) (f : OpS)
  | sel (u : AluUnit) (f : OpS)
  | sext8 (u : AluUnit) (f : OpS)
  | sext16 (u : AluUnit) (f : OpS)
  | sext32 (u : AluUnit) (f : OpS)
  | zext8 (u : AluUnit) (f : OpS)
  | zext16 (u : AluUnit) (f : OpS)
  | zext32 (u : AluUnit) (f : OpS)
  | clz (u : AluUnit) (f : OpS)
  | ctz (u : AluUnit) (f : OpS)
  | popc (u : AluUnit) (f : OpS)
  | bfx (u : AluUnit) (f : OpS)
  | bfi (u : AluUnit) (f : OpS)
  | addsh (u : AluUnit) (f : OpS)
  | ceq (u : AluUnit) (k : BitVec 4) (f : OpS)
  | cne (u : AluUnit) (k : BitVec 4) (f : OpS)
  | clt (u : AluUnit) (k : BitVec 4) (f : OpS)
  | cle (u : AluUnit) (k : BitVec 4) (f : OpS)
  | cltn (u : AluUnit) (k : BitVec 4) (f : OpS)
  | clen (u : AluUnit) (k : BitVec 4) (f : OpS)
  -- mul
  | mul (f : OpS)
  | mulh (f : OpS)
  | mulhn (f : OpS)
  | div (f : OpS)
  | divn (f : OpS)
  | rem (f : OpS)
  | remn (f : OpS)
  -- pr
  | pand (d : BitVec 5) (f : OpS)
  | por (d : BitVec 5) (f : OpS)
  | pxor (d : BitVec 5) (f : OpS)
  | pnot (d : BitVec 5) (f : OpS)
  | pset (d : BitVec 5) (f : OpS)
  | vany (d : BitVec 5) (f : OpS)
  | vall (d : BitVec 5) (f : OpS)
  -- br, lp
  | br (f : OpS)
  | call (f : OpS)
  | ret (f : OpS)
  | bix (f : OpS)
  | lset (n : BitVec 1) (f : OpS)
  | lrot (f : OpS)
  | lbrk (n : BitVec 1) (f : OpS)
  -- sys
  | trap (f : OpS)
  | tret (f : OpS)
  | exit (f : OpS)
  | yield (f : OpS)
  | sleep (f : OpS)
  | brk (f : OpS)
  -- sm
  | sset (f : OpS)
  | sadd (f : OpS)
  | stake (f : OpS)
  | swait (f : OpS)
  -- wk
  | fork (f : OpS)
  | join (f : OpS)
  | jadd (f : OpS)
  | wcan (f : OpS)
  | wdone (f : OpS)
  -- gq
  | gpush (f : OpS)
  | gpop (f : OpS)
  -- ls
  | ldb (nw : Bool) (f : OpM)
  | ldh (nw : Bool) (f : OpM)
  | ldw (nw : Bool) (f : OpM)
  | ldd (nw : Bool) (f : OpM)
  | ldbn (nw : Bool) (f : OpM)
  | ldhn (nw : Bool) (f : OpM)
  | ldwn (nw : Bool) (f : OpM)
  | stb (f : OpM)
  | sth (f : OpM)
  | stw (f : OpM)
  | std (f : OpM)
  | vld (fmt : BitVec 4) (nw : Bool) (f : OpM)
  | vst (fmt : BitVec 4) (f : OpM)
  | vlds (nw : Bool) (f : OpM)
  | vsts (f : OpM)
  | vldx (nw : Bool) (f : OpM)
  | vstx (f : OpM)
  | fewait (f : OpM)
  | feclr (f : OpM)
  | feset (f : OpM)
  | fetst (f : OpM)
  | rel (sc : Scope) (f : OpM)
  | acq (sc : Scope) (f : OpM)
  | cwb (f : OpM)
  | cinv (f : OpM)
  -- tx
  | xlat (f : OpM)
  | hdrop (f : OpM)
  | hchk (f : OpM)
  -- at
  | aadd (sc : Scope) (f : OpM)
  | aand (sc : Scope) (f : OpM)
  | aor (sc : Scope) (f : OpM)
  | axor (sc : Scope) (f : OpM)
  | axchg (sc : Scope) (f : OpM)
  | acas (sc : Scope) (f : OpM)
  | amax (sc : Scope) (f : OpM)
  -- ec and the engines
  | cpy (q : BitVec 3) (f : OpM)
  | csr (q : BitVec 3) (f : OpM)
  | pfr (q : BitVec 3) (f : OpM)
  | zfill (q : BitVec 3) (f : OpM)
  | qfence (q : BitVec 3) (f : OpM)
  | coll (q : BitVec 3) (f : OpM)
  | evict (q : BitVec 3) (f : OpM)
  | cstat (q : BitVec 3) (f : OpM)
  -- rm and the fabric
  | rld (f : OpM)
  | rldv (f : OpM)
  | rst (b : BitVec 2) (f : OpM)
  | rstv (b : BitVec 2) (f : OpM)
  | rop (f : OpM)
  | bclose (b : BitVec 2) (f : OpM)
  | rdrain (f : OpM)
  -- sx and the stream engine
  | sopen (f : OpM)
  | sclose (f : OpM)
  | ssend (f : OpM)
  | srecv (f : OpM)
  | spoll (f : OpM)
  | sxfer (f : OpM)
  | sstat (f : OpM)
  -- bj and the belay engine
  | jopen (f : OpM)
  | jrec (f : OpM)
  | jemit (f : OpM)
  | jtrunc (f : OpM)
  | jpart (f : OpM)
  | jrep (f : OpM)
  | jstat (f : OpM)
  -- va and vb
  | vadd (u : VecUnit) (f : OpS)
  | vsub (u : VecUnit) (f : OpS)
  | vmul (u : VecUnit) (f : OpS)
  | vmulh (u : VecUnit) (f : OpS)
  | vmin (u : VecUnit) (f : OpS)
  | vmax (u : VecUnit) (f : OpS)
  | vminn (u : VecUnit) (f : OpS)
  | vmaxn (u : VecUnit) (f : OpS)
  | vand (u : VecUnit) (f : OpS)
  | vor (u : VecUnit) (f : OpS)
  | vxor (u : VecUnit) (f : OpS)
  | vandn (u : VecUnit) (f : OpS)
  | vshl (u : VecUnit) (f : OpS)
  | vshr (u : VecUnit) (f : OpS)
  | vsra (u : VecUnit) (f : OpS)
  | vabs (u : VecUnit) (f : OpS)
  | vadds (u : VecUnit) (f : OpS)
  | vsubs (u : VecUnit) (f : OpS)
  | vfadd (u : VecUnit) (f : OpS)
  | vfsub (u : VecUnit) (f : OpS)
  | vfmul (u : VecUnit) (f : OpS)
  | vfma (u : VecUnit) (f : OpS)
  | vfnma (u : VecUnit) (f : OpS)
  | vfmin (u : VecUnit) (f : OpS)
  | vfmax (u : VecUnit) (f : OpS)
  | vrcp (u : VecUnit) (f : OpS)
  | vrsq (u : VecUnit) (f : OpS)
  | vexp2 (u : VecUnit) (f : OpS)
  | vlog2 (u : VecUnit) (f : OpS)
  | vtanh (u : VecUnit) (f : OpS)
  | vscale (u : VecUnit) (f : OpS)
  | vtag (u : VecUnit) (f : OpS)
  | vcvt (u : VecUnit) (fmt : BitVec 4) (f : OpS)
  | vsplat (u : VecUnit) (f : OpS)
  | vins (u : VecUnit) (f : OpS)
  | vext (u : VecUnit) (f : OpS)
  | vperm (u : VecUnit) (f : OpS)
  | vrot (u : VecUnit) (f : OpS)
  | vsel (u : VecUnit) (f : OpS)
  | vcomp (u : VecUnit) (f : OpS)
  | vsum (u : VecUnit) (f : OpS)
  | vmaxr (u : VecUnit) (f : OpS)
  | vargmax (u : VecUnit) (f : OpS)
  | vrng (u : VecUnit) (f : OpS)
  | vsample (u : VecUnit) (f : OpS)
  | vpand (u : VecUnit) (f : OpS)
  | vpor (u : VecUnit) (f : OpS)
  | vpxor (u : VecUnit) (f : OpS)
  | vpnot (u : VecUnit) (f : OpS)
  | vpset (u : VecUnit) (f : OpS)
  | vpcnt (u : VecUnit) (f : OpS)
  | vceq (u : VecUnit) (k : BitVec 3) (f : OpS)
  | vcne (u : VecUnit) (k : BitVec 3) (f : OpS)
  | vclt (u : VecUnit) (k : BitVec 3) (f : OpS)
  | vcle (u : VecUnit) (k : BitVec 3) (f : OpS)
  | vcltn (u : VecUnit) (k : BitVec 3) (f : OpS)
  | vfceq (u : VecUnit) (k : BitVec 3) (f : OpS)
  | vfclt (u : VecUnit) (k : BitVec 3) (f : OpS)
  | vfcle (u : VecUnit) (k : BitVec 3) (f : OpS)
  -- mx and the compute-in-memory arrays
  | mload (f : OpT)
  | mpush (f : OpT)
  | mpushv (f : OpT)
  | mzero (f : OpT)
  | mpop (f : OpT)
  | mpopx (f : OpT)
  | macc (f : OpT)
  | mrel (f : OpT)
  -- ts
  | tsload (f : OpT)
  | tsrun (f : OpT)
  | tsstop (f : OpT)
  | tsstat (f : OpT)
  -- xp
  | xpin (f : OpS)
  | xpout (f : OpS)
  | xpclr (f : OpS)
  | xpmode (f : OpS)
  -- events
  -- issue, landing and release
  | bundleIssue (core : Nat)
  | contextUnblock (core ctx : Nat)
  | resultLanding (core ctx : Nat)
  | replayReissue (core ctx : Nat)
  | loadLanding (core ctx token : Nat)
  | walkComplete (core walk : Nat)
  | pitchRelease (core ctx : Nat)
  | dirtyFifoDrain (core : Nat)
  | trapDelivery (core ctx : Nat)
  -- gq
  | gatherRowArrival (core ctx : Nat)
  -- ec and the engines
  | entryAdmit (core q : Nat)
  | promiseLanding (core ctx token : Nat)
  | promiseMissed (core q : Nat)
  | cpyCommand (core q n : Nat)
  | csrCommand (core q n : Nat)
  | pfrCommand (core q n : Nat)
  | zfillCommand (core q n : Nat)
  | qfenceCommand (core q : Nat)
  | collCommand (core q : Nat) (members : List CollMember)
  | evictCommand (core q n : Nat)
  | segmentReplay (core q : Nat) (served : List Bool)
  | collTimeout (core q : Nat)
  | eqcfgWrite (core q : Nat) (v : Word)
  | queueDisableComplete (core q : Nat)
  -- rm and the fabric
  | rldRequest (p : Packet)
  | rldvRequest (p : Packet)
  | rstRequest (p : Packet)
  | rstvRequest (p : Packet)
  | ropRequest (p : Packet)
  | closeRequest (p : Packet)
  | rldReply (p : Packet)
  | rldvReply (p : Packet)
  | ropReply (p : Packet)
  | writeAcknowledgement (p : Packet)
  | summaryReply (p : Packet)
  | requestTimeout (tag : Nat)
  | tallyExpiry (smod : BitVec 12) (sctx : BitVec 9) (batch : BitVec 2)
  | fabslotWrite (slot : BitVec 4) (v : Word)
  | migration (die : BitVec 2) (n : Nat)
  | migrationHoldTimeout (die : BitVec 2)
  -- sx and the stream engine
  | itemSend (sid : StreamId)
  | itemArrival (m : ItemMsg)
  | itemAcceptance (m : AckMsg)
  | spaceReport (m : SpaceMsg)
  | arrived (m : MoveMsg)
  | moved (m : MoveMsg)
  | redirected (m : RedirMsg)
  | drained (m : MoveMsg)
  | moduleDownNotice (f : BitVec 12)
  -- bj and the belay engine
  | ringHostRequest (m : RingReq)
  | journalAppend (m : AppendMsg)
  | appendAcknowledgement (m : AppendAck)
  | orphanHoldoffExpiry (sid : StreamId)
  -- mx and the compute-in-memory arrays
  | macroEntryStart (core cim : Nat)
  | pushRowAdded (core push : Nat)
  | operandsConsumed (core push : Nat)
  | pushComplete (core push : Nat)
  | mloadComplete (core slot : Nat)
  -- ts
  | sequencerState (core : Nat)
  -- tenancy
  | shootdown (die : BitVec 2) (v : Word)
  | shootdownComplete (die : BitVec 2)
  | genAdvance (slot : BitVec 4) (v : Word)
  | onchipSweepComplete (slot : BitVec 4)
  | coreslotChange (core : Nat) (v : Word)
  | blockReassign (die : BitVec 2) (v : Word)
  | sweepVisit (die : BitVec 2) (cell : List SymErr)
  | passEnd
  | swctlWrite (v : Word)
  -- work
  | woCreate (v : Word)
  | woSeal (v : Word)
  | woAdd (v : Word)
  | woCancel (v : Word)
  | woFree (v : Word)
  | launchPacket (wq : Nat) (obj : BitVec 12) (places : List Place)
  | go (core row : Nat) (v : Packet64)
  | dispatchBind (core row : Nat)
  | pendingBind (core : Nat)
  | preRequest (core row : Nat)
  | preemptSave (core ctx : Nat)
  | resume (core ctx : Nat) (v : Word)
  | redirect (core ctx : Nat) (v : Word)
  | kill (core ctx : Nat) (v : Word)
  | replyToSaved (core row : Nat) (r : Reply)
  | csave (core : Nat) (v : Word)
  | crest (core : Nat) (v : Word)
  -- reliability
  | parityRetry (b : Burst)
  | laneSwap (b : Burst)
  | retireRequest (die : BitVec 2) (v : Word)
  | errorLogClear (die : BitVec 2) (off : BitVec 16) (v : Word)
  | latecntWrite (v : Word)
  | authcntWrite (v : Word)
  -- security
  | wldcfgWrite (slot : BitVec 4) (world : BitVec 2) (v : Word)
  | kgen (mbox world : BitVec 2) (v : Word)
  | kimp (mbox world : BitVec 2) (v : Word)
  | kdrop (mbox world : BitVec 2) (v : Word)
  | certw (mbox world : BitVec 2) (v : Word)
  | sleepCommand (mbox world : BitVec 2) (v : Word)
  | wake (images : List (BitVec 256)) (kept : Bool)
  | chal
  | cert
  | importKey
  | networkPacketArrival (p : Packet)
  -- device
  | hostAccess (a : BusAccess)
  | managementFrame (f : Frame)
  | resetBoot (b : BootBlob)
  | powerStepPins (level : BitVec 4)
  | powerStepDatagram (d : PowerDatagram)
  | ceilingApply
  | powerFail
  | powerReturn (b : BootBlob)
  | selfRefreshExpiry
  | registerWrite (blk : RegBlock) (off : BitVec 25) (v : Word)
  | generalPurposeCoreAccess (a : BusAccess)
  -- further messages
  | spaceReportSend (sid : StreamId)
  | closeNotice (m : CloseMsg)
  | movedAcknowledgement (m : MoveMsg)
  | ringHostAnswer (m : RingAns)
  | ringHostTimeout (jidx : BitVec 12)
  | jrecRequest (m : JrecReq)
  | jrecReply (m : JrecRep)
  | releaseMessage (m : ReleaseMsg)
  | releaseNotice (m : NoticeMsg)
  | belayNote (m : NoteMsg)
  | ringCopy (m : CopyMsg)
  deriving DecidableEq, Repr

end Sys2Proof
end

