-- ==== Sys2Proof/WellFormed.lean ====
section
/-! DEFINITION. What a well-formed instruction is: the port maps (R62, R63), the place and encoding of every
slot operation (R61, R69, R71 to R82), the operands each operation takes, and the checks of R83 in their order. -/

namespace Sys2Proof

/-- The kinds of a port (R62). -/
inductive Kind | scalar | vector | pred | vpred | handle
  deriving DecidableEq, Repr

/-- The kind of a source port; none for a reserved one (R62). -/
def srcKind (port : BitVec 9) : Option Kind :=
  let p := port.toNat
  if p < 0x40 then some .scalar
  else if p < 0x80 then some .vector
  else if p < 0xA0 then some .pred
  else if p < 0xB0 then some .vpred
  else if p < 0xC0 then some .handle
  else if p < 0xD2 then some .scalar
  else if p < 0xD8 then none
  else if p < 0xE0 then some .scalar
  else if p < 0x100 then none
  else if p = 0x105 ∨ p = 0x10A ∨ p = 0x10C then some .vector
  else if p < 0x106 then some .scalar
  else if p = 0x107 ∨ p = 0x108 ∨ p = 0x109 ∨ p = 0x10B then some .scalar
  else if 0x110 ≤ p ∧ p < 0x115 then some .vector
  else if p = 0x115 then some .scalar
  else if 0x180 ≤ p ∧ p < 0x183 then some .scalar
  else if p = 0x183 then some .vector
  else if 0x1C0 ≤ p then some .scalar
  else none

/-- What a destination port names (R63). -/
inductive DstKind
  | scalar | wide | pred | vpred | handle
  | trigger (unit : Nat)
  deriving DecidableEq, Repr

/-- The destination a port names; none where a write raises the illegal-port trap (R63). A unit is numbered
(trigger port - 0x101) / 2 (R390). -/
def dstKind (port : BitVec 9) : Option DstKind :=
  let p := port.toNat
  if p < 0x40 then some .scalar
  else if p < 0x80 then some .wide
  else if p < 0xA0 then some .pred
  else if p < 0xB0 then some .vpred
  else if p < 0xBF then some .handle
  else if p = 0xBF then none
  else if p < 0xC9 ∨ p = 0xCF then some .scalar
  else if p < 0x100 then none
  else if p < 0x122 ∨ (0x130 ≤ p ∧ p < 0x134) ∨ (0x138 ≤ p ∧ p < 0x13E) then
    if p % 2 = 1 then some (.trigger ((p - 0x101) / 2)) else some .wide
  else none

/-- The slot whose class holds a unit (R15). -/
def unitSlot (u : Nat) : Nat :=
  if u = 1 ∨ u = 2 ∨ u = 16 then 1
  else if 8 ≤ u ∧ u ≤ 14 then 2
  else if u = 24 then 3
  else if u = 25 then 4
  else if u = 28 ∨ u = 29 then 5
  else if u = 30 then 6
  else 0

/-- Unit numbers (R390). -/
def AluUnit.unit : AluUnit → Nat | .ia => 0 | .ib => 1
/-- Slots of ia and ib (R15). -/
def AluUnit.slot : AluUnit → Nat | .ia => 0 | .ib => 1
/-- Unit numbers (R390). -/
def VecUnit.unit : VecUnit → Nat | .va => 24 | .vb => 25
/-- Slots of va and vb (R15). -/
def VecUnit.slot : VecUnit → Nat | .va => 3 | .vb => 4
/-- Scope codes (R71). -/
def Scope.code : Scope → Nat | .c => 0 | .k => 1 | .d => 2 | .v => 3 | .f => 4
/-- Bit 7 of OP, the no-wait modifier (R76). -/
def nwBit (b : Bool) : Nat := if b then 0x80 else 0

/-- How an operation reads T. (DEDUCED, logs 23, 24) -/
inductive TKind
  /-- reads no T: SRC must be 0x000 -/
  | zero
  /-- a scalar of any source kind (R90) -/
  | any
  /-- of kind Scalar itself (R225) -/
  | scalar
  /-- a scalar of any kind but a handle (R332, R348) -/
  | noHandle
  /-- a vector-kind source (R195) -/
  | vec
  /-- as a predicate (R106): no vector predicate, no handle -/
  | bool
  /-- as 128 bits (R106): no handle -/
  | vecP
  /-- as a wide value (R66): no predicate, no handle -/
  | wide
  deriving DecidableEq, Repr

/-- How an operation of format S or V reads O. -/
inductive OKind
  | none
  | any
  /-- a vector, or a scalar that is broadcast (R195) -/
  | vec
  | bool
  | vecP
  /-- a handle port (R211) -/
  | handle
  deriving DecidableEq, Repr

/-- What W may be. -/
inductive WKind
  | none | opt | req
  /-- s1 to s60 (R379) -/
  | join
  deriving DecidableEq, Repr

/-- The operand form of a slot operation. -/
structure Shape where
  t : TKind
  o : OKind := .none
  /-- the operation reads L, so OL = 1 is illegal (R91, R195) -/
  readsL : Bool := false
  w : WKind := .none
  /-- format M: DISP is used -/
  disp : Bool := false
  /-- format M: H = 15 is illegal (R116, R117) -/
  noH15 : Bool := false
  /-- format T: MODE must lie below this -/
  modes : Nat := 4
  deriving DecidableEq, Repr

/-- The AUX format of a view. -/
inductive Aux
  | s (f : OpS)
  | m (f : OpM)
  | t (f : OpT)
  | move
  deriving DecidableEq, Repr

/-- A slot operation as its slot holds it: slot, destination port, OP and the operand fields. -/
structure View where
  slot : Nat
  dst  : BitVec 9
  op   : Nat
  g    : Guard
  src  : BitVec 9
  aux  : Aux
  deriving DecidableEq, Repr

/-- The view of a trigger in format S or V. -/
def View.ofS (slot unit op : Nat) (f : OpS) : View :=
  ⟨slot, BitVec.ofNat 9 (0x101 + 2 * unit), op, f.g, f.t, .s f⟩
/-- The view of a trigger in format M. -/
def View.ofM (unit op : Nat) (f : OpM) : View :=
  ⟨2, BitVec.ofNat 9 (0x101 + 2 * unit), op, f.g, f.t, .m f⟩
/-- The view of a trigger in format T. -/
def View.ofT (unit op : Nat) (f : OpT) : View :=
  ⟨5, BitVec.ofNat 9 (0x101 + 2 * unit), op, f.g, f.t, .t f⟩
/-- The view of a plain move (R65). -/
def View.ofMove (op : Nat) (m : OpMove) : View :=
  ⟨m.slot.toNat, m.dst, op, m.g, m.src, .move⟩

/-- The slot and encoding of each slot operation (R65, R72 to R82); none for an event. -/
def Instr.view : Instr → Option View
  | .nop => some ⟨0, 0, 0, ⟨0, false⟩, 0, .move⟩
  | .move m => some (.ofMove 0 m)
  | .moveSplat m => some (.ofMove 1 m)
  | .moveHi m => some (.ofMove 2 m)
  | .add u f => some (.ofS u.slot u.unit 0x1 f)
  | .sub u f => some (.ofS u.slot u.unit 0x2 f)
  | .and u f => some (.ofS u.slot u.unit 0x3 f)
  | .or u f => some (.ofS u.slot u.unit 0x4 f)
  | .xor u f => some (.ofS u.slot u.unit 0x5 f)
  | .andn u f => some (.ofS u.slot u.unit 0x6 f)
  | .orn u f => some (.ofS u.slot u.unit 0x7 f)
  | .shl u f => some (.ofS u.slot u.unit 0x8 f)
  | .shr u f => some (.ofS u.slot u.unit 0x9 f)
  | .sra u f => some (.ofS u.slot u.unit 0xa f)
  | .ror u f => some (.ofS u.slot u.unit 0xb f)
  | .min u f => some (.ofS u.slot u.unit 0xc f)
  | .max u f => some (.ofS u.slot u.unit 0xd f)
  | .minn u f => some (.ofS u.slot u.unit 0xe f)
  | .maxn u f => some (.ofS u.slot u.unit 0xf f)
  | .sel u f => some (.ofS u.slot u.unit 0x10 f)
  | .sext8 u f => some (.ofS u.slot u.unit 0x11 f)
  | .sext16 u f => some (.ofS u.slot u.unit 0x12 f)
  | .sext32 u f => some (.ofS u.slot u.unit 0x13 f)
  | .zext8 u f => some (.ofS u.slot u.unit 0x14 f)
  | .zext16 u f => some (.ofS u.slot u.unit 0x15 f)
  | .zext32 u f => some (.ofS u.slot u.unit 0x16 f)
  | .clz u f => some (.ofS u.slot u.unit 0x17 f)
  | .ctz u f => some (.ofS u.slot u.unit 0x18 f)
  | .popc u f => some (.ofS u.slot u.unit 0x19 f)
  | .bfx u f => some (.ofS u.slot u.unit 0x1a f)
  | .bfi u f => some (.ofS u.slot u.unit 0x1b f)
  | .addsh u f => some (.ofS u.slot u.unit 0x1c f)
  | .ceq u k f => some (.ofS u.slot u.unit (0x40 + k.toNat) f)
  | .cne u k f => some (.ofS u.slot u.unit (0x50 + k.toNat) f)
  | .clt u k f => some (.ofS u.slot u.unit (0x60 + k.toNat) f)
  | .cle u k f => some (.ofS u.slot u.unit (0x70 + k.toNat) f)
  | .cltn u k f => some (.ofS u.slot u.unit (0x80 + k.toNat) f)
  | .clen u k f => some (.ofS u.slot u.unit (0x90 + k.toNat) f)
  | .mul f => some (.ofS 1 2 0x1 f)
  | .mulh f => some (.ofS 1 2 0x2 f)
  | .mulhn f => some (.ofS 1 2 0x3 f)
  | .div f => some (.ofS 1 2 0x4 f)
  | .divn f => some (.ofS 1 2 0x5 f)
  | .rem f => some (.ofS 1 2 0x6 f)
  | .remn f => some (.ofS 1 2 0x7 f)
  | .pand d f => some (.ofS 0 3 (0x0 + d.toNat) f)
  | .por d f => some (.ofS 0 3 (0x20 + d.toNat) f)
  | .pxor d f => some (.ofS 0 3 (0x40 + d.toNat) f)
  | .pnot d f => some (.ofS 0 3 (0x60 + d.toNat) f)
  | .pset d f => some (.ofS 0 3 (0x80 + d.toNat) f)
  | .vany d f => some (.ofS 0 3 (0xa0 + d.toNat) f)
  | .vall d f => some (.ofS 0 3 (0xc0 + d.toNat) f)
  | .br f => some (.ofS 0 4 0x1 f)
  | .call f => some (.ofS 0 4 0x2 f)
  | .ret f => some (.ofS 0 4 0x3 f)
  | .bix f => some (.ofS 0 4 0x4 f)
  | .lset n f => some (.ofS 0 5 (0x1 + n.toNat) f)
  | .lrot f => some (.ofS 0 5 0x3 f)
  | .lbrk n f => some (.ofS 0 5 (0x4 + n.toNat) f)
  | .trap f => some (.ofS 0 6 0x1 f)
  | .tret f => some (.ofS 0 6 0x2 f)
  | .exit f => some (.ofS 0 6 0x3 f)
  | .yield f => some (.ofS 0 6 0x4 f)
  | .sleep f => some (.ofS 0 6 0x5 f)
  | .brk f => some (.ofS 0 6 0x6 f)
  | .sset f => some (.ofS 0 7 0x1 f)
  | .sadd f => some (.ofS 0 7 0x2 f)
  | .stake f => some (.ofS 0 7 0x3 f)
  | .swait f => some (.ofS 0 7 0x4 f)
  | .fork f => some (.ofS 0 15 0x1 f)
  | .join f => some (.ofS 0 15 0x2 f)
  | .jadd f => some (.ofS 0 15 0x3 f)
  | .wcan f => some (.ofS 0 15 0x4 f)
  | .wdone f => some (.ofS 0 15 0x5 f)
  | .gpush f => some (.ofS 1 16 0x1 f)
  | .gpop f => some (.ofS 1 16 0x2 f)
  | .ldb nw f => some (.ofM 8 (0x1 + nwBit nw) f)
  | .ldh nw f => some (.ofM 8 (0x2 + nwBit nw) f)
  | .ldw nw f => some (.ofM 8 (0x3 + nwBit nw) f)
  | .ldd nw f => some (.ofM 8 (0x4 + nwBit nw) f)
  | .ldbn nw f => some (.ofM 8 (0x5 + nwBit nw) f)
  | .ldhn nw f => some (.ofM 8 (0x6 + nwBit nw) f)
  | .ldwn nw f => some (.ofM 8 (0x7 + nwBit nw) f)
  | .stb f => some (.ofM 8 0x8 f)
  | .sth f => some (.ofM 8 0x9 f)
  | .stw f => some (.ofM 8 0xa f)
  | .std f => some (.ofM 8 0xb f)
  | .vld fmt nw f => some (.ofM 8 (0x10 + fmt.toNat + nwBit nw) f)
  | .vst fmt f => some (.ofM 8 (0x20 + fmt.toNat) f)
  | .vlds nw f => some (.ofM 8 (0x30 + nwBit nw) f)
  | .vsts f => some (.ofM 8 0x31 f)
  | .vldx nw f => some (.ofM 8 (0x32 + nwBit nw) f)
  | .vstx f => some (.ofM 8 0x33 f)
  | .fewait f => some (.ofM 8 0x34 f)
  | .feclr f => some (.ofM 8 0x35 f)
  | .feset f => some (.ofM 8 0x36 f)
  | .fetst f => some (.ofM 8 0x37 f)
  | .rel sc f => some (.ofM 8 (0x40 + sc.code) f)
  | .acq sc f => some (.ofM 8 (0x48 + sc.code) f)
  | .cwb f => some (.ofM 8 0x50 f)
  | .cinv f => some (.ofM 8 0x51 f)
  | .xlat f => some (.ofM 9 0x1 f)
  | .hdrop f => some (.ofM 9 0x2 f)
  | .hchk f => some (.ofM 9 0x3 f)
  | .aadd sc f => some (.ofM 10 (0x8 + sc.code) f)
  | .aand sc f => some (.ofM 10 (0x10 + sc.code) f)
  | .aor sc f => some (.ofM 10 (0x18 + sc.code) f)
  | .axor sc f => some (.ofM 10 (0x20 + sc.code) f)
  | .axchg sc f => some (.ofM 10 (0x28 + sc.code) f)
  | .acas sc f => some (.ofM 10 (0x30 + sc.code) f)
  | .amax sc f => some (.ofM 10 (0x38 + sc.code) f)
  | .cpy q f => some (.ofM 11 (0x8 + q.toNat) f)
  | .csr q f => some (.ofM 11 (0x10 + q.toNat) f)
  | .pfr q f => some (.ofM 11 (0x18 + q.toNat) f)
  | .zfill q f => some (.ofM 11 (0x20 + q.toNat) f)
  | .qfence q f => some (.ofM 11 (0x28 + q.toNat) f)
  | .coll q f => some (.ofM 11 (0x30 + q.toNat) f)
  | .evict q f => some (.ofM 11 (0x38 + q.toNat) f)
  | .cstat q f => some (.ofM 11 (0x40 + q.toNat) f)
  | .rld f => some (.ofM 12 0x1 f)
  | .rldv f => some (.ofM 12 0x2 f)
  | .rst b f => some (.ofM 12 (0x10 + b.toNat) f)
  | .rstv b f => some (.ofM 12 (0x14 + b.toNat) f)
  | .rop f => some (.ofM 12 0x3 f)
  | .bclose b f => some (.ofM 12 (0x18 + b.toNat) f)
  | .rdrain f => some (.ofM 12 0x4 f)
  | .sopen f => some (.ofM 13 0x1 f)
  | .sclose f => some (.ofM 13 0x2 f)
  | .ssend f => some (.ofM 13 0x3 f)
  | .srecv f => some (.ofM 13 0x4 f)
  | .spoll f => some (.ofM 13 0x5 f)
  | .sxfer f => some (.ofM 13 0x6 f)
  | .sstat f => some (.ofM 13 0x7 f)
  | .jopen f => some (.ofM 14 0x1 f)
  | .jrec f => some (.ofM 14 0x2 f)
  | .jemit f => some (.ofM 14 0x3 f)
  | .jtrunc f => some (.ofM 14 0x4 f)
  | .jpart f => some (.ofM 14 0x5 f)
  | .jrep f => some (.ofM 14 0x6 f)
  | .jstat f => some (.ofM 14 0x7 f)
  | .vadd u f => some (.ofS u.slot u.unit 0x1 f)
  | .vsub u f => some (.ofS u.slot u.unit 0x2 f)
  | .vmul u f => some (.ofS u.slot u.unit 0x3 f)
  | .vmulh u f => some (.ofS u.slot u.unit 0x4 f)
  | .vmin u f => some (.ofS u.slot u.unit 0x5 f)
  | .vmax u f => some (.ofS u.slot u.unit 0x6 f)
  | .vminn u f => some (.ofS u.slot u.unit 0x7 f)
  | .vmaxn u f => some (.ofS u.slot u.unit 0x8 f)
  | .vand u f => some (.ofS u.slot u.unit 0x9 f)
  | .vor u f => some (.ofS u.slot u.unit 0xa f)
  | .vxor u f => some (.ofS u.slot u.unit 0xb f)
  | .vandn u f => some (.ofS u.slot u.unit 0xc f)
  | .vshl u f => some (.ofS u.slot u.unit 0xd f)
  | .vshr u f => some (.ofS u.slot u.unit 0xe f)
  | .vsra u f => some (.ofS u.slot u.unit 0xf f)
  | .vabs u f => some (.ofS u.slot u.unit 0x10 f)
  | .vadds u f => some (.ofS u.slot u.unit 0x11 f)
  | .vsubs u f => some (.ofS u.slot u.unit 0x12 f)
  | .vfadd u f => some (.ofS u.slot u.unit 0x18 f)
  | .vfsub u f => some (.ofS u.slot u.unit 0x19 f)
  | .vfmul u f => some (.ofS u.slot u.unit 0x1a f)
  | .vfma u f => some (.ofS u.slot u.unit 0x1b f)
  | .vfnma u f => some (.ofS u.slot u.unit 0x1c f)
  | .vfmin u f => some (.ofS u.slot u.unit 0x1d f)
  | .vfmax u f => some (.ofS u.slot u.unit 0x1e f)
  | .vrcp u f => some (.ofS u.slot u.unit 0x1f f)
  | .vrsq u f => some (.ofS u.slot u.unit 0x20 f)
  | .vexp2 u f => some (.ofS u.slot u.unit 0x21 f)
  | .vlog2 u f => some (.ofS u.slot u.unit 0x22 f)
  | .vtanh u f => some (.ofS u.slot u.unit 0x23 f)
  | .vscale u f => some (.ofS u.slot u.unit 0x28 f)
  | .vtag u f => some (.ofS u.slot u.unit 0x29 f)
  | .vcvt u fmt f => some (.ofS u.slot u.unit (0x50 + fmt.toNat) f)
  | .vsplat u f => some (.ofS u.slot u.unit 0x30 f)
  | .vins u f => some (.ofS u.slot u.unit 0x31 f)
  | .vext u f => some (.ofS u.slot u.unit 0x32 f)
  | .vperm u f => some (.ofS u.slot u.unit 0x33 f)
  | .vrot u f => some (.ofS u.slot u.unit 0x34 f)
  | .vsel u f => some (.ofS u.slot u.unit 0x35 f)
  | .vcomp u f => some (.ofS u.slot u.unit 0x36 f)
  | .vsum u f => some (.ofS u.slot u.unit 0x38 f)
  | .vmaxr u f => some (.ofS u.slot u.unit 0x39 f)
  | .vargmax u f => some (.ofS u.slot u.unit 0x3a f)
  | .vrng u f => some (.ofS u.slot u.unit 0x3c f)
  | .vsample u f => some (.ofS u.slot u.unit 0x3d f)
  | .vpand u f => some (.ofS u.slot u.unit 0x40 f)
  | .vpor u f => some (.ofS u.slot u.unit 0x41 f)
  | .vpxor u f => some (.ofS u.slot u.unit 0x42 f)
  | .vpnot u f => some (.ofS u.slot u.unit 0x43 f)
  | .vpset u f => some (.ofS u.slot u.unit 0x44 f)
  | .vpcnt u f => some (.ofS u.slot u.unit 0x45 f)
  | .vceq u k f => some (.ofS u.slot u.unit (0x80 + k.toNat) f)
  | .vcne u k f => some (.ofS u.slot u.unit (0x88 + k.toNat) f)
  | .vclt u k f => some (.ofS u.slot u.unit (0x90 + k.toNat) f)
  | .vcle u k f => some (.ofS u.slot u.unit (0x98 + k.toNat) f)
  | .vcltn u k f => some (.ofS u.slot u.unit (0xa0 + k.toNat) f)
  | .vfceq u k f => some (.ofS u.slot u.unit (0xa8 + k.toNat) f)
  | .vfclt u k f => some (.ofS u.slot u.unit (0xb0 + k.toNat) f)
  | .vfcle u k f => some (.ofS u.slot u.unit (0xb8 + k.toNat) f)
  | .mload f => some (.ofT 28 0x1 f)
  | .mpush f => some (.ofT 28 0x2 f)
  | .mpushv f => some (.ofT 28 0x3 f)
  | .mzero f => some (.ofT 28 0x4 f)
  | .mpop f => some (.ofT 28 0x5 f)
  | .mpopx f => some (.ofT 28 0x6 f)
  | .macc f => some (.ofT 28 0x7 f)
  | .mrel f => some (.ofT 28 0x8 f)
  | .tsload f => some (.ofT 29 0x1 f)
  | .tsrun f => some (.ofT 29 0x2 f)
  | .tsstop f => some (.ofT 29 0x3 f)
  | .tsstat f => some (.ofT 29 0x4 f)
  | .xpin f => some (.ofS 6 30 0x1 f)
  | .xpout f => some (.ofS 6 30 0x2 f)
  | .xpclr f => some (.ofS 6 30 0x3 f)
  | .xpmode f => some (.ofS 6 30 0x4 f)
  | .bundleIssue _ => none
  | .contextUnblock _ _ => none
  | .resultLanding _ _ => none
  | .replayReissue _ _ => none
  | .loadLanding _ _ _ => none
  | .walkComplete _ _ => none
  | .pitchRelease _ _ => none
  | .dirtyFifoDrain _ => none
  | .trapDelivery _ _ => none
  | .gatherRowArrival _ _ => none
  | .entryAdmit _ _ => none
  | .promiseLanding _ _ _ => none
  | .promiseMissed _ _ => none
  | .cpyCommand _ _ _ => none
  | .csrCommand _ _ _ => none
  | .pfrCommand _ _ _ => none
  | .zfillCommand _ _ _ => none
  | .qfenceCommand _ _ => none
  | .collCommand _ _ _ => none
  | .evictCommand _ _ _ => none
  | .segmentReplay _ _ _ => none
  | .collTimeout _ _ => none
  | .eqcfgWrite _ _ _ => none
  | .queueDisableComplete _ _ => none
  | .rldRequest _ => none
  | .rldvRequest _ => none
  | .rstRequest _ => none
  | .rstvRequest _ => none
  | .ropRequest _ => none
  | .closeRequest _ => none
  | .rldReply _ => none
  | .rldvReply _ => none
  | .ropReply _ => none
  | .writeAcknowledgement _ => none
  | .summaryReply _ => none
  | .requestTimeout _ => none
  | .tallyExpiry _ _ _ => none
  | .fabslotWrite _ _ => none
  | .migration _ _ => none
  | .migrationHoldTimeout _ => none
  | .itemSend _ => none
  | .itemArrival _ => none
  | .itemAcceptance _ => none
  | .spaceReport _ => none
  | .arrived _ => none
  | .moved _ => none
  | .redirected _ => none
  | .drained _ => none
  | .moduleDownNotice _ => none
  | .ringHostRequest _ => none
  | .journalAppend _ => none
  | .appendAcknowledgement _ => none
  | .orphanHoldoffExpiry _ => none
  | .macroEntryStart _ _ => none
  | .pushRowAdded _ _ => none
  | .operandsConsumed _ _ => none
  | .pushComplete _ _ => none
  | .mloadComplete _ _ => none
  | .sequencerState _ => none
  | .shootdown _ _ => none
  | .shootdownComplete _ => none
  | .genAdvance _ _ => none
  | .onchipSweepComplete _ => none
  | .coreslotChange _ _ => none
  | .blockReassign _ _ => none
  | .sweepVisit _ _ => none
  | .passEnd => none
  | .swctlWrite _ => none
  | .woCreate _ => none
  | .woSeal _ => none
  | .woAdd _ => none
  | .woCancel _ => none
  | .woFree _ => none
  | .launchPacket _ _ _ => none
  | .go _ _ _ => none
  | .dispatchBind _ _ => none
  | .pendingBind _ => none
  | .preRequest _ _ => none
  | .preemptSave _ _ => none
  | .resume _ _ _ => none
  | .redirect _ _ _ => none
  | .kill _ _ _ => none
  | .replyToSaved _ _ _ => none
  | .csave _ _ => none
  | .crest _ _ => none
  | .parityRetry _ => none
  | .laneSwap _ => none
  | .retireRequest _ _ => none
  | .errorLogClear _ _ _ => none
  | .latecntWrite _ => none
  | .authcntWrite _ => none
  | .wldcfgWrite _ _ _ => none
  | .kgen _ _ _ => none
  | .kimp _ _ _ => none
  | .kdrop _ _ _ => none
  | .certw _ _ _ => none
  | .sleepCommand _ _ _ => none
  | .wake _ _ => none
  | .chal => none
  | .cert => none
  | .importKey => none
  | .networkPacketArrival _ => none
  | .hostAccess _ => none
  | .managementFrame _ => none
  | .resetBoot _ => none
  | .powerStepPins _ => none
  | .powerStepDatagram _ => none
  | .ceilingApply => none
  | .powerFail => none
  | .powerReturn _ => none
  | .selfRefreshExpiry => none
  | .registerWrite _ _ _ => none
  | .generalPurposeCoreAccess _ => none
  | .spaceReportSend _ => none
  | .closeNotice _ => none
  | .movedAcknowledgement _ => none
  | .ringHostAnswer _ => none
  | .ringHostTimeout _ => none
  | .jrecRequest _ => none
  | .jrecReply _ => none
  | .releaseMessage _ => none
  | .releaseNotice _ => none
  | .belayNote _ => none
  | .ringCopy _ => none

/-- The operands each slot operation takes, from its description. (DEDUCED, logs 23, 24) -/
def Instr.shape : Instr → Shape
  | .add _ _ => { t := .any, o := .any, w := .opt }
  | .sub _ _ => { t := .any, o := .any, w := .opt }
  | .and _ _ => { t := .any, o := .any, w := .opt }
  | .or _ _ => { t := .any, o := .any, w := .opt }
  | .xor _ _ => { t := .any, o := .any, w := .opt }
  | .andn _ _ => { t := .any, o := .any, w := .opt }
  | .orn _ _ => { t := .any, o := .any, w := .opt }
  | .shl _ _ => { t := .any, o := .any, w := .opt }
  | .shr _ _ => { t := .any, o := .any, w := .opt }
  | .sra _ _ => { t := .any, o := .any, w := .opt }
  | .ror _ _ => { t := .any, o := .any, w := .opt }
  | .min _ _ => { t := .any, o := .any, w := .opt }
  | .max _ _ => { t := .any, o := .any, w := .opt }
  | .minn _ _ => { t := .any, o := .any, w := .opt }
  | .maxn _ _ => { t := .any, o := .any, w := .opt }
  | .sel _ _ => { t := .any, o := .any, readsL := true, w := .opt }
  | .sext8 _ _ => { t := .any, w := .opt }
  | .sext16 _ _ => { t := .any, w := .opt }
  | .sext32 _ _ => { t := .any, w := .opt }
  | .zext8 _ _ => { t := .any, w := .opt }
  | .zext16 _ _ => { t := .any, w := .opt }
  | .zext32 _ _ => { t := .any, w := .opt }
  | .clz _ _ => { t := .any, w := .opt }
  | .ctz _ _ => { t := .any, w := .opt }
  | .popc _ _ => { t := .any, w := .opt }
  | .bfx _ _ => { t := .any, o := .any, w := .opt }
  | .bfi _ _ => { t := .any, o := .any, readsL := true, w := .opt }
  | .addsh _ _ => { t := .any, o := .any, readsL := true, w := .opt }
  | .ceq _ _ _ => { t := .any, o := .any, w := .opt }
  | .cne _ _ _ => { t := .any, o := .any, w := .opt }
  | .clt _ _ _ => { t := .any, o := .any, w := .opt }
  | .cle _ _ _ => { t := .any, o := .any, w := .opt }
  | .cltn _ _ _ => { t := .any, o := .any, w := .opt }
  | .clen _ _ _ => { t := .any, o := .any, w := .opt }
  | .mul _ => { t := .any, o := .any, w := .opt }
  | .mulh _ => { t := .any, o := .any, w := .opt }
  | .mulhn _ => { t := .any, o := .any, w := .opt }
  | .div _ => { t := .any, o := .any, w := .opt }
  | .divn _ => { t := .any, o := .any, w := .opt }
  | .rem _ => { t := .any, o := .any, w := .opt }
  | .remn _ => { t := .any, o := .any, w := .opt }
  | .pand _ _ => { t := .bool, o := .bool }
  | .por _ _ => { t := .bool, o := .bool }
  | .pxor _ _ => { t := .bool, o := .bool }
  | .pnot _ _ => { t := .bool }
  | .pset _ _ => { t := .bool }
  | .vany _ _ => { t := .vecP }
  | .vall _ _ => { t := .vecP }
  | .br _ => { t := .any }
  | .call _ => { t := .any }
  | .ret _ => { t := .zero }
  | .bix _ => { t := .any, o := .any }
  | .lset _ _ => { t := .any, o := .any, readsL := true }
  | .lrot _ => { t := .any }
  | .lbrk _ _ => { t := .zero }
  | .trap _ => { t := .any }
  | .tret _ => { t := .zero }
  | .exit _ => { t := .any }
  | .yield _ => { t := .zero }
  | .sleep _ => { t := .any }
  | .brk _ => { t := .any }
  | .sset _ => { t := .any, o := .any }
  | .sadd _ => { t := .any, o := .any }
  | .stake _ => { t := .any, o := .any, w := .opt }
  | .swait _ => { t := .any, o := .any, w := .opt }
  | .fork _ => { t := .vec }
  | .join _ => { t := .any, w := .join }
  | .jadd _ => { t := .any, o := .any }
  | .wcan _ => { t := .any, w := .opt }
  | .wdone _ => { t := .any }
  | .gpush _ => { t := .any, o := .handle }
  | .gpop _ => { t := .zero }
  | .ldb _ _ => { t := .any, w := .opt, disp := true }
  | .ldh _ _ => { t := .any, w := .opt, disp := true }
  | .ldw _ _ => { t := .any, w := .opt, disp := true }
  | .ldd _ _ => { t := .any, w := .opt, disp := true }
  | .ldbn _ _ => { t := .any, w := .opt, disp := true }
  | .ldhn _ _ => { t := .any, w := .opt, disp := true }
  | .ldwn _ _ => { t := .any, w := .opt, disp := true }
  | .stb _ => { t := .any, disp := true }
  | .sth _ => { t := .any, disp := true }
  | .stw _ => { t := .any, disp := true }
  | .std _ => { t := .any, disp := true }
  | .vld _ _ _ => { t := .any, w := .opt, disp := true }
  | .vst _ _ => { t := .wide, disp := true }
  | .vlds _ _ => { t := .any, w := .opt, disp := true }
  | .vsts _ => { t := .wide, disp := true }
  | .vldx _ _ => { t := .wide, w := .opt, disp := true }
  | .vstx _ => { t := .wide, disp := true }
  | .fewait _ => { t := .any, disp := true }
  | .feclr _ => { t := .any, disp := true }
  | .feset _ => { t := .any, disp := true }
  | .fetst _ => { t := .any, w := .opt, disp := true }
  | .rel _ _ => { t := .zero }
  | .acq _ _ => { t := .zero }
  | .cwb _ => { t := .any, disp := true }
  | .cinv _ => { t := .any, disp := true }
  | .xlat _ => { t := .any, noH15 := true }
  | .hdrop _ => { t := .zero, noH15 := true }
  | .hchk _ => { t := .zero, w := .req }
  | .aadd _ _ => { t := .any, w := .opt, disp := true }
  | .aand _ _ => { t := .any, w := .opt, disp := true }
  | .aor _ _ => { t := .any, w := .opt, disp := true }
  | .axor _ _ => { t := .any, w := .opt, disp := true }
  | .axchg _ _ => { t := .any, w := .opt, disp := true }
  | .acas _ _ => { t := .any, w := .opt, disp := true }
  | .amax _ _ => { t := .any, w := .opt, disp := true }
  | .cpy _ _ => { t := .vec, w := .opt }
  | .csr _ _ => { t := .vec, w := .opt }
  | .pfr _ _ => { t := .vec, w := .opt }
  | .zfill _ _ => { t := .vec, w := .opt }
  | .qfence _ _ => { t := .vec, w := .opt }
  | .coll _ _ => { t := .vec, w := .opt }
  | .evict _ _ => { t := .vec, w := .opt }
  | .cstat _ _ => { t := .zero, w := .opt }
  | .rld _ => { t := .any, w := .opt, disp := true }
  | .rldv _ => { t := .any, w := .opt, disp := true }
  | .rst _ _ => { t := .any, disp := true }
  | .rstv _ _ => { t := .vec, disp := true }
  | .rop _ => { t := .vec, w := .opt, disp := true }
  | .bclose _ _ => { t := .any, w := .opt }
  | .rdrain _ => { t := .zero }
  | .sopen _ => { t := .noHandle, w := .opt }
  | .sclose _ => { t := .noHandle }
  | .ssend _ => { t := .vec, w := .opt }
  | .srecv _ => { t := .noHandle, w := .opt }
  | .spoll _ => { t := .noHandle, w := .opt }
  | .sxfer _ => { t := .noHandle, w := .opt }
  | .sstat _ => { t := .noHandle, w := .opt }
  | .jopen _ => { t := .vec, w := .opt }
  | .jrec _ => { t := .noHandle, w := .opt }
  | .jemit _ => { t := .vec, w := .opt }
  | .jtrunc _ => { t := .noHandle }
  | .jpart _ => { t := .noHandle, w := .opt }
  | .jrep _ => { t := .noHandle, w := .opt }
  | .jstat _ => { t := .noHandle, w := .opt }
  | .vadd _ _ => { t := .vec, o := .vec, w := .opt }
  | .vsub _ _ => { t := .vec, o := .vec, w := .opt }
  | .vmul _ _ => { t := .vec, o := .vec, w := .opt }
  | .vmulh _ _ => { t := .vec, o := .vec, w := .opt }
  | .vmin _ _ => { t := .vec, o := .vec, w := .opt }
  | .vmax _ _ => { t := .vec, o := .vec, w := .opt }
  | .vminn _ _ => { t := .vec, o := .vec, w := .opt }
  | .vmaxn _ _ => { t := .vec, o := .vec, w := .opt }
  | .vand _ _ => { t := .vec, o := .vec, w := .opt }
  | .vor _ _ => { t := .vec, o := .vec, w := .opt }
  | .vxor _ _ => { t := .vec, o := .vec, w := .opt }
  | .vandn _ _ => { t := .vec, o := .vec, w := .opt }
  | .vshl _ _ => { t := .vec, o := .vec, w := .opt }
  | .vshr _ _ => { t := .vec, o := .vec, w := .opt }
  | .vsra _ _ => { t := .vec, o := .vec, w := .opt }
  | .vabs _ _ => { t := .vec, w := .opt }
  | .vadds _ _ => { t := .vec, o := .vec, w := .opt }
  | .vsubs _ _ => { t := .vec, o := .vec, w := .opt }
  | .vfadd _ _ => { t := .vec, o := .vec, w := .opt }
  | .vfsub _ _ => { t := .vec, o := .vec, w := .opt }
  | .vfmul _ _ => { t := .vec, o := .vec, w := .opt }
  | .vfma _ _ => { t := .vec, o := .vec, readsL := true, w := .opt }
  | .vfnma _ _ => { t := .vec, o := .vec, readsL := true, w := .opt }
  | .vfmin _ _ => { t := .vec, o := .vec, w := .opt }
  | .vfmax _ _ => { t := .vec, o := .vec, w := .opt }
  | .vrcp _ _ => { t := .vec, w := .opt }
  | .vrsq _ _ => { t := .vec, w := .opt }
  | .vexp2 _ _ => { t := .vec, w := .opt }
  | .vlog2 _ _ => { t := .vec, w := .opt }
  | .vtanh _ _ => { t := .vec, w := .opt }
  | .vscale _ _ => { t := .vec, o := .any, w := .opt }
  | .vtag _ _ => { t := .vec, o := .any, w := .opt }
  | .vcvt _ fmt _ => if fmt = 12 then { t := .vec, w := .opt } else { t := .vec, o := .any, w := .opt }
  | .vsplat _ _ => { t := .vec, o := .any, w := .opt }
  | .vins _ _ => { t := .vec, o := .any, readsL := true, w := .opt }
  | .vext _ _ => { t := .vec, o := .any, w := .opt }
  | .vperm _ _ => { t := .vec, o := .vec, w := .opt }
  | .vrot _ _ => { t := .vec, o := .any, w := .opt }
  | .vsel _ _ => { t := .vec, o := .vec, readsL := true, w := .opt }
  | .vcomp _ _ => { t := .vec, w := .opt }
  | .vsum _ _ => { t := .vec, w := .opt }
  | .vmaxr _ _ => { t := .vec, w := .opt }
  | .vargmax _ _ => { t := .vec, w := .opt }
  | .vrng _ _ => { t := .any, o := .any, w := .opt }
  | .vsample _ _ => { t := .vec, o := .any, w := .opt }
  | .vpand _ _ => { t := .vecP, o := .vecP, w := .opt }
  | .vpor _ _ => { t := .vecP, o := .vecP, w := .opt }
  | .vpxor _ _ => { t := .vecP, o := .vecP, w := .opt }
  | .vpnot _ _ => { t := .vecP, w := .opt }
  | .vpset _ _ => { t := .vecP, w := .opt }
  | .vpcnt _ _ => { t := .vecP, w := .opt }
  | .vceq _ _ _ => { t := .vec, o := .vec, w := .opt }
  | .vcne _ _ _ => { t := .vec, o := .vec, w := .opt }
  | .vclt _ _ _ => { t := .vec, o := .vec, w := .opt }
  | .vcle _ _ _ => { t := .vec, o := .vec, w := .opt }
  | .vcltn _ _ _ => { t := .vec, o := .vec, w := .opt }
  | .vfceq _ _ _ => { t := .vec, o := .vec, w := .opt }
  | .vfclt _ _ _ => { t := .vec, o := .vec, w := .opt }
  | .vfcle _ _ _ => { t := .vec, o := .vec, w := .opt }
  | .mload _ => { t := .scalar, modes := 2 }
  | .mpush _ => { t := .scalar, modes := 2 }
  | .mpushv _ => { t := .vec, modes := 2 }
  | .mzero _ => { t := .zero, modes := 1 }
  | .mpop _ => { t := .scalar, modes := 1 }
  | .mpopx _ => { t := .scalar, modes := 2 }
  | .macc _ => { t := .vec, modes := 2 }
  | .mrel _ => { t := .zero, modes := 2 }
  | .tsload _ => { t := .any }
  | .tsrun _ => { t := .any }
  | .tsstop _ => { t := .zero }
  | .tsstat _ => { t := .zero }
  | .xpin _ => { t := .vec }
  | .xpout _ => { t := .zero, w := .opt }
  | .xpclr _ => { t := .zero }
  | .xpmode _ => { t := .any }
  | .nop => { t := .any }
  | .move _ => { t := .any }
  | .moveSplat _ => { t := .any }
  | .moveHi _ => { t := .any }
  | .bundleIssue _ => { t := .any }
  | .contextUnblock _ _ => { t := .any }
  | .resultLanding _ _ => { t := .any }
  | .replayReissue _ _ => { t := .any }
  | .loadLanding _ _ _ => { t := .any }
  | .walkComplete _ _ => { t := .any }
  | .pitchRelease _ _ => { t := .any }
  | .dirtyFifoDrain _ => { t := .any }
  | .trapDelivery _ _ => { t := .any }
  | .gatherRowArrival _ _ => { t := .any }
  | .entryAdmit _ _ => { t := .any }
  | .promiseLanding _ _ _ => { t := .any }
  | .promiseMissed _ _ => { t := .any }
  | .cpyCommand _ _ _ => { t := .any }
  | .csrCommand _ _ _ => { t := .any }
  | .pfrCommand _ _ _ => { t := .any }
  | .zfillCommand _ _ _ => { t := .any }
  | .qfenceCommand _ _ => { t := .any }
  | .collCommand _ _ _ => { t := .any }
  | .evictCommand _ _ _ => { t := .any }
  | .segmentReplay _ _ _ => { t := .any }
  | .collTimeout _ _ => { t := .any }
  | .eqcfgWrite _ _ _ => { t := .any }
  | .queueDisableComplete _ _ => { t := .any }
  | .rldRequest _ => { t := .any }
  | .rldvRequest _ => { t := .any }
  | .rstRequest _ => { t := .any }
  | .rstvRequest _ => { t := .any }
  | .ropRequest _ => { t := .any }
  | .closeRequest _ => { t := .any }
  | .rldReply _ => { t := .any }
  | .rldvReply _ => { t := .any }
  | .ropReply _ => { t := .any }
  | .writeAcknowledgement _ => { t := .any }
  | .summaryReply _ => { t := .any }
  | .requestTimeout _ => { t := .any }
  | .tallyExpiry _ _ _ => { t := .any }
  | .fabslotWrite _ _ => { t := .any }
  | .migration _ _ => { t := .any }
  | .migrationHoldTimeout _ => { t := .any }
  | .itemSend _ => { t := .any }
  | .itemArrival _ => { t := .any }
  | .itemAcceptance _ => { t := .any }
  | .spaceReport _ => { t := .any }
  | .arrived _ => { t := .any }
  | .moved _ => { t := .any }
  | .redirected _ => { t := .any }
  | .drained _ => { t := .any }
  | .moduleDownNotice _ => { t := .any }
  | .ringHostRequest _ => { t := .any }
  | .journalAppend _ => { t := .any }
  | .appendAcknowledgement _ => { t := .any }
  | .orphanHoldoffExpiry _ => { t := .any }
  | .macroEntryStart _ _ => { t := .any }
  | .pushRowAdded _ _ => { t := .any }
  | .operandsConsumed _ _ => { t := .any }
  | .pushComplete _ _ => { t := .any }
  | .mloadComplete _ _ => { t := .any }
  | .sequencerState _ => { t := .any }
  | .shootdown _ _ => { t := .any }
  | .shootdownComplete _ => { t := .any }
  | .genAdvance _ _ => { t := .any }
  | .onchipSweepComplete _ => { t := .any }
  | .coreslotChange _ _ => { t := .any }
  | .blockReassign _ _ => { t := .any }
  | .sweepVisit _ _ => { t := .any }
  | .passEnd => { t := .any }
  | .swctlWrite _ => { t := .any }
  | .woCreate _ => { t := .any }
  | .woSeal _ => { t := .any }
  | .woAdd _ => { t := .any }
  | .woCancel _ => { t := .any }
  | .woFree _ => { t := .any }
  | .launchPacket _ _ _ => { t := .any }
  | .go _ _ _ => { t := .any }
  | .dispatchBind _ _ => { t := .any }
  | .pendingBind _ => { t := .any }
  | .preRequest _ _ => { t := .any }
  | .preemptSave _ _ => { t := .any }
  | .resume _ _ _ => { t := .any }
  | .redirect _ _ _ => { t := .any }
  | .kill _ _ _ => { t := .any }
  | .replyToSaved _ _ _ => { t := .any }
  | .csave _ _ => { t := .any }
  | .crest _ _ => { t := .any }
  | .parityRetry _ => { t := .any }
  | .laneSwap _ => { t := .any }
  | .retireRequest _ _ => { t := .any }
  | .errorLogClear _ _ _ => { t := .any }
  | .latecntWrite _ => { t := .any }
  | .authcntWrite _ => { t := .any }
  | .wldcfgWrite _ _ _ => { t := .any }
  | .kgen _ _ _ => { t := .any }
  | .kimp _ _ _ => { t := .any }
  | .kdrop _ _ _ => { t := .any }
  | .certw _ _ _ => { t := .any }
  | .sleepCommand _ _ _ => { t := .any }
  | .wake _ _ => { t := .any }
  | .chal => { t := .any }
  | .cert => { t := .any }
  | .importKey => { t := .any }
  | .networkPacketArrival _ => { t := .any }
  | .hostAccess _ => { t := .any }
  | .managementFrame _ => { t := .any }
  | .resetBoot _ => { t := .any }
  | .powerStepPins _ => { t := .any }
  | .powerStepDatagram _ => { t := .any }
  | .ceilingApply => { t := .any }
  | .powerFail => { t := .any }
  | .powerReturn _ => { t := .any }
  | .selfRefreshExpiry => { t := .any }
  | .registerWrite _ _ _ => { t := .any }
  | .generalPurposeCoreAccess _ => { t := .any }
  | .spaceReportSend _ => { t := .any }
  | .closeNotice _ => { t := .any }
  | .movedAcknowledgement _ => { t := .any }
  | .ringHostAnswer _ => { t := .any }
  | .ringHostTimeout _ => { t := .any }
  | .jrecRequest _ => { t := .any }
  | .jrecReply _ => { t := .any }
  | .releaseMessage _ => { t := .any }
  | .releaseNotice _ => { t := .any }
  | .belayNote _ => { t := .any }
  | .ringCopy _ => { t := .any }

/-- The modifier bits an operation's constructor may hold (R74, R76, R78, R81): a value the opcode table does not
define has no OP. -/
def Instr.opDefined : Instr → Bool
  | .add _ _ => true
  | .sub _ _ => true
  | .and _ _ => true
  | .or _ _ => true
  | .xor _ _ => true
  | .andn _ _ => true
  | .orn _ _ => true
  | .shl _ _ => true
  | .shr _ _ => true
  | .sra _ _ => true
  | .ror _ _ => true
  | .min _ _ => true
  | .max _ _ => true
  | .minn _ _ => true
  | .maxn _ _ => true
  | .sel _ _ => true
  | .sext8 _ _ => true
  | .sext16 _ _ => true
  | .sext32 _ _ => true
  | .zext8 _ _ => true
  | .zext16 _ _ => true
  | .zext32 _ _ => true
  | .clz _ _ => true
  | .ctz _ _ => true
  | .popc _ _ => true
  | .bfx _ _ => true
  | .bfi _ _ => true
  | .addsh _ _ => true
  | .ceq _ _ _ => true
  | .cne _ _ _ => true
  | .clt _ _ _ => true
  | .cle _ _ _ => true
  | .cltn _ _ _ => true
  | .clen _ _ _ => true
  | .mul _ => true
  | .mulh _ => true
  | .mulhn _ => true
  | .div _ => true
  | .divn _ => true
  | .rem _ => true
  | .remn _ => true
  | .pand d _ => d != 0
  | .por d _ => d != 0
  | .pxor d _ => d != 0
  | .pnot d _ => d != 0
  | .pset d _ => d != 0
  | .vany d _ => d != 0
  | .vall d _ => d != 0
  | .br _ => true
  | .call _ => true
  | .ret _ => true
  | .bix _ => true
  | .lset _ _ => true
  | .lrot _ => true
  | .lbrk _ _ => true
  | .trap _ => true
  | .tret _ => true
  | .exit _ => true
  | .yield _ => true
  | .sleep _ => true
  | .brk _ => true
  | .sset _ => true
  | .sadd _ => true
  | .stake _ => true
  | .swait _ => true
  | .fork _ => true
  | .join _ => true
  | .jadd _ => true
  | .wcan _ => true
  | .wdone _ => true
  | .gpush _ => true
  | .gpop _ => true
  | .ldb _ _ => true
  | .ldh _ _ => true
  | .ldw _ _ => true
  | .ldd _ _ => true
  | .ldbn _ _ => true
  | .ldhn _ _ => true
  | .ldwn _ _ => true
  | .stb _ => true
  | .sth _ => true
  | .stw _ => true
  | .std _ => true
  | .vld fmt _ _ => 1 ≤ fmt.toNat && fmt.toNat ≤ 12
  | .vst fmt _ => 1 ≤ fmt.toNat && fmt.toNat ≤ 12
  | .vlds _ _ => true
  | .vsts _ => true
  | .vldx _ _ => true
  | .vstx _ => true
  | .fewait _ => true
  | .feclr _ => true
  | .feset _ => true
  | .fetst _ => true
  | .rel _ _ => true
  | .acq _ _ => true
  | .cwb _ => true
  | .cinv _ => true
  | .xlat _ => true
  | .hdrop _ => true
  | .hchk _ => true
  | .aadd sc _ => sc == .k || sc == .d || sc == .v
  | .aand sc _ => sc == .k || sc == .d || sc == .v
  | .aor sc _ => sc == .k || sc == .d || sc == .v
  | .axor sc _ => sc == .k || sc == .d || sc == .v
  | .axchg sc _ => sc == .k || sc == .d || sc == .v
  | .acas sc _ => sc == .k || sc == .d || sc == .v
  | .amax sc _ => sc == .k || sc == .d || sc == .v
  | .cpy _ _ => true
  | .csr _ _ => true
  | .pfr _ _ => true
  | .zfill _ _ => true
  | .qfence _ _ => true
  | .coll _ _ => true
  | .evict _ _ => true
  | .cstat _ _ => true
  | .rld _ => true
  | .rldv _ => true
  | .rst _ _ => true
  | .rstv _ _ => true
  | .rop _ => true
  | .bclose _ _ => true
  | .rdrain _ => true
  | .sopen _ => true
  | .sclose _ => true
  | .ssend _ => true
  | .srecv _ => true
  | .spoll _ => true
  | .sxfer _ => true
  | .sstat _ => true
  | .jopen _ => true
  | .jrec _ => true
  | .jemit _ => true
  | .jtrunc _ => true
  | .jpart _ => true
  | .jrep _ => true
  | .jstat _ => true
  | .vadd _ _ => true
  | .vsub _ _ => true
  | .vmul _ _ => true
  | .vmulh _ _ => true
  | .vmin _ _ => true
  | .vmax _ _ => true
  | .vminn _ _ => true
  | .vmaxn _ _ => true
  | .vand _ _ => true
  | .vor _ _ => true
  | .vxor _ _ => true
  | .vandn _ _ => true
  | .vshl _ _ => true
  | .vshr _ _ => true
  | .vsra _ _ => true
  | .vabs _ _ => true
  | .vadds _ _ => true
  | .vsubs _ _ => true
  | .vfadd _ _ => true
  | .vfsub _ _ => true
  | .vfmul _ _ => true
  | .vfma _ _ => true
  | .vfnma _ _ => true
  | .vfmin _ _ => true
  | .vfmax _ _ => true
  | .vrcp _ _ => true
  | .vrsq _ _ => true
  | .vexp2 _ _ => true
  | .vlog2 _ _ => true
  | .vtanh _ _ => true
  | .vscale _ _ => true
  | .vtag _ _ => true
  | .vcvt _ fmt _ => 1 ≤ fmt.toNat && fmt.toNat ≤ 12
  | .vsplat _ _ => true
  | .vins _ _ => true
  | .vext _ _ => true
  | .vperm _ _ => true
  | .vrot _ _ => true
  | .vsel _ _ => true
  | .vcomp _ _ => true
  | .vsum _ _ => true
  | .vmaxr _ _ => true
  | .vargmax _ _ => true
  | .vrng _ _ => true
  | .vsample _ _ => true
  | .vpand _ _ => true
  | .vpor _ _ => true
  | .vpxor _ _ => true
  | .vpnot _ _ => true
  | .vpset _ _ => true
  | .vpcnt _ _ => true
  | .vceq _ _ _ => true
  | .vcne _ _ _ => true
  | .vclt _ _ _ => true
  | .vcle _ _ _ => true
  | .vcltn _ _ _ => true
  | .vfceq _ _ _ => true
  | .vfclt _ _ _ => true
  | .vfcle _ _ _ => true
  | .mload _ => true
  | .mpush _ => true
  | .mpushv _ => true
  | .mzero _ => true
  | .mpop _ => true
  | .mpopx _ => true
  | .macc _ => true
  | .mrel _ => true
  | .tsload _ => true
  | .tsrun _ => true
  | .tsstop _ => true
  | .tsstat _ => true
  | .xpin _ => true
  | .xpout _ => true
  | .xpclr _ => true
  | .xpmode _ => true
  | .nop => true
  | .move _ => true
  | .moveSplat _ => true
  | .moveHi _ => true
  | .bundleIssue _ => true
  | .contextUnblock _ _ => true
  | .resultLanding _ _ => true
  | .replayReissue _ _ => true
  | .loadLanding _ _ _ => true
  | .walkComplete _ _ => true
  | .pitchRelease _ _ => true
  | .dirtyFifoDrain _ => true
  | .trapDelivery _ _ => true
  | .gatherRowArrival _ _ => true
  | .entryAdmit _ _ => true
  | .promiseLanding _ _ _ => true
  | .promiseMissed _ _ => true
  | .cpyCommand _ _ _ => true
  | .csrCommand _ _ _ => true
  | .pfrCommand _ _ _ => true
  | .zfillCommand _ _ _ => true
  | .qfenceCommand _ _ => true
  | .collCommand _ _ _ => true
  | .evictCommand _ _ _ => true
  | .segmentReplay _ _ _ => true
  | .collTimeout _ _ => true
  | .eqcfgWrite _ _ _ => true
  | .queueDisableComplete _ _ => true
  | .rldRequest _ => true
  | .rldvRequest _ => true
  | .rstRequest _ => true
  | .rstvRequest _ => true
  | .ropRequest _ => true
  | .closeRequest _ => true
  | .rldReply _ => true
  | .rldvReply _ => true
  | .ropReply _ => true
  | .writeAcknowledgement _ => true
  | .summaryReply _ => true
  | .requestTimeout _ => true
  | .tallyExpiry _ _ _ => true
  | .fabslotWrite _ _ => true
  | .migration _ _ => true
  | .migrationHoldTimeout _ => true
  | .itemSend _ => true
  | .itemArrival _ => true
  | .itemAcceptance _ => true
  | .spaceReport _ => true
  | .arrived _ => true
  | .moved _ => true
  | .redirected _ => true
  | .drained _ => true
  | .moduleDownNotice _ => true
  | .ringHostRequest _ => true
  | .journalAppend _ => true
  | .appendAcknowledgement _ => true
  | .orphanHoldoffExpiry _ => true
  | .macroEntryStart _ _ => true
  | .pushRowAdded _ _ => true
  | .operandsConsumed _ _ => true
  | .pushComplete _ _ => true
  | .mloadComplete _ _ => true
  | .sequencerState _ => true
  | .shootdown _ _ => true
  | .shootdownComplete _ => true
  | .genAdvance _ _ => true
  | .onchipSweepComplete _ => true
  | .coreslotChange _ _ => true
  | .blockReassign _ _ => true
  | .sweepVisit _ _ => true
  | .passEnd => true
  | .swctlWrite _ => true
  | .woCreate _ => true
  | .woSeal _ => true
  | .woAdd _ => true
  | .woCancel _ => true
  | .woFree _ => true
  | .launchPacket _ _ _ => true
  | .go _ _ _ => true
  | .dispatchBind _ _ => true
  | .pendingBind _ => true
  | .preRequest _ _ => true
  | .preemptSave _ _ => true
  | .resume _ _ _ => true
  | .redirect _ _ _ => true
  | .kill _ _ _ => true
  | .replyToSaved _ _ _ => true
  | .csave _ _ => true
  | .crest _ _ => true
  | .parityRetry _ => true
  | .laneSwap _ => true
  | .retireRequest _ _ => true
  | .errorLogClear _ _ _ => true
  | .latecntWrite _ => true
  | .authcntWrite _ => true
  | .wldcfgWrite _ _ _ => true
  | .kgen _ _ _ => true
  | .kimp _ _ _ => true
  | .kdrop _ _ _ => true
  | .certw _ _ _ => true
  | .sleepCommand _ _ _ => true
  | .wake _ _ => true
  | .chal => true
  | .cert => true
  | .importKey => true
  | .networkPacketArrival _ => true
  | .hostAccess _ => true
  | .managementFrame _ => true
  | .resetBoot _ => true
  | .powerStepPins _ => true
  | .powerStepDatagram _ => true
  | .ceilingApply => true
  | .powerFail => true
  | .powerReturn _ => true
  | .selfRefreshExpiry => true
  | .registerWrite _ _ _ => true
  | .generalPurposeCoreAccess _ => true
  | .spaceReportSend _ => true
  | .closeNotice _ => true
  | .movedAcknowledgement _ => true
  | .ringHostAnswer _ => true
  | .ringHostTimeout _ => true
  | .jrecRequest _ => true
  | .jrecReply _ => true
  | .releaseMessage _ => true
  | .releaseNotice _ => true
  | .belayNote _ => true
  | .ringCopy _ => true

/-- The encoding traps a slot can raise (R83, step 3): the illegal-form trap of a reserved field that is not zero is the
unit's own (R4). -/
inductive EncFail | port | opcode | form | slot | reserved (unit : Nat)
  deriving DecidableEq, Repr

/-- The kinds T may have. -/
def TKind.accepts : TKind → BitVec 9 → Bool
  | .zero, p => p == 0
  | .any, _ => true
  | .scalar, p => srcKind p == some .scalar
  | .noHandle, p => srcKind p != some .handle
  | .vec, p => srcKind p == some .vector
  | .bool, p => srcKind p != some .handle && srcKind p != some .vpred
  | .vecP, p => srcKind p != some .handle
  | .wide, p => srcKind p != some .handle && srcKind p != some .pred

/-- The kinds an O port may have. -/
def OKind.accepts : OKind → BitVec 9 → Bool
  | .none, p => p == 0
  | .any, _ => true
  | .vec, p => srcKind p == some .vector || srcKind p == some .scalar
  | .bool, p => srcKind p != some .handle && srcKind p != some .vpred
  | .vecP, p => srcKind p != some .handle
  | .handle, p => srcKind p == some .handle

/-- The values W may have. -/
def WKind.accepts : WKind → BitVec 6 → Bool
  | .none, w => w == 0
  | .opt, _ => true
  | .req, w => w != 0
  | .join, w => 1 ≤ w.toNat && w.toNat ≤ 60

/-- The pairs of kinds a plain move with modifier OP may join (R65, R66). -/
def moveKinds (op : Nat) (s : Kind) (d : DstKind) : Bool :=
  match op, s, d with
  | 0, .scalar, .handle => false
  | 0, .scalar, _ => true
  | 0, .vector, .handle => false
  | 0, .vector, _ => true
  | 0, .pred, .wide => false
  | 0, .pred, .handle => false
  | 0, .pred, _ => true
  | 0, .vpred, .pred => false
  | 0, .vpred, .handle => false
  | 0, .vpred, _ => true
  | 0, .handle, .scalar => true
  | 0, .handle, .handle => true
  | 1, .scalar, .wide => true
  | 2, .vpred, .scalar => true
  | 2, .scalar, .vpred => true
  | _, _, _ => false

/-- Step 3.6 of R83 for one operation: AUX and modifier combinations (R65, R66, R69, R70). -/
def formOk (v : View) (sh : Shape) : Bool :=
  sh.t.accepts v.src &&
  match v.aux with
  | .s f =>
    (if f.ol then f.o == 0 && sh.o != .none && sh.o != .handle && !sh.readsL else sh.o.accepts f.o) &&
    sh.w.accepts f.w
  | .m f => (sh.disp || f.disp == 0) && !(sh.noH15 && f.h == 15) && sh.w.accepts f.w
  | .t f => decide (f.mode.toNat < sh.modes)
  | .move =>
    match srcKind v.src, dstKind v.dst with
    | some s, some d => moveKinds v.op s d
    | _, _ => false

/-- AUX 8:0 of this slot is a source port (R62): format S or V, the operation reads O, OL = 0. -/
def oPort (a : Aux) (sh : Shape) : Option (BitVec 9) :=
  match a with
  | .s f => if sh.o ≠ .none ∧ ¬ f.ol then some f.o else none
  | _ => none

/-- The checks of R83 on one slot, in their order. -/
def slotCheck (v : View) (sh : Shape) (opOk extra : Bool) : Option EncFail :=
  if (v.slot = 3 ∨ v.slot = 4) ∧ 15 < v.g.gp.toNat then some .form
  else if srcKind v.src = none then some .port
  else if ((oPort v.aux sh).map srcKind).getD (some .scalar) = none then some .port
  else if dstKind v.dst = none then some .port
  else if !opOk then some .opcode
  else if !(formOk v sh && extra) then some .form
  else none

/-- A check that looks at the operation itself: mload in MODE 1 needs b < 64 (R226), a plain move does not name a
trigger port (R65), and a slot of zeros is the no-op and no move (R61). -/
def Instr.extraOk : Instr → Bool
  | .mload f => f.mode != 1 || decide (f.b.toNat < 64)
  | .move m => (match dstKind m.dst with | some (.trigger _) => false | _ => decide (m.slot.toNat < 7)) &&
      !(m.g == ⟨0, false⟩ && m.src == 0 && m.dst == 0)
  | .moveSplat m => match dstKind m.dst with | some (.trigger _) => false | _ => decide (m.slot.toNat < 7)
  | .moveHi m => match dstKind m.dst with | some (.trigger _) => false | _ => decide (m.slot.toNat < 7)
  | _ => true

/-- The first encoding check an instruction fails (R83); none for an event. -/
def Instr.check (i : Instr) : Option EncFail :=
  match i.view with
  | none => none
  | some v => slotCheck v i.shape i.opDefined i.extraOk

/-- The parts an event names exist: 128 cores of 4 contexts (R11), 8 queues (R265), 8 pending entries (R374),
16 macros (R18), 128 B slots. -/
def Instr.eventOk : Instr → Bool
  | .bundleIssue core => decide (core < 128)
  | .contextUnblock core ctx => decide (core < 128) && decide (ctx < 4)
  | .resultLanding core ctx => decide (core < 128) && decide (ctx < 4)
  | .replayReissue core ctx => decide (core < 128) && decide (ctx < 4)
  | .loadLanding core ctx _ => decide (core < 128) && decide (ctx < 4)
  | .walkComplete core _ => decide (core < 128)
  | .pitchRelease core ctx => decide (core < 128) && decide (ctx < 4)
  | .dirtyFifoDrain core => decide (core < 128)
  | .trapDelivery core ctx => decide (core < 128) && decide (ctx < 4)
  | .gatherRowArrival core ctx => decide (core < 128) && decide (ctx < 4)
  | .entryAdmit core q => decide (core < 128) && decide (q < 8)
  | .promiseLanding core ctx _ => decide (core < 128) && decide (ctx < 4)
  | .promiseMissed core q => decide (core < 128) && decide (q < 8)
  | .cpyCommand core q _ => decide (core < 128) && decide (q < 8)
  | .csrCommand core q _ => decide (core < 128) && decide (q < 8)
  | .pfrCommand core q _ => decide (core < 128) && decide (q < 8)
  | .zfillCommand core q _ => decide (core < 128) && decide (q < 8)
  | .qfenceCommand core q => decide (core < 128) && decide (q < 8)
  | .collCommand core q _ => decide (core < 128) && decide (q < 8)
  | .evictCommand core q _ => decide (core < 128) && decide (q < 8)
  | .segmentReplay core q _ => decide (core < 128) && decide (q < 8)
  | .collTimeout core q => decide (core < 128) && decide (q < 8)
  | .eqcfgWrite core q _ => decide (core < 128) && decide (q < 8)
  | .queueDisableComplete core q => decide (core < 128) && decide (q < 8)
  | .rldRequest _ => true
  | .rldvRequest _ => true
  | .rstRequest _ => true
  | .rstvRequest _ => true
  | .ropRequest _ => true
  | .closeRequest _ => true
  | .rldReply _ => true
  | .rldvReply _ => true
  | .ropReply _ => true
  | .writeAcknowledgement _ => true
  | .summaryReply _ => true
  | .requestTimeout tag => decide (tag < 4096)
  | .tallyExpiry _ _ _ => true
  | .fabslotWrite _ _ => true
  | .migration _ _ => true
  | .migrationHoldTimeout _ => true
  | .itemSend _ => true
  | .itemArrival _ => true
  | .itemAcceptance _ => true
  | .spaceReport _ => true
  | .arrived _ => true
  | .moved _ => true
  | .redirected _ => true
  | .drained _ => true
  | .moduleDownNotice _ => true
  | .ringHostRequest _ => true
  | .journalAppend _ => true
  | .appendAcknowledgement _ => true
  | .orphanHoldoffExpiry _ => true
  | .macroEntryStart core cim => decide (core < 128) && decide (cim < 16)
  | .pushRowAdded core _ => decide (core < 128)
  | .operandsConsumed core _ => decide (core < 128)
  | .pushComplete core _ => decide (core < 128)
  | .mloadComplete core slot => decide (core < 128) && decide (slot < 128)
  | .sequencerState core => decide (core < 128)
  | .shootdown _ _ => true
  | .shootdownComplete _ => true
  | .genAdvance _ _ => true
  | .onchipSweepComplete _ => true
  | .coreslotChange core _ => decide (core < 128)
  | .blockReassign _ _ => true
  | .sweepVisit _ _ => true
  | .passEnd => true
  | .swctlWrite _ => true
  | .woCreate _ => true
  | .woSeal _ => true
  | .woAdd _ => true
  | .woCancel _ => true
  | .woFree _ => true
  | .launchPacket wq _ _ => decide (wq < 64)
  | .go core row _ => decide (core < 128) && decide (row < 12)
  | .dispatchBind core row => decide (core < 128) && decide (row < 4)
  | .pendingBind core => decide (core < 128)
  | .preRequest core row => decide (core < 128) && decide (row < 4)
  | .preemptSave core ctx => decide (core < 128) && decide (ctx < 4)
  | .resume core ctx _ => decide (core < 128) && decide (ctx < 4)
  | .redirect core ctx _ => decide (core < 128) && decide (ctx < 4)
  | .kill core ctx _ => decide (core < 128) && decide (ctx < 4)
  | .replyToSaved core row _ => decide (core < 128) && decide (row < 4)
  | .csave core _ => decide (core < 128)
  | .crest core _ => decide (core < 128)
  | .parityRetry _ => true
  | .laneSwap _ => true
  | .retireRequest _ _ => true
  | .errorLogClear _ _ _ => true
  | .latecntWrite _ => true
  | .authcntWrite _ => true
  | .wldcfgWrite _ _ _ => true
  | .kgen _ _ _ => true
  | .kimp _ _ _ => true
  | .kdrop _ _ _ => true
  | .certw _ _ _ => true
  | .sleepCommand _ _ _ => true
  | .wake _ _ => true
  | .chal => true
  | .cert => true
  | .importKey => true
  | .networkPacketArrival _ => true
  | .hostAccess _ => true
  | .managementFrame _ => true
  | .resetBoot _ => true
  | .powerStepPins _ => true
  | .powerStepDatagram _ => true
  | .ceilingApply => true
  | .powerFail => true
  | .powerReturn _ => true
  | .selfRefreshExpiry => true
  | .registerWrite _ _ _ => true
  | .generalPurposeCoreAccess _ => true
  | .spaceReportSend _ => true
  | .closeNotice _ => true
  | .movedAcknowledgement _ => true
  | .ringHostAnswer _ => true
  | .ringHostTimeout _ => true
  | .jrecRequest _ => true
  | .jrecReply _ => true
  | .releaseMessage _ => true
  | .releaseNotice _ => true
  | .belayNote _ => true
  | .ringCopy _ => true
  | .nop => true
  | .move _ => true
  | .moveSplat _ => true
  | .moveHi _ => true
  | .add _ _ => true
  | .sub _ _ => true
  | .and _ _ => true
  | .or _ _ => true
  | .xor _ _ => true
  | .andn _ _ => true
  | .orn _ _ => true
  | .shl _ _ => true
  | .shr _ _ => true
  | .sra _ _ => true
  | .ror _ _ => true
  | .min _ _ => true
  | .max _ _ => true
  | .minn _ _ => true
  | .maxn _ _ => true
  | .sel _ _ => true
  | .sext8 _ _ => true
  | .sext16 _ _ => true
  | .sext32 _ _ => true
  | .zext8 _ _ => true
  | .zext16 _ _ => true
  | .zext32 _ _ => true
  | .clz _ _ => true
  | .ctz _ _ => true
  | .popc _ _ => true
  | .bfx _ _ => true
  | .bfi _ _ => true
  | .addsh _ _ => true
  | .ceq _ _ _ => true
  | .cne _ _ _ => true
  | .clt _ _ _ => true
  | .cle _ _ _ => true
  | .cltn _ _ _ => true
  | .clen _ _ _ => true
  | .mul _ => true
  | .mulh _ => true
  | .mulhn _ => true
  | .div _ => true
  | .divn _ => true
  | .rem _ => true
  | .remn _ => true
  | .pand _ _ => true
  | .por _ _ => true
  | .pxor _ _ => true
  | .pnot _ _ => true
  | .pset _ _ => true
  | .vany _ _ => true
  | .vall _ _ => true
  | .br _ => true
  | .call _ => true
  | .ret _ => true
  | .bix _ => true
  | .lset _ _ => true
  | .lrot _ => true
  | .lbrk _ _ => true
  | .trap _ => true
  | .tret _ => true
  | .exit _ => true
  | .yield _ => true
  | .sleep _ => true
  | .brk _ => true
  | .sset _ => true
  | .sadd _ => true
  | .stake _ => true
  | .swait _ => true
  | .fork _ => true
  | .join _ => true
  | .jadd _ => true
  | .wcan _ => true
  | .wdone _ => true
  | .gpush _ => true
  | .gpop _ => true
  | .ldb _ _ => true
  | .ldh _ _ => true
  | .ldw _ _ => true
  | .ldd _ _ => true
  | .ldbn _ _ => true
  | .ldhn _ _ => true
  | .ldwn _ _ => true
  | .stb _ => true
  | .sth _ => true
  | .stw _ => true
  | .std _ => true
  | .vld _ _ _ => true
  | .vst _ _ => true
  | .vlds _ _ => true
  | .vsts _ => true
  | .vldx _ _ => true
  | .vstx _ => true
  | .fewait _ => true
  | .feclr _ => true
  | .feset _ => true
  | .fetst _ => true
  | .rel _ _ => true
  | .acq _ _ => true
  | .cwb _ => true
  | .cinv _ => true
  | .xlat _ => true
  | .hdrop _ => true
  | .hchk _ => true
  | .aadd _ _ => true
  | .aand _ _ => true
  | .aor _ _ => true
  | .axor _ _ => true
  | .axchg _ _ => true
  | .acas _ _ => true
  | .amax _ _ => true
  | .cpy _ _ => true
  | .csr _ _ => true
  | .pfr _ _ => true
  | .zfill _ _ => true
  | .qfence _ _ => true
  | .coll _ _ => true
  | .evict _ _ => true
  | .cstat _ _ => true
  | .rld _ => true
  | .rldv _ => true
  | .rst _ _ => true
  | .rstv _ _ => true
  | .rop _ => true
  | .bclose _ _ => true
  | .rdrain _ => true
  | .sopen _ => true
  | .sclose _ => true
  | .ssend _ => true
  | .srecv _ => true
  | .spoll _ => true
  | .sxfer _ => true
  | .sstat _ => true
  | .jopen _ => true
  | .jrec _ => true
  | .jemit _ => true
  | .jtrunc _ => true
  | .jpart _ => true
  | .jrep _ => true
  | .jstat _ => true
  | .vadd _ _ => true
  | .vsub _ _ => true
  | .vmul _ _ => true
  | .vmulh _ _ => true
  | .vmin _ _ => true
  | .vmax _ _ => true
  | .vminn _ _ => true
  | .vmaxn _ _ => true
  | .vand _ _ => true
  | .vor _ _ => true
  | .vxor _ _ => true
  | .vandn _ _ => true
  | .vshl _ _ => true
  | .vshr _ _ => true
  | .vsra _ _ => true
  | .vabs _ _ => true
  | .vadds _ _ => true
  | .vsubs _ _ => true
  | .vfadd _ _ => true
  | .vfsub _ _ => true
  | .vfmul _ _ => true
  | .vfma _ _ => true
  | .vfnma _ _ => true
  | .vfmin _ _ => true
  | .vfmax _ _ => true
  | .vrcp _ _ => true
  | .vrsq _ _ => true
  | .vexp2 _ _ => true
  | .vlog2 _ _ => true
  | .vtanh _ _ => true
  | .vscale _ _ => true
  | .vtag _ _ => true
  | .vcvt _ _ _ => true
  | .vsplat _ _ => true
  | .vins _ _ => true
  | .vext _ _ => true
  | .vperm _ _ => true
  | .vrot _ _ => true
  | .vsel _ _ => true
  | .vcomp _ _ => true
  | .vsum _ _ => true
  | .vmaxr _ _ => true
  | .vargmax _ _ => true
  | .vrng _ _ => true
  | .vsample _ _ => true
  | .vpand _ _ => true
  | .vpor _ _ => true
  | .vpxor _ _ => true
  | .vpnot _ _ => true
  | .vpset _ _ => true
  | .vpcnt _ _ => true
  | .vceq _ _ _ => true
  | .vcne _ _ _ => true
  | .vclt _ _ _ => true
  | .vcle _ _ _ => true
  | .vcltn _ _ _ => true
  | .vfceq _ _ _ => true
  | .vfclt _ _ _ => true
  | .vfcle _ _ _ => true
  | .mload _ => true
  | .mpush _ => true
  | .mpushv _ => true
  | .mzero _ => true
  | .mpop _ => true
  | .mpopx _ => true
  | .macc _ => true
  | .mrel _ => true
  | .tsload _ => true
  | .tsrun _ => true
  | .tsstop _ => true
  | .tsstat _ => true
  | .xpin _ => true
  | .xpout _ => true
  | .xpclr _ => true
  | .xpmode _ => true

/-- A well-formed instruction: it passes the checks of R83 and names parts that exist. -/
def Instr.wf (i : Instr) : Bool := (i.check == none) && i.eventOk

end Sys2Proof
end

