-- ==== Sys2Proof/Decode.lean ====
section
/-! DEFINITION. From a bundle's bits to its header and operations, and back (R60 to R83). The decoder is total:
a slot that fails a check is rejected by the name of the check. -/

namespace Sys2Proof

/-- The header of a bundle (R60). -/
structure Header where
  bi    : BitVec 16
  res   : Bool
  rot   : Bool
  pitch : Bool
  cairn : Bool
  sinc  : BitVec 4
  ssem  : BitVec 8
  wthr  : BitVec 8
  wsem  : BitVec 8
  deriving DecidableEq, Repr

/-- Bits 47:0 of a bundle (R60). -/
def Header.ofBits (b : BundleBits) : Header where
  bi := b.extractLsb' 32 16
  res := b.getLsbD 31
  rot := b.getLsbD 30
  pitch := b.getLsbD 29
  cairn := b.getLsbD 28
  sinc := b.extractLsb' 24 4
  ssem := b.extractLsb' 16 8
  wthr := b.extractLsb' 8 8
  wsem := b.extractLsb' 0 8

/-- Slot k of a bundle, bits 48k+95 to 48k+48 (R61). -/
def slotOf (b : BundleBits) (k : Nat) : SlotBits := b.extractLsb' (48 * k + 48) 48

/-- GP and GN of a slot (R61). -/
def slotGuard (x : SlotBits) : Guard := ⟨x.extractLsb' 0 5, x.getLsbD 5⟩
/-- SRC of a slot. -/
def slotSrc (x : SlotBits) : BitVec 9 := x.extractLsb' 6 9
/-- DST of a slot. -/
def slotDst (x : SlotBits) : BitVec 9 := x.extractLsb' 15 9
/-- OP of a slot. -/
def slotOp (x : SlotBits) : Nat := (x.extractLsb' 24 8).toNat
/-- AUX of a slot. -/
def slotAux (x : SlotBits) : BitVec 16 := x.extractLsb' 32 16

/-- Formats S and V (R69). -/
def OpS.ofBits (x : SlotBits) : OpS :=
  ⟨slotGuard x, slotSrc x, (slotAux x).extractLsb' 0 9, (slotAux x).getLsbD 15, (slotAux x).extractLsb' 9 6⟩
/-- Format M (R69). -/
def OpM.ofBits (x : SlotBits) : OpM :=
  ⟨slotGuard x, slotSrc x, (slotAux x).extractLsb' 10 6, (slotAux x).extractLsb' 4 6, (slotAux x).extractLsb' 0 4⟩
/-- Format T (R69). -/
def OpT.ofBits (x : SlotBits) : OpT :=
  ⟨slotGuard x, slotSrc x, (slotAux x).extractLsb' 11 2, (slotAux x).extractLsb' 7 4, (slotAux x).extractLsb' 0 7⟩

/-- The scope a code names (R71). -/
def scopeOf : Nat → Option Scope
  | 0 => some .c | 1 => some .k | 2 => some .d | 3 => some .v | 4 => some .f | _ => none

/-- The opcode table of Alu (R72 to R82). -/
def decodeAlu (u : AluUnit) (op : Nat) (f : OpS) : Option Instr :=
  match op with
  | 0x1 => some (.add u f)
  | 0x2 => some (.sub u f)
  | 0x3 => some (.and u f)
  | 0x4 => some (.or u f)
  | 0x5 => some (.xor u f)
  | 0x6 => some (.andn u f)
  | 0x7 => some (.orn u f)
  | 0x8 => some (.shl u f)
  | 0x9 => some (.shr u f)
  | 0xa => some (.sra u f)
  | 0xb => some (.ror u f)
  | 0xc => some (.min u f)
  | 0xd => some (.max u f)
  | 0xe => some (.minn u f)
  | 0xf => some (.maxn u f)
  | 0x10 => some (.sel u f)
  | 0x11 => some (.sext8 u f)
  | 0x12 => some (.sext16 u f)
  | 0x13 => some (.sext32 u f)
  | 0x14 => some (.zext8 u f)
  | 0x15 => some (.zext16 u f)
  | 0x16 => some (.zext32 u f)
  | 0x17 => some (.clz u f)
  | 0x18 => some (.ctz u f)
  | 0x19 => some (.popc u f)
  | 0x1a => some (.bfx u f)
  | 0x1b => some (.bfi u f)
  | 0x1c => some (.addsh u f)
  | _ =>
    if 0x40 ≤ op ∧ op ≤ 0x4f then some (.ceq u (BitVec.ofNat 4 (op - 0x40)) f)
    else if 0x50 ≤ op ∧ op ≤ 0x5f then some (.cne u (BitVec.ofNat 4 (op - 0x50)) f)
    else if 0x60 ≤ op ∧ op ≤ 0x6f then some (.clt u (BitVec.ofNat 4 (op - 0x60)) f)
    else if 0x70 ≤ op ∧ op ≤ 0x7f then some (.cle u (BitVec.ofNat 4 (op - 0x70)) f)
    else if 0x80 ≤ op ∧ op ≤ 0x8f then some (.cltn u (BitVec.ofNat 4 (op - 0x80)) f)
    else if 0x90 ≤ op ∧ op ≤ 0x9f then some (.clen u (BitVec.ofNat 4 (op - 0x90)) f)
    else none

/-- The opcode table of Mul (R72 to R82). -/
def decodeMul (op : Nat) (f : OpS) : Option Instr :=
  match op with
  | 0x1 => some (.mul f)
  | 0x2 => some (.mulh f)
  | 0x3 => some (.mulhn f)
  | 0x4 => some (.div f)
  | 0x5 => some (.divn f)
  | 0x6 => some (.rem f)
  | 0x7 => some (.remn f)
  | _ => none

/-- The opcode table of Pr (R72 to R82). -/
def decodePr (op : Nat) (f : OpS) : Option Instr :=
  match op with
  | _ =>
    if 0x1 ≤ op ∧ op ≤ 0x1f then some (.pand (BitVec.ofNat 5 (op - 0x0)) f)
    else if 0x21 ≤ op ∧ op ≤ 0x3f then some (.por (BitVec.ofNat 5 (op - 0x20)) f)
    else if 0x41 ≤ op ∧ op ≤ 0x5f then some (.pxor (BitVec.ofNat 5 (op - 0x40)) f)
    else if 0x61 ≤ op ∧ op ≤ 0x7f then some (.pnot (BitVec.ofNat 5 (op - 0x60)) f)
    else if 0x81 ≤ op ∧ op ≤ 0x9f then some (.pset (BitVec.ofNat 5 (op - 0x80)) f)
    else if 0xa1 ≤ op ∧ op ≤ 0xbf then some (.vany (BitVec.ofNat 5 (op - 0xa0)) f)
    else if 0xc1 ≤ op ∧ op ≤ 0xdf then some (.vall (BitVec.ofNat 5 (op - 0xc0)) f)
    else none

/-- The opcode table of Br (R72 to R82). -/
def decodeBr (op : Nat) (f : OpS) : Option Instr :=
  match op with
  | 0x1 => some (.br f)
  | 0x2 => some (.call f)
  | 0x3 => some (.ret f)
  | 0x4 => some (.bix f)
  | _ => none

/-- The opcode table of Lp (R72 to R82). -/
def decodeLp (op : Nat) (f : OpS) : Option Instr :=
  match op with
  | 0x3 => some (.lrot f)
  | _ =>
    if 0x1 ≤ op ∧ op ≤ 0x2 then some (.lset (BitVec.ofNat 1 (op - 0x1)) f)
    else if 0x4 ≤ op ∧ op ≤ 0x5 then some (.lbrk (BitVec.ofNat 1 (op - 0x4)) f)
    else none

/-- The opcode table of Sys (R72 to R82). -/
def decodeSys (op : Nat) (f : OpS) : Option Instr :=
  match op with
  | 0x1 => some (.trap f)
  | 0x2 => some (.tret f)
  | 0x3 => some (.exit f)
  | 0x4 => some (.yield f)
  | 0x5 => some (.sleep f)
  | 0x6 => some (.brk f)
  | _ => none

/-- The opcode table of Sm (R72 to R82). -/
def decodeSm (op : Nat) (f : OpS) : Option Instr :=
  match op with
  | 0x1 => some (.sset f)
  | 0x2 => some (.sadd f)
  | 0x3 => some (.stake f)
  | 0x4 => some (.swait f)
  | _ => none

/-- The opcode table of Wk (R72 to R82). -/
def decodeWk (op : Nat) (f : OpS) : Option Instr :=
  match op with
  | 0x1 => some (.fork f)
  | 0x2 => some (.join f)
  | 0x3 => some (.jadd f)
  | 0x4 => some (.wcan f)
  | 0x5 => some (.wdone f)
  | _ => none

/-- The opcode table of Gq (R72 to R82). -/
def decodeGq (op : Nat) (f : OpS) : Option Instr :=
  match op with
  | 0x1 => some (.gpush f)
  | 0x2 => some (.gpop f)
  | _ => none

/-- The opcode table of Ls (R72 to R82). -/
def decodeLs (op : Nat) (f : OpM) : Option Instr :=
  match op with
  | 0x8 => some (.stb f)
  | 0x9 => some (.sth f)
  | 0xa => some (.stw f)
  | 0xb => some (.std f)
  | 0x31 => some (.vsts f)
  | 0x33 => some (.vstx f)
  | 0x34 => some (.fewait f)
  | 0x35 => some (.feclr f)
  | 0x36 => some (.feset f)
  | 0x37 => some (.fetst f)
  | 0x50 => some (.cwb f)
  | 0x51 => some (.cinv f)
  | _ =>
    if op = 0x1 then some (.ldb false f)
    else if op = 0x81 then some (.ldb true f)
    else if op = 0x2 then some (.ldh false f)
    else if op = 0x82 then some (.ldh true f)
    else if op = 0x3 then some (.ldw false f)
    else if op = 0x83 then some (.ldw true f)
    else if op = 0x4 then some (.ldd false f)
    else if op = 0x84 then some (.ldd true f)
    else if op = 0x5 then some (.ldbn false f)
    else if op = 0x85 then some (.ldbn true f)
    else if op = 0x6 then some (.ldhn false f)
    else if op = 0x86 then some (.ldhn true f)
    else if op = 0x7 then some (.ldwn false f)
    else if op = 0x87 then some (.ldwn true f)
    else if 0x11 ≤ op ∧ op ≤ 0x1c then some (.vld (BitVec.ofNat 4 (op - 0x10)) false f)
    else if 0x91 ≤ op ∧ op ≤ 0x9c then some (.vld (BitVec.ofNat 4 (op - 0x90)) true f)
    else if 0x21 ≤ op ∧ op ≤ 0x2c then some (.vst (BitVec.ofNat 4 (op - 0x20)) f)
    else if op = 0x30 then some (.vlds false f)
    else if op = 0xb0 then some (.vlds true f)
    else if op = 0x32 then some (.vldx false f)
    else if op = 0xb2 then some (.vldx true f)
    else if 0x40 ≤ op ∧ op ≤ 0x44 then (scopeOf (op - 0x40)).map (.rel · f)
    else if 0x48 ≤ op ∧ op ≤ 0x4c then (scopeOf (op - 0x48)).map (.acq · f)
    else none

/-- The opcode table of Tx (R72 to R82). -/
def decodeTx (op : Nat) (f : OpM) : Option Instr :=
  match op with
  | 0x1 => some (.xlat f)
  | 0x2 => some (.hdrop f)
  | 0x3 => some (.hchk f)
  | _ => none

/-- The opcode table of At (R72 to R82). -/
def decodeAt (op : Nat) (f : OpM) : Option Instr :=
  match op with
  | _ =>
    if 0x9 ≤ op ∧ op ≤ 0xb then (scopeOf (op - 0x8)).map (.aadd · f)
    else if 0x11 ≤ op ∧ op ≤ 0x13 then (scopeOf (op - 0x10)).map (.aand · f)
    else if 0x19 ≤ op ∧ op ≤ 0x1b then (scopeOf (op - 0x18)).map (.aor · f)
    else if 0x21 ≤ op ∧ op ≤ 0x23 then (scopeOf (op - 0x20)).map (.axor · f)
    else if 0x29 ≤ op ∧ op ≤ 0x2b then (scopeOf (op - 0x28)).map (.axchg · f)
    else if 0x31 ≤ op ∧ op ≤ 0x33 then (scopeOf (op - 0x30)).map (.acas · f)
    else if 0x39 ≤ op ∧ op ≤ 0x3b then (scopeOf (op - 0x38)).map (.amax · f)
    else none

/-- The opcode table of Ec (R72 to R82). -/
def decodeEc (op : Nat) (f : OpM) : Option Instr :=
  match op with
  | _ =>
    if 0x8 ≤ op ∧ op ≤ 0xf then some (.cpy (BitVec.ofNat 3 (op - 0x8)) f)
    else if 0x10 ≤ op ∧ op ≤ 0x17 then some (.csr (BitVec.ofNat 3 (op - 0x10)) f)
    else if 0x18 ≤ op ∧ op ≤ 0x1f then some (.pfr (BitVec.ofNat 3 (op - 0x18)) f)
    else if 0x20 ≤ op ∧ op ≤ 0x27 then some (.zfill (BitVec.ofNat 3 (op - 0x20)) f)
    else if 0x28 ≤ op ∧ op ≤ 0x2f then some (.qfence (BitVec.ofNat 3 (op - 0x28)) f)
    else if 0x30 ≤ op ∧ op ≤ 0x37 then some (.coll (BitVec.ofNat 3 (op - 0x30)) f)
    else if 0x38 ≤ op ∧ op ≤ 0x3f then some (.evict (BitVec.ofNat 3 (op - 0x38)) f)
    else if 0x40 ≤ op ∧ op ≤ 0x47 then some (.cstat (BitVec.ofNat 3 (op - 0x40)) f)
    else none

/-- The opcode table of Rm (R72 to R82). -/
def decodeRm (op : Nat) (f : OpM) : Option Instr :=
  match op with
  | 0x1 => some (.rld f)
  | 0x2 => some (.rldv f)
  | 0x3 => some (.rop f)
  | 0x4 => some (.rdrain f)
  | _ =>
    if 0x10 ≤ op ∧ op ≤ 0x13 then some (.rst (BitVec.ofNat 2 (op - 0x10)) f)
    else if 0x14 ≤ op ∧ op ≤ 0x17 then some (.rstv (BitVec.ofNat 2 (op - 0x14)) f)
    else if 0x18 ≤ op ∧ op ≤ 0x1b then some (.bclose (BitVec.ofNat 2 (op - 0x18)) f)
    else none

/-- The opcode table of Sx (R72 to R82). -/
def decodeSx (op : Nat) (f : OpM) : Option Instr :=
  match op with
  | 0x1 => some (.sopen f)
  | 0x2 => some (.sclose f)
  | 0x3 => some (.ssend f)
  | 0x4 => some (.srecv f)
  | 0x5 => some (.spoll f)
  | 0x6 => some (.sxfer f)
  | 0x7 => some (.sstat f)
  | _ => none

/-- The opcode table of Bj (R72 to R82). -/
def decodeBj (op : Nat) (f : OpM) : Option Instr :=
  match op with
  | 0x1 => some (.jopen f)
  | 0x2 => some (.jrec f)
  | 0x3 => some (.jemit f)
  | 0x4 => some (.jtrunc f)
  | 0x5 => some (.jpart f)
  | 0x6 => some (.jrep f)
  | 0x7 => some (.jstat f)
  | _ => none

/-- The opcode table of Vec (R72 to R82). -/
def decodeVec (u : VecUnit) (op : Nat) (f : OpS) : Option Instr :=
  match op with
  | 0x1 => some (.vadd u f)
  | 0x2 => some (.vsub u f)
  | 0x3 => some (.vmul u f)
  | 0x4 => some (.vmulh u f)
  | 0x5 => some (.vmin u f)
  | 0x6 => some (.vmax u f)
  | 0x7 => some (.vminn u f)
  | 0x8 => some (.vmaxn u f)
  | 0x9 => some (.vand u f)
  | 0xa => some (.vor u f)
  | 0xb => some (.vxor u f)
  | 0xc => some (.vandn u f)
  | 0xd => some (.vshl u f)
  | 0xe => some (.vshr u f)
  | 0xf => some (.vsra u f)
  | 0x10 => some (.vabs u f)
  | 0x11 => some (.vadds u f)
  | 0x12 => some (.vsubs u f)
  | 0x18 => some (.vfadd u f)
  | 0x19 => some (.vfsub u f)
  | 0x1a => some (.vfmul u f)
  | 0x1b => some (.vfma u f)
  | 0x1c => some (.vfnma u f)
  | 0x1d => some (.vfmin u f)
  | 0x1e => some (.vfmax u f)
  | 0x1f => some (.vrcp u f)
  | 0x20 => some (.vrsq u f)
  | 0x21 => some (.vexp2 u f)
  | 0x22 => some (.vlog2 u f)
  | 0x23 => some (.vtanh u f)
  | 0x28 => some (.vscale u f)
  | 0x29 => some (.vtag u f)
  | 0x30 => some (.vsplat u f)
  | 0x31 => some (.vins u f)
  | 0x32 => some (.vext u f)
  | 0x33 => some (.vperm u f)
  | 0x34 => some (.vrot u f)
  | 0x35 => some (.vsel u f)
  | 0x36 => some (.vcomp u f)
  | 0x38 => some (.vsum u f)
  | 0x39 => some (.vmaxr u f)
  | 0x3a => some (.vargmax u f)
  | 0x3c => some (.vrng u f)
  | 0x3d => some (.vsample u f)
  | 0x40 => some (.vpand u f)
  | 0x41 => some (.vpor u f)
  | 0x42 => some (.vpxor u f)
  | 0x43 => some (.vpnot u f)
  | 0x44 => some (.vpset u f)
  | 0x45 => some (.vpcnt u f)
  | _ =>
    if 0x51 ≤ op ∧ op ≤ 0x5c then some (.vcvt u (BitVec.ofNat 4 (op - 0x50)) f)
    else if 0x80 ≤ op ∧ op ≤ 0x87 then some (.vceq u (BitVec.ofNat 3 (op - 0x80)) f)
    else if 0x88 ≤ op ∧ op ≤ 0x8f then some (.vcne u (BitVec.ofNat 3 (op - 0x88)) f)
    else if 0x90 ≤ op ∧ op ≤ 0x97 then some (.vclt u (BitVec.ofNat 3 (op - 0x90)) f)
    else if 0x98 ≤ op ∧ op ≤ 0x9f then some (.vcle u (BitVec.ofNat 3 (op - 0x98)) f)
    else if 0xa0 ≤ op ∧ op ≤ 0xa7 then some (.vcltn u (BitVec.ofNat 3 (op - 0xa0)) f)
    else if 0xa8 ≤ op ∧ op ≤ 0xaf then some (.vfceq u (BitVec.ofNat 3 (op - 0xa8)) f)
    else if 0xb0 ≤ op ∧ op ≤ 0xb7 then some (.vfclt u (BitVec.ofNat 3 (op - 0xb0)) f)
    else if 0xb8 ≤ op ∧ op ≤ 0xbf then some (.vfcle u (BitVec.ofNat 3 (op - 0xb8)) f)
    else none

/-- The opcode table of Mx (R72 to R82). -/
def decodeMx (op : Nat) (f : OpT) : Option Instr :=
  match op with
  | 0x1 => some (.mload f)
  | 0x2 => some (.mpush f)
  | 0x3 => some (.mpushv f)
  | 0x4 => some (.mzero f)
  | 0x5 => some (.mpop f)
  | 0x6 => some (.mpopx f)
  | 0x7 => some (.macc f)
  | 0x8 => some (.mrel f)
  | _ => none

/-- The opcode table of Ts (R72 to R82). -/
def decodeTs (op : Nat) (f : OpT) : Option Instr :=
  match op with
  | 0x1 => some (.tsload f)
  | 0x2 => some (.tsrun f)
  | 0x3 => some (.tsstop f)
  | 0x4 => some (.tsstat f)
  | _ => none

/-- The opcode table of Xp (R72 to R82). -/
def decodeXp (op : Nat) (f : OpS) : Option Instr :=
  match op with
  | 0x1 => some (.xpin f)
  | 0x2 => some (.xpout f)
  | 0x3 => some (.xpclr f)
  | 0x4 => some (.xpmode f)
  | _ => none

/-- The operation that OP starts on unit u (R71 to R82); none where it is undefined. -/
def decodeTrigger (u op : Nat) (x : SlotBits) : Option Instr :=
  match u with
  | 0 => decodeAlu .ia op (.ofBits x)
  | 1 => decodeAlu .ib op (.ofBits x)
  | 2 => decodeMul op (.ofBits x)
  | 3 => decodePr op (.ofBits x)
  | 4 => decodeBr op (.ofBits x)
  | 5 => decodeLp op (.ofBits x)
  | 6 => decodeSys op (.ofBits x)
  | 7 => decodeSm op (.ofBits x)
  | 8 => decodeLs op (.ofBits x)
  | 9 => decodeTx op (.ofBits x)
  | 10 => decodeAt op (.ofBits x)
  | 11 => decodeEc op (.ofBits x)
  | 12 => decodeRm op (.ofBits x)
  | 13 => decodeSx op (.ofBits x)
  | 14 => decodeBj op (.ofBits x)
  | 15 => decodeWk op (.ofBits x)
  | 16 => decodeGq op (.ofBits x)
  | 24 => decodeVec .va op (.ofBits x)
  | 25 => decodeVec .vb op (.ofBits x)
  | 28 => decodeMx op (.ofBits x)
  | 29 => decodeTs op (.ofBits x)
  | 30 => decodeXp op (.ofBits x)
  | _ => none

/-- The plain move a slot holds (R65). -/
def decodeMove (k : Nat) (x : SlotBits) : Option Instr :=
  let m : OpMove := ⟨BitVec.ofNat 3 k, slotGuard x, slotSrc x, slotDst x⟩
  match slotOp x with
  | 0 => if x = 0 then some .nop else some (.move m)
  | 1 => some (.moveSplat m)
  | 2 => some (.moveHi m)
  | _ => none

/-- The operation a slot names, before any check; and whether its reserved AUX bits are zero (R65, R70). -/
def decodeCandidate (k : Nat) (x : SlotBits) : Option Instr × Bool :=
  match dstKind (slotDst x) with
  | some (.trigger u) =>
    (decodeTrigger u (slotOp x) x, unitSlot u ≠ 5 || (slotAux x).extractLsb' 13 3 == 0)
  | _ => (decodeMove k x, slotAux x == 0)

/-- The form check a slot with AUX bits that must be zero fails (R4): the reserved field of mx and ts (R69) is their own. -/
def auxFail (x : SlotBits) : EncFail :=
  match dstKind (slotDst x) with
  | some (.trigger u) => .reserved u
  | _ => .form

/-- The trigger's class (R64): the slot of a trigger is its unit's. -/
def classOk (k : Nat) (x : SlotBits) : Bool :=
  match dstKind (slotDst x) with
  | some (.trigger u) => unitSlot u == k
  | _ => true

/-- The slots with format S or V (R69). (DEDUCED, log 22) -/
def formatSV (k : Nat) : Bool := k != 2 && k != 5

/-- AUX 8:0 of the slot as a source port (R62), where the slot names an operation that reads O. (DEDUCED, log 22) -/
def slotOPort (k : Nat) (x : SlotBits) : Option (BitVec 9) :=
  match (decodeCandidate k x).1 with
  | some i =>
    match i.view with
    | some v => if formatSV k then oPort v.aux i.shape else none
    | none => none
  | none => none

/-- Step 3 of R83 on slot k, in its order: the instruction, or the first check that fails. (DEDUCED, log 22) -/
def decodeSlot (k : Nat) (x : SlotBits) : Except EncFail Instr :=
  if (k = 3 ∨ k = 4) ∧ 15 < (slotGuard x).gp.toNat then .error .form
  else if srcKind (slotSrc x) = none then .error .port
  else if ((slotOPort k x).map srcKind).getD (some .scalar) = none then .error .port
  else if dstKind (slotDst x) = none then .error .port
  else if !classOk k x then .error .slot
  else
    match decodeCandidate k x with
    | (none, _) => .error .opcode
    | (some i, extra) =>
      match i.check with
      | some .form => .error (if extra then .form else auxFail x)
      | some e => .error e
      | none => if extra then .ok i else .error (auxFail x)

/-- AUX as the format lays it out (R69). -/
def auxBits : Aux → BitVec 16
  | .s f => BitVec.ofBool f.ol ++ f.w ++ f.o
  | .m f => f.disp ++ f.w ++ f.h
  | .t f => 0#3 ++ f.mode ++ f.acc ++ f.b
  | .move => 0

/-- A slot's 48 bits (R61). -/
def View.bits (v : View) : SlotBits :=
  auxBits v.aux ++ BitVec.ofNat 8 v.op ++ v.dst ++ v.src ++ BitVec.ofBool v.g.gn ++ v.g.gp

/-- The encoder: the slot number and the 48 bits of a slot operation; none for an event. -/
def encode (i : Instr) : Option (Nat × SlotBits) := i.view.map fun v => (v.slot, v.bits)

/-- The bundle that holds one slot operation and an empty header. -/
def encodeBundle (i : Instr) : Option BundleBits :=
  (encode i).map fun (k, x) => (x.setWidth 384) <<< (48 * k + 48)

/-- A bundle's seven slots, in order. -/
def decodeSlots (b : BundleBits) : List (Nat × Except EncFail Instr) :=
  (List.range 7).map fun k => (k, decodeSlot k (slotOf b k))

/-- The first failing slot of a bundle (R83), with its check. -/
def firstFail : List (Nat × Except EncFail Instr) → Option (Nat × EncFail)
  | [] => none
  | (k, .error e) :: _ => some (k, e)
  | (_, .ok _) :: r => firstFail r

/-- The instructions of the slots that hold one. -/
def okSlots : List (Nat × Except EncFail Instr) → List (Nat × Instr)
  | [] => []
  | (_, .error _) :: r => okSlots r
  | (k, .ok i) :: r => (k, i) :: okSlots r

/-- A bundle's 24 index words as a literal (R56): word i holds bits 16i+15 to 16i. -/
def bundleWord (b : BundleBits) (i : Nat) : IndexWord := b.extractLsb' (16 * i) 16

/-- The bundle of 24 literal words. -/
def bundleOfWords : List IndexWord → Nat → BundleBits
  | [], _ => 0
  | w :: r, i => (w.setWidth 384 <<< (16 * i)) ||| bundleOfWords r (i + 1)

/-- The instruction of the lowest slot that is not empty; an empty bundle is the no-op. (DESIGN CHOICE, log 11) -/
def bundleInstr (b : BundleBits) : Option Instr :=
  match firstFail (decodeSlots b) with
  | some _ => none
  | none =>
    match (okSlots (decodeSlots b)).filter fun s => s.2 ≠ .nop with
    | [] => some .nop
    | (_, i) :: _ => some i

/-- What the decoder reads from an instruction whose bits are w: the bits are those of a bundle, the ones above
nbits zero. A set reserved header bit is refused (R60). (DESIGN CHOICE, log 11) -/
def decodeTableWord (nbits w : Nat) : Option Instr :=
  let b : BundleBits := BitVec.ofNat 384 (w % 2 ^ nbits)
  if (Header.ofBits b).res then none else bundleInstr b

end Sys2Proof
end

