-- ==== Sys2Proof/Config.lean ====
section
/-! DEFINITION. What the spec leaves open: free values, constants without a body. -/

namespace Sys2Proof.Config

/-- The 64 bytes of the key that was drawn as number n: the public and on-chip header keys, KGEN's, a slot's fresh key 1, the
sleep key (R423, R428, R430). (DESIGN CHOICE, log 13) -/
opaque drawnKey : Nat → BitVec 512

/-- A free 64-bit value for each number of the counter: DRAM contents no rule gives, random keys, wire data. (DESIGN CHOICE, log
15) -/
opaque freeWord : Nat → BitVec 64

/-- A free 1,024-bit value for each number of the counter. (DESIGN CHOICE, log 15) -/
opaque freeLanes : Nat → BitVec 1024

/-- The raw output of the check-value generator (R326). (DESIGN CHOICE, log 16) -/
opaque chkRaw : Nat → BitVec 32

/-- vrcp, vrsq, vexp2, vlog2 and vtanh where R202 gives a bound and no value: operation (0 to 4), format code,
rounding mode, the element's code and bias. (DESIGN CHOICE, log 17) -/
opaque transcendental : Nat → Nat → Nat → Nat → Int → Nat

/-- The engine's estimate, in ns, of the work before and in a command (R275): a number for each admission, the packet. (DESIGN
CHOICE, log 18) -/
opaque estimate : Nat → BitVec 512 → Nat

/-- The order in which a push adds its block sums (R223): a permutation number for a push, row and column. (DESIGN CHOICE, log
19) -/
opaque sumOrder : Nat → Nat → Nat → Nat

/-- The order in which a collective's sum pairs its members (R283): a permutation number for a group size and element. (DESIGN
CHOICE, log 19) -/
opaque collOrder : Nat → Nat → Nat

/-- The f32 code an untyped tile's non-zero word is read as by mpopx, where R231 gives none. (DESIGN CHOICE, log 20) -/
opaque untypedElem : Nat → Nat

/-- The shared secret of an ML-KEM-1024 ciphertext (R435). (DESIGN CHOICE, log 21) -/
opaque decap : List Byte → BitVec 256

/-- SHA-256 of the ML-KEM-1024 encapsulation key (R432). (DESIGN CHOICE, log 21) -/
opaque kemKeyDigest : BitVec 256

/-- I of a tree of an identity, by its seed and number (R433). (DESIGN CHOICE, log 21) -/
opaque hssIdent : Nat → Nat → BitVec 128

/-- The start of a chain of a leaf: seed, tree, leaf, chain (R433). (DESIGN CHOICE, log 21) -/
opaque hssSecret : Nat → Nat → Nat → Nat → BitVec 256

/-- The randomizer of a leaf's signature: seed, tree, leaf (R433). (DESIGN CHOICE, log 21) -/
opaque hssRandom : Nat → Nat → Nat → BitVec 256

end Sys2Proof.Config
end

