-- ==== Sys2Proof/Machine/Bits.lean ====
section
/-! DEFINITION. Bytes and bit vectors, little-endian (R1), elements of a wide value (R175), and CRC-32C. -/

namespace Sys2Proof

/-- The bytes of a value, lowest first (R1). -/
def bytesOf {w : Nat} (x : BitVec w) (n : Nat) : List Byte := (List.range n).map fun i => x.extractLsb' (8 * i) 8

/-- The value of bytes, lowest first, as a number. -/
def natOfBytes : List Byte → Nat
  | [] => 0
  | b :: r => b.toNat + 256 * natOfBytes r

/-- The value of bytes, lowest first. -/
def ofBytes (w : Nat) (l : List Byte) : BitVec w := BitVec.ofNat w (natOfBytes l)

/-- Element i of width w (R175). -/
def elem (w : Nat) (x : Lanes) (i : Nat) : Nat := (x.extractLsb' (w * i) w).toNat

/-- The 1,024 bits whose elements of width w are listed, element 0 lowest. -/
def ofElems (w : Nat) : List Nat → Nat
  | [] => 0
  | e :: r => e % 2 ^ w + 2 ^ w * ofElems w r

/-- A wide value from its elements. -/
def lanesOf (w : Nat) (l : List Nat) : Lanes := BitVec.ofNat 1024 (ofElems w l)

/-- A field of a value: bits lo + n - 1 to lo. -/
def field {w : Nat} (x : BitVec w) (lo n : Nat) : Nat := (x.extractLsb' lo n).toNat

/-- A value with the field of n bits from bit lo replaced. -/
def setField {w : Nat} (x : BitVec w) (lo n v : Nat) : BitVec w :=
  (x &&& ~~~(BitVec.ofNat w ((2 ^ n - 1) * 2 ^ lo))) ||| BitVec.ofNat w (v % 2 ^ n * 2 ^ lo)

/-- Sign-extended reading of n bits. -/
def signed (n : Nat) (x : Nat) : Int := if x % 2 ^ n < 2 ^ (n - 1) then (x % 2 ^ n : Nat) else (x % 2 ^ n : Nat) - (2 ^ n : Nat)

/-- An integer modulo 2^n. -/
def wrap (n : Nat) (x : Int) : Nat := (x % (2 ^ n : Nat)).toNat

/-- Bits set in a mask of n bits at and above bit lo. -/
def maskBits (lo n : Nat) : Nat := (2 ^ n - 1) * 2 ^ lo

/-- The count of one bits among the low n. -/
def popCount (x : Nat) : Nat → Nat
  | 0 => 0
  | n + 1 => popCount x n + (if x.testBit n then 1 else 0)

/-- One bit of CRC-32C, reflected: polynomial 0x82F63B78. -/
def crcBit (c : BitVec 32) : BitVec 32 := if c.getLsbD 0 then (c >>> 1) ^^^ 0x82F63B78#32 else c >>> 1

/-- One byte of CRC-32C. -/
def crcByte (c : BitVec 32) (b : Byte) : BitVec 32 :=
  crcBit (crcBit (crcBit (crcBit (crcBit (crcBit (crcBit (crcBit (c ^^^ b.setWidth 32))))))))

/-- CRC-32C over bytes, from a running value (before the final complement). -/
def crcRun (c : BitVec 32) (l : List Byte) : BitVec 32 := l.foldl crcByte c

/-- CRC-32C of a string of bytes: initial value and final complement all ones. -/
def crc32c (l : List Byte) : BitVec 32 := crcRun 0xFFFFFFFF#32 l ^^^ 0xFFFFFFFF#32

end Sys2Proof
end

