-- ==== Sys2Proof/Machine/Crypto.lean ====
section
/-! DEFINITION. The ciphers, codes and hashes that the spec names by their standards: SHA-256 (R431), AES-256 (FIPS 197) with
AES-CMAC (R428, R443), AES-256-XTS (R424, R425), AES key unwrap (R430), and the two-level HSS signature (R433). -/

namespace Sys2Proof.Machine

/-- The round constants of SHA-256 (FIPS 180-4). -/
def shaK : List (BitVec 32) :=
  [0x428A2F98, 0x71374491, 0xB5C0FBCF, 0xE9B5DBA5, 0x3956C25B, 0x59F111F1, 0x923F82A4, 0xAB1C5ED5] ++
  [0xD807AA98, 0x12835B01, 0x243185BE, 0x550C7DC3, 0x72BE5D74, 0x80DEB1FE, 0x9BDC06A7, 0xC19BF174] ++
  [0xE49B69C1, 0xEFBE4786, 0x0FC19DC6, 0x240CA1CC, 0x2DE92C6F, 0x4A7484AA, 0x5CB0A9DC, 0x76F988DA] ++
  [0x983E5152, 0xA831C66D, 0xB00327C8, 0xBF597FC7, 0xC6E00BF3, 0xD5A79147, 0x06CA6351, 0x14292967] ++
  [0x27B70A85, 0x2E1B2138, 0x4D2C6DFC, 0x53380D13, 0x650A7354, 0x766A0ABB, 0x81C2C92E, 0x92722C85] ++
  [0xA2BFE8A1, 0xA81A664B, 0xC24B8B70, 0xC76C51A3, 0xD192E819, 0xD6990624, 0xF40E3585, 0x106AA070] ++
  [0x19A4C116, 0x1E376C08, 0x2748774C, 0x34B0BCB5, 0x391C0CB3, 0x4ED8AA4A, 0x5B9CCA4F, 0x682E6FF3] ++
  [0x748F82EE, 0x78A5636F, 0x84C87814, 0x8CC70208, 0x90BEFFFA, 0xA4506CEB, 0xBEF9A3F7, 0xC67178F2]

/-- The initial value of SHA-256 (FIPS 180-4). -/
def shaInit : List (BitVec 32) := [0x6A09E667, 0xBB67AE85, 0x3C6EF372, 0xA54FF53A, 0x510E527F, 0x9B05688C, 0x1F83D9AB, 0x5BE0CD19]

/-- One round of SHA-256. -/
def shaRound (v : List (BitVec 32)) (kw : BitVec 32) : List (BitVec 32) :=
  match v with
  | [a, b, c, d, e, f, g, h] =>
    let s1 := e.rotateRight 6 ^^^ e.rotateRight 11 ^^^ e.rotateRight 25
    let t1 := h + s1 + ((e &&& f) ^^^ (~~~e &&& g)) + kw
    let s0 := a.rotateRight 2 ^^^ a.rotateRight 13 ^^^ a.rotateRight 22
    let t2 := s0 + ((a &&& b) ^^^ (a &&& c) ^^^ (b &&& c))
    [t1 + t2, a, b, c, d + t1, e, f, g]
  | l => l

/-- n more words of the message schedule, kept with the newest first. -/
def shaSchedule : Nat → List (BitVec 32) → List (BitVec 32)
  | 0, w => w
  | n + 1, w =>
    let x := w.getD 14 0
    let y := w.getD 1 0
    let s0 := x.rotateRight 7 ^^^ x.rotateRight 18 ^^^ (x >>> 3)
    let s1 := y.rotateRight 17 ^^^ y.rotateRight 19 ^^^ (y >>> 10)
    shaSchedule n ((w.getD 15 0 + s0 + w.getD 6 0 + s1) :: w)

/-- A word of a block, highest byte first. -/
def shaWord (l : List Byte) : BitVec 32 := BitVec.ofNat 32 (l.foldl (fun a b => a * 256 + b.toNat) 0)

/-- One block of 64 bytes. -/
def shaBlock (h : List (BitVec 32)) (l : List Byte) : List (BitVec 32) :=
  let w0 := (List.range 16).map fun i => shaWord ((l.drop (4 * i)).take 4)
  let w := (shaSchedule 48 w0.reverse).reverse
  let v := (w.zip shaK).foldl (fun v x => shaRound v (x.1 + x.2)) h
  (h.zip v).map fun x => x.1 + x.2

/-- The padding of n bytes. -/
def shaPad (n : Nat) : List Byte :=
  0x80 :: List.replicate ((119 - n % 64) % 64) 0 ++ (List.range 8).map fun i => BitVec.ofNat 8 (8 * n / 256 ^ (7 - i))

/-- SHA-256 of a byte string, its first byte lowest (R1). -/
def sha256 (l : List Byte) : BitVec 256 :=
  let p := l ++ shaPad l.length
  let h := (List.range (p.length / 64)).foldl (fun h i => shaBlock h ((p.drop (64 * i)).take 64)) shaInit
  ofBytes 256 ((h.map fun w => (bytesOf w 4).reverse).flatten)

/-- The 32 bytes of a digest. -/
def shaBytes (l : List Byte) : List Byte := bytesOf (sha256 l) 32

/-- Twice an element of GF(2^8) modulo 0x11B (FIPS 197). -/
def aesDouble (a : Byte) : Byte := (a <<< 1) ^^^ (if a.getLsbD 7 then 0x1B else 0)
/-- The product of two elements, over the low bits of the second. -/
def aesMulGo : Nat → Byte → Byte → Byte
  | 0, _, _ => 0
  | n + 1, a, b => (if b.getLsbD 0 then a else 0) ^^^ aesMulGo n (aesDouble a) (b >>> 1)
/-- The product in AES's field. -/
def aesMul (a b : Byte) : Byte := aesMulGo 8 a b
/-- The power 254 of an element: its inverse, 0 for 0. -/
def aesInv (a : Byte) : Byte :=
  ((List.range 7).foldl (fun (p : Byte × Byte) _ => let q := aesMul p.1 p.1; (q, aesMul p.2 q)) (a, 1)).2
/-- The substitution of a byte. -/
def aesSub (a : Byte) : Byte :=
  let x := aesInv a
  x ^^^ x.rotateLeft 1 ^^^ x.rotateLeft 2 ^^^ x.rotateLeft 3 ^^^ x.rotateLeft 4 ^^^ 0x63
/-- The inverse substitution. -/
def aesUnsub (a : Byte) : Byte := aesInv (a.rotateLeft 1 ^^^ a.rotateLeft 3 ^^^ a.rotateLeft 6 ^^^ 0x05)

/-- The exclusive or of two byte strings. -/
def xorBytes (a b : List Byte) : List Byte := a.zipWith (· ^^^ ·) b

/-- The words of AES-256's key schedule from word i on, from the last eight with the newest first: n more. -/
def aesSchedule : Nat → Nat → List (List Byte) → List (List Byte)
  | 0, _, w => w
  | n + 1, i, w =>
    let t := w.getD 0 []
    let u := if i % 8 = 0 then
        xorBytes ((t.drop 1 ++ t.take 1).map aesSub) [(List.range (i / 8 - 1)).foldl (fun r _ => aesDouble r) 1, 0, 0, 0]
      else if i % 8 = 4 then t.map aesSub else t
    aesSchedule n (i + 1) (xorBytes (w.getD 7 []) u :: w)
/-- The 15 round keys of a key of 32 bytes. -/
def aesKeys (key : List Byte) : List (List Byte) :=
  let w := (aesSchedule 52 8 ((List.range 8).map fun i => (key.drop (4 * i)).take 4).reverse).reverse
  (List.range 15).map fun r => ((w.drop (4 * r)).take 4).flatten

/-- Row r of the state moves left by r; or right. -/
def aesShift (left : Bool) (s : List Byte) : List Byte :=
  (List.range 16).map fun i => s.getD ((4 * (if left then i / 4 + i % 4 else i / 4 + 4 - i % 4) + i % 4) % 16) 0
/-- Each column times the circulant of four coefficients. -/
def aesMix (m : List Byte) (s : List Byte) : List Byte :=
  (List.range 16).map fun i =>
    (List.range 4).foldl (fun a k => a ^^^ aesMul (m.getD ((k + 4 - i % 4) % 4) 0) (s.getD (i / 4 * 4 + k) 0)) 0

/-- AES-256 enciphers 16 bytes. -/
def aesEnc (key blk : List Byte) : List Byte :=
  let k := aesKeys key
  let s := (List.range 13).foldl (fun s r =>
    xorBytes (aesMix [2, 3, 1, 1] (aesShift true (s.map aesSub))) (k.getD (r + 1) [])) (xorBytes blk (k.getD 0 []))
  xorBytes (aesShift true (s.map aesSub)) (k.getD 14 [])
/-- AES-256 deciphers 16 bytes. -/
def aesDec (key blk : List Byte) : List Byte :=
  let k := aesKeys key
  let s := (List.range 13).foldl (fun s r =>
    aesMix [14, 11, 13, 9] (xorBytes ((aesShift false s).map aesUnsub) (k.getD (13 - r) []))) (xorBytes blk (k.getD 14 []))
  xorBytes ((aesShift false s).map aesUnsub) (k.getD 0 [])

/-- A measurement register extended by the digest of an image (R431). -/
def extend (dig img : BitVec 256) : BitVec 256 := sha256 (bytesOf dig 32 ++ bytesOf img 32)

/-- The 64 bytes of a key by its number (R423, R430): one that was drawn, or one that KIMP brought. (DESIGN CHOICE, log 13) -/
def keyBits (id : Nat) : BitVec 512 := if id < 2 ^ 64 then Config.drawnKey id else BitVec.ofNat 512 (id - 2 ^ 64)
/-- The number of a key that KIMP brought. (DESIGN CHOICE, log 13) -/
def keyNumber (k : BitVec 512) : Nat := 2 ^ 64 + k.toNat

/-- Times α in GF(2^128), the bytes lowest first (IEEE 1619). -/
def xtsDouble (t : BitVec 128) : BitVec 128 := (t <<< 1) ^^^ (if t.getLsbD 127 then 0x87 else 0)
/-- What block j of a data unit is masked with (IEEE 1619): the tweak under the second half of the key, times α^j. -/
def xtsMask (key : BitVec 512) (tweak j : Nat) : List Byte :=
  let t : BitVec 128 := ofBytes 128 (aesEnc ((bytesOf key 64).drop 32) (bytesOf (BitVec.ofNat 128 tweak) 16))
  bytesOf ((List.range j).foldl (fun t _ => xtsDouble t) t) 16
/-- AES-256-XTS enciphers block j of the data unit with a tweak (R424, R425). -/
def xtsEnc (key : BitVec 512) (tweak j : Nat) (blk : BitVec 128) : BitVec 128 :=
  let m := xtsMask key tweak j
  ofBytes 128 (xorBytes (aesEnc ((bytesOf key 64).take 32) (xorBytes (bytesOf blk 16) m)) m)
/-- AES-256-XTS deciphers block j of the data unit with a tweak (R424, R425). -/
def xtsDec (key : BitVec 512) (tweak j : Nat) (blk : BitVec 128) : BitVec 128 :=
  let m := xtsMask key tweak j
  ofBytes 128 (xorBytes (aesDec ((bytesOf key 64).take 32) (xorBytes (bytesOf blk 16) m)) m)

/-- A number's n bytes, highest first. -/
def bigBytes (n v : Nat) : List Byte := (bytesOf (BitVec.ofNat (8 * n) v) n).reverse
/-- The number of a byte string, highest byte first. -/
def bigNat (l : List Byte) : Nat := natOfBytes l.reverse

/-- Twice a block in the field of AES-CMAC (RFC 4493), highest byte first. -/
def cmacDouble (b : List Byte) : List Byte := (bytesOf (xtsDouble (BitVec.ofNat 128 (bigNat b))) 16).reverse
/-- AES-256-CMAC of a byte string that is not empty (RFC 4493). -/
def cmac (key msg : List Byte) : List Byte :=
  let n := (msg.length + 15) / 16
  let k1 := cmacDouble (aesEnc key (List.replicate 16 0))
  let last := msg.drop (16 * (n - 1))
  let x := (List.range (n - 1)).foldl (fun x i => aesEnc key (xorBytes x ((msg.drop (16 * i)).take 16))) (List.replicate 16 0)
  let m := if last.length = 16 then xorBytes last k1
    else xorBytes (last ++ 0x80 :: List.replicate (15 - last.length) 0) (cmacDouble k1)
  aesEnc key (xorBytes x m)
/-- The 64 bits of a CMAC under a key of the key tables (R428, R443): its first eight bytes, under the first 32 bytes of the key. -/
def macWord (id : Nat) (msg : List Byte) : BitVec 64 := ofBytes 64 ((cmac ((bytesOf (keyBits id) 64).take 32) msg).take 8)

/-- One step of the key unwrap: block i of round j, with A and the eight blocks (RFC 3394). -/
def unwrapStep (kek : List Byte) (x : List Byte × List (List Byte)) (t : Nat) : List Byte × List (List Byte) :=
  let i := (t - 1) % 8
  let b := aesDec kek (xorBytes x.1 (bigBytes 8 t) ++ x.2.getD i [])
  (b.take 8, x.2.set i (b.drop 8))
/-- AES key unwrap of 72 bytes to 64 (RFC 3394, R430); none where the check value is wrong. -/
def keyUnwrap (kek : BitVec 256) (l : List Byte) : Option (BitVec 512) :=
  let r := (List.range 8).map fun i => (l.drop (8 * i + 8)).take 8
  let x := (List.range 48).foldl (fun x n => unwrapStep (bytesOf kek 32) x (48 - n)) (l.take 8, r)
  if x.1 = List.replicate 8 0xA6 then some (ofBytes 512 x.2.flatten) else none

/-- What one tree of an identity is known by (R433): the seed, and 0 for the upper tree or 1 + q for the lower tree its leaf q
signs. -/
structure HssTree where
  seed : Nat
  tree : Nat
  deriving DecidableEq, Repr

/-- I of a tree, its bytes. -/
def HssTree.ident (t : HssTree) : List Byte := bytesOf (Config.hssIdent t.seed t.tree) 16
/-- A chain of LM-OTS (RFC 8554): n steps from step j on. -/
def HssTree.chain (t : HssTree) (q i : Nat) : Nat → Nat → List Byte → List Byte
  | 0, _, x => x
  | n + 1, j, x => t.chain q i n (j + 1) (shaBytes (t.ident ++ bigBytes 4 q ++ bigBytes 2 i ++ bigBytes 1 j ++ x))
/-- The start of chain i of leaf q. -/
def HssTree.secret (t : HssTree) (q i : Nat) : List Byte := bytesOf (Config.hssSecret t.seed t.tree q i) 32
/-- The LM-OTS public key of leaf q: 67 chains of 15 steps. -/
def HssTree.otsKey (t : HssTree) (q : Nat) : List Byte :=
  shaBytes (t.ident ++ bigBytes 4 q ++ bigBytes 2 0x8080 ++ ((List.range 67).map fun i => t.chain q i 15 0 (t.secret q i)).flatten)
/-- A node of a tree, by its height over the leaves and its number (RFC 8554). -/
def HssTree.node (t : HssTree) : Nat → Nat → List Byte
  | 0, r => shaBytes (t.ident ++ bigBytes 4 r ++ bigBytes 2 0x8282 ++ t.otsKey (r - 2 ^ 20))
  | h + 1, r => shaBytes (t.ident ++ bigBytes 4 r ++ bigBytes 2 0x8383 ++ t.node h (2 * r) ++ t.node h (2 * r + 1))
/-- The LMS public key of a tree: LMS_SHA256_M32_H20 with LMOTS_SHA256_N32_W4. -/
def HssTree.key (t : HssTree) : List Byte := bigBytes 4 8 ++ bigBytes 4 3 ++ t.ident ++ t.node 20 1

/-- The 67 four-bit digits that a message of 32 bytes and its checksum give (RFC 8554). -/
def otsDigits (m : List Byte) : List Nat :=
  let d := m.flatMap fun b => [b.toNat / 16, b.toNat % 16]
  let c := (d.map fun x => 15 - x).sum * 16
  d ++ [c / 4096 % 16, c / 256 % 16, c / 16 % 16]
/-- The LMS signature of a message with leaf q of a tree (RFC 8554): 2,828 bytes. -/
def HssTree.sign (t : HssTree) (q : Nat) (msg : List Byte) : List Byte :=
  let c := bytesOf (Config.hssRandom t.seed t.tree q) 32
  let d := otsDigits (shaBytes (t.ident ++ bigBytes 4 q ++ bigBytes 2 0x8181 ++ c ++ msg))
  let y := (d.zipIdx.map fun (a, i) => t.chain q i a 0 (t.secret q i)).flatten
  let path := ((List.range 20).map fun h => t.node h ((2 ^ 20 + q) / 2 ^ h ^^^ 1)).flatten
  bigBytes 4 q ++ bigBytes 4 3 ++ c ++ y ++ bigBytes 4 8 ++ path

/-- The HSS public key of an identity (R432): 60 bytes. -/
def hssKey (seed : Nat) : List Byte := bigBytes 4 2 ++ (HssTree.mk seed 0).key
/-- The HSS signature of a message with a leaf (R433): 5,716 bytes. The upper tree's leaf signs the lower tree's public key. -/
def hssSign (seed leaf : Nat) (msg : List Byte) : List Byte :=
  let q := leaf / 2 ^ 20
  let low : HssTree := ⟨seed, 1 + q⟩
  bigBytes 4 1 ++ (HssTree.mk seed 0).sign q low.key ++ low.key ++ low.sign (leaf % 2 ^ 20) msg

end Sys2Proof.Machine
end

