-- ==== Sys2Proof/Machine/State.lean ====
section
/-! DEFINITION. The state of one K-128 module: contexts, cores, dies, memory and hub, as plain data; and the
machine right after reset. -/

namespace Sys2Proof.Machine

/-- A wide value: 1,024 bits and a format tag (R66, R184). -/
structure Wide where
  data : Lanes := 0
  bias : BitVec 6 := 0
  fmt  : BitVec 4 := 0
  deriving DecidableEq, Repr

/-- Whether a register or latch may be read: clean, poisoned (R130), a latch with poisoned 64-bit elements (R410), or marked with a
remote error class (R291) and the effective address it came from (R391). -/
inductive Mark | clean | poison | elements (m : BitVec 16) | remote (cls : BitVec 4) (va : Word)
  deriving DecidableEq, Repr

/-- The state of a handle (R114). -/
inductive HState | null | pending | valid | revoked
  deriving DecidableEq, Repr

/-- A handle register (R114). `tok` names the pending handle that one xlat landed (R116). -/
structure Handle where
  key  : BitVec 8 := 0
  slot : BitVec 4 := 0
  gen  : BitVec 12 := 0
  ps   : BitVec 4 := 0
  sh   : Bool := false
  wr   : Bool := false
  rd   : Bool := false
  st   : HState := .null
  pfn  : BitVec 27 := 0
  va   : BitVec 56 := 0
  tok  : Nat := 0
  deriving DecidableEq, Repr

/-- A place a write can reach: scalar (physical number), vector, predicate, vector predicate, handle, special
register (port - 0xC0), operand latch (by unit number), result latch (port - 0x100). -/
inductive Reg
  | s (i : Nat) | v (i : Nat) | p (i : Nat) | vp (i : Nat) | h (i : Nat) | sp (i : Nat) | ol (i : Nat) | rl (i : Nat)
  deriving DecidableEq, Repr

/-- One outstanding result a register waits for (R127): its token, the unit to name, the pitch of its trigger and
whether it can arrive only after that pitch's release (R133, R274, R291, R332, R348, R379). (DEDUCED, log 50) -/
structure Pend where
  tok   : Nat
  unit  : Nat
  pitch : Nat
  late  : Bool
  deriving DecidableEq, Repr

/-- A context's register bank (R16, R17, R66). `live` lists the vector registers and wide latches written since
unit start (R401). -/
structure Bank where
  s     : Tab Word := []
  v     : Tab Wide := []
  p     : Tab Bool := []
  vp    : Tab VPred := []
  h     : Tab Handle := []
  sp    : Tab Word := []
  ol    : Tab Wide := []
  rl    : Tab Wide := []
  marks : Tab Mark := []
  pend  : Tab (List Pend) := []
  live  : Tab Bool := []
  deriving DecidableEq, Repr

/-- One register written by a landing or a move: the bits of `mask` take those of `val` (R67, R197). -/
structure RegWrite where
  reg  : Reg
  val  : Wide
  mask : Lanes
  h    : Option Handle := none
  mark : Mark := .clean
  /-- the tag is written with the data -/
  tag  : Bool := true
  deriving DecidableEq, Repr

/-- A result in an exposed pipeline (R93): visible from cycle `due`, issued as number `seq` by slot `slot`. -/
structure Landing where
  due    : Nat
  seq    : Nat
  slot   : Nat
  unit   : Nat
  writes : List RegWrite
  deriving DecidableEq, Repr

/-- What a pending load or release result still has to deliver (R127): data already read, or a load that misses
and reads its place when it lands (R247). -/
structure LoadPart where
  ea   : Nat
  pa   : Nat
  n    : Nat
  deriving DecidableEq, Repr

/-- How loaded bytes become a register value. -/
inductive LoadForm
  | scalar (n : Nat) (sext : Bool)
  | vec (fmt : BitVec 4)
  | chunks
  deriving DecidableEq, Repr

/-- A load that has issued and not landed (R127). `over` are the bytes of the context's own unperformed entries it
takes (R128), by address. -/
structure PendLoad where
  tok   : Nat
  seq   : Nat
  pitch : Nat
  h     : Handle
  parts : List LoadPart
  form  : LoadForm
  ovl  : Tab Byte
  pois  : Bool
  slot  : BitVec 4
  gen   : BitVec 12
  deriving DecidableEq, Repr

/-- One gated store (R128): its chunks, each with effective address, physical address or scratchpad offset, and
bytes; the handle for re-translation; the poison an mpopx row carries (R225). -/
structure Gated where
  h      : Handle
  chunks : List (Nat × Nat × List Byte)
  poison : Bool
  slot   : BitVec 4
  gen    : BitVec 12
  marked : Bool
  deriving DecidableEq, Repr

/-- A remote write or rop waiting to be sent or acknowledged (R291). -/
structure RemoteOp where
  h     : Handle
  ea    : Nat
  off   : Nat
  n     : Nat
  kind  : BitVec 6
  batch : BitVec 2
  ctrl  : Word
  data  : Lanes
  /-- a load's bytes taken from the context's own writes (R291) -/
  mask  : BitVec 128
  slot  : BitVec 4
  gen   : BitVec 12
  /-- to be translated again before it is released (R120, R128) -/
  marked : Bool := false
  deriving DecidableEq, Repr

/-- What a release entry does when it acts (R217, R247, R273, R332, R348, R379). -/
inductive RelBody
  | store (g : Gated)
  | atomic (op : Nat) (sc : Scope) (h : Handle) (ea pa : Nat) (t cmp : Word) (marked : Bool)
  | fe (full : Bool) (line : Nat)
  | cache (inv : Bool) (h : Handle) (ea pa : Nat) (marked : Bool)
  | rel (sc : Scope)
  | rdrain
  | remote (r : RemoteOp)
  | bclose (b : BitVec 2) (sem : BitVec 8) (inc : BitVec 4)
  | engine (q : BitVec 3) (packet : Packet64)
  | mload (id : Nat) (h : Handle) (marked : Bool)
  | push (id : Nat)
  | macc (acc : BitVec 4) (row : BitVec 7) (seg : BitVec 2) (ovl raw f32 : Bool) (v : Wide)
  | mrel (b : BitVec 7) (acc : BitVec 4) (tile : Bool)
  | tsload (off : Word)
  | tsrun (entry : BitVec 8) (mxo : Lanes) (h : Handle) (fm : BitVec 2)
  | sopen (capc : BitVec 4)
  | sclose (e : Word)
  | ssend (e : Word) (item : Packet64)
  | sxfer (e carrier : Word)
  | srecv (e : Word) (x : Option XferBody)
  | jopen (d : Packet64)
  | jemit (j : Word) (recd : Packet64) (replayed : Bool)
  | jtrunc (j step ckpt : Word)
  | jpart (j part : Word)
  | jrep (seqid : Word)
  | fork (task : BitVec 256)
  | joinTake (core : Nat) (key : Nat)
  | jadd (j : BitVec 6) (n : Word)
  | wcan (obj : BitVec 12)
  | wdone (w : Word)
  deriving DecidableEq, Repr

/-- A release entry: issue number, the token of its pending result (0 none), its captured slot and generation
(R309, R316), and what it does. -/
structure RelItem where
  seq  : Nat
  tok  : Nat
  unit : Nat
  slot : BitVec 4
  gen  : BitVec 12
  body : RelBody
  deriving DecidableEq, Repr

/-- An entry of the signal buffer (R149). -/
structure Sig where
  sem  : BitVec 8
  isSet : Bool
  val  : Nat
  slot : BitVec 4
  gen  : BitVec 12
  deriving DecidableEq, Repr

/-- What acts after a pitch's release (R168 to R171). -/
inductive After
  | none
  | swTrap (cause : Nat) (arg : Word) (addr : Nat)
  | tret
  | exit (status : Word)
  | yield
  deriving DecidableEq, Repr

/-- One pitch on its context's release path (R247): what is left of each step. -/
structure PitchRel where
  pitch : Nat
  step1 : List RelItem
  step2 : List RelItem
  sigs  : List Sig
  /-- a rel or rdrain has begun to wait and its marker stands in the FIFO (R249) -/
  begun : Bool
  /-- the unit that issued it, its launch and work object (R275, R381), and whether that was stopped by a cancellation (R284) -/
  uid   : BitVec 32 := 0
  lid   : Word := 0
  lobj  : BitVec 12 := 0
  dropped : Bool := false
  deriving DecidableEq, Repr

/-- A gathered row (R210): from which cycle a pop finds it, and its data. -/
structure GRow where
  due  : Nat
  row  : Lanes
  mark : Mark
  deriving DecidableEq, Repr

/-- Where a bundle can block (R142). -/
inductive BlockPoint
  | headerWait | swait | pendingRead | handle | walks | emptyLine | busyTile | locked | fullQueue | emptyStream
  | jemit | join | sleep
  deriving DecidableEq, Repr

/-- The states of a context (R141). A saved context is one marked free whose unit's row has RST 2 (R400). -/
inductive CtxState | free | ready | issuing | blocked (b : BlockPoint) | stopped
  deriving DecidableEq, Repr

/-- What a trap reports (R389, R390): operand and slot numbers as tcause holds them. -/
structure TrapInfo where
  cause : Nat
  sub   : Nat := 0
  unit  : Nat := 63
  slot  : Nat := 7
  opnd  : Nat := 3
  arg   : Word := 0
  info  : Word := 0
  /-- taddr, where it is not the bundle's own address (R116) -/
  addr  : Option Nat := none
  deriving DecidableEq, Repr

/-- A held asynchronous trap (R399): the queue and claimed index of a promise (R391). -/
structure AsyncTrap where
  q   : Nat
  idx : Nat
  deriving DecidableEq, Repr

/-- A batch (R292). -/
structure Batch where
  peers : List (BitVec 12) := []
  ovl  : Bool := false
  /-- classes of the issuer's refusals and timeouts -/
  map   : BitVec 16 := 0
  deriving DecidableEq, Repr

/-- A bclose that is being performed (R292): peers still to be asked, close requests unanswered, what has come in. -/
structure Closing where
  b     : BitVec 2
  left  : List (BitVec 12)
  wait  : List Nat
  map   : BitVec 16
  peers : Nat
  count : Nat
  deriving DecidableEq, Repr

/-- The kernel a unit runs and its dictionary window (R57, R84). -/
structure Kernel where
  code   : Word := 0
  ncode  : Nat := 0
  npitch : Nat := 0
  ptab   : Word := 0
  smap   : Word := 0
  dict   : Word := 0
  ndict  : Nat := 0
  data   : Word := 0
  dbase  : Nat := 0
  dlen   : Nat := 0
  deriving DecidableEq, Repr

/-- The next bundle of a context: its code address, the empty bundles of an idle run already issued there (R56),
and a transfer waiting for its delay bundle (R153) with the lk of a call (R154). -/
structure NextAddr where
  pc    : Nat := 0
  idle  : Nat := 0
  xfer  : Option (Word × Option Nat) := none
  /-- reached by a redirect: it must be a pitch start (R397) -/
  enter : Bool := false
  /-- the transfer is a ret or bix of a cairn bundle (R166) -/
  cairn : Bool := false
  deriving DecidableEq, Repr

/-- The shadow of the last released pitch (R393). -/
structure Shadow where
  bank : Bank := {}
  next : NextAddr := {}
  wake : Option Word := none
  deriving DecidableEq, Repr

/-- A trap frame (R398, R401): record word 1 and the nine loop registers; and the whole next address where the trap stopped,
with a transfer whose delay bundle stands there (R153). -/
structure TrapFrame where
  raddr : Nat := 0
  taddr : Nat := 0
  loops : Tab Word := []
  next  : NextAddr := {}
  deriving DecidableEq, Repr

/-- A hardware context (R11, R141). (DESIGN CHOICE, log 1) -/
structure Ctx where
  st      : CtxState := .free
  bank    : Bank := {}
  next    : NextAddr := {}
  kern    : Kernel := {}
  uid     : BitVec 32 := 0
  lid     : Word := 0
  la      : Tab Word := []
  lobj    : BitVec 12 := 0
  prio    : BitVec 2 := 0
  /-- generation of the unit's bank (R308) -/
  stamp   : BitVec 12 := 0
  pitch   : Nat := 0
  flight  : List Landing := []
  divFree : Nat := 0
  loads   : List PendLoad := []
  log     : Tab Nat := []
  sigs    : List Sig := []
  rel     : List RelItem := []
  path    : List PitchRel := []
  counts  : Tab Nat := []
  after   : After := .none
  shadow  : Shadow := {}
  replay  : List Landing := []
  /-- replay records wait for the next examination (R394): due cycles are relative -/
  replayWait : Bool := false
  obs     : Nat := 0
  sig     : BitVec 32 := 0
  mism    : Nat := 0
  /-- index queue and data queue (R210) -/
  iq      : List GRow := []
  gq      : List GRow := []
  wake    : Option Word := none
  hnd     : Bool := false
  frame   : TrapFrame := {}
  held    : List AsyncTrap := []
  lost    : Nat := 0
  /-- the trap record in the holding register (R392) and whether it is in the queue -/
  record  : Option (List Word) := none
  queued  : Bool := false
  /-- index of the record in the trap queue -/
  recIdx  : Nat := 0
  nr      : Bool := false
  destroyed : Bool := false
  batches : Tab Batch := []
  closing : Option Closing := none
  unacked : List (Nat × RemoteOp) := []
  /-- remote loads issued and not landed (R251, R291): token, pitch and bundle -/
  remote  : List (Nat × Nat × Nat) := []
  /-- number of the bundle whose rel acted last in the release path (R249) -/
  relSeq  : Nat := 0
  /-- tokens of ssend and sxfer results that have not landed (R332), and of jrec results (R348) -/
  sx      : List Nat := []
  jrecs   : List Nat := []
  /-- the journal step at which the bundle in examination first found its jemit unjournalled (R351) -/
  jfirst  : Option (Nat × BitVec 32) := none
  /-- the bundle in examination has blocked in an srecv before (R342) -/
  rcvWait : Bool := false
  pre     : Bool := false
  cancel  : Bool := false
  /-- the last bundle was a cairn, or the delay bundle of a cairn's br.ret or br.bix (R166) -/
  atCairn : Bool := false
  /-- a held trap was there at the last pitch end, and is delivered after that release (R399) -/
  asyncDue : Bool := false
  /-- killed once its record is in the trap queue (R408, R409) -/
  dying   : Bool := false
  last    : Nat := 0
  deriving DecidableEq, Repr

/-- The position of the slot being examined: core, context of the core, issue number, code address of the bundle,
and its header's BI, PITCH and CAIRN. -/
structure Cur where
  core  : Nat := 0
  ctx   : Nat := 0
  seq   : Nat := 0
  addr  : Nat := 0
  /-- code address that follows the bundle -/
  nextA : Nat := 0
  bi    : BitVec 16 := 0
  pitch : Bool := true
  cairn : Bool := true
  /-- plain moves and other writes that take place at commit, with their slots, in slot order (R67) -/
  moves : List (Nat × RegWrite) := []
  /-- destinations that become pending at commit (R127) -/
  pends : List (Reg × Pend) := []
  /-- a transfer the bundle takes (R153) -/
  xfer  : Option (Word × Option Nat) := none
  deriving DecidableEq, Repr

/-- A table walk in flight (R116, R121): the context and handle register it serves, the pending handle's token. -/
structure Walk where
  id    : Nat
  ctx   : Nat
  reg   : Nat
  va    : Word
  slot  : BitVec 4
  gen   : BitVec 12
  tok   : Nat
  pitch : Nat
  addr  : Nat
  /-- re-translation of a revoked handle (R121) -/
  again : Bool
  /-- failed with this subcause (R113); the trap waits for its point (R116) -/
  failed : Option Nat
  /-- the marked release entry it serves, by bundle and unit (R128) -/
  item  : Option (Nat × Nat) := none
  /-- the slot's root as it began (R302) -/
  root  : Word := 0
  deriving DecidableEq, Repr

/-- A leaf's fields as a translation yields them (R111). -/
structure Leaf where
  ts  : BitVec 4
  key : BitVec 8
  pfn : BitVec 27
  ps  : BitVec 4
  sh  : Bool
  wr  : Bool
  rd  : Bool
  deriving DecidableEq, Repr

/-- A translation-cache entry (R119). -/
structure TcEntry where
  slot : BitVec 4
  page : Nat
  leaf : Leaf
  deriving DecidableEq, Repr

/-- A sector held by a cache (R135, R246): data, dirty-byte mask, stamp, poison, the KEY and the world it was filled under (R421,
R422), and the slot and generation of the last write into it (R309). -/
structure Sector where
  data   : Lanes := 0
  mask   : BitVec 128 := 0
  stamp  : BitVec 12 := 0
  poison : Bool := false
  key    : BitVec 8 := 0
  world  : BitVec 2 := 0
  slot   : BitVec 4 := 0
  wgen   : BitVec 12 := 0
  deriving DecidableEq, Repr

/-- A 1 KiB line of an L1 or RDC (R135, R138): the physical line number, its sharing class, valid sectors. -/
structure CLine where
  line : Nat
  sh   : Bool
  sect : Tab Sector
  deriving DecidableEq, Repr

/-- The dirty-line FIFO (R136): lines, and the markers of rel entries (R249). -/
inductive FifoEntry
  | line (l : Nat)
  | marker (ctx pitch : Nat)
  deriving DecidableEq, Repr

/-- A push or mload of the matrix unit (R218). -/
structure MOp where
  id    : Nat
  ctx   : Nat
  pitch : Nat
  seq   : Nat
  /-- true: mload -/
  load  : Bool
  b     : BitVec 7
  gang  : Bool
  acc   : BitVec 4
  /-- row time R (R221), format code and bias of A or of the loaded tile -/
  rtime : Nat
  fmt   : BitVec 4
  bias  : BitVec 6
  tag   : BitVec 10
  /-- mpush: scratchpad offset of row 0; mload: offset from the handle -/
  off   : Word
  stride : Nat
  h     : Handle
  /-- mpushv: the row number and the vector -/
  vec   : Option (BitVec 7 × Lanes)
  csem  : Option (BitVec 8)
  slot  : BitVec 4
  gen   : BitVec 12
  released : Bool
  /-- cycle of its release -/
  relAt : Nat
  start : Option Nat
  rows  : Nat
  /-- last A row read: lock gone (R220) -/
  consumed : Bool
  /-- mload: the rows as read, with their poison, once their bytes have come (R226) -/
  data  : Option (List (Lanes × BitVec 128))
  /-- R221's limit of pushes in flight on its tile -/
  lim   : Nat
  deriving DecidableEq, Repr

/-- A macc or mrel handed to the matrix unit that waits for earlier work (R232, R233). -/
inductive MActBody
  | macc (acc : BitVec 4) (row : BitVec 7) (seg : BitVec 2) (ovl raw f32 : Bool) (v : Wide)
  | mrel (b : BitVec 7) (acc : BitVec 4) (tile : Bool)
  deriving DecidableEq, Repr

/-- A waiting macc or mrel: its issue number, slot and generation. -/
structure MAct where
  seq  : Nat
  slot : BitVec 4
  gen  : BitVec 12
  body : MActBody
  deriving DecidableEq, Repr

/-- An accumulator tile (R215): rows of 128 x 32 bits, tag, stamp, poisoned elements by row. -/
structure Tile where
  rows   : Tab (BitVec 4096) := []
  tag    : BitVec 10 := 0
  stamp  : BitVec 12 := 0
  poison : Tab (BitVec 128) := []
  deriving DecidableEq, Repr

/-- A B slot (R214): rows of 128 elements in 8-bit lanes with the tag they were loaded under (R222), its record, and the poisoned
elements of each row. -/
structure BSlot where
  rows   : Tab Lanes := []
  dtag   : BitVec 10 := 0
  gen    : BitVec 12 := 0
  spad   : Bool := false
  tag    : BitVec 10 := 0
  gang   : Bool := false
  loading : Bool := false
  stride : BitVec 20 := 0
  srcva  : BitVec 72 := 0
  full   : Bool := false
  poison : Tab (BitVec 128) := []
  deriving DecidableEq, Repr

/-- The transposer (R234). -/
structure Xp where
  w     : Nat := 8
  /-- a unit started while another context owned the transposer: w is 8 once it is free (R235) -/
  restart : Bool := false
  fill  : List (Lanes × Mark) := []
  drain : List (Lanes × Mark) := []
  fillTag  : Option (BitVec 10) := none
  drainTag : Option (BitVec 10) := none
  col   : Nat := 0
  /-- cycle from which the drain block can be popped (R235) -/
  avail : Nat := 0
  owner : Option Nat := none
  deriving DecidableEq, Repr

/-- The tile sequencer (R236 to R239). -/
structure Ts where
  entries : Tab (BitVec 128) := []
  nent   : Nat := 0
  stamp  : BitVec 12 := 0
  c      : Tab (BitVec 32) := []
  l      : Tab (BitVec 32) := []
  mxo    : Lanes := 0
  h      : Handle := {}
  fm     : BitVec 2 := 0
  run    : Bool := false
  stop   : Bool := false
  loaded : Bool := false
  err    : BitVec 5 := 0
  state  : BitVec 8 := 0
  steps  : BitVec 32 := 0
  owner  : Nat := 0
  slot   : BitVec 4 := 0
  gen    : BitVec 12 := 0
  deriving DecidableEq, Repr

/-- A task on a deque (R381, R384): the context and pitch that hold it, if it is taken in a pitch not yet released, and whether it
was taken at the head. -/
structure Task where
  key  : Nat
  word : BitVec 256
  lobj : BitVec 12
  slot : BitVec 4
  gen  : BitVec 12
  held : Option (Nat × Nat × Bool)
  deriving DecidableEq, Repr

/-- A segment an engine command skipped (R276): from which of its accesses on, and the kernel's answer. -/
structure FixUp where
  base   : Nat
  size   : Nat
  start  : Nat
  answer : Option Bool
  deriving DecidableEq, Repr

/-- A command's claim by a context (R273): its index, the context, the token of its promise, and the unit that issued
it with its launch and work object (R275, R284). -/
structure Claim where
  idx  : Nat
  ctx  : Nat
  tok  : Nat
  lid  : Word
  uid  : BitVec 32
  lobj : BitVec 12
  /-- its unit was stopped by a cancellation (R284) -/
  dropped : Bool
  deriving DecidableEq, Repr

/-- An admitted engine command (R268 to R276). -/
structure Cmd where
  idx    : Nat
  packet : Packet64
  prom   : Word
  owner  : Option Claim
  /-- STAT it is bound to retire with whatever it does: 3 stale, 4 dropped, 0 none (R271) -/
  fate   : Nat
  missed : Bool
  /-- its wait is met and taken (R270, R284) -/
  began  : Bool
  /-- accesses done; all of them done -/
  done   : Nat
  finished : Bool
  /-- an error that makes STAT 2 (R271) -/
  err    : Bool
  fixes  : List FixUp
  /-- replay of served segments: the segment and the access it has reached (R276) -/
  rpos   : Nat × Nat
  /-- lines it writes and has not set full (R273); lines with a skipped access -/
  marked : List Nat
  skipped : List Nat
  /-- recorded WIDX of a qfence (R281) -/
  fence  : List (Nat × Nat)
  /-- csr: base, elements to gather, the row starts read by row (R279) -/
  csr    : Nat × Nat
  rows   : Tab Nat
  /-- coll: members' contributions seen, device time of the first, and the result once it is known (R283) -/
  members : List CollMember
  first  : Option Nat
  /-- coll: the descriptor and the own contribution as they were read and sent (R283) -/
  own    : Option (List Byte × List (Byte × Bool)) := none
  /-- what the addresses or values of its results derive from, a csr's base or a collective's descriptor, was read poisoned
  (R413) -/
  dpois  : Bool := false
  result : Option (List (Byte × Bool))
  deriving DecidableEq, Repr

/-- A promise of an admitted command that has not landed (R274): context, token, the cycle from which it lands, PROM. -/
structure Promise where
  ctx  : Nat
  tok  : Nat
  due  : Nat
  prom : Word
  deriving DecidableEq, Repr

/-- One engine command queue (R265 to R282). -/
structure EngQ where
  cfg    : Word := 0
  /-- EN was written 0 and the queue still drains (R265) -/
  closing : Bool := false
  /-- next index taken in -/
  adm    : Nat := 0
  cmds   : List Cmd := []
  claims : List Claim := []
  proms  : List Promise := []
  errc   : Nat := 0
  deriving DecidableEq, Repr

/-- A dictionary entry (R58). -/
structure DictEntry where
  bits  : BundleBits
  stamp : BitVec 12
  poison : Bool := false
  deriving DecidableEq, Repr

/-- A place of a saved unit that still waits for a result (R401 to R403): its save area, the place, what it waits for, and the
effective address of a result that came as a remote error (R391). -/
structure SavedPend where
  area : Nat
  reg  : Reg
  pend : Pend
  va   : Word := 0
  deriving DecidableEq, Repr

/-- A unit in a save area (R376, R400): the area, its row, unit and launch, the slot and generation it was written under,
whether it runs again, and how it was stopped. What the layout of R401 has no bytes for is kept here: the launch, the marks of
registers, the whole next addresses of the context and of its trap frame, the replay records, the wake time, the trap queue
entry and the stream and journal results it waits for. (DESIGN CHOICE, log 41) -/
structure SavedUnit where
  savea : Nat
  row   : Nat
  uid   : BitVec 32
  lid   : Word := 0
  lobj  : BitVec 12
  slot  : BitVec 4
  gen   : BitVec 12
  restored : Bool := false
  stopped : Bool := false
  hnd   : Bool := false
  nr    : Bool := false
  recIdx : Nat := 0
  marks : Tab Mark := []
  next  : NextAddr := {}
  frameNext : NextAddr := {}
  replay : List Landing := []
  replayWait : Bool := false
  wake  : Option Word := none
  sx    : List Nat := []
  jrecs : List Nat := []
  lost  : Nat := 0
  /-- its ring was found full, and the kernel was told (R403) -/
  full  : Bool := false
  deriving DecidableEq, Repr

/-- A core (R18). (DESIGN CHOICE, log 1) -/
structure Core where
  q       : Tab (BitVec 16) := []
  qStamp  : Tab (BitVec 12) := []
  jc      : Tab (BitVec 32) := []
  jcStamp : Tab (BitVec 12) := []
  tiles   : Tab Tile := []
  bslots  : Tab BSlot := []
  mops    : List MOp := []
  macts   : List MAct := []
  spad    : Tab Byte := []
  spadFull : Tab Bool := []
  spadStamp : Tab (BitVec 12) := []
  spadPoison : Tab Bool := []
  dict    : Tab (Option DictEntry) := []
  deque   : List Task := []
  /-- index of the deque's tail entry; the list begins at its head (R388) -/
  dqTail  : BitVec 8 := 0
  rows    : Tab Packet64 := []
  /-- the stamp of each row (R308) -/
  rowStamp : Tab (BitVec 12) := []
  /-- rows whose record waits for dispatch, and pending entries in commit order (R375) -/
  goRows  : List Nat := []
  goPend  : List Nat := []
  xp      : Xp := {}
  ts      : Ts := {}
  l1      : List CLine := []
  fifo    : List FifoEntry := []
  tc      : List TcEntry := []
  walks   : List Walk := []
  eq      : Tab EngQ := []
  slot    : BitVec 4 := 0
  slotBusy : Bool := false
  tqcfg   : Word := 0
  csave   : Word := 0
  crest   : Word := 0
  tctl    : Tab Word := []
  /-- the reply slots of each row, with the save area of the unit they belong to (R403) -/
  replies : Tab (List (Nat × Reply)) := []
  /-- places of saved units that wait, and replies on their way to saved units (R403) -/
  saved   : List SavedPend := []
  units   : List SavedUnit := []
  toSaved : List (Nat × Reply) := []
  issuing : Option Nat := none
  nextIssue : Nat := 0
  parked  : Bool := false
  deriving DecidableEq, Repr

/-- A block migration in progress (R300). -/
structure Migr where
  src    : Nat
  dst    : Nat
  copied : Nat
  dirty  : BitVec 512
  hold   : Option Nat
  deriving DecidableEq, Repr

/-- A die's memory system (R120, R138 to R140, R307, R320, R418). (DESIGN CHOICE, log 1) -/
structure Die where
  rdc     : List CLine := []
  /-- the L2 directory: slice, line, way, filler's slot (R139), oldest first -/
  l2      : List (Nat × Nat × Nat × BitVec 4) := []
  wmask   : Tab (BitVec 16) := []
  sdva    : Word := 0
  sdctl   : Word := 0
  /-- a shootdown in progress: bundles issued before it have smaller numbers; the physical pages it covers (R120) -/
  sdSeq   : Nat := 0
  /-- tokens of remote operations issued before it are no greater (R120) -/
  sdTok   : Nat := 0
  /-- SDVA as it stood when BUSY was set -/
  sdPage  : Word := 0
  sdPages : List (Nat × Nat) := []
  blkasn  : Word := 0
  owner   : Tab (BitVec 5) := []
  swpos   : Nat := 0
  passDone : Bool := false
  regs    : Tab Word := []
  corrBlk : Tab Nat := []
  remap   : Tab Nat := []
  /-- spare blocks taken so far, and candidates that wait for the one migration at a time (R417) -/
  spared  : Nat := 0
  cands   : List Nat := []
  /-- candidates logged in RTCTL.PEND and not migrated (R417) -/
  logged  : List Nat := []
  migr    : Option Migr := none
  /-- by channel, the wires moved to spares, in the spares' order: group and wire (R415) -/
  lanes   : Tab (List (BitVec 6 × BitVec 6)) := []
  deriving DecidableEq, Repr

/-- A tenancy slot (R301, R302). -/
structure TSlot where
  gen    : BitVec 12 := 0
  floor  : BitVec 12 := 0
  pstart : BitVec 12 := 0
  root   : Word := 0
  busy   : Bool := false
  deny   : Bool := false
  deriving DecidableEq, Repr

/-- DRAM contents at home (R1, R245) as plaintext; by sector (R19) the stamp and the poison; and by 16-byte block the
key it is enciphered under (R422), 0 where hardware wrote zeros. (DESIGN CHOICE, log 4; DEDUCED, log 67) -/
structure Mem where
  bytes  : List Host.Cell := []
  stamp  : Tab (BitVec 12) := []
  poison : Tab Bool := []
  key    : Tab Nat := []
  deriving DecidableEq, Repr

/-- An outstanding request of the fabric interface (R294): who asked and for what. -/
structure Tag where
  inc   : BitVec 4 := 0
  /-- device time, in ns, of the last issue under each incarnation -/
  last  : Tab Nat := []
  req   : Option (Nat × Nat × RemoteOp) := none
  sent  : Nat := 0
  deriving DecidableEq, Repr

/-- An entry of the tally table (R292). -/
structure Tally where
  smod  : BitVec 12
  sctx  : BitVec 9
  batch : BitVec 2
  map   : BitVec 16
  count : Nat
  used  : Nat
  deriving DecidableEq, Repr

/-- Why a step stops. No rule of the spec stops the whole machine, so no constructor of the model's meanings raises
one in a run; the type is closed. (DESIGN CHOICE, log 11) -/
inductive Fault
  /-- raised by nothing: kept so that the type has a value; safe -/
  | none
  deriving DecidableEq, Repr

/-- Why an instruction has no meaning here. -/
inductive Refusal
  /-- raised by an arm of exec that has no meaning yet; safe -/
  | notModelled (mnemonic : String)
  deriving DecidableEq, Repr

/-- What is handed to a producer end (R334, R337): data; an end to move, by its name and check value; or the end transfer
once the end has become one. -/
inductive SendBody
  | data (x : Packet64)
  | move (sid : StreamId) (cons : Bool) (chk : BitVec 32)
  | xfer (x : XferBody)
  deriving DecidableEq, Repr

/-- An item handed to a producer end: its result's context and token, the issue generation, and for an emission of a
journal its sequence number and step (R350). -/
structure SendItem where
  body : SendBody
  ctx  : Nat
  tok  : Nat
  slot : BitVec 4
  gen  : BitVec 12
  forced : Option (BitVec 32 × BitVec 32)
  deriving DecidableEq, Repr

/-- A stored item of a consumer end (R329, R337): data lies in the receive buffer; the module that sent it. -/
inductive Stored
  | data (src : BitVec 12)
  | xfer (x : XferBody) (src : BitVec 12)
  deriving DecidableEq, Repr

/-- An end record (R328) and what its holder's engine keeps for it. -/
structure EndRec where
  chk   : BitVec 32
  slot  : BitVec 4
  gen   : BitVec 12
  state : BitVec 4 := 0
  capc  : BitVec 4
  nseq  : BitVec 32 := 0
  aseq  : BitVec 32 := 0
  peer  : BitVec 12
  mc    : BitVec 8 := 0
  pmc   : BitVec 8 := 0
  /-- consumer: address of the receive buffer -/
  buf   : Nat := 0
  /-- producer: the count of items consumed, as last reported -/
  consumed : BitVec 32 := 0
  /-- producer: handed over and not sent; accepted above ASEQ -/
  queue : List SendItem := []
  acked : List (BitVec 32) := []
  /-- consumer: reservations, in order, each of a context's pitch (R335); stored items by sequence number -/
  resv  : List (Nat × Nat × BitVec 32) := []
  store : Tab Stored := []
  /-- consumer: a space report is due (R331) by this device time -/
  report : Option Nat := none
  /-- consumer: nothing from this number on comes any more (R338, R340) -/
  endSeq : Option (BitVec 32) := none
  /-- consumer: the belay note (R349); until when and for which module's failure orphaning is held off (R357) -/
  note  : Option (BitVec 12) := none
  hold  : Option (Nat × BitVec 12) := none
  /-- producer: the journal bound to it -/
  journal : Option Nat := none
  /-- sxfers of the end that wait for their release (R327): the issuing contexts and their pitches -/
  xferBy : List (Nat × Nat) := []
  /-- consumer: the old holder that has not sent drained, and the move it left by (R339) -/
  old   : Option (BitVec 8 × BitVec 12) := none
  /-- moving: STATE as it is but for the move, 0, 2 or 3 (R337, R340) -/
  was   : BitVec 4 := 0
  deriving DecidableEq, Repr

/-- The forwarding record that stands for an end that was closed, to answer the messages of its peer's moves (R338): the
sequence number of its notice, and the end's last record. -/
structure Ended where
  aseq : BitVec 32
  last : EndRec
  deriving DecidableEq, Repr

/-- A forwarding record (R337 to R339): where the end went, and what is still to be passed on or answered. -/
structure FwdRec where
  /-- the end's record as it left, its MC advanced (R328, R337, R388) -/
  last  : EndRec
  dest    : Option (BitVec 12) := none
  bnd   : Option (BitVec 32) := none
  held  : List Msg := []
  /-- consumer: stored undelivered items, and the numbers passed on -/
  items : List (BitVec 32 × ItemBody × BitVec 12) := []
  base  : BitVec 32 := 0
  seen  : List (BitVec 32) := []
  /-- the carrying stream of its transfer item -/
  via   : StreamId
  deriving DecidableEq, Repr

/-- An installation reserved by an srecv of a transfer item (R337): context and pitch, which end, its check value, buffer. -/
structure Inst where
  ctx  : Nat
  pitch : Nat
  cons : Bool
  chk  : BitVec 32
  buf  : Nat
  slot : BitVec 4
  deriving DecidableEq, Repr

/-- An entry of the stream table (R327): the ends held here, the forwarding records, reserved installations, items sent
from here and not accepted, and where a producer end went whose forwarding record is gone. -/
structure StreamEntry where
  prod  : Option EndRec := none
  cons  : Option EndRec := none
  fprod : Option FwdRec := none
  fcons : Option FwdRec := none
  inst  : List Inst := []
  sent  : List (BitVec 32 × SendItem) := []
  went  : Option (BitVec 12) := none
  /-- check values of ends that moved away from here (R342) -/
  left  : List (BitVec 32) := []
  /-- ends closed here (R338) -/
  eprod : Option Ended := none
  econs : Option Ended := none
  /-- kept at HMOD: the name is in use, and which ends are closed (R338) -/
  live  : Bool := false
  prodClosed : Bool := false
  consClosed : Bool := false
  deriving DecidableEq, Repr

/-- A journal ring hosted here (R346, R347, R357): its issuer and entry there, the hosting slot and generation, the ring's
place, the table entry reserved for adoption, and what appends and releases have told. -/
structure Ring where
  iss   : BitVec 12
  jidx  : BitVec 12
  slot  : BitVec 4
  gen   : BitVec 12
  addr  : Nat
  capc  : BitVec 4
  entry : Option Nat
  seqid : Word
  cstep : BitVec 32
  tail  : BitVec 32
  ckpt  : Word
  neseq : BitVec 32
  sid   : StreamId
  holder : BitVec 12
  mc    : BitVec 8
  pmc   : BitVec 8
  ecapc : BitVec 4
  deriving DecidableEq, Repr

/-- A journal table entry (R345). -/
structure Journal where
  /-- bound by jopen, adoption or jrep; false while jopen waits for its partner -/
  live  : Bool
  chk   : BitVec 32
  slot  : BitVec 4
  gen   : BitVec 12
  state : BitVec 4
  iss   : BitVec 12
  part  : BitVec 12
  capc  : BitVec 4
  cur   : BitVec 32
  neseq : BitVec 32
  tail  : BitVec 32
  cstep : BitVec 32
  ckpt  : Word
  seqid : Word
  sid   : StreamId
  /-- the issuer's copies of the held records, by step (R351) -/
  recs  : Tab Packet64 := []
  /-- the append that is not acknowledged, and its record (R351) -/
  sent  : Option (BitVec 32 × Packet64) := none
  /-- the state to return to after a jpart (R355) -/
  prev  : BitVec 4 := 0
  /-- the step after the last one emitted: a later one waits for it (R361) -/
  emit  : BitVec 32
  deriving DecidableEq, Repr

/-- How far a bj operation handed to the belay engine has come (R349, R354, R355): not begun; STATE 4 set, an append still under
way; waiting for a partner's answer since a device time; the ring being copied. -/
inductive JStage | start | armed | asked (since : Nat) | copying
  deriving DecidableEq, Repr

/-- An operation handed to the belay engine (R348). `ahead` are the sends a jopen waits for; `jidx` the entry it has
taken or named. -/
structure JOp where
  ctx   : Nat
  tok   : Nat
  slot  : BitVec 4
  gen   : BitVec 12
  body  : RelBody
  stage : JStage := .start
  ahead : List Nat := []
  jidx  : Nat := 0
  /-- a jpart whose old partner is gone -/
  gap   : Bool := false
  deriving DecidableEq, Repr

/-- Every loaded key as it lies wrapped under the sleep key in the retained domain (R437): the key tables with the import keys,
the public keys, the header keys and the power-step key. A key stands by its number, as everywhere in State. -/
structure Sealed where
  keys    : Tab Nat
  imports : Tab Nat
  pub     : Tab Nat
  fabKey  : Tab Nat
  chipKey : Tab Nat
  psKey   : Option Nat
  deriving DecidableEq, Repr

/-- The caddy (R429 to R438): the identity seed; measurement registers (0 kernel, 1 monitor, 2 firmware) and those recorded at a
sleep; the retained domain's sleep key and what is wrapped under it; import keys by place, PLEAF and the next leaf, certificate
slots with their versions, the verifier queue with the version each entry is bound to, the mailboxes; the public keys and the
on-chip and fabric header keys by world, and the power-step key. -/
structure Caddy where
  seed    : Nat := 0
  meas    : Tab (BitVec 256) := []
  kept    : Tab (BitVec 256) := []
  sleepKey : Nat := 0
  wrapped : Option Sealed := none
  asleep  : Bool := false
  imports : Tab Nat := []
  pleaf   : Nat := 0
  leaf    : Nat := 0
  certs   : Tab (List Byte) := []
  vers    : Tab (BitVec 32) := []
  queue   : List (VerifierKind × VerifierMsg × BitVec 32) := []
  mbox    : Tab Word := []
  pub     : Tab Nat := []
  chipKey : Tab Nat := []
  fabKey  : Tab Nat := []
  psKey   : Option Nat := none
  deriving DecidableEq, Repr

/-- The module's power (R437, R448 to R450): on; deep sleep, DRAM in self-refresh; a power-fail in progress, with what boot flash
held where power came back meanwhile; DRAM in self-refresh; an exact resume in progress; the drained state lost. -/
inductive Power
  | on
  | sleep
  | failing (back : Option BootBlob)
  | refresh
  | resuming (b : BootBlob)
  | lost
  deriving DecidableEq, Repr

/-- A launch whose bind records are not all written yet (R373): its queue, packet, descriptor, argument block, object,
descriptor address, and the next uid. -/
structure LaunchRest where
  wq    : Nat
  pkt   : Packet64
  desc  : Packet64
  args  : Packet64
  obj   : BitVec 12
  desca : Nat
  uid   : Nat
  deriving DecidableEq, Repr

/-- The hub die (R21). (DESIGN CHOICE, log 1) -/
structure Hub where
  slots   : Tab TSlot := []
  regs    : Tab Word := []
  wq      : Tab Word := []
  wobj    : Tab Packet64 := []
  wostage : Packet64 := 0
  /-- launches whose records are being written; SEQIDs of journals reported to Mortan as replay pending (R373) -/
  launches : List LaunchRest := []
  reports : List Word := []
  tags    : Tab Tag := []
  /-- requests that wait to be sent: context, token, request (R291, R294) -/
  waiting : List (Nat × Nat × RemoteOp) := []
  /-- the next FSEQ of a flow out of this module, and what the receiving port has accepted of a flow into it (R428) -/
  fseqOut : Tab (BitVec 32) := []
  fseqIn  : Tab (Option (BitVec 32 × BitVec 1024)) := []
  /-- modules reported down (R340) -/
  downMods : List (BitVec 12) := []
  /-- the module is in power-fail or cold start (R287) -/
  down    : Bool := false
  tally   : List Tally := []
  faultq  : List (Nat × Nat × Nat × Nat) := []
  irqs    : List Nat := []
  passes  : Nat := 0
  passStart : Nat := 0
  streams : Tab StreamEntry := []
  chkNo   : Nat := 0
  /-- receive buffers in use: slot, address, bytes (R330) -/
  bufs    : List (Nat × Nat × Nat) := []
  /-- the journal table, the rings hosted here, operations in the belay engine, and jrec requests without a reply:
  context, token, partner, sending time -/
  journals : Tab Journal := []
  rings   : List Ring := []
  jops    : List JOp := []
  jrecs   : List (Nat × Nat × BitVec 12 × Nat) := []
  wldcfg  : Tab Word := []
  /-- system blocks that are the caddy's own (R419) -/
  caddyBlocks : List Nat := []
  /-- increments of work objects that wait for the last part of the cycle (R150, R369): core, semaphore, amount -/
  sigs    : List (Nat × BitVec 8 × Nat) := []
  /-- the keys of slots and worlds, besides the public ones (R423), and how many keys were drawn -/
  keys    : Tab Nat := []
  keyNo   : Nat := 0
  caddy   : Caddy := {}
  power   : Power := .on
  /-- the configuration blob's sources of power-step datagrams and drain region (R441); when the pins last commanded -/
  psaddr  : List (BitVec 32) := []
  drain   : Word := 0
  pinTime : Option Nat := none
  /-- management frames for the on-die kernel (R443) -/
  frames  : List (List Byte) := []
  deriving DecidableEq, Repr

/-- A granule of on-chip storage under the word code (R410): a register or an element of a latch of a context, a scratchpad line, a
sector of an L1, an RDC or the L2, a dictionary entry, an element of a tile, a row of a B slot. -/
inductive Granule
  | reg (ctx : Nat) (r : Reg)
  | latch (ctx : Nat) (r : Reg) (element : BitVec 4)
  | spad (core line : Nat)
  | l1 (core line sector : Nat)
  | rdc (die line sector : Nat)
  | l2 (sector : Nat)
  | dict (core i : Nat)
  | tile (core acc row col : Nat)
  | brow (core slot row : Nat)
  deriving DecidableEq, Repr

/-- A soft error: an on-chip word, corrected or not (R410); the symbol errors of a DRAM sector that a demand access or a
migration copy reads (R411, R412, R417); or a rejected on-chip packet of an access to a sector, and whether its second copy is
rejected as well (R428). And a reload of Mortan while the module runs, by its image's digest (R431). -/
inductive Upset
  | sram (g : Granule) (uncorrectable : Bool)
  | cell (sector : Nat) (errs : List SymErr) (copy : Bool)
  | packet (sector : Nat) (write again : Bool)
  | reload (digest : BitVec 256)
  deriving DecidableEq, Repr

/-- The state of the machine. (DESIGN CHOICE, log 7) -/
structure State where
  ctxs  : Tab Ctx := []
  cores : Tab Core := []
  dies  : Tab Die := []
  mem   : Mem := {}
  hub   : Hub := {}
  /-- messages this module has sent to itself, oldest first; and those sent elsewhere -/
  net   : List Msg := []
  out   : List Msg := []
  cycle : Nat := 0
  /-- how far the cycle has come (R150): 3 it begins, 0 bundles issue, 1 releases complete, 2 all else -/
  stage : Nat := 0
  /-- device time in ns and the part of a ns gone by, in units of 1/mhz ns (R3, R13) -/
  dtime : Nat := 0
  tfrac : Nat := 0
  mhz   : Nat := 3300
  cur   : Cur := {}
  seq   : Nat := 0
  /-- lines whose bursts the next step finds poisoned (R415) -/
  burst : List Nat := []
  /-- soft errors found as the next step begins (R410, R412, R428) -/
  upsets : List Upset := []
  /-- the model's own: the order of agents and outside inputs, and the counter of free values -/
  agenda : List Instr := []
  fresh : Nat := 0
  deriving DecidableEq, Repr

/-- The machine right after reset: everything zero, empty, free or null, but RTOUT (R294), SWCTL (R320) and PSCTL (R445) and
what the tables of State leave unlisted at another value (RTCTL, the L2 way masks, block owners). (DESIGN CHOICE, logs 1, 2, 5,
6, 7) -/
def State.reset : State :=
  { hub := { regs := [(0x8, 50), (0x3800, 900), (0xC000, 0xFF)] } }

end Sys2Proof.Machine
end

