-- ==== Sys2Proof/Machine/Tab.lean ====
section
/-! DEFINITION. Operations on tables: read with a default, write in rising order of keys, remove. -/

namespace Sys2Proof

/-- The value at a key, the default where none is listed. -/
def Tab.get {α : Type} (d : α) : Tab α → Nat → α
  | [], _ => d
  | (j, v) :: r, k => if j = k then v else Tab.get d r k

/-- Write a value at a key, in rising order of keys. -/
def Tab.set {α : Type} : Tab α → Nat → α → Tab α
  | [], k, v => [(k, v)]
  | (j, w) :: r, k, v =>
    if k < j then (k, v) :: (j, w) :: r
    else if k = j then (k, v) :: r
    else (j, w) :: Tab.set r k v

/-- Remove a key. -/
def Tab.erase {α : Type} : Tab α → Nat → Tab α
  | [], _ => []
  | (j, w) :: r, k => if j = k then Tab.erase r k else (j, w) :: Tab.erase r k

/-- Write a value at a key; the default is not listed. -/
def Tab.put {α : Type} [DecidableEq α] (d : α) (t : Tab α) (k : Nat) (v : α) : Tab α :=
  if v = d then Tab.erase t k else Tab.set t k v

/-- Change the value at a key. -/
def Tab.upd {α : Type} (d : α) (t : Tab α) (k : Nat) (f : α → α) : Tab α := Tab.set t k (f (Tab.get d t k))

/-- Remove the keys lo to hi - 1 of a table. -/
def Tab.eraseRange {α : Type} (t : Tab α) (lo hi : Nat) : Tab α := t.filter fun e => e.1 < lo || hi ≤ e.1

/-- Rising keys from a bound on, none listed at the default. -/
def Tab.wfFrom {α : Type} [DecidableEq α] (d : α) : Nat → Tab α → Bool
  | _, [] => true
  | b, (k, v) :: r => decide (b ≤ k) && decide (v ≠ d) && Tab.wfFrom d (k + 1) r

/-- The canonical form: strictly rising keys, no entry equal to the default. -/
def Tab.wf {α : Type} [DecidableEq α] (d : α) (t : Tab α) : Bool := Tab.wfFrom d 0 t

theorem Tab.get_set_same {α : Type} (d : α) (t : Tab α) (k : Nat) (v : α) : (Tab.set t k v).get d k = v := by
  induction t with
  | nil => simp [Tab.set, Tab.get]
  | cons h r ih =>
    obtain ⟨j, w⟩ := h
    simp only [Tab.set]
    split
    · simp [Tab.get]
    · split
      · simp [Tab.get]
      · rename_i h1 h2
        simp only [Tab.get]; rw [if_neg (fun e => h2 e.symm)]; exact ih

theorem Tab.get_set_ne {α : Type} (d : α) (t : Tab α) {k j : Nat} (v : α) (h : j ≠ k) :
    (Tab.set t k v).get d j = t.get d j := by
  induction t with
  | nil => simp [Tab.set, Tab.get, h.symm]
  | cons x r ih =>
    obtain ⟨i, w⟩ := x
    simp only [Tab.set]
    split
    · simp [Tab.get, h.symm]
    · split
      · subst_vars; simp [Tab.get, h.symm]
      · simp only [Tab.get, ih]

@[simp] theorem Tab.get_set {α : Type} (d : α) (t : Tab α) (k j : Nat) (v : α) :
    (Tab.set t k v).get d j = if j = k then v else t.get d j := by
  by_cases h : j = k
  · subst h; simp [Tab.get_set_same]
  · simp [Tab.get_set_ne d t v h, h]

@[simp] theorem Tab.get_erase {α : Type} (d : α) (t : Tab α) (k j : Nat) :
    (Tab.erase t k).get d j = if j = k then d else t.get d j := by
  induction t with
  | nil => simp [Tab.erase, Tab.get]
  | cons x r ih =>
    obtain ⟨i, w⟩ := x
    simp only [Tab.erase]
    by_cases h : i = k
    · subst h
      simp only [if_true, ih, Tab.get]
      by_cases hj : j = i
      · simp [hj]
      · simp [hj, Ne.symm hj]
    · simp only [h, if_false, Tab.get, ih]
      by_cases hi : i = j
      · subst hi; simp [h]
      · simp [hi]

@[simp] theorem Tab.get_put {α : Type} [DecidableEq α] (d : α) (t : Tab α) (k j : Nat) (v : α) :
    (Tab.put d t k v).get d j = if j = k then v else t.get d j := by
  unfold Tab.put
  split
  · subst_vars; simp
  · simp

theorem Tab.wfFrom_mono {α : Type} [DecidableEq α] (d : α) (t : Tab α) {a b : Nat} (h : a ≤ b)
    (w : Tab.wfFrom d b t = true) : Tab.wfFrom d a t = true := by
  cases t with
  | nil => rfl
  | cons x r =>
    obtain ⟨k, v⟩ := x
    simp only [Tab.wfFrom, Bool.and_eq_true, decide_eq_true_eq] at *
    exact ⟨⟨by omega, w.1.2⟩, w.2⟩

theorem Tab.wfFrom_set {α : Type} [DecidableEq α] (d : α) (t : Tab α) {b k : Nat} {v : α} (hv : v ≠ d)
    (hk : b ≤ k) (w : Tab.wfFrom d b t = true) : Tab.wfFrom d b (Tab.set t k v) = true := by
  induction t generalizing b with
  | nil => simp [Tab.set, Tab.wfFrom, hv, hk]
  | cons x r ih =>
    obtain ⟨j, u⟩ := x
    simp only [Tab.wfFrom, Bool.and_eq_true, decide_eq_true_eq] at w
    simp only [Tab.set]
    split
    · simp only [Tab.wfFrom, Bool.and_eq_true, decide_eq_true_eq]
      exact ⟨⟨hk, hv⟩, ⟨⟨by omega, w.1.2⟩, w.2⟩⟩
    · split
      · simp only [Tab.wfFrom, Bool.and_eq_true, decide_eq_true_eq]
        subst_vars
        exact ⟨⟨hk, hv⟩, w.2⟩
      · simp only [Tab.wfFrom, Bool.and_eq_true, decide_eq_true_eq]
        exact ⟨w.1, ih (by omega) w.2⟩

theorem Tab.wfFrom_erase {α : Type} [DecidableEq α] (d : α) (t : Tab α) {b k : Nat}
    (w : Tab.wfFrom d b t = true) : Tab.wfFrom d b (Tab.erase t k) = true := by
  induction t generalizing b with
  | nil => rfl
  | cons x r ih =>
    obtain ⟨j, u⟩ := x
    simp only [Tab.wfFrom, Bool.and_eq_true, decide_eq_true_eq] at w
    simp only [Tab.erase]
    split
    · exact Tab.wfFrom_mono d _ (by omega : b ≤ j + 1) (ih w.2)
    · simp only [Tab.wfFrom, Bool.and_eq_true, decide_eq_true_eq]
      exact ⟨w.1, ih w.2⟩

/-- Writing keeps the canonical form. -/
theorem Tab.wf_put {α : Type} [DecidableEq α] (d : α) (t : Tab α) (k : Nat) (v : α) (w : Tab.wf d t = true) :
    Tab.wf d (Tab.put d t k v) = true := by
  unfold Tab.put
  split
  · exact Tab.wfFrom_erase d t w
  · rename_i h; exact Tab.wfFrom_set d t h (Nat.zero_le _) w

theorem Tab.wfFrom_eraseRange {α : Type} [DecidableEq α] (d : α) (t : Tab α) {b lo hi : Nat}
    (w : Tab.wfFrom d b t = true) : Tab.wfFrom d b (Tab.eraseRange t lo hi) = true := by
  induction t generalizing b with
  | nil => rfl
  | cons x r ih =>
    obtain ⟨j, u⟩ := x
    simp only [Tab.wfFrom, Bool.and_eq_true, decide_eq_true_eq] at w
    simp only [Tab.eraseRange, List.filter]
    split
    · simp only [Tab.wfFrom, Bool.and_eq_true, decide_eq_true_eq]
      exact ⟨w.1, ih w.2⟩
    · exact Tab.wfFrom_mono d _ (by omega : b ≤ j + 1) (ih w.2)

end Sys2Proof
end

