-- ==== Sys2Proof/Machine/Memory.lean ====
section
/-! DEFINITION. Reading and writing the parts of the state; tenancy judgement (R308 to R312), the home of memory
(R245, R309 to R312, R421 to R423), the caches (R135 to R139, R246) and the scratchpad (R131). -/

namespace Sys2Proof.Machine

/-- Context i, numbered as ctx[8:0] (R14). -/
def State.ctx (s : State) (i : Nat) : Ctx := Tab.get {} s.ctxs i
/-- Replace context i. -/
def State.setCtx (s : State) (i : Nat) (c : Ctx) : State := { s with ctxs := Tab.set s.ctxs i c }
/-- Change context i. -/
def State.modCtx (s : State) (i : Nat) (f : Ctx → Ctx) : State := s.setCtx i (f (s.ctx i))
/-- Core i, numbered as ctx[8:2]. -/
def State.core (s : State) (i : Nat) : Core := Tab.get {} s.cores i
/-- Replace core i. -/
def State.setCore (s : State) (i : Nat) (c : Core) : State := { s with cores := Tab.set s.cores i c }
/-- Change core i. -/
def State.modCore (s : State) (i : Nat) (f : Core → Core) : State := s.setCore i (f (s.core i))
/-- Die i. -/
def State.die (s : State) (i : Nat) : Die := Tab.get {} s.dies i
/-- Replace die i. -/
def State.setDie (s : State) (i : Nat) (d : Die) : State := { s with dies := Tab.set s.dies i d }
/-- Change die i. -/
def State.modDie (s : State) (i : Nat) (f : Die → Die) : State := s.setDie i (f (s.die i))
/-- Tenancy slot t. -/
def State.tslot (s : State) (t : Nat) : TSlot := Tab.get {} s.hub.slots t
/-- Change tenancy slot t. -/
def State.modTslot (s : State) (t : Nat) (f : TSlot → TSlot) : State :=
  { s with hub := { s.hub with slots := Tab.set s.hub.slots t (f (s.tslot t)) } }
/-- The current generation of slot t (R301). -/
def State.gen (s : State) (t : BitVec 4) : BitVec 12 := (s.tslot t.toNat).gen
/-- The slot of core c (R306). -/
def State.coreSlot (s : State) (c : Nat) : BitVec 4 := (s.core c).slot
/-- The current generation of core c's slot. -/
def State.coreGen (s : State) (c : Nat) : BitVec 12 := s.gen (s.coreSlot c)
/-- A hub register by its offset (R439), at a value of reset where none has been written. -/
def State.hubReg (s : State) (off : Nat) : Word := Tab.get 0 s.hub.regs off
/-- Write a hub register. -/
def State.setHubReg (s : State) (off : Nat) (v : Word) : State :=
  { s with hub := { s.hub with regs := Tab.put 0 s.hub.regs off v } }
/-- The number of the issuing context. -/
def State.cid (s : State) : Nat := 4 * s.cur.core + s.cur.ctx
/-- The issuing context. -/
def State.me (s : State) : Ctx := s.ctx s.cid
/-- Change the issuing context. -/
def State.modMe (s : State) (f : Ctx → Ctx) : State := s.modCtx s.cid f
/-- The core of the issuing context. -/
def State.myCore (s : State) : Core := s.core s.cur.core
/-- Change the core of the issuing context. -/
def State.modMyCore (s : State) (f : Core → Core) : State := s.modCore s.cur.core f
/-- The die of a core. -/
def dieOf (core : Nat) : Nat := core / 32

/-- The canonical form of DRAM and of what is kept by sector and block: rising addresses, and no entry that equals what
an unlisted one reads as. (DESIGN CHOICE, log 4) -/
def Memory.wf (m : Mem) : Bool :=
  Tab.wf 0 m.bytes && Tab.wf 0 m.stamp && Tab.wf false m.poison && Tab.wf 0 m.key

/-- The state's memory has the canonical form. -/
def State.memOk (s : State) : Prop := Memory.wf s.mem = true

/-- Add to a saturating counter field of a die's log register (R418): bits lo + n - 1 to lo. -/
def State.countDie (s : State) (d off lo n k : Nat) : State :=
  s.modDie d fun x =>
    let v := Tab.get 0 x.regs off
    let c := min (field v lo n + k) (2 ^ n - 1)
    let v2 := (v &&& ~~~ (BitVec.ofNat 64 (maskBits lo n))) ||| BitVec.ofNat 64 (c * 2 ^ lo)
    { x with regs := Tab.put 0 x.regs off v2 }

/-- Log a cell error of a sector (R418): uncorrectable or the symbols corrected; source 0 demand, 1 sweep, 2 migration
copy, 3 journal checksum. -/
def State.logCell (s : State) (d sec : Nat) (unc : Bool) (nsym src : Nat) : State :=
  let s1 := s.countDie d 0x2100 (if unc then 32 else 0) 32 1
  s1.modDie d fun x =>
    { x with regs := Tab.put 0 x.regs 0x2108 (BitVec.ofNat 64
        (2 ^ 63 + (if unc then 2 ^ 62 else nsym % 8 * 2 ^ 59) + src * 2 ^ 56 + sec % 2 ^ 32 * 2 ^ 7)) }

/-- Raise an interrupt to the general-purpose cores (R392, R418): 1 trap, 2 error. -/
def State.irq (s : State) (k : Nat) : State := { s with hub := { s.hub with irqs := s.hub.irqs ++ [k] } }

/-- The home die of a physical address (R20). -/
def paDie (pa : Nat) : Nat := pa / 2 ^ 37 % 4
/-- The address lies in the populated 96 GiB of its die (R20). -/
def populated (pa : Nat) : Bool := decide (pa < 2 ^ 39) && decide (pa % 2 ^ 37 < 96 * 2 ^ 30)
/-- The L2 slice of an address (R138): the exclusive or of nine 3-bit groups from bit 10. -/
def sliceOf (pa : Nat) : Nat :=
  (List.range 9).foldl (fun a j => a ^^^ (pa / 2 ^ (10 + 3 * j) % 8)) 0

/-- The owner of the block of an address (R307): a slot number, or 16 for the system. -/
def State.owner (s : State) (pa : Nat) : Nat :=
  (Tab.get (16 : BitVec 5) (s.die (paDie pa)).owner (pa % 2 ^ 37 / 65536)).toNat

/-- Whether slot t is in the protected world (R420). -/
def State.prot (s : State) (t : Nat) : Bool := (Tab.get 0 s.hub.wldcfg t).getLsbD 63
/-- The world of a block (R419): its owner's; a system block's the normal world, one of the caddy's own the security world. -/
def State.blockWorld (s : State) (pa : Nat) : Nat :=
  if s.owner pa < 16 then (if s.prot (s.owner pa) then 1 else 0)
  else if s.hub.caddyBlocks.contains (pa / 65536) then 2 else 0

/-- Who makes an access to memory (R309 to R312, R419, R422): the slot it issues under (none: no slot), its captured
generation, whether a leaf with TS of that slot names the page (R311), its KEY and the world of a slotless issuer. -/
structure Acc where
  slot  : Option (BitVec 4)
  gen   : BitVec 12
  sysOk : Bool
  key   : BitVec 8
  world : Nat
  deriving DecidableEq, Repr

/-- The world an access is issued in (R419). -/
def State.accWorld (s : State) (a : Acc) : Nat :=
  match a.slot with
  | some t => if s.prot t.toNat then 1 else 0
  | none => a.world

/-- A key's place in the key table (R422). (DEDUCED, log 67) -/
def keyCode (world owner key : Nat) : Nat :=
  if key < 128 then (world * 17 + owner) * 128 + key else 2 ^ 16 + world * 256 + key

/-- The key of an access to a block: 0 where it does not exist (R422, R423). A public key is the world's own, of the number the
last boot drew it by. (DESIGN CHOICE, log 13) -/
def State.keyId (s : State) (world owner key : Nat) : Nat :=
  if s.hub.caddy.asleep then 0
  else if key = 0 then Tab.get (1 + world) s.hub.caddy.pub world
  else Tab.get 0 s.hub.keys (keyCode world owner key)

/-- The number of the i-th key that is drawn from now on (R423): the keys before the first boot are 0 to 6. (DESIGN CHOICE, log
13) -/
def State.nextKey (s : State) (i : Nat) : Nat := s.hub.keyNo + 7 + i

/-- Where a byte lies in DRAM: in its block, or in the spare that its block is remapped to (R300, R417). (DESIGN CHOICE, log 13) -/
def State.placed (s : State) (pa : Nat) : Nat :=
  let b := pa % 2 ^ 37 / 65536
  paDie pa * 2 ^ 37 + Tab.get b (s.die (paDie pa)).remap b * 65536 + pa % 65536

/-- The 16-byte block of an address as DRAM holds it (R425, R426): its plaintext enciphered under the key it stands under, with the
sector's address for the tweak. -/
def State.cipherBlock (s : State) (pa : Nat) : BitVec 128 :=
  xtsEnc (keyBits (Tab.get 0 s.mem.key (pa / 16))) (s.placed pa / 128) (pa / 16 % 8)
    (ofBytes 128 ((List.range 16).map fun i => Tab.get 0 s.mem.bytes (pa / 16 * 16 + i)))

/-- State holds plaintext with its key; what a reader under key k sees of one byte (R421 to R423): where its key is another, the
decipherment of the stored ciphertext under its own. (DESIGN CHOICE, log 13) -/
def State.decipher (s : State) (k pa : Nat) : Byte :=
  let st := Tab.get 0 s.mem.key (pa / 16)
  if st = 0 ∨ st = k then Tab.get 0 s.mem.bytes pa
  else (xtsDec (keyBits k) (s.placed pa / 128) (pa / 16 % 8) (s.cipherBlock pa)).extractLsb' (8 * (pa % 16)) 8

/-- What a reader of another world sees of one byte: the stored ciphertext (R421); zeros where hardware wrote zeros. (DESIGN
CHOICE, log 13) -/
def State.cipherByte (s : State) (pa : Nat) : Byte :=
  if Tab.get 0 s.mem.key (pa / 16) = 0 then Tab.get 0 s.mem.bytes pa
  else (s.cipherBlock pa).extractLsb' (8 * (pa % 16)) 8

/-- The populated blocks of a die (R307). -/
def dieBlocks : Nat := 1572864
/-- The first block of a die's owner table (R307): 24 blocks at the end of the populated part. (DESIGN CHOICE, log 3) -/
def tableBlock : Nat := dieBlocks - 24
/-- Spare block k of a die (R417), below the owner table. (DESIGN CHOICE, log 3) -/
def spareBlock (k : Nat) : Nat := tableBlock - 1 - k
/-- The block of a die an address lies in. -/
def blockOf (pa : Nat) : Nat := pa % 2 ^ 37 / 65536
/-- An address inside a die's block owner table (R307). -/
def inOwnerTable (pa : Nat) : Bool := decide (tableBlock ≤ blockOf pa) && decide (blockOf pa < dieBlocks)
/-- The byte of the owner table at an address (R307). -/
def State.ownerByte (s : State) (pa : Nat) : Byte :=
  (Tab.get (16 : BitVec 5) (s.die (paDie pa)).owner (pa % 2 ^ 37 - tableBlock * 65536)).setWidth 8
/-- A spare block that is in use (R417). -/
def State.spareUsed (s : State) (pa : Nat) : Bool :=
  decide (blockOf pa < tableBlock) && decide (tableBlock - (s.die (paDie pa)).spared ≤ blockOf pa)

/-- An access the home slice refuses for its slot (R310, R311), or because it names a spare in use (R417). -/
def State.refused (s : State) (a : Acc) (pa : Nat) : Bool :=
  match a.slot with
  | none => s.spareUsed pa
  | some t => s.spareUsed pa || (s.owner pa != t.toNat && !(s.owner pa == 16 && a.sysOk))

/-- The access's own generation is no longer current (R309). -/
def State.staleAcc (s : State) (a : Acc) : Bool :=
  match a.slot with
  | none => false
  | some t => a.gen != s.gen t

/-- The sector of an address carries a stale stamp (R309). -/
def State.staleSector (s : State) (pa : Nat) : Bool :=
  decide (s.owner pa < 16) && (Tab.get 0 s.mem.stamp (pa / 128) != (s.tslot (s.owner pa)).gen)

/-- One byte read at its home (R309 to R312, R413, R421 to R423), with the poison of its sector. (DESIGN CHOICE, log 4) -/
def State.homeRead (s : State) (a : Acc) (pa : Nat) : Byte × Bool :=
  if s.refused a pa then (0, false)
  else if inOwnerTable pa then (s.ownerByte pa, false)
  else if s.staleSector pa then (0, false)
  else
    let p := Tab.get false s.mem.poison (pa / 128) || s.burst.contains (pa / 1024)
    if s.accWorld a ≠ s.blockWorld pa ∧ s.accWorld a ≠ 2 then (s.cipherByte pa, p)
    else
      let k := s.keyId (s.blockWorld pa) (s.owner pa) a.key.toNat
      if k = 0 then (0, false) else (s.decipher k pa, p)

/-- n bytes read at home. -/
def State.homeReads (s : State) (a : Acc) (pa n : Nat) : List (Byte × Bool) :=
  (List.range n).map fun i => s.homeRead a (pa + i)

/-- A sector's zero form (R308): data 0, no poison, no key. -/
def Mem.zeroSector (m : Mem) (sec : Nat) : Mem :=
  { m with
    bytes := Tab.eraseRange m.bytes (128 * sec) (128 * sec + 128)
    poison := Tab.put false m.poison sec false
    key := Tab.eraseRange m.key (8 * sec) (8 * sec + 8) }

/-- Write one byte at home under key k: a block that stands under another key is deciphered under k first (R426). -/
def State.homePut (s : State) (k : Nat) (e : Nat × Byte) : State :=
  let m := s.mem
  let c := e.1 / 16
  let st := Tab.get 0 m.key c
  let bytes :=
    if st = 0 ∨ st = k then m.bytes
    else (List.range 16).foldl (fun b i => Tab.put 0 b (16 * c + i) (s.decipher k (16 * c + i))) m.bytes
  { s with mem := { m with bytes := Tab.put 0 bytes e.1 e.2, key := Tab.put 0 m.key c k } }

/-- Count a refusal at the slice of an address (R310, R418). (DEDUCED, log 66) -/
def State.countRef (s : State) (pa : Nat) : State := s.countDie (paDie pa) (0x2318 + 8 * sliceOf pa) 0 32 1

/-- RTCTL of a die (R418): AUTO 1, RTHR 8 and FREE 1,024 at reset. -/
def Die.rtctl (d : Die) : Word := Tab.get (BitVec.ofNat 64 (2 ^ 63 + 8 * 2 ^ 52 + 1024 * 2 ^ 41)) d.regs 0x2300
/-- Change RTCTL. -/
def Die.setRtctl (d : Die) (v : Word) : Die := { d with regs := Tab.set d.regs 0x2300 v }

/-- A candidate is logged in PEND, once, where it is not migrated (R417, R418). (DEDUCED, log 66) -/
def Die.logPend (d : Die) (b : Nat) : Die :=
  if d.logged.contains b then d
  else ({ d with logged := d.logged ++ [b] }).setRtctl (setField d.rtctl 21 20 (min (field d.rtctl 21 20 + 1) (2 ^ 20 - 1)))

/-- Start the migration of the next candidate (R300, R417): a spare and a remap entry are needed. A candidate that was logged
counts in PEND no longer. (DESIGN CHOICE, log 62) -/
def Die.startMigr (d : Die) : Die :=
  match d.migr, d.cands with
  | none, b :: rest =>
    let free := field d.rtctl 41 11
    if free = 0 then ({ d with cands := rest }).logPend b
    else
      let v := setField d.rtctl 41 11 (free - 1)
      let w := if d.logged.contains b then setField v 21 20 (field v 21 20 - 1) else v
      ({ d with cands := rest, logged := d.logged.filter (· != b), spared := d.spared + 1,
                migr := some ⟨b, spareBlock d.spared, 0, 0, none⟩ }).setRtctl w
  | _, _ => d

/-- The remaining sectors have been copied and the block's remap entry is switched to its spare (R300). -/
def Die.switchMigr (d : Die) : Die :=
  match d.migr with
  | none => d
  | some g => ({ d with migr := none, remap := Tab.set d.remap g.src g.dst } : Die).startMigr

/-- A sector of a migrating block changes at its home (R300): its bit is set. A hold of new writes ends before the change
performs: within 2 us of its beginning by the switch, and the change performs in the spare; later by the return to step 2, and
it performs in the old block. A write is held for no device time. (DESIGN CHOICE, log 62) -/
def State.noteMigr (s : State) (pa : Nat) : State :=
  match (s.die (paDie pa)).migr with
  | none => s
  | some g =>
    if blockOf pa ≠ g.src then s
    else
      match g.hold with
      | some t =>
        if s.dtime < t + 2000 then s.modDie (paDie pa) Die.switchMigr
        else s.modDie (paDie pa) fun d =>
          { d with migr := some { g with hold := none, dirty := g.dirty ||| (1 <<< (pa / 128 % 512)) } }
      | none => s.modDie (paDie pa) fun d => { d with migr := some { g with dirty := g.dirty ||| (1 <<< (pa / 128 % 512)) } }

/-- A write that the memory turns away (R310, R417, R421, R423): refused for its slot, of another world, or under a key that does
not exist. -/
def State.denies (s : State) (a : Acc) (pa : Nat) : Bool :=
  s.refused a pa || (s.accWorld a != s.blockWorld pa && s.accWorld a != 2) ||
    s.keyId (s.blockWorld pa) (s.owner pa) a.key.toNat == 0

/-- A read that its home slice refuses (R310), or whose key does not exist (R423), is counted; one that gives another world's
ciphertext is not (R421). (DEDUCED, log 66) -/
def State.countRead (s : State) (a : Acc) (pa : Nat) : State :=
  if s.refused a pa || (s.denies a pa && (s.accWorld a == s.blockWorld pa || s.accWorld a == 2)) then s.countRef pa else s

/-- One write at home into one sector: the bytes and their addresses, all in that sector (R309 to R312, R413, R421). -/
def State.homeWrite (s : State) (a : Acc) (cells : List (Nat × Byte)) : State :=
  match cells with
  | [] => s
  | (pa, _) :: _ =>
    if s.staleAcc a then s
    else if s.refused a pa then s.countRef pa
    else if inOwnerTable pa then s
    else if s.accWorld a ≠ s.blockWorld pa ∧ s.accWorld a ≠ 2 then s.countRef pa
    else
      let o := s.owner pa
      let k := s.keyId (s.blockWorld pa) o a.key.toNat
      if k = 0 then s.countRef pa
      else
        let sec := pa / 128
        let s1 := if s.staleSector pa then { s with mem := s.mem.zeroSector sec } else s
        let s2 := if o < 16 then
            { s1 with mem := { s1.mem with stamp := Tab.put 0 s1.mem.stamp sec (s1.tslot o).gen } } else s1
        let s3 := if cells.length = 128 then
            { s2 with mem := { s2.mem with poison := Tab.put false s2.mem.poison sec false } } else s2
        (cells.foldl (fun x e => x.homePut k e) s3).noteMigr pa

/-- Cut a run of bytes at sector boundaries. -/
def splitSectors : Nat → Nat → List Byte → List (List (Nat × Byte))
  | 0, _, _ => []
  | _, _, [] => []
  | fuel + 1, pa, l =>
    let n := 128 - pa % 128
    (l.take n).zipIdx.map (fun (b, i) => (pa + i, b)) :: splitSectors fuel (pa + n) (l.drop n)

/-- A run of bytes written at home, sector by sector. -/
def State.homeWrites (s : State) (a : Acc) (pa : Nat) (l : List Byte) : State :=
  (splitSectors (l.length + 1) pa l).foldl (fun x c => x.homeWrite a c) s

/-- Mark a sector at home poisoned with data 0 and a given stamp (R412, R225). -/
def State.poisonHome (s : State) (sec : Nat) : State :=
  let o := s.owner (128 * sec)
  let m := s.mem.zeroSector sec
  let m := { m with poison := Tab.put false m.poison sec true }
  let s1 := s.noteMigr (128 * sec)
  { s1 with mem := if o < 16 then { m with stamp := Tab.put 0 m.stamp sec (s.tslot o).gen } else m }

/-- A sector at home is poisoned and keeps its bytes (R413): a poisoned write-back has been merged into it. -/
def State.poisonFlag (s : State) (sec : Nat) : State :=
  let s1 := s.noteMigr (128 * sec)
  { s1 with mem := { s1.mem with poison := Tab.put false s1.mem.poison sec true } }

/-- Allocation of a line in its L2 slice for a slot (R139), where an access that reaches the home slice misses. The set index is
the model's: bits above the slice hash. (DESIGN CHOICE, log 4) -/
def State.l2Fill (s : State) (pa : Nat) (slot : Option (BitVec 4)) : State :=
  match slot with
  | none => s
  | some t =>
    let d := paDie pa
    let sl := sliceOf pa
    let line := pa / 1024
    let die := s.die d
    if die.l2.any (fun e => e.2.1 == line) then s
    else
      let mask := (Tab.get (0xFFFF : BitVec 16) die.wmask (16 * sl + t.toNat)).toNat
      let inSet := die.l2.filter fun e => e.1 == sl && e.2.1 / 8 % 256 == line / 8 % 256
      let ways := (List.range 16).filter fun w => mask.testBit w
      match ways.find? fun w => inSet.all fun e => e.2.2.1 != w with
      | some w => s.modDie d fun x => { x with l2 := x.l2 ++ [(sl, line, w, t)] }
      | none =>
        match inSet.find? fun e => ways.contains e.2.2.1 with
        | none => s
        | some v => s.modDie d fun x => { x with l2 := (x.l2.erase v) ++ [(sl, line, v.2.2.1, t)] }

/-- Lines an L2 slice holds for a slot (R139, R140). -/
def State.l2occ (s : State) (d sl t : Nat) : Nat :=
  ((s.die d).l2.filter fun e => e.1 == sl && e.2.2.2.toNat == t).length

/-- The sector of a line, if a cache holds it valid. -/
def cacheSector (l : List CLine) (sec : Nat) : Option Sector :=
  match l.find? fun c => c.line == sec / 8 with
  | none => none
  | some c => (c.sect.find? fun e => e.1 == sec % 8).map (·.2)

/-- Put a sector into a line a cache holds. -/
def cachePut (l : List CLine) (sec : Nat) (x : Sector) : List CLine :=
  l.map fun c => if c.line == sec / 8 then { c with sect := Tab.set c.sect (sec % 8) x } else c

/-- Sector data as bytes with addresses, those of the mask only (R246). -/
def maskedCells (sec : Nat) (x : Sector) : List (Nat × Byte) :=
  ((List.range 128).filter fun i => x.mask.getLsbD i).map fun i => (128 * sec + i, x.data.extractLsb' (8 * i) 8)

/-- A fill from the home slice (R135, R246, R309, R310): data and stamp unchanged. -/
def State.homeSector (s : State) (a : Acc) (sec : Nat) : Sector :=
  let rd := s.homeReads a (128 * sec) 128
  { data := ofBytes 1024 (rd.map (·.1))
    stamp := Tab.get 0 s.mem.stamp sec
    poison := (rd.any (·.2))
    key := a.key
    world := BitVec.ofNat 2 (s.accWorld a) }

/-- The access a write-back makes (R309, R422): the writer's slot, the generation of the sector's stamp or last
write, the KEY of the fill. -/
def wbAcc (x : Sector) : Acc := ⟨some x.slot, x.wgen, true, x.key, 0⟩

/-- Write a cached sector's own bytes back to its home (R246). A poisoned dirty sector arrives poisoned. -/
def State.wbHome (s : State) (sec : Nat) (x : Sector) : State :=
  if x.mask = 0 then s
  else
    let s1 := (s.l2Fill (128 * sec) (some x.slot)).homeWrite (wbAcc x) (maskedCells sec x)
    if x.poison && !s.staleAcc (wbAcc x) && !s.denies (wbAcc x) (128 * sec) then s1.poisonFlag sec else s1

/-- Merge a write-back into the die's RDC line (R246). -/
def mergeSector (old new : Sector) : Sector :=
  let m := lanesOf 8 ((List.range 128).map fun i => if new.mask.getLsbD i then 255 else 0)
  { old with
    data := (old.data &&& ~~~m) ||| (new.data &&& m)
    mask := old.mask ||| new.mask
    poison := new.poison || (old.poison && new.mask != BitVec.allOnes 128)
    slot := new.slot, wgen := new.wgen, stamp := new.stamp, key := new.key, world := new.world }

/-- Write a line of an RDC back to its home; its sectors stay valid and clean (R138, R249). -/
def State.wbRdcLine (s : State) (c : CLine) : State :=
  c.sect.foldl (fun x e => x.wbHome (8 * c.line + e.1) e.2) s

/-- Drop a line of an RDC after its write-back (R280). -/
def State.dropRdcLine (s : State) (d line : Nat) : State :=
  (((s.die d).rdc.filter fun c => c.line == line).foldl State.wbRdcLine s).modDie d fun y =>
    { y with rdc := y.rdc.filter fun c => c.line != line }

/-- A clean copy of a line. -/
def CLine.clean (c : CLine) : CLine := { c with sect := c.sect.map fun e => (e.1, { e.2 with mask := 0 }) }

/-- Bring a line into a die's RDC, evicting the oldest line of a full set (R138). -/
def State.rdcLine (s : State) (d line : Nat) : State :=
  let l := (s.die d).rdc
  if l.any (fun c => c.line == line) then s
  else
    let inSet := l.filter fun c => c.line % 1024 == line % 1024
    match inSet with
    | v :: _ =>
      if inSet.length < 8 then s.modDie d fun x => { x with rdc := x.rdc ++ [⟨line, false, []⟩] }
      else (s.wbRdcLine v).modDie d fun x => { x with rdc := (x.rdc.filter fun c => c.line != v.line) ++ [⟨line, false, []⟩] }
    | [] => s.modDie d fun x => { x with rdc := x.rdc ++ [⟨line, false, []⟩] }

/-- A sector comes into a die's RDC from its home slice (R138). -/
def State.rdcRefill (s : State) (d : Nat) (a : Acc) (sec : Nat) : Sector × State :=
  let s1 := ((s.l2Fill (128 * sec) a.slot).countRead a (128 * sec)).rdcLine d (sec / 8)
  let x := s1.homeSector a sec
  (x, s1.modDie d fun y => { y with rdc := cachePut y.rdc sec x })

/-- A cached sector holds what an access reads at home: it was filled under its KEY and in its world (R421, R422). (DESIGN
CHOICE, log 14) -/
def State.sameFill (s : State) (a : Acc) (x : Sector) : Bool := x.key == a.key && x.world == BitVec.ofNat 2 (s.accWorld a)

/-- A sector through a die's RDC, filled from home if absent (R138). One that was filled under another KEY or in another world is
written back first and filled again, so that a reader has what the stored bytes give it (R421, R422); an access whose slot the
home slice refuses reads zero and is counted (R310). (DESIGN CHOICE, log 14) -/
def State.rdcSector (s : State) (d : Nat) (a : Acc) (sec : Nat) : Sector × State :=
  match cacheSector (s.die d).rdc sec with
  | some x =>
    if s.refused a (128 * sec) then ({ key := a.key, world := BitVec.ofNat 2 (s.accWorld a) }, s.countRef (128 * sec))
    else if s.sameFill a x then (x, s)
    else (s.wbHome sec x).rdcRefill d a sec
  | none => s.rdcRefill d a sec

/-- The source of an L1 fill: the home slice for the core's own die, else the die's RDC (R135). The L1's copy starts with no
byte of its own, whatever the RDC has still to write back (R246). -/
def State.fillSource (s : State) (core : Nat) (a : Acc) (sec : Nat) : Sector × State :=
  if paDie (128 * sec) = dieOf core then
    let s1 := (s.l2Fill (128 * sec) a.slot).countRead a (128 * sec)
    (s1.homeSector a sec, s1)
  else
    let e := s.rdcSector (dieOf core) a sec
    ({ e.1 with mask := 0 }, e.2)

/-- Write one sector back from an L1: to the home slice, or to the die's RDC (R135, R137). What the home slice would drop (R309,
R310) does not reach the RDC, where other cores would read it. (DESIGN CHOICE, log 14) -/
def State.wbL1Sector (s : State) (core sec : Nat) (x : Sector) : State :=
  if x.mask = 0 then s
  else if paDie (128 * sec) = dieOf core then s.wbHome sec x
  else if s.staleAcc (wbAcc x) then s
  else if s.denies (wbAcc x) (128 * sec) then s.countRef (128 * sec)
  else
    let d := dieOf core
    let (old, s1) := s.rdcSector d (wbAcc x) sec
    s1.modDie d fun y => { y with rdc := cachePut y.rdc sec (mergeSector old x) }

/-- Write back the dirty sectors of a line of core's L1, which stay valid and clean; its FIFO entry goes (R136, R137). -/
def State.wbL1Line (s : State) (core line : Nat) : State :=
  match (s.core core).l1.find? fun c => c.line == line with
  | none => s
  | some c =>
    let s1 := c.sect.foldl (fun x e => x.wbL1Sector core (8 * line + e.1) e.2) s
    s1.modCore core fun k =>
      { k with l1 := k.l1.map (fun y => if y.line == line then y.clean else y),
               fifo := k.fifo.filter (· != .line line) }

/-- Drop a line from an L1 after its write-back (R135, R137). -/
def State.dropL1Line (s : State) (core line : Nat) : State :=
  (s.wbL1Line core line).modCore core fun k => { k with l1 := k.l1.filter fun c => c.line != line }

/-- Bring a line into an L1: 128 sets of 12 ways, evicting the oldest of a full set (R135). -/
def State.l1Line (s : State) (core line : Nat) (sh : Bool) : State :=
  let l := (s.core core).l1
  if l.any (fun c => c.line == line) then s
  else
    let inSet := l.filter fun c => c.line % 128 == line % 128
    let s1 := match inSet with
      | v :: _ => if inSet.length < 12 then s else s.dropL1Line core v.line
      | [] => s
    s1.modCore core fun k => { k with l1 := k.l1 ++ [⟨line, sh, []⟩] }

/-- The sector is valid in the L1 for an access: one that was filled under its KEY and in its world (R421, R422). (DESIGN
CHOICE, log 14) -/
def State.l1Holds (s : State) (core : Nat) (a : Acc) (sec : Nat) : Bool := (cacheSector (s.core core).l1 sec).any (s.sameFill a)

/-- A sector that a fill is about to replace is written back (R422). -/
def State.l1Yield (s : State) (core sec : Nat) : State :=
  match cacheSector (s.core core).l1 sec with
  | some x => s.wbL1Sector core sec x
  | none => s

/-- Make a sector valid in an L1 (R135). -/
def State.l1Fill (s : State) (core : Nat) (a : Acc) (sh : Bool) (sec : Nat) : State :=
  if s.l1Holds core a sec then s
  else
    let s1 := (s.l1Yield core sec).l1Line core (sec / 8) sh
    let (x, s2) := s1.fillSource core a sec
    s2.modCore core fun k => { k with l1 := cachePut k.l1 sec x }

/-- A cached sector as a read sees it: a stale one is zero (R309). -/
def State.judgeSector (s : State) (sec : Nat) (x : Sector) : Sector :=
  if s.owner (128 * sec) < 16 ∧ x.stamp ≠ (s.tslot (s.owner (128 * sec))).gen then { x with data := 0, poison := false }
  else x

/-- One byte of a valid L1 sector. -/
def State.l1Byte (s : State) (core pa : Nat) : Byte × Bool :=
  match cacheSector (s.core core).l1 (pa / 128) with
  | none => (0, false)
  | some x =>
    let y := s.judgeSector (pa / 128) x
    (y.data.extractLsb' (8 * (pa % 128)) 8, y.poison)

/-- The sector of an address is valid in the L1 for an access. -/
def State.l1Hit (s : State) (core : Nat) (a : Acc) (pa : Nat) : Bool := s.l1Holds core a (pa / 128)

/-- Read n bytes through a core's L1, filling what is absent (R135). -/
def State.l1Read (s : State) (core : Nat) (a : Acc) (sh : Bool) (pa n : Nat) : List (Byte × Bool) × State :=
  let secs := (List.range (n / 128 + 2)).map (fun i => pa / 128 + i) |>.filter fun x => 128 * x < pa + n
  let s1 := secs.foldl (fun x sec => x.l1Fill core a sh sec) s
  ((List.range n).map fun i => s1.l1Byte core (pa + i), s1)

/-- A sector comes into an L1 before a write: a whole write needs no data (R135). -/
def State.l1Bring (s : State) (core : Nat) (a : Acc) (sh whole : Bool) (sec : Nat) : State :=
  if s.l1Holds core a sec then s
  else if whole then
    let x : Sector := { stamp := Tab.get 0 s.mem.stamp sec, key := a.key, world := BitVec.ofNat 2 (s.accWorld a) }
    ((s.l1Yield core sec).l1Line core (sec / 8) sh).modCore core fun k => { k with l1 := cachePut k.l1 sec x }
  else s.l1Fill core a sh sec

/-- A released store of bytes of one sector into the L1 (R135, R136, R246, R309). The FIFO is full at 256 entries, release markers
counted among them. (DESIGN CHOICE, log 4) -/
def State.l1Write (s : State) (core : Nat) (a : Acc) (sh poison : Bool) (cells : List (Nat × Byte)) : State :=
  match cells with
  | [] => s
  | (pa, _) :: _ =>
    if s.staleAcc a then s
    else
      let sec := pa / 128
      let s0 := s.l1Bring core a sh (decide (cells.length = 128)) sec
      match cacheSector (s0.core core).l1 sec with
      | none => s0
      | some x =>
        let o := s0.owner (128 * sec)
        let g := (s0.tslot o).gen
        let stale := decide (o < 16) && x.stamp != g
        let base : Lanes := if stale then 0 else x.data
        let data := cells.foldl (fun (d : Lanes) e =>
          (d &&& ~~~((255 : Lanes) <<< (8 * (e.1 % 128)))) ||| ((BitVec.setWidth 1024 e.2 : Lanes) <<< (8 * (e.1 % 128)))) base
        let mask0 : BitVec 128 := if stale then 0 else x.mask
        let mask := cells.foldl (fun (m : BitVec 128) e => m ||| (1 <<< (e.1 % 128))) mask0
        let pois := if cells.length = 128 then poison else (x.poison && !stale) || poison
        let y : Sector :=
          { x with data := data, mask := mask, poison := pois, slot := a.slot.getD 0, wgen := a.gen,
                   stamp := if o < 16 then g else x.stamp }
        let first := match (s0.core core).l1.find? fun c => c.line == sec / 8 with
          | some c => (c.sect.all fun e => e.2.mask == 0) && !(s0.core core).fifo.contains (.line c.line)
          | none => false
        let s1 := s0.modCore core fun k => { k with l1 := cachePut k.l1 sec y }
        if first then
          let s2 := if 256 ≤ (s1.core core).fifo.length then
              match (s1.core core).fifo.find? (fun e => match e with | .line _ => true | .marker _ _ => false) with
              | some (.line l) => s1.wbL1Line core l
              | _ => s1
            else s1
          s2.modCore core fun k => { k with fifo := k.fifo ++ [.line (sec / 8)] }
        else s1

/-- A run of bytes stored through the L1. -/
def State.l1Writes (s : State) (core : Nat) (a : Acc) (sh poison : Bool) (pa : Nat) (l : List Byte) : State :=
  (splitSectors (l.length + 1) pa l).foldl (fun x c => x.l1Write core a sh poison c) s

/-- A scratchpad line's stamp is stale (R308). -/
def State.spadStale (s : State) (core line : Nat) : Bool :=
  Tab.get 0 (s.core core).spadStamp line != s.coreGen core

/-- The full bit of a scratchpad line; a stale line reads as empty (R131). -/
def State.lineFull (s : State) (core line : Nat) : Bool :=
  !s.spadStale core line && Tab.get false (s.core core).spadFull line

/-- One byte of the scratchpad with its poison (R131). -/
def State.spadByte (s : State) (core off : Nat) : Byte × Bool :=
  if s.spadStale core (off / 128) then (0, false)
  else (Tab.get 0 (s.core core).spad off, Tab.get false (s.core core).spadPoison (off / 128))

/-- Bring a stale scratchpad line to its zero form under the current generation before a write (R309). -/
def State.spadFresh (s : State) (core line : Nat) : State :=
  if s.spadStale core line then
    s.modCore core fun k =>
      { k with spad := Tab.eraseRange k.spad (128 * line) (128 * line + 128),
               spadFull := Tab.put false k.spadFull line false,
               spadPoison := Tab.put false k.spadPoison line false,
               spadStamp := Tab.put 0 k.spadStamp line (s.coreGen core) }
  else s

/-- Write one byte of the scratchpad under a captured slot and generation (R309). -/
def State.spadPut (s : State) (core : Nat) (slot : BitVec 4) (gen : BitVec 12) (e : Nat × Byte) : State :=
  if gen ≠ s.gen slot then s
  else (s.spadFresh core (e.1 / 128)).modCore core fun k => { k with spad := Tab.put 0 k.spad e.1 e.2 }

/-- Write a run of bytes of the scratchpad; a whole-line write sets the line's poison to that of the data. -/
def State.spadWrites (s : State) (core : Nat) (slot : BitVec 4) (gen : BitVec 12) (poison : Bool) (off : Nat)
    (l : List Byte) : State :=
  let s1 := l.zipIdx.foldl (fun x (b, i) => x.spadPut core slot gen (off + i, b)) s
  if gen ≠ s.gen slot then s1
  else if poison then s1.modCore core fun k => { k with spadPoison := Tab.put false k.spadPoison (off / 128) true }
  else if off % 128 = 0 ∧ l.length = 128 then
    s1.modCore core fun k => { k with spadPoison := Tab.put false k.spadPoison (off / 128) false }
  else s1

/-- Set a scratchpad line full or empty (R132). -/
def State.setLine (s : State) (core line : Nat) (slot : BitVec 4) (gen : BitVec 12) (full : Bool) : State :=
  if gen ≠ s.gen slot then s
  else (s.spadFresh core line).modCore core fun k => { k with spadFull := Tab.put false k.spadFull line full }

/-- A semaphore's value (R146, R308). -/
def State.sem (s : State) (core : Nat) (n : BitVec 8) : Nat :=
  if Tab.get 0 (s.core core).qStamp n.toNat = s.coreGen core then (Tab.get 0 (s.core core).q n.toNat).toNat else 0

/-- Set a semaphore, saturating at 65,535 (R146), restamped (R309). -/
def State.setSem (s : State) (core : Nat) (n : BitVec 8) (v : Nat) : State :=
  s.modCore core fun k =>
    { k with q := Tab.put 0 k.q n.toNat (BitVec.ofNat 16 (min v 65535)),
             qStamp := Tab.put 0 k.qStamp n.toNat (s.coreGen core) }

/-- Add to a semaphore, saturating (R146). -/
def State.addSem (s : State) (core : Nat) (n : BitVec 8) (v : Nat) : State := s.setSem core n (s.sem core n + v)

/-- A join counter (R380). -/
def State.jcnt (s : State) (core : Nat) (n : BitVec 6) : Nat :=
  if Tab.get 0 (s.core core).jcStamp n.toNat = s.coreGen core then (Tab.get 0 (s.core core).jc n.toNat).toNat else 0

/-- Set a join counter, clamped to 0 to 2^32 - 1 (R380). -/
def State.setJcnt (s : State) (core : Nat) (n : BitVec 6) (v : Int) : State :=
  s.modCore core fun k =>
    { k with jc := Tab.put 0 k.jc n.toNat (BitVec.ofNat 32 (min v.toNat (2 ^ 32 - 1))),
             jcStamp := Tab.put 0 k.jcStamp n.toNat (s.coreGen core) }

end Sys2Proof.Machine
end

