-- ==== Sys2Proof/Machine/Ops.lean ====
section
/-! DEFINITION. The named operations over registers: ports, latches, landings, commit; rollback; taking a trap and
going on after one; handing the core to another context. -/

namespace Sys2Proof.Machine

/-- Why a slot or bundle does not issue: a trap, or a block; a block on a revoked handle names its register (R121). -/
inductive Stop
  | trap (t : TrapInfo)
  | block (b : BlockPoint) (h : Option Nat := none)
  /-- a jemit of an unjournalled step: the entry, the step, and the record to append, if none has been sent (R351) -/
  | jemit (j : Nat) (step : BitVec 32) (recd : Option Packet64)
  deriving DecidableEq, Repr

/-- What examining a slot or bundle yields. -/
abbrev Res (α : Type) := Except Stop α

/-- Raise a trap. -/
def raise {α : Type} (cause : Nat) (sub : Nat := 0) (unit : Nat := 63) (opnd : Nat := 3) : Res α :=
  .error (.trap { cause := cause, sub := sub, unit := unit, opnd := opnd })

/-- Block. -/
def blockAt {α : Type} (b : BlockPoint) : Res α := .error (.block b)

/-- The name of a failing slot goes into its trap (R390), the header's apart. -/
def inSlot {α : Type} (k : Nat) : Res α → Res α
  | .error (.trap t) => .error (.trap (if t.unit = 62 then t else { t with slot := k }))
  | r => r

/-- The cause of an encoding trap (R389). -/
def EncFail.cause : EncFail → Nat
  | .port => 2 | .opcode => 3 | .form => 4 | .slot => 5 | .reserved _ => 4

/-- The unit an encoding trap names (R389): none, but where a reserved field of a unit's own is not zero (R4). -/
def EncFail.unit : EncFail → Nat
  | .reserved u => u | _ => 63

/-- The encoding checks of an operation (R83). -/
def encOk (i : Instr) : Res Unit :=
  match i.check with
  | none => .ok ()
  | some e => raise (EncFail.cause e)

/-- A place's number in the mark and pending tables. -/
def Reg.key : Reg → Nat
  | .s i => i | .v i => 64 + i | .p i => 128 + i | .vp i => 160 + i | .h i => 176 + i | .sp i => 192 + i
  | .ol i => 256 + i | .rl i => 288 + i

/-- The physical register of a scalar name (R92). -/
def physS (rrb n : Nat) : Nat := if n < 32 then n else 32 + (n - 32 + rrb) % 32

/-- rrb (R17). -/
def Bank.rrb (b : Bank) : Nat := (Tab.get 0 b.sp 7).toNat % 32
/-- fmode (R187). -/
def Bank.fmode (b : Bank) : Nat := (Tab.get 0 b.sp 15).toNat % 4
/-- A scalar register by physical number: s0 reads zero (R16). -/
def Bank.getS (b : Bank) (i : Nat) : Word := if i = 0 then 0 else Tab.get 0 b.s i
/-- A predicate: p0 reads true (R16). -/
def Bank.getP (b : Bank) (i : Nat) : Bool := i == 0 || Tab.get false b.p i
/-- A vector predicate: vp0 reads all ones (R16). -/
def Bank.getVP (b : Bank) (i : Nat) : VPred := if i = 0 then BitVec.allOnes 128 else Tab.get 0 b.vp i
/-- A vector register. -/
def Bank.getV (b : Bank) (i : Nat) : Wide := Tab.get {} b.v i
/-- An operand latch, by unit (R63). -/
def Bank.getOL (b : Bank) (u : Nat) : Wide := Tab.get {} b.ol u
/-- A result latch, by port - 0x100 (R62). -/
def Bank.getRL (b : Bank) (u : Nat) : Wide := Tab.get {} b.rl u
/-- A special register, by port - 0xC0. -/
def Bank.getSp (b : Bank) (i : Nat) : Word := Tab.get 0 b.sp i
/-- The mark of a place. -/
def Bank.mark (b : Bank) (r : Reg) : Mark := Tab.get .clean b.marks r.key
/-- The results a place waits for. -/
def Bank.pends (b : Bank) (r : Reg) : List Pend := Tab.get [] b.pend r.key

/-- The mask of a whole write. -/
def fullMask : Lanes := BitVec.allOnes 1024

/-- A wide value merged by a mask; the tag goes with the data (R184). -/
def mergeWide (old : Wide) (w : RegWrite) : Wide :=
  { data := (old.data &&& ~~~w.mask) ||| (w.val.data &&& w.mask)
    bias := if w.tag then w.val.bias else old.bias
    fmt := if w.tag then w.val.fmt else old.fmt }

/-- The low bits of a write merged into an old value. -/
def mergeLow (n : Nat) (old : BitVec n) (w : RegWrite) : BitVec n :=
  (old &&& ~~~(w.mask.setWidth n)) ||| (w.val.data.setWidth n &&& w.mask.setWidth n)

/-- Store a value into a place: s0, p0 and vp0 discard (R63); rrb keeps bits 4:0 (R17), fmode bits 1:0 (R187). -/
def Bank.store (b : Bank) (w : RegWrite) : Bank :=
  match w.reg with
  | .s i => if i = 0 then b else { b with s := Tab.set b.s i (mergeLow 64 (b.getS i) w) }
  | .v i => { b with v := Tab.set b.v i (mergeWide (b.getV i) w), live := Tab.set b.live i true }
  | .p i => if i = 0 then b else { b with p := Tab.set b.p i (w.val.data.getLsbD 0) }
  | .vp i => if i = 0 then b else { b with vp := Tab.set b.vp i (mergeLow 128 (b.getVP i) w) }
  | .h i => if i = 15 then b else { b with h := Tab.set b.h i (w.h.getD {}) }
  | .sp i =>
    let v := mergeLow 64 (b.getSp i) w
    { b with sp := Tab.set b.sp i (if i = 7 then v &&& 31 else if i = 15 then v &&& 3 else v) }
  | .ol i => { b with ol := Tab.set b.ol i (mergeWide (b.getOL i) w), live := Tab.set b.live (64 + i) true }
  | .rl i => { b with rl := Tab.set b.rl i (mergeWide (b.getRL i) w), live := Tab.set b.live (96 + i) true }

/-- The 64-bit elements of a latch that a mask covers whole. -/
def coveredElements (mask : Lanes) : BitVec 16 :=
  BitVec.ofNat 16 ((List.range 16).foldl (fun a i => if mask.extractLsb' (64 * i) 64 = BitVec.allOnes 64 then a + 2 ^ i else a) 0)

/-- The mark of a place after a write: a partial write keeps a mark that was there (R98), but for the latch elements it writes
whole (R410). -/
def Bank.markAfter (b : Bank) (w : RegWrite) : Mark :=
  if w.mask = fullMask ∨ w.mark ≠ .clean then w.mark
  else
    match b.mark w.reg with
    | .elements m => let k := m &&& ~~~coveredElements w.mask; if k = 0 then .clean else .elements k
    | m => m

/-- One write becomes visible: value, mark, and no result pending there any more (R96). -/
def Bank.write (b : Bank) (w : RegWrite) : Bank :=
  let b1 := b.store w
  { b1 with marks := Tab.put .clean b1.marks w.reg.key (b.markAfter w), pend := Tab.put [] b1.pend w.reg.key [] }

/-- A write of 64 bits. -/
def wr64 (r : Reg) (v : Word) (m : Mark := .clean) : RegWrite :=
  { reg := r, val := { data := v.setWidth 1024 }, mask := fullMask, mark := m }
/-- A write of one bit into a predicate. -/
def wrP (i : Nat) (v : Bool) : RegWrite :=
  { reg := .p i, val := { data := (BitVec.ofBool v).setWidth 1024 }, mask := fullMask }
/-- A write of a wide value. -/
def wrW (r : Reg) (v : Wide) (m : Mark := .clean) : RegWrite := { reg := r, val := v, mask := fullMask, mark := m }
/-- A write of a handle. -/
def wrH (i : Nat) (h : Handle) : RegWrite := { reg := .h i, val := {}, mask := fullMask, h := some h }

/-- Landings in the order in which they take effect (R95): by cycle, then issue, then slot. -/
def landBefore (a b : Landing) : Bool :=
  a.due < b.due || (a.due == b.due && (a.seq < b.seq || (a.seq == b.seq && a.slot ≤ b.slot)))

/-- Put a landing into its place in the order. -/
def insertLanding (x : Landing) : List Landing → List Landing
  | [] => [x]
  | y :: r => if landBefore y x then y :: insertLanding x r else x :: y :: r

/-- The landings due by a cycle take effect, in order (R93 to R95). -/
def Ctx.landDue (c : Ctx) (cycle : Nat) : Ctx :=
  let due := c.flight.filter fun l => l.due ≤ cycle
  { c with
    bank := due.foldl (fun b l => l.writes.foldl Bank.write b) c.bank
    flight := c.flight.filter fun l => cycle < l.due }

/-- Take from a landing what a later-issued write to the same place overrides (R95). -/
def RegWrite.hide (old new : RegWrite) : Option RegWrite :=
  if old.reg ≠ new.reg then some old
  else
    let m := old.mask &&& ~~~new.mask
    if m = 0 then none else some { old with mask := m, tag := old.tag && !new.tag }

/-- A register written by elements (R68, R197). -/
def Reg.wide : Reg → Bool
  | .v _ => true | .ol _ => true | .rl _ => true | _ => false

/-- Take from a landing what a higher slot of its own bundle overrides: the whole write (R67), or its elements (R68). -/
def RegWrite.discard (old new : RegWrite) : Option RegWrite :=
  if old.reg = new.reg ∧ !old.reg.wide then none else old.hide new

/-- The commit of one write of bundle `seq`, visible from the next cycle: it takes effect now and overrides landings of earlier
bundles visible by then (R95). -/
def Ctx.commitWrite (c : Ctx) (cycle seq : Nat) (w : RegWrite) : Ctx :=
  { c with
    bank := c.bank.write w
    flight := c.flight.map fun l =>
      if l.due ≤ cycle + 1 ∧ l.seq < seq then { l with writes := l.writes.filterMap fun o => o.hide w } else l }

/-- A destination becomes pending (R127): a latch waits for the newest result only. -/
def Bank.addPend (b : Bank) (r : Reg) (p : Pend) : Bank :=
  match r with
  | .rl _ => { b with pend := Tab.set b.pend r.key [p] }
  | _ => { b with pend := Tab.set b.pend r.key (b.pends r ++ [p]) }

/-- What the slots above slot k of the bundle in issue write: their moves, and their results in the pipelines. -/
def State.writesAbove (s : State) (k : Nat) : List RegWrite :=
  ((s.cur.moves.filter fun y => decide (k < y.1)).map (·.2)) ++
    ((s.me.flight.filter fun l => l.seq == s.cur.seq && decide (k < l.slot)).map (·.writes)).flatten

/-- What remains of a write of slot k of the bundle in issue (R67): a higher slot that writes the same destination discards it,
or the elements it writes of a wide one (R68); so does a higher slot's load or later result. Whenever the writes become
visible, R67 decides between the slots of one bundle, R95 and R96 between bundles. (DEDUCED, log 50) -/
def State.slotWrite (s : State) (k : Nat) (w : RegWrite) : Option RegWrite :=
  if s.cur.pends.any fun p => decide (k < unitSlot p.2.unit) && p.1 == w.reg then none
  else (s.writesAbove k).foldl (fun o n => o.bind fun x => x.discard n) (some w)

/-- A destination that becomes pending, unless a higher slot of the bundle writes it (R67). (DEDUCED, log 50) -/
def State.pendStands (s : State) (p : Reg × Pend) : Bool :=
  !(s.writesAbove (unitSlot p.2.unit)).any fun w => w.reg == p.1

/-- The bundle's results in the pipelines without what its higher slots discard (R67). -/
def State.slotLandings (s : State) : List Landing :=
  s.me.flight.map fun l => if l.seq = s.cur.seq then { l with writes := l.writes.filterMap (s.slotWrite l.slot) } else l

/-- A bundle's moves and pending marks take effect, the highest slot's where two name one register (R67), and a transfer
waits for its delay bundle (R153). (DEDUCED, log 50) -/
def State.commit (s : State) : State :=
  let c := { s.me with flight := s.slotLandings }
  let c := (s.cur.moves.filterMap fun w => s.slotWrite w.1 w.2).foldl (fun c w => c.commitWrite s.cycle s.cur.seq w) c
  let c := { c with bank := (s.cur.pends.filter s.pendStands).foldl (fun b p => b.addPend p.1 p.2) c.bank,
                    next := { c.next with xfer := s.cur.xfer.orElse fun _ => c.next.xfer } }
  { s.setCtx s.cid c with cur := { s.cur with moves := [], pends := [], xfer := none } }

/-- Add a result to the exposed pipelines (R93). -/
def State.land (s : State) (slot unit lat : Nat) (ws : List RegWrite) : State :=
  s.modMe fun c =>
    { c with flight := insertLanding ⟨s.cycle + lat, s.cur.seq, slot, unit, ws⟩ c.flight }

/-- Add a write of a slot that takes place at commit. -/
def State.move (s : State) (slot : Nat) (w : RegWrite) : State :=
  { s with cur := { s.cur with moves := s.cur.moves ++ [(slot, w)] } }

/-- A handle as it reads: a stale one is null (R115). -/
def State.judgeHandle (s : State) (h : Handle) : Handle := if h.gen = s.gen h.slot then h else {}

/-- The scratchpad window h15 of a core (R114). -/
def State.h15 (s : State) (core : Nat) : Handle :=
  { slot := s.coreSlot core, gen := s.coreGen core, ps := 15, wr := true, rd := true, st := .valid }

/-- Handle register n of the issuing context. -/
def State.handle (s : State) (n : Nat) : Handle :=
  if n = 15 then s.h15 s.cur.core else s.judgeHandle (Tab.get {} s.me.bank.h n)

/-- A source as it reads: its kind, its value (a predicate as 0 or 1, a handle as its address), its place. -/
structure Src where
  kind : Kind
  val  : Wide
  reg  : Option Reg
  h    : Option Handle := none
  deriving DecidableEq, Repr

/-- A scalar source. -/
def srcS (v : Word) (r : Option Reg := none) : Src := ⟨.scalar, { data := v.setWidth 1024 }, r, none⟩

/-- ctx[8:0] as a register value (R14). -/
def ctxId (core ctx : Nat) : Word := BitVec.ofNat 64 (4 * core + ctx)

/-- tgen (R305). -/
def State.tgen (s : State) (core : Nat) : Word :=
  BitVec.ofNat 64 ((s.coreSlot core).toNat * 4096 + (s.coreGen core).toNat)

/-- The special registers by port - 0xC0 (R17, R62). -/
def State.special (s : State) (i : Nat) : Word :=
  let b := s.me.bank
  if i = 9 then ctxId s.cur.core s.cur.ctx
  else if i = 10 then s.me.uid.setWidth 64
  else if i = 11 then s.me.lid
  else if i = 12 then s.tgen s.cur.core
  else if i = 13 then BitVec.ofNat 64 s.dtime
  else if 24 ≤ i then Tab.get 0 s.me.la (i - 24)
  else b.getSp i

/-- The value at a source port (R62), with the place it names. A reserved port has none. -/
def State.readPort (s : State) (port : BitVec 9) : Option Src :=
  let p := port.toNat
  let b := s.me.bank
  match srcKind port with
  | none => none
  | some .vector =>
    if p < 0x80 then some ⟨.vector, b.getV (p - 0x40), some (.v (p - 0x40)), none⟩
    else if p = 0x183 then
      some ⟨.vector, { data := lanesOf 16 ((List.range 64).map fun _ => s.cur.bi.toNat) }, none, none⟩
    else some ⟨.vector, b.getRL (p - 0x100), some (.rl (p - 0x100)), none⟩
  | some .pred => some ⟨.pred, { data := (BitVec.ofBool (b.getP (p - 0x80))).setWidth 1024 }, some (.p (p - 0x80)), none⟩
  | some .vpred => some ⟨.vpred, { data := (b.getVP (p - 0xA0)).setWidth 1024 }, some (.vp (p - 0xA0)), none⟩
  | some .handle =>
    let h := s.handle (p - 0xB0)
    some ⟨.handle, { data := h.va.setWidth 1024 }, some (.h (p - 0xB0)), some h⟩
  | some .scalar =>
    if p < 0x40 then let i := physS b.rrb p; some (srcS (b.getS i) (some (.s i)))
    else if p < 0xE0 then some (srcS (s.special (p - 0xC0)) (some (.sp (p - 0xC0))))
    else if p < 0x180 then some (srcS ((b.getRL (p - 0x100)).data.setWidth 64) (some (.rl (p - 0x100))))
    else if p = 0x180 then some (srcS (s.cur.bi.signExtend 64))
    else if p = 0x181 then some (srcS (s.cur.bi.setWidth 64))
    else if p = 0x182 then some (srcS (s.cur.bi.signExtend 64 <<< 16))
    else some (srcS (BitVec.ofInt 64 ((p : Int) - 0x1E0)))

/-- A place may be read: nothing pending, no poison, no remote error (R127, R133, R291, R396). `opnd` is 0 for T, 1
for O, 2 for a latch (R390). Of a latch read as 64 bits, `low`, the first element alone is consumed (R410). -/
def State.readable (s : State) (r : Reg) (opnd : Nat) (low : Bool := false) : Res Unit :=
  let b := s.me.bank
  let poisoned : Res Unit := raise 12 (if r = .rl 0x14 ∨ r = .rl 0x13 then 4 else opnd + 1) 63 opnd
  match b.pends r with
  | p :: _ => if p.late ∧ p.pitch = s.me.pitch then raise 11 0 p.unit else blockAt .pendingRead
  | [] =>
    match b.mark r with
    | .clean => .ok ()
    | .poison => poisoned
    | .elements m => if low && !m.getLsbD 0 then .ok () else poisoned
    | .remote c va => .error (.trap { cause := 13, sub := c.toNat, opnd := opnd, arg := va })

/-- A register read otherwise than as T, O or a latch — a guard, the handle an H field names, lk, rrb, fmode, a loop register —
may be read: poison cancels the bundle, with no operand named (R396, R410). (DEDUCED, log 70) -/
def State.intact (s : State) (r : Reg) : Res Unit := if s.me.bank.mark r = .poison then raise 12 else .ok ()

/-- A guard may be read (R61, R396); p0 and vp0 are no storage (R16). -/
def State.guardReady (s : State) (vec : Bool) (g : Guard) : Res Unit :=
  if g.gp = 0 then .ok () else s.intact (if vec then .vp g.gp.toNat else .p g.gp.toNat)

/-- The operations whose W names a vector register (R69). -/
def wideW : Instr → Bool
  | .vld _ _ _ => true | .vlds _ _ => true | .vldx _ _ => true | .rldv _ => true | .sopen _ => true | .srecv _ => true
  | .sstat _ => true | .jstat _ => true | .jrec _ => true
  | _ => false

/-- The operation writes a scalar register by a name that rrb renames (R92): W, the last of join's four (R379), or a move's
destination. -/
def renamed (i : Instr) (v : View) : Bool :=
  match v.aux with
  | .s f => decide (v.slot < 3) && decide (32 ≤ f.w.toNat + (match i with | .join _ => 3 | _ => 0))
  | .m f => !wideW i && decide (32 ≤ f.w.toNat)
  | .t _ => false
  | .move => decide (32 ≤ v.dst.toNat) && decide (v.dst.toNat < 64)

/-- The guard of a slot outside slots 3 and 4 (R61). -/
def State.guard (s : State) (g : Guard) : Bool := s.me.bank.getP g.gp.toNat != g.gn
/-- The guard of slots 3 and 4 (R61). -/
def State.vguard (s : State) (g : Guard) : VPred :=
  let v := s.me.bank.getVP g.gp.toNat
  if g.gn then ~~~v else v

/-- The start of an operation: its encoding checks (R83), its guard read, and rrb read where it renames the destination of an
operation that acts (R92, R98). (DEDUCED, log 70) -/
def State.opens (s : State) (i : Instr) : Res Unit := do
  encOk i
  match i.view with
  | none => pure ()
  | some v => do
    let vec := v.slot == 3 || v.slot == 4
    s.guardReady vec v.g
    if (if vec then (s.vguard v.g).getLsbD 0 else s.guard v.g) && renamed i v then s.intact (.sp 7) else pure ()

/-- A walk re-translates the revoked handle h of a context's register n (R121). -/
def Walk.serves (w : Walk) (ci n : Nat) (h : Handle) : Bool :=
  w.again && w.ctx == ci && w.reg == n && w.va == h.va.setWidth 64 && w.gen == h.gen

/-- A handle may be read: a pending or revoked one blocks (R115), or raises the fault its walk has met: of the xlat's address
(R116), or of the access's, `arg` (R121, R391). A handle port of a scalar trigger (R90) reads as an access does: it blocks or
faults in the same way, with the handle's VA, and a null handle gives its VA. (DEDUCED, log 39) -/
def State.handleReady (s : State) (n : Nat) (h : Handle) (arg : Word) : Res Unit :=
  let failed := (s.core s.cur.core).walks.find? fun w =>
    w.failed.isSome && ((h.st = .pending && w.ctx == s.cid && !w.again && w.tok == h.tok) ||
      (h.st = .revoked && w.serves s.cid n h))
  let trap := fun (w : Walk) => (.error (.trap
    { cause := 6, sub := w.failed.getD 0, arg := if w.again then arg else w.va,
      addr := if w.again then none else some w.addr }) : Res Unit)
  match h.st with
  | .pending => match failed with
    | some w => trap w
    | none => blockAt .handle
  | .revoked => match failed with
    | some w => trap w
    | none => .error (.block .handle (some n))
  | _ => .ok ()

/-- Read a source port with its checks. -/
def State.readSrc (s : State) (port : BitVec 9) (opnd : Nat) : Res Src :=
  match s.readPort port with
  | none => raise 2
  | some x => do
    if 32 ≤ port.toNat ∧ port.toNat < 64 then s.intact (.sp 7)
    match x.reg with
    | none => pure ()
    | some r => s.readable r opnd
    match x.h with
    | none => pure ()
    | some h => s.handleReady (port.toNat - 0xB0) h (h.va.setWidth 64)
    pure x

/-- Read a unit's operand latch (R91), or its low 64 bits. -/
def State.readLatch (s : State) (unit : Nat) (low : Bool := false) : Res Wide := do
  s.readable (.ol unit) 2 low
  pure (s.me.bank.getOL unit)

/-- A scalar reading (R90). -/
def Src.word (x : Src) : Word := x.val.data.setWidth 64
/-- A predicate reading (R66): true where bits 63:0 are not zero. -/
def Src.bool (x : Src) : Bool := x.word != 0
/-- A 128-bit reading, by the vp-destination column of R66. -/
def Src.vec (x : Src) : VPred :=
  match x.kind with
  | .pred => if x.bool then BitVec.allOnes 128 else 0
  | _ => x.val.data.setWidth 128
/-- A wide reading, by the wide-destination column of R66. -/
def Src.wide (x : Src) : Wide :=
  match x.kind with
  | .vector => x.val
  | _ => { data := x.val.data }

/-- The scalar write-back W (R69, R92): none for 0. -/
def State.wbS (s : State) (w : BitVec 6) : Option Reg :=
  if w = 0 then none else some (.s (physS s.me.bank.rrb w.toNat))
/-- The vector write-back W (R69). -/
def wbV (w : BitVec 6) : Option Reg := if w = 0 then none else some (.v w.toNat)

/-- Count a trigger against a limit of its pitch; the next one past the limit raises the queue-overflow trap
(R132, R133, R248, R273, R291, R332, R348, R379). (DEDUCED, log 36) -/
def State.limit (s : State) (kind max unit : Nat) : Res State :=
  let n := Tab.get 0 s.me.counts kind
  if max ≤ n then raise 10 0 unit
  else .ok (s.modMe fun c => { c with counts := Tab.set c.counts kind (n + 1) })

/-- A fresh token. (DESIGN CHOICE, log 15) -/
def State.newTok (s : State) : Nat × State := (s.fresh + 1, { s with fresh := s.fresh + 1 })

/-- Make destinations pending on a token (R127). -/
def State.pendOn (s : State) (rs : List Reg) (tok unit : Nat) (late : Bool) : State :=
  let p : Pend := ⟨tok, unit, s.me.pitch, late⟩
  { s with cur := { s.cur with pends := s.cur.pends ++ rs.map fun r => (r, p) } }

/-- The access a context makes under its core's slot with a handle's KEY. -/
def State.ctxAcc (s : State) (core : Nat) (h : Handle) : Acc :=
  ⟨some (s.coreSlot core), s.coreGen core, true, h.key, 0⟩

/-- Add a release entry to the issuing context's list (R217, R247). The spec holds an assembler to 64 gated stores a pitch (R53) and
says of no run-time check: a 65th store joins the list as well (R18, R128). (DESIGN CHOICE, log 76) -/
def State.addRel (s : State) (tok unit : Nat) (b : RelBody) : State :=
  s.modMe fun c =>
    { c with rel := c.rel ++ [⟨s.cur.seq, tok, unit, s.coreSlot s.cur.core, s.coreGen s.cur.core, b⟩] }

/-- The bytes of gated stores by address with their poison, the youngest entry of the context last (R128, R225). -/
def gatedCells (l : List RelItem) (spad : Bool) : List (Nat × Byte × Bool) :=
  l.foldl (fun acc x =>
    match x.body with
    | .store g =>
      if (g.h.ps == 15) == spad then
        g.chunks.foldl (fun a c => a ++ c.2.2.zipIdx.map fun (b, i) => (c.2.1 + i, b, g.poison)) acc
      else acc
    | _ => acc) []

/-- The entries of a release that have not performed, in their order: a cached store adds its bytes, and an atomic takes the
older bytes of its word away, since a later load may not read them (R128, R247, R255). (DEDUCED, log 69) -/
def releasedCells (l : List RelItem) (spad : Bool) : List (Nat × Byte × Bool) → List (Nat × Byte × Bool) :=
  fun acc => l.foldl (fun a x =>
    match x.body with
    | .atomic _ _ _ _ pa _ _ _ => if spad then a else a.filter fun e => !(decide (pa ≤ e.1) && decide (e.1 < pa + 8))
    | _ => a ++ gatedCells [x] spad) acc

/-- The context's own stores that have not performed, oldest first (R128, R247). -/
def Ctx.ownCells (c : Ctx) (spad : Bool) : List (Nat × Byte × Bool) :=
  releasedCells c.rel spad (c.path.foldl (fun a p => releasedCells p.step1 spad a) [])

/-- The youngest own byte at an address. -/
def lookupCell (l : List (Nat × Byte × Bool)) (a : Nat) : Option (Byte × Bool) :=
  (l.reverse.find? fun e => e.1 == a).map (·.2)

/-- One byte of the scratchpad as the context reads it (R128). -/
def State.mySpadByte (s : State) (own : List (Nat × Byte × Bool)) (off : Nat) : Byte × Bool :=
  match lookupCell own off with
  | some b => b
  | none => s.spadByte s.cur.core off

/-- Deliver a late or loaded result to the places that still wait for its token, in the bank and in the shadow
(R127, R394). (DEDUCED, log 50) -/
def Bank.deliver (b : Bank) (tok : Nat) (w : Reg → Option RegWrite) (rs : List Reg) : Bank :=
  rs.foldl (fun b r =>
    let ps := b.pends r
    if ps.any fun p => p.tok == tok then
      match w r with
      | none => { b with pend := Tab.put [] b.pend r.key (ps.filter fun p => p.tok != tok) }
      | some x =>
        let b1 := b.store x
        { b1 with marks := Tab.put .clean b1.marks r.key (b.markAfter x),
                  pend := Tab.put [] b1.pend r.key (ps.filter fun p => p.tok != tok) }
    else b) b

/-- Every place, for the search of those that wait. -/
def allRegs : List Reg :=
  (List.range 64).map Reg.s ++ (List.range 64).map Reg.v ++ (List.range 22).map Reg.rl

/-- The places of a bank that wait for a token. -/
def Bank.waiting (b : Bank) (tok : Nat) : List Reg :=
  allRegs.filter fun r => (b.pends r).any fun p => p.tok == tok

/-- What a result writes into a place: bj.r takes its low 64 bits (R348), any other place the whole. -/
def resultWrite (v : Wide) (m : Mark) (r : Reg) : Option RegWrite :=
  some (wrW r (if r = .rl 0xB then { data := (v.data.setWidth 64).setWidth 1024 } else v) m)

/-- A result arrives at a context (R127): every place that waits for it takes it. -/
def Ctx.deliver (c : Ctx) (tok : Nat) (v : Wide) (m : Mark) : Ctx :=
  { c with
    bank := c.bank.deliver tok (resultWrite v m) (c.bank.waiting tok)
    shadow := { c.shadow with
      bank := c.shadow.bank.deliver tok (resultWrite v m) (c.shadow.bank.waiting tok) } }

/-- The port of a result latch, 0 for another place (R403). -/
def Reg.latchPort : Reg → BitVec 9
  | .rl i => BitVec.ofNat 9 (0x100 + i)
  | _ => 0
/-- The number of a register as a write-back, 0 for another place (R403). -/
def Reg.wbNum : Reg → BitVec 6
  | .s i => BitVec.ofNat 6 i
  | .v i => BitVec.ofNat 6 i
  | _ => 0

/-- The marks of a reply (R403): poison in bit 0, a remote error in bit 1 with its class in bits 7:4; bit 8 is bit 512
of a jrec's value. -/
def replyMarks (v : Wide) (m : Mark) : BitVec 32 :=
  (match m with
    | .clean => 0
    | .poison => 1
    | .elements _ => 1
    | .remote c _ => 2 ||| (c.setWidth 32 <<< 4)) ||| (if v.data.getLsbD 512 then 0x100 else 0)

/-- The effective address a mark carries (R391). -/
def Mark.va : Mark → Word
  | .remote _ va => va
  | _ => 0

/-- A result that lands after its pitch's release reaches its unit (R127, R403): the context of the core that waits for
it, or a saved unit, to which it becomes a reply. -/
def State.answer (s : State) (ci tok : Nat) (v : Wide) (m : Mark) : State :=
  let core := ci / 4
  let waits := fun (c : Ctx) => !(c.bank.waiting tok).isEmpty || !(c.shadow.bank.waiting tok).isEmpty
  match (List.range 4).find? fun i => waits (s.ctx (4 * core + i)) with
  | some i => s.modCtx (4 * core + i) fun c => (c.landDue s.cycle).deliver tok v m
  | none =>
    match (s.core core).saved.filter fun x => x.pend.tok == tok with
    | [] => s
    | x :: l =>
      let regs := (x :: l).map (·.reg)
      let r : Reply :=
        { kind := 1, port := regs.foldl (fun a g => a ||| g.latchPort) 0, w := regs.foldl (fun a g => a ||| g.wbNum) 0,
          token := tok, marks := replyMarks v m, time := BitVec.ofNat 64 s.dtime, value := v.data.setWidth 512 }
      s.modCore core fun k =>
        { k with toSaved := k.toSaved ++ [(x.area, r)]
                 saved := k.saved.map fun p => if p.pend.tok = tok then { p with va := m.va } else p }

/-- A result that will never come (R296, R314): its marks go. -/
def Ctx.abandon (c : Ctx) (tok : Nat) : Ctx :=
  { c with
    bank := c.bank.deliver tok (fun _ => none) (c.bank.waiting tok)
    shadow := { c.shadow with
      bank := c.shadow.bank.deliver tok (fun _ => none) (c.shadow.bank.waiting tok) } }

/-- Replace the handle that carries a token wherever it stands: registers, shadow, landings (R116, R121). -/
def Ctx.mapHandle (c : Ctx) (f : Handle → Handle) : Ctx :=
  let fb := fun (b : Bank) => { b with h := b.h.map fun e => (e.1, f e.2) }
  let fl := fun (l : Landing) => { l with writes := l.writes.map fun w => { w with h := w.h.map f } }
  { c with bank := fb c.bank, shadow := { c.shadow with bank := fb c.shadow.bank },
           flight := c.flight.map fl, replay := c.replay.map fl }

/-- Return the amounts the current pitch took from semaphores (R148). -/
def State.returnWaits (s : State) (core : Nat) (log : Tab Nat) : State :=
  log.foldl (fun x e => x.addSem core (BitVec.ofNat 8 e.1) e.2) s

/-- Return stream reservations, reserved installations and withdrawn transfers of a context's pitch (R327, R335, R337). -/
def State.returnStreams (s : State) (ci pitch : Nat) : State :=
  let f := fun (e : EndRec) =>
    { e with resv := e.resv.filter (fun r => !(r.1 == ci && r.2.1 == pitch)),
             xferBy := e.xferBy.filter (· != (ci, pitch)) }
  let mine := fun (i : Inst) => i.ctx == ci && i.pitch == pitch
  let gone := (s.hub.streams.map fun e => e.2.inst.filter fun i => mine i && i.cons).flatten
  { s with hub := { s.hub with
      streams := s.hub.streams.map fun e =>
        (e.1, { e.2 with prod := e.2.prod.map f, cons := e.2.cons.map f, inst := e.2.inst.filter fun i => !mine i })
      bufs := s.hub.bufs.filter fun b => !gone.any fun i => i.slot.toNat == b.1 && i.buf == b.2.1 } }

/-- Give the tasks a context's pitch holds back to the ends they came from (R384). -/
def returnTasks (ci pitch : Nat) (l : List Task) : List Task :=
  let mine := fun (t : Task) (fromHead : Bool) => t.held == some (ci, pitch, fromHead)
  (l.filter fun t => mine t true).map (fun t => { t with held := none }) ++
    (l.filter fun t => !mine t true && !mine t false) ++
    (l.filter fun t => mine t false).map (fun t => { t with held := none })

/-- The pitch whose release is being performed, with the unit that issued it (R247, R275). -/
def Ctx.relHead (c : Ctx) : PitchRel :=
  match c.path with
  | p :: _ => p
  | [] => { pitch := c.pitch, step1 := [], step2 := [], sigs := [], begun := false, uid := c.uid, lid := c.lid, lobj := c.lobj }

/-- The cores of a cluster (R14). -/
def clusterCores (core : Nat) : List Nat := (List.range 8).map fun i => core / 8 * 8 + i

/-- A replaying journal's CUR goes back to the first step emitted in the rolled-back pitch (R351, R394). (DEDUCED, log 57) -/
def State.returnReplay (s : State) (l : List RelItem) : State :=
  l.reverse.foldl (fun x i =>
    match i.body with
    | .jemit j r true =>
      let back := fun (e : Nat × Journal) =>
        if (e.1 == field j 40 12) && (e.2.chk == j.setWidth 32) then (e.1, { e.2 with cur := r.extractLsb' 64 32, state := 2 })
        else e
      { x with hub := { x.hub with journals := x.hub.journals.map back } }
    | _ => x) s

/-- Remote loads of a rolled-back pitch that have not been sent are not (R296, R394). -/
def State.dropWaiting (s : State) (ci : Nat) (toks : List Nat) : State :=
  { s with hub := { s.hub with waiting := s.hub.waiting.filter fun w => !(w.1 == ci && toks.contains w.2.1) } }

/-- The transposer empty and owned by nobody (R234). -/
def Xp.freed (x : Xp) : Xp :=
  { x with w := if x.restart then 8 else x.w, restart := false, fill := [], drain := [], fillTag := none, drainTag := none,
           col := 0, owner := none }

/-- A unit starts: w is 8 (R235), at once or, where another context owns the transposer, when that is free. (DEDUCED, log 49) -/
def Xp.unitStart (x : Xp) : Xp := if x.owner.isNone then { x with w := 8 } else { x with restart := true }

/-- A push or mload of a context's current pitch, which has not passed (R217, R218): one of an earlier pitch is released, or stands
on the release path. -/
def MOp.ownPitch (m : MOp) (ci pitch : Nat) : Bool := m.ctx == ci && !m.released && m.pitch == pitch

/-- What a context keeps when its unit ends and when another starts: the release path with what it waits for (R247, R314,
R400), and what counts on. -/
def Ctx.carried (c : Ctx) : Ctx :=
  { path := c.path, closing := c.closing, unacked := c.unacked, batches := c.batches, relSeq := c.relSeq, last := c.last,
    pitch := c.pitch }

/-- The rollback of a context to its last pitch end, as one act (R394, R148, R213, R218, R220, R234, R335, R384). -/
def State.rollback (s : State) (ci : Nat) : State :=
  let core := ci / 4
  let c := s.ctx ci
  let s1 := (((s.returnWaits core c.log).returnStreams ci c.pitch).returnReplay c.rel).dropWaiting ci
    ((c.remote.filter fun t => t.2.1 == c.pitch).map Prod.fst)
  let s2 := (clusterCores core).foldl (fun x k => x.modCore k fun y => { y with deque := returnTasks ci c.pitch y.deque }) s1
  let s3 := s2.modCore core fun k =>
    { k with
      mops := k.mops.filter fun m => !m.ownPitch ci c.pitch
      walks := k.walks.filter fun w => w.ctx != ci || (w.failed.isNone && !w.again)
      xp := if k.xp.owner = some ci then k.xp.freed else k.xp }
  s3.setCtx ci
    { c with
      bank := c.shadow.bank
      next := c.shadow.next
      wake := c.shadow.wake
      log := []
      sigs := []
      rel := []
      counts := []
      iq := []
      gq := []
      loads := c.loads.filter fun l => l.pitch != c.pitch
      remote := c.remote.filter fun t => t.2.1 != c.pitch
      sx := c.sx.filter fun k => !c.rel.any fun x => x.tok == k
      flight := []
      jfirst := none
      rcvWait := false
      replayWait := true
      obs := 0
      sig := 0xFFFFFFFF#32
      destroyed := false
      divFree := 0
      after := .none }

/-- The label of a divide among the results of mul (R104). -/
def divUnit : Nat := 66

/-- The replay records are re-issued when the next bundle is first examined (R394). -/
def Ctx.startReplay (c : Ctx) (cycle : Nat) : Ctx :=
  if c.replayWait then
    { c with replayWait := false,
             flight := c.replay.foldl (fun l r => insertLanding { r with due := cycle + r.due - 1 } l) c.flight
             divFree := c.replay.foldl (fun m r => if r.unit = divUnit then max m (cycle + r.due - 1) else m) c.divFree }
  else c

/-- Priority class first, then the longest without issuing (R144); of two that have gone equally long, neither having issued,
the lower-numbered. In a power-fail a context that stands at its cairn is not chosen: it has stopped (R448). (DESIGN CHOICE, log
60) -/
def State.bestReady (s : State) (core : Nat) : Option Nat :=
  (List.range 4).foldl (fun (best : Option Nat) i =>
    let c := s.ctx (4 * core + i)
    if c.st ≠ .ready ∨ (s.hub.power ≠ .on ∧ c.atCairn = true) then best
    else
      match best with
      | none => some i
      | some j =>
        let d := s.ctx (4 * core + j)
        if d.prio.toNat < c.prio.toNat ∨ (d.prio = c.prio ∧ c.last < d.last) then some i else best) none

/-- The core hands itself to the best ready context, paying two issue cycles (R12, R144); where none is ready it
stays with a blocked context, or idles. `from` is the first cycle of the switch. (DEDUCED, logs 31, 38) -/
def State.switchFrom (s : State) (core start : Nat) : State :=
  match s.bestReady core with
  | some i =>
    (s.modCtx (4 * core + i) fun c => { c with st := .issuing }).modCore core fun k =>
      { k with issuing := some i, nextIssue := start + 2 }
  | none =>
    match (s.core core).issuing with
    | none => s
    | some i =>
      match (s.ctx (4 * core + i)).st with
      | .blocked _ => s
      | _ => s.modCore core fun k => { k with issuing := none }

/-- The issuing context leaves the core (it stopped, ended or was saved). -/
def State.leaveCore (s : State) (ci start : Nat) : State :=
  let core := ci / 4
  if (s.core core).issuing = some (ci % 4) then
    (s.modCore core fun k => { k with issuing := none }).switchFrom core start
  else s

/-- A core has begun no cycle of the switch to its issuing context (R12): it was chosen in this cycle, to begin in the next.
(DEDUCED, log 75) -/
def State.switching (s : State) (core : Nat) : Bool := decide (s.cycle + 3 ≤ (s.core core).nextIssue)

/-- A context becomes ready in the next cycle (R141); an idle core, or one whose issuing context is blocked, goes then to the
best of the contexts that are ready (R144), one that it had chosen for the next cycle among them. R12 and R144 give the two
switch cycles to a core that leaves a context; an idle core pays them too. (DEDUCED, log 75) -/
def State.makeReady (s : State) (ci : Nat) : State :=
  let core := ci / 4
  let s1 := s.modCtx ci fun c => { c with st := .ready }
  match (s1.core core).issuing with
  | none => s1.switchFrom core (s.cycle + 1)
  | some i => match (s1.ctx (4 * core + i)).st with
    | .blocked _ => s1.switchFrom core (s.cycle + 1)
    | .issuing =>
      if s1.switching core then
        (s1.modCtx (4 * core + i) fun c => { c with st := .ready }).switchFrom core ((s1.core core).nextIssue - 2)
      else s1
    | _ => s1

/-- A bundle blocks (R142 to R144): the context waits and the core may go to another. (DEDUCED, log 38) -/
def State.blockOn (s : State) (b : BlockPoint) : State :=
  let s1 := s.modMe fun c => { c with st := .blocked b, rcvWait := c.rcvWait || b == .emptyStream }
  s1.switchFrom s.cur.core s.cycle

/-- tcause as it is delivered (R390). -/
def TrapInfo.tcause (t : TrapInfo) (async : Bool) : Word :=
  BitVec.ofNat 64 (t.cause + t.sub * 2 ^ 8 + t.unit * 2 ^ 16 + t.slot * 2 ^ 22 + t.opnd * 2 ^ 25 +
    (if async then 2 ^ 27 else 0))

/-- The nine loop registers, in record order (R391). -/
def Bank.loops (b : Bank) : List Word := (List.range 9).map fun i => b.getSp i

/-- Load the nine loop registers (R168, R397). -/
def Bank.setLoops (b : Bank) (l : List Word) : Bank :=
  l.zipIdx.foldl (fun b (v, i) => if i < 9 then b.store (wr64 (.sp i) v) else b) b

/-- The unit a trap record is about (R391): HND, LID and UID. -/
structure TrapUnit where
  hnd : Bool
  lid : Word
  uid : BitVec 32
  deriving DecidableEq, Repr

/-- A context's unit, as a trap record names it. -/
def Ctx.trapUnit (c : Ctx) : TrapUnit := ⟨c.hnd, c.lid, c.uid⟩

/-- A trap record (R391). -/
def State.trapRecord (s : State) (ci : Nat) (u : TrapUnit) (t : TrapInfo) (async nr rb : Bool) (taddr raddr : Nat)
    (loops : List Word) : List Word :=
  let core := ci / 4
  let w0 := (t.tcause async).toNat % 2 ^ 28 + (if nr then 2 ^ 28 else 0) + (if u.hnd then 2 ^ 29 else 0) +
    (if rb then 2 ^ 30 else 0) + ci * 2 ^ 32 + (s.coreGen core).toNat * 2 ^ 48 + (s.coreSlot core).toNat * 2 ^ 60
  [BitVec.ofNat 64 w0, BitVec.ofNat 64 (taddr % 65536 + raddr % 65536 * 65536), t.arg, t.info, u.lid,
    u.uid.setWidth 64, BitVec.ofNat 64 s.dtime] ++ loops

/-- tcause and taddr are written at delivery (R390), the record waits in the holding register (R392), and the
context stops. -/
def State.deliverTrap (s : State) (ci : Nat) (t : TrapInfo) (async nr rb : Bool) (taddr raddr : Nat)
    (loops : List Word) : State :=
  let r := s.trapRecord ci (s.ctx ci).trapUnit t async nr rb taddr raddr loops
  s.modCtx ci fun c =>
    { c with
      st := .stopped
      record := some r
      queued := false
      nr := nr
      bank := (c.bank.store (wr64 (.sp 16) (t.tcause async))).store (wr64 (.sp 17) (BitVec.ofNat 64 (taddr % 65536))) }

/-- Taking a synchronous trap (R83, R389 to R395): the bundle has performed nothing; the context rolls back to its
last pitch end, the registers of the trap are written, and it stops until the kernel acts. -/
def State.takeTrap (s : State) (noReplay : Bool) (t : TrapInfo) : State :=
  let ci := s.cid
  let nr := noReplay && s.me.destroyed
  let taddr := t.addr.getD s.cur.addr
  let s1 := s.rollback ci
  let b := (s1.ctx ci).bank
  let s2 := s1.deliverTrap ci t false nr true taddr (s1.ctx ci).next.pc b.loops
  s2.leaveCore ci s.cycle

/-- The next bundle at a resume address: the one the trap stopped before, with its idle run and the transfer whose delay
bundle it is (R56, R153), or another. -/
def NextAddr.resume (n : NextAddr) (addr : Nat) : NextAddr := if n.pc = addr then n else { pc := addr }

/-- The return from a trap by the kernel (R397) or by sys.tret (R398): the context goes on at an address with the
nine loop registers given, and its shadow is replaced by its state as resumed, with the results that have landed by its next
cycle (R145). -/
def Ctx.resumeAt (c : Ctx) (cycle : Nat) (n : NextAddr) (loops : List Word) : Ctx :=
  let d := c.landDue (cycle + 1)
  let b := d.bank.setLoops loops
  { d with bank := b, next := n, shadow := { bank := b, next := n, wake := c.wake }, record := none, queued := false,
           nr := false }

end Sys2Proof.Machine
end

