-- ==== Sys2Proof/Machine/Translate.lean ====
section
/-! DEFINITION. Page tables and their walk (R108 to R113), handles made from leaves (R114, R116, R285), the forming
and checking of addresses (R123), and the fetching of a kernel's code and tables (R56, R84 to R87). -/

namespace Sys2Proof.Machine

/-- An access of the hardware itself under no slot, normal world, public key (R312, R419). (DEDUCED, log 40) -/
def hwAcc : Acc := ⟨none, 0, true, 0, 0⟩

/-- What a walk yields (R113): a leaf, or the subcause of its failure with the span that failed (R276). -/
inductive WalkRes
  | ok (l : Leaf)
  | fail (sub base size : Nat)
  deriving DecidableEq, Repr

/-- Bytes of a page by its PS code (R110, R114, R285): 15 the scratchpad window, 14 a fabric handle. -/
def pageBytes (ps : Nat) : Nat := if ps = 15 then 2 ^ 20 else if ps = 14 then 2 ^ 32 else 2 ^ (12 + 2 * ps)

/-- The index bits of a level and the span of one entry (R109). -/
def levelSpan (lv : Nat) : Nat := match lv with | 0 => 2 ^ 45 | 1 => 2 ^ 34 | 2 => 2 ^ 23 | _ => 2 ^ 12

/-- A leaf entry's fields (R111). -/
def leafOf (e : Word) : Leaf where
  ts := e.extractLsb' 56 4
  key := e.extractLsb' 48 8
  pfn := e.extractLsb' 12 27
  ps := e.extractLsb' 6 4
  sh := e.getLsbD 4
  wr := e.getLsbD 3
  rd := e.getLsbD 2

/-- A malformed leaf at a level (R109 to R111, R113). -/
def leafBad (lv : Nat) (e : Word) : Bool :=
  let ps := field e 6 4
  field e 60 4 != 0 || field e 39 9 != 0 || field e 10 2 != 0 || e.getLsbD 5 ||
  (lv == 2 && !(6 ≤ ps && ps ≤ 9)) || (lv == 3 && !(ps ≤ 5)) || lv < 2 ||
  decide (field e 12 27 * 4096 % pageBytes ps ≠ 0)

/-- A malformed pointer at a level (R109, R112, R113). -/
def ptrBad (lv : Nat) (e : Word) : Bool :=
  field e 39 25 != 0 || field e 2 10 != 0 || field e 12 2 != 0 || lv == 3

/-- A page that lies wholly or partly in an unpopulated window (R20). -/
def pagePopulated (l : Leaf) : Bool :=
  populated (l.pfn.toNat * 4096) && populated (l.pfn.toNat * 4096 + pageBytes l.ps.toNat - 1)

/-- The address of the entry of a table that a walk reads at a level (R109). -/
def tableSlot (lv tbl va : Nat) : Nat := tbl + 8 * (va / levelSpan lv % 2048)
/-- An entry of a table at home, with its poison (R312). -/
def State.tableEntry (s : State) (a : Nat) : Word × Bool :=
  let rd := s.homeReads hwAcc a 8
  (ofBytes 64 (rd.map (·.1)), rd.any (·.2))

/-- The walk from a table at a level (R109, R113): poison, V, malformed, then at a leaf TS and the window. -/
def State.walkFrom (s : State) (slot : BitVec 4) (va : Nat) : Nat → Nat → Nat → WalkRes
  | 0, _, _ => .fail 4 0 0
  | fuel + 1, lv, tbl =>
    let span := levelSpan lv
    let base := va / span * span
    let (e, bad) := s.tableEntry (tableSlot lv tbl va)
    if bad then .fail 8 base span
    else if !e.getLsbD 0 then .fail 3 base span
    else if e.getLsbD 1 then
      if leafBad lv e then .fail 4 base span
      else
        let l := leafOf e
        let size := pageBytes l.ps.toNat
        let pb := va / size * size
        if l.ts ≠ slot then .fail 5 pb size
        else if !pagePopulated l then .fail 6 pb size
        else .ok l
    else if ptrBad lv e then .fail 4 base span
    else s.walkFrom slot va fuel (lv + 1) (field e 12 27 * 4096)

/-- The addresses of the entries such a walk reads. -/
def State.entriesFrom (s : State) (va : Nat) : Nat → Nat → Nat → List Nat
  | 0, _, _ => []
  | fuel + 1, lv, tbl =>
    let a := tableSlot lv tbl va
    let (e, bad) := s.tableEntry a
    if bad || !e.getLsbD 0 || e.getLsbD 1 || ptrBad lv e then [a]
    else a :: s.entriesFrom va fuel (lv + 1) (field e 12 27 * 4096)

/-- The root of a slot's tables (R302). -/
def State.root (s : State) (slot : BitVec 4) : Word := (s.tslot slot.toNat).root

/-- A walk of a virtual address for a slot from a root (R108, R302). -/
def State.walkBy (s : State) (slot : BitVec 4) (root va : Word) : WalkRes :=
  if va.toNat / 2 ^ 56 ≠ 0 then .fail 2 (va.toNat / 4096 * 4096) 4096
  else s.walkFrom slot va.toNat 4 0 root.toNat
/-- A walk that begins and ends now, through the slot's root as it stands. -/
def State.walk (s : State) (slot : BitVec 4) (va : Word) : WalkRes := s.walkBy slot (s.root slot) va

/-- A walk's reads meet their home slices, where they may allocate for the slot (R139). -/
def State.touchWalk (s : State) (slot : BitVec 4) (root va : Word) : State :=
  if va.toNat / 2 ^ 56 ≠ 0 then s
  else (s.entriesFrom va.toNat 4 0 root.toNat).foldl (fun x a => x.l2Fill a (some slot)) s

/-- A virtual address of the fabric aperture (R285). -/
def inAperture (va : Word) : Bool := field va 52 4 == 15 && field va 56 8 == 0

/-- FABSLOT of a slot (R288). -/
def State.fabslot (s : State) (t : BitVec 4) : Word := s.hubReg (0x100 + 8 * t.toNat)

/-- The handle a leaf gives (R116). -/
def leafHandle (slot : BitVec 4) (gen : BitVec 12) (va : Word) (l : Leaf) : Handle :=
  { key := l.key, slot := slot, gen := gen, ps := l.ps, sh := l.sh, wr := l.wr, rd := l.rd, st := .valid,
    pfn := l.pfn, va := va.setWidth 56 }

/-- The handle an aperture address gives (R285). -/
def fabricHandle (slot : BitVec 4) (gen : BitVec 12) (va fs : Word) : Handle :=
  { key := fs.extractLsb' 16 8, slot := slot, gen := gen, ps := 14, sh := true, wr := fs.getLsbD 61,
    rd := fs.getLsbD 62, st := .valid, pfn := (va.extractLsb' 32 20).setWidth 27, va := va.setWidth 56 }

/-- A pending handle (R116). -/
def pendingHandle (slot : BitVec 4) (gen : BitVec 12) (va : Word) (tok : Nat) : Handle :=
  { slot := slot, gen := gen, st := .pending, va := va.setWidth 56, tok := tok }

/-- The translation cache's leaf for an address (R119). -/
def State.tcHit (s : State) (core : Nat) (slot : BitVec 4) (va : Word) : Option Leaf :=
  ((s.core core).tc.find? fun e =>
    e.slot == slot && e.page == va.toNat / pageBytes e.leaf.ps.toNat * pageBytes e.leaf.ps.toNat).map (·.leaf)

/-- Keep a leaf in the translation cache, 4,096 entries (R119). -/
def State.tcAdd (s : State) (core : Nat) (slot : BitVec 4) (va : Word) (l : Leaf) : State :=
  let page := va.toNat / pageBytes l.ps.toNat * pageBytes l.ps.toNat
  s.modCore core fun k =>
    let old := k.tc.filter fun e => !(e.slot == slot && e.page == page)
    { k with tc := (if 4096 ≤ old.length then old.drop 1 else old) ++ [⟨slot, page, l⟩] }

/-- Translation for an engine, a re-translation or the hardware: the leaf of an address under a slot (R276). -/
def State.translate (s : State) (slot : BitVec 4) (va : Word) : WalkRes :=
  if inAperture va then .fail 7 (va.toNat / 4096 * 4096) 4096 else s.walk slot va

/-- The physical address of a virtual one in a leaf's page. -/
def leafPa (l : Leaf) (va : Word) : Nat := l.pfn.toNat * 4096 + va.toNat % pageBytes l.ps.toNat

/-- Re-translation of a handle from its VA with its GEN (R121, R128). -/
def State.rewalk (s : State) (h : Handle) : Except Nat Handle :=
  let va : Word := h.va.setWidth 64
  if inAperture va then
    let fs := s.fabslot h.slot
    if fs.getLsbD 63 then .ok (fabricHandle h.slot h.gen va fs) else .error 7
  else
    match s.walk h.slot va with
    | .ok l => .ok (leafHandle h.slot h.gen va l)
    | .fail sub _ _ => .error sub

/-- A trap with the effective virtual address as its argument (R391). (DEDUCED, log 39) -/
def raiseAt {α : Type} (cause sub : Nat) (ea : Nat) : Res α :=
  .error (.trap { cause := cause, sub := sub, arg := BitVec.ofNat 64 ea })

/-- The effective address of one chunk (R123). -/
def effAddr (h : Handle) (off : Word) (disp : Int) (unit : Nat) : Nat := wrap 64 ((h.va.toNat : Int) + off.toInt + disp * unit)

/-- The forming and checking of one chunk's address (R123, R132, R133, R286): effective and physical address; for the
scratchpad the physical address is the window offset. `spadOnly` asks for a scratchpad handle, `remote` for any but
one, and a fabric handle is accepted only where `remote`. -/
def formAddr (h : Handle) (off : Word) (disp : Int) (unit n a : Nat) (rd wr : Bool)
    (spadOnly remote atomic : Bool) : Res (Nat × Nat) :=
  let size := pageBytes h.ps.toNat
  let ea := effAddr h off disp unit
  let base := h.va.toNat / size * size
  if h.st = .null then raiseAt 6 1 ea
  else if h.st = .pending ∨ h.st = .revoked then blockAt .handle
  else if spadOnly ∧ h.ps ≠ 15 then raiseAt 8 3 ea
  else if h.ps = 14 ∧ !remote then raiseAt 8 4 ea
  else if h.ps = 15 ∧ (remote ∨ atomic) then raiseAt 8 3 ea
  else if ea < base ∨ base + size < ea + n then raiseAt 8 1 ea
  else if ea % a ≠ 0 then raiseAt 8 2 ea
  else if rd ∧ !h.rd then raiseAt 7 1 ea
  else if wr ∧ !h.wr then raiseAt 7 2 ea
  else .ok (ea, if h.ps = 15 then ea else h.pfn.toNat * 4096 + (ea - base))

/-- The handle of a memory operation, neither poisoned (R396) nor waiting (R115); h15 is no storage (R114). `ea` gives the
access's effective address, which a failed re-translation reports (R121, R391). -/
def State.useHandle (s : State) (n : Nat) (ea : Handle → Nat) : Res Handle := do
  (if n = 15 then .ok () else s.intact (.h n) : Res Unit)
  let h := s.handle n
  s.handleReady n h (BitVec.ofNat 64 (ea h))
  pure h

/-- The access by which code and tables are read for a slot (R56, R312). -/
def State.codeAcc (s : State) (slot : BitVec 4) (key : BitVec 8) : Acc := ⟨some slot, s.gen slot, true, key, 0⟩

/-- Bytes of one page at a virtual address read at home for a core's slot: none where the translation fails. -/
def State.readPage (s : State) (slot : BitVec 4) (va : Word) (n : Nat) : Except Nat (List (Byte × Bool)) :=
  match s.walk slot va with
  | .fail sub _ _ => .error sub
  | .ok l => .ok (s.homeReads (s.codeAcc slot l.key) (leafPa l va) n)

/-- The part of a run of bytes at a virtual address in its first 4 KiB, the smallest page (R110). -/
def pagePart (va : Word) (n : Nat) : Nat := min n (4096 - va.toNat % 4096)

/-- Bytes at a virtual address read at home for a core's slot (fetch of code and tables), of two pages where they cross a
boundary: none where a translation fails. (PRESUMED, log 33) -/
def State.readVA (s : State) (slot : BitVec 4) (va : Word) (n : Nat) : Except Nat (List (Byte × Bool)) :=
  let k := pagePart va n
  if k = n then s.readPage slot va n
  else
    match s.readPage slot va k, s.readPage slot (va + BitVec.ofNat 64 k) (n - k) with
    | .ok a, .ok b => .ok (a ++ b)
    | .error e, _ => .error e
    | _, .error e => .error e

/-- A run of bytes read at home meets its slices: a line may be allocated for the slot (R139), a refused sector is counted (R310,
R423). (PRESUMED, log 33) -/
def State.touchRun (s : State) (a : Acc) (pa n : Nat) : State :=
  let s1 := (List.range ((pa + n - 1) / 1024 - pa / 1024 + 1)).foldl (fun x i => x.l2Fill (1024 * (pa / 1024 + i)) a.slot) s
  (List.range ((pa + n - 1) / 128 - pa / 128 + 1)).foldl (fun x i => x.countRead a (128 * (pa / 128 + i))) s1

/-- The same of one page's bytes at a virtual address, with the walk that finds them. -/
def State.touchPage (s : State) (slot : BitVec 4) (va : Word) (n : Nat) : State :=
  let s1 := s.touchWalk slot (s.root slot) va
  match s.walk slot va with
  | .fail _ _ _ => s1
  | .ok l => s1.touchRun (s.codeAcc slot l.key) (leafPa l va) n

/-- The same of the bytes of a read at a virtual address. -/
def State.touchVA (s : State) (slot : BitVec 4) (va : Word) (n : Nat) : State :=
  let k := pagePart va n
  let s1 := s.touchPage slot va k
  if k = n then s1 else s1.touchPage slot (va + BitVec.ofNat 64 k) (n - k)

/-- What a fetch finds at a code address (R56): a bundle and the words it takes, or an idle run and its length. -/
inductive Fetched
  | bundle (b : BundleBits) (words : Nat)
  | idle (n : Nat)
  deriving DecidableEq, Repr

/-- One index word (R56); a fetch whose translation fails reports its virtual address (R391). (PRESUMED, log 33) -/
def State.fetchWord (s : State) (ci a : Nat) : Res IndexWord :=
  let c := s.ctx ci
  let va := c.kern.code + BitVec.ofNat 64 (2 * a)
  match s.readVA (s.coreSlot (ci / 4)) va 2 with
  | .error sub => raiseAt 6 sub va.toNat
  | .ok l => if l.any (·.2) then raise 12 4 else .ok (ofBytes 16 (l.map (·.1)))

/-- The fetch of a context's next bundle meets its home slices (R139): its index word, or all words of a literal; and the start
map's byte of a transfer or a redirect. (PRESUMED, log 33) -/
def State.touchFetch (s : State) (ci : Nat) : State :=
  let c := s.ctx ci
  let slot := s.coreSlot (ci / 4)
  let words := match s.fetchWord ci c.next.pc with
    | .ok w => if w = 0xFFFF#16 then 25 else 1
    | .error _ => 1
  let start := fun (x : State) (a : Nat) => x.touchVA slot (c.kern.smap + BitVec.ofNat 64 (a / 8)) 1
  let s1 := if c.kern.ncode ≤ c.next.pc then s else s.touchVA slot (c.kern.code + BitVec.ofNat 64 (2 * c.next.pc)) (2 * words)
  let s2 := if c.next.enter then start s1 c.next.pc else s1
  match c.next.xfer with
  | some (t, _) => start s2 t.toNat
  | none => s2

/-- The 24 words of a literal. -/
def State.fetchWords (s : State) (ci : Nat) : Nat → Nat → Res (List IndexWord)
  | _, 0 => .ok []
  | a, n + 1 => do
    let w ← s.fetchWord ci a
    let r ← s.fetchWords ci (a + 1) n
    pure (w :: r)

/-- The fetch at a code address (R56, R57, R59): step 1 of R83. (PRESUMED, log 33) -/
def State.fetch (s : State) (ci a : Nat) : Res Fetched := do
  let c := s.ctx ci
  if c.kern.ncode ≤ a then raise 1 2
  else
    let w ← s.fetchWord ci a
    let v := w.toNat
    if v < 0x1000 then
      if c.kern.dlen ≤ v then raise 1 6
      else
        match Tab.get none (s.core (ci / 4)).dict (c.kern.dbase + v) with
        | none => raise 1 7
        | some e =>
          if e.stamp ≠ s.coreGen (ci / 4) then raise 1 7
          else if e.poison then raise 12 4
          else pure (.bundle e.bits 1)
    else if v < 0xF000 then raise 1 1
    else if v < 0xF100 then pure (.idle (v % 256 + 1))
    else if v = 0xFFFF then
      if c.kern.ncode < a + 25 then raise 1 3
      else do
        let l ← s.fetchWords ci (a + 1) 24
        pure (.bundle (bundleOfWords l 0) 25)
    else raise 1 1

/-- The code address after a loop-end bundle or a delay bundle (R157): past a literal where word a is 0xFFFF. -/
def State.exitAddr (s : State) (ci : Nat) (a : Word) : Word :=
  match s.fetchWord ci a.toNat with
  | .ok w => if w = 0xFFFF#16 ∧ a.toNat < (s.ctx ci).kern.ncode then a + 25 else a + 1
  | .error _ => a + 1

/-- The start map's bit of a code address (R87). A byte that cannot be translated gives 0, and poison in it is not looked at.
(DESIGN CHOICE, log 25) -/
def State.pitchStart (s : State) (ci a : Nat) : Bool :=
  match s.readVA (s.coreSlot (ci / 4)) ((s.ctx ci).kern.smap + BitVec.ofNat 64 (a / 8)) 1 with
  | .ok [(b, _)] => b.getLsbD (a % 8)
  | _ => false

/-- A code address inside a literal's body, found by reading the code in order (R56). -/
def State.inLiteral (s : State) (ci a : Nat) : Nat → Nat → Bool
  | 0, _ => false
  | fuel + 1, i =>
    if a ≤ i then false
    else
      match s.fetchWord ci i with
      | .ok w => if w = 0xFFFF#16 then (if a < i + 25 then true else s.inLiteral ci a fuel (i + 25)) else s.inLiteral ci a fuel (i + 1)
      | .error _ => s.inLiteral ci a fuel (i + 1)

/-- The target of a taken transfer begins a pitch (R56). A target at or past the code length traps at its fetch. -/
def State.targetOk (s : State) (ci : Nat) (t : Word) : Res Unit :=
  if (s.ctx ci).kern.ncode ≤ t.toNat then .ok ()
  else if s.pitchStart ci t.toNat then .ok ()
  else if s.inLiteral ci t.toNat (t.toNat + 1) 0 then raise 1 4
  else raise 1 5

/-- A pitch-table entry (R86); none where it cannot be read or is poisoned: the pitch check then counts a mismatch. (DESIGN
CHOICE, log 25) -/
def State.pitchEntry (s : State) (ci i : Nat) : Option Word :=
  match s.readVA (s.coreSlot (ci / 4)) ((s.ctx ci).kern.ptab + BitVec.ofNat 64 (8 * i)) 8 with
  | .ok l => if l.any (·.2) then none else some (ofBytes 64 (l.map (·.1)))
  | .error _ => none

/-- The reading of a pitch-table entry meets its home slice (R139). -/
def State.touchPitchEntry (s : State) (ci i : Nat) : State :=
  s.touchVA (s.coreSlot (ci / 4)) ((s.ctx ci).kern.ptab + BitVec.ofNat 64 (8 * i)) 8

/-- The number of the pitch that holds a code address: BI of the next pitch-end bundle in code order (R60). -/
def State.pitchOf (s : State) (ci : Nat) : Nat → Nat → Option Nat
  | 0, _ => none
  | fuel + 1, a =>
    match s.fetch ci a with
    | .error _ => none
    | .ok (.idle _) => s.pitchOf ci fuel (a + 1)
    | .ok (.bundle b n) =>
      let h := Header.ofBits b
      if h.pitch then some h.bi.toNat else s.pitchOf ci fuel (a + n)

/-- The context's current pitch carries the no-replay mark (R86, R395). -/
def State.noReplay (s : State) (ci : Nat) : Bool :=
  match s.pitchOf ci ((s.ctx ci).kern.ncode) (s.ctx ci).shadow.next.pc with
  | none => false
  | some i => match s.pitchEntry ci i with
    | none => false
    | some e => e.getLsbD 56

/-- A bundle blocked on a revoked handle makes the translate unit walk again (R121), unless such a walk runs. -/
def State.startRewalk (s : State) (n : Option Nat) : State :=
  match n with
  | none => s
  | some r =>
    let core := s.cur.core
    let h := s.handle r
    if (s.core core).walks.any (fun w => w.serves s.cid r h) then s
    else
      let (id, s1) := s.newTok
      s1.modCore core fun k =>
        { k with walks := k.walks ++ [⟨id, s.cid, r, h.va.setWidth 64, h.slot, h.gen, h.tok, s.me.pitch, s.cur.addr,
            true, none, none, s.root h.slot⟩] }

/-- A marked release entry and its handle (R120, R128, R226). -/
def RelItem.markedHandle (x : RelItem) : Option Handle :=
  match x.body with
  | .store g => if g.marked then some g.h else none
  | .atomic _ _ h _ _ _ _ true => some h
  | .cache _ h _ _ true => some h
  | .mload _ h true => some h
  | .remote r => if r.marked then some r.h else none
  | _ => none

/-- A release entry through another handle. -/
def RelItem.withHandle (x : RelItem) (h : Handle) : RelItem :=
  match x.body with
  | .store g => { x with body := .store { g with h := h } }
  | .atomic op sc _ ea pa t c m => { x with body := .atomic op sc h ea pa t c m }
  | .cache inv _ ea pa m => { x with body := .cache inv h ea pa m }
  | .mload id _ m => { x with body := .mload id h m }
  | .remote r => { x with body := .remote { r with h := h } }
  | _ => x

/-- The pitch-end bundle of a pitch with marked entries makes the translate unit walk again for each (R128). -/
def State.startItemWalks (s : State) : State :=
  s.me.rel.foldl (fun z x =>
    match x.markedHandle with
    | some h =>
      if h.st ≠ .revoked ∨ z.myCore.walks.any fun w => w.ctx == z.cid && w.item == some (x.seq, x.unit) then z
      else
        let (id, z1) := z.newTok
        z1.modMyCore fun k =>
          { k with walks := k.walks ++ [⟨id, z.cid, 16, h.va.setWidth 64, h.slot, h.gen, id, z.me.pitch, z.cur.addr, true, none,
              some (x.seq, x.unit), z.root h.slot⟩] }
    | none => z) s

/-- The append of a journal step goes to the partner, once (R351); dropped under a stale generation (R362). -/
def State.sendAppend (s : State) (j : Nat) (recd : Packet64) : State :=
  match s.hub.journals.find? fun e => e.1 == j with
  | none => s
  | some (_, x) =>
    if x.gen ≠ s.gen x.slot then s
    else
      let own := (s.hubReg 0).setWidth 12
      let holder := match (Tab.get ({} : StreamEntry) s.hub.streams (x.sid.hmod.toNat * 65536 + x.sid.sidx.toNat)).prod with
        | some r => r.peer
        | none => own
      let m := Msg.append ⟨x.part, own, BitVec.ofNat 12 j, recd, holder⟩
      let s1 := { s with hub := { s.hub with
        journals := Tab.set s.hub.journals j { x with sent := some (recd.extractLsb' 64 32, recd) } } }
      if x.part = own then { s1 with net := s1.net ++ [m] } else { s1 with out := s1.out ++ [m] }

/-- A held promise-missed trap is delivered (R391, R399): after a rollback, or after a release with no rollback; TADDR is
the resume address, word 2 counts the traps lost. -/
def State.deliverAsync (s : State) (ci : Nat) (rb : Bool) : State :=
  match (s.ctx ci).held with
  | [] => s
  | a :: rest =>
    let s1 := if rb then s.rollback ci else s
    let c := s1.ctx ci
    let t : TrapInfo := { cause := 16, arg := BitVec.ofNat 64 c.lost, info := BitVec.ofNat 64 (a.q + 8 * a.idx) }
    let s2 := s1.modCtx ci fun c => { c with held := rest, lost := 0 }
    (s2.deliverTrap ci t true false rb c.next.pc c.next.pc c.bank.loops).leaveCore ci (s.cycle + 1)

/-- A blocked context takes a held asynchronous trap at once, unless its pitch has issued its destroy under the no-replay
mark (R399). -/
def State.asyncAtBlock (s : State) (ci : Nat) : State :=
  let c := s.ctx ci
  match c.st with
  | .blocked _ => if c.held.isEmpty || (c.destroyed && s.noReplay ci) then s else s.deliverAsync ci true
  | _ => s

/-- What happens where a bundle does not issue (R83, R142): the trap is taken, or the context blocks. -/
def State.stop (s : State) : Stop → State
  | .trap i => s.takeTrap (s.me.destroyed && s.noReplay s.cid) i
  | .block b h =>
    let s1 := if b = .walks then s.startItemWalks else s.startRewalk h
    (s1.blockOn b).asyncAtBlock s.cid
  | .jemit j step r =>
    let s1 := match r with | some x => s.sendAppend j x | none => s
    ((s1.modMe fun c => { c with jfirst := some (j, step) }).blockOn .jemit).asyncAtBlock s.cid

/-- The meaning of a slot operation: it commits, or the context takes its trap or blocks (R67, R83). -/
def settle (s : State) : Res State → Host.Outcome State Fault Refusal
  | .ok t => .next t.commit
  | .error x => .next (s.stop x)

end Sys2Proof.Machine
end

