-- ==== Sys2Proof/Machine/Operands.lean ====
section
/-! DEFINITION. The operand forms of slot operations: how T, O and the operand latch are read (R69, R90, R91, R106,
R195) and where results go (R69, R92, R93). -/

namespace Sys2Proof.Machine

/-- T of an operation (R69). -/
def State.readT (s : State) (f : BitVec 9) : Res Src := s.readSrc f 0

/-- O of a format S or V operation (R69): the port, or the unit's operand latch where OL = 1, read as a vector, or as a scalar
where `low`. -/
def State.readO (s : State) (unit : Nat) (f : OpS) (low : Bool := false) : Res Src :=
  if f.ol then do
    let w ← s.readLatch unit low
    pure ⟨.vector, w, some (.ol unit), none⟩
  else s.readSrc f.o 1

/-- The operands of a scalar operation (R90, R91): T; O where it is read; L where it is read. -/
structure ScalarArgs where
  t : Word
  o : Word
  l : Word
  deriving DecidableEq, Repr

/-- Read the scalar operands of a format S operation. -/
def State.scalarArgs (s : State) (unit : Nat) (sh : Shape) (f : OpS) : Res ScalarArgs := do
  let t ← s.readT f.t
  let o ← if sh.o = .none then pure 0 else do
    let x ← s.readO unit f true
    pure x.word
  let l ← if sh.readsL then do
      let w ← s.readLatch unit true
      pure (w.data.setWidth 64)
    else pure 0
  pure ⟨t.word, o, l⟩

/-- A result of 64 bits into a result latch and into W where it is named (R93, R99). -/
def State.scalarWrites (s : State) (latch : Nat) (w : BitVec 6) (r : Word) : List RegWrite :=
  wr64 (.rl latch) r :: ((s.wbS w).toList.map fun x => wr64 x r)

/-- A scalar operation of a unit: encoding checks, guard (R97), operands, and the landing of what it computes
(R93). -/
def State.scalarOp (s : State) (i : Instr) (slot unit lat : Nat) (f : OpS)
    (out : ScalarArgs → List RegWrite) : Res State :=
  inSlot slot do
    s.opens i
    if !s.guard f.g then pure s
    else do
      let a ← s.scalarArgs unit i.shape f
      pure (s.land slot unit lat (out a))

/-- An ALU operation whose result is a function of T, O and L (R99). -/
def State.aluOp (s : State) (i : Instr) (u : AluUnit) (f : OpS) (r : Word → Word → Word → Word) : Res State :=
  s.scalarOp i u.slot u.unit 1 f fun a => s.scalarWrites u.unit f.w (r a.t a.o a.l)

/-- The operands of a format M operation: T as a scalar where it is read, the latch, DISP as a signed number. -/
def dispOf (f : OpM) : Int := f.disp.toInt

/-- Bits 63:0 of a latch as an offset (R124). -/
def Wide.lo (w : Wide) : Word := w.data.setWidth 64
/-- Bits 127:64 of a latch. -/
def Wide.hi (w : Wide) : Word := w.data.extractLsb' 64 64

end Sys2Proof.Machine
end

