-- ==== Sys2Proof/Machine/Flags.lean ====
section
/-! DEFINITION. The machine has no flags (R90). A condition is a compare's result, 1 or 0, and its predicate pair
(R100, R106); these are their computations. -/

namespace Sys2Proof.Machine

/-- The condition of a scalar compare (R100). -/
def scalarCond (c : Nat) (t o : Word) : Bool :=
  match c with
  | 0 => t == o
  | 1 => t != o
  | 2 => t.slt o
  | 3 => t.sle o
  | 4 => t.ult o
  | _ => t.ule o

/-- A predicate pair: p[2k] the condition, p[2k+1] its complement; none for k = 0 (R100). -/
def predPair (k : Nat) (b : Bool) : List RegWrite :=
  if k = 0 then [] else [wrP (2 * k) b, wrP (2 * k + 1) (!b)]

/-- The result of a scalar compare: 1 or 0 into the latch and W, and the predicate pair with it (R100). -/
def State.compareWrites (s : State) (u : AluUnit) (k : BitVec 4) (f : OpS) (b : Bool) : List RegWrite :=
  s.scalarWrites u.unit f.w (if b then 1 else 0) ++ predPair k.toNat b

/-- A compare (R100): latency 1. -/
def State.compareOp (s : State) (i : Instr) (c : Nat) (u : AluUnit) (k : BitVec 4) (f : OpS) : Res State :=
  s.scalarOp i u.slot u.unit 1 f fun a => s.compareWrites u k f (scalarCond c a.t a.o)

/-- A vector predicate pair (R203): bits of pt and pf, whole. -/
def vpredPair (k : Nat) (pt pf : VPred) : List RegWrite :=
  if k = 0 then []
  else
    [{ reg := .vp (2 * k), val := { data := pt.setWidth 1024 }, mask := fullMask },
     { reg := .vp (2 * k + 1), val := { data := pf.setWidth 1024 }, mask := fullMask }]

end Sys2Proof.Machine
end

