-- ==== Sys2Proof/Machine/Alu.lean ====
section
/-! DEFINITION. The ALUs ia and ib (R99 to R101). -/

namespace Sys2Proof.Machine

/-- A shift count, bits 5:0 (R99). -/
def sh6 (x : Word) : Nat := (x.setWidth 6).toNat

/-- Leading zero bits among bits n - 1 to 0. -/
def clzFrom (t : Word) : Nat → Nat
  | 0 => 0
  | n + 1 => if t.getLsbD n then 0 else clzFrom t n + 1
/-- clz: 64 for 0 (R99). -/
def clz64 (t : Word) : Nat := clzFrom t 64

/-- Trailing zero bits from bit i on, n bits left. -/
def ctzFrom (t : Word) (i : Nat) : Nat → Nat
  | 0 => 0
  | n + 1 => if t.getLsbD i then 0 else ctzFrom t (i + 1) n + 1
/-- ctz: 64 for 0 (R99). -/
def ctz64 (t : Word) : Nat := ctzFrom t 0 64

/-- Position and length of a field (R99). -/
def fieldPos (x : Word) : Nat := (x.extractLsb' 0 6).toNat
/-- The length, 1 to 64 (R99). -/
def fieldLen (x : Word) : Nat := (x.extractLsb' 6 6).toNat + 1
/-- The low len ones (R99). -/
def maskLen (len : Nat) : Word := BitVec.ofNat 64 (2 ^ len - 1)

/-- bfx (R99): a field past bit 63 reads zeros. -/
def bfxOf (t o : Word) : Word := (t >>> fieldPos o) &&& maskLen (fieldLen o)

/-- bfi (R99): field bits past 63 are dropped. -/
def bfiOf (t o l : Word) : Word :=
  let m := maskLen (fieldLen l) <<< fieldPos l
  (t &&& ~~~m) ||| ((o <<< fieldPos l) &&& m)

/-- add: the operation (R99). -/
def opAdd (u : AluUnit) (f : OpS) (s : State) : Res State :=
  s.aluOp (.add u f) u f fun t o _ => t + o
/-- add (R99). -/
def execAdd (u : AluUnit) (f : OpS) (s : State) : Host.Outcome State Fault Refusal := settle s (opAdd u f s)

/-- sub: the operation (R99). -/
def opSub (u : AluUnit) (f : OpS) (s : State) : Res State :=
  s.aluOp (.sub u f) u f fun t o _ => t - o
/-- sub (R99). -/
def execSub (u : AluUnit) (f : OpS) (s : State) : Host.Outcome State Fault Refusal := settle s (opSub u f s)

/-- and: the operation (R99). -/
def opAnd (u : AluUnit) (f : OpS) (s : State) : Res State :=
  s.aluOp (.and u f) u f fun t o _ => t &&& o
/-- and (R99). -/
def execAnd (u : AluUnit) (f : OpS) (s : State) : Host.Outcome State Fault Refusal := settle s (opAnd u f s)

/-- or: the operation (R99). -/
def opOr (u : AluUnit) (f : OpS) (s : State) : Res State :=
  s.aluOp (.or u f) u f fun t o _ => t ||| o
/-- or (R99). -/
def execOr (u : AluUnit) (f : OpS) (s : State) : Host.Outcome State Fault Refusal := settle s (opOr u f s)

/-- xor: the operation (R99). -/
def opXor (u : AluUnit) (f : OpS) (s : State) : Res State :=
  s.aluOp (.xor u f) u f fun t o _ => t ^^^ o
/-- xor (R99). -/
def execXor (u : AluUnit) (f : OpS) (s : State) : Host.Outcome State Fault Refusal := settle s (opXor u f s)

/-- andn: the operation (R99). -/
def opAndn (u : AluUnit) (f : OpS) (s : State) : Res State :=
  s.aluOp (.andn u f) u f fun t o _ => t &&& ~~~o
/-- andn (R99). -/
def execAndn (u : AluUnit) (f : OpS) (s : State) : Host.Outcome State Fault Refusal := settle s (opAndn u f s)

/-- orn: the operation (R99). -/
def opOrn (u : AluUnit) (f : OpS) (s : State) : Res State :=
  s.aluOp (.orn u f) u f fun t o _ => t ||| ~~~o
/-- orn (R99). -/
def execOrn (u : AluUnit) (f : OpS) (s : State) : Host.Outcome State Fault Refusal := settle s (opOrn u f s)

/-- shl: the operation (R99). -/
def opShl (u : AluUnit) (f : OpS) (s : State) : Res State :=
  s.aluOp (.shl u f) u f fun t o _ => t <<< sh6 o
/-- shl (R99). -/
def execShl (u : AluUnit) (f : OpS) (s : State) : Host.Outcome State Fault Refusal := settle s (opShl u f s)

/-- shr: the operation (R99). -/
def opShr (u : AluUnit) (f : OpS) (s : State) : Res State :=
  s.aluOp (.shr u f) u f fun t o _ => t >>> sh6 o
/-- shr (R99). -/
def execShr (u : AluUnit) (f : OpS) (s : State) : Host.Outcome State Fault Refusal := settle s (opShr u f s)

/-- sra: the operation (R99). -/
def opSra (u : AluUnit) (f : OpS) (s : State) : Res State :=
  s.aluOp (.sra u f) u f fun t o _ => t.sshiftRight (sh6 o)
/-- sra (R99). -/
def execSra (u : AluUnit) (f : OpS) (s : State) : Host.Outcome State Fault Refusal := settle s (opSra u f s)

/-- ror: the operation (R99). -/
def opRor (u : AluUnit) (f : OpS) (s : State) : Res State :=
  s.aluOp (.ror u f) u f fun t o _ => t.rotateRight (sh6 o)
/-- ror (R99). -/
def execRor (u : AluUnit) (f : OpS) (s : State) : Host.Outcome State Fault Refusal := settle s (opRor u f s)

/-- min: the operation (R99). -/
def opMin (u : AluUnit) (f : OpS) (s : State) : Res State :=
  s.aluOp (.min u f) u f fun t o _ => if t.slt o then t else o
/-- min (R99). -/
def execMin (u : AluUnit) (f : OpS) (s : State) : Host.Outcome State Fault Refusal := settle s (opMin u f s)

/-- max: the operation (R99). -/
def opMax (u : AluUnit) (f : OpS) (s : State) : Res State :=
  s.aluOp (.max u f) u f fun t o _ => if t.slt o then o else t
/-- max (R99). -/
def execMax (u : AluUnit) (f : OpS) (s : State) : Host.Outcome State Fault Refusal := settle s (opMax u f s)

/-- minn: the operation (R99). -/
def opMinn (u : AluUnit) (f : OpS) (s : State) : Res State :=
  s.aluOp (.minn u f) u f fun t o _ => if t.ult o then t else o
/-- minn (R99). -/
def execMinn (u : AluUnit) (f : OpS) (s : State) : Host.Outcome State Fault Refusal := settle s (opMinn u f s)

/-- maxn: the operation (R99). -/
def opMaxn (u : AluUnit) (f : OpS) (s : State) : Res State :=
  s.aluOp (.maxn u f) u f fun t o _ => if t.ult o then o else t
/-- maxn (R99). -/
def execMaxn (u : AluUnit) (f : OpS) (s : State) : Host.Outcome State Fault Refusal := settle s (opMaxn u f s)

/-- sel: the operation (R99). -/
def opSel (u : AluUnit) (f : OpS) (s : State) : Res State :=
  s.aluOp (.sel u f) u f fun t o l => if t ≠ 0 then o else l
/-- sel (R99). -/
def execSel (u : AluUnit) (f : OpS) (s : State) : Host.Outcome State Fault Refusal := settle s (opSel u f s)

/-- sext8: the operation (R99). -/
def opSext8 (u : AluUnit) (f : OpS) (s : State) : Res State :=
  s.aluOp (.sext8 u f) u f fun t _ _ => (t.setWidth 8).signExtend 64
/-- sext8 (R99). -/
def execSext8 (u : AluUnit) (f : OpS) (s : State) : Host.Outcome State Fault Refusal := settle s (opSext8 u f s)

/-- sext16: the operation (R99). -/
def opSext16 (u : AluUnit) (f : OpS) (s : State) : Res State :=
  s.aluOp (.sext16 u f) u f fun t _ _ => (t.setWidth 16).signExtend 64
/-- sext16 (R99). -/
def execSext16 (u : AluUnit) (f : OpS) (s : State) : Host.Outcome State Fault Refusal := settle s (opSext16 u f s)

/-- sext32: the operation (R99). -/
def opSext32 (u : AluUnit) (f : OpS) (s : State) : Res State :=
  s.aluOp (.sext32 u f) u f fun t _ _ => (t.setWidth 32).signExtend 64
/-- sext32 (R99). -/
def execSext32 (u : AluUnit) (f : OpS) (s : State) : Host.Outcome State Fault Refusal := settle s (opSext32 u f s)

/-- zext8: the operation (R99). -/
def opZext8 (u : AluUnit) (f : OpS) (s : State) : Res State :=
  s.aluOp (.zext8 u f) u f fun t _ _ => (t.setWidth 8).setWidth 64
/-- zext8 (R99). -/
def execZext8 (u : AluUnit) (f : OpS) (s : State) : Host.Outcome State Fault Refusal := settle s (opZext8 u f s)

/-- zext16: the operation (R99). -/
def opZext16 (u : AluUnit) (f : OpS) (s : State) : Res State :=
  s.aluOp (.zext16 u f) u f fun t _ _ => (t.setWidth 16).setWidth 64
/-- zext16 (R99). -/
def execZext16 (u : AluUnit) (f : OpS) (s : State) : Host.Outcome State Fault Refusal := settle s (opZext16 u f s)

/-- zext32: the operation (R99). -/
def opZext32 (u : AluUnit) (f : OpS) (s : State) : Res State :=
  s.aluOp (.zext32 u f) u f fun t _ _ => (t.setWidth 32).setWidth 64
/-- zext32 (R99). -/
def execZext32 (u : AluUnit) (f : OpS) (s : State) : Host.Outcome State Fault Refusal := settle s (opZext32 u f s)

/-- clz: the operation (R99). -/
def opClz (u : AluUnit) (f : OpS) (s : State) : Res State :=
  s.aluOp (.clz u f) u f fun t _ _ => BitVec.ofNat 64 (clz64 t)
/-- clz (R99). -/
def execClz (u : AluUnit) (f : OpS) (s : State) : Host.Outcome State Fault Refusal := settle s (opClz u f s)

/-- ctz: the operation (R99). -/
def opCtz (u : AluUnit) (f : OpS) (s : State) : Res State :=
  s.aluOp (.ctz u f) u f fun t _ _ => BitVec.ofNat 64 (ctz64 t)
/-- ctz (R99). -/
def execCtz (u : AluUnit) (f : OpS) (s : State) : Host.Outcome State Fault Refusal := settle s (opCtz u f s)

/-- popc: the operation (R99). -/
def opPopc (u : AluUnit) (f : OpS) (s : State) : Res State :=
  s.aluOp (.popc u f) u f fun t _ _ => BitVec.ofNat 64 (popCount t.toNat 64)
/-- popc (R99). -/
def execPopc (u : AluUnit) (f : OpS) (s : State) : Host.Outcome State Fault Refusal := settle s (opPopc u f s)

/-- bfx: the operation (R99). -/
def opBfx (u : AluUnit) (f : OpS) (s : State) : Res State :=
  s.aluOp (.bfx u f) u f fun t o _ => bfxOf t o
/-- bfx (R99). -/
def execBfx (u : AluUnit) (f : OpS) (s : State) : Host.Outcome State Fault Refusal := settle s (opBfx u f s)

/-- bfi: the operation (R99). -/
def opBfi (u : AluUnit) (f : OpS) (s : State) : Res State :=
  s.aluOp (.bfi u f) u f fun t o l => bfiOf t o l
/-- bfi (R99). -/
def execBfi (u : AluUnit) (f : OpS) (s : State) : Host.Outcome State Fault Refusal := settle s (opBfi u f s)

/-- addsh: the operation (R99). -/
def opAddsh (u : AluUnit) (f : OpS) (s : State) : Res State :=
  s.aluOp (.addsh u f) u f fun t o l => t + (o <<< sh6 l)
/-- addsh (R99). -/
def execAddsh (u : AluUnit) (f : OpS) (s : State) : Host.Outcome State Fault Refusal := settle s (opAddsh u f s)

/-- ceq: the operation (R100). -/
def opCeq (u : AluUnit) (k : BitVec 4) (f : OpS) (s : State) : Res State := s.compareOp (.ceq u k f) 0 u k f
/-- ceq (R100). -/
def execCeq (u : AluUnit) (k : BitVec 4) (f : OpS) (s : State) : Host.Outcome State Fault Refusal :=
  settle s (opCeq u k f s)

/-- cne: the operation (R100). -/
def opCne (u : AluUnit) (k : BitVec 4) (f : OpS) (s : State) : Res State := s.compareOp (.cne u k f) 1 u k f
/-- cne (R100). -/
def execCne (u : AluUnit) (k : BitVec 4) (f : OpS) (s : State) : Host.Outcome State Fault Refusal :=
  settle s (opCne u k f s)

/-- clt: the operation (R100). -/
def opClt (u : AluUnit) (k : BitVec 4) (f : OpS) (s : State) : Res State := s.compareOp (.clt u k f) 2 u k f
/-- clt (R100). -/
def execClt (u : AluUnit) (k : BitVec 4) (f : OpS) (s : State) : Host.Outcome State Fault Refusal :=
  settle s (opClt u k f s)

/-- cle: the operation (R100). -/
def opCle (u : AluUnit) (k : BitVec 4) (f : OpS) (s : State) : Res State := s.compareOp (.cle u k f) 3 u k f
/-- cle (R100). -/
def execCle (u : AluUnit) (k : BitVec 4) (f : OpS) (s : State) : Host.Outcome State Fault Refusal :=
  settle s (opCle u k f s)

/-- cltn: the operation (R100). -/
def opCltn (u : AluUnit) (k : BitVec 4) (f : OpS) (s : State) : Res State := s.compareOp (.cltn u k f) 4 u k f
/-- cltn (R100). -/
def execCltn (u : AluUnit) (k : BitVec 4) (f : OpS) (s : State) : Host.Outcome State Fault Refusal :=
  settle s (opCltn u k f s)

/-- clen: the operation (R100). -/
def opClen (u : AluUnit) (k : BitVec 4) (f : OpS) (s : State) : Res State := s.compareOp (.clen u k f) 5 u k f
/-- clen (R100). -/
def execClen (u : AluUnit) (k : BitVec 4) (f : OpS) (s : State) : Host.Outcome State Fault Refusal :=
  settle s (opClen u k f s)

end Sys2Proof.Machine
end

