-- ==== Sys2Proof/Machine/Lock.lean ====
section
/-! DEFINITION. Operand locks of pushes on the scratchpad (R220) and the packed row width (R216). -/

namespace Sys2Proof.Machine

/-- Packed row width in bytes of a format (R216). -/
def packedWidth (fmt : Nat) : Nat := if fmt = 11 then 96 else if fmt = 7 then 256 else 128

/-- The bytes between rows: STRIDE, or the packed row width for 0 (R216). -/
def rowStride (stride fmt : Nat) : Nat := if stride = 0 then packedWidth fmt else stride

/-- The scratchpad bytes a push holds locked: first, and one past the last (R220). Only an mpush that has not read its
last row holds a lock. -/
def MOp.lock (m : MOp) : Option (Nat × Nat) :=
  if m.load || m.vec.isSome || m.consumed then none
  else some (m.off.toNat, m.off.toNat + 127 * rowStride m.stride m.fmt.toNat + packedWidth m.fmt.toNat)

/-- The push's lock touches n bytes at an offset. -/
def MOp.touches (m : MOp) (off n : Nat) : Bool :=
  match m.lock with
  | none => false
  | some (lo, hi) => decide (off < hi) && decide (lo < off + n)

/-- The check at issue of a store or full/empty action on the scratchpad (R220): a store under a lock of the context's own
current pitch raises the queue-underflow trap, with ls named; under any other lock either blocks. -/
def State.lockCheck (s : State) (off n : Nat) (store : Bool := true) : Res Unit :=
  let l := s.myCore.mops.filter fun m => m.touches off n
  if store && l.any fun m => m.ownPitch s.cid s.me.pitch then raise 11 0 8
  else if l.isEmpty then .ok ()
  else blockAt .locked

/-- Whether any push locks bytes of a core's scratchpad (R220). -/
def State.spadLocked (s : State) (core off n : Nat) : Bool := (s.core core).mops.any fun m => m.touches off n

/-- A gated scratchpad entry of the context lies in a region that another context has locked: its pitch-end bundle
blocks (R220). -/
def State.gatedLocked (s : State) : Bool :=
  let held := fun (off n : Nat) => s.myCore.mops.any fun m => m.ctx != s.cid && m.touches off n
  s.me.rel.any fun x =>
    match x.body with
    | .store g => g.h.ps == 15 && g.chunks.any fun c => held c.2.1 c.2.2.length
    | .fe _ line => held (128 * line) 128
    | _ => false

end Sys2Proof.Machine
end

