-- ==== Sys2Proof/Machine/Pending.lean ====
section
/-! DEFINITION. Reads that have been issued and not performed, loads (R127, R247) and the rows of cached mloads (R226, R245), and
what has to read first so that coherence and single-copy atomicity hold (R255, R256). -/

namespace Sys2Proof.Machine

/-- A run of bytes: its first address and its length. -/
abbrev Run := Nat × Nat

/-- Two runs of bytes share one. -/
def Run.meets (x y : Run) : Bool := decide (x.1 < y.1 + y.2) && decide (y.1 < x.1 + x.2)

/-- The single-copy-atomic piece of a load's chunk that holds an address (R129). -/
def pieceOf (pa n a : Nat) : Run := if n < 16 then (pa, n) else (16 * (a / 16), 16)

/-- The bytes a load has still to read, each with its single-copy-atomic piece. -/
def PendLoad.missing (ld : PendLoad) : List (Nat × Run) :=
  (ld.parts.map fun p => (List.range p.n).map fun i => (p.pa + i, pieceOf p.pa p.n (p.pa + i))).flatten.filter fun x =>
    !(ld.ovl.any fun e => e.1 == x.1)

/-- The words of the context's atomics of earlier bundles that have not performed, released or not. -/
def Ctx.atomicWords (c : Ctx) (seq : Nat) : List Run :=
  ((c.path.map PitchRel.step1).flatten ++ c.rel).filterMap fun x =>
    match x.body with
    | .atomic _ _ _ _ pa _ _ _ => if x.seq < seq then some (pa, 8) else none
    | _ => none

/-- What a load of bundle seq may not read yet (R255): the words of the context's own earlier atomics, and the pieces for which
its own earlier loads wait in the same way. (DEDUCED, log 69) -/
def Ctx.heldRuns (c : Ctx) (seq : Nat) : List Run :=
  (c.loads.filter fun l => decide (l.seq < seq)).foldl (fun w l =>
      w ++ (l.missing.map Prod.snd).filter fun x => (w ++ c.atomicWords l.seq).any (Run.meets x)) []
    ++ c.atomicWords seq

/-- A pending load waits for an atomic of its own context (R255). (DEDUCED, log 69) -/
def Ctx.heldLoad (c : Ctx) (ld : PendLoad) : Bool :=
  let w := c.heldRuns ld.seq
  ld.missing.any fun x => w.any (Run.meets x.2)

/-- A pending load waits for an atomic of its own unreleased pitch: it can land only after that pitch's release, and its marks
are those of such a result (R133). (DEDUCED, log 69) -/
def Ctx.lateLoad (c : Ctx) (ld : PendLoad) : Bool := ({ c with path := [] } : Ctx).heldLoad ld

/-- The bytes a pending load has to read before the run is read or written by what follows it (R255). -/
def Ctx.owed (c : Ctx) (ld : PendLoad) (r : Run) : List Nat :=
  let w := c.heldRuns ld.seq
  (ld.missing.filter fun x => x.2.meets r && !(w.any (Run.meets x.2))).map Prod.fst

/-- The access a pending load makes. -/
def PendLoad.acc (l : PendLoad) : Acc := ⟨some l.slot, l.gen, true, l.h.key, 0⟩

/-- A pending load takes bytes that the L1 holds. -/
def State.takeCells (s : State) (core : Nat) (as : List Nat) (ld : PendLoad) : PendLoad :=
  as.foldl (fun l a =>
    if s.l1Hit core ld.acc a then
      { l with ovl := Tab.set l.ovl a (s.l1Byte core a).1, pois := l.pois || (s.l1Byte core a).2 }
    else l) ld

/-- The context's own pending loads issued before bundle seq read, of the L1's bytes, those that a run shares a piece with:
no load reads a byte newer than a later event of its context reads or writes (R255). (DEDUCED, log 69) -/
def State.readAhead (s : State) (ci seq : Nat) (r : Run) : State :=
  s.modCtx ci fun c =>
    { c with loads := c.loads.map fun l => if l.seq < seq then s.takeCells (ci / 4) (c.owed l r) l else l }

/-- The same before a write performs or a missing load reads, and after an own store has performed, for the loads that took
bytes of it at their issue (R256): the sectors are filled first. -/
def State.settleLoads (s : State) (ci seq : Nat) (r : Run) : State :=
  let c := s.ctx ci
  if c.loads.isEmpty then s
  else ((c.loads.filter fun l => decide (l.seq < seq)).foldl (fun x l =>
    (c.owed l r).foldl (fun y a => y.l1Fill (ci / 4) l.acc l.h.sh (a / 128)) x) s).readAhead
      ci seq r

/-- Packing of t6: four 6-bit elements in three bytes (R125). -/
def packT6 (x : Lanes) : List Byte :=
  ((List.range 32).map fun g =>
    bytesOf (BitVec.ofNat 24 ((List.range 4).foldl (fun a j => a + elem 8 x (4 * g + j) % 64 * 2 ^ (6 * j)) 0)) 3).flatten

/-- Unpacking of t6 (R125). -/
def unpackT6 (l : List Byte) : Lanes :=
  lanesOf 8 ((List.range 128).map fun i =>
    natOfBytes ((l.drop (3 * (i / 4))).take 3) / 2 ^ (6 * (i % 4)) % 64)

/-- The poisoned columns of a B row as read, packed as t6 or in bytes: those of whose bits a byte is poisoned (R125, R225). -/
def rowPoison (t6 : Bool) (l : List (Byte × Bool)) : BitVec 128 :=
  (List.range 128).foldl (fun (p : BitVec 128) c =>
    let b := if t6 then (l.drop (6 * c / 8)).take ((6 * c + 5) / 8 - 6 * c / 8 + 1) else (l.drop c).take 1
    if b.any Prod.snd then p ||| ((1 : BitVec 128) <<< c) else p) 0

/-- The handle an mload reads through: a revoked one is translated again when the load runs (R121, R226); the pitch-end bundle has
seen to a walk that fails. -/
def State.mloadHandle (s : State) (h : Handle) : Handle :=
  if h.st = .revoked then match s.rewalk h with | .ok g => g | .error _ => h else h

/-- The physical address of an mload's row k, or its scratchpad offset (R123, R226). -/
def MOp.rowPa (m : MOp) (h : Handle) (k : Nat) : Nat :=
  let ea := wrap 64 ((h.va.toNat : Int) + (m.off + BitVec.ofNat 64 (k * m.stride)).toInt)
  if h.ps = 15 then ea
  else h.pfn.toNat * 4096 + (ea - h.va.toNat / pageBytes h.ps.toNat * pageBytes h.ps.toNat)

/-- The rows an mload reads now (R226, R245): from the scratchpad as the lines stand, or through the core's L1, its context's
earlier loads of those bytes first (R255). Poison of its bytes reaches their own columns (R225). -/
def State.mloadData (s : State) (core : Nat) (m : MOp) : List (Lanes × BitVec 128) × State :=
  let n := packedWidth m.fmt.toNat
  let h := s.mloadHandle m.h
  (List.range 128).foldl (fun acc k =>
    let pa := m.rowPa h k
    let (l, s1) :=
      if h.ps = 15 then ((List.range n).map (fun i => acc.2.spadByte core (pa + i)), acc.2)
      else (acc.2.settleLoads m.ctx m.seq (pa, n)).l1Read core ⟨some m.slot, m.gen, true, h.key, 0⟩ h.sh pa n
    let bytes := l.map Prod.fst
    (acc.1 ++ [(if m.fmt = 11 then unpackT6 bytes else ofBytes 1024 bytes, rowPoison (m.fmt == 11) l)], s1)) ([], s)

/-- A context's mload of an earlier bundle has been released, reads through the L1 and has not read yet (R218, R226). -/
def MOp.unread (m : MOp) (ci seq : Nat) : Bool :=
  m.load && m.released && m.ctx == ci && decide (m.seq < seq) && m.data.isNone && m.h.ps != 15

/-- The rows an mload reads. -/
def State.mloadRuns (s : State) (m : MOp) : List Run :=
  let h := s.mloadHandle m.h
  (List.range 128).map fun k => (m.rowPa h k, packedWidth m.fmt.toNat)

/-- Mloads of a context issued before a bundle, released and not read, read their rows now, in order: all of them, where one reads
a byte of the runs, or whatever they read (R255, R257). (DEDUCED, log 69) -/
def State.settleMloads (s : State) (ci seq : Nat) (r : Option (List Run)) : State :=
  let l := (s.core (ci / 4)).mops.filter fun m => m.unread ci seq
  let hit := match r with
    | none => true
    | some rs => l.any fun m => (s.mloadRuns m).any fun x => rs.any (Run.meets x)
  if !hit then s
  else l.foldl (fun x m =>
    let (l, z) := x.mloadData (ci / 4) m
    z.modCore (ci / 4) fun k => { k with mops := k.mops.map fun y => if y.id == m.id then { y with data := some l } else y }) s

/-- An mload reads its rows (R226), its context's earlier mloads of those bytes first (R255). (DEDUCED, log 69) -/
def State.readMload (s : State) (core : Nat) (m : MOp) : List (Lanes × BitVec 128) × State :=
  (if m.h.ps = 15 then s else s.settleMloads m.ctx m.seq (some (s.mloadRuns m))).mloadData core m

/-- The context's own earlier reads of a run come first: its mloads, then its pending loads (R255). -/
def State.settleReads (s : State) (ci seq : Nat) (r : Run) : State := (s.settleMloads ci seq (some [r])).settleLoads ci seq r

/-- The loads of a bundle read before a store of the same bundle performs, whatever bytes they read (R257). (DEDUCED, log 69) -/
def State.settleBundle (s : State) (ci seq : Nat) : State :=
  ((s.ctx ci).loads.filter fun l => l.seq == seq).foldl (fun x l =>
    l.parts.foldl (fun y p => y.settleLoads ci (seq + 1) (p.pa, p.n)) x) s

end Sys2Proof.Machine
end

