-- ==== Sys2Proof/Machine/LoadStore.lean ====
section
/-! DEFINITION. The load and store unit ls: loads (R124 to R127), stores (R124 to R128), full/empty operations (R131,
R132), ordering operations (R248 to R250) and cache operations (R137). -/

namespace Sys2Proof.Machine

/-- A load's bytes from one chunk as they stand at issue: the context's own unperformed entries first, then the
scratchpad or a hit in the L1; a byte that misses, or that waits for an own atomic, is left out and is read when the load
lands (R128, R247, R255). -/
def State.chunkNow (s : State) (a : Acc) (own : List (Nat × Byte × Bool)) (held : List Run) (spad : Bool) (pa n : Nat) :
    Tab Byte × Bool :=
  (List.range n).foldl (fun (acc : Tab Byte × Bool) i =>
    match lookupCell own (pa + i) with
    | some (b, p) => (Tab.set acc.1 (pa + i) b, acc.2 || p)
    | none =>
      if spad then
        let (b, p) := s.spadByte s.cur.core (pa + i)
        (Tab.set acc.1 (pa + i) b, acc.2 || p)
      else if s.l1Hit s.cur.core a (pa + i) && !(held.any (Run.meets (pieceOf pa n (pa + i)))) then
        let (b, p) := s.l1Byte s.cur.core (pa + i)
        (Tab.set acc.1 (pa + i) b, acc.2 || p)
      else acc) ([], false)

/-- A load issues (R127): its latch and W become pending, and it reads what is at hand; the context's own earlier loads of
those bytes read them too (R255). -/
def State.issueLoad (s : State) (h : Handle) (chunks : List (Nat × Nat)) (n : Nat) (form : LoadForm) (latch : Nat)
    (wb : Option Reg) : State :=
  let spad := h.ps == 15
  let own := s.me.ownCells spad
  let held := if spad then [] else s.me.heldRuns s.cur.seq
  let z := if spad then s else s.settleMloads s.cid s.cur.seq (some (chunks.map fun c => (c.2, n)))
  let got := chunks.foldl (fun (acc : Tab Byte × Bool) c =>
    let (t, p) := z.chunkNow (s.ctxAcc s.cur.core h) own held spad c.2 n
    (t.foldl (fun a e => Tab.set a e.1 e.2) acc.1, acc.2 || p)) ([], false)
  let s0 := if spad then s else chunks.foldl (fun x c => x.readAhead s.cid s.cur.seq (c.2, n)) z
  let (tok, s1) := s0.newTok
  let ld : PendLoad :=
    { tok := tok, seq := s.cur.seq, pitch := s.me.pitch, h := h, parts := chunks.map fun c => ⟨c.1, c.2, n⟩,
      form := form, ovl := got.1, pois := got.2, slot := s.coreSlot s.cur.core, gen := s.coreGen s.cur.core }
  let s2 := s1.pendOn (.rl latch :: wb.toList) tok 8 (!spad && s1.me.lateLoad ld)
  s2.modMe fun c => { c with loads := c.loads ++ [ld] }

/-- Every line a scratchpad access touches is full, or the bundle blocks (R131). -/
def State.needFull (s : State) (off n : Nat) : Res Unit :=
  if (List.range ((off + n - 1) / 128 - off / 128 + 1)).all fun i => s.lineFull s.cur.core (off / 128 + i) then .ok ()
  else blockAt .emptyLine

/-- Addresses of a list of chunks, checked in order (R123). -/
def formChunks (h : Handle) (disp : Int) (unit n a : Nat) (rd wr : Bool) : List Word → Res (List (Nat × Nat))
  | [] => .ok []
  | o :: r => do
    let x ← formAddr h o disp unit n a rd wr false false false
    let rest ← formChunks h disp unit n a rd wr r
    pure (x :: rest)

/-- A load of chunks at offsets (R123 to R127, R131). -/
def State.loadOp (s : State) (nw : Bool) (f : OpM) (unit n a : Nat) (offs : List Word) (form : LoadForm) (latch : Nat)
    (wb : Option Reg) : Res State := do
  let h ← s.useHandle f.h.toNat fun h => effAddr h (offs.headD 0) (dispOf f) unit
  let cs ← formChunks h (dispOf f) unit n a true false offs
  if h.ps = 15 ∧ !nw then cs.forM fun c => s.needFull c.2 n
  pure (s.issueLoad h cs n form latch wb)

/-- A store of chunks: checks, operand locks, and one entry of the gated store buffer (R123, R128, R220). -/
def State.storeOp (s : State) (f : OpM) (unit n a : Nat) (offs : List Word) (data : List (List Byte)) : Res State := do
  let h ← s.useHandle f.h.toNat fun h => effAddr h (offs.headD 0) (dispOf f) unit
  let cs ← formChunks h (dispOf f) unit n a false true offs
  if h.ps = 15 then cs.forM fun c => s.lockCheck c.2 n
  pure (s.addRel 0 8 (.store
    { h := h, chunks := (cs.zip data).map (fun e => (e.1.1, e.1.2, e.2)), poison := false,
      slot := s.coreSlot s.cur.core, gen := s.coreGen s.cur.core, marked := false }))

/-- The frame of an ls operation: encoding checks and the guard (R97). -/
def State.lsOp (s : State) (i : Instr) (f : OpM) (act : Res State) : Res State :=
  inSlot 2 do
    s.opens i
    if !s.guard f.g then pure s else act

/-- A scalar load of n bytes (R124). -/
def State.scalarLoad (s : State) (i : Instr) (nw : Bool) (f : OpM) (n : Nat) (sext : Bool) : Res State :=
  s.lsOp i f do
    let t ← s.readT f.t
    s.loadOp nw f n n n [t.word] (.scalar n sext) 4 (s.wbS f.w)

/-- A scalar store of n bytes: T is the data, the latch's low word the offset (R124). -/
def State.scalarStore (s : State) (i : Instr) (f : OpM) (n : Nat) : Res State :=
  s.lsOp i f do
    let t ← s.readT f.t
    let l ← s.readLatch 8
    s.storeOp f n n n [l.lo] [bytesOf t.word n]

/-- ldb (R124). -/
def opLdb (nw : Bool) (f : OpM) (s : State) : Res State := s.scalarLoad (.ldb nw f) nw f 1 true
/-- ldb (R124). -/
def execLdb (nw : Bool) (f : OpM) (s : State) : Host.Outcome State Fault Refusal := settle s (opLdb nw f s)
/-- ldh (R124). -/
def opLdh (nw : Bool) (f : OpM) (s : State) : Res State := s.scalarLoad (.ldh nw f) nw f 2 true
/-- ldh (R124). -/
def execLdh (nw : Bool) (f : OpM) (s : State) : Host.Outcome State Fault Refusal := settle s (opLdh nw f s)
/-- ldw (R124). -/
def opLdw (nw : Bool) (f : OpM) (s : State) : Res State := s.scalarLoad (.ldw nw f) nw f 4 true
/-- ldw (R124). -/
def execLdw (nw : Bool) (f : OpM) (s : State) : Host.Outcome State Fault Refusal := settle s (opLdw nw f s)
/-- ldd (R124). -/
def opLdd (nw : Bool) (f : OpM) (s : State) : Res State := s.scalarLoad (.ldd nw f) nw f 8 true
/-- ldd (R124). -/
def execLdd (nw : Bool) (f : OpM) (s : State) : Host.Outcome State Fault Refusal := settle s (opLdd nw f s)
/-- ldbn (R124). -/
def opLdbn (nw : Bool) (f : OpM) (s : State) : Res State := s.scalarLoad (.ldbn nw f) nw f 1 false
/-- ldbn (R124). -/
def execLdbn (nw : Bool) (f : OpM) (s : State) : Host.Outcome State Fault Refusal := settle s (opLdbn nw f s)
/-- ldhn (R124). -/
def opLdhn (nw : Bool) (f : OpM) (s : State) : Res State := s.scalarLoad (.ldhn nw f) nw f 2 false
/-- ldhn (R124). -/
def execLdhn (nw : Bool) (f : OpM) (s : State) : Host.Outcome State Fault Refusal := settle s (opLdhn nw f s)
/-- ldwn (R124). -/
def opLdwn (nw : Bool) (f : OpM) (s : State) : Res State := s.scalarLoad (.ldwn nw f) nw f 4 false
/-- ldwn (R124). -/
def execLdwn (nw : Bool) (f : OpM) (s : State) : Host.Outcome State Fault Refusal := settle s (opLdwn nw f s)
/-- stb (R124). -/
def opStb (f : OpM) (s : State) : Res State := s.scalarStore (.stb f) f 1
/-- stb (R124). -/
def execStb (f : OpM) (s : State) : Host.Outcome State Fault Refusal := settle s (opStb f s)
/-- sth (R124). -/
def opSth (f : OpM) (s : State) : Res State := s.scalarStore (.sth f) f 2
/-- sth (R124). -/
def execSth (f : OpM) (s : State) : Host.Outcome State Fault Refusal := settle s (opSth f s)
/-- stw (R124). -/
def opStw (f : OpM) (s : State) : Res State := s.scalarStore (.stw f) f 4
/-- stw (R124). -/
def execStw (f : OpM) (s : State) : Host.Outcome State Fault Refusal := settle s (opStw f s)
/-- std (R124). -/
def opStd (f : OpM) (s : State) : Res State := s.scalarStore (.std f) f 8
/-- std (R124). -/
def execStd (f : OpM) (s : State) : Host.Outcome State Fault Refusal := settle s (opStd f s)

/-- Bytes and alignment of a whole vector access (R125): 96 and 32 for t6. -/
def vecBytes (fmt : BitVec 4) : Nat := if fmt = 11 then 96 else 128
/-- The alignment of a whole vector access (R125). -/
def vecAlign (fmt : BitVec 4) : Nat := if fmt = 11 then 32 else 128

/-- The bytes of a wide value as a format stores them (R125). -/
def packVec (fmt : BitVec 4) (x : Lanes) : List Byte := if fmt = 11 then packT6 x else bytesOf x 128

/-- vld: loads a whole register (R125). -/
def opVld (fmt : BitVec 4) (nw : Bool) (f : OpM) (s : State) : Res State :=
  s.lsOp (.vld fmt nw f) f do
    let t ← s.readT f.t
    s.loadOp nw f (vecBytes fmt) (vecBytes fmt) (vecAlign fmt) [t.word] (.vec fmt) 5 (wbV f.w)
/-- vld (R125). -/
def execVld (fmt : BitVec 4) (nw : Bool) (f : OpM) (s : State) : Host.Outcome State Fault Refusal :=
  settle s (opVld fmt nw f s)

/-- The tags a format-tag trap reports: T in bits 9:0, O in 19:10, the latch in 29:20 (R391). -/
def tagInfo (t o l : Option Wide) : Word :=
  let code := fun (x : Option Wide) => match x with
    | some w => w.bias.toNat * 16 + w.fmt.toNat
    | none => 0
  BitVec.ofNat 64 (code t + code o * 2 ^ 10 + code l * 2 ^ 20)

/-- The format-tag trap (R186, R391). -/
def raiseTag {α : Type} (sub opnd : Nat) (t o l : Option Wide) : Res α :=
  .error (.trap { cause := 9, sub := sub, opnd := opnd, info := tagInfo t o l })

/-- vst: stores a whole register, its tag of the store's format or untyped (R125, R186). -/
def opVst (fmt : BitVec 4) (f : OpM) (s : State) : Res State :=
  s.lsOp (.vst fmt f) f do
    let t ← s.readT f.t
    let l ← s.readLatch 8
    let w := t.wide
    if w.fmt ≠ fmt ∧ w.fmt ≠ 0 then raiseTag 5 0 (some w) none none
    else s.storeOp f (vecBytes fmt) (vecBytes fmt) (vecAlign fmt) [l.lo] [packVec fmt w.data]
/-- vst (R125). -/
def execVst (fmt : BitVec 4) (f : OpM) (s : State) : Host.Outcome State Fault Refusal := settle s (opVst fmt f s)

/-- The offsets of the eight chunks of a strided access (R126). -/
def stridedOffs (off stride : Word) : List Word := (List.range 8).map fun i => off + BitVec.ofNat 64 i * stride
/-- The offsets of the eight chunks of an indexed access (R126). -/
def indexedOffs (x : Lanes) : List Word := (List.range 8).map fun i => (x.extractLsb' (32 * i) 32).signExtend 64
/-- The eight chunks of a wide value. -/
def chunks16 (x : Lanes) : List (List Byte) := (List.range 8).map fun i => bytesOf (x.extractLsb' (128 * i) 128) 16

/-- A stride that is no multiple of 16 raises bounds fault subcause 2, at the address of the first chunk (R126); a null
handle comes before it (R123). (DEDUCED, log 39) -/
def State.strideOk (s : State) (f : OpM) (off stride : Word) : Res Unit := do
  let h ← s.useHandle f.h.toNat fun h => effAddr h off (dispOf f) 16
  let ea := effAddr h off (dispOf f) 16
  if h.st = .null then raiseAt 6 1 ea
  else if stride.toNat % 16 = 0 then pure () else raiseAt 8 2 ea

/-- vlds: strided load (R126). -/
def opVlds (nw : Bool) (f : OpM) (s : State) : Res State :=
  s.lsOp (.vlds nw f) f do
    let t ← s.readT f.t
    let l ← s.readLatch 8
    s.strideOk f t.word l.hi
    s.loadOp nw f 16 16 16 (stridedOffs t.word l.hi) .chunks 5 (wbV f.w)
/-- vlds (R126). -/
def execVlds (nw : Bool) (f : OpM) (s : State) : Host.Outcome State Fault Refusal := settle s (opVlds nw f s)

/-- vsts: strided store (R126). -/
def opVsts (f : OpM) (s : State) : Res State :=
  s.lsOp (.vsts f) f do
    let t ← s.readT f.t
    let l ← s.readLatch 8
    s.strideOk f l.lo l.hi
    s.storeOp f 16 16 16 (stridedOffs l.lo l.hi) (chunks16 t.wide.data)
/-- vsts (R126). -/
def execVsts (f : OpM) (s : State) : Host.Outcome State Fault Refusal := settle s (opVsts f s)

/-- vldx: indexed load (R126). -/
def opVldx (nw : Bool) (f : OpM) (s : State) : Res State :=
  s.lsOp (.vldx nw f) f do
    let t ← s.readT f.t
    s.loadOp nw f 16 16 16 (indexedOffs t.wide.data) .chunks 5 (wbV f.w)
/-- vldx (R126). -/
def execVldx (nw : Bool) (f : OpM) (s : State) : Host.Outcome State Fault Refusal := settle s (opVldx nw f s)

/-- vstx: indexed store (R126). -/
def opVstx (f : OpM) (s : State) : Res State :=
  s.lsOp (.vstx f) f do
    let t ← s.readT f.t
    let l ← s.readLatch 8
    s.storeOp f 16 16 16 (indexedOffs l.data) (chunks16 t.wide.data)
/-- vstx (R126). -/
def execVstx (f : OpM) (s : State) : Host.Outcome State Fault Refusal := settle s (opVstx f s)

/-- The scratchpad line a full/empty operation names (R132). -/
def State.feLine (s : State) (f : OpM) : Res Nat := do
  let t ← s.readT f.t
  let h ← s.useHandle f.h.toNat fun h => effAddr h t.word (dispOf f) 128
  let x ← formAddr h t.word (dispOf f) 128 1 1 true false true false false
  pure (x.2 / 128)

/-- Limit kinds of a pitch: full/empty actions. (DEDUCED, log 36) -/
def limFe : Nat := 0
/-- Limit kinds of a pitch: rel and rdrain. (DEDUCED, log 36) -/
def limFence : Nat := 1
/-- Limit kinds of a pitch: atomics. (DEDUCED, log 36) -/
def limAt : Nat := 2

/-- fewait: blocks until the line is full (R132). -/
def opFewait (f : OpM) (s : State) : Res State :=
  s.lsOp (.fewait f) f do
    let line ← s.feLine f
    if s.lineFull s.cur.core line then pure s else blockAt .emptyLine
/-- fewait (R132). -/
def execFewait (f : OpM) (s : State) : Host.Outcome State Fault Refusal := settle s (opFewait f s)

/-- feclr and feset: at release, mark the line; 16 actions a pitch (R132); one on an operand-locked line blocks (R220). -/
def State.feAct (s : State) (i : Instr) (f : OpM) (full : Bool) : Res State :=
  s.lsOp i f do
    let line ← s.feLine f
    s.lockCheck (128 * line) 128 false
    let s1 ← s.limit limFe 16 8
    pure (s1.addRel 0 8 (.fe full line))

/-- feclr (R132). -/
def opFeclr (f : OpM) (s : State) : Res State := s.feAct (.feclr f) f false
/-- feclr (R132). -/
def execFeclr (f : OpM) (s : State) : Host.Outcome State Fault Refusal := settle s (opFeclr f s)
/-- feset (R132). -/
def opFeset (f : OpM) (s : State) : Res State := s.feAct (.feset f) f true
/-- feset (R132). -/
def execFeset (f : OpM) (s : State) : Host.Outcome State Fault Refusal := settle s (opFeset f s)

/-- fetst: 1 or 0 for full or empty, pending as a load (R132). -/
def opFetst (f : OpM) (s : State) : Res State :=
  s.lsOp (.fetst f) f do
    let line ← s.feLine f
    let b : Byte := if s.lineFull s.cur.core line then 1 else 0
    let (tok, s1) := s.newTok
    let s2 := s1.pendOn (.rl 4 :: (s.wbS f.w).toList) tok 8 false
    let ld : PendLoad :=
      { tok := tok, seq := s.cur.seq, pitch := s.me.pitch, h := s.h15 s.cur.core, parts := [⟨0, 0, 1⟩],
        form := .scalar 1 false, ovl := [(0, b)], pois := false, slot := s.coreSlot s.cur.core,
        gen := s.coreGen s.cur.core }
    pure (s2.modMe fun c => { c with loads := c.loads ++ [ld] })
/-- fetst (R132). -/
def execFetst (f : OpM) (s : State) : Host.Outcome State Fault Refusal := settle s (opFetst f s)

/-- rel: enters the release list; 8 rel and rdrain triggers a pitch, whatever their guards (R248, R249). The remote part of a rel.f
is an rdrain: it blocks until the remote loads issued before it have landed (R251). -/
def opRel (sc : Scope) (f : OpM) (s : State) : Res State :=
  inSlot 2 do
    s.opens (.rel sc f)
    let s1 ← s.limit limFence 8 8
    if !s.guard f.g then pure s1
    else if sc = .f ∧ !s.me.remote.isEmpty then blockAt .pendingRead
    else
      let (tok, s2) := s1.newTok
      pure (s2.addRel tok 8 (.rel sc))
/-- rel (R248, R249). -/
def execRel (sc : Scope) (f : OpM) (s : State) : Host.Outcome State Fault Refusal := settle s (opRel sc f s)

/-- A release entry that an acq waits for (R250). -/
def RelItem.isFence (x : RelItem) : Bool :=
  match x.body with
  | .atomic .. => true
  | .rel _ => true
  | .rdrain => true
  | _ => false

/-- Clean sectors of shared-class lines leave a core's L1 (R250). (DEDUCED, log 37) -/
def State.invalL1 (s : State) (core : Nat) : State :=
  s.modCore core fun k =>
    let l := k.l1.map fun c => if c.sh then { c with sect := c.sect.filter fun e => e.2.mask != 0 } else c
    { k with l1 := l.filter fun c => !c.sect.isEmpty }

/-- The dirty sectors of a die's RDC are written back; its lines stay valid and clean (R249). -/
def State.wbRdc (s : State) (d : Nat) : State :=
  ((s.die d).rdc.foldl State.wbRdcLine s).modDie d fun x => { x with rdc := x.rdc.map CLine.clean }

/-- Every sector of a die's RDC is written back and invalidated (R250). -/
def State.flushRdc (s : State) (d : Nat) : State := (s.wbRdc d).modDie d fun x => { x with rdc := [] }

/-- An mload stands in the release path of a pitch: it has not been handed to the matrix unit. -/
def PitchRel.hasMload (p : PitchRel) : Bool := p.step2.any fun x => match x.body with | .mload .. => true | _ => false

/-- acq: traps after a rel, rdrain or atomic of its own pitch; waits; invalidates (R250). Mloads of earlier pitches read first: it
waits for those that their release has still to hand over (R257). (DEDUCED, log 37) -/
def opAcq (sc : Scope) (f : OpM) (s : State) : Res State :=
  s.lsOp (.acq sc f) f do
    let c := s.me
    if c.rel.any RelItem.isFence then raise 11 0 8
    else if !c.loads.isEmpty || !c.remote.isEmpty || c.path.any (fun p => p.step1.any RelItem.isFence || p.hasMload) then
      blockAt .pendingRead
    else
      let s0 := s.settleMloads s.cid s.cur.seq none
      let s1 := if sc.code < 2 then s0 else s0.invalL1 s.cur.core
      pure (if sc.code < 3 then s1 else s1.flushRdc (dieOf s.cur.core))
/-- acq (R250). -/
def execAcq (sc : Scope) (f : OpM) (s : State) : Host.Outcome State Fault Refusal := settle s (opAcq sc f s)

/-- cwb and cinv: at release (R137). -/
def State.cacheOp (s : State) (i : Instr) (f : OpM) (inv : Bool) : Res State :=
  s.lsOp i f do
    let t ← s.readT f.t
    let h ← s.useHandle f.h.toNat fun h => effAddr h t.word (dispOf f) 1024
    let x ← formAddr h t.word (dispOf f) 1024 1 1 true false false false false
    pure (if h.ps = 15 then s else s.addRel 0 8 (.cache inv h x.1 x.2 false))

/-- cwb (R137). -/
def opCwb (f : OpM) (s : State) : Res State := s.cacheOp (.cwb f) f false
/-- cwb (R137). -/
def execCwb (f : OpM) (s : State) : Host.Outcome State Fault Refusal := settle s (opCwb f s)
/-- cinv (R137). -/
def opCinv (f : OpM) (s : State) : Res State := s.cacheOp (.cinv f) f true
/-- cinv (R137). -/
def execCinv (f : OpM) (s : State) : Host.Outcome State Fault Refusal := settle s (opCinv f s)

/-- A gated store performs (R128, R131, R245): into the scratchpad, or through the core's L1. -/
def State.performStore (s : State) (core : Nat) (slot : BitVec 4) (gen : BitVec 12) (g : Gated) : State :=
  g.chunks.foldl (fun x c =>
    if g.h.ps = 15 then x.spadWrites core slot gen g.poison c.2.1 c.2.2
    else x.l1Writes core ⟨some slot, gen, true, g.h.key, 0⟩ g.h.sh g.poison c.2.1 c.2.2) s

/-- A byte of a pending load when it lands: taken at issue, or read through the L1 now (R127, R135, R247). -/
def State.landPart (s : State) (core : Nat) (ld : PendLoad) (p : LoadPart) : List (Byte × Bool) × State :=
  let missing := (List.range p.n).any fun i => !(ld.ovl.any fun (e : Nat × Byte) => e.1 == p.pa + i)
  let a := ld.acc
  let (rd, s1) := if missing then s.l1Read core a ld.h.sh p.pa p.n else ((List.range p.n).map (fun _ => ((0 : Byte), false)), s)
  (((List.range p.n).zip rd).map (fun x =>
    match ld.ovl.find? fun e => e.1 == p.pa + x.1 with
    | some e => (e.2, false)
    | none => x.2), s1)

/-- The bytes of all parts of a load. -/
def State.landParts (s : State) (core : Nat) (ld : PendLoad) : List LoadPart → List (Byte × Bool) × State
  | [] => ([], s)
  | p :: r =>
    let (l, s1) := s.landPart core ld p
    let (m, s2) := s1.landParts core ld r
    (l ++ m, s2)

/-- The value loaded bytes give (R124 to R126). -/
def LoadForm.value (f : LoadForm) (l : List Byte) : Wide :=
  match f with
  | .scalar n sext =>
    let v := natOfBytes l
    { data := (BitVec.ofInt 64 (if sext then signed (8 * n) v else v)).setWidth 1024 }
  | .vec fmt => { data := if fmt = 11 then unpackT6 l else ofBytes 1024 l, fmt := fmt }
  | .chunks => { data := ofBytes 1024 l }

/-- A load's data arrives (R127, R130): every place that still waits for it takes the value, poisoned if any byte was. -/
def State.landLoad (s : State) (ci : Nat) (ld : PendLoad) : State :=
  let (l, s1) := s.landParts (ci / 4) ld ld.parts
  let m : Mark := if ld.pois || l.any Prod.snd then .poison else .clean
  s1.modCtx ci fun c =>
    ({ c with loads := c.loads.filter fun x => x.tok != ld.tok }).deliver ld.tok (ld.form.value (l.map Prod.fst)) m

/-- The context's earlier loads read first what a load is about to read (R255). -/
def State.settleParts (s : State) (ci : Nat) (ld : PendLoad) : State :=
  if ld.missing.isEmpty then s else ld.parts.foldl (fun x p => x.settleReads ci ld.seq (p.pa, p.n)) s

/-- The loads of the store's own bundle, and the context's earlier reads of its bytes, come before a store (R255, R257).
(DEDUCED, log 69) -/
def State.settleStore (s : State) (ci seq : Nat) (g : Gated) : State :=
  let z := s.settleBundle ci seq
  if g.h.ps = 15 then z else g.chunks.foldl (fun x c => x.settleReads ci (seq + 1) (c.2.1, c.2.2.length)) z

/-- A load that took bytes of an own store at its issue reads the rest of their single-copy-atomic piece as soon as the store has
performed: no later write comes between (R256). (DEDUCED, log 69) -/
def State.settleRest (s : State) (ci : Nat) (g : Gated) : State :=
  if g.h.ps = 15 then s else g.chunks.foldl (fun x c => x.settleLoads ci (s.seq + 1) (c.2.1, c.2.2.length)) s

/-- LOAD_LANDING: the data of a pending load arrives (R96, R127), unless it waits for an atomic of its own context (R255). A
load that does not exist does nothing. (DESIGN CHOICE, log 68) -/
def execLoadLanding (core ctx token : Nat) (s : State) : Host.Outcome State Fault Refusal :=
  let ci := 4 * core + ctx
  match (s.ctx ci).loads.find? fun l => l.tok == token with
  | none => .next s
  | some ld =>
    if (s.ctx ci).heldLoad ld then .next s
    else .next (((s.modCtx ci fun c => c.landDue s.cycle).settleParts ci ld).landLoad ci ld)

end Sys2Proof.Machine
end

