-- ==== Sys2Proof/Machine/Atomic.lean ====
section
/-! DEFINITION. The atomic unit at (R133, R134): the operations at issue, and their performance at release. -/

namespace Sys2Proof.Machine

/-- The new word of an atomic by its number, aadd 1 to amax 7, or none where it writes nothing (R133). -/
def atomicNew (op : Nat) (old t cmp : Word) : Option Word :=
  match op with
  | 1 => some (old + t)
  | 2 => some (old &&& t)
  | 3 => some (old ||| t)
  | 4 => some (old ^^^ t)
  | 5 => some t
  | 6 => if old = cmp then some t else none
  | _ => some (if old.slt t then t else old)

/-- An atomic issues (R133): its checks, 8 a pitch whatever their guards (R250), its results pending until after the
release. -/
def State.atomicOp (s : State) (i : Instr) (op : Nat) (sc : Scope) (f : OpM) : Res State :=
  inSlot 2 do
    s.opens i
    let s0 ← s.limit limAt 8 10
    if !s.guard f.g then pure s0
    else do
      let t ← s.readT f.t
      let l ← s.readLatch 10
      let h ← s.useHandle f.h.toNat fun h => effAddr h l.lo (dispOf f) 8
      let x ← formAddr h l.lo (dispOf f) 8 8 8 true true false false true
      let (tok, s1) := s0.newTok
      let s2 := s1.pendOn (.rl 7 :: (s.wbS f.w).toList) tok 10 true
      pure (s2.addRel tok 10 (.atomic op sc h x.1 x.2 t.word l.hi false))

/-- aadd (R133). -/
def opAadd (sc : Scope) (f : OpM) (s : State) : Res State := s.atomicOp (.aadd sc f) 1 sc f
/-- aadd (R133). -/
def execAadd (sc : Scope) (f : OpM) (s : State) : Host.Outcome State Fault Refusal := settle s (opAadd sc f s)
/-- aand (R133). -/
def opAand (sc : Scope) (f : OpM) (s : State) : Res State := s.atomicOp (.aand sc f) 2 sc f
/-- aand (R133). -/
def execAand (sc : Scope) (f : OpM) (s : State) : Host.Outcome State Fault Refusal := settle s (opAand sc f s)
/-- aor (R133). -/
def opAor (sc : Scope) (f : OpM) (s : State) : Res State := s.atomicOp (.aor sc f) 3 sc f
/-- aor (R133). -/
def execAor (sc : Scope) (f : OpM) (s : State) : Host.Outcome State Fault Refusal := settle s (opAor sc f s)
/-- axor (R133). -/
def opAxor (sc : Scope) (f : OpM) (s : State) : Res State := s.atomicOp (.axor sc f) 4 sc f
/-- axor (R133). -/
def execAxor (sc : Scope) (f : OpM) (s : State) : Host.Outcome State Fault Refusal := settle s (opAxor sc f s)
/-- axchg (R133). -/
def opAxchg (sc : Scope) (f : OpM) (s : State) : Res State := s.atomicOp (.axchg sc f) 5 sc f
/-- axchg (R133). -/
def execAxchg (sc : Scope) (f : OpM) (s : State) : Host.Outcome State Fault Refusal := settle s (opAxchg sc f s)
/-- acas (R133). -/
def opAcas (sc : Scope) (f : OpM) (s : State) : Res State := s.atomicOp (.acas sc f) 6 sc f
/-- acas (R133). -/
def execAcas (sc : Scope) (f : OpM) (s : State) : Host.Outcome State Fault Refusal := settle s (opAcas sc f s)
/-- amax (R133). -/
def opAmax (sc : Scope) (f : OpM) (s : State) : Res State := s.atomicOp (.amax sc f) 7 sc f
/-- amax (R133). -/
def execAmax (sc : Scope) (f : OpM) (s : State) : Host.Outcome State Fault Refusal := settle s (opAmax sc f s)

/-- A word as its place holds it (R134): the old value, whether it is poisoned, and how to write it there. Where it is performed
at the home of another die, the issuing die's RDC gives up its copy too: the context may have read and written that copy, and
may not meet an older word at home nor read the older one afterwards (R255). (DEDUCED, log 69) -/
def State.atomicAt (s : State) (core : Nat) (sc : Scope) (a : Acc) (sh : Bool) (pa : Nat) :
    Word × Bool × State × (State → Word → State) :=
  let val := fun (l : List (Byte × Bool)) => (ofBytes 64 (l.map (·.1)), l.any (·.2))
  if sc = .c ∨ sc = .k then
    let (l, s1) := s.l1Read core a sh pa 8
    ((val l).1, (val l).2, s1, fun x v => x.l1Writes core a sh false pa (bytesOf v 8))
  else
    let s0 := s.dropL1Line core (pa / 1024)
    let s1 := if sc ≠ .d ∧ paDie pa ≠ dieOf core then s0.dropRdcLine (dieOf core) (pa / 1024) else s0
    let home := (val (s1.homeReads a pa 8)).1
    if sc = .d ∧ paDie pa ≠ dieOf core then
      let d := dieOf core
      let (x0, s2) := s1.rdcSector d a (pa / 128)
      let x := s2.judgeSector (pa / 128) x0
      let old : Word := x.data.extractLsb' (8 * (pa % 128)) 64
      let put := fun (z : State) (v : Word) =>
        let m : BitVec 128 := (255 : BitVec 128) <<< (pa % 128)
        let new : Sector :=
          { data := (v.setWidth 1024 : Lanes) <<< (8 * (pa % 128)), mask := m, stamp := (z.tslot (z.owner pa)).gen,
            key := a.key, world := BitVec.ofNat 2 (z.accWorld a), slot := a.slot.getD 0, wgen := a.gen }
        if z.staleAcc a || z.denies a pa then z
        else z.modDie d fun y => { y with rdc := cachePut y.rdc (pa / 128) (mergeSector x new) }
      (old, x.poison, s2, put)
    else
      (home, (s1.homeReads a pa 8).any (·.2), (s1.l2Fill pa a.slot).countRead a pa,
        fun z v => if z.denies a pa then z else z.homeWrites a pa (bytesOf v 8))

/-- An atomic performs (R133, R134, R309): the old value and its mark, and the state after. -/
def State.atomicDo (s : State) (core op : Nat) (sc : Scope) (a : Acc) (sh : Bool) (pa : Nat) (t cmp : Word) :
    Word × Mark × State :=
  let (old, pois, s1, put) := s.atomicAt core sc a sh pa
  if pois then (old, .poison, s1)
  else
    match atomicNew op old t cmp with
    | none => (old, .clean, s1)
    | some v => (old, .clean, put s1 v)

end Sys2Proof.Machine
end

