-- ==== Sys2Proof/Machine/Num.lean ====
section
/-! DEFINITION. Number formats (R174 to R182): decoding an element to an exact value, encoding an exact value (R189),
and exact arithmetic on values (R201, R206). -/

namespace Sys2Proof

/-- An exact value: a NaN or NaR, an infinity, or (−1)^neg × m × 2^e; zero has two signs (R177). -/
inductive FVal
  | nan
  | inf (neg : Bool)
  | fin (neg : Bool) (m : Nat) (e : Int)
  deriving DecidableEq, Repr

/-- Element width of a format code; 64 for untyped and raw (R68, R174). -/
def fmtWidth (fmt : Nat) : Nat :=
  if fmt = 1 ∨ fmt = 2 ∨ fmt = 10 ∨ fmt = 11 then 8
  else if fmt = 3 ∨ fmt = 4 ∨ fmt = 7 ∨ fmt = 8 then 16
  else if fmt = 5 ∨ fmt = 6 ∨ fmt = 9 then 32
  else 64

/-- The signed integer formats (R176). -/
def fmtSigned (fmt : Nat) : Bool := fmt == 1 || fmt == 3 || fmt == 5
/-- The integer formats. -/
def fmtInt (fmt : Nat) : Bool := 1 ≤ fmt && fmt ≤ 6
/-- The IEEE formats. -/
def fmtIeee (fmt : Nat) : Bool := 7 ≤ fmt && fmt ≤ 9
/-- Exponent bits of an IEEE format (R177). -/
def expBits (fmt : Nat) : Nat := if fmt = 8 then 5 else 8
/-- Fraction bits of an IEEE format (R177). -/
def fracBits (fmt : Nat) : Nat := if fmt = 7 then 7 else if fmt = 8 then 10 else 23
/-- Exponent bias of an IEEE format (R177). -/
def expBias (fmt : Nat) : Nat := if fmt = 8 then 15 else 127

/-- A value times a power of two. -/
def FVal.scale (x : FVal) (b : Int) : FVal :=
  match x with
  | .fin n m e => .fin n m (e + b)
  | y => y

/-- The value of an IEEE code without scale bias (R177). -/
def ieeeValue (fmt c : Nat) : FVal :=
  let fb := fracBits fmt
  let eb := expBits fmt
  let f := c % 2 ^ fb
  let e := c / 2 ^ fb % 2 ^ eb
  let neg := (c / 2 ^ (fb + eb)) % 2 == 1
  if e = 2 ^ eb - 1 then (if f = 0 then .inf neg else .nan)
  else if e = 0 then .fin neg f (1 - expBias fmt - fb)
  else .fin neg (2 ^ fb + f) ((e : Int) - expBias fmt - fb)

/-- Bits equal to the lead bit, from bit k down, of a magnitude (R179). -/
def runLength (m : Nat) (lead : Bool) : Nat → Nat
  | 0 => if m.testBit 0 == lead then 1 else 0
  | k + 1 => if m.testBit (k + 1) == lead then 1 + runLength m lead k else 0

/-- The magnitude of a tapered code's magnitude bits at bias 0, m ≠ 0 (R179): a significand and an exponent. -/
def taperedMag (w m : Nat) : Nat × Int :=
  let lead := m.testBit (w - 2)
  let run := runLength m lead (w - 2)
  let k : Int := if lead then (run : Int) - 1 else -(run : Int)
  let left := w - 1 - run - 1
  let e : Int := if 1 ≤ left ∧ m.testBit (left - 1) then 1 else 0
  let nf := if 2 ≤ left then left - 1 else 0
  let f := if 2 ≤ left then m % 2 ^ nf else 0
  (2 ^ nf + f, 2 * k + e - nf)

/-- The value of a t8 (w = 8) or t6 (w = 6) code with its bias (R179, R182). -/
def taperedValue (w c : Nat) (bias : Int) : FVal :=
  let c := c % 2 ^ w
  let neg := c.testBit (w - 1)
  let m := c % 2 ^ (w - 1)
  if m = 0 then (if neg then .nan else .fin false 0 0)
  else
    let (s, e) := taperedMag w m
    .fin neg s (e + bias)

/-- The significant bits of a tapered format: 8 for t8, 6 for t6. -/
def taperedBits (fmt : Nat) : Nat := if fmt = 11 then 6 else 8

/-- The value of an element, scale bias applied (R175, R179). -/
def fmtValue (fmt : Nat) (bias : Int) (c : Nat) : FVal :=
  if fmtInt fmt then
    let v : Int := if fmtSigned fmt then signed (fmtWidth fmt) c else (c % 2 ^ fmtWidth fmt : Nat)
    .fin (v < 0) v.natAbs bias
  else if fmtIeee fmt then (ieeeValue fmt c).scale bias
  else taperedValue (taperedBits fmt) c bias

/-- m × 2^e rounded to an integer magnitude: mode 0 to nearest even, 1 toward zero, 2 toward +∞, 3 toward −∞ (R187). -/
def roundMag (mode : Nat) (neg : Bool) (m : Nat) (e : Int) : Nat :=
  match e with
  | .ofNat k => m * 2 ^ k
  | .negSucc k =>
    let d := 2 ^ (k + 1)
    let q := m / d
    let r := m % d
    let up := match mode with
      | 0 => decide (d < 2 * r) || (decide (2 * r = d) && q % 2 == 1)
      | 1 => false
      | 2 => !neg && decide (r ≠ 0)
      | _ => neg && decide (r ≠ 0)
    if up then q + 1 else q

/-- The least and greatest raw value of an integer format (R176). -/
def intRange (fmt : Nat) : Int × Int :=
  let w := fmtWidth fmt
  if fmtSigned fmt then (-(2 ^ (w - 1) : Nat), (2 ^ (w - 1) : Nat) - 1) else (0, (2 ^ w : Nat) - 1)

/-- Saturate an integer to a format and give its code (R189, R199). -/
def saturate (fmt : Nat) (v : Int) : Nat :=
  let (lo, hi) := intRange fmt
  wrap (fmtWidth fmt) (max lo (min hi v))

/-- Encoding of a value into an integer format (R189). -/
def encodeInt (fmt mode : Nat) (x : FVal) : Nat :=
  match x with
  | .nan => 0
  | .inf neg => saturate fmt (if neg then (intRange fmt).1 else (intRange fmt).2)
  | .fin neg m e =>
    let q : Int := roundMag mode neg m e
    saturate fmt (if neg then -q else q)

/-- The code of an infinity of an IEEE format. -/
def ieeeInf (fmt : Nat) (neg : Bool) : Nat :=
  (2 ^ expBits fmt - 1) * 2 ^ fracBits fmt + (if neg then 2 ^ (expBits fmt + fracBits fmt) else 0)

/-- The canonical NaN of an IEEE format (R178). -/
def ieeeNan (fmt : Nat) : Nat := (2 ^ expBits fmt - 1) * 2 ^ fracBits fmt + 2 ^ (fracBits fmt - 1)

/-- Encoding of a value into an IEEE format, subnormals kept, overflow by the mode (R189). -/
def encodeIeee (fmt mode : Nat) (x : FVal) : Nat :=
  let fb := fracBits fmt
  let sgn := fun (neg : Bool) => if neg then 2 ^ (expBits fmt + fb) else 0
  match x with
  | .nan => ieeeNan fmt
  | .inf neg => ieeeInf fmt neg
  | .fin neg m e =>
    if m = 0 then sgn neg
    else
      let emin : Int := 1 - expBias fmt
      let top := max ((Nat.log2 m : Int) + e) emin
      let r := roundMag mode neg m (e - (top - fb))
      let code := ((top + expBias fmt - 1).toNat) * 2 ^ fb + r
      let lim := (2 ^ expBits fmt - 1) * 2 ^ fb
      if code < lim then code + sgn neg
      else
        let toInf := match mode with | 0 => true | 1 => false | 2 => !neg | _ => neg
        (if toInf then lim else lim - 1) + sgn neg

/-- a.1 × 2^a.2 ≤ b.1 × 2^b.2. -/
def dyLe (a b : Nat × Int) : Bool :=
  let lo := min a.2 b.2
  a.1 * 2 ^ (a.2 - lo).toNat ≤ b.1 * 2 ^ (b.2 - lo).toNat

/-- The sum of two magnitudes. -/
def dyAdd (a b : Nat × Int) : Nat × Int :=
  let lo := min a.2 b.2
  (a.1 * 2 ^ (a.2 - lo).toNat + b.1 * 2 ^ (b.2 - lo).toNat, lo)

/-- A tapered magnitude, zero for code 0. -/
def taperedDy (w m : Nat) : Nat × Int := if m = 0 then (0, 0) else taperedMag w m

/-- The greatest magnitude code whose value is at most x: its bits from bit k down. -/
def taperedFloor (w : Nat) (x : Nat × Int) : Nat → Nat → Nat
  | 0, c => c
  | k + 1, c =>
    let c1 := c + 2 ^ k
    taperedFloor w x k (if dyLe (taperedDy w c1) x then c1 else c)

/-- Encoding of a value into a tapered format at bias 0: nearest, ties to even m, saturating (R189). -/
def encodeTapered (w : Nat) (x : FVal) : Nat :=
  match x with
  | .fin neg m e =>
    let x := (m, e)
    let c := taperedFloor w x (w - 1) 0
    let top := 2 ^ (w - 1) - 1
    let r :=
      if c = top then c
      else
        let twice := (2 * m, e)
        let mid := dyAdd (taperedDy w c) (taperedDy w (c + 1))
        if dyLe twice mid then (if dyLe mid twice then (if c % 2 = 0 then c else c + 1) else c) else c + 1
    if r = 0 then 0 else if neg then r + 2 ^ (w - 1) else r
  | _ => 2 ^ (w - 1)

/-- Encode (R189): a value into a format with a scale bias, under a rounding mode. -/
def fmtEncode (fmt : Nat) (bias : Int) (mode : Nat) (x : FVal) : Nat :=
  let y := x.scale (-bias)
  if fmtInt fmt then encodeInt fmt mode y
  else if fmtIeee fmt then encodeIeee fmt mode y
  else encodeTapered (taperedBits fmt) y

/-- The exact sum under IEEE's rules for special values and zeros (R201). -/
def FVal.add (mode : Nat) (x y : FVal) : FVal :=
  match x, y with
  | .nan, _ => .nan
  | _, .nan => .nan
  | .inf a, .inf b => if a = b then .inf a else .nan
  | .inf a, _ => .inf a
  | _, .inf b => .inf b
  | .fin a m e, .fin b k g =>
    let lo := min e g
    let u : Int := (m * 2 ^ (e - lo).toNat : Nat)
    let v : Int := (k * 2 ^ (g - lo).toNat : Nat)
    let t := (if a then -u else u) + (if b then -v else v)
    if t = 0 then .fin (if m = 0 ∧ k = 0 ∧ a = b then a else mode == 3) 0 0
    else .fin (t < 0) t.natAbs lo

/-- A value negated. -/
def FVal.neg (x : FVal) : FVal :=
  match x with
  | .nan => .nan
  | .inf a => .inf (!a)
  | .fin a m e => .fin (!a) m e

/-- The exact product (R201). -/
def FVal.mul (x y : FVal) : FVal :=
  match x, y with
  | .nan, _ => .nan
  | _, .nan => .nan
  | .inf a, .inf b => .inf (a != b)
  | .inf a, .fin b m _ => if m = 0 then .nan else .inf (a != b)
  | .fin a m _, .inf b => if m = 0 then .nan else .inf (a != b)
  | .fin a m e, .fin b k g => .fin (a != b) (m * k) (e + g)

/-- Whether a value is NaN or NaR. -/
def FVal.isNan (x : FVal) : Bool := match x with | .nan => true | _ => false

/-- A finite value or infinity as a signed dyadic for comparison: a large sign for infinities. -/
def FVal.cmpKey (x : FVal) : Int × Nat × Int :=
  match x with
  | .nan => (0, 0, 0)
  | .inf a => (if a then -2 else 2, 0, 0)
  | .fin a m e => (if m = 0 then 0 else if a then -1 else 1, m, e)

/-- x < y by value, −0 equal to +0; false for NaN (R203). -/
def FVal.lt (x y : FVal) : Bool :=
  if x.isNan || y.isNan then false
  else
    let (a, m, e) := x.cmpKey
    let (b, k, g) := y.cmpKey
    if a ≠ b then a < b
    else if a = 1 then !dyLe (k, g) (m, e)
    else if a = -1 then !dyLe (m, e) (k, g)
    else false

/-- x = y by value (R203). -/
def FVal.eq (x y : FVal) : Bool := !x.isNan && !y.isNan && !x.lt y && !y.lt x

/-- The sign of a value. -/
def FVal.isNeg (x : FVal) : Bool := match x with | .nan => false | .inf a => a | .fin a _ _ => a

/-- x < y with −0 below +0 (R201, R205). -/
def FVal.ltZ (x y : FVal) : Bool := x.lt y || (x.eq y && x.isNeg && !y.isNeg)

/-- Round to f32, ties to even, whatever the mode (R223). -/
def roundF32 (x : FVal) : FVal := ieeeValue 9 (encodeIeee 9 0 x)

/-- The integer square root, bit by bit. -/
def isqrtGo (n : Nat) : Nat → Nat → Nat
  | 0, y => y
  | k + 1, y => let z := y + 2 ^ k; isqrtGo n k (if z * z ≤ n then z else y)

/-- 1 ulp of a format at a magnitude's leading exponent: its exponent (R202). -/
def ulpExp (fmt : Nat) (lead : Int) : Int := max lead (1 - expBias fmt) - fracBits fmt

/-- The correctly rounded reciprocal of m × 2^e, m > 0 (R202): a value with its lowest bit sticky. -/
def recipVal (neg : Bool) (m : Nat) (e : Int) : FVal :=
  let q := 2 ^ 400 / m
  .fin neg (2 * q + (if q * m = 2 ^ 400 then 0 else 1)) (-e - 401)

/-- 1/√(m × 2^e) with its lowest bit sticky (R202). -/
def rsqrtVal (m : Nat) (e : Int) : FVal :=
  let (m, e) := if e % 2 = 0 then (m, e) else (2 * m, e - 1)
  let n := 2 ^ 400 / m
  let y := isqrtGo n 202 0
  .fin false (2 * y + (if y * y * m = 2 ^ 400 then 0 else 1)) (-e / 2 - 201)

/-- The bits after the point of the fixed-point values below, which stand for exact values in a bound (R202). -/
def fixBits : Nat := 200

/-- ln 2 in fixed point: the sum of 1/(k 2^k). -/
def ln2Fix : Nat := (List.range fixBits).foldl (fun s k => s + 2 ^ fixBits / ((k + 1) * 2 ^ (k + 1))) 0

/-- e^y in fixed point, 0 ≤ y < 1, by its series: k terms, the last number, the last term, the sum. -/
def expFixGo (y : Nat) : Nat → Nat → Nat → Nat → Nat
  | 0, _, _, s => s
  | k + 1, n, t, s => let u := t * y / 2 ^ fixBits / n; expFixGo y k (n + 1) u (s + u)

/-- 2^f in fixed point, 0 ≤ f < 1. -/
def exp2Fix (f : Nat) : Nat := expFixGo (f * ln2Fix / 2 ^ fixBits) 60 1 (2 ^ fixBits) (2 ^ fixBits)

/-- The signed fixed-point value of ±m × 2^e, rounded down. -/
def toFix (neg : Bool) (m : Nat) (e : Int) : Int :=
  let v : Int := if neg then -(m : Int) else m
  let k := e + fixBits
  if 0 ≤ k then v * 2 ^ k.toNat else v / 2 ^ (-k).toNat

/-- 2^x for x = ±m × 2^e, |x| ≤ 1000 (R202). (DESIGN CHOICE, log 17) -/
def exp2Val (neg : Bool) (m : Nat) (e : Int) : FVal :=
  let x := toFix neg m e
  .fin false (exp2Fix (x % 2 ^ fixBits).toNat) (x / 2 ^ fixBits - fixBits)

/-- The series of artanh z in fixed point: z^(2k+1)/(2k+1). -/
def artanhFixGo (q : Nat) : Nat → Nat → Nat → Nat → Nat
  | 0, _, _, s => s
  | k + 1, n, t, s => artanhFixGo q k (n + 2) (t * q / 2 ^ fixBits) (s + t / n)

/-- log2 of m × 2^e, m > 0 (R202). (DESIGN CHOICE, log 17) -/
def log2Val (m : Nat) (e : Int) : FVal :=
  let one := 2 ^ fixBits
  let u := m * one / 2 ^ Nat.log2 m
  let z := (u - one) * one / (u + one)
  let s := artanhFixGo (z * z / one) 70 1 z 0
  let v : Int := ((Nat.log2 m : Int) + e) * (one : Nat) + ((2 * s * one / ln2Fix : Nat) : Int)
  .fin (v < 0) v.natAbs (-fixBits)

/-- tanh of ±m × 2^e, m > 0 (R202): x itself, a little less, where it is small; a little less than 1 where it is large. (DESIGN
CHOICE, log 17) -/
def tanhVal (neg : Bool) (m : Nat) (e : Int) : FVal :=
  let one := 2 ^ fixBits
  let lead := (Nat.log2 m : Int) + e
  if lead < -60 then .fin neg (m * one - 1) (e - fixBits)
  else if 6 < lead then .fin neg (one - 1) (-fixBits)
  else
    let y := (toFix false m (e + 1)).toNat * one / ln2Fix
    let x := exp2Fix (y % one) * 2 ^ (y / one)
    .fin neg ((x - one) * one / (x + one)) (-fixBits)

/-- |r − exact| ≤ n ulp (R202). -/
def withinUlp (fmt n : Nat) (r exact : FVal) : Bool :=
  match r, exact with
  | .fin _ _ _, .fin _ m e =>
    match FVal.add 0 r exact.neg with
    | .fin _ d k => dyLe (d, k) (n, ulpExp fmt ((Nat.log2 m : Int) + e))
    | _ => false
  | _, _ => false

/-- A value that overflows the format or lies below its normal values, which R189 rounds (R202). -/
def extreme (fmt : Nat) (x : FVal) : Bool :=
  match x with
  | .fin _ m e =>
    decide ((Nat.log2 m : Int) + e < 1 - expBias fmt) ||
      encodeIeee fmt 1 (.fin false m e) == (2 ^ expBits fmt - 1) * 2 ^ fracBits fmt - 1
  | _ => true

/-- A free result kept where it lies within n ulp, the rounded exact value otherwise, and where the result overflows or
underflows (R189, R202). (DESIGN CHOICE, log 17) -/
def boundedFree (fmt n mode free : Nat) (exact : FVal) : Nat :=
  let c := free % 2 ^ fmtWidth fmt
  if extreme fmt exact then encodeIeee fmt mode exact
  else if withinUlp fmt n (ieeeValue fmt c) exact then c else encodeIeee fmt mode exact

/-- m is a power of two. -/
def isPow2 (m : Nat) : Bool := m != 0 && m == 2 ^ Nat.log2 m

/-- vrcp, vrsq, vexp2, vlog2, vtanh (op 0 to 4) of an element in a format (R202): the exact cases of the table, overflow and
underflow by R189; elsewhere the fixed function that Config leaves open, held to the bound in ulps. (DESIGN CHOICE, log 17) -/
def transcend (op fmt mode code : Nat) (bias : Int) : Nat :=
  let x := fmtValue fmt bias code
  let free := Config.transcendental op fmt mode code bias % 2 ^ fmtWidth fmt
  let enc := encodeIeee fmt mode
  let one : FVal := .fin false 1 0
  let two := if fmt = 9 then 2 else 1
  match op, x with
  | _, .nan => ieeeNan fmt
  | 0, .inf a => enc (.fin a 0 0)
  | 0, .fin a m e => if m = 0 then enc (.inf a) else boundedFree fmt 1 mode free (recipVal a m e)
  | 1, .inf a => if a then ieeeNan fmt else enc (.fin false 0 0)
  | 1, .fin a m e =>
    if m = 0 then enc (.inf a) else if a then ieeeNan fmt else boundedFree fmt 1 mode free (rsqrtVal m e)
  | 2, .inf a => enc (if a then .fin false 0 0 else .inf false)
  | 2, .fin a m e =>
    let q := roundMag 1 a m e
    let integral := m = 0 || 0 ≤ e || decide (q * 2 ^ (-e).toNat = m)
    if 1000 ≤ q then enc (.fin false 1 (if a then -1000 else 1000))
    else if integral then enc (.fin false 1 (if a then -(q : Int) else q))
    else boundedFree fmt two mode free (exp2Val a m e)
  | 3, .inf a => if a then ieeeNan fmt else enc (.inf false)
  | 3, .fin a m e =>
    if m = 0 then enc (.inf true)
    else if a then ieeeNan fmt
    else if isPow2 m then
      let k := (Nat.log2 m : Int) + e
      enc (.fin (k < 0) k.natAbs 0)
    else boundedFree fmt two mode free (log2Val m e)
  | _, .inf a => enc (if a then one.neg else one)
  | _, .fin a m e => if m = 0 then enc (.fin a 0 0) else boundedFree fmt two mode free (tanhVal a m e)

end Sys2Proof
end

