-- ==== Sys2Proof/Machine/Matrix.lean ====
section
/-! DEFINITION. The matrix unit mx: B slots and tiles (R214, R215), the descriptor (R216), macro queues (R218), waits
(R219), arithmetic (R221 to R223) and the eight operations (R225 to R233). -/

namespace Sys2Proof.Machine

/-- Descriptor fields (R216). -/
def mxSeg (d : Lanes) : BitVec 2 := d.extractLsb' 135 2
/-- ROW (R216). -/
def mxRow (d : Lanes) : BitVec 7 := d.extractLsb' 128 7
/-- CSEM, where CSV = 1 (R216). -/
def mxCsem (d : Lanes) : Option (BitVec 8) := if d.getLsbD 119 then some (d.extractLsb' 120 8) else none
/-- RELU (R216). -/
def mxRelu (d : Lanes) : Bool := d.getLsbD 118
/-- HND (R216). -/
def mxHnd (d : Lanes) : Nat := field d 114 4
/-- BIAS (R216). -/
def mxBias (d : Lanes) : BitVec 6 := d.extractLsb' 108 6
/-- FMT (R216). -/
def mxFmt (d : Lanes) : BitVec 4 := d.extractLsb' 104 4
/-- EPI (R216). -/
def mxEpi (d : Lanes) : Nat := field d 84 20
/-- STRIDE (R216). -/
def mxStride (d : Lanes) : Nat := field d 64 20
/-- OFF (R216). -/
def mxOff (d : Lanes) : Word := d.extractLsb' 0 64

/-- A tag's field form (R184). -/
def tagOf (fmt : Nat) (bias : Int) : BitVec 10 := BitVec.ofNat 10 (wrap 6 bias * 16 + fmt)
/-- A tag's format code. -/
def tagFmt (t : BitVec 10) : Nat := field t 0 4
/-- A tag's bias. -/
def tagBias (t : BitVec 10) : Int := signed 6 (field t 4 6)

/-- An accumulator tile as it reads: a stale one is zero and untyped (R215, R308). -/
def State.tile (s : State) (core acc : Nat) : Tile :=
  let t := Tab.get {} (s.core core).tiles acc
  if t.stamp = s.coreGen core then t else { stamp := s.coreGen core }
/-- Replace a tile. -/
def State.setTile (s : State) (core acc : Nat) (t : Tile) : State :=
  s.modCore core fun k => { k with tiles := Tab.set k.tiles acc t }
/-- A B slot as it reads: a stale one is empty, with a zero record (R214). -/
def State.bslot (s : State) (core b : Nat) : BSlot :=
  let x := Tab.get {} (s.core core).bslots b
  if x.gen = s.coreGen core then x else {}
/-- Replace a B slot. -/
def State.setBslot (s : State) (core b : Nat) (x : BSlot) : State :=
  s.modCore core fun k => { k with bslots := Tab.set k.bslots b x }
/-- The GANG bit of slot b - 64 is cleared (R226, R233). -/
def State.ungang (s : State) (core b : Nat) : State :=
  if 64 ≤ b then s.setBslot core (b - 64) { s.bslot core (b - 64) with gang := false } else s

/-- A tile's row (R215). -/
def Tile.row (t : Tile) (r : Nat) : BitVec 4096 := Tab.get 0 t.rows r
/-- Element c of a row. -/
def tileElem (x : BitVec 4096) (c : Nat) : Nat := field x (32 * c) 32

/-- Rows a push adds. -/
def MOp.total (m : MOp) : Nat := if m.vec.isSome then 1 else 128
/-- A push in flight: issued and its last row not added (R218). -/
def MOp.flying (m : MOp) : Bool := !m.load && decide (m.rows < m.total)
/-- The push has added row r, or will never add it (R218, R219, R228). -/
def MOp.added (m : MOp) (r : Nat) : Bool :=
  match m.vec with
  | some (q, _) => q.toNat != r || decide (1 ≤ m.rows)
  | none => decide (r < m.rows)
/-- The macros whose queues an entry joins (R218): both of a ganged load or push. (DEDUCED, log 48) -/
def MOp.macros (m : MOp) : List Nat :=
  if m.gang then [m.b.toNat / 8, (m.b.toNat + 64) / 8 % 16] else [m.b.toNat / 8]
/-- The slots an entry loads or reads. -/
def MOp.slots (m : MOp) : List Nat := if m.gang then [m.b.toNat, (m.b.toNat + 64) % 128] else [m.b.toNat]

/-- The wait of a tile read or clear (R219): for row r of earlier pushes, or for no push in flight. -/
def State.tileWait (s : State) (core ci acc : Nat) (r : Option Nat) : Res Unit :=
  let late := (s.core core).mops.filter fun m => m.flying && m.acc.toNat == acc &&
    (match r with | none => true | some q => !m.added q)
  if late.any fun m => m.ownPitch ci (s.ctx ci).pitch then raise 11 0 28
  else if late.isEmpty then .ok () else blockAt .busyTile

/-- What keeps a push or load from issuing (R218): work of the context's own unreleased pitch alone traps. -/
def fullStop (ci pitch : Nat) (l : List MOp) : Res Unit :=
  if l.all fun m => m.ownPitch ci pitch then raise 10 0 28 else blockAt .busyTile

/-- Room in the macro queues it joins and under its tile's limit (R218, R221). -/
def State.macroRoom (s : State) (core ci : Nat) (m : MOp) (lim : Nat) : Res Unit := do
  let l := (s.core core).mops
  let fly := l.filter fun x => x.flying && x.acc == m.acc
  if !m.load && lim ≤ fly.length then fullStop ci (s.ctx ci).pitch fly
  m.macros.forM fun q =>
    let inq := l.filter fun x => x.macros.contains q
    if 8 ≤ inq.length then fullStop ci (s.ctx ci).pitch inq else .ok ()

/-- What R221 gives a pair of formats: row time, in-flight limit, whether the tile is i32, W_A. -/
def pairOf (fa fb : Nat) (gang : Bool) : Option (Nat × Nat × Bool × Nat) :=
  let float := fb = 10 || fb = 11
  if fa = 1 ∧ fb = 1 then some (8, 8, true, 0)
  else if fa = 10 ∧ float then some (8, 8, false, 8)
  else if fa = 11 ∧ float then some (5, 5, false, 5)
  else if fa = 7 ∧ float ∧ gang then some (16, 16, false, 12)
  else none

/-- The format-tag checks of a push (R221): empty slot, pair, bias sum, tile tag. A trap of mpushv tells T's tag (R391).
(DEDUCED, log 46) -/
def State.pushTags (s : State) (core : Nat) (fa : Nat) (ba : Int) (b acc : Nat) (accumulate isVec : Bool) :
    Res (Nat × Nat × BitVec 10) :=
  let x := s.bslot core b
  let fb := tagFmt x.tag
  let trap := fun (sub : Nat) =>
    if isVec then .error (.trap { cause := 9, sub := sub, opnd := 0, info := (tagOf fa ba).setWidth 64 }) else raise 9 sub
  if fb = 0 then trap 1
  else
    match pairOf fa fb (x.gang && decide (b < 64)) with
    | none => trap 2
    | some (r, lim, i32, _) =>
      if isVec ∧ fa = 7 then trap 2
      else
        let bias := ba + tagBias x.tag
        if i32 ∧ (bias < -32 ∨ 31 < bias) then trap 3
        else
          let tag := if i32 then tagOf 5 bias else tagOf 9 0
          let tt := (s.tile core acc).tag
          if accumulate ∧ tagFmt tt ≠ 0 ∧ tagFmt tt ≠ tagFmt tag then trap 2
          else if accumulate ∧ tagFmt tt ≠ 0 ∧ tt ≠ tag then trap 3
          else pure (r, lim, tag)

/-- A tile emptied at issue, with the tag given (R227, R229). -/
def State.clearTile (s : State) (core acc : Nat) (tag : BitVec 10) : State :=
  s.setTile core acc { tag := tag, stamp := s.coreGen core }

/-- The addresses of the rows of an mload, checked in order (R226). -/
def mloadRows (h : Handle) (t : Word) (stride n : Nat) : Nat → Nat → Res (List (Nat × Nat))
  | 0, _ => .ok []
  | k + 1, i => do
    let x ← formAddr h (t + BitVec.ofNat 64 (i * stride)) 0 0 n 32 true false false false false
    let r ← mloadRows h t stride n k (i + 1)
    pure (x :: r)

/-- The entry of an mload (R226). -/
def State.mloadPlan (s : State) (core ci : Nat) (d : Lanes) (t : Word) (b : BitVec 7) (mode : Nat) (h : Handle)
    (id : Nat) : Res MOp := do
  let fm := (mxFmt d).toNat
  if !(fm == 1 || fm == 10 || fm == 11) then raise 9 1
  let stride := rowStride (mxStride d) fm
  let _ ← mloadRows h t stride (packedWidth fm) 128 0
  let m : MOp :=
    { id := id, ctx := ci, pitch := (s.ctx ci).pitch, seq := s.seq, load := true, b := b, gang := mode == 1,
      acc := 0, rtime := 0, fmt := mxFmt d, bias := mxBias d, tag := tagOf fm (mxBias d).toInt, off := t,
      stride := stride, h := h, vec := none, csem := none, slot := s.coreSlot core, gen := s.coreGen core,
      released := false, relAt := 0, start := none, rows := 0, consumed := true, data := none, lim := 0 }
  s.macroRoom core ci m 0
  pure m

/-- The entry of an mpush (R220, R221, R227). -/
def State.mpushPlan (s : State) (core ci : Nat) (d : Lanes) (t : Word) (b : BitVec 7) (acc : BitVec 4) (mode : Nat)
    (id : Nat) : Res MOp := do
  let fm := (mxFmt d).toNat
  let (r, lim, tag) ← s.pushTags core fm (mxBias d).toInt b.toNat acc.toNat (mode == 0) false
  let stride := rowStride (mxStride d) fm
  if 2 ^ 20 < t.toNat + 127 * stride + packedWidth fm then raiseAt 8 1 t.toNat
  if t.toNat % 32 ≠ 0 ∨ stride % 32 ≠ 0 then raiseAt 8 2 t.toNat
  if mode = 1 then s.tileWait core ci acc.toNat none
  let m : MOp :=
    { id := id, ctx := ci, pitch := (s.ctx ci).pitch, seq := s.seq, load := false, b := b, gang := fm == 7,
      acc := acc, rtime := r, fmt := mxFmt d, bias := mxBias d, tag := tag, off := t, stride := stride, h := {},
      vec := none, csem := mxCsem d, slot := s.coreSlot core, gen := s.coreGen core, released := false, relAt := 0,
      start := none, rows := 0, consumed := false, data := none, lim := lim }
  s.macroRoom core ci m lim
  pure m

/-- The entry of an mpushv (R228). -/
def State.mpushvPlan (s : State) (core ci : Nat) (d : Lanes) (v : Wide) (b : BitVec 7) (acc : BitVec 4) (mode : Nat)
    (id : Nat) : Res MOp := do
  if v.fmt = 0 ∨ v.fmt = 12 then raiseTag 1 0 (some v) none none
  let (r, lim, tag) ← s.pushTags core v.fmt.toNat v.bias.toInt b.toNat acc.toNat (mode == 0) true
  if mode = 1 then s.tileWait core ci acc.toNat none
  let m : MOp :=
    { id := id, ctx := ci, pitch := (s.ctx ci).pitch, seq := s.seq, load := false, b := b, gang := false,
      acc := acc, rtime := r, fmt := v.fmt, bias := v.bias, tag := tag, off := 0, stride := 0, h := {},
      vec := some (mxRow d, v.data), csem := none, slot := s.coreSlot core, gen := s.coreGen core, released := false,
      relAt := 0, start := none, rows := 0, consumed := true, data := none, lim := lim }
  s.macroRoom core ci m lim
  pure m

/-- An mload is handed over (R217, R226): the slot's record, and the rows where they stand in the scratchpad, or where a rel of its
pitch was issued after it (R257). -/
def State.mloadRelease (s : State) (core : Nat) (m : MOp) : State × MOp :=
  let spad := m.h.ps == 15
  let (data, s1) := if spad || decide (m.seq < (s.ctx m.ctx).relSeq) then
      let (l, z) := s.readMload core m
      (some l, z)
    else (none, s)
  let ea := (m.h.va.setWidth 64 + m.off).toNat
  let src : BitVec 72 :=
    if spad then BitVec.ofNat 72 (ea % 2 ^ 20)
    else BitVec.ofNat 72 (ea % 2 ^ 56 + m.h.key.toNat * 2 ^ 56 + m.h.slot.toNat * 2 ^ 64)
  let s2 :=
    if m.gen ≠ s1.gen m.slot then s1
    else
      (m.slots.foldl (fun x b =>
        x.setBslot core b { x.bslot core b with
          gen := s1.coreGen core, spad := spad, tag := m.tag, loading := true, stride := BitVec.ofNat 20 m.stride, srcva := src,
          full := true, gang := m.gang && b == m.b.toNat }) s1).ungang core m.b.toNat
  (s2, { m with released := true, relAt := s.cycle, data := data })

/-- An entry of the release list joins its macro queues (R217, R218); an mload reads through the handle it has at its release. -/
def State.mxRelease (s : State) (core id : Nat) (h : Option Handle) : State :=
  match (s.core core).mops.find? fun m => m.id == id with
  | none => s
  | some m =>
    let (s1, m1) := if m.load then s.mloadRelease core { m with h := h.getD m.h }
      else (s, { m with released := true, relAt := s.cycle })
    s1.modCore core fun k => { k with mops := k.mops.filter (fun x => x.id != id) ++ [m1] }

/-- Align (R222): magnitudes of a block cut to W bits below the leading one; the exponent of a unit, and whether a
special element stands in it. -/
def alignBlock (w : Nat) (l : List FVal) : List Int × Int × Bool :=
  let lead := fun (x : FVal) => match x with
    | .fin _ m e => if m = 0 then none else some ((Nat.log2 m : Int) + e)
    | _ => none
  let e := l.foldl (fun (b : Option Int) x => match lead x, b with
    | none, b => b
    | some v, none => some v
    | some v, some b => some (max v b)) none
  let special := l.any fun x => match x with | .fin _ _ _ => false | _ => true
  match e with
  | none => (l.map fun _ => 0, 0, special)
  | some e =>
    let q := e + 1 - w
    (l.map fun x => match x with
      | .fin n m k =>
        let v : Int := roundMag 1 n m (k - q)
        if n then -v else v
      | _ => 0, q, special)

/-- The exact sum of products of two aligned blocks. -/
def dotInt : List Int → List Int → Int
  | a :: r, b :: t => a * b + dotInt r t
  | _, _ => 0

/-- The n-th order of a list's elements (R223). -/
def permute (n : Nat) : Nat → List Nat → List Nat
  | 0, _ => []
  | _, [] => []
  | k + 1, l =>
    let i := n % l.length
    l.getD i 0 :: permute (n / l.length) k (l.eraseIdx i)

/-- Block j of a list of 128. -/
def block32 {α : Type} (j : Nat) (l : List α) : List α := (l.drop (32 * j)).take 32

/-- W_B of a format (R221). -/
def widthB (fb : Nat) : Nat := if fb = 11 then 5 else 8
/-- W_A of a format (R221). -/
def widthA (fa : Nat) : Nat := if fa = 10 then 8 else if fa = 11 then 5 else 12

/-- One tile row after a push row (R222, R223): the row's codes in format fa with bias ba, the B slot, and the order of
the block sums of each column. (DESIGN CHOICE, log 19) -/
def pushRow (i32 : Bool) (fa : Nat) (ba : Int) (row : List Nat) (b : BSlot) (order : Nat → Nat) (old : BitVec 4096) :
    BitVec 4096 :=
  let bcol := fun (c : Nat) => (List.range 128).map fun k => elem 8 (Tab.get 0 b.rows k) c
  let fb := tagFmt b.dtag
  let bb := tagBias b.dtag
  let ablocks := (List.range 4).map fun j => alignBlock (widthA fa) ((block32 j row).map (fmtValue fa ba))
  BitVec.ofNat 4096 (ofElems 32 ((List.range 128).map fun c =>
    let o := tileElem old c
    if i32 then
      wrap 32 ((o : Int) + dotInt (row.map (signed 8)) ((bcol c).map (signed 8)))
    else
      let p := fun (j : Nat) =>
        let (am, aq, asp) := ablocks.getD j ([], 0, false)
        let (bm, bq, bsp) := alignBlock (widthB fb) ((block32 j (bcol c)).map (fmtValue fb bb))
        if asp || bsp then FVal.nan
        else
          let v := dotInt am bm
          FVal.fin (v < 0) v.natAbs (aq + bq)
      (permute (order c) 4 [0, 1, 2, 3]).foldl (fun acc j =>
        encodeIeee 9 0 (FVal.add 0 (ieeeValue 9 acc) (roundF32 (p j)))) o))

/-- The codes of A row r of a push, and whether it carries poison (R225, R227, R228). (DEDUCED, log 48) -/
def State.pushCodes (s : State) (core : Nat) (m : MOp) : List Nat × Bool :=
  match m.vec with
  | some (_, v) => ((List.range 128).map (fun i => elem 8 v i), false)
  | none =>
    let n := packedWidth m.fmt.toNat
    let l := (List.range n).map fun i => s.spadByte core (m.off.toNat + m.rows * m.stride + i)
    let bytes := l.map Prod.fst
    let codes :=
      if m.fmt = 7 then (List.range 128).map fun i => natOfBytes ((bytes.drop (2 * i)).take 2)
      else if m.fmt = 11 then (List.range 128).map fun i => elem 8 (unpackT6 bytes) i
      else bytes.map BitVec.toNat
    (codes, l.any Prod.snd)

/-- The next row of a push is added into its tile (R215, R223, R309). Poison of A reaches the whole row, poison of B the elements of
its column (R225). (DESIGN CHOICE, log 12; DEDUCED, log 48) -/
def State.rowAdd (s : State) (core : Nat) (m : MOp) : State :=
  let s1 := s.modCore core fun k =>
    { k with mops := k.mops.map fun x => if x.id == m.id then { x with rows := x.rows + 1 } else x }
  if m.gen ≠ s.gen m.slot then s1
  else
    let t := s.tile core m.acc.toNat
    let b := s.bslot core m.b.toNat
    let r := match m.vec with | some (q, _) => q.toNat | none => m.rows
    let (codes, pois) := s.pushCodes core m
    let bad := if pois then BitVec.allOnes 128 else b.poison.foldl (fun a e => a ||| e.2) 0
    let row := pushRow (tagFmt m.tag == 5) m.fmt.toNat m.bias.toInt codes b (Config.sumOrder m.id r) (t.row r)
    let t1 := { t with
      rows := Tab.put 0 t.rows r row
      tag := if tagFmt t.tag = 0 then m.tag else t.tag
      poison := Tab.put 0 t.poison r (Tab.get 0 t.poison r ||| bad) }
    s1.setTile core m.acc.toNat t1

/-- A macc acts (R232): 32 elements of its row, in the format fixed at issue; an untyped tile takes the tag. MODE 1 writes T's
values into a tile that was f32 at issue, and T's words into any other. -/
def Tile.macc (t : Tile) (row : Nat) (seg : Nat) (ovl raw f32 : Bool) (v : Wide) : Tile :=
  let old := t.row row
  let l := (List.range 128).map fun c =>
    let o := tileElem old c
    if c / 32 ≠ seg then o
    else
      let x := elem 32 v.data (c % 32)
      if ovl && raw then x
      else if f32 then
        let y := fmtValue 9 (if v.fmt = 0 then 0 else v.bias.toInt) x
        if ovl then encodeIeee 9 0 y else encodeIeee 9 0 (FVal.add 0 (ieeeValue 9 o) y)
      else if ovl then x else (o + x) % 2 ^ 32
  let p := Tab.get 0 t.poison row
  let clr : BitVec 128 := ~~~((BitVec.ofNat 128 (maskBits (32 * seg) 32)))
  { t with
    rows := Tab.put 0 t.rows row (BitVec.ofNat 4096 (ofElems 32 l))
    tag := if tagFmt t.tag ≠ 0 then t.tag
      else if v.fmt = 9 then tagOf 9 0 else if v.fmt = 5 then tagOf 5 v.bias.toInt else t.tag
    poison := if ovl then Tab.put 0 t.poison row (p &&& clr) else t.poison }

/-- A macc or mrel that an mrel issued after it waits for (R233). -/
def RelBody.onTarget (b : BitVec 7) (acc : BitVec 4) (tile : Bool) : RelBody → Bool
  | .macc a _ _ _ _ _ _ => tile && a == acc
  | .mrel c a t => t == tile && (if tile then a == acc else c == b)
  | _ => false

/-- The same of one that has been handed over. -/
def MActBody.onTarget (b : BitVec 7) (acc : BitVec 4) (tile : Bool) : MActBody → Bool
  | .macc a _ _ _ _ _ _ => tile && a == acc
  | .mrel c a t => t == tile && (if tile then a == acc else c == b)

/-- Operations on an mrel's slot or tile that were issued before it and have not been handed over, or wait (R233). -/
def State.mactBefore (s : State) (core : Nat) (x : MAct) (b : BitVec 7) (acc : BitVec 4) (tile : Bool) : Bool :=
  (s.core core).macts.any (fun y => decide (y.seq < x.seq) && y.body.onTarget b acc tile) ||
    (List.range 4).any fun i =>
      let c := s.ctx (4 * core + i)
      ((c.path.map PitchRel.step2).flatten ++ c.rel).any fun y => decide (y.seq < x.seq) && y.body.onTarget b acc tile

/-- Whether a waiting macc or mrel may act (R232, R233): a macc after the rows of earlier pushes, and after an earlier mrel of its
tile that waits; an mrel after every earlier operation on its slot or tile. (DEDUCED, log 48) -/
def State.mactReady (s : State) (core : Nat) (x : MAct) : Bool :=
  let l := (s.core core).mops.filter fun m => decide (m.seq < x.seq)
  match x.body with
  | .macc acc row _ _ _ _ _ =>
    l.all (fun m => !(m.flying && m.acc == acc) || m.added row.toNat) &&
      (s.core core).macts.all fun y => match y.body with
        | .mrel _ a true => !(a == acc && decide (y.seq < x.seq))
        | _ => true
  | .mrel b acc tile =>
    (if tile then l.all fun m => !(m.flying && m.acc == acc) else l.all fun m => !m.slots.contains b.toNat) &&
      !s.mactBefore core x b acc tile

/-- A macc or mrel acts (R232, R233); one of a stale generation is dropped (R215). An mrel of slot b clears GANG of b - 64 but
where an mload issued after it has set it. -/
def State.mactDo (s : State) (core : Nat) (x : MAct) : State :=
  if x.gen ≠ s.gen x.slot then s
  else
    match x.body with
    | .macc acc row seg ovl raw f32 v =>
      s.setTile core acc.toNat ((s.tile core acc.toNat).macc row.toNat seg.toNat ovl raw f32 v)
    | .mrel b acc tile =>
      if tile then s.clearTile core acc.toNat 0
      else
        let later := (s.core core).mops.any fun m =>
          m.load && m.released && decide (x.seq < m.seq) && m.slots.contains b.toNat
        let old := s.bslot core b.toNat
        let s1 := s.setBslot core b.toNat (if later then { old with rows := [], dtag := 0, poison := [] } else {})
        if (s.core core).mops.any fun m =>
            m.load && m.released && m.gang && decide (x.seq < m.seq) && m.b.toNat + 64 == b.toNat then s1
        else s1.ungang core b.toNat

/-- Every waiting macc and mrel that may act does, in order. -/
def State.settleMx (s : State) (core : Nat) : State :=
  (s.core core).macts.foldl (fun z x =>
    if z.mactReady core x then
      (z.mactDo core x).modCore core fun k => { k with macts := k.macts.filter (· != x) }
    else z) s

/-- An entry of the context's own pitch enters the macro's reservations and the release list (R217, R218). -/
def State.mxEnter (s : State) (m : MOp) (b : RelBody) : State :=
  (s.modMyCore fun k => { k with mops := k.mops ++ [m] }).addRel 0 28 b

/-- The frame of an mx operation: encoding checks, guard, descriptor (R216, R225). -/
def State.mxOp (s : State) (i : Instr) (f : OpT) (act : Lanes → Res State) : Res State :=
  inSlot 5 do
    s.opens i
    if !s.guard f.g then pure s
    else do
      let l ← s.readLatch 28
      act l.data

/-- mload: loads a B tile (R226). -/
def opMload (f : OpT) (s : State) : Res State :=
  s.mxOp (.mload f) f fun d => do
    let t ← s.readT f.t
    let h ← s.useHandle (mxHnd d) fun h => effAddr h t.word 0 0
    let (id, s1) := s.newTok
    let m ← s.mloadPlan s.cur.core s.cid d t.word f.b f.mode.toNat h id
    pure (s1.mxEnter m (.mload id h false))
/-- mload (R226). -/
def execMload (f : OpT) (s : State) : Host.Outcome State Fault Refusal := settle s (opMload f s)

/-- The clear of MODE 1 at issue, a destroy (R227, R228, R240). -/
def State.modeClear (s : State) (mode : Nat) (acc : BitVec 4) (tag : BitVec 10) : State :=
  if mode = 1 then (s.clearTile s.cur.core acc.toNat tag).modMe fun c => { c with destroyed := true } else s

/-- mpush: multiplies 128 A rows by a B tile into an accumulator tile (R227). -/
def opMpush (f : OpT) (s : State) : Res State :=
  s.mxOp (.mpush f) f fun d => do
    let t ← s.readT f.t
    let (id, s1) := s.newTok
    let m ← s.mpushPlan s.cur.core s.cid d t.word f.b f.acc f.mode.toNat id
    pure ((s1.modeClear f.mode.toNat f.acc m.tag).mxEnter m (.push id))
/-- mpush (R227). -/
def execMpush (f : OpT) (s : State) : Host.Outcome State Fault Refusal := settle s (opMpush f s)

/-- mpushv: pushes the one row T (R228). -/
def opMpushv (f : OpT) (s : State) : Res State :=
  s.mxOp (.mpushv f) f fun d => do
    let t ← s.readT f.t
    let (id, s1) := s.newTok
    let m ← s.mpushvPlan s.cur.core s.cid d t.wide f.b f.acc f.mode.toNat id
    pure ((s1.modeClear f.mode.toNat f.acc m.tag).mxEnter m (.push id))
/-- mpushv (R228). -/
def execMpushv (f : OpT) (s : State) : Host.Outcome State Fault Refusal := settle s (opMpushv f s)

/-- mzero: zeroes a tile that has no push in flight (R229). -/
def opMzero (f : OpT) (s : State) : Res State :=
  s.mxOp (.mzero f) f fun _ => do
    s.tileWait s.cur.core s.cid f.acc.toNat none
    pure (s.modeClear 1 f.acc 0)
/-- mzero (R229). -/
def execMzero (f : OpT) (s : State) : Host.Outcome State Fault Refusal := settle s (opMzero f s)

/-- mpop: 32 elements of a tile row into mx.r (R230). -/
def opMpop (f : OpT) (s : State) : Res State :=
  s.mxOp (.mpop f) f fun _ => do
    let t ← s.readT f.t
    let r := field t.word 0 7
    let g := field t.word 7 2
    s.tileWait s.cur.core s.cid f.acc.toNat (some r)
    let x := s.tile s.cur.core f.acc.toNat
    let v : Wide :=
      { data := (x.row r).extractLsb' (1024 * g) 1024, fmt := BitVec.ofNat 4 (tagFmt x.tag), bias := x.tag.extractLsb' 4 6 }
    let m : Mark := if ((Tab.get 0 x.poison r).extractLsb' (32 * g) 32) ≠ 0 then .poison else .clean
    pure (s.land 5 28 2 [wrW (.rl 0x13) v m])
/-- mpop (R230). -/
def execMpop (f : OpT) (s : State) : Host.Outcome State Fault Refusal := settle s (opMpop f s)

/-- A tile element's value (R231): an i32 tile's raw × 2^bias, an f32 tile's value. A non-zero word of an untyped tile has
no stated value. (DESIGN CHOICE, log 20) -/
def tileValue (tag : BitVec 10) (w : Nat) : FVal :=
  if tagFmt tag = 5 then fmtValue 5 (tagBias tag) w
  else if tagFmt tag = 9 then ieeeValue 9 w
  else if w = 0 then .fin false 0 0
  else ieeeValue 9 (Config.untypedElem w)

/-- The epilogue of one row (R231): scale and bias, one rounding, RELU, encoding. -/
def epilogue (tag : BitVec 10) (row : BitVec 4096) (tbl : List Byte) (relu : Bool) (fmt : Nat) (bias : Int)
    (mode : Nat) : Lanes :=
  lanesOf 8 ((List.range 128).map fun c =>
    let word := fun (o : Nat) => ieeeValue 9 (natOfBytes ((tbl.drop (o + 4 * c)).take 4))
    let y := roundF32 (FVal.add 0 ((tileValue tag (tileElem row c)).mul (word 0)) (word 512))
    let z := if relu && y.lt (.fin false 0 0) then .fin false 0 0 else y
    fmtEncode fmt bias mode z)

/-- The offset an mpopx of MODE 1 stores at (R231). -/
def mpopxOff (d : Lanes) (t : Word) : Word :=
  mxOff d + BitVec.ofNat 64 (field t 0 7 * rowStride (mxStride d) (mxFmt d).toNat)

/-- What an mpopx reads and stores (R231): the row and its poison, and for MODE 1 the entry it stores. -/
def State.mpopxPlan (s : State) (core ci : Nat) (own : List (Nat × Byte × Bool)) (d : Lanes) (t : Word)
    (acc : BitVec 4) (mode fmode : Nat) (h : Res Handle) : Res (Wide × Mark × Option Gated) := do
  let r := field t 0 7
  let fm := (mxFmt d).toNat
  if !(fm == 1 || fm == 2 || fm == 10 || fm == 11) then raise 9 1
  s.tileWait core ci acc.toNat (some r)
  let e := mxEpi d
  if 2 ^ 20 < e + 1024 then raiseAt 8 1 e
  if !(List.range 8).all fun i => s.lineFull core (e / 128 + i) then blockAt .emptyLine
  let l := (List.range 1024).map fun i =>
    match lookupCell own (e + i) with
    | some b => b
    | none => s.spadByte core (e + i)
  let x := s.tile core acc.toNat
  let data := epilogue x.tag (x.row r) (l.map Prod.fst) (mxRelu d) fm (mxBias d).toInt fmode
  let v : Wide := { data := data, fmt := mxFmt d, bias := mxBias d }
  let pois := Tab.get 0 x.poison r != 0 || l.any Prod.snd
  let m : Mark := if pois then .poison else .clean
  if mode ≠ 1 then pure (v, m, none)
  else do
    let h ← h
    let n := packedWidth fm
    let a ← formAddr h (mpopxOff d t) 0 0 n 32 false true false false false
    let bytes := packVec (mxFmt d) data
    pure (v, m, some { h := h, chunks := [(a.1, a.2, bytes)], poison := pois, slot := s.coreSlot core,
                       gen := s.coreGen core, marked := false })

/-- mpopx: a tile row through the epilogue into mx.r, and in MODE 1 a gated store (R231). -/
def opMpopx (f : OpT) (s : State) : Res State :=
  s.mxOp (.mpopx f) f fun d => do
    let t ← s.readT f.t
    s.intact (.sp 15)
    let (v, m, g) ← s.mpopxPlan s.cur.core s.cid (s.me.ownCells true) d t.word f.acc f.mode.toNat s.me.bank.fmode
      (s.useHandle (mxHnd d) fun h => effAddr h (mpopxOff d t.word) 0 0)
    let s1 := s.land 5 28 6 [wrW (.rl 0x13) v m]
    match g with
    | none => pure s1
    | some g => do
      if g.h.ps = 15 then g.chunks.forM fun c => s.lockCheck c.2.1 c.2.2.length
      pure (s1.addRel 0 28 (.store g))
/-- mpopx (R231). -/
def execMpopx (f : OpT) (s : State) : Host.Outcome State Fault Refusal := settle s (opMpopx f s)

/-- The tag rules of a macc, by the tile's tag and T's (R232): whether it adds as f32. -/
def maccFormat (tile : BitVec 10) (v : Wide) : Res Bool :=
  let trap := fun (sub : Nat) => raiseTag sub 0 (some v) none none
  if v.fmt = 9 then (if tagFmt tile = 5 then trap 2 else .ok true)
  else if v.fmt = 5 then
    (if tagFmt tile = 9 then trap 2
     else if tagFmt tile = 5 ∧ tagBias tile ≠ v.bias.toInt then trap 3 else .ok false)
  else if v.fmt = 0 then .ok (tagFmt tile == 9)
  else trap 1

/-- macc: adds or writes 32 elements of T into a tile row, at release (R232). -/
def opMacc (f : OpT) (s : State) : Res State :=
  s.mxOp (.macc f) f fun d => do
    let t ← s.readT f.t
    let tag := (s.tile s.cur.core f.acc.toNat).tag
    let f32 ← maccFormat tag t.wide
    pure (s.addRel 0 28 (.macc f.acc (mxRow d) (mxSeg d) (f.mode == 1) (tagFmt tag != 9) f32 t.wide))
/-- macc (R232). -/
def execMacc (f : OpT) (s : State) : Host.Outcome State Fault Refusal := settle s (opMacc f s)

/-- mrel: empties a B slot or a tile, at release (R233). -/
def opMrel (f : OpT) (s : State) : Res State :=
  s.mxOp (.mrel f) f fun _ => pure (s.addRel 0 28 (.mrel f.b f.acc (f.mode == 1)))
/-- mrel (R233). -/
def execMrel (f : OpT) (s : State) : Host.Outcome State Fault Refusal := settle s (opMrel f s)

/-- The entry at the head of a macro's queue (R218). -/
def Core.macroHead (k : Core) (q : Nat) : Option MOp := k.mops.find? fun m => m.released && m.macros.contains q

/-- Macros of a core that may run at once under the power step (R446). -/
def State.macroLimit (s : State) : Nat :=
  let level := field (s.hubReg 0xC000) 0 4
  if level ≤ 10 then 4 else if level = 11 then 8 else if level = 12 then 12 else 16

/-- Macros that run (R218). -/
def Core.macrosRunning (k : Core) : Nat := ((k.mops.filter fun m => m.start.isSome).map fun m => m.macros.length).sum

/-- An entry may start (R218, R446): released in an earlier cycle, at the head of its queues, its macros free, fewer other
pushes in flight on its tile than the limit of its formats, and no mrel of its slot or tile issued before it still waits (R233).
(DEDUCED, log 48) -/
def State.mayStart (s : State) (core : Nat) (m : MOp) : Bool :=
  let k := s.core core
  m.start.isNone && decide (m.relAt < s.cycle) && decide (k.macrosRunning + m.macros.length ≤ s.macroLimit) &&
  m.macros.all (fun q => (k.macroHead q).map (·.id) == some m.id) &&
  (m.load || decide ((k.mops.filter fun x => x.flying && x.acc == m.acc && x.id != m.id).length < m.lim)) &&
  k.macts.all fun x => match x.body with
    | .mrel b _ false => !(m.slots.contains b.toNat && decide (x.seq < m.seq))
    | .mrel _ a true => !(!m.load && a == m.acc && decide (x.seq < m.seq))
    | _ => true

/-- The entry at the head of a macro starts if it may (R218); a cached mload reads its rows. -/
def State.startEntry (s : State) (core cim : Nat) : State :=
  match (s.core core).macroHead cim with
  | none => s
  | some m =>
    if !s.mayStart core m then s
    else
      let (data, s1) := if m.load && m.data.isNone then
          let (l, z) := s.readMload core m
          (some l, z)
        else (m.data, s)
      s1.modCore core fun k =>
        { k with mops := k.mops.map fun x => if x.id == m.id then { x with start := some s.cycle, data := data } else x }

/-- MACRO_ENTRY_START (R218): waiting maccs and mrels that may act do, and the entry at the head of a macro starts if it
may. -/
def execMacroEntryStart (core cim : Nat) (s : State) : Host.Outcome State Fault Refusal :=
  .next ((s.settleMx core).startEntry core cim)

/-- The push with an identifier. -/
def Core.push (k : Core) (id : Nat) : Option MOp := k.mops.find? fun m => m.id == id && !m.load

/-- The next row of a push is due (R218). -/
def State.rowDue (s : State) (m : MOp) : Bool :=
  m.flying && match m.start with
    | none => false
    | some c => decide (c + m.rtime * (m.rows + 1) ≤ s.cycle)

/-- PUSH_ROW_ADDED (R218, R223): the next row of a push is added, once its cycle has come. -/
def execPushRowAdded (core push : Nat) (s : State) : Host.Outcome State Fault Refusal :=
  match (s.core core).push push with
  | none => .next s
  | some m => if s.rowDue m then .next ((s.rowAdd core m).settleMx core) else .next s

/-- The operands of a push are consumed (R220): its lock goes and CSEM is signalled. -/
def State.consume (s : State) (core : Nat) (m : MOp) : State :=
  let s1 := s.modCore core fun k =>
    { k with mops := k.mops.map fun x => if x.id == m.id then { x with consumed := true } else x }
  match m.csem with
  | some q => if m.gen = s.gen m.slot then s1.addSem core q 1 else s1
  | none => s1

/-- OPERANDS_CONSUMED (R220): an mpush that has read its last A row. -/
def execOperandsConsumed (core push : Nat) (s : State) : Host.Outcome State Fault Refusal :=
  match (s.core core).push push with
  | none => .next s
  | some m => if !m.consumed && !m.flying then .next (s.consume core m) else .next s

/-- PUSH_COMPLETE (R218): the push leaves its macro queues. -/
def execPushComplete (core push : Nat) (s : State) : Host.Outcome State Fault Refusal :=
  match (s.core core).push push with
  | none => .next s
  | some m =>
    if m.flying then .next s
    else
      let s1 := if m.consumed then s else s.consume core m
      .next ((s1.modCore core fun k => { k with mops := k.mops.filter fun x => x.id != push }).settleMx core)

/-- The started mload into a slot. -/
def Core.loadOf (k : Core) (b : Nat) : Option MOp := k.mops.find? fun m => m.load && m.b.toNat == b && m.start.isSome

/-- MLOAD_COMPLETE (R218, R226): 128 cycles after its start the tile stands in its slots, aligned under its own tag (R222), and LOAD
is 0 unless another released mload into the slot has not completed (R214). -/
def execMloadComplete (core slot : Nat) (s : State) : Host.Outcome State Fault Refusal :=
  match (s.core core).loadOf slot with
  | none => .next s
  | some m =>
    match m.start, m.data with
    | some c, some l =>
      if s.cycle < c + 128 then .next s
      else
        let rows := (l.zipIdx.map fun e => (e.2, e.1.1)).foldl (fun t e => Tab.put 0 t e.1 e.2) ([] : Tab Lanes)
        let pois := (l.zipIdx.map fun e => (e.2, e.1.2)).foldl (fun t e => Tab.put 0 t e.1 e.2) ([] : Tab (BitVec 128))
        let s1 := if m.gen ≠ s.gen m.slot then s
          else m.slots.foldl (fun x b =>
            x.setBslot core b { x.bslot core b with
              gen := s.coreGen core, rows := rows, dtag := m.tag, poison := pois,
              loading := (s.core core).mops.any fun y => y.load && y.released && y.id != m.id && y.slots.contains b }) s
        .next ((s1.modCore core fun k => { k with mops := k.mops.filter fun x => x.id != m.id }).settleMx core)
    | _, _ => .next s

end Sys2Proof.Machine
end

