-- ==== Sys2Proof/Machine/Sequencer.lean ====
section
/-! DEFINITION. The tile sequencer ts (R236 to R239). -/

namespace Sys2Proof.Machine

/-- The sequencer of a core as it reads: one of a stale generation is in its zero form (R308). -/
def State.seqr (s : State) (core : Nat) : Ts :=
  let x := (s.core core).ts
  if x.stamp = s.coreGen core then x else { stamp := s.coreGen core }
/-- Replace the sequencer. -/
def State.setSeqr (s : State) (core : Nat) (x : Ts) : State := s.modCore core fun k => { k with ts := x }

/-- OPC of a state (R236). -/
def tsOpc (e : BitVec 128) : Nat := field e 124 4
/-- CAIRN (R236). -/
def tsCairn (e : BitVec 128) : Bool := e.getLsbD 123
/-- TGT (R236). -/
def tsTgt (e : BitVec 128) : Nat := field e 56 8
/-- LN (R236). -/
def tsLn (e : BitVec 128) : Nat := field e 96 1

/-- Entries of a table (R236): 0 encodes 256. -/
def tsNent (e0 : BitVec 128) : Nat := if field e0 120 8 = 0 then 256 else field e0 120 8

/-- A state is well formed by itself (R237): reserved fields, OPC, TGT, the CAIRN of loops and ends. -/
def tsStateOk (i : Nat) (e : BitVec 128) : Bool :=
  decide (field e 97 10 = 0) && decide (field e 0 56 = 0) && decide (tsOpc e ≤ 7) &&
  (tsOpc e != 5 || (decide (3 ≤ tsTgt e) && decide (tsTgt e ≤ i))) &&
  ((tsOpc e != 5 && tsOpc e != 0) || tsCairn e)

/-- The first failing entry of a table (R237): `loops` are the loop states seen, `run` the states without CAIRN just
before. -/
def tsCheck (nent : Nat) : Nat → List (BitVec 128) → List (Nat × Nat) → Nat → Option Nat
  | _, [], _, _ => none
  | i, e :: r, loops, run =>
    let run1 := if tsCairn e then 0 else run + 1
    if !tsStateOk i e then some i
    else if tsOpc e = 5 ∧ loops.any fun l => l.1 == tsLn e && decide (tsTgt e ≤ l.2) then some i
    else if 32 < run1 then some i
    else if i + 1 = nent ∧ tsOpc e ≠ 0 then some i
    else tsCheck nent (i + 1) r (if tsOpc e = 5 then loops ++ [(tsLn e, i)] else loops) run1

/-- The validity of a table (R237). -/
def tsInvalid (l : List (BitVec 128)) : Option Nat :=
  let e0 := l.getD 0 0
  let n := tsNent e0
  if n < 4 ∨ e0.getLsbD 112 ∨ e0.getLsbD 113 ∨ e0.getLsbD 114 ∨ e0.getLsbD 115 ∨ e0.getLsbD 116 ∨ e0.getLsbD 117 ∨
      e0.getLsbD 118 ∨ field e0 0 104 ≠ 0 then some 0
  else tsCheck n 3 ((l.take n).drop 3) [] 0

/-- The frame of a ts operation (R239): another context's running sequencer blocks. -/
def State.tsOp (s : State) (i : Instr) (f : OpT) (act : Ts → Res State) : Res State :=
  inSlot 5 do
    s.opens i
    if !s.guard f.g then pure s
    else
      let x := s.seqr s.cur.core
      if x.run && x.owner != s.cid then blockAt .busyTile else act x

/-- tsload: at release, reads and checks the table at offset T (R239). -/
def opTsload (f : OpT) (s : State) : Res State :=
  s.tsOp (.tsload f) f fun x => do
    let t ← s.readT f.t
    if x.run then raise 4 0 29
    else pure (s.addRel 0 29 (.tsload t.word))
/-- tsload (R239). -/
def execTsload (f : OpT) (s : State) : Host.Outcome State Fault Refusal := settle s (opTsload f s)

/-- tsrun: at release, copies mx.o and starts at entry T[7:0] (R239). The mpopx states round by fmode as it stands at issue.
(DESIGN CHOICE, log 77) -/
def opTsrun (f : OpT) (s : State) : Res State :=
  s.tsOp (.tsrun f) f fun _ => do
    let t ← s.readT f.t
    let l ← s.readLatch 28
    let h ← s.useHandle (mxHnd l.data) fun h => h.va.toNat
    s.intact (.sp 15)
    pure (s.addRel 0 29 (.tsrun (t.word.setWidth 8) l.data h (BitVec.ofNat 2 s.me.bank.fmode)))
/-- tsrun (R239). -/
def execTsrun (f : OpT) (s : State) : Host.Outcome State Fault Refusal := settle s (opTsrun f s)

/-- tsstop: asks a running sequencer to stop after the next state with CAIRN = 1 (R239). -/
def opTsstop (f : OpT) (s : State) : Res State :=
  s.tsOp (.tsstop f) f fun x => pure (if x.run then s.setSeqr s.cur.core { x with stop := true } else s)
/-- tsstop (R239). -/
def execTsstop (f : OpT) (s : State) : Host.Outcome State Fault Refusal := settle s (opTsstop f s)

/-- The word tsstat reports (R239). -/
def Ts.word (x : Ts) : Word :=
  BitVec.ofNat 64 ((if x.run then 2 ^ 63 else 0) + (if x.stop then 2 ^ 62 else 0) + (if x.loaded then 2 ^ 61 else 0) +
    x.err.toNat * 2 ^ 56 + x.state.toNat * 2 ^ 48 + x.steps.toNat)

/-- tsstat: the sequencer's report into ts.r; latency 1 (R239). -/
def opTsstat (f : OpT) (s : State) : Res State :=
  s.tsOp (.tsstat f) f fun x => pure (s.land 5 29 1 [wr64 (.rl 0x15) x.word])
/-- tsstat (R239). -/
def execTsstat (f : OpT) (s : State) : Host.Outcome State Fault Refusal := settle s (opTsstat f s)

/-- A released tsload (R236, R237, R239). A T that is no multiple of 128 or leaves the scratchpad gives ERR 2. (DEDUCED, log 49) -/
def State.tsLoadDo (s : State) (core ci : Nat) (off : Word) : State :=
  let x := s.seqr core
  let entry := fun (i : Nat) =>
    ofBytes 128 ((List.range 16).map fun j => (s.spadByte core (off.toNat + 16 * i + j)).1)
  let n := tsNent (entry 0)
  if off.toNat % 128 ≠ 0 ∨ 2 ^ 20 < off.toNat + 16 * n then s.setSeqr core { x with err := 2 }
  else
    let l := (List.range n).map entry
    match tsInvalid l with
    | some i => s.setSeqr core { x with err := 1, state := BitVec.ofNat 8 i }
    | none =>
      let e1 := l.getD 1 0
      let c := (List.range 4).foldl (fun (t : Tab (BitVec 32)) k => Tab.put 0 t k (e1.extractLsb' (32 * k) 32)) []
      s.setSeqr core
        { x with
          entries := (l.zipIdx.map fun e => (e.2, e.1)).foldl (fun t e => Tab.set t e.1 e.2) ([] : Tab (BitVec 128))
          nent := n, c := c, l := [], loaded := true, err := 0, state := 3, owner := ci }

/-- A released tsrun (R239). Where it starts nothing because RUN = 1 or LOADED = 0, the spec sets ERR and names no value.
(DEDUCED, log 49; DESIGN CHOICE, log 77) -/
def State.tsRunDo (s : State) (core : Nat) (entry : BitVec 8) (mxo : Lanes) (h : Handle) (fm : BitVec 2) (slot : BitVec 4)
    (gen : BitVec 12) : State :=
  let x := s.seqr core
  if x.run ∨ !x.loaded then
    let (n, s1) := s.newTok
    s1.setSeqr core { x with err := (Config.freeWord n).setWidth 5 }
  else if entry.toNat < 3 ∨ x.nent ≤ entry.toNat then s.setSeqr core { x with err := 6 }
  else
    s.setSeqr core
      { x with mxo := mxo, h := h, fm := fm, run := true, stop := false, err := 0, state := entry, steps := 0, slot := slot,
               gen := gen }

/-- What performing a state yields: done, waiting, or an error code (R238). -/
inductive SeqRes | done (s : State) | wait | fail (err : BitVec 5)
  deriving DecidableEq, Repr

/-- A sequencer's error code for a trap (R238, R239). -/
def seqErr (t : TrapInfo) : BitVec 5 :=
  match t.cause with
  | 8 => 2 | 7 => 3 | 6 => 4 | 9 => 5 | _ => 1

/-- A push or mload of the sequencer takes its place among those of its macro, released at once (R238). -/
def State.enterMx (s : State) (core : Nat) (m : MOp) : State :=
  let r := if m.load then s.mloadRelease core m else (s, { m with released := true, relAt := s.cycle })
  r.1.modCore core fun k => { k with mops := k.mops ++ [r.2] }

/-- The matrix operation of a state, as the owning context would perform it, not gated (R238); h where it uses HND. -/
def State.seqMx (s : State) (core : Nat) (x : Ts) (e : BitVec 128) (t : Word) (h : Res Handle) : Res State := do
  let b : BitVec 7 := e.extractLsb' 113 7
  let acc : BitVec 4 := e.extractLsb' 109 4
  let mode := field e 107 2
  let ci := 512
  let (id, s0) := s.newTok
  let s1 := { s0 with seq := s0.seq + 1 }
  if 2 ≤ mode ∨ (tsOpc e = 1 ∧ mode = 1 ∧ 64 ≤ b.toNat) ∨ (tsOpc e = 4 ∧ mode ≠ 0) then raise 4
  match tsOpc e with
  | 1 => do
    let h ← h
    let m ← s.mloadPlan core ci x.mxo t b mode h id
    pure (s1.enterMx core m)
  | 2 => do
    let m ← s.mpushPlan core ci x.mxo t b acc mode id
    pure ((if mode = 1 then s1.clearTile core acc.toNat m.tag else s1).enterMx core m)
  | 3 => do
    let (_, _, g) ← s.mpopxPlan core ci [] x.mxo t acc mode x.fm.toNat h
    match g with
    | none => pure s
    | some g =>
      if g.h.ps = 15 ∧ g.chunks.any fun c => s.spadLocked core c.2.1 c.2.2.length then blockAt .locked
      else pure (s.performStore core x.slot x.gen g)
  | _ => do
    s.tileWait core ci acc.toNat none
    pure (s.clearTile core acc.toNat 0)

/-- The copied handle as a state uses it: a stale one is null, a revoked one is re-translated (R115, R121, R238). (DEDUCED, log
49) -/
def State.seqHandle (s : State) (x : Ts) : Res Handle :=
  let h := s.judgeHandle x.h
  if h.ps = 15 then .ok h
  else if h.st = .revoked then
    match s.rewalk h with
    | .ok g => .ok g
    | .error sub => raise 6 sub
  else .ok h

/-- The sequencer with the handle a state has used: only an mload and an mpopx store use it. -/
def Ts.usedHandle (x : Ts) (e : BitVec 128) (h : Res Handle) : Ts :=
  match h with
  | .ok g => if tsOpc e = 1 ∨ (tsOpc e = 3 ∧ field e 107 2 = 1) then { x with h := g } else x
  | .error _ => x

/-- One state performed (R238): the state after, with the entry that follows. -/
def State.seqDo (s : State) (core : Nat) (x : Ts) (e : BitVec 128) : SeqRes × Nat × Ts :=
  let i := x.state.toNat
  let k := field e 120 2
  let cnt : BitVec 32 := Tab.get 0 x.c k
  let after := fun (y : Ts) =>
    if e.getLsbD 122 then
      let inc : BitVec 32 := (Tab.get (0 : BitVec 128) y.entries 2).extractLsb' (32 * k) 32
      { y with c := Tab.put 0 y.c k (cnt + inc) }
    else y
  let sem : BitVec 8 := e.extractLsb' 64 8
  match tsOpc e with
  | 0 =>
    let e0 := Tab.get (0 : BitVec 128) x.entries 0
    (.done (if e0.getLsbD 119 then s.addSem core (e0.extractLsb' 104 8) 1 else s), i, { after x with run := false, stop := false })
  | 5 =>
    let ln := tsLn e
    let cur : BitVec 32 := Tab.get 0 x.l ln
    let cur := if cur = 0 then (if field e 64 32 = 0 then 1 else e.extractLsb' 64 32) else cur
    let left := cur - 1
    (.done s, if left ≠ 0 then tsTgt e else i + 1, after { x with l := Tab.put 0 x.l ln left })
  | 6 => (.done (s.addSem core sem (field e 72 4)), i + 1, after x)
  | 7 =>
    let thr := field e 72 8
    let v := s.sem core sem
    if v < thr then (.wait, i, x) else (.done (s.setSem core sem (v - thr)), i + 1, after x)
  | _ =>
    let h := s.seqHandle x
    match s.seqMx core x e (cnt.signExtend 64) h with
    | .ok z => (.done z, i + 1, after (x.usedHandle e h))
    | .error (.block _ _) => (.wait, i, x)
    | .error (.jemit _ _ _) => (.wait, i, x)
    | .error (.trap t) => (.fail (seqErr t), i, x)

/-- SEQUENCER_STATE (R238): a running sequencer performs its next state, unless that state waits. -/
def execSequencerState (core : Nat) (s : State) : Host.Outcome State Fault Refusal :=
  let x := s.seqr core
  if !x.run || s.hub.down then .next s
  else
    let e := Tab.get (0 : BitVec 128) x.entries x.state.toNat
    match s.seqDo core x e with
    | (.wait, _, _) => .next s
    | (.fail c, _, _) => .next (s.setSeqr core { x with run := false, stop := false, err := c })
    | (.done z, nxt, y) =>
      let halt := y.stop && tsCairn e
      .next (z.setSeqr core
        { y with state := BitVec.ofNat 8 nxt, steps := y.steps + 1, run := y.run && !halt, stop := y.stop && !halt })

end Sys2Proof.Machine
end

