-- ==== Sys2Proof/Machine/Sector.lean ====
section
/-! DEFINITION. The sector code of DRAM (R411, R412): a Reed–Solomon code of 144 symbols over GF(2^8), its encoder and its decoder. -/

namespace Sys2Proof.Machine

/-- Twice an element of GF(2^8) modulo 0x11D (R411). -/
def gfDouble (a : Byte) : Byte := (a <<< 1) ^^^ (if a.getLsbD 7 then 0x1D else 0)
/-- The product of two elements, over the low bits of the second. -/
def gfMulGo : Nat → Byte → Byte → Byte
  | 0, _, _ => 0
  | n + 1, a, b => (if b.getLsbD 0 then a else 0) ^^^ gfMulGo n (gfDouble a) (b >>> 1)
/-- The product in GF(2^8). -/
def gfMul (a b : Byte) : Byte := gfMulGo 8 a b
/-- The inverse of an element other than 0: its power 254, the product of its powers 2, 4, …, 128. -/
def gfInv (a : Byte) : Byte :=
  ((List.range 7).foldl (fun (p : Byte × Byte) _ => let q := gfMul p.1 p.1; (q, gfMul p.2 q)) (a, 1)).2
/-- α^n, with α = 0x02 (R411). -/
def alpha : Nat → Byte
  | 0 => 1
  | n + 1 => gfDouble (alpha n)

/-- A polynomial, highest power first, at a point. -/
def polyHigh (p : List Byte) (x : Byte) : Byte := p.foldl (fun acc c => gfMul acc x ^^^ c) 0
/-- A polynomial, lowest power first, at a point. -/
def polyLow (p : List Byte) (x : Byte) : Byte := polyHigh p.reverse x

/-- The generator polynomial (R411), highest power first: its roots are α^0 to α^13. -/
def rsGen : List Byte :=
  (List.range 14).foldl (fun g j => (g ++ [0]).zipWith (· ^^^ ·) (0 :: g.map (gfMul (alpha j)))) [1]
/-- The check symbols of 130 symbols (R411): the remainder by the generator. The first symbol stands for the highest power.
(DESIGN CHOICE, log 61) -/
def rsCheck (d : List Byte) : List Byte :=
  let g := rsGen.drop 1
  d.foldl (fun st x =>
    let f := x ^^^ st.headD 0
    (st.drop 1 ++ [0]).zipWith (· ^^^ ·) (g.map (gfMul f))) (List.replicate 14 0)
/-- The syndromes of a word. -/
def syndromes (w : List Byte) : List Byte := (List.range 14).map fun j => polyHigh w (alpha j)
/-- A word is a codeword (R411). -/
def isCodeword (w : List Byte) : Bool := (syndromes w).all (· == 0)

/-- The state of the search for the error locator. -/
structure Locator where
  c : List Byte := [1]
  b : List Byte := [1]
  l : Nat := 0
  m : Nat := 1
  d : Byte := 1
  deriving DecidableEq, Repr

/-- c − f x^m b, lowest power first. -/
def polySub (c b : List Byte) (f : Byte) (m : Nat) : List Byte :=
  let t := List.replicate m 0 ++ b.map (gfMul f)
  (List.range (max c.length t.length)).map fun i => c.getD i 0 ^^^ t.getD i 0

/-- One syndrome is taken into the error locator. -/
def Locator.step (k : Locator) (s : List Byte) (n : Nat) : Locator :=
  let d := (List.range k.l).foldl (fun a i => a ^^^ gfMul (k.c.getD (i + 1) 0) (s.getD (n - (i + 1)) 0)) (s.getD n 0)
  if d = 0 then { k with m := k.m + 1 }
  else
    let c := polySub k.c k.b (gfMul d (gfInv k.d)) k.m
    if 2 * k.l ≤ n then { c := c, b := k.c, l := n + 1 - k.l, m := 1, d := d } else { k with c := c, m := k.m + 1 }

/-- The decoder (R411): the codeword at most seven symbols from the word received, and how many; none where there is none, or
the search finds none. What it answers is checked. -/
def rsDecode (w : List Byte) : Option (List Byte × Nat) :=
  let s := syndromes w
  if s.all (· == 0) then some (w, 0)
  else
    let k := (List.range 14).foldl (fun k n => k.step s n) ({} : Locator)
    let at' := fun (i : Nat) => alpha (143 - i)
    let bad := (List.range 144).filter fun i => polyLow k.c (gfInv (at' i)) == 0
    let om := (List.range 14).map fun n =>
      (List.range (n + 1)).foldl (fun a i => a ^^^ gfMul (k.c.getD i 0) (s.getD (n - i) 0)) 0
    let der := (List.range k.c.length).map fun n => if n % 2 = 0 then k.c.getD (n + 1) 0 else 0
    let fix := fun (i : Nat) =>
      let x := gfInv (at' i)
      gfMul (at' i) (gfMul (polyLow om x) (gfInv (polyLow der x)))
    let r := w.zipIdx.map fun (b, i) => if bad.contains i then b ^^^ fix i else b
    let n := ((List.range 144).filter fun i => r.getD i 0 != w.getD i 0).length
    if isCodeword r && decide (n ≤ 7) then some (r, n) else none

/-- A sector's metadata (R411): the stamp, and poison in bit 12. -/
def Mem.sectorMeta (m : Mem) (sec : Nat) : BitVec 16 :=
  (0 : BitVec 3) ++ BitVec.ofBool (Tab.get false m.poison sec) ++ Tab.get (0 : BitVec 12) m.stamp sec
/-- The codeword of a sector as it is stored (R411). -/
def State.sectorWord (s : State) (sec : Nat) : List Byte :=
  let d := (List.range 128).map (fun i => s.cipherByte (128 * sec + i)) ++ bytesOf (s.mem.sectorMeta sec) 2
  d ++ rsCheck d

/-- What the decoder finds in a sector it reads (R411, R412): n symbols corrected; or, unseen by the code, another codeword. -/
inductive CellResult
  | clean
  | corrected (nsym : Nat)
  | wrong (nsym : Nat) (word : List Byte)
  | uncorrectable
  deriving DecidableEq, Repr

/-- A word with errors in it. -/
def addErrors (w : List Byte) (errs : List SymErr) : List Byte :=
  w.zipIdx.map fun (b, i) => errs.foldl (fun a e => if e.sym.toNat = i then a ^^^ e.flip else a) b

/-- A sector read with errors in its cells (R412). -/
def State.readCell (s : State) (sec : Nat) (errs : List SymErr) : CellResult :=
  let w := s.sectorWord sec
  let r := addErrors w errs
  if r = w then .clean
  else
    match rsDecode r with
    | none => .uncorrectable
    | some (x, n) => if x = w then .corrected n else .wrong n x

/-- A sector whose cells hold another codeword, as a miscorrection leaves them (R411): its stamp and poison are that word's; a
16-byte block whose cells have changed deciphers under the key it stands under (R425). (DESIGN CHOICE, log 61) -/
def State.putWord (s : State) (sec : Nat) (w : List Byte) : State :=
  let old := s.sectorWord sec
  let m : BitVec 16 := ofBytes 16 ((w.drop 128).take 2)
  let changed := (List.range 8).filter fun b => (List.range 16).any fun i => w.getD (16 * b + i) 0 != old.getD (16 * b + i) 0
  let put := fun (t : List Host.Cell) (b : Nat) =>
    let k := Tab.get 0 s.mem.key (8 * sec + b)
    let c : BitVec 128 := ofBytes 128 ((w.drop (16 * b)).take 16)
    let v := if k = 0 then c else xtsDec (keyBits k) (s.placed (128 * sec) / 128) b c
    (List.range 16).foldl (fun t i => Tab.put 0 t (128 * sec + 16 * b + i) (v.extractLsb' (8 * i) 8)) t
  { s with
    mem := { s.mem with
      bytes := changed.foldl put s.mem.bytes
      stamp := Tab.put 0 s.mem.stamp sec (m.setWidth 12)
      poison := Tab.put false s.mem.poison sec (m.getLsbD 12) } }

end Sys2Proof.Machine
end

