-- ==== Sys2Proof/Machine/Move.lean ====
section
/-! DEFINITION. The empty slot and the plain moves (R65, R66, R68). -/

namespace Sys2Proof.Machine

/-- The place a destination port names, triggers apart (R63, R92). -/
def State.dstReg (s : State) (port : BitVec 9) : Reg :=
  let p := port.toNat
  if p < 0x40 then .s (physS s.me.bank.rrb p)
  else if p < 0x80 then .v (p - 0x40)
  else if p < 0xA0 then .p (p - 0x80)
  else if p < 0xB0 then .vp (p - 0xA0)
  else if p < 0xC0 then .h (p - 0xB0)
  else if p < 0x100 then .sp (p - 0xC0)
  else .ol ((p - 0x100) / 2)

/-- The bits of the elements of width w whose guard bit is 1 (R68, R197). -/
def elemMask (w : Nat) (g : VPred) : Lanes :=
  lanesOf w ((List.range (1024 / w)).map fun i => if g.getLsbD i then 2 ^ w - 1 else 0)

/-- The value a move without modifier writes, by the destination's kind (R66). -/
def moveWrite (d : DstKind) (r : Reg) (x : Src) : RegWrite :=
  match d with
  | .scalar => wr64 r x.word
  | .wide => wrW r x.wide
  | .pred => { reg := r, val := { data := (BitVec.ofBool x.bool).setWidth 1024 }, mask := fullMask }
  | .vpred => { reg := r, val := { data := x.vec.setWidth 1024 }, mask := fullMask }
  | .handle => { reg := r, val := {}, mask := fullMask, h := x.h }
  | .trigger _ => wr64 r x.word

/-- The guard of a plain move (R61, R68): none where it does nothing, the vector guard where it acts by elements. -/
def State.moveGuard (s : State) (m : OpMove) : Option VPred :=
  if m.slot = 3 ∨ m.slot = 4 then
    some (s.vguard m.g)
  else if s.guard m.g then some (BitVec.allOnes 128) else none

/-- A plain move: its checks, its guard, its source, and its write at commit (R65 to R68). A vector move whose guard has
ones only in bits that R68 ignores reads its source, which can block or trap, and writes nothing. (DESIGN CHOICE, log 71) -/
def State.moveOp (s : State) (i : Instr) (m : OpMove) (w : DstKind → Reg → Src → RegWrite) (byElem : Bool) :
    Res State :=
  inSlot m.slot.toNat do
    s.opens i
    match s.moveGuard m, dstKind m.dst with
    | none, _ => pure s
    | _, none => pure s
    | some g, some d =>
      if byElem && srcKind m.src == some .vector && d == .wide then
        if g = 0 then pure s
        else do
          let x ← s.readT m.src
          let mask := elemMask (fmtWidth x.val.fmt.toNat) g
          if mask = 0 then pure s else pure (s.move m.slot.toNat { w d (s.dstReg m.dst) x with mask := mask })
      else if g.getLsbD 0 then do
        let x ← s.readT m.src
        pure (s.move m.slot.toNat (w d (s.dstReg m.dst) x))
      else pure s

/-- nop: the empty slot, s0 into s0, performs nothing (R61, R49). -/
def execNop (s : State) : Host.Outcome State Fault Refusal := settle s (.ok s)

/-- The move without modifier (R65, R66). -/
def opMove (m : OpMove) (s : State) : Res State := s.moveOp (.move m) m moveWrite true
/-- The move without modifier (R65, R66). -/
def execMove (m : OpMove) (s : State) : Host.Outcome State Fault Refusal := settle s (opMove m s)

/-- The value of a splat: the scalar in all sixteen 64-bit lanes, untyped (R65). -/
def splatWrite (_ : DstKind) (r : Reg) (x : Src) : RegWrite :=
  wrW r { data := lanesOf 64 ((List.range 16).map fun _ => x.word.toNat) }

/-- The .splat move (R65). -/
def opMoveSplat (m : OpMove) (s : State) : Res State := s.moveOp (.moveSplat m) m splatWrite false
/-- The .splat move (R65). -/
def execMoveSplat (m : OpMove) (s : State) : Host.Outcome State Fault Refusal := settle s (opMoveSplat m s)

/-- The value of a .hi move: bits 127:64 of the vector predicate, or into them (R65). -/
def hiWrite (d : DstKind) (r : Reg) (x : Src) : RegWrite :=
  match d with
  | .vpred => { reg := r, val := { data := x.word.setWidth 1024 <<< 64 }, mask := BitVec.ofNat 1024 (maskBits 64 64) }
  | _ => wr64 r (x.val.data.extractLsb' 64 64)

/-- The .hi move (R65). -/
def opMoveHi (m : OpMove) (s : State) : Res State := s.moveOp (.moveHi m) m hiWrite false
/-- The .hi move (R65). -/
def execMoveHi (m : OpMove) (s : State) : Host.Outcome State Fault Refusal := settle s (opMoveHi m s)

end Sys2Proof.Machine
end

