-- ==== Sys2Proof/Machine/Vector.lean ====
section
/-! DEFINITION. The vector units va and vb (R194 to R209) and the conversions vcvt, vscale and vtag (R190 to R193). -/

namespace Sys2Proof.Machine

/-- What a vector operation reads: T, O, L, its guard and fmode (R188, R195). -/
structure VArgs where
  t    : Src
  o    : Src
  l    : Wide
  g    : VPred
  mode : Nat
  /-- the operand O is the latch (R64) -/
  ol   : Bool := false
  deriving DecidableEq, Repr

/-- Element i of width w of a source: a scalar is broadcast (R195). -/
def Src.elemAt (x : Src) (w i : Nat) : Nat := if x.kind = .vector then elem w x.val.data i else x.word.toNat % 2 ^ w

/-- A source with its tag: a broadcast scalar counts as untyped (R195, R196). -/
def Src.tagged (x : Src) : Wide := if x.kind = .vector then x.val else {}

/-- Scale bias of a typed source; an untyped one contributes 0 (R196, R199). -/
def Wide.b (x : Wide) : Int := if x.fmt = 0 then 0 else x.bias.toInt

/-- The format-tag trap with the tags read (R186, R391). -/
def tagTrap {α : Type} (sub opnd : Nat) (srcs : List (Nat × Wide)) : Res α :=
  .error (.trap { cause := 9, sub := sub, opnd := opnd, info := BitVec.ofNat 64 (srcs.foldl (fun a e =>
    a + (e.2.bias.toNat * 16 + e.2.fmt.toNat) * 2 ^ (10 * e.1)) 0) })

/-- The format of an operation (R196): the one code of its typed sources, which the operation accepts. A raw source is
none it requires; different codes are no format (subcause 2); a format is then accepted or not (subcause 1). The operand named is
the later of two that differ, and T where none is typed. (DEDUCED, log 45) -/
def vecFmt (acc : Nat → Bool) (srcs : List (Nat × Wide)) : Res Nat :=
  let typed := srcs.filter fun e => e.2.fmt != 0
  match typed with
  | [] => tagTrap 1 0 srcs
  | (k, x) :: _ =>
    match typed.find? (fun e => e.2.fmt == 12) with
    | some e => tagTrap 1 e.1 srcs
    | none =>
      match typed.find? (fun e => e.2.fmt != x.fmt) with
      | some e => tagTrap 2 e.1 srcs
      | none => if acc x.fmt.toNat then .ok x.fmt.toNat else tagTrap 1 k srcs

/-- The common bias of the typed sources (R196); the later of two that differ is named. (DEDUCED, log 45) -/
def commonBias (srcs : List (Nat × Wide)) : Res Int :=
  let typed := srcs.filter fun e => e.2.fmt != 0
  match typed with
  | [] => .ok 0
  | (_, x) :: _ =>
    match typed.find? (fun e => e.2.bias != x.bias) with
    | some e => tagTrap 3 e.1 srcs
    | none => .ok x.bias.toInt

/-- A result bias that must lie in −32 to 31 (R199, R201); the trap names O, which completes the sum. (DESIGN CHOICE, log 74) -/
def biasOk (b : Int) (srcs : List (Nat × Wide)) : Res Unit :=
  if -32 ≤ b ∧ b ≤ 31 then .ok () else tagTrap 3 (match srcs with | _ :: (k, _) :: _ => k | _ => 1) srcs

/-- A code of a source as it stands before it is read, for the range of the guard (R197); none while the place waits for a result,
which decides it (R127). -/
def State.codeAt (s : State) (r : Option Reg) (code : Nat) : Option Nat :=
  if r.any fun r => !(s.me.bank.pends r).isEmpty then none else some code

/-- The code of a source's tag before it is read; a broadcast scalar has none (R195). -/
def State.portTag (s : State) (port : BitVec 9) : Option Nat :=
  match s.readPort port with
  | some x => if x.kind = .vector then s.codeAt x.reg x.val.fmt.toNat else some 0
  | none => some 0

/-- The code of a latch's tag before it is read. -/
def State.latchTag (s : State) (unit : Nat) : Option Nat := s.codeAt (some (.ol unit)) (s.me.bank.getOL unit).fmt.toNat

/-- The first code that counts among those of the sources (R196); none while a source before it waits. -/
def firstCode (counts : Nat → Bool) : List (Option Nat) → Option Nat
  | [] => some 0
  | none :: _ => none
  | some k :: r => if counts k then some k else firstCode counts r

/-- The result latch of a vector unit (R194). -/
def vecLatch : VecUnit → Nat | .va => 0x10 | .vb => 0x11

/-- The code of T's, O's and L's tags, as far as the operation reads them. -/
def State.codes (s : State) (i : Instr) (u : VecUnit) (f : OpS) : List (Option Nat) :=
  s.portTag f.t :: (if i.shape.o = .none then [] else if f.ol then [s.latchTag u.unit] else [s.portTag f.o]) ++
    (if i.shape.readsL then [s.latchTag u.unit] else [])

/-- The range of a guard by the format of the elements (R197): the element count of the format; all 128 bits where no source is
typed, 16 for raw, and the first typed source's count where two differ, although no format exists then; and all bits
while a source waits for the result that brings the format. (DESIGN CHOICE, log 77) -/
def rangeOf (fmt : Option Nat) : Nat :=
  match fmt with
  | none => 128
  | some 0 => 128
  | some k => 1024 / fmtWidth k

/-- The frame of a vector operation (R194 to R198): encoding checks, the guard over elements 0 to range − 1, operands, fmode where
the operation rounds by it (R188), and the landing. (DEDUCED, log 70) -/
def State.vecOp (s : State) (i : Instr) (u : VecUnit) (f : OpS) (lat range : Nat) (act : VArgs → Res (List RegWrite))
    (rounds : Bool := false) : Res State :=
  inSlot u.slot do
    s.opens i
    let g := s.vguard f.g
    if g.toNat % 2 ^ range = 0 then pure s
    else do
      let t ← s.readT f.t
      let o ← if i.shape.o = .none then pure (srcS 0) else s.readO u.unit f
      let l ← if i.shape.readsL then s.readLatch u.unit else pure ({} : Wide)
      (if rounds then s.intact (.sp 15) else .ok () : Res Unit)
      let ws ← act ⟨t, o, l, g, s.me.bank.fmode, f.ol⟩
      pure (s.land u.slot u.unit lat ws)

/-- The range of a guard by the tags of the sources (R196, R197). -/
def State.fmtRange (s : State) (i : Instr) (u : VecUnit) (f : OpS) : Nat := rangeOf (firstCode (· != 0) (s.codes i u f))
/-- The range of a guard by the tag of T (R197). -/
def State.tRange (s : State) (f : OpS) : Nat := rangeOf (s.portTag f.t)

/-- An element-wise result (R197): false elements are zero in the latch and keep their contents in W. -/
def elemWrites (u : VecUnit) (wr : BitVec 6) (g : VPred) (w : Nat) (fmt : Nat) (bias : Int) (r : Nat → Nat) :
    List RegWrite :=
  let l := (List.range (1024 / w)).map fun i => if g.getLsbD i then r i else 0
  let v : Wide := { data := lanesOf w l, bias := BitVec.ofInt 6 bias, fmt := BitVec.ofNat 4 fmt }
  wrW (.rl (vecLatch u)) v :: ((wbV wr).toList.map fun x => { reg := x, val := v, mask := elemMask w g })

/-- One result that fills the latch and W whole (R197). -/
def wholeWrites (u : VecUnit) (wr : BitVec 6) (v : Wide) : List RegWrite :=
  wrW (.rl (vecLatch u)) v :: ((wbV wr).toList.map fun x => wrW x v)

/-- The operand number of O: 2 where it is the latch (R390, R391). -/
def VArgs.oNum (a : VArgs) : Nat := if a.ol then 2 else 1
/-- The sources T and O with their operand numbers. -/
def VArgs.two (a : VArgs) : List (Nat × Wide) := [(0, a.t.tagged), (a.oNum, a.o.tagged)]
/-- The sources T, O and L. -/
def VArgs.three (a : VArgs) : List (Nat × Wide) := [(0, a.t.tagged), (a.oNum, a.o.tagged), (2, a.l)]

/-- How an integer operation finds its result bias (R199). -/
inductive BiasRule | common | sum | sumW | ofT
  deriving DecidableEq, Repr

/-- The result bias by its rule, checked. -/
def BiasRule.bias (r : BiasRule) (a : VArgs) (w : Nat) : Res Int :=
  let t := a.t.tagged
  let o := a.o.tagged
  match r with
  | .common => commonBias a.two
  | .sum => do biasOk (t.b + o.b) a.two; pure (t.b + o.b)
  | .sumW => do biasOk (t.b + o.b + w) a.two; pure (t.b + o.b + w)
  | .ofT => .ok t.b

/-- An integer operation (R199): elements of width w, signedness of F, codes in. -/
def State.vint (s : State) (i : Instr) (u : VecUnit) (f : OpS) (r : BiasRule) (e : Nat → Nat → Nat → Nat → Nat) :
    Res State :=
  s.vecOp i u f 2 (s.fmtRange i u f) fun a => do
    let fm ← vecFmt fmtInt (if i.shape.o = .none then [(0, a.t.tagged)] else a.two)
    let w := fmtWidth fm
    let b ← r.bias a w
    pure (elemWrites u f.w a.g w fm b fun k => e fm w (a.t.elemAt w k) (a.o.elemAt w k))

/-- A raw value read as F reads it. -/
def rawInt (fm w x : Nat) : Int := if fmtSigned fm then signed w x else (x : Int)

/-- vadd: sums modulo 2^w (R199). -/
def opVadd (u : VecUnit) (f : OpS) (s : State) : Res State :=
  s.vint (.vadd u f) u f .common (fun _ w a b => (a + b) % 2 ^ w)
/-- vadd (R199). -/
def execVadd (u : VecUnit) (f : OpS) (s : State) : Host.Outcome State Fault Refusal := settle s (opVadd u f s)

/-- vsub: differences modulo 2^w (R199). -/
def opVsub (u : VecUnit) (f : OpS) (s : State) : Res State :=
  s.vint (.vsub u f) u f .common (fun _ w a b => wrap w ((a : Int) - b))
/-- vsub (R199). -/
def execVsub (u : VecUnit) (f : OpS) (s : State) : Host.Outcome State Fault Refusal := settle s (opVsub u f s)

/-- vmul: low halves of products (R199). -/
def opVmul (u : VecUnit) (f : OpS) (s : State) : Res State :=
  s.vint (.vmul u f) u f .sum (fun _ w a b => a * b % 2 ^ w)
/-- vmul (R199). -/
def execVmul (u : VecUnit) (f : OpS) (s : State) : Host.Outcome State Fault Refusal := settle s (opVmul u f s)

/-- vmulh: high halves of products, signed or unsigned by F (R199). -/
def opVmulh (u : VecUnit) (f : OpS) (s : State) : Res State :=
  s.vint (.vmulh u f) u f .sumW (fun fm w a b => wrap w (rawInt fm w a * rawInt fm w b / (2 ^ w : Nat)))
/-- vmulh (R199). -/
def execVmulh (u : VecUnit) (f : OpS) (s : State) : Host.Outcome State Fault Refusal := settle s (opVmulh u f s)

/-- vmin: lesser, read as signed (R199). -/
def opVmin (u : VecUnit) (f : OpS) (s : State) : Res State :=
  s.vint (.vmin u f) u f .common (fun _ w a b => if signed w a ≤ signed w b then a else b)
/-- vmin (R199). -/
def execVmin (u : VecUnit) (f : OpS) (s : State) : Host.Outcome State Fault Refusal := settle s (opVmin u f s)

/-- vmax: greater, read as signed (R199). -/
def opVmax (u : VecUnit) (f : OpS) (s : State) : Res State :=
  s.vint (.vmax u f) u f .common (fun _ w a b => if signed w a ≤ signed w b then b else a)
/-- vmax (R199). -/
def execVmax (u : VecUnit) (f : OpS) (s : State) : Host.Outcome State Fault Refusal := settle s (opVmax u f s)

/-- vminn: lesser, read as unsigned (R199). -/
def opVminn (u : VecUnit) (f : OpS) (s : State) : Res State :=
  s.vint (.vminn u f) u f .common (fun _ _ a b => if a ≤ b then a else b)
/-- vminn (R199). -/
def execVminn (u : VecUnit) (f : OpS) (s : State) : Host.Outcome State Fault Refusal := settle s (opVminn u f s)

/-- vmaxn: greater, read as unsigned (R199). -/
def opVmaxn (u : VecUnit) (f : OpS) (s : State) : Res State :=
  s.vint (.vmaxn u f) u f .common (fun _ _ a b => if a ≤ b then b else a)
/-- vmaxn (R199). -/
def execVmaxn (u : VecUnit) (f : OpS) (s : State) : Host.Outcome State Fault Refusal := settle s (opVmaxn u f s)

/-- The element width of a bitwise operation (R200): of the first source that is typed and not raw, T where T and O differ; 64 bits
where none is; none while a source that decides it waits. (DESIGN CHOICE, log 77) -/
def State.bitWidth (s : State) (i : Instr) (u : VecUnit) (f : OpS) : Option Nat :=
  (firstCode (fun k => k != 0 && k != 12) (s.codes i u f)).map fun k => if k = 0 then 64 else fmtWidth k

/-- A bitwise operation on all 1,024 bits, tags unchecked (R200). (DEDUCED, log 47; DESIGN CHOICE, log 77) -/
def State.vbit (s : State) (i : Instr) (u : VecUnit) (f : OpS) (e : Nat → Nat → Nat) : Res State :=
  let w := (s.bitWidth i u f).getD 8
  s.vecOp i u f 2 (1024 / w) fun a =>
    let tag := if a.t.tagged.fmt ≠ 0 then a.t.tagged else a.o.tagged
    .ok (elemWrites u f.w a.g w tag.fmt.toNat tag.bias.toInt fun k => e (a.t.elemAt w k) (a.o.elemAt w k))

/-- vand: bitwise and (R200). -/
def opVand (u : VecUnit) (f : OpS) (s : State) : Res State :=
  s.vbit (.vand u f) u f (fun a b => a &&& b)
/-- vand (R200). -/
def execVand (u : VecUnit) (f : OpS) (s : State) : Host.Outcome State Fault Refusal := settle s (opVand u f s)

/-- vor: bitwise or (R200). -/
def opVor (u : VecUnit) (f : OpS) (s : State) : Res State :=
  s.vbit (.vor u f) u f (fun a b => a ||| b)
/-- vor (R200). -/
def execVor (u : VecUnit) (f : OpS) (s : State) : Host.Outcome State Fault Refusal := settle s (opVor u f s)

/-- vxor: bitwise exclusive or (R200). -/
def opVxor (u : VecUnit) (f : OpS) (s : State) : Res State :=
  s.vbit (.vxor u f) u f (fun a b => a ^^^ b)
/-- vxor (R200). -/
def execVxor (u : VecUnit) (f : OpS) (s : State) : Host.Outcome State Fault Refusal := settle s (opVxor u f s)

/-- vandn: and with the complement of O (R200). -/
def opVandn (u : VecUnit) (f : OpS) (s : State) : Res State :=
  s.vbit (.vandn u f) u f (fun a b => a ^^^ (a &&& b))
/-- vandn (R200). -/
def execVandn (u : VecUnit) (f : OpS) (s : State) : Host.Outcome State Fault Refusal := settle s (opVandn u f s)

/-- vshl: left shift by the low bits of O (R199). -/
def opVshl (u : VecUnit) (f : OpS) (s : State) : Res State :=
  s.vint (.vshl u f) u f .ofT (fun _ w a b => a * 2 ^ (b % w) % 2 ^ w)
/-- vshl (R199). -/
def execVshl (u : VecUnit) (f : OpS) (s : State) : Host.Outcome State Fault Refusal := settle s (opVshl u f s)

/-- vshr: right shift, zeros in (R199). -/
def opVshr (u : VecUnit) (f : OpS) (s : State) : Res State :=
  s.vint (.vshr u f) u f .ofT (fun _ w a b => a / 2 ^ (b % w))
/-- vshr (R199). -/
def execVshr (u : VecUnit) (f : OpS) (s : State) : Host.Outcome State Fault Refusal := settle s (opVshr u f s)

/-- vsra: right shift, copies of the top bit in (R199). -/
def opVsra (u : VecUnit) (f : OpS) (s : State) : Res State :=
  s.vint (.vsra u f) u f .ofT (fun _ w a b => wrap w (signed w a / (2 ^ (b % w) : Nat)))
/-- vsra (R199). -/
def execVsra (u : VecUnit) (f : OpS) (s : State) : Host.Outcome State Fault Refusal := settle s (opVsra u f s)

/-- vabs: absolute value, wrapping (R199). -/
def opVabs (u : VecUnit) (f : OpS) (s : State) : Res State :=
  s.vint (.vabs u f) u f .ofT (fun fm w a _ => if fmtSigned fm then wrap w (signed w a).natAbs else a)
/-- vabs (R199). -/
def execVabs (u : VecUnit) (f : OpS) (s : State) : Host.Outcome State Fault Refusal := settle s (opVabs u f s)

/-- vadds: saturating sum (R199). -/
def opVadds (u : VecUnit) (f : OpS) (s : State) : Res State :=
  s.vint (.vadds u f) u f .common (fun fm w a b => saturate fm (rawInt fm w a + rawInt fm w b))
/-- vadds (R199). -/
def execVadds (u : VecUnit) (f : OpS) (s : State) : Host.Outcome State Fault Refusal := settle s (opVadds u f s)

/-- vsubs: saturating difference (R199). -/
def opVsubs (u : VecUnit) (f : OpS) (s : State) : Res State :=
  s.vint (.vsubs u f) u f .common (fun fm w a b => saturate fm (rawInt fm w a - rawInt fm w b))
/-- vsubs (R199). -/
def execVsubs (u : VecUnit) (f : OpS) (s : State) : Host.Outcome State Fault Refusal := settle s (opVsubs u f s)

/-- A floating operation of T and O under the common bias (R201). -/
def State.vfl2 (s : State) (i : Instr) (u : VecUnit) (f : OpS) (e : Nat → FVal → FVal → FVal) : Res State :=
  s.vecOp i u f 4 (s.fmtRange i u f) (rounds := true) fun a => do
    let fm ← vecFmt fmtIeee a.two
    let b ← commonBias a.two
    let w := fmtWidth fm
    pure (elemWrites u f.w a.g w fm b fun k =>
      fmtEncode fm b a.mode (e a.mode (fmtValue fm b (a.t.elemAt w k)) (fmtValue fm b (a.o.elemAt w k))))

/-- vfma and vfnma: product and L, rounded once; bT + bO must equal bL (R201). -/
def State.vfl3 (s : State) (i : Instr) (u : VecUnit) (f : OpS) (neg : Bool) : Res State :=
  s.vecOp i u f 4 (s.fmtRange i u f) (rounds := true) fun a => do
    let fm ← vecFmt fmtIeee a.three
    let b := a.t.tagged.b + a.o.tagged.b
    biasOk b a.three
    if a.l.fmt ≠ 0 ∧ a.l.bias.toInt ≠ b then tagTrap 3 2 a.three
    let w := fmtWidth fm
    pure (elemWrites u f.w a.g w fm b fun k =>
      let p := (fmtValue fm a.t.tagged.b (a.t.elemAt w k)).mul (fmtValue fm a.o.tagged.b (a.o.elemAt w k))
      let z := fmtValue fm b (elem w a.l.data k)
      fmtEncode fm b a.mode (FVal.add a.mode (if neg then p.neg else p) z))

/-- The lesser (or greater) value, a NaN ignored (R201). -/
def fvPick (greater : Bool) (x y : FVal) : FVal :=
  if x.isNan then y else if y.isNan then x
  else if greater then (if x.ltZ y then y else x) else (if y.ltZ x then y else x)

/-- vfadd: sum (R201). -/
def opVfadd (u : VecUnit) (f : OpS) (s : State) : Res State :=
  s.vfl2 (.vfadd u f) u f FVal.add
/-- vfadd (R201). -/
def execVfadd (u : VecUnit) (f : OpS) (s : State) : Host.Outcome State Fault Refusal := settle s (opVfadd u f s)

/-- vfsub: difference (R201). -/
def opVfsub (u : VecUnit) (f : OpS) (s : State) : Res State :=
  s.vfl2 (.vfsub u f) u f fun m x y => FVal.add m x y.neg
/-- vfsub (R201). -/
def execVfsub (u : VecUnit) (f : OpS) (s : State) : Host.Outcome State Fault Refusal := settle s (opVfsub u f s)

/-- vfmul: product, biases added (R201). -/
def opVfmul (u : VecUnit) (f : OpS) (s : State) : Res State :=
  s.vecOp (.vfmul u f) u f 4 (s.fmtRange (.vfmul u f) u f) (rounds := true) fun a => do
    let fm ← vecFmt fmtIeee a.two
    let b := a.t.tagged.b + a.o.tagged.b
    biasOk b a.two
    let w := fmtWidth fm
    pure (elemWrites u f.w a.g w fm b fun k =>
      fmtEncode fm b a.mode
        ((fmtValue fm a.t.tagged.b (a.t.elemAt w k)).mul (fmtValue fm a.o.tagged.b (a.o.elemAt w k))))
/-- vfmul (R201). -/
def execVfmul (u : VecUnit) (f : OpS) (s : State) : Host.Outcome State Fault Refusal := settle s (opVfmul u f s)

/-- vfma: T × O + L (R201). -/
def opVfma (u : VecUnit) (f : OpS) (s : State) : Res State :=
  s.vfl3 (.vfma u f) u f false
/-- vfma (R201). -/
def execVfma (u : VecUnit) (f : OpS) (s : State) : Host.Outcome State Fault Refusal := settle s (opVfma u f s)

/-- vfnma: L − T × O (R201). -/
def opVfnma (u : VecUnit) (f : OpS) (s : State) : Res State :=
  s.vfl3 (.vfnma u f) u f true
/-- vfnma (R201). -/
def execVfnma (u : VecUnit) (f : OpS) (s : State) : Host.Outcome State Fault Refusal := settle s (opVfnma u f s)

/-- vfmin: lesser (R201). -/
def opVfmin (u : VecUnit) (f : OpS) (s : State) : Res State :=
  s.vfl2 (.vfmin u f) u f fun _ x y => fvPick false x y
/-- vfmin (R201). -/
def execVfmin (u : VecUnit) (f : OpS) (s : State) : Host.Outcome State Fault Refusal := settle s (opVfmin u f s)

/-- vfmax: greater (R201). -/
def opVfmax (u : VecUnit) (f : OpS) (s : State) : Res State :=
  s.vfl2 (.vfmax u f) u f fun _ x y => fvPick true x y
/-- vfmax (R201). -/
def execVfmax (u : VecUnit) (f : OpS) (s : State) : Host.Outcome State Fault Refusal := settle s (opVfmax u f s)

/-- A transcendental operation: bias of T applied, result bias 0, latency 6 (R202). -/
def State.vtrans (s : State) (i : Instr) (u : VecUnit) (f : OpS) (op : Nat) : Res State :=
  s.vecOp i u f 6 (s.fmtRange i u f) (rounds := true) fun a => do
    let fm ← vecFmt fmtIeee [(0, a.t.tagged)]
    let w := fmtWidth fm
    pure (elemWrites u f.w a.g w fm 0 fun k => transcend op fm a.mode (a.t.elemAt w k) a.t.tagged.b)

/-- vrcp: 1/x (R202). -/
def opVrcp (u : VecUnit) (f : OpS) (s : State) : Res State :=
  s.vtrans (.vrcp u f) u f 0
/-- vrcp (R202). -/
def execVrcp (u : VecUnit) (f : OpS) (s : State) : Host.Outcome State Fault Refusal := settle s (opVrcp u f s)

/-- vrsq: 1/√x (R202). -/
def opVrsq (u : VecUnit) (f : OpS) (s : State) : Res State :=
  s.vtrans (.vrsq u f) u f 1
/-- vrsq (R202). -/
def execVrsq (u : VecUnit) (f : OpS) (s : State) : Host.Outcome State Fault Refusal := settle s (opVrsq u f s)

/-- vexp2: 2^x (R202). -/
def opVexp2 (u : VecUnit) (f : OpS) (s : State) : Res State :=
  s.vtrans (.vexp2 u f) u f 2
/-- vexp2 (R202). -/
def execVexp2 (u : VecUnit) (f : OpS) (s : State) : Host.Outcome State Fault Refusal := settle s (opVexp2 u f s)

/-- vlog2: log2 x (R202). -/
def opVlog2 (u : VecUnit) (f : OpS) (s : State) : Res State :=
  s.vtrans (.vlog2 u f) u f 3
/-- vlog2 (R202). -/
def execVlog2 (u : VecUnit) (f : OpS) (s : State) : Host.Outcome State Fault Refusal := settle s (opVlog2 u f s)

/-- vtanh: tanh x (R202). -/
def opVtanh (u : VecUnit) (f : OpS) (s : State) : Res State :=
  s.vtrans (.vtanh u f) u f 4
/-- vtanh (R202). -/
def execVtanh (u : VecUnit) (f : OpS) (s : State) : Host.Outcome State Fault Refusal := settle s (opVtanh u f s)

/-- An operand read as a scalar (R90). -/
def VArgs.os (a : VArgs) : Word := a.o.word

/-- vscale: each element times a power of two, in place of its format (R191). -/
def opVscale (u : VecUnit) (f : OpS) (s : State) : Res State :=
  s.vecOp (.vscale u f) u f 4 (s.tRange f) (rounds := true) fun a => do
    let t := a.t.tagged
    if t.fmt = 0 ∨ t.fmt = 12 then tagTrap 1 0 [(0, t)]
    else
      let fm := t.fmt.toNat
      let w := fmtWidth fm
      let n := signed 8 a.os.toNat
      pure (elemWrites u f.w a.g w fm t.bias.toInt fun k =>
        let c := a.t.elemAt w k
        if n = 0 then c else fmtEncode fm t.bias.toInt a.mode ((fmtValue fm t.bias.toInt c).scale n))
/-- vscale (R191). -/
def execVscale (u : VecUnit) (f : OpS) (s : State) : Host.Outcome State Fault Refusal := settle s (opVscale u f s)

/-- The new code of a vtag before O is read (R192); none while O waits for a result (R127). -/
def State.newCode (s : State) (u : VecUnit) (f : OpS) : Option Nat :=
  let code := fun (x : Word) => x.toNat % 16
  if f.ol then s.codeAt (some (.ol u.unit)) (code (s.me.bank.getOL u.unit).lo)
  else
    match s.readPort f.o with
    | some x => s.codeAt x.reg (code x.word)
    | none => some 0

/-- vtag: relabels a vector (R192); the guard acts on elements of the new format, of 64 bits where that is untyped, raw or
reserved. (DESIGN CHOICE, log 77) -/
def opVtag (u : VecUnit) (f : OpS) (s : State) : Res State :=
  s.vecOp (.vtag u f) u f 2 (match s.newCode u f with | some c => 1024 / fmtWidth c | none => 128) fun a =>
    let n := field a.os 0 4
    if 13 ≤ n then tagTrap 4 a.oNum [(0, a.t.tagged)]
    else
      let w := fmtWidth n
      .ok (elemWrites u f.w a.g w n (signed 6 (field a.os 4 6)) fun k => a.t.elemAt w k)
/-- vtag (R192). -/
def execVtag (u : VecUnit) (f : OpS) (s : State) : Host.Outcome State Fault Refusal := settle s (opVtag u f s)

/-- The elements of a vcvt (R190): element k of the destination. -/
def cvtElem (fm : Nat) (b : Int) (mode part : Nat) (t : Wide) (k : Nat) : Nat :=
  let ws := fmtWidth t.fmt.toNat
  let wd := fmtWidth fm
  let p := part % (max ws wd / min ws wd)
  let n := 1024 / max ws wd
  let conv := fun i => fmtEncode fm b mode (fmtValue t.fmt.toNat t.bias.toInt (elem ws t.data i))
  if wd ≤ ws then (if p * n ≤ k ∧ k < p * n + n then conv (k - p * n) else 0) else conv (p * n + k)

/-- vcvt: converts elements to a format; code 12 copies them as raw (R190), under a guard of 64-bit elements. (DESIGN CHOICE,
log 77) -/
def opVcvt (u : VecUnit) (fmt : BitVec 4) (f : OpS) (s : State) : Res State :=
  let w := fmtWidth fmt.toNat
  s.vecOp (.vcvt u fmt f) u f (if fmt = 12 then 2 else 4) (1024 / w) (rounds := fmt != 12) fun a =>
    let t := a.t.tagged
    if fmt = 12 then .ok (elemWrites u f.w a.g w 12 0 fun k => elem w t.data k)
    else if t.fmt = 0 ∨ t.fmt = 12 then tagTrap 1 0 [(0, t)]
    else
      let b := signed 6 (field a.os 0 6)
      .ok (elemWrites u f.w a.g w fmt.toNat b fun k => cvtElem fmt.toNat b a.mode (field a.os 8 2) t k)
/-- vcvt (R190). -/
def execVcvt (u : VecUnit) (fmt : BitVec 4) (f : OpS) (s : State) : Host.Outcome State Fault Refusal :=
  settle s (opVcvt u fmt f s)

/-- A format that lane operations accept: every typed one but raw (R204). -/
def laneFmt (c : Nat) : Bool := 1 ≤ c && c ≤ 11

/-- A lane operation of T: result elements from T's elements (R204), bits 7:6 of a t6 lane with them. (DESIGN CHOICE, log 77) -/
def State.vlane (s : State) (i : Instr) (u : VecUnit) (f : OpS) (e : VArgs → Nat → Nat → Nat → Nat) : Res State :=
  s.vecOp i u f 2 (s.tRange f) fun a => do
    let t := a.t.tagged
    let fm ← vecFmt laneFmt [(0, t)]
    let w := fmtWidth fm
    pure (elemWrites u f.w a.g w fm t.bias.toInt (e a (1024 / w) w))

/-- vsplat: every element is T.elem[O mod n] (R204). -/
def opVsplat (u : VecUnit) (f : OpS) (s : State) : Res State :=
  s.vlane (.vsplat u f) u f fun a n w _ => a.t.elemAt w (a.os.toNat % n)
/-- vsplat (R204). -/
def execVsplat (u : VecUnit) (f : OpS) (s : State) : Host.Outcome State Fault Refusal := settle s (opVsplat u f s)

/-- vins: T with one element replaced by O (R204). -/
def opVins (u : VecUnit) (f : OpS) (s : State) : Res State :=
  s.vlane (.vins u f) u f fun a n w k => if k = field a.l.data 0 7 % n then a.os.toNat % 2 ^ w else a.t.elemAt w k
/-- vins (R204). -/
def execVins (u : VecUnit) (f : OpS) (s : State) : Host.Outcome State Fault Refusal := settle s (opVins u f s)

/-- vext: one element, extended to 64 bits (R204); of a t6 lane bits 5:0 (R182). -/
def opVext (u : VecUnit) (f : OpS) (s : State) : Res State :=
  s.vecOp (.vext u f) u f 2 1 fun a => do
    let fm ← vecFmt laneFmt [(0, a.t.tagged)]
    let w := fmtWidth fm
    let x := a.t.elemAt w (a.os.toNat % (1024 / w))
    let y := if fm = 11 then x % 64 else x
    pure (wholeWrites u f.w { data := (BitVec.ofInt 64 (rawInt fm w y)).setWidth 1024 })
/-- vext (R204). -/
def execVext (u : VecUnit) (f : OpS) (s : State) : Host.Outcome State Fault Refusal := settle s (opVext u f s)

/-- vperm: elements of T picked by the bytes of O (R204). -/
def opVperm (u : VecUnit) (f : OpS) (s : State) : Res State :=
  s.vlane (.vperm u f) u f fun a n w k => a.t.elemAt w (a.o.elemAt 8 k % n)
/-- vperm (R204). -/
def execVperm (u : VecUnit) (f : OpS) (s : State) : Host.Outcome State Fault Refusal := settle s (opVperm u f s)

/-- vrot: elements move toward element 0 by O (R204). -/
def opVrot (u : VecUnit) (f : OpS) (s : State) : Res State :=
  s.vlane (.vrot u f) u f fun a n w k => a.t.elemAt w ((k + a.os.toNat) % n)
/-- vrot (R204). -/
def execVrot (u : VecUnit) (f : OpS) (s : State) : Host.Outcome State Fault Refusal := settle s (opVrot u f s)

/-- vsel: T or O by the bits of L (R204). -/
def opVsel (u : VecUnit) (f : OpS) (s : State) : Res State :=
  s.vecOp (.vsel u f) u f 2 (rangeOf (firstCode (· != 0) [s.portTag f.t, s.portTag f.o])) fun a => do
    let fm ← vecFmt laneFmt a.two
    let b ← commonBias a.two
    let w := fmtWidth fm
    pure (elemWrites u f.w a.g w fm b fun k => if a.l.data.getLsbD k then a.t.elemAt w k else a.o.elemAt w k)
/-- vsel (R204). -/
def execVsel (u : VecUnit) (f : OpS) (s : State) : Host.Outcome State Fault Refusal := settle s (opVsel u f s)

/-- vcomp: the guarded elements of T packed from element 0 (R204). -/
def opVcomp (u : VecUnit) (f : OpS) (s : State) : Res State :=
  s.vecOp (.vcomp u f) u f 2 (s.tRange f) fun a => do
    let t := a.t.tagged
    let fm ← vecFmt laneFmt [(0, t)]
    let w := fmtWidth fm
    let l := ((List.range (1024 / w)).filter fun k => a.g.getLsbD k).map fun k => a.t.elemAt w k
    pure (wholeWrites u f.w { t with data := lanesOf w l })
/-- vcomp (R204). -/
def execVcomp (u : VecUnit) (f : OpS) (s : State) : Host.Outcome State Fault Refusal := settle s (opVcomp u f s)

/-- One level of the summation tree (R206). -/
def sumLevel (mode : Nat) : List (Option FVal) → List (Option FVal)
  | x :: y :: r =>
    (match x, y with
      | some a, some b => some (ieeeValue 9 (encodeIeee 9 mode (FVal.add mode a b)))
      | some a, none => some a
      | none, z => z) :: sumLevel mode r
  | l => l

/-- The root of the summation tree of 2^d nodes (R206). -/
def sumTree (mode : Nat) : Nat → List (Option FVal) → Option FVal
  | 0, l => l.head?.join
  | d + 1, l => sumTree mode d (sumLevel mode l)

/-- A reduction of the guarded elements of T (R205). -/
def State.vred (s : State) (i : Instr) (u : VecUnit) (f : OpS) (lat : Nat)
    (act : VArgs → Nat → List (Nat × Nat) → Wide) (rounds : Bool := false) : Res State :=
  s.vecOp i u f lat (s.tRange f) (rounds := rounds) fun a => do
    let fm ← vecFmt laneFmt [(0, a.t.tagged)]
    let w := fmtWidth fm
    let l := ((List.range (1024 / w)).filter fun k => a.g.getLsbD k).map fun k => (k, a.t.elemAt w k)
    pure (wholeWrites u f.w (act a fm l))

/-- The order of elements in vmaxr and vargmax: none for NaN and NaR (R205). -/
def orderVal (fm c : Nat) : Option FVal :=
  let v := fmtValue fm 0 c
  if v.isNan then none else some v

/-- The first greatest element with its index (R205). -/
def greatest (fm : Nat) (l : List (Nat × Nat)) : Option (Nat × Nat) :=
  l.foldl (fun best e =>
    match orderVal fm e.2, best with
    | none, b => b
    | some _, none => some e
    | some v, some b => match orderVal fm b.2 with
      | some z => if z.ltZ v then some e else best
      | none => some e) none

/-- The code of a format's NaN (R205). -/
def nanCode (fm : Nat) : Nat := if fmtIeee fm then ieeeNan fm else 2 ^ (taperedBits fm - 1)

/-- A result in element 0 or bits 63:0, all other bits 0. -/
def lowWide (v : Nat) : Wide := { data := BitVec.ofNat 1024 v }

/-- vsum: the sum of the guarded elements (R205, R206); fmode is read where it rounds. -/
def opVsum (u : VecUnit) (f : OpS) (s : State) : Res State :=
  s.vred (.vsum u f) u f 8 (rounds := !(s.portTag f.t).any fmtInt) fun a fm l =>
    if fmtInt fm then lowWide (wrap 64 (l.foldl (fun (x : Int) e => x + rawInt fm (fmtWidth fm) e.2) 0))
    else
      let b : Int := if fmtIeee fm then 0 else a.t.tagged.bias.toInt
      let n := 1024 / fmtWidth fm
      let nodes := (List.range n).map fun k => (l.find? fun e => e.1 == k).map fun e => fmtValue fm b e.2
      let r := (sumTree a.mode (Nat.log2 n) nodes).getD (.fin false 0 0)
      { lowWide (encodeIeee 9 a.mode r) with fmt := 9, bias := if fmtIeee fm then a.t.tagged.bias else 0 }
/-- vsum (R205). -/
def execVsum (u : VecUnit) (f : OpS) (s : State) : Host.Outcome State Fault Refusal := settle s (opVsum u f s)

/-- vmaxr: the greatest guarded element (R205), bits 7:6 of a t6 lane with it. (DESIGN CHOICE, log 77) -/
def opVmaxr (u : VecUnit) (f : OpS) (s : State) : Res State :=
  s.vred (.vmaxr u f) u f 4 fun a fm l =>
    { a.t.tagged with data := BitVec.ofNat 1024 (match greatest fm l with | some e => e.2 | none => nanCode fm) }
/-- vmaxr (R205). -/
def execVmaxr (u : VecUnit) (f : OpS) (s : State) : Host.Outcome State Fault Refusal := settle s (opVmaxr u f s)

/-- vargmax: the lowest index of the greatest guarded element (R205). -/
def opVargmax (u : VecUnit) (f : OpS) (s : State) : Res State :=
  s.vred (.vargmax u f) u f 4 fun _ fm l =>
    lowWide (match greatest fm l with | some e => e.1 | none => 2 ^ 64 - 1)
/-- vargmax (R205). -/
def execVargmax (u : VecUnit) (f : OpS) (s : State) : Host.Outcome State Fault Refusal := settle s (opVargmax u f s)

/-- The constants A and S of the mixing rounds (R207). -/
def rngA (j : Nat) : Word :=
  match j with
  | 0 => 0x5A3C91E70D4B26F1 | 1 => 0xB17E4C0593A86E2D | 2 => 0x2F96D8B341C70A59 | _ => 0xE40B7A6D1F35C893
/-- The shift of a mixing round (R207). -/
def rngS (j : Nat) : Nat := match j with | 0 => 29 | 1 => 32 | 2 => 27 | _ => 31
/-- Mix: four rounds modulo 2^64 (R207). -/
def rngMix (key c : Word) : Word :=
  (List.range 4).foldl (fun x j =>
    let y := (x + key + rngA j) * 0xC3A57F295E1B4D87
    y ^^^ (y >>> rngS j)) c

/-- vrng: sixteen words from a counter T and a key O (R207). -/
def opVrng (u : VecUnit) (f : OpS) (s : State) : Res State :=
  s.vecOp (.vrng u f) u f 4 16 fun a =>
    .ok (elemWrites u f.w a.g 64 0 0 fun j => (rngMix a.os (a.t.word + BitVec.ofNat 64 j)).toNat)
/-- vrng (R207). -/
def execVrng (u : VecUnit) (f : OpS) (s : State) : Host.Outcome State Fault Refusal := settle s (opVrng u f s)

/-- Floor(2^(n/256)): the greatest y with y^256 ≤ 2^n, bit by bit (R208). -/
def root256 (n : Nat) : Nat → Nat → Nat
  | 0, y => y
  | k + 1, y => let z := y + 2 ^ k; root256 n k (if z ^ 256 ≤ 2 ^ n then z else y)

/-- A value rounded to the nearest integer, ties to even (R208). -/
def roundInt (x : FVal) : Int :=
  match x with
  | .fin neg m e => let q : Int := roundMag 0 neg m e; if neg then -q else q
  | _ => 0

/-- The weight of a logit under the greatest one, m finite or +∞ (R208). -/
def sampleWeight (m x : FVal) : Nat :=
  match m, x with
  | .inf _, .inf false => 2 ^ 32
  | .inf _, _ => 0
  | _, .inf _ => 0
  | _, _ =>
    let q := roundInt ((FVal.add 0 x m.neg).scale 8)
    if q < -8192 then 0 else root256 (8192 + q).toNat 33 0

/-- The first index whose running sum of weights passes the threshold (R208). -/
def sampleScan (thr : Nat) : Nat → List (Nat × Nat) → Nat
  | _, [] => 2 ^ 64 - 1
  | acc, (i, w) :: r => if thr < acc + w then i else sampleScan thr (acc + w) r

/-- The draw (R208): indexes and values of the active elements, and U. -/
def sampleDraw (l : List (Nat × FVal)) (u : Nat) : Nat :=
  let act := l.filter fun e => !e.2.isNan
  match act with
  | [] => 2 ^ 64 - 1
  | (_, x) :: r =>
    let m := r.foldl (fun (m : FVal) e => if m.lt e.2 then e.2 else m) x
    if m = .inf true then 2 ^ 64 - 1
    else
      let wt := act.map fun e => (e.1, sampleWeight m e.2)
      let tot := wt.foldl (fun a e => a + e.2) 0
      sampleScan (u * tot / 2 ^ 32) 0 wt

/-- vsample: draws an index from base-2 logits (R208). -/
def opVsample (u : VecUnit) (f : OpS) (s : State) : Res State :=
  s.vecOp (.vsample u f) u f 8 (s.tRange f) fun a => do
    let fm ← vecFmt fmtIeee [(0, a.t.tagged)]
    let w := fmtWidth fm
    let l := ((List.range (1024 / w)).filter fun k => a.g.getLsbD k).map fun k =>
      (k, fmtValue fm a.t.tagged.b (a.t.elemAt w k))
    pure (wholeWrites u f.w (lowWide (sampleDraw l (a.os.toNat / 2 ^ 32))))
/-- vsample (R208). -/
def execVsample (u : VecUnit) (f : OpS) (s : State) : Host.Outcome State Fault Refusal := settle s (opVsample u f s)

/-- A vector-predicate operation: bits 127:0, the rest 0, untyped (R209). -/
def State.vpOp (s : State) (i : Instr) (u : VecUnit) (f : OpS) (r : VPred → VPred → VPred → Nat) : Res State :=
  s.vecOp i u f 2 128 fun a => .ok (wholeWrites u f.w (lowWide (r a.t.vec a.o.vec a.g)))

/-- vpand: Vec(T) and Vec(O), under the guard (R209). -/
def opVpand (u : VecUnit) (f : OpS) (s : State) : Res State :=
  s.vpOp (.vpand u f) u f fun t o g => ((t &&& o) &&& g).toNat
/-- vpand (R209). -/
def execVpand (u : VecUnit) (f : OpS) (s : State) : Host.Outcome State Fault Refusal := settle s (opVpand u f s)

/-- vpor: Vec(T) or Vec(O), under the guard (R209). -/
def opVpor (u : VecUnit) (f : OpS) (s : State) : Res State :=
  s.vpOp (.vpor u f) u f fun t o g => ((t ||| o) &&& g).toNat
/-- vpor (R209). -/
def execVpor (u : VecUnit) (f : OpS) (s : State) : Host.Outcome State Fault Refusal := settle s (opVpor u f s)

/-- vpxor: Vec(T) exclusive or Vec(O), under the guard (R209). -/
def opVpxor (u : VecUnit) (f : OpS) (s : State) : Res State :=
  s.vpOp (.vpxor u f) u f fun t o g => ((t ^^^ o) &&& g).toNat
/-- vpxor (R209). -/
def execVpxor (u : VecUnit) (f : OpS) (s : State) : Host.Outcome State Fault Refusal := settle s (opVpxor u f s)

/-- vpnot: the complement of Vec(T), under the guard (R209). -/
def opVpnot (u : VecUnit) (f : OpS) (s : State) : Res State :=
  s.vpOp (.vpnot u f) u f fun t _ g => (~~~t &&& g).toNat
/-- vpnot (R209). -/
def execVpnot (u : VecUnit) (f : OpS) (s : State) : Host.Outcome State Fault Refusal := settle s (opVpnot u f s)

/-- vpset: Vec(T) under the guard (R209). -/
def opVpset (u : VecUnit) (f : OpS) (s : State) : Res State :=
  s.vpOp (.vpset u f) u f fun t _ g => (t &&& g).toNat
/-- vpset (R209). -/
def execVpset (u : VecUnit) (f : OpS) (s : State) : Host.Outcome State Fault Refusal := settle s (opVpset u f s)

/-- vpcnt: the number of one bits of Vec(T) under the guard (R209). -/
def opVpcnt (u : VecUnit) (f : OpS) (s : State) : Res State :=
  s.vpOp (.vpcnt u f) u f fun t _ g => popCount (t &&& g).toNat 128
/-- vpcnt (R209). -/
def execVpcnt (u : VecUnit) (f : OpS) (s : State) : Host.Outcome State Fault Refusal := settle s (opVpcnt u f s)

/-- The formats a compare accepts (R203). -/
def cmpFmt (c k : Nat) : Bool := if 5 ≤ c then fmtIeee k else if c < 2 then fmtInt k || k == 10 || k == 11 else fmtInt k

/-- The condition of a compare on two codes of width w, and on their values (R203). t6 lanes compare by their low six
bits (R182). -/
def vecCond (c fm w : Nat) (bt bo : Int) (x y : Nat) : Bool :=
  let m := if fm = 11 then 64 else 2 ^ w
  match c with
  | 0 => x % m == y % m
  | 1 => x % m != y % m
  | 2 => decide (signed w x < signed w y)
  | 3 => decide (signed w x ≤ signed w y)
  | 4 => decide (x < y)
  | 5 => (fmtValue fm bt x).eq (fmtValue fm bo y)
  | 6 => (fmtValue fm bt x).lt (fmtValue fm bo y)
  | _ => (fmtValue fm bt x).lt (fmtValue fm bo y) || (fmtValue fm bt x).eq (fmtValue fm bo y)

/-- A compare (R203): elements of ones or zeros, and the predicate pair with them. -/
def State.vcmp (s : State) (i : Instr) (c : Nat) (u : VecUnit) (k : BitVec 3) (f : OpS) : Res State :=
  s.vecOp i u f 2 (s.fmtRange i u f) fun a => do
    let fm ← vecFmt (cmpFmt c) a.two
    let cb ← if c < 5 then commonBias a.two else pure 0
    let t := a.t.tagged
    let o := a.o.tagged
    let bt := if c < 5 then cb else if t.fmt = 0 then o.b else t.b
    let bo := if c < 5 then cb else if o.fmt = 0 then t.b else o.b
    let w := fmtWidth fm
    let n := 1024 / w
    let cond := fun i => vecCond c fm w bt bo (a.t.elemAt w i) (a.o.elemAt w i)
    let bits := fun (v : Bool) => BitVec.ofNat 128 ((List.range n).foldl (fun x i =>
      if a.g.getLsbD i && cond i == v then x + 2 ^ i else x) 0)
    pure (elemWrites u f.w a.g w 0 0 (fun i => if cond i then 2 ^ w - 1 else 0) ++
      vpredPair k.toNat (bits true) (bits false))

/-- vceq: bit patterns equal (R203). -/
def opVceq (u : VecUnit) (k : BitVec 3) (f : OpS) (s : State) : Res State := s.vcmp (.vceq u k f) 0 u k f
/-- vceq (R203). -/
def execVceq (u : VecUnit) (k : BitVec 3) (f : OpS) (s : State) : Host.Outcome State Fault Refusal :=
  settle s (opVceq u k f s)

/-- vcne: bit patterns differ (R203). -/
def opVcne (u : VecUnit) (k : BitVec 3) (f : OpS) (s : State) : Res State := s.vcmp (.vcne u k f) 1 u k f
/-- vcne (R203). -/
def execVcne (u : VecUnit) (k : BitVec 3) (f : OpS) (s : State) : Host.Outcome State Fault Refusal :=
  settle s (opVcne u k f s)

/-- vclt: less, signed (R203). -/
def opVclt (u : VecUnit) (k : BitVec 3) (f : OpS) (s : State) : Res State := s.vcmp (.vclt u k f) 2 u k f
/-- vclt (R203). -/
def execVclt (u : VecUnit) (k : BitVec 3) (f : OpS) (s : State) : Host.Outcome State Fault Refusal :=
  settle s (opVclt u k f s)

/-- vcle: less or equal, signed (R203). -/
def opVcle (u : VecUnit) (k : BitVec 3) (f : OpS) (s : State) : Res State := s.vcmp (.vcle u k f) 3 u k f
/-- vcle (R203). -/
def execVcle (u : VecUnit) (k : BitVec 3) (f : OpS) (s : State) : Host.Outcome State Fault Refusal :=
  settle s (opVcle u k f s)

/-- vcltn: less, unsigned (R203). -/
def opVcltn (u : VecUnit) (k : BitVec 3) (f : OpS) (s : State) : Res State := s.vcmp (.vcltn u k f) 4 u k f
/-- vcltn (R203). -/
def execVcltn (u : VecUnit) (k : BitVec 3) (f : OpS) (s : State) : Host.Outcome State Fault Refusal :=
  settle s (opVcltn u k f s)

/-- vfceq: values equal (R203). -/
def opVfceq (u : VecUnit) (k : BitVec 3) (f : OpS) (s : State) : Res State := s.vcmp (.vfceq u k f) 5 u k f
/-- vfceq (R203). -/
def execVfceq (u : VecUnit) (k : BitVec 3) (f : OpS) (s : State) : Host.Outcome State Fault Refusal :=
  settle s (opVfceq u k f s)

/-- vfclt: value less (R203). -/
def opVfclt (u : VecUnit) (k : BitVec 3) (f : OpS) (s : State) : Res State := s.vcmp (.vfclt u k f) 6 u k f
/-- vfclt (R203). -/
def execVfclt (u : VecUnit) (k : BitVec 3) (f : OpS) (s : State) : Host.Outcome State Fault Refusal :=
  settle s (opVfclt u k f s)

/-- vfcle: value less or equal (R203). -/
def opVfcle (u : VecUnit) (k : BitVec 3) (f : OpS) (s : State) : Res State := s.vcmp (.vfcle u k f) 7 u k f
/-- vfcle (R203). -/
def execVfcle (u : VecUnit) (k : BitVec 3) (f : OpS) (s : State) : Host.Outcome State Fault Refusal :=
  settle s (opVfcle u k f s)

end Sys2Proof.Machine
end

