-- ==== Sys2Proof/Machine/Engine.lean ====
section
/-! DEFINITION. The engine command queues and the unit ec (R265 to R284). -/

namespace Sys2Proof.Machine

/-- N, the entries of a queue's ring (R265): LSZ 10 to 15 count as 9. -/
def eqSize (cfg : Word) : Nat := 2 ^ (min (field cfg 59 4) 9 + 3)
/-- BASE (R265). -/
def eqBase (cfg : Word) : Nat := field cfg 12 27 * 4096
/-- EN as it reads (R265). -/
def eqEn (cfg : Word) : Bool := cfg.getLsbD 63

/-- Queue q of a core. -/
def State.eq (s : State) (core q : Nat) : EngQ := Tab.get {} (s.core core).eq q
/-- Replace a queue. -/
def State.setEq (s : State) (core q : Nat) (x : EngQ) : State := s.modCore core fun k => { k with eq := Tab.set k.eq q x }
/-- Change a queue. -/
def State.modEq (s : State) (core q : Nat) (f : EngQ → EngQ) : State := s.setEq core q (f (s.eq core q))
/-- A 64-bit word of physical memory read under no slot (R265, R312). -/
def State.physWord (s : State) (pa : Nat) : Word := ofBytes 64 ((s.homeReads hwAcc pa 8).map (·.1))
/-- WIDX (R266). -/
def State.widx (s : State) (core q : Nat) : Nat := (s.physWord (eqBase (s.eq core q).cfg)).toNat
/-- RIDX (R266). -/
def State.ridx (s : State) (core q : Nat) : Nat := (s.physWord (eqBase (s.eq core q).cfg + 8)).toNat
/-- The physical address of entry i (R266). -/
def entryAddr (cfg : Word) (i : Nat) : Nat := eqBase cfg + 128 + 64 * (i % eqSize cfg)

/-- Header fields of a packet (R269). -/
def pkCmd (p : Packet64) : Nat := field p 32 4
/-- The fields a trigger replaces at issue (R272): CMD, RM, SLOT, GEN, CTX, CTXV; LAP, STAT and PROM are 0. -/
def formPacket (p : Packet64) (cmd fmode : Nat) (slot : BitVec 4) (gen : BitVec 12) (ctx : Nat) : Packet64 :=
  let keep : Packet64 := ~~~(BitVec.ofNat 512 (maskBits 64 64 + maskBits 45 19 + maskBits 40 4 + maskBits 36 2 +
    maskBits 32 4 + maskBits 29 3))
  (p &&& keep) ||| BitVec.ofNat 512 (cmd * 2 ^ 32 + fmode * 2 ^ 36 + 2 ^ 45 + ctx * 2 ^ 46 + slot.toNat * 2 ^ 48 +
    gen.toNat * 2 ^ 52)

/-- The body bits a command names (R277 to R283). -/
def bodyMask (cmd : Nat) : Nat :=
  match cmd with
  | 1 => maskBits 128 60 + maskBits 192 57 + maskBits 256 56 + maskBits 320 128
  | 2 => maskBits 128 56 + maskBits 192 56 + maskBits 256 58 + maskBits 320 48 + maskBits 384 60 + maskBits 448 20
  | 3 => maskBits 128 56 + maskBits 256 32
  | 4 => maskBits 128 57 + maskBits 256 32
  | 5 => maskBits 128 8
  | 6 => maskBits 128 56 + maskBits 192 56 + maskBits 256 56 + maskBits 320 39 + maskBits 384 32
  | 7 => maskBits 128 56 + maskBits 256 32
  | _ => 0

/-- A signed 32-bit field of a packet. -/
def pkS (p : Packet64) (lo : Nat) : Int := signed 32 (field p lo 32)

/-- A cpy's scratchpad range leaves the scratchpad (R277). -/
def cpyLeaves (base : Nat) (n1 n2 n0e : Nat) (s1 s2 : Int) : Bool :=
  n0e != 0 && (decide ((base : Int) + min 0 (n1 * s1) + min 0 (n2 * s2) < 0) ||
    decide ((2 : Int) ^ 20 < (base : Int) + max 0 (n1 * s1) + max 0 (n2 * s2) + n0e))

/-- A body field outside the range its command states (R277 to R283). -/
def bodyBad (p : Packet64) : Bool :=
  match pkCmd p with
  | 1 =>
    let ez := field p 185 3
    let e := 2 ^ ez
    let src := field p 128 56
    let dst := field p 192 56
    let n0e := field p 256 24 * e
    let n1 := field p 280 16
    let n2 := field p 296 16
    decide (4 < ez) || decide (src % e ≠ 0) || decide (dst % e ≠ 0) ||
      [320, 352, 384, 416].any (fun lo => decide (pkS p lo % e ≠ 0)) ||
      (p.getLsbD 184 && cpyLeaves src n1 n2 n0e (pkS p 320) (pkS p 384)) ||
      (p.getLsbD 248 && cpyLeaves dst n1 n2 n0e (pkS p 352) (pkS p 416))
  | 2 =>
    let v := 2 ^ field p 312 2
    let cap := field p 448 20
    decide (field p 384 20 % 4 ≠ 0) || decide (field p 404 20 % v ≠ 0) || decide (field p 424 20 % 4 ≠ 0) ||
      decide (2 ^ 20 < field p 384 20 + 4 * cap) || decide (2 ^ 20 < field p 404 20 + v * cap) ||
      decide (2 ^ 20 < field p 424 20 + 4 * (field p 352 16 + 1))
  | 4 =>
    p.getLsbD 184 && (decide (2 ^ 20 ≤ field p 128 56) ||
      (field p 256 32 != 0 && decide (2 ^ 20 < field p 128 56 + field p 256 32)))
  | 6 =>
    !(field p 352 4 == 5 || field p 352 4 == 7 || field p 352 4 == 9) || field p 356 2 == 3
  | _ => false

/-- A malformed packet (R269, R271). -/
def packetBad (p : Packet64) : Bool :=
  pkCmd p == 0 || decide (8 ≤ pkCmd p) || p.getLsbD 44 || p.getLsbD 39 || p.getLsbD 38 || p.getLsbD 28 ||
  (p &&& ~~~(BitVec.ofNat 512 (maskBits 0 128 + bodyMask (pkCmd p)))) != 0 || bodyBad p

/-- Reservations of a queue in a list of release entries (R273). -/
def reserved (q : Nat) (l : List RelItem) : Nat :=
  (l.filter fun x => match x.body with | .engine p _ => p.toNat == q | _ => false).length

/-- A context's reservations of a queue (R273). -/
def Ctx.reserved (c : Ctx) (q : Nat) : Nat :=
  Machine.reserved q c.rel + (c.path.map fun p => Machine.reserved q p.step2).sum

/-- The kind of limit of ec pushes in a pitch. -/
def limEc : Nat := 3

/-- A push (R272 to R274): the packet, its check, the queue's state, and the promise. A queue that still reads EN = 1 takes it
(R265, R268). (DEDUCED, log 51) -/
def State.ecPush (s : State) (i : Instr) (cmd : Nat) (q : BitVec 3) (f : OpM) : Res State :=
  inSlot 2 do
    s.opens i
    let s0 ← s.limit limEc 16 11
    if !s.guard f.g then pure s0
    else do
      let t ← s.readT f.t
      s.intact (.sp 15)
      let core := s.cur.core
      let p := formPacket (t.val.data.setWidth 512) cmd s.me.bank.fmode (s.coreSlot core) (s.coreGen core) s.cur.ctx
      if packetBad p then raise 4 0 11
      let x := s.eq core q.toNat
      if !eqEn x.cfg then raise 10 0 11
      let n := eqSize x.cfg
      if n ≤ s.me.reserved q.toNat then raise 10 0 11
      let all := ((List.range 4).map fun k => (s.ctx (4 * core + k)).reserved q.toNat).sum
      if n ≤ s.widx core q.toNat - s.ridx core q.toNat + all then blockAt .fullQueue
      let (tok, s1) := s0.newTok
      pure ((s1.pendOn (.rl 8 :: (s.wbS f.w).toList) tok 11 true).addRel tok 11 (.engine q p))

/-- cpy (R272, R277). -/
def opCpy (q : BitVec 3) (f : OpM) (s : State) : Res State := s.ecPush (.cpy q f) 1 q f
/-- cpy (R272). -/
def execCpy (q : BitVec 3) (f : OpM) (s : State) : Host.Outcome State Fault Refusal := settle s (opCpy q f s)
/-- csr (R272, R279). -/
def opCsr (q : BitVec 3) (f : OpM) (s : State) : Res State := s.ecPush (.csr q f) 2 q f
/-- csr (R272). -/
def execCsr (q : BitVec 3) (f : OpM) (s : State) : Host.Outcome State Fault Refusal := settle s (opCsr q f s)
/-- pfr (R272, R280). -/
def opPfr (q : BitVec 3) (f : OpM) (s : State) : Res State := s.ecPush (.pfr q f) 3 q f
/-- pfr (R272). -/
def execPfr (q : BitVec 3) (f : OpM) (s : State) : Host.Outcome State Fault Refusal := settle s (opPfr q f s)
/-- zfill (R272, R278). -/
def opZfill (q : BitVec 3) (f : OpM) (s : State) : Res State := s.ecPush (.zfill q f) 4 q f
/-- zfill (R272). -/
def execZfill (q : BitVec 3) (f : OpM) (s : State) : Host.Outcome State Fault Refusal := settle s (opZfill q f s)
/-- qfence (R272, R281). -/
def opQfence (q : BitVec 3) (f : OpM) (s : State) : Res State := s.ecPush (.qfence q f) 5 q f
/-- qfence (R272). -/
def execQfence (q : BitVec 3) (f : OpM) (s : State) : Host.Outcome State Fault Refusal := settle s (opQfence q f s)
/-- coll (R272, R283). -/
def opColl (q : BitVec 3) (f : OpM) (s : State) : Res State := s.ecPush (.coll q f) 6 q f
/-- coll (R272). -/
def execColl (q : BitVec 3) (f : OpM) (s : State) : Host.Outcome State Fault Refusal := settle s (opColl q f s)
/-- evict (R272, R280). -/
def opEvict (q : BitVec 3) (f : OpM) (s : State) : Res State := s.ecPush (.evict q f) 7 q f
/-- evict (R272). -/
def execEvict (q : BitVec 3) (f : OpM) (s : State) : Host.Outcome State Fault Refusal := settle s (opEvict q f s)

/-- Fix-ups outstanding of a command: not answered (R276, R282). -/
def Cmd.outstanding (c : Cmd) : Nat := (c.fixes.filter fun f => f.answer.isNone).length

/-- A qfence's named queues have reached their recorded values (R281). -/
def State.fenceMet (s : State) (core : Nat) (c : Cmd) : Bool := c.fence.all fun e => e.2 ≤ s.ridx core e.1

/-- One access of a command: where it reads (scratchpad or virtual address; none: zeros or a collective's result), where
it writes (none: csr's base), bytes, and the number a csr row start is less (R279). -/
structure Access where
  src : Option (Bool × Nat)
  dst : Option (Bool × Nat)
  n   : Nat
  less : Nat := 0
  deriving DecidableEq, Repr

/-- Chunk j of a range of n bytes from an address, cut at 16-byte boundaries (R277, R278). -/
def chunkAt (a n j : Nat) : Option (Nat × Nat) :=
  let lo := if j = 0 then a else (a / 16 + j) * 16
  let hi := min (a + n) ((a / 16 + j + 1) * 16)
  if lo < hi then some (lo, hi - lo) else none

/-- Access j of a command, none past its last (R277, R278, R279, R283). -/
def Cmd.access (c : Cmd) (j : Nat) : Option Access :=
  let p := c.packet
  match pkCmd p with
  | 1 =>
    let e := 2 ^ field p 185 3
    let n0 := field p 256 24
    let n1 := field p 280 16 + 1
    let n2 := field p 296 16 + 1
    if n0 * n1 * n2 ≤ j then none
    else
      let k := j % n0
      let r := j / n0 % n1
      let q := j / n0 / n1
      let at' := fun (base : Nat) (s1 s2 : Int) => wrap 64 ((base : Int) + q * s2 + r * s1 + (k * e : Nat))
      some { src := some (p.getLsbD 184, at' (field p 128 56) (pkS p 320) (pkS p 384)),
             dst := some (p.getLsbD 248, at' (field p 192 56) (pkS p 352) (pkS p 416)), n := e }
  | 2 =>
    let nrow := field p 352 16
    let rowAddr := fun (r : Nat) => (false, field p 128 56 + 4 * (field p 320 32 + r))
    if nrow = 0 then none
    else if j = 0 then some { src := some (rowAddr 0), dst := none, n := 4 }
    else if j ≤ nrow + 1 then
      some { src := some (rowAddr (j - 1)), dst := some (true, field p 424 20 + 4 * (j - 1)), n := 4, less := c.csr.1 }
    else
      let k := (j - (nrow + 2)) / 2
      let v := 2 ^ field p 312 2
      if c.csr.2 ≤ k then none
      else if (j - (nrow + 2)) % 2 = 0 then
        some { src := some (false, field p 192 56 + 4 * (c.csr.1 + k)), dst := some (true, field p 384 20 + 4 * k), n := 4 }
      else some { src := some (false, field p 256 56 + v * (c.csr.1 + k)), dst := some (true, field p 404 20 + v * k), n := v }
  | 4 => (chunkAt (field p 128 56) (field p 256 32) j).map fun x =>
      { src := none, dst := some (p.getLsbD 184, x.1), n := x.2 }
  | 6 => (chunkAt (field p 192 56) ((c.result.getD []).length) j).map fun x =>
      { src := none, dst := some (false, x.1), n := x.2 }
  | _ => none

/-- An upper bound of a command's accesses. -/
def Cmd.bound (c : Cmd) : Nat :=
  let p := c.packet
  match pkCmd p with
  | 1 => field p 256 24 * (field p 280 16 + 1) * (field p 296 16 + 1)
  | 2 => field p 352 16 + 2 + 2 * field p 448 20
  | 4 => field p 256 32 / 16 + 2
  | 6 => (c.result.getD []).length / 16 + 2
  | 3 => field p 256 32 / 1024 + 2
  | 7 => field p 256 32 / 1024 + 2
  | _ => 0

/-- The scratchpad lines of a range of bytes. -/
def linesOf (off n : Nat) : List Nat :=
  if n = 0 then [] else (List.range ((off + n - 1) / 128 - off / 128 + 1)).map fun i => off / 128 + i

/-- Add lines to a list without repeats. -/
def addLines (l : List Nat) (m : List Nat) : List Nat := m.foldl (fun a x => if a.contains x then a else a ++ [x]) l

/-- Whether a cpy row (by its number) writes a line. -/
def cpyRowLines (p : Packet64) (i : Nat) : List Nat :=
  let n1 := field p 280 16 + 1
  linesOf (wrap 64 ((field p 192 56 : Int) + (i / n1 : Nat) * pkS p 416 + (i % n1 : Nat) * pkS p 352))
    (field p 256 24 * 2 ^ field p 185 3)

/-- The scratchpad lines a command writes (R273, R279). -/
def linesWritten (p : Packet64) : List Nat :=
  if packetBad p then []
  else
    match pkCmd p with
    | 1 =>
      if p.getLsbD 248 then
        (List.range ((field p 280 16 + 1) * (field p 296 16 + 1))).foldl (fun a i => addLines a (cpyRowLines p i)) []
      else []
    | 2 =>
      if field p 352 16 = 0 then []
      else addLines (addLines (addLines [] (linesOf (field p 384 20) (4 * field p 448 20)))
        (linesOf (field p 404 20) (2 ^ field p 312 2 * field p 448 20))) (linesOf (field p 424 20) (4 * (field p 352 16 + 1)))
    | 4 => if p.getLsbD 184 then linesOf (field p 128 56) (field p 256 32) else []
    | _ => []

/-- Whether an access of a command from j on writes a scratchpad line. -/
def Cmd.writesLater (c : Cmd) (line j : Nat) : Bool :=
  let p := c.packet
  match pkCmd p with
  | 1 =>
    let n0 := field p 256 24
    let rows := (field p 280 16 + 1) * (field p 296 16 + 1)
    let rest := match c.access j with
      | some { dst := some (true, d), n := e, .. } => linesOf d ((n0 - j % n0) * e)
      | _ => []
    n0 != 0 && (rest.contains line ||
      (List.range rows).any fun i => decide (j / n0 < i) && (cpyRowLines p i).contains line)
  | 4 => decide (field p 128 56 / 16 + j ≤ line * 8 + 7) && decide (128 * line < field p 128 56 + field p 256 32) &&
      decide (j ≠ 0 → field p 128 56 / 16 + j ≤ (field p 128 56 + field p 256 32 - 1) / 16)
  | _ => true

/-- The number of the fix-up whose segment an access touches, its source first (R276), of those noted by access j. -/
def Cmd.touches (c : Cmd) (a : Access) (j : Nat) : Option Nat :=
  let hit := fun (x : Option (Bool × Nat)) => match x with
    | some (false, va) => c.fixes.findIdx? fun (f : FixUp) =>
        decide (f.start ≤ j) && decide (va < f.base + f.size) && decide (f.base < va + a.n)
    | _ => none
  (hit a.src).orElse fun _ => hit a.dst

/-- The aligned 16-byte chunk of its destination that access j of a cpy writes (R277). -/
def Cmd.chunkOf (c : Cmd) (j : Nat) : Option (Bool × Nat) :=
  if pkCmd c.packet = 1 then ((c.access j).bind (·.dst)).map fun d => (d.1, d.2 / 16) else none

/-- The accesses after j whose element writes merge with its own into one write of a chunk (R277). -/
def Cmd.mergeUp (c : Cmd) (j : Nat) : Nat → List Nat
  | 0 => []
  | n + 1 => if (c.chunkOf j).isSome && c.chunkOf (j + 1) == c.chunkOf j then (j + 1) :: c.mergeUp (j + 1) n else []
/-- The accesses before j that do. -/
def Cmd.mergeDown (c : Cmd) (j : Nat) : Nat → List Nat
  | 0 => []
  | n + 1 =>
    if j ≠ 0 ∧ (c.chunkOf j).isSome ∧ c.chunkOf (j - 1) = c.chunkOf j then (j - 1) :: c.mergeDown (j - 1) n else []

/-- The number of the fix-up with which access j is performed (R261, R276): the first that it or another access of its chunk
touches, so that the chunk is written at once. (DEDUCED, log 52) -/
def Cmd.ownerOf (c : Cmd) (a : Access) (j : Nat) : Option Nat :=
  ((c.touches a j).toList ++ (c.mergeDown j 15 ++ c.mergeUp j 15).filterMap fun i =>
    (c.access i).bind fun b => c.touches b j).min?

/-- A translation for an engine, with its right (R276): the leaf, or the failing segment. -/
def State.engLeaf (s : State) (slot : BitVec 4) (va : Nat) (wr : Bool) : Except (Nat × Nat) Leaf :=
  match s.translate slot (BitVec.ofNat 64 va) with
  | .fail _ b z => .error (b, z)
  | .ok l =>
    if (if wr then l.wr else l.rd) then .ok l
    else .error (va / pageBytes l.ps.toNat * pageBytes l.ps.toNat, pageBytes l.ps.toNat)

/-- The physical addresses of n bytes for an engine, with the KEY of each (R276). -/
def State.engPlace (s : State) (slot : BitVec 4) (va n : Nat) (wr : Bool) : Except (Nat × Nat) (List (Nat × BitVec 8)) := do
  let l ← s.engLeaf slot va wr
  let size := pageBytes l.ps.toNat
  let head := min n (size - va % size)
  let a := (List.range head).map fun i => (leafPa l (BitVec.ofNat 64 va) + i, l.key)
  if head = n then pure a
  else do
    let m ← s.engLeaf slot (va + head) wr
    pure (a ++ (List.range (n - head)).map fun i => (leafPa m (BitVec.ofNat 64 (va + head)) + i, m.key))

/-- The access an engine makes under a packet (R270, R309). -/
def engAcc (p : Packet64) (key : BitVec 8) : Acc := ⟨some (p.extractLsb' 48 4), p.extractLsb' 52 12, true, key, 0⟩

/-- The packet's tenancy is not current (R270). -/
def State.engStale (s : State) (core : Nat) (p : Packet64) : Bool :=
  p.extractLsb' 48 4 != s.coreSlot core || p.extractLsb' 52 12 != s.gen (p.extractLsb' 48 4)

/-- The segment an access fails on, if it does (R276). -/
def State.accessFault (s : State) (c : Cmd) (a : Access) : Option (Nat × Nat) :=
  let try' := fun (x : Option (Bool × Nat)) (wr : Bool) => match x with
    | some (false, va) => match s.engPlace (c.packet.extractLsb' 48 4) va a.n wr with
      | .error e => some e
      | .ok _ => none
    | _ => none
  (try' a.src false).orElse fun _ => try' a.dst true

/-- What one access of a command meets: it is done (bytes read, and whether they are poisoned), fails on a segment, or waits at a
locked line (R220). -/
inductive AccRes
  | done (s : State) (data : List Byte) (pois : Bool)
  | seg (base size : Nat)
  | wait
  deriving DecidableEq, Repr

/-- The L2 lines an engine access goes through at their home, allocated where they miss (R139): none of a byte that is refused. -/
def State.engFill (s : State) (p : Packet64) (pl : List (Nat × BitVec 8)) : State :=
  let ok := pl.filter fun e => !s.refused (engAcc p e.2) e.1
  (ok.map fun e => e.1 / 1024).eraseDups.foldl (fun x l => x.l2Fill (1024 * l) (some (p.extractLsb' 48 4))) s

/-- An engine's read meets its home slices (R139, R310, R423). -/
def State.engLook (s : State) (p : Packet64) (pl : List (Nat × BitVec 8)) : State :=
  match pl with
  | [] => s.engFill p pl
  | e :: _ => (s.engFill p pl).countRead (engAcc p e.2) e.1

/-- An engine's write at its home slices: the bytes of one sector under one KEY are one write (R277). -/
def State.engPut (s : State) (p : Packet64) (l : List ((Nat × BitVec 8) × Byte)) : State :=
  (l.splitBy fun x y => x.1.1 / 128 == y.1.1 / 128 && x.1.2 == y.1.2).foldl
    (fun x g => x.homeWrite (engAcc p ((g.map (·.1.2)).headD 0)) (g.map fun e => (e.1.1, e.2)))
    (s.engFill p (l.map Prod.fst))

/-- One access: read, then written (R276 to R279). -/
def State.engAccess (s : State) (core : Nat) (c : Cmd) (a : Access) : AccRes :=
  let p := c.packet
  let slot : BitVec 4 := p.extractLsb' 48 4
  let gen : BitVec 12 := p.extractLsb' 52 12
  let src : Except (Nat × Nat) (List (Byte × Bool) × State) :=
    match a.src with
    | none =>
      match pkCmd p, a.dst with
      | 6, some (_, d) => .ok (((c.result.getD []).drop (d - field p 192 56)).take a.n, s)
      | _, _ => .ok ((List.range a.n).map fun _ => (0, false), s)
    | some (true, o) => .ok ((List.range a.n).map fun i => s.spadByte core (o + i), s)
    | some (false, va) => do
      let l ← s.engPlace slot va a.n false
      pure (l.map fun e => s.homeRead (engAcc p e.2) e.1, s.engLook p l)
  match src with
  | .error e => .seg e.1 e.2
  | .ok (l, s) =>
    let data := l.map Prod.fst
    let out := if a.less = 0 then data else bytesOf (ofBytes 32 data - BitVec.ofNat 32 a.less) a.n
    let pois := l.any Prod.snd || (pkCmd p == 2 && a.dst.isSome && c.dpois)
    match a.dst with
    | none => .done s data pois
    | some (true, o) =>
      if s.spadLocked core o a.n then .wait
      else .done (s.spadWrites core slot gen pois o out) data pois
    | some (false, va) =>
      match s.engPlace slot va a.n true with
      | .error e => .seg e.1 e.2
      | .ok pl =>
        let s1 := s.engPut p (pl.zip out)
        let s2 := if pois then
            pl.foldl (fun x e =>
              if x.refused (engAcc p e.2) e.1 || x.staleAcc (engAcc p e.2) then x else x.poisonFlag (e.1 / 128)) s1
          else s1
        .done s2 data pois

/-- The head command of a queue is replaced. -/
def State.setHead (s : State) (core q : Nat) (c : Cmd) : State :=
  s.modEq core q fun x => { x with cmds := c :: x.cmds.drop 1 }

/-- A command writes its STAT into its entry, RIDX advances, and it is gone (R268, R282). -/
def State.retireCmd (s : State) (core q stat : Nat) : State :=
  let x := s.eq core q
  match x.cmds with
  | [] => s
  | c :: r =>
    let a := entryAddr x.cfg c.idx + 5
    let old := (s.homeRead hwAcc a).1
    let s1 := s.homeWrite hwAcc [(a, (old &&& 0xF0) ||| BitVec.ofNat 8 stat)]
    let s2 := s1.homeWrites hwAcc (eqBase x.cfg + 8) (bytesOf (BitVec.ofNat 64 (c.idx + 1)) 8)
    s2.setEq core q
      { x with cmds := r, claims := x.claims.filter fun k => k.idx != c.idx,
               errc := if stat = 2 ∨ stat = 3 ∨ stat = 5 then min (x.errc + 1) 255 else x.errc }

/-- The signal of a command, judged before it is given, and its retirement (R270, R271). -/
def State.finishCmd (s : State) (core q : Nat) (c : Cmd) (stat : Nat) : State :=
  if s.engStale core c.packet then s.retireCmd core q 3
  else
    let s1 := c.marked.foldl (fun x l => x.setLine core l (c.packet.extractLsb' 48 4) (c.packet.extractLsb' 52 12) true) s
    let inc := field c.packet 24 4
    let s2 := if inc = 0 then s1 else s1.addSem core (c.packet.extractLsb' 16 8) inc
    s2.retireCmd core q stat

/-- Commands at the head that do nothing any more leave the queue (R271, R284). -/
def State.dropFated (s : State) (core q : Nat) : Nat → State
  | 0 => s
  | n + 1 =>
    match (s.eq core q).cmds with
    | c :: _ => if c.fate ≠ 0 ∧ !c.began then (s.retireCmd core q c.fate).dropFated core q n else s
    | [] => s

/-- A segment is noted for a fix-up and reported to the kernel's fault queue (R276). -/
def State.noteSegment (s : State) (core q : Nat) (c : Cmd) (base size j : Nat) : State × Cmd :=
  ({ s with hub := { s.hub with faultq := s.hub.faultq ++ [(8 * core + q, c.idx, base, size)] } },
    { c with fixes := c.fixes ++ [⟨base, size, j, none⟩] })

/-- The scratchpad lines an access writes. -/
def Access.lines (a : Access) : List Nat :=
  match a.dst with
  | some (true, o) => linesOf o a.n
  | _ => []

/-- What a csr keeps of the row starts it reads (R279), and that its base is poisoned (R413). -/
def Cmd.csrNote (c : Cmd) (j : Nat) (data : List Byte) (pois : Bool) : Cmd :=
  let p := c.packet
  let nrow := field p 352 16
  let v := natOfBytes data
  if pkCmd p ≠ 2 ∨ nrow + 1 < j then c
  else if j = 0 then { c with csr := (v, 0), dpois := pois }
  else
    let c1 := { c with rows := Tab.set c.rows (j - 1) v }
    if j = nrow + 1 then
      let span := wrap 32 ((v : Int) - c.csr.1)
      { c1 with csr := (c.csr.1, min span (field p 448 20)), err := c.err || decide (field p 448 20 < span) }
    else c1

/-- Some row start is below the one before it (R279). -/
def Cmd.rowsFall (c : Cmd) : Bool :=
  c.rows.any fun e => decide (e.2 < Tab.get 0 c.rows (e.1 - 1))

/-- A csr row start that all that follows needs (R279): the base, and the last row's. -/
def Cmd.needed (c : Cmd) (j : Nat) : Bool :=
  pkCmd c.packet == 2 && (j == 0 || j == field c.packet 352 16 + 1)

/-- After an access its lines that no later access writes are set full (R245, R273). (DEDUCED, log 52) -/
def State.fillLines (s : State) (core : Nat) (c : Cmd) (a : Access) (j : Nat) : State × Cmd :=
  a.lines.foldl (fun (x : State × Cmd) l =>
    if x.2.marked.contains l && !x.2.skipped.contains l && !x.2.writesLater l (j + 1) then
      (x.1.setLine core l (c.packet.extractLsb' 48 4) (c.packet.extractLsb' 52 12) true,
        { x.2 with marked := x.2.marked.erase l })
    else x) (s, c)

/-- What a step of a command comes to: go on, wait, or be stopped (R270, R276). -/
inductive CmdRes
  | more (s : State) (c : Cmd)
  | wait (s : State) (c : Cmd)
  | ovl (s : State) (c : Cmd)
  deriving DecidableEq, Repr

/-- An access of the main part of a command at number j (R276): skipped with its segment, noted, done or waiting. -/
def State.mainAccess (s : State) (core q : Nat) (c : Cmd) (a : Access) (j : Nat) : CmdRes :=
  let skip := fun (x : State) (y : Cmd) => CmdRes.more x { y with done := j + 1, skipped := addLines y.skipped a.lines }
  match c.ownerOf a j with
  | some k =>
    if c.needed j then
      match (c.fixes.getD k ⟨0, 0, 0, none⟩).answer with
      | none => .wait s c
      | some false => .ovl s { c with err := true }
      | some true =>
        match s.engAccess core c a with
        | .done x data pois => .more x { c.csrNote j data pois with done := j + 1 }
        | .seg _ _ => .ovl s { c with err := true }
        | .wait => .wait s c
    else skip s c
  | none =>
    match s.engAccess core c a with
    | .wait => .wait s c
    | .done x data pois =>
      let (x1, c1) := x.fillLines core { c.csrNote j data pois with done := j + 1 } a j
      .more x1 c1
    | .seg b z =>
      if 64 ≤ c.outstanding then .wait s c
      else
        let (x, y) := s.noteSegment core q c b z j
        if c.needed j then .wait x y else skip x y

/-- The head command can go no further before a fix-up is answered, or needs a sixty-fifth (R276, R282): all its other accesses
are done; a csr's next access needs a row start, or a coll its descriptor or contribution, that has faulted; or its next
access faults with 64 outstanding. -/
def State.waitsFix (s : State) (core : Nat) (c : Cmd) : Bool :=
  (c.finished && decide (0 < c.outstanding)) || (pkCmd c.packet == 6 && c.result.isNone && decide (0 < c.outstanding)) ||
    match c.access c.done with
    | none => false
    | some a =>
      match c.ownerOf a c.done with
      | some k => c.needed c.done && (c.fixes.getD k ⟨0, 0, 0, none⟩).answer.isNone
      | none => c.outstanding == 64 && (c.done :: c.mergeUp c.done 15).any fun i =>
          (c.access i).any fun b => (c.touches b c.done).isNone && (s.accessFault c b).isSome

/-- The head state cstat reports (R282). -/
def State.headState (s : State) (core q : Nat) : Nat :=
  match (s.eq core q).cmds with
  | [] => if s.ridx core q < s.widx core q then 3 else 0
  | c :: _ =>
    if !c.began then (if s.sem core (c.packet.extractLsb' 0 8) < field c.packet 8 8 then 2 else 1)
    else if s.waitsFix core c then 4
    else if pkCmd c.packet = 5 ∧ !s.fenceMet core c then 5
    else 1

/-- The word cstat reads (R282). -/
def State.cstatWord (s : State) (core q : Nat) : Word :=
  let x := s.eq core q
  let fix := match x.cmds with | [] => 0 | c :: _ => c.outstanding
  BitVec.ofNat 64 ((if eqEn x.cfg then 2 ^ 63 else 0) + s.headState core q * 2 ^ 60 +
    min (s.widx core q - s.ridx core q) 8191 * 2 ^ 47 + fix * 2 ^ 40 + x.errc * 2 ^ 32 + s.ridx core q % 2 ^ 32)

/-- cstat: a queue's state at issue; latency 8 (R282). -/
def opCstat (q : BitVec 3) (f : OpM) (s : State) : Res State :=
  inSlot 2 do
    s.opens (.cstat q f)
    if !s.guard f.g then pure s
    else
      let v := s.cstatWord s.cur.core q.toNat
      pure (s.land 2 11 8 (wr64 (.rl 8) v :: (s.wbS f.w).toList.map fun r => wr64 r v))
/-- cstat (R282). -/
def execCstat (q : BitVec 3) (f : OpM) (s : State) : Host.Outcome State Fault Refusal := settle s (opCstat q f s)

/-- Further accesses into the same 16-byte chunk of a cpy's destination, merged with the first (R277). (DEDUCED, log 52) -/
def State.mergeAccess (s : State) (core q : Nat) (c : Cmd) (chunk : Nat) : Nat → CmdRes
  | 0 => .more s c
  | n + 1 =>
    match c.access c.done with
    | some a =>
      match a.dst with
      | some (_, d) =>
        if pkCmd c.packet = 1 ∧ d / 16 = chunk then
          match s.mainAccess core q c a c.done with
          | .more x y => x.mergeAccess core q y chunk n
          | r => r
        else .more s c
      | none => .more s c
    | none => .more s c

/-- The segments that the accesses of a cpy's next chunk fail on are noted before any of it is written (R261, R276). (DEDUCED,
log 52) -/
def State.noteChunk (s : State) (core q : Nat) (c : Cmd) : List Nat → CmdRes
  | [] => .more s c
  | i :: r =>
    match (c.access i).bind fun b => if (c.touches b c.done).isSome then none else s.accessFault c b with
    | none => s.noteChunk core q c r
    | some (b, z) =>
      if 64 ≤ c.outstanding then .wait s c
      else
        let (x, y) := s.noteSegment core q c b z c.done
        x.noteChunk core q y r

/-- The main part of a command: its next chunk (R270, R277). -/
def State.mainChunk (s : State) (core q : Nat) (c : Cmd) : CmdRes :=
  match c.access c.done with
  | none => .ovl s c
  | some a =>
    match s.noteChunk core q c (if pkCmd c.packet = 1 then c.done :: c.mergeUp c.done 15 else []) with
    | .more s1 c1 =>
      match s1.mainAccess core q c1 a c1.done with
      | .more x y => match a.dst with
        | some (_, d) => x.mergeAccess core q y (d / 16) 15
        | none => .more x y
      | r => r
    | r => r

/-- A segment is abandoned: the kernel refused it, or it failed its replay (R276). -/
def Cmd.abandon (c : Cmd) (k : Option Nat) : Cmd :=
  { c with
    err := true
    fixes := match k with | some k => c.fixes.modify k fun f => { f with answer := some false } | none => c.fixes }

/-- The replay of served segments, one access (R276): in the order of the segments and of the accesses. An access of an abandoned
segment is left out; the others of its chunks are performed. (DEDUCED, log 52) -/
def State.replayAccess (s : State) (core : Nat) (c : Cmd) : CmdRes :=
  let (k, j) := c.rpos
  match c.fixes[k]? with
  | none => .ovl s c
  | some _ =>
    match c.access j with
    | none => .more s { c with rpos := (k + 1, 0) }
    | some a =>
      let next := fun (y : Cmd) => { y with rpos := (k, j + 1) }
      if c.ownerOf a j ≠ some k ∨ c.needed j then .more s (next c)
      else
        let own := c.touches a j
        if own.any fun m => (c.fixes[m]?).any fun f => f.answer == some false then .more s (next { c with err := true })
        else
          match s.engAccess core c a with
          | .done x data pois => .more x (next (c.csrNote j data pois))
          | .seg _ _ => .more s (next (c.abandon own))
          | .wait => .wait s c

/-- The chunk of a cpy's destination that the next access of the replay writes. -/
def Cmd.replayTo (c : Cmd) : Option Nat :=
  if pkCmd c.packet = 1 ∧ c.rpos.1 < c.fixes.length then ((c.access c.rpos.2).bind (·.dst)).map fun d => d.2 / 16 else none

/-- Further accesses of the replay into the same 16-byte chunk, merged with the first (R261, R277). (DEDUCED, log 52) -/
def State.mergeReplay (s : State) (core : Nat) (c : Cmd) (chunk : Nat) : Nat → CmdRes
  | 0 => .more s c
  | n + 1 =>
    if c.replayTo = some chunk then
      match s.replayAccess core c with
      | .more x y => x.mergeReplay core y chunk n
      | r => r
    else .more s c

/-- The replay of served segments: its next chunk (R261, R276). -/
def State.replayChunk (s : State) (core : Nat) (c : Cmd) : CmdRes :=
  match s.replayAccess core c with
  | .more x y => match c.replayTo with
    | some k => x.mergeReplay core y k 15
    | none => .more x y
  | r => r

/-- Up to n chunks of a command that has begun, each judged before it (R270, R276); at its end it signals and retires. -/
def State.runCmd (s : State) (core q : Nat) (c : Cmd) : Nat → State
  | 0 => s.setHead core q c
  | n + 1 =>
    if s.engStale core c.packet then s.retireCmd core q 3
    else if !c.finished then
      match s.mainChunk core q c with
      | .more x y => x.runCmd core q y n
      | .wait x y => x.setHead core q y
      | .ovl x y => x.runCmd core q { y with finished := true } n
    else if 0 < c.outstanding then s.setHead core q c
    else
      match s.replayChunk core c with
      | .more x y => x.runCmd core q y n
      | .wait x y => x.setHead core q y
      | .ovl x y => x.finishCmd core q y (if y.err || y.rowsFall then 2 else 1)

/-- The head of a queue: judged, its wait met and taken (R270). A command bound to a STAT leaves; a malformed one
signals and retires with STAT 5 (R271). None where there is nothing to perform now. (DEDUCED, log 51) -/
def State.beginCmd (s : State) (core q : Nat) : State × Option Cmd :=
  match if s.hub.down then [] else (s.eq core q).cmds with
  | [] => (s, none)
  | c :: _ =>
    if c.fate ≠ 0 then (s.retireCmd core q c.fate, none)
    else if s.engStale core c.packet then (s.retireCmd core q 3, none)
    else if c.began then (s, some c)
    else
      let w : BitVec 8 := c.packet.extractLsb' 0 8
      let thr := field c.packet 8 8
      if s.sem core w < thr then (s, none)
      else
        let s1 := if thr = 0 then s else s.setSem core w (s.sem core w - thr)
        let c1 := { c with began := true }
        if packetBad c.packet then ((s1.setHead core q c1).finishCmd core q c1 5, none)
        else (s1.setHead core q c1, some c1)

/-- Up to n chunks of the head command, of a kind (R270). -/
def State.workCmd (s : State) (core q cmd n : Nat) : State :=
  match s.beginCmd core q with
  | (s1, none) => s1
  | (s1, some c) => if pkCmd c.packet = cmd then s1.runCmd core q c n else s1

/-- CPY_COMMAND (R277): n chunks of the cpy at the head of its queue. -/
def execCpyCommand (core q n : Nat) (s : State) : Host.Outcome State Fault Refusal := .next (s.workCmd core q 1 n)
/-- CSR_COMMAND (R279). -/
def execCsrCommand (core q n : Nat) (s : State) : Host.Outcome State Fault Refusal := .next (s.workCmd core q 2 n)
/-- ZFILL_COMMAND (R278). -/
def execZfillCommand (core q n : Nat) (s : State) : Host.Outcome State Fault Refusal := .next (s.workCmd core q 4 n)

/-- One line of a pfr or evict (R280): a page without RD or translation is skipped. -/
def State.lineAct (s : State) (p : Packet64) (ev : Bool) (va : Nat) : State :=
  let slot : BitVec 4 := p.extractLsb' 48 4
  match s.engLeaf slot va false with
  | .error _ => s
  | .ok l =>
    let pa := leafPa l (BitVec.ofNat 64 va)
    if s.refused (engAcc p l.key) pa then s
    else if ev then
      let s1 := (List.range 4).foldl (fun x d => x.dropRdcLine d (pa / 1024)) s
      s1.modDie (paDie pa) fun y => { y with l2 := y.l2.filter fun e => e.2.1 != pa / 1024 }
    else s.l2Fill pa (some slot)

/-- Up to n lines of a pfr or evict, each judged before it (R270, R280). -/
def State.runLines (s : State) (core q : Nat) (ev : Bool) (c : Cmd) : Nat → State
  | 0 => s.setHead core q c
  | n + 1 =>
    let a := field c.packet 128 56
    let len := field c.packet 256 32
    let va := (a / 1024 + c.done) * 1024
    if s.engStale core c.packet then s.retireCmd core q 3
    else if len = 0 ∨ a + len ≤ va then s.finishCmd core q c 1
    else (s.lineAct c.packet ev va).runLines core q ev { c with done := c.done + 1 } n

/-- Up to n lines of the pfr or evict at the head. -/
def State.workLines (s : State) (core q cmd n : Nat) : State :=
  match s.beginCmd core q with
  | (s1, none) => s1
  | (s1, some c) => if pkCmd c.packet = cmd then s1.runLines core q (cmd == 7) c n else s1

/-- PFR_COMMAND (R280). -/
def execPfrCommand (core q n : Nat) (s : State) : Host.Outcome State Fault Refusal := .next (s.workLines core q 3 n)
/-- EVICT_COMMAND (R280). -/
def execEvictCommand (core q n : Nat) (s : State) : Host.Outcome State Fault Refusal := .next (s.workLines core q 7 n)

/-- QFENCE_COMMAND (R281): signals once the named queues have reached their recorded values. -/
def execQfenceCommand (core q : Nat) (s : State) : Host.Outcome State Fault Refusal :=
  match s.beginCmd core q with
  | (s1, none) => .next s1
  | (s1, some c) =>
    if pkCmd c.packet = 5 ∧ s1.fenceMet core c then .next (s1.finishCmd core q c 1) else .next s1

/-- A run of bytes an engine reads through translation (R276), in chunks of 16, each with its poison (R413). -/
def State.engRead (s : State) (p : Packet64) (va n : Nat) : Nat → Except (Nat × Nat) (List (Byte × Bool) × State)
  | 0 => .ok ([], s)
  | k + 1 =>
    if n = 0 then .ok ([], s)
    else do
      let m := min n (16 - va % 16)
      let l ← s.engPlace (p.extractLsb' 48 4) va m false
      let (rest, s1) ← (s.engLook p l).engRead p (va + m) (n - m) k
      pure ((l.map fun e => s.homeRead (engAcc p e.2) e.1) ++ rest, s1)

/-- Bytes of an element of a collective (R283). -/
def collElem (p : Packet64) : Nat := if field p 352 4 = 7 then 2 else 4

/-- The group descriptor's header is well formed (R283). -/
def groupOk (hdr : List Byte) : Bool :=
  let n := (hdr.getD 0 0).toNat
  decide (2 ≤ n) && decide (n ≤ 64) && decide ((hdr.getD 1 0).toNat < n) && (hdr.drop 2).all (· == 0)

/-- An entry of the group descriptor is well formed (R283). -/
def memberOk (e : List Byte) : Bool :=
  [2, 3, 4, 5, 6, 7, 15].all fun i => e.getD i 0 == 0

/-- One level of the pairwise sum (R283), each partial sum rounded to the element format by the mode. -/
def collLevel (fmt mode : Nat) : List FVal → List FVal
  | x :: y :: r => ieeeValue fmt (encodeIeee fmt mode (FVal.add mode x y)) :: collLevel fmt mode r
  | l => l

/-- The pairwise sum of a list by levels (R283). -/
def collSum (fmt mode : Nat) : Nat → List FVal → FVal
  | _, [] => .fin false 0 0
  | _, [x] => x
  | 0, x :: _ => x
  | n + 1, l => collSum fmt mode n (collLevel fmt mode l)

/-- The reduction of one element over the members (R283). (DESIGN CHOICE, log 19) -/
def collReduce (fmt mode i : Nat) (max : Bool) (l : List Nat) : Nat :=
  if fmt = 5 then
    if max then wrap 32 (l.foldl (fun (a : Int) x => if a < signed 32 x then signed 32 x else a) (-2147483648))
    else wrap 32 (l.foldl (fun (a : Int) x => a + signed 32 x) 0)
  else if max then
    match greatest fmt (l.map fun c => (0, c)) with
    | some e => e.2
    | none => ieeeNan fmt
  else
    let vals := (permute (Config.collOrder l.length i) l.length l).map (ieeeValue fmt)
    encodeIeee fmt mode (collSum fmt mode 6 vals)

/-- Element i of a run of bytes. -/
def byteElem (es : Nat) (l : List (Byte × Bool)) (i : Nat) : Nat := natOfBytes (((l.drop (es * i)).take es).map Prod.fst)
/-- Element i of a run of bytes has a poisoned one (R413). -/
def elemPoison (es : Nat) (l : List (Byte × Bool)) (i : Nat) : Bool := ((l.drop (es * i)).take es).any Prod.snd

/-- The result of a collective for the member of rank `rank` from every member's contribution, in rank order (R283); an element
made from a poisoned one is poisoned (R413). -/
def collResult (p : Packet64) (rank : Nat) (parts : List (List (Byte × Bool))) : List (Byte × Bool) :=
  let es := collElem p
  let fmt := field p 352 4
  let count := field p 320 32
  let n := parts.length
  let red := fun (i : Nat) =>
    (bytesOf (BitVec.ofNat 32 (collReduce fmt (field p 36 2) i (p.getLsbD 358) (parts.map fun l => byteElem es l i))) es).map
      fun b => (b, parts.any fun l => elemPoison es l i)
  match field p 356 2 with
  | 1 => (parts.map fun l => l.take (es * count)).flatten
  | 0 => ((List.range (count / n)).map fun j => red (rank * (count / n) + j)).flatten
  | _ => ((List.range count).map red).flatten

/-- A member's contribution belongs to a collective (R283). -/
def collMatches (p : Packet64) (n rank : Nat) (m : CollMember) : Bool :=
  m.kind == p.extractLsb' 356 2 && m.count == p.extractLsb' 320 32 && m.efmt == p.extractLsb' 352 4 &&
  m.rop == p.getLsbD 358 && m.ctag == p.extractLsb' 384 32 && decide (m.rank < n) && m.rank != rank

/-- A collective fails: it retires with STAT 2, its result untouched (R283). -/
def State.collFail (s : State) (core q : Nat) (c : Cmd) : State := s.finishCmd core q c 2

/-- A read of a collective's descriptor or contribution (R276): its bytes; or the segment is noted and awaits its answer;
or it was refused or failed again, and the collective fails. -/
def State.collRead (s : State) (core q : Nat) (c : Cmd) (va n : Nat) : Except State (List (Byte × Bool) × State) :=
  match s.engRead c.packet va n (n / 16 + 2) with
  | .ok l => .ok l
  | .error (b, z) =>
    match c.fixes.find? fun f => f.base == b && f.size == z with
    | none =>
      let (x, y) := s.noteSegment core q c b z (2 ^ 64)
      .error (x.setHead core q y)
    | some f => match f.answer with
      | none => .error s
      | some _ => .error (s.collFail core q c)

/-- The messages that carry a contribution to the other members (R283). -/
def collMsgs (p : Packet64) (rank n : Nat) (desc : List Byte) (own : List (Byte × Bool)) : List Msg :=
  let m : CollMember :=
    { rank := rank, kind := p.extractLsb' 356 2, count := p.extractLsb' 320 32, efmt := p.extractLsb' 352 4,
      rop := p.getLsbD 358, ctag := p.extractLsb' 384 32, data := own.map Prod.fst, pois := own.map Prod.snd }
  ((List.range n).filter (· != rank)).map fun k => .coll (ofBytes 16 ((desc.drop (64 + 16 * k)).take 2)) m

/-- A member's contribution, each byte with its poison. -/
def memberBytes (m : CollMember) : List (Byte × Bool) := m.data.zipIdx.map fun (b, i) => (b, m.pois.getD i false)

/-- A collective whose own contribution and descriptor have been read goes on with what has come (R283). The 100 ms run from the
first member's packet, this module's own command being one; a member later than that, this one among them, fails it. A result
whose group descriptor was poisoned is poisoned (R413). (DEDUCED, log 52) -/
def State.collGo (s : State) (core q : Nat) (c : Cmd) (members : List CollMember) (desc : List Byte) (own : List (Byte × Bool)) :
    State :=
  let p := c.packet
  let n := (desc.getD 0 0).toNat
  let rank := (desc.getD 1 0).toNat
  let fresh := members.filter fun m => collMatches p n rank m
  let got := fresh.foldl (fun (l : List CollMember) m => if l.any (fun x => x.rank == m.rank) then l else l ++ [m]) c.members
  let s1 := if c.own.isSome then s else { s with out := s.out ++ collMsgs p rank n desc own }
  let first := fresh.foldl (fun t m => min t m.came) (c.first.getD s.dtime)
  let c1 := { c with members := got, first := some first, own := some (desc, own) }
  let late := decide (first + 100000000 < s.dtime ∧ c.own.isNone) || got.any fun m => decide (first + 100000000 < m.came)
  if late then s1.collFail core q c1
  else if got.length + 1 < n then s1.setHead core q c1
  else
    let parts := (List.range n).map fun k =>
      if k = rank then own else match got.find? fun m => m.rank == k with | some m => memberBytes m | none => []
    let c2 := { c1 with result := some ((collResult p rank parts).map fun b => (b.1, b.2 || c1.dpois)) }
    s1.runCmd core q c2 (c2.bound + (c2.bound + 1) * (c2.fixes.length + 64) + 2)

/-- A collective reads its descriptor and its own contribution, once, and sends the contribution (R283). -/
def State.collStart (s : State) (core q : Nat) (c : Cmd) (members : List CollMember) : State :=
  let p := c.packet
  match s.collRead core q c (field p 256 56) 64 with
  | .error x => x
  | .ok (hdr, s1) =>
    if !groupOk (hdr.map Prod.fst) then s1.collFail core q c
    else
      let n := (hdr.getD 0 (0, false)).1.toNat
      match s1.collRead core q c (field p 256 56) (64 + 16 * n) with
      | .error x => x
      | .ok (d, s2) =>
        let desc := d.map Prod.fst
        if !(List.range n).all (fun k => memberOk ((desc.drop (64 + 16 * k)).take 16)) ||
            (List.range n).any (fun k => s.hub.downMods.contains (ofBytes 12 ((desc.drop (64 + 16 * k)).take 2))) then
          s2.collFail core q c
        else if field p 356 2 = 0 ∧ field p 320 32 % n ≠ 0 then s2.finishCmd core q c 5
        else
          match s2.collRead core q c (field p 128 56) (collElem p * field p 320 32) with
          | .error x => x
          | .ok (own, s3) => s3.collGo core q { c with dpois := d.any Prod.snd } members desc own

/-- A member of a collective is reported down (R283, R340). -/
def State.memberDown (s : State) (desc : List Byte) : Bool :=
  (List.range (desc.getD 0 0).toNat).any fun k => s.hub.downMods.contains (ofBytes 12 ((desc.drop (64 + 16 * k)).take 2))

/-- COLL_COMMAND (R283): the collective at the head, with the members' contributions that have reached this module. -/
def execCollCommand (core q : Nat) (members : List CollMember) (s : State) : Host.Outcome State Fault Refusal :=
  match s.beginCmd core q with
  | (s1, none) => .next s1
  | (s1, some c) =>
    if pkCmd c.packet ≠ 6 then .next s1
    else if c.result.isSome then .next (s1.runCmd core q c (c.bound + (c.bound + 1) * (c.fixes.length + 1) + 2))
    else
      match c.own with
      | some (desc, own) =>
        .next (if s1.memberDown desc then s1.collFail core q c else s1.collGo core q c members desc own)
      | none => .next (s1.collStart core q c members)

/-- COLL_TIMEOUT (R283): 100 ms of device time after the first member's packet without every member's match. -/
def execCollTimeout (core q : Nat) (s : State) : Host.Outcome State Fault Refusal :=
  match (s.eq core q).cmds with
  | c :: _ =>
    match c.first, c.result with
    | some t, none =>
      if pkCmd c.packet = 6 ∧ c.began ∧ t + 100000000 ≤ s.dtime then .next (s.collFail core q c) else .next s
    | _, _ => .next s
  | [] => .next s

/-- Give the kernel's answers to the oldest unanswered fix-ups (R276). -/
def answerFixes : List FixUp → List Bool → List FixUp
  | [], _ => []
  | l, [] => l
  | f :: r, b :: bs => if f.answer.isSome then f :: answerFixes r (b :: bs) else { f with answer := some b } :: answerFixes r bs

/-- SEGMENT_REPLAY (R276): the kernel answers fix-ups of the head command; with all answered and its other accesses done
the served segments are replayed. -/
def execSegmentReplay (core q : Nat) (served : List Bool) (s : State) : Host.Outcome State Fault Refusal :=
  match (s.eq core q).cmds with
  | c :: _ =>
    if !c.began || s.hub.down then .next s
    else
      let c1 := { c with fixes := answerFixes c.fixes served }
      if c1.finished then .next (s.runCmd core q c1 ((c1.bound + 2) * (c1.fixes.length + 1)))
      else .next (s.setHead core q c1)
  | [] => .next s

/-- A context's command claims its index at the release and writes its entry (R267, R273), for the unit that issued it (R275), and
as one dropped if that was stopped by a cancellation (R284). (DEDUCED, log 51) -/
def State.claimCmd (s : State) (ci : Nat) (x : RelItem) (q : Nat) (p : Packet64) : State :=
  let core := ci / 4
  let e := s.eq core q
  let i := s.widx core q
  let n := eqSize e.cfg
  let p1 := p ||| BitVec.ofNat 512 (i / n % 8 * 2 ^ 29)
  let h := (s.ctx ci).relHead
  let s1 := s.homeWrites hwAcc (eqBase e.cfg) (bytesOf (BitVec.ofNat 64 (i + 1)) 8)
  let s2 := s1.homeWrites hwAcc (entryAddr e.cfg i) (bytesOf p1 64)
  let s3 := (linesWritten p1).foldl (fun z l => z.setLine core l x.slot x.gen false) s2
  s3.modEq core q fun e => { e with claims := e.claims ++ [⟨i, ci, x.tok, h.lid, h.uid, h.lobj, h.dropped⟩] }

/-- Room for the entry of a claim (R267): the submitter writes entry i only once RIDX > i - N. -/
def State.claimRoom (s : State) (core q : Nat) : Bool :=
  decide (s.widx core q < s.ridx core q + eqSize (s.eq core q).cfg)

/-- The WIDX a qfence records at its admission (R281). -/
def State.fenceOf (s : State) (core q : Nat) (p : Packet64) : List (Nat × Nat) :=
  if pkCmd p ≠ 5 then []
  else ((List.range 8).filter fun k => p.getLsbD (128 + k) && k != q).map fun k => (k, s.widx core k)

/-- The admission of the next entry (R268, R270, R274, R275). (DESIGN CHOICE, log 18; DEDUCED, log 52) -/
def State.takeEntry (s : State) (core q : Nat) : State :=
  let x := s.eq core q
  let a := entryAddr x.cfg x.adm
  let p : Packet64 := ofBytes 512 ((s.homeReads hwAcc a 64).map Prod.fst)
  let n := eqSize x.cfg
  if !eqEn x.cfg || x.closing || decide (s.widx core q ≤ x.adm) || field p 29 3 != x.adm / n % 8 then s
  else
    let (tok, s1) := s.newTok
    let prom : Word := BitVec.ofNat 64 (s.dtime + Config.estimate tok p)
    let own := x.claims.find? fun k => k.idx == x.adm
    let fate := if s.engStale core p then 3 else match own with | some k => if k.dropped then 4 else 0 | none => 0
    let c : Cmd :=
      { idx := x.adm, packet := p, prom := prom, owner := own, fate := fate, missed := false, began := false, done := 0,
        finished := false, err := false, fixes := [], rpos := (0, 0), marked := linesWritten p, skipped := [],
        fence := s.fenceOf core q p, csr := (0, 0), rows := [], members := [], first := none, result := none }
    let s2 := s1.homeWrites hwAcc (a + 8) (bytesOf prom 8)
    let s3 := s2.modEq core q fun y =>
      { y with adm := y.adm + 1, cmds := y.cmds ++ [c],
               proms := y.proms ++ own.toList.map fun k => ⟨k.ctx, k.tok, s.cycle + 20, prom⟩ }
    s3.dropFated core q (s3.eq core q).cmds.length

/-- ENTRY_ADMIT (R268). (DESIGN CHOICE, log 10) -/
def execEntryAdmit (core q : Nat) (s : State) : Host.Outcome State Fault Refusal :=
  .next (if s.hub.down then s else s.takeEntry core q)

/-- PROMISE_LANDING (R274): from twenty cycles after admission the promise lands in ec.r and W. -/
def execPromiseLanding (core ctx token : Nat) (s : State) : Host.Outcome State Fault Refusal :=
  let due := (List.range 8).filterMap fun q =>
    ((s.eq core q).proms.find? fun p => p.tok == token && p.ctx == 4 * core + ctx && decide (p.due ≤ s.cycle)).map (q, ·)
  match due with
  | [] => .next s
  | (q, p) :: _ =>
    .next ((s.modEq core q fun x => { x with proms := x.proms.filter (· != p) }).answer p.ctx p.tok
      { data := p.prom.setWidth 1024 } .clean)

/-- EQCFG as it reads (R265). -/
def EngQ.read (x : EngQ) : Word := x.cfg

/-- Reserved bits of EQCFG (R265). -/
def eqcfgRes : Word := BitVec.ofNat 64 (maskBits 39 20 + maskBits 0 12)

/-- A write of EQCFG (R265, R282). (DEDUCED, log 51) -/
def EngQ.writeCfg (x : EngQ) (ridx : Word → Nat) (v : Word) : EngQ :=
  let body : Word := BitVec.ofNat 64 (2 ^ 63 - 1)
  if v &&& eqcfgRes ≠ 0 then x
  else if eqEn x.cfg then
    if v &&& body ≠ x.cfg &&& body then x
    else if eqEn v then { x with closing := false }
    else if x.cmds.isEmpty then { x with cfg := v, closing := false }
    else { x with closing := true }
  else if eqEn v then { x with cfg := v, closing := false, errc := 0, adm := ridx v }
  else { x with cfg := v }

/-- EQCFG_WRITE (R265): the on-die kernel writes the register of queue q. -/
def execEqcfgWrite (core q : Nat) (v : Word) (s : State) : Host.Outcome State Fault Refusal :=
  .next (s.modEq core q fun x => x.writeCfg (fun c => (s.physWord (eqBase c + 8)).toNat) v)

/-- QUEUE_DISABLE_COMPLETE (R265): a queue written EN = 0 with no admitted command left reads EN = 0. -/
def execQueueDisableComplete (core q : Nat) (s : State) : Host.Outcome State Fault Refusal :=
  .next (s.modEq core q fun x =>
    if x.closing && x.cmds.isEmpty then { x with cfg := x.cfg &&& BitVec.ofNat 64 (2 ^ 63 - 1), closing := false } else x)

/-- The commands a stopped unit released that have not begun are dropped (R284). -/
def State.dropCommands (s : State) (core : Nat) (own : Claim → Bool) : State :=
  (List.range 8).foldl (fun x q =>
    let y := x.modEq core q fun e =>
      { e with
        claims := e.claims.map fun k => if own k then { k with dropped := true } else k
        cmds := e.cmds.map fun c =>
          if !c.began && c.fate == 0 && c.owner.any own then { c with fate := 4 } else c }
    y.dropFated core q (y.eq core q).cmds.length) s

/-- The on-chip sweep stops the admitted commands of a slot whose generation is stale (R315). -/
def State.sweepCommands (s : State) (core : Nat) (t : BitVec 4) : State :=
  (List.range 8).foldl (fun x q =>
    let y := x.modEq core q fun e =>
      { e with cmds := e.cmds.map fun c =>
          if c.packet.extractLsb' 48 4 == t && c.packet.extractLsb' 52 12 != x.gen t then
            { c with fate := 3, began := false, fixes := [] } else c }
    y.dropFated core q (y.eq core q).cmds.length) s

end Sys2Proof.Machine
end

