-- ==== Sys2Proof/Machine/Remote.lean ====
section
/-! DEFINITION. The remote unit rm at its issuing side (R285, R286, R290 to R296): the operations, their requests, and
the sending of what waits. -/

namespace Sys2Proof.Machine

/-- A handle of the fabric (R285). -/
def Handle.fabric (h : Handle) : Bool := h.ps == 14
/-- FABID.MOD (R288). (DESIGN CHOICE, log 5) -/
def State.fabid (s : State) : BitVec 12 := (s.hubReg 0).setWidth 12
/-- The module a request goes to (R285, R291). -/
def State.target (s : State) (h : Handle) : BitVec 12 := if h.fabric then h.pfn.extractLsb' 8 12 else s.fabid
/-- The place of a request: its window, or the module's own memory, and the offset there. -/
def RemoteOp.space (r : RemoteOp) : Option (BitVec 20) := if r.h.fabric then some (r.h.pfn.setWidth 20) else none
/-- A remote write: rst, rstv or rop (R291). -/
def RemoteOp.isWrite (r : RemoteOp) : Bool := r.kind == 3 || r.kind == 4 || r.kind == 5
/-- A remote load. -/
def RemoteOp.isLoad (r : RemoteOp) : Bool := r.kind == 1 || r.kind == 2
/-- Two requests share a byte. -/
def RemoteOp.meets (r q : RemoteOp) : Bool :=
  r.space == q.space && decide (r.off < q.off + q.n) && decide (q.off < r.off + r.n)
/-- Two requests touch one aligned 16-byte chunk (R291). -/
def RemoteOp.overlaps (r q : RemoteOp) : Bool :=
  r.space == q.space && decide (r.off / 16 ≤ (q.off + q.n - 1) / 16) && decide (q.off / 16 ≤ (r.off + r.n - 1) / 16)

/-- The remote entries of a release list, with their tokens. -/
def remoteItems (l : List RelItem) : List (Nat × RemoteOp) :=
  l.filterMap fun x => match x.body with | .remote r => some (x.tok, r) | _ => none

/-- An entry that orders remote accesses (R251). -/
def RelItem.drains (x : RelItem) : Bool := match x.body with | .rdrain => true | .rel sc => sc == .f | _ => false

/-- A remote load waits for its own context (R255, R257): for the writes before an rdrain or rel.f that was issued before it, and
for an rop issued before it on the same bytes. `fences` are the entries still to act, `writes` the writes still to be
acknowledged. (DEDUCED, log 69) -/
def loadWaits (fences : List RelItem) (writes : List (Nat × RemoteOp)) (tok : Nat) (r : RemoteOp) : Bool :=
  (fences.any fun f => f.drains && decide (f.tok < tok) && writes.any fun w => decide (w.1 < f.tok)) ||
    writes.any fun w => w.2.kind == 5 && decide (w.1 < tok) && w.2.meets r

/-- A context's remote writes that are released and unacknowledged, and those that stand on its release path, with their tokens. -/
def State.sentWrites (s : State) (ci : Nat) : List (Nat × RemoteOp) :=
  let c := s.ctx ci
  c.unacked ++ (s.hub.waiting.filter fun w => w.1 == ci && w.2.2.isWrite).map (·.2) ++
    (c.path.map fun p => remoteItems p.step1).flatten

/-- A context's remote writes that are gated or unacknowledged, oldest first (R291), with their tokens. -/
def State.ownRemote (s : State) (ci : Nat) : List (Nat × RemoteOp) := s.sentWrites ci ++ remoteItems (s.ctx ci).rel

/-- A request covers a byte of a space. -/
def RemoteOp.covers (r : RemoteOp) (sp : Option (BitVec 20)) (a : Nat) : Bool :=
  r.space == sp && decide (r.off ≤ a) && decide (a < r.off + r.n)

/-- The bytes of a load that the context's own remote writes hold, oldest first: mask and data (R291). A byte whose youngest write
is an rop's comes from the target. -/
def ownBytes (l : List RemoteOp) (sp : Option (BitVec 20)) (off n : Nat) : BitVec 128 × Lanes :=
  (List.range n).foldl (fun (acc : BitVec 128 × Lanes) i =>
    match l.reverse.find? fun r => r.isWrite && r.covers sp (off + i) with
    | none => acc
    | some r =>
      if r.kind = 5 then acc
      else
        let b : Byte := r.data.extractLsb' (8 * (off + i - r.off)) 8
        (acc.1 ||| (1 <<< i), acc.2 ||| ((b.setWidth 1024 : Lanes) <<< (8 * i)))) (0, 0)

/-- A load whose bytes in some aligned 16-byte chunk come partly from a write that is on its way, and partly from the target
(R129, R256): it waits, for another agent's write of that chunk may come between. (DEDUCED, log 69) -/
def RemoteOp.torn (r : RemoteOp) (own sent : List RemoteOp) : Bool :=
  (List.range ((r.n + 15) / 16)).any fun k =>
    let bytes := (List.range (min 16 (r.n - 16 * k))).map fun i => r.off + 16 * k + i
    let held := fun (l : List RemoteOp) (a : Nat) => (ownBytes l r.space a 1).1 != 0
    bytes.any (held sent) && !bytes.all (held own)

/-- The offset of a request: in its window, or the physical address (R285, R291). -/
def remoteOff (h : Handle) (x : Nat × Nat) : Nat := if h.fabric then x.1 % 2 ^ 32 else x.2

/-- The writes of a list older than a request. -/
def earlierWrites (l : List (Nat × RemoteOp)) (tok : Nat) : List RemoteOp := (l.filter fun w => decide (w.1 < tok)).map (·.2)

/-- A load as it is sent: with the bytes that its context's own writes hold (R291). (DEDUCED, log 69) -/
def RemoteOp.withOwn (r : RemoteOp) (l : List RemoteOp) : RemoteOp :=
  if r.isLoad then { r with mask := (ownBytes l r.space r.off r.n).1, data := (ownBytes l r.space r.off r.n).2 } else r

/-- The kinds of limit of a pitch's rst, rstv, rop and bclose. -/
def limRm : Nat := 4

/-- The request may go to the interface (R296, R255, R257): whether it waits behind an earlier request of its context; loads
behind loads of the same bytes (R260 orders no others), what `loadWaits` says and a write that would tear them (R256), writes behind
loads of the same bytes and writes of the same chunk (R291). (DEDUCED, log 69) -/
def State.mayBeSent (s : State) (before : List (Nat × Nat × RemoteOp)) (x : Nat × Nat × RemoteOp) : Bool :=
  let c := s.ctx x.1
  let r := x.2.2
  let sent := s.hub.tags.filterMap fun t => t.2.req
  let loads := (sent ++ before).any fun w => w.1 == x.1 && w.2.2.isLoad && w.2.2.meets r
  let writes := c.unacked.any (fun w => w.2.overlaps r) ||
    before.any fun w => w.1 == x.1 && w.2.2.isWrite && w.2.2.overlaps r
  if r.isLoad then
    !loads && !loadWaits ((c.path.map PitchRel.step1).flatten ++ c.rel) (s.ownRemote x.1) x.2.1 r &&
      !r.torn (earlierWrites (s.ownRemote x.1) x.2.1) (earlierWrites c.unacked x.2.1)
  else if r.isWrite then !loads && !writes else true

/-- A tag that may be used now (R294). -/
def State.freeTag (s : State) : Option Nat :=
  (List.range 4096).find? fun t =>
    let x := Tab.get {} s.hub.tags t
    x.req.isNone && (match x.last.find? fun e => e.1 == x.inc.toNat with
      | none => true
      | some e => decide (e.2 + 400000 ≤ s.dtime))

/-- The header flit's bits 191:0 (R290). -/
def headerBits (p : Packet) : BitVec 192 :=
  p.fseq ++ p.dmod ++ p.smod ++ p.world ++ p.kind ++ p.tag ++ p.inc ++ p.win ++ p.off ++ p.ftag ++ p.sctx ++ p.batch ++
    BitVec.ofBool p.errv ++ p.err ++ p.birth ++ (0 : BitVec 28)

/-- AUTH of a packet under this module's fabric header key of its world (R428). (DEDUCED, log 53) -/
def State.authOf (s : State) (p : Packet) : BitVec 64 :=
  macWord (Tab.get 0 s.hub.caddy.fabKey p.world.toNat) (bytesOf (headerBits p) 24)

/-- The key of a KEY for a slot in its world (R422), 0 where there is none. -/
def State.slotKey (s : State) (slot : BitVec 4) (key : BitVec 8) : Nat :=
  s.keyId (if s.prot slot.toNat then 1 else 0) slot.toNat key.toNat

/-- The 16-byte chunks of data a packet carries (R290): of an rop request the control flit and the operands. -/
def dataChunks (kind : BitVec 6) : Nat :=
  match kind.toNat with
  | 3 => 1 | 4 => 8 | 5 => 6 | 33 => 1 | 34 => 8 | 37 => 4 | _ => 0
/-- Eight bytes lie in their chunk as OFF places them, the rest zero. (DEDUCED, log 53) -/
def dataShift (p : Packet) : Nat := if dataChunks p.kind = 1 then 8 * (p.off.toNat % 16) else 0
/-- A packet's data flits, each chunk taken through a cipher with its tweak (R427). -/
def cipherData (p : Packet) (f : Nat → BitVec 128 → BitVec 128) (data : Lanes) : Lanes :=
  (List.range (dataChunks p.kind)).foldl (fun (d : Lanes) i =>
    let t := p.dmod.toNat * 2 ^ 36 + p.win.toNat * 2 ^ 28 + (p.off.toNat / 16 + i) % 2 ^ 28
    d ||| ((f t (data.extractLsb' (128 * i) 128)).setWidth 1024 <<< (128 * i))) 0
/-- A packet's data as the fabric port sends it (R424, R427): enciphered under KEY, but for a request of the module's own memory
(R263), and where there is no such key. (DEDUCED, log 53) -/
def State.sealed (s : State) (slot : BitVec 4) (p : Packet) : Packet :=
  let k := s.slotKey slot p.key
  if p.own ∨ k = 0 ∨ dataChunks p.kind = 0 then p
  else { p with data := cipherData p (fun t b => xtsEnc (keyBits k) t 0 b) (p.data <<< (dataShift p)) }
/-- A packet's data as the fabric port takes it in: deciphered under KEY (R424, R427). -/
def State.opened (s : State) (slot : BitVec 4) (p : Packet) : Lanes :=
  let k := s.slotKey slot p.key
  if p.own ∨ k = 0 ∨ dataChunks p.kind = 0 then p.data
  else cipherData p (fun t b => xtsDec (keyBits k) t 0 b) p.data >>> (dataShift p)

/-- What a request carries after its header (R290): the bytes of a write; the control word and operands of an rop. -/
def RemoteOp.flits (r : RemoteOp) : Lanes :=
  if r.kind = 5 then r.ctrl.setWidth 1024 ||| (r.data <<< 256) else if r.isWrite then r.data else 0

/-- The packet of a request (R290, R427). -/
def State.requestPacket (s : State) (ci tag : Nat) (r : RemoteOp) : Packet :=
  let world : BitVec 2 := if s.prot r.slot.toNat then 1 else 0
  let dmod := s.target r.h
  s.sealed r.slot
  { kind := r.kind, dmod := dmod, smod := s.fabid, world := world,
    fseq := 0, auth := 0, tag := BitVec.ofNat 12 tag,
    inc := (Tab.get {} s.hub.tags tag).inc,
    win := if r.h.fabric then r.h.pfn.setWidth 8 else BitVec.ofNat 8 (r.off / 2 ^ 32),
    off := BitVec.ofNat 32 r.off, ftag := (s.fabslot r.slot).setWidth 16, sctx := BitVec.ofNat 9 ci, batch := r.batch,
    errv := false, err := 0, birth := BitVec.ofNat 12 (s.dtime / 1000), key := r.h.key,
    keyOk := s.slotKey r.slot r.h.key != 0, own := !r.h.fabric, data := r.flits }

/-- A packet goes out: to this module itself, or to another (R290, R428). -/
def State.emit (s : State) (p : Packet) : State :=
  let k := p.dmod.toNat * 4 + p.world.toNat
  let s1 := { s with hub := { s.hub with fseqOut := Tab.put 0 s.hub.fseqOut k (Tab.get 0 s.hub.fseqOut k + 1) } }
  let n := { p with fseq := Tab.get 0 s.hub.fseqOut k }
  let q := { n with auth := s.authOf n }
  if p.dmod = s.fabid then { s1 with net := s1.net ++ [.packet q] } else { s1 with out := s1.out ++ [.packet q] }

/-- A write's peer joins its batch (R292). -/
def Batch.addPeer (b : Batch) (m : BitVec 12) : Batch :=
  if b.peers.contains m then b
  else if 64 ≤ b.peers.length then { b with ovl := true }
  else { b with peers := b.peers ++ [m] }

/-- A remote operation's result or acknowledgement reaches its context (R291, R292, R295): `cls` is its error class. -/
def State.remoteDone (s : State) (ci tok : Nat) (r : RemoteOp) (cls : Option (BitVec 4)) (data : Lanes) : State :=
  let m : Mark := match cls with | none => .clean | some c => .remote c (BitVec.ofNat 64 r.ea)
  let s0 := if r.kind = 5 ∧ (s.ctx ci).unacked.any (fun w => w.1 == tok) then
      s.answer ci tok { data := data &&& BitVec.ofNat 1024 (2 ^ 512 - 1) } m else s
  s0.modCtx ci fun c =>
    if r.isLoad then
      let bytes := lanesOf 8 ((List.range 128).map fun i =>
        if r.mask.getLsbD i then elem 8 r.data i else if i < r.n then elem 8 data i else 0)
      ({ c.landDue s.cycle with remote := c.remote.filter (·.1 != tok) }).deliver tok { data := bytes } m
    else if r.kind = 6 then
      match c.closing with
      | some k =>
        if k.wait.contains tok then
          { c with closing := some { k with
              wait := k.wait.filter (· != tok)
              map := k.map ||| (match cls with | none => (data.setWidth 16) | some e => 1 <<< e.toNat)
              peers := if cls.isNone then k.peers + 1 else k.peers
              count := if cls.isNone then k.count + field data 32 32 else k.count } }
        else c
      | none => c
    else if c.unacked.any fun w => w.1 == tok then
      let b := Tab.get ({} : Batch) c.batches r.batch.toNat
      { c with
        unacked := c.unacked.filter fun w => w.1 != tok
        batches := match cls with
          | some e => if r.kind = 5 then c.batches else Tab.set c.batches r.batch.toNat { b with map := b.map ||| (1 <<< e.toNat) }
          | none => c.batches }
    else c

/-- A request that will have no answer is over for its context (R295, R296, R314): a load and an rop leave no mark, a write counts
as acknowledged, and a bclose waits for it no longer. -/
def Ctx.dropRequest (c : Ctx) (tok : Nat) : Ctx :=
  ({ c with
    remote := c.remote.filter (·.1 != tok)
    unacked := c.unacked.filter (·.1 != tok)
    closing := c.closing.map fun (k : Closing) => { k with wait := k.wait.filter (· != tok) } } : Ctx).abandon tok

/-- A request is sent (R291, R292, R294, R296): dropped where its generation is no longer current, answered with class 8
where its module is known to be down, else given the tag and put on the network. -/
def State.sendRequest (s : State) (ci tok tag : Nat) (r : RemoteOp) : State :=
  if r.gen ≠ s.gen r.slot then
    s.modCtx ci fun c => c.dropRequest tok
  else
    let r := r.withOwn (earlierWrites (s.ownRemote ci) tok)
    let peer := s.target r.h
    let s1 := s.modCtx ci fun c =>
      let b := Tab.get ({} : Batch) c.batches r.batch.toNat
      { c with
        unacked := if r.isWrite then c.unacked ++ [(tok, r)] else c.unacked
        batches := if r.kind = 3 ∨ r.kind = 4 then Tab.set c.batches r.batch.toNat (b.addPeer peer) else c.batches }
    if s.hub.downMods.contains peer then s1.remoteDone ci tok r (some 8) 0
    else
      let x := Tab.get ({} : Tag) s.hub.tags tag
      let p := s.requestPacket ci tag r
      let y : Tag := { x with req := some (ci, tok, r), sent := s.dtime, last := Tab.set x.last x.inc.toNat s.dtime }
      { s1.emit p with hub := { (s1.emit p).hub with tags := Tab.set s.hub.tags tag y } }

/-- The first waiting request that may be sent, with those before and after it. -/
def State.nextToSend (s : State) : List (Nat × Nat × RemoteOp) → List (Nat × Nat × RemoteOp) →
    Option ((Nat × Nat × RemoteOp) × List (Nat × Nat × RemoteOp))
  | _, [] => none
  | before, w :: r =>
    if s.mayBeSent before w then some (w, before ++ r) else s.nextToSend (before ++ [w]) r

/-- Send what can be sent, in order (R291, R294). -/
def State.pumpGo (s : State) : Nat → State
  | 0 => s
  | n + 1 =>
    match s.nextToSend [] s.hub.waiting, s.freeTag with
    | some (w, rest), some t =>
      (({ s with hub := { s.hub with waiting := rest } }).sendRequest w.1 w.2.1 t w.2.2).pumpGo n
    | _, _ => s

/-- Send what waits and may be sent. -/
def State.pump (s : State) : State := s.pumpGo s.hub.waiting.length

/-- A request joins those that wait to be sent, and what can be sent is. -/
def State.request (s : State) (ci tok : Nat) (r : RemoteOp) : State :=
  ({ s with hub := { s.hub with waiting := s.hub.waiting ++ [(ci, tok, r)] } }).pump

/-- A remote load (R291): 16 outstanding, the seventeenth blocks; it acts at issue. -/
def State.remoteLoad (s : State) (i : Instr) (f : OpM) (n : Nat) (kind : BitVec 6) (wb : Option Reg) : Res State :=
  inSlot 2 do
    s.opens i
    if !s.guard f.g then pure s
    else do
      let t ← s.readT f.t
      let h ← s.useHandle f.h.toNat fun h => effAddr h t.word (dispOf f) n
      let x ← formAddr h t.word (dispOf f) n n n true false false true false
      if 16 ≤ s.me.remote.length then blockAt .pendingRead
      let (tok, s1) := s.newTok
      let r : RemoteOp :=
        { h := h, ea := x.1, off := remoteOff h x, n := n, kind := kind, batch := 0, ctrl := 0, data := 0, mask := 0,
          slot := s.coreSlot s.cur.core, gen := s.coreGen s.cur.core }
      let s2 := s1.pendOn (.rl 0xC :: wb.toList) tok 12 (loadWaits s1.me.rel (remoteItems s1.me.rel) tok r)
      pure ((s2.modMe fun c => { c with remote := c.remote ++ [(tok, c.pitch, s.cur.seq)] }).request s.cid tok r)

/-- rld: 8 bytes (R291). -/
def opRld (f : OpM) (s : State) : Res State := s.remoteLoad (.rld f) f 8 1 (s.wbS f.w)
/-- rld (R291). -/
def execRld (f : OpM) (s : State) : Host.Outcome State Fault Refusal := settle s (opRld f s)
/-- rldv: 128 bytes (R291). -/
def opRldv (f : OpM) (s : State) : Res State := s.remoteLoad (.rldv f) f 128 2 (wbV f.w)
/-- rldv (R291). -/
def execRldv (f : OpM) (s : State) : Host.Outcome State Fault Refusal := settle s (opRldv f s)

/-- A gated remote store (R291). -/
def State.remoteStore (s : State) (i : Instr) (b : BitVec 2) (f : OpM) (n : Nat) (kind : BitVec 6) : Res State :=
  inSlot 2 do
    s.opens i
    let s0 ← s.limit limRm 16 12
    if !s.guard f.g then pure s0
    else do
      let t ← s.readT f.t
      let l ← s.readLatch 12
      let h ← s.useHandle f.h.toNat fun h => effAddr h l.lo (dispOf f) n
      let x ← formAddr h l.lo (dispOf f) n n n false true false true false
      let (tok, s1) := s0.newTok
      pure (s1.addRel tok 12 (.remote
        { h := h, ea := x.1, off := remoteOff h x, n := n, kind := kind, batch := b, ctrl := 0,
          data := if n = 8 then t.word.setWidth 1024 else t.wide.data, mask := 0, slot := s.coreSlot s.cur.core,
          gen := s.coreGen s.cur.core }))

/-- rst: 8 bytes (R291). -/
def opRst (b : BitVec 2) (f : OpM) (s : State) : Res State := s.remoteStore (.rst b f) b f 8 3
/-- rst (R291). -/
def execRst (b : BitVec 2) (f : OpM) (s : State) : Host.Outcome State Fault Refusal := settle s (opRst b f s)
/-- rstv: 128 bytes (R291). -/
def opRstv (b : BitVec 2) (f : OpM) (s : State) : Res State := s.remoteStore (.rstv b f) b f 128 4
/-- rstv (R291). -/
def execRstv (b : BitVec 2) (f : OpM) (s : State) : Host.Outcome State Fault Refusal := settle s (opRstv b f s)

/-- KOP of a control word (R297). -/
def kopOf (w : Word) : Nat := field w 0 8
/-- A control word R297 defines: its KOP and its reserved bits. -/
def kopOk (w : Word) : Bool :=
  field w 29 35 == 0 && ((1 ≤ kopOf w && kopOf w ≤ 6) || (64 ≤ kopOf w && kopOf w ≤ 127))
/-- The alignment and size of off by KOP (R297). -/
def kopSize (k : Nat) : Nat := if k = 2 then 16 else if k = 3 then 32 else 8

/-- rop: an operation packet for a kettle (R291, R297). -/
def opRop (f : OpM) (s : State) : Res State :=
  inSlot 2 do
    s.opens (.rop f)
    let s0 ← s.limit limRm 16 12
    if !s.guard f.g then pure s0
    else do
      let t ← s.readT f.t
      let l ← s.readLatch 12
      if !kopOk l.hi then raise 4 0 12
      let n := kopSize (kopOf l.hi)
      let h ← s.useHandle f.h.toNat fun h => effAddr h l.lo (dispOf f) n
      let x ← formAddr h l.lo (dispOf f) n n n true true false true false
      let (tok, s1) := s0.newTok
      let s2 := s1.pendOn (.rl 0xC :: (wbV f.w).toList) tok 12 true
      pure (s2.addRel tok 12 (.remote
        { h := h, ea := x.1, off := remoteOff h x, n := n, kind := 5, batch := 0, ctrl := l.hi,
          data := t.wide.data &&& BitVec.ofNat 1024 (2 ^ 512 - 1), mask := 0, slot := s.coreSlot s.cur.core,
          gen := s.coreGen s.cur.core }))
/-- rop (R291). -/
def execRop (f : OpM) (s : State) : Host.Outcome State Fault Refusal := settle s (opRop f s)

/-- bclose: closes a batch at release (R291, R292). -/
def opBclose (b : BitVec 2) (f : OpM) (s : State) : Res State :=
  inSlot 2 do
    s.opens (.bclose b f)
    let s0 ← s.limit limRm 16 12
    if !s.guard f.g then pure s0
    else do
      let t ← s.readT f.t
      let (tok, s1) := s0.newTok
      let s2 := s1.pendOn (.rl 0xC :: (s.wbS f.w).toList) tok 12 true
      pure (s2.addRel tok 12 (.bclose b (t.word.setWidth 8) (t.word.extractLsb' 8 4)))
/-- bclose (R291). -/
def execBclose (b : BitVec 2) (f : OpM) (s : State) : Host.Outcome State Fault Refusal := settle s (opBclose b f s)

/-- rdrain: blocks until the remote loads issued before it have landed, and enters the release list (R248, R251). -/
def opRdrain (f : OpM) (s : State) : Res State :=
  inSlot 2 do
    s.opens (.rdrain f)
    let s0 ← s.limit limFence 8 12
    if !s.guard f.g then pure s0
    else if !s.me.remote.isEmpty then blockAt .pendingRead
    else
      let (tok, s1) := s0.newTok
      pure (s1.addRel tok 12 .rdrain)
/-- rdrain (R248, R251). -/
def execRdrain (f : OpM) (s : State) : Host.Outcome State Fault Refusal := settle s (opRdrain f s)

/-- Every remote write a context has released is acknowledged or timed out (R251, R295). (DEDUCED, log 35) -/
def State.remoteQuiet (s : State) (ci : Nat) : Bool :=
  (s.ctx ci).unacked.isEmpty && !s.hub.waiting.any fun w => w.1 == ci && w.2.2.isWrite

/-- Room for one more remote write on the context's release path (R291): 64 unacknowledged. -/
def State.remoteRoom (s : State) (ci : Nat) : Bool :=
  decide ((s.ctx ci).unacked.length + (s.hub.waiting.filter fun w => w.1 == ci && w.2.2.isWrite).length < 64)

/-- A write of batch b to peer m that is not acknowledged (R292). -/
def State.batchLive (s : State) (ci : Nat) (b : BitVec 2) (m : BitVec 12) : Bool :=
  let mine := fun (r : RemoteOp) => (r.kind == 3 || r.kind == 4) && r.batch == b && s.target r.h == m
  (s.ctx ci).unacked.any (fun w => mine w.2) || s.hub.waiting.any fun w => w.1 == ci && mine w.2.2

/-- A bclose's close request to a peer (R292), under the issue generation of the bclose. -/
def closeOp (slot : BitVec 4) (gen : BitVec 12) (b : BitVec 2) (m own : BitVec 12) : RemoteOp :=
  { h := if m = own then { st := .valid, slot := slot, gen := gen }
      else { ps := 14, pfn := (m.setWidth 27) <<< 8, st := .valid, slot := slot, gen := gen },
    ea := 0, off := 0, n := 0, kind := 6, batch := b, ctrl := 0, data := 0, mask := 0, slot := slot, gen := gen }

/-- A write of batch b has not been sent: its peer is not yet recorded (R292). -/
def State.batchUnsent (s : State) (ci : Nat) (b : BitVec 2) : Bool :=
  s.hub.waiting.any fun w => w.1 == ci && (w.2.2.kind == 3 || w.2.2.kind == 4) && w.2.2.batch == b

/-- The release path at a bclose (R292): one of a stale generation is dropped (R314); it begins, once every write of the batch has
been sent; it asks the next peer whose
writes are all acknowledged; and once every summary is in, the result lands and the semaphore is raised. The flag says that it
is over. -/
def State.closeStep (s : State) (ci : Nat) (x : RelItem) (b : BitVec 2) (sem : BitVec 8) (inc : BitVec 4) : Nat → State × Bool
  | 0 => (s, false)
  | n + 1 =>
    let c := s.ctx ci
    if x.gen ≠ s.gen x.slot then (s.modCtx ci fun c => { c with closing := none }, true)
    else match c.closing with
    | none =>
      if s.batchUnsent ci b then (s, false) else
      let k : Closing := ⟨b, (Tab.get ({} : Batch) c.batches b.toNat).peers, [], 0, 0, 0⟩
      (s.modCtx ci fun c => { c with closing := some k }).closeStep ci x b sem inc n
    | some k =>
      match k.left with
      | m :: r =>
        if s.batchLive ci b m then (s, false)
        else
          let (tok, s1) := s.newTok
          let s2 := s1.modCtx ci fun c => { c with closing := some { k with left := r, wait := k.wait ++ [tok] } }
          (s2.request ci tok (closeOp x.slot x.gen b m s.fabid)).closeStep ci x b sem inc n
      | [] =>
        if !k.wait.isEmpty then (s, false)
        else
          let bt := Tab.get ({} : Batch) c.batches b.toNat
          let map := k.map ||| bt.map ||| (if bt.ovl then 0x8000 else 0)
          let res : Word := BitVec.ofNat 64 (map.toNat * 2 ^ 48 + k.peers * 2 ^ 40 + k.count % 2 ^ 32)
          let s0 := s.modCtx ci fun c => { c with closing := none, batches := Tab.set c.batches b.toNat {} }
          let s1 := s0.answer ci x.tok { data := res.setWidth 1024 } .clean
          (s1.addSem (ci / 4) sem (if inc = 0 then 1 else inc.toNat), true)

end Sys2Proof.Machine
end

