-- ==== Sys2Proof/Machine/Fabric.lean ====
section
/-! DEFINITION. The receiving side of the fabric (R287, R289, R292, R293, R427, R428), the kettle (R297 to R299), and
replies, timeouts and the tally table (R292, R294 to R296). -/

namespace Sys2Proof.Machine

/-- An FXWIN entry (R289). -/
def State.fxwin (s : State) (x : Nat) : BitVec 128 := s.hubReg (0x1000 + 16 * x + 8) ++ s.hubReg (0x1000 + 16 * x)

/-- An entry as it counts: none where EN = 0 or it is treated so (R289). -/
def fxEnabled (e : BitVec 128) : Bool :=
  e.getLsbD 127 && decide (field e 104 5 ≤ 20) && field e 27 53 == 0 && field e 0 27 % 2 ^ field e 104 5 == 0

/-- Where a request performs: the access it makes, its physical address, and the region's base and size (R287, R297). -/
structure Served where
  acc  : Acc
  pa   : Nat
  base : Nat
  size : Nat
  deriving DecidableEq, Repr

/-- The request of this module's own memory that a packet stands for (R263, R291). (DEDUCED, log 53) -/
def State.localReq (s : State) (p : Packet) : Option RemoteOp :=
  let t := Tab.get ({} : Tag) s.hub.tags p.tag.toNat
  match t.req with
  | some (_, _, r) =>
    if p.smod = s.fabid ∧ p.dmod = s.fabid ∧ t.inc = p.inc ∧ !r.h.fabric ∧ r.kind = p.kind then some r else none
  | none => none

/-- A key a fabric request may use (R427): 0 or group-shared, the window's, loaded on both modules. -/
def State.fabricKey (s : State) (p : Packet) (slot : BitVec 4) (key : BitVec 8) : Bool :=
  (p.key == 0 || decide (128 ≤ p.key.toNat)) && p.key == key && p.keyOk && s.slotKey slot key != 0

/-- The checks of R287 for n bytes at a packet's offset, in their order, and of R310 and R427; the class of the first
that fails. -/
def State.admitPacket (s : State) (p : Packet) (n : Nat) (rd wr : Bool) : Except (BitVec 4) Served :=
  match p.own, s.localReq p with
  | true, none => .error 9
  | true, some r =>
    let a : Acc := ⟨some r.slot, r.gen, true, r.h.key, 0⟩
    let size := pageBytes r.h.ps.toNat
    let v : Served := ⟨a, r.off, r.h.pfn.toNat * 4096, size⟩
    if s.refused a r.off then .error 0
    else if s.staleAcc a then .error 2
    else if s.keyId (s.blockWorld r.off) (s.owner r.off) r.h.key.toNat = 0 then .error 14
    else .ok v
  | false, _ =>
    let e := s.fxwin p.win.toNat
    let slot : BitVec 4 := e.extractLsb' 121 4
    let gen : BitVec 12 := e.extractLsb' 109 12
    let size := 2 ^ (field e 104 5 + 12)
    let base := field e 0 27 * 4096
    let a : Acc := ⟨some slot, gen, false, e.extractLsb' 96 8, 0⟩
    if s.hub.down then .error 13
    else if !fxEnabled e then .error 0
    else if e.extractLsb' 80 16 ≠ p.ftag then .error 1
    else if gen ≠ s.gen slot then .error 2
    else if (rd && !e.getLsbD 126) || (wr && !e.getLsbD 125) then .error 3
    else if size < p.off.toNat + n then .error 4
    else if !s.fabricKey p slot (e.extractLsb' 96 8) then .error 14
    else if s.refused a (base + p.off.toNat) then .error 0
    else .ok ⟨a, base + p.off.toNat, base, size⟩

/-- The reply to a request (R290), with an error class or without. -/
def replyOf (own : BitVec 12) (p : Packet) (cls : Option (BitVec 4)) (data : Lanes) : Packet :=
  { p with kind := p.kind + 32, dmod := p.smod, smod := own, errv := cls.isSome, err := cls.getD 0, data := data }

/-- A request leaves the queue of accepted packets. -/
def State.takeNet (s : State) (m : Msg) : Option State :=
  if s.net.contains m then some { s with net := s.net.erase m } else none

/-- Older than 400 us by its BIRTH (R290). -/
def State.tooOld (s : State) (p : Packet) : Bool :=
  decide (400 < ((BitVec.ofNat 12 (s.dtime / 1000) - p.birth : BitVec 12)).toNat)

/-- The slot of the window a packet names (R289): a reply is enciphered under its key, as the request was. -/
def State.windowSlot (s : State) (p : Packet) : BitVec 4 := (s.fxwin p.win.toNat).extractLsb' 121 4

/-- Serve an accepted request of a kind once: what it does and what is replied (R287, R290). (DEDUCED, log 53) -/
def State.serve (s : State) (p : Packet) (kind : BitVec 6) (act : State → Option (BitVec 4) × Lanes × State) : State :=
  if p.kind ≠ kind ∨ p.dmod ≠ s.fabid then s
  else
    match s.takeNet (.packet p) with
    | none => s
    | some s1 =>
      if s1.tooOld p then s1
      else
        let (cls, data, s2) := act s1
        s2.emit (s2.sealed (s2.windowSlot p) { replyOf s2.fabid p cls data with birth := BitVec.ofNat 12 (s2.dtime / 1000) })

/-- A remote access that its block refuses is counted at the slice (R310). -/
def State.countAdmit (s : State) (p : Packet) : State :=
  let e := s.fxwin p.win.toNat
  let (a, pa) := match p.own, s.localReq p with
    | true, some r => ((⟨some r.slot, r.gen, true, r.h.key, 0⟩ : Acc), r.off)
    | _, _ => ((⟨some (e.extractLsb' 121 4), e.extractLsb' 109 12, false, e.extractLsb' 96 8, 0⟩ : Acc),
        field e 0 27 * 4096 + p.off.toNat)
  if (p.own || fxEnabled e) && s.refused a pa then s.countRef pa else s

/-- A remote load served (R287, R413): a poisoned target gives class 6. -/
def State.serveLoad (s : State) (p : Packet) (n : Nat) : Option (BitVec 4) × Lanes × State :=
  match s.admitPacket p n true false with
  | .error c => (some c, 0, if c = 0 then s.countAdmit p else s)
  | .ok v =>
    let l := s.homeReads v.acc v.pa n
    let s1 := s.l2Fill v.pa v.acc.slot
    if l.any Prod.snd then (some 6, 0, s1) else (none, ofBytes 1024 (l.map Prod.fst), s1)

/-- RLD_REQUEST (R287, R290, R291). -/
def execRldRequest (p : Packet) (s : State) : Host.Outcome State Fault Refusal :=
  .next (s.serve p 1 fun x => x.serveLoad p 8)
/-- RLDV_REQUEST (R287, R290, R291). -/
def execRldvRequest (p : Packet) (s : State) : Host.Outcome State Fault Refusal :=
  .next (s.serve p 2 fun x => x.serveLoad p 128)

/-- The tally entry of a write (R292). -/
def Tally.forPacket (t : Tally) (p : Packet) : Bool := t.smod == p.smod && t.sctx == p.sctx && t.batch == p.batch

/-- A batch's write noted in its tally entry (R292): performed, or refused with a class. (DEDUCED, log 53) -/
def State.tallyNote (s : State) (p : Packet) (cls : Option (BitVec 4)) : State :=
  let note := fun (t : Tally) =>
    if t.forPacket p then
      { t with used := s.dtime, count := if cls.isNone then t.count + 1 else t.count,
               map := match cls with | none => t.map | some c => t.map ||| (1 <<< c.toNat) }
    else t
  { s with hub := { s.hub with tally := s.hub.tally.map note } }

/-- A remote store served (R287, R292): a tally entry is found or made, and a full table refuses with class 13. -/
def State.serveStore (s : State) (p : Packet) (n : Nat) : Option (BitVec 4) × Lanes × State :=
  let known := s.hub.tally.any fun t => t.forPacket p
  if !known ∧ 4096 ≤ s.hub.tally.length then (some 13, 0, s)
  else
    let s1 := if known then s
      else { s with hub := { s.hub with tally := s.hub.tally ++ [⟨p.smod, p.sctx, p.batch, 0, 0, s.dtime⟩] } }
    match s1.admitPacket p n false true with
    | .error c => (some c, 0, (if c = 0 then s1.countAdmit p else s1).tallyNote p (some c))
    | .ok v =>
      let data := s1.opened (s1.windowSlot p) p
      (none, 0, ((s1.l2Fill v.pa v.acc.slot).homeWrites v.acc v.pa (bytesOf data n)).tallyNote p none)

/-- RST_REQUEST (R287, R291, R292). -/
def execRstRequest (p : Packet) (s : State) : Host.Outcome State Fault Refusal :=
  .next (s.serve p 3 fun x => x.serveStore p 8)
/-- RSTV_REQUEST (R287, R291, R292). -/
def execRstvRequest (p : Packet) (s : State) : Host.Outcome State Fault Refusal :=
  .next (s.serve p 4 fun x => x.serveStore p 128)

/-- A write of a packet's batch that has been accepted and not served stands in the queue. -/
def Msg.batchWrite (p : Packet) : Msg → Bool
  | .packet q => (q.kind == 3 || q.kind == 4) && q.smod == p.smod && q.sctx == p.sctx && q.batch == p.batch && q.dmod == p.dmod
  | _ => false

/-- CLOSE_REQUEST (R292): the summary of the batch is replied and its tally entry freed. It follows every write of the batch that
has reached this module. -/
def execCloseRequest (p : Packet) (s : State) : Host.Outcome State Fault Refusal :=
  if s.net.any (Msg.batchWrite p) then .next s
  else .next (s.serve p 6 fun x =>
    let t := x.hub.tally.find? fun t => t.forPacket p
    let sum : Nat := match t with | some t => t.map.toNat + t.count % 2 ^ 32 * 2 ^ 32 | none => 0
    (none, BitVec.ofNat 1024 sum, { x with hub := { x.hub with tally := x.hub.tally.filter fun t => !t.forPacket p } }))

/-- A kettle operation under way: the region, the access, the writes it buffers, by region offset (R298), and the home addresses
it has come to. -/
structure Ket where
  v : Served
  w : Tab Byte := []
  seen : List Nat := []
  deriving DecidableEq, Repr

/-- A part of a kettle operation: its value or the class it is refused with, and how far the operation has come. -/
abbrev KetM := ExceptT (BitVec 4) (StateM Ket)

/-- An address of a kettle operation, checked against its region (R297) and its owner (R287). (DEDUCED, log 54) -/
def State.ketAddr (s : State) (x : Word) : KetM Unit := do
  let k ← get
  if k.v.size < x.toNat + 8 then throw 4
  if x.toNat % 8 ≠ 0 then throw 5
  modify fun k => { k with seen := k.seen ++ [k.v.base + x.toNat] }
  if s.refused k.v.acc (k.v.base + x.toNat) then throw 0

/-- M8(x) (R297). -/
def State.m8 (s : State) (x : Word) : KetM Word := do
  s.ketAddr x
  let k ← get
  let l := (List.range 8).map fun i =>
    match k.w.find? fun e => e.1 == x.toNat + i with
    | some e => (e.2, false)
    | none => s.homeRead k.v.acc (k.v.base + x.toNat + i)
  if l.any Prod.snd then throw 6
  pure (ofBytes 64 (l.map Prod.fst))

/-- M8(x) := v, buffered (R298). -/
def State.m8Set (s : State) (x v : Word) : KetM Unit := do
  s.ketAddr x
  modify fun k => { k with w := (bytesOf v 8).zipIdx.foldl (fun w e => Tab.set w (x.toNat + e.2) e.1) k.w }

/-- What a kettle operation answers: y1 to y7, and SUCCESS. -/
abbrev KetRes := KetM (List Word × Bool)

/-- A compare and swap of n words at off (R297). -/
def State.ketCas (s : State) (off : Word) (a : Nat → Word) (n : Nat) : KetRes := do
  let old ← (List.range n).mapM fun i => s.m8 (off + BitVec.ofNat 64 (8 * i))
  if old = (List.range n).map a then
    (List.range n).forM fun i => s.m8Set (off + BitVec.ofNat 64 (8 * i)) (a (n + i))
    pure (old, true)
  else pure (old, false)

/-- The hops of a chase (R297): the node reached and the hops taken. -/
def State.ketChase (s : State) (nxt keyw : Word) (cmp : Option Word) : Nat → Word → Nat → KetM (Word × Nat)
  | 0, p, n => pure (p, n)
  | f + 1, p, n => do
    if p = 0 then pure (p, n)
    else
      let hit ← match cmp with
        | none => pure false
        | some c => do
          let w ← s.m8 (p + 8 * keyw)
          pure (w == c)
      if hit then pure (p, n)
      else
        let q ← s.m8 (p + 8 * nxt)
        s.ketChase nxt keyw cmp f q (n + 1)

/-- One step of a user routine (R299): its registers, and how many steps on it goes; none ends it. (DEDUCED, log 54) -/
def State.ketStep (s : State) (reg : Tab Word) (step : BitVec 32) : KetM (Option (Tab Word × Nat)) := do
  let g := fun (i : Nat) => Tab.get (0 : Word) reg i
  let d := field step 25 3
  let a := g (field step 22 3)
  let b := g (field step 19 3)
  let sx : Word := (step.extractLsb' 0 16).signExtend 64
  let sh := field step 0 6
  let put := fun (v : Word) => (some (Tab.put 0 reg d v, 1) : Option (Tab Word × Nat))
  if field step 16 3 ≠ 0 then throw 12
  else
    match field step 28 4 with
    | 0 => pure none
    | 1 => do
      let v ← s.m8 (a + 8 * sx)
      pure (put v)
    | 2 => do
      s.m8Set (a + 8 * sx) b
      pure (some (reg, 1))
    | 3 => pure (put sx)
    | 4 => pure (put (a + b))
    | 5 => pure (put (a + sx))
    | 6 => pure (put (a - b))
    | 7 => pure (put (a &&& b))
    | 8 => pure (put (a ||| b))
    | 9 => pure (put (a ^^^ b))
    | 10 => pure (put (a <<< sh))
    | 11 => pure (put (a >>> sh))
    | 12 => pure (put (if a.slt b then b else a))
    | 13 => pure (put (if a ≠ 0 then b else g d))
    | 14 => pure (some (reg, if a = b then 1 + field step 0 5 else 1))
    | _ => pure (some (reg, if a ≠ b then 1 + field step 0 5 else 1))

/-- A user routine from a step on (R299). -/
def State.ketRun (s : State) (step : Nat → BitVec 32) : Nat → Tab Word → Nat → KetM (Tab Word)
  | 0, reg, _ => pure reg
  | f + 1, reg, pc => do
    if 32 ≤ pc then pure reg
    else
      match ← s.ketStep reg (step pc) with
      | none => pure reg
      | some (r, n) => s.ketRun step f r (pc + n)

/-- A user routine (R299): owned by the requester's slot at its current generation, or refused with class 11. -/
def State.ketRoutine (s : State) (off : Word) (a : Nat → Word) (r : Nat) : KetRes := do
  let k ← get
  let e := s.hubReg (0x2000 + 8 * r)
  let slot := k.v.acc.slot.getD 0
  if !e.getLsbD 63 ∨ e.extractLsb' 12 4 ≠ slot ∨ e.extractLsb' 0 12 ≠ s.gen slot then throw 11
  else
    let tbl := (s.hubReg 0x18).toNat + 128 * r
    let l := s.homeReads hwAcc tbl 128
    if l.any Prod.snd then throw 6
    else
      let step := fun (i : Nat) => (ofBytes 32 (((l.map Prod.fst).drop (4 * i)).take 4) : BitVec 32)
      let reg := (List.range 7).foldl (fun (t : Tab Word) i => Tab.put 0 t (i + 1) (a i)) (Tab.put 0 [] 0 off)
      let reg ← s.ketRun step 32 reg 0
      pure ((List.range 7).map (fun i => Tab.get 0 reg (i + 1)), false)

/-- A kettle operation (R297, R299): off is its region offset, c its control word, a its operands. -/
def State.kettle (s : State) (off c : Word) (a : Nat → Word) : KetRes :=
  if !kopOk c then throw 10
  else
    match kopOf c with
    | 1 => do
      let old ← s.m8 off
      s.m8Set off (old + a 0)
      pure ([old], false)
    | 2 => s.ketCas off a 2
    | 3 => s.ketCas off a 4
    | 4 => do
      let n := a 0
      if n = 0 then throw 4
      let tail ← s.m8 (off + 8)
      s.m8Set n 0
      s.m8Set (if tail = 0 then off else tail) n
      s.m8Set (off + 8) n
      pure ([tail], false)
    | 5 => do
      let n ← s.m8 off
      if n = 0 then pure ([0], false)
      else do
        let h ← s.m8 n
        s.m8Set off h
        if h = 0 then s.m8Set (off + 8) 0
        pure ([n], true)
    | 6 => do
      let p ← s.m8 off
      let (q, n) ← s.ketChase (BitVec.ofNat 64 (field c 12 8)) (BitVec.ofNat 64 (field c 20 8))
        (if c.getLsbD 28 then some (a 0) else none) (field c 8 4 + 1) p 0
      let words ← if q = 0 then pure [] else (List.range 5).mapM fun i => s.m8 (q + BitVec.ofNat 64 (8 * i))
      pure ([q, BitVec.ofNat 64 n] ++ words, false)
    | r => s.ketRoutine off a (r - 64)

/-- The eight words of a reply (R297). -/
def ketReply (r : Except (BitVec 4) (List Word × Bool)) : Lanes :=
  match r with
  | .error c => BitVec.ofNat 1024 (16 + c.toNat * 256)
  | .ok (l, suc) => BitVec.ofNat 1024 (1 + (if suc then 2 else 0) + ofElems 64 (0 :: l.map BitVec.toNat))

/-- The buffered writes of a kettle operation perform together (R298). -/
def State.ketApply (s : State) (k : Ket) : State :=
  k.w.foldl (fun x e => x.homeWrite k.v.acc [(k.v.base + e.1, e.2)]) s

/-- The words a kettle operation has come to meet their home slices, whether it performs or is refused (R139, R310, R423). -/
def State.ketTouch (s : State) (k : Ket) : State :=
  k.seen.eraseDups.foldl (fun x a =>
    if x.refused k.v.acc a then x.countRef a else (x.l2Fill a k.v.acc.slot).countRead k.v.acc a) s

/-- An rop served (R287, R297, R298): its control word and operands are those of its flits (R290). (DEDUCED, log 53) -/
def State.serveRop (s : State) (p : Packet) : Option (BitVec 4) × Lanes × State :=
  let d := s.opened (s.windowSlot p) p
  let c : Word := d.setWidth 64
  match s.admitPacket p (kopSize (kopOf c)) true true with
  | .error e => (some e, ketReply (.error e), if e = 0 then s.countAdmit p else s)
  | .ok v =>
    match (s.kettle (BitVec.ofNat 64 (v.pa - v.base)) c fun i => d.extractLsb' (256 + 64 * i) 64).run.run { v := v } with
    | (.error e, k) => (some e, ketReply (.error e), s.ketTouch k)
    | (.ok r, k) => (none, ketReply (.ok r), (s.ketTouch k).ketApply k)

/-- ROP_REQUEST (R297, R298): one instant, no other access between its first read and its last write. -/
def execRopRequest (p : Packet) (s : State) : Host.Outcome State Fault Refusal :=
  .next (s.serve p 5 fun x => x.serveRop p)

/-- A reply that is not outstanding is discarded and counted (R288, R295). -/
def State.lateReply (s : State) : State :=
  s.setHubReg 0x10 (BitVec.ofNat 64 (min ((s.hubReg 0x10).toNat + 1) (2 ^ 32 - 1)))

/-- A reply of a kind reaches this module (R291, R295, R296): its tag is freed, its context takes it, and what waited is
sent. One whose issuing slot has advanced is discarded. -/
def State.takeReply (s : State) (p : Packet) (ok : BitVec 6 → Bool) : State :=
  if p.dmod ≠ s.fabid ∨ !(decide (33 ≤ p.kind.toNat) && ok (p.kind - 32)) then s
  else
    match s.takeNet (.packet p) with
    | none => s
    | some s1 =>
      if s1.tooOld p then s1
      else
        let t := Tab.get ({} : Tag) s1.hub.tags p.tag.toNat
        match t.req with
        | none => s1.lateReply
        | some (ci, tok, r) =>
          if t.inc ≠ p.inc ∨ r.kind ≠ p.kind - 32 then s1.lateReply
          else
            let s2 := { s1 with hub := { s1.hub with tags := Tab.set s1.hub.tags p.tag.toNat { t with req := none } } }
            let s3 := if r.gen ≠ s.gen r.slot then s2.modCtx ci fun c => c.dropRequest tok
              else s2.remoteDone ci tok r (if p.errv then some p.err else none) (s2.opened r.slot p)
            s3.pump

/-- RLD_REPLY (R291, R295). -/
def execRldReply (p : Packet) (s : State) : Host.Outcome State Fault Refusal := .next (s.takeReply p (· == 1))
/-- RLDV_REPLY (R291, R295). -/
def execRldvReply (p : Packet) (s : State) : Host.Outcome State Fault Refusal := .next (s.takeReply p (· == 2))
/-- ROP_REPLY (R291, R295, R297). -/
def execRopReply (p : Packet) (s : State) : Host.Outcome State Fault Refusal := .next (s.takeReply p (· == 5))
/-- WRITE_ACKNOWLEDGEMENT (R251, R291, R295). -/
def execWriteAcknowledgement (p : Packet) (s : State) : Host.Outcome State Fault Refusal :=
  .next (s.takeReply p fun k => k == 3 || k == 4)
/-- SUMMARY_REPLY (R292, R295). -/
def execSummaryReply (p : Packet) (s : State) : Host.Outcome State Fault Refusal := .next (s.takeReply p (· == 6))

/-- RTOUT in ns (R288). -/
def State.rtout (s : State) : Nat := (s.hubReg 8).toNat * 1000

/-- A request with no reply after RTOUT (R295): it lands with class 9, and its tag is freed under the next incarnation. At a tag
that has become free, what waits is sent (R294). -/
def State.requestTimeout (s : State) (tag : Nat) : State :=
  let t := Tab.get ({} : Tag) s.hub.tags tag
  match t.req with
  | none => s.pump
  | some (ci, tok, r) =>
    if s.dtime < t.sent + s.rtout then s
    else
      let s1 := { s with hub := { s.hub with tags := Tab.set s.hub.tags tag { t with req := none, inc := t.inc + 1 } } }
      let s2 := if r.gen ≠ s.gen r.slot then s1.modCtx ci fun c => c.dropRequest tok else s1.remoteDone ci tok r (some 9) 0
      s2.pump

/-- TALLY_EXPIRY (R292): an entry unused for 10 ms is freed. -/
def execTallyExpiry (smod : BitVec 12) (sctx : BitVec 9) (batch : BitVec 2) (s : State) : Host.Outcome State Fault Refusal :=
  .next { s with hub := { s.hub with tally := s.hub.tally.filter fun t =>
    !(t.smod == smod && t.sctx == sctx && t.batch == batch && decide (t.used + 10000000 ≤ s.dtime)) } }

/-- Every fabric handle of a slot is revoked wherever it stands (R120, R285). -/
def State.revokeFabric (s : State) (slot : BitVec 4) : State :=
  { s with ctxs := s.ctxs.map fun e =>
      (e.1, e.2.mapHandle fun h => if h.ps = 14 ∧ h.slot = slot ∧ h.st = .valid then { h with st := .revoked } else h) }

/-- FABSLOT_WRITE (R285, R288): ignored with a reserved bit set; it revokes the slot's fabric handles. -/
def execFabslotWrite (slot : BitVec 4) (v : Word) (s : State) : Host.Outcome State Fault Refusal :=
  if field v 24 37 ≠ 0 then .next s
  else .next ((s.setHubReg (0x100 + 8 * slot.toNat) v).revokeFabric slot)

/-- AUTHCNT counts a rejected packet (R428). -/
def State.countAuth (s : State) : State :=
  s.setHubReg 0xB080 (BitVec.ofNat 64 (min ((s.hubReg 0xB080).toNat + 1) (2 ^ 32 - 1)))

/-- The window of a flow after a packet's number, none where it is rejected (R428): the highest number accepted, and of the 1,024
below it which have been, the nearest first. (DEDUCED, log 53) -/
def seqAccept (f : Option (BitVec 32 × BitVec 1024)) (n : BitVec 32) : Option (BitVec 32 × BitVec 1024) :=
  match f with
  | none => some (n, 0)
  | some (hi, w) =>
    let up := (n - hi).toNat
    let down := (hi - n).toNat
    if up = 0 then none
    else if up < 2 ^ 31 then some (n, (w <<< up) ||| (1 <<< (up - 1)))
    else if down ≤ 1024 then (if w.getLsbD (down - 1) then none else some (hi, w ||| (1 <<< (down - 1))))
    else none

/-- AUTH of a packet verifies (R428): under the header key of its world, which must be installed at this module. (DEDUCED, log
53) -/
def State.verifies (s : State) (p : Packet) : Bool :=
  !s.hub.caddy.asleep && Tab.get 0 s.hub.caddy.fabKey p.world.toNat != 0 && p.auth == s.authOf p

/-- The kinds a receiving port knows (R290). -/
def knownKind (k : BitVec 6) : Bool := (1 ≤ k.toNat && k.toNat ≤ 6) || (33 ≤ k.toNat && k.toNat ≤ 38)

/-- NETWORK_PACKET_ARRIVAL (R290, R419, R428): the receiving port accepts a packet, or drops and counts it; a rejected
fabric request is answered with class 7. -/
def execNetworkPacketArrival (p : Packet) (s : State) : Host.Outcome State Fault Refusal :=
  if p.dmod ≠ s.fabid ∨ s.tooOld p then .next s
  else if p.world = 3 then .next s.countAuth
  else
    let k := p.smod.toNat * 4 + p.world.toNat
    match (if s.verifies p then seqAccept (Tab.get none s.hub.fseqIn k) p.fseq else none) with
    | none =>
      let s1 := s.countAuth
      .next (if 1 ≤ p.kind.toNat ∧ p.kind.toNat ≤ 6 then
        s1.emit { replyOf s.fabid p (some 7) 0 with birth := BitVec.ofNat 12 (s.dtime / 1000) } else s1)
    | some w =>
      let s1 := { s with hub := { s.hub with fseqIn := Tab.set s.hub.fseqIn k (some w) } }
      .next (if knownKind p.kind then { s1 with net := s1.net ++ [.packet { p with own := false }] } else s1.lateReply)

end Sys2Proof.Machine
end

