-- ==== Sys2Proof/Machine/Stream.lean ====
section
/-! DEFINITION. The stream unit sx and the stream engine (R326 to R343). -/

namespace Sys2Proof.Machine

/-- The number of a stream in the table (R326). -/
def streamKey (x : StreamId) : Nat := x.hmod.toNat * 65536 + x.sidx.toNat
/-- A stream's table entry (R327). -/
def State.stream (s : State) (x : StreamId) : StreamEntry := Tab.get {} s.hub.streams (streamKey x)
/-- Replace a stream's table entry. -/
def State.setStream (s : State) (x : StreamId) (e : StreamEntry) : State :=
  { s with hub := { s.hub with streams := Tab.put {} s.hub.streams (streamKey x) e } }
/-- Change a stream's table entry. -/
def State.modStream (s : State) (x : StreamId) (f : StreamEntry → StreamEntry) : State := s.setStream x (f (s.stream x))
/-- The end record of one kind (R327). -/
def StreamEntry.endOf (e : StreamEntry) (cons : Bool) : Option EndRec := if cons then e.cons else e.prod
/-- Replace the end record of one kind. -/
def StreamEntry.setEnd (e : StreamEntry) (cons : Bool) (r : Option EndRec) : StreamEntry :=
  if cons then { e with cons := r } else { e with prod := r }
/-- The forwarding record of one kind (R337). -/
def StreamEntry.fwd (e : StreamEntry) (cons : Bool) : Option FwdRec := if cons then e.fcons else e.fprod
/-- Replace the forwarding record of one kind. -/
def StreamEntry.setFwd (e : StreamEntry) (cons : Bool) (r : Option FwdRec) : StreamEntry :=
  if cons then { e with fcons := r } else { e with fprod := r }
/-- What is left of a closed end of one kind (R338). -/
def StreamEntry.endedOf (e : StreamEntry) (cons : Bool) : Option Ended := if cons then e.econs else e.eprod
/-- Set or take away what is left of a closed end. -/
def StreamEntry.setEnded (e : StreamEntry) (cons : Bool) (r : Option Ended) : StreamEntry :=
  if cons then { e with econs := r } else { e with eprod := r }
/-- The move count of the end as it left (R337). -/
def FwdRec.mc (f : FwdRec) : BitVec 8 := f.last.mc
/-- The slot it was held under. -/
def FwdRec.slot (f : FwdRec) : BitVec 4 := f.last.slot
/-- That slot's generation. -/
def FwdRec.gen (f : FwdRec) : BitVec 12 := f.last.gen
/-- Where its peer was. -/
def FwdRec.peer (f : FwdRec) : BitVec 12 := f.last.peer

/-- The end record that a forwarding record of one kind shows (R328, R338, R388): of an end that moved away, or was closed. -/
def StreamEntry.shown (e : StreamEntry) (cons : Bool) : Option EndRec :=
  ((e.fwd cons).map (·.last)).orElse fun _ => (e.endedOf cons).map (·.last)
/-- An entry that takes a place in the table (R327). -/
def StreamEntry.used (e : StreamEntry) : Bool :=
  e.live || e.prod.isSome || e.cons.isSome || (e.shown false).isSome || (e.shown true).isSome || !e.inst.isEmpty
/-- The table has no free entry. -/
def State.streamsFull (s : State) : Bool := decide (65536 ≤ (s.hub.streams.filter fun e => e.2.used).length)

/-- An end handle (R326). -/
def endHandle (x : StreamId) (cons : Bool) (chk : BitVec 32) : Word :=
  x.hmod ++ x.sidx ++ BitVec.ofBool cons ++ (0 : BitVec 3) ++ chk
/-- The stream a handle names. -/
def handleSid (w : Word) : StreamId := ⟨w.extractLsb' 52 12, w.extractLsb' 36 16⟩
/-- Whether a handle names a consumer end. -/
def handleCons (w : Word) : Bool := w.getLsbD 35
/-- CHK of a handle. -/
def handleChk (w : Word) : BitVec 32 := w.setWidth 32

/-- a is later than b in sequence order (R329). -/
def later (a b : BitVec 32) : Bool := decide (0 < (a - b).toNat) && decide ((a - b).toNat < 2 ^ 31)
/-- The later of two numbers. -/
def latest (a b : BitVec 32) : BitVec 32 := if later a b then a else b
/-- Move counts: a is newer than b (R339). -/
def newer (a b : BitVec 8) : Bool := decide (1 ≤ (a - b).toNat) && decide ((a - b).toNat ≤ 127)

/-- CAP of a capacity code (R330, R333). -/
def capOf (c : BitVec 4) : Option Nat := if c = 0 then some 256 else if 4 ≤ c.toNat ∧ c.toNat ≤ 10 then some (2 ^ c.toNat) else none
/-- CAP of an end. -/
def EndRec.cap (e : EndRec) : Nat := (capOf e.capc).getD 256

/-- SPACE of a producer end (R331). -/
def EndRec.space (e : EndRec) : Nat :=
  let d := e.nseq - e.consumed
  if d.toNat < 2 ^ 31 then e.cap - d.toNat else e.cap

/-- Items stored in order from a number on. -/
def EndRec.run (e : EndRec) (n : BitVec 32) : Nat → Nat
  | 0 => 0
  | k + 1 => if (e.store.any fun x => x.1 == n.toNat) then 1 + e.run (n + 1) k else 0
/-- AVAIL of a consumer end (R336). -/
def EndRec.avail (e : EndRec) : Nat := e.run (e.nseq + BitVec.ofNat 32 e.resv.length) 1024

/-- A fresh check value (R326), never 0. (DESIGN CHOICE, log 16) -/
def State.newChk (s : State) : BitVec 32 × State :=
  let c := Config.chkRaw s.hub.chkNo
  (if c = 0 then 1 else c, { s with hub := { s.hub with chkNo := s.hub.chkNo + 1 } })

/-- A message of the stream or belay engine goes out (R339): to this module itself or to another. -/
def State.post (s : State) (dst : BitVec 12) (m : Msg) : State :=
  if dst = s.fabid then { s with net := s.net ++ [m] } else { s with out := s.out ++ [m] }

/-- A message that arrives: one of this module's own, or one from outside. -/
def State.receive (s : State) (m : Msg) : State := { s with net := s.net.erase m }

/-- SBPOOL of a slot (R330). -/
def State.sbpool (s : State) (slot : Nat) : Word := s.hubReg (0x4000 + 8 * slot)

/-- The index of a candidate in cyclic order from a start, the first that is free. -/
def firstFree (n start : Nat) (free : Nat → Bool) : Option Nat :=
  ((List.range n).map fun i => (start + i) % n).find? free

/-- Allocate from the pool of a slot (R330): which of the free places is taken is left open. (DEDUCED, log 55) -/
def State.poolAlloc (s : State) (slot : BitVec 4) (bytes : Nat) : Option (Nat × State) :=
  let p := s.sbpool slot.toNat
  if !p.getLsbD 63 then none
  else
    let base := field p 16 23 * 65536
    let n := field p 0 16 * 65536 / bytes
    if n = 0 then none
    else
      let free := fun (i : Nat) =>
        let a := base + i * bytes
        !s.hub.bufs.any fun b => decide (a < b.2.1 + b.2.2) && decide (b.2.1 < a + bytes)
      match firstFree n ((Config.freeWord s.fresh).toNat % n) free with
      | none => none
      | some i =>
        let a := base + i * bytes
        some (a, { s with fresh := s.fresh + 1, hub := { s.hub with bufs := s.hub.bufs ++ [(slot.toNat, a, bytes)] } })

/-- Return a buffer to its pool. -/
def State.poolFree (s : State) (slot : BitVec 4) (addr : Nat) : State :=
  { s with hub := { s.hub with bufs := s.hub.bufs.filter fun b => !(b.1 == slot.toNat && b.2.1 == addr) } }

/-- The stream fault trap (R341), with the handle as INFO (R391). (DEDUCED, log 39) -/
def raiseStream {α : Type} (sub : Nat) (h : Word) : Res α := .error (.trap { cause := 14, sub := sub, info := h })
/-- The journal fault trap (R359). (DEDUCED, log 39) -/
def raiseJournal {α : Type} (sub : Nat) (h : Word) : Res α := .error (.trap { cause := 15, sub := sub, info := h })

/-- STATE of an end as it is but for a move under way (R337, R340). -/
def EndRec.real (e : EndRec) : BitVec 4 := if e.state = 1 then e.was else e.state
/-- An end is orphaned or closed by its peer, moving or not. -/
def EndRec.ended (e : EndRec) : Bool := e.real == 2 || e.real == 3
/-- An end becomes moving; what it was besides is kept (R337). -/
def EndRec.moving (e : EndRec) : EndRec := { e with was := e.real, state := 1, xferBy := [] }
/-- An end becomes orphaned (2) or closed by its peer (3). -/
def EndRec.lose (e : EndRec) (st : BitVec 4) : EndRec :=
  if e.state = 1 then { e with was := st, hold := none } else { e with state := st, hold := none }

/-- The end a handle names, judged when an operation acts (R327, R337, R341). A handle received in this pitch is not valid yet
(R337); in a later pitch, until its srecv has been released, it names no end. A bundle that blocked in an srecv finds
its end moved away (R342). -/
def State.checkEnd (s : State) (w : Word) (want : Option Bool) : Res EndRec :=
  let e := s.stream (handleSid w)
  let cons := handleCons w
  if field w 32 3 ≠ 0 ∨ handleChk w = 0 then raiseStream 1 w
  else if want = some (!cons) then raiseStream 1 w
  else if e.inst.any fun i => i.ctx == s.cid && i.pitch == s.me.pitch && i.cons == cons && i.chk == handleChk w then raise 11 0 13
  else
    let gone := if s.me.rcvWait ∧ e.left.contains (handleChk w) then 4 else 1
    match e.endOf cons with
    | none => raiseStream gone w
    | some r =>
      if r.chk ≠ handleChk w then raiseStream gone w
      else if r.slot ≠ s.coreSlot s.cur.core then raiseStream 2 w
      else if r.gen ≠ s.gen r.slot then raiseStream 3 w
      else if r.state = 1 ∨ r.xferBy.contains (s.cid, s.me.pitch) then raiseStream 4 w
      else .ok r

/-- Limit kinds of a pitch: sopen, sclose, ssend and sxfer; srecv's reservations (R332, R335). -/
def limSx : Nat := 5
/-- Limit kinds of a pitch: srecv's reservations (R335). -/
def limSrecv : Nat := 6

/-- An operation of sx that acts at release: checks of form, the limit of its pitch, and its guard (R332). -/
def State.sxRelease (s : State) (i : Instr) (f : OpM) (act : State → Res State) : Res State :=
  inSlot 2 do
    s.opens i
    let s0 ← s.limit limSx 16 13
    if !s.guard f.g then pure s0 else act s0

/-- sopen (R332, R333). -/
def opSopen (f : OpM) (s : State) : Res State :=
  s.sxRelease (.sopen f) f fun s0 => do
    let t ← s.readT f.t
    let (tok, s1) := s0.newTok
    pure ((s1.pendOn (.rl 0xA :: (wbV f.w).toList) tok 13 true).addRel tok 13 (.sopen (t.word.setWidth 4)))
/-- sopen (R332, R333). -/
def execSopen (f : OpM) (s : State) : Host.Outcome State Fault Refusal := settle s (opSopen f s)

/-- A producer end bound to a journal is used only by jemit (R350). -/
def freeOfJournal (r : EndRec) (w : Word) : Res Unit := if r.journal.isSome then raiseJournal 5 w else .ok ()

/-- sclose (R332, R338). -/
def opSclose (f : OpM) (s : State) : Res State :=
  s.sxRelease (.sclose f) f fun s0 => do
    let t ← s.readT f.t
    let r ← s.checkEnd t.word none
    freeOfJournal r t.word
    pure (s0.addRel 0 13 (.sclose t.word))
/-- sclose (R332, R338). -/
def execSclose (f : OpM) (s : State) : Host.Outcome State Fault Refusal := settle s (opSclose f s)

/-- A sixty-fifth result of ssend and sxfer pending blocks (R332). -/
def State.sxRoom (s : State) : Res Unit := if 64 ≤ s.me.sx.length then blockAt .pendingRead else .ok ()

/-- A result of ssend or sxfer becomes pending (R332). -/
def State.sxPend (s : State) (w : BitVec 6) : Nat × State :=
  let (tok, s1) := s.newTok
  (tok, (s1.pendOn (.rl 0xA :: (s.wbS w).toList) tok 13 true).modMe fun c => { c with sx := c.sx ++ [tok] })

/-- ssend (R332, R334, R350). -/
def opSsend (f : OpM) (s : State) : Res State :=
  s.sxRelease (.ssend f) f fun s0 => do
    let t ← s.readT f.t
    let l ← s.readLatch 13
    let r ← s.checkEnd l.lo (some false)
    freeOfJournal r l.lo
    s.sxRoom
    let (tok, s1) := s0.sxPend f.w
    pure (s1.addRel tok 13 (.ssend l.lo (t.wide.data.setWidth 512)))
/-- ssend (R332, R334, R350). -/
def execSsend (f : OpM) (s : State) : Host.Outcome State Fault Refusal := settle s (opSsend f s)

/-- sxfer (R332, R337, R350): the end is named by the transfer from now on. An end with items the pitch has received cannot be
sent (R365). (DEDUCED, log 55) -/
def opSxfer (f : OpM) (s : State) : Res State :=
  s.sxRelease (.sxfer f) f fun s0 => do
    let t ← s.readT f.t
    let l ← s.readLatch 13
    let r ← s.checkEnd t.word none
    let c ← s.checkEnd l.lo (some false)
    freeOfJournal r t.word
    freeOfJournal c l.lo
    if handleSid t.word = handleSid l.lo then raiseStream 6 t.word
    if r.resv.any fun x => x.1 == s.cid && x.2.1 == s.me.pitch then raiseStream 4 t.word
    s.sxRoom
    let (tok, s1) := s0.sxPend f.w
    let cons := handleCons t.word
    let s2 := s1.modStream (handleSid t.word) fun e =>
      e.setEnd cons ((e.endOf cons).map fun r => { r with xferBy := r.xferBy ++ [(s.cid, s.me.pitch)] })
    pure (s2.addRel tok 13 (.sxfer t.word l.lo))
/-- sxfer (R332, R337, R350). -/
def execSxfer (f : OpM) (s : State) : Host.Outcome State Fault Refusal := settle s (opSxfer f s)

/-- The access the stream engine makes to a receive buffer (R330): under the holder's slot and generation. -/
def EndRec.acc (e : EndRec) : Acc := ⟨some e.slot, e.gen, false, 0, 0⟩
/-- The address of an item in the receive buffer (R330). -/
def EndRec.place (e : EndRec) (n : BitVec 32) : Nat := e.buf + 64 * (n.toNat % e.cap)

/-- What srecv lands (R335): the item, its kind and its number. -/
def recvBytes (item : List Byte) (kind : Nat) (n : BitVec 32) : List Byte :=
  item ++ bytesOf (BitVec.ofNat 32 kind) 4 ++ bytesOf n 4

/-- The reservation of an installation at an srecv of a transfer item (R337). -/
def State.reserveInst (s : State) (w : Word) (x : XferBody) : Res State :=
  let e := s.stream x.sid
  let slot := s.coreSlot s.cur.core
  if !e.used && s.streamsFull then raiseStream 5 w
  else
    let put := fun (s : State) (buf : Nat) =>
      s.modStream x.sid fun e => { e with inst := e.inst ++ [⟨s.cid, s.me.pitch, x.cons, x.chk, buf, slot⟩] }
    if x.cons then
      match s.poolAlloc slot (64 * (capOf x.capc).getD 256) with
      | none => raiseStream 5 w
      | some (a, s1) => .ok (put s1 a)
    else .ok (put s 0)

/-- A received item lands as a load's data does (R335). -/
def State.recvLoad (s : State) (f : OpM) (bytes : List Byte) (poison : Bool) : State :=
  let (tok, s1) := s.newTok
  let s2 := s1.pendOn (.rl 0xA :: (wbV f.w).toList) tok 13 false
  let ld : PendLoad :=
    { tok := tok, seq := s.cur.seq, pitch := s.me.pitch, h := {}, parts := [⟨0, 0, 72⟩], form := .chunks,
      ovl := bytes.zipIdx.map (fun (b, i) => (i, b)), pois := poison, slot := s.coreSlot s.cur.core,
      gen := s.coreGen s.cur.core }
  s2.modMe fun c => { c with loads := c.loads ++ [ld] }

/-- srecv (R332, R335, R337). -/
def opSrecv (f : OpM) (s : State) : Res State :=
  inSlot 2 do
    s.opens (.srecv f)
    if !s.guard f.g then pure s
    else do
      let t ← s.readT f.t
      let sid := handleSid t.word
      let r ← s.checkEnd t.word (some true)
      if r.resv.any fun x => x.1 != s.cid then blockAt .emptyStream
      let n := r.nseq + BitVec.ofNat 32 r.resv.length
      let reserve := fun (s : State) =>
        s.modStream sid fun e => { e with cons := e.cons.map fun r => { r with resv := r.resv ++ [(s.cid, s.me.pitch, n)] } }
      match r.store.find? fun x => x.1 == n.toNat with
      | some (_, .data _) =>
        let s1 ← s.limit limSrecv 16 13
        let l := s.homeReads r.acc (r.place n) 64
        pure ((((reserve s1).addRel 0 13 (.srecv t.word none))).recvLoad f (recvBytes (l.map Prod.fst) 0 n) (l.any Prod.snd))
      | some (_, .xfer x _) =>
        let s1 ← s.limit limSrecv 16 13
        let s2 ← s1.reserveInst t.word x
        let h := endHandle x.sid x.cons x.chk
        pure ((((reserve s2).addRel 0 13 (.srecv t.word (some x)))).recvLoad f
          (recvBytes (bytesOf (h.setWidth 512) 64) 2 n) false)
      | none =>
        let ovl := match r.endSeq with | none => true | some b => !later b n
        if (r.state = 2 ∨ r.state = 3) ∧ ovl = true then pure (s.recvLoad f (recvBytes (List.replicate 64 0) 1 n) false)
        else blockAt .emptyStream
/-- srecv (R332, R335, R337). -/
def execSrecv (f : OpM) (s : State) : Host.Outcome State Fault Refusal := settle s (opSrecv f s)

/-- spoll (R336). -/
def opSpoll (f : OpM) (s : State) : Res State :=
  inSlot 2 do
    s.opens (.spoll f)
    if !s.guard f.g then pure s
    else do
      let t ← s.readT f.t
      let r ← s.checkEnd t.word none
      let cons := handleCons t.word
      let v : Word := BitVec.ofNat 64
        ((if r.state = 2 ∨ r.state = 3 then 2 ^ 63 else 0) + (if r.state = 1 then 2 ^ 62 else 0) +
          (if cons then 0 else r.space * 2 ^ 32) + (if cons then r.avail else 0))
      pure (s.land 2 13 8 (s.scalarWrites 0xA f.w v))
/-- spoll (R336). -/
def execSpoll (f : OpM) (s : State) : Host.Outcome State Fault Refusal := settle s (opSpoll f s)

/-- An end record as sstat and the kernel read it (R328). -/
def EndRec.bits (r : EndRec) (x : StreamId) (cons : Bool) : BitVec 256 :=
  (0 : BitVec 31) ++ ((if cons then BitVec.ofNat 33 (r.buf / 64) else BitVec.ofNat 33 r.space) ++ r.peer ++ r.pmc ++ r.mc ++
    r.state ++ r.capc ++ r.slot ++ r.gen ++ (0 : BitVec 12) ++ r.nseq ++ r.aseq ++ endHandle x cons r.chk)

/-- sstat (R328, R336). -/
def opSstat (f : OpM) (s : State) : Res State :=
  inSlot 2 do
    s.opens (.sstat f)
    if !s.guard f.g then pure s
    else do
      let t ← s.readT f.t
      let r ← s.checkEnd t.word none
      let v : Wide := { data := (r.bits (handleSid t.word) (handleCons t.word)).setWidth 1024 }
      pure (s.land 2 13 8 (wrW (.rl 0xA) v :: (wbV f.w).toList.map fun g => wrW g v))
/-- sstat (R328, R336). -/
def execSstat (f : OpM) (s : State) : Host.Outcome State Fault Refusal := settle s (opSstat f s)

/-- The result of an ssend or sxfer lands (R334): kind and number. -/
def State.sxDone (s : State) (ci tok kind : Nat) (seq : BitVec 32) : State :=
  if tok = 0 then s
  else
    let core := ci / 4
    let s1 := (List.range 4).foldl (fun x i =>
      x.modCtx (4 * core + i) fun c => { c with sx := c.sx.filter (· != tok) }) s
    let s2 := s1.modCore core fun k => { k with units := k.units.map fun u => { u with sx := u.sx.filter (· != tok) } }
    s2.answer ci tok { data := BitVec.ofNat 1024 (kind * 2 ^ 32 + seq.toNat) } .clean

/-- An end in transit is lost (R340): its peer is told, at the place it names and at its old holder. -/
def State.loseXfer (s : State) (x : XferBody) : State :=
  let m := fun (d : BitVec 12) => Msg.close ⟨d, x.sid, x.cons, x.aseq, true, false⟩
  let s1 := s.post x.peer (m x.peer)
  if x.src = x.peer then s1 else s1.post x.src (m x.src)

/-- An item that carries an end (R337). -/
def SendItem.isXfer (h : SendItem) : Bool := match h.body with | .xfer _ => true | _ => false

/-- A stored transfer item that goes with its end is lost. -/
def State.loseStored (s : State) (e : EndRec) : State :=
  e.store.foldl (fun x i => match i.2 with | .xfer b _ => x.loseXfer b | .data _ => x) s

/-- The peer's holder and HMOD learn that an end is gone (R338, R340). -/
def State.tellClosed (s : State) (x : StreamId) (cons : Bool) (e : EndRec) (aseq : BitVec 32) (orphan : Bool) : State :=
  let m := fun (d : BitVec 12) => Msg.close ⟨d, x, cons, aseq, orphan, false⟩
  let s1 := s.post e.peer (m e.peer)
  if x.hmod = e.peer then s1 else s1.post x.hmod (m x.hmod)

/-- An end is removed, closed or lost: its peer is told (R338, R340). A closed one leaves a forwarding record that answers its
peer's moves, where it still has a peer. -/
def State.removeEnd (s : State) (x : StreamId) (cons : Bool) (orphan : Bool) : State :=
  match (s.stream x).endOf cons with
  | none => s
  | some e =>
    let top := if cons then e.aseq else (e.acked.map (· + 1)).foldl latest e.aseq
    let s1 := s.modStream x fun t => (t.setEnd cons none).setEnded cons (if orphan || e.ended then none else some ⟨top, e⟩)
    let s2 := if cons then (s1.poolFree e.slot e.buf).loseStored e else s1
    s2.tellClosed x cons e top orphan

/-- The queue of a producer end is discarded (R334, R338): results of KIND 1; an end to be moved is lost, and
one already on its way whatever became of the slot that sent it (R340). -/
def State.discardQueue (s : State) (l : List SendItem) (nseq : BitVec 32) : State :=
  l.foldl (fun x h =>
    let live := h.gen == x.gen h.slot
    let x1 := if live then x.sxDone h.ctx h.tok 1 nseq else x
    match h.body with
    | .data _ => x1
    | .move sid cons _ => if live then x1.removeEnd sid cons true else x1
    | .xfer b => x1.loseXfer b) s

/-- An item in the queue of an end may be handed out: SPACE > 0 (R334); an end transfer has also waited for the sends on
its end and for other contexts' reservations (R337). -/
def State.sendReady (s : State) (e : EndRec) (h : SendItem) : Bool :=
  if h.gen ≠ s.gen h.slot ∨ e.ended = true then true
  else
    decide (0 < e.space) &&
      (match h.body with
      | .move sid cons _ =>
        match (s.stream sid).endOf cons with
        | none => true
        | some t => t.queue.isEmpty && !t.resv.any fun r => r.1 != h.ctx
      | _ => true)

/-- Stored items as they are read from the receive buffer to be passed on (R339). -/
def State.bufferedItems (s : State) (e : EndRec) : List (BitVec 32 × ItemBody × BitVec 12) :=
  e.store.map fun i =>
    let n := BitVec.ofNat 32 i.1
    match i.2 with
    | .data src => (n, .data (ofBytes 512 ((s.homeReads e.acc (e.place n) 64).map Prod.fst)), src)
    | .xfer b src => (n, .xfer b, src)

/-- An end becomes moving no longer an end: a forwarding record, and the item that carries it (R337, R350).
A space report that is due leaves first (R331). (DEDUCED, log 55) -/
def State.makeXfer (s : State) (via sid : StreamId) (cons : Bool) (e : EndRec) : XferBody × State :=
  let (chk, s1) := s.newChk
  let x : XferBody :=
    { sid := sid, cons := cons, chk := chk, nseq := e.nseq, aseq := e.aseq, capc := e.capc, mc := e.mc + 1, peer := e.peer,
      pmc := e.pmc, consumed := e.consumed, src := s.fabid, note := e.note }
  let closed : List Msg :=
    if e.ended then [.close ⟨s.fabid, sid, !cons, e.endSeq.getD e.aseq, e.real == 2, false⟩] else []
  let f : FwdRec :=
    { last := { e with mc := e.mc + 1 }, held := closed,
      bnd := if e.ended then some (e.endSeq.getD e.aseq) else none,
      items := if cons then s.bufferedItems e else [], base := e.nseq, via := via }
  let s2 := s1.modStream sid fun t => { (t.setEnd cons none).setFwd cons (some f) with left := t.left ++ [e.chk] }
  let s3 := if e.report.isSome then s2.post e.peer (.space ⟨e.peer, sid, e.nseq⟩) else s2
  (x, if cons then s3.poolFree e.slot e.buf else s3)

/-- Send an item on a producer end with its number (R329, R334, R350). -/
def State.sendItem (s : State) (sid : StreamId) (e : EndRec) (h : SendItem) (body : ItemBody) : State :=
  let seq := match h.forced with | some (q, _) => q | none => e.nseq
  let next := if h.forced.isSome then latest (seq + 1) e.nseq else e.nseq + 1
  let s1 := s.modStream sid fun t =>
    { t with prod := t.prod.map (fun r => { r with nseq := next }), sent := t.sent ++ [(seq, h)] }
  s1.post e.peer (.item ⟨e.peer, sid, s.fabid, seq, body⟩)

/-- The step after the last one emitted of the journal an end is bound to (R361). -/
def State.emitted (s : State) (e : EndRec) : Option (BitVec 32) :=
  e.journal.bind fun j => (s.hub.journals.find? fun x => x.1 == j).map (·.2.emit)

/-- A jopen has asked its partner and is about to bind the end (R349). -/
def State.binding (s : State) (sid : StreamId) (e : EndRec) : Bool :=
  s.hub.jops.any fun o => (match o.stage with | .asked _ => true | _ => false) &&
    (match o.body with | .jopen d => d.extractLsb' 64 64 == endHandle sid false e.chk | _ => false)

/-- The item that a producer end hands out next (R334): its oldest; of an end bound to a journal, of the emissions whose step
follows none that has not been emitted the one of the earliest step (R361). An end that a jopen is about to bind sends nothing,
so that NSEQ stays what its partner was told. (DESIGN CHOICE, log 73) -/
def State.nextItem (s : State) (sid : StreamId) (e : EndRec) : Option SendItem :=
  match s.emitted e with
  | none => if s.binding sid e then none else e.queue.head?
  | some m =>
    let may := e.queue.filter fun h => match h.forced with
      | some (_, step) => !later step m || h.gen != s.gen h.slot
      | none => true
    may.foldl (fun (a : Option SendItem) h => match a.bind (·.forced), h.forced with
      | some (_, x), some (_, y) => if later x y then some h else a
      | _, _ => a.orElse fun _ => some h) none

/-- An emission of a bound end has left (R361). -/
def State.noteEmitted (s : State) (e : EndRec) (h : SendItem) : State :=
  match e.journal, h.forced with
  | some j, some (_, step) =>
    { s with hub := { s.hub with journals := s.hub.journals.map fun x =>
        if x.1 = j then (x.1, { x.2 with emit := latest (step + 1) x.2.emit }) else x } }
  | _, _ => s

/-- The next item of a producer end's queue is handed out, or discarded, or dropped as stale (R334, R337, R350). -/
def State.sendHead (s : State) (sid : StreamId) : State :=
  match (s.stream sid).prod with
  | none => s
  | some e =>
    match s.nextItem sid e with
    | none => s
    | some h =>
      if !s.sendReady e h then s
      else
        let s0 := s.modStream sid fun t => { t with prod := t.prod.map fun r => { r with queue := r.queue.erase h } }
        let s1 := if h.gen ≠ s.gen h.slot then s0 else s0.noteEmitted e h
        if h.gen ≠ s.gen h.slot then s1
        else if e.ended then s1.discardQueue [h] e.nseq
        else
          match h.body with
          | .data x => s1.sendItem sid e h (.data x)
          | .xfer x => s1.sendItem sid e h (.xfer x)
          | .move tsid cons chk =>
            match (s1.stream tsid).endOf cons with
            | none => s1.sxDone h.ctx h.tok 1 e.nseq
            | some t =>
              if t.chk ≠ chk then s1.sxDone h.ctx h.tok 1 e.nseq
              else
                let (x, s2) := s1.makeXfer sid tsid cons t
                s2.sendItem sid e { h with body := .xfer x } (.xfer x)

/-- Hand out what can be handed out. -/
def State.sendAll (s : State) (sid : StreamId) : Nat → State
  | 0 => s
  | n + 1 => (s.sendHead sid).sendAll sid n

/-- The live end a released operation acts on, if it is still the one its handle names. -/
def State.endNow (s : State) (w : Word) : Option EndRec :=
  match (s.stream (handleSid w)).endOf (handleCons w) with
  | some r => if r.chk = handleChk w then some r else none
  | none => none

/-- KIND 1 where the end is gone before its send is handed over: the number is left open (R334). -/
def State.sendLost (s : State) (ci tok : Nat) : State :=
  ({ s with fresh := s.fresh + 1 }).sxDone ci tok 1 ((Config.freeWord s.fresh).setWidth 32)

/-- The release of an sopen (R333). -/
def State.sopenRel (s : State) (ci : Nat) (x : RelItem) (capc : BitVec 4) : State :=
  let out := fun (s : State) (p c : Word) (st : Nat) =>
    s.answer ci x.tok { data := ((BitVec.ofNat 8 st ++ c ++ p : BitVec 136)).setWidth 1024 } .clean
  match capOf capc with
  | none => out s 0 0 1
  | some cap =>
    let free := fun (i : Nat) => !(s.stream ⟨s.fabid, BitVec.ofNat 16 i⟩).used
    match if s.streamsFull then none else firstFree 65536 ((Config.freeWord s.fresh).toNat % 65536) free with
    | none => out s 0 0 2
    | some i =>
      match ({ s with fresh := s.fresh + 1 }).poolAlloc x.slot (64 * cap) with
      | none => out s 0 0 3
      | some (a, s1) =>
        let sid : StreamId := ⟨s.fabid, BitVec.ofNat 16 i⟩
        let (cp, s2) := s1.newChk
        let (cc, s3) := s2.newChk
        let e : EndRec := { chk := cp, slot := x.slot, gen := x.gen, capc := capc, peer := s.fabid }
        let s4 := s3.modStream sid fun t =>
          { t with prod := some e, cons := some { e with chk := cc, buf := a }, live := true, prodClosed := false,
                   consClosed := false, went := none, left := [] }
        out s4 (endHandle sid false cp) (endHandle sid true cc) 0

/-- The release of an sclose (R338): what can be sent leaves first; a consumer's items and buffer go. An end that
a journal has been bound to meanwhile stays (R350). (DEDUCED, log 55; DESIGN CHOICE, log 73) -/
def State.scloseRel (s : State) (w : Word) : State :=
  let sid := handleSid w
  match s.endNow w with
  | none => s
  | some r =>
    if r.journal.isSome then s
    else if handleCons w then s.removeEnd sid true false
    else
      let s1 := s.sendAll sid r.queue.length
      match s1.endNow w with
      | none => s1
      | some r1 =>
        let s2 := s1.discardQueue r1.queue r1.nseq
        s2.removeEnd sid false false

/-- The release of an ssend (R334): the item joins its end's queue. One whose end another context is moving, or has bound to a
journal (R350), is discarded with the NSEQ of its record. (DESIGN CHOICE, log 73) -/
def State.ssendRel (s : State) (ci : Nat) (x : RelItem) (w : Word) (item : Packet64) : State :=
  match s.endNow w with
  | none => s.sendLost ci x.tok
  | some r =>
    if r.state = 1 ∨ r.journal.isSome then s.sxDone ci x.tok 1 r.nseq
    else
      s.modStream (handleSid w) fun t =>
        { t with prod := t.prod.map fun r => { r with queue := r.queue ++ [⟨.data item, ci, x.tok, x.slot, x.gen, none⟩] } }

/-- The release of an sxfer (R337): the end is moving, and its transfer joins the carrier's queue. An end bound to a journal
meanwhile does not move, and a carrier bound to one carries nothing (R350). (DESIGN CHOICE, log 73) -/
def State.sxferRel (s : State) (ci : Nat) (x : RelItem) (w carrier : Word) : State :=
  let sid := handleSid w
  let cons := handleCons w
  match s.endNow w with
  | none => s.sendLost ci x.tok
  | some e =>
    let s1 := s.modStream sid fun t => t.setEnd cons ((t.endOf cons).map EndRec.moving)
    let lost := s1.removeEnd sid cons true
    if e.journal.isSome then s.sendLost ci x.tok else
    match s1.endNow carrier with
    | none => lost.sendLost ci x.tok
    | some r =>
      if r.state = 1 ∨ r.journal.isSome then lost.sxDone ci x.tok 1 r.nseq
      else
        s1.modStream (handleSid carrier) fun t =>
          { t with prod := t.prod.map fun r =>
              { r with queue := r.queue ++ [⟨.move sid cons (handleChk w), ci, x.tok, x.slot, x.gen, none⟩] } }

/-- The number after the last item stored without a gap (R328). -/
def EndRec.bump (e : EndRec) : EndRec := { e with aseq := e.aseq + BitVec.ofNat 32 (e.run e.aseq 1024) }

/-- An item's acceptance goes to the module it came from, and to the producer's holder as PEER names it (R331). -/
def State.accept (s : State) (e : EndRec) (m : ItemMsg) : State :=
  let s1 := s.post m.prod (.ack ⟨m.prod, m.sid, m.seq⟩)
  if e.peer = m.prod then s1 else s1.post e.peer (.ack ⟨e.peer, m.sid, m.seq⟩)

/-- Store an arriving item (R329, R330). -/
def State.storeItem (s : State) (e : EndRec) (m : ItemMsg) : State :=
  let st : Stored := match m.body with | .data _ => .data m.prod | .xfer b => .xfer b m.prod
  let s1 := match m.body with
    | .data x => s.homeWrites e.acc (e.place m.seq) (bytesOf x 64)
    | .xfer _ => s
  let s2 := s1.modStream m.sid fun t =>
    { t with cons := t.cons.map fun r => ({ r with store := Tab.set r.store m.seq.toNat st }).bump }
  s2.accept e m

/-- Everything an old consumer holder owes is passed on: drained, and the record goes (R339). -/
def State.checkDrained (s : State) (sid : StreamId) : State :=
  match (s.stream sid).fcons with
  | none => s
  | some f =>
    match f.dest, f.bnd with
    | some t, some b =>
      let n := if later b f.base then (b - f.base).toNat else 0
      if (List.range n).all fun i => f.seen.contains (f.base + BitVec.ofNat 32 i) then
        (s.modStream sid fun e => { e with fcons := none }).post t (.drained ⟨t, sid, true, f.mc, t, s.fabid⟩)
      else s
    | _, _ => s

/-- Pass an item on to a consumer end's new holder (R339). -/
def State.passItem (s : State) (t : BitVec 12) (m : ItemMsg) : State :=
  let s1 := s.modStream m.sid fun e =>
    { e with fcons := e.fcons.map fun f => { f with seen := if f.seen.contains m.seq then f.seen else f.seen ++ [m.seq] } }
  (s1.post t (.item { m with dst := t })).checkDrained m.sid

/-- ITEM_ARRIVAL (R329, R331, R339, R340). -/
def execItemArrival (m : ItemMsg) (s : State) : Host.Outcome State Fault Refusal :=
  if m.dst ≠ s.fabid then .next s
  else
    let s1 := s.receive (.item m)
    let e := s1.stream m.sid
    let refuse := s1.post m.prod (.close ⟨m.prod, m.sid, true, m.seq, true, false⟩)
    .next (match e.cons, e.fcons with
    | some r, _ =>
      let past := match r.endSeq with | some b => !later b m.seq | none => false
      if r.gen ≠ s1.gen r.slot then refuse
      else if later r.nseq m.seq || (r.store.any fun x => x.1 == m.seq.toNat) then s1.accept r m
      else if past then refuse
      else s1.storeItem r m
    | none, some f =>
      match f.dest with
      | some t => s1.passItem t m
      | none => s1.modStream m.sid fun e => { e with fcons := some { f with held := f.held ++ [.item m] } }
    | none, none => refuse)

/-- Keep a message at a forwarding record until the record learns the new holder, or pass it on (R339). -/
def State.relay (s : State) (sid : StreamId) (cons : Bool) (m : BitVec 12 → Msg) : State :=
  match (s.stream sid).fwd cons with
  | some f =>
    match f.dest with
    | some t => s.post t (m t)
    | none => s.modStream sid fun e => e.setFwd cons (some { f with held := f.held ++ [m s.fabid] })
  | none =>
    match cons, (s.stream sid).went with
    | false, some t => s.post t (m t)
    | _, _ => s

/-- An acceptance at a producer end: ASEQ advances over the items accepted without a gap (R328). -/
def EndRec.ackGo (e : EndRec) : Nat → EndRec
  | 0 => e
  | n + 1 =>
    if e.acked.contains e.aseq then
      ({ e with acked := e.acked.filter (· != e.aseq), aseq := e.aseq + 1 }).ackGo n
    else e

/-- An acceptance (R331, R334): the result lands, and ASEQ advances. (DEDUCED, log 55) -/
def State.itemAccepted (s : State) (m : AckMsg) : State :=
  if m.dst ≠ s.fabid then s
  else
    let s1 := s.receive (.ack m)
    let hit := (s1.stream m.sid).sent.find? fun x => x.1 == m.seq
    let s2 := match hit with
      | some (_, h) =>
        (s1.modStream m.sid fun e => { e with sent := e.sent.eraseP fun x => x.1 == m.seq }).sxDone h.ctx h.tok 0 m.seq
      | none => s1
    match (s2.stream m.sid).prod with
    | some r =>
      if later r.aseq m.seq then s2
      else s2.modStream m.sid fun e =>
        { e with prod := some (({ r with acked := if r.acked.contains m.seq then r.acked else m.seq :: r.acked }).ackGo 2049) }
    | none => s2.relay m.sid false fun t => .ack { m with dst := t }

/-- SPACE_REPORT (R331): the count of items consumed. An older report changes nothing. -/
def execSpaceReport (m : SpaceMsg) (s : State) : Host.Outcome State Fault Refusal :=
  if m.dst ≠ s.fabid then .next s
  else
    let s1 := s.receive (.space m)
    .next (match (s1.stream m.sid).prod with
    | some r => s1.modStream m.sid fun e => { e with prod := some { r with consumed := latest m.consumed r.consumed } }
    | none => s1.relay m.sid false fun t => .space { m with dst := t })

/-- SPACE_REPORT_SEND (R331): the report that is due goes to the peer. -/
def execSpaceReportSend (sid : StreamId) (s : State) : Host.Outcome State Fault Refusal :=
  .next (match (s.stream sid).cons with
  | some r =>
    if r.report.isSome then
      (s.modStream sid fun e => { e with cons := some { r with report := none } }).post r.peer (.space ⟨r.peer, sid, r.nseq⟩)
    else s
  | none => s)

/-- A message kept at a forwarding record is addressed to the new holder. -/
def readdress (t : BitVec 12) : Msg → Msg
  | .item m => .item { m with dst := t }
  | .ack m => .ack { m with dst := t }
  | .space m => .space { m with dst := t }
  | .moved m => .moved { m with dst := t }
  | .close m => .close { m with dst := t }
  | .note m => .note { m with dst := t }
  | .drained m => .drained { m with dst := t }
  | m => m

/-- A producer end's forwarding record goes once its move is acknowledged and its new place known (R339). -/
def State.freeProd (s : State) (sid : StreamId) : State :=
  match (s.stream sid).fprod with
  | some f => if f.dest.isSome && f.bnd.isSome then s.modStream sid fun e => { e with fprod := none, went := f.dest } else s
  | none => s

/-- The word to the new holder of a consumer end that what an old holder stored is lost (R340). -/
def lostNotice (t : BitVec 12) (sid : StreamId) : Msg := .close ⟨t, sid, false, 0, true, true⟩

/-- ARRIVED (R339): the forwarding record learns the new holder and passes on what it kept. A consumer end's record that is gone
took its stored items with it (R340). -/
def execArrived (m : MoveMsg) (s : State) : Host.Outcome State Fault Refusal :=
  if m.dst ≠ s.fabid then .next s
  else
    let s1 := s.receive (.arrived m)
    .next (match (s1.stream m.sid).fwd m.cons with
    | none => if m.cons then s1.post m.loc (lostNotice m.loc m.sid) else s1
    | some f =>
      if f.mc ≠ m.mc then s1
      else
        let s2 := s1.modStream m.sid fun e => e.setFwd m.cons (some { f with dest := some m.loc, held := [], items := [] })
        let s3 := f.items.foldl (fun x (n, b, src) => x.passItem m.loc ⟨m.loc, m.sid, src, n, b⟩) s2
        let s4 := f.held.foldl (fun x h =>
          match h with
          | .item i => x.passItem m.loc i
          | h => x.post m.loc (readdress m.loc h)) s3
        if m.cons then s4.checkDrained m.sid else s4.freeProd m.sid)

/-- A move is answered (R338, R339): the old holder of a consumer end learns the number from which on nothing more comes, that of
a producer end that the move is known; and so does the module that the answering end took for the holder. -/
def State.answerMove (s : State) (m : MoveMsg) (peer : BitVec 12) (nseq : BitVec 32) : State :=
  let olds := if peer = m.old then [m.old] else [peer, m.old]
  if m.cons then olds.foldl (fun x d => x.post d (.redirected ⟨d, m.sid, m.mc, nseq⟩)) s
  else olds.foldl (fun x d => x.post d (.movedAck { m with dst := d })) s

/-- MOVED (R339): the peer end learns where the moved end is and answers its old holder. (DEDUCED, log 55) -/
def execMoved (m : MoveMsg) (s : State) : Host.Outcome State Fault Refusal :=
  if m.dst ≠ s.fabid then .next s
  else
    let s1 := s.receive (.moved m)
    let peer := !m.cons
    .next (match (s1.stream m.sid).endOf peer with
    | some r =>
      if !newer m.mc r.pmc then s1
      else
        let s2 := s1.modStream m.sid fun e =>
          e.setEnd peer (some { r with peer := m.loc, pmc := m.mc, hold := none })
        let s3 := s2.answerMove m r.peer r.nseq
        if m.cons then s3 else s3.post m.loc (.space ⟨m.loc, m.sid, r.nseq⟩)
    | none =>
      match (s1.stream m.sid).fwd peer with
      | some _ => s1.relay m.sid peer fun t => .moved { m with dst := t }
      | none =>
        match (s1.stream m.sid).endedOf peer with
        | some d => (s1.answerMove m d.last.peer d.last.nseq).post m.loc (.close ⟨m.loc, m.sid, peer, d.aseq, false, false⟩)
        | none => s1.post m.loc (.close ⟨m.loc, m.sid, peer, 0, true, false⟩))

/-- MOVED_ACKNOWLEDGEMENT (R339): the peer has acknowledged the move of a producer end. -/
def execMovedAcknowledgement (m : MoveMsg) (s : State) : Host.Outcome State Fault Refusal :=
  if m.dst ≠ s.fabid then .next s
  else
    let s1 := s.receive (.movedAck m)
    .next ((s1.modStream m.sid fun e =>
      { e with fprod := e.fprod.map fun f => if f.mc = m.mc then { f with bnd := some 0 } else f }).freeProd m.sid)

/-- REDIRECTED (R339): from which number on nothing more comes, of the move it belongs to. -/
def execRedirected (m : RedirMsg) (s : State) : Host.Outcome State Fault Refusal :=
  if m.dst ≠ s.fabid then .next s
  else
    let s1 := s.receive (.redirected m)
    .next ((s1.modStream m.sid fun e =>
      { e with fcons := e.fcons.map fun f => if f.mc = m.mc then { f with bnd := some (f.bnd.getD m.bnd) } else f }).checkDrained m.sid)

/-- The old holder of a move has passed everything on (R339). -/
def EndRec.drainedBy (e : EndRec) (mc : BitVec 8) : EndRec := if e.old.any (·.1 == mc) then { e with old := none } else e

/-- DRAINED (R339): the old holder of that move has passed everything on: to the end, or to the forwarding record it has become. -/
def execDrained (m : MoveMsg) (s : State) : Host.Outcome State Fault Refusal :=
  if m.dst ≠ s.fabid then .next s
  else
    let s1 := s.receive (.drained m)
    .next (s1.modStream m.sid fun e =>
      { e with cons := e.cons.map (EndRec.drainedBy · m.mc),
               fcons := e.fcons.map fun f => { f with last := f.last.drainedBy m.mc } })

/-- Both ends of a stream are closed: its entry at HMOD is freed (R338). -/
def StreamEntry.noteClosed (e : StreamEntry) (cons : Bool) : StreamEntry :=
  let e1 := if cons then { e with consClosed := true } else { e with prodClosed := true }
  if e1.live && e1.prodClosed && e1.consClosed then { e1 with live := false, prodClosed := false, consClosed := false } else e1

/-- Items sent from here that the consumer will not accept (R334, R338): from a number on, KIND 1 with NSEQ; transfers
among them are lost. -/
def State.failSent (s : State) (sid : StreamId) (fromSeq nseq : BitVec 32) : State :=
  let e := s.stream sid
  let gone := e.sent.filter fun x => !later fromSeq x.1
  let s1 := s.setStream sid { e with sent := e.sent.filter fun x => later fromSeq x.1 }
  s1.discardQueue (gone.map (·.2)) nseq

/-- A consumer end meets the end of its stream at a number (R338, R340). -/
def EndRec.finish (e : EndRec) (st : BitVec 4) (at_ : BitVec 32) : EndRec :=
  { e.lose st with endSeq := some at_, hold := none }

/-- The number after the last item a consumer end has accepted. -/
def EndRec.top (e : EndRec) : BitVec 32 :=
  e.store.foldl (fun a x => latest (BitVec.ofNat 32 x.1 + 1) a) e.aseq

/-- The first number from NSEQ on that is not stored. -/
def EndRec.gap (e : EndRec) : BitVec 32 := e.nseq + BitVec.ofNat 32 (e.run e.nseq 1024)

/-- A consumer end whose missing items are lost with an old holder (R340): its stream ends at the first gap, and its producer is
told. (DEDUCED, log 56) -/
def State.loseRest (s : State) (sid : StreamId) (r : EndRec) : State :=
  (s.modStream sid fun e => { e with cons := some ({ r with old := none }.finish 2 r.gap) }).post r.peer
    (.close ⟨r.peer, sid, true, r.aseq, true, false⟩)

/-- A close notice (R338, R340): the other end was closed or removed, or what an old holder stored is lost. What stood for a closed
end to answer its peer's moves goes with the peer (R338). (DEDUCED, log 56) -/
def State.closeNoted (s : State) (m : CloseMsg) : State :=
  if m.dst ≠ s.fabid then s
  else if m.lost then
    let s0 := s.receive (.close m)
    match (s0.stream m.sid).cons with
    | some r => s0.loseRest m.sid r
    | none => s0.relay m.sid true fun t => .close { m with dst := t }
  else
    let s0 := (s.receive (.close m)).modStream m.sid fun e => e.setEnded (!m.cons) none
    let s1 := if m.sid.hmod = s.fabid then s0.modStream m.sid fun e => e.noteClosed m.cons else s0
    let st : BitVec 4 := if m.orphan then 2 else 3
    match (s1.stream m.sid).endOf (!m.cons) with
    | some r =>
      if m.cons then
        let s2 := s1.modStream m.sid fun e =>
          { e with prod := some (if r.real = 3 then r else r.lose st) }
        s2.failSent m.sid m.aseq r.nseq
      else
        s1.modStream m.sid fun e =>
          { e with cons := some (r.finish st (if m.orphan then r.top else latest m.aseq r.top)) }
    | none =>
      let s2 := if m.cons then s1.failSent m.sid m.aseq m.aseq else s1
      match (s2.stream m.sid).fwd (!m.cons) with
      | some _ => s2.relay m.sid (!m.cons) fun t => .close { m with dst := t }
      | none => s2

/-- The peer of an end that moved away from here to a module that is lost learns it (R340), and its forwarding record goes. -/
def State.loseMoved (s : State) (sid : StreamId) (cons : Bool) (f : FwdRec) : State :=
  (s.modStream sid fun e => e.setFwd cons none).tellClosed sid cons f.last f.last.aseq true

/-- The ends whose transfers went down a stream that is lost and that have not been installed (R340). -/
def State.loseVia (s : State) (via sid : StreamId) : State :=
  [false, true].foldl (fun x cons => match (x.stream sid).fwd cons with
    | some f => if f.dest.isNone && f.via == via then x.loseMoved sid cons f else x
    | none => x) s

/-- The names in the stream table. -/
def State.streamIds (s : State) : List StreamId :=
  s.hub.streams.map fun e => ⟨BitVec.ofNat 12 (e.1 / 65536), BitVec.ofNat 16 e.1⟩

/-- An end loses its peer with no notice from it (R340): a consumer at ASEQ, a producer at once. (DEDUCED, log 56) -/
def State.orphanEnd (s : State) (sid : StreamId) (cons : Bool) : State :=
  match (s.stream sid).endOf cons with
  | none => s
  | some r =>
    let s1 := if sid.hmod = s.fabid then s.modStream sid fun e => e.noteClosed (!cons)
      else s.post sid.hmod (.close ⟨sid.hmod, sid, !cons, r.aseq, true, false⟩)
    if cons then s1.modStream sid fun e => { e with cons := e.cons.map fun r => r.finish 2 r.gap }
    else
      let s2 := (s1.modStream sid fun e =>
        { e with prod := e.prod.map fun r => if r.real = 3 then { r with hold := none } else r.lose 2 }).failSent sid r.aseq r.nseq
      s2.streamIds.foldl (fun x i => x.loseVia sid i) s2

/-- Milliseconds of device time. -/
def ms : Nat := 1000000

/-- An end whose peer stood on a module that is down is held for 400 us of device time: the peer may have moved on from there, and
its moved message be on its way (R340). (DESIGN CHOICE, log 73) -/
def State.awaitMove (s : State) (f : BitVec 12) (sid : StreamId) (cons : Bool) (r : EndRec) : State :=
  if r.peer = f ∧ r.hold = none then s.modStream sid fun e => e.setEnd cons (some { r with hold := some (s.dtime + 400000, f) }) else s

/-- What a module-down notice does to one stream's ends here (R340, R357): to a consumer end, to a producer end, to the records of
ends that moved on. (DEDUCED, log 56) -/
def State.streamDown (s : State) (f : BitVec 12) (sid : StreamId) : State :=
  let s1 := match (s.stream sid).cons with
    | none => s
    | some r =>
      if r.old.map Prod.snd = some f then s.loseRest sid r
      else
        match r.hold, r.note with
        | some _, some p => if p = f then s.orphanEnd sid true else s
        | _, some p =>
          if r.peer ≠ f then s
          else if p = f ∨ s.hub.downMods.contains p then s.orphanEnd sid true
          else s.modStream sid fun e => { e with cons := some { r with hold := some (s.dtime + 10 * ms, f) } }
        | _, none => s.awaitMove f sid true r
  let s2 := match (s1.stream sid).prod with
    | some r => s1.awaitMove f sid false r
    | none => s1
  let s3 := match (s2.stream sid).fcons with
    | some w => if w.last.old.map Prod.snd = some f then s2.relay sid true fun t => lostNotice t sid else s2
    | none => s2
  [false, true].foldl (fun x cons =>
    let y := x.modStream sid fun e => if (e.endedOf cons).any fun d => d.last.peer == f then e.setEnded cons none else e
    match (y.stream sid).fwd cons with
    | some w => if w.dest = some f then y.loseMoved sid cons w else y
    | none => y) s3

/-- The installation of an end at the release of its srecv (R337, R339). Modules down by then count for it at once (R340). -/
def State.installEnd (s : State) (ci : Nat) (x : RelItem) (b : XferBody) : State :=
  match (s.stream b.sid).inst.find? fun i => i.ctx == ci && i.cons == b.cons && i.chk == b.chk with
  | none => s
  | some i =>
    let own := s.fabid
    let r : EndRec :=
      { chk := b.chk, slot := x.slot, gen := x.gen, capc := b.capc, nseq := b.nseq, aseq := b.aseq, peer := b.peer, mc := b.mc,
        pmc := b.pmc, buf := i.buf, consumed := b.consumed, note := b.note, old := if b.cons then some (b.mc, b.src) else none }
    let s1 := s.modStream b.sid fun t => (({ t with inst := t.inst.erase i }).setEnd b.cons (some r)).setEnded b.cons none
    let m := fun (d : BitVec 12) => (⟨d, b.sid, b.cons, b.mc, own, b.src⟩ : MoveMsg)
    let s2 := (s1.post b.src (.arrived (m b.src))).post b.peer (.moved (m b.peer))
    s2.hub.downMods.foldl (fun y f => y.streamDown f b.sid) s2

/-- The release of an srecv (R335): the item leaves the buffer, NSEQ advances, space is to be reported within 1 us. -/
def State.srecvRel (s : State) (ci : Nat) (x : RelItem) (w : Word) (b : Option XferBody) : State :=
  let s1 := s.modStream (handleSid w) fun t =>
    { t with cons := t.cons.map fun r =>
        if r.chk = handleChk w ∧ r.resv.any (fun e => e.1 == ci) then
          { r with resv := r.resv.eraseP (fun e => e.1 == ci), store := Tab.erase r.store r.nseq.toNat, nseq := r.nseq + 1,
                   report := some (r.report.getD (s.dtime + 1000)) }
        else r }
  match b with
  | none => s1
  | some b => s1.installEnd ci x b

/-- A module-down notice at the stream engine (R340). -/
def State.streamsDown (s : State) (f : BitVec 12) : State := s.streamIds.foldl (fun x i => x.streamDown f i) s

/-- The transfer of an end has reached this module and waits to be received or installed (R337, R340). -/
def State.endStored (s : State) (sid : StreamId) (cons : Bool) : Bool :=
  ((s.stream sid).inst.any fun i => i.cons == cons) ||
    s.hub.streams.any fun e => e.2.cons.any fun r => r.store.any fun i => match i.2 with
      | .xfer b _ => b.sid == sid && b.cons == cons
      | .data _ => false

/-- An end's hold-off is over (R340, R357): its time has passed, and no transfer of its peer waits here. -/
def State.holdOver (s : State) (sid : StreamId) (cons : Bool) : Bool :=
  match ((s.stream sid).endOf cons).bind (·.hold) with
  | some (t, _) => decide (t ≤ s.dtime) && !s.endStored sid (!cons)
  | none => false

/-- ORPHAN_HOLDOFF_EXPIRY (R340, R357): no newer moved has come in time, 10 ms for an end that a journal's partner may adopt. -/
def execOrphanHoldoffExpiry (sid : StreamId) (s : State) : Host.Outcome State Fault Refusal :=
  .next ([true, false].foldl (fun x cons => if x.holdOver sid cons then x.orphanEnd sid cons else x) s)

/-- BELAY_NOTE (R349, R355): the consumer's holder learns the partner. -/
def execBelayNote (m : NoteMsg) (s : State) : Host.Outcome State Fault Refusal :=
  if m.dst ≠ s.fabid then .next s
  else
    let s1 := s.receive (.note m)
    .next (match (s1.stream m.sid).cons with
    | some r => s1.modStream m.sid fun e => { e with cons := some { r with note := some m.part } }
    | none => s1.relay m.sid true fun t => .note { m with dst := t })

/-- An increment of a slot's generation (R315, R340): its ends and forwarding records go, its buffers are freed, every
peer is orphaned. -/
def State.sweepStreams (s : State) (slot : BitVec 4) : State :=
  let s1 := s.streamIds.foldl (fun x i =>
    [false, true].foldl (fun x cons =>
      let x1 := match (x.stream i).endOf cons with
        | some r => if r.slot = slot ∧ r.gen ≠ x.gen slot then x.removeEnd i cons true else x
        | none => x
      let x2 := match (x1.stream i).fwd cons with
        | some f =>
          if f.slot = slot ∧ f.gen ≠ x1.gen slot then
            let y := x1.modStream i fun e => e.setFwd cons none
            match cons, f.dest with
            | true, some t => y.post t (lostNotice t i)
            | _, _ => y
          else x1
        | none => x1
      x2.modStream i fun e =>
        if (e.endedOf cons).any fun d => d.last.slot == slot && d.last.gen != x2.gen slot then e.setEnded cons none else e) x) s
  s1.streamIds.foldl (fun x i =>
    let gone := (x.stream i).inst.filter fun k => k.cons && k.slot == slot
    let x1 := gone.foldl (fun y k => y.poolFree k.slot k.buf) x
    x1.modStream i fun e => { e with inst := e.inst.filter (fun k => k.slot != slot),
                                     sent := e.sent.filter fun k =>
                                       k.2.slot != slot || k.2.gen == x.gen slot || k.2.isXfer }) s1

end Sys2Proof.Machine
end

