-- ==== Sys2Proof/Machine/Journal.lean ====
section
/-! DEFINITION. The belay journal unit bj and the belay engine (R344 to R362). -/

namespace Sys2Proof.Machine

/-- A journal table entry, live or taken (R344). -/
def State.journal (s : State) (j : Nat) : Option Journal := (s.hub.journals.find? fun e => e.1 == j).map (·.2)
/-- Fill a journal table entry. -/
def State.setJournal (s : State) (j : Nat) (x : Journal) : State :=
  { s with hub := { s.hub with journals := Tab.set s.hub.journals j x } }
/-- Change a journal table entry. -/
def State.modJournal (s : State) (j : Nat) (f : Journal → Journal) : State :=
  match s.journal j with
  | none => s
  | some x => s.setJournal j (f x)
/-- Free a journal table entry. -/
def State.freeJournal (s : State) (j : Nat) : State :=
  { s with hub := { s.hub with journals := Tab.erase s.hub.journals j } }
/-- A table entry that is neither taken nor reserved (R346). -/
def State.freeEntry (s : State) : Option Nat :=
  (List.range 4096).find? fun j =>
    !(s.hub.journals.any fun e => e.1 == j) && !s.hub.rings.any fun r => r.entry == some j

/-- JIDX of a handle (R344). -/
def jidxOf (w : Word) : Nat := field w 40 12
/-- A journal handle (R344). -/
def journalHandle (own : BitVec 12) (j : Nat) (chk : BitVec 32) : Word := own ++ BitVec.ofNat 12 j ++ (0 : BitVec 8) ++ chk

/-- The checks of a journal handle (R344, R359). -/
def State.checkJournal (s : State) (w : Word) : Res Journal :=
  match s.journal (jidxOf w) with
  | none => raiseJournal 1 w
  | some x =>
    if !x.live ∨ w.setWidth 32 = (0 : BitVec 32) ∨ x.chk ≠ w.setWidth 32 ∨ field w 32 8 ≠ 0 then raiseJournal 1 w
    else if x.slot ≠ s.coreSlot s.cur.core then raiseJournal 2 w
    else if x.gen ≠ s.gen x.slot then raiseJournal 3 w
    else .ok x

/-- STEP of a record (R347). -/
def recStep (r : Packet64) : BitVec 32 := r.extractLsb' 64 32
/-- ESEQ of a record (R347). -/
def recEseq (r : Packet64) : BitVec 32 := r.extractLsb' 192 32
/-- TOKEN of a record (R347). -/
def recToken (r : Packet64) : BitVec 32 := r.extractLsb' 96 32
/-- CSUM of a record as it must be (R347). -/
def recSum (r : Packet64) : BitVec 32 := crc32c (bytesOf r 60)
/-- A record's CSUM is valid. -/
def recOk (r : Packet64) : Bool := r.extractLsb' 480 32 == recSum r
/-- A record with SEQID, STEP and ESEQ put in and CSUM filled (R351). -/
def makeRec (t : Packet64) (seqid : Word) (step eseq : BitVec 32) : Packet64 :=
  let r : Packet64 := (0 : BitVec 32) ++ t.extractLsb' 224 256 ++ eseq ++ t.extractLsb' 96 96 ++ step ++ seqid
  recSum r ++ r.setWidth 480

/-- Limit kind of a pitch: entries handed to the belay engine (R348). -/
def limBj : Nat := 7

/-- A bj operation that acts at release, or emits then (R348). -/
def State.bjRelease (s : State) (i : Instr) (f : OpM) (act : State → Res State) : Res State :=
  inSlot 2 do
    s.opens i
    let s0 ← s.limit limBj 16 14
    if !s.guard f.g then pure s0 else act s0

/-- A result of bj pending until after release. -/
def State.bjPend (s : State) (w : BitVec 6) : Nat × State :=
  let (tok, s1) := s.newTok
  (tok, s1.pendOn (.rl 0xB :: (s.wbS w).toList) tok 14 true)

/-- jopen (R348, R349). -/
def opJopen (f : OpM) (s : State) : Res State :=
  s.bjRelease (.jopen f) f fun s0 => do
    let t ← s.readT f.t
    let d : Packet64 := t.wide.data.setWidth 512
    let w := d.extractLsb' 64 64
    discard (s.checkEnd w (some false))
    if field d 140 4 < 8 ∨ field d 144 16 ≠ 0 then raiseJournal 8 0
    let (tok, s1) := s0.bjPend f.w
    pure (s1.addRel tok 14 (.jopen d))
/-- jopen (R348, R349). -/
def execJopen (f : OpM) (s : State) : Host.Outcome State Fault Refusal := settle s (opJopen f s)

/-- jtrunc (R348, R354). -/
def opJtrunc (f : OpM) (s : State) : Res State :=
  s.bjRelease (.jtrunc f) f fun s0 => do
    let t ← s.readT f.t
    let l ← s.readLatch 14
    let x ← s.checkJournal l.lo
    let c : BitVec 32 := t.word.setWidth 32
    if later x.cstep c ∨ later c x.tail then raiseJournal 4 l.lo
    pure (s0.addRel 0 14 (.jtrunc l.lo (c.setWidth 64) l.hi))
/-- jtrunc (R348, R354). -/
def execJtrunc (f : OpM) (s : State) : Host.Outcome State Fault Refusal := settle s (opJtrunc f s)

/-- jpart (R348, R355). -/
def opJpart (f : OpM) (s : State) : Res State :=
  s.bjRelease (.jpart f) f fun s0 => do
    let t ← s.readT f.t
    let l ← s.readLatch 14
    discard (s.checkJournal l.lo)
    let (tok, s1) := s0.bjPend f.w
    pure (s1.addRel tok 14 (.jpart l.lo (t.word &&& 0xFFF)))
/-- jpart (R348, R355). -/
def execJpart (f : OpM) (s : State) : Host.Outcome State Fault Refusal := settle s (opJpart f s)

/-- jrep (R348, R358). -/
def opJrep (f : OpM) (s : State) : Res State :=
  s.bjRelease (.jrep f) f fun s0 => do
    let t ← s.readT f.t
    let (tok, s1) := s0.bjPend f.w
    pure (s1.addRel tok 14 (.jrep t.word))
/-- jrep (R348, R358). -/
def execJrep (f : OpM) (s : State) : Host.Outcome State Fault Refusal := settle s (opJrep f s)

/-- A journal as jstat reads it (R345). -/
def State.journalBits (s : State) (j : Nat) (x : Journal) : BitVec 512 :=
  let endh : Word := match (s.stream x.sid).prod with
    | some r => if r.journal = some j then endHandle x.sid false r.chk else 0
    | none => 0
  (0 : BitVec 80) ++ x.capc ++ x.gen ++ x.slot ++ x.state ++ x.iss ++ x.part ++
    (if x.state = 2 then x.cur else x.tail) ++ x.neseq ++ x.tail ++ x.cstep ++ x.ckpt ++ endh ++ x.seqid ++
    journalHandle s.fabid j x.chk

/-- jstat (R345, R348). -/
def opJstat (f : OpM) (s : State) : Res State :=
  inSlot 2 do
    s.opens (.jstat f)
    if !s.guard f.g then pure s
    else do
      let t ← s.readT f.t
      let x ← s.checkJournal t.word
      let v := s.journalBits (jidxOf t.word) x
      pure (s.land 2 14 8 (wr64 (.rl 0xB) (v.setWidth 64) ::
        (wbV f.w).toList.map fun g => wrW g { data := v.setWidth 1024 }))
/-- jstat (R345, R348). -/
def execJstat (f : OpM) (s : State) : Host.Outcome State Fault Refusal := settle s (opJstat f s)

/-- jrec (R348, R352): at most four results pending. -/
def opJrec (f : OpM) (s : State) : Res State :=
  inSlot 2 do
    s.opens (.jrec f)
    if !s.guard f.g then pure s
    else do
      let t ← s.readT f.t
      let l ← s.readLatch 14
      let x ← s.checkJournal l.lo
      if x.state = 3 then raiseJournal 6 l.lo
      if 4 ≤ s.me.jrecs.length then blockAt .pendingRead
      let (tok, s1) := s.newTok
      let s2 := (s1.pendOn (.rl 0xB :: (wbV f.w).toList) tok 14 false).modMe fun c => { c with jrecs := c.jrecs ++ [tok] }
      let s3 := { s2 with hub := { s2.hub with jrecs := s2.hub.jrecs ++ [(s.cid, tok, x.part, s.dtime)] } }
      pure (s3.post x.part (.jrecReq ⟨x.part, s.fabid, BitVec.ofNat 12 (jidxOf l.lo), t.word.setWidth 32, tok⟩))
/-- jrec (R348, R352). -/
def execJrec (f : OpM) (s : State) : Host.Outcome State Fault Refusal := settle s (opJrec f s)

/-- EmissionsNotAccepted (R351): handed over and not accepted. -/
def State.emissions (s : State) (sid : StreamId) : List (BitVec 32 × BitVec 32) :=
  let e := s.stream sid
  ((match e.prod with | some r => r.queue | none => []) ++ e.sent.map (·.2)).filterMap (·.forced)

/-- What a jemit meets before it emits (R350, R351, R353): its traps in order, a full engine, an unjournalled step. (DEDUCED,
log 57) -/
def State.jemitCheck (s : State) (x : Journal) (w : Word) (d : Packet64) : Res Unit :=
  let step := recStep d
  if x.state = 3 then raiseJournal 6 w
  else if later x.cstep step ∨ later step x.tail then raiseJournal 4 w
  else if x.state = 2 ∧ step ≠ x.cur then raiseJournal 4 w
  else if step = x.tail ∧ (8 < field d 352 4 ∨ field d 356 28 ≠ 0) then raiseJournal 8 w
  else if step = x.tail ∧ (x.tail - x.cstep).toNat = 2 ^ x.capc.toNat then raiseJournal 7 w
  else if 64 ≤ (s.emissions x.sid).length then
    if step = x.tail then .error (.jemit (jidxOf w) step none) else blockAt .jemit
  else if step = x.tail then
    .error (.jemit (jidxOf w) step (if x.sent.isSome ∨ x.state = 4 then none else some (makeRec d x.seqid step x.neseq)))
  else .ok ()

/-- The emission of a journalled step (R350, R351): its sampled token, and the release entry that sends the record. -/
def State.jemitGo (s0 : State) (x : Journal) (w : Word) (wb : BitVec 6) (step : BitVec 32) (first : Bool) : State :=
  let j := jidxOf w
  let r := Tab.get (0 : Packet64) x.recs step.toNat
  let res : Word := (recToken r).setWidth 64 ||| (if first then 0 else 0x100000000)
  let s1 := if x.state = 2 then
      s0.setJournal j { x with cur := step + 1, state := if step + 1 = x.tail then 0 else 2 } else s0
  (s1.land 2 14 2 (s1.scalarWrites 0xB wb res)).addRel 0 14 (.jemit w r (x.state = 2))

/-- jemit (R348, R350, R351). -/
def opJemit (f : OpM) (s : State) : Res State :=
  s.bjRelease (.jemit f) f fun s0 => do
    let t ← s.readT f.t
    let l ← s.readLatch 14
    let w := l.lo
    let x ← s.checkJournal w
    let d : Packet64 := t.wide.data.setWidth 512
    s.jemitCheck x w d
    pure (s0.jemitGo x w f.w (recStep d) (s.me.jfirst == some (jidxOf w, recStep d)))
/-- jemit (R348, R350, R351). -/
def execJemit (f : OpM) (s : State) : Host.Outcome State Fault Refusal := settle s (opJemit f s)

/-- The release of an emission (R350, R351): it joins the queue of the bound end. -/
def State.jemitRel (s : State) (ci : Nat) (x : RelItem) (w : Word) (r : Packet64) : State :=
  match s.journal (jidxOf w) with
  | none => s
  | some y =>
    if y.chk ≠ w.setWidth 32 then s
    else s.modStream y.sid fun e =>
      { e with prod := e.prod.map fun p =>
          { p with queue := p.queue ++ [⟨.data r, ci, 0, x.slot, x.gen, some (recEseq r, recStep r)⟩] } }

/-- The bytes of a ring (R346): 2^CAPC records. -/
def ringBytes (capc : BitVec 4) : Nat := 64 * 2 ^ capc.toNat
/-- The access to a ring: under the hosting slot and its generation (R346, R347). -/
def Ring.acc (r : Ring) : Acc := ⟨some r.slot, r.gen, false, 0, 0⟩
/-- The address of a step's record (R347). -/
def Ring.place (r : Ring) (step : BitVec 32) : Nat := r.addr + 64 * (step.toNat % 2 ^ r.capc.toNat)
/-- The record of a step as it stands in a ring; absent where its CSUM fails (R347). -/
def State.ringRec (s : State) (r : Ring) (step : BitVec 32) : Option Packet64 :=
  let x : Packet64 := ofBytes 512 ((s.homeReads r.acc (r.place step) 64).map Prod.fst)
  if recOk x then some x else none
/-- A record read from a ring; one whose CSUM fails is logged as a cell error and reads as absent (R347, R413). -/
def State.readRec (s : State) (r : Ring) (step : BitVec 32) : Option Packet64 × State :=
  match s.ringRec r step with
  | some x => (some x, s)
  | none => (none, s.logCell (paDie (r.place step)) (r.place step / 128) true 0 3)
/-- The records of n steps from one on, read in order, with their steps (R347). -/
def State.readRecs (s : State) (r : Ring) (step : BitVec 32) (n : Nat) : List (BitVec 32 × Option Packet64) × State :=
  (List.range n).foldl (fun acc i =>
    let q := step + BitVec.ofNat 32 i
    let (d, z) := acc.2.readRec r q
    (acc.1 ++ [(q, d)], z)) ([], s)
/-- Write a record into a ring as one store (R347). -/
def State.ringWrite (s : State) (r : Ring) (step : BitVec 32) (x : Packet64) : State :=
  s.homeWrites r.acc (r.place step) (bytesOf x 64)
/-- A ring belongs to a journal. -/
def Ring.isFor (r : Ring) (iss jidx : BitVec 12) : Bool := r.iss == iss && r.jidx == jidx
/-- Change the newest ring of a journal. -/
def State.modRing (s : State) (iss jidx : BitVec 12) (f : Ring → Ring) : State :=
  { s with hub := { s.hub with rings :=
      (s.hub.rings.reverse.foldl (fun (acc : Bool × List Ring) r =>
        if !acc.1 && r.isFor iss jidx then (true, f r :: acc.2) else (acc.1, r :: acc.2)) (false, [])).2 } }
/-- The newest ring of a journal. -/
def State.ringOf (s : State) (iss jidx : BitVec 12) : Option Ring := s.hub.rings.reverse.find? fun r => r.isFor iss jidx
/-- Free the oldest ring of a journal with its place and its reserved entry (R346). -/
def State.freeRing (s : State) (iss jidx : BitVec 12) : State :=
  match s.hub.rings.find? fun r => r.isFor iss jidx with
  | none => s
  | some r => ({ s with hub := { s.hub with rings := s.hub.rings.erase r } }).poolFree r.slot r.addr

/-- BJHOST of a slot (R346). -/
def State.bjhost (s : State) (t : Nat) : Word := s.hubReg (0x5000 + 8 * t)

/-- Host a ring in a slot (R346): its place in the slot's pool, and an entry of the table for a journal of another
issuer. -/
def State.hostRing (s : State) (slot : BitVec 4) (entry : Option Nat) (m : RingReq) : Option State :=
  match s.poolAlloc slot (ringBytes m.capc) with
  | none => none
  | some (a, s1) =>
    some { s1 with hub := { s1.hub with rings := s1.hub.rings ++
      [⟨m.iss, m.jidx, slot, s.gen slot, a, m.capc, entry, m.seqid, m.cstep, m.tail, m.ckpt, m.neseq, m.sid, m.holder, m.mc,
        m.pmc, m.ecapc⟩] } }

/-- RING_HOST_REQUEST (R346): the lowest slot whose BJHOST has EN and the same tag accepts. -/
def execRingHostRequest (m : RingReq) (s : State) : Host.Outcome State Fault Refusal :=
  if m.dst ≠ s.fabid then .next s
  else
    let s1 := s.receive (.ringReq m)
    let slot := (List.range 16).find? fun t => (s1.bjhost t).getLsbD 63 && (s1.bjhost t).setWidth 16 == m.ftag
    let got := match slot, s1.freeEntry with
      | some t, some e => s1.hostRing (BitVec.ofNat 4 t) (some e) m
      | _, _ => none
    .next (match got with
    | some s2 => s2.post m.iss (.ringAns ⟨m.iss, s.fabid, m.jidx, true⟩)
    | none => s1.post m.iss (.ringAns ⟨m.iss, s.fabid, m.jidx, false⟩))

/-- The request to host a journal's ring (R346). -/
def State.ringReq (s : State) (j : Nat) (x : Journal) (part : BitVec 12) : RingReq :=
  let r := (s.stream x.sid).prod
  { dst := part, iss := s.fabid, jidx := BitVec.ofNat 12 j, ftag := (s.fabslot x.slot).setWidth 16, capc := x.capc,
    seqid := x.seqid, cstep := x.cstep, tail := x.tail, ckpt := x.ckpt, sid := x.sid,
    holder := (r.map (·.peer)).getD 0, mc := (r.map (·.mc)).getD 0, pmc := (r.map (·.pmc)).getD 0,
    ecapc := (r.map (·.capc)).getD 0, neseq := x.neseq }

/-- A failed result (R353): the status code in bits 39:32. -/
def failed (code : Nat) : Word := BitVec.ofNat 64 (code * 2 ^ 32)
/-- The result of a bj operation that acted at release lands. -/
def State.bjDone (s : State) (o : JOp) (v : Word) : State := s.answer o.ctx o.tok { data := v.setWidth 1024 } .clean

/-- The result of a jopen whose END is gone by its release: a failed value, whose code the spec does not state (R353). (DEDUCED,
log 57) -/
def State.bjGone (s : State) (o : JOp) : State :=
  ({ s with fresh := s.fresh + 1 }).bjDone o (failed (1 + (Config.freeWord s.fresh).toNat % 255))

/-- What one step of the belay engine makes of an operation: what is left of it, and the state. -/
abbrev JNext := Option JOp × State

/-- The end of a jopen's wait for its partner: the end is bound and the consumer's holder told, or nothing is
(R349, R353): an end bound meanwhile by another jopen is code 4, and the ring is given up. Sends that reached the end meanwhile are
discarded. (DEDUCED, log 57; DESIGN CHOICE, log 73) -/
def State.jopenEnd (s : State) (o : JOp) (code : Nat) : State :=
  match s.journal o.jidx with
  | none => s.bjDone o (failed 3)
  | some x =>
    let drop := s.freeJournal o.jidx
    let unhost := drop.post x.part (.release ⟨x.part, s.fabid, BitVec.ofNat 12 o.jidx, true, 0, 0⟩)
    if code ≠ 0 then drop.bjDone o (failed code)
    else
      match match o.body with | .jopen d => s.endNow (d.extractLsb' 64 64) | _ => none with
      | none => unhost.bjGone o
      | some r =>
        if r.state = 1 then unhost.bjGone o else
        if r.journal.isSome then unhost.bjDone o (failed 4) else
        let (chk, s1) := s.newChk
        let s2 := s1.setJournal o.jidx { x with live := true, chk := chk, neseq := r.nseq }
        let s3 := (s2.modStream x.sid fun e =>
          { e with prod := e.prod.map fun p => { p with journal := some o.jidx, queue := [] } }).discardQueue r.queue r.nseq
        (s3.post r.peer (.note ⟨r.peer, x.sid, x.part⟩)).bjDone o (journalHandle s.fabid o.jidx chk)

/-- A jopen in the belay engine (R349). -/
def State.jopenStep (s : State) (o : JOp) (d : Packet64) : JNext :=
  let w : Word := d.extractLsb' 64 64
  let sid := handleSid w
  match s.endNow w with
  | none => (none, s.bjGone o)
  | some r =>
    if r.state = 1 then (none, s.bjGone o)
    else if r.queue.any fun h => o.ahead.contains h.tok then (some o, s)
    else if r.journal.isSome then (none, s.bjDone o (failed 4))
    else
      match s.freeEntry with
      | none => (none, s.bjDone o (failed 1))
      | some j =>
        let step0 : BitVec 32 := d.extractLsb' 160 32
        let part : BitVec 12 := d.extractLsb' 128 12
        let x : Journal :=
          { live := false, chk := 0, slot := o.slot, gen := o.gen, state := 0, iss := s.fabid, part := part,
            capc := d.extractLsb' 140 4, cur := step0, neseq := r.nseq, tail := step0, cstep := step0,
            ckpt := d.extractLsb' 192 64, seqid := d.setWidth 64, sid := sid, emit := step0 }
        let s1 := s.setJournal j x
        let o1 := { o with jidx := j }
        if part = s.fabid then
          match s1.hostRing o.slot none (s1.ringReq j x part) with
          | none => (none, s1.jopenEnd o1 2)
          | some s2 => (none, s2.jopenEnd o1 0)
        else if s.hub.downMods.contains part then (none, s1.jopenEnd o1 3)
        else (some { o1 with stage := .asked s.dtime }, s1.post part (.ringReq (s1.ringReq j x part)))

/-- A jtrunc in the belay engine (R354). -/
def State.jtruncStep (s : State) (o : JOp) (w c k : Word) : JNext :=
  let j := jidxOf w
  match s.journal j with
  | none => (none, s)
  | some x =>
    let c : BitVec 32 := c.setWidth 32
    if x.chk ≠ w.setWidth 32 then (none, s)
    else if (s.emissions x.sid).any fun e => later c e.2 then (some o, s)
    else if later x.cstep c then (none, s)
    else
      let m := fun (all : Bool) => Msg.release ⟨x.part, s.fabid, BitVec.ofNat 12 j, all, c, k⟩
      if k = 0 then
        if c ≠ x.tail then (none, s)
        else
          let s1 := s.modStream x.sid fun e =>
            { e with prod := e.prod.map fun p => if p.journal = some j then { p with journal := none } else p }
          (none, (s1.freeJournal j).post x.part (m true))
      else
        let s1 := s.setJournal j { x with cstep := c, ckpt := k, recs := x.recs.filter fun e => !later c (BitVec.ofNat 32 e.1) }
        (none, s1.post x.part (m false))

/-- The end of a jpart (R355): refused, the journal keeps its partner; done, it has the new one, which learns the checkpoint as it
stands by now, and the old ring goes. A journal closed meanwhile leaves no ring. -/
def State.jpartEnd (s : State) (o : JOp) (newp : BitVec 12) (code : Nat) : State :=
  let idx := BitVec.ofNat 12 o.jidx
  match s.journal o.jidx with
  | none =>
    (if code = 0 then s.post newp (.release ⟨newp, s.fabid, idx, true, 0, 0⟩) else s).bjDone o (BitVec.ofNat 64 code)
  | some x =>
    if code = 2 ∨ code = 3 then (s.setJournal o.jidx { x with state := x.prev }).bjDone o (BitVec.ofNat 64 code)
    else
      let y : Journal := { x with part := newp, state := if x.prev = 3 then 0 else x.prev }
      let y := if o.gap then { y with cstep := y.tail, ckpt := 0, recs := [], state := 0, emit := y.tail } else y
      let s1 := s.setJournal o.jidx y
      let s1' := s1.post newp (.release ⟨newp, s.fabid, idx, false, y.cstep, y.ckpt⟩)
      let s2 := if o.gap then s1' else s1'.post x.part (.release ⟨x.part, s.fabid, idx, true, 0, 0⟩)
      let s3 := match (s2.stream x.sid).prod with
        | some r => s2.post r.peer (.note ⟨r.peer, x.sid, newp⟩)
        | none => s2
      s3.bjDone o (BitVec.ofNat 64 (if o.gap then 6 else 0))

/-- The new ring stands (R355): the old partner copies, or there is nothing to copy. -/
def State.jpartCopy (s : State) (o : JOp) (newp : BitVec 12) : JNext :=
  match s.journal o.jidx with
  | none => (none, s)
  | some x =>
    let gap := o.gap || s.hub.downMods.contains x.part
    let o1 := { o with gap := gap, stage := .copying }
    if gap ∨ x.cstep = x.tail then (none, s.jpartEnd o1 newp 0)
    else (some o1, s.post x.part (.copy ⟨x.part, s.fabid, BitVec.ofNat 12 o.jidx, newp, x.cstep, x.tail, [], false⟩))

/-- A jpart whose STATE 4 stands asks the new partner, once no append is under way (R355). (DEDUCED, log 57) -/
def State.jpartGo (s : State) (o : JOp) (x : Journal) (newp : BitVec 12) : JNext :=
  if x.sent.isSome then (some { o with stage := .armed }, s)
  else
    let gap := x.prev == 3 || s.hub.downMods.contains x.part
    let o1 := { o with gap := gap }
    let req := s.ringReq o.jidx (if gap then { x with cstep := x.tail, ckpt := 0 } else x) newp
    if newp = s.fabid then
      match s.hostRing x.slot none req with
      | none => (none, s.jpartEnd o1 newp 2)
      | some s2 => s2.jpartCopy o1 newp
    else if s.hub.downMods.contains newp then (none, s.jpartEnd o1 newp 3)
    else (some { o1 with stage := .asked s.dtime }, s.post newp (.ringReq req))

/-- A jpart in the belay engine (R355): STATE becomes 4 at once; one at a time for a journal. (DEDUCED, log 57) -/
def State.jpartStep (s : State) (o : JOp) (w p : Word) : JNext :=
  let j := jidxOf w
  match s.journal j with
  | none => (none, s)
  | some x =>
    if o.stage = .armed then s.jpartGo o x (p.setWidth 12)
    else if x.chk ≠ w.setWidth 32 then (none, s)
    else if x.state = 4 ∨ (s.hub.jops.any fun q => q.jidx == j && q.stage != .start) = true then (some o, s)
    else
      let y := { x with prev := x.state, state := 4 }
      (s.setJournal j y).jpartGo { o with jidx := j } y (p.setWidth 12)

/-- A jrep in the belay engine (R358). -/
def State.jrepStep (s : State) (o : JOp) (seqid : Word) : JNext :=
  match s.hub.journals.find? fun e => e.2.state == 1 && e.2.seqid == seqid && e.2.slot == o.slot && e.2.gen == o.gen with
  | none => (none, s.bjDone o (failed 5))
  | some (j, x) =>
    let ring := s.hub.rings.find? fun r => r.entry == some j
    if x.ckpt = 0 then
      let s1 := (s.freeJournal j).removeEnd x.sid false true
      let s2 := match ring with | some r => s1.freeRing r.iss r.jidx | none => s1
      (none, s2.bjDone o (failed 5))
    else
      let (chk, s1) := s.newChk
      let own := s.fabid
      let (recs, s1') := match ring with
        | none => ([], s1)
        | some r => s1.readRecs r x.cstep (x.tail - x.cstep).toNat
      let y : Journal :=
        { x with chk := chk, iss := own, part := own, state := if x.cstep = x.tail then 0 else 2, cur := x.cstep, live := true,
                 emit := x.cstep
                 recs := recs.foldl (fun t e => match e.2 with | some d => Tab.set t e.1.toNat d | none => t) [] }
      let s2 := s1'.setJournal j y
      let own1 := fun (r : Ring) => if r.entry = some j then { r with iss := own, jidx := BitVec.ofNat 12 j, entry := none } else r
      let s3 := { s2 with hub := { s2.hub with rings := s2.hub.rings.map own1 } }
      (none, s3.bjDone o (journalHandle own j chk))

/-- One operation of the belay engine goes as far as it can. -/
def State.jopStep (s : State) (o : JOp) : JNext :=
  if o.gen ≠ s.gen o.slot then (none, s)
  else
    match o.stage, o.body with
    | .start, .jopen d => s.jopenStep o d
    | .start, .jtrunc w c k => s.jtruncStep o w c k
    | .start, .jpart w p => s.jpartStep o w p
    | .armed, .jpart w p => s.jpartStep o w p
    | .start, .jrep q => s.jrepStep o q
    | .start, _ => (none, s)
    | _, _ => (some o, s)

/-- Every operation in the belay engine goes as far as it can, in order (R348). -/
def State.belayPump (s : State) : State :=
  let go := fun (acc : List JOp × State) (o : JOp) =>
    let r := acc.2.jopStep o
    (acc.1 ++ r.1.toList, r.2)
  let (l, s1) := s.hub.jops.foldl go ([], s)
  { s1 with hub := { s1.hub with jops := l } }

/-- The release of an entry that the belay engine takes (R348). -/
def State.bjRel (s : State) (ci : Nat) (x : RelItem) : State :=
  let ahead : List Nat := match x.body with
    | .jopen d => match s.endNow (d.extractLsb' 64 64) with | some r => r.queue.map SendItem.tok | none => []
    | _ => []
  let o : JOp := { ctx := ci, tok := x.tok, slot := x.slot, gen := x.gen, body := x.body, ahead := ahead }
  ({ s with hub := { s.hub with jops := s.hub.jops ++ [o] } }).belayPump

/-- Take out of the belay engine the operation on an entry that waits for a partner's answer. -/
def State.takeAsked (s : State) (j : Nat) : Option (JOp × State) :=
  (s.hub.jops.find? fun o => o.jidx == j && (match o.stage with | .asked _ => true | _ => false)).map fun o =>
    (o, { s with hub := { s.hub with jops := s.hub.jops.erase o } })

/-- The partner's answer, or its want after 1 ms (R353). -/
def State.ringAnswered (s : State) (j code : Nat) (part : BitVec 12) : State :=
  match s.takeAsked j with
  | none => s
  | some (o, s1) =>
    (match o.body with
    | .jpart _ _ =>
      if code ≠ 0 then s1.jpartEnd o part code
      else
        let (r, s2) := s1.jpartCopy o part
        { s2 with hub := { s2.hub with jops := s2.hub.jops ++ r.toList } }
    | _ => s1.jopenEnd o code).belayPump

/-- The partner that an operation has asked. -/
def JOp.asked (o : JOp) : BitVec 12 :=
  match o.body with
  | .jopen d => d.extractLsb' 128 12
  | .jpart _ p => p.setWidth 12
  | _ => 0

/-- RING_HOST_ANSWER (R349, R353, R355). An answer that comes after its operation gave up frees the ring again. -/
def execRingHostAnswer (m : RingAns) (s : State) : Host.Outcome State Fault Refusal :=
  if m.dst ≠ s.fabid then .next s
  else
    let s1 := s.receive (.ringAns m)
    let waits := s1.hub.jops.any fun o =>
      o.jidx == m.jidx.toNat && o.asked == m.part && (match o.stage with | .asked _ => true | _ => false)
    .next (if waits then s1.ringAnswered m.jidx.toNat (if m.ok then 0 else 2) m.part
    else if m.ok then s1.post m.part (.release ⟨m.part, s.fabid, m.jidx, true, 0, 0⟩)
    else s1)

/-- RING_HOST_TIMEOUT (R353): no answer within 1 ms of device time. -/
def execRingHostTimeout (jidx : BitVec 12) (s : State) : Host.Outcome State Fault Refusal :=
  let late := s.hub.jops.find? fun o =>
    o.jidx == jidx.toNat && (match o.stage with | .asked t => decide (t + ms ≤ s.dtime) | _ => false)
  match late with
  | none => .next s
  | some o => .next (s.ringAnswered jidx.toNat 3 o.asked)

/-- JOURNAL_APPEND (R347, R362): the record is written and acknowledged; refused where the ring is gone. -/
def execJournalAppend (m : AppendMsg) (s : State) : Host.Outcome State Fault Refusal :=
  if m.dst ≠ s.fabid then .next s
  else
    let s1 := s.receive (.append m)
    let staleIss := m.iss == s.fabid && (match s1.journal m.jidx.toNat with
      | some x => x.gen != s1.gen x.slot
      | none => true)
    let step := recStep m.recd
    let ack := fun (s : State) (ok : Bool) => s.post m.iss (.appendAck ⟨m.iss, s1.fabid, m.jidx, step, ok⟩)
    if staleIss then .next s1
    else
      match s1.ringOf m.iss m.jidx with
      | none => .next (ack s1 false)
      | some r =>
        if r.gen ≠ s1.gen r.slot then .next (ack s1 false)
        else
          let s2 := (s1.ringWrite r step m.recd).modRing m.iss m.jidx fun g =>
            { g with tail := step + 1, neseq := recEseq m.recd + 1, holder := m.holder }
          .next (ack s2 true)

/-- A journal loses its partner (R356, R362): STATE 3. A jpart under way goes on with a gap (R355): one that waits for the copy
ends at once. -/
def State.losePartner (s : State) (j : Nat) : State :=
  let s1 := s.modJournal j fun x => { x with state := 3, prev := 3, sent := none }
  let mine := fun (o : JOp) => o.jidx == j && (match o.body with | .jpart _ _ => true | _ => false)
  let copying := fun (o : JOp) => mine o && o.stage == .copying
  let mark := fun (o : JOp) => if mine o && o.stage != .start then { o with gap := true } else o
  let rest := (s1.hub.jops.filter fun o => !copying o).map mark
  let s2 : State := { s1 with hub := { s1.hub with jops := rest } }
  (s1.hub.jops.filter copying).foldl (fun x o => x.jpartEnd { o with gap := true } o.asked 0) s2

/-- APPEND_ACKNOWLEDGEMENT (R351, R362). -/
def execAppendAcknowledgement (m : AppendAck) (s : State) : Host.Outcome State Fault Refusal :=
  if m.dst ≠ s.fabid then .next s
  else
    let s1 := s.receive (.appendAck m)
    .next (match s1.journal m.jidx.toNat with
    | none => s1
    | some x =>
      match x.sent with
      | none => s1
      | some (step, r) =>
        if step ≠ m.step ∨ x.part ≠ m.part then s1
        else if !m.ok then (s1.losePartner m.jidx.toNat).belayPump
        else (s1.setJournal m.jidx.toNat
          { x with tail := step + 1, neseq := x.neseq + 1, recs := Tab.set x.recs step.toNat r, sent := none }).belayPump)

/-- JREC_REQUEST (R347, R352, R362): the record, or why there is none. While a jpart moves a ring within its module the older one
holds the records (R355). -/
def execJrecRequest (m : JrecReq) (s : State) : Host.Outcome State Fault Refusal :=
  if m.dst ≠ s.fabid then .next s
  else
    let s1 := s.receive (.jrecReq m)
    let ans := fun (s : State) (held stale : Bool) (d : Packet64) =>
      s.post m.iss (.jrecRep ⟨m.iss, s1.fabid, m.jidx, m.token, held, d, stale⟩)
    .next (match s1.hub.rings.find? fun r => r.isFor m.iss m.jidx with
    | none => ans s1 false true 0
    | some r =>
      if r.gen ≠ s1.gen r.slot then ans s1 false true 0
      else if later r.cstep m.step ∨ !later r.tail m.step then ans s1 false false 0
      else
        match s1.readRec r m.step with
        | (some d, s2) => ans s2 true false d
        | (none, s2) => ans s2 false false 0)

/-- A jrec's result lands (R352). -/
def State.jrecDone (s : State) (tok : Nat) (v : Lanes) (m : Mark) : State :=
  match s.hub.jrecs.find? fun x => x.2.1 == tok with
  | none => s
  | some (ci, _, _, _) =>
    let core := ci / 4
    let s1 := { s with hub := { s.hub with jrecs := s.hub.jrecs.filter fun x => x.2.1 != tok } }
    let s2 := (List.range 4).foldl (fun x i =>
      x.modCtx (4 * core + i) fun c => { c with jrecs := c.jrecs.filter (· != tok) }) s1
    let s3 := s2.modCore core fun k => { k with units := k.units.map fun u => { u with jrecs := u.jrecs.filter (· != tok) } }
    s3.answer ci tok { data := v } m

/-- JREC_REPLY (R352, R362): a refusal with class 2 from the partner that the journal still has is the loss of its ring.
(DEDUCED, log 57) -/
def execJrecReply (m : JrecRep) (s : State) : Host.Outcome State Fault Refusal :=
  if m.dst ≠ s.fabid then .next s
  else
    let s1 := s.receive (.jrecRep m)
    let ours := (s1.journal m.jidx.toNat).any fun x => x.part == m.part
    .next (if m.stale then
      ((if ours then s1.losePartner m.jidx.toNat else s1).jrecDone m.token 0 (.remote 2 0)).belayPump
    else if m.held then s1.jrecDone m.token ((1 : BitVec 512) ++ m.recd) .clean
    else s1.jrecDone m.token 0 .clean)

/-- REQUEST_TIMEOUT (R295, R352): of a fabric request by its tag; from 4,096 on, of a jrec by its token. -/
def execRequestTimeout (tag : Nat) (s : State) : Host.Outcome State Fault Refusal :=
  if tag < 4096 then .next (s.requestTimeout tag)
  else if s.hub.jrecs.any fun x => x.2.1 == tag - 4096 && decide (x.2.2.2 + s.rtout ≤ s.dtime) then
    .next (s.jrecDone (tag - 4096) 0 (.remote 9 0))
  else .next s

/-- RELEASE_MESSAGE (R354, R362): a ring is freed, or its records below a checkpoint. -/
def execReleaseMessage (m : ReleaseMsg) (s : State) : Host.Outcome State Fault Refusal :=
  if m.dst ≠ s.fabid then .next s
  else
    let s1 := s.receive (.release m)
    .next (if m.all then s1.freeRing m.iss m.jidx
    else s1.modRing m.iss m.jidx fun g => { g with cstep := m.step, ckpt := m.ckpt })

/-- A jpart whose new ring is gone before the copy stands in it ends with the old partner (R355, R362). (DEDUCED, log 57) -/
def State.newRingGone (s : State) (j : Nat) (newp : BitVec 12) : State :=
  match s.hub.jops.find? fun o => o.jidx == j && o.stage == .copying && o.asked == newp with
  | none => s
  | some o => (({ s with hub := { s.hub with jops := s.hub.jops.erase o } }).jpartEnd o newp 3).belayPump

/-- RELEASE_NOTICE (R362): the hosting slot has ended, of the partner's ring or of the one that a jpart is filling. -/
def execReleaseNotice (m : NoticeMsg) (s : State) : Host.Outcome State Fault Refusal :=
  if m.dst ≠ s.fabid then .next s
  else
    let s1 := s.receive (.notice m)
    .next (match s1.journal m.jidx.toNat with
    | some x =>
      if x.part = m.part ∧ x.iss = s.fabid then (s1.losePartner m.jidx.toNat).belayPump else s1.newRingGone m.jidx.toNat m.part
    | none => s1)

/-- RING_COPY (R355): the order to the old partner, the records at the new one, or the word that they stand there. A record whose
CSUM fails goes on absent (R347); where the ring is gone the issuer learns it as by a release notice (R362). (DEDUCED, log 57) -/
def execRingCopy (m : CopyMsg) (s : State) : Host.Outcome State Fault Refusal :=
  if m.dst ≠ s.fabid then .next s
  else
    let s1 := s.receive (.copy m)
    let n := (m.tail - m.cstep).toNat
    if m.done then
      let op := s1.hub.jops.find? fun o => o.jidx == m.jidx.toNat && o.stage == .copying
      .next (match op with
      | none => s1
      | some o => (({ s1 with hub := { s1.hub with jops := s1.hub.jops.erase o } }).jpartEnd o m.newp 0).belayPump)
    else if m.recs.isEmpty then
      match s1.hub.rings.find? fun r => r.isFor m.iss m.jidx with
      | none => .next (s1.post m.iss (.notice ⟨m.iss, s.fabid, m.jidx⟩))
      | some r =>
        let (recs, s2) := s1.readRecs r m.cstep n
        .next (s2.post m.newp (.copy { m with dst := m.newp, recs := recs.map fun e => e.2.getD 0 }))
    else
      match s1.ringOf m.iss m.jidx with
      | none => .next (s1.post m.iss (.notice ⟨m.iss, s.fabid, m.jidx⟩))
      | some r =>
        if r.gen ≠ s1.gen r.slot then .next (s1.post m.iss (.notice ⟨m.iss, s.fabid, m.jidx⟩)) else
        let s2 := m.recs.zipIdx.foldl (fun x (d, i) => x.ringWrite r (m.cstep + BitVec.ofNat 32 i) d) s1
        .next (s2.post m.iss (.copy { m with dst := m.iss, recs := [], done := true }))

/-- ITEM_SEND (R334, R337, R350): the engine hands out the next item of an end. -/
def execItemSend (sid : StreamId) (s : State) : Host.Outcome State Fault Refusal := .next (s.sendHead sid).belayPump

/-- ITEM_ACCEPTANCE (R331, R334, R354). -/
def execItemAcceptance (m : AckMsg) (s : State) : Host.Outcome State Fault Refusal := .next (s.itemAccepted m).belayPump

/-- CLOSE_NOTICE (R338, R340). -/
def execCloseNotice (m : CloseMsg) (s : State) : Host.Outcome State Fault Refusal := .next (s.closeNoted m).belayPump

/-- The partner adopts a journal of a failed issuer (R357): the reserved entry is filled, the producer end installed with
SPACE 0, the consumer's holder told, and the journal reported to Mortan (R373). (DEDUCED, log 57) -/
def State.adopt (s : State) (r : Ring) : State :=
  match r.entry with
  | none => s
  | some j =>
    if r.gen ≠ s.gen r.slot then s
    else
      let own := s.fabid
      let x : Journal :=
        { live := true, chk := 0, slot := r.slot, gen := r.gen, state := 1, iss := r.iss, part := own, capc := r.capc,
          cur := r.cstep, neseq := r.neseq, tail := r.tail, cstep := r.cstep, ckpt := r.ckpt, seqid := r.seqid, sid := r.sid,
          emit := r.cstep }
      let (chk, s1) := s.newChk
      let nseq := r.neseq - (r.tail - r.cstep)
      let e : EndRec :=
        { chk := chk, slot := r.slot, gen := r.gen, capc := r.ecapc, nseq := nseq, aseq := nseq, peer := r.holder,
          mc := r.mc + 1, pmc := r.pmc, consumed := nseq - BitVec.ofNat 32 ((capOf r.ecapc).getD 256), journal := some j }
      let s2 := (s1.setJournal j x).modStream r.sid fun t => { t with prod := some e }
      let s3 := { s2 with hub := { s2.hub with reports := s2.hub.reports ++ [r.seqid] } }
      s3.post r.holder (.moved ⟨r.holder, r.sid, false, r.mc + 1, own, r.iss⟩)

/-- A module-down notice at the belay engine (R352, R355 to R357). -/
def State.belayDown (s : State) (f : BitVec 12) : State :=
  let s1 := s.hub.rings.foldl (fun x r => if r.iss = f ∧ f ≠ s.fabid then x.adopt r else x) s
  let s2 := s1.hub.journals.foldl (fun x e =>
    if e.2.live ∧ e.2.part = f ∧ e.2.state ≠ 1 then x.losePartner e.1 else x) s1
  let s3 := (s2.hub.jrecs.filter fun x => x.2.2.1 == f).foldl (fun x r => x.jrecDone r.2.1 0 (.remote 8 0)) s2
  let asked := s3.hub.jops.filter fun o => o.asked == f && (match o.stage with | .asked _ => true | _ => false)
  let s4 := asked.foldl (fun x o => x.ringAnswered o.jidx 3 f) s3
  let lost := s4.hub.jops.filter fun o => o.stage == .copying && o.asked == f
  (lost.foldl (fun x o => ({ x with hub := { x.hub with jops := x.hub.jops.erase o } }).jpartEnd o f 3) s4).belayPump

/-- An increment of a slot's generation (R362): its journals and the rings it hosts go; partners and issuers are told. -/
def State.sweepJournals (s : State) (slot : BitVec 4) : State :=
  let dead := s.hub.journals.filter fun e => e.2.slot == slot && e.2.gen != s.gen slot
  let s1 := dead.foldl (fun x e =>
    let y := (x.freeJournal e.1).removeEnd e.2.sid false true
    let free := fun (z : State) (d : BitVec 12) => z.post d (.release ⟨d, s.fabid, BitVec.ofNat 12 e.1, true, 0, 0⟩)
    if e.2.state = 1 then y
    else (x.hub.jops.filter fun o => o.jidx == e.1 && o.stage == .copying).foldl (fun z o => free z o.asked) (free y e.2.part)) s
  let rings := s1.hub.rings.filter fun r => r.slot == slot && r.gen != s.gen slot
  let s2 := rings.foldl (fun x r =>
    let y := ({ x with hub := { x.hub with rings := x.hub.rings.erase r } }).poolFree r.slot r.addr
    if r.iss = s.fabid then y else y.post r.iss (.notice ⟨r.iss, s.fabid, r.jidx⟩)) s1
  { s2 with hub := { s2.hub with jops := s2.hub.jops.filter fun o => o.slot != slot || o.gen == s.gen slot } }

end Sys2Proof.Machine
end

