-- ==== Sys2Proof/Machine/Work.lean ====
section
/-! DEFINITION. Work objects (R366 to R371), the end of a unit (R378), and the work unit wk: tasks, join counters and
cancellation (R379 to R385). -/

namespace Sys2Proof.Machine

/-- A work object as it reads (R366, R371): one of a stale generation is the zero form. -/
def State.wobj (s : State) (i : Nat) : Packet64 :=
  let o := Tab.get (0 : Packet64) s.hub.wobj i
  if o.extractLsb' 186 12 = s.gen (o.extractLsb' 182 4) then o else 0
/-- Replace a work object. -/
def State.setWobj (s : State) (i : Nat) (o : Packet64) : State :=
  { s with hub := { s.hub with wobj := Tab.put 0 s.hub.wobj i o } }

/-- STATE of a work object (R366). -/
def woState (o : Packet64) : Nat := field o 198 3
/-- KIND of a work object. -/
def woKind (o : Packet64) : Nat := field o 201 2
/-- SLOT of a work object. -/
def woSlot (o : Packet64) : BitVec 4 := o.extractLsb' 182 4
/-- GEN of a work object. -/
def woGen (o : Packet64) : BitVec 12 := o.extractLsb' 186 12
/-- PEND of a work object. -/
def woPend (o : Packet64) : Nat := field o 240 32
/-- NFAIL of a work object. -/
def woNfail (o : Packet64) : Nat := field o 272 24
/-- NFAIL with n more, saturating (R366). -/
def woFail (o : Packet64) (n : Nat) : Packet64 := setField o 272 24 (min (woNfail o + n) (2 ^ 24 - 1))

/-- A task belongs to a launch (R381, R382). -/
def Task.of (t : Task) (lobj : BitVec 12) (slot : BitVec 4) (gen : BitVec 12) : Bool :=
  t.lobj == lobj && t.slot == slot && t.gen == gen

/-- The tasks that go leave a deque; its tail index moves past those that stood at the tail. -/
def dropTasks (k : Core) (gone : Task → Bool) : Core :=
  let atTail := (k.deque.reverse.takeWhile gone).length
  { k with deque := k.deque.filter (fun t => !gone t), dqTail := k.dqTail + BitVec.ofNat 8 atTail }

/-- Remove a launch's tasks from every deque (R369, R370), and count them. -/
def State.removeTasks (s : State) (lobj : BitVec 12) (slot : BitVec 4) (gen : BitVec 12) : Nat × State :=
  let gone := fun (t : Task) => t.of lobj slot gen
  let n := s.cores.foldl (fun n e => n + (e.2.deque.filter gone).length) 0
  (n, { s with cores := s.cores.map fun e => (e.1, dropTasks e.2 gone) })

/-- The completion item (R369). -/
def woItem (i : Nat) (o : Packet64) : Packet64 :=
  BitVec.ofNat 512 (field o 384 64 + i * 2 ^ 64 + woKind o * 2 ^ 76 + field o 225 1 * 2 ^ 78 + woNfail o * 2 ^ 88)

/-- Send a completion item where its stream is a producer end held here in the slot (R369). -/
def State.sendCompletion (s : State) (i : Nat) (o : Packet64) : State :=
  let w : Word := o.extractLsb' 448 64
  match s.endNow w with
  | none => s
  | some r =>
    if handleCons w ∨ field w 32 3 ≠ 0 ∨ r.slot ≠ woSlot o ∨ r.gen ≠ s.gen r.slot ∨ r.state = 1 ∨ r.journal.isSome then s
    else
      s.modStream (handleSid w) fun t =>
        { t with prod := t.prod.map fun r =>
            { r with queue := r.queue ++ [⟨.data (woItem i o), 0, 0, r.slot, r.gen, none⟩] } }

/-- The entries of a launch that completes leave every deque (R371). -/
def State.endTasks (s : State) (i : Nat) (o : Packet64) : Nat × State :=
  if woKind o = 0 then s.removeTasks (BitVec.ofNat 12 i) (woSlot o) (woGen o) else (0, s)

/-- A work object's signal (R150): it is applied after the bundles and the releases of the cycle. -/
def State.signalWork (s : State) (core : Nat) (n : BitVec 8) (v : Nat) : State :=
  if s.stage = 2 then s.addSem core n v else { s with hub := { s.hub with sigs := s.hub.sigs ++ [(core, n, v)] } }

/-- What a completion tells (R369): its semaphore on a core of its slot, and its completion item. -/
def State.woNotify (s : State) (i : Nat) (o : Packet64) : State :=
  let core := field o 217 7
  let s1 := if o.getLsbD 224 ∧ s.coreSlot core = woSlot o then s.signalWork core (o.extractLsb' 209 8) (field o 205 4) else s
  if field o 448 64 = 0 then s1 else s1.sendCompletion i o

/-- A child of an object has ended (R368): its count falls, and with it at zero a sealed object completes (R369). -/
def State.woDec (s : State) (i : Nat) (fails : Bool) : Nat → State
  | 0 => s
  | fuel + 1 =>
    let o := s.wobj i
    if woState o ≠ 1 then s
    else
      let o1 := setField (woFail o (if fails then 1 else 0)) 240 32 (woPend o - 1)
      if !(o1.getLsbD 226 && woPend o1 == 0) then s.setWobj i o1
      else
        let r := s.endTasks i o
        let o2 := woFail (setField o1 198 3 2) r.1
        let s1 := (r.2.setWobj i o2).woNotify i o2
        if o2.getLsbD 227 then s1.woDec (field o2 228 12) (woNfail o2 != 0 || o2.getLsbD 225) fuel else s1

/-- The number of entries of the table: no chain of parents is longer. -/
def woMax : Nat := 4096

/-- An object seals (R367, R368): where nothing is outstanding it completes. -/
def State.woSealAt (s : State) (i : Nat) : State :=
  let o := setField (s.wobj i) 226 1 1
  if woPend o = 0 then (s.setWobj i (setField o 240 32 1)).woDec i false woMax else s.setWobj i o

/-- A slot-table row's bind record (R374); one whose stamp is stale reads as absent (R308). -/
def State.row (s : State) (core i : Nat) : Packet64 :=
  if Tab.get 0 (s.core core).rowStamp i = s.coreGen core then Tab.get (0 : Packet64) (s.core core).rows i else 0
/-- Replace a row, which takes the stamp of the core's slot (R309). -/
def State.setRow (s : State) (core i : Nat) (r : Packet64) : State :=
  s.modCore core fun k => { k with rows := Tab.put 0 k.rows i r, rowStamp := Tab.put 0 k.rowStamp i (s.coreGen core) }

/-- The unit of a context ends (R170, R378, R397): RST and EXIT are written, its launch counts it, the context becomes
free. What stands on its release path performs, and results land nowhere; a command that waited for its record finds no
stopped context (R397). -/
def State.endUnit (s : State) (ci rst : Nat) (exit : Word) (fails : Bool) : State :=
  let core := ci / 4
  let c := s.ctx ci
  if c.st = .free then s
  else
    let r := setField (s.row core (ci % 4)) 0 4 rst
    let s1 := s.setRow core (ci % 4) (if rst = 4 then setField r 64 64 exit.toNat else r)
    let s2 := s1.setCtx ci
      { c.carried with pitch := c.pitch + 1 }
    let v := Tab.get (0 : Word) (s.core core).tctl (ci % 4)
    let s3 := s2.modCore core fun k =>
      { k with walks := k.walks.filter (fun w => w.ctx != ci)
               tctl := if v.getLsbD 63 then Tab.put 0 k.tctl (ci % 4) (setField (setField v 60 3 1) 63 1 0) else k.tctl
               units := if rst = 5 then k.units.filter fun u => !(u.restored && u.uid == c.uid && u.lobj == c.lobj) else k.units }
    let s4 := s3.leaveCore ci (s.cycle + 1)
    let o := s4.wobj c.lobj.toNat
    if woSlot o = s.coreSlot core ∧ woKind o = 0 then s4.woDec c.lobj.toNat fails woMax else s4

/-- The unit of a context is killed (R378): its pitch is discarded. -/
def State.killUnit (s : State) (ci : Nat) : State :=
  if (s.ctx ci).st = .free then s else (s.rollback ci).endUnit ci 5 0 true

/-- The commands of a cancelled unit that have not begun are dropped (R284), those on the release path as they claim. -/
def State.dropOf (s : State) (core : Nat) (lobj : BitVec 12) (uid : BitVec 32) (lid : Word) : State :=
  let mark := fun (p : PitchRel) => if p.lobj == lobj && p.uid == uid && p.lid == lid then { p with dropped := true } else p
  let s1 := (List.range 4).foldl (fun x i => x.modCtx (4 * core + i) fun c => { c with path := c.path.map mark }) s
  s1.dropCommands core fun k => k.lobj == lobj && k.uid == uid && k.lid == lid

/-- A unit stopped by a cancellation is killed (R370). -/
def State.killCancelled (s : State) (ci : Nat) : State :=
  let c := s.ctx ci
  (s.killUnit ci).dropOf (ci / 4) c.lobj c.uid c.lid

/-- A context that blocks while a power-fail is in progress is rolled back at once (R145, R448), but for a pitch with the no-replay
mark. -/
def State.failBlocked (s : State) (ci : Nat) : State :=
  match (s.ctx ci).st with
  | .blocked _ => if s.hub.power = .on ∨ s.noReplay ci = true then s else s.rollback ci
  | _ => s

/-- The objects that descend from a set, live or done: one more generation of children. -/
def State.woGrow (s : State) (l : List Nat) : List Nat :=
  l ++ (s.hub.wobj.map (·.1)).filter fun i =>
    let o := s.wobj i
    woState o != 0 && o.getLsbD 227 && l.contains (field o 228 12) && !l.contains i

/-- Every descendant of a set (R370). -/
def State.woTree (s : State) : Nat → List Nat → List Nat
  | 0, l => l
  | n + 1, l =>
    let m := s.woGrow l
    if m.length = l.length then l else s.woTree n m

/-- A context's unit belongs to one of these launches. -/
def State.unitOf (s : State) (l : List (Nat × BitVec 4)) (ci : Nat) : Bool :=
  let c := s.ctx ci
  c.st != .free && l.any fun x => x.1 == c.lobj.toNat && x.2 == s.coreSlot (ci / 4)

/-- A saved unit is killed (R370, R376): its row, its launch's count, its waiting results. -/
def State.killSaved (s : State) (core : Nat) (u : SavedUnit) : State :=
  let s1 := s.modCore core fun k =>
    { k with units := k.units.erase u, saved := k.saved.filter (fun p => p.area != u.savea),
             replies := Tab.set k.replies u.row ((Tab.get [] k.replies u.row).filter fun p => p.1 != u.savea),
             toSaved := k.toSaved.filter fun p => p.1 != u.savea }
  let r := s1.row core u.row
  let s2 := if field r 0 4 = 2 ∧ r.extractLsb' 448 39 = BitVec.ofNat 39 u.savea then s1.setRow core u.row (setField r 0 4 5) else s1
  s2.woDec u.lobj.toNat true woMax

/-- Pending-list entries of cancelled launches are removed and counted as killed (R370). -/
def State.cancelPending (s : State) (core : Nat) (l : List (Nat × BitVec 4)) : State :=
  let hit := fun (s : State) (k : Nat) =>
    let r := s.row core k
    l.any fun x => x.1 == field r 276 12 && x.2 == r.extractLsb' 244 4
  let gone := (s.core core).goPend.filter (hit s)
  let s1 := s.modCore core fun k => { k with goPend := k.goPend.filter fun i => !gone.contains i }
  gone.foldl (fun x k => (x.setRow core k (setField (x.row core k) 0 4 5)).woDec (field (x.row core k) 276 12) true woMax) s1

/-- Cancel an object and every live descendant at one instant (R370), a done object between them or not. -/
def State.woCancelAt (s : State) (i : Nat) : State :=
  let all := (s.woTree woMax [i]).filter fun k => woState (s.wobj k) == 1
  let launches := (all.filter fun k => woKind (s.wobj k) == 0).map fun k => (k, woSlot (s.wobj k))
  let s1 := all.foldl (fun x k => x.setWobj k (setField (x.wobj k) 225 1 1)) s
  let s2 := launches.foldl (fun x l => (x.removeTasks (BitVec.ofNat 12 l.1) l.2 (x.gen l.2)).2) s1
  let cs := (s.ctxs.map (·.1)).filter fun ci => s.unitOf launches ci
  let s3 := cs.foldl (fun x ci =>
    match (x.ctx ci).st with
    | .blocked _ => x.killCancelled ci
    | .stopped => x.killCancelled ci
    | _ => x.modCtx ci fun c => { c with cancel := true }) s2
  (s3.cores.map (·.1)).foldl (fun x core =>
    let hit := (x.core core).units.filter fun u =>
      !u.restored && launches.any fun l => l.1 == u.lobj.toNat && l.2 == u.slot
    (hit.foldl (fun y u => (y.killSaved core u).dropOf core u.lobj u.uid u.lid) x).cancelPending core launches) s3

/-- A command with a reserved bit set is ignored. BUSY never reads 1, since every command acts at once (R367). -/
def woReserved (v : Word) : Bool := field v 32 12 != 0

/-- A result in WOCTL (R367). -/
def State.woDone (s : State) (v : Word) (res : Nat) : State := s.setHubReg 0x7000 (setField (setField v 44 4 res) 63 1 0)

/-- The entry a WOCTL command names. -/
def woIdx (v : Word) : Nat := field v 48 12

/-- The image a create is refused for (R367). -/
def State.woRefused (s : State) (o : Packet64) : Bool :=
  let parent := s.wobj (field o 228 12)
  field o 320 8 != 0 || field o 0 182 != 0 || (woKind o == 0 && field o 296 24 == 0) ||
    woGen o != s.gen (woSlot o) || (o.getLsbD 227 && !(woState parent == 1 && woSlot parent == woSlot o))

/-- The object a create makes from an image (R367). -/
def woMade (o : Packet64) : Packet64 :=
  let a := setField (setField (setField o 198 3 1) 272 24 0) 225 1 0
  if woKind o = 0 then setField (setField a 226 1 1) 240 32 (field o 296 24) else setField (setField a 226 1 0) 240 32 0

/-- WOCTL create (R367). -/
def State.woCreate (s : State) (v : Word) : State :=
  if woState (s.wobj (woIdx v)) ≠ 0 then s.woDone v 1
  else if s.woRefused s.hub.wostage then s.woDone v 2
  else (s.setWobj (woIdx v) (woMade s.hub.wostage)).woDone v 0
/-- WOCTL seal (R367). -/
def State.woSealCmd (s : State) (v : Word) : State :=
  if woState (s.wobj (woIdx v)) ≠ 1 then s.woDone v 1 else (s.woSealAt (woIdx v)).woDone v 0
/-- WOCTL add (R367). -/
def State.woAddCmd (s : State) (v : Word) : State :=
  let o := s.wobj (woIdx v)
  if woState o ≠ 1 ∨ o.getLsbD 226 then s.woDone v 1
  else (s.setWobj (woIdx v) (setField o 240 32 (min (woPend o + field v 0 32) (2 ^ 32 - 1)))).woDone v 0
/-- WOCTL cancel (R367, R370). -/
def State.woCancelCmd (s : State) (v : Word) : State :=
  if woState (s.wobj (woIdx v)) ≠ 1 then s.woDone v 1 else (s.woCancelAt (woIdx v)).woDone v 0
/-- WOCTL free (R367). -/
def State.woFreeCmd (s : State) (v : Word) : State :=
  if woState (s.wobj (woIdx v)) ≠ 2 then s.woDone v 1 else (s.setWobj (woIdx v) 0).woDone v 0

/-- A write of WOCTL (R367): ignored with a reserved bit set; an OP of 0, 6 or 7 does nothing. -/
def State.woctl (s : State) (v : Word) : State :=
  if woReserved v then s
  else
    match field v 60 3 with
    | 1 => s.woCreate v
    | 2 => s.woSealCmd v
    | 3 => s.woAddCmd v
    | 4 => s.woCancelCmd v
    | 5 => s.woFreeCmd v
    | _ => s

/-- WO_CREATE (R367). -/
def execWoCreate (v : Word) (s : State) : Host.Outcome State Fault Refusal :=
  .next (if woReserved v ∨ field v 60 3 ≠ 1 then s else s.woCreate v)
/-- WO_SEAL (R367, R368). -/
def execWoSeal (v : Word) (s : State) : Host.Outcome State Fault Refusal :=
  .next (if woReserved v ∨ field v 60 3 ≠ 2 then s else s.woSealCmd v)
/-- WO_ADD (R367). -/
def execWoAdd (v : Word) (s : State) : Host.Outcome State Fault Refusal :=
  .next (if woReserved v ∨ field v 60 3 ≠ 3 then s else s.woAddCmd v)
/-- WO_CANCEL (R367, R370). -/
def execWoCancel (v : Word) (s : State) : Host.Outcome State Fault Refusal :=
  .next (if woReserved v ∨ field v 60 3 ≠ 4 then s else s.woCancelCmd v)
/-- WO_FREE (R367). -/
def execWoFree (v : Word) (s : State) : Host.Outcome State Fault Refusal :=
  .next (if woReserved v ∨ field v 60 3 ≠ 5 then s else s.woFreeCmd v)

/-- Limit kind of a pitch: fork, jadd, wcan and wdone (R379). -/
def limWk : Nat := 8

/-- A wk operation that acts at release (R379). -/
def State.wkRelease (s : State) (i : Instr) (f : OpS) (act : State → ScalarArgs → Res State) : Res State :=
  inSlot 0 do
    s.opens i
    let s0 ← s.limit limWk 16 15
    if !s.guard f.g then pure s0
    else do
      let a ← s.scalarArgs 15 i.shape f
      act s0 a

/-- Unreleased forks of a context (R381). -/
def forksOf (c : Ctx) : Nat :=
  let n := fun (l : List RelItem) => (l.filter fun x => match x.body with | .fork _ => true | _ => false).length
  c.path.foldl (fun a p => a + n p.step2) (n c.rel)

/-- A deque entry whose stamp is current; another reads as absent (R308). -/
def State.taskHere (s : State) (t : Task) : Bool := t.gen == s.gen t.slot

/-- fork (R379, R381). -/
def opFork (f : OpS) (s : State) : Res State :=
  inSlot 0 do
    s.opens (.fork f)
    let s0 ← s.limit limWk 16 15
    if !s.guard f.g then pure s0
    else do
      let t ← s.readT f.t
      let core := s.cur.core
      if 256 ≤ forksOf s.me then raise 10 0 15
      let resv := (List.range 4).foldl (fun a i => a + forksOf (s.ctx (4 * core + i))) 0
      if 256 ≤ ((s.core core).deque.filter s.taskHere).length + resv then blockAt .fullQueue
      pure (s0.addRel 0 15 (.fork (t.wide.data.setWidth 256)))
/-- fork (R379, R381). -/
def execFork (f : OpS) (s : State) : Host.Outcome State Fault Refusal := settle s (opFork f s)

/-- A join counter as it reads (R308, R380). -/
def State.jc (s : State) (core n : Nat) : Nat :=
  if Tab.get 0 (s.core core).jcStamp n = s.coreGen core then (Tab.get 0 (s.core core).jc n).toNat else 0
/-- A join counter is set, with its stamp (R308). -/
def State.setJc (s : State) (core n v : Nat) : State :=
  s.modCore core fun k =>
    { k with jc := Tab.put 0 k.jc n (BitVec.ofNat 32 v), jcStamp := Tab.put 0 k.jcStamp n (s.coreGen core) }

/-- An entry released under a stale generation is dropped (R309). -/
def State.staleItem (s : State) (x : RelItem) : Bool := x.gen != s.gen x.slot

/-- The counter a task names (R380, R381): a core of the issuing core's cluster, whatever that core's slot (R309). -/
def taskCounter (core : Nat) (w : Word) : Option (Nat × Nat) :=
  if w.getLsbD 31 then some (core / 8 * 8 + field w 22 3, field w 16 6) else none

/-- The release of a fork (R381): the counter first, then the push at the head, tagged with the launch of the unit that forked. -/
def State.forkRel (s : State) (ci : Nat) (x : RelItem) (task : BitVec 256) : State :=
  if s.staleItem x then s
  else
    let core := ci / 4
    let s1 := match taskCounter core (task.setWidth 64) with
      | some (k, n) => s.setJc k n (min (s.jc k n + 1) (2 ^ 32 - 1))
      | none => s
    let (key, s2) := s1.newTok
    s2.modCore core fun k =>
      { k with deque := { key := key, word := task, lobj := (s.ctx ci).relHead.lobj, slot := x.slot, gen := x.gen, held := none } :: k.deque }

/-- jadd (R379, R380). -/
def opJadd (f : OpS) (s : State) : Res State :=
  s.wkRelease (.jadd f) f fun s0 a => .ok (s0.addRel 0 15 (.jadd (a.t.setWidth 6) a.o))
/-- jadd (R379, R380). -/
def execJadd (f : OpS) (s : State) : Host.Outcome State Fault Refusal := settle s (opJadd f s)

/-- The release of a jadd (R380): clamped to 0 to 2^32 - 1. -/
def State.jaddRel (s : State) (ci : Nat) (x : RelItem) (j : BitVec 6) (n : Word) : State :=
  if s.staleItem x then s
  else
    let v : Int := (s.jc (ci / 4) j.toNat : Int) + n.toInt
    s.setJc (ci / 4) j.toNat (min v.toNat (2 ^ 32 - 1))

/-- wdone (R379, R380). -/
def opWdone (f : OpS) (s : State) : Res State :=
  s.wkRelease (.wdone f) f fun s0 a => .ok (s0.addRel 0 15 (.wdone a.t))
/-- wdone (R379, R380). -/
def execWdone (f : OpS) (s : State) : Host.Outcome State Fault Refusal := settle s (opWdone f s)

/-- The release of a wdone (R380). -/
def State.wdoneRel (s : State) (ci : Nat) (x : RelItem) (w : Word) : State :=
  if s.staleItem x then s
  else
    match taskCounter (ci / 4) w with
    | some (k, n) => s.setJc k n (s.jc k n - 1)
    | none => s

/-- wcan (R379, R383). -/
def opWcan (f : OpS) (s : State) : Res State :=
  s.wkRelease (.wcan f) f fun s0 a =>
    let (tok, s1) := s0.newTok
    .ok ((s1.pendOn (s.wbS f.w).toList tok 15 true).addRel tok 15 (.wcan (a.t.setWidth 12)))
/-- wcan (R379, R383). -/
def execWcan (f : OpS) (s : State) : Host.Outcome State Fault Refusal := settle s (opWcan f s)

/-- The release of a wcan (R383): 0 cancelled, 1 no live object of the slot, 2 done or cancelled already. -/
def State.wcanRel (s : State) (ci : Nat) (x : RelItem) (obj : BitVec 12) : State :=
  if s.staleItem x then s
  else
    let o := s.wobj obj.toNat
    let res := if woState o = 0 ∨ woSlot o ≠ x.slot then 1 else if woState o = 2 ∨ o.getLsbD 225 then 2 else 0
    let s1 := s.answer ci x.tok { data := BitVec.ofNat 1024 res } .clean
    if res = 0 then s1.woCancelAt obj.toNat else s1

/-- The task a head take or a steal finds (R382, R385): the end entry that no pitch holds, if it is the launch's. -/
def State.endTask (s : State) (core : Nat) (fromHead : Bool) : Option Task :=
  let l := (s.core core).deque.filter fun t => t.held.isNone && s.taskHere t
  match if fromHead then l.head? else l.getLast? with
  | none => none
  | some t => if t.of s.me.lobj (s.coreSlot s.cur.core) (s.coreGen s.cur.core) then some t else none

/-- The search for a task (R382): the own head, then the tails of the cluster's other cores. -/
def State.findTask (s : State) : Option (Nat × Bool × Task) :=
  let me := s.cur.core
  match s.endTask me true with
  | some t => some (me, true, t)
  | none =>
    (List.range 7).findSome? fun i =>
      let k := me / 8 * 8 + (me % 8 + i + 1) % 8
      (s.endTask k false).map fun t => (k, false, t)

/-- A task is held by the context until its pitch releases (R384). -/
def State.holdTask (s : State) (core : Nat) (key : Nat) (fromHead : Bool) : State :=
  s.modCore core fun k =>
    { k with deque := k.deque.map fun t => if t.key = key then { t with held := some (s.cid, s.me.pitch, fromHead) } else t }

/-- join (R379, R382, R384). -/
def opJoin (f : OpS) (s : State) : Res State :=
  inSlot 0 do
    s.opens (.join f)
    if !s.guard f.g then pure s
    else do
      let a ← s.scalarArgs 15 (Instr.shape (.join f)) f
      let taken := s.me.rel.any fun x => match x.body with | .joinTake _ _ => true | _ => false
      if taken then raise 10 0 15
      let ws := fun (l : List Word) => l.zipIdx.map fun (v, i) =>
        wr64 (.s (physS s.me.bank.rrb (f.w.toNat + i))) v
      if s.jc s.cur.core (field a.t 0 6) = 0 then pure (s.land 0 15 1 (ws [0, 0, 0, 0]))
      else
        match s.findTask with
        | none => blockAt .join
        | some (k, fromHead, t) =>
          let w := fun (i : Nat) => t.word.extractLsb' (64 * i) 64
          pure (((s.holdTask k t.key fromHead).addRel 0 15 (.joinTake k t.key)).land 0 15 1
            (ws [w 0 ||| 0x8000000000000000, w 1, w 2, w 3]))
/-- join (R379, R382, R384). -/
def execJoin (f : OpS) (s : State) : Host.Outcome State Fault Refusal := settle s (opJoin f s)

/-- The release of a join's pitch (R384): the held task leaves its deque. -/
def State.joinRel (s : State) (core key : Nat) : State := s.modCore core fun k => dropTasks k fun t => t.key == key

/-- An increment of a slot's generation at the work table and the deques (R315, R371). -/
def State.sweepWork (s : State) (slot : BitVec 4) : State :=
  let old := fun (o : Packet64) => woSlot o == slot && woGen o != s.gen slot
  let s1 := { s with hub := { s.hub with wobj := s.hub.wobj.filter fun e => !old e.2 } }
  let gone := fun (t : Task) => t.slot == slot && t.gen != s.gen slot
  { s1 with cores := s1.cores.map fun e => (e.1, dropTasks e.2 gone) }

end Sys2Proof.Machine
end

