-- ==== Sys2Proof/Machine/Traps.lean ====
section
/-! DEFINITION. Traps after their taking (R391, R392, R397 to R399), the save and the restore of a context (R400 to R402),
and replies to a saved unit (R403). -/

namespace Sys2Proof.Machine

/-- An access of the module's own hardware to a system block or a place the kernel names: under no slot (R312). -/
def busAcc (world : Nat) : Acc := ⟨none, 0, true, 0, world⟩

/-- A 64-bit word at a physical address, as hardware reads it. -/
def State.hwWord (s : State) (a : Acc) (pa : Nat) : Word := ofBytes 64 ((s.homeReads a pa 8).map Prod.fst)
/-- A 64-bit word written by hardware. -/
def State.hwPut (s : State) (a : Acc) (pa : Nat) (v : Word) : State := s.homeWrites a pa (bytesOf v 8)

/-- TQCFG of a core (R392). -/
def tqBase (v : Word) : Nat := field v 12 27 * 4096
/-- N of a trap queue (R392). -/
def tqSize (v : Word) : Nat := 2 ^ ((if 6 ≤ field v 59 4 then 5 else field v 59 4) + 3)

/-- Write a record into a core's trap queue (R392), if it is enabled and has room: the entry's index and the state. -/
def State.putRecord (s : State) (core : Nat) (r : List Word) : Option (Nat × State) :=
  let cfg := (s.core core).tqcfg
  let b := tqBase cfg
  let a := busAcc 0
  let w := s.hwWord a b
  if !cfg.getLsbD 63 ∨ tqSize cfg ≤ (w - s.hwWord a (b + 8)).toNat then none
  else
    let s1 := s.homeWrites a (b + 128 + 128 * (w.toNat % tqSize cfg)) ((r.map fun x => bytesOf x 8).flatten)
    some (w.toNat, (s1.hwPut a b (w + 1)).irq 1)

/-- The entry of a trapped context as it stands in the queue (R392, R397). -/
def State.trapEntry (s : State) (core i : Nat) : List Word :=
  let cfg := (s.core core).tqcfg
  let pa := tqBase cfg + 128 + 128 * (i % tqSize cfg)
  (List.range 16).map fun k => s.hwWord (busAcc 0) (pa + 8 * k)

/-- Resume (R397): the context goes on at the entry's RADDR with words 7 to 15 in its loop registers. -/
def State.doResume (s : State) (ci : Nat) (e : List Word) : State :=
  (s.modCtx ci fun c => c.resumeAt s.cycle (c.next.resume (field (e.getD 1 0) 16 16)) (e.drop 7)).makeReady ci

/-- Redirect (R397): the context goes to a handler; its trap frame takes words 1 and 7 to 15. -/
def State.doRedirect (s : State) (ci : Nat) (e : List Word) (haddr : Nat) : State :=
  let n : NextAddr := { pc := haddr, enter := true }
  (s.modCtx ci fun c0 =>
    let c := c0.landDue (s.cycle + 1)
    { c with hnd := true, next := n, shadow := { bank := c.bank, next := n, wake := c.wake }, record := none, queued := false,
             frame := { taddr := field (e.getD 1 0) 0 16, raddr := field (e.getD 1 0) 16 16,
                        loops := (e.drop 7).zipIdx.map fun (v, i) => (i, v),
                        next := c.next.resume (field (e.getD 1 0) 16 16) } }).makeReady ci

/-- TCTL as it reads (R397). -/
def State.tctl (s : State) (core i : Nat) : Word := Tab.get 0 (s.core core).tctl i
/-- The result of a command stands in TCTL (R397). -/
def State.tctlDone (s : State) (core i : Nat) (v : Word) (res : Nat) : State :=
  s.modCore core fun k => { k with tctl := Tab.put 0 k.tctl i (setField (setField v 60 3 res) 63 1 0) }

/-- A reply joins those on their way to a saved unit (R403). -/
def State.replyTo (s : State) (core : Nat) (u : SavedUnit) (r : Reply) : State :=
  s.modCore core fun k => { k with toSaved := k.toSaved ++ [(u.savea, { r with time := BitVec.ofNat 64 s.dtime })] }

/-- The saved unit of a row (R375, R399): RST 2, and the save area the row names. -/
def State.savedIn (s : State) (core i : Nat) : Option SavedUnit :=
  let r := s.row core i
  if field r 0 4 = 2 then
    (s.core core).units.find? fun u => u.row == i && !u.restored && u.savea == field r 448 39
  else none

/-- A command of a TCTL register acts (R397, R399): 1 resume, 2 redirect, 3 kill. A stopped context keeps its record until the
record is in the queue (R392): the command waits for that, and reads BUSY. -/
def State.tctlAct (s : State) (core i : Nat) (v : Word) : State :=
  let ci := 4 * core + i
  let c := s.ctx ci
  let op := field v 0 3
  if v.extractLsb' 48 12 ≠ s.coreGen core then s.tctlDone core i v 3
  else
    match c.st, s.savedIn core i with
    | .stopped, _ =>
      if c.dying then s.tctlDone core i v 1
      else if !c.queued then s.modCore core fun k => { k with tctl := Tab.put 0 k.tctl i (setField v 63 1 1) }
      else
        let e := s.trapEntry core c.recIdx
        if op = 3 then (s.killUnit ci).tctlDone core i v 0
        else if c.nr ∨ (op = 2 ∧ c.hnd) then s.tctlDone core i v 2
        else if op = 1 then (s.doResume ci e).tctlDone core i v 0
        else (s.doRedirect ci e (field v 16 16)).tctlDone core i v 0
    | .free, some u =>
      if op = 3 then (s.killSaved core u).tctlDone core i v 0
      else if !u.stopped then s.tctlDone core i v 1
      else if u.nr ∨ (op = 2 ∧ u.hnd) then s.tctlDone core i v 2
      else
        let r : Reply :=
          { kind := 3, port := 0, w := 0, token := v.toNat % 2 ^ 32, marks := 0, time := 0, value := 0 }
        (s.replyTo core u r).tctlDone core i v 0
    | _, _ => s.tctlDone core i v 1

/-- A write of a TCTL register (R397): ignored while BUSY, with a reserved bit set or with another OP. -/
def State.tctlCmd (s : State) (core i : Nat) (v : Word) : State :=
  if (s.tctl core i).getLsbD 63 ∨ field v 32 16 ≠ 0 ∨ field v 3 13 ≠ 0 ∨ field v 0 3 = 0 ∨ 3 < field v 0 3 then s
  else s.tctlAct core i v

/-- TRAP_DELIVERY (R392, R408): the held record goes into the trap queue, and the kernel is told; a command that waited for
it acts. -/
def execTrapDelivery (core ctx : Nat) (s : State) : Host.Outcome State Fault Refusal :=
  let ci := 4 * core + ctx
  let c := s.ctx ci
  match c.record with
  | none => .next s
  | some r =>
    if c.queued then .next s
    else
      match s.putRecord core r with
      | none => .next s
      | some (i, s1) =>
        let s2 := s1.modCtx ci fun c => { c with queued := true, recIdx := i }
        let v := s2.tctl core ctx
        .next (if c.dying then
          (if c.cancel then (s2.endUnit ci 5 0 true).dropOf core c.lobj c.uid c.lid else s2.endUnit ci 5 0 true)
        else if v.getLsbD 63 then s2.tctlAct core ctx v else s2)

/-- RESUME (R397). -/
def execResume (core ctx : Nat) (v : Word) (s : State) : Host.Outcome State Fault Refusal :=
  .next (if field v 0 3 = 1 then s.tctlCmd core ctx v else s)
/-- REDIRECT (R397). -/
def execRedirect (core ctx : Nat) (v : Word) (s : State) : Host.Outcome State Fault Refusal :=
  .next (if field v 0 3 = 2 then s.tctlCmd core ctx v else s)
/-- KILL (R397). -/
def execKill (core ctx : Nat) (v : Word) (s : State) : Host.Outcome State Fault Refusal :=
  .next (if field v 0 3 = 3 then s.tctlCmd core ctx v else s)

/-- An asynchronous trap reaches a context (R399): it is held, at most four, and a blocked context takes it at once. -/
def State.holdAsync (s : State) (ci : Nat) (a : AsyncTrap) : State :=
  (s.modCtx ci fun c =>
    if 4 ≤ c.held.length then { c with lost := c.lost + 1 } else { c with held := c.held ++ [a] }).asyncAtBlock ci

/-- Where the unit that issued a command is (R275, R399): the context it issued it in, or a save area. -/
def State.whereUnit (s : State) (core : Nat) (k : Claim) : Option (Nat ⊕ SavedUnit) :=
  let c := s.ctx k.ctx
  if c.st != .free && c.uid == k.uid && c.lobj == k.lobj && c.lid == k.lid then some (.inl k.ctx)
  else ((s.core core).units.find? fun u =>
    !u.restored && u.row == k.ctx % 4 && u.uid == k.uid && u.lobj == k.lobj && u.lid == k.lid).map .inr

/-- PROMISE_MISSED (R275, R399): a command's promised time has come and its destination is not ready. (DEDUCED, log 26) -/
def execPromiseMissed (core q : Nat) (s : State) : Host.Outcome State Fault Refusal :=
  let late := fun (c : Cmd) =>
    !c.missed && decide (c.prom.toNat ≤ s.dtime) && c.owner.isSome && c.marked.any fun l => !s.lineFull core l
  match (s.eq core q).cmds.find? late with
  | none => .next s
  | some c =>
    let s1 := s.modEq core q fun x =>
      { x with cmds := x.cmds.map fun y => if y.idx = c.idx then { y with missed := true } else y }
    .next (match c.owner with
    | none => s1
    | some k =>
      match s1.whereUnit core k with
      | none => s1
      | some (.inl ci) => s1.holdAsync ci ⟨q, c.idx⟩
      | some (.inr u) =>
        s1.replyTo core u { kind := 2, port := 16, w := 0, token := 0, marks := 0, time := 0,
                            value := BitVec.ofNat 512 (q + 8 * c.idx) })

/-- The operand latches in trigger-port order, by unit (R401). -/
def latchUnits : List Nat := List.range 17 ++ [24, 25, 28, 29, 30]
/-- The scalar result latches, in the order of R401, by port - 0x100. -/
def scalarLatches : List Nat := [0, 1, 2, 3, 4, 7, 8, 9, 0xB, 0x15]
/-- The vector result latches, in the order of R401, by port - 0x100. -/
def vectorLatches : List Nat := [5, 0xA, 0xC, 0x10, 0x11, 0x12, 0x13, 0x14]

/-- A tag as a field (R184). -/
def Wide.tagBits (w : Wide) : Nat := w.bias.toNat * 16 + w.fmt.toNat
/-- A wide value with a tag field. -/
def wideOf (data : Lanes) (tag : Nat) : Wide := { data := data, bias := BitVec.ofNat 6 (tag / 16), fmt := BitVec.ofNat 4 tag }

/-- A handle's image (R114). -/
def Handle.bits (h : Handle) : BitVec 128 :=
  let st : BitVec 3 := match h.st with | .null => 0 | .pending => 1 | .valid => 2 | .revoked => 3
  h.key ++ h.slot ++ h.gen ++ h.ps ++ BitVec.ofBool h.sh ++ BitVec.ofBool h.wr ++ BitVec.ofBool h.rd ++ st ++ (0 : BitVec 11) ++
    h.pfn ++ h.va
/-- A handle from its image, as a restore leaves it (R122): valid and pending ones come back revoked. -/
def restoredHandle (x : BitVec 128) : Handle :=
  if field x 94 3 = 0 then {}
  else
    { key := x.extractLsb' 120 8, slot := x.extractLsb' 116 4, gen := x.extractLsb' 104 12, ps := x.extractLsb' 100 4,
      sh := x.getLsbD 99, wr := x.getLsbD 98, rd := x.getLsbD 97, st := .revoked, pfn := x.extractLsb' 56 27,
      va := x.setWidth 56 }

/-- A replay record as a restore takes it: the handle it lands has been held in the save area as well (R122). -/
def Landing.restored (l : Landing) : Landing :=
  { l with writes := l.writes.map fun w => { w with h := w.h.map fun h => restoredHandle h.bits } }

/-- The bits of a list of flags, first lowest. -/
def flagBits (l : List Bool) : Nat := l.foldr (fun b a => 2 * a + (if b then 1 else 0)) 0

/-- The parts of a save area: offset and bytes (R401). Replay records and held traps have no layout of their own. (DESIGN
CHOICE, log 41) -/
def State.saveParts (s : State) (ci : Nat) (stopped : Bool) : List (Nat × List Byte) :=
  let c := s.ctx ci
  let b := c.bank
  let core := ci / 4
  let live := fun (k : Nat) => Tab.get false b.live k
  let waits := fun (r : Reg) => !(b.pends r).isEmpty
  let words := fun (l : List Word) => (l.map fun w => bytesOf w 8).flatten
  let w0 := 1 + (if c.hnd then 2 else 0) + (if stopped then 4 else 0) + c.held.length * 8
  let w2 := ci * 2 ^ 32 + (s.coreGen core).toNat * 2 ^ 48 + (s.coreSlot core).toNat * 2 ^ 60
  let header : List Word := [BitVec.ofNat 64 w0, BitVec.ofNat 64 c.next.pc, BitVec.ofNat 64 w2,
    BitVec.ofNat 64 (flagBits ((List.range 64).map live)),
    BitVec.ofNat 64 (flagBits ((latchUnits.map fun u => live (64 + u)) ++ vectorLatches.map fun i => live (96 + i))), 0,
    BitVec.ofNat 64 (flagBits ((List.range 64).map fun i => waits (.s i))),
    BitVec.ofNat 64 (flagBits ((List.range 64).map fun i => waits (.v i))),
    BitVec.ofNat 64 (flagBits [waits (.rl 7), waits (.rl 8), waits (.rl 0xB), waits (.rl 0xA), waits (.rl 0xC)]),
    0, 0, 0, 0, 0, 0, 0]
  let specials : List Word := b.loops ++ [b.getSp 15, b.getSp 16, b.getSp 17, b.getSp 14,
    BitVec.ofNat 64 (flagBits ((List.range 32).map b.getP))] ++ scalarLatches.map fun i => (b.getRL i).data.setWidth 64
  let tags := ((List.range 64).map fun i => (b.getV i).tagBits) ++ (latchUnits.map fun u => (b.getOL u).tagBits) ++
    vectorLatches.map fun i => (b.getRL i).tagBits
  let frame : List Word := if c.hnd then
      BitVec.ofNat 64 (c.frame.taddr + c.frame.raddr * 65536) :: (List.range 9).map fun i => Tab.get 0 c.frame.loops i
    else List.replicate 10 0
  let wide := fun (base k n : Nat) (w : Wide) => if live k then [(base + 128 * n, bytesOf w.data 128)] else []
  [(0, words header), (0x80, words ((List.range 64).map b.getS)), (0x280, words specials),
    (0x380, ((List.range 16).map fun i => bytesOf (b.getVP i) 16).flatten),
    (0x480, ((List.range 16).map fun i =>
      bytesOf (if i = 15 then (s.h15 core).bits else (Tab.get ({} : Handle) b.h i).bits) 16).flatten),
    (0x580, (tags.map fun t => bytesOf (BitVec.ofNat 16 t) 2).flatten),
    (0x680, words (frame ++ List.replicate 6 0)),
    (0x700, (c.held.map fun a => words [BitVec.ofNat 64 (a.q + 8 * a.idx), 0, 0, 0]).flatten),
    (0x780, words ((List.range 64).map fun i => Config.freeWord (s.fresh + i)))] ++
    ((List.range 64).map fun i => wide 0x1000 i i (b.getV i)).flatten ++
    (latchUnits.zipIdx.map fun (u, n) => wide 0x3000 (64 + u) n (b.getOL u)).flatten ++
    (vectorLatches.zipIdx.map fun (i, n) => wide 0x3000 (96 + i) (22 + n) (b.getRL i)).flatten

/-- The access to a save area or a CSAVE image (R400, R404, R422): under the core's slot, with key handle 1. -/
def State.saveAcc (s : State) (core : Nat) : Acc := ⟨some (s.coreSlot core), s.coreGen core, false, 1, 0⟩

/-- Every place with the results it waits for. -/
def Bank.allPends (b : Bank) : List (Reg × Pend) := (allRegs.map fun r => (b.pends r).map fun p => (r, p)).flatten

/-- The loads a save waits for (R400): those issued before the saved point, remote ones too. A blocked context is saved at
its last pitch end. -/
def Ctx.loadsOut (c : Ctx) : Bool :=
  match c.st with
  | .blocked _ => c.loads.any (fun l => l.pitch != c.pitch) || c.remote.any fun t => t.2.1 != c.pitch
  | _ => !c.loads.isEmpty || !c.remote.isEmpty

/-- A context is at its point of pre-emption (R145, R400): a cairn whose pitch has been released; blocked, but for a
no-replay pitch; or stopped with its record in the queue (R392). Loads issued before the saved point, and results in the
exposed pipelines, have landed; what stands on the release path goes on after the save. -/
def State.savePoint (s : State) (ci : Nat) : Bool :=
  let c := s.ctx ci
  let landed := c.flight.all fun l => decide (l.due ≤ s.cycle)
  !c.loadsOut && match c.st with
  | .blocked _ => !s.noReplay ci
  | .stopped => c.queued && !c.dying && landed
  | .free => false
  | _ => c.atCairn && c.after == .none && c.path.isEmpty && landed

/-- The save of a context at its point (R400): the area is written, the row says saved, the context is free, and its count of
mismatches is 0 again (R408). (DESIGN CHOICE, log 41) -/
def State.saveCtx (s : State) (ci : Nat) : State :=
  let core := ci / 4
  let i := ci % 4
  let s0 := match (s.ctx ci).st with
    | .blocked _ => s.rollback ci
    | _ => s.modCtx ci fun c => c.landDue s.cycle
  let c := s0.ctx ci
  let stopped := c.st == .stopped
  let r := s0.row core i
  let area := field r 448 39
  let s1 := (s0.saveParts ci stopped).foldl (fun x p => x.homeWrites (s.saveAcc core) (area + p.1) p.2) s0
  let u : SavedUnit :=
    { savea := area, row := i, uid := c.uid, lid := c.lid, lobj := c.lobj, slot := s.coreSlot core, gen := s.coreGen core,
      stopped := stopped, hnd := c.hnd, nr := c.nr, recIdx := c.recIdx, marks := c.bank.marks, next := c.next,
      frameNext := c.frame.next, replay := c.replay, replayWait := c.replayWait, wake := c.wake, sx := c.sx, jrecs := c.jrecs,
      lost := c.lost }
  let waits : List SavedPend := c.bank.allPends.map fun p => { area := area, reg := p.1, pend := p.2 }
  let s2 := ({ s1 with fresh := s1.fresh + 64 }).modCore core fun k =>
    { k with walks := k.walks.filter (fun w => w.ctx != ci),
             units := k.units.filter (fun (x : SavedUnit) => x.savea != area) ++ [u],
             saved := k.saved.filter (fun (x : SavedPend) => x.area != area) ++ waits }
  let s3 := s2.setRow core i (setField r 0 4 2)
  let s4 := s3.setCtx ci
    { c.carried with pitch := c.pitch + 1 }
  s4.leaveCore ci (s.cycle + 1)

/-- PREEMPT_SAVE (R166, R400): a context whose pre-emption is asked for is saved at its point. -/
def execPreemptSave (core ctx : Nat) (s : State) : Host.Outcome State Fault Refusal :=
  let ci := 4 * core + ctx
  .next (if (s.ctx ci).pre && s.savePoint ci then s.saveCtx ci else s)

/-- PRE_REQUEST (R374): PRE is written in a row. -/
def execPreRequest (core row : Nat) (s : State) : Host.Outcome State Fault Refusal :=
  if 4 ≤ row then .next s
  else
    let s1 := s.setRow core row (setField (s.row core row) 7 1 1)
    .next (s1.modCtx (4 * core + row) fun c => { c with pre := c.st != .free })

/-- A wide value of a save area: its zero form where it was not live (R401). -/
def State.savedWide (s : State) (a : Acc) (area base n tag : Nat) (live : Bool) : Wide :=
  if live then wideOf (ofBytes 1024 ((s.homeReads a (area + base + 128 * n) 128).map Prod.fst)) tag else {}

/-- The bank a restore reads from a save area (R402). -/
def State.savedBank (s : State) (core area : Nat) : Bank :=
  let a := s.saveAcc core
  let w := fun (off : Nat) => s.hwWord a (area + off)
  let liveV := w 0x18
  let liveL := w 0x20
  let tag := fun (i : Nat) => natOfBytes ((s.homeReads a (area + 0x580 + 2 * i) 2).map Prod.fst)
  let setAll := fun (t : Tab Wide) (l : List (Nat × Wide)) => l.foldl (fun t e => Tab.put {} t e.1 e.2) t
  let vs := (List.range 64).map fun i => (i, s.savedWide a area 0x1000 i (tag i) (liveV.getLsbD i))
  let ols := latchUnits.zipIdx.map fun (u, n) => (u, s.savedWide a area 0x3000 n (tag (64 + n)) (liveL.getLsbD n))
  let rls := vectorLatches.zipIdx.map fun (i, n) =>
    (i, s.savedWide a area 0x3000 (22 + n) (tag (86 + n)) (liveL.getLsbD (22 + n)))
  let scs := scalarLatches.zipIdx.map fun (i, n) => (i, ({ data := (w (0x280 + 8 * (14 + n))).setWidth 1024 } : Wide))
  let preds := w (0x280 + 8 * 13)
  let hs := (List.range 15).map fun i =>
    (i, restoredHandle (ofBytes 128 ((s.homeReads a (area + 0x480 + 16 * i) 16).map Prod.fst)))
  let sps := ((List.range 9).map fun i => (i, w (0x280 + 8 * i))) ++
    [(15, w (0x280 + 72)), (16, w (0x280 + 80)), (17, w (0x280 + 88)), (14, w (0x280 + 96))]
  { s := (List.range 64).foldl (fun t i => Tab.put 0 t i (w (0x80 + 8 * i))) []
    v := setAll [] vs
    p := (List.range 32).foldl (fun t i => Tab.put false t i (preds.getLsbD i)) []
    vp := (List.range 16).foldl (fun t i => Tab.put 0 t i (ofBytes 128 ((s.homeReads a (area + 0x380 + 16 * i) 16).map Prod.fst))) []
    h := hs.foldl (fun t e => Tab.put {} t e.1 e.2) []
    sp := sps.foldl (fun t e => Tab.put 0 t e.1 e.2) []
    ol := setAll [] ols
    rl := setAll [] (rls ++ scs)
    live := (List.range 64).foldl (fun t i => Tab.put false t i (liveV.getLsbD i))
      ((latchUnits.zipIdx.foldl (fun t (u, n) => Tab.put false t (64 + u) (liveL.getLsbD n)) (vectorLatches.zipIdx.foldl
        (fun t (i, n) => Tab.put false t (96 + i) (liveL.getLsbD (22 + n))) []))) }

/-- The pending marks a header records (R401, R402): the results it waits for, as the hub knows them; a mark whose result
the hub does not know waits for none that comes. -/
def State.savedPends (s : State) (core area : Nat) : List (Reg × Pend) :=
  let a := s.saveAcc core
  let w := fun (i : Nat) => s.hwWord a (area + 8 * i)
  let marked : List Reg := ((List.range 64).filter fun i => (w 6).getLsbD i).map Reg.s ++
    ((List.range 64).filter fun i => (w 7).getLsbD i).map Reg.v ++
    ([7, 8, 0xB, 0xA, 0xC].zipIdx.filter fun x => (w 8).getLsbD x.2).map fun x => Reg.rl x.1
  let known := (s.core core).saved.filter fun x => x.area == area
  (marked.map fun r =>
    match known.filter fun x => x.reg == r with
    | [] => [(r, (⟨0, 63, 0, false⟩ : Pend))]
    | l => l.map fun x => (r, { x.pend with late := false })).flatten

/-- The address a remote error's trap names (R391), kept with the result that waited for it (R403). -/
def State.replyVa (s : State) (core tok : Nat) : Word :=
  (((s.core core).saved.find? fun p => p.pend.tok == tok).map (·.va)).getD 0

/-- A reply applied at a restore (R402, R403). -/
def State.applyReply (s : State) (ci : Nat) (r : Reply) : State :=
  if r.kind = 1 then
    let m : Mark := if r.marks.getLsbD 1 then .remote (r.marks.extractLsb' 4 4) (s.replyVa (ci / 4) r.token)
      else if r.marks.getLsbD 0 then .poison else .clean
    let v : Lanes := r.value.setWidth 1024 ||| (if r.marks.getLsbD 8 then (1 : Lanes) <<< 512 else 0)
    s.modCtx ci fun c => c.deliver r.token { data := v } m
  else if r.kind = 2 then
    s.modCtx ci fun c =>
      if 4 ≤ c.held.length then { c with lost := c.lost + 1 }
      else { c with held := c.held ++ [⟨field r.value 0 3, field r.value 3 61⟩] }
  else
    let v : Word := BitVec.ofNat 64 r.token
    let c := s.ctx ci
    if c.st ≠ .stopped then s
    else
      let e := s.trapEntry (ci / 4) c.recIdx
      if field v 0 3 = 1 then s.doResume ci e else s.doRedirect ci e (field v 16 16)

/-- The bytes of a reply record (R403): bytes 2 and 3 hold a result's port and W or a trap's cause; the 32 TCTL bits of a kernel
command, which has no marks, stand in bytes 2 to 5. (DESIGN CHOICE, log 41) -/
def replyBytes (r : Reply) : List Byte :=
  bytesOf r.kind 2 ++
    (if r.kind = 3 then bytesOf (BitVec.ofNat 48 r.token) 6
     else bytesOf (if r.kind = 2 then r.port.setWidth 16 else (r.port.setWidth 10 ++ r.w : BitVec 16)) 2 ++ bytesOf r.marks 4) ++
    bytesOf r.time 8 ++ bytesOf r.value 64 ++ List.replicate 16 0

/-- The saved results a reply record's port and W can name (R403): a token whose places are just these. -/
def replyTokens (l : List SavedPend) (port : BitVec 9) (w : BitVec 6) : List Nat :=
  ((l.map fun p => p.pend.tok).eraseDups).filter fun t =>
    let regs := (l.filter fun p => p.pend.tok == t).map (·.reg)
    (regs.foldl (fun a g => a ||| g.latchPort) 0 == port) && (regs.foldl (fun a g => a ||| g.wbNum) 0 == w)

/-- A reply record of the overflow ring (R403). The record names its places; the results that wait there in issue order are
told apart by the records that came `before` it. (DESIGN CHOICE, log 41) -/
def State.readReply (s : State) (core area i : Nat) (before : List Nat) : Reply :=
  let l := (s.homeReads (s.saveAcc core) (area + 0x4000 + 96 * i) 96).map Prod.fst
  let x : BitVec 768 := ofBytes 768 l
  let kind : BitVec 16 := x.setWidth 16
  let port : BitVec 9 := if kind = 2 then x.extractLsb' 16 9 else x.extractLsb' 22 9
  let w : BitVec 6 := if kind = 2 then 0 else x.extractLsb' 16 6
  let known := (s.core core).saved.filter fun p => p.area == area
  let tok := ((replyTokens known port w).filter fun t => !before.contains t).headD 0
  { kind := kind, port := port, w := w, token := if kind = 3 then (x.extractLsb' 16 32).toNat else tok,
    marks := x.extractLsb' 32 32, time := x.extractLsb' 64 64, value := x.extractLsb' 128 512 }

/-- The lines of a save area that a restore reads meet their home slices (R139, R310, R423). -/
def State.touchArea (s : State) (core area : Nat) : State :=
  let a := s.saveAcc core
  let wide := fun (base off n : Nat) (x : State) =>
    let live := s.hwWord a (area + off)
    (List.range n).foldl (fun x i => if live.getLsbD i then x.touchRun a (area + base + 128 * i) 128 else x) x
  let ring := min 512 (s.hwWord a (area + 40)).toNat
  let s1 := wide 0x3000 0x20 30 (wide 0x1000 0x18 64 (s.touchRun a area 0x800))
  if ring = 0 then s1 else s1.touchRun a (area + 0x4000) (96 * ring)

/-- The restore of a saved unit into a context (R402): area, marks, replies (R403: slots, ring, then those that came no further),
held traps, and the state it goes on in. (DESIGN CHOICE, log 41) -/
def State.restoreCtx (s : State) (ci : Nat) (u : SavedUnit) (area : Nat) : State :=
  let core := ci / 4
  let a := s.saveAcc core
  let w := fun (i : Nat) => s.hwWord a (area + 8 * i)
  let b := s.savedBank core area
  let pends := s.savedPends core area
  let b1 := pends.foldl (fun b p => { b with pend := Tab.set b.pend p.1.key (b.pends p.1 ++ [p.2]) }) { b with marks := u.marks }
  let hnd := (w 0).getLsbD 1
  let stopped := (w 0).getLsbD 2
  let n : NextAddr := { u.next with pc := (w 1).toNat }
  let heldN := field (w 0) 3 3
  let held := (List.range (min heldN 4)).map fun i =>
    let x := s.hwWord a (area + 0x700 + 32 * i)
    (⟨field x 0 3, field x 3 61⟩ : AsyncTrap)
  let fw := s.hwWord a (area + 0x680)
  let frame : TrapFrame := if hnd then
      { taddr := field fw 0 16, raddr := field fw 16 16, next := u.frameNext,
        loops := (List.range 9).map fun i => (i, s.hwWord a (area + 0x688 + 8 * i)) } else {}
  let s1 := (s.touchArea core area).modCtx ci fun c =>
    { c with bank := b1, next := n, shadow := { bank := b1, next := n, wake := u.wake }, wake := u.wake, hnd := hnd,
             frame := frame, held := held, replay := u.replay.map Landing.restored, replayWait := u.replayWait, lost := u.lost,
             nr := u.nr, recIdx := u.recIdx, queued := stopped, record := if stopped then some [] else none,
             st := if stopped then .stopped else .free, sx := u.sx, jrecs := u.jrecs }
  let slots := (Tab.get [] (s1.core core).replies u.row).filter fun p => p.1 == area
  let ring := (List.range (min 512 (w 5).toNat)).foldl (fun (l : List Reply) i =>
    l ++ [s1.readReply core area i ((slots.map fun p => p.2.token) ++ l.map (·.token))]) []
  let late := (s1.core core).toSaved.filter fun p => p.1 == area
  let s2 := (slots.map (·.2) ++ ring ++ late.map (·.2)).foldl (fun x r => x.applyReply ci r) s1
  let s3 := s2.modCore core fun k =>
    { k with replies := Tab.set k.replies u.row ((Tab.get [] k.replies u.row).filter fun p => p.1 != area)
             saved := k.saved.filter fun p => p.area != area
             toSaved := k.toSaved.filter fun p => p.1 != area
             units := k.units.map fun x => if x.savea = area then { x with restored := true, full := false } else x }
  match (s3.ctx ci).st with
  | .stopped => s3
  | .free => if (s3.ctx ci).held.isEmpty then s3.makeReady ci else s3.deliverAsync ci false
  | _ => s3.deliverAsync ci false

/-- The number of replies a save area's ring holds (R401). -/
def State.ringCount (s : State) (core area : Nat) : Nat := (s.hwWord (s.saveAcc core) (area + 40)).toNat

/-- REPLY_TO_SAVED (R403): a reply takes the lowest free slot of its row, or goes to the unit's overflow ring; where the
ring is full it waits, and the kernel is told by a record of cause 10. -/
def execReplyToSaved (core row : Nat) (r : Reply) (s : State) : Host.Outcome State Fault Refusal :=
  let k := s.core core
  match k.units.find? fun u => u.row == row && !u.restored && k.toSaved.contains (u.savea, r) with
  | none => .next s
  | some u =>
    let taken := s.modCore core fun k => { k with toSaved := k.toSaved.erase (u.savea, r) }
    let slots := Tab.get [] k.replies row
    if slots.length < 16 ∧ slots.all fun p => p.1 == u.savea then
      .next (taken.modCore core fun k => { k with replies := Tab.set k.replies row (slots ++ [(u.savea, r)]) })
    else
      let n := s.ringCount core u.savea
      if n < 512 then
        let s1 := taken.homeWrites (s.saveAcc core) (u.savea + 0x4000 + 96 * n) (replyBytes r)
        .next (s1.hwPut (s.saveAcc core) (u.savea + 40) (BitVec.ofNat 64 (n + 1)))
      else if u.full then .next s
      else
        let t : TrapInfo := { cause := 10 }
        let rec0 := s.trapRecord (4 * core + row) ⟨u.hnd, u.lid, u.uid⟩ t false false false 0 0 (List.replicate 9 0)
        match s.putRecord core rec0 with
        | none => .next s
        | some (_, s1) =>
          .next (s1.modCore core fun k => { k with units := k.units.map fun x => if x.savea = u.savea then { x with full := true } else x })

end Sys2Proof.Machine
end

