-- ==== Sys2Proof/Machine/Tenancy.lean ====
section
/-! DEFINITION. Tenancies (R301 to R322): increments, the on-chip sweep, a core's change of slot, block ownership,
shootdown (R120), and the sweep of DRAM with what it finds (R416, R417). -/

namespace Sys2Proof.Machine

/-- A page of a handle or a translation-cache entry: its first address and size. -/
def pageOf (va : Nat) (ps : Nat) : Nat × Nat := (va / pageBytes ps * pageBytes ps, pageBytes ps)
/-- Two ranges overlap. -/
def rangesMeet (a b : Nat × Nat) : Bool := decide (a.1 < b.1 + b.2) && decide (b.1 < a.1 + a.2)

/-- What a shootdown names (R120): a slot, and one page of it or all. -/
structure Shot where
  slot : BitVec 4
  page : Option (Nat × Nat)
  deriving DecidableEq, Repr

/-- A handle's page is named (R120): h15 and null handles are not. -/
def Shot.hits (x : Shot) (h : Handle) : Bool :=
  h.slot == x.slot && h.st != .null && h.ps != 15 &&
    match x.page with
    | none => true
    | some p => rangesMeet p (pageOf h.va.toNat h.ps.toNat)

/-- What SDVA and SDCTL name. (DEDUCED, log 66) -/
def shotOf (va ctl : Word) : Shot :=
  { slot := ctl.extractLsb' 4 4,
    page := if ctl.getLsbD 8 then none else some (pageOf (field va 12 44 * 4096) (field ctl 0 4)) }

/-- A revoked copy of a handle. -/
def Shot.revoke (x : Shot) (h : Handle) : Handle := if h.st = .valid ∧ x.hits h then { h with st := .revoked } else h

/-- A gated entry whose page is named is marked for re-translation (R120, R128, R226, R291); a tsrun's copy of a handle is revoked
(R238). -/
def Shot.markItem (x : Shot) (i : RelItem) : RelItem :=
  match i.body with
  | .store g => if x.hits g.h then { i with body := .store { g with h := x.revoke g.h, marked := true } } else i
  | .atomic op sc h ea pa t c _ => if x.hits h then { i with body := .atomic op sc (x.revoke h) ea pa t c true } else i
  | .cache inv h ea pa _ => if x.hits h then { i with body := .cache inv (x.revoke h) ea pa true } else i
  | .mload id h _ => if x.hits h then { i with body := .mload id (x.revoke h) true } else i
  | .remote r => if x.hits r.h then { i with body := .remote { r with h := x.revoke r.h, marked := true } } else i
  | .tsrun e m h fm => { i with body := .tsrun e m (x.revoke h) fm }
  | _ => i

/-- The physical page of a valid handle. -/
def Handle.phys (h : Handle) : Nat × Nat := (h.pfn.toNat * 4096, pageBytes h.ps.toNat)

/-- Every handle a context holds, of its bank and its shadow. -/
def Ctx.handles (c : Ctx) : List Handle := (c.bank.h ++ c.shadow.bank.h).map (·.2)

/-- The handle of a released store, atomic or cache operation that has not performed. -/
def RelItem.pageHandle (i : RelItem) : Option Handle :=
  match i.body with
  | .store g => some g.h
  | .atomic _ _ h _ _ _ _ _ => some h
  | .cache _ h _ _ _ => some h
  | .remote r => some r.h
  | _ => none

/-- Remote accesses that passed their checks before a shootdown and have not performed (R120, R291): they wait to be sent, or for
their reply. -/
def State.remoteHits (s : State) (x : Shot) (tok : Nat) : Bool :=
  let hit := fun (w : Nat × Nat × RemoteOp) => w.2.2.kind != 6 && decide (w.2.1 ≤ tok) && x.hits w.2.2.h
  s.hub.waiting.any hit || s.hub.tags.any fun t => match t.2.req with | some w => hit w | none => false

/-- SDCTL's write (R120): steps 1 to 3 at once; the rest completes later. The handles that mloads and the tile sequencer have
copied are revoked with the others (R226, R238). (DEDUCED, log 66) -/
def State.shootdown (s : State) (d : Nat) (v : Word) : State :=
  let die := s.die d
  if die.sdctl.getLsbD 63 ∨ field v 9 54 ≠ 0 ∨ (9 < field v 0 4 ∧ !v.getLsbD 8) then s
  else if !v.getLsbD 63 then s.modDie d fun x => { x with sdctl := v }
  else
    let x := shotOf die.sdva v
    let tcHit := fun (e : TcEntry) => e.slot == x.slot && match x.page with
      | none => true
      | some p => rangesMeet p (e.page, pageBytes e.leaf.ps.toNat)
    let fromTc := (s.cores.map fun k => (k.2.tc.filter tcHit).map fun e => (e.leaf.pfn.toNat * 4096, pageBytes e.leaf.ps.toNat)).flatten
    let fromH := (s.ctxs.map fun c =>
      ((c.2.handles.filter fun h => x.hits h && h.st == .valid && h.ps != 14).map Handle.phys)).flatten
    let fromWalk := match x.page with
      | none => []
      | some p => match s.walk x.slot (BitVec.ofNat 64 p.1) with
        | .ok l => if l.ps = 14 then [] else [(l.pfn.toNat * 4096, pageBytes l.ps.toNat)]
        | .fail _ _ _ => []
    let path := fun (p : PitchRel) => { p with step2 := p.step2.map x.markItem }
    let revoke := fun (c : Ctx) => { c.mapHandle x.revoke with rel := c.rel.map x.markItem, path := c.path.map path }
    let cores : Tab Core := s.cores.map fun k => (k.1,
      { k.2 with
        tc := k.2.tc.filter fun e => !tcHit e
        mops := k.2.mops.map fun m => if m.load && m.data.isNone then { m with h := x.revoke m.h } else m
        ts := { k.2.ts with h := x.revoke k.2.ts.h } })
    let ctxs : Tab Ctx := s.ctxs.map fun c => (c.1, revoke c.2)
    let s1 := { s with cores := cores, ctxs := ctxs }
    s1.modDie d fun y => { y with sdctl := v, sdPage := die.sdva, sdSeq := s.seq, sdTok := s.fresh, sdPages := fromTc ++ fromH ++ fromWalk }

/-- SHOOTDOWN (R120). -/
def execShootdown (die : BitVec 2) (v : Word) (s : State) : Host.Outcome State Fault Refusal := .next (s.shootdown die.toNat v)

/-- A line of a cache lies within one of the pages. -/
def lineIn (pages : List (Nat × Nat)) (c : CLine) : Bool := pages.any fun p => rangesMeet p (1024 * c.line, 1024)

/-- Write back and drop the lines of every L1 and RDC that a test names. -/
def State.flushLines (s : State) (hit : CLine → Bool) : State :=
  let s1 := (s.cores.map (·.1)).foldl (fun x k =>
    ((x.core k).l1.filter hit).foldl (fun y c => y.dropL1Line k c.line) x) s
  (List.range 4).foldl (fun x d =>
    (((x.die d).rdc.filter hit).foldl State.wbRdcLine x).modDie d fun y => { y with rdc := y.rdc.filter fun c => !hit c }) s1

/-- A line that may lie within the page a shootdown names (R120): in a page found at its start, or, since no cache keeps the page
through which a line came and its leaf may be gone, in any block that the slot may reach. (DEDUCED, log 66) -/
def State.lineMaybe (s : State) (x : Shot) (pages : List (Nat × Nat)) (c : CLine) : Bool :=
  lineIn pages c || s.owner (1024 * c.line) == x.slot.toNat || s.owner (1024 * c.line) == 16

/-- SHOOTDOWN_COMPLETE (R120): once the accesses that passed their checks before have performed, the lines of the page
are written back and invalidated, and BUSY reads 0. -/
def execShootdownComplete (die : BitVec 2) (s : State) : Host.Outcome State Fault Refusal :=
  let d := s.die die.toNat
  if !d.sdctl.getLsbD 63 then .next s
  else
    let x := shotOf d.sdPage d.sdctl
    let waits := s.ctxs.any fun c =>
      (c.2.loads.any fun l => decide (l.seq < d.sdSeq) && x.hits l.h) ||
        c.2.path.any fun p => p.step1.any fun i =>
          decide (i.seq < d.sdSeq) && (match i.pageHandle with | some h => x.hits h | none => false)
    if waits || s.remoteHits x d.sdTok then .next s
    else .next ((s.flushLines (s.lineMaybe x d.sdPages)).modDie die.toNat fun y =>
      { y with sdctl := setField y.sdctl 63 1 0, sdPages := [] })

/-- TSCTL as it reads (R302). -/
def TSlot.ctl (t : TSlot) : Word := BitVec.ofNat 64 ((if t.busy then 2 ^ 63 else 0) + (if t.deny then 2 ^ 62 else 0))
/-- TSGEN as it reads (R302). -/
def TSlot.gens (t : TSlot) : Word := BitVec.ofNat 64 (t.pstart.toNat * 2 ^ 32 + t.floor.toNat * 2 ^ 16 + t.gen.toNat)

/-- A bound unit is killed by an increment (R314): nothing lands, nothing of its pitch performs. -/
def State.killStale (s : State) (ci : Nat) : State :=
  let s1 := s.modCore (ci / 4) fun k => { k with mops := k.mops.filter fun m => !m.ownPitch ci (s.ctx ci).pitch }
  s1.endUnit ci 5 0 true

/-- The cores of a slot that the state lists. -/
def State.coresOf (s : State) (slot : BitVec 4) : List Nat := (s.cores.filter fun k => k.2.slot == slot).map (·.1)

/-- The cores of a slot, those never touched included: a core starts in slot 0 (R306). -/
def State.allCoresOf (s : State) (slot : BitVec 4) : List Nat := (List.range 128).filter fun k => s.coreSlot k == slot

/-- Deque entries and slot-table rows of an ended generation read as absent from its increment on (R308, R315): none waits for a
join or for dispatch. -/
def Core.absent (k : Core) : Core := { k with deque := [], dqTail := 0, goRows := [], goPend := [] }

/-- An increment (R303, R304, R313, R314). -/
def State.genAdvance (s : State) (slot : BitVec 4) (v : Word) : State :=
  let t := s.tslot slot.toNat
  if field v 1 61 ≠ 0 ∨ t.busy ∨ !v.getLsbD 0 then s
  else if 4095 ≤ (t.gen + 1 - t.floor).toNat then s.modTslot slot.toNat fun t => { t with deny := true }
  else
    let s1 := s.modTslot slot.toNat fun t => { t with gen := t.gen + 1, deny := false, busy := true }
    let cores := s.allCoresOf slot
    let s2 := cores.foldl (fun x k => (List.range 4).foldl (fun x i => x.killStale (4 * k + i)) x) s1
    let s3 : State := { s2 with cores := s2.cores.map fun e => if e.2.slot = slot then (e.1, e.2.absent) else e }
    (s3.cores.map (·.1)).foldl (fun x k =>
      ((x.core k).units.filter fun u => u.slot == slot && u.gen != x.gen slot).foldl (fun y u => y.killSaved k u) x) s3

/-- GEN_ADVANCE (R303, R304, R313, R314). -/
def execGenAdvance (slot : BitVec 4) (v : Word) (s : State) : Host.Outcome State Fault Refusal := .next (s.genAdvance slot v)

/-- A core's own storage in its zero form (R308), as a change of its slot leaves it (R306). -/
def Core.zeroed (k : Core) : Core :=
  { k with
    q := [], qStamp := [], jc := [], jcStamp := [], tiles := [], bslots := [], mops := [], macts := [], spad := [],
    spadFull := [], spadStamp := [], spadPoison := [], dict := [], deque := [], dqTail := 0, rows := [], rowStamp := [],
    goRows := [], goPend := [], xp := {}, ts := {}, tc := [], walks := [] }

/-- A core's own storage as the sweep leaves it (R308, R315): what is stale under the current generation is in its zero form; what
was written after the increment stays. -/
def Core.swept (k : Core) (g : BitVec 12) : Core :=
  let now := fun (t : Tab (BitVec 12)) (i : Nat) => Tab.get 0 t i == g
  let line := fun (i : Nat) => now k.spadStamp i
  { k with
    q := k.q.filter fun e => now k.qStamp e.1
    qStamp := k.qStamp.filter fun e => e.2 == g
    jc := k.jc.filter fun e => now k.jcStamp e.1
    jcStamp := k.jcStamp.filter fun e => e.2 == g
    tiles := k.tiles.filter fun e => e.2.stamp == g
    bslots := k.bslots.filter fun e => e.2.gen == g
    mops := k.mops.filter fun m => m.gen == g
    macts := k.macts.filter fun m => m.gen == g
    spad := k.spad.filter fun e => line (e.1 / 128)
    spadFull := k.spadFull.filter fun e => line e.1
    spadPoison := k.spadPoison.filter fun e => line e.1
    spadStamp := k.spadStamp.filter fun e => e.2 == g
    dict := k.dict.filter fun e => e.2.any fun d => d.stamp == g
    deque := k.deque.filter fun t => t.gen == g
    rows := k.rows.filter fun e => now k.rowStamp e.1
    rowStamp := k.rowStamp.filter fun e => e.2 == g
    xp := {}
    ts := {}
    tc := []
    walks := [] }

/-- Lines whose dirty sectors are gone leave the dirty-line FIFO (R136). -/
def fixFifo (l1 : List CLine) (f : List FifoEntry) : List FifoEntry :=
  f.filter fun e => match e with
    | .line n => l1.any fun c => c.line == n && c.sect.any fun x => x.2.mask != 0
    | .marker _ _ => true

/-- Stale sectors of blocks a slot owns leave a cache without write-back (R315). -/
def State.dropStale (s : State) (slot : BitVec 4) (l : List CLine) : List CLine :=
  (l.map fun c => { c with sect := c.sect.filter fun e =>
    !(s.owner (1024 * c.line) == slot.toNat && e.2.stamp != s.gen slot) }).filter fun c => !c.sect.isEmpty

/-- Every sector of a line of a block that a slot owns is stale: the line leaves the L2 (R139, R315). -/
def State.staleLine (s : State) (slot : BitVec 4) (line : Nat) : Bool :=
  s.owner (1024 * line) == slot.toNat && (List.range 8).all fun i => s.staleSector (1024 * line + 128 * i)

/-- The on-chip sweep at the caches (R315). -/
def State.sweepCaches (s : State) (slot : BitVec 4) : State :=
  { s with
    cores := s.cores.map fun k =>
      let l := s.dropStale slot k.2.l1
      (k.1, { k.2 with l1 := l, fifo := fixFifo l k.2.fifo })
    dies := s.dies.map fun d => (d.1,
      { d.2 with rdc := s.dropStale slot d.2.rdc, l2 := d.2.l2.filter fun e => !s.staleLine slot e.2.1 }) }

/-- FXWIN and KROWN entries of a slot's stale generation lose EN (R289, R299, R315). -/
def State.sweepWindows (s : State) (slot : BitVec 4) : State :=
  let g := s.gen slot
  let s1 := (List.range 256).foldl (fun x i =>
    let hi := x.hubReg (0x1000 + 16 * i + 8)
    if hi.getLsbD 63 ∧ hi.extractLsb' 57 4 = slot ∧ hi.extractLsb' 45 12 ≠ g then
      x.setHubReg (0x1000 + 16 * i + 8) (setField hi 63 1 0) else x) s
  (List.range 64).foldl (fun x i =>
    let w := x.hubReg (0x2000 + 8 * i)
    if w.getLsbD 63 ∧ w.extractLsb' 12 4 = slot ∧ w.extractLsb' 0 12 ≠ g then
      x.setHubReg (0x2000 + 8 * i) (setField w 63 1 0) else x) s1

/-- Outstanding requests of a slot's ended generation are abandoned (R296, R315), and count as over for their contexts. -/
def State.sweepTags (s : State) (slot : BitVec 4) : State :=
  let cut := fun (t : Tag) => match t.req with
    | some (_, _, r) => if r.slot = slot ∧ r.gen ≠ s.gen slot then { t with req := none, inc := t.inc + 1 } else t
    | none => t
  let gone := s.hub.tags.filterMap fun e => match e.2.req with
    | some (ci, tok, r) => if r.slot = slot ∧ r.gen ≠ s.gen slot then some (ci, tok) else none
    | none => none
  let s1 : State := { s with hub := { s.hub with tags := s.hub.tags.map fun e => (e.1, cut e.2) } }
  (gone.foldl (fun (x : State) (g : Nat × Nat) => x.modCtx g.1 fun c => c.dropRequest g.2) s1).pump

/-- The private keys of a slot are erased, and a fresh key 1 is drawn (R423). -/
def State.freshKeys (s : State) (slot : BitVec 4) : State :=
  let own := fun (k : Nat) => (List.range 2).any fun w => decide ((w * 17 + slot.toNat) * 128 < k) && decide (k < (w * 17 + slot.toNat + 1) * 128)
  let world := if s.prot slot.toNat then 1 else 0
  let kept := s.hub.keys.filter fun e => !own e.1
  { s with hub := { s.hub with keys := Tab.set kept (keyCode world slot.toNat 1) (s.nextKey 0), keyNo := s.hub.keyNo + 1 } }

/-- ONCHIP_SWEEP_COMPLETE (R315): everything on chip that the slot owned is in its zero form, and BUSY clears. -/
def execOnchipSweepComplete (slot : BitVec 4) (s : State) : Host.Outcome State Fault Refusal :=
  if !(s.tslot slot.toNat).busy then .next s
  else
    let s1 := (s.coresOf slot).foldl (fun x k => x.modCore k fun y => y.swept (s.gen slot)) s
    let s2 := (s1.sweepCaches slot).sweepWindows slot
    let s3 := (s2.cores.map (·.1)).foldl (fun x k => x.sweepCommands k slot) s2
    let s4 := ((((s3.sweepJournals slot).sweepStreams slot).sweepWork slot).sweepTags slot).freshKeys slot
    .next (s4.modTslot slot.toNat fun t => { t with busy := false })

/-- A change of a core's slot (R306). -/
def State.coreslotChange (s : State) (core : Nat) (v : Word) : State :=
  let busy := (List.range 4).any fun i => (s.ctx (4 * core + i)).st != .free
  if field v 4 59 ≠ 0 ∨ busy then s
  else
    let s1 := (s.core core).l1.foldl (fun x c => x.dropL1Line core c.line) s
    s1.modCore core fun k => { k.zeroed with slot := v.setWidth 4, l1 := [], fifo := [] }

/-- CORESLOT_CHANGE (R306). -/
def execCoreslotChange (core : Nat) (v : Word) (s : State) : Host.Outcome State Fault Refusal := .next (s.coreslotChange core v)

/-- Every copy of a block's lines goes without write-back (R307). -/
def State.dropBlock (s : State) (d blk : Nat) : State :=
  let hit := fun (c : CLine) => paDie (1024 * c.line) == d && blockOf (1024 * c.line) == blk
  { s with
    cores := s.cores.map fun k =>
      let l := k.2.l1.filter fun c => !hit c
      (k.1, { k.2 with l1 := l, fifo := fixFifo l k.2.fifo })
    dies := s.dies.map fun e =>
      (e.1, { e.2 with rdc := e.2.rdc.filter (fun c => !hit c),
                       l2 := e.2.l2.filter fun x => !(e.1 == d && blockOf (1024 * x.2.1) == blk) }) }

/-- The zero form of a block of 512 sectors under one stamp (R307, R308). -/
def Mem.zeroBlock (m : Mem) (sec : Nat) (g : BitVec 12) : Mem :=
  { bytes := Tab.eraseRange m.bytes (128 * sec) (128 * sec + 65536)
    stamp := (List.range 512).foldl (fun t i => Tab.put 0 t (sec + i) g) m.stamp
    poison := Tab.eraseRange m.poison sec (sec + 512)
    key := Tab.eraseRange m.key (8 * sec) (8 * sec + 4096) }

/-- A block reassigned (R307): copies dropped, every sector zero under the new owner's stamp, the table byte written. -/
def State.blockReassign (s : State) (d : Nat) (v : Word) : State :=
  let owner := field v 24 5
  let blk := field v 0 21
  if field v 29 34 ≠ 0 ∨ field v 21 3 ≠ 0 ∨ 16 < owner ∨ dieBlocks ≤ blk then s
  else if !v.getLsbD 63 then s.modDie d fun x => { x with blkasn := v }
  else
    let s1 := s.dropBlock d blk
    let sec := d * 2 ^ 30 + blk * 512
    let g : BitVec 12 := if owner = 16 then 0 else (s.tslot owner).gen
    let s2 := (List.range 512).foldl (fun x i => x.noteMigr (128 * (sec + i))) s1
    ({ s2 with mem := s2.mem.zeroBlock sec g }).modDie d fun x =>
      { x with owner := Tab.put 16 x.owner blk (BitVec.ofNat 5 owner), blkasn := setField v 63 1 0 }

/-- BLOCK_REASSIGN (R307). -/
def execBlockReassign (die : BitVec 2) (v : Word) (s : State) : Host.Outcome State Fault Refusal := .next (s.blockReassign die.toNat v)

/-- A block becomes a retirement candidate (R417): it is migrated where AUTO is 1 and a remap entry is free, and logged, once,
otherwise. A block whose spare fails is a candidate again, and goes to another spare. (DEDUCED, log 66) -/
def Die.candidate (d : Die) (b : Nat) : Die :=
  if d.cands.contains b ∨ (d.migr.map (·.src)) = some b then d
  else if !d.rtctl.getLsbD 63 ∨ field d.rtctl 41 11 = 0 then d.logPend b
  else ({ d with cands := d.cands ++ [b] }).startMigr

/-- A sector read from DRAM and what the decoder found (R411, R412, R416, R417): corrected and logged, be it into another
codeword; delivered as it stands, and nothing logged, where its errors make it another codeword; or delivered poisoned. -/
def State.decoded (s : State) (pa : Nat) (cell : CellResult) (src : Nat) : State :=
  let d := paDie pa
  let blk := blockOf pa
  let corrected := fun (s : State) (n : Nat) =>
    (s.logCell d (pa / 128) false n src).modDie d fun x =>
      let k := Tab.get 0 x.corrBlk blk + 1
      let y := { x with corrBlk := Tab.put 0 x.corrBlk blk k }
      if field x.rtctl 52 10 ≤ k then y.candidate blk else y
  match cell with
  | .clean => s
  | .corrected n => corrected s n
  | .wrong n w => if n = 0 then s.putWord (pa / 128) w else corrected (s.putWord (pa / 128) w) n
  | .uncorrectable =>
    let s1 := ((s.logCell d (pa / 128) true 0 src).poisonHome (pa / 128)).irq 2
    s1.modDie d fun x => x.candidate blk

/-- The sweep restamps a stale sector (R318). -/
def State.restamp (s : State) (sec : Nat) : State :=
  if s.staleSector (128 * sec) then
    let m := s.mem.zeroSector sec
    { s.noteMigr (128 * sec) with mem := { m with stamp := Tab.put 0 m.stamp sec (s.tslot (s.owner (128 * sec))).gen } }
  else s

/-- The sectors of a die (R307). -/
def dieSectors : Nat := dieBlocks * 512

/-- SWEEP_VISIT (R318, R416): the die's sweep visits its next sector. (DESIGN CHOICE, log 61) -/
def execSweepVisit (die : BitVec 2) (cell : List SymErr) (s : State) : Host.Outcome State Fault Refusal :=
  let d := s.die die.toNat
  if d.passDone then .next s
  else
    let sec := die.toNat * 2 ^ 30 + d.swpos
    let s1 := (s.decoded (128 * sec) (s.readCell sec cell) 1).restamp sec
    .next (s1.modDie die.toNat fun x => { x with swpos := x.swpos + 1, passDone := decide (dieSectors ≤ x.swpos + 1) })

/-- The caddy writes ADV again for a locked slot, and unlocks it where the advance is accepted (R438). -/
def State.retryLock (s : State) (t : Nat) : State :=
  let w := Tab.get (0 : Word) s.hub.wldcfg t
  if !w.getLsbD 62 then s
  else
    let s1 := s.genAdvance (BitVec.ofNat 4 t) 1
    if (s1.tslot t).gen = (s.tslot t).gen then s1
    else { s1 with hub := { s1.hub with wldcfg := Tab.put 0 s1.hub.wldcfg t (setField w 62 1 0) } }

/-- PASS_END (R319): when the last die has finished, the floors move and the next pass begins. -/
def execPassEnd (s : State) : Host.Outcome State Fault Refusal :=
  if !(List.range 4).all fun d => (s.die d).passDone then .next s
  else
    let s1 := (List.range 16).foldl (fun x t => x.modTslot t fun y => { y with floor := y.pstart, pstart := y.gen }) s
    let s2 := (List.range 4).foldl (fun x d => x.modDie d fun y =>
      { y with swpos := 0, passDone := false, corrBlk := [] }) s1
    let s3 := { s2 with hub := { s2.hub with passes := (s2.hub.passes + 1) % 65536, passStart := s2.dtime } }
    .next ((List.range 16).foldl State.retryLock s3)

/-- SWCTL's write (R320): a deadline out of range or a reserved bit is ignored. -/
def State.swctl (s : State) (v : Word) : State :=
  if field v 32 32 ≠ 0 ∨ v.toNat < 60 ∨ 172800 < v.toNat then s else s.setHubReg 0x3800 v
/-- SWCTL_WRITE (R320). -/
def execSwctlWrite (v : Word) (s : State) : Host.Outcome State Fault Refusal := .next (s.swctl v)

/-- Seconds since the current pass began (R320). -/
def State.elapsed (s : State) : Nat := (s.dtime - s.hub.passStart) / 1000000000
/-- BEHIND (R321): some die has visited a smaller part of its sectors than the part of the deadline gone by. -/
def State.behind (s : State) : Bool :=
  (List.range 4).any fun d =>
    decide ((s.die d).swpos * field (s.hubReg 0x3800) 0 32 < s.elapsed * dieSectors) && !(s.die d).passDone
/-- SWSTAT as it reads (R320). -/
def State.swstat (s : State) : Word :=
  BitVec.ofNat 64 ((if s.behind then 2 ^ 63 else 0) + s.hub.passes * 2 ^ 32 + s.elapsed % 2 ^ 32)
/-- SWPOS of a die as it reads (R320). -/
def State.swposReg (s : State) (d : Nat) : Word := BitVec.ofNat 64 (128 * (d * 2 ^ 30 + (s.die d).swpos))

end Sys2Proof.Machine
end

