-- ==== Sys2Proof/Machine/Bind.lean ====
section
/-! DEFINITION. Slot tables and dispatch: committing, checking and binding records (R374 to R377), the kernel descriptor
(R84) and the load of a dictionary (R58); and a core's image (R404, R405). -/

namespace Sys2Proof.Machine

/-- The fields of a bind record that dispatch writes (R374): EXIT, WHY and RST. -/
def keepDispatch (old new : Packet64) : Packet64 :=
  let a := setField new 64 64 (field old 64 64)
  let b := setField a 12 4 (field old 12 4)
  setField (setField b 0 4 (field old 0 4)) 8 1 0

/-- A write of a whole row or pending entry (R374, R375). A GO to a row is obeyed while its context is free; a GO to a
pending entry queues it. (DEDUCED, log 42; DESIGN CHOICE, log 65) -/
def State.go (s : State) (core i : Nat) (v : Packet64) : State :=
  if 12 ≤ i then s
  else
    let s1 := s.setRow core i (keepDispatch (s.row core i) v)
    let s2 := if i < 4 then s1.modCtx (4 * core + i) fun c => { c with pre := v.getLsbD 7 && c.st != .free } else s1
    if !v.getLsbD 8 then s2
    else if i < 4 then
      if (s2.ctx (4 * core + i)).st ≠ .free ∨ (s2.core core).goRows.contains i then s2
      else s2.modCore core fun k => { k with goRows := k.goRows ++ [i] }
    else if (s2.core core).goPend.contains i then s2
    else
      (s2.setRow core i (setField (s2.row core i) 0 4 6)).modCore core fun k => { k with goPend := k.goPend ++ [i] }

/-- GO (R374, R375). (DESIGN CHOICE, log 65) -/
def execGo (core row : Nat) (v : Packet64) (s : State) : Host.Outcome State Fault Refusal := .next (s.go core row v)

/-- The kernel descriptor's fields (R84). -/
def kernelOf (d : Packet64) (dbase dlen : Nat) : Kernel where
  code := d.extractLsb' 0 64
  ncode := field d 64 32
  ndict := field d 96 16 + 1
  dict := d.extractLsb' 128 64
  ptab := d.extractLsb' 192 64
  npitch := field d 256 32
  smap := d.extractLsb' 320 64
  data := d.extractLsb' 384 64
  dbase := dbase
  dlen := dlen

/-- A descriptor passes R84: reserved bits zero, every field in its range. -/
def descOk (d : Packet64) : Bool :=
  decide (field d 448 64 = 0) && decide (field d 288 32 = 0) && decide (field d 112 16 = 0) &&
  decide (field d 384 12 = 0) && decide (field d 320 3 = 0) && decide (field d 192 3 = 0) && decide (field d 128 4 = 0) &&
  !d.getLsbD 0 && decide (field d 96 16 ≤ 4095) && decide (1 ≤ field d 64 32) && decide (field d 64 32 ≤ 65536) &&
  decide (1 ≤ field d 256 32) && decide (field d 256 32 ≤ 65536)

/-- The access of dispatch, which acts in the world of the core's slot under no slot (R312, R419). (DEDUCED, log 40) -/
def State.dispatchAcc (s : State) (core : Nat) : Acc := busAcc (if s.prot (s.coreSlot core).toNat then 1 else 0)

/-- 64 bytes at a physical address as dispatch reads them. -/
def State.dispatchRead (s : State) (core pa : Nat) : Packet64 :=
  ofBytes 512 ((s.homeReads (s.dispatchAcc core) pa 64).map Prod.fst)

/-- Reserved bits of a bind record, and the alignment of its addresses (R374). -/
def bindReserved (r : Packet64) : Bool :=
  field r 487 25 != 0 || field r 423 25 != 0 || field r 359 25 != 0 || field r 192 40 != 0 || field r 16 48 != 0 ||
  field r 9 3 != 0 || field r 4 3 != 0 || field r 448 12 != 0 || field r 384 6 != 0 || field r 320 6 != 0

/-- A live launch of a slot (R376). -/
def State.liveLaunch (s : State) (obj : Nat) (slot : BitVec 4) : Bool :=
  let o := s.wobj obj
  woState o == 1 && woKind o == 0 && woSlot o == slot

/-- The saved unit a restore names (R376): written for this core under the current generation, not killed. -/
def State.restorable (s : State) (core : Nat) (r : Packet64) : Option SavedUnit :=
  (s.core core).units.find? fun u => u.savea == field r 448 39 && u.slot == s.coreSlot core && u.gen == s.coreGen core

/-- The first check of a bind record that fails (R376): WHY, or 0. (DEDUCED, log 40) -/
def State.bindWhy (s : State) (core : Nat) (r : Packet64) : Nat :=
  let slot := r.extractLsb' 244 4
  if bindReserved r || !descOk (s.dispatchRead core (field r 320 39)) then 1
  else if 4096 < field r 264 12 + field r 252 12 + 1 then 2
  else if (s.core core).slotBusy || (s.tslot (s.coreSlot core).toNat).busy then 3
  else if slot != s.coreSlot core || r.extractLsb' 232 12 != s.gen slot then 4
  else if !s.liveLaunch (field r 276 12) slot then 5
  else if r.getLsbD 248 && (s.restorable core r).isNone then 6
  else if (Tab.get 0 s.hub.wldcfg slot.toNat).getLsbD 62 then 7
  else 0

/-- The dictionary of a kernel is loaded into a window (R58, R85). An entry whose bytes cannot be translated is not
written; a record's length past the image's NDICT + 1 entries reads on past its end. (DESIGN CHOICE, log 72) -/
def State.loadDict (s : State) (core : Nat) (k : Kernel) : State :=
  (List.range k.dlen).foldl (fun x n =>
    match x.readVA (x.coreSlot core) (k.dict + BitVec.ofNat 64 (48 * n)) 48 with
    | .error _ => x
    | .ok l =>
      let e : DictEntry := { bits := ofBytes 384 (l.map (·.1)), stamp := x.coreGen core, poison := l.any (·.2) }
      x.modCore core fun c => { c with dict := Tab.set c.dict (k.dbase + n) (some e) }) s

/-- A context at the start of a unit (R377). What a unit before it has released goes on performing. -/
def startCtx (c : Ctx) (r : Packet64) (k : Kernel) (la : Tab Word) (gen : BitVec 12) : Ctx :=
  { c.carried with
    kern := k
    uid := r.extractLsb' 288 32
    lid := r.extractLsb' 128 64
    la := la
    lobj := r.extractLsb' 276 12
    prio := r.extractLsb' 249 2
    stamp := gen
    sig := 0xFFFFFFFF#32
    pre := r.getLsbD 7 }

/-- A checked record is bound into context i (R376, R377): dictionary, start or restore, RST 1. -/
def State.bindInto (s : State) (core i : Nat) (r : Packet64) : State :=
  let ci := 4 * core + i
  let k := kernelOf (s.dispatchRead core (field r 320 39)) (field r 264 12) (field r 252 12 + 1)
  let args := s.dispatchRead core (field r 384 39)
  let la := (List.range 8).foldl (fun (t : Tab Word) n => Tab.put 0 t n (args.extractLsb' (64 * n) 64)) []
  let s1 := if r.getLsbD 251 then s.loadDict core k else s
  let s2 := ((s1.modCtx ci fun c => startCtx c r k la (s.coreGen core)).modCore core fun k =>
    { k with xp := k.xp.unitStart }).setRow core i (setField r 0 4 1)
  match if r.getLsbD 248 then s.restorable core r else none with
  | some u => s2.restoreCtx ci u (field r 448 39)
  | none => s2.makeReady ci

/-- A refused record (R376): RST 3 and WHY, and its launch counts it. (DEDUCED, log 42) -/
def State.bindRefuse (s : State) (core e : Nat) (r : Packet64) (why : Nat) : State :=
  let s1 := s.setRow core e (setField (setField r 12 4 why) 0 4 3)
  let obj := field r 276 12
  if s1.liveLaunch obj (r.extractLsb' 244 4) then s1.woDec obj true woMax else s1

/-- DISPATCH_BIND (R375, R376): a committed row is checked and bound, or refused. A parked core's rows wait (R446). (DEDUCED,
log 42) -/
def execDispatchBind (core row : Nat) (s : State) : Host.Outcome State Fault Refusal :=
  if !(s.core core).goRows.contains row || (s.core core).parked || (s.ctx (4 * core + row)).st != .free then .next s
  else
    let s1 := s.modCore core fun k => { k with goRows := k.goRows.filter (· != row) }
    let r := s1.row core row
    match s1.bindWhy core r with
    | 0 => .next (s1.bindInto core row r)
    | w => .next (s1.bindRefuse core row r w)

/-- The lowest free context that no committed row names (R375). -/
def State.freeCtx (s : State) (core : Nat) : Option Nat :=
  (List.range 4).find? fun i => (s.ctx (4 * core + i)).st == .free && !(s.core core).goRows.contains i

/-- PENDING_BIND (R375): the oldest committed pending entry binds into the lowest free context, whose row takes its
record. (DEDUCED, log 42) -/
def execPendingBind (core : Nat) (s : State) : Host.Outcome State Fault Refusal :=
  match (s.core core).goPend, s.freeCtx core with
  | e :: rest, some i =>
    if (s.core core).parked then .next s
    else
      let s1 := s.modCore core fun k => { k with goPend := rest }
      let r := s1.row core e
      match s1.bindWhy core r with
      | 0 => .next ((s1.setRow core e 0).bindInto core i r)
      | w => .next (s1.bindRefuse core e r w)
  | _, _ => .next s

/-- Bytes of a core's image (R405). -/
def imageBytes : Nat := 0x240000

/-- Every block of an image belongs to the core's slot (R404). -/
def State.imageOwned (s : State) (core img : Nat) : Bool :=
  (List.range 37).all fun i =>
    let pa := min (img + 65536 * i) (img + imageBytes - 1)
    s.owner pa == (s.coreSlot core).toNat && populated pa

/-- Every context of a core is free or saved (R404). -/
def State.coreQuiet (s : State) (core : Nat) : Bool := (List.range 4).all fun i => (s.ctx (4 * core + i)).st == .free

/-- A B slot's record (R214). -/
def BSlot.bits (b : BSlot) : BitVec 128 :=
  b.gen ++ BitVec.ofBool b.spad ++ (0 : BitVec 3) ++ b.tag ++ BitVec.ofBool b.gang ++ BitVec.ofBool b.loading ++
    (0 : BitVec 8) ++ b.stride ++ b.srcva

/-- The indices of a deque (R388). -/
def Core.dqWord (k : Core) : Word :=
  let n := k.deque.length
  BitVec.ofNat 64 ((k.dqTail.toNat + 256 - n % 256) % 256 + k.dqTail.toNat * 256 + n * 65536)

/-- An empty tile (R215, R233): zeros, untyped. -/
def Tile.empty (t : Tile) : Bool := t.tag == 0 && t.rows.isEmpty && t.poison.isEmpty

/-- A tile's tag in an image; bit 15 says that the tile is not empty and its rows are saved (R233). (DESIGN CHOICE, log 43) -/
def Tile.imageTag (t : Tile) : BitVec 16 := t.tag.setWidth 16 ||| (if t.empty then 0 else 0x8000)

/-- The small state of a core at the start of its image (R405): semaphores, join counters, the sequencer's counters and
report, tile tags, B-slot records, in that order without gaps. (DESIGN CHOICE, log 43) -/
def State.imageHead (s : State) (core : Nat) : List Byte :=
  let x := s.seqr core
  ((List.range 256).map fun i => bytesOf (BitVec.ofNat 16 (s.sem core (BitVec.ofNat 8 i))) 2).flatten ++
  ((List.range 64).map fun i => bytesOf (BitVec.ofNat 32 (s.jc core i)) 4).flatten ++
  ((List.range 4).map fun i => bytesOf (Tab.get 0 x.c i) 4).flatten ++
  ((List.range 2).map fun i => bytesOf (Tab.get 0 x.l i) 4).flatten ++ bytesOf x.word 8 ++
  ((List.range 16).map fun i => bytesOf (s.tile core i).imageTag 2).flatten ++
  ((List.range 128).map fun i => bytesOf (s.bslot core i).bits 16).flatten

/-- The parts of an image: offset and bytes (R405); an empty tile is not saved (R233). The launches of the tasks stand from
0x4200, which no rule lays out. (DESIGN CHOICE, log 43) -/
def State.imageParts (s : State) (core : Nat) : List (Nat × List Byte) :=
  let k := s.core core
  let x := s.seqr core
  let dict := fun (i : Nat) => match Tab.get none k.dict i with
    | some e => if e.stamp = s.coreGen core then bytesOf e.bits 48 else List.replicate 48 0
    | none => List.replicate 48 0
  [(0, s.imageHead core),
    (0x1000, ((List.range 256).map fun i => bytesOf (Tab.get (0 : BitVec 128) x.entries i) 16).flatten),
    (0x2000, (k.deque.map fun t => bytesOf t.word 32).flatten),
    (0x4000, bytesOf k.dqWord 8),
    (0x4200, (k.deque.map fun t => bytesOf (t.lobj.setWidth 16) 2).flatten),
    (0x4400, (List.range 1024).map fun i => BitVec.ofNat 8 (flagBits ((List.range 8).map fun j => s.lineFull core (8 * i + j))))] ++
    ((List.range 4096).map fun i => (0x10000 + 48 * i, dict i)) ++
    ((List.range 8192).map fun i => (0x40000 + 128 * i, (List.range 128).map fun j => (s.spadByte core (128 * i + j)).1)) ++
    (((List.range 16).filter fun a => !(s.tile core a).empty).map fun a => (List.range 128).map fun r =>
      (0x140000 + 65536 * a + 512 * r, bytesOf ((s.tile core a).row r) 512)).flatten

/-- The sectors of an image that take poison: of poisoned scratchpad lines, dictionary entries and parts of tile rows (R405,
R410). -/
def State.imagePoison (s : State) (core : Nat) : List Nat :=
  ((List.range 4096).map fun i => match Tab.get none (s.core core).dict i with
    | some e => if e.poison && e.stamp == s.coreGen core then [0x10000 + 48 * i, 0x10000 + 48 * i + 47] else []
    | none => []).flatten ++
  ((List.range 8192).filter fun i => (s.spadByte core (128 * i)).2).map (fun i => 0x40000 + 128 * i) ++
    ((List.range 16).map fun a => ((List.range 128).map fun r =>
      ((List.range 4).filter fun g => ((Tab.get 0 (s.tile core a).poison r).extractLsb' (32 * g) 32) != 0).map fun g =>
        0x140000 + 65536 * a + 512 * r + 128 * g).flatten).flatten

/-- CSAVE or CREST with its result (R404). -/
def csDone (v : Word) (res : Nat) : Word := setField (setField v 60 3 res) 63 1 0

/-- Reserved bits of CSAVE and CREST (R404). -/
def csReserved (v : Word) : Bool := field v 39 21 != 0 || field v 0 12 != 0

/-- The image is written (R404, R405). -/
def State.csaveWrite (s : State) (core img : Nat) : State :=
  let a := s.saveAcc core
  let s1 := (s.imageParts core).foldl (fun x p => x.homeWrites a (img + p.1) p.2) s
  (s.imagePoison core).foldl (fun x o => x.poisonFlag ((img + o) / 128)) s1

/-- A running CSAVE completes once the sequencer and every macro queue stand still (R404). (DESIGN CHOICE, log 43) -/
def State.csaveStep (s : State) (core : Nat) : State :=
  let v := (s.core core).csave
  if !v.getLsbD 63 then s
  else if (s.seqr core).run || !(s.core core).mops.isEmpty || !(s.core core).macts.isEmpty then s
  else (s.csaveWrite core (field v 12 27 * 4096)).modCore core fun k => { k with csave := csDone v 0 }

/-- CSAVE (R404): a write starts the save; while it is busy a write is ignored and the save goes on. -/
def execCsave (core : Nat) (v : Word) (s : State) : Host.Outcome State Fault Refusal :=
  let put := fun (x : Word) => s.modCore core fun k => { k with csave := x }
  .next (
    if (s.core core).csave.getLsbD 63 then s.csaveStep core
    else if csReserved v then s
    else if !v.getLsbD 63 then put (setField v 60 3 (field (s.core core).csave 60 3))
    else if !s.coreQuiet core then put (csDone v 1)
    else if !s.imageOwned core (field v 12 27 * 4096) then put (csDone v 2)
    else
      let x := s.seqr core
      let s1 := put (setField v 60 3 0)
      (if x.run then s1.setSeqr core { x with stop := true } else s1).csaveStep core)

/-- Bytes of an image as CREST reads them. -/
def State.imageRead (s : State) (core pa n : Nat) : List (Byte × Bool) := s.homeReads (s.saveAcc core) pa n

/-- The B slot a record of the image names, its data reloaded from its source as it stands (R405): none where the source
fails translation or rights. -/
def State.reloadSlot (s : State) (core : Nat) (r : BitVec 128) : Option BSlot :=
  let fmt := field r 102 4
  let n := packedWidth fmt
  let stride := field r 72 20
  let gen := s.coreGen core
  let src : Word := (r.extractLsb' 0 56).setWidth 64
  let slot : BitVec 4 := r.extractLsb' 64 4
  let row := fun (k : Nat) =>
    if r.getLsbD 115 then some ((List.range n).map fun j => s.spadByte core (field r 0 20 + k * stride + j))
    else
      ((List.range (n / 32)).mapM fun q =>
        let va := src + BitVec.ofNat 64 (k * stride + 32 * q)
        match s.walk slot va with
        | .ok l =>
          if !l.rd then none
          else some (s.homeReads ⟨some slot, s.gen slot, true, r.extractLsb' 56 8, 0⟩ (leafPa l va) 32)
        | .fail _ _ _ => none).map List.flatten
  let rows := (List.range 128).map row
  if rows.any Option.isNone then none
  else
    let data := rows.map fun o => o.getD []
    let wide := fun (l : List (Byte × Bool)) =>
      if fmt = 11 then unpackT6 (l.map Prod.fst) else ofBytes 1024 (l.map Prod.fst)
    some
      { rows := (data.zipIdx.map fun e => (e.2, wide e.1)).foldl (fun t e => Tab.put 0 t e.1 e.2) ([] : Tab Lanes)
        dtag := r.extractLsb' 102 10
        gen := gen
        spad := r.getLsbD 115
        tag := r.extractLsb' 102 10
        gang := r.getLsbD 101
        stride := r.extractLsb' 72 20
        srcva := r.extractLsb' 0 72
        full := true
        poison := (data.zipIdx.map fun e => (e.2, rowPoison (fmt == 11) e.1)).foldl (fun t e => Tab.put 0 t e.1 e.2) [] }

/-- The small state of a core read back from its image (R404, R405). (DESIGN CHOICE, log 43) -/
def State.crestHead (s : State) (core img : Nat) : State :=
  let h := (s.imageRead core img 4096).map Prod.fst
  let at_ := fun (o n : Nat) => natOfBytes ((h.drop o).take n)
  let s1 := (List.range 256).foldl (fun x i => x.setSem core (BitVec.ofNat 8 i) (at_ (2 * i) 2)) s
  let s2 := (List.range 64).foldl (fun x i => x.setJc core i (at_ (512 + 4 * i) 4)) s1
  let st : Word := BitVec.ofNat 64 (at_ 792 8)
  let tbl := (s.imageRead core (img + 0x1000) 4096).map Prod.fst
  let ts : Ts :=
    { entries := (List.range 256).foldl (fun t i => Tab.put 0 t i (ofBytes 128 ((tbl.drop (16 * i)).take 16))) []
      nent := tsNent (ofBytes 128 (tbl.take 16))
      stamp := s.coreGen core
      c := (List.range 4).foldl (fun t i => Tab.put 0 t i (BitVec.ofNat 32 (at_ (768 + 4 * i) 4))) []
      l := (List.range 2).foldl (fun t i => Tab.put 0 t i (BitVec.ofNat 32 (at_ (784 + 4 * i) 4))) []
      loaded := st.getLsbD 61
      err := st.extractLsb' 56 5
      state := st.extractLsb' 48 8
      steps := st.setWidth 32 }
  let words := (s.imageRead core (img + 0x2000) 8192).map Prod.fst
  let idx : Word := ofBytes 64 ((s.imageRead core (img + 0x4000) 8).map Prod.fst)
  let objs := (s.imageRead core (img + 0x4200) 512).map Prod.fst
  let deque := (List.range (min 256 (field idx 16 9))).map fun i =>
    ({ key := s.fresh + 1 + i, word := ofBytes 256 ((words.drop (32 * i)).take 32),
       lobj := ofBytes 12 ((objs.drop (2 * i)).take 2), slot := s.coreSlot core, gen := s.coreGen core, held := none } : Task)
  ({ s2 with fresh := s2.fresh + 256 }.setSeqr core ts).modCore core fun k =>
    { k with deque := deque, dqTail := idx.extractLsb' 8 8 }

/-- The dictionary, the scratchpad and the tiles read back (R404, R405). -/
def State.crestArrays (s : State) (core img : Nat) : State :=
  let gen := s.coreGen core
  let h := (s.imageRead core img 4096).map Prod.fst
  let full := (s.imageRead core (img + 0x4400) 1024).map Prod.fst
  let dict := (List.range 4096).map fun i =>
    let l := s.imageRead core (img + 0x10000 + 48 * i) 48
    (i, some ({ bits := ofBytes 384 (l.map Prod.fst), stamp := gen, poison := l.any Prod.snd } : DictEntry))
  let tile := fun (a : Nat) =>
    let rows := if (h.getD (801 + 2 * a) 0).getLsbD 7 then
        (List.range 128).map fun r => s.imageRead core (img + 0x140000 + 65536 * a + 512 * r) 512 else []
    let bad := fun (l : List (Byte × Bool)) => (List.range 4).foldl (fun (m : BitVec 128) g =>
      if (l.getD (128 * g) (0, false)).2 then m ||| BitVec.ofNat 128 (maskBits (32 * g) 32) else m) 0
    ({ rows := rows.zipIdx.foldl (fun t e => Tab.put 0 t e.2 (ofBytes 4096 (e.1.map Prod.fst))) []
       tag := ofBytes 10 ((h.drop (800 + 2 * a)).take 2)
       stamp := gen
       poison := rows.zipIdx.foldl (fun t e => Tab.put 0 t e.2 (bad e.1)) [] } : Tile)
  let slot := s.coreSlot core
  let s1 := (List.range 8192).foldl (fun x i =>
    let l := s.imageRead core (img + 0x40000 + 128 * i) 128
    let y := x.spadWrites core slot gen (l.any Prod.snd) (128 * i) (l.map Prod.fst)
    y.setLine core i slot gen ((full.getD (i / 8) 0).getLsbD (i % 8))) s
  s1.modCore core fun k => { k with dict := dict, tiles := (List.range 16).map fun a => (a, tile a) }

/-- The B slots of an image are reloaded; whether all that had data came back (R405). -/
def State.crestSlots (s : State) (core img : Nat) : Bool × State :=
  let recs := (List.range 128).map fun b => ofBytes 128 ((s.imageRead core (img + 832 + 16 * b) 16).map Prod.fst)
  recs.zipIdx.foldl (fun acc e =>
    if field e.1 102 10 = 0 then acc
    else
      match acc.2.reloadSlot core e.1 with
      | some b => (acc.1, acc.2.setBslot core e.2 b)
      | none => (false, acc.2.setBslot core e.2 {})) (true, s)

/-- The lines of an image that CREST reads meet their home slices (R139, R310, R423). -/
def State.touchImage (s : State) (core img : Nat) : State :=
  let a := s.saveAcc core
  let h := (s.imageRead core img 4096).map Prod.fst
  let s1 := (s.touchRun a img 0x4800).touchRun a (img + 0x10000) 0x130000
  (List.range 16).foldl (fun x t =>
    if (h.getD (801 + 2 * t) 0).getLsbD 7 then x.touchRun a (img + 0x140000 + 65536 * t) 65536 else x) s1

/-- CREST (R404, R405). -/
def execCrest (core : Nat) (v : Word) (s : State) : Host.Outcome State Fault Refusal :=
  let img := field v 12 27 * 4096
  let put := fun (s : State) (x : Word) => s.modCore core fun k => { k with crest := x }
  .next (
    if csReserved v then s
    else if !v.getLsbD 63 then put s (setField v 60 3 (field (s.core core).crest 60 3))
    else if !s.coreQuiet core then put s (csDone v 1)
    else if !s.imageOwned core img then put s (csDone v 2)
    else
      let (ok, s1) := (((s.touchImage core img).crestHead core img).crestArrays core img).crestSlots core img
      put s1 (csDone v (if ok then 0 else 3)))

end Sys2Proof.Machine
end

