-- ==== Sys2Proof/Machine/Control.lean ====
section
/-! DEFINITION. Transfers of control, loops and system operations (R153 to R173). -/

namespace Sys2Proof.Machine

/-- The operations that are transfers (R153). -/
def isTransfer : Instr → Bool
  | .br _ => true | .call _ => true | .ret _ => true | .bix _ => true | .lset _ _ => true | .lbrk _ _ => true
  | _ => false

/-- The delay bundle at an address is a pitch-end bundle that triggers no transfer (R153). -/
def State.delayOk (s : State) (ci a : Nat) : Bool :=
  match s.fetch ci a with
  | .ok (.bundle b _) =>
    (Header.ofBits b).pitch && (okSlots (decodeSlots b)).all fun x => !isTransfer x.2
  | _ => false

/-- A taken transfer, whose operands are read: its delay bundle is checked, then its target, and the target waits (R153, R56).
(DESIGN CHOICE, log 76) -/
def State.transfer (s : State) (unit : Nat) (target : Word) (lk : Option Nat) : Res State :=
  if !s.delayOk s.cid s.cur.nextA then raise 4 0 unit
  else do
    s.targetOk s.cid target
    pure { s with cur := { s.cur with xfer := some (target, lk) } }

/-- A br operation: its target from T and O, read at issue (R154). -/
def State.brOp (s : State) (i : Instr) (f : OpS) (target : ScalarArgs → Word) (lk : Option Nat) : Res State :=
  inSlot 0 do
    s.opens i
    if !s.guard f.g then pure s
    else do
      let a ← s.scalarArgs 4 i.shape f
      s.transfer 4 (target a) lk

/-- br: the operation (R154). -/
def opBr (f : OpS) (s : State) : Res State := s.brOp (.br f) f (·.t) none
/-- br (R154). -/
def execBr (f : OpS) (s : State) : Host.Outcome State Fault Refusal := settle s (opBr f s)

/-- call: lk becomes the code address following the delay bundle, at the delay bundle's commit (R154). -/
def opCall (f : OpS) (s : State) : Res State :=
  s.brOp (.call f) f (·.t) (some (s.exitAddr s.cid (BitVec.ofNat 64 s.cur.nextA)).toNat)
/-- call (R154). -/
def execCall (f : OpS) (s : State) : Host.Outcome State Fault Refusal := settle s (opCall f s)

/-- ret: to lk as read at issue (R154). -/
def opRet (f : OpS) (s : State) : Res State :=
  inSlot 0 do
    s.opens (.ret f)
    if !s.guard f.g then pure s
    else do
      s.intact (.sp 8)
      s.transfer 4 (s.me.bank.getSp 8) none
/-- ret (R154). -/
def execRet (f : OpS) (s : State) : Host.Outcome State Fault Refusal := settle s (opRet f s)

/-- bix: to T + O (R154). -/
def opBix (f : OpS) (s : State) : Res State := s.brOp (.bix f) f (fun a => a.t + a.o) none
/-- bix (R154). -/
def execBix (f : OpS) (s : State) : Host.Outcome State Fault Refusal := settle s (opBix f s)

/-- The special-register numbers of a loop set: count, start, end (R17). -/
def lcReg (n : Nat) : Nat := 3 * n
/-- Start of a loop set. -/
def lsReg (n : Nat) : Nat := 3 * n + 1
/-- End of a loop set. -/
def leReg (n : Nat) : Nat := 3 * n + 2

/-- lset: opens loop n and transfers into it, or past it for a trip count of 0 (R157). -/
def opLset (n : BitVec 1) (f : OpS) (s : State) : Res State :=
  inSlot 0 do
    s.opens (.lset n f)
    if !s.guard f.g then pure s
    else do
      let a ← s.scalarArgs 5 (Instr.lset n f).shape f
      let s1 ← s.transfer 5 (if a.l ≠ 0 then a.t else s.exitAddr s.cid a.o) none
      pure (((s1.move 0 (wr64 (.sp (lsReg n.toNat)) a.t)).move 0 (wr64 (.sp (leReg n.toNat)) a.o)).move 0
        (wr64 (.sp (lcReg n.toNat)) a.l))
/-- lset (R157). -/
def execLset (n : BitVec 1) (f : OpS) (s : State) : Host.Outcome State Fault Refusal := settle s (opLset n f s)

/-- The rotating predicates p16 to p31 as writes (R159, R160). -/
def rotWrites (p : Nat → Bool) (m : Nat → Mark) : List RegWrite :=
  (List.range 16).map fun i => { wrP (16 + i) (p (16 + i)) with mark := m (16 + i) }

/-- lrot: prepares a rotating loop (R160). -/
def opLrot (f : OpS) (s : State) : Res State :=
  inSlot 0 do
    s.opens (.lrot f)
    if !s.guard f.g then pure s
    else do
      let a ← s.scalarArgs 5 (Instr.lrot f).shape f
      let s1 := (s.move 0 (wr64 (.sp 6) a.t)).move 0 (wr64 (.sp 7) 0)
      pure ((rotWrites (fun i => i == 16) fun _ => .clean).foldl (fun x w => x.move 0 w) s1)
/-- lrot (R160). -/
def execLrot (f : OpS) (s : State) : Host.Outcome State Fault Refusal := settle s (opLrot f s)

/-- lbrk: leaves loop n (R161). -/
def opLbrk (n : BitVec 1) (f : OpS) (s : State) : Res State :=
  inSlot 0 do
    s.opens (.lbrk n f)
    if !s.guard f.g then pure s
    else do
      s.intact (.sp (leReg n.toNat))
      let s1 ← s.transfer 5 (s.exitAddr s.cid (s.me.bank.getSp (leReg n.toNat))) none
      pure (s1.move 0 (wr64 (.sp (lcReg n.toNat)) 0))
/-- lbrk (R161). -/
def execLbrk (n : BitVec 1) (f : OpS) (s : State) : Host.Outcome State Fault Refusal := settle s (opLbrk n f s)

/-- A system operation that acts after its pitch's release (R165, R168 to R171): in a bundle lacking PITCH or CAIRN
it raises the illegal-form trap with sys named. T is read before that check. (DESIGN CHOICE, log 76) -/
def State.sysOp (s : State) (i : Instr) (f : OpS) (act : Word → After) : Res State :=
  inSlot 0 do
    s.opens i
    if !s.guard f.g then pure s
    else do
      let a ← s.scalarArgs 6 i.shape f
      if !(s.cur.pitch && s.cur.cairn) then raise 4 0 6
      else pure (s.modMe fun c => { c with after := act a.t })

/-- sys.trap: a software trap with argument T after the release (R167, R168). -/
def opTrap (f : OpS) (s : State) : Res State := s.sysOp (.trap f) f fun t => .swTrap 18 t s.cur.addr
/-- sys.trap (R168). -/
def execTrap (f : OpS) (s : State) : Host.Outcome State Fault Refusal := settle s (opTrap f s)

/-- sys.tret: returns from a user trap handler; without one it raises the illegal-form trap (R169). -/
def opTret (f : OpS) (s : State) : Res State :=
  inSlot 0 do
    s.opens (.tret f)
    if s.guard f.g && !s.me.hnd then raise 4 0 6 else s.sysOp (.tret f) f fun _ => .tret
/-- sys.tret (R169). -/
def execTret (f : OpS) (s : State) : Host.Outcome State Fault Refusal := settle s (opTret f s)

/-- sys.exit: the unit ends with status T after the release (R170). -/
def opExit (f : OpS) (s : State) : Res State := s.sysOp (.exit f) f .exit
/-- sys.exit (R170). -/
def execExit (f : OpS) (s : State) : Host.Outcome State Fault Refusal := settle s (opExit f s)

/-- sys.yield: offers the core after the release (R171). -/
def opYield (f : OpS) (s : State) : Res State := s.sysOp (.yield f) f fun _ => .yield
/-- sys.yield (R171). -/
def execYield (f : OpS) (s : State) : Host.Outcome State Fault Refusal := settle s (opYield f s)

/-- sys.sleep: the next bundle does not issue before device time T (R172). -/
def opSleep (f : OpS) (s : State) : Res State :=
  inSlot 0 do
    s.opens (.sleep f)
    if !s.guard f.g then pure s
    else do
      let a ← s.scalarArgs 6 (Instr.sleep f).shape f
      pure (s.modMe fun c => { c with wake := some a.t })
/-- sys.sleep (R172). -/
def execSleep (f : OpS) (s : State) : Host.Outcome State Fault Refusal := settle s (opSleep f s)

/-- sys.brk: a breakpoint trap with argument T after the release (R168). -/
def opBrk (f : OpS) (s : State) : Res State := s.sysOp (.brk f) f fun t => .swTrap 19 t s.cur.addr
/-- sys.brk (R168). -/
def execBrk (f : OpS) (s : State) : Host.Outcome State Fault Refusal := settle s (opBrk f s)

end Sys2Proof.Machine
end

