-- ==== Sys2Proof/Machine/Gather.lean ====
section
/-! DEFINITION. The gather unit gq (R210 to R213): gpush, gpop and the arrival of a row in the data queue. -/

namespace Sys2Proof.Machine

/-- The occupancy of a context's gather queues (R210). -/
def Ctx.gocc (c : Ctx) : Nat := c.iq.length + c.gq.length

/-- The rows of the index queue whose eight cycles are over have entered the data queue (R210, R211). -/
def Ctx.gatherArrive (c : Ctx) (cycle : Nat) : Ctx :=
  { c with gq := c.gq ++ c.iq.filter (fun r => r.due ≤ cycle), iq := c.iq.filter fun r => cycle < r.due }

/-- gpush: one 128-byte fetch from the scratchpad in the issue cycle (R211). -/
def opGpush (f : OpS) (s : State) : Res State :=
  inSlot 1 do
    s.opens (.gpush f)
    if !s.guard f.g then pure s
    else do
      let t ← s.readT f.t
      let n := f.o.toNat - 0xB0
      let h ← s.useHandle n fun h => effAddr h t.word 0 0
      let x ← formAddr h t.word 0 0 128 16 true false true false false
      if 16 ≤ s.me.gocc then raise 10 0 16
      else
        let own := s.me.ownCells true
        let l := (List.range 128).map fun i => s.mySpadByte own (x.2 + i)
        let row : GRow := ⟨s.cycle + 8, ofBytes 1024 (l.map (·.1)), if l.any (·.2) then .poison else .clean⟩
        pure (s.modMe fun c => { c with iq := c.iq ++ [row] })
/-- gpush (R211). -/
def execGpush (f : OpS) (s : State) : Host.Outcome State Fault Refusal := settle s (opGpush f s)

/-- gpop: the oldest row of the data queue lands in gq.r, untyped; latency 1 (R212). -/
def opGpop (f : OpS) (s : State) : Res State :=
  inSlot 1 do
    s.opens (.gpop f)
    if !s.guard f.g then pure s
    else
      let s1 := s.modMe fun c => c.gatherArrive s.cycle
      match s1.me.gq with
      | [] => raise 11 0 16
      | r :: rest =>
        pure ((s1.modMe fun c => { c with gq := rest }).land 1 16 1 [wrW (.rl 0x14) { data := r.row } r.mark])
/-- gpop (R212). -/
def execGpop (f : OpS) (s : State) : Host.Outcome State Fault Refusal := settle s (opGpop f s)

/-- GATHER_ROW_ARRIVAL: rows due enter the data queue (R210). -/
def execGatherRowArrival (core ctx : Nat) (s : State) : Host.Outcome State Fault Refusal :=
  .next (s.modCtx (4 * core + ctx) fun c => c.gatherArrive s.cycle)

end Sys2Proof.Machine
end

