-- ==== Sys2Proof/Machine/Mul.lean ====
section
/-! DEFINITION. The multiplier and divider (R102 to R105). -/

namespace Sys2Proof.Machine

/-- A result pair: mul.r and W take the first, mul.h the second (R102, R103). -/
def State.mulWrites (s : State) (w : BitVec 6) (r : Word × Word) : List RegWrite :=
  wr64 (.rl 2) r.1 :: wr64 (.rl 3) r.2 :: ((s.wbS w).toList.map fun x => wr64 x r.1)

/-- The exact signed product in 128 bits (R102). -/
def prodS (t o : Word) : BitVec 128 := BitVec.ofInt 128 (t.toInt * o.toInt)
/-- The exact unsigned product in 128 bits (R102). -/
def prodU (t o : Word) : BitVec 128 := BitVec.ofNat 128 (t.toNat * o.toNat)
/-- Bits 63:0 of a product. -/
def loHalf (p : BitVec 128) : Word := p.extractLsb' 0 64
/-- Bits 127:64 of a product. -/
def hiHalf (p : BitVec 128) : Word := p.extractLsb' 64 64

/-- Quotient and remainder (R103): division by zero and the signed overflow raise no trap. -/
def divide (sgn : Bool) (t o : Word) : Word × Word :=
  if o = 0 then (BitVec.allOnes 64, t)
  else if sgn then
    if t = 0x8000000000000000#64 ∧ o = BitVec.allOnes 64 then (t, 0)
    else (BitVec.ofInt 64 (t.toInt.tdiv o.toInt), BitVec.ofInt 64 (t.toInt.tmod o.toInt))
  else (BitVec.ofNat 64 (t.toNat / o.toNat), BitVec.ofNat 64 (t.toNat % o.toNat))

/-- A multiply: latency 3 (R102). -/
def State.mulOp (s : State) (i : Instr) (f : OpS) (r : Word → Word → Word × Word) : Res State :=
  s.scalarOp i 1 2 3 f fun a => s.mulWrites f.w (r a.t a.o)

/-- A divide: latency 34; the divider holds one operation, and a trigger while it is busy raises the queue-overflow
trap with mul named (R103, R104). Its operands are read first: a pending one blocks and a poisoned one traps before the
divider is looked at, an order the spec leaves open. (DESIGN CHOICE, log 71) -/
def State.divOp (s : State) (i : Instr) (f : OpS) (r : Word → Word → Word × Word) : Res State :=
  inSlot 1 do
    s.opens i
    if !s.guard f.g then pure s
    else do
      let a ← s.scalarArgs 2 i.shape f
      if s.cycle < s.me.divFree then raise 10 0 2
      else
        pure ((s.land 1 divUnit 34 (s.mulWrites f.w (r a.t a.o))).modMe fun c => { c with divFree := s.cycle + 34 })

/-- mul: the operation (R102). -/
def opMul (f : OpS) (s : State) : Res State := s.mulOp (.mul f) f fun t o => (loHalf (prodS t o), hiHalf (prodS t o))
/-- mul (R102). -/
def execMul (f : OpS) (s : State) : Host.Outcome State Fault Refusal := settle s (opMul f s)

/-- mulh: the operation (R102). -/
def opMulh (f : OpS) (s : State) : Res State := s.mulOp (.mulh f) f fun t o => (hiHalf (prodS t o), loHalf (prodS t o))
/-- mulh (R102). -/
def execMulh (f : OpS) (s : State) : Host.Outcome State Fault Refusal := settle s (opMulh f s)

/-- mulhn: the operation (R102). -/
def opMulhn (f : OpS) (s : State) : Res State := s.mulOp (.mulhn f) f fun t o => (hiHalf (prodU t o), loHalf (prodU t o))
/-- mulhn (R102). -/
def execMulhn (f : OpS) (s : State) : Host.Outcome State Fault Refusal := settle s (opMulhn f s)

/-- div: the operation (R103). -/
def opDiv (f : OpS) (s : State) : Res State := s.divOp (.div f) f fun t o => divide true t o
/-- div (R103). -/
def execDiv (f : OpS) (s : State) : Host.Outcome State Fault Refusal := settle s (opDiv f s)

/-- divn: the operation (R103). -/
def opDivn (f : OpS) (s : State) : Res State := s.divOp (.divn f) f fun t o => divide false t o
/-- divn (R103). -/
def execDivn (f : OpS) (s : State) : Host.Outcome State Fault Refusal := settle s (opDivn f s)

/-- rem: the operation (R103). -/
def opRem (f : OpS) (s : State) : Res State := s.divOp (.rem f) f fun t o => (divide true t o).swap
/-- rem (R103). -/
def execRem (f : OpS) (s : State) : Host.Outcome State Fault Refusal := settle s (opRem f s)

/-- remn: the operation (R103). -/
def opRemn (f : OpS) (s : State) : Res State := s.divOp (.remn f) f fun t o => (divide false t o).swap
/-- remn (R103). -/
def execRemn (f : OpS) (s : State) : Host.Outcome State Fault Refusal := settle s (opRemn f s)

end Sys2Proof.Machine
end

