-- ==== Sys2Proof/Machine/Pred.lean ====
section
/-! DEFINITION. The predicate unit pr (R106, R107). -/

namespace Sys2Proof.Machine

/-- A predicate operation: one predicate, latency 1 (R106). -/
def State.predOp (s : State) (i : Instr) (d : BitVec 5) (f : OpS) (r : Src → Src → Bool) : Res State :=
  inSlot 0 do
    s.opens i
    if !s.guard f.g then pure s
    else do
      let t ← s.readT f.t
      let o ← if i.shape.o = .none then pure t else s.readO 3 f
      pure (s.land 0 3 1 [wrP d.toNat (r t o)])

/-- pand: the operation (R106). -/
def opPand (d : BitVec 5) (f : OpS) (s : State) : Res State := s.predOp (.pand d f) d f fun t o => t.bool && o.bool
/-- pand (R106). -/
def execPand (d : BitVec 5) (f : OpS) (s : State) : Host.Outcome State Fault Refusal := settle s (opPand d f s)

/-- por: the operation (R106). -/
def opPor (d : BitVec 5) (f : OpS) (s : State) : Res State := s.predOp (.por d f) d f fun t o => t.bool || o.bool
/-- por (R106). -/
def execPor (d : BitVec 5) (f : OpS) (s : State) : Host.Outcome State Fault Refusal := settle s (opPor d f s)

/-- pxor: the operation (R106). -/
def opPxor (d : BitVec 5) (f : OpS) (s : State) : Res State := s.predOp (.pxor d f) d f fun t o => t.bool != o.bool
/-- pxor (R106). -/
def execPxor (d : BitVec 5) (f : OpS) (s : State) : Host.Outcome State Fault Refusal := settle s (opPxor d f s)

/-- pnot: the operation (R106). -/
def opPnot (d : BitVec 5) (f : OpS) (s : State) : Res State := s.predOp (.pnot d f) d f fun t _ => !t.bool
/-- pnot (R106). -/
def execPnot (d : BitVec 5) (f : OpS) (s : State) : Host.Outcome State Fault Refusal := settle s (opPnot d f s)

/-- pset: the operation (R106). -/
def opPset (d : BitVec 5) (f : OpS) (s : State) : Res State := s.predOp (.pset d f) d f fun t _ => t.bool
/-- pset (R106). -/
def execPset (d : BitVec 5) (f : OpS) (s : State) : Host.Outcome State Fault Refusal := settle s (opPset d f s)

/-- vany: the operation (R106). -/
def opVany (d : BitVec 5) (f : OpS) (s : State) : Res State := s.predOp (.vany d f) d f fun t _ => t.vec != 0
/-- vany (R106). -/
def execVany (d : BitVec 5) (f : OpS) (s : State) : Host.Outcome State Fault Refusal := settle s (opVany d f s)

/-- vall: the operation (R106). -/
def opVall (d : BitVec 5) (f : OpS) (s : State) : Res State := s.predOp (.vall d f) d f fun t _ => t.vec == BitVec.allOnes 128
/-- vall (R106). -/
def execVall (d : BitVec 5) (f : OpS) (s : State) : Host.Outcome State Fault Refusal := settle s (opVall d f s)

end Sys2Proof.Machine
end

