-- ==== Sys2Proof/Machine/Reliab.lean ====
section
/-! DEFINITION. Soft errors (R410, R412), the vertical bus (R414, R415), migration and retirement of blocks (R300, R417), and the error logs
(R418). -/

namespace Sys2Proof.Machine

/-- The die whose log counts the words of a granule (R410, R418). -/
def Granule.die : Granule → Nat
  | .reg ctx _ | .latch ctx _ _ => dieOf (ctx / 4)
  | .spad core _ | .l1 core _ _ | .dict core _ | .tile core _ _ _ | .brow core _ _ => dieOf core
  | .rdc die _ _ => die
  | .l2 sector => paDie (128 * sector)

/-- The granule is one of the machine's. -/
def Granule.there : Granule → Bool
  | .reg ctx _ => decide (ctx < 512)
  | .latch ctx r _ => decide (ctx < 512) && match r with | .ol _ => true | .rl _ => true | _ => false
  | .spad core line => decide (core < 128 ∧ line < 8192)
  | .l1 core _ i => decide (core < 128 ∧ i < 8)
  | .rdc die _ i => decide (die < 4 ∧ i < 8)
  | .l2 sector => populated (128 * sector)
  | .dict core i => decide (core < 128 ∧ i < 4096)
  | .tile core acc row col => decide (core < 128 ∧ acc < 16 ∧ row < 128 ∧ col < 128)
  | .brow core slot row => decide (core < 128 ∧ slot < 128 ∧ row < 128)

/-- A latch's mark with element i poisoned (R410). -/
def Mark.spoil (i : Nat) : Mark → Mark
  | .clean => .elements (1 <<< i)
  | .elements m => .elements (m ||| (1 <<< i))
  | .poison => .poison
  | .remote c va => .remote c va

/-- The mark of a place of a context changed. -/
def Ctx.mapMark (c : Ctx) (r : Reg) (f : Mark → Mark) : Ctx :=
  { c with bank := { c.bank with marks := Tab.put .clean c.bank.marks r.key (f (c.bank.mark r)) } }

/-- A cache line with one of its sectors poisoned, where it is held. -/
def CLine.spoil (i : Nat) (x : CLine) : CLine :=
  { x with sect := x.sect.map fun e => if e.1 = i then (e.1, { e.2 with poison := true }) else e }

/-- The granule is poisoned (R410). (DESIGN CHOICE, log 61) -/
def State.spoil (s : State) : Granule → State
  | .reg ctx r => s.modCtx ctx fun c => c.mapMark r fun _ => .poison
  | .latch ctx r i => s.modCtx ctx fun c => c.mapMark r (Mark.spoil i.toNat)
  | .spad core line => s.modCore core fun k => { k with spadPoison := Tab.put false k.spadPoison line true }
  | .l1 core line i => s.modCore core fun k => { k with l1 := k.l1.map fun x => if x.line = line then x.spoil i else x }
  | .rdc die line i => s.modDie die fun d => { d with rdc := d.rdc.map fun x => if x.line = line then x.spoil i else x }
  | .l2 sector => { s with mem := { s.mem with poison := Tab.put false s.mem.poison sector true } }
  | .dict core i =>
    s.modCore core fun k =>
      { k with dict := match Tab.get none k.dict i with
        | some e => Tab.put none k.dict i (some { e with poison := true })
        | none => k.dict }
  | .tile core acc row col =>
    let t := s.tile core acc
    s.setTile core acc { t with poison := Tab.put 0 t.poison row (Tab.get 0 t.poison row ||| ((1 : BitVec 128) <<< col)) }
  | .brow core slot row =>
    let b := s.bslot core slot
    s.setBslot core slot { b with poison := Tab.put 0 b.poison row (BitVec.allOnes 128) }

/-- A measurement register extended by the digest of an image that is loaded (R431). -/
def State.measured (s : State) (i : Nat) (digest : BitVec 256) : State :=
  let c := s.hub.caddy
  { s with hub := { s.hub with caddy := { c with meas := Tab.put 0 c.meas i (extend (Tab.get 0 c.meas i) digest) } } }

/-- One soft error (R410, R412, R428): a corrected word is counted, an uncorrectable one is counted and poisons its granule; a DRAM
sector is decoded; a rejected on-chip packet is counted, and twice, with its access delivered poisoned, where the copy sent once
more is rejected too. (DESIGN CHOICE, log 61) -/
def State.upset (s : State) : Upset → State
  | .sram g unc =>
    if !g.there then s
    else if unc then (s.countDie g.die 0x2308 32 32 1).spoil g
    else s.countDie g.die 0x2308 0 32 1
  | .cell sector errs copy =>
    if populated (128 * sector) then s.decoded (128 * sector) (s.readCell sector errs) (if copy then 2 else 0) else s
  | .reload digest => s.measured 2 digest
  | .packet sector write again =>
    if !populated (128 * sector) then s
    else if !again then s.countAuth
    else if write then s.countAuth.countAuth.poisonFlag sector
    else { s.countAuth.countAuth with burst := sector / 8 :: s.burst }

/-- The soft errors that the step begins with. (DESIGN CHOICE, log 61) -/
def State.takeUpsets (s : State) : State :=
  match s.upsets with
  | [] => s
  | l => { l.foldl State.upset s with upsets := [] }

/-- The channel a line travels on (R414): PA[14:10] exclusive or PA[19:15]. -/
def channelOf (line : Nat) : Nat := (line % 32) ^^^ (line / 32 % 32)

/-- The die of a burst's line. -/
def burstDie (b : Burst) : Nat := paDie (1024 * b.line.toNat)

/-- The wires of a channel that are moved to spares (R415): group and wire, in the order of the spares. -/
def Die.laneUsed (d : Die) (ch : Nat) : List (BitVec 6 × BitVec 6) := Tab.get [] d.lanes ch

/-- LANE as it reads (R418): spares are taken from spare 0 on. -/
def Die.laneReg (d : Die) (ch : Nat) : Word :=
  let n := (d.laneUsed ch).length
  BitVec.ofNat 64 (n * 2 ^ 16 + (2 ^ n - 1))

/-- The bits flipped in a try, where wires have been moved to spares (R415): each once, of a beat and a wire there are. -/
def tryFlips (used : List (BitVec 6 × BitVec 6)) (l : List WireFlip) : List WireFlip :=
  (l.filter fun f => !used.contains (f.grp, f.wire) && decide (f.wire.toNat ≤ 32) && decide (f.beat.toNat ≤ 4) &&
    decide (f.beat.toNat = 4 → f.grp.toNat < 32)).eraseDups

/-- The group whose parity fails in a try (R414): an odd number of the 33 wires of one beat. -/
def failGroup (l : List WireFlip) : Option (BitVec 6) :=
  (l.find? fun f => (l.filter fun g => g.beat == f.beat && g.grp == f.grp).length % 2 == 1).map (·.grp)

/-- Try k of a burst: its flips. -/
def burstFlips (b : Burst) (used : List (BitVec 6 × BitVec 6)) (k : Nat) : List WireFlip := tryFlips used (b.tries.getD k [])

/-- The first of the five tries that passes parity (R414, R415). -/
def burstPasses (b : Burst) (used : List (BitVec 6 × BitVec 6)) : Option Nat :=
  (List.range 5).find? fun k => (failGroup (burstFlips b used k)).isNone

/-- What passes parity unseen reaches the sector code (R414): data wire w of group g in beat t carries bit 2048 t + 32 g + w of the
eight codewords. (DESIGN CHOICE, log 61) -/
def flipErr (f : WireFlip) : Nat × SymErr :=
  let n := 2048 * f.beat.toNat + 32 * f.grp.toNat + f.wire.toNat
  (n / 1152, ⟨BitVec.ofNat 8 (n % 1152 / 8), BitVec.ofNat 8 (2 ^ (n % 8))⟩)

/-- A burst that has passed parity is delivered: each of its sectors is decoded, with the errors parity did not see (R414). -/
def State.deliver (s : State) (b : Burst) (l : List WireFlip) : State :=
  let errs := (l.filter fun f => decide (f.wire.toNat < 32)).map flipErr
  (List.range 8).foldl (fun x k =>
    let sec := 8 * b.line.toNat + k
    x.decoded (128 * sec) (x.readCell sec ((errs.filter fun e => e.1 == k).map Prod.snd)) 0) s

/-- XFRLAST (R418): of a group and a wire. -/
def xfrLast (b : Burst) (retries : Nat) (swap fail : Bool) (grp : BitVec 6) (wire : Nat) : Word :=
  BitVec.ofNat 64 (2 ^ 63 + (if b.write then 2 ^ 62 else 0) + retries % 8 * 2 ^ 59 + (if swap then 2 ^ 58 else 0) +
    (if fail then 2 ^ 57 else 0) + channelOf b.line.toNat * 2 ^ 52 + grp.toNat * 2 ^ 46 + wire % 32 * 2 ^ 41 +
    b.line.toNat * 2 ^ 10)

/-- Retries and the last transfer event are logged (R418). -/
def State.logXfer (s : State) (d : Nat) (last : Word) (retries swaps fails : Nat) : State :=
  let s1 := ((s.countDie d 0x2118 0 32 retries).countDie d 0x2118 48 16 swaps).countDie d 0x2118 32 16 fails
  s1.modDie d fun x => { x with regs := Tab.put 0 x.regs 0x2120 last }

/-- PARITY_RETRY (R414): a burst passes, at once or after one to four retries, which are logged. (DESIGN CHOICE, log 61) -/
def execParityRetry (b : Burst) (s : State) : Host.Outcome State Fault Refusal :=
  let d := burstDie b
  let used := (s.die d).laneUsed (channelOf b.line.toNat)
  .next (match burstPasses b used with
  | none => s
  | some 0 => s.deliver b (burstFlips b used 0)
  | some (k + 1) =>
    let grp := (failGroup (burstFlips b used k)).getD 0
    (s.logXfer d (xfrLast b (k + 1) false false grp 0) (k + 1) 0 0).deliver b (burstFlips b used (k + 1)))

/-- A burst that has failed for good (R415): a read is delivered poisoned to whatever takes it in the next step; the stored
codewords keep as they are. (DESIGN CHOICE, log 61) -/
def State.failBurst (s : State) (b : Burst) : State := if b.write then s else { s with burst := b.line.toNat :: s.burst }

/-- LANE_SWAP (R415): the fifth try has failed; the failing wires of its group go to spares, for this and every later transfer of
the channel, and the burst is sent once more; or it fails. (DESIGN CHOICE, log 61) -/
def execLaneSwap (b : Burst) (s : State) : Host.Outcome State Fault Refusal :=
  let d := burstDie b
  let ch := channelOf b.line.toNat
  let used := (s.die d).laneUsed ch
  .next (match burstPasses b used with
  | some _ => s
  | none =>
    let grp := (failGroup (burstFlips b used 4)).getD 0
    let now := used ++ b.wires.map fun w => (grp, w)
    let fits := !b.wires.isEmpty && decide (now.length ≤ 16)
    let wire := match b.wires with | [] => 0 | w :: _ => w.toNat
    if fits then
      let s1 := s.modDie d fun x => { x with lanes := Tab.set x.lanes ch now }
      let last := burstFlips b now 5
      if (failGroup last).isNone then
        ((s1.logXfer d (xfrLast b 4 true false grp wire) 4 b.wires.length 0).irq 2).deliver b last
      else ((s1.logXfer d (xfrLast b 4 true true grp wire) 4 b.wires.length 1).irq 2).failBurst b
    else ((s.logXfer d (xfrLast b 4 false true grp 0) 4 0 1).irq 2).failBurst b)

/-- Bits of the write bitmap that are few enough for a hold (R300). (DESIGN CHOICE, log 62) -/
def fewBits : Nat := 16

/-- MIGRATION (R300): n more sectors are copied; then n sectors written meanwhile are copied again; with none asked for and few
enough bits set, new writes are held; and in a hold the remaining sectors are copied and the block is switched to its spare.
(DESIGN CHOICE, log 62) -/
def execMigration (die : BitVec 2) (n : Nat) (s : State) : Host.Outcome State Fault Refusal :=
  let d := die.toNat
  match (s.die d).migr with
  | none => .next s
  | some g =>
    let put := fun (x : Migr) => s.modDie d fun y => { y with migr := some x }
    match g.hold with
    | some _ => .next (s.modDie d Die.switchMigr)
    | none =>
      if g.copied < 512 then .next (put { g with copied := min 512 (g.copied + n) })
      else if n = 0 then
        .next (if ((List.range 512).filter fun i => g.dirty.getLsbD i).length ≤ fewBits then put { g with hold := some s.dtime } else s)
      else
        let again := ((List.range 512).filter fun i => g.dirty.getLsbD i).take n
        .next (put { g with dirty := again.foldl (fun m i => m &&& ~~~((1 : BitVec 512) <<< i)) g.dirty })

/-- MIGRATION_HOLD_TIMEOUT (R300): after 2 us the held writes proceed and the copying goes on. -/
def execMigrationHoldTimeout (die : BitVec 2) (s : State) : Host.Outcome State Fault Refusal :=
  match (s.die die.toNat).migr with
  | none => .next s
  | some g =>
    match g.hold with
    | none => .next s
    | some t =>
      if s.dtime < t + 2000 then .next s
      else .next (s.modDie die.toNat fun y => { y with migr := some { g with hold := none } })

/-- A write of RTCTL (R417, R418): AUTO, RTHR and BLK are taken; REQ names a candidate, which is taken at once. FREE and
PEND keep. RTHR keeps where 0 is written. (DESIGN CHOICE, log 62) -/
def State.rtctlWrite (s : State) (d : Nat) (v : Word) : State :=
  let old := (s.die d).rtctl
  let a := setField (setField old 63 1 (field v 63 1)) 0 21 (field v 0 21)
  let b := if field v 52 10 = 0 then a else setField a 52 10 (field v 52 10)
  s.modDie d fun x =>
    let y := x.setRtctl b
    if v.getLsbD 62 ∧ field v 0 21 < dieBlocks then y.candidate (field v 0 21) else y

/-- RETIRE_REQUEST (R417). -/
def execRetireRequest (die : BitVec 2) (v : Word) (s : State) : Host.Outcome State Fault Refusal :=
  .next (s.rtctlWrite die.toNat v)

/-- The counters of a die's error log (R418). -/
def isErrCounter (off : Nat) : Bool :=
  off == 0x2100 || off == 0x2118 || off == 0x2308 || off == 0x2310 ||
    (decide (0x2318 ≤ off) && decide (off < 0x2358) && off % 8 == 0)
/-- The LAST registers (R418). -/
def isErrLast (off : Nat) : Bool := off == 0x2108 || off == 0x2120

/-- A write to an error log (R418): any value clears a counter, 0 clears a LAST register. -/
def State.errWrite (s : State) (d off : Nat) (v : Word) : State :=
  if isErrCounter off ∨ (isErrLast off ∧ v = 0) then s.modDie d fun x => { x with regs := Tab.erase x.regs off } else s
/-- ERROR_LOG_CLEAR (R418). -/
def execErrorLogClear (die : BitVec 2) (off : BitVec 16) (v : Word) (s : State) : Host.Outcome State Fault Refusal :=
  .next (s.errWrite die.toNat off.toNat v)

/-- LATECNT_WRITE (R288): any value clears it. -/
def execLatecntWrite (_v : Word) (s : State) : Host.Outcome State Fault Refusal := .next (s.setHubReg 0x10 0)
/-- AUTHCNT_WRITE (R428): any value clears it. -/
def execAuthcntWrite (_v : Word) (s : State) : Host.Outcome State Fault Refusal := .next (s.setHubReg 0xB080 0)

end Sys2Proof.Machine
end

