-- ==== Sys2Proof/Machine/Caddy.lean ====
section
/-! DEFINITION. The caddy: worlds of slots (R420), keys (R423, R430), measurement and report (R431 to R434), the verifier
queue (R435, R436), and deep sleep (R437, R438). -/

namespace Sys2Proof.Machine

/-- Change the caddy. -/
def State.modCaddy (s : State) (f : Caddy → Caddy) : State := { s with hub := { s.hub with caddy := f s.hub.caddy } }

/-- WLDCFG as it reads (R420). (DESIGN CHOICE, log 6) -/
def State.wldcfgReg (s : State) (t : Nat) : Word := Tab.get 0 s.hub.wldcfg t

/-- Erase the private keys of a slot in a world (R420, R423, R438). -/
def State.erasePrivate (s : State) (world slot : Nat) : State :=
  let own := fun (k : Nat) => decide ((world * 17 + slot) * 128 < k) && decide (k < (world * 17 + slot + 1) * 128)
  { s with hub := { s.hub with keys := s.hub.keys.filter fun e => !own e.1 } }

/-- A write of WLDCFG (R420): from the protected world only; PROT changes only while no core is in the slot. -/
def State.wldcfgWrite (s : State) (slot : BitVec 4) (world : BitVec 2) (v : Word) : State :=
  let old := s.wldcfgReg slot.toNat
  if world ≠ 1 ∨ field v 0 62 ≠ 0 then s
  else if v.getLsbD 63 = old.getLsbD 63 then s
  else if !(s.allCoresOf slot).isEmpty then s
  else
    let s1 := (s.erasePrivate 0 slot.toNat).erasePrivate 1 slot.toNat
    { s1 with hub := { s1.hub with wldcfg := Tab.put 0 s1.hub.wldcfg slot.toNat (setField old 63 1 (field v 63 1)) } }
/-- WLDCFG_WRITE (R420). -/
def execWldcfgWrite (slot : BitVec 4) (world : BitVec 2) (v : Word) (s : State) : Host.Outcome State Fault Refusal :=
  .next (s.wldcfgWrite slot world v)

/-- The fields of a caddy command (R430). -/
structure MboxCmd where
  cmd   : Nat
  slot  : Nat
  key   : Nat
  cslot : Nat
  addr  : Nat
  deriving DecidableEq, Repr

/-- A mailbox word's command. (DEDUCED, log 63) -/
def mboxOf (v : Word) : MboxCmd where
  cmd := field v 56 4
  slot := field v 52 4
  key := field v 44 8
  cslot := field v 41 3
  addr := field v 0 39

/-- The mailbox with a command's result (R430); BUSY reads 1 only while the command acts. -/
def State.mboxDone (s : State) (w : Nat) (v : Word) (res : Nat) : State :=
  s.modCaddy fun c => { c with mbox := Tab.put 0 c.mbox w (setField (setField v 60 3 res) 63 1 0) }

/-- A slot belongs to a world (R420). -/
def State.slotWorld (s : State) (slot : Nat) : Nat := if s.prot slot then 1 else 0

/-- Bytes the caddy reads at a physical address: it acts in the security world (R419, R421). -/
def State.caddyRead (s : State) (pa n : Nat) : List Byte := (s.homeReads (busAcc 2) pa n).map Prod.fst

/-- Set a key of the key tables. -/
def State.setKey (s : State) (place k : Nat) : State := { s with hub := { s.hub with keys := Tab.put 0 s.hub.keys place k } }


/-- A fresh random key (R423). -/
def State.drawKey (s : State) (place : Nat) : State :=
  let x := s.setKey place (s.nextKey 0)
  { x with hub := { x.hub with keyNo := s.hub.keyNo + 1 } }

/-- A cold boot draws the public keys of the worlds and the header keys of the chip (R423, R428, R440). -/
def State.drawBoot (s : State) : State :=
  let draw := fun (i : Nat) => ((List.range 3).map fun w => (w, s.nextKey (i + w)) : Tab Nat)
  let x := s.modCaddy fun c => { c with pub := draw 0, chipKey := draw 3 }
  { x with hub := { x.hub with keyNo := s.hub.keyNo + 6 } }

/-- KGEN (R423, R430): a random private key for a slot of the mailbox's world. -/
def State.kgenCmd (s : State) (w : Nat) (m : MboxCmd) : Nat × State :=
  if m.key = 0 ∨ 128 ≤ m.key then (2, s)
  else if s.slotWorld m.slot ≠ w then (1, s)
  else (0, s.drawKey (keyCode w m.slot m.key))

/-- The place of an import key (R430, R435): a slot's, or a world's. -/
def importPlace (world : Nat) (slot : Option Nat) : Nat := match slot with | some t => t | none => 16 + world

/-- The key that KIMP brings takes its place (R430): a slot's or a world's, the header key, or the power-step key (R443). -/
def State.installKey (s : State) (w : Nat) (m : MboxCmd) (id : Nat) : State :=
  if m.key ≠ 0 then s.setKey (keyCode w m.slot m.key) id
  else if m.slot = 15 then s.modCaddy fun c => { c with fabKey := Tab.set c.fabKey w id }
  else (s.modCaddy fun c => { c with psKey := some id }).setHubReg 0xC018 0

/-- KIMP (R430): unwraps under the slot's import key or the world's; KEY 0 names the header key or the power-step key. (DEDUCED,
log 63) -/
def State.kimpCmd (s : State) (w : Nat) (m : MboxCmd) : Nat × State :=
  let priv := decide (1 ≤ m.key) && decide (m.key < 128)
  if priv ∧ s.slotWorld m.slot ≠ w then (1, s)
  else if m.key = 0 ∧ m.slot ≠ 15 ∧ m.slot ≠ 14 then (2, s)
  else
    let ik := Tab.get 0 s.hub.caddy.imports (importPlace w (if priv then some m.slot else none))
    if ik = 0 then (2, s)
    else
      match keyUnwrap (BitVec.ofNat 256 (ik - 1)) (s.caddyRead m.addr 72) with
      | none => (3, s)
      | some k => (0, s.installKey w m (keyNumber k))

/-- KDROP (R430): erases a key. -/
def State.kdropCmd (s : State) (w : Nat) (m : MboxCmd) : Nat × State :=
  if m.key = 0 then
    if m.slot = 15 ∧ (s.hub.caddy.fabKey.any fun e => e.1 == w) then
      (0, s.modCaddy fun c => { c with fabKey := Tab.erase c.fabKey w })
    else if m.slot = 14 ∧ s.hub.caddy.psKey.isSome then (0, s.modCaddy fun c => { c with psKey := none })
    else (2, s)
  else if m.key < 128 ∧ s.slotWorld m.slot ≠ w then (1, s)
  else if Tab.get 0 s.hub.keys (keyCode w m.slot m.key) = 0 then (2, s)
  else (0, s.setKey (keyCode w m.slot m.key) 0)

/-- CERTW (R430, R436): the content, then at one instant the version. A length above 16 KiB is refused. (DEDUCED, log 63) -/
def State.certwCmd (s : State) (w : Nat) (m : MboxCmd) : Nat × State :=
  if w ≠ 1 then (1, s)
  else
    let n := natOfBytes (s.caddyRead m.addr 4)
    if 16384 < n then (2, s)
    else (0, s.modCaddy fun c =>
      { c with certs := Tab.set c.certs m.cslot (s.caddyRead (m.addr + 4) n),
               vers := Tab.set c.vers m.cslot (Tab.get 0 c.vers m.cslot + 1) })

/-- Every context of the module is free or saved (R437). -/
def State.allFree (s : State) : Bool := s.ctxs.all fun c => c.2.st == .free

/-- No key at all: the port ciphers and the key tables are erased (R437). -/
def State.noKeys (s : State) : State :=
  let none3 := ((List.range 3).map fun w => (w, 0) : Tab Nat)
  let s1 := s.modCaddy fun c => { c with imports := [], pub := none3, fabKey := [], chipKey := none3, psKey := none }
  { s1 with hub := { s1.hub with keys := [] } }

/-- The keys go under the sleep key into the retained domain, the measurements are recorded, the ciphers erased (R437); in
deep sleep they lie there already. -/
def State.sealKeys (s : State) : State :=
  let c := s.hub.caddy
  let all : Sealed := { keys := s.hub.keys, imports := c.imports, pub := c.pub, fabKey := c.fabKey, chipKey := c.chipKey, psKey := c.psKey }
  if c.asleep then s
  else s.noKeys.modCaddy fun c => { c with wrapped := some all, kept := c.meas, asleep := true }

/-- SLEEP (R437): from the protected world, while every context is free or saved; DRAM then refreshes itself. (DEDUCED, log 63) -/
def State.sleepCmd (s : State) (w : Nat) : Nat × State :=
  if w ≠ 1 then (1, s)
  else if !s.allFree then (2, s)
  else (0, { s.sealKeys with hub := { s.sealKeys.hub with power := .sleep } })

/-- A caddy command (R430): ignored from another world or with a reserved bit; without BUSY the word is only kept, and RES of a
CMD that names no command is free. (DESIGN CHOICE, log 12; DEDUCED, log 63) -/
def State.mboxCmd (s : State) (mbox world : BitVec 2) (v : Word) : State :=
  let w := mbox.toNat
  let m := mboxOf v
  let go := fun (r : Nat × State) => r.2.mboxDone w v r.1
  if mbox ≠ world ∨ mbox = 3 ∨ field v 39 2 ≠ 0 then s
  else if !v.getLsbD 63 then go (field v 60 3, s)
  else
    match m.cmd with
    | 1 => go (s.kgenCmd w m)
    | 2 => go (s.kimpCmd w m)
    | 3 => go (s.kdropCmd w m)
    | 4 => go (s.certwCmd w m)
    | 5 => go (s.sleepCmd w)
    | _ => go (field (Config.freeWord s.fresh) 0 3, { s with fresh := s.fresh + 1 })

/-- KGEN (R423, R430). -/
def execKgen (mbox world : BitVec 2) (v : Word) (s : State) : Host.Outcome State Fault Refusal :=
  .next (if (mboxOf v).cmd = 1 then s.mboxCmd mbox world v else s)
/-- KIMP (R423, R430). -/
def execKimp (mbox world : BitVec 2) (v : Word) (s : State) : Host.Outcome State Fault Refusal :=
  .next (if (mboxOf v).cmd = 2 then s.mboxCmd mbox world v else s)
/-- KDROP (R430). -/
def execKdrop (mbox world : BitVec 2) (v : Word) (s : State) : Host.Outcome State Fault Refusal :=
  .next (if (mboxOf v).cmd = 3 then s.mboxCmd mbox world v else s)
/-- CERTW (R430, R436). -/
def execCertw (mbox world : BitVec 2) (v : Word) (s : State) : Host.Outcome State Fault Refusal :=
  .next (if (mboxOf v).cmd = 4 then s.mboxCmd mbox world v else s)
/-- SLEEP (R437). -/
def execSleepCommand (mbox world : BitVec 2) (v : Word) (s : State) : Host.Outcome State Fault Refusal :=
  .next (if (mboxOf v).cmd = 5 then s.mboxCmd mbox world v else s)


/-- The measurement register of a boot image by its place in load order (R431, R440): the memory-controller firmware and
Mortan, the monitor, the kernel; the blob has none. -/
def imageKind (i : Nat) : Option Nat := if i ≤ 1 then some 2 else if i = 2 then some 1 else if i = 3 then some 0 else none

/-- The measurements of a list of boot images, from zero. -/
def measureAll (images : List (BitVec 256)) : Tab (BitVec 256) :=
  images.zipIdx.foldl (fun t x =>
    match imageKind x.2 with
    | none => t
    | some k => Tab.put 0 t k (extend (Tab.get 0 t k) x.1)) []

/-- Every unit saved under a slot is killed (R438). -/
def State.killSavedOf (s : State) (slot : BitVec 4) : State :=
  (s.cores.map (·.1)).foldl (fun x k =>
    ((x.core k).units.filter fun u => u.slot == slot && !u.restored).foldl (fun y u => y.killSaved k u) x) s

/-- LOCK of a slot (R420, R438). -/
def State.setLock (s : State) (t : Nat) (b : Bool) : State :=
  { s with hub := { s.hub with wldcfg := Tab.put 0 s.hub.wldcfg t (setField (s.wldcfgReg t) 62 1 (if b then 1 else 0)) } }

/-- The contexts of a slot that a power-fail saved are killed (R438, R449). -/
def State.killHeldOf (s : State) (slot : BitVec 4) : State :=
  (s.ctxs.map (·.1)).foldl (fun x ci => if x.coreSlot (ci / 4) = slot then x.killUnit ci else x) s

/-- A protected slot whose keys are lost is advanced, or locked where the advance is refused, its saved contexts killed (R438). -/
def State.endProtected (s : State) (t : Nat) : State :=
  let slot := BitVec.ofNat 4 t
  let s1 := s.genAdvance slot 1
  if s1.gen slot ≠ s.gen slot then s1 else ((s1.killSavedOf slot).killHeldOf slot).setLock t true

/-- Keys that are not returned (R438): none is loaded any more, and every protected slot ends. (DEDUCED, log 63) -/
def State.loseKeys (s : State) : State :=
  (List.range 16).foldl (fun x t => if x.prot t then (x.erasePrivate 1 t).endProtected t else x) s.noKeys

/-- The keys after a sleep or a power-fail (R438): all returned where the measurements equal those recorded and the retained
domain kept power; otherwise none, and the protected slots end. -/
def State.wakeKeys (s : State) (images : List (BitVec 256)) (kept : Bool) : State :=
  let c := s.hub.caddy
  let m := measureAll images
  let s1 := s.modCaddy fun c => { c with meas := m, asleep := false, wrapped := none }
  match c.wrapped with
  | some k =>
    if kept ∧ m = c.kept then
      let s2 : State := { s1 with hub := { s1.hub with keys := k.keys } }
      s2.modCaddy fun c => { c with imports := k.imports, pub := k.pub, fabKey := k.fabKey, chipKey := k.chipKey, psKey := k.psKey }
    else s1.loseKeys
  | none => s1.loseKeys

/-- WAKE (R438): from deep sleep. -/
def execWake (images : List (BitVec 256)) (kept : Bool) (s : State) : Host.Outcome State Fault Refusal :=
  .next (if s.hub.power == .sleep then
      let x := s.wakeKeys images kept
      { x with hub := { x.hub with power := .on } }
    else s)

/-- Boot stopped at a failed verification (R440). -/
def State.bootFailed (s : State) : Bool := field (s.hubReg 0xC010) 0 4 == 2 && field (s.hubReg 0xC010) 8 8 != 0

/-- The body of a report (R432). -/
def State.reportBody (s : State) (status : Nat) (nonce : BitVec 256) (cslot : Nat) (ver : BitVec 32) (leaf : Nat) : List Byte :=
  let c := s.hub.caddy
  bytesOf (1 : BitVec 32) 4 ++ bytesOf (BitVec.ofNat 32 status) 4 ++ bytesOf ((s.hubReg 0).setWidth 16) 2 ++ List.replicate 6 0 ++
    shaBytes (hssKey c.seed) ++ bytesOf Config.kemKeyDigest 32 ++ bytesOf nonce 32 ++
    ((List.range 3).map fun i => bytesOf (Tab.get 0 c.meas i) 32).flatten ++ bytesOf (BitVec.ofNat 32 cslot) 4 ++
    bytesOf ver 4 ++ bytesOf (BitVec.ofNat 64 s.dtime) 8 ++ bytesOf (BitVec.ofNat 64 leaf) 8 ++
    bytesOf (BitVec.ofNat 16 (flagBits ((List.range 16).map s.prot))) 2 ++ List.replicate 22 0

/-- Bytes answered to an outside reader. -/
def State.answerOut (s : State) (l : List Byte) : State := { s with out := s.out ++ [.out l] }

/-- An answer with a report (R432 to R436): status 3 where no leaf is left or the boot failed, status 2 where the slot's
version has moved on, otherwise signed with the next leaf. -/
def State.report (s : State) (nonce : BitVec 256) (cslot : Nat) (bound : BitVec 32) : State :=
  let c := s.hub.caddy
  let now := Tab.get 0 c.vers cslot
  if s.bootFailed ∨ 2 ^ 40 ≤ c.leaf then s.answerOut (s.reportBody 3 nonce cslot now 0)
  else if now ≠ bound then s.answerOut (s.reportBody 2 nonce cslot now 0)
  else
    let body := s.reportBody 0 nonce cslot now c.leaf
    let s1 := s.modCaddy fun x =>
      { x with leaf := x.leaf + 1, pleaf := if x.leaf % 1024 = 0 then x.leaf + 1024 else x.pleaf }
    s1.answerOut (body ++ hssSign c.seed c.leaf body)

/-- The entry at the head of the verifier queue, if it is of a kind (R435): entries are answered in arrival order. -/
def State.verifierHead (s : State) (k : VerifierKind) : Option (VerifierMsg × BitVec 32 × State) :=
  match s.hub.caddy.queue with
  | (k', m, v) :: r => if k' = k then some (m, v, s.modCaddy fun c => { c with queue := r }) else none
  | [] => none

/-- CHAL (R435, R436). -/
def execChal (s : State) : Host.Outcome State Fault Refusal :=
  match s.verifierHead .chal with
  | none => .next s
  | some (m, v, s1) => .next (s1.report m.nonce m.cslot.toNat v)

/-- CERT (R435): the slot's version and content. -/
def execCert (s : State) : Host.Outcome State Fault Refusal :=
  match s.verifierHead .cert with
  | none => .next s
  | some (m, _, s1) =>
    let c := s1.hub.caddy
    .next (s1.answerOut (bytesOf (Tab.get 0 c.vers m.cslot.toNat) 4 ++ Tab.get [] c.certs m.cslot.toNat))

/-- IMPORT (R435): the shared secret becomes the import key of a slot or of a world; a report whose nonce is the digest of
the ciphertext acknowledges it. -/
def execImportKey (s : State) : Host.Outcome State Fault Refusal :=
  match s.verifierHead .imp with
  | none => .next s
  | some (m, v, s1) =>
    let place := importPlace m.world.toNat (m.slot.map BitVec.toNat)
    let s2 := s1.modCaddy fun c => { c with imports := Tab.set c.imports place ((Config.decap m.cipher).toNat + 1) }
    .next (s2.report (sha256 m.cipher) m.cslot.toNat v)

/-- A verifier datagram (R435, R436): dropped where 32 wait, otherwise bound to its certificate slot's version. -/
def State.verifierArrival (s : State) (k : VerifierKind) (m : VerifierMsg) : State :=
  if 32 ≤ s.hub.caddy.queue.length then s
  else s.modCaddy fun c => { c with queue := c.queue ++ [(k, m, Tab.get 0 c.vers m.cslot.toNat)] }

end Sys2Proof.Machine
end

