-- ==== Sys2Proof/Machine/Launch.lean ====
section
/-! DEFINITION. Work queues and launch packets (R372, R373), and module-down notices (R340, R355 to R357). -/

namespace Sys2Proof.Machine

/-- WQCFG of a work queue (R372). -/
def State.wqcfg (s : State) (w : Nat) : Word := Tab.get 0 s.hub.wq w

/-- A write of WQCFG (R265, R372): no packet of a queue is ever half taken, so EN = 0 takes effect at once. (DEDUCED, log 58) -/
def State.wqcfgWrite (s : State) (w : Nat) (v : Word) : State :=
  let old := s.wqcfg w
  let body : Word := BitVec.ofNat 64 (2 ^ 63 - 1)
  if v &&& eqcfgRes ≠ 0 ∨ (eqEn old ∧ v &&& body ≠ old &&& body) then s
  else { s with hub := { s.hub with wq := Tab.put 0 s.hub.wq w v } }

/-- A launch packet with a reserved bit, no units, or a misplaced argument block (R372). -/
def launchBad (p : Packet64) : Bool :=
  field p 80 113 != 0 || field p 32 16 != 0 || field p 0 29 != 0 || field p 248 24 == 0 || field p 328 3 != 0

/-- The launch object a packet describes (R366, R372, R373). (DEDUCED, log 58) -/
def launchObject (p : Packet64) : Packet64 :=
  BitVec.ofNat 512 (field p 448 64 * 2 ^ 448 + field p 384 64 * 2 ^ 384 + field p 272 56 * 2 ^ 328 + field p 248 24 * 2 ^ 296 +
    field p 220 12 * 2 ^ 228 + field p 219 1 * 2 ^ 227 + field p 212 1 * 2 ^ 224 + field p 205 7 * 2 ^ 217 +
    field p 197 8 * 2 ^ 209 + field p 193 4 * 2 ^ 205 + field p 213 2 * 2 ^ 203 + field p 52 12 * 2 ^ 186 +
    field p 48 4 * 2 ^ 182)

/-- A virtual address of a slot as Mortan finds it: physical address and leaf. -/
def State.mortanPa (s : State) (slot : BitVec 4) (va : Nat) : Option Nat :=
  match s.walk slot (BitVec.ofNat 64 va) with
  | .ok l => some (leafPa l (BitVec.ofNat 64 va))
  | .fail _ _ _ => none

/-- The descriptor and the argument block of a packet (R372): none where an address does not translate or the descriptor
fails R84. -/
def State.launchParts (s : State) (p : Packet64) : Option (Nat × Packet64 × Packet64) :=
  let slot : BitVec 4 := p.extractLsb' 48 4
  match s.mortanPa slot (field p 272 56) with
  | none => none
  | some d =>
    let world := if s.prot slot.toNat then 1 else 0
    let desc : Packet64 := ofBytes 512 ((s.homeReads (busAcc world) d 64).map Prod.fst)
    let args : Option Packet64 :=
      if field p 328 56 = 0 then some 0
      else match s.readVA slot (BitVec.ofNat 64 (field p 328 56)) 64 with
        | .ok l => some (ofBytes 512 (l.map Prod.fst))
        | .error _ => none
    match args with
    | none => none
    | some a =>
      let a1 := if p.getLsbD 218 then setField a (64 * field p 215 3) 64 (field desc 384 64) else a
      if descOk desc ∧ d % 64 = 0 then some (d, desc, a1) else none

/-- RSTAT of a packet (R372, R373): 2 malformed, 3 stale generation, 4 parent not live, else 1. A sealed parent takes no
child (R367). (DEDUCED, log 58) -/
def State.launchStat (s : State) (p : Packet64) : Nat :=
  let slot : BitVec 4 := p.extractLsb' 48 4
  let par := s.wobj (field p 220 12)
  if launchBad p then 2
  else if p.extractLsb' 52 12 ≠ s.gen slot then 3
  else if p.getLsbD 219 ∧ !(woState par == 1 && woSlot par == slot && !par.getLsbD 226) then 4
  else if (s.launchParts p).isNone then 2
  else 1

/-- The bind record of a unit (R373, R374). LID is the launch object's number. -/
def bindRecord (p desc : Packet64) (obj : BitVec 12) (desca uid : Nat) (x : Place) : Packet64 :=
  BitVec.ofNat 512 (x.savea.toNat / 4096 * 4096 * 2 ^ 448 + x.arga.toNat / 64 * 64 * 2 ^ 384 + desca * 2 ^ 320 + uid * 2 ^ 288 +
    obj.toNat * 2 ^ 276 + x.dbase.toNat * 2 ^ 264 + field desc 96 12 * 2 ^ 252 + (if x.dload then 2 ^ 251 else 0) +
    field p 213 2 * 2 ^ 249 + field p 48 4 * 2 ^ 244 + field p 52 12 * 2 ^ 232 + obj.toNat * 2 ^ 128 + 2 ^ 8)

/-- The pending entry of a core that a record may go to: the lowest that does not wait. -/
def State.freePending (s : State) (core : Nat) : Option Nat :=
  ((List.range 8).map (· + 4)).find? fun e => !(s.core core).goPend.contains e

/-- A place a unit may be bound to (R373): a core of the packet's slot in an allowed cluster. (DESIGN CHOICE, log 59) -/
def State.placeOk (s : State) (p : Packet64) (x : Place) : Bool :=
  s.coreSlot x.core == p.extractLsb' 48 4 && decide (x.core < 128) &&
    (field p 232 16 == 0 || p.getLsbD (232 + x.core / 8))

/-- The row or pending entry of a place that takes a record now: a row whose context is free and that awaits no dispatch. -/
def State.placeFree (s : State) (x : Place) : Option Nat :=
  match x.row with
  | some i =>
    if (s.ctx (4 * x.core + i % 4)).st = .free ∧ !(s.core x.core).goRows.contains (i % 4) then some (i % 4) else none
  | none => s.freePending x.core

/-- Bind records are written for the units of a launch in order, into the places that can take one (R373). (DESIGN CHOICE, log
59) -/
def State.launchPlaces (s : State) (l : LaunchRest) (places : List Place) : LaunchRest × State :=
  let world := if s.prot (field l.pkt 48 4) then 1 else 0
  places.foldl (fun (acc : LaunchRest × State) x =>
    if field l.pkt 248 24 ≤ acc.1.uid ∨ acc.2.placeOk l.pkt x = false then acc
    else
      match acc.2.placeFree x with
      | none => acc
      | some k =>
        let y := acc.2.homeWrites (busAcc world) (x.arga.toNat / 64 * 64) (bytesOf l.args 64)
        ({ acc.1 with uid := acc.1.uid + 1 }, y.go x.core k (bindRecord l.pkt l.desc l.obj l.desca acc.1.uid x))) (l, s)

/-- A launch goes on: records for the places given; what is left waits for the queue's next turn, and a launch whose generation
has ended gets no more (R373). (DESIGN CHOICE, log 59) -/
def State.launchOn (s : State) (l : LaunchRest) (places : List Place) : State :=
  let s0 := { s with hub := { s.hub with launches := s.hub.launches.erase l } }
  if l.pkt.extractLsb' 52 12 ≠ s.gen (l.pkt.extractLsb' 48 4) then s0
  else
    let (r, s1) := s0.launchPlaces l places
    if r.uid < field l.pkt 248 24 then { s1 with hub := { s1.hub with launches := s1.hub.launches ++ [r] } } else s1

/-- The launch whose records Mortan is writing for a queue (R373). -/
def State.launchOf (s : State) (wq : Nat) : Option LaunchRest := s.hub.launches.find? fun l => l.wq == wq

/-- LAUNCH_PACKET (R372, R373): Mortan goes on with the records of the queue's launch, if some are not written; else it takes
the next packet of an enabled work queue, as its LAP matches; creates the launch object at a free entry of its choice, or
refuses the packet; writes RSTAT and OBJ and then RIDX; and writes bind records. (DESIGN CHOICE, log 59) -/
def execLaunchPacket (wq : Nat) (obj : BitVec 12) (places : List Place) (s : State) : Host.Outcome State Fault Refusal :=
  match s.launchOf wq with
  | some l => .next (s.launchOn l places)
  | none =>
  let cfg := s.wqcfg wq
  let i := (s.physWord (eqBase cfg + 8)).toNat
  let pa := entryAddr cfg i
  let p : Packet64 := ofBytes 512 ((s.homeReads hwAcc pa 64).map Prod.fst)
  if 64 ≤ wq ∨ !eqEn cfg ∨ (s.physWord (eqBase cfg)).toNat ≤ i ∨ field p 29 3 ≠ i / eqSize cfg % 8 then .next s
  else
    let stat := s.launchStat p
    if stat = 1 ∧ woState (s.wobj obj.toNat) ≠ 0 then .next s
    else
      let par := field p 220 12
      let s1 := if stat ≠ 1 then s
        else
          let o := s.wobj par
          let s0 := if p.getLsbD 219 then s.setWobj par (setField o 240 32 (min (woPend o + 1) (2 ^ 32 - 1))) else s
          s0.setWobj obj.toNat (woMade (launchObject p))
      let p1 := setField (setField p 76 4 stat) 64 12 (if stat = 1 then obj.toNat else 0)
      let s2 := s1.homeWrites hwAcc pa (bytesOf p1 64)
      let s3 := s2.homeWrites hwAcc (eqBase cfg + 8) (bytesOf (BitVec.ofNat 64 (i + 1)) 8)
      match if stat = 1 then s.launchParts p else none with
      | none => .next s3
      | some (d, desc, args) => .next (s3.launchOn ⟨wq, p, desc, args, obj, d, 0⟩ places)

/-- MODULE_DOWN_NOTICE (R340, R352, R355 to R357): ends, journals and rings that hang on module F act; requests to F find no
route from now on (R293). -/
def execModuleDownNotice (f : BitVec 12) (s : State) : Host.Outcome State Fault Refusal :=
  let s1 := if s.hub.downMods.contains f then s else { s with hub := { s.hub with downMods := s.hub.downMods ++ [f] } }
  .next ((s1.streamsDown f).belayDown f)

end Sys2Proof.Machine
end

