-- ==== Sys2Proof/Machine/Registers.lean ====
section
/-! DEFINITION. The register blocks (R439): reading and writing every register by its offset, with the windows of R388;
accesses from the host link and the general-purpose cores (R312, R442). -/

namespace Sys2Proof.Machine

/-- Word k of a record. -/
def wordAt {w : Nat} (x : BitVec w) (k : Nat) : Word := x.extractLsb' (64 * k) 64
/-- A record with word k replaced. -/
def setWordAt (x : Packet64) (k : Nat) (v : Word) : Packet64 := setField x (64 * k) 64 v.toNat

/-- A deque entry's word (R388): task, launch, slot, generation, held. -/
def taskBits (t : Task) : Packet64 :=
  BitVec.ofNat 512 (t.word.toNat + t.lobj.toNat * 2 ^ 256 + t.slot.toNat * 2 ^ 268 + t.gen.toNat * 2 ^ 272 +
    (if t.held.isSome then 2 ^ 284 else 0))

/-- Deque entry e of a core (R388); 0 where it holds none. -/
def Core.dqEntry (k : Core) (e : Nat) : Packet64 :=
  let head := field k.dqWord 0 8
  match k.deque[(e + 256 - head) % 256]? with
  | some t => taskBits t
  | none => 0

/-- The forwarding record of one kind as the window shows it (R328, R388): the end as it left, moving; or as it was closed. -/
def StreamEntry.fwdShown (e : StreamEntry) (cons : Bool) : Option EndRec :=
  if (e.fwd cons).isSome then (e.shown cons).map fun r => { r with state := 1 } else e.shown cons

/-- The stream table's window (R388): entry e is the e-th in rising order of name; producer, consumer, forwarding records, each by
R328. A stale record reads as absent. (DEDUCED, log 44) -/
def State.streamWord (s : State) (e k : Nat) : Word :=
  match s.hub.streams[e]? with
  | none => 0
  | some (key, t) =>
    let x : StreamId := ⟨BitVec.ofNat 12 (key / 65536), BitVec.ofNat 16 key⟩
    let cons := k / 4 % 2 == 1
    let held := if k / 4 < 2 then t.endOf cons else t.fwdShown cons
    match held with
    | none => 0
    | some r => if r.gen = s.gen r.slot then wordAt (r.bits x cons) (k % 4) else 0

/-- The journal table's window (R388): a stale entry reads as absent. -/
def State.journalWord (s : State) (j k : Nat) : Word :=
  match s.hub.journals.find? fun e => e.1 == j with
  | none => 0
  | some (_, x) => if x.live && x.gen == s.gen x.slot then wordAt (s.journalBits j x) k else 0

/-- The tenancy registers (R302, R306, R320). (DESIGN CHOICE, log 3) -/
def State.readTenancy (s : State) (off : Nat) : Word :=
  if off < 0x3200 then
    let t := s.tslot ((off - 0x3000) / 32)
    match off % 32 with
    | 0 => t.gens
    | 8 => t.root
    | 16 => t.ctl
    | _ => 0
  else if 0x3400 ≤ off ∧ off < 0x3800 then
    BitVec.ofNat 64 ((s.coreSlot ((off - 0x3400) / 8)).toNat + (if (s.core ((off - 0x3400) / 8)).slotBusy then 2 ^ 63 else 0))
  else if off = 0x3800 then s.hubReg 0x3800
  else if off = 0x3808 then s.swstat
  else if 0x3810 ≤ off ∧ off < 0x3830 then s.swposReg ((off - 0x3810) / 8)
  else 0

/-- The per-core registers of the hub (R392, R397, R404). -/
def State.readCoreReg (s : State) (off : Nat) : Word :=
  if off < 0x8400 then (s.core ((off - 0x8000) / 8)).tqcfg
  else if 0x9000 ≤ off ∧ off < 0xA000 then s.tctl ((off - 0x9000) / 32) ((off - 0x9000) / 8 % 4)
  else if 0xA000 ≤ off ∧ off < 0xA800 then
    let k := s.core ((off - 0xA000) / 16)
    if off % 16 = 0 then k.csave else k.crest
  else 0

/-- The caddy's registers (R420, R428, R430, R431). -/
def State.readCaddy (s : State) (off : Nat) : Word :=
  if off < 0xB080 then s.wldcfgReg ((off - 0xB000) / 8)
  else if off = 0xB080 then s.hubReg off
  else if 0xB100 ≤ off ∧ off < 0xB160 then wordAt (Tab.get 0 s.hub.caddy.meas ((off - 0xB100) / 32)) (off / 8 % 4)
  else if off = 0xB400 ∨ off = 0xB480 ∨ off = 0xB500 then Tab.get 0 s.hub.caddy.mbox ((off - 0xB400) / 128)
  else 0

/-- The windows on scheduling state (R388). -/
def State.readWindow (s : State) (off : Nat) : Word :=
  if off < 0x140000 then wordAt (s.wobj ((off - 0x100000) / 64)) (off / 8 % 8)
  else if 0x200000 ≤ off ∧ off < 0x220000 then
    let i := off % 1024 / 64
    if i < 12 then wordAt (s.row ((off - 0x200000) / 1024) i) (off / 8 % 8) else 0
  else if 0x220000 ≤ off ∧ off < 0x220400 then (s.core ((off - 0x220000) / 8)).dqWord
  else if 0x240000 ≤ off ∧ off < 0x440000 then
    wordAt ((s.core ((off - 0x240000) / 16384)).dqEntry (off % 16384 / 64)) (off / 8 % 8)
  else if 0x480000 ≤ off ∧ off < 0x4C0000 then
    BitVec.ofNat 64 (s.sem ((off - 0x480000) / 2048) (BitVec.ofNat 8 (off % 2048 / 8)))
  else if 0x4C0000 ≤ off ∧ off < 0x4D0000 then BitVec.ofNat 64 (s.jc ((off - 0x4C0000) / 512) (off % 512 / 8))
  else if 0x800000 ≤ off ∧ off < 0x1000000 then s.streamWord ((off - 0x800000) / 128) (off / 8 % 16)
  else if 0x1000000 ≤ off ∧ off < 0x1040000 then s.journalWord ((off - 0x1000000) / 64) (off / 8 % 8)
  else 0

/-- A hub register as it reads, at an 8-byte offset (R439). -/
def State.readHub (s : State) (off : Nat) : Word :=
  if off < 0x3000 then s.hubReg off
  else if off < 0x4000 then s.readTenancy off
  else if off < 0x6000 then s.hubReg off
  else if off < 0x6200 then s.wqcfg ((off - 0x6000) / 8)
  else if off = 0x7000 then s.hubReg off
  else if 0x7040 ≤ off ∧ off < 0x7080 then wordAt s.hub.wostage ((off - 0x7040) / 8)
  else if 0x8000 ≤ off ∧ off < 0xB000 then s.readCoreReg off
  else if 0xB000 ≤ off ∧ off < 0xC000 then s.readCaddy off
  else if off = 0xC000 ∨ off = 0xC008 ∨ off = 0xC010 ∨ off = 0xC018 then s.hubReg off
  else if 0x100000 ≤ off then s.readWindow off
  else 0

/-- A register of a die's memory-system block as it reads (R120, R140, R265, R307, R418). -/
def State.readMs (s : State) (d off : Nat) : Word :=
  let die := s.die d
  if off < 0x400 then (Tab.get (0xFFFF : BitVec 16) die.wmask (off / 8)).setWidth 64
  else if off < 0x800 then BitVec.ofNat 64 (s.l2occ d ((off - 0x400) / 128) (off / 8 % 16))
  else if 0x1000 ≤ off ∧ off < 0x1800 then (s.eq (32 * d + (off - 0x1000) / 64) (off / 8 % 8)).read
  else if off = 0x2000 then die.blkasn
  else if off = 0x2008 then BitVec.ofNat 64 (d * 2 ^ 37 + tableBlock * 65536)
  else if 0x2200 ≤ off ∧ off < 0x2300 then die.laneReg ((off - 0x2200) / 8)
  else if off = 0x2300 then die.rtctl
  else if off = 0x2400 then die.sdva
  else if off = 0x2408 then die.sdctl
  else if isErrCounter off ∨ isErrLast off then Tab.get 0 die.regs off
  else 0

/-- A register as it reads. -/
def State.readReg (s : State) (b : RegBlock) (off : Nat) : Word :=
  match b with
  | .hub => s.readHub off
  | .ms d => s.readMs d.toNat off

/-- A register that stores its fields unless a reserved bit is set. -/
def State.storeHub (s : State) (off : Nat) (v res : Word) : State := if v &&& res ≠ 0 then s else s.setHubReg off v

/-- Reserved bits of TSROOT, KRBASE, SBPOOL, BJHOST and KROWN. -/
def resMask (lo n lo2 n2 : Nat) : Word := BitVec.ofNat 64 (maskBits lo n + maskBits lo2 n2)

/-- Writes below 0x3000 (R288, R289, R299). -/
def State.writeLow (s : State) (off : Nat) (v : Word) : State :=
  if off = 8 then (if v = 0 ∨ 1000 < v.toNat then s else s.setHubReg 8 v)
  else if off = 0x10 then s.setHubReg 0x10 0
  else if off = 0x18 then s.storeHub 0x18 v (resMask 39 25 0 13)
  else if 0x100 ≤ off ∧ off < 0x180 then
    if field v 24 37 ≠ 0 then s else (s.setHubReg off v).revokeFabric (BitVec.ofNat 4 ((off - 0x100) / 8))
  else if 0x1000 ≤ off ∧ off < 0x2000 then s.setHubReg off v
  else if 0x2000 ≤ off ∧ off < 0x2200 then s.storeHub off v (resMask 16 47 0 0)
  else s

/-- Writes of the tenancy registers (R302, R303, R306, R320). -/
def State.writeTenancy (s : State) (off : Nat) (v : Word) : State :=
  if off < 0x3200 then
    let t := (off - 0x3000) / 32
    match off % 32 with
    | 8 => if v &&& resMask 39 25 0 14 ≠ 0 then s else s.modTslot t fun x => { x with root := v }
    | 16 => s.genAdvance (BitVec.ofNat 4 t) v
    | _ => s
  else if 0x3400 ≤ off ∧ off < 0x3800 then s.coreslotChange ((off - 0x3400) / 8) v
  else if off = 0x3800 then s.swctl v
  else s

/-- The value a state has after a meaning, which always goes on. -/
def nextOf (s : State) : Host.Outcome State Fault Refusal → State
  | .next t => t
  | .fault _ => s
  | .refused _ => s

/-- Writes of the per-core registers (R392, R397, R404). -/
def State.writeCoreReg (s : State) (off : Nat) (v : Word) : State :=
  if off < 0x8400 then
    if v &&& resMask 39 20 0 12 ≠ 0 then s else s.modCore ((off - 0x8000) / 8) fun k => { k with tqcfg := v }
  else if 0x9000 ≤ off ∧ off < 0xA000 then s.tctlCmd ((off - 0x9000) / 32) ((off - 0x9000) / 8 % 4) v
  else if 0xA000 ≤ off ∧ off < 0xA800 then
    let core := (off - 0xA000) / 16
    nextOf s (if off % 16 = 0 then execCsave core v s else execCrest core v s)
  else s

/-- Writes of the caddy's registers (R420, R428, R430). (DEDUCED, log 44) -/
def State.writeCaddy (s : State) (off : Nat) (world : BitVec 2) (v : Word) : State :=
  if off < 0xB080 then s.wldcfgWrite (BitVec.ofNat 4 ((off - 0xB000) / 8)) world v
  else if off = 0xB080 then s.setHubReg 0xB080 0
  else if off = 0xB400 ∨ off = 0xB480 ∨ off = 0xB500 then s.mboxCmd (BitVec.ofNat 2 ((off - 0xB400) / 128)) world v
  else s

/-- A hub register written (R439). -/
def State.writeHub (s : State) (off : Nat) (world : BitVec 2) (v : Word) : State :=
  if off < 0x3000 then s.writeLow off v
  else if off < 0x4000 then s.writeTenancy off v
  else if off < 0x4080 then s.storeHub off v (resMask 39 24 0 0)
  else if 0x5000 ≤ off ∧ off < 0x5080 then s.storeHub off v (resMask 16 47 0 0)
  else if 0x6000 ≤ off ∧ off < 0x6200 then s.wqcfgWrite ((off - 0x6000) / 8) v
  else if off = 0x7000 then s.woctl v
  else if 0x7040 ≤ off ∧ off < 0x7080 then
    { s with hub := { s.hub with wostage := setWordAt s.hub.wostage ((off - 0x7040) / 8) v } }
  else if 0x8000 ≤ off ∧ off < 0xB000 then s.writeCoreReg off v
  else if 0xB000 ≤ off ∧ off < 0xC000 then s.writeCaddy off world v
  else if 0x200000 ≤ off ∧ off < 0x220000 then
    let core := (off - 0x200000) / 1024
    let i := off % 1024 / 64
    if i < 12 then s.go core i (setWordAt (s.row core i) (off / 8 % 8) v) else s
  else s

/-- A register of a die's memory-system block written (R120, R140, R265, R307, R418). -/
def State.writeMs (s : State) (d off : Nat) (v : Word) : State :=
  if off < 0x400 then
    if field v 16 48 ≠ 0 then s
    else s.modDie d fun x => { x with wmask := Tab.put 0xFFFF x.wmask (off / 8) (v.setWidth 16) }
  else if 0x1000 ≤ off ∧ off < 0x1800 then
    s.modEq (32 * d + (off - 0x1000) / 64) (off / 8 % 8) fun x => x.writeCfg (fun c => (s.physWord (eqBase c + 8)).toNat) v
  else if off = 0x2000 then s.blockReassign d v
  else if off = 0x2300 then s.rtctlWrite d v
  else if off = 0x2400 then (if v &&& resMask 56 8 0 12 ≠ 0 then s else s.modDie d fun x => { x with sdva := v })
  else if off = 0x2408 then s.shootdown d v
  else s.errWrite d off v

/-- A register written, from a world (R439). (DEDUCED, log 44) -/
def State.writeReg (s : State) (b : RegBlock) (off : Nat) (world : BitVec 2) (v : Word) : State :=
  match b with
  | .hub => s.writeHub off world v
  | .ms d => s.writeMs d.toNat off v

/-- REGISTER_WRITE (R439): the register at an offset takes what its own rule lets it take. -/
def execRegisterWrite (blk : RegBlock) (off : BitVec 25) (v : Word) (s : State) : Host.Outcome State Fault Refusal :=
  .next (if off.toNat % 8 = 0 then s.writeReg blk off.toNat 0 v else s)

/-- The register block an address lies in, and the offset (R439). -/
def blockAddr (pa : Nat) : Option (RegBlock × Nat) :=
  if 0x1F80000000 ≤ pa ∧ pa < 0x1F82000000 then some (.hub, pa - 0x1F80000000)
  else if 0x1F00000000 ≤ pa % 2 ^ 37 ∧ pa % 2 ^ 37 < 0x1F00010000 then
    some (.ms (BitVec.ofNat 2 (pa / 2 ^ 37)), pa % 2 ^ 37 - 0x1F00000000)
  else none

/-- One byte as an outside agent reads it: a register, device memory, or zero at another address (R312, R442). -/
def State.busByte (s : State) (world pa : Nat) : Byte :=
  match blockAddr pa with
  | some (b, off) => (s.readReg b (off / 8 * 8)).extractLsb' (8 * (off % 8)) 8
  | none => if populated pa then (s.homeRead (busAcc world) pa).1 else 0

/-- Up to eight bytes of an outside agent's write within one doubleword (R312, R439, R442). -/
def State.busPart (s : State) (world : BitVec 2) (pa : Nat) (part : List Byte) : State :=
  match blockAddr pa with
  | some (b, off) => if part.length = 8 then s.writeReg b off world (ofBytes 64 part) else s
  | none => if populated pa then s.homeWrites (busAcc world.toNat) pa part else s

/-- Bytes written by an outside agent (R312, R442): whole aligned words of a register block, device memory; another
unpopulated address takes nothing. A piece of a register is not written. (DEDUCED, log 44) -/
def State.busWrite (s : State) (world : BitVec 2) : Nat → Nat → List Byte → State
  | 0, _, _ => s
  | _, _, [] => s
  | fuel + 1, pa, l =>
    let n := 8 - pa % 8
    (s.busPart world pa (l.take n)).busWrite world fuel (pa + n) (l.drop n)

/-- An outside agent's access (R312, R442). -/
def State.busAccess (s : State) (a : BusAccess) (world : BitVec 2) : State :=
  if a.write then s.busWrite world (a.data.length + 1) a.pa.toNat a.data
  else s.answerOut ((List.range a.n).map fun i => s.busByte world.toNat (a.pa.toNat + i))

/-- HOST_ACCESS (R442): under no slot, in the normal world. -/
def execHostAccess (a : BusAccess) (s : State) : Host.Outcome State Fault Refusal := .next (s.busAccess a 0)

/-- GENERAL_PURPOSE_CORE_ACCESS (R312, R419): under no slot, in the world of the core; world 3 is never issued, and a packet
that carries it is dropped and counted. -/
def execGeneralPurposeCoreAccess (a : BusAccess) (s : State) : Host.Outcome State Fault Refusal :=
  .next (if a.world = 3 then s.countAuth else s.busAccess a a.world)

end Sys2Proof.Machine
end

