-- ==== Sys2Proof/Machine/Device.lean ====
section
/-! DEFINITION. The management port (R443), the power step (R444 to R447), boot (R440, R441), power-fail and the ways
back (R448 to R450). -/

namespace Sys2Proof.Machine

/-- LEVEL of PSCTL (R445). -/
def State.level (s : State) : Nat := field (s.hubReg 0xC000) 0 4
/-- TARGET of PSCTL (R445). -/
def State.psTarget (s : State) : Nat := field (s.hubReg 0xC000) 4 4
/-- The core clock of a level in MHz (R446). -/
def clockOf (level : Nat) : Nat :=
  match level with
  | 8 => 3000 | 7 => 2700 | 6 => 2400 | 5 => 2100 | 4 => 1800 | 3 => 1500
  | _ => if level ≤ 2 then 1200 else 3300

/-- PSCTL: BUSY, SRC, TARGET and LEVEL (R445). -/
def State.putPsctl (s : State) (busy : Bool) (src level target : Nat) : State :=
  s.setHubReg 0xC000 (BitVec.ofNat 64 ((if busy then 2 ^ 63 else 0) + src * 2 ^ 60 + target * 2 ^ 4 + level))
/-- PSCTL with a level and a target: BUSY until they are the same and the clock is the level's (R445, R447). -/
def State.setPsctl (s : State) (src level target : Nat) : State :=
  s.putPsctl (level != target || s.mhz != clockOf level) src level target
/-- SRC of PSCTL. -/
def State.psSrc (s : State) : Nat := field (s.hubReg 0xC000) 60 3

/-- POWER_STEP_PINS (R445): the pins command a level, and win over a datagram of the same tick. -/
def execPowerStepPins (level : BitVec 4) (s : State) : Host.Outcome State Fault Refusal :=
  let s1 := s.setPsctl 1 s.level level.toNat
  .next { s1 with hub := { s1.hub with pinTime := some s.dtime } }

/-- The CMAC of a datagram under the power-step key (R443): over the level, three zeros and the sequence number. -/
def State.datagramMac (s : State) (d : PowerDatagram) : Option (BitVec 64) :=
  s.hub.caddy.psKey.map fun k => macWord k (bytesOf (d.level.setWidth 32) 4 ++ bytesOf d.seq 4)

/-- A datagram is accepted (R443): source, CMAC under an installed key, a newer sequence number, a level; none after a failed boot
(R440). -/
def State.datagramOk (s : State) (d : PowerDatagram) : Bool :=
  !s.bootFailed && s.hub.psaddr.contains d.src && s.datagramMac d == some d.mac &&
    decide ((s.hubReg 0xC018).toNat < d.seq.toNat) && decide (d.level.toNat ≤ 15) && d.zeros

/-- A power-step datagram (R443, R445). -/
def State.datagram (s : State) (d : PowerDatagram) : State :=
  if !s.datagramOk d then s
  else
    let s1 := s.setHubReg 0xC018 (d.seq.setWidth 64)
    if s.hub.pinTime = some s.dtime then s1 else s1.setPsctl 2 s1.level d.level.toNat

/-- POWER_STEP_DATAGRAM (R443, R445). -/
def execPowerStepDatagram (d : PowerDatagram) (s : State) : Host.Outcome State Fault Refusal := .next (s.datagram d)

/-- MANAGEMENT_FRAME (R435, R443): to the verifier queue, the power step or the on-die kernel; after a failed boot only
verifier messages are taken (R440). -/
def execManagementFrame (f : Frame) (s : State) : Host.Outcome State Fault Refusal :=
  .next (match f with
  | .verifier k m => s.verifierArrival k m
  | .power d => s.datagram d
  | .other l => if s.bootFailed then s else { s with hub := { s.hub with frames := s.hub.frames ++ [l] } })

/-- A core that level 0 parks (R446): cores 4 to 7 of every cluster. -/
def parkable (core : Nat) : Bool := decide (4 ≤ core % 8)

/-- Parking (R446): PRE is set in every row of the core, whose clock stops once its contexts are saved or free. -/
def State.park (s : State) (core : Nat) : State :=
  let s1 := (List.range 4).foldl (fun x i =>
    (x.setRow core i (setField (x.row core i) 7 1 1)).modCtx (4 * core + i) fun c => { c with pre := c.st != .free }) s
  s1.modCore core fun k => { k with parked := true }

/-- Every core parks, or none (R446, R447). -/
def State.parkAll (s : State) (on : Bool) : State :=
  ((List.range 128).filter parkable).foldl (fun x c =>
    if on then x.park c else x.modCore c fun k => { k with parked := false }) s

/-- CEILING_APPLY (R446, R447): the next ceiling towards the target is applied or lifted. The clock moves 100 MHz at a time: on
the way down a level is reached with its clock; on the way up the level goes first, so that the clock is never above LEVEL's.
(DEDUCED, log 64) -/
def execCeilingApply (s : State) : Host.Outcome State Fault Refusal :=
  let l := s.level
  let t := s.psTarget
  if t < l then
    let n := l - 1
    if clockOf n < s.mhz then .next { s with mhz := max (clockOf n) (s.mhz - 100) }
    else .next ((if n = 0 then s.parkAll true else s).setPsctl s.psSrc n t)
  else if s.mhz < clockOf l then .next { s with mhz := min (clockOf l) (s.mhz + 100) }
  else if l < t then .next ((if l = 0 then s.parkAll false else s).setPsctl s.psSrc (l + 1) t)
  else .next (s.setPsctl s.psSrc l t)

/-- A context stands still for a power-fail (R448): free, stopped, or at its point of pre-emption. -/
def State.powerQuiet (s : State) (ci : Nat) : Bool :=
  match (s.ctx ci).st with
  | .free => true
  | .stopped => (s.ctx ci).path.isEmpty && (s.ctx ci).loads.isEmpty
  | _ => s.savePoint ci

/-- Every context and every macro queue stands still (R448). -/
def State.allQuiet (s : State) : Bool :=
  s.ctxs.all (fun c => s.powerQuiet c.1) && s.cores.all fun k => k.2.mops.isEmpty && k.2.macts.isEmpty

/-- Caches written back and empty (R448 step 3). -/
def State.flushAll (s : State) : State :=
  let s1 := s.flushLines fun _ => true
  { s1 with dies := s1.dies.map fun d => (d.1, { d.2 with l2 := [] }) }

/-- The drain completes (R448 steps 3 to 6). -/
def State.drainDone (s : State) (p : Power) : State :=
  let s1 := s.flushAll.sealKeys
  { s1 with hub := { s1.hub with power := p } }

/-- The start of a power-fail (R448 steps 1 and 2): admission stops, any power-step transition is abandoned, blocked
contexts roll back at once. -/
def State.failStart (s : State) : State :=
  let n := (field (s.hubReg 0xC008) 0 32 + 1) % 2 ^ 32
  let s1 := (s.setHubReg 0xC008 (setField (s.hubReg 0xC008) 0 32 n)).putPsctl false s.psSrc s.level s.level
  let s2 := { s1 with hub := { s1.hub with power := .failing none, down := true } }
  (s2.ctxs.map (·.1)).foldl (fun x ci =>
    x.failBlocked ci) s2

/-- A core whose issuing context stands at its cairn in a power-fail goes to a context that has not reached its own (R448): all are
to stop at theirs. (DEDUCED, log 64) -/
def State.failSwitch (s : State) (core : Nat) : State :=
  match (s.core core).issuing with
  | none => s
  | some i =>
    let ci := 4 * core + i
    if (s.ctx ci).st = .issuing ∧ s.savePoint ci = true ∧ (s.bestReady core).isSome then
      (s.modCtx ci fun c => { c with st := .ready }).switchFrom core s.cycle
    else s

/-- SELF_REFRESH_EXPIRY (R450): power has not returned within the window. -/
def execSelfRefreshExpiry (s : State) : Host.Outcome State Fault Refusal :=
  .next (match s.hub.power with
  | .refresh => { s with hub := { s.hub with power := .lost } }
  | _ => s)

/-- A configuration blob in its ranges (R441). -/
def blobOk (b : BootBlob) : Bool :=
  decide (b.spare.toNat ≤ 1024) && decide (60 ≤ b.dlsec.toNat) && decide (b.dlsec.toNat ≤ 172800) &&
    decide (b.psaddr.length ≤ 8)

/-- The image that fails verification (R440, R441): the blob is image 4. -/
def blobFails (b : BootBlob) : Option Nat :=
  match b.imagesOk with
  | some i => some i
  | none => if blobOk b then none else some 4

/-- BOOTSTAT (R440). -/
def State.setBootstat (s : State) (phase err : Nat) : State := s.setHubReg 0xC010 (BitVec.ofNat 64 (err * 2 ^ 8 + phase))

/-- The configuration blob is applied (R441). -/
def State.applyBlob (s : State) (b : BootBlob) : State :=
  let s1 := (s.setHubReg 0 (b.fabmod.setWidth 64)).setHubReg 0x3800 (b.dlsec.setWidth 64)
  let s2 := { s1 with hub := { s1.hub with psaddr := b.psaddr, drain := b.drain } }
  (List.range 4).foldl (fun x d => x.modDie d fun y => y.setRtctl (setField y.rtctl 41 11 b.spare.toNat)) s2

/-- The registers of a die that a cold start keeps (R418, R449): the error logs. -/
def keepLogs (t : Tab Word) : Tab Word := t.filter fun e => isErrCounter e.1 || isErrLast e.1

/-- What a cold start finds of the persistent set (R322, R449): generations and floors, worlds, streams, journals, logs,
the power step; nothing where no valid set was drained. -/
def State.persistent (s : State) (valid : Bool) : State :=
  let h := s.hub
  let base := State.reset
  if !valid then base
  else
    { base with
      hub := { base.hub with
        slots := h.slots.map fun e => (e.1, { e.2 with pstart := e.2.gen, busy := false, deny := false, root := 0 })
        wldcfg := h.wldcfg.filterMap fun e => if e.2.getLsbD 63 then some (e.1, 1 <<< 63) else none
        streams := h.streams
        chkNo := h.chkNo
        journals := h.journals.map fun e => (e.1, { e.2 with recs := [], sent := none })
        regs := Tab.set (Tab.set (Tab.set base.hub.regs 0xC000 (s.hubReg 0xC000 &&& BitVec.ofNat 64 (2 ^ 63 - 1))) 0xC018 (s.hubReg 0xC018)) 0xC008
          (s.hubReg 0xC008) }
      dies := s.dies.map fun d => (d.1, { regs := keepLogs d.2.regs }) }

/-- What the caddy keeps over a cold start (R429, R449): the seed, PLEAF, the certificates and their versions, the sleep key and
what is wrapped under it. -/
def Caddy.coldStart (c : Caddy) : Caddy :=
  { seed := c.seed, pleaf := c.pleaf, leaf := c.pleaf, certs := c.certs, vers := c.vers, sleepKey := c.sleepKey, wrapped := c.wrapped,
    kept := c.kept }

/-- The boot stops at an image that fails verification (R440): those before it have been measured (R431). -/
def State.bootStop (s : State) (b : BootBlob) (i : Nat) : State :=
  (s.modCaddy fun c => { c with meas := measureAll (b.images.take i) }).setBootstat 2 (i + 1)

/-- A cold start (R322, R440, R450). (DEDUCED, log 64) -/
def State.coldStart (s : State) (b : BootBlob) (valid : Bool) : State :=
  let p := s.persistent valid
  let s1 : State :=
    { p with
      cycle := s.cycle, dtime := s.dtime, tfrac := s.tfrac, seq := s.seq, agenda := s.agenda, fresh := s.fresh, out := s.out
      hub := { p.hub with caddy := s.hub.caddy.coldStart, keyNo := s.hub.keyNo, passStart := s.dtime } }
  match blobFails b with
  | some i => s1.drawBoot.bootStop b i
  | none =>
    let s2 := (s1.drawBoot.modCaddy fun c => { c with meas := measureAll b.images }).applyBlob b
    let s3 := { (if s2.level = 0 then s2.parkAll true else s2) with mhz := clockOf s2.level }
    (s3.setHubReg 0xC008 (setField (setField (s3.hubReg 0xC008) 62 1 1) 63 1 0)).setBootstat 7 0

/-- A context as an exact resume restores it (R122, R402, R450): its handles revoked, its shadow its state. -/
def Ctx.powerResume (c : Ctx) (cycle : Nat) : Ctx :=
  if c.st = .free then c
  else
    let c0 := c.landDue cycle
    let c1 := { c0 with replay := c0.replay.map Landing.restored }
    let b := { c1.bank with h := c1.bank.h.map fun e => (e.1, restoredHandle e.2.bits) }
    { c1 with bank := b, shadow := { bank := b, next := c1.next, wake := c1.wake } }

/-- A core as an exact resume leaves it before its dictionary and B slots come back (R450). -/
def Core.powerResume (k : Core) : Core :=
  { k with tc := [], walks := [], dict := [], issuing := none }

/-- The B slots of a core are reloaded from their sources (R405, R450). -/
def State.reloadSlots (s : State) (core : Nat) : State :=
  (List.range 128).foldl (fun x b =>
    let old := x.bslot core b
    if tagFmt old.tag = 0 then x
    else
      match x.reloadSlot core old.bits with
      | some y => x.setBslot core b y
      | none => x.setBslot core b { gen := x.coreGen core }) s

/-- The exact resume (R450): dictionaries, B slots, contexts; engines and the sweep go on where they stood. (DEDUCED, log 64) -/
def State.exactResume (s : State) : State :=
  let ctxs : Tab Ctx := s.ctxs.map fun e => (e.1, e.2.powerResume s.cycle)
  let cores : Tab Core := s.cores.map fun e => (e.1, e.2.powerResume)
  let s1 : State := { s with ctxs := ctxs, cores := cores, hub := { s.hub with power := .on, down := false } }
  let s2 := (s1.ctxs.map (·.1)).foldl (fun x ci =>
    if (x.ctx ci).st = .free then x else x.loadDict (ci / 4) (x.ctx ci).kern) s1
  let s3 := (s2.cores.map (·.1)).foldl State.reloadSlots s2
  let s4 := (s3.ctxs.map (·.1)).foldl (fun x ci =>
    match (x.ctx ci).st with
    | .free => x
    | .stopped => x
    | _ => x.makeReady ci) s3
  (s4.setHubReg 0xC008 (setField (setField (s4.hubReg 0xC008) 63 1 1) 62 1 0)).setBootstat 7 0

/-- The boot of an exact resume (R450): steps 1 to 3 of R440, which an image that fails stops; the signatures go on at PLEAF (R434);
where the drained set fails its check, the start is cold. -/
def State.bootResume (s : State) (b : BootBlob) : State :=
  let s1 := s.modCaddy fun c => { c with leaf := c.pleaf }
  match blobFails b with
  | some i => ({ s1 with hub := { s1.hub with power := .lost } } : State).bootStop b i
  | none =>
    if b.drainOk then ({ s1 with hub := { s1.hub with power := .resuming b } } : State).setBootstat 5 0 else s.coldStart b false

/-- POWER_FAIL (R448, R450): a power-fail begins; or its drain completes, once all stands still, and the boot follows where power
is back; a new one during an exact resume makes the start cold. (DEDUCED, log 64) -/
def execPowerFail (s : State) : Host.Outcome State Fault Refusal :=
  .next (match s.hub.power with
  | .on => s.failStart
  | .sleep => s.failStart
  | .failing back =>
    if s.allQuiet then
      match back with
      | none => s.drainDone .refresh
      | some b => (s.drainDone .refresh).bootResume b
    else (s.cores.map (·.1)).foldl State.failSwitch s
  | .resuming _ => { s with hub := { s.hub with power := .lost } }
  | .refresh => s
  | .lost => s)

/-- POWER_RETURN (R448, R450): within the window the boot re-measures, the keys return under R438 and the module resumes
exactly; after it the start is cold. -/
def execPowerReturn (b : BootBlob) (s : State) : Host.Outcome State Fault Refusal :=
  .next (match s.hub.power with
  | .on => s
  | .sleep => s
  | .failing _ => { s with hub := { s.hub with power := .failing (some b) } }
  | .refresh => s.bootResume b
  | .resuming b => (s.wakeKeys b.images true).exactResume
  | .lost => s.coldStart b b.drainOk)

/-- RESET_BOOT (R440): from reset the module boots; without a drained set it starts cold. (DEDUCED, log 64) -/
def execResetBoot (b : BootBlob) (s : State) : Host.Outcome State Fault Refusal :=
  .next (match s.hub.power with
  | .refresh => s.bootResume b
  | .lost => s.coldStart b b.drainOk
  | _ => s.coldStart b false)

end Sys2Proof.Machine
end

