-- ==== Sys2Proof/Machine/Tx.lean ====
section
/-! DEFINITION. The translate unit tx: xlat, hdrop, hchk (R116 to R119, R285), and the end of a table walk (R113, R116,
R121). -/

namespace Sys2Proof.Machine

/-- STATE codes of a handle (R114). -/
def HState.code : HState → Nat | .null => 0 | .pending => 1 | .valid => 2 | .revoked => 3

/-- The 128-bit image of a handle (R114). -/
def Handle.image (h : Handle) : BitVec 128 :=
  BitVec.ofNat 128 (h.va.toNat + h.pfn.toNat * 2 ^ 56 + h.st.code * 2 ^ 94 + (if h.rd then 2 ^ 97 else 0) +
    (if h.wr then 2 ^ 98 else 0) + (if h.sh then 2 ^ 99 else 0) + h.ps.toNat * 2 ^ 100 + h.gen.toNat * 2 ^ 104 +
    h.slot.toNat * 2 ^ 116 + h.key.toNat * 2 ^ 120)

/-- The handle of an image (R114). -/
def Handle.ofImage (x : BitVec 128) : Handle where
  key := x.extractLsb' 120 8
  slot := x.extractLsb' 116 4
  gen := x.extractLsb' 104 12
  ps := x.extractLsb' 100 4
  sh := x.getLsbD 99
  wr := x.getLsbD 98
  rd := x.getLsbD 97
  st := match field x 94 3 with | 1 => .pending | 2 => .valid | 3 => .revoked | _ => .null
  pfn := x.extractLsb' 56 27
  va := x.extractLsb' 0 56

/-- A walk begins, or is found to have failed before it begins (R113, R116, R285); the pending handle lands. -/
def State.xlatPending (s : State) (n : Nat) (va : Word) (failed : Option Nat) : State :=
  let (tok, s1) := s.newTok
  let slot := s.coreSlot s.cur.core
  let gen := s.coreGen s.cur.core
  let w : Walk := ⟨tok, s.cid, n, va, slot, gen, tok, s.me.pitch, s.cur.addr, false, failed, none, s.root slot⟩
  (s1.modMyCore fun k => { k with walks := k.walks ++ [w] }).land 2 9 12 [wrH n (pendingHandle slot gen va tok)]

/-- xlat: T is the virtual address, H the destination; latency 12 (R116). -/
def opXlat (f : OpM) (s : State) : Res State :=
  inSlot 2 do
    s.opens (.xlat f)
    if !s.guard f.g then pure s
    else do
      let t ← s.readT f.t
      let va := t.word
      let slot := s.coreSlot s.cur.core
      let gen := s.coreGen s.cur.core
      let n := f.h.toNat
      if inAperture va then
        let fs := s.fabslot slot
        if fs.getLsbD 63 then pure (s.land 2 9 12 [wrH n (fabricHandle slot gen va fs)])
        else pure (s.xlatPending n va (some 7))
      else if va.toNat / 2 ^ 56 ≠ 0 then pure (s.xlatPending n va (some 2))
      else
        match s.tcHit s.cur.core slot va with
        | some l => pure (s.land 2 9 12 [wrH n (leafHandle slot gen va l)])
        | none => pure (s.xlatPending n va none)
/-- xlat (R116). -/
def execXlat (f : OpM) (s : State) : Host.Outcome State Fault Refusal := settle s (opXlat f s)

/-- hdrop: the handle reads null from the next cycle (R117). -/
def opHdrop (f : OpM) (s : State) : Res State :=
  inSlot 2 do
    s.opens (.hdrop f)
    if !s.guard f.g then pure s
    else pure (s.land 2 9 1 [wrH f.h.toNat {}])
/-- hdrop (R117). -/
def execHdrop (f : OpM) (s : State) : Host.Outcome State Fault Refusal := settle s (opHdrop f s)

/-- hchk: the handle's bits 127:94 at bits 63:30, without blocking (R118); a poisoned handle cancels the bundle (R396). -/
def opHchk (f : OpM) (s : State) : Res State :=
  inSlot 2 do
    s.opens (.hchk f)
    if !s.guard f.g then pure s
    else do
      (if f.h = 15 then .ok () else s.intact (.h f.h.toNat) : Res Unit)
      let v : Word := ((s.handle f.h.toNat).image.extractLsb' 94 34).setWidth 64 <<< 30
      pure (s.land 2 9 2 ((s.wbS f.w).toList.map fun r => wr64 r v))
/-- hchk (R118). -/
def execHchk (f : OpM) (s : State) : Host.Outcome State Fault Refusal := settle s (opHchk f s)

/-- Whether a context still holds the pending handle of a token: in a register or on its way into one (R116). -/
def Ctx.holdsTok (c : Ctx) (tok : Nat) : Bool :=
  c.bank.h.any (fun e => e.2.st == .pending && e.2.tok == tok) ||
  c.flight.any fun l => l.writes.any fun w => match w.h with
    | some h => h.st == .pending && h.tok == tok
    | none => false

/-- A walk ends with a handle (R116, R121, R128): the register that still holds the pending or revoked handle takes it, or the
marked entry. -/
def State.walkGood (s : State) (core : Nat) (w : Walk) (h : Handle) : State :=
  let s1 := s.modCore core fun k => { k with walks := k.walks.filter fun x => x.id != w.id }
  if w.item.isSome then
    s1.modCtx w.ctx fun c =>
      { c with rel := c.rel.map fun x => if some (x.seq, x.unit) = w.item then x.withHandle h else x }
  else if w.again then
    s1.modCtx w.ctx fun c =>
      let old := Tab.get ({} : Handle) c.bank.h w.reg
      if old.st = .revoked ∧ old.va.setWidth 64 = w.va ∧ old.gen = w.gen then
        { c with bank := { c.bank with h := Tab.set c.bank.h w.reg h } }
      else c
  else s1.modCtx w.ctx fun c => c.mapHandle fun x => if x.st = .pending ∧ x.tok = w.tok then h else x

/-- The end of a walk (R113, R116, R119, R121), from the root as it began (R302): it reads its entries at their home; it fills the
translation cache and the handle, or is kept as failed for the point at which its fault is raised. -/
def State.walkEnd (s : State) (core : Nat) (w : Walk) : State :=
  let fail := fun (z : State) (sub : Nat) =>
    if w.again || (z.ctx w.ctx).holdsTok w.tok then
      z.modCore core fun k =>
        { k with walks := k.walks.map fun x => if x.id == w.id then { x with failed := some sub } else x }
    else z.modCore core fun k => { k with walks := k.walks.filter fun x => x.id != w.id }
  if inAperture w.va then
    let fs := s.fabslot w.slot
    if fs.getLsbD 63 then s.walkGood core w (fabricHandle w.slot w.gen w.va fs) else fail s 7
  else
    let z := s.touchWalk w.slot w.root w.va
    match s.walkBy w.slot w.root w.va with
    | .ok l =>
      let s1 := if w.gen = s.gen w.slot then z.tcAdd core w.slot w.va l else z
      s1.walkGood core w (leafHandle w.slot w.gen w.va l)
    | .fail sub _ _ => fail z sub

/-- WALK_COMPLETE (R116, R121). A walk that does not run does nothing. -/
def execWalkComplete (core walk : Nat) (s : State) : Host.Outcome State Fault Refusal :=
  match (s.core core).walks.find? fun w => w.id == walk && w.failed.isNone with
  | none => .next s
  | some w => .next (s.walkEnd core w)

end Sys2Proof.Machine
end

