-- ==== Sys2Proof/Machine/Release.lean ====
section
/-! DEFINITION. The release path (R149, R247, R249, R251): what each entry does when it acts, the release of a pitch, and
what acts after it (R168 to R171, R399); and the dirty-line FIFO (R136). -/

namespace Sys2Proof.Machine

/-- An entry of step 1 of a release (R149, R291). -/
def RelItem.isStep1 (x : RelItem) : Bool :=
  match x.body with
  | .store _ => true | .atomic .. => true | .fe _ _ => true | .cache .. => true | .rel _ => true | .rdrain => true
  | .remote _ => true | .bclose .. => true
  | _ => false

/-- A gated store. -/
def RelItem.isStore (x : RelItem) : Bool := match x.body with | .store _ => true | _ => false
/-- An entry that divides step 1 (R247). -/
def RelItem.divides (x : RelItem) : Bool := match x.body with | .rel _ => true | .rdrain => true | _ => false

/-- The order of step 1 (R128, R247): between two dividing entries, the stores in program order, then the other entries.
`seg` is the segment being read. -/
def arrange : List RelItem → List RelItem → List RelItem
  | seg, [] => seg.filter (·.isStore) ++ seg.filter fun x => !x.isStore
  | seg, x :: r =>
    if x.divides then (seg.filter (·.isStore) ++ seg.filter fun y => !y.isStore) ++ x :: arrange [] r
    else arrange (seg ++ [x]) r

/-- A pitch as it joins the release path (R149, R247). -/
def pitchRelOf (pitch : Nat) (rel : List RelItem) (sigs : List Sig) : PitchRel :=
  { pitch := pitch, step1 := arrange [] (rel.filter (·.isStep1)), step2 := rel.filter (fun x => !x.isStep1), sigs := sigs,
    begun := false }

/-- Change the oldest pitch on a context's release path. -/
def Ctx.modHead (c : Ctx) (f : PitchRel → PitchRel) : Ctx :=
  { c with path := match c.path with | [] => [] | p :: r => f p :: r }

/-- An entry's work, and whether it is done; one that is not done waits (R247). -/
abbrev Progress := State × Bool

/-- Loads issued before a rel that have not landed (R249). -/
def Ctx.loadsBefore (c : Ctx) (x : RelItem) : Bool :=
  c.loads.any (fun l => decide (l.seq < x.seq)) || c.remote.any fun t => decide (t.1 < x.tok)

/-- A rel in the release path (R249): it waits for loads, marks the FIFO, and waits until that has drained to the mark. The
context's earlier mloads read first; one of its own pitch reads when it is handed over (R257). (DEDUCED, log 35) -/
def State.relStep (s : State) (ci : Nat) (x : RelItem) (sc : Scope) : Progress :=
  let core := ci / 4
  match (s.ctx ci).path with
  | [] => (s, true)
  | p :: _ =>
    if !p.begun then
      if (s.ctx ci).loadsBefore x then (s, false)
      else
        let s0 := (s.settleMloads ci x.seq none).modCtx ci fun c => { c with relSeq := x.seq }
        if sc.code < 2 then (s0, true)
        else
          ((s0.modCtx ci fun c => c.modHead fun p => { p with begun := true }).modCore core fun k =>
            { k with fifo := k.fifo ++ [.marker ci p.pitch] }, false)
    else if (s.core core).fifo.contains (.marker ci p.pitch) then (s, false)
    else
      let s1 := if sc.code < 3 then s else s.wbRdc (dieOf core)
      if sc = .f ∧ !s1.remoteQuiet ci then (s1, false)
      else (s1.modCtx ci fun c => c.modHead fun p => { p with begun := false }, true)

/-- A store waits for the remote loads of its bundle (R257). -/
def Ctx.bundleReads (c : Ctx) (x : RelItem) : Bool := x.isStore && c.remote.any fun t => t.2.2 == x.seq

/-- A step-1 entry acts (R128, R133, R137, R249, R251, R291, R292). -/
def State.step1Item (s : State) (ci : Nat) (x : RelItem) : Progress :=
  let core := ci / 4
  if (s.ctx ci).bundleReads x then (s, false)
  else match x.body with
  | .store g => (((s.settleStore ci x.seq g).performStore core x.slot x.gen g).settleRest ci g, true)
  | .atomic op sc h _ pa t cmp _ =>
    let (old, m, s1) := (s.settleReads ci (x.seq + 1) (pa, 8)).atomicDo core op sc ⟨some x.slot, x.gen, true, h.key, 0⟩ h.sh pa t cmp
    ((s1.settleLoads ci (s.seq + 1) (pa, 8)).answer ci x.tok { data := old.setWidth 1024 } m, true)
  | .fe full line => (s.setLine core line x.slot x.gen full, true)
  | .cache inv _ _ pa _ => (if x.gen ≠ s.gen x.slot then s else if inv then s.dropL1Line core (pa / 1024) else s.wbL1Line core (pa / 1024), true)
  | .rel sc => s.relStep ci x sc
  | .rdrain => (s, s.remoteQuiet ci)
  | .remote r => if s.remoteRoom ci then (s.request ci x.tok r, true) else (s, false)
  | .bclose b sem inc => s.closeStep ci x b sem inc 200
  | _ => (s, true)

/-- A macc or mrel is handed to the matrix unit (R217). -/
def State.mactAdd (s : State) (core : Nat) (x : RelItem) (b : MActBody) : State :=
  (s.modCore core fun k => { k with macts := k.macts ++ [⟨x.seq, x.slot, x.gen, b⟩] }).settleMx core

/-- A stream, journal or sequencer entry acts; dropped under a stale generation (R309). (DEDUCED, log 35) -/
def State.unlessStale (s : State) (x : RelItem) (t : State) : State := if s.staleItem x then s else t

/-- A step-2 entry acts (R217, R236, R273, R332, R348, R379). -/
def State.step2Item (s : State) (ci : Nat) (x : RelItem) : Progress :=
  let core := ci / 4
  match x.body with
  | .engine q p => if s.claimRoom core q.toNat then (s.claimCmd ci x q.toNat p, true) else (s, false)
  | .mload id h _ => (s.mxRelease core id (some h), true)
  | .push id => (s.mxRelease core id none, true)
  | .macc acc row seg ovl raw f32 v => (s.mactAdd core x (.macc acc row seg ovl raw f32 v), true)
  | .mrel b acc tile => (s.mactAdd core x (.mrel b acc tile), true)
  | .tsload off => (s.unlessStale x (s.tsLoadDo core ci off), true)
  | .tsrun entry mxo h fm => (s.unlessStale x (s.tsRunDo core entry mxo h fm x.slot x.gen), true)
  | .sopen capc => (s.unlessStale x (s.sopenRel ci x capc), true)
  | .sclose e => (s.unlessStale x (s.scloseRel e), true)
  | .ssend e item => (s.unlessStale x (s.ssendRel ci x e item), true)
  | .sxfer e carrier => (s.unlessStale x (s.sxferRel ci x e carrier), true)
  | .srecv e b => (s.unlessStale x (s.srecvRel ci x e b), true)
  | .jopen _ => (s.unlessStale x (s.bjRel ci x), true)
  | .jemit j r _ => (s.unlessStale x (s.jemitRel ci x j r), true)
  | .jtrunc .. => (s.unlessStale x (s.bjRel ci x), true)
  | .jpart .. => (s.unlessStale x (s.bjRel ci x), true)
  | .jrep _ => (s.unlessStale x (s.bjRel ci x), true)
  | .fork t => (s.forkRel ci x t, true)
  | .joinTake k key => (s.joinRel k key, true)
  | .jadd j n => (s.jaddRel ci x j n, true)
  | .wcan o => (s.wcanRel ci x o, true)
  | .wdone w => (s.wdoneRel ci x w, true)
  | _ => (s, true)

/-- A signal acts (R149); one of a stale generation is dropped (R309). -/
def State.sigDo (s : State) (core : Nat) (g : Sig) : State :=
  if g.gen ≠ s.gen g.slot then s
  else if g.isSet then s.setSem core g.sem g.val else s.addSem core g.sem g.val

/-- The entries of step 1 and step 2 of the oldest pitch act, in order, as far as they can; whether all have. A step-1
entry stands in the path while it waits; a step-2 entry that waits (R267) stays too. -/
def State.runPath (s : State) (ci : Nat) : Nat → Progress
  | 0 => (s, false)
  | n + 1 =>
    match (s.ctx ci).path with
    | [] => (s, true)
    | p :: _ =>
      match p.step1, p.step2 with
      | x :: r, _ =>
        if x.divides then
          let a := s.step1Item ci x
          if a.2 then (a.1.modCtx ci fun c => c.modHead fun p => { p with step1 := r }).runPath ci n else a
        else
          let a := (s.modCtx ci fun c => c.modHead fun p => { p with step1 := r }).step1Item ci x
          if a.2 then a.1.runPath ci n
          else (a.1.modCtx ci fun c => c.modHead fun p => { p with step1 := x :: p.step1 }, false)
      | [], x :: r =>
        let a := s.step2Item ci x
        if a.2 then (a.1.modCtx ci fun c => c.modHead fun p => { p with step2 := r }).runPath ci n else a
      | [], [] => (s, true)

/-- The context goes on after a return from a user handler (R169, R398). -/
def Ctx.tret (c : Ctx) (cycle : Nat) : Ctx :=
  { (c.resumeAt cycle (c.frame.next.resume c.frame.raddr) ((List.range 9).map fun i => Tab.get 0 c.frame.loops i)) with
    hnd := false }

/-- A yield (R171): another ready context of the same or a higher class takes the core. -/
def State.yieldNow (s : State) (ci : Nat) : State :=
  let core := ci / 4
  let c := s.ctx ci
  let other := (List.range 4).any fun i =>
    let d := s.ctx (4 * core + i)
    i != ci % 4 && d.st == .ready && decide (c.prio.toNat ≤ d.prio.toNat)
  if c.st = .issuing ∧ !c.pre ∧ other then
    ((s.modCtx ci fun c => { c with st := .ready }).modCore core fun k => { k with issuing := none }).switchFrom core (s.cycle + 1)
  else s

/-- What a system operation of the last released pitch does (R168 to R171): a software trap or breakpoint names no unit and no
failing move (R390). -/
def State.actAfter (s : State) (ci : Nat) : State :=
  let c := s.ctx ci
  let s1 := s.modCtx ci fun c => { c with after := .none }
  match c.after with
  | .none => s
  | .swTrap cause arg addr =>
    (s1.deliverTrap ci { cause := cause, arg := arg } false false false addr c.next.pc c.bank.loops).leaveCore ci (s.cycle + 1)
  | .tret => s1.modCtx ci fun c => c.tret s.cycle
  | .exit st => s1.endUnit ci 4 st (st != 0)
  | .yield => s1.yieldNow ci

/-- A held asynchronous trap is delivered after the release it waited for (R399). (DEDUCED, log 26) -/
def State.asyncAfter (s : State) (ci : Nat) : State :=
  let c := s.ctx ci
  if c.asyncDue then
    let s1 := s.modCtx ci fun c => { c with asyncDue := false }
    if c.st = .issuing ∨ c.st = .ready then s1.deliverAsync ci false else s1
  else s

/-- A cancelled unit that stands at a cairn is killed (R370). -/
def State.cancelAfter (s : State) (ci : Nat) : State :=
  let c := s.ctx ci
  if c.cancel && c.atCairn && c.st != .free then s.killCancelled ci else s

/-- All that follows the release of a context's last pitch (R168 to R171, R370, R399). -/
def State.afterRelease (s : State) (ci : Nat) : State :=
  if (s.ctx ci).path.isEmpty then ((s.actAfter ci).asyncAfter ci).cancelAfter ci else s

/-- The number of entries a pitch has left, with room for those that begin to wait. -/
def PitchRel.size (p : PitchRel) : Nat := p.step1.length + p.step2.length + 1

/-- The oldest pitch of a context is released as far as it goes (R149, R247): step 1, step 2, then the signals. (DESIGN CHOICE,
log 12) -/
def State.releasePitch (s : State) (ci : Nat) : State :=
  match (s.ctx ci).path with
  | [] => s
  | p :: _ =>
    let a := s.runPath ci p.size
    if !a.2 then a.1
    else
      let s1 := p.sigs.foldl (fun x g => x.sigDo (ci / 4) g) a.1
      (s1.modCtx ci fun c => { c with path := c.path.drop 1 }).afterRelease ci

/-- PITCH_RELEASE (R149): a context without a released pitch does nothing. (DESIGN CHOICE, log 12) -/
def execPitchRelease (core ctx : Nat) (s : State) : Host.Outcome State Fault Refusal := .next (s.releasePitch (4 * core + ctx))

/-- DIRTY_FIFO_DRAIN (R136, R249): the head entry is written back, or, a release's marker, goes. -/
def execDirtyFifoDrain (core : Nat) (s : State) : Host.Outcome State Fault Refusal :=
  .next (match (s.core core).fifo with
  | [] => s
  | .line l :: _ => (s.wbL1Line core l).modCore core fun k => { k with fifo := k.fifo.filter (· != .line l) }
  | .marker _ _ :: r => s.modCore core fun k => { k with fifo := r })

end Sys2Proof.Machine
end

