-- ==== Sys2Proof/Machine/Sem.lean ====
section
/-! DEFINITION. The semaphore unit sm (R146 to R152): takes with the wait-return log, signals with the signal
buffer. -/

namespace Sys2Proof.Machine

/-- Log an amount taken from a semaphore (R148): one entry per semaphore, 16 at most; `unit` is named where a
seventeenth would be needed. -/
def State.logTake (s : State) (sem : BitVec 8) (n unit : Nat) : Res State :=
  let log := s.me.log
  if (log.any fun e => e.1 == sem.toNat) || log.length < 16 then
    .ok (s.modMe fun c => { c with log := Tab.upd 0 c.log sem.toNat (· + n) })
  else raise 10 0 unit

/-- Take n from a semaphore that holds at least n, and log it (R147, R148). Taking 0 takes nothing. -/
def State.take (s : State) (sem : BitVec 8) (n unit : Nat) : Res State :=
  if n = 0 then .ok s
  else do
    let s1 ← s.logTake sem n unit
    pure (s1.setSem s.cur.core sem (s.sem s.cur.core sem - n))

/-- An add merges into the semaphore's add entry if no set entry follows it (R149). -/
def mergeAdd (sem : BitVec 8) (n : Nat) : List Sig → Option (List Sig)
  | [] => none
  | x :: r =>
    match mergeAdd sem n r with
    | some r' => some (x :: r')
    | none =>
      if x.sem == sem && !x.isSet && !(r.any fun y => y.sem == sem && y.isSet) then
        some ({ x with val := x.val + n } :: r)
      else none

/-- Enter a signal into the context's buffer of 16 entries (R149). -/
def State.signal (s : State) (sem : BitVec 8) (isSet : Bool) (n unit : Nat) : Res State :=
  let c := s.me
  let new : Sig := ⟨sem, isSet, n, s.coreSlot s.cur.core, s.coreGen s.cur.core⟩
  let put := fun (l : List Sig) => (.ok (s.setCtx s.cid { c with sigs := l }) : Res State)
  match (if isSet then none else mergeAdd sem n c.sigs) with
  | some l => put l
  | none => if 16 ≤ c.sigs.length then raise 10 0 unit else put (c.sigs ++ [new])

/-- The semaphore T[7:0] names (R151). -/
def semOf (t : Word) : BitVec 8 := t.setWidth 8

/-- An sm operation: its operands (R151). -/
def State.smOp (s : State) (i : Instr) (f : OpS) (act : ScalarArgs → Res State) : Res State :=
  inSlot 0 do
    s.opens i
    if !s.guard f.g then pure s
    else do
      let a ← s.scalarArgs 7 i.shape f
      act a

/-- sset: at release, q := Min(O, 65,535) (R151). -/
def opSset (f : OpS) (s : State) : Res State := s.smOp (.sset f) f fun a => s.signal (semOf a.t) true a.o.toNat 7
/-- sset (R151). -/
def execSset (f : OpS) (s : State) : Host.Outcome State Fault Refusal := settle s (opSset f s)

/-- sadd: at release, q := Min(q + O, 65,535) (R151). -/
def opSadd (f : OpS) (s : State) : Res State := s.smOp (.sadd f) f fun a => s.signal (semOf a.t) false a.o.toNat 7
/-- sadd (R151). -/
def execSadd (f : OpS) (s : State) : Host.Outcome State Fault Refusal := settle s (opSadd f s)

/-- stake: tries to take O without blocking (R151). -/
def opStake (f : OpS) (s : State) : Res State :=
  s.smOp (.stake f) f fun a =>
    let v := s.sem s.cur.core (semOf a.t)
    if a.o.toNat ≤ v then do
      let s1 ← s.take (semOf a.t) a.o.toNat 7
      pure (s1.land 0 7 1 (s.scalarWrites 9 f.w (BitVec.ofNat 64 (2 ^ 63 + v))))
    else pure (s.land 0 7 1 (s.scalarWrites 9 f.w (BitVec.ofNat 64 v)))
/-- stake (R151). -/
def execStake (f : OpS) (s : State) : Host.Outcome State Fault Refusal := settle s (opStake f s)

/-- swait: blocks until q is at least O, takes O, and returns the value before the take (R147, R151). -/
def opSwait (f : OpS) (s : State) : Res State :=
  s.smOp (.swait f) f fun a =>
    let v := s.sem s.cur.core (semOf a.t)
    if v < a.o.toNat then blockAt .swait
    else do
      let s1 ← s.take (semOf a.t) a.o.toNat 7
      pure (s1.land 0 7 1 (s.scalarWrites 9 f.w (BitVec.ofNat 64 v)))
/-- swait (R151). -/
def execSwait (f : OpS) (s : State) : Host.Outcome State Fault Refusal := settle s (opSwait f s)

end Sys2Proof.Machine
end

