-- ==== Sys2Proof/Machine/Transposer.lean ====
section
/-! DEFINITION. The transposer xp (R234, R235). -/

namespace Sys2Proof.Machine

/-- Rows of a block (R234). -/
def Xp.rows (x : Xp) : Nat := 1024 / x.w
/-- Both buffers are empty (R234). -/
def Xp.empty (x : Xp) : Bool := x.fill.isEmpty && x.drain.isEmpty

/-- The frame of an xp operation (R234, R235): checks, guard, and the wait for another owner. -/
def State.xpOp (s : State) (i : Instr) (f : OpS) (act : Xp → Res State) : Res State :=
  inSlot 6 do
    s.opens i
    if !s.guard f.g then pure s
    else
      let x := s.myCore.xp
      match x.owner with
      | some o => if o = s.cid then act x else blockAt .busyTile
      | none => act x

/-- Store the transposer; its owner goes when both buffers are empty (R234). -/
def State.setXp (s : State) (x : Xp) : State :=
  s.modMyCore fun k => { k with xp := if x.empty then x.freed else x }

/-- xpin: T becomes the next row of the fill buffer (R235). (DEDUCED, log 49) -/
def opXpin (f : OpS) (s : State) : Res State :=
  s.xpOp (.xpin f) f fun x => do
    let t ← s.readT f.t
    let v := t.wide
    let tag : BitVec 10 := BitVec.ofNat 10 (v.bias.toNat * 16 + v.fmt.toNat)
    if v.fmt = 12 then raiseTag 1 0 (some v) none none
    if x.rows ≤ x.fill.length then raise 10 0 30
    match x.fillTag with
    | some g => if v.fmt ≠ 0 ∧ g ≠ tag then raiseTag 2 0 (some v) none none else pure ()
    | none => pure ()
    let y : Xp :=
      { x with
        fill := x.fill ++ [(v.data, .clean)]
        fillTag := x.fillTag.orElse fun _ => if v.fmt = 0 then none else some tag
        owner := some s.cid }
    pure (s.setXp (if y.fill.length = y.rows ∧ y.drain.isEmpty then
      { y with fill := [], fillTag := none, drain := y.fill, drainTag := y.fillTag, col := 0, avail := s.cycle + 1 } else y))
/-- xpin (R235). -/
def execXpin (f : OpS) (s : State) : Host.Outcome State Fault Refusal := settle s (opXpin f s)

/-- xpout: pops the next column into xp.r and W; latency 2 (R235). -/
def opXpout (f : OpS) (s : State) : Res State :=
  s.xpOp (.xpout f) f fun x =>
    if x.drain.isEmpty ∨ s.cycle < x.avail then raise 11 0 30
    else
      let tag := x.drainTag.getD 0
      let v : Wide :=
        { data := lanesOf x.w (x.drain.map fun r => elem x.w r.1 x.col), fmt := tag.extractLsb' 0 4, bias := tag.extractLsb' 4 6 }
      let y : Xp :=
        if x.col + 1 < x.rows then { x with col := x.col + 1 }
        else if x.fill.length = x.rows then
          { x with drain := x.fill, drainTag := x.fillTag, fill := [], fillTag := none, col := 0, avail := s.cycle + 1 }
        else { x with drain := [], drainTag := none, col := 0 }
      pure ((s.setXp y).land 6 30 2 (wrW (.rl 0x12) v :: ((wbV f.w).toList.map fun r => wrW r v)))
/-- xpout (R235). -/
def execXpout (f : OpS) (s : State) : Host.Outcome State Fault Refusal := settle s (opXpout f s)

/-- xpclr: empties both buffers (R235). -/
def opXpclr (f : OpS) (s : State) : Res State :=
  s.xpOp (.xpclr f) f fun x =>
    pure (s.setXp { x with fill := [], drain := [], fillTag := none, drainTag := none, col := 0 })
/-- xpclr (R235). -/
def execXpclr (f : OpS) (s : State) : Host.Outcome State Fault Refusal := settle s (opXpclr f s)

/-- xpmode: sets the element width while both buffers are empty (R235). (DEDUCED, log 49) -/
def opXpmode (f : OpS) (s : State) : Res State :=
  s.xpOp (.xpmode f) f fun x => do
    let t ← s.readT f.t
    let k := field t.word 0 2
    if k = 3 then raise 4
    else if !x.empty then raise 10 0 30
    else pure (s.setXp { x with w := 8 * 2 ^ k })
/-- xpmode (R235). -/
def execXpmode (f : OpS) (s : State) : Host.Outcome State Fault Refusal := settle s (opXpmode f s)

/-- The pitch-end check of the owner (R234): the transposer is empty. -/
def State.xpLeft (s : State) : Bool := s.myCore.xp.owner == some s.cid && !s.myCore.xp.empty

end Sys2Proof.Machine
end

