-- ==== Sys2Proof/Machine/Bundle.lean ====
section
/-! DEFINITION. The issue of a bundle (R83): fetch, encoding checks, header, slots, loop end, pitch end and pitch check; the
end of a block (R141 to R143), and the landing of results (R93, R394). -/

namespace Sys2Proof.Machine

/-- What a slot's operation does in its bundle; an event does nothing there. -/
def opOf (i : Instr) (s : State) : Res State :=
  match i with
  | .nop => .ok s
  | .move m => opMove m s
  | .moveSplat m => opMoveSplat m s
  | .moveHi m => opMoveHi m s
  | .add u f => opAdd u f s
  | .sub u f => opSub u f s
  | .and u f => opAnd u f s
  | .or u f => opOr u f s
  | .xor u f => opXor u f s
  | .andn u f => opAndn u f s
  | .orn u f => opOrn u f s
  | .shl u f => opShl u f s
  | .shr u f => opShr u f s
  | .sra u f => opSra u f s
  | .ror u f => opRor u f s
  | .min u f => opMin u f s
  | .max u f => opMax u f s
  | .minn u f => opMinn u f s
  | .maxn u f => opMaxn u f s
  | .sel u f => opSel u f s
  | .sext8 u f => opSext8 u f s
  | .sext16 u f => opSext16 u f s
  | .sext32 u f => opSext32 u f s
  | .zext8 u f => opZext8 u f s
  | .zext16 u f => opZext16 u f s
  | .zext32 u f => opZext32 u f s
  | .clz u f => opClz u f s
  | .ctz u f => opCtz u f s
  | .popc u f => opPopc u f s
  | .bfx u f => opBfx u f s
  | .bfi u f => opBfi u f s
  | .addsh u f => opAddsh u f s
  | .ceq u k f => opCeq u k f s
  | .cne u k f => opCne u k f s
  | .clt u k f => opClt u k f s
  | .cle u k f => opCle u k f s
  | .cltn u k f => opCltn u k f s
  | .clen u k f => opClen u k f s
  | .mul f => opMul f s
  | .mulh f => opMulh f s
  | .mulhn f => opMulhn f s
  | .div f => opDiv f s
  | .divn f => opDivn f s
  | .rem f => opRem f s
  | .remn f => opRemn f s
  | .pand d f => opPand d f s
  | .por d f => opPor d f s
  | .pxor d f => opPxor d f s
  | .pnot d f => opPnot d f s
  | .pset d f => opPset d f s
  | .vany d f => opVany d f s
  | .vall d f => opVall d f s
  | .br f => opBr f s
  | .call f => opCall f s
  | .ret f => opRet f s
  | .bix f => opBix f s
  | .lset n f => opLset n f s
  | .lrot f => opLrot f s
  | .lbrk n f => opLbrk n f s
  | .trap f => opTrap f s
  | .tret f => opTret f s
  | .exit f => opExit f s
  | .yield f => opYield f s
  | .sleep f => opSleep f s
  | .brk f => opBrk f s
  | .sset f => opSset f s
  | .sadd f => opSadd f s
  | .stake f => opStake f s
  | .swait f => opSwait f s
  | .fork f => opFork f s
  | .join f => opJoin f s
  | .jadd f => opJadd f s
  | .wcan f => opWcan f s
  | .wdone f => opWdone f s
  | .gpush f => opGpush f s
  | .gpop f => opGpop f s
  | .ldb nw f => opLdb nw f s
  | .ldh nw f => opLdh nw f s
  | .ldw nw f => opLdw nw f s
  | .ldd nw f => opLdd nw f s
  | .ldbn nw f => opLdbn nw f s
  | .ldhn nw f => opLdhn nw f s
  | .ldwn nw f => opLdwn nw f s
  | .stb f => opStb f s
  | .sth f => opSth f s
  | .stw f => opStw f s
  | .std f => opStd f s
  | .vld fmt nw f => opVld fmt nw f s
  | .vst fmt f => opVst fmt f s
  | .vlds nw f => opVlds nw f s
  | .vsts f => opVsts f s
  | .vldx nw f => opVldx nw f s
  | .vstx f => opVstx f s
  | .fewait f => opFewait f s
  | .feclr f => opFeclr f s
  | .feset f => opFeset f s
  | .fetst f => opFetst f s
  | .rel sc f => opRel sc f s
  | .acq sc f => opAcq sc f s
  | .cwb f => opCwb f s
  | .cinv f => opCinv f s
  | .xlat f => opXlat f s
  | .hdrop f => opHdrop f s
  | .hchk f => opHchk f s
  | .aadd sc f => opAadd sc f s
  | .aand sc f => opAand sc f s
  | .aor sc f => opAor sc f s
  | .axor sc f => opAxor sc f s
  | .axchg sc f => opAxchg sc f s
  | .acas sc f => opAcas sc f s
  | .amax sc f => opAmax sc f s
  | .cpy q f => opCpy q f s
  | .csr q f => opCsr q f s
  | .pfr q f => opPfr q f s
  | .zfill q f => opZfill q f s
  | .qfence q f => opQfence q f s
  | .coll q f => opColl q f s
  | .evict q f => opEvict q f s
  | .cstat q f => opCstat q f s
  | .rld f => opRld f s
  | .rldv f => opRldv f s
  | .rst b f => opRst b f s
  | .rstv b f => opRstv b f s
  | .rop f => opRop f s
  | .bclose b f => opBclose b f s
  | .rdrain f => opRdrain f s
  | .sopen f => opSopen f s
  | .sclose f => opSclose f s
  | .ssend f => opSsend f s
  | .srecv f => opSrecv f s
  | .spoll f => opSpoll f s
  | .sxfer f => opSxfer f s
  | .sstat f => opSstat f s
  | .jopen f => opJopen f s
  | .jrec f => opJrec f s
  | .jemit f => opJemit f s
  | .jtrunc f => opJtrunc f s
  | .jpart f => opJpart f s
  | .jrep f => opJrep f s
  | .jstat f => opJstat f s
  | .vadd u f => opVadd u f s
  | .vsub u f => opVsub u f s
  | .vmul u f => opVmul u f s
  | .vmulh u f => opVmulh u f s
  | .vmin u f => opVmin u f s
  | .vmax u f => opVmax u f s
  | .vminn u f => opVminn u f s
  | .vmaxn u f => opVmaxn u f s
  | .vand u f => opVand u f s
  | .vor u f => opVor u f s
  | .vxor u f => opVxor u f s
  | .vandn u f => opVandn u f s
  | .vshl u f => opVshl u f s
  | .vshr u f => opVshr u f s
  | .vsra u f => opVsra u f s
  | .vabs u f => opVabs u f s
  | .vadds u f => opVadds u f s
  | .vsubs u f => opVsubs u f s
  | .vfadd u f => opVfadd u f s
  | .vfsub u f => opVfsub u f s
  | .vfmul u f => opVfmul u f s
  | .vfma u f => opVfma u f s
  | .vfnma u f => opVfnma u f s
  | .vfmin u f => opVfmin u f s
  | .vfmax u f => opVfmax u f s
  | .vrcp u f => opVrcp u f s
  | .vrsq u f => opVrsq u f s
  | .vexp2 u f => opVexp2 u f s
  | .vlog2 u f => opVlog2 u f s
  | .vtanh u f => opVtanh u f s
  | .vscale u f => opVscale u f s
  | .vtag u f => opVtag u f s
  | .vcvt u fmt f => opVcvt u fmt f s
  | .vsplat u f => opVsplat u f s
  | .vins u f => opVins u f s
  | .vext u f => opVext u f s
  | .vperm u f => opVperm u f s
  | .vrot u f => opVrot u f s
  | .vsel u f => opVsel u f s
  | .vcomp u f => opVcomp u f s
  | .vsum u f => opVsum u f s
  | .vmaxr u f => opVmaxr u f s
  | .vargmax u f => opVargmax u f s
  | .vrng u f => opVrng u f s
  | .vsample u f => opVsample u f s
  | .vpand u f => opVpand u f s
  | .vpor u f => opVpor u f s
  | .vpxor u f => opVpxor u f s
  | .vpnot u f => opVpnot u f s
  | .vpset u f => opVpset u f s
  | .vpcnt u f => opVpcnt u f s
  | .vceq u k f => opVceq u k f s
  | .vcne u k f => opVcne u k f s
  | .vclt u k f => opVclt u k f s
  | .vcle u k f => opVcle u k f s
  | .vcltn u k f => opVcltn u k f s
  | .vfceq u k f => opVfceq u k f s
  | .vfclt u k f => opVfclt u k f s
  | .vfcle u k f => opVfcle u k f s
  | .mload f => opMload f s
  | .mpush f => opMpush f s
  | .mpushv f => opMpushv f s
  | .mzero f => opMzero f s
  | .mpop f => opMpop f s
  | .mpopx f => opMpopx f s
  | .macc f => opMacc f s
  | .mrel f => opMrel f s
  | .tsload f => opTsload f s
  | .tsrun f => opTsrun f s
  | .tsstop f => opTsstop f s
  | .tsstat f => opTsstat f s
  | .xpin f => opXpin f s
  | .xpout f => opXpout f s
  | .xpclr f => opXpclr f s
  | .xpmode f => opXpmode f s
  | _ => .ok s

/-- The bundle a context issues next (R56): its bits, and the next address in code order. -/
structure NextBundle where
  bits  : BundleBits
  after : NextAddr
  deriving DecidableEq, Repr

/-- The fetch of a context's next bundle: step 1 of R83. (DESIGN CHOICE, log 2) -/
def State.nextBundle (s : State) (ci : Nat) : Res NextBundle := do
  let n := (s.ctx ci).next
  if n.enter then s.targetOk ci (BitVec.ofNat 64 n.pc)
  match ← s.fetch ci n.pc with
  | .bundle b w => pure ⟨b, { pc := n.pc + w }⟩
  | .idle k => pure ⟨0, if n.idle + 1 < k then { pc := n.pc, idle := n.idle + 1 } else { pc := n.pc + 1 }⟩

/-- The examination of a context's bundle begins: its fetch meets the home slices (R139), replay records are re-issued (R394),
results due land (R93), and the position of the bundle is noted. -/
def State.beginExam (s : State) (core i : Nat) : State :=
  let ci := 4 * core + i
  let s1 := (s.touchFetch ci).modCtx ci fun c => (c.startReplay s.cycle).landDue s.cycle
  { s1 with cur := { core := core, ctx := i, seq := s.seq, addr := (s.ctx ci).next.pc } }

/-- The header's checks: step 2 of R83 (R60). -/
def State.headerOk (s : State) (h : Header) : Res Unit :=
  if h.res then raise 4 0 62
  else if h.pitch ∧ s.me.kern.npitch ≤ h.bi.toNat then raise 4 0 62
  else .ok ()

/-- The slots' checks: step 3 of R83. -/
def slotsOk (l : List (Nat × Except EncFail Instr)) : Res Unit :=
  match firstFail l with
  | none => .ok ()
  | some (k, e) => inSlot k (raise (EncFail.cause e) 0 (EncFail.unit e))

/-- The bundle holds an swait whose need is not met (R147). -/
def State.swaitBlocks (s : State) (l : List (Nat × Instr)) : Bool :=
  l.any fun x => match x.2 with
    | .swait f => (match opSwait f s with | .error (.block .swait _) => true | _ => false)
    | _ => false

/-- An swait whose need is not met blocks before any other blocking point (R83, R147). -/
def State.swaitFirst (s : State) (l : List (Nat × Instr)) : Res Unit := if s.swaitBlocks l then blockAt .swait else .ok ()

/-- The header wait (R147, R148). (DEDUCED, log 31) -/
def State.headerWait (s : State) (h : Header) (l : List (Nat × Instr)) : Res State :=
  if h.wthr = 0 then .ok s
  else
    let v := s.sem s.cur.core h.wsem
    if v < h.wthr.toNat then blockAt .headerWait
    else
      match s.take h.wsem h.wthr.toNat 62 with
      | .ok t => .ok t
      | .error e =>
        if (s.setSem s.cur.core h.wsem (v - h.wthr.toNat)).swaitBlocks l then blockAt .swait else .error e

/-- The wake time of a sys.sleep (R172). -/
def State.awake (s : State) : Res State :=
  match s.me.wake with
  | none => .ok s
  | some t => if s.dtime < t.toNat then blockAt .sleep else .ok (s.modMe fun c => { c with wake := none })

/-- Loop set n is armed (R158): lc is not 0, or, in a rotating loop, ec. Each is read as far as it decides (R410). -/
def State.armed (s : State) (rot : Bool) (n : Nat) : Res Bool := do
  s.intact (.sp (lcReg n))
  if s.me.bank.getSp (lcReg n) != 0 then pure true
  else if rot then do
    s.intact (.sp 6)
    pure (s.me.bank.getSp 6 != 0)
  else pure false

/-- The bundle lies at the end of loop set n, which is armed (R158); le is read where the set is armed (R410). -/
def State.atLoopEnd (s : State) (rot : Bool) (n : Nat) : Res Bool := do
  if ← s.armed rot n then do
    s.intact (.sp (leReg n))
    pure (s.me.bank.getSp (leReg n) == BitVec.ofNat 64 s.cur.addr)
  else pure false

/-- The loop set whose loop end the bundle is (R158): set 1 first. (DEDUCED, logs 29, 70) -/
def State.loopEnd (s : State) (rot : Bool) : Res (Option Nat) := do
  if ← s.atLoopEnd rot 1 then pure (some 1)
  else if ← s.atLoopEnd rot 0 then pure (some 0)
  else pure none

/-- A loop-end evaluation (R158): the new count and epilogue count, the bit that rotates in, and whether it goes back. (DEDUCED,
log 29) -/
def loopStep (rot : Bool) (lc ec : Word) : Word × Word × Bool × Bool :=
  if !rot then (lc - 1, ec, false, lc - 1 != 0)
  else if 1 < lc.toNat then (lc - 1, ec, true, true)
  else if lc = 1 then (0, ec, false, ec != 0)
  else (lc, ec - 1, false, ec - 1 != 0)

/-- Rotate(s) as writes (R159): a predicate's poison goes with it. -/
def Bank.rotate (b : Bank) (x : Bool) : List RegWrite :=
  wr64 (.sp 7) (BitVec.ofNat 64 ((b.rrb + 31) % 32)) (b.mark (.sp 7)) ::
    rotWrites (fun i => if i = 16 then x else b.getP (i - 1)) fun i => if i = 16 then .clean else b.mark (.p (i - 1))

/-- Writes made after all slots of the bundle (R158). (DEDUCED, log 29) -/
def State.lastWrites (s : State) (l : List RegWrite) : State := l.foldl (fun x w => x.move 7 w) s

/-- A loop-end evaluation of set n (R158): its writes, and the back-edge or the next bundle in code order. -/
def State.evalLoop (s : State) (rot : Bool) (n : Nat) (after : NextAddr) : Res (State × NextAddr) := do
  let b := s.me.bank
  (if rot then s.intact (.sp 6) else .ok () : Res Unit)
  let (lc, ec, x, back) := loopStep rot (b.getSp (lcReg n)) (b.getSp 6)
  let ws := wr64 (.sp (lcReg n)) lc :: (if rot then wr64 (.sp 6) ec :: b.rotate x else [])
  let t := b.getSp (lsReg n)
  if back then
    s.intact (.sp (lsReg n))
    s.targetOk s.cid t
    pure (s.lastWrites ws, { pc := t.toNat })
  else pure (s.lastWrites ws, after)

/-- What follows the bundle (R153, R154, R158, R159): the target of a transfer whose delay bundle it is, with lk for a call; a
loop end's back-edge or exit; or code order. Every loop-end bundle must have PITCH, one with a taken transfer too. A delay
bundle with ROT at an armed loop end is not evaluated, and performs Rotate(0), as R159 has it, though R153 leaves the loop
registers alone: these are lc, ls, le and ec. (DEDUCED, log 29) -/
def State.flow (s : State) (h : Header) (after : NextAddr) : Res (State × NextAddr) :=
  let rot := if h.rot then s.me.bank.rotate false else []
  do
    let hit ← s.loopEnd h.rot
    if hit.isSome && !h.pitch then raise 4 0 62
    else
      match s.me.next.xfer with
      | some (t, lk) =>
        let w := match lk with | none => [] | some a => [wr64 (.sp 8) (BitVec.ofNat 64 a)]
        pure (s.lastWrites (rot ++ w), { pc := t.toNat })
      | none =>
        match if s.cur.xfer.isSome then none else hit with
        | none => pure (s.lastWrites rot, after)
        | some n => s.evalLoop h.rot n after

/-- The walks that the pitch-end bundle waits for (R116): of handles that an xlat of the pitch left pending. (DEDUCED, log 32) -/
def State.openWalks (s : State) : List Walk :=
  s.myCore.walks.filter fun w => w.ctx == s.cid && !w.again && s.me.holdsTok w.tok

/-- A failed walk's fault (R116). -/
def walkFault (w : Walk) (sub : Nat) : TrapInfo := { cause := 6, sub := sub, arg := w.va, addr := some w.addr }

/-- The pitch-end bundle counts as a use of a handle left pending (R116): it blocks, or raises the fault. The walk of an
xlat in the bundle itself ends while it waits; `old` counts the walks that were there before. -/
def State.needWalk (old : Nat) (s : State) (w : Walk) : Res State :=
  match w.failed with
  | some sub => .error (.trap (walkFault w sub))
  | none =>
    if w.id ≤ old then blockAt .walks
    else
      let t := s.walkEnd s.cur.core w
      match t.myCore.walks.find? fun x => x.id == w.id with
      | some x => .error (.trap (walkFault x (x.failed.getD 0)))
      | none => .ok t

/-- Re-translation of one chunk of a gated entry, whose rights and bounds are checked afresh (R120, R121, R128). -/
def remap (h : Handle) (ea n : Nat) (rd wr atomic : Bool) : Res Nat := do
  let x ← formAddr h (BitVec.ofNat 64 ea - h.va.setWidth 64) 0 1 n 1 rd wr false false atomic
  pure x.2

/-- A marked remote access through a new handle (R120, R291). -/
def remapRemote (r : RemoteOp) (h : Handle) : Res RemoteOp := do
  let x ← formAddr h (BitVec.ofNat 64 r.ea - h.va.setWidth 64) 0 1 r.n 1 (r.kind == 5) true false true false
  pure { r with h := h, off := remoteOff h x, marked := false }

/-- The chunks of a gated store through a new handle. (DEDUCED, log 32) -/
def remapChunks (h : Handle) : List (Nat × Nat × List Byte) → Res (List (Nat × Nat × List Byte))
  | [] => .ok []
  | c :: r => do
    let pa ← remap h c.1 c.2.2.length false true false
    let rest ← remapChunks h r
    pure ((c.1, pa, c.2.2) :: rest)

/-- The handle of a marked entry at effective address ea (R128): the bundle waits for its walk, or raises the fault of one that
failed. -/
def State.freshHandle (s : State) (x : RelItem) (h : Handle) (ea : Nat) : Res Handle :=
  if h.st ≠ .revoked then .ok h
  else
    match s.myCore.walks.find? fun w => w.ctx == s.cid && w.item == some (x.seq, x.unit) && w.failed.isSome with
    | some w => raiseAt 6 (w.failed.getD 0) ea
    | none => blockAt .walks

/-- The rows of a marked mload through a new handle, whose rights and bounds are checked afresh (R226). -/
def State.remapRows (s : State) (id : Nat) (h : Handle) : Res Unit :=
  match s.myCore.mops.find? fun m => m.id == id with
  | none => .ok ()
  | some m => do
    let _ ← mloadRows h m.off m.stride (packedWidth m.fmt.toNat) 128 0
    pure ()

/-- A marked entry is re-translated before it performs (R128, R226). (DEDUCED, log 32) -/
def State.remapItem (s : State) (x : RelItem) : Res RelItem :=
  match x.body with
  | .store g =>
    if !g.marked then .ok x
    else do
      let h ← s.freshHandle x g.h (match g.chunks with | [] => 0 | c :: _ => c.1)
      let cs ← remapChunks h g.chunks
      pure { x with body := .store { g with h := h, chunks := cs, marked := false } }
  | .atomic op sc h0 ea _ t cmp true => do
    let h ← s.freshHandle x h0 ea
    let pa ← remap h ea 8 true true true
    pure { x with body := .atomic op sc h ea pa t cmp false }
  | .cache inv h0 ea _ true => do
    let h ← s.freshHandle x h0 ea
    let pa ← remap h ea 1 true false false
    pure { x with body := .cache inv h ea pa false }
  | .mload id h0 true => do
    let h ← s.freshHandle x h0 h0.va.toNat
    s.remapRows id h
    pure { x with body := .mload id h false }
  | .remote r =>
    if !r.marked then .ok x
    else do
      let h ← s.freshHandle x r.h r.ea
      let y ← remapRemote r h
      pure { x with body := .remote y }
  | _ => .ok x

/-- The release list with its marked entries re-translated. -/
def State.remapList (s : State) : List RelItem → Res (List RelItem)
  | [] => .ok []
  | x :: r => do
    let y ← s.remapItem x
    let rest ← s.remapList r
    pure (y :: rest)

/-- The checks of a pitch-end bundle before it issues: gather and transposer empty (R213, R234), at most 16 operations in
flight (R393), walks, marked entries and operand locks (R116, R128, R220). (DEDUCED, logs 30, 32) -/
def State.pitchEnd (s : State) (old : Nat) : Res State :=
  if s.me.gocc ≠ 0 then raise 10 0 16
  else if s.xpLeft then raise 10 0 30
  else if 16 < (s.me.flight.filter fun l => decide (s.cycle < l.due)).length then raise 10 0 62
  else do
    let s1 ← s.openWalks.foldlM (State.needWalk old) s
    let l ← s1.remapList s1.me.rel
    let s2 := s1.modMe fun c => { c with rel := l }
    if s2.gatedLocked then blockAt .locked else pure s2

/-- The header's signal (R149). -/
def State.headerSignal (s : State) (h : Header) : Res State :=
  if h.sinc = 0 then .ok s else s.signal h.ssem false h.sinc.toNat 62

/-- The pitch-end checks, where the header has PITCH. (DEDUCED, log 30) -/
def State.endOfPitch (s : State) (h : Header) (old : Nat) : Res State := if h.pitch then s.pitchEnd old else .ok s

/-- A bundle examined with success: the state its slots leave, its bits and its next address. -/
structure Exam where
  st   : State
  bits : BundleBits
  next : NextAddr
  deriving DecidableEq, Repr

/-- The examination of a bundle in the order of R83, R143 and R147: a trap, a block, or what it does. Where the spec gives no
order, the slots' run-time traps come before the header's signal and before the illegal form of a loop-end bundle without
PITCH. (DESIGN CHOICE, log 71) -/
def State.examine (s : State) : Res Exam := do
  let nb ← s.nextBundle s.cid
  let h := Header.ofBits nb.bits
  let s1 := { s with cur := { s.cur with nextA := nb.after.pc, bi := h.bi, pitch := h.pitch, cairn := h.cairn } }
  s1.headerOk h
  slotsOk (decodeSlots nb.bits)
  let sl := okSlots (decodeSlots nb.bits)
  let s2 ← s1.headerWait h sl
  s2.swaitFirst sl
  let s3 ← s2.awake
  let s4 ← sl.foldlM (fun x p => opOf p.2 x) s3
  let s5 ← s4.headerSignal h
  let r ← s5.flow h nb.after
  let s6 ← r.1.endOfPitch h s.fresh
  pure ⟨s6, nb.bits, r.2⟩

/-- ret and bix (R166). -/
def isComputed : Instr → Bool
  | .ret _ => true | .bix _ => true
  | _ => false

/-- A slot that triggers va or vb (R446). -/
def isVecTrigger (x : Nat × Instr) : Bool :=
  (x.1 == 3 || x.1 == 4) && match x.2 with
    | .nop => false | .move _ => false | .moveSplat _ => false | .moveHi _ => false
    | _ => true

/-- A held cycle of a core (R446): the issue stage and every exposed pipeline stand still. (DEDUCED, log 34) -/
def State.holdCycle (s : State) (core : Nat) : State :=
  let up := fun (n : Nat) => if s.cycle < n then n + 1 else n
  let s1 := s.modCore core fun k => { k with nextIssue := k.nextIssue + 1, xp := { k.xp with avail := up k.xp.avail } }
  (List.range 4).foldl (fun x i => x.modCtx (4 * core + i) fun c =>
    { c with flight := c.flight.map (fun l => { l with due := up l.due }), divFree := up c.divFree,
             iq := c.iq.map fun r => { r with due := up r.due } }) s1

/-- What a bundle adds to the pitch's count and signature, and to the context (R60, R166, R406). -/
def Ctx.issued (c : Ctx) (bits : BundleBits) (h : Header) (next : NextAddr) (seq : Nat) (atCairn : Bool) : Ctx :=
  let b := if h.pitch then bits &&& ~~~((0xFFFF : BundleBits) <<< 32) else bits
  { c with
    next := next
    bank := { c.bank with sp := Tab.put 0 c.bank.sp 14 (c.bank.getSp 14 + 1) }
    obs := c.obs + 1
    sig := crcRun c.sig (bytesOf b 48)
    jfirst := none
    rcvWait := false
    last := seq + 1
    atCairn := atCairn }

/-- A pitch end whose check passes (R247, R393): its entries join the release path and the shadow is taken. -/
def Ctx.passPitch (c : Ctx) (cycle : Nat) (cairn : Bool) : Ctx :=
  { c with
    path := c.path ++ [{ pitchRelOf c.pitch c.rel c.sigs with uid := c.uid, lid := c.lid, lobj := c.lobj }]
    rel := []
    sigs := []
    log := []
    counts := []
    mism := 0
    obs := 0
    sig := 0xFFFFFFFF#32
    destroyed := false
    pitch := c.pitch + 1
    asyncDue := !c.held.isEmpty
    shadow := { bank := if cairn then (c.landDue (cycle + 1)).bank else c.bank, next := c.next, wake := c.wake }
    replay := if cairn then [] else c.flight.map fun l => { l with due := l.due - cycle } }

/-- A unit is killed with cause 17 (R408, R409): its record waits for the trap queue, and the unit ends with it. (DEDUCED, log
28) -/
def State.killMismatch (s : State) (ci sub : Nat) (nr : Bool) : State :=
  let core := ci / 4
  let s1 := (s.countDie (dieOf core) 0x2310 32 32 1).irq 2
  let c := s1.ctx ci
  let s2 := s1.deliverTrap ci { cause := 17, sub := sub } true nr true s.cur.addr c.next.pc c.bank.loops
  (s2.modCtx ci fun c => { c with dying := true }).leaveCore ci (s.cycle + 1)

/-- A pitch end whose check fails (R407 to R409). One that a pre-emption waits for is saved at once, or issues nothing until the
loads of earlier pitches have landed (R145, R400). (DEDUCED, logs 27, 28) -/
def State.missPitch (s : State) (ci : Nat) : State :=
  let core := ci / 4
  let nr := s.noReplay ci
  let s1 := ((s.countDie (dieOf core) 0x2310 0 32 1).rollback ci).modCtx ci fun c => { c with mism := c.mism + 1, atCairn := false }
  let c := s1.ctx ci
  if nr then
    let s2 := if s1.liveLaunch c.lobj.toNat (s.coreSlot core) then s1.woCancelAt c.lobj.toNat else s1
    (s2.killMismatch ci 2 true).dropOf core c.lobj c.uid c.lid
  else if 3 ≤ c.mism then s1.killMismatch ci 1 false
  else if !c.pre then s1
  else if c.loadsOut then s1.blockOn .pendingRead
  else s1.saveCtx ci

/-- The pitch check (R407). A pitch-table entry that cannot be translated or is poisoned is a mismatch. (DESIGN CHOICE, log 25) -/
def State.pitchCheck (s : State) (h : Header) : State :=
  let ci := s.cid
  let c := s.me
  let ok := match s.pitchEntry ci h.bi.toNat with
    | none => false
    | some e => field e 32 24 == c.obs && (c.sig ^^^ 0xFFFFFFFF#32) == e.setWidth 32
  let s1 := s.touchPitchEntry ci h.bi.toNat
  if ok then s1.modCtx ci fun c => c.passPitch s.cycle h.cairn else s1.missPitch ci

/-- A bundle issues (R67, R83, R406): all its effects take place together. -/
def State.issue (s : State) (e : Exam) : State :=
  let h := Header.ofBits e.bits
  let sl := okSlots (decodeSlots e.bits)
  let taken := e.st.cur.xfer
  let computed := taken.isSome && sl.any fun x => isComputed x.2
  let old := s.me.next
  let next := { e.next with xfer := taken, cairn := h.cairn && computed }
  let atCairn := h.pitch && ((h.cairn && !computed) || (old.xfer.isSome && old.cairn))
  let s1 := e.st.commit.modMe fun c => c.issued e.bits h next s.seq atCairn
  let s2 := ({ s1 with seq := s.seq + 1 } : State).modMyCore fun k => { k with nextIssue := s.cycle + 1 }
  let s3 := if h.pitch then s2.pitchCheck h else s2
  if s.level ≤ 9 ∧ sl.any isVecTrigger then s3.holdCycle s.cur.core else s3

/-- A context stands at a cairn and must not issue (R166, R370, R448). (DEDUCED, log 27) -/
def State.heldAtCairn (s : State) (ci : Nat) : Bool :=
  let c := s.ctx ci
  c.atCairn && ((c.cancel && !c.path.isEmpty) || c.pre || s.hub.power != .on)

/-- The power is on, or failing (R448). -/
def State.powered (s : State) : Bool :=
  match s.hub.power with
  | .on => true | .failing _ => true
  | _ => false

/-- The next bundle of context i of a core may be examined in this cycle, before anything else of it (R150). (DEDUCED, log 27) -/
def State.mayExamine (s : State) (core i : Nat) : Bool :=
  let ci := 4 * core + i
  let c := s.ctx ci
  s.stage == 0 && (s.core core).issuing == some i && c.st == .issuing && c.after == .none && !c.asyncDue &&
    decide ((s.core core).nextIssue ≤ s.cycle) && !s.heldAtCairn ci && s.powered

/-- A cancelled unit that blocks is killed (R370). (DEDUCED, log 27) -/
def State.cancelBlocked (s : State) (ci : Nat) : State :=
  match (s.ctx ci).st with
  | .blocked _ => if (s.ctx ci).cancel then s.killCancelled ci else s
  | _ => s

/-- The examination of context i's next bundle, and what comes of it. -/
def State.runBundle (s : State) (core i : Nat) : State :=
  let s0 := s.beginExam core i
  match s0.examine with
  | .ok e => s0.issue e
  | .error x => ((s0.stop x).cancelBlocked (4 * core + i)).failBlocked (4 * core + i)

/-- BUNDLE_ISSUE (R83): the issuing context's next bundle issues, blocks or traps. A core that may not issue does
nothing. (DESIGN CHOICE, log 10) -/
def execBundleIssue (core : Nat) (s : State) : Host.Outcome State Fault Refusal :=
  .next (match (s.core core).issuing with
  | none => s
  | some i => if s.mayExamine core i then s.runBundle core i else s)

/-- A blocked bundle would block again at the same point (R142, R143). A revoked handle whose walk does not run is another
point (R121), and so is a jemit that may send its append now (R351). (DEDUCED, log 31) -/
def State.stillBlocked (s : State) (core i : Nat) (b : BlockPoint) : Bool :=
  let s0 := s.beginExam core i
  match s0.examine with
  | .error (.block b' h) =>
    b' == b && match h with
      | none => true
      | some r => (s.core core).walks.any fun w => w.serves (4 * core + i) r (s0.handle r)
  | .error (.jemit _ _ r) => b == .jemit && r.isNone
  | _ => false

/-- A blocked context that a power-fail or a pre-emption keeps blocked (R145, R400, R448): not in a pitch with the no-replay
mark, which goes on to its next cairn. -/
def State.keptBlocked (s : State) (ci : Nat) : Bool :=
  let c := s.ctx ci
  (c.pre || s.hub.power != .on) && !s.noReplay ci

/-- CONTEXT_UNBLOCK (R141, R143): the condition at the blocking point has cleared. On the core it holds the context goes on
without a switch (R12). (DEDUCED, log 31) -/
def execContextUnblock (core ctx : Nat) (s : State) : Host.Outcome State Fault Refusal :=
  let ci := 4 * core + ctx
  match (s.ctx ci).st with
  | .blocked b =>
    if s.keptBlocked ci || s.stillBlocked core ctx b then .next s
    else if (s.core core).issuing = some ctx then
      .next ((s.modCtx ci fun c => { c with st := .issuing }).modCore core fun k =>
        { k with nextIssue := max k.nextIssue (s.cycle + 1) })
    else .next (s.makeReady ci)
  | _ => .next s

/-- RESULT_LANDING (R93): the results due land. -/
def execResultLanding (core ctx : Nat) (s : State) : Host.Outcome State Fault Refusal :=
  .next (s.modCtx (4 * core + ctx) fun c => c.landDue s.cycle)

/-- REPLAY_REISSUE (R394): replay records are re-issued in the cycle in which the next bundle is examined. -/
def execReplayReissue (core ctx : Nat) (s : State) : Host.Outcome State Fault Refusal :=
  .next (if s.mayExamine core ctx then s.modCtx (4 * core + ctx) fun c => c.startReplay s.cycle else s)

end Sys2Proof.Machine
end

