-- ==== Sys2Proof/Machine/Dispatch.lean ====
section
/-! DEFINITION. The meaning of each operation and event: one arm per constructor. -/

namespace Sys2Proof.Machine

/-- What one operation or event does to the machine. -/
def exec (i : Instr) (s : State) : Host.Outcome State Fault Refusal :=
  match i with
  | .nop => Sys2Proof.Machine.execNop s
  | .move m => Sys2Proof.Machine.execMove m s
  | .moveSplat m => Sys2Proof.Machine.execMoveSplat m s
  | .moveHi m => Sys2Proof.Machine.execMoveHi m s
  | .add u f => Sys2Proof.Machine.execAdd u f s
  | .sub u f => Sys2Proof.Machine.execSub u f s
  | .and u f => Sys2Proof.Machine.execAnd u f s
  | .or u f => Sys2Proof.Machine.execOr u f s
  | .xor u f => Sys2Proof.Machine.execXor u f s
  | .andn u f => Sys2Proof.Machine.execAndn u f s
  | .orn u f => Sys2Proof.Machine.execOrn u f s
  | .shl u f => Sys2Proof.Machine.execShl u f s
  | .shr u f => Sys2Proof.Machine.execShr u f s
  | .sra u f => Sys2Proof.Machine.execSra u f s
  | .ror u f => Sys2Proof.Machine.execRor u f s
  | .min u f => Sys2Proof.Machine.execMin u f s
  | .max u f => Sys2Proof.Machine.execMax u f s
  | .minn u f => Sys2Proof.Machine.execMinn u f s
  | .maxn u f => Sys2Proof.Machine.execMaxn u f s
  | .sel u f => Sys2Proof.Machine.execSel u f s
  | .sext8 u f => Sys2Proof.Machine.execSext8 u f s
  | .sext16 u f => Sys2Proof.Machine.execSext16 u f s
  | .sext32 u f => Sys2Proof.Machine.execSext32 u f s
  | .zext8 u f => Sys2Proof.Machine.execZext8 u f s
  | .zext16 u f => Sys2Proof.Machine.execZext16 u f s
  | .zext32 u f => Sys2Proof.Machine.execZext32 u f s
  | .clz u f => Sys2Proof.Machine.execClz u f s
  | .ctz u f => Sys2Proof.Machine.execCtz u f s
  | .popc u f => Sys2Proof.Machine.execPopc u f s
  | .bfx u f => Sys2Proof.Machine.execBfx u f s
  | .bfi u f => Sys2Proof.Machine.execBfi u f s
  | .addsh u f => Sys2Proof.Machine.execAddsh u f s
  | .ceq u k f => Sys2Proof.Machine.execCeq u k f s
  | .cne u k f => Sys2Proof.Machine.execCne u k f s
  | .clt u k f => Sys2Proof.Machine.execClt u k f s
  | .cle u k f => Sys2Proof.Machine.execCle u k f s
  | .cltn u k f => Sys2Proof.Machine.execCltn u k f s
  | .clen u k f => Sys2Proof.Machine.execClen u k f s
  | .mul f => Sys2Proof.Machine.execMul f s
  | .mulh f => Sys2Proof.Machine.execMulh f s
  | .mulhn f => Sys2Proof.Machine.execMulhn f s
  | .div f => Sys2Proof.Machine.execDiv f s
  | .divn f => Sys2Proof.Machine.execDivn f s
  | .rem f => Sys2Proof.Machine.execRem f s
  | .remn f => Sys2Proof.Machine.execRemn f s
  | .pand d f => Sys2Proof.Machine.execPand d f s
  | .por d f => Sys2Proof.Machine.execPor d f s
  | .pxor d f => Sys2Proof.Machine.execPxor d f s
  | .pnot d f => Sys2Proof.Machine.execPnot d f s
  | .pset d f => Sys2Proof.Machine.execPset d f s
  | .vany d f => Sys2Proof.Machine.execVany d f s
  | .vall d f => Sys2Proof.Machine.execVall d f s
  | .br f => Sys2Proof.Machine.execBr f s
  | .call f => Sys2Proof.Machine.execCall f s
  | .ret f => Sys2Proof.Machine.execRet f s
  | .bix f => Sys2Proof.Machine.execBix f s
  | .lset n f => Sys2Proof.Machine.execLset n f s
  | .lrot f => Sys2Proof.Machine.execLrot f s
  | .lbrk n f => Sys2Proof.Machine.execLbrk n f s
  | .trap f => Sys2Proof.Machine.execTrap f s
  | .tret f => Sys2Proof.Machine.execTret f s
  | .exit f => Sys2Proof.Machine.execExit f s
  | .yield f => Sys2Proof.Machine.execYield f s
  | .sleep f => Sys2Proof.Machine.execSleep f s
  | .brk f => Sys2Proof.Machine.execBrk f s
  | .sset f => Sys2Proof.Machine.execSset f s
  | .sadd f => Sys2Proof.Machine.execSadd f s
  | .stake f => Sys2Proof.Machine.execStake f s
  | .swait f => Sys2Proof.Machine.execSwait f s
  | .fork f => Sys2Proof.Machine.execFork f s
  | .join f => Sys2Proof.Machine.execJoin f s
  | .jadd f => Sys2Proof.Machine.execJadd f s
  | .wcan f => Sys2Proof.Machine.execWcan f s
  | .wdone f => Sys2Proof.Machine.execWdone f s
  | .gpush f => Sys2Proof.Machine.execGpush f s
  | .gpop f => Sys2Proof.Machine.execGpop f s
  | .ldb nw f => Sys2Proof.Machine.execLdb nw f s
  | .ldh nw f => Sys2Proof.Machine.execLdh nw f s
  | .ldw nw f => Sys2Proof.Machine.execLdw nw f s
  | .ldd nw f => Sys2Proof.Machine.execLdd nw f s
  | .ldbn nw f => Sys2Proof.Machine.execLdbn nw f s
  | .ldhn nw f => Sys2Proof.Machine.execLdhn nw f s
  | .ldwn nw f => Sys2Proof.Machine.execLdwn nw f s
  | .stb f => Sys2Proof.Machine.execStb f s
  | .sth f => Sys2Proof.Machine.execSth f s
  | .stw f => Sys2Proof.Machine.execStw f s
  | .std f => Sys2Proof.Machine.execStd f s
  | .vld fmt nw f => Sys2Proof.Machine.execVld fmt nw f s
  | .vst fmt f => Sys2Proof.Machine.execVst fmt f s
  | .vlds nw f => Sys2Proof.Machine.execVlds nw f s
  | .vsts f => Sys2Proof.Machine.execVsts f s
  | .vldx nw f => Sys2Proof.Machine.execVldx nw f s
  | .vstx f => Sys2Proof.Machine.execVstx f s
  | .fewait f => Sys2Proof.Machine.execFewait f s
  | .feclr f => Sys2Proof.Machine.execFeclr f s
  | .feset f => Sys2Proof.Machine.execFeset f s
  | .fetst f => Sys2Proof.Machine.execFetst f s
  | .rel sc f => Sys2Proof.Machine.execRel sc f s
  | .acq sc f => Sys2Proof.Machine.execAcq sc f s
  | .cwb f => Sys2Proof.Machine.execCwb f s
  | .cinv f => Sys2Proof.Machine.execCinv f s
  | .xlat f => Sys2Proof.Machine.execXlat f s
  | .hdrop f => Sys2Proof.Machine.execHdrop f s
  | .hchk f => Sys2Proof.Machine.execHchk f s
  | .aadd sc f => Sys2Proof.Machine.execAadd sc f s
  | .aand sc f => Sys2Proof.Machine.execAand sc f s
  | .aor sc f => Sys2Proof.Machine.execAor sc f s
  | .axor sc f => Sys2Proof.Machine.execAxor sc f s
  | .axchg sc f => Sys2Proof.Machine.execAxchg sc f s
  | .acas sc f => Sys2Proof.Machine.execAcas sc f s
  | .amax sc f => Sys2Proof.Machine.execAmax sc f s
  | .cpy q f => Sys2Proof.Machine.execCpy q f s
  | .csr q f => Sys2Proof.Machine.execCsr q f s
  | .pfr q f => Sys2Proof.Machine.execPfr q f s
  | .zfill q f => Sys2Proof.Machine.execZfill q f s
  | .qfence q f => Sys2Proof.Machine.execQfence q f s
  | .coll q f => Sys2Proof.Machine.execColl q f s
  | .evict q f => Sys2Proof.Machine.execEvict q f s
  | .cstat q f => Sys2Proof.Machine.execCstat q f s
  | .rld f => Sys2Proof.Machine.execRld f s
  | .rldv f => Sys2Proof.Machine.execRldv f s
  | .rst b f => Sys2Proof.Machine.execRst b f s
  | .rstv b f => Sys2Proof.Machine.execRstv b f s
  | .rop f => Sys2Proof.Machine.execRop f s
  | .bclose b f => Sys2Proof.Machine.execBclose b f s
  | .rdrain f => Sys2Proof.Machine.execRdrain f s
  | .sopen f => Sys2Proof.Machine.execSopen f s
  | .sclose f => Sys2Proof.Machine.execSclose f s
  | .ssend f => Sys2Proof.Machine.execSsend f s
  | .srecv f => Sys2Proof.Machine.execSrecv f s
  | .spoll f => Sys2Proof.Machine.execSpoll f s
  | .sxfer f => Sys2Proof.Machine.execSxfer f s
  | .sstat f => Sys2Proof.Machine.execSstat f s
  | .jopen f => Sys2Proof.Machine.execJopen f s
  | .jrec f => Sys2Proof.Machine.execJrec f s
  | .jemit f => Sys2Proof.Machine.execJemit f s
  | .jtrunc f => Sys2Proof.Machine.execJtrunc f s
  | .jpart f => Sys2Proof.Machine.execJpart f s
  | .jrep f => Sys2Proof.Machine.execJrep f s
  | .jstat f => Sys2Proof.Machine.execJstat f s
  | .vadd u f => Sys2Proof.Machine.execVadd u f s
  | .vsub u f => Sys2Proof.Machine.execVsub u f s
  | .vmul u f => Sys2Proof.Machine.execVmul u f s
  | .vmulh u f => Sys2Proof.Machine.execVmulh u f s
  | .vmin u f => Sys2Proof.Machine.execVmin u f s
  | .vmax u f => Sys2Proof.Machine.execVmax u f s
  | .vminn u f => Sys2Proof.Machine.execVminn u f s
  | .vmaxn u f => Sys2Proof.Machine.execVmaxn u f s
  | .vand u f => Sys2Proof.Machine.execVand u f s
  | .vor u f => Sys2Proof.Machine.execVor u f s
  | .vxor u f => Sys2Proof.Machine.execVxor u f s
  | .vandn u f => Sys2Proof.Machine.execVandn u f s
  | .vshl u f => Sys2Proof.Machine.execVshl u f s
  | .vshr u f => Sys2Proof.Machine.execVshr u f s
  | .vsra u f => Sys2Proof.Machine.execVsra u f s
  | .vabs u f => Sys2Proof.Machine.execVabs u f s
  | .vadds u f => Sys2Proof.Machine.execVadds u f s
  | .vsubs u f => Sys2Proof.Machine.execVsubs u f s
  | .vfadd u f => Sys2Proof.Machine.execVfadd u f s
  | .vfsub u f => Sys2Proof.Machine.execVfsub u f s
  | .vfmul u f => Sys2Proof.Machine.execVfmul u f s
  | .vfma u f => Sys2Proof.Machine.execVfma u f s
  | .vfnma u f => Sys2Proof.Machine.execVfnma u f s
  | .vfmin u f => Sys2Proof.Machine.execVfmin u f s
  | .vfmax u f => Sys2Proof.Machine.execVfmax u f s
  | .vrcp u f => Sys2Proof.Machine.execVrcp u f s
  | .vrsq u f => Sys2Proof.Machine.execVrsq u f s
  | .vexp2 u f => Sys2Proof.Machine.execVexp2 u f s
  | .vlog2 u f => Sys2Proof.Machine.execVlog2 u f s
  | .vtanh u f => Sys2Proof.Machine.execVtanh u f s
  | .vscale u f => Sys2Proof.Machine.execVscale u f s
  | .vtag u f => Sys2Proof.Machine.execVtag u f s
  | .vcvt u fmt f => Sys2Proof.Machine.execVcvt u fmt f s
  | .vsplat u f => Sys2Proof.Machine.execVsplat u f s
  | .vins u f => Sys2Proof.Machine.execVins u f s
  | .vext u f => Sys2Proof.Machine.execVext u f s
  | .vperm u f => Sys2Proof.Machine.execVperm u f s
  | .vrot u f => Sys2Proof.Machine.execVrot u f s
  | .vsel u f => Sys2Proof.Machine.execVsel u f s
  | .vcomp u f => Sys2Proof.Machine.execVcomp u f s
  | .vsum u f => Sys2Proof.Machine.execVsum u f s
  | .vmaxr u f => Sys2Proof.Machine.execVmaxr u f s
  | .vargmax u f => Sys2Proof.Machine.execVargmax u f s
  | .vrng u f => Sys2Proof.Machine.execVrng u f s
  | .vsample u f => Sys2Proof.Machine.execVsample u f s
  | .vpand u f => Sys2Proof.Machine.execVpand u f s
  | .vpor u f => Sys2Proof.Machine.execVpor u f s
  | .vpxor u f => Sys2Proof.Machine.execVpxor u f s
  | .vpnot u f => Sys2Proof.Machine.execVpnot u f s
  | .vpset u f => Sys2Proof.Machine.execVpset u f s
  | .vpcnt u f => Sys2Proof.Machine.execVpcnt u f s
  | .vceq u k f => Sys2Proof.Machine.execVceq u k f s
  | .vcne u k f => Sys2Proof.Machine.execVcne u k f s
  | .vclt u k f => Sys2Proof.Machine.execVclt u k f s
  | .vcle u k f => Sys2Proof.Machine.execVcle u k f s
  | .vcltn u k f => Sys2Proof.Machine.execVcltn u k f s
  | .vfceq u k f => Sys2Proof.Machine.execVfceq u k f s
  | .vfclt u k f => Sys2Proof.Machine.execVfclt u k f s
  | .vfcle u k f => Sys2Proof.Machine.execVfcle u k f s
  | .mload f => Sys2Proof.Machine.execMload f s
  | .mpush f => Sys2Proof.Machine.execMpush f s
  | .mpushv f => Sys2Proof.Machine.execMpushv f s
  | .mzero f => Sys2Proof.Machine.execMzero f s
  | .mpop f => Sys2Proof.Machine.execMpop f s
  | .mpopx f => Sys2Proof.Machine.execMpopx f s
  | .macc f => Sys2Proof.Machine.execMacc f s
  | .mrel f => Sys2Proof.Machine.execMrel f s
  | .tsload f => Sys2Proof.Machine.execTsload f s
  | .tsrun f => Sys2Proof.Machine.execTsrun f s
  | .tsstop f => Sys2Proof.Machine.execTsstop f s
  | .tsstat f => Sys2Proof.Machine.execTsstat f s
  | .xpin f => Sys2Proof.Machine.execXpin f s
  | .xpout f => Sys2Proof.Machine.execXpout f s
  | .xpclr f => Sys2Proof.Machine.execXpclr f s
  | .xpmode f => Sys2Proof.Machine.execXpmode f s
  | .bundleIssue core => Sys2Proof.Machine.execBundleIssue core s
  | .contextUnblock core ctx => Sys2Proof.Machine.execContextUnblock core ctx s
  | .resultLanding core ctx => Sys2Proof.Machine.execResultLanding core ctx s
  | .replayReissue core ctx => Sys2Proof.Machine.execReplayReissue core ctx s
  | .loadLanding core ctx token => Sys2Proof.Machine.execLoadLanding core ctx token s
  | .walkComplete core walk => Sys2Proof.Machine.execWalkComplete core walk s
  | .pitchRelease core ctx => Sys2Proof.Machine.execPitchRelease core ctx s
  | .dirtyFifoDrain core => Sys2Proof.Machine.execDirtyFifoDrain core s
  | .trapDelivery core ctx => Sys2Proof.Machine.execTrapDelivery core ctx s
  | .gatherRowArrival core ctx => Sys2Proof.Machine.execGatherRowArrival core ctx s
  | .entryAdmit core q => Sys2Proof.Machine.execEntryAdmit core q s
  | .promiseLanding core ctx token => Sys2Proof.Machine.execPromiseLanding core ctx token s
  | .promiseMissed core q => Sys2Proof.Machine.execPromiseMissed core q s
  | .cpyCommand core q n => Sys2Proof.Machine.execCpyCommand core q n s
  | .csrCommand core q n => Sys2Proof.Machine.execCsrCommand core q n s
  | .pfrCommand core q n => Sys2Proof.Machine.execPfrCommand core q n s
  | .zfillCommand core q n => Sys2Proof.Machine.execZfillCommand core q n s
  | .qfenceCommand core q => Sys2Proof.Machine.execQfenceCommand core q s
  | .collCommand core q members => Sys2Proof.Machine.execCollCommand core q members s
  | .evictCommand core q n => Sys2Proof.Machine.execEvictCommand core q n s
  | .segmentReplay core q served => Sys2Proof.Machine.execSegmentReplay core q served s
  | .collTimeout core q => Sys2Proof.Machine.execCollTimeout core q s
  | .eqcfgWrite core q v => Sys2Proof.Machine.execEqcfgWrite core q v s
  | .queueDisableComplete core q => Sys2Proof.Machine.execQueueDisableComplete core q s
  | .rldRequest p => Sys2Proof.Machine.execRldRequest p s
  | .rldvRequest p => Sys2Proof.Machine.execRldvRequest p s
  | .rstRequest p => Sys2Proof.Machine.execRstRequest p s
  | .rstvRequest p => Sys2Proof.Machine.execRstvRequest p s
  | .ropRequest p => Sys2Proof.Machine.execRopRequest p s
  | .closeRequest p => Sys2Proof.Machine.execCloseRequest p s
  | .rldReply p => Sys2Proof.Machine.execRldReply p s
  | .rldvReply p => Sys2Proof.Machine.execRldvReply p s
  | .ropReply p => Sys2Proof.Machine.execRopReply p s
  | .writeAcknowledgement p => Sys2Proof.Machine.execWriteAcknowledgement p s
  | .summaryReply p => Sys2Proof.Machine.execSummaryReply p s
  | .requestTimeout tag => Sys2Proof.Machine.execRequestTimeout tag s
  | .tallyExpiry smod sctx batch => Sys2Proof.Machine.execTallyExpiry smod sctx batch s
  | .fabslotWrite slot v => Sys2Proof.Machine.execFabslotWrite slot v s
  | .migration die n => Sys2Proof.Machine.execMigration die n s
  | .migrationHoldTimeout die => Sys2Proof.Machine.execMigrationHoldTimeout die s
  | .itemSend sid => Sys2Proof.Machine.execItemSend sid s
  | .itemArrival m => Sys2Proof.Machine.execItemArrival m s
  | .itemAcceptance m => Sys2Proof.Machine.execItemAcceptance m s
  | .spaceReport m => Sys2Proof.Machine.execSpaceReport m s
  | .arrived m => Sys2Proof.Machine.execArrived m s
  | .moved m => Sys2Proof.Machine.execMoved m s
  | .redirected m => Sys2Proof.Machine.execRedirected m s
  | .drained m => Sys2Proof.Machine.execDrained m s
  | .moduleDownNotice f => Sys2Proof.Machine.execModuleDownNotice f s
  | .ringHostRequest m => Sys2Proof.Machine.execRingHostRequest m s
  | .journalAppend m => Sys2Proof.Machine.execJournalAppend m s
  | .appendAcknowledgement m => Sys2Proof.Machine.execAppendAcknowledgement m s
  | .orphanHoldoffExpiry sid => Sys2Proof.Machine.execOrphanHoldoffExpiry sid s
  | .macroEntryStart core cim => Sys2Proof.Machine.execMacroEntryStart core cim s
  | .pushRowAdded core push => Sys2Proof.Machine.execPushRowAdded core push s
  | .operandsConsumed core push => Sys2Proof.Machine.execOperandsConsumed core push s
  | .pushComplete core push => Sys2Proof.Machine.execPushComplete core push s
  | .mloadComplete core slot => Sys2Proof.Machine.execMloadComplete core slot s
  | .sequencerState core => Sys2Proof.Machine.execSequencerState core s
  | .shootdown die v => Sys2Proof.Machine.execShootdown die v s
  | .shootdownComplete die => Sys2Proof.Machine.execShootdownComplete die s
  | .genAdvance slot v => Sys2Proof.Machine.execGenAdvance slot v s
  | .onchipSweepComplete slot => Sys2Proof.Machine.execOnchipSweepComplete slot s
  | .coreslotChange core v => Sys2Proof.Machine.execCoreslotChange core v s
  | .blockReassign die v => Sys2Proof.Machine.execBlockReassign die v s
  | .sweepVisit die cell => Sys2Proof.Machine.execSweepVisit die cell s
  | .passEnd => Sys2Proof.Machine.execPassEnd s
  | .swctlWrite v => Sys2Proof.Machine.execSwctlWrite v s
  | .woCreate v => Sys2Proof.Machine.execWoCreate v s
  | .woSeal v => Sys2Proof.Machine.execWoSeal v s
  | .woAdd v => Sys2Proof.Machine.execWoAdd v s
  | .woCancel v => Sys2Proof.Machine.execWoCancel v s
  | .woFree v => Sys2Proof.Machine.execWoFree v s
  | .launchPacket wq obj places => Sys2Proof.Machine.execLaunchPacket wq obj places s
  | .go core row v => Sys2Proof.Machine.execGo core row v s
  | .dispatchBind core row => Sys2Proof.Machine.execDispatchBind core row s
  | .pendingBind core => Sys2Proof.Machine.execPendingBind core s
  | .preRequest core row => Sys2Proof.Machine.execPreRequest core row s
  | .preemptSave core ctx => Sys2Proof.Machine.execPreemptSave core ctx s
  | .resume core ctx v => Sys2Proof.Machine.execResume core ctx v s
  | .redirect core ctx v => Sys2Proof.Machine.execRedirect core ctx v s
  | .kill core ctx v => Sys2Proof.Machine.execKill core ctx v s
  | .replyToSaved core row r => Sys2Proof.Machine.execReplyToSaved core row r s
  | .csave core v => Sys2Proof.Machine.execCsave core v s
  | .crest core v => Sys2Proof.Machine.execCrest core v s
  | .parityRetry b => Sys2Proof.Machine.execParityRetry b s
  | .laneSwap b => Sys2Proof.Machine.execLaneSwap b s
  | .retireRequest die v => Sys2Proof.Machine.execRetireRequest die v s
  | .errorLogClear die off v => Sys2Proof.Machine.execErrorLogClear die off v s
  | .latecntWrite v => Sys2Proof.Machine.execLatecntWrite v s
  | .authcntWrite v => Sys2Proof.Machine.execAuthcntWrite v s
  | .wldcfgWrite slot world v => Sys2Proof.Machine.execWldcfgWrite slot world v s
  | .kgen mbox world v => Sys2Proof.Machine.execKgen mbox world v s
  | .kimp mbox world v => Sys2Proof.Machine.execKimp mbox world v s
  | .kdrop mbox world v => Sys2Proof.Machine.execKdrop mbox world v s
  | .certw mbox world v => Sys2Proof.Machine.execCertw mbox world v s
  | .sleepCommand mbox world v => Sys2Proof.Machine.execSleepCommand mbox world v s
  | .wake images kept => Sys2Proof.Machine.execWake images kept s
  | .chal => Sys2Proof.Machine.execChal s
  | .cert => Sys2Proof.Machine.execCert s
  | .importKey => Sys2Proof.Machine.execImportKey s
  | .networkPacketArrival p => Sys2Proof.Machine.execNetworkPacketArrival p s
  | .hostAccess a => Sys2Proof.Machine.execHostAccess a s
  | .managementFrame f => Sys2Proof.Machine.execManagementFrame f s
  | .resetBoot b => Sys2Proof.Machine.execResetBoot b s
  | .powerStepPins level => Sys2Proof.Machine.execPowerStepPins level s
  | .powerStepDatagram d => Sys2Proof.Machine.execPowerStepDatagram d s
  | .ceilingApply => Sys2Proof.Machine.execCeilingApply s
  | .powerFail => Sys2Proof.Machine.execPowerFail s
  | .powerReturn b => Sys2Proof.Machine.execPowerReturn b s
  | .selfRefreshExpiry => Sys2Proof.Machine.execSelfRefreshExpiry s
  | .registerWrite blk off v => Sys2Proof.Machine.execRegisterWrite blk off v s
  | .generalPurposeCoreAccess a => Sys2Proof.Machine.execGeneralPurposeCoreAccess a s
  | .spaceReportSend sid => Sys2Proof.Machine.execSpaceReportSend sid s
  | .closeNotice m => Sys2Proof.Machine.execCloseNotice m s
  | .movedAcknowledgement m => Sys2Proof.Machine.execMovedAcknowledgement m s
  | .ringHostAnswer m => Sys2Proof.Machine.execRingHostAnswer m s
  | .ringHostTimeout jidx => Sys2Proof.Machine.execRingHostTimeout jidx s
  | .jrecRequest m => Sys2Proof.Machine.execJrecRequest m s
  | .jrecReply m => Sys2Proof.Machine.execJrecReply m s
  | .releaseMessage m => Sys2Proof.Machine.execReleaseMessage m s
  | .releaseNotice m => Sys2Proof.Machine.execReleaseNotice m s
  | .belayNote m => Sys2Proof.Machine.execBelayNote m s
  | .ringCopy m => Sys2Proof.Machine.execRingCopy m s

end Sys2Proof.Machine
end

