-- ==== Sys2Proof/Machine/Schedule.lean ====
section
/-! DEFINITION. The machine's own work, where its agenda names none: what is in hand, in a fixed order, and the passing of
an issue cycle; and the placing of an instruction where the next step issues it. -/

namespace Sys2Proof.Machine

/-- An event the machine may perform of itself, by what it concerns. -/
inductive Auto
  | powerReturn (b : BootBlob)
  | powerFail
  | msg (m : Msg)
  | trap (core ctx : Nat)
  | release (core ctx : Nat)
  | save (core ctx : Nat)
  | load (core ctx token : Nat)
  | walk (core walk : Nat)
  | drain (core : Nat)
  | reply (core row : Nat) (r : Reply)
  | dispatch (core row : Nat)
  | pending (core : Nat)
  | csave (core : Nat)
  | entryIn (core q : Nat)
  | command (core q cmd : Nat)
  | promise (core ctx token : Nat)
  | missed (core q : Nat)
  | collTime (core q : Nat)
  | disabled (core q : Nat)
  | entry (core cim : Nat)
  | addRow (core push : Nat)
  | consumed (core push : Nat)
  | complete (core push : Nat)
  | loaded (core slot : Nat)
  | gather (core ctx : Nat)
  | sequencer (core : Nat)
  | item (sid : StreamId)
  | space (sid : StreamId)
  | request (tag : Nat)
  | tally (smod : BitVec 12) (sctx : BitVec 9) (batch : BitVec 2)
  | holdoff (sid : StreamId)
  | ringTime (jidx : BitVec 12)
  | shot (die : BitVec 2)
  | sweep (slot : BitVec 4)
  | passEnd
  | migrate (die : BitVec 2) (n : Nat)
  | holdTime (die : BitVec 2)
  | ceiling
  | verifier (k : VerifierKind)
  | unblock (core ctx : Nat)
  | issue (core : Nat)
  deriving DecidableEq, Repr

/-- A packet for this module acts by its kind (R290). -/
def runPacket (p : Packet) (s : State) : Host.Outcome State Fault Refusal :=
  match p.kind.toNat with
  | 1 => execRldRequest p s
  | 2 => execRldvRequest p s
  | 3 => execRstRequest p s
  | 4 => execRstvRequest p s
  | 5 => execRopRequest p s
  | 6 => execCloseRequest p s
  | 33 => execRldReply p s
  | 34 => execRldvReply p s
  | 35 => execWriteAcknowledgement p s
  | 36 => execWriteAcknowledgement p s
  | 37 => execRopReply p s
  | 38 => execSummaryReply p s
  | _ => .next s

/-- A message of this module to itself acts. -/
def runMsg (m : Msg) (s : State) : Host.Outcome State Fault Refusal :=
  match m with
  | .packet p => runPacket p s
  | .item m => execItemArrival m s
  | .ack m => execItemAcceptance m s
  | .space m => execSpaceReport m s
  | .arrived m => execArrived m s
  | .moved m => execMoved m s
  | .movedAck m => execMovedAcknowledgement m s
  | .redirected m => execRedirected m s
  | .drained m => execDrained m s
  | .close m => execCloseNotice m s
  | .note m => execBelayNote m s
  | .ringReq m => execRingHostRequest m s
  | .ringAns m => execRingHostAnswer m s
  | .append m => execJournalAppend m s
  | .appendAck m => execAppendAcknowledgement m s
  | .jrecReq m => execJrecRequest m s
  | .jrecRep m => execJrecReply m s
  | .release m => execReleaseMessage m s
  | .notice m => execReleaseNotice m s
  | .copy m => execRingCopy m s
  | .coll _ _ => .next s
  | .out _ => .next s

/-- The command at the head of a queue goes on by up to 64 accesses. -/
def runCommand (core q cmd : Nat) (s : State) : Host.Outcome State Fault Refusal :=
  match cmd with
  | 1 => execCpyCommand core q 64 s
  | 2 => execCsrCommand core q 64 s
  | 3 => execPfrCommand core q 64 s
  | 4 => execZfillCommand core q 64 s
  | 5 => execQfenceCommand core q s
  | 6 => execCollCommand core q [] s
  | 7 => execEvictCommand core q 64 s
  | _ => execCpyCommand core q 64 s

/-- What an event of the machine's own does: the meaning of its instruction. (DESIGN CHOICE, log 9) -/
def Auto.run (a : Auto) (s : State) : Host.Outcome State Fault Refusal :=
  match a with
  | .powerReturn b => execPowerReturn b s
  | .powerFail => execPowerFail s
  | .msg m => runMsg m s
  | .trap core ctx => execTrapDelivery core ctx s
  | .release core ctx => execPitchRelease core ctx s
  | .save core ctx => execPreemptSave core ctx s
  | .load core ctx token => execLoadLanding core ctx token s
  | .walk core w => execWalkComplete core w s
  | .drain core => execDirtyFifoDrain core s
  | .reply core row r => execReplyToSaved core row r s
  | .dispatch core row => execDispatchBind core row s
  | .pending core => execPendingBind core s
  | .csave core => execCsave core 0 s
  | .entryIn core q => execEntryAdmit core q s
  | .command core q cmd => runCommand core q cmd s
  | .promise core ctx token => execPromiseLanding core ctx token s
  | .missed core q => execPromiseMissed core q s
  | .collTime core q => execCollTimeout core q s
  | .disabled core q => execQueueDisableComplete core q s
  | .entry core cim => execMacroEntryStart core cim s
  | .addRow core push => execPushRowAdded core push s
  | .consumed core push => execOperandsConsumed core push s
  | .complete core push => execPushComplete core push s
  | .loaded core slot => execMloadComplete core slot s
  | .gather core ctx => execGatherRowArrival core ctx s
  | .sequencer core => execSequencerState core s
  | .item sid => execItemSend sid s
  | .space sid => execSpaceReportSend sid s
  | .request tag => execRequestTimeout tag s
  | .tally smod sctx batch => execTallyExpiry smod sctx batch s
  | .holdoff sid => execOrphanHoldoffExpiry sid s
  | .ringTime jidx => execRingHostTimeout jidx s
  | .shot die => execShootdownComplete die s
  | .sweep slot => execOnchipSweepComplete slot s
  | .passEnd => execPassEnd s
  | .migrate die n => execMigration die n s
  | .holdTime die => execMigrationHoldTimeout die s
  | .ceiling => execCeilingApply s
  | .verifier k =>
    match k with
    | .chal => execChal s
    | .cert => execCert s
    | .imp => execImportKey s
  | .unblock core ctx => execContextUnblock core ctx s
  | .issue core => execBundleIssue core s

/-- The work in hand of one context. -/
def Ctx.autos (ci : Nat) (c : Ctx) (cycle : Nat) : List Auto :=
  let core := ci / 4
  let i := ci % 4
  (if c.record.isSome && !c.queued then [.trap core i] else []) ++
  c.loads.map (fun l => .load core i l.tok) ++
  (if c.iq.any fun r => decide (r.due ≤ cycle) then [.gather core i] else [])

/-- A blocked context, whose condition may have cleared. -/
def Ctx.blockedAutos (ci : Nat) (c : Ctx) : List Auto :=
  match c.st with
  | .blocked _ => [.unblock (ci / 4) (ci % 4)]
  | _ => []

/-- The work in hand of an engine command queue. -/
def EngQ.autos (core q : Nat) (e : EngQ) (cycle : Nat) : List Auto :=
  (if e.cfg.getLsbD 63 then [.entryIn core q] else []) ++
  (match e.cmds with | [] => [] | c :: _ => [.command core q (pkCmd c.packet), .collTime core q, .missed core q]) ++
  (e.proms.filter fun p => decide (p.due ≤ cycle)).map (fun p => .promise core (p.ctx % 4) p.tok) ++
  (if e.closing then [.disabled core q] else [])

/-- The work in hand of a push or mload. -/
def MOp.autos (core : Nat) (m : MOp) : List Auto :=
  if m.load then [.loaded core m.b.toNat]
  else [.addRow core m.id, .consumed core m.id, .complete core m.id]

/-- The work in hand of one core. -/
def Core.autos (core : Nat) (k : Core) (cycle : Nat) : List Auto :=
  (k.walks.filter fun w => w.failed.isNone).map (fun w => .walk core w.id) ++
  (if k.fifo.isEmpty then [] else [.drain core]) ++
  (k.toSaved.map fun p => (k.units.filter fun u => u.savea == p.1).map fun u => Auto.reply core u.row p.2).flatten ++
  k.goRows.map (fun r => .dispatch core r) ++
  (if k.goPend.isEmpty then [] else [.pending core]) ++
  (if k.csave.getLsbD 63 then [.csave core] else []) ++
  (k.eq.map fun e => e.2.autos core e.1 cycle).flatten ++
  (if k.mops.isEmpty && k.macts.isEmpty then [] else (List.range 16).map (.entry core ·)) ++
  (k.mops.map (MOp.autos core)).flatten ++
  (if k.ts.run then [.sequencer core] else [])

/-- The work in hand of a stream. -/
def StreamEntry.autos (sid : StreamId) (e : StreamEntry) (dtime : Nat) : List Auto :=
  (match e.prod with | some r => if r.queue.isEmpty then [] else [.item sid] | none => []) ++
  (match e.cons with
    | some r => (match r.report with | some t => if t ≤ dtime then [.space sid] else [] | none => [])
    | none => []) ++
  (if [e.prod, e.cons].any fun x => x.any fun r => r.hold.isSome then [.holdoff sid] else [])

/-- The stream a table place of this module's stream table stands for. -/
def sidOf (k : Nat) : StreamId := ⟨BitVec.ofNat 12 (k / 65536), BitVec.ofNat 16 k⟩

/-- The work in hand of a die. -/
def Die.autos (d : Nat) (x : Die) : List Auto :=
  let die := BitVec.ofNat 2 d
  (if x.sdctl.getLsbD 63 then [.shot die] else []) ++
  (match x.migr with
    | none => []
    | some g => [.holdTime die,
        .migrate die (if g.hold.isSome then 0 else if g.copied < 512 then 512 else if g.dirty = 0 then 0 else 512)])

/-- The work in hand of the hub. -/
def State.hubAutos (s : State) : List Auto :=
  (s.hub.streams.map fun e => e.2.autos (sidOf e.1) s.dtime).flatten ++
  ((s.hub.tags.filter fun t => t.2.req.isSome).map fun t => Auto.request t.1) ++
  (if s.hub.waiting.isEmpty then [] else (s.freeTag.map Auto.request).toList) ++
  s.hub.jrecs.map (fun x => .request (4096 + x.2.1)) ++
  s.hub.tally.map (fun t => .tally t.smod t.sctx t.batch) ++
  s.hub.jops.map (fun o => .ringTime (BitVec.ofNat 12 o.jidx)) ++
  ((s.hub.slots.filter fun t => t.2.busy).map fun t => Auto.sweep (BitVec.ofNat 4 t.1)) ++
  (if (s.hubReg 0xC000).getLsbD 63 then [.ceiling] else []) ++
  (match s.hub.caddy.queue with | [] => [] | x :: _ => [.verifier x.1])

/-- A core's issuing context could take a task from its own deque in this cycle (R385). -/
def State.ownsTask (s : State) (core : Nat) : Bool :=
  match (s.core core).issuing with
  | none => false
  | some i => (({ s with cur := { core := core, ctx := i } } : State).endTask core true).isSome

/-- The keys of the tasks in a core's cluster that context ci holds. -/
def State.tasksHeld (s : State) (ci : Nat) : List Nat :=
  (clusterCores (ci / 4)).flatMap fun k =>
    ((s.core k).deque.filter fun t => t.held.any fun h => h.1 == ci).map (·.key)

/-- A core's next bundle gives back a task that its context holds: its pitch rolls back or fails its check (R384). -/
def State.returnsTask (s : State) (core : Nat) : Bool :=
  match (s.core core).issuing with
  | none => false
  | some i =>
    let held := s.tasksHeld (4 * core + i)
    !held.isEmpty && s.mayExamine core i && !held.all (((s.runBundle core i).tasksHeld (4 * core + i)).contains ·)

/-- The cores in the order in which their bundles of one cycle issue: those that give a task back (R384), those with a task of
their own before those that may steal it, each by number (R385). -/
def State.issueOrder (s : State) : List Nat :=
  let l := s.cores.map Prod.fst
  let back := l.filter s.returnsTask
  let rest := l.filter fun k => !back.contains k
  back ++ rest.filter s.ownsTask ++ rest.filter fun k => !s.ownsTask k

/-- The contexts whose pre-emption is asked for. -/
def State.saveAutos (s : State) : List Auto := (s.ctxs.filter fun c => c.2.pre).map fun c => .save (c.1 / 4) (c.1 % 4)

/-- The rows of pushes that may be due (R218): one that a read of the cycle is to see is added before the cycle's issues. -/
def State.rowAutos (s : State) : List Auto :=
  (s.cores.map fun k => (k.2.mops.filter fun m => !m.load).map fun m => Auto.addRow k.1 m.id).flatten

/-- A power-fail is in progress (R448). -/
def Power.isFailing : Power → Bool
  | .failing _ => true
  | _ => false

/-- The work of a cycle that belongs to no bundle's issue and no release: power, messages, contexts, cores, then pre-emptions, so
that a trap of the same cycle comes first (R399), dies and hub; then blocked contexts, which are ready in the next cycle (R141). -/
def State.restAutos (s : State) : List Auto :=
  (if s.hub.power.isFailing then [.powerFail] else []) ++
  s.net.map Auto.msg ++
  (s.ctxs.map fun c => c.2.autos c.1 s.cycle).flatten ++
  (s.cores.map fun k => k.2.autos k.1 s.cycle).flatten ++
  s.saveAutos ++
  (s.dies.map fun d => d.2.autos d.1).flatten ++
  s.hubAutos ++
  (s.ctxs.map fun c => c.2.blockedAutos c.1).flatten

/-- The machine stands at the start of a device-time tick: nothing has performed in it (R313). -/
def State.atTick (s : State) : Bool := s.stage == 3 && decide (s.tfrac < 1000)

/-- A bus write reaches a TSCTL register (R302, R439). -/
def reachesTsctl (a : BusAccess) : Bool :=
  a.write && decide (a.pa.toNat < 0x1F80003200) && decide (0x1F80003000 < a.pa.toNat + a.data.length)

/-- An event that may bring an increment of a generation: it takes effect at the start of a device-time tick and governs the whole
tick (R313), so it waits in the agenda until then. (DESIGN CHOICE, log 9) -/
def waitsForTick (i : Instr) : Bool :=
  match i with
  | .genAdvance _ _ => true
  | .passEnd => true
  | .wake _ _ => true
  | .powerReturn _ => true
  | .registerWrite .hub off _ => decide (0x3000 ≤ off.toNat) && decide (off.toNat < 0x3200)
  | .hostAccess a => reachesTsctl a
  | .generalPurposeCoreAccess a => reachesTsctl a
  | _ => false

/-- The stage of the cycle an operation or event of the agenda takes place at (R150): a bundle's operations at its issue, a release
among the releases, all else after them; a burst at any. (DESIGN CHOICE, log 9) -/
def stageOf (i : Instr) : Option Nat :=
  match i with
  | .bundleIssue _ => some 0
  | .resultLanding _ _ => some 0
  | .replayReissue _ _ => some 0
  | .pitchRelease _ _ => some 1
  | .pushRowAdded _ _ => some 3
  | .parityRetry _ => none
  | .laneSwap _ => none
  | _ => some (if i.view.isSome then 0 else 2)

/-- The time of an item of the agenda has come (R150, R313). -/
def State.hasCome (s : State) (i : Instr) : Bool :=
  if waitsForTick i then s.atTick else (stageOf i).all fun k => s.stage == k

/-- The work in hand at a stage of the cycle, in the order in which the machine takes it (R150, R385): the end of a sweep pass,
whose increments take effect at the start of a tick (R313), and rows of pushes; the cores' issue; the releases, by context
number; all else. In deep sleep, in self-refresh, and while its contents are lost, the module does nothing of itself (R437, R448
to R450). (DESIGN CHOICE, logs 9, 68) -/
def State.autos (s : State) : List Auto :=
  match s.hub.power with
  | .resuming b => if s.atTick then [.powerReturn b] else []
  | .refresh => []
  | .sleep => []
  | .lost => []
  | _ =>
    match s.stage with
    | 3 => (if s.atTick && (List.range 4).all fun d => (s.die d).passDone then [.passEnd] else []) ++ s.rowAutos
    | 0 => s.issueOrder.map Auto.issue
    | 1 => (s.ctxs.filter fun c => !c.2.path.isEmpty).map fun c => .release (c.1 / 4) (c.1 % 4)
    | _ => s.restAutos

/-- The next state of an outcome that changes the state. -/
def changed (s : State) : Host.Outcome State Fault Refusal → Option State
  | .next t => if t = s then none else some t
  | _ => none

/-- The first event of a list that changes the state, with what it makes of it. (DESIGN CHOICE, log 9) -/
def State.firstAuto (s : State) : List Auto → Option State
  | [] => none
  | a :: r =>
    match changed s (a.run s) with
    | some t => some t
    | none => s.firstAuto r

/-- An issue cycle goes by (R3, R13): 1000/MHz ns of device time. (DESIGN CHOICE, log 9) -/
def State.tick (s : State) : State :=
  let f := s.tfrac + 1000
  { s with cycle := s.cycle + 1, stage := 3, dtime := s.dtime + f / s.mhz, tfrac := f % s.mhz }

/-- The signals of work objects, in the order in which they came (R150). -/
def State.takeSignals (s : State) : State :=
  s.hub.sigs.foldl (fun x g => x.addSem g.1 g.2.1 g.2.2) { s with hub := { s.hub with sigs := [] } }

/-- The next stage of the cycle, or the next cycle (R150). -/
def State.advance (s : State) : State :=
  match s.stage with
  | 3 => { s with stage := 0 }
  | 0 => { s with stage := 1 }
  | 1 => { s.takeSignals with stage := 2 }
  | _ => s.tick

/-- What the machine does of itself: the first work in hand that changes anything, or time goes by. -/
def State.idleStep (s : State) : State := (s.firstAuto s.autos).getD s.advance

/-- A line whose burst fails is delivered poisoned in the next step (R415): what was there before this step goes. (DESIGN
CHOICE, log 61) -/
def State.endBurst (old : List Nat) (t : State) : State := { t with burst := t.burst.take (t.burst.length - old.length) }

/-- The bytes the placed program's fetch reads: page tables that map the first 16 MiB to physical 0x1000000 under a slot,
the two code words, and the start map. -/
def placedBytes (slot : BitVec 4) : List (Nat × List Byte) :=
  [(0x10000, bytesOf (BitVec.ofNat 64 0x14001) 8), (0x14000, bytesOf (BitVec.ofNat 64 0x18001) 8),
   (0x18000, bytesOf (BitVec.ofNat 64 (0x100018F + slot.toNat * 2 ^ 59)) 8),
   (0x1001000, [0, 0, 1, 0]), (0x1002000, [1])]

/-- The bundle that ends the placed program: an empty one with PITCH and CAIRN (R60). -/
def placedEnd : BundleBits := 0x30000000

/-- The kernel of the placed program: two bundles and one pitch. (DESIGN CHOICE, log 8) -/
def placedKernel : Kernel :=
  { code := 0x1000, ncode := 2, npitch := 1, smap := 0x2000, ptab := 0x3000, dlen := 2 }

/-- One byte put at home as plaintext, in a sector that is clean and current. -/
def State.placeByte (s : State) (pa : Nat) (b : Byte) : State :=
  let o := s.owner pa
  let m := s.mem
  { s with mem := { m with
      bytes := Tab.put 0 m.bytes pa b
      key := Tab.erase m.key (pa / 16)
      poison := Tab.erase m.poison (pa / 128)
      stamp := if o < 16 then Tab.put 0 m.stamp (pa / 128) (s.tslot o).gen else m.stamp } }

/-- A run of bytes put at home. -/
def State.placeBytes (s : State) : Nat → List Byte → State
  | _, [] => s
  | pa, b :: r => (s.placeByte pa b).placeBytes (pa + 1) r

/-- The state with a bundle at code address 0 of context 0 of core 0, which issues it next. (DESIGN CHOICE, log 8) -/
def State.placeBundle (s : State) (b : BundleBits) : State :=
  let slot := s.coreSlot 0
  let gen := s.coreGen 0
  let s1 := (placedBytes slot).foldl (fun x e => x.placeBytes e.1 e.2) s
  let s2 := s1.modTslot slot.toNat fun t => { t with root := 0x10000 }
  let s3 := s2.modCore 0 fun k =>
    { k with dict := Tab.set (Tab.set k.dict 0 (some { bits := b, stamp := gen })) 1 (some { bits := placedEnd, stamp := gen }),
             issuing := some 0, nextIssue := s.cycle }
  let s4 := s3.modCtx 0 fun c =>
    { c with st := .issuing, next := {}, kern := placedKernel, stamp := gen, after := .none, wake := none, asyncDue := false,
             atCairn := false }
  { s4 with stage := 0, hub := { s4.hub with power := .on }, agenda := [.bundleIssue 0], upsets := [] }

end Sys2Proof.Machine
end

