-- ==== Sys2Proof/Machine/Step.lean ====
section
/-! DEFINITION. One step of the machine, and where an instruction is placed to be the next. -/

namespace Sys2Proof.Machine

/-- What a step does once the soft errors it begins with are taken. -/
def State.proceed (s : State) : Host.Outcome State Fault Refusal :=
  match s.agenda with
  | i :: r =>
    if s.hasCome i then
      match exec i { s with agenda := r } with
      | .next t => .next (t.endBurst s.burst)
      | o => o
    else .next (s.idleStep.endBurst s.burst)
  | [] => .next (s.idleStep.endBurst s.burst)

/-- One step: soft errors (R410, R412); then the next operation or event of the agenda, or, where the agenda is empty, what
the machine does of itself. (DESIGN CHOICE, log 9) -/
def step (s : State) : Host.Outcome State Fault Refusal := s.takeUpsets.proceed

/-- An instruction, given as a bundle's bits, placed where the next step issues it. (DESIGN CHOICE, log 8) -/
def State.withFetchWord (s : State) (nbits w : Nat) : State := s.placeBundle (BitVec.ofNat 384 (w % 2 ^ nbits))

end Sys2Proof.Machine
end

