-- ==== Sys2Proof/Certificates/Slice0/Obligations.lean ====
section
/-! DEFINITION. The statements about the machine, one or more for each family of operations and events, with the notions they
are stated in. -/

section

open Sys2Proof Sys2Proof.Machine

namespace Sys2Proof.Spec

open Sys2Proof.Machine

/-- A guard outside slots 3 and 4 that is true and not poisoned; nor is rrb, by which a destination is renamed (R61, R92, R396). -/
def on (s : State) (g : Guard) : Prop := s.guardReady false g = .ok () ∧ s.guard g = true ∧ s.intact (.sp 7) = .ok ()
/-- A guard outside slots 3 and 4 that is false and not poisoned. -/
def off (s : State) (g : Guard) : Prop := s.guardReady false g = .ok () ∧ s.guard g = false

/-- A 64-bit result computed as a number (R90: modulo 2^64). -/
def n64 (n : Nat) : Word := BitVec.ofNat 64 n
/-- A 64-bit result computed as an integer. -/
def z64 (z : Int) : Word := BitVec.ofInt 64 z
/-- Bit i of a field operation's result. -/
def bits64 (f : Nat → Bool) : Word := BitVec.ofFnLE fun i : Fin 64 => f i

/-- The operations of R99 with their results for T, O and L. -/
def alu (t o l : Word) : List ((AluUnit → OpS → Instr) × Word) :=
  let n := o.toNat % 64
  let pos := fun (x : Word) => x.toNat % 64
  let len := fun (x : Word) => x.toNat / 64 % 64 + 1
  [ (.add, n64 (t.toNat + o.toNat)),
    (.sub, z64 (t.toNat - o.toNat)),
    (.and, bits64 fun i => t.getLsbD i && o.getLsbD i),
    (.or, bits64 fun i => t.getLsbD i || o.getLsbD i),
    (.xor, bits64 fun i => t.getLsbD i != o.getLsbD i),
    (.andn, bits64 fun i => t.getLsbD i && !o.getLsbD i),
    (.orn, bits64 fun i => t.getLsbD i || !o.getLsbD i),
    (.shl, n64 (t.toNat * 2 ^ n)),
    (.shr, n64 (t.toNat / 2 ^ n)),
    (.sra, z64 (t.toInt / 2 ^ n)),
    (.ror, bits64 fun i => t.getLsbD ((i + n) % 64)),
    (.min, z64 (min t.toInt o.toInt)),
    (.max, z64 (max t.toInt o.toInt)),
    (.minn, n64 (min t.toNat o.toNat)),
    (.maxn, n64 (max t.toNat o.toNat)),
    (.sel, if t = 0 then l else o),
    (.sext8, z64 (Int.bmod t.toNat (2 ^ 8))),
    (.sext16, z64 (Int.bmod t.toNat (2 ^ 16))),
    (.sext32, z64 (Int.bmod t.toNat (2 ^ 32))),
    (.zext8, n64 (t.toNat % 2 ^ 8)),
    (.zext16, n64 (t.toNat % 2 ^ 16)),
    (.zext32, n64 (t.toNat % 2 ^ 32)),
    (.clz, n64 ((List.range 64).findIdx fun i => t.getLsbD (63 - i))),
    (.ctz, n64 ((List.range 64).findIdx fun i => t.getLsbD i)),
    (.popc, n64 ((List.range 64).countP fun i => t.getLsbD i)),
    (.bfx, n64 (t.toNat / 2 ^ pos o % 2 ^ len o)),
    (.bfi, bits64 fun i => if pos l ≤ i ∧ i < pos l + len l then o.getLsbD (i - pos l) else t.getLsbD i),
    (.addsh, n64 (t.toNat + o.toNat * 2 ^ (l.toNat % 64))) ]

/-- The compares of R100 with their conditions. -/
def compares (t o : Word) : List ((AluUnit → BitVec 4 → OpS → Instr) × Bool) :=
  [ (.ceq, decide (t = o)), (.cne, decide (t ≠ o)), (.clt, decide (t.toInt < o.toInt)),
    (.cle, decide (t.toInt ≤ o.toInt)), (.cltn, decide (t.toNat < o.toNat)), (.clen, decide (t.toNat ≤ o.toNat)) ]

/-- The multiplies of R102 with what lands in mul.r and mul.h. -/
def muls (t o : Word) : List ((OpS → Instr) × Word × Word) :=
  let p := t.toInt * o.toInt
  let u := t.toNat * o.toNat
  [ (.mul, z64 p, z64 (p / 2 ^ 64)), (.mulh, z64 (p / 2 ^ 64), z64 p), (.mulhn, n64 (u / 2 ^ 64), n64 u) ]

/-- The divides of R103 with what lands in mul.r and mul.h. -/
def divs (t o : Word) : List ((OpS → Instr) × Word × Word) :=
  let q := if o = 0 then z64 (-1) else z64 (t.toInt.tdiv o.toInt)
  let m := if o = 0 then t else z64 (t.toInt.tmod o.toInt)
  let qn := if o = 0 then z64 (-1) else n64 (t.toNat / o.toNat)
  let mn := if o = 0 then t else n64 (t.toNat % o.toNat)
  [ (.div, q, m), (.divn, qn, mn), (.rem, m, q), (.remn, mn, qn) ]

/-- The write-back: W renamed through rrb where it is 32 or more, none where it is 0 (R69, R92). -/
def wbWrite (s : State) (w : BitVec 6) (r : Word) : List RegWrite :=
  if w = 0 then []
  else [wr64 (.s (if w.toNat < 32 then w.toNat else 32 + (w.toNat - 32 + s.me.bank.rrb) % 32)) r]

/-- A result and what W holds of it: into the latch, and into the renamed W where W is not 0 (R92, R93). -/
def writes (s : State) (latch : Nat) (w : BitVec 6) (r : Word) : List RegWrite :=
  wr64 (.rl latch) r :: wbWrite s w r

/-- What a multiply or divide writes: mul.r (and W) and mul.h (R102, R103). -/
def mulWrites (s : State) (w : BitVec 6) (r h : Word) : List RegWrite :=
  wr64 (.rl 2) r :: wr64 (.rl 3) h :: wbWrite s w r

/-- The operation i issued from slot and unit completes: nothing changes but that the writes land after the
latency, and the machine goes on. -/
def lands (s : State) (i : Instr) (slot unit lat : Nat) (ws : List RegWrite) : Prop :=
  exec i s = .next (s.land slot unit lat ws).commit

end Sys2Proof.Spec

/-- R99 (with R90 to R93): each of the 28 value operations of ia and ib, its encoding legal, its guard true and its
operands readable, completes, and after one cycle its result lands in the unit's latch and in W. -/
def Sys2Proof.Spec.AluResultLandsAfterOneCycle : Prop :=
  ∀ (u : AluUnit) (f : OpS) (s : State) (a : ScalarArgs), ∀ e ∈ Spec.alu a.t a.o a.l,
    (e.1 u f).check = none → Spec.on s f.g → s.scalarArgs u.unit (e.1 u f).shape f = .ok a →
    Spec.lands s (e.1 u f) u.slot u.unit 1 (Spec.writes s u.unit f.w e.2)

/-- R100: each compare completes; 1 or 0 lands in the latch and W, and for k ≠ 0 the condition in p[2k] and its complement
in p[2k+1], all after one cycle. -/
def Sys2Proof.Spec.CompareWritesResultAndPredicatePair : Prop :=
  ∀ (u : AluUnit) (k : BitVec 4) (f : OpS) (s : State) (a : ScalarArgs), ∀ e ∈ Spec.compares a.t a.o,
    (e.1 u k f).check = none → Spec.on s f.g → s.scalarArgs u.unit (e.1 u k f).shape f = .ok a →
    Spec.lands s (e.1 u k f) u.slot u.unit 1
      (Spec.writes s u.unit f.w (if e.2 then 1 else 0) ++
        if k = 0 then [] else [wrP (2 * k.toNat) e.2, wrP (2 * k.toNat + 1) (!e.2)])

/-- R102: each multiply completes; the exact product's halves land in mul.r and mul.h, and mul.r's in W, after three
cycles. -/
def Sys2Proof.Spec.MultiplyLandsExactProductAfterThreeCycles : Prop :=
  ∀ (f : OpS) (s : State) (a : ScalarArgs), ∀ e ∈ Spec.muls a.t a.o,
    (e.1 f).check = none → Spec.on s f.g → s.scalarArgs 2 (e.1 f).shape f = .ok a →
    Spec.lands s (e.1 f) 1 2 3 (Spec.mulWrites s f.w e.2.1 e.2.2)

/-- R103 and R104: a divide with the divider free completes; quotient and remainder land after 34 cycles, during which the
divider is busy; division by zero gives all ones and the dividend. A divide that finds it busy takes the queue-overflow
trap with mul named. -/
def Sys2Proof.Spec.DivideLandsAfterThirtyFourCycles : Prop :=
  ∀ (f : OpS) (s : State) (a : ScalarArgs), ∀ e ∈ Spec.divs a.t a.o,
    (e.1 f).check = none → Spec.on s f.g → s.scalarArgs 2 (e.1 f).shape f = .ok a →
    (s.me.divFree ≤ s.cycle → exec (e.1 f) s =
      .next ((s.land 1 divUnit 34 (Spec.mulWrites s f.w e.2.1 e.2.2)).modMe fun c =>
        { c with divFree := s.cycle + 34 }).commit) ∧
    (s.cycle < s.me.divFree →
      exec (e.1 f) s = .next (s.stop (.trap { cause := 10, unit := 2, slot := 1 })))

namespace Sys2Proof.Spec

open Sys2Proof.Machine

/-- The units ia, ib, mul and pr, by trigger port (R63). -/
def scalarTrigger (p : BitVec 9) : Bool := p == 0x101 || p == 0x103 || p == 0x105 || p == 0x107
/-- Units whose triggers with a false guard leave no trace at all: all but ls, at, ec, rm, sx, bj and wk, which count some of their
triggers in a pitch. -/
def traceless (u : Nat) : Bool := !([8, 10, 11, 12, 13, 14, 15].contains u)
/-- A guard that lets nothing of the slot act, and is not poisoned (R61, R396): in slots 3 and 4 of every element. -/
def silent (s : State) (v : View) : Prop :=
  if v.slot = 3 ∨ v.slot = 4 then s.guardReady true v.g = .ok () ∧ s.vguard v.g = 0 else off s v.g

/-- Every byte reads as before: of memory under any access, of the L1s, and of the scratchpads. -/
def sameMemory (s t : State) : Prop :=
  (∀ a pa, t.homeRead a pa = s.homeRead a pa) ∧ (∀ core pa, t.l1Byte core pa = s.l1Byte core pa) ∧
  ∀ core off, t.spadByte core off = s.spadByte core off

/-- The predicate operations of R106 that read T and O, for Bool(T) and Bool(O). -/
def preds2 (t o : Bool) : List ((BitVec 5 → OpS → Instr) × Bool) :=
  [(.pand, t && o), (.por, t || o), (.pxor, t ^^ o)]
/-- Those that read T alone. -/
def preds1 (t : Src) : List ((BitVec 5 → OpS → Instr) × Bool) :=
  [ (.pnot, !t.bool), (.pset, t.bool), (.vany, (List.range 128).any fun i => t.vec.getLsbD i),
    (.vall, (List.range 128).all fun i => t.vec.getLsbD i) ]

/-- What a plain move writes, by the destination's kind (R66). -/
def moved (d : DstKind) (r : Reg) (x : Src) : RegWrite :=
  let low : Word := x.val.data.setWidth 64
  match d with
  | .scalar => wr64 r low
  | .wide => if x.kind = .vector then wrW r x.val else wrW r { data := x.val.data, bias := 0, fmt := 0 }
  | .pred => { reg := r, val := { data := if low = 0 then 0 else 1 }, mask := fullMask }
  | .vpred =>
    let v : VPred := if x.kind = .pred then (if low = 0 then 0 else BitVec.allOnes 128) else x.val.data.setWidth 128
    { reg := r, val := { data := v.setWidth 1024 }, mask := fullMask }
  | .handle => { reg := r, val := {}, mask := fullMask, h := x.h }
  | .trigger _ => wr64 r low

/-- A move that its guard lets act as a whole: in slots 3 and 4 by bit 0 of the vector guard (R61, R68). -/
def moveActs (s : State) (m : OpMove) : Prop :=
  if m.slot = 3 ∨ m.slot = 4 then s.guardReady true m.g = .ok () ∧ (s.vguard m.g).getLsbD 0 = true ∧ s.intact (.sp 7) = .ok ()
  else on s m.g

/-- The br operations of R154, with target and what lk becomes. -/
def transfers (s : State) (a : ScalarArgs) : List ((OpS → Instr) × Word × Option Nat) :=
  [ (.br, a.t, none), (.call, a.t, some (s.exitAddr s.cid (n64 s.cur.nextA)).toNat),
    (.ret, Tab.get 0 s.me.bank.sp 8, none), (.bix, n64 (a.t.toNat + a.o.toNat), none) ]

/-- The sys operations that act after their pitch's release (R167), with what waits for it. -/
def sysOps (s : State) (t : Word) : List ((OpS → Instr) × After) :=
  [ (.trap, .swTrap 18 t s.cur.addr), (.tret, .tret), (.exit, .exit t), (.yield, .yield), (.brk, .swTrap 19 t s.cur.addr) ]

/-- A bundle's writes at commit, all of one slot, with a transfer: the state from which the bundle commits. -/
def withMoves (s : State) (ws : List RegWrite) : State :=
  { s with cur := { s.cur with moves := s.cur.moves ++ ws.map fun w => (0, w) } }

end Sys2Proof.Spec

/-- R106: each predicate operation completes, and its bit lands in p_d after one cycle. -/
def Obligations.PredicateOperationWritesOnePredicate : Prop :=
  ∀ (d : BitVec 5) (f : OpS) (s : State) (t : Src), s.readT f.t = .ok t → Spec.on s f.g →
    (∀ o, s.readO 3 f = .ok o → ∀ e ∈ Spec.preds2 t.bool o.bool, (e.1 d f).check = none →
      Spec.lands s (e.1 d f) 0 3 1 [wrP d.toNat e.2]) ∧
    (∀ e ∈ Spec.preds1 t, (e.1 d f).check = none → Spec.lands s (e.1 d f) 0 3 1 [wrP d.toNat e.2])

/-- R97: a trigger of any unit whose guard is false starts no operation and raises no trap from execution: the machine goes on as
if the slot were empty, but that a unit whose triggers a pitch may hold in a limited number counts it (log 36). -/
def Sys2Proof.Spec.FalseGuardStartsNothing : Prop :=
  ∀ (i : Instr) (v : View) (s : State) (u : Nat), i.view = some v → dstKind v.dst = some (.trigger u) → i.check = none →
    Spec.silent s v →
    (Spec.traceless u = true → exec i s = .next s.commit) ∧
    ((∀ k, Tab.get 0 s.me.counts k < 8) →
      ∃ t, exec i s = .next t.commit ∧ (t = s ∨ ∃ n, t = s.modMe fun c => { c with counts := n }))

/-- R61, R49: the empty slot performs nothing. -/
def Sys2Proof.Spec.EmptySlotPerformsNothing : Prop := ∀ s : State, exec .nop s = .next s.commit

/-- The frame of ia, ib, mul and pr (R93, R97 to R99): where the operation completes, nothing of the machine has changed but
the flights of results and the divider's time of the issuing context: no register, no semaphore, no byte of memory, nothing of
another context. -/
def Sys2Proof.Spec.ScalarOperationFrame : Prop :=
  ∀ (i : Instr) (v : View) (s t : State), i.view = some v → Spec.scalarTrigger v.dst = true → opOf i s = .ok t →
    exec i s = .next t.commit ∧
    (t = s ∨ ∃ fl df, t = s.modMe fun c => { c with flight := fl, divFree := df }) ∧
    t.me.bank = s.me.bank ∧ (∀ core n, t.sem core n = s.sem core n) ∧
    (∀ k, k ≠ s.cid → t.ctx k = s.ctx k) ∧ Spec.sameMemory s t

/-- R16, R62 and R92: what the source ports of single registers, constants and immediates read. -/
def Sys2Proof.Spec.SourcePortsRead : Prop :=
  ∀ (s : State) (p : BitVec 9),
    (p.toNat < 0x40 → (s.readPort p).map Src.word = some (
      let j := if p.toNat < 32 then p.toNat else 32 + (p.toNat - 32 + s.me.bank.rrb) % 32
      if j = 0 then 0 else Tab.get 0 s.me.bank.s j)) ∧
    (0x40 ≤ p.toNat ∧ p.toNat < 0x80 → (s.readPort p).map Src.wide = some (Tab.get {} s.me.bank.v (p.toNat - 0x40))) ∧
    (p = 0x80 → (s.readPort p).map Src.bool = some true) ∧
    (0x80 < p.toNat ∧ p.toNat < 0xA0 →
      (s.readPort p).map Src.bool = some (Tab.get false s.me.bank.p (p.toNat - 0x80))) ∧
    (p = 0xA0 → (s.readPort p).map Src.vec = some (BitVec.allOnes 128)) ∧
    (0xA0 < p.toNat ∧ p.toNat < 0xB0 →
      (s.readPort p).map Src.vec = some (Tab.get 0 s.me.bank.vp (p.toNat - 0xA0))) ∧
    (p = 0x180 → (s.readPort p).map Src.word = some (s.cur.bi.signExtend 64)) ∧
    (p = 0x181 → (s.readPort p).map Src.word = some (s.cur.bi.setWidth 64)) ∧
    (p = 0x182 → (s.readPort p).map Src.word = some (s.cur.bi.signExtend 64 <<< 16)) ∧
    (0x1C0 ≤ p.toNat → (s.readPort p).map Src.word = some (Spec.z64 ((p.toNat : Int) - 0x1E0))) ∧
    ((0xD2 ≤ p.toNat ∧ p.toNat < 0xD8) ∨ (0xE0 ≤ p.toNat ∧ p.toNat < 0x100) ∨ p = 0x106 ∨
      (0x10D ≤ p.toNat ∧ p.toNat < 0x110) ∨ (0x116 ≤ p.toNat ∧ p.toNat < 0x180) ∨ (0x184 ≤ p.toNat ∧ p.toNat < 0x1C0) →
      s.readPort p = none)

/-- R63, R17: a whole write to a place is read back; writes to s0, p0 and vp0 are discarded; rrb keeps bits 4:0 and fmode
bits 1:0; every other register of the file keeps its value. -/
def Sys2Proof.Spec.RegisterWriteIsReadBack : Prop :=
  ∀ (b : Bank) (x : Word) (y : Bool) (i j : Nat),
    (b.write (wr64 (.s i) x)).getS j = (if j = i ∧ i ≠ 0 then x else b.getS j) ∧
    (b.write (wrP i y)).getP j = (if j = i ∧ i ≠ 0 then y else b.getP j) ∧
    (∀ v : VPred, (b.write { reg := .vp i, val := { data := v.setWidth 1024 }, mask := fullMask }).getVP j =
      if j = i ∧ i ≠ 0 then v else b.getVP j) ∧
    (b.write (wr64 (.sp i) x)).getSp j =
      (if j = i then (if i = 7 then x &&& 31 else if i = 15 then x &&& 3 else x) else b.getSp j) ∧
    (∀ w : Wide, (b.write (wrW (.v i) w)).getV j = (if j = i then w else b.getV j) ∧
      (b.write (wrW (.ol i) w)).getOL j = (if j = i then w else b.getOL j) ∧
      (b.write (wrW (.rl i) w)).getRL j = (if j = i then w else b.getRL j))

/-- R93 and R94: a landing is not seen in a cycle before it is due, and is from that cycle on. -/
def Sys2Proof.Spec.LandingIsSeenFromItsCycle : Prop :=
  ∀ (c : Ctx) (l : Landing) (k : Nat), c.flight = [l] →
    (k < l.due → (c.landDue k).bank = c.bank ∧ (c.landDue k).flight = [l]) ∧
    (l.due ≤ k → (c.landDue k).bank = l.writes.foldl Bank.write c.bank ∧ (c.landDue k).flight = [])

/-- R95: of two writes of one register that become visible to the same cycle the later-issued bundle's remains, whichever was
put into the pipelines first; and a plain move that becomes visible with an earlier bundle's landing remains. -/
def Sys2Proof.Spec.LaterIssuedWriteRemains : Prop :=
  ∀ (c : Ctx) (i : Nat) (x y : Word) (due a b sa sb ua ub : Nat), i ≠ 0 → a < b → c.flight = [] →
    let la : Landing := ⟨due, a, sa, ua, [wr64 (.s i) x]⟩
    let lb : Landing := ⟨due, b, sb, ub, [wr64 (.s i) y]⟩
    (({ c with flight := insertLanding lb (insertLanding la []) }).landDue due).bank.getS i = y ∧
    (({ c with flight := insertLanding la (insertLanding lb []) }).landDue due).bank.getS i = y ∧
    (((({ c with flight := [la] } : Ctx).commitWrite (due - 1) b (wr64 (.s i) y)).landDue due).bank.getS i = y)

/-- R65, R66, R68: a plain move that its guard lets act writes its destination at commit, converted by kind (a vector move
by elements in slots 3 and 4 has its own statement); so do .splat, which fills all sixteen lanes, untyped, and .hi, which takes
bits 127:64 or writes them. Of the whole machine nothing else changes. -/
def Sys2Proof.Spec.PlainMoveWritesConvertedValue : Prop :=
  ∀ (m : OpMove) (s : State) (x : Src) (d : DstKind), dstKind m.dst = some d → s.readT m.src = .ok x →
    Spec.moveActs s m →
    ((Instr.move m).check = none → ¬ ((m.slot = 3 ∨ m.slot = 4) ∧ srcKind m.src = some .vector ∧ d = .wide) →
      exec (.move m) s = .next (s.move m.slot.toNat (Spec.moved d (s.dstReg m.dst) x)).commit) ∧
    ((Instr.moveSplat m).check = none →
      exec (.moveSplat m) s = .next (s.move m.slot.toNat (wrW (s.dstReg m.dst)
        { data := BitVec.ofFnLE fun i : Fin 1024 => x.word.getLsbD (i.val % 64), bias := 0, fmt := 0 })).commit) ∧
    ((Instr.moveHi m).check = none →
      exec (.moveHi m) s = .next (s.move m.slot.toNat (if d = .scalar
        then wr64 (s.dstReg m.dst) (x.val.data.extractLsb' 64 64)
        else { reg := s.dstReg m.dst, val := { data := x.word.setWidth 1024 <<< 64 },
               mask := (BitVec.allOnes 64).setWidth 1024 <<< 64 })).commit)

/-- R68: a plain move of a vector into a wide destination in slot 3 or 4 copies the elements whose guard bit is 1, data and
tag, and leaves the others; with no element set it does nothing. -/
def Sys2Proof.Spec.VectorMoveCopiesGuardedElements : Prop :=
  ∀ (m : OpMove) (s : State) (x : Src), dstKind m.dst = some .wide → srcKind m.src = some .vector →
    (Instr.move m).check = none → m.slot = 3 ∨ m.slot = 4 → s.guardReady true m.g = .ok () → s.readT m.src = .ok x →
    let w := fmtWidth x.val.fmt.toNat
    let mask : Lanes := BitVec.ofFnLE fun i : Fin 1024 => (s.vguard m.g).getLsbD (i.val / w)
    exec (.move m) s = .next (if mask = 0 then s
      else s.move m.slot.toNat { reg := s.dstReg m.dst, val := x.val, mask := mask }).commit

/-- R153 and R154: a taken br operation whose delay bundle and target are legal completes: its target, from values read at
its issue, waits for the delay bundle, with the new lk for a call; and the delay bundle is followed by the target. -/
def Sys2Proof.Spec.TransferWaitsForItsDelayBundle : Prop :=
  (∀ (f : OpS) (s : State) (a : ScalarArgs), ∀ e ∈ Spec.transfers s a, (e.1 f).check = none → Spec.on s f.g →
    s.scalarArgs 4 (e.1 f).shape f = .ok a → (e.1 f = .ret f → s.intact (.sp 8) = .ok ()) → s.delayOk s.cid s.cur.nextA = true → s.targetOk s.cid e.2.1 = .ok () →
    exec (e.1 f) s = .next { s with cur := { s.cur with xfer := some e.2 } }.commit) ∧
  (∀ (s : State) (t : Word) (lk : Option Nat), s.cur.xfer = some (t, lk) → s.commit.me.next.xfer = some (t, lk)) ∧
  (∀ (s : State) (h : Header) (after : NextAddr) (t : Word) (lk : Option Nat), s.me.next.xfer = some (t, lk) →
    h.rot = false → ∀ hit, s.loopEnd false = .ok hit → (hit.isSome = true → h.pitch = true) →
      s.flow h after = .ok (s.lastWrites (lk.toList.map fun a => wr64 (.sp 8) (Spec.n64 a)), { pc := t.toNat }))

/-- R157, R160 and R161: lset writes ls, le and lc and goes to T, or past the loop-end bundle for a trip count of 0; lrot sets
ec, rrb and the rotating predicates; lbrk clears lc and goes past the loop's end. -/
def Sys2Proof.Spec.LoopOperationsSetTheirRegisters : Prop :=
  (∀ (n : BitVec 1) (f : OpS) (s : State) (a : ScalarArgs), (Instr.lset n f).check = none → Spec.on s f.g →
    s.scalarArgs 5 (Instr.lset n f).shape f = .ok a → s.delayOk s.cid s.cur.nextA = true →
    let t := if a.l = 0 then s.exitAddr s.cid a.o else a.t
    s.targetOk s.cid t = .ok () →
    exec (.lset n f) s = .next { Spec.withMoves s [wr64 (.sp (3 * n.toNat + 1)) a.t, wr64 (.sp (3 * n.toNat + 2)) a.o,
      wr64 (.sp (3 * n.toNat)) a.l] with cur := { (Spec.withMoves s [wr64 (.sp (3 * n.toNat + 1)) a.t,
        wr64 (.sp (3 * n.toNat + 2)) a.o, wr64 (.sp (3 * n.toNat)) a.l]).cur with xfer := some (t, none) } }.commit) ∧
  (∀ (f : OpS) (s : State) (a : ScalarArgs), (Instr.lrot f).check = none → Spec.on s f.g →
    s.scalarArgs 5 (Instr.lrot f).shape f = .ok a →
    exec (.lrot f) s = .next (Spec.withMoves s ([wr64 (.sp 6) a.t, wr64 (.sp 7) 0] ++
      (List.range 16).map fun k => wrP (16 + k) (decide (k = 0)))).commit) ∧
  (∀ (n : BitVec 1) (f : OpS) (s : State), (Instr.lbrk n f).check = none → Spec.on s f.g →
    s.intact (.sp (3 * n.toNat + 2)) = .ok () → s.delayOk s.cid s.cur.nextA = true →
    let t := s.exitAddr s.cid (Tab.get 0 s.me.bank.sp (3 * n.toNat + 2))
    s.targetOk s.cid t = .ok () →
    exec (.lbrk n f) s = .next { Spec.withMoves s [wr64 (.sp (3 * n.toNat)) 0] with
      cur := { (Spec.withMoves s [wr64 (.sp (3 * n.toNat)) 0]).cur with xfer := some (t, none) } }.commit)

/-- R158 and R159: a loop-end bundle with PITCH, no transfer taken and none pending, evaluates its set: the count falls, and
control goes back while it is not 0 (without ROT); with ROT the stages drain through ec and rrb and the rotating predicates
rotate, with their poison. The set's registers and ec are not poisoned (R396). -/
def Sys2Proof.Spec.LoopEndEvaluation : Prop :=
  ∀ (s : State) (h : Header) (after : NextAddr) (n : Nat), s.me.next.xfer = none → s.cur.xfer = none →
    s.loopEnd h.rot = .ok (some n) → h.pitch = true → s.intact (.sp (3 * n)) = .ok () → s.intact (.sp 6) = .ok () →
    s.intact (.sp (3 * n + 1)) = .ok () →
    let b := s.me.bank
    let lc := Tab.get 0 b.sp (3 * n)
    let ec := Tab.get 0 b.sp 6
    let ls := Tab.get 0 b.sp (3 * n + 1)
    let turn := fun (x : Bool) => wr64 (.sp 7) (Spec.n64 ((b.rrb + 31) % 32)) (b.mark (.sp 7)) ::
      (List.range 16).map fun k =>
        { wrP (16 + k) (if k = 0 then x else b.getP (15 + k)) with mark := if k = 0 then .clean else b.mark (.p (15 + k)) }
    let go := fun (ws : List RegWrite) (back : Bool) =>
      if back then (s.targetOk s.cid ls = .ok () → s.flow h after = .ok (s.lastWrites ws, { pc := ls.toNat }))
      else s.flow h after = .ok (s.lastWrites ws, after)
    if h.rot = false then go [wr64 (.sp (3 * n)) (lc - 1)] (decide (lc ≠ 1))
    else if 1 < lc.toNat then go (wr64 (.sp (3 * n)) (lc - 1) :: wr64 (.sp 6) ec :: turn true) true
    else if lc = 1 then go (wr64 (.sp (3 * n)) 0 :: wr64 (.sp 6) ec :: turn false) (decide (ec ≠ 0))
    else go (wr64 (.sp (3 * n)) lc :: wr64 (.sp 6) (ec - 1) :: turn false) (decide (ec ≠ 1))

/-- R165, R168 to R172: in a bundle with PITCH and CAIRN, trap, tret (in a handler), exit, yield and brk complete: the act
waits for the release of the pitch; without them they take the illegal-form trap with sys named. sleep completes: the
context's next bundle waits for device time T. -/
def Sys2Proof.Spec.SystemOperationsWaitForRelease : Prop :=
  (∀ (f : OpS) (s : State) (a : ScalarArgs), ∀ e ∈ Spec.sysOps s a.t, (e.1 f).check = none → Spec.on s f.g →
    s.scalarArgs 6 (e.1 f).shape f = .ok a → (e.1 f = .tret f → s.me.hnd = true) →
    (s.cur.pitch = true → s.cur.cairn = true →
      exec (e.1 f) s = .next (s.modMe fun c => { c with after := e.2 }).commit) ∧
    (s.cur.pitch = false ∨ s.cur.cairn = false →
      exec (e.1 f) s = .next (s.stop (.trap { cause := 4, unit := 6, slot := 0 })))) ∧
  (∀ (f : OpS) (s : State), (Instr.tret f).check = none → Spec.on s f.g → s.me.hnd = false →
    exec (.tret f) s = .next (s.stop (.trap { cause := 4, unit := 6, slot := 0 }))) ∧
  (∀ (f : OpS) (s : State) (a : ScalarArgs), (Instr.sleep f).check = none → Spec.on s f.g →
    s.scalarArgs 6 (Instr.sleep f).shape f = .ok a →
    exec (.sleep f) s = .next (s.modMe fun c => { c with wake := some a.t }).commit)

/-- R147, R148, R151: stake and swait take at issue what the semaphore holds and log it for return; a stake that finds too
little takes nothing, a swait blocks; sset and sadd wait in the signal buffer for the release (R149). -/
def Sys2Proof.Spec.SemaphoreOperations : Prop :=
  ∀ (f : OpS) (s : State) (a : ScalarArgs), Spec.on s f.g → s.scalarArgs 7 { t := .any, o := .any } f = .ok a →
    let q : BitVec 8 := a.t.setWidth 8
    let v := s.sem s.cur.core q
    let n := a.o.toNat
    let taken := if n = 0 then s else (s.modMe fun c => { c with log := Tab.upd 0 c.log q.toNat (· + n) }).setSem
      s.cur.core q (v - n)
    ((Instr.stake f).check = none → s.me.log.length < 16 → n ≤ v →
      exec (.stake f) s = .next (taken.land 0 7 1 (Spec.writes s 9 f.w (Spec.n64 (2 ^ 63 + v)))).commit) ∧
    ((Instr.stake f).check = none → v < n →
      exec (.stake f) s = .next (s.land 0 7 1 (Spec.writes s 9 f.w (Spec.n64 v))).commit) ∧
    ((Instr.swait f).check = none → s.me.log.length < 16 → n ≤ v →
      exec (.swait f) s = .next (taken.land 0 7 1 (Spec.writes s 9 f.w (Spec.n64 v))).commit) ∧
    ((Instr.swait f).check = none → v < n → exec (.swait f) s = .next (s.stop (.block .swait))) ∧
    (let sig := fun (set : Bool) =>
      (s.modMe fun c => { c with sigs := c.sigs ++ [⟨q, set, n, s.coreSlot s.cur.core, s.coreGen s.cur.core⟩] }).commit
     s.me.sigs.length < 16 →
      ((Instr.sset f).check = none → exec (.sset f) s = .next (sig true)) ∧
      ((Instr.sadd f).check = none → (∀ x ∈ s.me.sigs, x.sem ≠ q) → exec (.sadd f) s = .next (sig false)))

namespace Sys2Proof.Spec

open Sys2Proof.Machine

/-- The effective address of an access: handle address plus offset plus displacement in units (R123, R124). -/
def ea (h : Handle) (off : Word) (f : OpM) (unit : Nat) : Nat :=
  (((h.va.toNat : Int) + off.toInt + f.disp.toInt * unit) % 2 ^ 64).toNat
/-- The first address of a handle's page. -/
def pageOf (h : Handle) : Nat := h.va.toNat / pageBytes h.ps.toNat * pageBytes h.ps.toNat
/-- An access of n bytes, aligned at a, that a handle allows (R115, R123): valid, not remote, inside its page, aligned, with
the rights it needs. -/
def allows (h : Handle) (e n a : Nat) (rd wr : Bool) : Prop :=
  h.st = .valid ∧ h.ps ≠ 14 ∧ pageOf h ≤ e ∧ e + n ≤ pageOf h + pageBytes h.ps.toNat ∧ e % a = 0 ∧
  (rd = true → h.rd = true) ∧ (wr = true → h.wr = true)
/-- The handle register may be read: it is not poisoned, or it is h15, which is no storage (R114, R396). -/
def held (s : State) (n : Nat) : Prop := n = 15 ∨ s.intact (.h n) = .ok ()
/-- Where the access goes: an offset of the scratchpad, or a physical address (R110, R114). -/
def place (h : Handle) (e : Nat) : Nat := if h.ps = 15 then e else h.pfn.toNat * 4096 + (e - pageOf h)
/-- The lines of a scratchpad access are full (R131). -/
def linesFull (s : State) (off n : Nat) : Prop := ∀ k, off / 128 ≤ k → k ≤ (off + n - 1) / 128 → s.lineFull s.cur.core k = true
/-- No push holds these bytes of the scratchpad locked (R220). -/
def unlocked (s : State) (off n : Nat) : Prop := ∀ m ∈ s.myCore.mops, m.touches off n = false
/-- A limit of the pitch is counted (R132, R133, R248). -/
def counted (s : State) (kind : Nat) : State :=
  s.modMe fun c => { c with counts := Tab.set c.counts kind (Tab.get 0 c.counts kind + 1) }

/-- The scalar loads of R124: bytes, and whether they extend the sign. -/
def loads : List ((Bool → OpM → Instr) × Nat × Bool) :=
  [(.ldb, 1, true), (.ldh, 2, true), (.ldw, 4, true), (.ldd, 8, true), (.ldbn, 1, false), (.ldhn, 2, false),
   (.ldwn, 4, false)]
/-- The scalar stores of R124. -/
def stores : List ((OpM → Instr) × Nat) := [(.stb, 1), (.sth, 2), (.stw, 4), (.std, 8)]
/-- The atomics of R133, by the number the release list keeps, with the word each writes (none: it writes nothing). -/
def atomics (old t cmp : Word) : List ((Scope → OpM → Instr) × Nat × Option Word) :=
  [ (.aadd, 1, some (n64 (old.toNat + t.toNat))), (.aand, 2, some (bits64 fun i => old.getLsbD i && t.getLsbD i)),
    (.aor, 3, some (bits64 fun i => old.getLsbD i || t.getLsbD i)),
    (.axor, 4, some (bits64 fun i => old.getLsbD i ^^ t.getLsbD i)), (.axchg, 5, some t),
    (.acas, 6, if old = cmp then some t else none), (.amax, 7, some (z64 (max old.toInt t.toInt))) ]
/-- A gated store of one chunk for each offset (R126, R128). -/
def gated (s : State) (h : Handle) (f : OpM) (unit : Nat) (offs : List Word) (data : List (List Byte)) : RelBody :=
  .store { h := h, poison := false, slot := s.coreSlot s.cur.core, gen := s.coreGen s.cur.core, marked := false,
           chunks := (offs.zip data).map fun e => (ea h e.1 f unit, place h (ea h e.1 f unit), e.2) }
/-- The eight 16-byte chunks of a wide value (R126). -/
def eight (x : Lanes) : List (List Byte) := (List.range 8).map fun i => (List.range 16).map fun j => x.extractLsb' (128 * i + 8 * j) 8

end Sys2Proof.Spec

/-- R124 and R127: each scalar load whose handle allows the access completes: ls.r and W become pending on it, and it waits
in the context's list of loads. -/
def Sys2Proof.Spec.ScalarLoadIssues : Prop :=
  ∀ (nw : Bool) (f : OpM) (s : State) (t : Src), ∀ e ∈ Spec.loads,
    let h := s.handle f.h.toNat
    let a := Spec.ea h t.word f e.2.1
    (e.1 nw f).check = none → Spec.on s f.g → s.readT f.t = .ok t → Spec.held s f.h.toNat → Spec.allows h a e.2.1 e.2.1 true false →
    (h.ps = 15 → nw = false → Spec.linesFull s a e.2.1) →
    exec (e.1 nw f) s = .next (s.issueLoad h [(a, Spec.place h a)] e.2.1 (.scalar e.2.1 e.2.2) 4 (s.wbS f.w)).commit

/-- R124 to R126: what lands from a load's bytes: sign- or zero-extended, a whole register with its format's tag, or eight
chunks, untyped. -/
def Obligations.LoadedBytesGiveTheValue : Prop :=
  (∀ (n : Nat) (l : List Byte), n ∈ [1, 2, 4, 8] → l.length = n →
    ((LoadForm.scalar n true).value l).lo = Spec.z64 (Int.bmod (natOfBytes l) (2 ^ (8 * n))) ∧
    ((LoadForm.scalar n false).value l).lo = Spec.n64 (natOfBytes l)) ∧
  (∀ (fmt : BitVec 4) (l : List Byte), fmt ≠ 11 → ((LoadForm.vec fmt).value l) = { data := ofBytes 1024 l, fmt := fmt }) ∧
  (∀ x : Lanes, (∀ i < 128, elem 8 x i < 64) → (LoadForm.vec 11).value (packT6 x) = { data := x, fmt := 11 }) ∧
  (∀ x : Lanes, LoadForm.chunks.value (Spec.eight x).flatten = { data := x })

/-- R125 and R126: the vector loads complete: one access of 128 bytes, of 96 for t6, at its alignment; or eight of 16 bytes, by
stride (a multiple of 16) or by eight signed 32-bit indices. -/
def Sys2Proof.Spec.VectorLoadIssues : Prop :=
  ∀ (nw : Bool) (f : OpM) (s : State) (t : Src), Spec.on s f.g → s.readT f.t = .ok t → Spec.held s f.h.toNat →
    let h := s.handle f.h.toNat
    let ok := fun (unit n a : Nat) (offs : List Word) => ∀ o ∈ offs, Spec.allows h (Spec.ea h o f unit) n a true false ∧
      (h.ps = 15 → nw = false → Spec.linesFull s (Spec.ea h o f unit) n)
    let go := fun (n unit : Nat) (offs : List Word) (form : LoadForm) =>
      (s.issueLoad h (offs.map fun o => (Spec.ea h o f unit, Spec.place h (Spec.ea h o f unit))) n form 5
        (if f.w = 0 then none else some (.v f.w.toNat))).commit
    (∀ (fmt : BitVec 4) (n : Nat), n = (if fmt = 11 then 96 else 128) → (Instr.vld fmt nw f).check = none →
      ok n n (if fmt = 11 then 32 else 128) [t.word] → exec (.vld fmt nw f) s = .next (go n n [t.word] (.vec fmt))) ∧
    (∀ l : Wide, s.readLatch 8 = .ok l →
      let stride := l.data.extractLsb' 64 64
      let offs := (List.range 8).map (fun i => t.word + BitVec.ofNat 64 i * stride)
      (Instr.vlds nw f).check = none → stride.toNat % 16 = 0 → ok 16 16 16 offs →
      exec (.vlds nw f) s = .next (go 16 16 offs .chunks)) ∧
    (∀ offs : List Word, offs = (List.range 8).map (fun i => (t.wide.data.extractLsb' (32 * i) 32).signExtend 64) →
      (Instr.vldx nw f).check = none → ok 16 16 16 offs → exec (.vldx nw f) s = .next (go 16 16 offs .chunks))

/-- R124 to R128: each store whose handle allows the access completes: its bytes, with the address they are for, wait in the
store buffer for the pitch's release; no byte of memory has changed. -/
def Obligations.StoreWaitsForRelease : Prop :=
  ∀ (f : OpM) (s : State) (t : Src) (l : Wide), Spec.on s f.g → s.readT f.t = .ok t → s.readLatch 8 = .ok l →
    Spec.held s f.h.toNat →
    let h := s.handle f.h.toNat
    let ok := fun (unit n a : Nat) (offs : List Word) => ∀ o ∈ offs, Spec.allows h (Spec.ea h o f unit) n a false true ∧
      (h.ps = 15 → Spec.unlocked s (Spec.ea h o f unit) n)
    let off : Word := l.data.setWidth 64
    let stride : Word := l.data.extractLsb' 64 64
    let idx := (List.range 8).map fun i => (l.data.extractLsb' (32 * i) 32).signExtend 64
    let str := (List.range 8).map fun i => off + BitVec.ofNat 64 i * stride
    let done := fun (i : Instr) (b : RelBody) =>
      exec i s = .next (s.addRel 0 8 b).commit ∧ Spec.sameMemory s (s.addRel 0 8 b).commit
    (∀ e ∈ Spec.stores, (e.1 f).check = none → ok e.2 e.2 e.2 [off] →
      done (e.1 f) (Spec.gated s h f e.2 [off] [(List.range e.2).map fun j => t.word.extractLsb' (8 * j) 8])) ∧
    (∀ fmt : BitVec 4, (Instr.vst fmt f).check = none → fmt ≠ 11 → t.wide.fmt = fmt ∨ t.wide.fmt = 0 →
      ok 128 128 128 [off] →
      done (.vst fmt f) (Spec.gated s h f 128 [off] [(List.range 128).map fun j => t.wide.data.extractLsb' (8 * j) 8])) ∧
    ((Instr.vst 11 f).check = none → t.wide.fmt = 11 ∨ t.wide.fmt = 0 → ok 96 96 32 [off] →
      done (.vst 11 f) (Spec.gated s h f 96 [off] [packT6 t.wide.data])) ∧
    ((Instr.vsts f).check = none → stride.toNat % 16 = 0 → ok 16 16 16 str →
      done (.vsts f) (Spec.gated s h f 16 str (Spec.eight t.wide.data))) ∧
    ((Instr.vstx f).check = none → ok 16 16 16 idx → done (.vstx f) (Spec.gated s h f 16 idx (Spec.eight t.wide.data)))

/-- R123, R132, R133, R286: the faults of address formation, in their order, for every access by a handle: of ls; of the full/empty
operations and gpush, which ask for the scratchpad (`spad`); of at (`atom`) and of rm (`rem`), which refuse it; rm alone takes a
fabric handle. A handle that waits blocks.
The model's own choices in it: log 39 (unit 63 in the record, the stride after the null check). -/
def Obligations.AddressFaultsInOrder : Prop :=
  ∀ (h : Handle) (off : Word) (f : OpM) (unit n a : Nat) (rd wr spad rem atom : Bool),
    let e := Spec.ea h off f unit
    let r := formAddr h off f.disp.toInt unit n a rd wr spad rem atom
    let fault := fun (cause sub : Nat) => r = raiseAt cause sub e
    if h.st = .null then fault 6 1
    else if h.st = .pending ∨ h.st = .revoked then r = blockAt .handle
    else if spad = true ∧ h.ps ≠ 15 then fault 8 3
    else if h.ps = 14 ∧ rem = false then fault 8 4
    else if h.ps = 15 ∧ (rem = true ∨ atom = true) then fault 8 3
    else if e < Spec.pageOf h ∨ Spec.pageOf h + pageBytes h.ps.toNat < e + n then fault 8 1
    else if e % a ≠ 0 then fault 8 2
    else if rd = true ∧ h.rd = false then fault 7 1
    else if wr = true ∧ h.wr = false then fault 7 2
    else r = .ok (e, Spec.place h e)

/-- R132: the full/empty operations on a scratchpad line: fewait goes on at a full line and blocks at an empty one; feclr and
feset wait for the release; fetst's 1 or 0 is pending as a load. -/
def Sys2Proof.Spec.FullEmptyOperations : Prop :=
  ∀ (f : OpM) (s : State) (t : Src), Spec.on s f.g → s.readT f.t = .ok t → Spec.held s f.h.toNat →
    let h := s.handle f.h.toNat
    let a := Spec.ea h t.word f 128
    let line := a / 128
    h.ps = 15 → Spec.allows h a 1 1 true false →
    ((Instr.fewait f).check = none →
      (s.lineFull s.cur.core line = true → exec (.fewait f) s = .next s.commit) ∧
      (s.lineFull s.cur.core line = false → exec (.fewait f) s = .next (s.stop (.block .emptyLine)))) ∧
    (∀ e ∈ [((Instr.feclr : OpM → Instr), false), (.feset, true)], (e.1 f).check = none →
      Spec.unlocked s (128 * line) 128 → Tab.get 0 s.me.counts 0 < 16 →
      exec (e.1 f) s = .next ((Spec.counted s 0).addRel 0 8 (.fe e.2 line)).commit) ∧
    ((Instr.fetst f).check = none → ∃ u : State, exec (.fetst f) s = .next u.commit ∧
      u.cur.pends = s.cur.pends ++ (.rl 4 :: (s.wbS f.w).toList).map (fun r => (r, ⟨s.fresh + 1, 8, s.me.pitch, false⟩)) ∧
      ∃ ld, u.me.loads = s.me.loads ++ [ld] ∧ ld.tok = s.fresh + 1 ∧
        ld.form.value (ld.ovl.map Prod.snd) = { data := if s.lineFull s.cur.core line then 1 else 0 })

/-- R137, R248 to R250: rel waits for the release under its scope (a rel.f with no remote load outstanding, R251); acq, with no
fence of its own pitch and nothing outstanding, invalidates what its scope names, once the context's earlier released mloads
have read (R257; the model's choice of when they read is log 69); cwb and cinv wait for the release. -/
def Sys2Proof.Spec.OrderingAndCacheOperations : Prop :=
  (∀ (sc : Scope) (f : OpM) (s : State), (Instr.rel sc f).check = none → Spec.on s f.g →
    Tab.get 0 s.me.counts 1 < 8 → (sc = .f → s.me.remote = []) → exec (.rel sc f) s =
      .next (({ Spec.counted s 1 with fresh := s.fresh + 1 } : State).addRel (s.fresh + 1) 8 (.rel sc)).commit) ∧
  (∀ (sc : Scope) (f : OpM) (s : State), (Instr.acq sc f).check = none → Spec.on s f.g →
    s.me.rel = [] → s.me.path = [] → s.me.loads = [] → s.me.remote = [] →
    let u := s.settleMloads s.cid s.cur.seq none
    exec (.acq sc f) s = .next (match sc with
      | .c => u
      | .k => u
      | .d => u.invalL1 s.cur.core
      | .v => (u.invalL1 s.cur.core).flushRdc (dieOf s.cur.core)
      | .f => (u.invalL1 s.cur.core).flushRdc (dieOf s.cur.core)).commit) ∧
  (∀ (f : OpM) (s : State) (t : Src), Spec.on s f.g → s.readT f.t = .ok t → Spec.held s f.h.toNat →
    let h := s.handle f.h.toNat
    let a := Spec.ea h t.word f 1024
    Spec.allows h a 1 1 true false →
    ∀ e ∈ [((Instr.cwb : OpM → Instr), false), (.cinv, true)], (e.1 f).check = none →
      exec (e.1 f) s = .next (if h.ps = 15 then s
        else s.addRel 0 8 (.cache e.2 h a (Spec.place h a) false)).commit)

/-- R133: each atomic that its handle allows completes at issue: at.r and W wait for its result, and it waits for the release
with its operands; and at its performance the word written is the operation of the old word and T. -/
def Sys2Proof.Spec.AtomicOperations : Prop :=
  (∀ (sc : Scope) (f : OpM) (s : State) (t : Src) (l : Wide), Spec.on s f.g → s.readT f.t = .ok t →
    s.readLatch 10 = .ok l → Spec.held s f.h.toNat → Tab.get 0 s.me.counts 2 < 8 →
    let h := s.handle f.h.toNat
    let a := Spec.ea h (l.data.setWidth 64) f 8
    h.ps ≠ 15 → Spec.allows h a 8 8 true true → ∀ e ∈ Spec.atomics 0 0 0, (e.1 sc f).check = none →
    exec (e.1 sc f) s = .next ((({ Spec.counted s 2 with fresh := s.fresh + 1 } : State).pendOn
      (.rl 7 :: (s.wbS f.w).toList) (s.fresh + 1) 10 true).addRel (s.fresh + 1) 10
      (.atomic e.2.1 sc h a (Spec.place h a) t.word (l.data.extractLsb' 64 64) false)).commit) ∧
  (∀ old t cmp : Word, ∀ e ∈ Spec.atomics old t cmp, atomicNew e.2.1 old t cmp = e.2.2)

/-- R116 to R118: xlat lands a handle after 12 cycles, from the aperture or the translation cache, or a pending one whose walk
begins, from the slot's root of that moment (R302); hdrop makes a handle null after one cycle; hchk lands the handle's bits 127:94 at bits 63:30 after two. -/
def Sys2Proof.Spec.TranslateOperations : Prop :=
  (∀ (f : OpM) (s : State) (t : Src), (Instr.xlat f).check = none → Spec.on s f.g → s.readT f.t = .ok t →
    let slot := s.coreSlot s.cur.core
    let gen := s.coreGen s.cur.core
    let n := f.h.toNat
    (inAperture t.word = true → (s.fabslot slot).getLsbD 63 = true →
      Spec.lands s (.xlat f) 2 9 12 [wrH n (fabricHandle slot gen t.word (s.fabslot slot))]) ∧
    (inAperture t.word = false → t.word.toNat < 2 ^ 56 → ∀ l, s.tcHit s.cur.core slot t.word = some l →
      Spec.lands s (.xlat f) 2 9 12 [wrH n (leafHandle slot gen t.word l)]) ∧
    (inAperture t.word = false → t.word.toNat < 2 ^ 56 → s.tcHit s.cur.core slot t.word = none →
      exec (.xlat f) s = .next ((({ s with fresh := s.fresh + 1 } : State).modMyCore fun k => { k with walks := k.walks ++
        [⟨s.fresh + 1, s.cid, n, t.word, slot, gen, s.fresh + 1, s.me.pitch, s.cur.addr, false, none, none,
          (s.tslot slot.toNat).root⟩] }).land 2 9 12
        [wrH n (pendingHandle slot gen t.word (s.fresh + 1))]).commit)) ∧
  (∀ (f : OpM) (s : State), (Instr.hdrop f).check = none → Spec.on s f.g →
    Spec.lands s (.hdrop f) 2 9 1 [wrH f.h.toNat {}]) ∧
  (∀ (f : OpM) (s : State), (Instr.hchk f).check = none → Spec.on s f.g → Spec.held s f.h.toNat →
    Spec.lands s (.hchk f) 2 9 2 ((s.wbS f.w).toList.map fun r =>
      wr64 r (BitVec.ofNat 64 ((s.handle f.h.toNat).image.toNat / 2 ^ 94 * 2 ^ 30))))

/-- R211, R212: gpush fetches one row of the scratchpad, the context's own unperformed stores included, into the index queue
for eight cycles; gpop lands the oldest row of the data queue in gq.r, untyped, after one cycle, and traps at an empty queue. -/
def Obligations.GatherQueueOperations : Prop :=
  (∀ (f : OpS) (s : State) (t : Src), (Instr.gpush f).check = none → Spec.on s f.g → s.readT f.t = .ok t →
    Spec.held s (f.o.toNat - 0xB0) →
    let h := s.handle (f.o.toNat - 0xB0)
    let a := (((h.va.toNat : Int) + t.word.toInt) % 2 ^ 64).toNat
    h.ps = 15 → Spec.allows h a 128 16 true false → s.me.iq.length + s.me.gq.length < 16 →
    let l := (List.range 128).map fun i => s.mySpadByte (s.me.ownCells true) (a + i)
    exec (.gpush f) s = .next (s.modMe fun c => { c with iq := c.iq ++
      [⟨s.cycle + 8, ofBytes 1024 (l.map Prod.fst), if l.any Prod.snd then .poison else .clean⟩] }).commit) ∧
  (∀ (f : OpS) (s : State) (r : GRow) (rest : List GRow), (Instr.gpop f).check = none → Spec.on s f.g →
    s.me.gq = r :: rest → s.me.iq = [] → ∃ u : State, exec (.gpop f) s = .next u.commit ∧ u.me.gq = rest ∧
      u.me.flight = insertLanding ⟨s.cycle + 1, s.cur.seq, 1, 16, [wrW (.rl 0x14) { data := r.row } r.mark]⟩ s.me.flight ∧
      u.me.bank = s.me.bank ∧ Spec.sameMemory s u) ∧
  (∀ (f : OpS) (s : State), (Instr.gpop f).check = none → Spec.on s f.g → s.me.gq = [] → s.me.iq = [] →
    exec (.gpop f) s = .next (s.stop (.trap { cause := 11, unit := 16, slot := 1 })))

namespace Sys2Proof.Spec

open Sys2Proof.Machine

/-- The typed sources of a vector operation have one format (R196). -/
def oneFormat (fm : Nat) (l : List Wide) : Prop := (∃ x ∈ l, x.fmt ≠ 0) ∧ ∀ x ∈ l, x.fmt = 0 ∨ x.fmt.toNat = fm
/-- Their scale biases are equal (R196). -/
def oneBias (b : Int) (l : List Wide) : Prop := ∀ x ∈ l, x.fmt ≠ 0 → x.bias.toInt = b
/-- A vector operation whose encoding is legal, whose guard is not poisoned and has an element of the first n, and whose operands are readable
(R83, R195, R197). -/
def vready (s : State) (i : Instr) (u : VecUnit) (f : OpS) (n : Nat) (t o : Src) (l : Wide) : Prop :=
  i.check = none ∧ s.guardReady true f.g = .ok () ∧ (∃ k < n, (s.vguard f.g).getLsbD k = true) ∧ s.readT f.t = .ok t ∧
  (i.shape.o ≠ .none → s.readO u.unit f = .ok o) ∧ (i.shape.readsL = true → s.readLatch u.unit = .ok l)
/-- fmode is not poisoned, where an operation rounds by it (R188, R396). -/
def rounding (s : State) : Prop := s.intact (.sp 15) = .ok ()
/-- Results of elements of width w under the guard: zero in the latch where it is false, and not written into W (R197). -/
def elementwise (s : State) (u : VecUnit) (f : OpS) (w fm : Nat) (b : Int) (r : Nat → Nat) : List RegWrite :=
  let g := s.vguard f.g
  let v : Wide :=
    { data := BitVec.ofFnLE fun i : Fin 1024 => g.getLsbD (i.val / w) && (r (i.val / w)).testBit (i.val % w)
      bias := BitVec.ofInt 6 b, fmt := BitVec.ofNat 4 fm }
  wrW (.rl (match u with | .va => 0x10 | .vb => 0x11)) v :: if f.w = 0 then [] else
    [{ reg := .v f.w.toNat, val := v, mask := BitVec.ofFnLE fun i : Fin 1024 => g.getLsbD (i.val / w) }]
/-- One result that fills the latch and W. -/
def whole (u : VecUnit) (f : OpS) (v : Wide) : List RegWrite :=
  wrW (.rl (match u with | .va => 0x10 | .vb => 0x11)) v :: if f.w = 0 then [] else [wrW (.v f.w.toNat) v]
/-- The result bias of an integer operation by its rule (R199): common, sum, sum plus w, T's. -/
def biasBy (rule : Nat) (t o : Wide) (w : Nat) (b : Int) : Prop :=
  match rule with
  | 0 => oneBias b [t, o]
  | 1 => b = t.b + o.b ∧ -32 ≤ b ∧ b ≤ 31
  | 2 => b = t.b + o.b + w ∧ -32 ≤ b ∧ b ≤ 31
  | _ => b = t.b
/-- The integer operations of two sources (R199), with the rule of the bias and the exact result of two elements. -/
def ints (fm w a b : Nat) : List ((VecUnit → OpS → Instr) × Nat × Int) :=
  let sg := fun (x : Nat) => Int.bmod x (2 ^ w)
  let rd := fun (x : Nat) => if fm = 1 ∨ fm = 3 ∨ fm = 5 then sg x else (x : Int)
  let clip := fun (z : Int) => if fm = 1 ∨ fm = 3 ∨ fm = 5 then max (-2 ^ (w - 1)) (min (2 ^ (w - 1) - 1) z)
    else max 0 (min (2 ^ w - 1) z)
  [ (.vadd, 0, a + b), (.vsub, 0, a - b), (.vmul, 1, a * b), (.vmulh, 2, rd a * rd b / 2 ^ w),
    (.vmin, 0, min (sg a) (sg b)), (.vmax, 0, max (sg a) (sg b)), (.vminn, 0, min a b), (.vmaxn, 0, max a b),
    (.vshl, 3, a * 2 ^ (b % w)), (.vshr, 3, a / 2 ^ (b % w)), (.vsra, 3, sg a / 2 ^ (b % w)),
    (.vadds, 0, clip (rd a + rd b)), (.vsubs, 0, clip (rd a - rd b)),
    (.vabs, 3, if fm = 1 ∨ fm = 3 ∨ fm = 5 then |sg a| else a) ]
/-- The bitwise operations of R200 on one bit. -/
def bitwise (a b : Bool) : List ((VecUnit → OpS → Instr) × Bool) :=
  [(.vand, a && b), (.vor, a || b), (.vxor, a ^^ b), (.vandn, a && !b)]
/-- The floating operations of two values under one bias (R201). -/
def floats (mode : Nat) (x y : FVal) : List ((VecUnit → OpS → Instr) × FVal) :=
  [ (.vfadd, FVal.add mode x y), (.vfsub, FVal.add mode x y.neg),
    (.vfmin, if x.isNan then y else if y.isNan then x else if y.ltZ x then y else x),
    (.vfmax, if x.isNan then y else if y.isNan then x else if x.ltZ y then y else x) ]
/-- The functions of R202 by their numbers. -/
def funcs : List ((VecUnit → OpS → Instr) × Nat) := [(.vrcp, 0), (.vrsq, 1), (.vexp2, 2), (.vlog2, 3), (.vtanh, 4)]
/-- The operations on vector predicates of R209, for T, O and the guard. -/
def vpreds (t o g : VPred) : List ((VecUnit → OpS → Instr) × Nat) :=
  let bits := fun (h : Nat → Bool) => (BitVec.ofFnLE fun i : Fin 128 => h i.val && g.getLsbD i.val).toNat
  [ (.vpand, bits fun i => t.getLsbD i && o.getLsbD i), (.vpor, bits fun i => t.getLsbD i || o.getLsbD i),
    (.vpxor, bits fun i => t.getLsbD i ^^ o.getLsbD i), (.vpnot, bits fun i => !t.getLsbD i), (.vpset, bits t.getLsbD),
    (.vpcnt, (List.range 128).countP fun i => t.getLsbD i && g.getLsbD i) ]
/-- The compares of R203, with whether they compare codes, and the condition on two elements. -/
def vcompares (fm w : Nat) (bt bo : Int) (a b : Nat) : List ((VecUnit → BitVec 3 → OpS → Instr) × Bool × Bool) :=
  let m := if fm = 11 then 2 ^ 6 else 2 ^ w
  let sg := fun (x : Nat) => Int.bmod x (2 ^ w)
  let x := fmtValue fm bt a
  let y := fmtValue fm bo b
  [ (.vceq, true, decide (a % m = b % m)), (.vcne, true, decide (a % m ≠ b % m)), (.vclt, true, decide (sg a < sg b)),
    (.vcle, true, decide (sg a ≤ sg b)), (.vcltn, true, decide (a < b)), (.vfceq, false, x.eq y), (.vfclt, false, x.lt y),
    (.vfcle, false, x.lt y || x.eq y) ]

end Sys2Proof.Spec

/-- R196, R197, R199: each integer operation with one integer format, the bias its rule asks for, completes: element by
element, the exact result modulo 2^w, after two cycles.
The model's own choices in it: log 45 and 77 (the order of subcauses, the range of the guard). -/
def Obligations.VectorIntegerResults : Prop :=
  ∀ (u : VecUnit) (f : OpS) (s : State) (t o : Src) (fm : Nat) (b : Int), 1 ≤ fm → fm ≤ 6 →
    let w := fmtWidth fm
    ∀ j < (Spec.ints fm w 0 0).length, let op := fun (x y : Nat) => ((Spec.ints fm w x y)[j]?).map fun e => (e.1 u f, e.2.1, e.2.2)
    ∀ i rule z, op 0 0 = some (i, rule, z) →
    Spec.vready s i u f (1024 / w) t o {} →
    Spec.oneFormat fm (t.tagged :: if i.shape.o = .none then [] else [o.tagged]) → Spec.biasBy rule t.tagged o.tagged w b →
    Spec.lands s i u.slot u.unit 2 (Spec.elementwise s u f w fm b fun k =>
      match op (t.elemAt w k) (o.elemAt w k) with
      | some e => (e.2.2 % 2 ^ w).toNat
      | none => 0)

/-- R200: the bitwise operations complete whatever the tags: the result takes the tag of the first source that is not
untyped. -/
def Sys2Proof.Spec.VectorBitwiseResults : Prop :=
  ∀ (u : VecUnit) (f : OpS) (s : State) (t o : Src),
    let typed := fun (x : Wide) => x.fmt ≠ 0 ∧ x.fmt ≠ 12
    let w := if typed t.tagged then fmtWidth t.tagged.fmt.toNat else if typed o.tagged then fmtWidth o.tagged.fmt.toNat else 64
    let tag := if t.tagged.fmt ≠ 0 then t.tagged else o.tagged
    ∀ j < 4, let op := fun (x y : Bool) => ((Spec.bitwise x y)[j]?).map fun e => (e.1 u f, e.2)
    ∀ i z, op false false = some (i, z) → Spec.vready s i u f (1024 / w) t o {} →
    Spec.lands s i u.slot u.unit 2 (Spec.elementwise s u f w tag.fmt.toNat tag.bias.toInt fun k =>
      (BitVec.ofFnLE fun n : Fin w => match op ((t.elemAt w k).testBit n) ((o.elemAt w k).testBit n) with
        | some e => e.2
        | none => false).toNat)

/-- R201: sums, differences, lesser, greater, products and fused products of one IEEE format complete after four cycles, each
element the exact result rounded once under fmode.
The model's own choices in it: log 45 (the order of subcauses). -/
def Obligations.VectorFloatResults : Prop :=
  ∀ (u : VecUnit) (f : OpS) (s : State) (t o : Src) (l : Wide) (fm : Nat) (b : Int), 7 ≤ fm → fm ≤ 9 → Spec.rounding s →
    let w := fmtWidth fm
    let mode := s.me.bank.fmode
    let tv := fun (c : Int) (k : Nat) => fmtValue fm c (t.elemAt w k)
    let ov := fun (c : Int) (k : Nat) => fmtValue fm c (o.elemAt w k)
    let two := [t.tagged, o.tagged]
    let three := [t.tagged, o.tagged, l]
    let bt := t.tagged.b
    let bo := o.tagged.b
    let done := fun (i : Instr) (r : Nat → FVal) =>
      Spec.lands s i u.slot u.unit 4 (Spec.elementwise s u f w fm b fun k => fmtEncode fm b mode (r k))
    (∀ j < 4, ∀ e, (∀ k, ((Spec.floats mode (tv b k) (ov b k))[j]?).map Prod.fst = some e) →
      Spec.vready s (e u f) u f (1024 / w) t o l → Spec.oneFormat fm two → Spec.oneBias b two →
      done (e u f) fun k => (((Spec.floats mode (tv b k) (ov b k))[j]?).map Prod.snd).getD .nan) ∧
    (Spec.vready s (.vfmul u f) u f (1024 / w) t o l → Spec.oneFormat fm two → b = bt + bo → -32 ≤ b → b ≤ 31 →
      done (.vfmul u f) fun k => (tv bt k).mul (ov bo k)) ∧
    (b = bt + bo → -32 ≤ b → b ≤ 31 → (l.fmt ≠ 0 → l.bias.toInt = b) → Spec.oneFormat fm three →
      (Spec.vready s (.vfma u f) u f (1024 / w) t o l →
        done (.vfma u f) fun k => FVal.add mode ((tv bt k).mul (ov bo k)) (fmtValue fm b (elem w l.data k))) ∧
      (Spec.vready s (.vfnma u f) u f (1024 / w) t o l →
        done (.vfnma u f) fun k => FVal.add mode ((tv bt k).mul (ov bo k)).neg (fmtValue fm b (elem w l.data k))))

/-- R202: the reciprocal, its root, exponential, logarithm and tangent complete after six cycles with bias 0. The exact cases of the rule
have their values; any other result is the exact value rounded by R189, and always so where it overflows or underflows, or lies within
the rule's bound in ulps of it, whatever the free value. -/
def Sys2Proof.Spec.VectorFunctionResults : Prop :=
  (∀ (u : VecUnit) (f : OpS) (s : State) (t : Src) (fm : Nat), 7 ≤ fm → fm ≤ 9 → Spec.rounding s → ∀ e ∈ Spec.funcs,
    Spec.vready s (e.1 u f) u f (1024 / fmtWidth fm) t (srcS 0) {} → t.tagged.fmt.toNat = fm →
    Spec.lands s (e.1 u f) u.slot u.unit 6 (Spec.elementwise s u f (fmtWidth fm) fm 0 fun k =>
      transcend e.2 fm s.me.bank.fmode (t.elemAt (fmtWidth fm) k) t.tagged.b)) ∧
  (∀ (fm mode c : Nat) (b : Int), 7 ≤ fm → fm ≤ 9 →
    let fn := fun op => transcend op fm mode c b
    let enc := encodeIeee fm mode
    let x := fmtValue fm b c
    (x = .nan → ∀ e ∈ Spec.funcs, fn e.2 = ieeeNan fm) ∧
    (∀ a, x = .inf a → fn 0 = enc (.fin a 0 0) ∧ fn 1 = (if a then ieeeNan fm else enc (.fin false 0 0)) ∧
      fn 2 = enc (if a then .fin false 0 0 else .inf false) ∧ fn 3 = (if a then ieeeNan fm else enc (.inf false)) ∧
      fn 4 = enc (.fin a 1 0)) ∧
    (∀ a e, x = .fin a 0 e → fn 0 = enc (.inf a) ∧ fn 1 = enc (.inf a) ∧ fn 2 = enc (.fin false 1 0) ∧ fn 3 = enc (.inf true) ∧
      fn 4 = enc (.fin a 0 0)) ∧
    (∀ a m e, x = .fin a m e → m ≠ 0 →
      (a = true → fn 1 = ieeeNan fm ∧ fn 3 = ieeeNan fm) ∧
      (a = false → ∀ k : Nat, m = 2 ^ k → fn 3 = enc (.fin ((k : Int) + e < 0) ((k : Int) + e).natAbs 0)) ∧
      ∀ p ∈ [(0, 1, recipVal a m e), (1, 1, rsqrtVal m e), (2, if fm = 9 then 2 else 1, exp2Val a m e),
          (3, if fm = 9 then 2 else 1, log2Val m e), (4, if fm = 9 then 2 else 1, tanhVal a m e)],
        (p.1 = 1 ∨ p.1 = 3 → a = false) → (p.1 = 2 → e < 0 ∧ m % 2 ^ (-e).toNat ≠ 0 ∧ m / 2 ^ (-e).toNat < 999) →
        (p.1 = 3 → ∀ k, m ≠ 2 ^ k) →
        (fn p.1 = enc p.2.2 ∨ withinUlp fm p.2.1 (ieeeValue fm (fn p.1)) p.2.2 = true) ∧ (extreme fm p.2.2 = true → fn p.1 = enc p.2.2)))

/-- R190 to R193: vcvt, vscale and vtag complete: each element's value encoded anew, scaled by a power of two, or left as
it is under a new tag. -/
def Sys2Proof.Spec.VectorConversionResults : Prop :=
  ∀ (u : VecUnit) (f : OpS) (s : State) (t o : Src),
    let tg := t.tagged
    let mode := s.me.bank.fmode
    (∀ fmt : BitVec 4, fmt ≠ 12 → Spec.rounding s → tg.fmt ≠ 0 → tg.fmt ≠ 12 → Spec.vready s (.vcvt u fmt f) u f (1024 / fmtWidth fmt.toNat) t o {} →
      let ws := fmtWidth tg.fmt.toNat
      let wd := fmtWidth fmt.toNat
      let b := Int.bmod (o.word.toNat % 64) 64
      let part := o.word.toNat / 256 % 4
      let conv := fun (k : Nat) => fmtEncode fmt.toNat b mode (fmtValue tg.fmt.toNat tg.bias.toInt (elem ws tg.data k))
      Spec.lands s (.vcvt u fmt f) u.slot u.unit 4 (Spec.elementwise s u f wd fmt.toNat b fun k =>
        if wd ≤ ws then
          (let p := part % (ws / wd) * (1024 / ws)
           if p ≤ k ∧ k < p + 1024 / ws then conv (k - p) else 0)
        else conv (part % (wd / ws) * (1024 / wd) + k))) ∧
    (Spec.vready s (.vcvt u 12 f) u f 16 t o {} →
      Spec.lands s (.vcvt u 12 f) u.slot u.unit 2 (Spec.elementwise s u f 64 12 0 fun k => elem 64 tg.data k)) ∧
    (Spec.rounding s → tg.fmt ≠ 0 → tg.fmt ≠ 12 → Spec.vready s (.vscale u f) u f (1024 / fmtWidth tg.fmt.toNat) t o {} →
      let w := fmtWidth tg.fmt.toNat
      let n := Int.bmod (o.word.toNat % 256) 256
      Spec.lands s (.vscale u f) u.slot u.unit 4 (Spec.elementwise s u f w tg.fmt.toNat tg.bias.toInt fun k =>
        let c := elem w tg.data k
        if n = 0 then c else fmtEncode tg.fmt.toNat tg.bias.toInt mode ((fmtValue tg.fmt.toNat tg.bias.toInt c).scale n))) ∧
    (let n := o.word.toNat % 16
     n ≤ 12 → Spec.vready s (.vtag u f) u f (1024 / fmtWidth n) t o {} →
      Spec.lands s (.vtag u f) u.slot u.unit 2 (Spec.elementwise s u f (fmtWidth n) n
        (Int.bmod (o.word.toNat / 16 % 64) 64) fun k => t.elemAt (fmtWidth n) k))

/-- R204: the lane operations complete after two cycles: splat, insert, extract, permute, rotate, select and compact
of a typed source's elements, which keep its tag. -/
def Sys2Proof.Spec.VectorLaneResults : Prop :=
  ∀ (u : VecUnit) (f : OpS) (s : State) (t o : Src) (l : Wide) (fm : Nat), 1 ≤ fm → fm ≤ 11 →
    let w := fmtWidth fm
    let n := 1024 / w
    let tg := t.tagged
    let x := fun (k : Nat) => elem w tg.data k
    let c := o.word.toNat
    (tg.fmt.toNat = fm → ∀ e ∈ ([ (.vsplat u f, fun _ => x (c % n)),
        (.vins u f, fun k => if k = l.data.toNat % 128 % n then c % 2 ^ w else x k),
        (.vperm u f, fun k => x (o.elemAt 8 k % n)), (.vrot u f, fun k => x ((k + c) % n)) ] : List (Instr × (Nat → Nat))),
      Spec.vready s e.1 u f n t o l →
      Spec.lands s e.1 u.slot u.unit 2 (Spec.elementwise s u f w fm tg.bias.toInt e.2)) ∧
    (tg.fmt.toNat = fm → Spec.vready s (.vext u f) u f 1 t o l →
      Spec.lands s (.vext u f) u.slot u.unit 2 (Spec.whole u f { data := (Spec.z64 (
        if fm = 1 ∨ fm = 3 ∨ fm = 5 then Int.bmod (x (c % n)) (2 ^ w) else if fm = 11 then x (c % n) % 2 ^ 6 else x (c % n))).setWidth 1024 })) ∧
    (tg.fmt.toNat = fm → Spec.vready s (.vcomp u f) u f n t o l →
      let kept := (List.range n).filter fun k => (s.vguard f.g).getLsbD k
      let d : Lanes := BitVec.ofFnLE fun i : Fin 1024 => match kept[i.val / w]? with
        | some k => (x k).testBit (i.val % w)
        | none => false
      Spec.lands s (.vcomp u f) u.slot u.unit 2 (Spec.whole u f { tg with data := d })) ∧
    (∀ b, Spec.oneFormat fm [tg, o.tagged] → Spec.oneBias b [tg, o.tagged] → Spec.vready s (.vsel u f) u f n t o l →
      Spec.lands s (.vsel u f) u.slot u.unit 2 (Spec.elementwise s u f w fm b fun k =>
        if l.data.getLsbD k then t.elemAt w k else o.elemAt w k))

/-- R205, R206: reductions over the guarded elements complete: the exact integer sum modulo 2^64, or the sum tree in f32; the
greatest element and the index of its first occurrence. -/
def Sys2Proof.Spec.VectorReductionResults : Prop :=
  ∀ (u : VecUnit) (f : OpS) (s : State) (t o : Src) (fm : Nat), 1 ≤ fm → fm ≤ 11 →
    let w := fmtWidth fm
    let n := 1024 / w
    let tg := t.tagged
    let on := (List.range n).filter fun k => (s.vguard f.g).getLsbD k
    let l := on.map fun k => (k, elem w tg.data k)
    tg.fmt.toNat = fm →
    (fm ≤ 6 → Spec.vready s (.vsum u f) u f n t o {} →
      let z := on.map fun k => if fm = 1 ∨ fm = 3 ∨ fm = 5 then Int.bmod (elem w tg.data k) (2 ^ w) else (elem w tg.data k : Int)
      Spec.lands s (.vsum u f) u.slot u.unit 8 (Spec.whole u f { data := (Spec.z64 z.sum).setWidth 1024 })) ∧
    (6 < fm → Spec.rounding s → Spec.vready s (.vsum u f) u f n t o {} →
      let b : Int := if fm ≤ 9 then 0 else tg.bias.toInt
      let nodes := (List.range n).map fun k => if (s.vguard f.g).getLsbD k then some (fmtValue fm b (elem w tg.data k)) else none
      Spec.lands s (.vsum u f) u.slot u.unit 8 (Spec.whole u f
        { data := BitVec.ofNat 1024 (encodeIeee 9 s.me.bank.fmode ((sumTree s.me.bank.fmode (Nat.log2 n) nodes).getD (.fin false 0 0)))
          fmt := 9, bias := if fm ≤ 9 then tg.bias else 0 })) ∧
    (Spec.vready s (.vmaxr u f) u f n t o {} → Spec.lands s (.vmaxr u f) u.slot u.unit 4 (Spec.whole u f { tg with
      data := BitVec.ofNat 1024 (((greatest fm l).map Prod.snd).getD (nanCode fm)) })) ∧
    (Spec.vready s (.vargmax u f) u f n t o {} → Spec.lands s (.vargmax u f) u.slot u.unit 4 (Spec.whole u f {
      data := BitVec.ofNat 1024 (((greatest fm l).map Prod.fst).getD (2 ^ 64 - 1)) }))

/-- R207, R208: vrng's sixteen words from the four-round mix of key and counter, after four
cycles; vsample's draw by weights, after eight. -/
def Sys2Proof.Spec.VectorRandomResults : Prop :=
  ∀ (u : VecUnit) (f : OpS) (s : State) (t o : Src),
    (Spec.vready s (.vrng u f) u f 16 t o {} → Spec.lands s (.vrng u f) u.slot u.unit 4
      (Spec.elementwise s u f 64 0 0 fun j =>
        let mix := fun (c a : Word) (n : Nat) => let y := (c + o.word + a) * 0xC3A57F295E1B4D87#64; y ^^^ (y >>> n)
        (mix (mix (mix (mix (t.word + BitVec.ofNat 64 j) 0x5A3C91E70D4B26F1#64 29) 0xB17E4C0593A86E2D#64 32)
          0x2F96D8B341C70A59#64 27) 0xE40B7A6D1F35C893#64 31).toNat)) ∧
    (∀ fm, 7 ≤ fm → fm ≤ 9 → t.tagged.fmt.toNat = fm →
      Spec.vready s (.vsample u f) u f (1024 / fmtWidth fm) t o {} →
      let l := ((List.range (1024 / fmtWidth fm)).filter fun k => (s.vguard f.g).getLsbD k).map fun k =>
        (k, fmtValue fm t.tagged.b (elem (fmtWidth fm) t.tagged.data k))
      Spec.lands s (.vsample u f) u.slot u.unit 8 (Spec.whole u f
        { data := BitVec.ofNat 1024 (sampleDraw l (o.word.toNat / 2 ^ 32)) }))

/-- R209: the operations on vector predicates complete after two cycles: 128 bits under the guard, or their count. -/
def Sys2Proof.Spec.VectorPredicateResults : Prop :=
  ∀ (u : VecUnit) (f : OpS) (s : State) (t o : Src), ∀ e ∈ Spec.vpreds t.vec o.vec (s.vguard f.g),
    Spec.vready s (e.1 u f) u f 128 t o {} →
    Spec.lands s (e.1 u f) u.slot u.unit 2 (Spec.whole u f { data := BitVec.ofNat 1024 e.2 })

/-- R203: the compares complete after two cycles: all ones or zero in each element, untyped, and for k ≠ 0 the
predicate pair, whose bits outside the guard are 0. -/
def Sys2Proof.Spec.VectorCompareResults : Prop :=
  ∀ (u : VecUnit) (k : BitVec 3) (f : OpS) (s : State) (t o : Src) (fm : Nat),
    let w := fmtWidth fm
    let n := 1024 / w
    let g := s.vguard f.g
    let tg := t.tagged
    let og := o.tagged
    let bt := if tg.fmt = 0 then og.b else tg.b
    let bo := if og.fmt = 0 then tg.b else og.b
    ∀ j < 8, ∀ c codes, (∀ x y, ((Spec.vcompares fm w bt bo x y)[j]?).map (fun e => (e.1, e.2.1)) = some (c, codes)) →
    let cond := fun (x : Nat) => (((Spec.vcompares fm w bt bo (t.elemAt w x) (o.elemAt w x))[j]?).map (·.2.2)).getD false
    (if codes then (1 ≤ fm ∧ fm ≤ 6 ∨ j < 2 ∧ (fm = 10 ∨ fm = 11)) ∧ (∃ b, Spec.oneBias b [tg, og]) else 7 ≤ fm ∧ fm ≤ 9) →
    Spec.oneFormat fm [tg, og] → Spec.vready s (c u k f) u f n t o {} →
    Spec.lands s (c u k f) u.slot u.unit 2 (Spec.elementwise s u f w 0 0 (fun x => if cond x then 2 ^ w - 1 else 0) ++
      if k = 0 then [] else
        [{ reg := .vp (2 * k.toNat), mask := fullMask, val := { data :=
            (BitVec.ofFnLE fun i : Fin 128 => decide (i.val < n) && g.getLsbD i.val && cond i.val).setWidth 1024 } },
         { reg := .vp (2 * k.toNat + 1), mask := fullMask, val := { data :=
            (BitVec.ofFnLE fun i : Fin 128 => decide (i.val < n) && g.getLsbD i.val && !cond i.val).setWidth 1024 } }])

namespace Sys2Proof.Spec

open Sys2Proof.Machine

/-- The row of a matrix operand in bytes, packed (R216). -/
def rowBytes (fm : Nat) : Nat := if fm = 11 then 96 else if fm = 7 then 256 else 128
/-- STRIDE, or the packed row for 0 (R216). -/
def stride (d : Lanes) (fm : Nat) : Nat := let n := d.toNat / 2 ^ 64 % 2 ^ 20; if n = 0 then rowBytes fm else n
/-- An address without displacement (R123). -/
def eaAt (h : Handle) (off : Word) : Nat := (((h.va.toNat : Int) + off.toInt) % 2 ^ 64).toNat
/-- An entry of the macro queues as an operation of the issuing context makes it (R217, R218), of load or push kind. -/
def entry (s : State) (f : OpT) (load gang : Bool) (rtime : Nat) (fmt : BitVec 4) (bias : BitVec 6) (tag : BitVec 10) : MOp :=
  { id := s.fresh + 1, ctx := s.cid, pitch := s.me.pitch, seq := s.seq, load := load, b := f.b, gang := gang, acc := f.acc,
    rtime := rtime, fmt := fmt, bias := bias, tag := tag, off := 0, stride := 0, h := {}, vec := none, csem := none,
    slot := s.coreSlot s.cur.core, gen := s.coreGen s.cur.core, released := false, relAt := 0, start := none, rows := 0,
    consumed := true, data := none, lim := rtime }
/-- Fewer than eight entries in each queue the entry joins (R218). -/
def room (s : State) (m : MOp) : Prop :=
  ∀ q ∈ m.macros, (s.myCore.mops.filter fun x => x.macros.contains q).length < 8
/-- Pushes of a tile whose last row is not added (R218, R219). -/
def flying (s : State) (acc : BitVec 4) : List MOp :=
  s.myCore.mops.filter fun x => !x.load && decide (x.rows < if x.vec.isSome then 1 else 128) && x.acc == acc
/-- The entry waits in the context's reservations and the release list. -/
def enter (s : State) (m : MOp) (b : RelBody) : State :=
  (s.modMyCore fun k => { k with mops := k.mops ++ [m] }).addRel 0 28 b
/-- A tile emptied at issue, a destroy (R227, R229, R240). -/
def emptied (s : State) (acc : BitVec 4) (tag : BitVec 10) : State :=
  (s.setTile s.cur.core acc.toNat { tag := tag, stamp := s.coreGen s.cur.core }).modMe fun c => { c with destroyed := true }
/-- Format pairs of R221 with the row time (which is also the limit of pushes in flight) and whether the tile is i32. -/
def pairs : List (Nat × Nat × Nat × Bool) :=
  [(1, 1, 8, true), (10, 10, 8, false), (10, 11, 8, false), (11, 10, 5, false), (11, 11, 5, false), (7, 10, 16, false),
   (7, 11, 16, false)]
/-- The bias of a tag field (R184). -/
def tagB (t : BitVec 10) : Int := Int.bmod (t.toNat / 16) 64
/-- What a push of format fa and bias ba needs of its slot and tile (R221, R228): the pair, ganged for bf16, a bias in
range, and the tile's tag where it accumulates; with its row time and the tile's new tag. -/
def pushableAt (s : State) (core : Nat) (b : BitVec 7) (acc : BitVec 4) (mode fa : Nat) (ba : Int) (isVec : Bool) (r : Nat)
    (tag : BitVec 10) : Prop :=
  let x := s.bslot core b.toNat
  let t := (s.tile core acc.toNat).tag
  ∃ i32, (fa, x.tag.toNat % 16, r, i32) ∈ pairs ∧ (fa = 7 → isVec = false ∧ x.gang = true ∧ b.toNat < 64) ∧
    (i32 = true → -32 ≤ ba + tagB x.tag ∧ ba + tagB x.tag ≤ 31 ∧
      tag = BitVec.ofNat 10 (((ba + tagB x.tag) % 64).toNat * 16 + 5)) ∧ (i32 = false → tag = 9) ∧
    (mode = 0 → t.toNat % 16 = 0 ∨ t = tag)
/-- The same of a push that the issuing context issues. -/
def pushable (s : State) (f : OpT) (fa : Nat) (ba : Int) (isVec : Bool) (r : Nat) (tag : BitVec 10) : Prop :=
  pushableAt s s.cur.core f.b f.acc f.mode.toNat fa ba isVec r tag
/-- The epilogue of a row (R231): each element times its scale plus its bias, from the table's 1,024 bytes, rounded once to f32, under
RELU not negative, encoded by FMT and BIAS of the descriptor d under a rounding mode. -/
def epiRow (tag : BitVec 10) (row : BitVec 4096) (tbl : List Byte) (d : Lanes) (mode : Nat) : Lanes :=
  let word := fun (o : Nat) => ieeeValue 9 (natOfBytes ((tbl.drop o).take 4))
  let z := fun (c : Nat) =>
    let y := roundF32 (FVal.add 0 ((tileValue tag (row.toNat / 2 ^ (32 * c) % 2 ^ 32)).mul (word (4 * c))) (word (512 + 4 * c)))
    if d.getLsbD 118 && y.lt (.fin false 0 0) then .fin false 0 0 else y
  BitVec.ofFnLE fun i : Fin 1024 =>
    (fmtEncode (d.toNat / 2 ^ 104 % 16) (d.extractLsb' 108 6).toInt mode (z (i.val / 8))).testBit (i.val % 8)
/-- The exact value of a finite number, none of a special one (R178). -/
def fval : FVal → Option ℚ
  | .fin neg m e => some ((if neg then -1 else 1) * m * 2 ^ e)
  | _ => none
/-- Align (R222): magnitudes cut toward zero to w bits below the leading one of the block. -/
def aligned (w : Nat) (l : List ℚ) : List ℚ :=
  match ((l.filter (· ≠ 0)).map fun x => Int.log 2 |x|).max? with
  | none => l.map fun _ => 0
  | some e => l.map fun x => (if x < 0 then -1 else 1) * ⌊|x| / 2 ^ (e + 1 - w)⌋ * 2 ^ (e + 1 - w)
/-- p is the block sum P of two blocks (R223): NaN where a special element stands in either, else their exact sum of aligned products. -/
def blockSum (wa wb : Nat) (a b : List (Option ℚ)) (p : FVal) : Prop :=
  if none ∈ a ∨ none ∈ b then p = .nan
  else ∃ neg n e, p = .fin neg n e ∧ (n = 0 → neg = false) ∧
    fval p = some (List.zipWith (· * ·) (aligned wa a.reduceOption) (aligned wb b.reduceOption)).sum
/-- The bits kept of an A and of a B element, by format (R221). -/
def keptBits (fm : Nat) : Nat := if fm = 7 then 12 else if fm = 11 then 5 else 8
/-- The frame of an mx operation: legal, its guard true, its descriptor readable (R216, R225). -/
def mready (s : State) (i : Instr) (f : OpT) (l : Wide) : Prop :=
  i.check = none ∧ Spec.on s f.g ∧ s.readLatch 28 = .ok l

end Sys2Proof.Spec

/-- R226 with R216 to R218: an mload whose format and rows are allowed completes: it waits, reserved in its macro's queue (both
queues when ganged), for its pitch's release. -/
def Sys2Proof.Spec.TileLoadIssues : Prop :=
  ∀ (f : OpT) (s : State) (l : Wide) (t : Src), Spec.mready s (.mload f) f l → s.readT f.t = .ok t →
    let d := l.data
    let fm := d.toNat / 2 ^ 104 % 16
    let n := d.toNat / 2 ^ 114 % 16
    let h := s.handle n
    let st := Spec.stride d fm
    let m : MOp := { Spec.entry s f true (f.mode == 1) 0 (BitVec.ofNat 4 fm) (d.extractLsb' 108 6) (BitVec.ofNat 10 (d.toNat / 2 ^ 104 % 1024)) with
      acc := 0, off := t.word, stride := st, h := h }
    Spec.held s n → fm = 1 ∨ fm = 10 ∨ fm = 11 →
    (∀ i < 128, let a := Spec.eaAt h (t.word + BitVec.ofNat 64 (i * st))
      Spec.allows h a (Spec.rowBytes fm) 32 true false) → Spec.room s m →
    exec (.mload f) s = .next (Spec.enter { s with fresh := s.fresh + 1 } m (.mload (s.fresh + 1) h false)).commit

/-- R227, R228 with R219 to R221: an mpush whose formats pair, whose rows lie in the scratchpad, and whose tile and queues have
room completes; so does an mpushv of its one row. In MODE 1 the tile, which no push may be adding to, is emptied at
once. -/
def Sys2Proof.Spec.PushIssues : Prop :=
  ∀ (f : OpT) (s : State) (l : Wide) (t : Src) (r : Nat) (tag : BitVec 10), s.readT f.t = .ok t →
    let d := l.data
    let fm := d.toNat / 2 ^ 104 % 16
    let st := Spec.stride d fm
    let m : MOp := { Spec.entry s f false (fm == 7) r (BitVec.ofNat 4 fm) (d.extractLsb' 108 6) tag with
      off := t.word, stride := st, consumed := false
      csem := if d.getLsbD 119 then some (d.extractLsb' 120 8) else none }
    let v : MOp := { Spec.entry s f false false r t.wide.fmt t.wide.bias tag with
      vec := some (d.extractLsb' 128 7, t.wide.data) }
    let s1 : State := { s with fresh := s.fresh + 1 }
    let cleared := if f.mode = 1 then Spec.emptied s1 f.acc tag else s1
    (Spec.flying s f.acc).length < r → (f.mode = 1 → Spec.flying s f.acc = []) →
    (Spec.mready s (.mpush f) f l → Spec.pushable s f fm (d.extractLsb' 108 6).toInt false r tag →
      t.word.toNat + 127 * st + Spec.rowBytes fm ≤ 2 ^ 20 → t.word.toNat % 32 = 0 → st % 32 = 0 → Spec.room s m →
      exec (.mpush f) s = .next (Spec.enter cleared m (.push (s.fresh + 1))).commit) ∧
    (Spec.mready s (.mpushv f) f l → Spec.pushable s f t.wide.fmt.toNat t.wide.bias.toInt true r tag → Spec.room s v →
      exec (.mpushv f) s = .next (Spec.enter cleared v (.push (s.fresh + 1))).commit)

/-- R219, R229, R230: mzero empties a tile with no push in flight at issue; mpop lands 32 elements of its row, with the tile's
tag, in mx.r after two cycles; and either waits while a push it must wait for is in flight: blocked, or, where that push is of
its own pitch, with the queue-underflow trap. -/
def Sys2Proof.Spec.TileReadAndClear : Prop :=
  ∀ (f : OpT) (s : State) (l : Wide),
    (Spec.mready s (.mzero f) f l → Spec.flying s f.acc = [] →
      exec (.mzero f) s = .next (Spec.emptied s f.acc 0).commit) ∧
    (Spec.mready s (.mzero f) f l → Spec.flying s f.acc ≠ [] → exec (.mzero f) s =
      if (Spec.flying s f.acc).any fun m => m.ctx == s.cid && !m.released && m.pitch == s.me.pitch
        then .next (s.stop (.trap { cause := 11, unit := 28, slot := 5 }))
        else .next (s.stop (.block .busyTile))) ∧
    (∀ t, Spec.mready s (.mpop f) f l → s.readT f.t = .ok t →
      let r := t.word.toNat % 128
      let g := t.word.toNat / 128 % 4
      let x := s.tile s.cur.core f.acc.toNat
      (∀ m ∈ Spec.flying s f.acc, match m.vec with
        | some q => q.1.toNat ≠ r
        | none => r < m.rows) →
      Spec.lands s (.mpop f) 5 28 2 [wrW (.rl 0x13)
        { data := ((Tab.get 0 x.rows r).toNat / 2 ^ (1024 * g) : Nat), fmt := x.tag.setWidth 4, bias := x.tag.extractLsb' 4 6 }
        (if (Tab.get 0 x.poison r).toNat / 2 ^ (32 * g) % 2 ^ 32 ≠ 0 then .poison else .clean)]) ∧
    (∀ t, Spec.mready s (.mpop f) f l → s.readT f.t = .ok t →
      let late := (Spec.flying s f.acc).filter fun m => match m.vec with
        | some q => q.1.toNat == t.word.toNat % 128
        | none => decide (m.rows ≤ t.word.toNat % 128)
      late ≠ [] → exec (.mpop f) s =
        if late.any fun m => m.ctx == s.cid && !m.released && m.pitch == s.me.pitch
          then .next (s.stop (.trap { cause := 11, unit := 28, slot := 5 }))
          else .next (s.stop (.block .busyTile)))

/-- R231: mpopx lands the epilogue of the row in mx.r after six cycles: each element times its scale plus its bias, rounded
once to f32, under RELU not negative, encoded by FMT and BIAS; in MODE 1 the packed row also waits as a gated store. -/
def Sys2Proof.Spec.EpiloguePopResults : Prop :=
  ∀ (f : OpT) (s : State) (l : Wide) (t : Src), Spec.mready s (.mpopx f) f l → s.readT f.t = .ok t → Spec.rounding s →
    let d := l.data
    let r := t.word.toNat % 128
    let fm := d.toNat / 2 ^ 104 % 16
    let e := d.toNat / 2 ^ 84 % 2 ^ 20
    let x := s.tile s.cur.core f.acc.toNat
    let tbl := (List.range 1024).map fun i => s.mySpadByte (s.me.ownCells true) (e + i)
    let v : Wide := { data := Spec.epiRow x.tag (Tab.get 0 x.rows r) (tbl.map Prod.fst) d s.me.bank.fmode
                      fmt := d.extractLsb' 104 4, bias := d.extractLsb' 108 6 }
    let bad := Tab.get 0 x.poison r != 0 || tbl.any Prod.snd
    let h := s.handle (d.toNat / 2 ^ 114 % 16)
    let a := Spec.eaAt h (d.setWidth 64 + BitVec.ofNat 64 (r * Spec.stride d fm))
    fm = 1 ∨ fm = 2 ∨ fm = 10 ∨ fm = 11 →
    (∀ m ∈ Spec.flying s f.acc, match m.vec with
        | some q => q.1.toNat ≠ r
        | none => r < m.rows) → e + 1024 ≤ 2 ^ 20 →
    (∀ i < 8, s.lineFull s.cur.core (e / 128 + i) = true) →
    let u := s.land 5 28 6 [wrW (.rl 0x13) v (if bad then .poison else .clean)]
    (f.mode = 0 → exec (.mpopx f) s = .next u.commit) ∧
    (f.mode = 1 → Spec.held s (d.toNat / 2 ^ 114 % 16) → Spec.allows h a (Spec.rowBytes fm) 32 false true →
      (h.ps = 15 → Spec.unlocked s a (Spec.rowBytes fm)) →
      exec (.mpopx f) s = .next (u.addRel 0 28 (.store { h := h, poison := bad, slot := s.coreSlot s.cur.core
                                                         gen := s.coreGen s.cur.core, marked := false
                                                         chunks := [(a, Spec.place h a, packVec (d.extractLsb' 104 4) v.data)] })).commit)

/-- R232, R233: macc and mrel complete, and wait for the release; what macc does there to its row, in i32 and f32, and that
mrel leaves the slot or the tile empty. -/
def Obligations.TileUpdateAndRelease : Prop :=
  (∀ (f : OpT) (s : State) (l : Wide) (t : Src), Spec.mready s (.macc f) f l → s.readT f.t = .ok t →
    let tg := (s.tile s.cur.core f.acc.toNat).tag
    let k := tg.toNat % 16
    let v := t.wide
    (v.fmt = 9 ∧ k ≠ 5) ∨ (v.fmt = 5 ∧ k ≠ 9 ∧ (k = 5 → Spec.tagB tg = v.bias.toInt)) ∨ v.fmt = 0 →
    exec (.macc f) s = .next (s.addRel 0 28 (.macc f.acc (l.data.extractLsb' 128 7) (l.data.extractLsb' 135 2) (f.mode == 1)
      (decide (k ≠ 9)) (decide (v.fmt = 9 ∨ v.fmt = 0 ∧ k = 9)) v)).commit) ∧
  (∀ (f : OpT) (s : State) (l : Wide), Spec.mready s (.mrel f) f l →
    exec (.mrel f) s = .next (s.addRel 0 28 (.mrel f.b f.acc (f.mode == 1))).commit) ∧
  (∀ (s : State) (core : Nat) (x : MAct) (acc : BitVec 4) (row : BitVec 7) (seg : BitVec 2) (whole raw f32 : Bool) (v : Wide) (c : Nat),
    x.body = .macc acc row seg whole raw f32 v → x.gen = s.gen x.slot → c < 128 →
    let old := fun (q : Nat) => (Tab.get 0 (s.tile core acc.toNat).rows q).toNat / 2 ^ (32 * c) % 2 ^ 32
    let new := fun (q : Nat) => (Tab.get 0 ((s.mactDo core x).tile core acc.toNat).rows q).toNat / 2 ^ (32 * c) % 2 ^ 32
    let y := elem 32 v.data (c % 32)
    let z := fmtValue 9 (if v.fmt = 0 then 0 else v.bias.toInt) y
    (∀ q, q ≠ row.toNat ∨ c / 32 ≠ seg.toNat → new q = old q) ∧
    (c / 32 = seg.toNat → new row.toNat =
      if whole = true ∧ (raw = true ∨ f32 = false) then y
      else if whole then encodeIeee 9 0 z
      else if f32 then encodeIeee 9 0 (FVal.add 0 (ieeeValue 9 (old row.toNat)) z)
      else (old row.toNat + y) % 2 ^ 32)) ∧
  (∀ (s : State) (core : Nat) (x : MAct) (b : BitVec 7) (acc : BitVec 4), x.gen = s.gen x.slot →
    (x.body = .mrel b acc true → ((s.mactDo core x).tile core acc.toNat).rows = [] ∧
      ((s.mactDo core x).tile core acc.toNat).tag = 0) ∧
    (x.body = .mrel b acc false → ((s.mactDo core x).bslot core b.toNat).rows = [] ∧
      (64 ≤ b.toNat → ((s.mactDo core x).bslot core (b.toNat - 64)).gang = false)))

/-- R218, R223, R226: the events of the matrix unit. The entry at the head of its macros' queues starts, once a cycle after its
release; a started mload's rows stand in its slots after 128 cycles; a push adds its next row at each row time, an integer
row exactly, modulo 2^32, a row of an f32 tile by its four aligned block sums, in some order, each rounded to f32; and it gives up its operands and leaves its queue when its last row is added.
The model's own choices in it: log 19 and 48 (the free order of block sums, the tag taken with the first row). -/
def Obligations.MatrixUnitEvents : Prop :=
  ∀ (s : State) (core : Nat) (m : MOp),
    let k := s.core core
    let only := fun (g : MOp → MOp) => fun (k : Core) =>
      { k with mops := k.mops.map fun x => if x.id == m.id then g x else x }
    k.macts = [] →
    (∀ q, k.macroHead q = some m → m.start = none → m.relAt < s.cycle → k.macrosRunning + m.macros.length ≤ s.macroLimit →
      (∀ p ∈ m.macros, (k.macroHead p).map (·.id) = some m.id) → (m.load = false ∨ m.data.isSome = true) →
      (m.load = false → (k.mops.filter fun x => !x.load && decide (x.rows < if x.vec.isSome then 1 else 128) && x.acc == m.acc &&
        x.id != m.id).length < m.lim) →
      exec (.macroEntryStart core q) s =
        .next (s.modCore core (only fun x => { x with start := some s.cycle, data := m.data }))) ∧
    (∀ c l, k.loadOf m.b.toNat = some m → m.start = some c → m.data = some l → m.gang = false → l.length = 128 →
      m.gen = s.gen m.slot → c + 128 ≤ s.cycle → ∃ t : State, exec (.mloadComplete core m.b.toNat) s = .next t ∧
        (∀ i < 128, Tab.get 0 (t.bslot core m.b.toNat).rows i = (l.getD i (0, 0)).1) ∧
        (t.bslot core m.b.toNat).loading =
          (k.mops.any fun x => x.load && x.released && x.id != m.id && x.slots.contains m.b.toNat) ∧ (t.core core).mops = k.mops.filter fun x => x.id != m.id) ∧
    (k.push m.id = some m → s.rowDue m = true → exec (.pushRowAdded core m.id) s = .next (s.rowAdd core m)) ∧
    (m.gen = s.gen m.slot → m.gen = s.coreGen core → m.tag.toNat % 16 = 5 →
      let t := s.tile core m.acc.toNat
      let u := (s.rowAdd core m).tile core m.acc.toNat
      let r := match m.vec with
        | some (q, _) => q.toNat
        | none => m.rows
      let codes := (s.pushCodes core m).1
      (∀ q, q ≠ r → Tab.get 0 u.rows q = Tab.get 0 t.rows q) ∧ (t.tag.toNat % 16 = 0 → u.tag = m.tag) ∧
      ∀ c < 128, (Tab.get 0 u.rows r).toNat / 2 ^ (32 * c) % 2 ^ 32 =
        ((((Tab.get 0 t.rows r).toNat / 2 ^ (32 * c) % 2 ^ 32 : Nat) : Int) + ((List.range 128).map fun i =>
          Int.bmod (codes.getD i 0 % 256) 256 *
            Int.bmod (elem 8 (Tab.get 0 (s.bslot core m.b.toNat).rows i) c) 256).sum) % 2 ^ 32) ∧
    (m.gen = s.gen m.slot → m.gen = s.coreGen core → m.tag = 9 → m.fmt.toNat ∈ [7, 10, 11] →
      let t := s.tile core m.acc.toNat
      let u := (s.rowAdd core m).tile core m.acc.toNat
      let x := s.bslot core m.b.toNat
      let r := match m.vec with
        | some (q, _) => q.toNat
        | none => m.rows
      let a := fun (k : Nat) => Spec.fval (fmtValue m.fmt.toNat m.bias.toInt ((s.pushCodes core m).1.getD k 0))
      let b := fun (c k : Nat) => Spec.fval (fmtValue (x.dtag.toNat % 16) (Spec.tagB x.dtag) (elem 8 (Tab.get 0 x.rows k) c))
      let block := fun (g : Nat → Option ℚ) (j : Nat) => (List.range 32).map fun k => g (32 * j + k)
      x.dtag.toNat % 16 ∈ [10, 11] →
      (∀ q, q ≠ r → Tab.get 0 u.rows q = Tab.get 0 t.rows q) ∧ (t.tag.toNat % 16 = 0 → u.tag = m.tag) ∧
      ∀ c < 128, ∃ (order : List Nat) (p : Nat → FVal), order.Perm [0, 1, 2, 3] ∧
        (∀ j < 4, Spec.blockSum (Spec.keptBits m.fmt.toNat) (Spec.keptBits (x.dtag.toNat % 16)) (block a j) (block (b c) j) (p j)) ∧
        (Tab.get 0 u.rows r).toNat / 2 ^ (32 * c) % 2 ^ 32 = order.foldl (fun y j =>
          encodeIeee 9 0 (FVal.add 0 (ieeeValue 9 y) (roundF32 (p j)))) ((Tab.get 0 t.rows r).toNat / 2 ^ (32 * c) % 2 ^ 32)) ∧
    (k.push m.id = some m → m.load = false → (if m.vec.isSome then 1 else 128) ≤ m.rows →
      (m.consumed = false → exec (.operandsConsumed core m.id) s = .next (match m.csem with
        | some q => if m.gen = s.gen m.slot
            then (s.modCore core (only fun x => { x with consumed := true })).addSem core q 1
            else s.modCore core (only fun x => { x with consumed := true })
        | none => s.modCore core (only fun x => { x with consumed := true }))) ∧
      (m.consumed = true → exec (.pushComplete core m.id) s =
        .next (s.modCore core fun k => { k with mops := k.mops.filter fun x => x.id != m.id })))

namespace Sys2Proof.Spec

open Sys2Proof.Machine

/-- An xp operation that no other context keeps waiting (R234, R235). -/
def xready (s : State) (i : Instr) (f : OpS) : Prop :=
  i.check = none ∧ Spec.on s f.g ∧ (s.myCore.xp.owner = none ∨ s.myCore.xp.owner = some s.cid)
/-- The issuing core's transposer becomes x; with both buffers empty it is free (R234), and w is 8 again where a unit has started
while it was owned (R235). -/
def withXp (s : State) (x : Xp) : State :=
  s.modMyCore fun k => { k with xp := if x.fill = [] ∧ x.drain = [] then
    { x with w := if x.restart then 8 else x.w, restart := false, fillTag := none, drainTag := none, col := 0, owner := none } else x }
/-- The operation completes, and nothing has changed but what flies, what waits for the release, and its unit's own state: no register of
the context, no semaphore, nothing of another context, no byte of memory, no tile. -/
def framed (s : State) (i : Instr) : Prop :=
  ∃ t : State, exec i s = .next t.commit ∧ t.me.bank = s.me.bank ∧ (∀ core n, t.sem core n = s.sem core n) ∧
    (∀ k, k ≠ s.cid → t.ctx k = s.ctx k) ∧ sameMemory s t ∧ ∀ core n, t.tile core n = s.tile core n
/-- A ts operation that no other context's running sequencer keeps waiting (R239). -/
def tready (s : State) (i : Instr) (f : OpT) : Prop :=
  i.check = none ∧ Spec.on s f.g ∧ ((s.seqr s.cur.core).run = false ∨ (s.seqr s.cur.core).owner = s.cid)
/-- NENT of a table (R236). -/
def entries (e0 : BitVec 128) : Nat := let n := e0.toNat / 2 ^ 120; if n = 0 then 256 else n
/-- A table of n entries is valid (R236, R237). -/
def validTable (n : Nat) (e : Nat → BitVec 128) : Prop :=
  let opc := fun i => (e i).toNat / 2 ^ 124
  let cairn := fun i => (e i).getLsbD 123
  let tgt := fun i => (e i).toNat / 2 ^ 56 % 256
  4 ≤ n ∧ (e 0).toNat / 2 ^ 112 % 2 ^ 7 = 0 ∧ (e 0).toNat % 2 ^ 104 = 0 ∧
  (∀ i, 3 ≤ i → i < n → (e i).toNat / 2 ^ 97 % 2 ^ 10 = 0 ∧ (e i).toNat % 2 ^ 56 = 0 ∧ opc i ≤ 7 ∧
    (opc i = 5 → 3 ≤ tgt i ∧ tgt i ≤ i) ∧ (opc i = 5 ∨ opc i = 0 → cairn i = true)) ∧
  (∀ i j, 3 ≤ i → i < j → j < n → opc i = 5 → opc j = 5 → (e i).getLsbD 96 = (e j).getLsbD 96 → i < tgt j) ∧
  (∀ i, 3 ≤ i → i + 33 ≤ n → ∃ j, i ≤ j ∧ j < i + 33 ∧ cairn j = true) ∧ opc (n - 1) = 0
/-- The matrix state the sequencer of a core stands at (R236, R238): the state with its fields, and what follows it: the next
entry, one step counted, its counter advanced where bit 122 says so, and the stop that was asked for where its CAIRN is 1. -/
structure SeqAt where
  x : Ts
  b : BitVec 7
  acc : BitVec 4
  mode : Nat
  t : Word
  after : Ts → Ts
/-- The same, read from the machine (R236). -/
def seqAt (s : State) (core : Nat) : SeqAt :=
  let x := s.seqr core
  let e := Tab.get (0 : BitVec 128) x.entries x.state.toNat
  let k := e.toNat / 2 ^ 120 % 4
  let inc : BitVec 32 := (Tab.get (0 : BitVec 128) x.entries 2).extractLsb' (32 * k) 32
  let halt := x.stop && e.getLsbD 123
  { x := x, b := e.extractLsb' 113 7, acc := e.extractLsb' 109 4, mode := e.toNat / 2 ^ 107 % 4
    t := (Tab.get (0 : BitVec 32) x.c k).signExtend 64
    after := fun y => { y with c := if e.getLsbD 122 then Tab.put 0 x.c k (Tab.get 0 x.c k + inc) else x.c
                               state := BitVec.ofNat 8 (x.state.toNat + 1), steps := x.steps + 1, run := !halt
                               stop := x.stop && !halt } }
/-- The sequencer of a core runs and stands at a state of this OPC (R236, R238). -/
def seqStands (s : State) (core opc : Nat) : Prop :=
  (s.seqr core).run = true ∧ s.hub.down = false ∧
    (Tab.get (0 : BitVec 128) (s.seqr core).entries (s.seqr core).state.toNat).toNat / 2 ^ 124 = opc
/-- Fewer than eight entries stand in each of these macro queues of a core (R218). -/
def roomAt (s : State) (core : Nat) (l : List Nat) : Prop :=
  ∀ q ∈ l, ((s.core core).mops.filter fun x => x.macros.contains q).length < 8
/-- Pushes of a tile of a core whose last row is not added (R218, R219). -/
def flyingAt (s : State) (core : Nat) (acc : BitVec 4) : List MOp :=
  (s.core core).mops.filter fun x => !x.load && decide (x.rows < if x.vec.isSome then 1 else 128) && x.acc == acc
/-- An operation of the sequencer is not gated: none of its entries is unreleased (R238). -/
def ungated (s : State) (core : Nat) : Prop := ∀ m ∈ (s.core core).mops, m.ctx = 512 → m.released = true
/-- A wk operation below its pitch's limit (R379). -/
def wready (s : State) (i : Instr) (f : OpS) : Prop :=
  i.check = none ∧ Spec.on s f.g ∧ Tab.get 0 s.me.counts 8 < 16

end Sys2Proof.Spec

/-- R234, R235: xpin appends its row to the fill buffer, which swaps into an empty drain buffer when its block is complete;
xpout lands the next column and at the last one lets a full fill buffer in; xpclr empties both; xpmode sets the width while both
are empty. A full fill buffer, an empty drain buffer and an occupied transposer trap.
The model's own choices in it: log 49 (a raw T, the width as state of the core). -/
def Obligations.TransposerOperations : Prop :=
  ∀ (f : OpS) (s : State),
    let x := s.myCore.xp
    let n := 1024 / x.w
    (∀ t, Spec.xready s (.xpin f) f → s.readT f.t = .ok t → t.wide.fmt ≠ 12 →
      let tag : BitVec 10 := t.wide.bias ++ t.wide.fmt
      let rows := x.fill ++ [(t.wide.data, Mark.clean)]
      let g := if x.fillTag = none ∧ t.wide.fmt ≠ 0 then some tag else x.fillTag
      (x.fill.length < n → t.wide.fmt = 0 ∨ x.fillTag = none ∨ x.fillTag = some tag →
        exec (.xpin f) s = .next (Spec.withXp s (if rows.length = n ∧ x.drain = [] then
          { x with fill := [], fillTag := none, drain := rows, drainTag := g, col := 0, avail := s.cycle + 1, owner := some s.cid }
          else { x with fill := rows, fillTag := g, owner := some s.cid })).commit) ∧
      (n ≤ x.fill.length → exec (.xpin f) s = .next (s.stop (.trap { cause := 10, unit := 30, slot := 6 })))) ∧
    (Spec.xready s (.xpout f) f →
      (x.drain ≠ [] → x.avail ≤ s.cycle →
        let v : Wide := { data := BitVec.ofFnLE fun i : Fin 1024 => match x.drain[i.val / x.w]? with
                            | some r => (elem x.w r.1 x.col).testBit (i.val % x.w)
                            | none => false
                          fmt := (x.drainTag.getD 0).setWidth 4, bias := (x.drainTag.getD 0).extractLsb' 4 6 }
        exec (.xpout f) s = .next ((Spec.withXp s (if x.col + 1 < n then { x with col := x.col + 1 }
          else if x.fill.length = n then { x with drain := x.fill, drainTag := x.fillTag, fill := [], fillTag := none, col := 0
                                                  avail := s.cycle + 1 }
          else { x with drain := [], drainTag := none, col := 0 })).land 6 30 2
          (wrW (.rl 0x12) v :: if f.w = 0 then [] else [wrW (.v f.w.toNat) v])).commit) ∧
      (x.drain = [] ∨ s.cycle < x.avail → exec (.xpout f) s = .next (s.stop (.trap { cause := 11, unit := 30, slot := 6 })))) ∧
    (Spec.xready s (.xpclr f) f → exec (.xpclr f) s = .next (Spec.withXp s { x with
      fill := [], drain := [], fillTag := none, drainTag := none, col := 0 }).commit) ∧
    (∀ t, Spec.xready s (.xpmode f) f → s.readT f.t = .ok t → t.word.toNat % 4 ≠ 3 →
      (x.fill = [] ∧ x.drain = [] → exec (.xpmode f) s =
        .next (Spec.withXp s { x with w := 8 * 2 ^ (t.word.toNat % 4) }).commit) ∧
      (¬ (x.fill = [] ∧ x.drain = []) → exec (.xpmode f) s =
        .next (s.stop (.trap { cause := 10, unit := 30, slot := 6 }))))

/-- R239: tsload (not while a table runs) and tsrun wait for the release; tsstop asks a running sequencer to stop; tsstat lands
its report in ts.r after one cycle. A tsrun of a loaded, stopped sequencer starts at its entry with the counters as they are; it
rounds by the fmode of its issue, the model's choice (log 77). -/
def Sys2Proof.Spec.SequencerOperations : Prop :=
  (∀ (f : OpT) (s : State),
    let x := s.seqr s.cur.core
    (∀ t, Spec.tready s (.tsload f) f → s.readT f.t = .ok t →
      (x.run = false → exec (.tsload f) s = .next (s.addRel 0 29 (.tsload t.word)).commit) ∧
      (x.run = true → exec (.tsload f) s = .next (s.stop (.trap { cause := 4, unit := 29, slot := 5 })))) ∧
    (∀ t l, Spec.tready s (.tsrun f) f → s.readT f.t = .ok t → s.readLatch 28 = .ok l →
      let h := s.handle (l.data.toNat / 2 ^ 114 % 16)
      Spec.held s (l.data.toNat / 2 ^ 114 % 16) → Spec.rounding s → h.st = .valid ∨ h.st = .null →
      exec (.tsrun f) s = .next (s.addRel 0 29 (.tsrun (t.word.setWidth 8) l.data h (BitVec.ofNat 2 s.me.bank.fmode))).commit) ∧
    (Spec.tready s (.tsstop f) f → exec (.tsstop f) s =
      .next (if x.run then s.setSeqr s.cur.core { x with stop := true } else s).commit) ∧
    (Spec.tready s (.tsstat f) f → Spec.lands s (.tsstat f) 5 29 1 [wr64 (.rl 0x15) (
      (BitVec.ofBool x.run ++ BitVec.ofBool x.stop ++ BitVec.ofBool x.loaded ++ x.err ++ x.state ++ (0 : BitVec 16) ++ x.steps : BitVec 64))])) ∧
  (∀ (s : State) (core : Nat) (e : BitVec 8) (mxo : Lanes) (h : Handle) (fm : BitVec 2) (slot : BitVec 4) (gen : BitVec 12),
    let x := s.seqr core
    x.run = false → x.loaded = true →
    (3 ≤ e.toNat → e.toNat < x.nent → s.tsRunDo core e mxo h fm slot gen = s.setSeqr core { x with
      mxo := mxo, h := h, fm := fm, run := true, stop := false, err := 0, state := e, steps := 0, slot := slot, gen := gen }) ∧
    (e.toNat < 3 ∨ x.nent ≤ e.toNat → s.tsRunDo core e mxo h fm slot gen = s.setSeqr core { x with err := 6 }))

/-- R236, R237: a released tsload reads the table at a multiple of 128 inside the scratchpad: a valid one is loaded, with its
counters at CBASE and both loop counters 0; of one that is not, tsstat reports an entry and the sequencer keeps what it had. -/
def Sys2Proof.Spec.TableLoads : Prop :=
  ∀ (s : State) (core ci : Nat) (off : Word),
    let x := s.seqr core
    let entry := fun (i : Nat) => ofBytes 128 ((List.range 16).map fun j => (s.spadByte core (off.toNat + 16 * i + j)).1)
    let n := Spec.entries (entry 0)
    off.toNat % 128 = 0 → off.toNat + 16 * n ≤ 2 ^ 20 →
    (Spec.validTable n entry → ∃ (tab : Tab (BitVec 128)) (c : Tab (BitVec 32)),
      s.tsLoadDo core ci off = s.setSeqr core
        { x with entries := tab, nent := n, c := c, l := [], loaded := true, err := 0, state := 3, owner := ci } ∧
      (∀ i < n, Tab.get 0 tab i = entry i) ∧ ∀ k < 4, Tab.get 0 c k = (entry 1).extractLsb' (32 * k) 32) ∧
    (¬ Spec.validTable n entry → ∃ i < n, s.tsLoadDo core ci off = s.setSeqr core { x with err := 1, state := BitVec.ofNat 8 i })

/-- The frame of vrcp, vrsq, vexp2, vlog2, vtanh, vcvt, vscale, vtag, macc, mrel, tsload, tsrun, tsstop and tsstat (R93, R190 to R193, R202,
R232, R233, R239): each completes where nothing forbids it, and no register, no semaphore, no tile, no byte of memory and nothing of
another context has changed with it: its results stand in flight, or its effect waits for the release. -/
def Sys2Proof.Spec.FunctionUpdateAndSequencerFrame : Prop :=
  ∀ s : State,
    (∀ (u : VecUnit) (f : OpS) (t o : Src), let fm := t.tagged.fmt
      (7 ≤ fm.toNat → fm.toNat ≤ 9 → Spec.rounding s → ∀ e ∈ Spec.funcs, Spec.vready s (e.1 u f) u f (1024 / fmtWidth fm.toNat) t o {} →
        Spec.framed s (e.1 u f)) ∧
      (∀ fmt : BitVec 4, fmt = 12 ∨ (fm ≠ 0 ∧ fm ≠ 12 ∧ Spec.rounding s) → Spec.vready s (.vcvt u fmt f) u f (1024 / fmtWidth fmt.toNat) t o {} →
        Spec.framed s (.vcvt u fmt f)) ∧
      (fm ≠ 0 → fm ≠ 12 → Spec.rounding s → Spec.vready s (.vscale u f) u f (1024 / fmtWidth fm.toNat) t o {} → Spec.framed s (.vscale u f)) ∧
      (o.word.toNat % 16 ≤ 12 → Spec.vready s (.vtag u f) u f (1024 / fmtWidth (o.word.toNat % 16)) t o {} → Spec.framed s (.vtag u f))) ∧
    (∀ (f : OpT) (l : Wide) (t : Src), let k := (s.tile s.cur.core f.acc.toNat).tag.toNat % 16; let v := t.wide
      (Spec.mready s (.macc f) f l → s.readT f.t = .ok t →
        (v.fmt = 9 ∧ k ≠ 5) ∨ (v.fmt = 5 ∧ k ≠ 9 ∧ (k = 5 → Spec.tagB (s.tile s.cur.core f.acc.toNat).tag = v.bias.toInt)) ∨ v.fmt = 0 →
        Spec.framed s (.macc f)) ∧
      (Spec.mready s (.mrel f) f l → Spec.framed s (.mrel f)) ∧
      (Spec.tready s (.tsload f) f → s.readT f.t = .ok t → (s.seqr s.cur.core).run = false → Spec.framed s (.tsload f)) ∧
      (let n := l.data.toNat / 2 ^ 114 % 16
       Spec.tready s (.tsrun f) f → s.readT f.t = .ok t → s.readLatch 28 = .ok l → Spec.held s n →
        Spec.rounding s → (s.handle n).st = .valid ∨ (s.handle n).st = .null → Spec.framed s (.tsrun f)) ∧
      (Spec.tready s (.tsstop f) f → Spec.framed s (.tsstop f)) ∧ (Spec.tready s (.tsstat f) f → Spec.framed s (.tsstat f)))

/-- R238: a running sequencer performs its loop, signal, wait and end states: the loop counter falls and the target follows while
it is not zero; a signal adds, a wait takes what its threshold names once the semaphore holds it; the end stops the sequencer. Each
performed state counts one step and, by its bit 122, adds the increment to its counter. -/
def Sys2Proof.Spec.SequencerPerformsItsState : Prop :=
  ∀ (s : State) (core : Nat),
    let x := s.seqr core
    let i := x.state.toNat
    let e := Tab.get (0 : BitVec 128) x.entries i
    let opc := e.toNat / 2 ^ 124 % 16
    let sem : BitVec 8 := e.extractLsb' 64 8
    let k := e.toNat / 2 ^ 120 % 4
    let inc : BitVec 32 := (Tab.get (0 : BitVec 128) x.entries 2).extractLsb' (32 * k) 32
    let c := if e.getLsbD 122 then Tab.put 0 x.c k (Tab.get 0 x.c k + inc) else x.c
    let halt := x.stop && e.getLsbD 123
    let done := fun (z : State) (nxt : Nat) (l : Tab (BitVec 32)) => exec (.sequencerState core) s = .next (z.setSeqr core
      { x with c := c, l := l, state := BitVec.ofNat 8 nxt, steps := x.steps + 1, run := !halt, stop := x.stop && !halt })
    x.run = true → s.hub.down = false →
    (opc = 5 →
      let ln := e.toNat / 2 ^ 96 % 2
      let n : BitVec 32 := e.extractLsb' 64 32
      let cur := Tab.get 0 x.l ln
      let left := (if cur ≠ 0 then cur else if n = 0 then 1 else n) - 1
      done s (if left ≠ 0 then e.toNat / 2 ^ 56 % 256 else i + 1) (Tab.put 0 x.l ln left)) ∧
    (opc = 6 → done (s.addSem core sem (e.toNat / 2 ^ 72 % 16)) (i + 1) x.l) ∧
    (opc = 7 → let n := e.toNat / 2 ^ 72 % 256
      (n ≤ s.sem core sem → done (s.setSem core sem (s.sem core sem - n)) (i + 1) x.l) ∧
      (s.sem core sem < n → exec (.sequencerState core) s = .next s)) ∧
    (opc = 0 → let e0 := Tab.get (0 : BitVec 128) x.entries 0
      exec (.sequencerState core) s = .next ((if e0.getLsbD 119 then s.addSem core (e0.extractLsb' 104 8) 1 else s).setSeqr core
        { x with c := c, steps := x.steps + 1, run := false, stop := false }))

/-- R238 with R218 to R221, R226, R227, R229, R231: a running sequencer performs its matrix states with T its counter, the mx.o and the
handle copied at tsrun, not gated: an mload or mpush joins its queue released, an mpopx store performs at once, an mzero empties its
tile. A state that R219 or R220 makes wait changes nothing; a fault stops the sequencer at the state with its code. -/
def Sys2Proof.Spec.SequencerPerformsMatrixStates : Prop :=
  ∀ (s : State) (core : Nat),
    let q := Spec.seqAt s core
    let x := q.x
    let d := x.mxo
    let h := s.judgeHandle x.h
    let fm := d.toNat / 2 ^ 104 % 16
    let st := Spec.stride d fm
    let go := exec (.sequencerState core) s
    let fails := fun (err : BitVec 5) => go = .next (s.setSeqr core { x with run := false, stop := false, err := err })
    let joins := fun (y : Ts) (g : MOp → Prop) => ∃ (z : State) (m : MOp), go = .next (z.setSeqr core (q.after y)) ∧
      (z.core core).mops.getLast? = some m ∧ m.b = q.b ∧ m.off = q.t ∧ m.stride = st ∧ m.fmt = d.extractLsb' 104 4 ∧
      m.bias = d.extractLsb' 108 6 ∧ m.released = true ∧ m.start = none ∧ g m
    (Spec.seqStands s core 1 → q.mode < 2 → (q.mode = 1 → q.b.toNat < 64) →
      (fm = 1 ∨ fm = 10 ∨ fm = 11 →
        ((∀ i < 128, let a := Spec.eaAt h (q.t + BitVec.ofNat 64 (i * st))
            Spec.allows h a (Spec.rowBytes fm) 32 true false) →
          Spec.roomAt s core (if q.mode = 1 then [q.b.toNat / 8, (q.b.toNat + 64) / 8 % 16] else [q.b.toNat / 8]) →
          joins { x with h := h } fun m => m.load = true ∧ m.gang = (q.mode == 1) ∧ m.h = h) ∧
        (h.st = .null → fails 4) ∧ (h.st = .valid → h.ps = 14 → fails 2)) ∧
      (fm ∉ [1, 10, 11] → h.st ≠ .revoked → fails 5)) ∧
    (∀ (r : Nat) (tag : BitVec 10), Spec.seqStands s core 2 → q.mode < 2 →
      Spec.pushableAt s core q.b q.acc q.mode fm (d.extractLsb' 108 6).toInt false r tag →
      q.t.toNat + 127 * st + Spec.rowBytes fm ≤ 2 ^ 20 → q.t.toNat % 32 = 0 → st % 32 = 0 →
      (Spec.flyingAt s core q.acc).length < r → (q.mode = 1 → Spec.flyingAt s core q.acc = []) →
      Spec.roomAt s core (if fm = 7 then [q.b.toNat / 8, (q.b.toNat + 64) / 8 % 16] else [q.b.toNat / 8]) →
      joins x fun m => m.load = false ∧ m.acc = q.acc ∧ m.tag = tag ∧ m.rtime = r ∧ m.consumed = false ∧ m.vec = none ∧
        m.gang = (fm == 7) ∧ m.csem = (if d.getLsbD 119 then some (d.extractLsb' 120 8) else none)) ∧
    (Spec.seqStands s core 3 → q.mode < 2 → fm = 1 ∨ fm = 2 ∨ fm = 10 ∨ fm = 11 →
      let r := q.t.toNat % 128
      let e := d.toNat / 2 ^ 84 % 2 ^ 20
      let tile := s.tile core q.acc.toNat
      let tbl := (List.range 1024).map fun i => s.spadByte core (e + i)
      let a := Spec.eaAt h (d.setWidth 64 + BitVec.ofNat 64 (r * st))
      let g : Gated := { h := h, poison := Tab.get 0 tile.poison r != 0 || tbl.any Prod.snd, slot := s.coreSlot core
                         gen := s.coreGen core, marked := false, chunks := [(a, Spec.place h a, packVec (d.extractLsb' 104 4)
                           (Spec.epiRow tile.tag (Tab.get 0 tile.rows r) (tbl.map Prod.fst) d x.fm.toNat))] }
      (∀ m ∈ Spec.flyingAt s core q.acc, match m.vec with
        | some v => v.1.toNat ≠ r
        | none => r < m.rows) → e + 1024 ≤ 2 ^ 20 → (∀ i < 8, s.lineFull core (e / 128 + i) = true) →
      (q.mode = 0 → go = .next (s.setSeqr core (q.after x))) ∧
      (q.mode = 1 → Spec.allows h a (Spec.rowBytes fm) 32 false true →
        let locked := h.ps = 15 ∧ ∃ m ∈ (s.core core).mops, m.touches a (Spec.rowBytes fm) = true
        (¬ locked → go = .next ((s.performStore core x.slot x.gen g).setSeqr core (q.after { x with h := h }))) ∧
        (locked → go = .next s))) ∧
    (Spec.seqStands s core 4 → q.mode = 0 →
      (Spec.flyingAt s core q.acc = [] → go =
        .next ((s.setTile core q.acc.toNat { stamp := s.coreGen core }).setSeqr core (q.after x))) ∧
      (Spec.flyingAt s core q.acc ≠ [] → Spec.ungated s core → go = .next s))

/-- R379 to R385: fork, jadd, wdone and wcan, below the sixteen of their pitch, wait for its release, wcan's W pending on it; join
lands zeros while its counter is zero, else takes a task into W to W+3 with bit 63 of the first set, and blocks where none is
found. With a false guard each does nothing but, except for join, count. -/
def Sys2Proof.Spec.WorkOperations : Prop :=
  ∀ (f : OpS) (s : State) (a : ScalarArgs),
    let c := Spec.counted s 8
    (∀ t, Spec.wready s (.fork f) f → s.readT f.t = .ok t → forksOf s.me < 256 →
      (s.myCore.deque.filter fun t => t.gen == s.gen t.slot).length + ((List.range 4).map fun i => forksOf (s.ctx (4 * s.cur.core + i))).sum < 256 →
      exec (.fork f) s = .next (c.addRel 0 15 (.fork (t.wide.data.setWidth 256))).commit) ∧
    (Spec.wready s (.jadd f) f → s.scalarArgs 15 (Instr.jadd f).shape f = .ok a →
      exec (.jadd f) s = .next (c.addRel 0 15 (.jadd (a.t.setWidth 6) a.o)).commit) ∧
    (Spec.wready s (.wdone f) f → s.scalarArgs 15 (Instr.wdone f).shape f = .ok a →
      exec (.wdone f) s = .next (c.addRel 0 15 (.wdone a.t)).commit) ∧
    (Spec.wready s (.wcan f) f → s.scalarArgs 15 (Instr.wcan f).shape f = .ok a →
      exec (.wcan f) s = .next ((({ c with fresh := s.fresh + 1 } : State).pendOn (s.wbS f.w).toList (s.fresh + 1) 15 true).addRel
        (s.fresh + 1) 15 (.wcan (a.t.setWidth 12))).commit) ∧
    ((Instr.join f).check = none → Spec.on s f.g → s.scalarArgs 15 (Instr.join f).shape f = .ok a →
      (∀ x ∈ s.me.rel, ∀ k t, x.body ≠ .joinTake k t) →
      let four := fun (l : List Word) => l.zipIdx.map fun e =>
        let w := f.w.toNat + e.2
        wr64 (.s (if w < 32 then w else 32 + (w - 32 + s.me.bank.rrb) % 32)) e.1
      (s.jc s.cur.core (a.t.toNat % 64) = 0 → Spec.lands s (.join f) 0 15 1 (four [0, 0, 0, 0])) ∧
      (s.jc s.cur.core (a.t.toNat % 64) ≠ 0 → ∀ k fromHead t, s.findTask = some (k, fromHead, t) →
        let word := fun (i : Nat) => t.word.extractLsb' (64 * i) 64
        exec (.join f) s = .next (((s.holdTask k t.key fromHead).addRel 0 15 (.joinTake k t.key)).land 0 15 1
          (four [word 0 ||| 1#64 <<< 63, word 1, word 2, word 3])).commit) ∧
      (s.jc s.cur.core (a.t.toNat % 64) ≠ 0 → s.findTask = none → exec (.join f) s = .next (s.stop (.block .join)))) ∧
    (∀ e ∈ [Instr.fork f, .jadd f, .wdone f, .wcan f], e.check = none → Spec.off s f.g → Tab.get 0 s.me.counts 8 < 16 →
      exec e s = .next c.commit) ∧
    ((Instr.join f).check = none → Spec.off s f.g → exec (.join f) s = .next s.commit)

/-- R380, R381, R384, R385: what a release does for the work unit: a task goes to the head of the core's deque and its counter
counts it; jadd adds, clamped to 0 to 2^32 − 1; wdone counts down, never below 0; a joined task leaves its deque. A join looks at
the head of its own core's deque first. -/
def Sys2Proof.Spec.WorkReleaseEffects : Prop :=
  ∀ (s : State) (ci : Nat) (x : RelItem), x.gen = s.gen x.slot →
    let core := ci / 4
    (∀ (j : BitVec 6) (n : Word), let t := s.jaddRel ci x j n
      t.jc core j.toNat = (max 0 (min ((s.jc core j.toNat : Int) + n.toInt) (2 ^ 32 - 1))).toNat ∧
      ∀ c k, (c, k) ≠ (core, j.toNat) → t.jc c k = s.jc c k) ∧
    (∀ w : Word, w.getLsbD 31 = true → let k := core / 8 * 8 + w.toNat / 2 ^ 22 % 8
      let n := w.toNat / 2 ^ 16 % 64
      (s.wdoneRel ci x w).jc k n = s.jc k n - 1) ∧
    (∀ w : BitVec 256, ∃ t : Task, t.word = w ∧ t.lobj = (s.ctx ci).relHead.lobj ∧ t.slot = x.slot ∧ t.gen = x.gen ∧ t.held = none ∧
      ((s.forkRel ci x w).core core).deque = t :: (s.core core).deque ∧
      (w.getLsbD 31 = true → let k := core / 8 * 8 + w.toNat / 2 ^ 22 % 8
        let n := w.toNat / 2 ^ 16 % 64
        s.jc k n < 2 ^ 32 - 1 → (s.forkRel ci x w).jc k n = s.jc k n + 1)) ∧
    (∀ (c : Nat) (key : Nat), ((s.joinRel c key).core c).deque = (s.core c).deque.filter fun t => !(t.key == key)) ∧
    (∀ t, s.endTask s.cur.core true = some t → s.findTask = some (s.cur.core, true, t))

namespace Sys2Proof.Spec

open Sys2Proof.Machine

/-- The commands of R272 by their numbers. -/
def pushes : List ((BitVec 3 → OpM → Instr) × Nat) :=
  [(.cpy, 1), (.csr, 2), (.pfr, 3), (.zfill, 4), (.qfence, 5), (.coll, 6), (.evict, 7)]
/-- An operation whose encoding is legal and whose guard is true, below its pitch's limit (R273, R291, R332, R348). -/
def within (s : State) (i : Instr) (g : Guard) (kind max : Nat) : Prop :=
  i.check = none ∧ Spec.on s g ∧ Tab.get 0 s.me.counts kind < max
/-- The state with the limit counted and a fresh token. -/
def tokened (s : State) (kind : Nat) : State := { counted s kind with fresh := s.fresh + 1 }
/-- Late results pend on the fresh token: the latch and the write-back (R274, R291, R332, R348). -/
def pended (s : State) (kind latch unit : Nat) (wb : Option Reg) : State :=
  (tokened s kind).pendOn (.rl latch :: wb.toList) (s.fresh + 1) unit true
/-- A remote access of n bytes that a handle allows (R285, R291). -/
def remotely (h : Handle) (e n : Nat) (rd wr : Bool) : Prop :=
  h.st = .valid ∧ h.ps ≠ 15 ∧ pageOf h ≤ e ∧ e + n ≤ pageOf h + pageBytes h.ps.toNat ∧ e % n = 0 ∧
  (rd = true → h.rd = true) ∧ (wr = true → h.wr = true)
/-- A vector write-back (R69). -/
def wbVec (w : BitVec 6) : Option Reg := if w = 0 then none else some (.v w.toNat)
/-- A remote request of the issuing context (R285, R290): the offset in the window, or the physical address. -/
def remote (s : State) (h : Handle) (e n : Nat) (kind : BitVec 6) (b : BitVec 2) (ctrl : Word) (data : Lanes)
    (mask : BitVec 128) : RemoteOp :=
  { h := h, ea := e, off := if h.ps = 14 then e % 2 ^ 32 else h.pfn.toNat * 4096 + (e - pageOf h), n := n, kind := kind, batch := b,
    ctrl := ctrl, data := data, mask := mask, slot := s.coreSlot s.cur.core, gen := s.coreGen s.cur.core }

end Sys2Proof.Spec

/-- R272 to R274: each push of a well-formed packet to an enabled queue with room completes: ec.r and W wait for its promise, and
the packet, with the command, the rounding mode and the issuer put in, waits for the release.
The model's own choices in it: log 36 and 51 (what counts in a limit, the reservations). -/
def Obligations.EnginePushIssues : Prop :=
  (∀ (q : BitVec 3) (f : OpM) (s : State) (t : Src), ∀ e ∈ Spec.pushes, Spec.within s (e.1 q f) f.g 3 16 → s.readT f.t = .ok t →
    let core := s.cur.core
    let x := s.eq core q.toNat
    let n := eqSize x.cfg
    let p := formPacket (t.val.data.setWidth 512) e.2 s.me.bank.fmode (s.coreSlot core) (s.coreGen core) s.cur.ctx
    Spec.rounding s → packetBad p = false → eqEn x.cfg = true → s.me.reserved q.toNat < n →
    s.widx core q.toNat - s.ridx core q.toNat +
      ((List.range 4).map fun k => (s.ctx (4 * core + k)).reserved q.toNat).sum < n →
    exec (e.1 q f) s = .next ((Spec.pended s 3 8 11 (s.wbS f.w)).addRel (s.fresh + 1) 11 (.engine q p)).commit) ∧
  (∀ (p : Packet64) (cmd mode ctx : Nat) (slot : BitVec 4) (gen : BitVec 12), cmd < 16 → mode < 4 → ctx < 4 →
    let y := formPacket p cmd mode slot gen ctx
    y.extractLsb' 128 384 = p.extractLsb' 128 384 ∧ y.extractLsb' 0 28 = p.extractLsb' 0 28 ∧
    (y.extractLsb' 32 4).toNat = cmd ∧ (y.extractLsb' 36 2).toNat = mode ∧ (y.extractLsb' 46 2).toNat = ctx ∧
    y.extractLsb' 48 4 = slot ∧ y.extractLsb' 52 12 = gen) ∧
  (∀ (q : BitVec 3) (f : OpM) (s : State), (Instr.cstat q f).check = none → Spec.on s f.g →
    Spec.lands s (.cstat q f) 2 11 8 (Spec.writes s 8 f.w (s.cstatWord s.cur.core q.toNat)))

/-- R291: a remote load that its handle allows, with fewer than sixteen outstanding, completes: rm.r and W wait for the reply, and the
request waits to be sent or is sent; as it is sent it takes the bytes that the youngest of the context's own gated or unacknowledged
writes hold, but of an rop's. Its value is late where a gated rdrain, rel.f or rop of the same pitch keeps the request from being
sent before the release (log 69). -/
def Sys2Proof.Spec.RemoteLoadIssues : Prop :=
  ∀ (f : OpM) (s : State) (t : Src), Spec.on s f.g → s.readT f.t = .ok t → Spec.held s f.h.toNat →
    s.me.remote.length < 16 →
    let h := s.handle f.h.toNat
    ∀ e ∈ [((Instr.rld : OpM → Instr), 8, (1 : BitVec 6), s.wbS f.w), (.rldv, 128, 2, Spec.wbVec f.w)], (e.1 f).check = none →
    let n := e.2.1
    let a := Spec.ea h t.word f n
    let r := Spec.remote s h a n e.2.2.1 0 0 0 0
    let fenced := loadWaits s.me.rel (remoteItems s.me.rel) (s.fresh + 1) r
    Spec.remotely h a n true false → exec (e.1 f) s =
      .next (((({ s with fresh := s.fresh + 1 } : State).pendOn (.rl 0xC :: e.2.2.2.toList) (s.fresh + 1) 12 fenced).modMe fun c =>
        { c with remote := c.remote ++ [(s.fresh + 1, c.pitch, s.cur.seq)] }).request s.cid (s.fresh + 1) r).commit ∧
    ∀ (l : List RemoteOp), let q := r.withOwn l
      ∀ i < n, match l.reverse.find? fun w => w.kind.toNat ∈ [3, 4, 5] ∧ w.space = r.space ∧ w.off ≤ r.off + i ∧ r.off + i < w.off + w.n with
        | none => q.mask.getLsbD i = false
        | some w => q.mask.getLsbD i = decide (w.kind ≠ 5) ∧
            (w.kind ≠ 5 → q.data.extractLsb' (8 * i) 8 = w.data.extractLsb' (8 * (r.off + i - w.off)) 8)

/-- R291, R297, R248: the gated remote operations complete, below their pitch's limit: rst and rstv of T in their batch, rop of T's low
512 bits under a defined control word, bclose with its semaphore; each waits for the release, and so does rdrain once no remote
load is outstanding. -/
def Sys2Proof.Spec.RemoteWritesIssue : Prop :=
  ∀ (b : BitVec 2) (f : OpM) (s : State) (t : Src) (l : Wide), s.readT f.t = .ok t → s.readLatch 12 = .ok l → Spec.held s f.h.toNat →
    let h := s.handle f.h.toNat
    let off : Word := l.data.setWidth 64
    let w : Word := l.data.extractLsb' 64 64
    let kop := w.toNat % 256
    (∀ e ∈ [((Instr.rst : BitVec 2 → OpM → Instr), 8, (3 : BitVec 6), (t.val.data.setWidth 64).setWidth 1024),
        (.rstv, 128, 4, t.wide.data)], Spec.within s (e.1 b f) f.g 4 16 →
      Spec.remotely h (Spec.ea h off f e.2.1) e.2.1 false true → exec (e.1 b f) s = .next ((Spec.tokened s 4).addRel (s.fresh + 1) 12
        (.remote (Spec.remote s h (Spec.ea h off f e.2.1) e.2.1 e.2.2.1 b 0 e.2.2.2 0))).commit) ∧
    (Spec.within s (.rop f) f.g 4 16 → w.toNat / 2 ^ 29 = 0 → (1 ≤ kop ∧ kop ≤ 6) ∨ (64 ≤ kop ∧ kop ≤ 127) →
      let n := if kop = 2 then 16 else if kop = 3 then 32 else 8
      Spec.remotely h (Spec.ea h off f n) n true true →
      exec (.rop f) s = .next ((Spec.pended s 4 0xC 12 (Spec.wbVec f.w)).addRel (s.fresh + 1) 12
        (.remote (Spec.remote s h (Spec.ea h off f n) n 5 0 w ((t.wide.data.setWidth 512).setWidth 1024) 0))).commit) ∧
    (Spec.within s (.bclose b f) f.g 4 16 → exec (.bclose b f) s = .next ((Spec.pended s 4 0xC 12 (s.wbS f.w)).addRel (s.fresh + 1) 12
      (.bclose b (t.word.setWidth 8) (t.word.extractLsb' 8 4))).commit) ∧
    (Spec.within s (.rdrain f) f.g 1 8 → s.me.remote = [] → exec (.rdrain f) s =
      .next ((Spec.tokened s 1).addRel (s.fresh + 1) 12 .rdrain).commit)

/-- R332 to R338: each sx operation on a live end of the context's slot completes: sopen, sclose, ssend and sxfer wait for the release
(the end of an sxfer is named by it from then on); spoll and sstat land their report after eight cycles. -/
def Sys2Proof.Spec.StreamOperationsIssue : Prop :=
  ∀ (f : OpM) (s : State) (t : Src) (l : Wide) (r c : EndRec), s.readT f.t = .ok t → s.readLatch 13 = .ok l →
    let w := t.word
    let lo : Word := l.data.setWidth 64
    let sxed := (Spec.pended s 5 0xA 13 (s.wbS f.w)).modMe fun c => { c with sx := c.sx ++ [s.fresh + 1] }
    (Spec.within s (.sopen f) f.g 5 16 → exec (.sopen f) s = .next ((Spec.pended s 5 0xA 13 (Spec.wbVec f.w)).addRel (s.fresh + 1) 13
      (.sopen (w.setWidth 4))).commit) ∧
    (Spec.within s (.sclose f) f.g 5 16 → s.checkEnd w none = .ok r → r.journal = none →
      exec (.sclose f) s = .next ((Spec.counted s 5).addRel 0 13 (.sclose w)).commit) ∧
    (Spec.within s (.ssend f) f.g 5 16 → s.checkEnd lo (some false) = .ok r → r.journal = none → s.me.sx.length < 64 →
      exec (.ssend f) s = .next (sxed.addRel (s.fresh + 1) 13 (.ssend lo (t.wide.data.setWidth 512))).commit) ∧
    (Spec.within s (.sxfer f) f.g 5 16 → s.checkEnd w none = .ok r → s.checkEnd lo (some false) = .ok c → r.journal = none →
      c.journal = none → handleSid w ≠ handleSid lo → (∀ x ∈ r.resv, x.1 = s.cid → x.2.1 ≠ s.me.pitch) → s.me.sx.length < 64 →
      exec (.sxfer f) s = .next ((sxed.modStream (handleSid w) fun e => e.setEnd (handleCons w) ((e.endOf (handleCons w)).map
        fun r => { r with xferBy := r.xferBy ++ [(s.cid, s.me.pitch)] })).addRel (s.fresh + 1) 13 (.sxfer w lo)).commit) ∧
    ((Instr.spoll f).check = none → Spec.on s f.g → s.checkEnd w none = .ok r → exec (.spoll f) s = .next (s.land 2 13 8
      (Spec.writes s 0xA f.w (Spec.n64 ((if r.state = 2 ∨ r.state = 3 then 2 ^ 63 else 0) + (if r.state = 1 then 2 ^ 62 else 0) +
        if handleCons w then r.avail else r.space * 2 ^ 32)))).commit) ∧
    ((Instr.sstat f).check = none → Spec.on s f.g → s.checkEnd w none = .ok r →
      let v : Wide := { data := (r.bits (handleSid w) (handleCons w)).setWidth 1024 }
      Spec.lands s (.sstat f) 2 13 8 (wrW (.rl 0xA) v :: (Spec.wbVec f.w).toList.map fun g => wrW g v))

/-- R335 and R341: srecv of a consumer end whose next item stands in the buffer completes: the item is reserved for the pitch and sx.r and W
wait for its bytes, kind 0 and number; of an end that is closed or orphaned with nothing left to come it lands kind 1; else it
blocks on the empty stream. The faults of a handle come in the order of their subcauses; a bundle that blocked in an srecv meets 4 where
its end has been moved away since (R342). -/
def Sys2Proof.Spec.StreamReceive : Prop :=
  (∀ (f : OpM) (s : State) (t : Src) (r : EndRec), (Instr.srecv f).check = none → Spec.on s f.g → s.readT f.t = .ok t →
    s.checkEnd t.word (some true) = .ok r → (∀ x ∈ r.resv, x.1 = s.cid) →
    let n := r.nseq + BitVec.ofNat 32 r.resv.length
    let got := fun (z : State) (bytes : List Byte) (p : Bool) =>
      ∃ u : State, exec (.srecv f) s = .next u.commit ∧ u.cur.pends = s.cur.pends ++
        (.rl 0xA :: (Spec.wbVec f.w).toList).map (fun g => (g, ⟨s.fresh + 1, 13, s.me.pitch, false⟩)) ∧
      u.me.loads.length = s.me.loads.length + 1 ∧ u.hub.streams = z.hub.streams ∧
      (∃ ld ∈ u.me.loads, ld.tok = s.fresh + 1 ∧ ld.ovl.map Prod.snd = bytes ∧ ld.pois = p)
    (∀ k d, r.store.find? (fun x => x.1 == n.toNat) = some (k, .data d) → Tab.get 0 s.me.counts 6 < 16 →
      let l := s.homeReads ⟨some r.slot, r.gen, false, 0, 0⟩ (r.buf + 64 * (n.toNat % r.cap)) 64
      got (s.modStream (handleSid t.word) fun e => { e with cons := e.cons.map fun r => { r with resv := r.resv ++ [(s.cid, s.me.pitch, n)] } })
        (l.map Prod.fst ++ bytesOf (0 : BitVec 32) 4 ++ bytesOf n 4) (l.any Prod.snd)) ∧
    (r.store.find? (fun x => x.1 == n.toNat) = none →
      let ended := (r.state = 2 ∨ r.state = 3) ∧ (∀ b, r.endSeq = some b → later b n = false)
      (ended → got s (List.replicate 64 0 ++ bytesOf (1 : BitVec 32) 4 ++ bytesOf n 4) false) ∧
      (¬ ended → exec (.srecv f) s = .next (s.stop (.block .emptyStream))))) ∧
  (∀ (s : State) (w : Word),
    let fault := fun (sub : Nat) => s.checkEnd w none = .error (.trap { cause := 14, sub := sub, info := w })
    w.toNat / 2 ^ 32 % 8 = 0 → w.toNat % 2 ^ 32 ≠ 0 → (s.stream (handleSid w)).inst = [] →
    let gone := if s.me.rcvWait = true ∧ w.setWidth 32 ∈ (s.stream (handleSid w)).left then 4 else 1
    match (s.stream (handleSid w)).endOf (handleCons w) with
    | none => fault gone
    | some r =>
      if r.chk ≠ w.setWidth 32 then fault gone
      else if r.slot ≠ s.coreSlot s.cur.core then fault 2
      else if r.gen ≠ s.gen r.slot then fault 3
      else if r.state = 1 ∨ (s.cid, s.me.pitch) ∈ r.xferBy then fault 4
      else s.checkEnd w none = .ok r)

/-- R348 to R358: each bj operation on a live journal of the context's slot completes: jopen, jtrunc, jpart and jrep wait for the release;
jstat lands its report after eight cycles; jrec asks the partner and waits; jemit of a journalled step samples its
token after two cycles and waits to be sent.
The model's own choices in it: log 39 and 57 (unit 63 in the record, the step a jemit keeps). -/
def Obligations.JournalOperationsIssue : Prop :=
  ∀ (f : OpM) (s : State) (t : Src) (l : Wide) (x : Journal) (r : EndRec), s.readT f.t = .ok t → s.readLatch 14 = .ok l →
    let d : Packet64 := t.wide.data.setWidth 512
    let w : Word := l.data.setWidth 64
    let n : BitVec 32 := t.word.setWidth 32
    let late := fun (wb : Option Reg) (b : RelBody) => ((Spec.pended s 7 0xB 14 wb).addRel (s.fresh + 1) 14 b).commit
    (Spec.within s (.jopen f) f.g 7 16 → s.checkEnd (d.extractLsb' 64 64) (some false) = .ok r → 8 ≤ d.toNat / 2 ^ 140 % 16 →
      d.toNat / 2 ^ 144 % 2 ^ 16 = 0 → exec (.jopen f) s = .next (late (s.wbS f.w) (.jopen d))) ∧
    (Spec.within s (.jtrunc f) f.g 7 16 → s.checkJournal w = .ok x → later x.cstep n = false → later n x.tail = false →
      exec (.jtrunc f) s = .next ((Spec.counted s 7).addRel 0 14 (.jtrunc w (n.setWidth 64) (l.data.extractLsb' 64 64))).commit) ∧
    (Spec.within s (.jpart f) f.g 7 16 → s.checkJournal w = .ok x →
      exec (.jpart f) s = .next (late (s.wbS f.w) (.jpart w (t.word &&& 0xFFF)))) ∧
    (Spec.within s (.jrep f) f.g 7 16 → exec (.jrep f) s = .next (late (s.wbS f.w) (.jrep t.word))) ∧
    ((Instr.jstat f).check = none → Spec.on s f.g → s.checkJournal t.word = .ok x →
      let v := s.journalBits (t.word.toNat / 2 ^ 40 % 2 ^ 12) x
      Spec.lands s (.jstat f) 2 14 8 (wr64 (.rl 0xB) (v.setWidth 64) ::
        (Spec.wbVec f.w).toList.map fun g => wrW g { data := v.setWidth 1024 })) ∧
    ((Instr.jrec f).check = none → Spec.on s f.g → s.checkJournal w = .ok x → x.state ≠ 3 → s.me.jrecs.length < 4 →
      ∃ u : State, exec (.jrec f) s = .next u.commit ∧ u.me.jrecs = s.me.jrecs ++ [s.fresh + 1] ∧
        u.cur.pends = s.cur.pends ++
          (.rl 0xB :: (Spec.wbVec f.w).toList).map (fun g => (g, ⟨s.fresh + 1, 14, s.me.pitch, false⟩)) ∧
        (if x.part = s.fabid then u.net = s.net ++ [.jrecReq ⟨x.part, s.fabid, w.extractLsb' 40 12, n, s.fresh + 1⟩]
         else u.out = s.out ++ [.jrecReq ⟨x.part, s.fabid, w.extractLsb' 40 12, n, s.fresh + 1⟩])) ∧
    (let step : BitVec 32 := d.extractLsb' 64 32
     Spec.within s (.jemit f) f.g 7 16 → s.checkJournal w = .ok x → x.state ≠ 3 → later x.cstep step = false →
      later x.tail step = true → (x.state = 2 → step = x.cur) → (s.emissions x.sid).length < 64 →
      let rec' := Tab.get (0 : Packet64) x.recs step.toNat
      let j := w.toNat / 2 ^ 40 % 2 ^ 12
      let res : Word := (rec'.extractLsb' 96 32).setWidth 64 |||
        if s.me.jfirst = some (j, step) then 0 else 0x100000000
      let u := if x.state = 2 then (Spec.counted s 7).setJournal j { x with
        cur := step + 1, state := if step + 1 = x.tail then 0 else 2 } else Spec.counted s 7
      exec (.jemit f) s = .next ((u.land 2 14 2 (Spec.writes s 0xB f.w res)).addRel 0 14 (.jemit w rec' (x.state = 2))).commit)

namespace Sys2Proof.Spec

open Sys2Proof.Machine

/-- A released store of the bytes l at offset or address pa (R128, R247). -/
def storing (h : Handle) (slot : BitVec 4) (gen : BitVec 12) (ea pa : Nat) (l : List Byte) : Gated :=
  { h := h, chunks := [(ea, pa, l)], poison := false, slot := slot, gen := gen, marked := false }
/-- The word tcause of a trap (R390). -/
def causeWord (t : TrapInfo) : Word :=
  n64 (t.cause + t.sub * 2 ^ 8 + t.unit * 2 ^ 16 + t.slot * 2 ^ 22 + t.opnd * 2 ^ 25)
/-- A command word for a stopped context (R397): its op, its reserved bits zero, the core's generation. -/
def commands (s : State) (core : Nat) (v : Word) (op : Nat) : Prop :=
  v.toNat % 8 = op ∧ v.toNat / 8 % 2 ^ 13 = 0 ∧ v.toNat / 2 ^ 32 % 2 ^ 16 = 0 ∧ v.extractLsb' 48 12 = s.coreGen core
/-- The kind of end a slot-table row tells (R374). -/
def rst (s : State) (core i : Nat) : Nat := (s.row core i).toNat % 16

end Sys2Proof.Spec

/-- R128, R131, R135, R247: a store that performs writes its own bytes and no other: in the scratchpad of its core, or in the
sector that the core's L1 holds; no byte elsewhere has changed. -/
def Obligations.StorePerformanceFrame : Prop :=
  ∀ (s : State) (core : Nat) (h : Handle) (slot : BitVec 4) (ea pa : Nat) (l : List Byte),
    let gen := s.gen slot
    let t := s.performStore core slot gen (Spec.storing h slot gen ea pa l)
    let new := fun (a : Nat) (old : Byte) => if pa ≤ a then (l[a - pa]?).getD old else old
    let others := (∀ a x, t.homeRead a x = s.homeRead a x) ∧
      ∀ k x, k ≠ core → t.l1Byte k x = s.l1Byte k x ∧ t.spadByte k x = s.spadByte k x
    (h.ps = 15 → others ∧ (∀ x, t.l1Byte core x = s.l1Byte core x) ∧
      ∀ x, (t.spadByte core x).1 = new x (s.spadByte core x).1) ∧
    (h.ps ≠ 15 → (∃ x, cacheSector (s.core core).l1 (pa / 128) = some x) → l ≠ [] → pa % 128 + l.length ≤ 128 →
      (s.core core).fifo.length < 256 → others ∧ (∀ x, t.spadByte core x = s.spadByte core x) ∧
      ∀ x, (t.l1Byte core x).1 = new x (s.l1Byte core x).1)

/-- R83, R93, R116, R127, R141, R210, R394: issue and what arrives. A bundle that is examined with success issues (here without PITCH
and with full power): one more bundle is counted, the next may issue from the next cycle, and memory is as its slots left it. A
context whose blocking condition has cleared goes on. Due results land; replay records are re-issued; a load's
bytes reach the registers that wait for it; a walk's leaf replaces the pending handle; due gather rows enter the data queue.
The model's own choices in it: log 31, 38, 50 and 75 (blocking points, switch cycles, several loads of one register, an idle core). -/
def Obligations.IssueAndArrivalEvents : Prop :=
  ∀ (s : State) (core i : Nat), i < 4 →
    let k := 4 * core + i
    let c := s.ctx k
    (∀ e, (s.core core).issuing = some i → s.mayExamine core i = true → (s.beginExam core i).examine = .ok e →
      let h := Header.ofBits e.bits
      h.pitch = false → 9 < s.level → ∃ t : State, exec (.bundleIssue core) s = .next t ∧ t.seq = s.seq + 1 ∧
        (t.core e.st.cur.core).nextIssue = s.cycle + 1 ∧ (t.ctx e.st.cid).next.pc = e.next.pc ∧
        (t.ctx e.st.cid).obs = (e.st.commit.ctx e.st.cid).obs + 1 ∧
        (t.ctx e.st.cid).bank.getSp 14 = (e.st.commit.ctx e.st.cid).bank.getSp 14 + 1 ∧ Spec.sameMemory e.st t) ∧
    (∀ b, c.st = .blocked b → s.keptBlocked k = false → s.stillBlocked core i b = false → (s.core core).issuing = some i →
      ∃ t : State, exec (.contextUnblock core i) s = .next t ∧ t.ctx k = { c with st := .issuing } ∧
        (t.core core).nextIssue = max (s.core core).nextIssue (s.cycle + 1)) ∧
    (∃ t : State, exec (.resultLanding core i) s = .next t ∧ t.ctx k = c.landDue s.cycle ∧ ∀ j, j ≠ k → t.ctx j = s.ctx j) ∧
    (s.mayExamine core i = true → c.replayWait = true → ∃ t : State, exec (.replayReissue core i) s = .next t ∧
      (t.ctx k).replayWait = false ∧ (t.ctx k).flight =
        c.replay.foldl (fun l r => insertLanding { r with due := s.cycle + r.due - 1 } l) c.flight) ∧
    (∀ ld n p, c.loads.find? (fun l => l.tok == ld.tok) = some ld → c.heldLoad ld = false → 0 < n → n < 64 →
      (c.landDue s.cycle).bank.pends (.s n) = [p] → p.tok = ld.tok →
      let z := (s.modCtx k fun c => c.landDue s.cycle).settleParts k ld
      ∃ t : State, exec (.loadLanding core i ld.tok) s = .next t ∧ (∀ x ∈ (t.ctx k).loads, x.tok ≠ ld.tok) ∧
        (t.ctx k).bank.pends (.s n) = [] ∧ (t.ctx k).bank.getS n =
          (ld.form.value ((z.landParts core ld ld.parts).1.map Prod.fst)).data.setWidth 64) ∧
    (∀ w l n, (s.core core).walks.find? (fun x => x.id == w.id && x.failed.isNone) = some w → w.again = false → w.item = none →
      inAperture w.va = false → s.walkBy w.slot w.root w.va = .ok l →
      (Tab.get {} (s.ctx w.ctx).bank.h n).st = .pending → (Tab.get {} (s.ctx w.ctx).bank.h n).tok = w.tok →
      ∃ t : State, exec (.walkComplete core w.id) s = .next t ∧ (∀ x ∈ (t.core core).walks, x.id ≠ w.id) ∧
        Tab.get {} (t.ctx w.ctx).bank.h n = leafHandle w.slot w.gen w.va l) ∧
    (∃ t : State, exec (.gatherRowArrival core i) s = .next t ∧ t.ctx k = { c with
      gq := c.gq ++ c.iq.filter (fun r => decide (r.due ≤ s.cycle)), iq := c.iq.filter fun r => decide (s.cycle < r.due) })

/-- R149, R247, R132, R136: releases. A pitch whose only gated entry is a store performs it, then applies its signals in order, and
leaves the path; the context's own waiting reads of its bytes, and the loads of its bundle, which R255 to R257 put before it,
read at moments that are the model's (log 69: State.settleStore, State.settleRest), and it waits for a remote load of its bundle; feset and feclr make their line full or empty there; a semaphore signal sets, or adds up to 65,535. The FIFO's head line
is written back and goes.
The model's own choices in it: log 12, 35 and 69 (one release is one step, what it waits for, the moments at which the context's own loads and mloads read). -/
def Obligations.ReleaseEvents : Prop :=
  (∀ (s : State) (core i : Nat) (p : PitchRel) (x : RelItem) (g : Gated), i < 4 →
    let k := 4 * core + i
    let c := s.ctx k
    c.path = [p] → p.step1 = [x] → x.body = .store g → (∀ t ∈ c.remote, t.2.2 ≠ x.seq) → p.step2 = [] → c.after = .none →
    c.asyncDue = false → c.cancel = false →
    exec (.pitchRelease core i) s = .next ((p.sigs.foldl (fun z (q : Sig) =>
        if q.gen ≠ z.gen q.slot then z
        else if q.isSet then z.setSem core q.sem q.val else z.setSem core q.sem (z.sem core q.sem + q.val))
      ((((s.modCtx k fun c => { c with path := [{ p with step1 := [] }] }).settleStore k x.seq g).performStore core x.slot
        x.gen g).settleRest k g)).modCtx k fun c => { c with path := c.path.drop 1 })) ∧
  (∀ (s : State) (core : Nat) (q r : BitVec 8) (v : Nat), (s.setSem core q v).sem core r =
    if r = q then min v 65535 else s.sem core r) ∧
  (∀ (s : State) (core line : Nat) (slot : BitVec 4) (full : Bool) (j : Nat),
    (s.setLine core line slot (s.gen slot) full).lineFull core j = if j = line then full else s.lineFull core j) ∧
  (∀ (s : State) (core l : Nat) (r : List FifoEntry), (s.core core).fifo = .line l :: r → ∃ t : State,
    exec (.dirtyFifoDrain core) s = .next t ∧ (.line l) ∉ (t.core core).fifo ∧
    ∀ c ∈ (t.core core).l1, c.line = l → ∀ e ∈ c.sect, e.2.mask = 0)

/-- R67, R83, R389 to R395: a bundle that traps performs nothing; the context rolls back to its last pitch end, with tcause and taddr
written, its record held, and stops; nothing else of memory has changed. The held record goes into a trap queue with
room, and the kernel is told.
The model's own choices in it: log 30, 39 and 40 (records in the shadow, unit 63, the access of the trap queue). -/
def Obligations.TrapEntrySavesAndRollsBack : Prop :=
  (∀ (s : State) (nr : Bool) (x : TrapInfo),
    let c := s.me
    let t := s.takeTrap nr x
    let d := t.ctx s.cid
    d.st = .stopped ∧ d.next = c.shadow.next ∧ d.rel = [] ∧ d.sigs = [] ∧ d.log = [] ∧ d.flight = [] ∧ d.path = c.path ∧
    (∀ i, d.bank.getS i = c.shadow.bank.getS i ∧ d.bank.getV i = c.shadow.bank.getV i ∧ d.bank.getP i = c.shadow.bank.getP i) ∧
    d.bank.getSp 16 = Spec.causeWord x ∧ d.bank.getSp 17 = Spec.n64 (x.addr.getD s.cur.addr % 65536) ∧
    (∀ i, i ≠ 16 → i ≠ 17 → d.bank.getSp i = c.shadow.bank.getSp i) ∧
    (∃ r, d.record = some r ∧ r.length = 16 ∧ r.getD 1 0 = Spec.n64 (x.addr.getD s.cur.addr % 65536 +
      c.shadow.next.pc % 65536 * 65536) ∧ r.getD 2 0 = x.arg ∧ r.getD 3 0 = x.info ∧
      ∀ i < 9, r.getD (7 + i) 0 = c.shadow.bank.getSp i) ∧ d.queued = false ∧ Spec.sameMemory s t) ∧
  (∀ (s : State) (core i : Nat) (x : TrapInfo), (s.core core).issuing = some i → s.mayExamine core i = true →
    let s0 := s.beginExam core i
    s0.examine = .error (.trap x) → s0.cid = 4 * core + i →
    exec (.bundleIssue core) s = .next (s0.takeTrap (s0.me.destroyed && s0.noReplay s0.cid) x)) ∧
  (∀ (s : State) (core i : Nat) (r : List Word) (n : Nat) (u : State), i < 4 → (s.ctx (4 * core + i)).record = some r →
    (s.ctx (4 * core + i)).queued = false → (s.ctx (4 * core + i)).dying = false → s.putRecord core r = some (n, u) →
    (u.tctl core i).getLsbD 63 = false → exec (.trapDelivery core i) s = .next (u.modCtx (4 * core + i) fun c => { c with queued := true, recIdx := n })) ∧
  (∀ (s : State) (core : Nat) (r : List Word), let cfg := (s.core core).tqcfg
    let w := fun (pa : Nat) => s.hwWord (busAcc 0) pa
    cfg.getLsbD 63 = true → (w (tqBase cfg) - w (tqBase cfg + 8)).toNat < tqSize cfg →
    ∃ u, s.putRecord core r = some ((w (tqBase cfg)).toNat, u))

/-- R397, R400, R402, R403: the kernel's commands on a stopped context whose record is in the queue (R392). Resume goes on at the record's return address with its loop
registers; redirect goes to a handler with the trap frame filled; kill ends the unit with RST 5; a pre-emption asked for saves the
context at its point, with RST 2 and an area's record of the unit; and a reply to a saved unit takes a free slot of its row.
The model's own choices in it: log 27 and 41 (the point of a pre-emption, what is kept beside the save area). -/
def Obligations.UnitControlEvents : Prop :=
  ∀ (s : State) (core i : Nat) (v : Word), i < 4 →
    let k := 4 * core + i
    let c := s.ctx k
    let goes := fun (d : Ctx) => d.st = .ready ∨ d.st = .issuing
    let e := s.trapEntry core c.recIdx
    let raddr := (e.getD 1 0).toNat / 2 ^ 16 % 2 ^ 16
    let there := c.landDue (s.cycle + 1)
    c.dying = false → (s.tctl core i).getLsbD 63 = false →
    (c.st = .stopped → c.queued = true → c.nr = false →
      (Spec.commands s core v 1 → ∃ t : State, exec (.resume core i v) s = .next t ∧ let d := t.ctx k
        goes d ∧ d.next.pc = raddr ∧ (c.next.pc ≠ raddr → d.next = { pc := raddr }) ∧ d.record = none ∧ d.hnd = c.hnd ∧
        d.frame = c.frame ∧ (∀ j < 9, j ≠ 7 → d.bank.getSp j = e.getD (7 + j) 0) ∧ (∀ j, d.bank.getS j = there.bank.getS j)) ∧
      (Spec.commands s core v 2 → c.hnd = false → ∃ t : State, exec (.redirect core i v) s = .next t ∧ let d := t.ctx k
        goes d ∧ d.next = { pc := v.toNat / 2 ^ 16 % 2 ^ 16, enter := true } ∧ d.hnd = true ∧ d.bank = there.bank ∧
        d.frame.taddr = (e.getD 1 0).toNat % 2 ^ 16 ∧ d.frame.raddr = raddr ∧
        (∀ j < 9, Tab.get 0 d.frame.loops j = e.getD (7 + j) 0))) ∧
    (c.st = .stopped → c.queued = true → Spec.commands s core v 3 → ∃ t : State, exec (.kill core i v) s = .next t ∧
      (t.ctx k).st = .free ∧ Spec.rst t core i = 5) ∧
    (c.pre = true → s.savePoint k = true → ∃ t : State, exec (.preemptSave core i) s = .next t ∧ (t.ctx k).st = .free ∧
      Spec.rst t core i = 2 ∧ ∃ u ∈ (t.core core).units, u.row = i ∧ u.restored = false ∧ u.uid = c.uid ∧ u.lobj = c.lobj ∧
        u.savea = (s.row core i).toNat / 2 ^ 448 % 2 ^ 39) ∧
    (∃ t : State, exec (.preRequest core i) s = .next t ∧ (t.row core i).getLsbD 7 = true ∧
      (t.ctx k).pre = decide (c.st ≠ .free)) ∧
    (∀ r u, (s.core core).units.find? (fun u => u.row == i && !u.restored && (s.core core).toSaved.contains (u.savea, r)) = some u →
      let l := Tab.get [] (s.core core).replies i
      l.length < 16 → (∀ p ∈ l, p.1 = u.savea) → ∃ t : State,
        exec (.replyToSaved core i r) s = .next t ∧ Tab.get [] (t.core core).replies i = l ++ [(u.savea, r)] ∧
        (t.core core).toSaved = (s.core core).toSaved.erase (u.savea, r))

namespace Sys2Proof.Spec

open Sys2Proof.Machine

/-- The command at the head of a queue is performing (R270): current, begun, bound to no other end. -/
def performing (s : State) (core q : Nat) (c : Cmd) (r : List Cmd) (cmd : Nat) : Prop :=
  s.hub.down = false ∧ (s.eq core q).cmds = c :: r ∧ c.fate = 0 ∧ s.engStale core c.packet = false ∧ c.began = true ∧
  c.finished = false ∧ c.packet.toNat / 2 ^ 32 % 16 = cmd
/-- A field of a command packet. -/
def pk (c : Cmd) (lo n : Nat) : Nat := c.packet.toNat / 2 ^ lo % 2 ^ n
/-- The head of the queue is now c, and r follows it. -/
def headIs (t : State) (core q : Nat) (c : Cmd) (r : List Cmd) : Prop := (t.eq core q).cmds = c :: r

end Sys2Proof.Spec

/-- R277 to R281, R283: the commands at the heads of their queues go on: a cpy moves the bytes of its next access, a zfill zeroes them
(here in the scratchpad, the last access); a csr reads its base row start; a pfr and an evict act on their next line, an evict leaving it in no
RDC; a qfence whose queues have got there signals and retires; a collective that still waits sends its contribution.
The model's own choices in it: log 9 and 52 (accesses in a step, merging and poison). -/
def Obligations.EngineCommandsPerform : Prop :=
  ∀ (s : State) (core q : Nat) (c : Cmd) (r : List Cmd),
    let p := c.packet
    (∀ a o d, c.access c.done = some a → c.access (c.done + 1) = none → c.fixes = [] → a.less = 0 → a.dst = some (true, d) →
      s.spadLocked core d a.n = false →
      (Spec.performing s core q c r 1 → a.src = some (true, o) → ∃ t : State, exec (.cpyCommand core q 1) s = .next t ∧
        (∃ c', Spec.headIs t core q c' r ∧ c'.done = c.done + 1) ∧
        ∀ i < a.n, (t.spadByte core (d + i)).1 = (s.spadByte core (o + i)).1) ∧
      (Spec.performing s core q c r 4 → a.src = none → ∃ t : State, exec (.zfillCommand core q 1) s = .next t ∧
        (∃ c', Spec.headIs t core q c' r ∧ c'.done = c.done + 1) ∧ ∀ i < a.n, (t.spadByte core (d + i)).1 = 0)) ∧
    (∀ l, Spec.performing s core q c r 2 → c.done = 0 → Spec.pk c 352 16 ≠ 0 → c.fixes = [] →
      s.engPlace (p.extractLsb' 48 4) (Spec.pk c 128 56 + 4 * Spec.pk c 320 32) 4 false = .ok l →
      exec (.csrCommand core q 1) s = .next ((s.engLook p l).setHead core q { c with
        csr := (natOfBytes (l.map fun e => (s.homeRead (engAcc p e.2) e.1).1), 0), done := 1
        dpois := l.any fun e => (s.homeRead (engAcc p e.2) e.1).2 })) ∧
    (let va := (Spec.pk c 128 56 / 1024 + c.done) * 1024
     va < Spec.pk c 128 56 + Spec.pk c 256 32 → Spec.pk c 256 32 ≠ 0 →
      (Spec.performing s core q c r 3 → ∃ t : State, exec (.pfrCommand core q 1) s = .next t ∧
        Spec.headIs t core q { c with done := c.done + 1 } r ∧ Spec.sameMemory s t) ∧
      (∀ l, Spec.performing s core q c r 7 → s.engLeaf (p.extractLsb' 48 4) va false = .ok l →
        s.refused (engAcc p l.key) (leafPa l (BitVec.ofNat 64 va)) = false → ∃ t : State, exec (.evictCommand core q 1) s = .next t ∧
        Spec.headIs t core q { c with done := c.done + 1 } r ∧
        ∀ d < 4, ∀ y ∈ (t.die d).rdc, y.line ≠ leafPa l (BitVec.ofNat 64 va) / 1024)) ∧
    (Spec.performing s core q c r 5 → s.fenceMet core c = true → ∃ t : State, exec (.qfenceCommand core q) s = .next t ∧
      (t.eq core q).cmds = r ∧ (Spec.pk c 24 4 ≠ 0 → t.sem core (p.extractLsb' 16 8) =
        min (s.sem core (p.extractLsb' 16 8) + Spec.pk c 24 4) 65535)) ∧
    (∀ members hdr d own s1 s2 s3, Spec.performing s core q c r 6 → c.result = none → c.own = none → c.members = [] → c.first = none →
      (∀ m ∈ members, m.came ≤ s.dtime ∧ s.dtime ≤ m.came + 100000000) →
      s.collRead core q c (Spec.pk c 256 56) 64 = .ok (hdr, s1) → groupOk (hdr.map Prod.fst) = true →
      let n := (hdr.getD 0 (0, false)).1.toNat
      s1.collRead core q c (Spec.pk c 256 56) (64 + 16 * n) = .ok (d, s2) → let desc := d.map Prod.fst
      desc.take 2 = (hdr.map Prod.fst).take 2 →
      (∀ k < n, memberOk ((desc.drop (64 + 16 * k)).take 16) = true ∧ ofBytes 12 ((desc.drop (64 + 16 * k)).take 2) ∉ s.hub.downMods) →
      (Spec.pk c 356 2 = 0 → Spec.pk c 320 32 % n = 0) →
      s2.collRead core q c (Spec.pk c 128 56) (collElem p * Spec.pk c 320 32) = .ok (own, s3) → members.length + 1 < n →
      ∃ t : State, exec (.collCommand core q members) s = .next t ∧
        t.out = s3.out ++ collMsgs p (desc.getD 1 0).toNat n desc own ∧ ∃ c', Spec.headIs t core q c' ((s3.eq core q).cmds.drop 1) ∧
          c'.own = some (desc, own) ∧ ∃ f, c'.first = some f ∧ f ≤ s3.dtime ∧ (members = [] → f = s3.dtime))

/-- R265, R268, R273 to R276, R283: the events around the commands. An enabled queue admits its next entry, whose promise lands after twenty
cycles in the registers that wait for it; a promise missed is held for the context; the kernel answers a fix-up; a collective times out
after 100 ms with an error counted; EQCFG enables a queue from its RIDX, and disables it once nothing admitted is left.
The model's own choices in it: log 18, 51 and 52 (the free estimate, RIDX on enabling, 20 cycles before a promise lands). -/
def Obligations.EngineQueueEvents : Prop :=
  ∀ (s : State) (core q : Nat),
    let x := s.eq core q
    (let p : Packet64 := ofBytes 512 ((s.homeReads hwAcc (entryAddr x.cfg x.adm) 64).map Prod.fst)
     s.hub.down = false → x.cfg.getLsbD 63 = true → x.closing = false → x.adm < s.widx core q → x.cmds = [] →
      p.toNat / 2 ^ 29 % 8 = x.adm / eqSize x.cfg % 8 → s.engStale core p = false →
      (∀ k ∈ x.claims, k.idx = x.adm → k.dropped = false) → ∃ t : State, exec (.entryAdmit core q) s = .next t ∧
        (t.eq core q).adm = x.adm + 1 ∧
        (∃ c, (t.eq core q).cmds = [c] ∧ c.idx = x.adm ∧ c.packet = p ∧ c.began = false ∧ c.fate = 0) ∧
        ∀ k, x.claims.find? (fun k => k.idx == x.adm) = some k →
          ∃ y ∈ (t.eq core q).proms, y.ctx = k.ctx ∧ y.tok = k.tok ∧ y.due = s.cycle + 20) ∧
    (∀ p i, i < 4 → q < 8 → x.proms = [p] → (∀ j, j ≠ q → (s.eq core j).proms = []) → p.ctx = 4 * core + i → p.due ≤ s.cycle →
      (s.ctx p.ctx).bank.waiting p.tok ≠ [] → (∀ j < 4, j ≠ i →
        (s.ctx (4 * core + j)).bank.waiting p.tok = [] ∧ (s.ctx (4 * core + j)).shadow.bank.waiting p.tok = []) →
      exec (.promiseLanding core i p.tok) s = .next ((s.modEq core q fun x => { x with proms := [] }).modCtx p.ctx fun c =>
        (c.landDue s.cycle).deliver p.tok { data := p.prom.setWidth 1024 } .clean)) ∧
    (∀ c k ci, x.cmds = [c] → c.missed = false → c.prom.toNat ≤ s.dtime → c.owner = some k →
      (∃ l ∈ c.marked, s.lineFull core l = false) → s.whereUnit core k = some (.inl ci) → (s.ctx ci).st = .ready →
      (s.ctx ci).held.length < 4 → ∃ t : State, exec (.promiseMissed core q) s = .next t ∧
        (t.ctx ci).held = (s.ctx ci).held ++ [⟨q, c.idx⟩] ∧ (t.eq core q).cmds = [{ c with missed := true }]) ∧
    (∀ c r f fs b, x.cmds = c :: r → c.began = true → s.hub.down = false → c.finished = false → c.fixes = f :: fs →
      f.answer = none → exec (.segmentReplay core q [b]) s =
        .next (s.setHead core q { c with fixes := { f with answer := some b } :: fs })) ∧
    (∀ c r n, x.cmds = c :: r → c.first = some n → c.result = none → c.packet.toNat / 2 ^ 32 % 16 = 6 → c.began = true →
      n + 100000000 ≤ s.dtime → ∃ t : State, exec (.collTimeout core q) s = .next t ∧ (t.eq core q).cmds = r ∧
        (t.eq core q).errc = min (x.errc + 1) 255) ∧
    (∀ v : Word, v.toNat % 2 ^ 12 = 0 → v.toNat / 2 ^ 39 % 2 ^ 20 = 0 →
      (x.cfg.getLsbD 63 = false → v.getLsbD 63 = true → exec (.eqcfgWrite core q v) s = .next (s.modEq core q fun x =>
        { x with cfg := v, closing := false, errc := 0, adm := (s.physWord (eqBase v + 8)).toNat })) ∧
      (x.cfg.getLsbD 63 = true → v.getLsbD 63 = false → v.setWidth 63 = x.cfg.setWidth 63 → x.cmds ≠ [] →
        exec (.eqcfgWrite core q v) s = .next (s.modEq core q fun x => { x with closing := true }))) ∧
    (x.closing = true → x.cmds = [] → exec (.queueDisableComplete core q) s = .next (s.modEq core q fun x =>
      { x with cfg := (x.cfg.setWidth 63).setWidth 64, closing := false }))

namespace Sys2Proof.Spec

open Sys2Proof.Machine

/-- An accepted packet for this module that is not too old (R287, R290), and the state with it taken from the port. -/
def accepted (s : State) (p : Packet) : Prop := p.dmod = s.fabid ∧ .packet p ∈ s.net ∧ s.tooOld p = false
/-- The port's state once a message is taken from it. -/
def taken (s : State) (m : Msg) : State := { s with net := s.net.erase m }
/-- A packet has gone out, to this module or another. -/
def sent (s t : State) (q : Packet) : Prop :=
  if q.dmod = s.fabid then t.net = s.net ++ [.packet q] ∧ t.out = s.out else t.out = s.out ++ [.packet q] ∧ t.net = s.net
/-- The reply to p (R290), with a class or without. -/
def replies (s t : State) (p : Packet) (cls : Option (BitVec 4)) (data : Lanes) : Prop :=
  ∃ q : Packet, sent s t q ∧ q.kind = p.kind + 32 ∧ q.dmod = p.smod ∧ q.smod = s.fabid ∧ q.tag = p.tag ∧ q.inc = p.inc ∧
    q.errv = cls.isSome ∧ q.err = cls.getD 0 ∧ q.data = data ∧ q.auth = s.authOf q
/-- A served request's reply: its data goes out as the fabric port enciphers it (R427), under the window's key. -/
def answers (s t : State) (p : Packet) (cls : Option (BitVec 4)) (data : Lanes) : Prop :=
  replies s t p cls (s.sealed (s.windowSlot p) (replyOf s.fabid p cls data)).data
/-- A tally entry of the packet's module, context and batch (R292). -/
def tallied (s : State) (p : Packet) : Option Tally :=
  s.hub.tally.find? fun t => t.smod == p.smod && t.sctx == p.sctx && t.batch == p.batch

end Sys2Proof.Spec

/-- R287, R290 to R292, R297, R298: a request that passes the checks of its window performs at its home once, and is answered: a load
with the bytes there; a store written and tallied; a kettle operation with its buffered writes (a fetch-and-add reads and adds); a
close, once no accepted write of its batch waits, with the batch's summary, its tally entry freed. One that fails a check is answered
with its class and changes no memory. Data arrives and leaves as the fabric port deciphers and enciphers it (R427; the placing of eight
bytes in their chunk is log 53's).
The model's own choices in it: log 53 and 54 (classes, the placing of data in its chunk, the order of checks of a kettle). -/
def Obligations.FabricRequestsServed : Prop :=
  (∀ (p : Packet) (s : State), Spec.accepted s p →
    let z := Spec.taken s (.packet p)
    (∀ e ∈ [(Instr.rldRequest p, (1 : BitVec 6), 8), (.rldvRequest p, 2, 128)], p.kind = e.2.1 →
      (∀ v, z.admitPacket p e.2.2 true false = .ok v →
        let l := z.homeReads v.acc v.pa e.2.2
        l.any Prod.snd = false → ∃ t : State, exec e.1 s = .next t ∧
          Spec.answers z t p none (ofBytes 1024 (l.map Prod.fst)) ∧ Spec.sameMemory s t) ∧
      (∀ c, z.admitPacket p e.2.2 true false = .error c → ∃ t : State, exec e.1 s = .next t ∧
        Spec.answers z t p (some c) 0 ∧ Spec.sameMemory s t)) ∧
    (∀ e ∈ [(Instr.rstRequest p, (3 : BitVec 6), 8), (.rstvRequest p, 4, 128)], p.kind = e.2.1 →
      (∃ y, Spec.tallied s p = some y) ∨ s.hub.tally.length < 4096 → ∀ v, z.admitPacket p e.2.2 false true = .ok v →
        ∃ t : State, exec e.1 s = .next t ∧ Spec.answers z t p none 0 ∧
          t.mem = (z.homeWrites v.acc v.pa (bytesOf (z.opened (z.windowSlot p) p) e.2.2)).mem ∧
          (Spec.tallied t p).map (·.count) = some (((Spec.tallied s p).map (·.count)).getD 0 + 1)) ∧
    (∀ v r k, p.kind = 5 →
      let d := z.opened (z.windowSlot p) p
      let c : Word := d.setWidth 64
      z.admitPacket p (kopSize (kopOf c)) true true = .ok v →
      (z.kettle (BitVec.ofNat 64 (v.pa - v.base)) c fun i => d.extractLsb' (256 + 64 * i) 64).run.run { v := v } = (r, k) →
      ∃ t : State, exec (.ropRequest p) s = .next t ∧
        (∀ y, r = .ok y → Spec.answers z t p none (ketReply r) ∧ t.mem = ((z.ketTouch k).ketApply k).mem) ∧
        ∀ c, r = .error c → Spec.answers z t p (some c) (ketReply r) ∧ t.mem = s.mem) ∧
    (∀ y, p.kind = 6 → Spec.tallied s p = some y → (∀ m ∈ s.net, Msg.batchWrite p m = false) → ∃ t : State, exec (.closeRequest p) s = .next t ∧
      Spec.answers z t p none (BitVec.ofNat 1024 (y.map.toNat + y.count % 2 ^ 32 * 2 ^ 32)) ∧ Spec.tallied t p = none)) ∧
  (∀ (s : State) (k k0 : Ket) (off c old : Word) (a : Nat → Word), c.toNat = 1 → (s.m8 off).run.run k = (.ok old, k0) →
    ∃ k1 k2, (s.kettle off c a).run.run k = (.ok ([old], false), k1) ∧ (s.m8 off).run.run k1 = (.ok (old + a 0), k2))

/-- R291, R294 to R296: a reply to an outstanding request frees its tag and reaches its context: a load's bytes the register that
waits, an acknowledgement its write, a kettle's answer its register, its data deciphered by the port (R427); a request with no reply
after RTOUT lands with class 9 and its tag goes to the next incarnation. An unused tally entry is freed after 10 ms. -/
def Sys2Proof.Spec.FabricRepliesArrive : Prop :=
  (∀ (p : Packet) (s : State) (ci tok : Nat) (r : RemoteOp),
    let g := Tab.get {} s.hub.tags p.tag.toNat
    Spec.accepted s p → g.req = some (ci, tok, r) → g.inc = p.inc → p.kind = r.kind + 32 → r.gen = s.gen r.slot →
    s.hub.waiting = [] →
    let z : State := { Spec.taken s (.packet p) with hub := { s.hub with tags := Tab.set s.hub.tags p.tag.toNat { g with req := none } } }
    let cls := if p.errv then some p.err else none
    (∀ e ∈ [(Instr.rldReply p, [(1 : BitVec 6)]), (.rldvReply p, [2]), (.ropReply p, [5]), (.writeAcknowledgement p, [3, 4]),
        (.summaryReply p, [6])], r.kind ∈ e.2 → exec e.1 s = .next (z.remoteDone ci tok r cls (z.opened r.slot p))) ∧
    (∀ n y (data : Lanes), r.kind = 1 → r.n = 8 → r.mask = 0 → 0 < n → n < 64 → (s.ctx ci).bank.pends (.s n) = [y] → y.tok = tok →
      (∀ f ∈ (s.ctx ci).flight, ∀ w ∈ f.writes, w.reg ≠ .s n) →
      let d := (z.remoteDone ci tok r none data).ctx ci
      d.bank.getS n = data.setWidth 64 ∧ d.bank.pends (.s n) = [] ∧ ∀ x ∈ d.remote, x.1 ≠ tok) ∧
    (∀ data, r.kind = 3 ∨ r.kind = 4 → ∀ w ∈ ((z.remoteDone ci tok r cls data).ctx ci).unacked, w.1 ≠ tok)) ∧
  (∀ (s : State) (tag ci tok : Nat) (r : RemoteOp),
    let g := Tab.get {} s.hub.tags tag
    tag < 4096 → g.req = some (ci, tok, r) → r.gen = s.gen r.slot → s.hub.waiting = [] → g.sent + (s.hubReg 8).toNat * 1000 ≤ s.dtime →
    exec (.requestTimeout tag) s = .next (({ s with hub := { s.hub with
      tags := Tab.set s.hub.tags tag { g with req := none, inc := g.inc + 1 } } } : State).remoteDone ci tok r (some 9) 0)) ∧
  (∀ (s : State) (m : BitVec 12) (x : BitVec 9) (b : BitVec 2), ∃ t : State, exec (.tallyExpiry m x b) s = .next t ∧
    ∀ y, y ∈ t.hub.tally ↔ y ∈ s.hub.tally ∧ ¬ (y.smod = m ∧ y.sctx = x ∧ y.batch = b ∧ y.used + 10000000 ≤ s.dtime))

/-- R285, R288 to R290, R428: FABSLOT takes a legal value and revokes the slot's valid fabric handles; either half of an FXWIN entry
takes what is written, the others as they were, and a request to an entry with EN = 0, LSZ over 20, a reserved bit set or a BASE out of
alignment fails with class 0; a packet of a new flow whose AUTH verifies under this module's header key is accepted and its number
recorded; one that is not authentic is counted, and a request among them answered with class 7. -/
def Sys2Proof.Spec.FabricPortEvents : Prop :=
  (∀ (s : State) (slot : BitVec 4) (v : Word), v.toNat / 2 ^ 24 % 2 ^ 37 = 0 → ∃ t : State, exec (.fabslotWrite slot v) s = .next t ∧
    t.fabslot slot = v ∧ ∀ ci n, let h := Tab.get {} (s.ctx ci).bank.h n
      Tab.get {} (t.ctx ci).bank.h n = if h.ps = 14 ∧ h.slot = slot ∧ h.st = .valid then { h with st := .revoked } else h) ∧
  (∀ (s : State) (x : BitVec 8) (hi : Bool) (v : Word), ∃ t : State,
    exec (.registerWrite .hub (BitVec.ofNat 25 (0x1000 + 16 * x.toNat + if hi then 8 else 0)) v) s = .next t ∧
    t.mem = s.mem ∧ ∀ y, let e := s.fxwin y
      t.fxwin y = if y = x.toNat then (if hi then v ++ e.extractLsb' 0 64 else e.extractLsb' 64 64 ++ v) else e) ∧
  (∀ (p : Packet) (s : State) (n : Nat) (rd wr : Bool), p.own = false → s.hub.down = false →
    let e := s.fxwin p.win.toNat
    let lsz := (e.extractLsb' 104 5).toNat
    (e.getLsbD 127 = false ∨ 20 < lsz ∨ e.extractLsb' 27 53 ≠ 0 ∨ ∃ i < lsz, e.getLsbD i = true) →
      s.admitPacket p n rd wr = .error 0) ∧
  (∀ (p : Packet) (s : State), p.dmod = s.fabid → s.tooOld p = false → p.world ≠ 3 →
    let k := p.smod.toNat * 4 + p.world.toNat
    let key := Tab.get 0 s.hub.caddy.fabKey p.world.toNat
    (s.hub.caddy.asleep = false → key ≠ 0 → p.auth = macWord key (bytesOf (headerBits p) 24) → Tab.get none s.hub.fseqIn k = none →
      (1 ≤ p.kind.toNat ∧ p.kind.toNat ≤ 6) ∨ (33 ≤ p.kind.toNat ∧ p.kind.toNat ≤ 38) →
      exec (.networkPacketArrival p) s = .next { s with
        net := s.net ++ [.packet { p with own := false }]
        hub := { s.hub with fseqIn := Tab.set s.hub.fseqIn k (some (p.fseq, 0)) } }) ∧
    (p.auth ≠ macWord key (bytesOf (headerBits p) 24) → 1 ≤ p.kind.toNat → p.kind.toNat ≤ 6 →
      (s.hubReg 0xB080).toNat < 2 ^ 32 - 1 → ∃ t : State,
      exec (.networkPacketArrival p) s = .next t ∧ t.hubReg 0xB080 = s.hubReg 0xB080 + 1 ∧
      Spec.replies s t p (some 7) 0 ∧ t.hub.fseqIn = s.hub.fseqIn))

namespace Sys2Proof.Spec

open Sys2Proof.Machine

/-- A message has gone out for module d: on this module's own port, or on the network (R339). -/
def posted (z t : State) (d : BitVec 12) (m : Msg) : Prop :=
  if d = z.fabid then t.net = z.net ++ [m] ∧ t.out = z.out else t.out = z.out ++ [m] ∧ t.net = z.net
/-- The belay engine has nothing under way. -/
def quiet (s : State) : Prop := s.hub.jops = []

end Sys2Proof.Spec

/-- R328, R331, R334, R336, R338: the items of a stream. The head of an open producer end's queue goes to the consumer's holder under the
next number while there is space; an arriving item is stored at its place and accepted; an acceptance lands and advances ASEQ; space
is reported and noted; a close notice closes or orphans the other end.
The model's own choices in it: log 55 and 56 (reports and orphans). -/
def Obligations.StreamItemEvents : Prop :=
  (∀ (s : State) (sid : StreamId) (e : EndRec) (h : SendItem) (rest : List SendItem) (x : Packet64), Spec.quiet s →
    (s.stream sid).prod = some e → e.queue = h :: rest → h.body = .data x → h.forced = none → h.gen = s.gen h.slot →
    e.journal = none → e.state = 0 → 0 < e.space → ∃ t : State, exec (.itemSend sid) s = .next t ∧
      (t.stream sid).prod = some { e with queue := rest, nseq := e.nseq + 1 } ∧
      (t.stream sid).sent = (s.stream sid).sent ++ [(e.nseq, h)] ∧
      Spec.posted s t e.peer (.item ⟨e.peer, sid, s.fabid, e.nseq, .data x⟩)) ∧
  (∀ (s : State) (m : ItemMsg) (r : EndRec) (x : Packet64), m.dst = s.fabid → (s.stream m.sid).cons = some r → m.body = .data x →
    r.gen = s.gen r.slot → later r.nseq m.seq = false → (∀ i ∈ r.store, i.1 ≠ m.seq.toNat) → r.endSeq = none → r.peer = m.prod →
    let z := Spec.taken s (.item m)
    ∃ t : State, exec (.itemArrival m) s = .next t ∧
      t.mem = (z.homeWrites ⟨some r.slot, r.gen, false, 0, 0⟩ (r.buf + 64 * (m.seq.toNat % r.cap)) (bytesOf x 64)).mem ∧
      (∃ r', (t.stream m.sid).cons = some r' ∧ (m.seq.toNat, .data m.prod) ∈ r'.store ∧ r'.nseq = r.nseq) ∧
      Spec.posted z t m.prod (.ack ⟨m.prod, m.sid, m.seq⟩)) ∧
  (∀ (s : State) (m : AckMsg) (r : EndRec) (h : SendItem), Spec.quiet s → m.dst = s.fabid → (s.stream m.sid).prod = some r →
    (s.stream m.sid).sent = [(m.seq, h)] → r.aseq = m.seq → r.acked = [] → h.tok ≠ 0 → ∃ t : State,
      exec (.itemAcceptance m) s = .next t ∧ (t.stream m.sid).prod = some { r with aseq := r.aseq + 1 } ∧
      (t.stream m.sid).sent = [] ∧ h.tok ∉ (t.ctx h.ctx).sx) ∧
  (∀ (s : State) (m : SpaceMsg) (r : EndRec), m.dst = s.fabid → (s.stream m.sid).prod = some r → ∃ t : State,
    exec (.spaceReport m) s = .next t ∧ (t.stream m.sid).prod = some { r with consumed := latest m.consumed r.consumed }) ∧
  (∀ (s : State) (sid : StreamId) (r : EndRec) (n : Nat), (s.stream sid).cons = some r → r.report = some n → ∃ t : State,
    exec (.spaceReportSend sid) s = .next t ∧ (t.stream sid).cons = some { r with report := none } ∧
    Spec.posted s t r.peer (.space ⟨r.peer, sid, r.nseq⟩)) ∧
  (∀ (s : State) (m : CloseMsg) (r : EndRec), Spec.quiet s → m.dst = s.fabid → m.sid.hmod ≠ s.fabid → m.cons = true →
    m.lost = false → (s.stream m.sid).prod = some r → (s.stream m.sid).sent = [] → r.state = 0 → ∃ t : State,
      exec (.closeNotice m) s = .next t ∧
      (t.stream m.sid).prod = some { r with state := if m.orphan then 2 else 3, hold := none })

/-- R337, R339, R340, R355, R357: an end that moves. Its old holder learns the new one; the peer records the new place and a newer move
count, and answers the old holder; the old holder's record ends with the acknowledgement, or once everything below the bound is passed
on. A consumer whose hold on an orphaning runs out is orphaned; it learns the partner of a belay journal. A module that is down is
noted, and a journal it was the partner of runs without one.
The model's own choices in it: log 55, 56 and 73 (the extra space report, orphans, the hold of an end whose peer's module is down). -/
def Obligations.StreamMoveEvents : Prop :=
  (∀ (s : State) (m : MoveMsg) (f : FwdRec), m.dst = s.fabid → (s.stream m.sid).fwd m.cons = some f → f.mc = m.mc →
    f.items = [] → f.held = [] → f.bnd = none → ∃ t : State, exec (.arrived m) s = .next t ∧
      (t.stream m.sid).fwd m.cons = some { f with dest := some m.loc }) ∧
  (∀ (s : State) (m : MoveMsg) (r : EndRec), m.dst = s.fabid → m.cons = true → (s.stream m.sid).prod = some r →
    newer m.mc r.pmc = true → r.peer = m.old → ∃ t : State, exec (.moved m) s = .next t ∧
      (t.stream m.sid).prod = some { r with peer := m.loc, pmc := m.mc, hold := none } ∧
      Spec.posted (Spec.taken s (.moved m)) t m.old (.redirected ⟨m.old, m.sid, m.mc, r.nseq⟩)) ∧
  (∀ (s : State) (m : MoveMsg) (f : FwdRec) (d : BitVec 12), m.dst = s.fabid → (s.stream m.sid).fprod = some f → f.mc = m.mc →
    f.dest = some d → ∃ t : State, exec (.movedAcknowledgement m) s = .next t ∧ (t.stream m.sid).fprod = none ∧
      (t.stream m.sid).went = some d) ∧
  (∀ (s : State) (m : RedirMsg) (f : FwdRec), m.dst = s.fabid → (s.stream m.sid).fcons = some f → f.bnd = none →
    (f.dest = none → ∃ t : State, exec (.redirected m) s = .next t ∧
      (t.stream m.sid).fcons = some (if f.mc = m.mc then { f with bnd := some m.bnd } else f)) ∧
    (∀ d, f.mc = m.mc → f.dest = some d → later m.bnd f.base = false → ∃ t : State, exec (.redirected m) s = .next t ∧
      (t.stream m.sid).fcons = none ∧
      Spec.posted (Spec.taken s (.redirected m)) t d (.drained ⟨d, m.sid, true, f.mc, d, s.fabid⟩))) ∧
  (∀ (s : State) (m : MoveMsg) (r : EndRec), m.dst = s.fabid → (s.stream m.sid).cons = some r → ∃ t : State,
    exec (.drained m) s = .next t ∧
    (t.stream m.sid).cons = some (if r.old.map Prod.fst = some m.mc then { r with old := none } else r)) ∧
  (∀ (s : State) (sid : StreamId) (r : EndRec) (n : Nat) (f : BitVec 12), (s.stream sid).cons = some r → r.hold = some (n, f) →
    n ≤ s.dtime → r.state = 0 → sid.hmod = s.fabid → s.endStored sid false = false →
    (∀ p, (s.stream sid).prod = some p → p.hold = none) → ∃ t : State, exec (.orphanHoldoffExpiry sid) s = .next t ∧
      ∃ r', (t.stream sid).cons = some r' ∧ r'.state = 2 ∧ r'.hold = none) ∧
  (∀ (s : State) (m : NoteMsg) (r : EndRec), m.dst = s.fabid → (s.stream m.sid).cons = some r → ∃ t : State,
    exec (.belayNote m) s = .next t ∧ (t.stream m.sid).cons = some { r with note := some m.part }) ∧
  (∀ (s : State) (f : BitVec 12) (j : Nat) (x : Journal), Spec.quiet s → s.hub.streams = [] → s.hub.rings = [] → s.hub.jrecs = [] →
    s.hub.journals = [(j, x)] → x.live = true → x.part = f → x.state ≠ 1 → ∃ t : State,
      exec (.moduleDownNotice f) s = .next t ∧ f ∈ t.hub.downMods ∧
      t.journal j = some { x with state := 3, prev := 3, sent := none })

/-- R346 to R356, R362: journals. A module hosts a ring in the lowest slot that offers it, or refuses; a jopen's answer binds the end, its want
within 1 ms frees the entry; an append is written into the ring and acknowledged, and its acknowledgement makes the step held; a
record is read back for jrec, whose result lands; a release advances or frees the ring, a notice leaves the journal without a partner;
and a ring is copied at a jpart.
The model's own choices in it: log 57 (rollback, adoption and records). -/
def Obligations.JournalEvents : Prop :=
  (∀ (s : State) (m : RingReq), m.dst = s.fabid →
    let z := Spec.taken s (.ringReq m)
    let offers := fun (k : Nat) => (s.bjhost k).getLsbD 63 = true ∧ (s.bjhost k).setWidth 16 = m.ftag
    let answer := fun (t : State) (ok : Bool) => Spec.posted z t m.iss (.ringAns ⟨m.iss, s.fabid, m.jidx, ok⟩)
    (∀ n e u, n < 16 → offers n → (∀ k < n, ¬ offers k) → s.freeEntry = some e → z.hostRing (BitVec.ofNat 4 n) (some e) m = some u →
      ∃ t : State, exec (.ringHostRequest m) s = .next t ∧ answer t true ∧ t.hub.rings = u.hub.rings) ∧
    ((∀ k < 16, ¬ offers k) → ∃ t : State, exec (.ringHostRequest m) s = .next t ∧ answer t false ∧ t.hub.rings = s.hub.rings)) ∧
  (∀ (s : State) (m : RingAns) (o : JOp) (d : Packet64) (x : Journal) (r : EndRec) (n : Nat), m.dst = s.fabid → m.ok = true →
    s.hub.jops = [o] → o.stage = .asked n → o.body = .jopen d → o.jidx = m.jidx.toNat → o.asked = m.part →
    s.journal o.jidx = some x → (s.stream x.sid).prod = some r → x.sid = handleSid (d.extractLsb' 64 64) →
    handleCons (d.extractLsb' 64 64) = false → r.chk = handleChk (d.extractLsb' 64 64) → r.journal = none → r.state ≠ 1 → r.queue = [] →
    ∃ t : State, exec (.ringHostAnswer m) s = .next t ∧
      (∃ chk, chk ≠ 0 ∧ t.journal o.jidx = some { x with live := true, chk := chk, neseq := r.nseq }) ∧
      (t.stream x.sid).prod = some { r with journal := some o.jidx } ∧ t.hub.jops = []) ∧
  (∀ (s : State) (j : BitVec 12) (o : JOp) (d : Packet64) (n : Nat), s.hub.jops = [o] → o.stage = .asked n → o.body = .jopen d →
    o.jidx = j.toNat → n + 1000000 ≤ s.dtime → ∃ t : State, exec (.ringHostTimeout j) s = .next t ∧
      t.journal o.jidx = none ∧ t.hub.jops = []) ∧
  (∀ (s : State) (m : AppendMsg) (r : Ring), m.dst = s.fabid → m.iss ≠ s.fabid → s.ringOf m.iss m.jidx = some r →
    r.gen = s.gen r.slot →
    let z := Spec.taken s (.append m)
    let step : BitVec 32 := m.recd.extractLsb' 64 32
    ∃ t : State, exec (.journalAppend m) s = .next t ∧
      t.mem = (z.homeWrites ⟨some r.slot, r.gen, false, 0, 0⟩ (r.addr + 64 * (step.toNat % 2 ^ r.capc.toNat)) (bytesOf m.recd 64)).mem ∧
      t.ringOf m.iss m.jidx = some { r with tail := step + 1, neseq := m.recd.extractLsb' 192 32 + 1, holder := m.holder } ∧
      Spec.posted z t m.iss (.appendAck ⟨m.iss, s.fabid, m.jidx, step, true⟩)) ∧
  (∀ (s : State) (m : AppendAck) (x : Journal) (y : Packet64), m.dst = s.fabid → Spec.quiet s → s.journal m.jidx.toNat = some x →
    x.sent = some (m.step, y) → x.part = m.part → m.ok = true → ∃ t : State, exec (.appendAcknowledgement m) s = .next t ∧
      t.journal m.jidx.toNat = some { x with
        tail := m.step + 1, neseq := x.neseq + 1, recs := Tab.set x.recs m.step.toNat y, sent := none }) ∧
  (∀ (s : State) (m : JrecReq) (r : Ring) (d : Packet64), m.dst = s.fabid →
    s.hub.rings.find? (fun r => r.iss == m.iss && r.jidx == m.jidx) = some r → r.gen = s.gen r.slot →
    later r.cstep m.step = false → later r.tail m.step = true → s.ringRec r m.step = some d → ∃ t : State,
      exec (.jrecRequest m) s = .next t ∧
      Spec.posted (Spec.taken s (.jrecReq m)) t m.iss (.jrecRep ⟨m.iss, s.fabid, m.jidx, m.token, true, d, false⟩)) ∧
  (∀ (s : State) (m : JrecRep) (ci n : Nat) (p : BitVec 12) (c : Nat) (y : Pend), m.dst = s.fabid → m.stale = false → m.held = true →
    s.hub.jrecs.find? (fun x => x.2.1 == m.token) = some (ci, m.token, p, c) → n < 64 → (s.ctx ci).bank.pends (.v n) = [y] →
    ((s.ctx ci).landDue s.cycle).bank.pends (.v n) = [y] →
    y.tok = m.token → (∀ k, k ≠ ci → (s.ctx k).bank.waiting m.token = [] ∧ (s.ctx k).shadow.bank.waiting m.token = []) →
    ∃ t : State, exec (.jrecReply m) s = .next t ∧ (t.ctx ci).bank.getV n = { data := ((1 : BitVec 512) ++ m.recd).setWidth 1024 } ∧
      (t.ctx ci).bank.pends (.v n) = [] ∧ ∀ x ∈ t.hub.jrecs, x.2.1 ≠ m.token) ∧
  (∀ (s : State) (m : ReleaseMsg) (r : Ring), m.dst = s.fabid → s.hub.rings = [r] → r.iss = m.iss → r.jidx = m.jidx →
    (m.all = true → ∃ t : State, exec (.releaseMessage m) s = .next t ∧ t.hub.rings = []) ∧
    (m.all = false → ∃ t : State, exec (.releaseMessage m) s = .next t ∧
      t.hub.rings = [{ r with cstep := m.step, ckpt := m.ckpt }])) ∧
  (∀ (s : State) (m : NoticeMsg) (x : Journal), Spec.quiet s → m.dst = s.fabid → s.journal m.jidx.toNat = some x → x.part = m.part → x.iss = s.fabid →
    ∃ t : State, exec (.releaseNotice m) s = .next t ∧
      t.journal m.jidx.toNat = some { x with state := 3, prev := 3, sent := none }) ∧
  (∀ (s : State) (m : CopyMsg) (r : Ring), m.dst = s.fabid → s.hub.rings = [r] → r.iss = m.iss → r.jidx = m.jidx → m.done = false →
    let z := Spec.taken s (.copy m)
    let acc : Acc := ⟨some r.slot, r.gen, false, 0, 0⟩
    let at' := fun (i : Nat) => r.addr + 64 * ((m.cstep + BitVec.ofNat 32 i).toNat % 2 ^ r.capc.toNat)
    let rec' := fun (i : Nat) => (ofBytes 512 ((s.homeReads acc (at' i) 64).map Prod.fst) : Packet64)
    (m.recs = [] → (∀ i < (m.tail - m.cstep).toNat, recOk (rec' i) = true) → ∃ t : State, exec (.ringCopy m) s = .next t ∧
      Spec.posted z t m.newp (.copy { m with dst := m.newp, recs := (List.range (m.tail - m.cstep).toNat).map rec' })) ∧
    (∀ d, m.recs = [d] → r.gen = s.gen r.slot → ∃ t : State, exec (.ringCopy m) s = .next t ∧
      t.mem = (z.homeWrites acc (at' 0) (bytesOf d 64)).mem ∧
      Spec.posted z t m.iss (.copy { m with dst := m.iss, recs := [], done := true })))

namespace Sys2Proof.Spec

open Sys2Proof.Machine

/-- Nothing that the shootdown x, begun when bundle number n was next, has to wait for is under way (R120). -/
def settled (s : State) (x : Shot) (n : Nat) : Prop :=
  ∀ c ∈ s.ctxs, (∀ l ∈ c.2.loads, x.hits l.h = true → n ≤ l.seq) ∧
    ∀ p ∈ c.2.path, ∀ i ∈ p.step1, ∀ h, i.pageHandle = some h → x.hits h = true → n ≤ i.seq
/-- No remote access that the shootdown x finds, its token below one, waits to be sent or for its reply (R120, R291). -/
def remoteSettled (s : State) (x : Shot) (tok : Nat) : Prop :=
  (∀ w ∈ s.hub.waiting, w.2.2.kind ≠ 6 → x.hits w.2.2.h = true → tok < w.2.1) ∧
    ∀ t ∈ s.hub.tags, ∀ w, t.2.req = some w → w.2.2.kind ≠ 6 → x.hits w.2.2.h = true → tok < w.2.1
/-- The four contexts of a core are free. -/
def idle (s : State) (core : Nat) : Prop := ∀ i < 4, (s.ctx (4 * core + i)).st = .free

end Sys2Proof.Spec

/-- R120, R238: a shootdown revokes every valid handle of the slot and page it names, the tile sequencers' copies among them, drops
the translations of that page from every core, and reads busy; it completes once the accesses that passed their checks earlier are done: no L1 and no RDC holds a line of its
pages, and busy reads 0.
The model's own choices in it: log 66 (the pages a shootdown covers, when SDVA is read). -/
def Obligations.ShootdownEvents : Prop :=
  ∀ (s : State) (d : BitVec 2) (v : Word),
    let y := s.die d.toNat
    (y.sdctl.getLsbD 63 = false → v.getLsbD 63 = true → field v 9 54 = 0 → (field v 0 4 ≤ 9 ∨ v.getLsbD 8 = true) →
      let x := shotOf y.sdva v
      ∃ t : State, exec (.shootdown d v) s = .next t ∧ (t.die d.toNat).sdctl = v ∧ t.mem = s.mem ∧
        (∀ i r, let h := Tab.get ({} : Handle) (s.ctx i).bank.h r
          Tab.get ({} : Handle) (t.ctx i).bank.h r = if h.st = .valid ∧ x.hits h = true then { h with st := .revoked } else h) ∧
        (∀ k, let h := (s.core k).ts.h
          (t.core k).ts.h = if h.st = .valid ∧ x.hits h = true then { h with st := .revoked } else h) ∧
        ∀ k, ∀ e ∈ (t.core k).tc, e.slot = x.slot →
          ∃ p, x.page = some p ∧ rangesMeet p (e.page, pageBytes e.leaf.ps.toNat) = false) ∧
    (y.sdctl.getLsbD 63 = true → let x := shotOf y.sdPage y.sdctl
      Spec.settled s x y.sdSeq → Spec.remoteSettled s x y.sdTok →
      ∃ t : State, exec (.shootdownComplete d) s = .next t ∧ (t.die d.toNat).sdctl.getLsbD 63 = false ∧
        (∀ k, ∀ c ∈ (t.core k).l1, lineIn y.sdPages c = false) ∧ ∀ e < 4, ∀ c ∈ (t.die e).rdc, lineIn y.sdPages c = false)

/-- R303, R304, R306, R307, R313 to R315: an increment moves the generation on and ends every unit of the slot's cores, and is denied
where the distance from the floor leaves no room; the on-chip sweep leaves of the storage of those cores what was written under the new
generation, the rest in its zero form, and clears busy; an idle core takes a new slot with its storage in the zero form; a block reassigned reads as zeros under its new owner's
generation, and no L1 and no RDC holds a line of it.
The model's own choices in it: log 4 and 66 (zero contents, what is counted). -/
def Obligations.TenancyEvents : Prop :=
  ∀ (s : State),
    (∀ (slot : BitVec 4) (v : Word), let y := s.tslot slot.toNat
      v.getLsbD 0 = true → field v 1 61 = 0 → y.busy = false →
      (4095 ≤ (y.gen + 1 - y.floor).toNat →
        exec (.genAdvance slot v) s = .next (s.modTslot slot.toNat fun t => { t with deny := true })) ∧
      ((y.gen + 1 - y.floor).toNat < 4095 → ∃ t : State, exec (.genAdvance slot v) s = .next t ∧
        (t.tslot slot.toNat).gen = y.gen + 1 ∧ (t.tslot slot.toNat).busy = true ∧ (t.tslot slot.toNat).deny = false ∧
        t.mem = s.mem ∧ ∀ k < 128, s.coreSlot k = slot → Spec.idle t k)) ∧
    (∀ slot : BitVec 4, (s.tslot slot.toNat).busy = true → ∃ t : State, exec (.onchipSweepComplete slot) s = .next t ∧
      (t.tslot slot.toNat).busy = false ∧ (t.tslot slot.toNat).gen = s.gen slot ∧
      ∀ k ∈ s.coresOf slot, let g := s.gen slot
        (t.core k).tiles = (s.core k).tiles.filter (fun e => e.2.stamp == g) ∧
        (t.core k).bslots = (s.core k).bslots.filter (fun e => e.2.gen == g) ∧
        (∀ e ∈ (t.core k).dict, ∃ d, e.2 = some d ∧ d.stamp = g) ∧ ∀ x ∈ (t.core k).deque, x.gen = g) ∧
    (∀ (core : Nat) (v : Word), field v 4 59 = 0 →
      (Spec.idle s core → ∃ t : State, exec (.coreslotChange core v) s = .next t ∧ (t.core core).slot = v.setWidth 4 ∧
        (t.core core).q = [] ∧ (t.core core).spad = [] ∧ (t.core core).tiles = [] ∧ (t.core core).deque = [] ∧
        (t.core core).l1 = [] ∧ (t.core core).tc = []) ∧
      (¬ Spec.idle s core → exec (.coreslotChange core v) s = .next s)) ∧
    (∀ (d : BitVec 2) (v : Word), let owner := field v 24 5; let blk := field v 0 21; let sec := d.toNat * 2 ^ 30 + blk * 512
      v.getLsbD 63 = true → field v 29 34 = 0 → field v 21 3 = 0 → owner ≤ 16 → blk < 1572864 →
      ∃ t : State, exec (.blockReassign d v) s = .next t ∧ Tab.get 16 (t.die d.toNat).owner blk = BitVec.ofNat 5 owner ∧
        (∀ i < 65536, Tab.get 0 t.mem.bytes (128 * sec + i) = 0) ∧
        (∀ i < 512, Tab.get 0 t.mem.stamp (sec + i) = if owner = 16 then 0 else (s.tslot owner).gen) ∧
        (∀ k, ∀ c ∈ (t.core k).l1, paDie (1024 * c.line) ≠ d.toNat ∨ blockOf (1024 * c.line) ≠ blk) ∧
        ∀ e, ∀ c ∈ (t.die e).rdc, paDie (1024 * c.line) ≠ d.toNat ∨ blockOf (1024 * c.line) ≠ blk)

/-- R318 to R320, R404, R405, R416: the sweep of DRAM visits the next sector of a die: a stale one is zeroed under its owner's generation,
an uncorrectable one is poisoned with an error interrupt; when every die has finished, each slot's floor becomes its generation at the
start of the pass, and the next pass begins; SWCTL takes a deadline in its range. A CSAVE of a quiet core writes its
image and reports 0; a CREST reads the semaphores back from the image.
The model's own choices in it: log 43 and 61 (the layout of an image, errors that enter with a visit). -/
def Obligations.SweepAndImageEvents : Prop :=
  ∀ (s : State),
    (∀ d : BitVec 2, let y := s.die d.toNat; let sec := d.toNat * 2 ^ 30 + y.swpos
      y.passDone = false →
      (∀ cell : List SymErr, s.readCell sec cell = .clean → ∃ t : State, exec (.sweepVisit d cell) s = .next t ∧ (t.die d.toNat).swpos = y.swpos + 1 ∧
        ((t.die d.toNat).passDone = true ↔ dieSectors ≤ y.swpos + 1) ∧
        (s.staleSector (128 * sec) = false → t.mem = s.mem) ∧
        (s.staleSector (128 * sec) = true → (∀ i < 128, Tab.get 0 t.mem.bytes (128 * sec + i) = 0) ∧
          Tab.get 0 t.mem.stamp sec = (s.tslot (s.owner (128 * sec))).gen ∧ Tab.get false t.mem.poison sec = false)) ∧
      ∀ cell : List SymErr, s.readCell sec cell = .uncorrectable →
        ∃ t : State, exec (.sweepVisit d cell) s = .next t ∧ (t.die d.toNat).swpos = y.swpos + 1 ∧
        Tab.get false t.mem.poison sec = true ∧ t.hub.irqs = s.hub.irqs ++ [2]) ∧
    ((∀ d < 4, (s.die d).passDone = true) → ∃ u : State, exec .passEnd s = .next ((List.range 16).foldl State.retryLock u) ∧
      (∀ k < 16, (u.tslot k).gen = (s.tslot k).gen ∧ (u.tslot k).floor = (s.tslot k).pstart ∧
        (u.tslot k).pstart = (s.tslot k).gen) ∧
      (∀ d < 4, (u.die d).swpos = 0 ∧ (u.die d).passDone = false) ∧ u.mem = s.mem) ∧
    (∀ v : Word, field v 32 32 = 0 → 60 ≤ v.toNat → v.toNat ≤ 172800 → ∃ t : State, exec (.swctlWrite v) s = .next t ∧
      t.hubReg 0x3800 = v ∧ t.mem = s.mem) ∧
    (∀ (core : Nat) (v : Word), let img := field v 12 27 * 4096
      csReserved v = false → v.getLsbD 63 = true → Spec.idle s core → s.imageOwned core img = true →
      ((s.core core).csave.getLsbD 63 = false → (s.seqr core).run = false → (s.core core).mops = [] → (s.core core).macts = [] →
        ∃ t : State, exec (.csave core v) s = .next t ∧ (t.core core).csave = csDone v 0 ∧
          t.ctxs = s.ctxs ∧
          t.mem = ((s.modCore core fun k => { k with csave := setField v 60 3 0 }).csaveWrite core img).mem) ∧
      ∃ t : State, exec (.crest core v) s = .next t ∧
        ((t.core core).crest = csDone v 0 ∨ (t.core core).crest = csDone v 3) ∧ t.mem = s.mem ∧
        ∀ i < 256, t.sem core (BitVec.ofNat 8 i) = natOfBytes ((s.imageRead core (img + 2 * i) 2).map Prod.fst))

namespace Sys2Proof.Spec

open Sys2Proof.Machine

/-- A command word of the work table: its OP, with no reserved bit (R367). -/
def woCommand (v : Word) (op : Nat) : Prop := field v 32 12 = 0 ∧ field v 60 3 = op
/-- The result of the last command of the work table (R367). -/
def woRes (t : State) (r : Nat) : Prop := field (t.hubReg 0x7000) 44 4 = r
/-- The unit of context ci belongs to launch i of a slot. -/
def unitIn (s : State) (ci i : Nat) (slot : BitVec 4) : Prop := (s.ctx ci).lobj.toNat = i ∧ s.coreSlot (ci / 4) = slot
/-- Context ci has started the unit of bind record r (R377). -/
def started (s t : State) (core i : Nat) (r : Packet64) : Prop :=
  let c := t.ctx (4 * core + i)
  c.st ≠ .free ∧ c.uid = r.extractLsb' 288 32 ∧ c.lid = r.extractLsb' 128 64 ∧ c.lobj = r.extractLsb' 276 12 ∧
  c.next = {} ∧ c.bank = {} ∧ c.kern = kernelOf (s.dispatchRead core (field r 320 39)) (field r 264 12) (field r 252 12 + 1) ∧
  (∀ n < 8, Tab.get 0 c.la n = (s.dispatchRead core (field r 384 39)).extractLsb' (64 * n) 64) ∧ field (t.row core i) 0 4 = 1

end Sys2Proof.Spec

/-- R366 to R371: the commands of the work table. Create makes a live object of the staged image, with its counts cleared, sealed with
as many units outstanding as the image says where it is a launch; seal, add, cancel and free act on an object in the right state. A
command that finds its object in another state reports 1 and changes no object. A cancelled launch has the units of its blocked contexts killed.
The model's own choices in it: log 12 (BUSY is never seen set). -/
def Obligations.WorkObjectCommands : Prop :=
  ∀ (s : State) (v : Word), let i := woIdx v; let o := s.wobj i; let w := s.hub.wostage
    (Spec.woCommand v 1 →
      (woState o = 0 → s.woRefused w = false → ∃ t : State, exec (.woCreate v) s = .next t ∧ Spec.woRes t 0 ∧
        let n := t.wobj i
        woState n = 1 ∧ woKind n = woKind w ∧ woSlot n = woSlot w ∧ woNfail n = 0 ∧ n.getLsbD 225 = false ∧
        (n.getLsbD 226 = true ↔ woKind w = 0) ∧ woPend n = if woKind w = 0 then field w 296 24 else 0) ∧
      (woState o = 0 → s.woRefused w = true → ∃ t : State, exec (.woCreate v) s = .next t ∧ Spec.woRes t 2 ∧
        t.hub.wobj = s.hub.wobj) ∧
      (woState o ≠ 0 → ∃ t : State, exec (.woCreate v) s = .next t ∧ Spec.woRes t 1 ∧ t.hub.wobj = s.hub.wobj)) ∧
    (Spec.woCommand v 2 → woState o = 1 → ∃ t : State, exec (.woSeal v) s = .next t ∧ Spec.woRes t 0 ∧
      (t.wobj i).getLsbD 226 = true ∧ woState (t.wobj i) = if woPend o = 0 then 2 else 1) ∧
    (Spec.woCommand v 3 → woState o = 1 → o.getLsbD 226 = false → ∃ t : State, exec (.woAdd v) s = .next t ∧ Spec.woRes t 0 ∧
      woPend (t.wobj i) = min (woPend o + field v 0 32) (2 ^ 32 - 1)) ∧
    (Spec.woCommand v 4 → woState o = 1 → ∃ t : State, exec (.woCancel v) s = .next t ∧ Spec.woRes t 0 ∧
      (t.wobj i).getLsbD 225 = true ∧
      (woKind o = 0 → ∀ ci b, (s.ctx ci).st = .blocked b → Spec.unitIn s ci i (woSlot o) → (t.ctx ci).st = .free)) ∧
    (Spec.woCommand v 5 → woState o = 2 → ∃ t : State, exec (.woFree v) s = .next t ∧ Spec.woRes t 0 ∧ t.wobj i = 0) ∧
    (∀ e ∈ [(Instr.woSeal v, 2, 1), (.woCancel v, 4, 1), (.woFree v, 5, 2)], Spec.woCommand v e.2.1 → woState o ≠ e.2.2 →
      ∃ t : State, exec e.1 s = .next t ∧ Spec.woRes t 1 ∧ t.hub.wobj = s.hub.wobj) ∧
    (Spec.woCommand v 3 → woState o ≠ 1 ∨ o.getLsbD 226 = true →
      ∃ t : State, exec (.woAdd v) s = .next t ∧ Spec.woRes t 1 ∧ t.hub.wobj = s.hub.wobj)

/-- R367, R372 to R377: Mortan takes the next packet of a work queue that has no launch half placed, makes its launch a live object and commits bind records at the
places it chooses, or refuses the packet with its RSTAT and no object; a GO commits a row; dispatch starts the
unit of a record that passes its checks, with its registers cleared at code address 0, and marks another refused with the reason; a pending entry starts in the
lowest free context.
The model's own choices in it: log 42, 58, 59 and 65 (readings of binds and launch packets, the choice of places, no wait for the boot). -/
def Obligations.DispatchEvents : Prop :=
  ∀ (s : State),
    (∀ (wq : Nat) (obj : BitVec 12) (places : List Place), let cfg := s.wqcfg wq; let i := (s.physWord (eqBase cfg + 8)).toNat
      let pa := entryAddr cfg i
      let p : Packet64 := ofBytes 512 ((s.homeReads hwAcc pa 64).map Prod.fst)
      wq < 64 → s.launchOf wq = none → cfg.getLsbD 63 = true → i < (s.physWord (eqBase cfg)).toNat → field p 29 3 = i / eqSize cfg % 8 →
      (s.launchStat p = 1 → woState (s.wobj obj.toNat) = 0 → ∃ t : State, exec (.launchPacket wq obj places) s = .next t ∧
        (let n := t.wobj obj.toNat
         woState n = 1 ∧ woKind n = 0 ∧ woSlot n = p.extractLsb' 48 4 ∧ woPend n = field p 248 24 ∧ n.getLsbD 226 = true) ∧
        ∀ (x : Place) (k : BitVec 2), places = [x] → x.row = some k.toNat → s.placeOk p x = true → (s.ctx (4 * x.core + k.toNat)).st = .free →
          k.toNat ∈ (t.core x.core).goRows) ∧
      (s.launchStat p ≠ 1 → exec (.launchPacket wq obj places) s = .next
        ((s.homeWrites hwAcc pa (bytesOf (setField (setField p 76 4 (s.launchStat p)) 64 12 0) 64)).homeWrites hwAcc
          (eqBase cfg + 8) (bytesOf (BitVec.ofNat 64 (i + 1)) 8)))) ∧
    (∀ (core i : Nat) (v : Packet64), i < 12 → ∃ t : State, exec (.go core i v) s = .next t ∧
      (t.row core i).extractLsb' 128 384 = v.extractLsb' 128 384 ∧
      (v.getLsbD 8 = true → (i < 4 → (s.ctx (4 * core + i)).st = .free → i ∈ (t.core core).goRows) ∧
        (4 ≤ i → i ∈ (t.core core).goPend)) ∧
      (v.getLsbD 8 = false → (t.core core).goRows = (s.core core).goRows ∧ (t.core core).goPend = (s.core core).goPend)) ∧
    (∀ core i : Nat, let z := s.modCore core fun k => { k with goRows := k.goRows.filter (· != i) }; let r := z.row core i
      i ∈ (s.core core).goRows → (s.core core).parked = false → (s.ctx (4 * core + i)).st = .free → i < 4 →
      (z.bindWhy core r = 0 → r.getLsbD 248 = false → ∃ t : State, exec (.dispatchBind core i) s = .next t ∧
        Spec.started s t core i r ∧ i ∉ (t.core core).goRows) ∧
      (z.bindWhy core r ≠ 0 → ∃ t : State, exec (.dispatchBind core i) s = .next t ∧ field (t.row core i) 0 4 = 3 ∧
        field (t.row core i) 12 4 = z.bindWhy core r ∧ i ∉ (t.core core).goRows)) ∧
    (∀ (core e i : Nat) (rest : List Nat), let z := s.modCore core fun k => { k with goPend := rest }; let r := z.row core e
      (s.core core).goPend = e :: rest → s.freeCtx core = some i → 4 ≤ e → (s.core core).parked = false →
      z.bindWhy core r = 0 → r.getLsbD 248 = false → ∃ t : State, exec (.pendingBind core) s = .next t ∧
        Spec.started s t core i r ∧ (t.core core).goPend = rest ∧ t.row core e = 0)

namespace Sys2Proof.Spec

open Sys2Proof.Machine

/-- A caddy command in the mailbox of its own world (R430). -/
def mailed (mbox world : BitVec 2) (v : Word) (cmd : Nat) : Prop :=
  mbox = world ∧ mbox ≠ 3 ∧ field v 39 2 = 0 ∧ v.getLsbD 63 = true ∧ field v 56 4 = cmd
/-- The mailbox has its answer: RES, and busy 0 (R430). -/
def answered (t : State) (mbox : BitVec 2) (res : Nat) : Prop :=
  let v := Tab.get 0 t.hub.caddy.mbox mbox.toNat
  field v 60 3 = res ∧ v.getLsbD 63 = false
/-- The key of a place exists, or does not (R423). -/
def keyAt (s : State) (place : Nat) : Nat := Tab.get 0 s.hub.keys place
/-- A block of the die; no other is a candidate or migrates, and a spare is free (R300, R417). -/
def retirable (y : Die) (blk : Nat) : Prop :=
  blk < dieBlocks ∧ y.migr = none ∧ y.cands = [] ∧ field y.rtctl 41 11 ≠ 0

end Sys2Proof.Spec

/-- R288, R300, R410, R412, R414, R415, R417, R418, R428: an on-chip word that is corrected is counted, and one that is not poisons its
register; a sector that cannot be decoded is poisoned with an error interrupt; an on-chip packet that is rejected is counted. A burst that passes parity after k retries is logged
with k; one that fails five times moves its failing wires to spares and goes again, or fails for good: a read is then delivered poisoned,
and the stored codewords keep. A migration copies, holds and switches its block to the spare, and a hold ends after 2 us; a retirement request starts a migration; any write
clears a counter, and 0 clears a LAST register.
The model's own choices in it: log 61 and 62 (errors enter as flipped bits, the order of symbols and wires, when a hold begins). -/
def Obligations.ReliabilityEvents : Prop :=
  ∀ (s : State),
    (∀ b : Burst, let d := burstDie b; let y := s.die d; let ch := channelOf b.line.toNat; let used := y.laneUsed ch
      (burstPasses b used = some 0 → burstFlips b used 0 = [] → exec (.parityRetry b) s = .next s) ∧
      (∀ k, 1 ≤ k → burstPasses b used = some k → burstFlips b used k = [] → ∃ t : State, exec (.parityRetry b) s = .next t ∧
        t.mem = s.mem ∧ t.burst = s.burst ∧
        field (Tab.get 0 (t.die d).regs 0x2118) 0 32 = min (field (Tab.get 0 y.regs 0x2118) 0 32 + k) (2 ^ 32 - 1) ∧
        let l := Tab.get 0 (t.die d).regs 0x2120
        l.getLsbD 63 = true ∧ field l 59 3 = k ∧ field l 57 2 = 0 ∧ field l 10 29 = b.line.toNat) ∧
      (burstPasses b used = none → let now := used ++ b.wires.map fun w => ((failGroup (burstFlips b used 4)).getD 0, w)
        (b.wires ≠ [] → now.length ≤ 16 → burstFlips b now 5 = [] → ∃ t : State, exec (.laneSwap b) s = .next t ∧
          (t.die d).laneUsed ch = now ∧ t.mem = s.mem ∧ t.burst = s.burst ∧ t.hub.irqs = s.hub.irqs ++ [2]) ∧
        (b.wires = [] ∨ 16 < now.length → ∃ t : State, exec (.laneSwap b) s = .next t ∧ (t.die d).laneUsed ch = used ∧
          t.hub.irqs = s.hub.irqs ++ [2] ∧ t.mem = s.mem ∧ t.burst = if b.write then s.burst else b.line.toNat :: s.burst))) ∧
    (∀ (d : BitVec 2) (g : Migr) (n : Nat), let y := s.die d.toNat
      let put := fun x : Migr => s.modDie d.toNat fun y => { y with migr := some x }
      y.migr = some g →
      (g.hold = none → g.copied < 512 → exec (.migration d n) s = .next (put { g with copied := min 512 (g.copied + n) })) ∧
      (g.hold = none → 512 ≤ g.copied → g.dirty = 0 → exec (.migration d 0) s = .next (put { g with hold := some s.dtime })) ∧
      (g.hold = none → 512 ≤ g.copied → 512 ≤ n → exec (.migration d n) s = .next (put { g with dirty := 0 })) ∧
      (∀ h, g.hold = some h → (∃ t : State, exec (.migration d n) s = .next t ∧
          Tab.get 0 (t.die d.toNat).remap g.src = g.dst ∧ t.mem = s.mem) ∧
        (h + 2000 ≤ s.dtime → exec (.migrationHoldTimeout d) s = .next (put { g with hold := none })))) ∧
    (∀ (d : BitVec 2) (v : Word), let y := s.die d.toNat
      v.getLsbD 62 = true → v.getLsbD 63 = true → Spec.retirable y (field v 0 21) →
      ∃ t : State, exec (.retireRequest d v) s = .next t ∧ (t.die d.toNat).migr.map (·.src) = some (field v 0 21) ∧
        field (t.die d.toNat).rtctl 41 11 = field y.rtctl 41 11 - 1 ∧ t.mem = s.mem) ∧
    (∀ (d : BitVec 2) (off : BitVec 16) (v : Word),
      isErrCounter off.toNat = true ∨ (isErrLast off.toNat = true ∧ v = 0) → ∃ t : State, exec (.errorLogClear d off v) s = .next t ∧
        Tab.get 0 (t.die d.toNat).regs off.toNat = 0 ∧
        ∀ o, o ≠ off.toNat → Tab.get 0 (t.die d.toNat).regs o = Tab.get 0 (s.die d.toNat).regs o) ∧
    (∀ e ∈ [(Instr.latecntWrite, 0x10), (.authcntWrite, 0xB080)], ∀ v : Word, ∃ t : State, exec (e.1 v) s = .next t ∧
      t.hubReg e.2 = 0 ∧ ∀ o, o ≠ e.2 → t.hubReg o = s.hubReg o) ∧
    (∀ (c : Nat) (r : Reg), c < 512 → let t := s.upset (.sram (.reg c r) true)
      (t.ctx c).bank.mark r = .poison ∧ t.mem = s.mem) ∧
    (∀ g : Granule, g.there = true → let t := s.upset (.sram g false)
      field (Tab.get 0 (t.die g.die).regs 0x2308) 0 32 = min (field (Tab.get 0 (s.die g.die).regs 0x2308) 0 32 + 1) (2 ^ 32 - 1) ∧
      t.mem = s.mem) ∧
    (∀ (sec : Nat) (errs : List SymErr) (copy : Bool), populated (128 * sec) = true → s.readCell sec errs = .uncorrectable →
      let t := s.upset (.cell sec errs copy)
      Tab.get false t.mem.poison sec = true ∧ t.hub.irqs = s.hub.irqs ++ [2]) ∧
    (∀ (sec : Nat) (write : Bool), populated (128 * sec) = true → let t := s.upset (.packet sec write false)
      (t.hubReg 0xB080).toNat = min ((s.hubReg 0xB080).toNat + 1) (2 ^ 32 - 1) ∧ t.mem = s.mem)

/-- R420, R423, R428, R430 to R438: the caddy. A slot of no core changes its world, and its private keys are gone. A mailbox
command of its own world makes a random key, unwraps one, drops one, replaces a certificate with a new version, or
puts the module to sleep with its keys in the retained domain; a wake with the same measurements returns them. A verifier's message at the
head of the queue is answered: a challenge with a report signed by the next leaf, a request with the certificate, an import with its key kept.
The model's own choices in it: log 13, 21 and 63 (keys by number, the identity's secrets, the answers of the mailbox). -/
def Obligations.CaddyEvents : Prop :=
  ∀ (s : State), let c := s.hub.caddy
    (∀ (slot : BitVec 4) (v : Word), field v 0 62 = 0 → v.getLsbD 63 ≠ s.prot slot.toNat → (∀ k < 128, s.coreSlot k ≠ slot) →
      ∃ t : State, exec (.wldcfgWrite slot 1 v) s = .next t ∧ t.prot slot.toNat = v.getLsbD 63 ∧
        ∀ k, 1 ≤ k → k < 128 → ∀ w < 2, Spec.keyAt t (keyCode w slot.toNat k) = 0) ∧
    (∀ (mbox world : BitVec 2) (v : Word), let w := mbox.toNat; let m := mboxOf v; let place := keyCode w m.slot m.key
      let own := 1 ≤ m.key ∧ m.key < 128 ∧ s.slotWorld m.slot = w
      (Spec.mailed mbox world v 1 → own → ∃ t : State, exec (.kgen mbox world v) s = .next t ∧ Spec.answered t mbox 0 ∧
        Spec.keyAt t place ≠ 0 ∧ ∀ p, p ≠ place → Spec.keyAt t p = Spec.keyAt s p) ∧
      (Spec.mailed mbox world v 1 → 1 ≤ m.key → m.key < 128 → s.slotWorld m.slot ≠ w → ∃ t : State,
        exec (.kgen mbox world v) s = .next t ∧ Spec.answered t mbox 1 ∧ t.hub.keys = s.hub.keys) ∧
      (Spec.mailed mbox world v 2 → own → Tab.get 0 c.imports m.slot ≠ 0 →
        let key := keyUnwrap (BitVec.ofNat 256 (Tab.get 0 c.imports m.slot - 1)) (s.caddyRead m.addr 72)
        ∃ t : State, exec (.kimp mbox world v) s = .next t ∧ (∀ p, p ≠ place → Spec.keyAt t p = Spec.keyAt s p) ∧
          (∀ k, key = some k → Spec.answered t mbox 0 ∧ Spec.keyAt t place ≠ 0 ∧ keyBits (Spec.keyAt t place) = k) ∧
          (key = none → Spec.answered t mbox 3 ∧ t.hub.keys = s.hub.keys)) ∧
      (Spec.mailed mbox world v 3 → own → Spec.keyAt s place ≠ 0 → ∃ t : State, exec (.kdrop mbox world v) s = .next t ∧
        Spec.answered t mbox 0 ∧ Spec.keyAt t place = 0 ∧ ∀ p, p ≠ place → Spec.keyAt t p = Spec.keyAt s p) ∧
      (let n := natOfBytes (s.caddyRead m.addr 4)
       Spec.mailed mbox world v 4 → mbox = 1 → n ≤ 16384 → ∃ t : State, exec (.certw mbox world v) s = .next t ∧
        Spec.answered t mbox 0 ∧ Tab.get [] t.hub.caddy.certs m.cslot = s.caddyRead (m.addr + 4) n ∧
        Tab.get 0 t.hub.caddy.vers m.cslot = Tab.get 0 c.vers m.cslot + 1) ∧
      (Spec.mailed mbox world v 5 → mbox = 1 → (∀ e ∈ s.ctxs, e.2.st = .free) → c.asleep = false → ∃ t : State,
        exec (.sleepCommand mbox world v) s = .next t ∧ Spec.answered t mbox 0 ∧ t.hub.caddy.asleep = true ∧ t.hub.keys = [] ∧
        t.hub.caddy.imports = [] ∧ t.hub.caddy.fabKey = [] ∧ t.hub.caddy.psKey = none ∧ t.hub.power = .sleep ∧
        (∃ k, t.hub.caddy.wrapped = some k ∧ k.keys = s.hub.keys ∧ k.imports = c.imports ∧ k.pub = c.pub ∧ k.fabKey = c.fabKey ∧
          k.chipKey = c.chipKey ∧ k.psKey = c.psKey) ∧ t.hub.caddy.kept = c.meas)) ∧
    (∀ (images : List (BitVec 256)) (k : Sealed), s.hub.power = .sleep → c.wrapped = some k →
      (measureAll images = c.kept → ∃ t : State, exec (.wake images true) s = .next t ∧ t.hub.caddy.asleep = false ∧
        t.hub.power = .on ∧ t.hub.keys = k.keys ∧ t.hub.caddy.imports = k.imports ∧ t.hub.caddy.pub = k.pub ∧
        t.hub.caddy.fabKey = k.fabKey ∧ t.hub.caddy.psKey = k.psKey ∧ t.hub.caddy.meas = measureAll images) ∧
      ∃ t : State, exec (.wake images false) s = .next t ∧ t.hub.caddy.asleep = false ∧ t.hub.caddy.fabKey = [] ∧
        ∀ x : BitVec 4, s.prot x.toNat = true → t.gen x = s.gen x + 1 ∨ (Tab.get 0 t.hub.wldcfg x.toNat).getLsbD 62 = true) ∧
    (∀ (m : VerifierMsg) (ver : BitVec 32) (r : List (VerifierKind × VerifierMsg × BitVec 32)),
      (c.queue = (.chal, m, ver) :: r → s.bootFailed = false → c.leaf < 2 ^ 40 → Tab.get 0 c.vers m.cslot.toNat = ver →
        ∃ t : State, exec .chal s = .next t ∧ t.hub.caddy.queue = r ∧ t.hub.caddy.leaf = c.leaf + 1 ∧
          let body := s.reportBody 0 m.nonce m.cslot.toNat ver c.leaf
          let sig := hssSign c.seed c.leaf body
          sig.length = 5716 ∧ t.out = s.out ++ [.out (body ++ sig)]) ∧
      (c.queue = (.cert, m, ver) :: r → ∃ t : State, exec .cert s = .next t ∧ t.hub.caddy.queue = r ∧
        t.out = s.out ++ [.out (bytesOf (Tab.get 0 c.vers m.cslot.toNat) 4 ++ Tab.get [] c.certs m.cslot.toNat)]) ∧
      (c.queue = (.imp, m, ver) :: r → ∃ t : State, exec .importKey s = .next t ∧ t.hub.caddy.queue = r ∧
        Tab.get 0 t.hub.caddy.imports (importPlace m.world.toNat (m.slot.map BitVec.toNat)) = (Config.decap m.cipher).toNat + 1))

/-- R312, R439 to R450: the device. An outside agent reads and writes device memory under no slot; frames go where they belong; the
pins or an accepted datagram set the target of the power step, and each ceiling moves the clock and then the level by one; a
power-fail stops admission, and once all stands still leaves the module in self-refresh with its keys sealed; power that returns
in the window boots, where every image passes, and then resumes; after it the start is cold, with generations kept where the drained
set is whole; a boot without a drained set leaves an empty module.
The model's own choices in it: log 44 and 64 (partial register writes, phases of power and 100 MHz a step of the clock). -/
def Obligations.DeviceEvents : Prop :=
  ∀ (s : State), let h := s.hub
    (∀ (a : BusAccess) (w : BitVec 2) (i : Instr), (i = .hostAccess a ∧ w = 0) ∨ (i = .generalPurposeCoreAccess a ∧ w = a.world ∧ w ≠ 3) →
      (∀ x, a.pa.toNat ≤ x → x < a.pa.toNat + max a.n 8 → populated x = true ∧ blockAddr x = none) →
      (a.write = false → ∃ t : State, exec i s = .next t ∧ t.mem = s.mem ∧
        t.out = s.out ++ [.out ((s.homeReads (busAcc w.toNat) a.pa.toNat a.n).map Prod.fst)]) ∧
      (a.write = true → a.data.length = 8 → a.pa.toNat % 8 = 0 →
        exec i s = .next (s.homeWrites (busAcc w.toNat) a.pa.toNat a.data))) ∧
    (∀ (k : VerifierKind) (m : VerifierMsg), h.caddy.queue.length < 32 → ∃ t : State, exec (.managementFrame (.verifier k m)) s = .next t ∧
      t.hub.caddy.queue = h.caddy.queue ++ [(k, m, Tab.get 0 h.caddy.vers m.cslot.toNat)]) ∧
    (∀ l, s.bootFailed = false → ∃ t : State, exec (.managementFrame (.other l)) s = .next t ∧ t.hub.frames = h.frames ++ [l]) ∧
    (∀ level : BitVec 4, ∃ t : State, exec (.powerStepPins level) s = .next t ∧ t.level = s.level ∧ t.psTarget = level.toNat ∧
      t.psSrc = 1) ∧
    (∀ d : PowerDatagram, s.datagramOk d = true → ∃ t : State, exec (.powerStepDatagram d) s = .next t ∧
      (t.hubReg 0xC018).toNat = d.seq.toNat ∧ t.level = s.level ∧
      (h.pinTime ≠ some s.dtime → t.psTarget = d.level.toNat ∧ t.psSrc = 2) ∧ (h.pinTime = some s.dtime → t.psTarget = s.psTarget)) ∧
    ((s.psTarget < s.level → s.mhz ≤ clockOf (s.level - 1) → ∃ t : State, exec .ceilingApply s = .next t ∧ t.level = s.level - 1 ∧
        t.mhz = s.mhz ∧ t.psTarget = s.psTarget ∧ (s.level = 1 → ∀ k < 128, 4 ≤ k % 8 → (t.core k).parked = true)) ∧
      (s.psTarget < s.level → clockOf (s.level - 1) < s.mhz → exec .ceilingApply s = .next { s with mhz := max (clockOf (s.level - 1)) (s.mhz - 100) }) ∧
      (s.level ≤ s.psTarget → s.mhz < clockOf s.level →
        exec .ceilingApply s = .next { s with mhz := min (clockOf s.level) (s.mhz + 100) }) ∧
      (s.level < s.psTarget → clockOf s.level ≤ s.mhz → ∃ t : State, exec .ceilingApply s = .next t ∧ t.level = s.level + 1 ∧
        t.mhz = s.mhz ∧ t.psTarget = s.psTarget) ∧
      (s.level = s.psTarget → s.mhz = clockOf s.level → ∃ t : State, exec .ceilingApply s = .next t ∧ t.level = s.level ∧
        t.mhz = s.mhz ∧ (t.hubReg 0xC000).getLsbD 63 = false)) ∧
    ((h.power = .on → ∃ t : State, exec .powerFail s = .next t ∧ t.hub.down = true ∧ t.hub.power = .failing none ∧
        t.psTarget = s.level) ∧
      (h.power = .failing none → s.allQuiet = true → h.caddy.asleep = false → ∃ t : State, exec .powerFail s = .next t ∧
        t.hub.power = .refresh ∧ t.hub.caddy.asleep = true ∧ t.hub.keys = [] ∧ (∀ k, (t.core k).l1 = []) ∧
        ∀ d < 4, (t.die d).rdc = []) ∧
      (h.power = .refresh → exec .selfRefreshExpiry s = .next { s with hub := { h with power := .lost } })) ∧
    (∀ b : BootBlob,
      (h.power = .refresh → blobFails b = none → b.drainOk = true → ∃ t : State, exec (.powerReturn b) s = .next t ∧
        t.hub.power = .resuming b ∧ t.hub.caddy.leaf = h.caddy.pleaf ∧ t.mem = s.mem ∧ t.ctxs = s.ctxs ∧ t.hubReg 0xC010 = 5) ∧
      (∀ i, h.power = .refresh → blobFails b = some i → ∃ t : State, exec (.powerReturn b) s = .next t ∧ t.hub.power = .lost ∧
        t.hubReg 0xC010 = BitVec.ofNat 64 ((i + 1) * 256 + 2)) ∧
      (h.power = .resuming b → ∃ t : State, exec (.powerReturn b) s = .next t ∧ t.hub.power = .on ∧ t.hub.down = false) ∧
      (h.power = .lost → blobFails b = none → ∃ t : State, exec (.powerReturn b) s = .next t ∧ t.hub.power = .on ∧ t.mem = {} ∧
        (b.drainOk = true → ∀ x : BitVec 4, t.gen x = s.gen x)) ∧
      (h.power = .on → blobFails b = none → ∃ t : State, exec (.resetBoot b) s = .next t ∧ t.mem = {} ∧ t.ctxs = [] ∧
        t.hubReg 0 = b.fabmod.setWidth 64 ∧ t.hubReg 0xC010 = 7)) ∧
    (∀ (off : BitVec 25) (v : Word) (d : BitVec 2),
      (off.toNat < 0x400 → off.toNat % 8 = 0 → field v 16 48 = 0 → ∃ t : State, exec (.registerWrite (.ms d) off v) s = .next t ∧
        t.readReg (.ms d) off.toNat = v ∧ t.mem = s.mem) ∧
      (off = 8 → 1 ≤ v.toNat → v.toNat ≤ 1000 → ∃ t : State, exec (.registerWrite .hub off v) s = .next t ∧ t.readReg .hub 8 = v) ∧
      (off.toNat % 8 ≠ 0 → ∀ b, exec (.registerWrite b off v) s = .next s))

namespace Sys2Proof.Spec

open Sys2Proof.Machine

/-- A slot's 48 bits written out in the fields of R61. -/
def slot48 (aux : BitVec 16) (op : BitVec 8) (dst src : BitVec 9) (gn : BitVec 1) (gp : BitVec 5) : SlotBits :=
  aux ++ op ++ dst ++ src ++ gn ++ gp
/-- AUX of formats S and V (R69): OL, W, O. -/
def auxS (ol : BitVec 1) (w : BitVec 6) (o : BitVec 9) : BitVec 16 := ol ++ w ++ o
/-- AUX of format M (R69): DISP, W, H. -/
def auxM (disp w : BitVec 6) (h : BitVec 4) : BitVec 16 := disp ++ w ++ h
/-- AUX of format T (R69): three zeros, MODE, ACC, B. -/
def auxT (mode : BitVec 2) (acc : BitVec 4) (b : BitVec 7) : BitVec 16 := 0#3 ++ mode ++ acc ++ b
/-- An access that its home takes (R309 to R312, R417, R419, R422): current, to a block of its slot, of its world or by the security
world, with a key. -/
def taken_ (s : State) (a : Acc) (pa : Nat) : Prop :=
  s.staleAcc a = false ∧ s.refused a pa = false ∧ inOwnerTable pa = false ∧
  (s.accWorld a = s.blockWorld pa ∨ s.accWorld a = 2) ∧ s.keyId (s.blockWorld pa) (s.owner pa) a.key.toNat ≠ 0

end Sys2Proof.Spec

/-- The decoder reads words written out from R60 to R82 as the operations they stand for, one of each class of slots. -/
def Obligations.DecodingSanity : Prop :=
  decodeSlot 0 (Spec.slot48 (Spec.auxS 0#1 0b000101#6 0b111100001#9) 0x01#8 0b100000001#9 0b000000101#9 0#1 0b00000#5) =
    .ok (.add .ia ⟨⟨0, false⟩, 5, 0x1E1, false, 5⟩) ∧
  decodeSlot 1 (Spec.slot48 (Spec.auxS 1#1 0b000000#6 0#9) 0b01100010#8 0b100000011#9 0b000001001#9 1#1 0b00011#5) =
    .ok (.clt .ib 2 ⟨⟨3, true⟩, 9, 0, true, 0⟩) ∧
  decodeSlot 2 (Spec.slot48 (Spec.auxM 0b111111#6 0#6 0b0011#4) 0x0A#8 0b100010001#9 0b000000110#9 0#1 0#5) =
    .ok (.stw ⟨⟨0, false⟩, 6, 0x3F, 0, 3⟩) ∧
  decodeSlot 2 (Spec.slot48 (Spec.auxM 0#6 0b000111#6 0b0001#4) 0b00001010#8 0b100010101#9 0b000000100#9 0#1 0#5) =
    .ok (.aadd .d ⟨⟨0, false⟩, 4, 0, 7, 1⟩) ∧
  decodeSlot 3 (Spec.slot48 (Spec.auxS 0#1 0b000101#6 0b001000100#9) 0x18#8 0b100110001#9 0b001000011#9 0#1 0b00010#5) =
    .ok (.vfadd .va ⟨⟨2, false⟩, 0x43, 0x44, false, 5⟩) ∧
  decodeSlot 5 (Spec.slot48 (Spec.auxT 0b01#2 0b0010#4 0b0000101#7) 0x02#8 0b100111001#9 0b000000010#9 0#1 0#5) =
    .ok (.mpush ⟨⟨0, false⟩, 2, 1, 2, 5⟩) ∧
  decodeSlot 6 (Spec.slot48 0#16 0x00#8 0b001000101#9 0b001000011#9 0#1 0#5) = .ok (.move ⟨6, ⟨0, false⟩, 0x43, 0x45⟩) ∧
  decodeSlot 0 (Spec.slot48 0#16 0x1D#8 0b100000001#9 0#9 0#1 0#5) = .error .opcode ∧
  decodeSlot 3 (Spec.slot48 0#16 0x01#8 0b100000001#9 0#9 0#1 0#5) = .error .slot

/-- R61, R69 to R82: decoding the encoding of any well-formed slot operation gives that operation back, in its slot and as the one
operation of a bundle. -/
def Obligations.DecodeOfEncode : Prop :=
  ∀ (i : Instr) (k : Nat) (x : SlotBits), encode i = some (k, x) → i.wf = true →
    decodeSlot k x = .ok i ∧ ∀ b, encodeBundle i = some b → bundleInstr b = some i

/-- R6, R83: a bundle of one operation, with an empty header, on a core that may issue, no soft error at hand: the step is the meaning of
that operation and what issue adds: one more bundle counted and signed, the next address, the next issue cycle. An event at the head of
the agenda whose moment in the cycle has come (R150, R313; log 9) is what the step does; until then the machine goes on with its own
work.
The model's own choices in it: log 9 (the agenda names the core that issues, the stages of a cycle). -/
def Obligations.StepRunsTheDecodedInstruction : Prop :=
  ∀ (s : State) (r : List Instr), s.upsets = [] →
    (∀ (core i k : Nat) (nb : NextBundle) (ins : Instr) (t v : State) (nx : NextAddr), s.agenda = .bundleIssue core :: r →
      let s0 : State := { s with agenda := r }
      let z := s0.beginExam core i
      let y := { z with cur := { z.cur with nextA := nb.after.pc, bi := 0, pitch := false, cairn := false } }
      (s.core core).issuing = some i → s0.mayExamine core i = true → 9 < s.level →
      z.nextBundle z.cid = .ok nb → nb.bits.extractLsb' 0 48 = 0 → firstFail (decodeSlots nb.bits) = none →
      (okSlots (decodeSlots nb.bits)).filter (fun x => x.2 ≠ .nop) = [(k, ins)] → y.me.wake = none → opOf ins y = .ok t →
      t.flow (Header.ofBits nb.bits) nb.after = .ok (v, nx) →
      bundleInstr nb.bits = some ins ∧ exec ins y = .next t.commit ∧
      let u := v.commit.modMe fun c => c.issued nb.bits (Header.ofBits nb.bits) { nx with xfer := v.cur.xfer, cairn := false } z.seq false
      step s = .next ((({ u with seq := z.seq + 1 } : State).modMyCore fun c => { c with nextIssue := z.cycle + 1 }).endBurst s.burst)) ∧
    ∀ (i : Instr) (t : State), s.agenda = i :: r →
      (s.hasCome i = true → exec i { s with agenda := r } = .next t → step s = .next (t.endBurst s.burst)) ∧
      (s.hasCome i = false → step s = .next (s.idleStep.endBurst s.burst))

/-- Every step goes on: no rule of the spec stops the machine, and no state or input makes the model stop.
The model's own choices in it: log 9, 10 and 11 (the schedule, inputs out of range, no constructor of a fault raised). -/
def Obligations.EveryStepGoesOn : Prop := ∀ s : State, ∃ t : State, step s = .next t

/-- The memory keeps its canonical form in every step.
The model's own choices in it: log 4 (what an unlisted byte reads as). -/
def Obligations.StepKeepsMemoryForm : Prop := ∀ s t : State, s.memOk → step s = .next t → t.memOk

/-- R140, R245, R294, R302, R307, R308, R320, R418, R445: the state right after reset: memory empty and in its form; every context free and
its registers zero, its handles null; every core's storage in its zero form; slots, request tags, streams, journals and work objects
empty; RTOUT, SWCTL and PSCTL at the values the spec gives and every other word of the hub's registers 0; RTCTL and the L2 way masks of
every die at theirs, its other registers 0; blocks with the system. The zeros the spec does not give are the model's (logs 1 to 7).
The model's own choices in it: log 1 to 7 and 63 (every value the spec does not give). -/
def Obligations.ResetState : Prop :=
  let s := State.reset
  s.memOk ∧ s.mem = {} ∧ s.agenda = [] ∧ s.hub.power = .on ∧ s.level = 15 ∧ s.psTarget = 15 ∧
  (∀ off, s.hubReg off = if off = 0x8 then 50 else if off = 0x3800 then 900 else if off = 0xC000 then 0xFF else 0) ∧
  (∀ i n, (s.ctx i).st = .free ∧ let b := (s.ctx i).bank
    b.getS n = 0 ∧ b.getV n = {} ∧ (n ≠ 0 → b.getP n = false ∧ b.getVP n = 0) ∧ b.getSp n = 0 ∧ b.getOL n = {} ∧ b.getRL n = {} ∧
    Tab.get ({} : Handle) b.h n = {} ∧ ∀ r, b.mark r = .clean ∧ b.pends r = []) ∧
  (∀ k n, s.coreSlot k = 0 ∧ s.sem k (BitVec.ofNat 8 n) = 0 ∧ s.jc k n = 0 ∧ s.tile k n = {} ∧ s.bslot k n = {} ∧ s.row k n = 0 ∧
    s.spadByte k n = (0, false) ∧ s.lineFull k n = false ∧ (s.core k).dict = [] ∧ (s.core k).deque = [] ∧ (s.core k).l1 = [] ∧
    (s.core k).tc = [] ∧ s.eq k n = {} ∧ (s.core k).tqcfg = 0 ∧ (s.core k).csave = 0 ∧ (s.core k).crest = 0) ∧
  (∀ t, s.tslot t = {} ∧ s.wqcfg t = 0 ∧ s.wldcfgReg t = 0 ∧ s.wobj t = 0 ∧ s.journal t = none ∧ Tab.get ({} : Tag) s.hub.tags t = {}) ∧
  (∀ x, s.stream x = {}) ∧ s.hub.rings = [] ∧ s.hub.keys = [] ∧ s.hub.tally = [] ∧ (∀ pa, s.owner pa = 16) ∧
  ∀ d, field (s.die d).rtctl 52 10 = 8 ∧ field (s.die d).rtctl 41 11 = 1024 ∧ (s.die d).rtctl.getLsbD 63 = true ∧
    (s.die d).rtctl.getLsbD 62 = false ∧ field (s.die d).rtctl 0 41 = 0 ∧ (∀ k, Tab.get 0xFFFF (s.die d).wmask k = 0xFFFF) ∧
    (∀ off, Tab.get 0 (s.die d).regs off = 0) ∧ (s.die d).sdctl = 0 ∧ (s.die d).blkasn = 0 ∧ (s.die d).rdc = []

/-- R309 to R311, R421: at home no slot reads or writes a block of another slot, nor one of the system but through a page that a leaf
with TS names: the read gives zeros, the write changes no memory; a sector of a stale generation reads as zeros; a write of another world, or of a stale generation, changes no memory. -/
def Sys2Proof.Spec.HomeIsolation : Prop :=
  ∀ (s : State) (a : Acc) (pa : Nat) (cells : List (Nat × Byte)),
    (∀ t, a.slot = some t → s.owner pa ≠ t.toNat → s.owner pa ≠ 16 ∨ a.sysOk = false →
      s.homeRead a pa = (0, false) ∧ ∀ b, (s.homeWrite a ((pa, b) :: cells)).mem = s.mem) ∧
    (s.staleSector pa = true → inOwnerTable pa = false → s.homeRead a pa = (0, false)) ∧
    (s.staleAcc a = true ∨ (s.accWorld a ≠ s.blockWorld pa ∧ s.accWorld a ≠ 2) → ∀ b,
      (s.homeWrite a ((pa, b) :: cells)).mem = s.mem)

/-- R1, R309, R422: a write that its home takes is what the same access reads there afterwards, and every other byte reads as before. A
write that ends the hold of a migration may let the next one take a spare block (R300), and moves the block that migrated: of those
blocks it says only what was written. -/
def Sys2Proof.Spec.HomeWriteIsReadBack : Prop :=
  ∀ (s : State) (a : Acc) (pa : Nat) (l : List Byte), Spec.taken_ s a pa → l ≠ [] → pa % 128 + l.length ≤ 128 →
    let t := s.homeWrite a (l.zipIdx.map fun e => (pa + e.2, e.1))
    ∀ x, t.spareUsed x = s.spareUsed x → t.placed x = s.placed x ∨ (pa ≤ x ∧ x < pa + l.length) → (t.homeRead a x).1 = if pa ≤ x ∧ x < pa + l.length then l.getD (x - pa) 0 else (s.homeRead a x).1

/-- Every ALU operation and compare completes and lands its result after one cycle. -/
def Obligations.ScalarResultsLand : Prop := Spec.AluResultLandsAfterOneCycle ∧ Spec.CompareWritesResultAndPredicatePair

/-- Multiplies land the exact product after 3 cycles, divides quotient and remainder after 34; a busy divider traps. -/
def Obligations.MultiplyAndDivideResultsLand : Prop := Spec.MultiplyLandsExactProductAfterThreeCycles ∧ Spec.DivideLandsAfterThirtyFourCycles

/-- A trigger with a false guard starts nothing, and the empty slot performs nothing. -/
def Obligations.NothingIsPerformed : Prop := Spec.FalseGuardStartsNothing ∧ Spec.EmptySlotPerformsNothing

/-- What ia, ib, mul and pr leave unchanged, and the vector functions, conversions, tile updates and sequencer operations, which complete. -/
def Obligations.OperationFrames : Prop := Spec.ScalarOperationFrame ∧ Spec.FunctionUpdateAndSequencerFrame

/-- What the source ports read, and that a written register is read back and no other changes. -/
def Obligations.PortsAndRegisters : Prop := Spec.SourcePortsRead ∧ Spec.RegisterWriteIsReadBack

/-- A landing is seen from its cycle on, and of two writes the later-issued remains. -/
def Obligations.LandingOrder : Prop := Spec.LandingIsSeenFromItsCycle ∧ Spec.LaterIssuedWriteRemains

/-- Plain moves write the value converted by kind, vector moves the guarded elements. -/
def Obligations.MovesWrite : Prop := Spec.PlainMoveWritesConvertedValue ∧ Spec.VectorMoveCopiesGuardedElements

/-- Transfers wait for their delay bundle; the loop operations and the loop end. The model's own choices in it: log 29 and 76 (what a loop end reads at issue, the order of a transfer's checks). -/
def Obligations.ControlOperations : Prop := Spec.TransferWaitsForItsDelayBundle ∧ Spec.LoopOperationsSetTheirRegisters ∧ Spec.LoopEndEvaluation

/-- System operations wait for their release; semaphore operations take, log and wait. The model's own choices in it: log 31, 36 and 76 (the order of waits, what counts in a limit, T read before the form of the bundle). -/
def Obligations.SystemAndSemaphoreOperations : Prop := Spec.SystemOperationsWaitForRelease ∧ Spec.SemaphoreOperations

/-- Scalar and vector loads whose handle allows them complete and their destinations wait. The model's own choices in it: log 50 (each outstanding load of a register is kept apart). -/
def Obligations.LoadsIssue : Prop := Spec.ScalarLoadIssues ∧ Spec.VectorLoadIssues

/-- Full/empty operations, rel, acq and the cache operations. The model's own choices in it: log 36, 37 and 69 (what counts in a limit, what acq waits for, when an mload reads). -/
def Obligations.FullEmptyAndOrderingOperations : Prop := Spec.FullEmptyOperations ∧ Spec.OrderingAndCacheOperations

/-- Atomics, xlat, hdrop and hchk complete. The model's own choices in it: log 36 (atomics count in their limit whatever their guard). -/
def Obligations.AtomicAndTranslateOperations : Prop := Spec.AtomicOperations ∧ Spec.TranslateOperations

/-- Vector bitwise operations, vector predicates and compares. The model's own choices in it: log 45, 47 and 77 (the order of subcauses, the tag with a scalar O, the range of the guard). -/
def Obligations.VectorBitwisePredicateAndCompareResults : Prop := Spec.VectorBitwiseResults ∧ Spec.VectorPredicateResults ∧ Spec.VectorCompareResults

/-- Vector functions and conversions. The model's own choices in it: log 17 and 77 (the free values inside the bounds, the guard of a raw result). -/
def Obligations.VectorFunctionAndConversionResults : Prop := Spec.VectorFunctionResults ∧ Spec.VectorConversionResults

/-- Lane operations, reductions, and the random operations. The model's own choices in it: log 77 (bits 7:6 of a t6 lane). -/
def Obligations.VectorLaneReductionAndRandomResults : Prop := Spec.VectorLaneResults ∧ Spec.VectorReductionResults ∧ Spec.VectorRandomResults

/-- mload, mpush and mpushv complete into their queues. The model's own choices in it: log 24, 46 and 48 (the kind of T, the record of a tag trap, the queues of a ganged load). -/
def Obligations.TileLoadsAndPushesIssue : Prop := Spec.TileLoadIssues ∧ Spec.PushIssues

/-- mzero, mpop and mpopx. The model's own choices in it: log 20 and 24 (the free value of an untyped word, the kind of T). -/
def Obligations.TileReadClearAndEpilogue : Prop := Spec.TileReadAndClear ∧ Spec.EpiloguePopResults

/-- The tile sequencer: its operations, the tables it loads and the states it performs. The model's own choices in it: log 49 and 77 (the error codes, the entry reported, the rounding mode of a tsrun). -/
def Obligations.SequencerOperationsAndStates : Prop := Spec.SequencerOperations ∧ Spec.TableLoads ∧ Spec.SequencerPerformsItsState ∧ Spec.SequencerPerformsMatrixStates

/-- Work operations and their effects at the release. The model's own choices in it: log 36 (what counts in a limit). -/
def Obligations.WorkOperationsAndReleases : Prop := Spec.WorkOperations ∧ Spec.WorkReleaseEffects

/-- Remote loads and remote writes complete. The model's own choices in it: log 36, 53 and 69 (what counts in a limit, requests to the own module, when own bytes are taken). -/
def Obligations.RemoteOperationsIssue : Prop := Spec.RemoteLoadIssues ∧ Spec.RemoteWritesIssue

/-- The stream operations complete. The model's own choices in it: log 39 and 55 (unit 63 in the record, names and buffers). -/
def Obligations.StreamOperations : Prop := Spec.StreamOperationsIssue ∧ Spec.StreamReceive

/-- Fabric replies, timeouts, FABSLOT and FXWIN writes, and packet arrival. The model's own choices in it: log 53 (classes, serial comparison of FSEQ, the bytes of AUTH and of data in their chunk). -/
def Obligations.FabricRepliesAndPortEvents : Prop := Spec.FabricRepliesArrive ∧ Spec.FabricPortEvents

/-- At home no slot reaches a block that is not its own (nor an unshared system block), and a write that is taken is read back. The model's own choices in it: log 4, 13 and 67 (zero contents, data held as plaintext with its key, keys by block of 16 bytes). -/
def Obligations.HomeMemory : Prop := Spec.HomeIsolation ∧ Spec.HomeWriteIsReadBack

end
end

