-- ==== Sys2Proof/Laws/KeepMemory.lean ====
section
/-! SUPPORT. Memory, registers, ports and translation: every operation keeps the memory's canonical form. -/

namespace Sys2Proof.Machine

/-- A result's state has canonical memory. -/
def resOk (r : Res State) : Prop := ∀ t, r = .ok t → t.memOk

/-- A next state has canonical memory. -/
def outOk (o : Host.Outcome State Fault Refusal) : Prop := ∀ t, o = .next t → t.memOk

/-- A state that is there has canonical memory. -/
def optOk (o : Option State) : Prop := ∀ t, o = some t → t.memOk

/-- A state that is there beside a value has canonical memory. -/
def optOk2 {α : Type} (o : Option (α × State)) : Prop := ∀ a t, o = some (a, t) → t.memOk

theorem snd_memOk {α : Type} {e : α × State} {a : α} {b : State} (q : e = (a, b)) (h : e.2.memOk) : b.memOk := by
  subst q; exact h

theorem fst_memOk {α : Type} {e : State × α} {a : α} {b : State} (q : e = (b, a)) (h : e.1.memOk) : b.memOk := by
  subst q; exact h

theorem trd_memOk {α β : Type} {e : α × β × State} {a : α} {b : β} {c : State} (q : e = (a, b, c)) (h : e.2.2.memOk) :
    c.memOk := by subst q; exact h

theorem ok_memOk {e : Res State} {t : State} (q : e = .ok t) (h : resOk e) : t.memOk := h t q

theorem some_memOk {e : Option State} {t : State} (q : e = some t) (h : optOk e) : t.memOk := h t q

theorem some2_memOk {α : Type} {e : Option (α × State)} {a : α} {t : State} (q : e = some (a, t)) (h : optOk2 e) : t.memOk :=
  h a t q

theorem next_memOk {e : Host.Outcome State Fault Refusal} {t : State} (q : e = .next t) (h : outOk e) : t.memOk := h t q

theorem optOk_none : optOk none := by intro t h; cases h

theorem optOk_some {t : State} (h : t.memOk) : optOk (some t) := by intro x e; cases e; exact h

theorem optOk2_none {α : Type} : optOk2 (none : Option (α × State)) := by intro a t h; cases h

theorem optOk2_some {α : Type} {p : α × State} (h : p.2.memOk) : optOk2 (some p) := by intro a t e; cases e; exact h

theorem resOk_ok {t : State} (h : t.memOk) : resOk (.ok t) := by intro x e; cases e; exact h

theorem resOk_pure {t : State} (h : t.memOk) : resOk (pure t) := resOk_ok h

theorem resOk_error (e : Stop) : resOk (.error e) := by intro x h; cases h

theorem resOk_raise (a b c d : Nat) : resOk (raise a b c d) := resOk_error _

theorem resOk_raiseAt (a b c : Nat) : resOk (raiseAt a b c) := resOk_error _

theorem resOk_blockAt (b : BlockPoint) : resOk (blockAt b) := resOk_error _

theorem resOk_bind {α : Type} {x : Res α} {f : α → Res State} (h : ∀ a, x = .ok a → resOk (f a)) : resOk (x >>= f) := by
  intro t e
  cases x with
  | error _ => cases e
  | ok a => exact h a rfl t e

theorem resOk_inSlot {k : Nat} {r : Res State} (h : resOk r) : resOk (inSlot k r) := by
  cases r with
  | ok t => exact h
  | error x => cases x <;> exact resOk_error _

theorem outOk_next {t : State} (h : t.memOk) : outOk (.next t) := by intro x e; cases e; exact h

theorem foldl_memOk {α : Type} {f : State → α → State} {l : List α} {s : State} (hf : ∀ s x, s.memOk → (f s x).memOk)
    (h : s.memOk) : (l.foldl f s).memOk := by
  induction l generalizing s with
  | nil => exact h
  | cons x r ih => exact ih (hf s x h)

theorem memOk_mk {a : Tab Ctx} {b : Tab Core} {c : Tab Die} {m : Mem} {d : Hub} {e f : List Msg} {g i j k r : Nat} {l : Cur} {n : Nat}
    {o : List Nat} {u : List Upset} {p : List Instr} {q : Nat} (h : Memory.wf m = true) :
    State.memOk ⟨a, b, c, m, d, e, f, g, r, i, j, k, l, n, o, u, p, q⟩ := h

theorem memOk_of {s : State} (h : s.memOk) : Memory.wf s.mem = true := h

theorem resOk_raiseTag (a b : Nat) (t o l : Option Wide) : resOk (raiseTag a b t o l) := resOk_error _

theorem resOk_raiseStream (a : Nat) (w : Word) : resOk (raiseStream a w) := resOk_error _

theorem resOk_raiseJournal (a : Nat) (w : Word) : resOk (raiseJournal a w) := resOk_error _

/-- What an access leaves has canonical memory. -/
def accOk (r : AccRes) : Prop := ∀ t d p, r = .done t d p → t.memOk

/-- What a step of a command leaves has canonical memory. -/
def CmdRes.st : CmdRes → State
  | .more s _ => s | .wait s _ => s | .ovl s _ => s

theorem pair_foldl_memOk {α β : Type} {f : β × State → α → β × State} {l : List α} {p : β × State}
    (hf : ∀ p x, p.2.memOk → (f p x).2.memOk) (h : p.2.memOk) : (l.foldl f p).2.memOk := by
  induction l generalizing p with
  | nil => exact h
  | cons x r ih => exact ih (hf p x h)

theorem pair_foldl_memOk' {α β : Type} {f : State × β → α → State × β} {l : List α} {p : State × β}
    (hf : ∀ p x, p.1.memOk → (f p x).1.memOk) (h : p.1.memOk) : (l.foldl f p).1.memOk := by
  induction l generalizing p with
  | nil => exact h
  | cons x r ih => exact ih (hf p x h)

theorem resOk_foldlM {α : Type} {f : State → α → Res State} {l : List α} {s : State} (hf : ∀ s x, s.memOk → resOk (f s x))
    (h : s.memOk) : resOk (l.foldlM f s) := by
  induction l generalizing s with
  | nil => exact resOk_pure h
  | cons x r ih =>
    rw [List.foldlM_cons]
    exact resOk_bind fun a e => ih (hf s x h a e)

theorem ok_bind {α β : Type} {x : Res α} {f : α → Res β} {b : β} (h : (x >>= f) = .ok b) : ∃ a, x = .ok a ∧ f a = .ok b := by
  cases x with
  | error _ => cases h
  | ok a => exact ⟨a, rfl, h⟩

theorem State.setCtx_memOk (s : State) (i : Nat) (c : Ctx) (hm : s.memOk) :
    (State.setCtx s i c).memOk := by
  unfold State.setCtx
  with_reducible repeat' first
    | assumption | split | refine memOk_mk (memOk_of ?_)

theorem State.modCtx_memOk (s : State) (i : Nat) (f : Ctx → Ctx) (hm : s.memOk) :
    (State.modCtx s i f).memOk := by
  unfold State.modCtx
  with_reducible repeat' first
    | assumption | apply State.setCtx_memOk

theorem State.setCore_memOk (s : State) (i : Nat) (c : Core) (hm : s.memOk) :
    (State.setCore s i c).memOk := by
  unfold State.setCore
  with_reducible repeat' first
    | assumption | split | refine memOk_mk (memOk_of ?_)

theorem State.modCore_memOk (s : State) (i : Nat) (f : Core → Core) (hm : s.memOk) :
    (State.modCore s i f).memOk := by
  unfold State.modCore
  with_reducible repeat' first
    | assumption | apply State.setCore_memOk

theorem State.setDie_memOk (s : State) (i : Nat) (d : Die) (hm : s.memOk) :
    (State.setDie s i d).memOk := by
  unfold State.setDie
  with_reducible repeat' first
    | assumption | split | refine memOk_mk (memOk_of ?_)

theorem State.modDie_memOk (s : State) (i : Nat) (f : Die → Die) (hm : s.memOk) :
    (State.modDie s i f).memOk := by
  unfold State.modDie
  with_reducible repeat' first
    | assumption | apply State.setDie_memOk

theorem State.modTslot_memOk (s : State) (t : Nat) (f : TSlot → TSlot) (hm : s.memOk) :
    (State.modTslot s t f).memOk := by
  unfold State.modTslot
  with_reducible repeat' first
    | assumption | split | refine memOk_mk (memOk_of ?_)

theorem State.setHubReg_memOk (s : State) (off : Nat) (v : Word) (hm : s.memOk) :
    (State.setHubReg s off v).memOk := by
  unfold State.setHubReg
  with_reducible repeat' first
    | assumption | split | refine memOk_mk (memOk_of ?_)

theorem State.modMe_memOk (s : State) (f : Ctx → Ctx) (hm : s.memOk) :
    (State.modMe s f).memOk := by
  unfold State.modMe
  with_reducible repeat' first
    | assumption | apply State.modCtx_memOk

theorem State.modMyCore_memOk (s : State) (f : Core → Core) (hm : s.memOk) :
    (State.modMyCore s f).memOk := by
  unfold State.modMyCore
  with_reducible repeat' first
    | assumption | apply State.modCore_memOk

theorem State.countDie_memOk (s : State) (d off lo n k : Nat) (hm : s.memOk) :
    (State.countDie s d off lo n k).memOk := by
  unfold State.countDie
  with_reducible repeat' first
    | assumption | apply State.modDie_memOk

theorem State.logCell_memOk (s : State) (d sec : Nat) (unc : Bool) (nsym src : Nat) (hm : s.memOk) :
    (State.logCell s d sec unc nsym src).memOk := by
  unfold State.logCell
  with_reducible repeat' first
    | assumption | apply State.modDie_memOk | apply State.countDie_memOk

theorem State.irq_memOk (s : State) (k : Nat) (hm : s.memOk) :
    (State.irq s k).memOk := by
  unfold State.irq
  with_reducible repeat' first
    | assumption | split | refine memOk_mk (memOk_of ?_)

theorem State.homePut_memOk (s : State) (k : Nat) (e : Nat × Byte) (h : s.memOk) : (s.homePut k e).memOk := by
  have hf : ∀ (l : List Nat) (b : List Host.Cell) (g : Nat → Nat) (v : Nat → Byte), Tab.wf 0 b = true →
      Tab.wf 0 (l.foldl (fun b i => Tab.put 0 b (g i) (v i)) b) = true := by
    intro l
    induction l with
    | nil => intro b g v h; exact h
    | cons x r ih => intro b g v h; exact ih _ g v (Tab.wf_put _ _ _ _ h)
  simp only [State.memOk, Memory.wf, Bool.and_eq_true] at h
  simp only [State.homePut, State.memOk, Memory.wf, Bool.and_eq_true]
  refine ⟨⟨⟨Tab.wf_put _ _ _ _ ?_, h.1.1.2⟩, h.1.2⟩, Tab.wf_put _ _ _ _ h.2⟩
  split
  · exact h.1.1.1
  · exact hf _ _ _ _ h.1.1.1

theorem Mem.zeroSector_wf (m : Mem) (sec : Nat) (h : Memory.wf m = true) : Memory.wf (m.zeroSector sec) = true := by
  simp only [Memory.wf, Bool.and_eq_true] at h
  simp only [Mem.zeroSector, Memory.wf, Bool.and_eq_true]
  exact ⟨⟨⟨Tab.wfFrom_eraseRange _ _ h.1.1.1, h.1.1.2⟩, Tab.wf_put _ _ _ _ h.1.2⟩, Tab.wfFrom_eraseRange _ _ h.2⟩

/-- Writing a stamp keeps the form. -/
theorem Mem.stamp_wf (m : Mem) (sec : Nat) (g : BitVec 12) (h : Memory.wf m = true) :
    Memory.wf { m with stamp := Tab.put 0 m.stamp sec g } = true := by
  simp only [Memory.wf, Bool.and_eq_true] at h ⊢
  exact ⟨⟨⟨h.1.1.1, Tab.wf_put _ _ _ _ h.1.1.2⟩, h.1.2⟩, h.2⟩

/-- Writing a poison mark keeps the form. -/
theorem Mem.poison_wf (m : Mem) (sec : Nat) (b : Bool) (h : Memory.wf m = true) :
    Memory.wf { m with poison := Tab.put false m.poison sec b } = true := by
  simp only [Memory.wf, Bool.and_eq_true] at h ⊢
  exact ⟨⟨⟨h.1.1.1, h.1.1.2⟩, Tab.wf_put _ _ _ _ h.1.2⟩, h.2⟩

theorem State.countRef_memOk (s : State) (pa : Nat) (hm : s.memOk) :
    (State.countRef s pa).memOk := by
  unfold State.countRef
  with_reducible repeat' first
    | assumption | apply State.countDie_memOk

theorem State.countRead_memOk (s : State) (a : Acc) (pa : Nat) (hm : s.memOk) : (s.countRead a pa).memOk := by
  unfold State.countRead
  split
  · exact State.countRef_memOk _ _ hm
  · exact hm

theorem State.noteMigr_memOk (s : State) (pa : Nat) (hm : s.memOk) :
    (State.noteMigr s pa).memOk := by
  unfold State.noteMigr
  with_reducible repeat' first
    | assumption | intro _ | (refine snd_memOk ‹_› ?_) | (refine fst_memOk ‹_› ?_) | (refine some_memOk ‹_› ?_)
    | (refine some2_memOk ‹_› ?_) | apply State.modDie_memOk | split

theorem State.homeWrite_memOk (s : State) (a : Acc) (cells : List (Nat × Byte)) (h : s.memOk) :
    (s.homeWrite a cells).memOk := by
  unfold State.homeWrite
  split
  · exact h
  split
  · exact h
  split
  · exact State.countRef_memOk _ _ h
  split
  · exact h
  split
  · exact State.countRef_memOk _ _ h
  dsimp only
  split
  · exact State.countRef_memOk _ _ h
  apply State.noteMigr_memOk
  apply foldl_memOk
  · intro s x hs; exact State.homePut_memOk _ _ _ hs
  have z := Mem.zeroSector_wf s.mem
  repeat' split
  all_goals first
    | exact h
    | exact z _ h
    | exact Mem.stamp_wf _ _ _ h
    | exact Mem.stamp_wf (s.mem.zeroSector _) _ _ (z _ h)
    | exact Mem.poison_wf _ _ _ h
    | exact Mem.poison_wf (s.mem.zeroSector _) _ _ (z _ h)
    | exact Mem.poison_wf _ _ _ (Mem.stamp_wf s.mem _ _ h)
    | exact Mem.poison_wf _ _ _ (Mem.stamp_wf (s.mem.zeroSector _) _ _ (z _ h))

theorem State.homeWrites_memOk (s : State) (a : Acc) (pa : Nat) (l : List Byte) (hm : s.memOk) :
    (State.homeWrites s a pa l).memOk := by
  unfold State.homeWrites
  with_reducible repeat' first
    | assumption | intro _ | apply foldl_memOk | apply State.homeWrite_memOk

theorem State.poisonHome_memOk (s : State) (sec : Nat) (h : s.memOk) : (s.poisonHome sec).memOk := by
  unfold State.poisonHome
  dsimp only
  have p := Mem.poison_wf (s.mem.zeroSector sec) sec true (Mem.zeroSector_wf _ _ h)
  split
  · exact Mem.stamp_wf _ _ _ p
  · exact p

theorem State.poisonFlag_memOk (s : State) (sec : Nat) (hm : s.memOk) : (State.poisonFlag s sec).memOk :=
  Mem.poison_wf _ _ _ (State.noteMigr_memOk s (128 * sec) hm)

theorem State.l2Fill_memOk (s : State) (pa : Nat) (slot : Option (BitVec 4)) (hm : s.memOk) :
    (State.l2Fill s pa slot).memOk := by
  unfold State.l2Fill
  with_reducible repeat' first
    | assumption | apply State.modDie_memOk | split | refine memOk_mk (memOk_of ?_)

theorem State.wbHome_memOk (s : State) (sec : Nat) (x : Sector) (hm : s.memOk) :
    (State.wbHome s sec x).memOk := by
  unfold State.wbHome
  try dsimp only
  with_reducible repeat' first
    | assumption | apply State.homeWrite_memOk | apply State.poisonFlag_memOk | apply State.l2Fill_memOk | split

theorem State.wbRdcLine_memOk (s : State) (c : CLine) (hm : s.memOk) :
    (State.wbRdcLine s c).memOk := by
  unfold State.wbRdcLine
  with_reducible repeat' first
    | assumption | intro _ | apply foldl_memOk | apply State.wbHome_memOk

theorem State.dropRdcLine_memOk (s : State) (d line : Nat) (hm : s.memOk) :
    (State.dropRdcLine s d line).memOk := by
  unfold State.dropRdcLine
  with_reducible repeat' first
    | assumption | intro _ | apply foldl_memOk | apply State.modDie_memOk | apply State.wbRdcLine_memOk

theorem State.rdcLine_memOk (s : State) (d line : Nat) (hm : s.memOk) :
    (State.rdcLine s d line).memOk := by
  unfold State.rdcLine
  with_reducible repeat' first
    | assumption | apply State.modDie_memOk | apply State.wbRdcLine_memOk | split
    | refine memOk_mk (memOk_of ?_)

theorem State.rdcRefill_memOk (s : State) (d : Nat) (a : Acc) (sec : Nat) (hm : s.memOk) :
    (State.rdcRefill s d a sec).2.memOk := by
  unfold State.rdcRefill
  try dsimp only
  with_reducible repeat' first
    | assumption | intro _ | apply State.modDie_memOk | apply State.l2Fill_memOk | apply State.countRead_memOk
    | apply State.rdcLine_memOk

theorem State.rdcSector_memOk (s : State) (d : Nat) (a : Acc) (sec : Nat) (hm : s.memOk) :
    (State.rdcSector s d a sec).2.memOk := by
  unfold State.rdcSector
  with_reducible repeat' first
    | assumption | (refine snd_memOk ‹_› ?_) | (refine fst_memOk ‹_› ?_) | (refine some_memOk ‹_› ?_)
    | (refine some2_memOk ‹_› ?_) | apply State.countRef_memOk | apply State.wbHome_memOk
    | apply State.rdcRefill_memOk | split

theorem State.fillSource_memOk (s : State) (core : Nat) (a : Acc) (sec : Nat) (hm : s.memOk) :
    (State.fillSource s core a sec).2.memOk := by
  unfold State.fillSource
  try dsimp only
  with_reducible repeat' first
    | assumption | (refine snd_memOk ‹_› ?_) | (refine fst_memOk ‹_› ?_) | apply State.countRead_memOk
    | apply State.l2Fill_memOk | apply State.rdcSector_memOk | split

theorem State.wbL1Sector_memOk (s : State) (core sec : Nat) (x : Sector) (hm : s.memOk) :
    (State.wbL1Sector s core sec x).memOk := by
  unfold State.wbL1Sector
  try dsimp only
  with_reducible repeat' first
    | assumption | intro _ | (refine snd_memOk ‹_› ?_) | (refine fst_memOk ‹_› ?_) | apply State.modDie_memOk
    | apply State.countRef_memOk | apply State.wbHome_memOk | apply State.rdcSector_memOk | split

theorem State.wbL1Line_memOk (s : State) (core line : Nat) (hm : s.memOk) :
    (State.wbL1Line s core line).memOk := by
  unfold State.wbL1Line
  with_reducible repeat' first
    | assumption | intro _ | apply foldl_memOk | apply State.modCore_memOk | apply State.wbL1Sector_memOk
    | split

theorem State.dropL1Line_memOk (s : State) (core line : Nat) (hm : s.memOk) :
    (State.dropL1Line s core line).memOk := by
  unfold State.dropL1Line
  with_reducible repeat' first
    | assumption | apply State.modCore_memOk | apply State.wbL1Line_memOk

theorem State.l1Line_memOk (s : State) (core line : Nat) (sh : Bool) (hm : s.memOk) :
    (State.l1Line s core line sh).memOk := by
  unfold State.l1Line
  with_reducible repeat' first
    | assumption | apply State.modCore_memOk | apply State.dropL1Line_memOk | split
    | refine memOk_mk (memOk_of ?_)

theorem State.l1Yield_memOk (s : State) (core sec : Nat) (hm : s.memOk) :
    (State.l1Yield s core sec).memOk := by
  unfold State.l1Yield
  with_reducible repeat' first
    | assumption | (refine snd_memOk ‹_› ?_) | (refine fst_memOk ‹_› ?_) | (refine some_memOk ‹_› ?_)
    | (refine some2_memOk ‹_› ?_) | apply State.wbL1Sector_memOk | split

theorem State.l1Fill_memOk (s : State) (core : Nat) (a : Acc) (sh : Bool) (sec : Nat) (hm : s.memOk) :
    (State.l1Fill s core a sh sec).memOk := by
  unfold State.l1Fill
  try dsimp only
  with_reducible repeat' first
    | assumption | intro _ | (refine snd_memOk ‹_› ?_) | (refine fst_memOk ‹_› ?_) | apply State.modCore_memOk
    | apply State.fillSource_memOk | apply State.l1Line_memOk | apply State.l1Yield_memOk | split

theorem State.l1Read_memOk (s : State) (core : Nat) (a : Acc) (sh : Bool) (pa n : Nat) (hm : s.memOk) :
    (State.l1Read s core a sh pa n).2.memOk := by
  unfold State.l1Read
  with_reducible repeat' first
    | assumption | intro _ | apply foldl_memOk | apply State.l1Fill_memOk

theorem State.l1Bring_memOk (s : State) (core : Nat) (a : Acc) (sh whole : Bool) (sec : Nat) (hm : s.memOk) :
    (State.l1Bring s core a sh whole sec).memOk := by
  unfold State.l1Bring
  try dsimp only
  with_reducible repeat' first
    | assumption | intro _ | (refine snd_memOk ‹_› ?_) | (refine fst_memOk ‹_› ?_) | apply State.modCore_memOk
    | apply State.l1Line_memOk | apply State.l1Yield_memOk | apply State.l1Fill_memOk | split

theorem State.l1Write_memOk (s : State) (core : Nat) (a : Acc) (sh poison : Bool) (cells : List (Nat × Byte)) (hm :
    s.memOk) :
    (State.l1Write s core a sh poison cells).memOk := by
  unfold State.l1Write
  try dsimp only
  with_reducible repeat' first
    | assumption | intro _ | (refine snd_memOk ‹_› ?_) | (refine fst_memOk ‹_› ?_) | (refine some_memOk ‹_› ?_)
    | (refine some2_memOk ‹_› ?_) | apply foldl_memOk | apply State.modCore_memOk | apply State.wbL1Line_memOk
    | apply State.l1Bring_memOk | split

theorem State.l1Writes_memOk (s : State) (core : Nat) (a : Acc) (sh poison : Bool) (pa : Nat) (l : List Byte) (hm :
    s.memOk) :
    (State.l1Writes s core a sh poison pa l).memOk := by
  unfold State.l1Writes
  with_reducible repeat' first
    | assumption | intro _ | apply foldl_memOk | apply State.l1Write_memOk

theorem State.spadFresh_memOk (s : State) (core line : Nat) (hm : s.memOk) :
    (State.spadFresh s core line).memOk := by
  unfold State.spadFresh
  with_reducible repeat' first
    | assumption | apply State.modCore_memOk | split

theorem State.spadPut_memOk (s : State) (core : Nat) (slot : BitVec 4) (gen : BitVec 12) (e : Nat × Byte) (hm :
    s.memOk) :
    (State.spadPut s core slot gen e).memOk := by
  unfold State.spadPut
  with_reducible repeat' first
    | assumption | apply State.modCore_memOk | apply State.spadFresh_memOk | split

theorem State.spadWrites_memOk (s : State) (core : Nat) (slot : BitVec 4) (gen : BitVec 12) (poison : Bool) (off :
    Nat)
    (l : List Byte) (hm : s.memOk) :
    (State.spadWrites s core slot gen poison off l).memOk := by
  unfold State.spadWrites
  with_reducible repeat' first
    | assumption | intro _ | apply foldl_memOk | apply State.modCore_memOk | apply State.spadPut_memOk | split

theorem State.setLine_memOk (s : State) (core line : Nat) (slot : BitVec 4) (gen : BitVec 12) (full : Bool) (hm :
    s.memOk) :
    (State.setLine s core line slot gen full).memOk := by
  unfold State.setLine
  with_reducible repeat' first
    | assumption | apply State.modCore_memOk | apply State.spadFresh_memOk | split

theorem State.setSem_memOk (s : State) (core : Nat) (n : BitVec 8) (v : Nat) (hm : s.memOk) :
    (State.setSem s core n v).memOk := by
  unfold State.setSem
  with_reducible repeat' first
    | assumption | apply State.modCore_memOk

theorem State.addSem_memOk (s : State) (core : Nat) (n : BitVec 8) (v : Nat) (hm : s.memOk) :
    (State.addSem s core n v).memOk := by
  unfold State.addSem
  with_reducible repeat' first
    | assumption | apply State.setSem_memOk

theorem State.setJcnt_memOk (s : State) (core : Nat) (n : BitVec 6) (v : Int) (hm : s.memOk) :
    (State.setJcnt s core n v).memOk := by
  unfold State.setJcnt
  with_reducible repeat' first
    | assumption | apply State.modCore_memOk

theorem tab_foldl_wf {α β : Type} [DecidableEq β] {z : β} {f : List (Nat × β) → α → List (Nat × β)} {l : List α}
    {b : List (Nat × β)} (hf : ∀ t x, Tab.wf z t = true → Tab.wf z (f t x) = true) (h : Tab.wf z b = true) :
    Tab.wf z (l.foldl f b) = true := by
  induction l generalizing b with
  | nil => exact h
  | cons x r ih => exact ih (hf b x h)

theorem State.putWord_memOk (s : State) (sec : Nat) (w : List Byte) (hm : s.memOk) : (s.putWord sec w).memOk := by
  simp only [State.memOk, Memory.wf, Bool.and_eq_true] at hm
  simp only [State.putWord, State.memOk, Memory.wf, Bool.and_eq_true]
  refine ⟨⟨⟨tab_foldl_wf (fun t x ht => ?_) hm.1.1.1, Tab.wf_put _ _ _ _ hm.1.1.2⟩, Tab.wf_put _ _ _ _ hm.1.2⟩, hm.2⟩
  exact tab_foldl_wf (fun t x ht => Tab.wf_put _ _ _ _ ht) ht

theorem State.commit_memOk (s : State) (hm : s.memOk) :
    (State.commit s).memOk := by
  unfold State.commit
  try dsimp only
  with_reducible repeat' first
    | assumption | intro _ | apply foldl_memOk | apply State.setCtx_memOk | refine memOk_mk (memOk_of ?_)

theorem State.land_memOk (s : State) (slot unit lat : Nat) (ws : List RegWrite) (hm : s.memOk) :
    (State.land s slot unit lat ws).memOk := by
  unfold State.land
  with_reducible repeat' first
    | assumption | apply State.modMe_memOk

theorem State.move_memOk (s : State) (slot : Nat) (w : RegWrite) (hm : s.memOk) :
    (State.move s slot w).memOk := by
  unfold State.move
  with_reducible repeat' first
    | assumption | split | refine memOk_mk (memOk_of ?_)

theorem State.limit_memOk (s : State) (kind max unit : Nat) (hm : s.memOk) :
    resOk (State.limit s kind max unit) := by
  unfold State.limit
  try dsimp only
  with_reducible repeat' first
    | assumption | apply resOk_ok | apply resOk_raise | apply State.modMe_memOk | split

theorem State.newTok_memOk (s : State) (h : s.memOk) : s.newTok.2.memOk := h

theorem State.pendOn_memOk (s : State) (rs : List Reg) (tok unit : Nat) (late : Bool) (hm : s.memOk) :
    (State.pendOn s rs tok unit late).memOk := by
  unfold State.pendOn
  with_reducible repeat' first
    | assumption | split | refine memOk_mk (memOk_of ?_)

theorem State.addRel_memOk (s : State) (tok unit : Nat) (b : RelBody) (hm : s.memOk) :
    (State.addRel s tok unit b).memOk := by
  unfold State.addRel
  with_reducible repeat' first
    | assumption | apply State.modMe_memOk

theorem State.answer_memOk (s : State) (ci tok : Nat) (v : Wide) (m : Mark) (hm : s.memOk) :
    (State.answer s ci tok v m).memOk := by
  unfold State.answer
  try dsimp only
  with_reducible repeat' first
    | assumption | intro _ | (refine snd_memOk ‹_› ?_) | (refine some_memOk ‹_› ?_)
    | (refine some2_memOk ‹_› ?_) | apply foldl_memOk | apply State.modCtx_memOk | apply State.modCore_memOk
    | split

theorem State.returnWaits_memOk (s : State) (core : Nat) (log : Tab Nat) (hm : s.memOk) :
    (State.returnWaits s core log).memOk := by
  unfold State.returnWaits
  with_reducible repeat' first
    | assumption | intro _ | apply foldl_memOk | apply State.addSem_memOk

theorem State.returnStreams_memOk (s : State) (ci pitch : Nat) (hm : s.memOk) :
    (State.returnStreams s ci pitch).memOk := by
  unfold State.returnStreams
  try dsimp only
  with_reducible repeat' first
    | assumption | intro _ | (refine snd_memOk ‹_› ?_) | (refine some_memOk ‹_› ?_)
    | (refine some2_memOk ‹_› ?_) | split | refine memOk_mk (memOk_of ?_)

theorem State.returnReplay_memOk (s : State) (l : List RelItem) (hm : s.memOk) :
    (State.returnReplay s l).memOk := by
  unfold State.returnReplay
  with_reducible repeat' first
    | assumption | intro _ | apply foldl_memOk | split | refine memOk_mk (memOk_of ?_)

theorem State.dropWaiting_memOk (s : State) (ci : Nat) (toks : List Nat) (hm : s.memOk) :
    (State.dropWaiting s ci toks).memOk := by
  unfold State.dropWaiting
  try dsimp only
  with_reducible repeat' first
    | assumption | intro _ | refine memOk_mk (memOk_of ?_)

theorem State.rollback_memOk (s : State) (ci : Nat) (hm : s.memOk) :
    (State.rollback s ci).memOk := by
  unfold State.rollback
  try dsimp only
  with_reducible repeat' first
    | assumption | intro _ | apply foldl_memOk | apply State.setCtx_memOk | apply State.modCore_memOk
    | apply State.returnWaits_memOk | apply State.returnStreams_memOk | apply State.returnReplay_memOk
    | apply State.dropWaiting_memOk

theorem State.switchFrom_memOk (s : State) (core start : Nat) (hm : s.memOk) :
    (State.switchFrom s core start).memOk := by
  unfold State.switchFrom
  with_reducible repeat' first
    | assumption | apply State.modCtx_memOk | apply State.modCore_memOk | split

theorem State.leaveCore_memOk (s : State) (ci start : Nat) (hm : s.memOk) :
    (State.leaveCore s ci start).memOk := by
  unfold State.leaveCore
  with_reducible repeat' first
    | assumption | apply State.modCore_memOk | apply State.switchFrom_memOk | split
    | refine memOk_mk (memOk_of ?_)

theorem State.makeReady_memOk (s : State) (ci : Nat) (hm : s.memOk) :
    (State.makeReady s ci).memOk := by
  unfold State.makeReady
  try dsimp only
  with_reducible repeat' first
    | assumption | intro _ | (refine some_memOk ‹_› ?_) | (refine some2_memOk ‹_› ?_) | apply State.modCtx_memOk
    | apply State.switchFrom_memOk | split

theorem State.blockOn_memOk (s : State) (b : BlockPoint) (hm : s.memOk) :
    (State.blockOn s b).memOk := by
  unfold State.blockOn
  try dsimp only
  with_reducible repeat' first
    | assumption | intro _ | apply State.modMe_memOk | apply State.switchFrom_memOk

theorem State.deliverTrap_memOk (s : State) (ci : Nat) (t : TrapInfo) (async nr rb : Bool) (taddr raddr : Nat)
    (loops : List Word) (hm : s.memOk) :
    (State.deliverTrap s ci t async nr rb taddr raddr loops).memOk := by
  unfold State.deliverTrap
  try dsimp only
  with_reducible repeat' first
    | assumption | intro _ | apply State.modCtx_memOk

theorem State.takeTrap_memOk (s : State) (noReplay : Bool) (t : TrapInfo) (hm : s.memOk) :
    (State.takeTrap s noReplay t).memOk := by
  unfold State.takeTrap
  with_reducible repeat' first
    | assumption | apply State.rollback_memOk | apply State.leaveCore_memOk | apply State.deliverTrap_memOk

theorem State.touchWalk_memOk (s : State) (slot : BitVec 4) (root va : Word) (hm : s.memOk) :
    (State.touchWalk s slot root va).memOk := by
  unfold State.touchWalk
  with_reducible repeat' first
    | assumption | intro _ | (refine snd_memOk ‹_› ?_) | (refine fst_memOk ‹_› ?_) | (refine some_memOk ‹_› ?_)
    | (refine some2_memOk ‹_› ?_) | apply foldl_memOk | apply State.l2Fill_memOk | split

theorem State.tcAdd_memOk (s : State) (core : Nat) (slot : BitVec 4) (va : Word) (l : Leaf) (hm : s.memOk) :
    (State.tcAdd s core slot va l).memOk := by
  unfold State.tcAdd
  with_reducible repeat' first
    | assumption | apply State.modCore_memOk

theorem State.touchRun_memOk (s : State) (a : Acc) (pa n : Nat) (hm : s.memOk) :
    (State.touchRun s a pa n).memOk := by
  unfold State.touchRun
  try dsimp only
  with_reducible repeat' first
    | assumption | intro _ | (refine snd_memOk ‹_› ?_) | (refine fst_memOk ‹_› ?_) | apply foldl_memOk
    | apply State.countRead_memOk | apply State.l2Fill_memOk

theorem State.touchPage_memOk (s : State) (slot : BitVec 4) (va : Word) (n : Nat) (hm : s.memOk) :
    (State.touchPage s slot va n).memOk := by
  unfold State.touchPage
  try dsimp only
  with_reducible repeat' first
    | assumption | (refine snd_memOk ‹_› ?_) | (refine fst_memOk ‹_› ?_) | (refine ok_memOk ‹_› ?_)
    | apply State.touchWalk_memOk | apply State.touchRun_memOk | split

theorem State.touchVA_memOk (s : State) (slot : BitVec 4) (va : Word) (n : Nat) (hm : s.memOk) :
    (State.touchVA s slot va n).memOk := by
  unfold State.touchVA
  try dsimp only
  with_reducible repeat' first
    | assumption | (refine snd_memOk ‹_› ?_) | (refine fst_memOk ‹_› ?_) | apply State.touchPage_memOk | split

theorem State.touchFetch_memOk (s : State) (ci : Nat) (hm : s.memOk) :
    (State.touchFetch s ci).memOk := by
  unfold State.touchFetch
  try dsimp only
  with_reducible repeat' first
    | assumption | intro _ | (refine snd_memOk ‹_› ?_) | (refine fst_memOk ‹_› ?_) | (refine ok_memOk ‹_› ?_)
    | (refine some_memOk ‹_› ?_) | (refine some2_memOk ‹_› ?_) | apply State.touchVA_memOk | split

theorem State.touchPitchEntry_memOk (s : State) (ci i : Nat) (hm : s.memOk) :
    (State.touchPitchEntry s ci i).memOk := by
  unfold State.touchPitchEntry
  with_reducible repeat' first
    | assumption | (refine snd_memOk ‹_› ?_) | (refine fst_memOk ‹_› ?_) | apply State.touchVA_memOk

theorem State.startRewalk_memOk (s : State) (n : Option Nat) (hm : s.memOk) :
    (State.startRewalk s n).memOk := by
  unfold State.startRewalk
  try dsimp only
  with_reducible repeat' first
    | assumption | intro _ | (refine snd_memOk ‹_› ?_) | (refine fst_memOk ‹_› ?_) | (refine some_memOk ‹_› ?_)
    | (refine some2_memOk ‹_› ?_) | apply State.modCore_memOk | apply State.newTok_memOk | split

theorem State.startItemWalks_memOk (s : State) (hm : s.memOk) :
    (State.startItemWalks s).memOk := by
  unfold State.startItemWalks
  try dsimp only
  with_reducible repeat' first
    | assumption | intro _ | (refine snd_memOk ‹_› ?_) | (refine fst_memOk ‹_› ?_) | (refine some_memOk ‹_› ?_)
    | (refine some2_memOk ‹_› ?_) | apply foldl_memOk | apply State.modMyCore_memOk | apply State.newTok_memOk
    | split

theorem State.sendAppend_memOk (s : State) (j : Nat) (recd : Packet64) (hm : s.memOk) :
    (State.sendAppend s j recd).memOk := by
  unfold State.sendAppend
  with_reducible repeat' first
    | assumption | split | refine memOk_mk (memOk_of ?_)

theorem State.deliverAsync_memOk (s : State) (ci : Nat) (rb : Bool) (hm : s.memOk) :
    (State.deliverAsync s ci rb).memOk := by
  unfold State.deliverAsync
  try dsimp only
  with_reducible repeat' first
    | assumption | intro _ | apply State.modCtx_memOk | apply State.rollback_memOk | apply State.leaveCore_memOk
    | apply State.deliverTrap_memOk | split

theorem State.asyncAtBlock_memOk (s : State) (ci : Nat) (hm : s.memOk) :
    (State.asyncAtBlock s ci).memOk := by
  unfold State.asyncAtBlock
  with_reducible repeat' first
    | assumption | apply State.deliverAsync_memOk | split | refine memOk_mk (memOk_of ?_)

theorem State.stop_memOk (s : State) (h : s.memOk) (x : Stop) : (s.stop x).memOk := by
  unfold State.stop
  split
  · exact State.takeTrap_memOk _ _ _ h
  · refine State.asyncAtBlock_memOk _ _ (State.blockOn_memOk _ _ ?_)
    split
    · exact State.startItemWalks_memOk _ h
    · exact State.startRewalk_memOk _ _ h
  · refine State.asyncAtBlock_memOk _ _ (State.blockOn_memOk _ _ (State.modMe_memOk _ _ ?_))
    split
    · exact State.sendAppend_memOk _ _ _ h
    · exact h

theorem settle_memOk {s : State} {r : Res State} (h : s.memOk) (hr : resOk r) : outOk (settle s r) := by
  cases r with
  | ok t => exact outOk_next (State.commit_memOk _ (hr t rfl))
  | error x => exact outOk_next (State.stop_memOk _ h x)

theorem State.scalarOp_memOk (s : State) (i : Instr) (slot unit lat : Nat) (f : OpS) (out : ScalarArgs → List
    RegWrite) (hm : s.memOk) :
    resOk (State.scalarOp s i slot unit lat f out) := by
  unfold State.scalarOp
  try dsimp only
  with_reducible repeat' first
    | assumption | intro _ | (refine ok_memOk ‹_› ?_) | apply resOk_inSlot | apply resOk_pure | apply resOk_bind
    | apply State.land_memOk | split

theorem State.aluOp_memOk (s : State) (i : Instr) (u : AluUnit) (f : OpS) (r : Word → Word → Word → Word) (hm :
    s.memOk) :
    resOk (State.aluOp s i u f r) := by
  unfold State.aluOp
  with_reducible repeat' first
    | assumption | apply State.scalarOp_memOk

theorem State.compareOp_memOk (s : State) (i : Instr) (c : Nat) (u : AluUnit) (k : BitVec 4) (f : OpS) (hm :
    s.memOk) :
    resOk (State.compareOp s i c u k f) := by
  unfold State.compareOp
  with_reducible repeat' first
    | assumption | apply State.scalarOp_memOk

end Sys2Proof.Machine
end

