-- ==== Sys2Proof/Laws/KeepScalar.lean ====
section
/-! SUPPORT. The scalar units, transfers of control and semaphores: every operation keeps the memory's canonical form. -/

namespace Sys2Proof.Machine

theorem opAdd_memOk (u : AluUnit) (f : OpS) (s : State) (hm : s.memOk) :
    resOk (opAdd u f s) := by
  unfold opAdd
  with_reducible repeat' first
    | assumption | apply State.aluOp_memOk

theorem opSub_memOk (u : AluUnit) (f : OpS) (s : State) (hm : s.memOk) :
    resOk (opSub u f s) := by
  unfold opSub
  with_reducible repeat' first
    | assumption | apply State.aluOp_memOk

theorem opAnd_memOk (u : AluUnit) (f : OpS) (s : State) (hm : s.memOk) :
    resOk (opAnd u f s) := by
  unfold opAnd
  with_reducible repeat' first
    | assumption | apply State.aluOp_memOk

theorem opOr_memOk (u : AluUnit) (f : OpS) (s : State) (hm : s.memOk) :
    resOk (opOr u f s) := by
  unfold opOr
  with_reducible repeat' first
    | assumption | apply State.aluOp_memOk

theorem opXor_memOk (u : AluUnit) (f : OpS) (s : State) (hm : s.memOk) :
    resOk (opXor u f s) := by
  unfold opXor
  with_reducible repeat' first
    | assumption | apply State.aluOp_memOk

theorem opAndn_memOk (u : AluUnit) (f : OpS) (s : State) (hm : s.memOk) :
    resOk (opAndn u f s) := by
  unfold opAndn
  with_reducible repeat' first
    | assumption | apply State.aluOp_memOk

theorem opOrn_memOk (u : AluUnit) (f : OpS) (s : State) (hm : s.memOk) :
    resOk (opOrn u f s) := by
  unfold opOrn
  with_reducible repeat' first
    | assumption | apply State.aluOp_memOk

theorem opShl_memOk (u : AluUnit) (f : OpS) (s : State) (hm : s.memOk) :
    resOk (opShl u f s) := by
  unfold opShl
  with_reducible repeat' first
    | assumption | apply State.aluOp_memOk

theorem opShr_memOk (u : AluUnit) (f : OpS) (s : State) (hm : s.memOk) :
    resOk (opShr u f s) := by
  unfold opShr
  with_reducible repeat' first
    | assumption | apply State.aluOp_memOk

theorem opSra_memOk (u : AluUnit) (f : OpS) (s : State) (hm : s.memOk) :
    resOk (opSra u f s) := by
  unfold opSra
  with_reducible repeat' first
    | assumption | apply State.aluOp_memOk

theorem opRor_memOk (u : AluUnit) (f : OpS) (s : State) (hm : s.memOk) :
    resOk (opRor u f s) := by
  unfold opRor
  with_reducible repeat' first
    | assumption | apply State.aluOp_memOk

theorem opMin_memOk (u : AluUnit) (f : OpS) (s : State) (hm : s.memOk) :
    resOk (opMin u f s) := by
  unfold opMin
  with_reducible repeat' first
    | assumption | apply State.aluOp_memOk

theorem opMax_memOk (u : AluUnit) (f : OpS) (s : State) (hm : s.memOk) :
    resOk (opMax u f s) := by
  unfold opMax
  with_reducible repeat' first
    | assumption | apply State.aluOp_memOk

theorem opMinn_memOk (u : AluUnit) (f : OpS) (s : State) (hm : s.memOk) :
    resOk (opMinn u f s) := by
  unfold opMinn
  with_reducible repeat' first
    | assumption | apply State.aluOp_memOk

theorem opMaxn_memOk (u : AluUnit) (f : OpS) (s : State) (hm : s.memOk) :
    resOk (opMaxn u f s) := by
  unfold opMaxn
  with_reducible repeat' first
    | assumption | apply State.aluOp_memOk

theorem opSel_memOk (u : AluUnit) (f : OpS) (s : State) (hm : s.memOk) :
    resOk (opSel u f s) := by
  unfold opSel
  with_reducible repeat' first
    | assumption | apply State.aluOp_memOk

theorem opSext8_memOk (u : AluUnit) (f : OpS) (s : State) (hm : s.memOk) :
    resOk (opSext8 u f s) := by
  unfold opSext8
  with_reducible repeat' first
    | assumption | apply State.aluOp_memOk

theorem opSext16_memOk (u : AluUnit) (f : OpS) (s : State) (hm : s.memOk) :
    resOk (opSext16 u f s) := by
  unfold opSext16
  with_reducible repeat' first
    | assumption | apply State.aluOp_memOk

theorem opSext32_memOk (u : AluUnit) (f : OpS) (s : State) (hm : s.memOk) :
    resOk (opSext32 u f s) := by
  unfold opSext32
  with_reducible repeat' first
    | assumption | apply State.aluOp_memOk

theorem opZext8_memOk (u : AluUnit) (f : OpS) (s : State) (hm : s.memOk) :
    resOk (opZext8 u f s) := by
  unfold opZext8
  with_reducible repeat' first
    | assumption | apply State.aluOp_memOk

theorem opZext16_memOk (u : AluUnit) (f : OpS) (s : State) (hm : s.memOk) :
    resOk (opZext16 u f s) := by
  unfold opZext16
  with_reducible repeat' first
    | assumption | apply State.aluOp_memOk

theorem opZext32_memOk (u : AluUnit) (f : OpS) (s : State) (hm : s.memOk) :
    resOk (opZext32 u f s) := by
  unfold opZext32
  with_reducible repeat' first
    | assumption | apply State.aluOp_memOk

theorem opClz_memOk (u : AluUnit) (f : OpS) (s : State) (hm : s.memOk) :
    resOk (opClz u f s) := by
  unfold opClz
  with_reducible repeat' first
    | assumption | apply State.aluOp_memOk

theorem opCtz_memOk (u : AluUnit) (f : OpS) (s : State) (hm : s.memOk) :
    resOk (opCtz u f s) := by
  unfold opCtz
  with_reducible repeat' first
    | assumption | apply State.aluOp_memOk

theorem opPopc_memOk (u : AluUnit) (f : OpS) (s : State) (hm : s.memOk) :
    resOk (opPopc u f s) := by
  unfold opPopc
  with_reducible repeat' first
    | assumption | apply State.aluOp_memOk

theorem opBfx_memOk (u : AluUnit) (f : OpS) (s : State) (hm : s.memOk) :
    resOk (opBfx u f s) := by
  unfold opBfx
  with_reducible repeat' first
    | assumption | apply State.aluOp_memOk

theorem opBfi_memOk (u : AluUnit) (f : OpS) (s : State) (hm : s.memOk) :
    resOk (opBfi u f s) := by
  unfold opBfi
  with_reducible repeat' first
    | assumption | apply State.aluOp_memOk

theorem opAddsh_memOk (u : AluUnit) (f : OpS) (s : State) (hm : s.memOk) :
    resOk (opAddsh u f s) := by
  unfold opAddsh
  with_reducible repeat' first
    | assumption | apply State.aluOp_memOk

theorem opCeq_memOk (u : AluUnit) (k : BitVec 4) (f : OpS) (s : State) (hm : s.memOk) :
    resOk (opCeq u k f s) := by
  unfold opCeq
  with_reducible repeat' first
    | assumption | apply State.compareOp_memOk

theorem opCne_memOk (u : AluUnit) (k : BitVec 4) (f : OpS) (s : State) (hm : s.memOk) :
    resOk (opCne u k f s) := by
  unfold opCne
  with_reducible repeat' first
    | assumption | apply State.compareOp_memOk

theorem opClt_memOk (u : AluUnit) (k : BitVec 4) (f : OpS) (s : State) (hm : s.memOk) :
    resOk (opClt u k f s) := by
  unfold opClt
  with_reducible repeat' first
    | assumption | apply State.compareOp_memOk

theorem opCle_memOk (u : AluUnit) (k : BitVec 4) (f : OpS) (s : State) (hm : s.memOk) :
    resOk (opCle u k f s) := by
  unfold opCle
  with_reducible repeat' first
    | assumption | apply State.compareOp_memOk

theorem opCltn_memOk (u : AluUnit) (k : BitVec 4) (f : OpS) (s : State) (hm : s.memOk) :
    resOk (opCltn u k f s) := by
  unfold opCltn
  with_reducible repeat' first
    | assumption | apply State.compareOp_memOk

theorem opClen_memOk (u : AluUnit) (k : BitVec 4) (f : OpS) (s : State) (hm : s.memOk) :
    resOk (opClen u k f s) := by
  unfold opClen
  with_reducible repeat' first
    | assumption | apply State.compareOp_memOk

theorem State.mulOp_memOk (s : State) (i : Instr) (f : OpS) (r : Word → Word → Word × Word) (hm : s.memOk) :
    resOk (State.mulOp s i f r) := by
  unfold State.mulOp
  with_reducible repeat' first
    | assumption | apply State.scalarOp_memOk

theorem State.divOp_memOk (s : State) (i : Instr) (f : OpS) (r : Word → Word → Word × Word) (hm : s.memOk) :
    resOk (State.divOp s i f r) := by
  unfold State.divOp
  try dsimp only
  with_reducible repeat' first
    | assumption | intro _ | (refine ok_memOk ‹_› ?_) | apply resOk_inSlot | apply resOk_pure
    | apply resOk_error | apply resOk_bind | apply resOk_raise | apply State.modMe_memOk
    | apply State.land_memOk | split

theorem opMul_memOk (f : OpS) (s : State) (hm : s.memOk) :
    resOk (opMul f s) := by
  unfold opMul
  with_reducible repeat' first
    | assumption | apply State.mulOp_memOk

theorem opMulh_memOk (f : OpS) (s : State) (hm : s.memOk) :
    resOk (opMulh f s) := by
  unfold opMulh
  with_reducible repeat' first
    | assumption | apply State.mulOp_memOk

theorem opMulhn_memOk (f : OpS) (s : State) (hm : s.memOk) :
    resOk (opMulhn f s) := by
  unfold opMulhn
  with_reducible repeat' first
    | assumption | apply State.mulOp_memOk

theorem opDiv_memOk (f : OpS) (s : State) (hm : s.memOk) :
    resOk (opDiv f s) := by
  unfold opDiv
  with_reducible repeat' first
    | assumption | apply State.divOp_memOk

theorem opDivn_memOk (f : OpS) (s : State) (hm : s.memOk) :
    resOk (opDivn f s) := by
  unfold opDivn
  with_reducible repeat' first
    | assumption | apply State.divOp_memOk

theorem opRem_memOk (f : OpS) (s : State) (hm : s.memOk) :
    resOk (opRem f s) := by
  unfold opRem
  with_reducible repeat' first
    | assumption | apply State.divOp_memOk

theorem opRemn_memOk (f : OpS) (s : State) (hm : s.memOk) :
    resOk (opRemn f s) := by
  unfold opRemn
  with_reducible repeat' first
    | assumption | apply State.divOp_memOk

theorem State.predOp_memOk (s : State) (i : Instr) (d : BitVec 5) (f : OpS) (r : Src → Src → Bool) (hm : s.memOk) :
    resOk (State.predOp s i d f r) := by
  unfold State.predOp
  try dsimp only
  with_reducible repeat' first
    | assumption | intro _ | (refine ok_memOk ‹_› ?_) | apply resOk_inSlot | apply resOk_pure | apply resOk_bind
    | apply State.land_memOk | split

theorem opPand_memOk (d : BitVec 5) (f : OpS) (s : State) (hm : s.memOk) :
    resOk (opPand d f s) := by
  unfold opPand
  with_reducible repeat' first
    | assumption | apply State.predOp_memOk

theorem opPor_memOk (d : BitVec 5) (f : OpS) (s : State) (hm : s.memOk) :
    resOk (opPor d f s) := by
  unfold opPor
  with_reducible repeat' first
    | assumption | apply State.predOp_memOk

theorem opPxor_memOk (d : BitVec 5) (f : OpS) (s : State) (hm : s.memOk) :
    resOk (opPxor d f s) := by
  unfold opPxor
  with_reducible repeat' first
    | assumption | apply State.predOp_memOk

theorem opPnot_memOk (d : BitVec 5) (f : OpS) (s : State) (hm : s.memOk) :
    resOk (opPnot d f s) := by
  unfold opPnot
  with_reducible repeat' first
    | assumption | apply State.predOp_memOk

theorem opPset_memOk (d : BitVec 5) (f : OpS) (s : State) (hm : s.memOk) :
    resOk (opPset d f s) := by
  unfold opPset
  with_reducible repeat' first
    | assumption | apply State.predOp_memOk

theorem opVany_memOk (d : BitVec 5) (f : OpS) (s : State) (hm : s.memOk) :
    resOk (opVany d f s) := by
  unfold opVany
  with_reducible repeat' first
    | assumption | apply State.predOp_memOk

theorem opVall_memOk (d : BitVec 5) (f : OpS) (s : State) (hm : s.memOk) :
    resOk (opVall d f s) := by
  unfold opVall
  with_reducible repeat' first
    | assumption | apply State.predOp_memOk

theorem State.moveOp_memOk (s : State) (i : Instr) (m : OpMove) (w : DstKind → Reg → Src → RegWrite) (byElem : Bool)
    (hm : s.memOk) :
    resOk (State.moveOp s i m w byElem) := by
  unfold State.moveOp
  try dsimp only
  with_reducible repeat' first
    | assumption | intro _ | (refine ok_memOk ‹_› ?_) | (refine some_memOk ‹_› ?_) | (refine some2_memOk ‹_› ?_)
    | apply resOk_inSlot | apply resOk_pure | apply resOk_bind | apply State.move_memOk | split

theorem execNop_memOk (s : State) (hm : s.memOk) :
    outOk (execNop s) := by
  unfold execNop
  with_reducible repeat' first
    | assumption | apply resOk_ok | apply settle_memOk

theorem opMove_memOk (m : OpMove) (s : State) (hm : s.memOk) :
    resOk (opMove m s) := by
  unfold opMove
  with_reducible repeat' first
    | assumption | apply State.move_memOk | apply State.moveOp_memOk

theorem opMoveSplat_memOk (m : OpMove) (s : State) (hm : s.memOk) :
    resOk (opMoveSplat m s) := by
  unfold opMoveSplat
  with_reducible repeat' first
    | assumption | apply State.moveOp_memOk

theorem opMoveHi_memOk (m : OpMove) (s : State) (hm : s.memOk) :
    resOk (opMoveHi m s) := by
  unfold opMoveHi
  with_reducible repeat' first
    | assumption | apply State.moveOp_memOk

theorem State.transfer_memOk (s : State) (unit : Nat) (target : Word) (lk : Option Nat) (hm : s.memOk) :
    resOk (State.transfer s unit target lk) := by
  unfold State.transfer
  with_reducible repeat' first
    | assumption | intro _ | apply resOk_pure | apply resOk_bind | apply resOk_raise | split
    | refine memOk_mk (memOk_of ?_)

theorem State.brOp_memOk (s : State) (i : Instr) (f : OpS) (target : ScalarArgs → Word) (lk : Option Nat) (hm :
    s.memOk) :
    resOk (State.brOp s i f target lk) := by
  unfold State.brOp
  try dsimp only
  with_reducible repeat' first
    | assumption | intro _ | (refine ok_memOk ‹_› ?_) | apply resOk_inSlot | apply resOk_pure | apply resOk_bind
    | apply State.transfer_memOk | split

theorem opBr_memOk (f : OpS) (s : State) (hm : s.memOk) :
    resOk (opBr f s) := by
  unfold opBr
  with_reducible repeat' first
    | assumption | apply State.brOp_memOk

theorem opCall_memOk (f : OpS) (s : State) (hm : s.memOk) :
    resOk (opCall f s) := by
  unfold opCall
  with_reducible repeat' first
    | assumption | apply State.brOp_memOk

theorem opRet_memOk (f : OpS) (s : State) (hm : s.memOk) :
    resOk (opRet f s) := by
  unfold opRet
  with_reducible repeat' first
    | assumption | intro _ | apply resOk_inSlot | apply resOk_pure | apply resOk_bind
    | apply State.transfer_memOk | split

theorem opBix_memOk (f : OpS) (s : State) (hm : s.memOk) :
    resOk (opBix f s) := by
  unfold opBix
  with_reducible repeat' first
    | assumption | apply State.brOp_memOk

theorem opLset_memOk (n : BitVec 1) (f : OpS) (s : State) (hm : s.memOk) :
    resOk (opLset n f s) := by
  unfold opLset
  try dsimp only
  with_reducible repeat' first
    | assumption | intro _ | (refine ok_memOk ‹_› ?_) | apply resOk_inSlot | apply resOk_pure | apply resOk_bind
    | apply State.move_memOk | apply State.transfer_memOk | split

theorem opLrot_memOk (f : OpS) (s : State) (hm : s.memOk) :
    resOk (opLrot f s) := by
  unfold opLrot
  try dsimp only
  with_reducible repeat' first
    | assumption | intro _ | (refine ok_memOk ‹_› ?_) | apply resOk_inSlot | apply resOk_pure | apply resOk_bind
    | apply foldl_memOk | apply State.move_memOk | split

theorem opLbrk_memOk (n : BitVec 1) (f : OpS) (s : State) (hm : s.memOk) :
    resOk (opLbrk n f s) := by
  unfold opLbrk
  try dsimp only
  with_reducible repeat' first
    | assumption | intro _ | (refine ok_memOk ‹_› ?_) | apply resOk_inSlot | apply resOk_pure | apply resOk_bind
    | apply State.move_memOk | apply State.transfer_memOk | split

theorem State.sysOp_memOk (s : State) (i : Instr) (f : OpS) (act : Word → After) (hm : s.memOk) :
    resOk (State.sysOp s i f act) := by
  unfold State.sysOp
  try dsimp only
  with_reducible repeat' first
    | assumption | intro _ | (refine ok_memOk ‹_› ?_) | apply resOk_inSlot | apply resOk_pure
    | apply resOk_error | apply resOk_bind | apply resOk_raise | apply State.modMe_memOk | split

theorem opTrap_memOk (f : OpS) (s : State) (hm : s.memOk) :
    resOk (opTrap f s) := by
  unfold opTrap
  with_reducible repeat' first
    | assumption | intro _ | apply State.sysOp_memOk

theorem opTret_memOk (f : OpS) (s : State) (hm : s.memOk) :
    resOk (opTret f s) := by
  unfold opTret
  with_reducible repeat' first
    | assumption | intro _ | apply resOk_inSlot | apply resOk_raise | apply State.sysOp_memOk | split
    | apply resOk_bind

theorem opExit_memOk (f : OpS) (s : State) (hm : s.memOk) :
    resOk (opExit f s) := by
  unfold opExit
  with_reducible repeat' first
    | assumption | apply State.sysOp_memOk

theorem opYield_memOk (f : OpS) (s : State) (hm : s.memOk) :
    resOk (opYield f s) := by
  unfold opYield
  with_reducible repeat' first
    | assumption | apply State.sysOp_memOk

theorem opSleep_memOk (f : OpS) (s : State) (hm : s.memOk) :
    resOk (opSleep f s) := by
  unfold opSleep
  try dsimp only
  with_reducible repeat' first
    | assumption | intro _ | (refine ok_memOk ‹_› ?_) | apply resOk_inSlot | apply resOk_pure | apply resOk_bind
    | apply State.modMe_memOk | split

theorem opBrk_memOk (f : OpS) (s : State) (hm : s.memOk) :
    resOk (opBrk f s) := by
  unfold opBrk
  with_reducible repeat' first
    | assumption | intro _ | apply State.sysOp_memOk

theorem State.logTake_memOk (s : State) (sem : BitVec 8) (n unit : Nat) (hm : s.memOk) :
    resOk (State.logTake s sem n unit) := by
  unfold State.logTake
  try dsimp only
  with_reducible repeat' first
    | assumption | apply resOk_ok | apply resOk_raise | apply State.modMe_memOk | split

theorem State.take_memOk (s : State) (sem : BitVec 8) (n unit : Nat) (hm : s.memOk) :
    resOk (State.take s sem n unit) := by
  unfold State.take
  with_reducible repeat' first
    | assumption | intro _ | (refine ok_memOk ‹_› ?_) | apply resOk_ok | apply resOk_pure | apply resOk_bind
    | apply State.setSem_memOk | apply State.logTake_memOk | split

theorem State.signal_memOk (s : State) (sem : BitVec 8) (isSet : Bool) (n unit : Nat) (hm : s.memOk) :
    resOk (State.signal s sem isSet n unit) := by
  unfold State.signal
  try dsimp only
  with_reducible repeat' first
    | assumption | apply resOk_ok | apply resOk_raise | apply State.setCtx_memOk | split

theorem State.smOp_memOk (s : State) (i : Instr) (f : OpS) (act : ScalarArgs → Res State) (hm : s.memOk) (hf_act : ∀
    x, resOk (act x)) :
    resOk (State.smOp s i f act) := by
  unfold State.smOp
  try dsimp only
  with_reducible repeat' first
    | assumption | intro _ | (refine ok_memOk ‹_› ?_) | apply resOk_inSlot | apply resOk_pure | apply resOk_bind
    | apply hf_act | split

theorem opSset_memOk (f : OpS) (s : State) (hm : s.memOk) :
    resOk (opSset f s) := by
  unfold opSset
  with_reducible repeat' first
    | assumption | intro _ | apply State.signal_memOk | apply State.smOp_memOk

theorem opSadd_memOk (f : OpS) (s : State) (hm : s.memOk) :
    resOk (opSadd f s) := by
  unfold opSadd
  with_reducible repeat' first
    | assumption | intro _ | apply State.signal_memOk | apply State.smOp_memOk

theorem opStake_memOk (f : OpS) (s : State) (hm : s.memOk) :
    resOk (opStake f s) := by
  unfold opStake
  try dsimp only
  with_reducible repeat' first
    | assumption | intro _ | (refine ok_memOk ‹_› ?_) | apply resOk_pure | apply resOk_bind
    | apply State.land_memOk | apply State.take_memOk | apply State.smOp_memOk | split

theorem opSwait_memOk (f : OpS) (s : State) (hm : s.memOk) :
    resOk (opSwait f s) := by
  unfold opSwait
  try dsimp only
  with_reducible repeat' first
    | assumption | intro _ | (refine ok_memOk ‹_› ?_) | apply resOk_pure | apply resOk_bind
    | apply resOk_blockAt | apply State.land_memOk | apply State.take_memOk | apply State.smOp_memOk | split

theorem State.readAhead_memOk (s : State) (ci seq : Nat) (r : Run) (hm : s.memOk) :
    (State.readAhead s ci seq r).memOk := by
  unfold State.readAhead
  with_reducible repeat' first
    | assumption | intro _ | apply State.modCtx_memOk

theorem State.settleLoads_memOk (s : State) (ci seq : Nat) (r : Run) (hm : s.memOk) :
    (State.settleLoads s ci seq r).memOk := by
  unfold State.settleLoads
  try dsimp only
  with_reducible repeat' first
    | assumption | intro _ | apply foldl_memOk | apply State.l1Fill_memOk | apply State.readAhead_memOk | split

theorem State.mloadData_memOk (s : State) (core : Nat) (m : MOp) (hm : s.memOk) : (s.mloadData core m).2.memOk := by
  unfold State.mloadData
  dsimp only
  refine pair_foldl_memOk (fun p x hp => ?_) hm
  dsimp only
  by_cases h : (s.mloadHandle m.h).ps = 15
  · simp only [h, if_true]; exact hp
  · simp only [h, if_false]; exact State.l1Read_memOk _ _ _ _ _ _ (State.settleLoads_memOk _ _ _ _ hp)

theorem State.settleMloads_memOk (s : State) (ci seq : Nat) (r : Option (List Run)) (hm : s.memOk) :
    (State.settleMloads s ci seq r).memOk := by
  unfold State.settleMloads
  try dsimp only
  with_reducible repeat' first
    | assumption | intro _ | (refine snd_memOk ‹_› ?_) | (refine fst_memOk ‹_› ?_) | (refine some_memOk ‹_› ?_)
    | (refine some2_memOk ‹_› ?_) | apply foldl_memOk | apply State.modCore_memOk | apply State.mloadData_memOk
    | split

theorem State.readMload_memOk (s : State) (core : Nat) (m : MOp) (hm : s.memOk) :
    (State.readMload s core m).2.memOk := by
  unfold State.readMload
  with_reducible repeat' first
    | assumption | (refine snd_memOk ‹_› ?_) | (refine fst_memOk ‹_› ?_) | (refine some_memOk ‹_› ?_)
    | (refine some2_memOk ‹_› ?_) | apply State.mloadData_memOk | apply State.settleMloads_memOk | split

theorem State.settleReads_memOk (s : State) (ci seq : Nat) (r : Run) (hm : s.memOk) :
    (State.settleReads s ci seq r).memOk := by
  unfold State.settleReads
  with_reducible repeat' first
    | assumption | (refine snd_memOk ‹_› ?_) | (refine fst_memOk ‹_› ?_) | (refine some_memOk ‹_› ?_)
    | (refine some2_memOk ‹_› ?_) | apply State.settleLoads_memOk | apply State.settleMloads_memOk

theorem State.settleBundle_memOk (s : State) (ci seq : Nat) (hm : s.memOk) :
    (State.settleBundle s ci seq).memOk := by
  unfold State.settleBundle
  with_reducible repeat' first
    | assumption | intro _ | (refine snd_memOk ‹_› ?_) | (refine fst_memOk ‹_› ?_) | apply foldl_memOk
    | apply State.settleLoads_memOk

end Sys2Proof.Machine
end

