-- ==== Sys2Proof/Laws/KeepLoadStore.lean ====
section
/-! SUPPORT. Loads and stores, handles, atomics and the gather queues: every operation keeps the memory's canonical form. -/

namespace Sys2Proof.Machine

theorem State.issueLoad_memOk (s : State) (h : Handle) (chunks : List (Nat × Nat)) (n : Nat) (form : LoadForm)
    (latch : Nat) (wb : Option Reg) (hm : s.memOk) :
    (State.issueLoad s h chunks n form latch wb).memOk := by
  unfold State.issueLoad
  try dsimp only
  with_reducible repeat' first
    | assumption | intro _ | (refine snd_memOk ‹_› ?_) | (refine fst_memOk ‹_› ?_) | (refine some_memOk ‹_› ?_)
    | (refine some2_memOk ‹_› ?_) | apply foldl_memOk | apply State.modMe_memOk | apply State.newTok_memOk
    | apply State.pendOn_memOk | apply State.readAhead_memOk | apply State.settleMloads_memOk | split

theorem State.loadOp_memOk (s : State) (nw : Bool) (f : OpM) (unit n a : Nat) (offs : List Word) (form : LoadForm)
    (latch : Nat)
    (wb : Option Reg) (hm : s.memOk) :
    resOk (State.loadOp s nw f unit n a offs form latch wb) := by
  unfold State.loadOp
  with_reducible repeat' first
    | assumption | intro _ | apply resOk_pure | apply resOk_bind | apply State.issueLoad_memOk | split

theorem State.storeOp_memOk (s : State) (f : OpM) (unit n a : Nat) (offs : List Word) (data : List (List Byte)) (hm
    : s.memOk) :
    resOk (State.storeOp s f unit n a offs data) := by
  unfold State.storeOp
  with_reducible repeat' first
    | assumption | intro _ | apply resOk_pure | apply resOk_bind | apply State.addRel_memOk | split

theorem State.lsOp_memOk (s : State) (i : Instr) (f : OpM) (act : Res State) (hm : s.memOk) (hf_act : resOk act) :
    resOk (State.lsOp s i f act) := by
  unfold State.lsOp
  with_reducible repeat' first
    | assumption | intro _ | apply resOk_inSlot | apply resOk_pure | apply resOk_bind | apply hf_act | split

theorem State.scalarLoad_memOk (s : State) (i : Instr) (nw : Bool) (f : OpM) (n : Nat) (sext : Bool) (hm : s.memOk) :
    resOk (State.scalarLoad s i nw f n sext) := by
  unfold State.scalarLoad
  with_reducible repeat' first
    | assumption | intro _ | apply resOk_bind | apply State.loadOp_memOk | apply State.lsOp_memOk

theorem State.scalarStore_memOk (s : State) (i : Instr) (f : OpM) (n : Nat) (hm : s.memOk) :
    resOk (State.scalarStore s i f n) := by
  unfold State.scalarStore
  with_reducible repeat' first
    | assumption | intro _ | apply resOk_bind | apply State.storeOp_memOk | apply State.lsOp_memOk

theorem opLdb_memOk (nw : Bool) (f : OpM) (s : State) (hm : s.memOk) :
    resOk (opLdb nw f s) := by
  unfold opLdb
  with_reducible repeat' first
    | assumption | apply State.scalarLoad_memOk

theorem opLdh_memOk (nw : Bool) (f : OpM) (s : State) (hm : s.memOk) :
    resOk (opLdh nw f s) := by
  unfold opLdh
  with_reducible repeat' first
    | assumption | apply State.scalarLoad_memOk

theorem opLdw_memOk (nw : Bool) (f : OpM) (s : State) (hm : s.memOk) :
    resOk (opLdw nw f s) := by
  unfold opLdw
  with_reducible repeat' first
    | assumption | apply State.scalarLoad_memOk

theorem opLdd_memOk (nw : Bool) (f : OpM) (s : State) (hm : s.memOk) :
    resOk (opLdd nw f s) := by
  unfold opLdd
  with_reducible repeat' first
    | assumption | apply State.scalarLoad_memOk

theorem opLdbn_memOk (nw : Bool) (f : OpM) (s : State) (hm : s.memOk) :
    resOk (opLdbn nw f s) := by
  unfold opLdbn
  with_reducible repeat' first
    | assumption | apply State.scalarLoad_memOk

theorem opLdhn_memOk (nw : Bool) (f : OpM) (s : State) (hm : s.memOk) :
    resOk (opLdhn nw f s) := by
  unfold opLdhn
  with_reducible repeat' first
    | assumption | apply State.scalarLoad_memOk

theorem opLdwn_memOk (nw : Bool) (f : OpM) (s : State) (hm : s.memOk) :
    resOk (opLdwn nw f s) := by
  unfold opLdwn
  with_reducible repeat' first
    | assumption | apply State.scalarLoad_memOk

theorem opStb_memOk (f : OpM) (s : State) (hm : s.memOk) :
    resOk (opStb f s) := by
  unfold opStb
  with_reducible repeat' first
    | assumption | apply State.scalarStore_memOk

theorem opSth_memOk (f : OpM) (s : State) (hm : s.memOk) :
    resOk (opSth f s) := by
  unfold opSth
  with_reducible repeat' first
    | assumption | apply State.scalarStore_memOk

theorem opStw_memOk (f : OpM) (s : State) (hm : s.memOk) :
    resOk (opStw f s) := by
  unfold opStw
  with_reducible repeat' first
    | assumption | apply State.scalarStore_memOk

theorem opStd_memOk (f : OpM) (s : State) (hm : s.memOk) :
    resOk (opStd f s) := by
  unfold opStd
  with_reducible repeat' first
    | assumption | apply State.scalarStore_memOk

theorem opVld_memOk (fmt : BitVec 4) (nw : Bool) (f : OpM) (s : State) (hm : s.memOk) :
    resOk (opVld fmt nw f s) := by
  unfold opVld
  with_reducible repeat' first
    | assumption | intro _ | apply resOk_bind | apply State.loadOp_memOk | apply State.lsOp_memOk

theorem opVst_memOk (fmt : BitVec 4) (f : OpM) (s : State) (hm : s.memOk) :
    resOk (opVst fmt f s) := by
  unfold opVst
  try dsimp only
  with_reducible repeat' first
    | assumption | intro _ | apply resOk_bind | apply resOk_raiseTag | apply State.storeOp_memOk
    | apply State.lsOp_memOk | split

theorem opVlds_memOk (nw : Bool) (f : OpM) (s : State) (hm : s.memOk) :
    resOk (opVlds nw f s) := by
  unfold opVlds
  with_reducible repeat' first
    | assumption | intro _ | apply resOk_bind | apply State.loadOp_memOk | apply State.lsOp_memOk

theorem opVsts_memOk (f : OpM) (s : State) (hm : s.memOk) :
    resOk (opVsts f s) := by
  unfold opVsts
  with_reducible repeat' first
    | assumption | intro _ | apply resOk_bind | apply State.storeOp_memOk | apply State.lsOp_memOk

theorem opVldx_memOk (nw : Bool) (f : OpM) (s : State) (hm : s.memOk) :
    resOk (opVldx nw f s) := by
  unfold opVldx
  with_reducible repeat' first
    | assumption | intro _ | apply resOk_bind | apply State.loadOp_memOk | apply State.lsOp_memOk

theorem opVstx_memOk (f : OpM) (s : State) (hm : s.memOk) :
    resOk (opVstx f s) := by
  unfold opVstx
  with_reducible repeat' first
    | assumption | intro _ | apply resOk_bind | apply State.storeOp_memOk | apply State.lsOp_memOk

theorem opFewait_memOk (f : OpM) (s : State) (hm : s.memOk) :
    resOk (opFewait f s) := by
  unfold opFewait
  with_reducible repeat' first
    | assumption | intro _ | apply resOk_pure | apply resOk_bind | apply resOk_blockAt | apply State.lsOp_memOk
    | split

theorem State.feAct_memOk (s : State) (i : Instr) (f : OpM) (full : Bool) (hm : s.memOk) :
    resOk (State.feAct s i f full) := by
  unfold State.feAct
  with_reducible repeat' first
    | assumption | intro _ | (refine ok_memOk ‹_› ?_) | apply resOk_pure | apply resOk_bind
    | apply State.limit_memOk | apply State.addRel_memOk | apply State.lsOp_memOk

theorem opFeclr_memOk (f : OpM) (s : State) (hm : s.memOk) :
    resOk (opFeclr f s) := by
  unfold opFeclr
  with_reducible repeat' first
    | assumption | apply State.feAct_memOk

theorem opFeset_memOk (f : OpM) (s : State) (hm : s.memOk) :
    resOk (opFeset f s) := by
  unfold opFeset
  with_reducible repeat' first
    | assumption | apply State.feAct_memOk

theorem opFetst_memOk (f : OpM) (s : State) (hm : s.memOk) :
    resOk (opFetst f s) := by
  unfold opFetst
  with_reducible repeat' first
    | assumption | intro _ | apply resOk_pure | apply resOk_bind | apply State.modMe_memOk
    | apply State.newTok_memOk | apply State.pendOn_memOk | apply State.lsOp_memOk

theorem opRel_memOk (sc : Scope) (f : OpM) (s : State) (hm : s.memOk) :
    resOk (opRel sc f s) := by
  unfold opRel
  try dsimp only
  with_reducible repeat' first
    | assumption | intro _ | (refine snd_memOk ‹_› ?_) | (refine fst_memOk ‹_› ?_) | (refine ok_memOk ‹_› ?_)
    | apply resOk_inSlot | apply resOk_pure | apply resOk_bind | apply resOk_blockAt | apply State.limit_memOk
    | apply State.newTok_memOk | apply State.addRel_memOk | split

theorem State.invalL1_memOk (s : State) (core : Nat) (hm : s.memOk) :
    (State.invalL1 s core).memOk := by
  unfold State.invalL1
  with_reducible repeat' first
    | assumption | apply State.modCore_memOk

theorem State.wbRdc_memOk (s : State) (d : Nat) (hm : s.memOk) :
    (State.wbRdc s d).memOk := by
  unfold State.wbRdc
  with_reducible repeat' first
    | assumption | apply foldl_memOk | apply State.modDie_memOk | apply State.wbRdcLine_memOk

theorem State.flushRdc_memOk (s : State) (d : Nat) (hm : s.memOk) :
    (State.flushRdc s d).memOk := by
  unfold State.flushRdc
  with_reducible repeat' first
    | assumption | apply State.modDie_memOk | apply State.wbRdc_memOk

theorem opAcq_memOk (sc : Scope) (f : OpM) (s : State) (hm : s.memOk) :
    resOk (opAcq sc f s) := by
  unfold opAcq
  try dsimp only
  with_reducible repeat' first
    | assumption | intro _ | apply resOk_pure | apply resOk_error | apply resOk_bind | apply resOk_raise
    | apply resOk_blockAt | apply State.settleMloads_memOk | apply State.lsOp_memOk | apply State.invalL1_memOk
    | apply State.flushRdc_memOk | split

theorem State.cacheOp_memOk (s : State) (i : Instr) (f : OpM) (inv : Bool) (hm : s.memOk) :
    resOk (State.cacheOp s i f inv) := by
  unfold State.cacheOp
  with_reducible repeat' first
    | assumption | intro _ | apply resOk_pure | apply resOk_bind | apply State.addRel_memOk
    | apply State.lsOp_memOk | split

theorem opCwb_memOk (f : OpM) (s : State) (hm : s.memOk) :
    resOk (opCwb f s) := by
  unfold opCwb
  with_reducible repeat' first
    | assumption | apply State.cacheOp_memOk

theorem opCinv_memOk (f : OpM) (s : State) (hm : s.memOk) :
    resOk (opCinv f s) := by
  unfold opCinv
  with_reducible repeat' first
    | assumption | apply State.cacheOp_memOk

theorem State.performStore_memOk (s : State) (core : Nat) (slot : BitVec 4) (gen : BitVec 12) (g : Gated) (hm :
    s.memOk) :
    (State.performStore s core slot gen g).memOk := by
  unfold State.performStore
  with_reducible repeat' first
    | assumption | intro _ | apply foldl_memOk | apply State.l1Writes_memOk | apply State.spadWrites_memOk
    | split

theorem State.landPart_memOk (s : State) (core : Nat) (ld : PendLoad) (p : LoadPart) (hm : s.memOk) :
    (State.landPart s core ld p).2.memOk := by
  unfold State.landPart
  with_reducible repeat' first
    | assumption | apply State.l1Read_memOk | split | refine memOk_mk (memOk_of ?_)

theorem State.landParts_memOk (s : State) (core : Nat) (ld : PendLoad) (l : List LoadPart) (hm : s.memOk) :
    (s.landParts core ld l).2.memOk := by
  induction l generalizing s with
  | nil => exact hm
  | cons p r ih =>
    unfold State.landParts
    exact ih _ (State.landPart_memOk _ _ _ _ hm)

theorem State.landLoad_memOk (s : State) (ci : Nat) (ld : PendLoad) (hm : s.memOk) :
    (State.landLoad s ci ld).memOk := by
  unfold State.landLoad
  with_reducible repeat' first
    | assumption | apply State.modCtx_memOk | apply State.landParts_memOk

theorem State.settleParts_memOk (s : State) (ci : Nat) (ld : PendLoad) (hm : s.memOk) :
    (State.settleParts s ci ld).memOk := by
  unfold State.settleParts
  with_reducible repeat' first
    | assumption | intro _ | apply foldl_memOk | apply State.settleReads_memOk | split

theorem State.settleStore_memOk (s : State) (ci seq : Nat) (g : Gated) (hm : s.memOk) :
    (State.settleStore s ci seq g).memOk := by
  unfold State.settleStore
  try dsimp only
  with_reducible repeat' first
    | assumption | intro _ | (refine snd_memOk ‹_› ?_) | (refine fst_memOk ‹_› ?_) | apply foldl_memOk
    | apply pair_foldl_memOk | apply State.settleReads_memOk | apply State.settleBundle_memOk | split

theorem State.settleRest_memOk (s : State) (ci : Nat) (g : Gated) (hm : s.memOk) :
    (State.settleRest s ci g).memOk := by
  unfold State.settleRest
  try dsimp only
  with_reducible repeat' first
    | assumption | intro _ | apply foldl_memOk | apply State.settleLoads_memOk | split

theorem execLoadLanding_memOk (core ctx token : Nat) (s : State) (hm : s.memOk) :
    outOk (execLoadLanding core ctx token s) := by
  unfold execLoadLanding
  try dsimp only
  with_reducible repeat' first
    | assumption | intro _ | (refine some_memOk ‹_› ?_) | (refine some2_memOk ‹_› ?_) | apply outOk_next
    | apply State.modCtx_memOk | apply State.landLoad_memOk | apply State.settleParts_memOk | split

theorem State.xlatPending_memOk (s : State) (n : Nat) (va : Word) (failed : Option Nat) (hm : s.memOk) :
    (State.xlatPending s n va failed).memOk := by
  unfold State.xlatPending
  try dsimp only
  with_reducible repeat' first
    | assumption | intro _ | (refine snd_memOk ‹_› ?_) | (refine fst_memOk ‹_› ?_) | apply State.modMyCore_memOk
    | apply State.land_memOk | apply State.newTok_memOk

theorem opXlat_memOk (f : OpM) (s : State) (hm : s.memOk) :
    resOk (opXlat f s) := by
  unfold opXlat
  try dsimp only
  with_reducible repeat' first
    | assumption | intro _ | (refine ok_memOk ‹_› ?_) | (refine some_memOk ‹_› ?_) | (refine some2_memOk ‹_› ?_)
    | apply resOk_inSlot | apply resOk_pure | apply resOk_bind | apply State.land_memOk
    | apply State.xlatPending_memOk | split

theorem opHdrop_memOk (f : OpM) (s : State) (hm : s.memOk) :
    resOk (opHdrop f s) := by
  unfold opHdrop
  with_reducible repeat' first
    | assumption | intro _ | apply resOk_inSlot | apply resOk_pure | apply resOk_bind | apply State.land_memOk
    | split

theorem opHchk_memOk (f : OpM) (s : State) (hm : s.memOk) :
    resOk (opHchk f s) := by
  unfold opHchk
  try dsimp only
  with_reducible repeat' first
    | assumption | intro _ | apply resOk_inSlot | apply resOk_pure | apply resOk_bind | apply State.land_memOk
    | split

theorem State.walkGood_memOk (s : State) (core : Nat) (w : Walk) (h : Handle) (hm : s.memOk) :
    (State.walkGood s core w h).memOk := by
  unfold State.walkGood
  try dsimp only
  with_reducible repeat' first
    | assumption | intro _ | (refine some_memOk ‹_› ?_) | (refine some2_memOk ‹_› ?_) | apply State.modCtx_memOk
    | apply State.modCore_memOk | split

theorem State.walkEnd_memOk (s : State) (core : Nat) (w : Walk) (hm : s.memOk) :
    (State.walkEnd s core w).memOk := by
  unfold State.walkEnd
  try dsimp only
  with_reducible repeat' first
    | assumption | intro _ | (refine snd_memOk ‹_› ?_) | (refine fst_memOk ‹_› ?_) | (refine ok_memOk ‹_› ?_)
    | (refine some_memOk ‹_› ?_) | (refine some2_memOk ‹_› ?_) | apply State.modCore_memOk
    | apply State.touchWalk_memOk | apply State.tcAdd_memOk | apply State.walkGood_memOk | split

theorem execWalkComplete_memOk (core walk : Nat) (s : State) (hm : s.memOk) :
    outOk (execWalkComplete core walk s) := by
  unfold execWalkComplete
  with_reducible repeat' first
    | assumption | intro _ | (refine snd_memOk ‹_› ?_) | (refine fst_memOk ‹_› ?_) | (refine some_memOk ‹_› ?_)
    | (refine some2_memOk ‹_› ?_) | apply outOk_next | apply State.walkEnd_memOk | split

theorem State.atomicOp_memOk (s : State) (i : Instr) (op : Nat) (sc : Scope) (f : OpM) (hm : s.memOk) :
    resOk (State.atomicOp s i op sc f) := by
  unfold State.atomicOp
  try dsimp only
  with_reducible repeat' first
    | assumption | intro _ | (refine snd_memOk ‹_› ?_) | (refine fst_memOk ‹_› ?_) | (refine ok_memOk ‹_› ?_)
    | apply resOk_inSlot | apply resOk_pure | apply resOk_bind | apply State.limit_memOk
    | apply State.newTok_memOk | apply State.pendOn_memOk | apply State.addRel_memOk | split

theorem opAadd_memOk (sc : Scope) (f : OpM) (s : State) (hm : s.memOk) :
    resOk (opAadd sc f s) := by
  unfold opAadd
  with_reducible repeat' first
    | assumption | apply State.atomicOp_memOk

theorem opAand_memOk (sc : Scope) (f : OpM) (s : State) (hm : s.memOk) :
    resOk (opAand sc f s) := by
  unfold opAand
  with_reducible repeat' first
    | assumption | apply State.atomicOp_memOk

theorem opAor_memOk (sc : Scope) (f : OpM) (s : State) (hm : s.memOk) :
    resOk (opAor sc f s) := by
  unfold opAor
  with_reducible repeat' first
    | assumption | apply State.atomicOp_memOk

theorem opAxor_memOk (sc : Scope) (f : OpM) (s : State) (hm : s.memOk) :
    resOk (opAxor sc f s) := by
  unfold opAxor
  with_reducible repeat' first
    | assumption | apply State.atomicOp_memOk

theorem opAxchg_memOk (sc : Scope) (f : OpM) (s : State) (hm : s.memOk) :
    resOk (opAxchg sc f s) := by
  unfold opAxchg
  with_reducible repeat' first
    | assumption | apply State.atomicOp_memOk

theorem opAcas_memOk (sc : Scope) (f : OpM) (s : State) (hm : s.memOk) :
    resOk (opAcas sc f s) := by
  unfold opAcas
  with_reducible repeat' first
    | assumption | apply State.atomicOp_memOk

theorem opAmax_memOk (sc : Scope) (f : OpM) (s : State) (hm : s.memOk) :
    resOk (opAmax sc f s) := by
  unfold opAmax
  with_reducible repeat' first
    | assumption | apply State.atomicOp_memOk

theorem State.atomicAt_memOk (s : State) (core : Nat) (sc : Scope) (a : Acc) (sh : Bool) (pa : Nat) (hm : s.memOk) :
    (s.atomicAt core sc a sh pa).2.2.1.memOk ∧
      ∀ z v, z.memOk → ((s.atomicAt core sc a sh pa).2.2.2 z v).memOk := by
  unfold State.atomicAt
  split
  · exact ⟨State.l1Read_memOk _ _ _ _ _ _ hm, fun z v h => State.l1Writes_memOk _ _ _ _ _ _ _ h⟩
  · have q : (if sc ≠ .d ∧ paDie pa ≠ dieOf core then
        (s.dropL1Line core (pa / 1024)).dropRdcLine (dieOf core) (pa / 1024)
      else s.dropL1Line core (pa / 1024)).memOk := by
      split
      · exact State.dropRdcLine_memOk _ _ _ (State.dropL1Line_memOk _ _ _ hm)
      · exact State.dropL1Line_memOk _ _ _ hm
    dsimp only
    split
    · refine ⟨State.rdcSector_memOk _ _ _ _ q, fun z v h => ?_⟩
      dsimp only
      split
      · exact h
      · exact State.modDie_memOk _ _ _ h
    · refine ⟨State.countRead_memOk _ _ _ (State.l2Fill_memOk _ _ _ q), fun z v h => ?_⟩
      dsimp only
      split
      · exact h
      · exact State.homeWrites_memOk _ _ _ _ h

theorem State.atomicDo_memOk (s : State) (core op : Nat) (sc : Scope) (a : Acc) (sh : Bool) (pa : Nat) (t cmp : Word)
    (hm : s.memOk) : (s.atomicDo core op sc a sh pa t cmp).2.2.memOk := by
  have q := State.atomicAt_memOk s core sc a sh pa hm
  unfold State.atomicDo
  generalize s.atomicAt core sc a sh pa = e at q
  obtain ⟨old, pois, s1, put⟩ := e
  dsimp only
  split
  · exact q.1
  · split
    · exact q.1
    · exact q.2 _ _ q.1

theorem opGpush_memOk (f : OpS) (s : State) (hm : s.memOk) :
    resOk (opGpush f s) := by
  unfold opGpush
  try dsimp only
  with_reducible repeat' first
    | assumption | intro _ | (refine ok_memOk ‹_› ?_) | apply resOk_inSlot | apply resOk_pure
    | apply resOk_error | apply resOk_bind | apply resOk_raise | apply State.modMe_memOk | split

theorem opGpop_memOk (f : OpS) (s : State) (hm : s.memOk) :
    resOk (opGpop f s) := by
  unfold opGpop
  try dsimp only
  with_reducible repeat' first
    | assumption | intro _ | apply resOk_inSlot | apply resOk_pure | apply resOk_error | apply resOk_bind
    | apply resOk_raise | apply State.modMe_memOk | apply State.land_memOk | split

theorem execGatherRowArrival_memOk (core ctx : Nat) (s : State) (hm : s.memOk) :
    outOk (execGatherRowArrival core ctx s) := by
  unfold execGatherRowArrival
  with_reducible repeat' first
    | assumption | apply outOk_next | apply State.modCtx_memOk

end Sys2Proof.Machine
end

