-- ==== Sys2Proof/Laws/KeepVector.lean ====
section
/-! SUPPORT. The vector units: every operation keeps the memory's canonical form. -/

namespace Sys2Proof.Machine

theorem State.vecOp_memOk (s : State) (i : Instr) (u : VecUnit) (f : OpS) (lat range : Nat) (act : VArgs → Res (List
    RegWrite)) (rounds : Bool) (hm : s.memOk) :
    resOk (State.vecOp s i u f lat range act rounds) := by
  unfold State.vecOp
  try dsimp only
  with_reducible repeat' first
    | assumption | intro _ | (refine snd_memOk ‹_› ?_) | (refine fst_memOk ‹_› ?_) | (refine ok_memOk ‹_› ?_)
    | apply resOk_inSlot | apply resOk_ok | apply resOk_pure | apply resOk_error | apply resOk_bind
    | apply State.land_memOk | split

theorem State.vint_memOk (s : State) (i : Instr) (u : VecUnit) (f : OpS) (r : BiasRule) (e : Nat → Nat → Nat → Nat →
    Nat) (hm : s.memOk) :
    resOk (State.vint s i u f r e) := by
  unfold State.vint
  with_reducible repeat' first
    | assumption | apply State.vecOp_memOk

theorem opVadd_memOk (u : VecUnit) (f : OpS) (s : State) (hm : s.memOk) :
    resOk (opVadd u f s) := by
  unfold opVadd
  with_reducible repeat' first
    | assumption | apply State.vint_memOk

theorem opVsub_memOk (u : VecUnit) (f : OpS) (s : State) (hm : s.memOk) :
    resOk (opVsub u f s) := by
  unfold opVsub
  with_reducible repeat' first
    | assumption | apply State.vint_memOk

theorem opVmul_memOk (u : VecUnit) (f : OpS) (s : State) (hm : s.memOk) :
    resOk (opVmul u f s) := by
  unfold opVmul
  with_reducible repeat' first
    | assumption | apply State.vint_memOk

theorem opVmulh_memOk (u : VecUnit) (f : OpS) (s : State) (hm : s.memOk) :
    resOk (opVmulh u f s) := by
  unfold opVmulh
  with_reducible repeat' first
    | assumption | apply State.vint_memOk

theorem opVmin_memOk (u : VecUnit) (f : OpS) (s : State) (hm : s.memOk) :
    resOk (opVmin u f s) := by
  unfold opVmin
  with_reducible repeat' first
    | assumption | apply State.vint_memOk

theorem opVmax_memOk (u : VecUnit) (f : OpS) (s : State) (hm : s.memOk) :
    resOk (opVmax u f s) := by
  unfold opVmax
  with_reducible repeat' first
    | assumption | apply State.vint_memOk

theorem opVminn_memOk (u : VecUnit) (f : OpS) (s : State) (hm : s.memOk) :
    resOk (opVminn u f s) := by
  unfold opVminn
  with_reducible repeat' first
    | assumption | apply State.vint_memOk

theorem opVmaxn_memOk (u : VecUnit) (f : OpS) (s : State) (hm : s.memOk) :
    resOk (opVmaxn u f s) := by
  unfold opVmaxn
  with_reducible repeat' first
    | assumption | apply State.vint_memOk

theorem State.vbit_memOk (s : State) (i : Instr) (u : VecUnit) (f : OpS) (e : Nat → Nat → Nat) (hm : s.memOk) :
    resOk (State.vbit s i u f e) := by
  unfold State.vbit
  with_reducible repeat' first
    | assumption | apply State.vecOp_memOk

theorem opVand_memOk (u : VecUnit) (f : OpS) (s : State) (hm : s.memOk) :
    resOk (opVand u f s) := by
  unfold opVand
  with_reducible repeat' first
    | assumption | apply State.vbit_memOk

theorem opVor_memOk (u : VecUnit) (f : OpS) (s : State) (hm : s.memOk) :
    resOk (opVor u f s) := by
  unfold opVor
  with_reducible repeat' first
    | assumption | apply State.vbit_memOk

theorem opVxor_memOk (u : VecUnit) (f : OpS) (s : State) (hm : s.memOk) :
    resOk (opVxor u f s) := by
  unfold opVxor
  with_reducible repeat' first
    | assumption | apply State.vbit_memOk

theorem opVandn_memOk (u : VecUnit) (f : OpS) (s : State) (hm : s.memOk) :
    resOk (opVandn u f s) := by
  unfold opVandn
  with_reducible repeat' first
    | assumption | apply State.vbit_memOk

theorem opVshl_memOk (u : VecUnit) (f : OpS) (s : State) (hm : s.memOk) :
    resOk (opVshl u f s) := by
  unfold opVshl
  with_reducible repeat' first
    | assumption | apply State.vint_memOk

theorem opVshr_memOk (u : VecUnit) (f : OpS) (s : State) (hm : s.memOk) :
    resOk (opVshr u f s) := by
  unfold opVshr
  with_reducible repeat' first
    | assumption | apply State.vint_memOk

theorem opVsra_memOk (u : VecUnit) (f : OpS) (s : State) (hm : s.memOk) :
    resOk (opVsra u f s) := by
  unfold opVsra
  with_reducible repeat' first
    | assumption | apply State.vint_memOk

theorem opVabs_memOk (u : VecUnit) (f : OpS) (s : State) (hm : s.memOk) :
    resOk (opVabs u f s) := by
  unfold opVabs
  with_reducible repeat' first
    | assumption | apply State.vint_memOk

theorem opVadds_memOk (u : VecUnit) (f : OpS) (s : State) (hm : s.memOk) :
    resOk (opVadds u f s) := by
  unfold opVadds
  with_reducible repeat' first
    | assumption | apply State.vint_memOk

theorem opVsubs_memOk (u : VecUnit) (f : OpS) (s : State) (hm : s.memOk) :
    resOk (opVsubs u f s) := by
  unfold opVsubs
  with_reducible repeat' first
    | assumption | apply State.vint_memOk

theorem State.vfl2_memOk (s : State) (i : Instr) (u : VecUnit) (f : OpS) (e : Nat → FVal → FVal → FVal) (hm :
    s.memOk) :
    resOk (State.vfl2 s i u f e) := by
  unfold State.vfl2
  try dsimp only
  with_reducible repeat' first
    | assumption | intro _ | (refine snd_memOk ‹_› ?_) | (refine fst_memOk ‹_› ?_) | (refine ok_memOk ‹_› ?_)
    | apply resOk_ok | apply resOk_pure | apply resOk_error | apply resOk_bind | apply State.vecOp_memOk

theorem State.vfl3_memOk (s : State) (i : Instr) (u : VecUnit) (f : OpS) (neg : Bool) (hm : s.memOk) :
    resOk (State.vfl3 s i u f neg) := by
  unfold State.vfl3
  try dsimp only
  with_reducible repeat' first
    | assumption | intro _ | (refine snd_memOk ‹_› ?_) | (refine fst_memOk ‹_› ?_) | (refine ok_memOk ‹_› ?_)
    | apply resOk_ok | apply resOk_pure | apply resOk_error | apply resOk_bind | apply resOk_raiseTag
    | apply State.vecOp_memOk

theorem opVfadd_memOk (u : VecUnit) (f : OpS) (s : State) (hm : s.memOk) :
    resOk (opVfadd u f s) := by
  unfold opVfadd
  with_reducible repeat' first
    | assumption | apply State.vfl2_memOk

theorem opVfsub_memOk (u : VecUnit) (f : OpS) (s : State) (hm : s.memOk) :
    resOk (opVfsub u f s) := by
  unfold opVfsub
  with_reducible repeat' first
    | assumption | apply State.vfl2_memOk

theorem opVfmul_memOk (u : VecUnit) (f : OpS) (s : State) (hm : s.memOk) :
    resOk (opVfmul u f s) := by
  unfold opVfmul
  try dsimp only
  with_reducible repeat' first
    | assumption | intro _ | (refine snd_memOk ‹_› ?_) | (refine fst_memOk ‹_› ?_) | (refine ok_memOk ‹_› ?_)
    | apply resOk_ok | apply resOk_pure | apply resOk_error | apply resOk_bind | apply State.vecOp_memOk

theorem opVfma_memOk (u : VecUnit) (f : OpS) (s : State) (hm : s.memOk) :
    resOk (opVfma u f s) := by
  unfold opVfma
  with_reducible repeat' first
    | assumption | apply State.vfl3_memOk

theorem opVfnma_memOk (u : VecUnit) (f : OpS) (s : State) (hm : s.memOk) :
    resOk (opVfnma u f s) := by
  unfold opVfnma
  with_reducible repeat' first
    | assumption | apply State.vfl3_memOk

theorem opVfmin_memOk (u : VecUnit) (f : OpS) (s : State) (hm : s.memOk) :
    resOk (opVfmin u f s) := by
  unfold opVfmin
  with_reducible repeat' first
    | assumption | apply State.vfl2_memOk

theorem opVfmax_memOk (u : VecUnit) (f : OpS) (s : State) (hm : s.memOk) :
    resOk (opVfmax u f s) := by
  unfold opVfmax
  with_reducible repeat' first
    | assumption | apply State.vfl2_memOk

theorem State.vtrans_memOk (s : State) (i : Instr) (u : VecUnit) (f : OpS) (op : Nat) (hm : s.memOk) :
    resOk (State.vtrans s i u f op) := by
  unfold State.vtrans
  try dsimp only
  with_reducible repeat' first
    | assumption | intro _ | (refine snd_memOk ‹_› ?_) | (refine fst_memOk ‹_› ?_) | (refine ok_memOk ‹_› ?_)
    | apply resOk_ok | apply resOk_pure | apply resOk_error | apply resOk_bind | apply State.vecOp_memOk

theorem opVrcp_memOk (u : VecUnit) (f : OpS) (s : State) (hm : s.memOk) :
    resOk (opVrcp u f s) := by
  unfold opVrcp
  with_reducible repeat' first
    | assumption | apply State.vtrans_memOk

theorem opVrsq_memOk (u : VecUnit) (f : OpS) (s : State) (hm : s.memOk) :
    resOk (opVrsq u f s) := by
  unfold opVrsq
  with_reducible repeat' first
    | assumption | apply State.vtrans_memOk

theorem opVexp2_memOk (u : VecUnit) (f : OpS) (s : State) (hm : s.memOk) :
    resOk (opVexp2 u f s) := by
  unfold opVexp2
  with_reducible repeat' first
    | assumption | apply State.vtrans_memOk

theorem opVlog2_memOk (u : VecUnit) (f : OpS) (s : State) (hm : s.memOk) :
    resOk (opVlog2 u f s) := by
  unfold opVlog2
  with_reducible repeat' first
    | assumption | apply State.vtrans_memOk

theorem opVtanh_memOk (u : VecUnit) (f : OpS) (s : State) (hm : s.memOk) :
    resOk (opVtanh u f s) := by
  unfold opVtanh
  with_reducible repeat' first
    | assumption | apply State.vtrans_memOk

theorem opVscale_memOk (u : VecUnit) (f : OpS) (s : State) (hm : s.memOk) :
    resOk (opVscale u f s) := by
  unfold opVscale
  try dsimp only
  with_reducible repeat' first
    | assumption | intro _ | (refine snd_memOk ‹_› ?_) | (refine fst_memOk ‹_› ?_) | apply resOk_ok
    | apply resOk_pure | apply resOk_error | apply resOk_bind | apply resOk_raiseTag | apply State.vecOp_memOk

theorem opVtag_memOk (u : VecUnit) (f : OpS) (s : State) (hm : s.memOk) :
    resOk (opVtag u f s) := by
  unfold opVtag
  with_reducible repeat' first
    | assumption | apply State.vecOp_memOk

theorem opVcvt_memOk (u : VecUnit) (fmt : BitVec 4) (f : OpS) (s : State) (hm : s.memOk) :
    resOk (opVcvt u fmt f s) := by
  unfold opVcvt
  try dsimp only
  with_reducible repeat' first
    | assumption | intro _ | (refine snd_memOk ‹_› ?_) | (refine fst_memOk ‹_› ?_) | (refine ok_memOk ‹_› ?_)
    | apply resOk_ok | apply resOk_pure | apply resOk_error | apply resOk_bind | apply resOk_raiseTag
    | apply State.vecOp_memOk

theorem State.vlane_memOk (s : State) (i : Instr) (u : VecUnit) (f : OpS) (e : VArgs → Nat → Nat → Nat → Nat) (hm :
    s.memOk) :
    resOk (State.vlane s i u f e) := by
  unfold State.vlane
  try dsimp only
  with_reducible repeat' first
    | assumption | intro _ | (refine ok_memOk ‹_› ?_) | apply resOk_pure | apply resOk_bind
    | apply State.vecOp_memOk

theorem opVsplat_memOk (u : VecUnit) (f : OpS) (s : State) (hm : s.memOk) :
    resOk (opVsplat u f s) := by
  unfold opVsplat
  with_reducible repeat' first
    | assumption | apply State.vlane_memOk

theorem opVins_memOk (u : VecUnit) (f : OpS) (s : State) (hm : s.memOk) :
    resOk (opVins u f s) := by
  unfold opVins
  with_reducible repeat' first
    | assumption | apply State.vlane_memOk

theorem opVext_memOk (u : VecUnit) (f : OpS) (s : State) (hm : s.memOk) :
    resOk (opVext u f s) := by
  unfold opVext
  try dsimp only
  with_reducible repeat' first
    | assumption | intro _ | (refine ok_memOk ‹_› ?_) | apply resOk_pure | apply resOk_bind
    | apply State.vecOp_memOk

theorem opVperm_memOk (u : VecUnit) (f : OpS) (s : State) (hm : s.memOk) :
    resOk (opVperm u f s) := by
  unfold opVperm
  with_reducible repeat' first
    | assumption | apply State.vlane_memOk

theorem opVrot_memOk (u : VecUnit) (f : OpS) (s : State) (hm : s.memOk) :
    resOk (opVrot u f s) := by
  unfold opVrot
  with_reducible repeat' first
    | assumption | apply State.vlane_memOk

theorem opVsel_memOk (u : VecUnit) (f : OpS) (s : State) (hm : s.memOk) :
    resOk (opVsel u f s) := by
  unfold opVsel
  try dsimp only
  with_reducible repeat' first
    | assumption | intro _ | (refine ok_memOk ‹_› ?_) | apply resOk_pure | apply resOk_bind
    | apply State.vecOp_memOk

theorem opVcomp_memOk (u : VecUnit) (f : OpS) (s : State) (hm : s.memOk) :
    resOk (opVcomp u f s) := by
  unfold opVcomp
  try dsimp only
  with_reducible repeat' first
    | assumption | intro _ | (refine ok_memOk ‹_› ?_) | apply resOk_pure | apply resOk_bind
    | apply State.vecOp_memOk

theorem State.vred_memOk (s : State) (i : Instr) (u : VecUnit) (f : OpS) (lat : Nat) (act : VArgs → Nat → List (Nat
    × Nat) → Wide) (rounds : Bool) (hm : s.memOk) :
    resOk (State.vred s i u f lat act rounds) := by
  unfold State.vred
  try dsimp only
  with_reducible repeat' first
    | assumption | intro _ | (refine snd_memOk ‹_› ?_) | (refine fst_memOk ‹_› ?_) | (refine ok_memOk ‹_› ?_)
    | apply resOk_ok | apply resOk_pure | apply resOk_error | apply resOk_bind | apply State.vecOp_memOk

theorem opVsum_memOk (u : VecUnit) (f : OpS) (s : State) (hm : s.memOk) :
    resOk (opVsum u f s) := by
  unfold opVsum
  try dsimp only
  with_reducible repeat' first
    | assumption | intro _ | (refine snd_memOk ‹_› ?_) | (refine fst_memOk ‹_› ?_) | apply resOk_ok
    | apply resOk_pure | apply resOk_error | apply resOk_bind | apply foldl_memOk | apply pair_foldl_memOk
    | apply State.vred_memOk

theorem opVmaxr_memOk (u : VecUnit) (f : OpS) (s : State) (hm : s.memOk) :
    resOk (opVmaxr u f s) := by
  unfold opVmaxr
  with_reducible repeat' first
    | assumption | apply State.vred_memOk

theorem opVargmax_memOk (u : VecUnit) (f : OpS) (s : State) (hm : s.memOk) :
    resOk (opVargmax u f s) := by
  unfold opVargmax
  with_reducible repeat' first
    | assumption | apply State.vred_memOk

theorem opVrng_memOk (u : VecUnit) (f : OpS) (s : State) (hm : s.memOk) :
    resOk (opVrng u f s) := by
  unfold opVrng
  with_reducible repeat' first
    | assumption | apply State.vecOp_memOk

theorem opVsample_memOk (u : VecUnit) (f : OpS) (s : State) (hm : s.memOk) :
    resOk (opVsample u f s) := by
  unfold opVsample
  try dsimp only
  with_reducible repeat' first
    | assumption | intro _ | (refine ok_memOk ‹_› ?_) | apply resOk_pure | apply resOk_bind
    | apply State.vecOp_memOk

theorem State.vpOp_memOk (s : State) (i : Instr) (u : VecUnit) (f : OpS) (r : VPred → VPred → VPred → Nat) (hm :
    s.memOk) :
    resOk (State.vpOp s i u f r) := by
  unfold State.vpOp
  with_reducible repeat' first
    | assumption | apply State.vecOp_memOk

theorem opVpand_memOk (u : VecUnit) (f : OpS) (s : State) (hm : s.memOk) :
    resOk (opVpand u f s) := by
  unfold opVpand
  with_reducible repeat' first
    | assumption | apply State.vpOp_memOk

theorem opVpor_memOk (u : VecUnit) (f : OpS) (s : State) (hm : s.memOk) :
    resOk (opVpor u f s) := by
  unfold opVpor
  with_reducible repeat' first
    | assumption | apply State.vpOp_memOk

theorem opVpxor_memOk (u : VecUnit) (f : OpS) (s : State) (hm : s.memOk) :
    resOk (opVpxor u f s) := by
  unfold opVpxor
  with_reducible repeat' first
    | assumption | apply State.vpOp_memOk

theorem opVpnot_memOk (u : VecUnit) (f : OpS) (s : State) (hm : s.memOk) :
    resOk (opVpnot u f s) := by
  unfold opVpnot
  with_reducible repeat' first
    | assumption | apply State.vpOp_memOk

theorem opVpset_memOk (u : VecUnit) (f : OpS) (s : State) (hm : s.memOk) :
    resOk (opVpset u f s) := by
  unfold opVpset
  with_reducible repeat' first
    | assumption | apply State.vpOp_memOk

theorem opVpcnt_memOk (u : VecUnit) (f : OpS) (s : State) (hm : s.memOk) :
    resOk (opVpcnt u f s) := by
  unfold opVpcnt
  with_reducible repeat' first
    | assumption | apply State.vpOp_memOk

theorem State.vcmp_memOk (s : State) (i : Instr) (c : Nat) (u : VecUnit) (k : BitVec 3) (f : OpS) (hm : s.memOk) :
    resOk (State.vcmp s i c u k f) := by
  unfold State.vcmp
  with_reducible repeat' first
    | assumption | apply foldl_memOk | apply State.vecOp_memOk

theorem opVceq_memOk (u : VecUnit) (k : BitVec 3) (f : OpS) (s : State) (hm : s.memOk) :
    resOk (opVceq u k f s) := by
  unfold opVceq
  with_reducible repeat' first
    | assumption | apply State.vcmp_memOk

theorem opVcne_memOk (u : VecUnit) (k : BitVec 3) (f : OpS) (s : State) (hm : s.memOk) :
    resOk (opVcne u k f s) := by
  unfold opVcne
  with_reducible repeat' first
    | assumption | apply State.vcmp_memOk

theorem opVclt_memOk (u : VecUnit) (k : BitVec 3) (f : OpS) (s : State) (hm : s.memOk) :
    resOk (opVclt u k f s) := by
  unfold opVclt
  with_reducible repeat' first
    | assumption | apply State.vcmp_memOk

theorem opVcle_memOk (u : VecUnit) (k : BitVec 3) (f : OpS) (s : State) (hm : s.memOk) :
    resOk (opVcle u k f s) := by
  unfold opVcle
  with_reducible repeat' first
    | assumption | apply State.vcmp_memOk

theorem opVcltn_memOk (u : VecUnit) (k : BitVec 3) (f : OpS) (s : State) (hm : s.memOk) :
    resOk (opVcltn u k f s) := by
  unfold opVcltn
  with_reducible repeat' first
    | assumption | apply State.vcmp_memOk

theorem opVfceq_memOk (u : VecUnit) (k : BitVec 3) (f : OpS) (s : State) (hm : s.memOk) :
    resOk (opVfceq u k f s) := by
  unfold opVfceq
  with_reducible repeat' first
    | assumption | apply State.vcmp_memOk

theorem opVfclt_memOk (u : VecUnit) (k : BitVec 3) (f : OpS) (s : State) (hm : s.memOk) :
    resOk (opVfclt u k f s) := by
  unfold opVfclt
  with_reducible repeat' first
    | assumption | apply State.vcmp_memOk

theorem opVfcle_memOk (u : VecUnit) (k : BitVec 3) (f : OpS) (s : State) (hm : s.memOk) :
    resOk (opVfcle u k f s) := by
  unfold opVfcle
  with_reducible repeat' first
    | assumption | apply State.vcmp_memOk

end Sys2Proof.Machine
end

