-- ==== Sys2Proof/Laws/KeepMatrix.lean ====
section
/-! SUPPORT. The matrix unit, the transposer and the sequencer: every operation keeps the memory's canonical form. -/

namespace Sys2Proof.Machine

theorem State.setTile_memOk (s : State) (core acc : Nat) (t : Tile) (hm : s.memOk) :
    (State.setTile s core acc t).memOk := by
  unfold State.setTile
  with_reducible repeat' first
    | assumption | apply State.modCore_memOk

theorem State.setBslot_memOk (s : State) (core b : Nat) (x : BSlot) (hm : s.memOk) :
    (State.setBslot s core b x).memOk := by
  unfold State.setBslot
  with_reducible repeat' first
    | assumption | intro _ | apply State.modCore_memOk

theorem State.ungang_memOk (s : State) (core b : Nat) (hm : s.memOk) :
    (State.ungang s core b).memOk := by
  unfold State.ungang
  with_reducible repeat' first
    | assumption | apply State.setBslot_memOk | split

theorem State.clearTile_memOk (s : State) (core acc : Nat) (tag : BitVec 10) (hm : s.memOk) :
    (State.clearTile s core acc tag).memOk := by
  unfold State.clearTile
  with_reducible repeat' first
    | assumption | apply State.setTile_memOk

theorem State.mloadRelease_memOk (s : State) (core : Nat) (m : MOp) (hm : s.memOk) :
    (State.mloadRelease s core m).1.memOk := by
  unfold State.mloadRelease
  try dsimp only
  with_reducible repeat' first
    | assumption | intro _ | (refine snd_memOk ‹_› ?_) | (refine fst_memOk ‹_› ?_) | (refine some_memOk ‹_› ?_)
    | (refine some2_memOk ‹_› ?_) | apply foldl_memOk | apply State.readMload_memOk | apply State.setBslot_memOk
    | apply State.ungang_memOk | split

theorem State.mxRelease_memOk (s : State) (core id : Nat) (h : Option Handle) (hm : s.memOk) :
    (State.mxRelease s core id h).memOk := by
  unfold State.mxRelease
  try dsimp only
  with_reducible repeat' first
    | assumption | intro _ | (refine snd_memOk ‹_› ?_) | (refine fst_memOk ‹_› ?_) | (refine some_memOk ‹_› ?_)
    | (refine some2_memOk ‹_› ?_) | apply State.modCore_memOk | apply State.mloadRelease_memOk | split

theorem State.rowAdd_memOk (s : State) (core : Nat) (m : MOp) (hm : s.memOk) :
    (State.rowAdd s core m).memOk := by
  unfold State.rowAdd
  try dsimp only
  with_reducible repeat' first
    | assumption | intro _ | (refine snd_memOk ‹_› ?_) | (refine fst_memOk ‹_› ?_) | (refine some_memOk ‹_› ?_)
    | (refine some2_memOk ‹_› ?_) | apply foldl_memOk | apply State.modCore_memOk | apply State.setTile_memOk
    | split

theorem State.mactDo_memOk (s : State) (core : Nat) (x : MAct) (hm : s.memOk) :
    (State.mactDo s core x).memOk := by
  unfold State.mactDo
  try dsimp only
  with_reducible repeat' first
    | assumption | intro _ | apply State.setTile_memOk | apply State.setBslot_memOk | apply State.ungang_memOk
    | apply State.clearTile_memOk | split

theorem State.settleMx_memOk (s : State) (core : Nat) (hm : s.memOk) :
    (State.settleMx s core).memOk := by
  unfold State.settleMx
  with_reducible repeat' first
    | assumption | intro _ | apply foldl_memOk | apply State.modCore_memOk | apply State.mactDo_memOk | split

theorem State.mxEnter_memOk (s : State) (m : MOp) (b : RelBody) (hm : s.memOk) :
    (State.mxEnter s m b).memOk := by
  unfold State.mxEnter
  with_reducible repeat' first
    | assumption | apply State.modMyCore_memOk | apply State.addRel_memOk

theorem State.mxOp_memOk (s : State) (i : Instr) (f : OpT) (act : Lanes → Res State) (hm : s.memOk) (hf_act : ∀ x,
    resOk (act x)) :
    resOk (State.mxOp s i f act) := by
  unfold State.mxOp
  try dsimp only
  with_reducible repeat' first
    | assumption | intro _ | (refine ok_memOk ‹_› ?_) | apply resOk_inSlot | apply resOk_pure | apply resOk_bind
    | apply hf_act | split

theorem opMload_memOk (f : OpT) (s : State) (hm : s.memOk) :
    resOk (opMload f s) := by
  unfold opMload
  try dsimp only
  with_reducible repeat' first
    | assumption | intro _ | (refine snd_memOk ‹_› ?_) | (refine fst_memOk ‹_› ?_) | (refine ok_memOk ‹_› ?_)
    | apply resOk_pure | apply resOk_bind | apply State.newTok_memOk | apply State.mxEnter_memOk
    | apply State.mxOp_memOk

theorem State.modeClear_memOk (s : State) (mode : Nat) (acc : BitVec 4) (tag : BitVec 10) (hm : s.memOk) :
    (State.modeClear s mode acc tag).memOk := by
  unfold State.modeClear
  with_reducible repeat' first
    | assumption | apply State.modMe_memOk | apply State.clearTile_memOk | split

theorem opMpush_memOk (f : OpT) (s : State) (hm : s.memOk) :
    resOk (opMpush f s) := by
  unfold opMpush
  with_reducible repeat' first
    | assumption | intro _ | apply resOk_pure | apply resOk_bind | apply State.newTok_memOk
    | apply State.mxEnter_memOk | apply State.mxOp_memOk | apply State.modeClear_memOk

theorem opMpushv_memOk (f : OpT) (s : State) (hm : s.memOk) :
    resOk (opMpushv f s) := by
  unfold opMpushv
  with_reducible repeat' first
    | assumption | intro _ | apply resOk_pure | apply resOk_bind | apply State.newTok_memOk
    | apply State.mxEnter_memOk | apply State.mxOp_memOk | apply State.modeClear_memOk

theorem opMzero_memOk (f : OpT) (s : State) (hm : s.memOk) :
    resOk (opMzero f s) := by
  unfold opMzero
  with_reducible repeat' first
    | assumption | intro _ | apply resOk_pure | apply resOk_bind | apply State.mxOp_memOk
    | apply State.modeClear_memOk

theorem opMpop_memOk (f : OpT) (s : State) (hm : s.memOk) :
    resOk (opMpop f s) := by
  unfold opMpop
  with_reducible repeat' first
    | assumption | intro _ | apply resOk_pure | apply resOk_bind | apply State.land_memOk
    | apply State.mxOp_memOk

theorem opMpopx_memOk (f : OpT) (s : State) (hm : s.memOk) :
    resOk (opMpopx f s) := by
  unfold opMpopx
  with_reducible repeat' first
    | assumption | intro _ | apply resOk_pure | apply resOk_bind | apply State.land_memOk
    | apply State.addRel_memOk | apply State.mxOp_memOk | split

theorem opMacc_memOk (f : OpT) (s : State) (hm : s.memOk) :
    resOk (opMacc f s) := by
  unfold opMacc
  try dsimp only
  with_reducible repeat' first
    | assumption | intro _ | (refine ok_memOk ‹_› ?_) | apply resOk_pure | apply resOk_bind
    | apply State.addRel_memOk | apply State.mxOp_memOk

theorem opMrel_memOk (f : OpT) (s : State) (hm : s.memOk) :
    resOk (opMrel f s) := by
  unfold opMrel
  with_reducible repeat' first
    | assumption | intro _ | apply resOk_pure | apply State.addRel_memOk | apply State.mxOp_memOk

theorem State.startEntry_memOk (s : State) (core cim : Nat) (hm : s.memOk) :
    (State.startEntry s core cim).memOk := by
  unfold State.startEntry
  try dsimp only
  with_reducible repeat' first
    | assumption | intro _ | (refine snd_memOk ‹_› ?_) | (refine fst_memOk ‹_› ?_) | (refine some_memOk ‹_› ?_)
    | (refine some2_memOk ‹_› ?_) | apply State.modCore_memOk | apply State.readMload_memOk | split

theorem execMacroEntryStart_memOk (core cim : Nat) (s : State) (hm : s.memOk) :
    outOk (execMacroEntryStart core cim s) := by
  unfold execMacroEntryStart
  with_reducible repeat' first
    | assumption | apply outOk_next | apply State.settleMx_memOk | apply State.startEntry_memOk

theorem execPushRowAdded_memOk (core push : Nat) (s : State) (hm : s.memOk) :
    outOk (execPushRowAdded core push s) := by
  unfold execPushRowAdded
  with_reducible repeat' first
    | assumption | apply outOk_next | apply State.rowAdd_memOk | apply State.settleMx_memOk | split

theorem State.consume_memOk (s : State) (core : Nat) (m : MOp) (hm : s.memOk) :
    (State.consume s core m).memOk := by
  unfold State.consume
  with_reducible repeat' first
    | assumption | apply State.modCore_memOk | apply State.addSem_memOk | split

theorem execOperandsConsumed_memOk (core push : Nat) (s : State) (hm : s.memOk) :
    outOk (execOperandsConsumed core push s) := by
  unfold execOperandsConsumed
  with_reducible repeat' first
    | assumption | apply outOk_next | apply State.consume_memOk | split

theorem execPushComplete_memOk (core push : Nat) (s : State) (hm : s.memOk) :
    outOk (execPushComplete core push s) := by
  unfold execPushComplete
  with_reducible repeat' first
    | assumption | apply outOk_next | apply State.modCore_memOk | apply State.settleMx_memOk
    | apply State.consume_memOk | split

theorem execMloadComplete_memOk (core slot : Nat) (s : State) (hm : s.memOk) :
    outOk (execMloadComplete core slot s) := by
  unfold execMloadComplete
  try dsimp only
  with_reducible repeat' first
    | assumption | intro _ | (refine some_memOk ‹_› ?_) | (refine some2_memOk ‹_› ?_) | apply outOk_next
    | apply foldl_memOk | apply State.modCore_memOk | apply State.setBslot_memOk | apply State.settleMx_memOk
    | split

theorem State.xpOp_memOk (s : State) (i : Instr) (f : OpS) (act : Xp → Res State) (hm : s.memOk) (hf_act : ∀ x,
    resOk (act x)) :
    resOk (State.xpOp s i f act) := by
  unfold State.xpOp
  try dsimp only
  with_reducible repeat' first
    | assumption | intro _ | (refine some_memOk ‹_› ?_) | (refine some2_memOk ‹_› ?_) | apply resOk_inSlot
    | apply resOk_pure | apply resOk_bind | apply resOk_blockAt | apply hf_act | split

theorem State.setXp_memOk (s : State) (x : Xp) (hm : s.memOk) :
    (State.setXp s x).memOk := by
  unfold State.setXp
  with_reducible repeat' first
    | assumption | intro _ | apply State.modMyCore_memOk

theorem opXpin_memOk (f : OpS) (s : State) (hm : s.memOk) :
    resOk (opXpin f s) := by
  unfold opXpin
  try dsimp only
  with_reducible repeat' first
    | assumption | intro _ | apply resOk_pure | apply resOk_bind | apply State.xpOp_memOk
    | apply State.setXp_memOk | split

theorem opXpout_memOk (f : OpS) (s : State) (hm : s.memOk) :
    resOk (opXpout f s) := by
  unfold opXpout
  with_reducible repeat' first
    | assumption | intro _ | apply resOk_pure | apply resOk_raise | apply State.land_memOk
    | apply State.xpOp_memOk | apply State.setXp_memOk | split

theorem opXpclr_memOk (f : OpS) (s : State) (hm : s.memOk) :
    resOk (opXpclr f s) := by
  unfold opXpclr
  with_reducible repeat' first
    | assumption | intro _ | apply resOk_pure | apply State.xpOp_memOk | apply State.setXp_memOk

theorem opXpmode_memOk (f : OpS) (s : State) (hm : s.memOk) :
    resOk (opXpmode f s) := by
  unfold opXpmode
  try dsimp only
  with_reducible repeat' first
    | assumption | intro _ | apply resOk_pure | apply resOk_bind | apply resOk_raise | apply State.xpOp_memOk
    | apply State.setXp_memOk | split

theorem State.setSeqr_memOk (s : State) (core : Nat) (x : Ts) (hm : s.memOk) :
    (State.setSeqr s core x).memOk := by
  unfold State.setSeqr
  with_reducible repeat' first
    | assumption | apply State.modCore_memOk

theorem State.tsOp_memOk (s : State) (i : Instr) (f : OpT) (act : Ts → Res State) (hm : s.memOk) (hf_act : ∀ x,
    resOk (act x)) :
    resOk (State.tsOp s i f act) := by
  unfold State.tsOp
  try dsimp only
  with_reducible repeat' first
    | assumption | intro _ | apply resOk_inSlot | apply resOk_pure | apply resOk_bind | apply resOk_blockAt
    | apply hf_act | split

theorem opTsload_memOk (f : OpT) (s : State) (hm : s.memOk) :
    resOk (opTsload f s) := by
  unfold opTsload
  with_reducible repeat' first
    | assumption | intro _ | apply resOk_pure | apply resOk_bind | apply resOk_raise | apply State.addRel_memOk
    | apply State.tsOp_memOk | split

theorem opTsrun_memOk (f : OpT) (s : State) (hm : s.memOk) :
    resOk (opTsrun f s) := by
  unfold opTsrun
  with_reducible repeat' first
    | assumption | intro _ | apply resOk_pure | apply resOk_bind | apply State.addRel_memOk
    | apply State.tsOp_memOk

theorem opTsstop_memOk (f : OpT) (s : State) (hm : s.memOk) :
    resOk (opTsstop f s) := by
  unfold opTsstop
  with_reducible repeat' first
    | assumption | intro _ | apply resOk_pure | apply State.stop_memOk | apply State.setSeqr_memOk
    | apply State.tsOp_memOk | split

theorem opTsstat_memOk (f : OpT) (s : State) (hm : s.memOk) :
    resOk (opTsstat f s) := by
  unfold opTsstat
  with_reducible repeat' first
    | assumption | intro _ | apply resOk_pure | apply State.land_memOk | apply State.tsOp_memOk

theorem State.tsLoadDo_memOk (s : State) (core ci : Nat) (off : Word) (hm : s.memOk) :
    (State.tsLoadDo s core ci off).memOk := by
  unfold State.tsLoadDo
  with_reducible repeat' first
    | assumption | apply foldl_memOk | apply State.setSeqr_memOk | split | refine memOk_mk (memOk_of ?_)

theorem State.tsRunDo_memOk (s : State) (core : Nat) (entry : BitVec 8) (mxo : Lanes) (h : Handle) (fm : BitVec 2)
    (slot : BitVec 4) (gen : BitVec 12) (hm : s.memOk) :
    (State.tsRunDo s core entry mxo h fm slot gen).memOk := by
  unfold State.tsRunDo
  try dsimp only
  with_reducible repeat' first
    | assumption | (refine snd_memOk ‹_› ?_) | (refine fst_memOk ‹_› ?_) | apply State.newTok_memOk
    | apply State.setSeqr_memOk | apply Auto.run_memOk | split

theorem State.enterMx_memOk (s : State) (core : Nat) (m : MOp) (hm : s.memOk) : (State.enterMx s core m).memOk := by
  unfold State.enterMx
  refine State.modCore_memOk _ _ _ ?_
  split
  · exact State.mloadRelease_memOk s core m hm
  · exact hm

theorem State.seqMx_memOk (s : State) (core : Nat) (x : Ts) (e : BitVec 128) (t : Word) (h : Res Handle) (hm :
    s.memOk) :
    resOk (State.seqMx s core x e t h) := by
  unfold State.seqMx
  try dsimp only
  with_reducible repeat' first
    | assumption | intro _ | (refine snd_memOk ‹_› ?_) | (refine fst_memOk ‹_› ?_) | (refine ok_memOk ‹_› ?_)
    | (refine some_memOk ‹_› ?_) | (refine some2_memOk ‹_› ?_) | apply resOk_ok | apply resOk_pure
    | apply resOk_error | apply resOk_bind | apply resOk_raise | apply resOk_blockAt | apply State.modCore_memOk
    | apply State.newTok_memOk | apply State.performStore_memOk | apply State.clearTile_memOk
    | apply State.enterMx_memOk | split | refine memOk_mk (memOk_of ?_)

theorem State.seqDo_memOk (s : State) (core : Nat) (x : Ts) (e : BitVec 128) (hm : s.memOk) (z : State) (n : Nat) (y : Ts)
    (h : s.seqDo core x e = (.done z, n, y)) : z.memOk := by
  unfold State.seqDo at h
  dsimp only at h
  split at h
  · simp only [Prod.mk.injEq, SeqRes.done.injEq] at h
    rw [← h.1]
    split
    · exact State.addSem_memOk _ _ _ _ hm
    · exact hm
  · simp only [Prod.mk.injEq, SeqRes.done.injEq] at h
    rw [← h.1]; exact hm
  · simp only [Prod.mk.injEq, SeqRes.done.injEq] at h
    rw [← h.1]; exact State.addSem_memOk _ _ _ _ hm
  · split at h
    · simp at h
    · simp only [Prod.mk.injEq, SeqRes.done.injEq] at h
      rw [← h.1]; exact State.setSem_memOk _ _ _ _ hm
  · split at h <;> simp only [Prod.mk.injEq, SeqRes.done.injEq, reduceCtorEq, false_and] at h
    rename_i q
    rw [← h.1]
    exact State.seqMx_memOk _ _ _ _ _ _ hm _ q

theorem execSequencerState_memOk (core : Nat) (s : State) (hm : s.memOk) : outOk (execSequencerState core s) := by
  unfold execSequencerState
  dsimp only
  split
  · exact outOk_next hm
  · split
    · exact outOk_next hm
    · exact outOk_next (State.setSeqr_memOk _ _ _ hm)
    · rename_i h; exact outOk_next (State.setSeqr_memOk _ _ _ (State.seqDo_memOk _ _ _ _ hm _ _ _ h))

end Sys2Proof.Machine
end

