-- ==== Sys2Proof/Laws/KeepEngine.lean ====
section
/-! SUPPORT. The engine queues, remote operations and the fabric: every operation keeps the memory's canonical form. -/

namespace Sys2Proof.Machine

theorem State.setEq_memOk (s : State) (core q : Nat) (x : EngQ) (hm : s.memOk) :
    (State.setEq s core q x).memOk := by
  unfold State.setEq
  with_reducible repeat' first
    | assumption | apply State.modCore_memOk

theorem State.modEq_memOk (s : State) (core q : Nat) (f : EngQ → EngQ) (hm : s.memOk) :
    (State.modEq s core q f).memOk := by
  unfold State.modEq
  with_reducible repeat' first
    | assumption | apply State.setEq_memOk

theorem State.ecPush_memOk (s : State) (i : Instr) (cmd : Nat) (q : BitVec 3) (f : OpM) (hm : s.memOk) :
    resOk (State.ecPush s i cmd q f) := by
  unfold State.ecPush
  try dsimp only
  with_reducible repeat' first
    | assumption | intro _ | (refine snd_memOk ‹_› ?_) | (refine fst_memOk ‹_› ?_) | (refine ok_memOk ‹_› ?_)
    | apply resOk_inSlot | apply resOk_pure | apply resOk_error | apply resOk_bind | apply resOk_raise
    | apply resOk_blockAt | apply State.limit_memOk | apply State.newTok_memOk | apply State.pendOn_memOk
    | apply State.addRel_memOk | split

theorem opCpy_memOk (q : BitVec 3) (f : OpM) (s : State) (hm : s.memOk) :
    resOk (opCpy q f s) := by
  unfold opCpy
  with_reducible repeat' first
    | assumption | apply State.ecPush_memOk

theorem opCsr_memOk (q : BitVec 3) (f : OpM) (s : State) (hm : s.memOk) :
    resOk (opCsr q f s) := by
  unfold opCsr
  with_reducible repeat' first
    | assumption | apply State.ecPush_memOk

theorem opPfr_memOk (q : BitVec 3) (f : OpM) (s : State) (hm : s.memOk) :
    resOk (opPfr q f s) := by
  unfold opPfr
  with_reducible repeat' first
    | assumption | apply State.ecPush_memOk

theorem opZfill_memOk (q : BitVec 3) (f : OpM) (s : State) (hm : s.memOk) :
    resOk (opZfill q f s) := by
  unfold opZfill
  with_reducible repeat' first
    | assumption | apply State.ecPush_memOk

theorem opQfence_memOk (q : BitVec 3) (f : OpM) (s : State) (hm : s.memOk) :
    resOk (opQfence q f s) := by
  unfold opQfence
  with_reducible repeat' first
    | assumption | apply State.ecPush_memOk

theorem opColl_memOk (q : BitVec 3) (f : OpM) (s : State) (hm : s.memOk) :
    resOk (opColl q f s) := by
  unfold opColl
  with_reducible repeat' first
    | assumption | apply State.ecPush_memOk

theorem opEvict_memOk (q : BitVec 3) (f : OpM) (s : State) (hm : s.memOk) :
    resOk (opEvict q f s) := by
  unfold opEvict
  with_reducible repeat' first
    | assumption | apply State.ecPush_memOk

theorem State.engFill_memOk (s : State) (p : Packet64) (pl : List (Nat × BitVec 8)) (hm : s.memOk) :
    (State.engFill s p pl).memOk := by
  unfold State.engFill
  try dsimp only
  with_reducible repeat' first
    | assumption | intro _ | (refine some_memOk ‹_› ?_) | (refine some2_memOk ‹_› ?_) | apply foldl_memOk
    | apply State.l2Fill_memOk

theorem State.engLook_memOk (s : State) (p : Packet64) (pl : List (Nat × BitVec 8)) (hm : s.memOk) : (s.engLook p pl).memOk := by
  unfold State.engLook
  split
  · exact State.engFill_memOk _ _ _ hm
  · exact State.countRead_memOk _ _ _ (State.engFill_memOk _ _ _ hm)

theorem State.engPut_memOk (s : State) (p : Packet64) (l : List ((Nat × BitVec 8) × Byte)) (hm : s.memOk) :
    (s.engPut p l).memOk :=
  foldl_memOk (fun s _ h => State.homeWrite_memOk s _ _ h) (State.engFill_memOk _ _ _ hm)

theorem State.engSrc_memOk {s : State} {p : Packet64} {a : Except (Nat × Nat) (List (Nat × BitVec 8))} {l : List (Byte × Bool)}
    {t : State} {f : Nat × BitVec 8 → Byte × Bool} (hm : s.memOk)
    (e : (do let l ← a; pure (l.map f, s.engLook p l)) = (.ok (l, t) : Except (Nat × Nat) _)) : t.memOk := by
  cases a with
  | error _ => cases e
  | ok x => cases e; exact State.engLook_memOk _ _ _ hm

theorem State.engDone_memOk {c : Cmd} {pl : List (Nat × BitVec 8)} {pois : Bool} {s : State} (q : s.memOk) :
    (if pois = true then
      pl.foldl (fun x e =>
        if x.refused (engAcc c.packet e.2) e.1 || x.staleAcc (engAcc c.packet e.2) then x else x.poisonFlag (e.1 / 128)) s
    else s).memOk := by
  split
  · refine foldl_memOk (fun s x h => ?_) q
    split
    · exact h
    · exact State.poisonFlag_memOk _ _ h
  · exact q

theorem State.engAccess_memOk (s : State) (core : Nat) (c : Cmd) (a : Access) (hm : s.memOk) :
    accOk (s.engAccess core c a) := by
  intro t d p e
  unfold State.engAccess at e
  dsimp only at e
  split at e
  · cases e
  · rename_i l x q
    have hx : x.memOk := by
      split at q
      · split at q <;> cases q <;> exact hm
      · cases q; exact hm
      · exact State.engSrc_memOk hm q
    split at e
    · cases e; exact hx
    · split at e
      · cases e
      · cases e; exact State.spadWrites_memOk _ _ _ _ _ _ _ hx
    · split at e
      · cases e
      · cases e; exact State.engDone_memOk (State.engPut_memOk _ _ _ hx)

theorem accOk_done {r : AccRes} {t : State} {d : List Byte} {p : Bool} (e : r = .done t d p) (h : accOk r) : t.memOk :=
  h t d p e

theorem State.setHead_memOk (s : State) (core q : Nat) (c : Cmd) (hm : s.memOk) :
    (State.setHead s core q c).memOk := by
  unfold State.setHead
  with_reducible repeat' first
    | assumption | apply State.modEq_memOk

theorem State.retireCmd_memOk (s : State) (core q stat : Nat) (hm : s.memOk) :
    (State.retireCmd s core q stat).memOk := by
  unfold State.retireCmd
  with_reducible repeat' first
    | assumption | apply State.homeWrite_memOk | apply State.homeWrites_memOk | apply State.setEq_memOk | split
    | refine memOk_mk (memOk_of ?_)

theorem State.finishCmd_memOk (s : State) (core q : Nat) (c : Cmd) (stat : Nat) (hm : s.memOk) :
    (State.finishCmd s core q c stat).memOk := by
  unfold State.finishCmd
  with_reducible repeat' first
    | assumption | intro _ | apply foldl_memOk | apply State.setLine_memOk | apply State.addSem_memOk
    | apply State.retireCmd_memOk | split

theorem State.dropFated_memOk (s : State) (core q n : Nat) (hm : s.memOk) : (s.dropFated core q n).memOk := by
  induction n generalizing s with
  | zero => exact hm
  | succ n ih =>
    unfold State.dropFated
    split
    · split
      · exact ih _ (State.retireCmd_memOk _ _ _ _ hm)
      · exact hm
    · exact hm

theorem State.noteSegment_memOk (s : State) (core q : Nat) (c : Cmd) (base size j : Nat) (hm : s.memOk) :
    (s.noteSegment core q c base size j).1.memOk := hm

theorem State.fillLines_memOk (s : State) (core : Nat) (c : Cmd) (a : Access) (j : Nat) (hm : s.memOk) :
    (s.fillLines core c a j).1.memOk := by
  unfold State.fillLines
  apply pair_foldl_memOk'
  · intro p x hp
    split
    · exact State.setLine_memOk _ _ _ _ _ _ hp
    · exact hp
  · exact hm

theorem State.mainAccess_memOk (s : State) (core q : Nat) (c : Cmd) (a : Access) (j : Nat) (hm : s.memOk) :
    (s.mainAccess core q c a j).st.memOk := by
  have q0 := State.engAccess_memOk s core c a hm
  unfold State.mainAccess
  split
  · split
    · split
      · exact hm
      · exact hm
      · split
        · rename_i e; exact q0 _ _ _ e
        · exact hm
        · exact hm
    · exact hm
  · split
    · exact hm
    · rename_i e; exact State.fillLines_memOk _ _ _ _ _ (q0 _ _ _ e)
    · split
      · exact hm
      · have q1 := State.noteSegment_memOk s core q c
        dsimp only
        split
        · exact q1 _ _ _ hm
        · exact q1 _ _ _ hm

theorem opCstat_memOk (q : BitVec 3) (f : OpM) (s : State) (hm : s.memOk) :
    resOk (opCstat q f s) := by
  unfold opCstat
  try dsimp only
  with_reducible repeat' first
    | assumption | intro _ | apply resOk_inSlot | apply resOk_pure | apply resOk_bind | apply State.land_memOk
    | split

theorem State.mergeAccess_memOk (s : State) (core q : Nat) (c : Cmd) (chunk n : Nat) (hm : s.memOk) :
    (s.mergeAccess core q c chunk n).st.memOk := by
  induction n generalizing s c with
  | zero => exact hm
  | succ n ih =>
    unfold State.mergeAccess
    split
    · rename_i a _
      split
      · split
        · have q1 := State.mainAccess_memOk s core q c a c.done hm
          split
          · rename_i e; rw [e] at q1; exact ih _ _ q1
          · exact q1
        · exact hm
      · exact hm
    · exact hm

theorem State.noteChunk_memOk (s : State) (core q : Nat) (c : Cmd) (l : List Nat) (hm : s.memOk) :
    (s.noteChunk core q c l).st.memOk := by
  induction l generalizing s c with
  | nil => exact hm
  | cons i r ih =>
    unfold State.noteChunk
    split
    · exact ih _ _ hm
    · split
      · exact hm
      · exact ih _ _ (State.noteSegment_memOk s core q c _ _ c.done hm)

theorem State.mainChunk_memOk (s : State) (core q : Nat) (c : Cmd) (hm : s.memOk) :
    (s.mainChunk core q c).st.memOk := by
  unfold State.mainChunk
  split
  · exact hm
  · have q0 := State.noteChunk_memOk s core q c (if pkCmd c.packet = 1 then c.done :: c.mergeUp c.done 15 else []) hm
    split
    · rename_i a _ _ s1 c1 e
      rw [e] at q0
      have q1 := State.mainAccess_memOk s1 core q c1 a c1.done q0
      split
      · rename_i e
        rw [e] at q1
        split
        · exact State.mergeAccess_memOk _ _ _ _ _ _ q1
        · exact q1
      · exact q1
    · exact q0

theorem State.replayAccess_memOk (s : State) (core : Nat) (c : Cmd) (hm : s.memOk) :
    (s.replayAccess core c).st.memOk := by
  unfold State.replayAccess
  dsimp only
  split
  · exact hm
  · split
    · exact hm
    · rename_i a _
      split
      · exact hm
      · split
        · exact hm
        · have q1 := State.engAccess_memOk s core c a hm
          split
          · rename_i e; exact q1 _ _ _ e
          · exact hm
          · exact hm

theorem State.mergeReplay_memOk (s : State) (core : Nat) (c : Cmd) (chunk n : Nat) (hm : s.memOk) :
    (s.mergeReplay core c chunk n).st.memOk := by
  induction n generalizing s c with
  | zero => exact hm
  | succ n ih =>
    unfold State.mergeReplay
    split
    · have q1 := State.replayAccess_memOk s core c hm
      split
      · rename_i e; rw [e] at q1; exact ih _ _ q1
      · exact q1
    · exact hm

theorem State.replayChunk_memOk (s : State) (core : Nat) (c : Cmd) (hm : s.memOk) : (s.replayChunk core c).st.memOk := by
  have q1 := State.replayAccess_memOk s core c hm
  unfold State.replayChunk
  split
  · rename_i e
    rw [e] at q1
    split
    · exact State.mergeReplay_memOk _ _ _ _ _ q1
    · exact q1
  · exact q1

theorem State.runCmd_memOk (s : State) (core q : Nat) (c : Cmd) (n : Nat) (hm : s.memOk) :
    (s.runCmd core q c n).memOk := by
  induction n generalizing s c with
  | zero => exact State.setHead_memOk _ _ _ _ hm
  | succ n ih =>
    unfold State.runCmd
    split
    · exact State.retireCmd_memOk _ _ _ _ hm
    · split
      · have q1 := State.mainChunk_memOk s core q c hm
        split <;> rename_i e <;> rw [e] at q1
        · exact ih _ _ q1
        · exact State.setHead_memOk _ _ _ _ q1
        · exact ih _ _ q1
      · split
        · exact State.setHead_memOk _ _ _ _ hm
        · have q1 := State.replayChunk_memOk s core c hm
          split <;> rename_i e <;> rw [e] at q1
          · exact ih _ _ q1
          · exact State.setHead_memOk _ _ _ _ q1
          · exact State.finishCmd_memOk _ _ _ _ _ q1

theorem State.beginCmd_memOk (s : State) (core q : Nat) (hm : s.memOk) :
    (State.beginCmd s core q).1.memOk := by
  unfold State.beginCmd
  try dsimp only
  with_reducible repeat' first
    | assumption | apply State.setSem_memOk | apply State.setHead_memOk | apply State.retireCmd_memOk
    | apply State.finishCmd_memOk | split

theorem State.workCmd_memOk (s : State) (core q cmd n : Nat) (hm : s.memOk) : (s.workCmd core q cmd n).memOk := by
  have q1 := State.beginCmd_memOk s core q hm
  unfold State.workCmd
  split <;> rename_i e <;> rw [e] at q1
  · exact q1
  · split
    · exact State.runCmd_memOk _ _ _ _ _ q1
    · exact q1

theorem execCpyCommand_memOk (core q n : Nat) (s : State) (hm : s.memOk) :
    outOk (execCpyCommand core q n s) := by
  unfold execCpyCommand
  with_reducible repeat' first
    | assumption | apply outOk_next | apply State.workCmd_memOk

theorem execCsrCommand_memOk (core q n : Nat) (s : State) (hm : s.memOk) :
    outOk (execCsrCommand core q n s) := by
  unfold execCsrCommand
  with_reducible repeat' first
    | assumption | apply outOk_next | apply State.workCmd_memOk

theorem execZfillCommand_memOk (core q n : Nat) (s : State) (hm : s.memOk) :
    outOk (execZfillCommand core q n s) := by
  unfold execZfillCommand
  with_reducible repeat' first
    | assumption | apply outOk_next | apply State.workCmd_memOk

theorem State.lineAct_memOk (s : State) (p : Packet64) (ev : Bool) (va : Nat) (hm : s.memOk) :
    (State.lineAct s p ev va).memOk := by
  unfold State.lineAct
  try dsimp only
  with_reducible repeat' first
    | assumption | intro _ | (refine ok_memOk ‹_› ?_) | (refine some_memOk ‹_› ?_) | (refine some2_memOk ‹_› ?_)
    | apply foldl_memOk | apply State.modDie_memOk | apply State.l2Fill_memOk | apply State.dropRdcLine_memOk
    | split

theorem State.runLines_memOk (s : State) (core q : Nat) (ev : Bool) (c : Cmd) (n : Nat) (hm : s.memOk) :
    (s.runLines core q ev c n).memOk := by
  induction n generalizing s c with
  | zero => exact State.setHead_memOk _ _ _ _ hm
  | succ n ih =>
    unfold State.runLines
    dsimp only
    split
    · exact State.retireCmd_memOk _ _ _ _ hm
    · split
      · exact State.finishCmd_memOk _ _ _ _ _ hm
      · exact ih _ _ (State.lineAct_memOk _ _ _ _ hm)

theorem State.workLines_memOk (s : State) (core q cmd n : Nat) (hm : s.memOk) : (s.workLines core q cmd n).memOk := by
  have q1 := State.beginCmd_memOk s core q hm
  unfold State.workLines
  split <;> rename_i e <;> rw [e] at q1
  · exact q1
  · split
    · exact State.runLines_memOk _ _ _ _ _ _ q1
    · exact q1

theorem execPfrCommand_memOk (core q n : Nat) (s : State) (hm : s.memOk) :
    outOk (execPfrCommand core q n s) := by
  unfold execPfrCommand
  with_reducible repeat' first
    | assumption | apply outOk_next | apply State.workLines_memOk

theorem execEvictCommand_memOk (core q n : Nat) (s : State) (hm : s.memOk) :
    outOk (execEvictCommand core q n s) := by
  unfold execEvictCommand
  with_reducible repeat' first
    | assumption | apply outOk_next | apply State.workLines_memOk

theorem execQfenceCommand_memOk (core q : Nat) (s : State) (hm : s.memOk) : outOk (execQfenceCommand core q s) := by
  have q1 := State.beginCmd_memOk s core q hm
  unfold execQfenceCommand
  split <;> rename_i e <;> rw [e] at q1
  · exact outOk_next q1
  · split
    · exact outOk_next (State.finishCmd_memOk _ _ _ _ _ q1)
    · exact outOk_next q1

theorem State.collFail_memOk (s : State) (core q : Nat) (c : Cmd) (hm : s.memOk) :
    (State.collFail s core q c).memOk := by
  unfold State.collFail
  with_reducible repeat' first
    | assumption | apply State.finishCmd_memOk

theorem State.engRead_memOk (s : State) (p : Packet64) (va n k : Nat) (hm : s.memOk) :
    ∀ l t, s.engRead p va n k = .ok (l, t) → t.memOk := by
  induction k generalizing s va n with
  | zero => intro l t e; cases e; exact hm
  | succ k ih =>
    intro l t e
    unfold State.engRead at e
    split at e
    · cases e; exact hm
    · dsimp only at e
      cases a : s.engPlace (p.extractLsb' 48 4) va (min n (16 - va % 16)) false with
      | error _ => rw [a] at e; cases e
      | ok x =>
        rw [a] at e
        change ((s.engLook p x).engRead p (va + min n (16 - va % 16)) (n - min n (16 - va % 16)) k >>= _) = _ at e
        cases b : (s.engLook p x).engRead p (va + min n (16 - va % 16)) (n - min n (16 - va % 16)) k with
        | error _ => rw [b] at e; cases e
        | ok y =>
          rw [b] at e
          cases e
          exact ih _ _ _ (State.engLook_memOk _ _ _ hm) _ _ b

theorem State.collRead_memOk (s : State) (core q : Nat) (c : Cmd) (va n : Nat) (hm : s.memOk) :
    (∀ t, s.collRead core q c va n = .error t → t.memOk) ∧ ∀ l t, s.collRead core q c va n = .ok (l, t) → t.memOk := by
  unfold State.collRead
  split
  · rename_i e
    exact ⟨fun t q => (by cases q), fun l t q => by cases q; exact State.engRead_memOk _ _ _ _ _ hm _ _ e⟩
  · split
    · exact ⟨fun t q => by cases q; exact State.setHead_memOk _ _ _ _ hm, fun l t q => by cases q⟩
    · split
      · exact ⟨fun t q => by cases q; exact hm, fun l t q => by cases q⟩
      · exact ⟨fun t q => by cases q; exact State.collFail_memOk _ _ _ _ hm, fun l t q => by cases q⟩

theorem State.collGo_memOk (s : State) (core q : Nat) (c : Cmd) (members : List CollMember) (desc : List Byte) (own
    : List (Byte × Bool)) (hm : s.memOk) :
    (State.collGo s core q c members desc own).memOk := by
  unfold State.collGo
  try dsimp only
  with_reducible repeat' first
    | assumption | apply State.setHead_memOk | apply State.collFail_memOk | apply State.runCmd_memOk | split
    | refine memOk_mk (memOk_of ?_)

theorem State.collStart_memOk (s : State) (core q : Nat) (c : Cmd) (members : List CollMember) (hm : s.memOk) :
    (s.collStart core q c members).memOk := by
  unfold State.collStart
  dsimp only
  split <;> rename_i e1
  · exact (State.collRead_memOk _ _ _ _ _ _ hm).1 _ e1
  · have h1 := (State.collRead_memOk _ _ _ _ _ _ hm).2 _ _ e1
    split
    · exact State.collFail_memOk _ _ _ _ h1
    · split <;> rename_i e2
      · exact (State.collRead_memOk _ _ _ _ _ _ h1).1 _ e2
      · have h2 := (State.collRead_memOk _ _ _ _ _ _ h1).2 _ _ e2
        split
        · exact State.collFail_memOk _ _ _ _ h2
        · split
          · exact State.finishCmd_memOk _ _ _ _ _ h2
          · split <;> rename_i e3
            · exact (State.collRead_memOk _ _ _ _ _ _ h2).1 _ e3
            · exact State.collGo_memOk _ _ _ _ _ _ _ ((State.collRead_memOk _ _ _ _ _ _ h2).2 _ _ e3)

theorem execCollCommand_memOk (core q : Nat) (members : List CollMember) (s : State) (hm : s.memOk) :
    outOk (execCollCommand core q members s) := by
  have q1 := State.beginCmd_memOk s core q hm
  unfold execCollCommand
  split <;> rename_i e <;> rw [e] at q1
  · exact outOk_next q1
  · split
    · exact outOk_next q1
    · split
      · exact outOk_next (State.runCmd_memOk _ _ _ _ _ q1)
      · split
        · split
          · exact outOk_next (State.collFail_memOk _ _ _ _ q1)
          · exact outOk_next (State.collGo_memOk _ _ _ _ _ _ _ q1)
        · exact outOk_next (State.collStart_memOk _ _ _ _ _ q1)

theorem execCollTimeout_memOk (core q : Nat) (s : State) (hm : s.memOk) :
    outOk (execCollTimeout core q s) := by
  unfold execCollTimeout
  with_reducible repeat' first
    | assumption | apply outOk_next | apply State.collFail_memOk | split

theorem execSegmentReplay_memOk (core q : Nat) (served : List Bool) (s : State) (hm : s.memOk) :
    outOk (execSegmentReplay core q served s) := by
  unfold execSegmentReplay
  split
  · split
    · exact outOk_next hm
    · dsimp only
      split
      · exact outOk_next (State.runCmd_memOk _ _ _ _ _ hm)
      · exact outOk_next (State.setHead_memOk _ _ _ _ hm)
  · exact outOk_next hm

theorem State.claimCmd_memOk (s : State) (ci : Nat) (x : RelItem) (q : Nat) (p : Packet64) (hm : s.memOk) :
    (State.claimCmd s ci x q p).memOk := by
  unfold State.claimCmd
  try dsimp only
  with_reducible repeat' first
    | assumption | intro _ | apply foldl_memOk | apply State.homeWrites_memOk | apply State.setLine_memOk
    | apply State.modEq_memOk

theorem State.takeEntry_memOk (s : State) (core q : Nat) (hm : s.memOk) : (s.takeEntry core q).memOk := by
  unfold State.takeEntry
  dsimp only
  split
  · exact hm
  · exact State.dropFated_memOk _ _ _ _ (State.modEq_memOk _ _ _ _
      (State.homeWrites_memOk _ _ _ _ (State.newTok_memOk s hm)))

theorem execEntryAdmit_memOk (core q : Nat) (s : State) (hm : s.memOk) :
    outOk (execEntryAdmit core q s) := by
  unfold execEntryAdmit
  with_reducible repeat' first
    | assumption | apply outOk_next | apply State.takeEntry_memOk | split

theorem execPromiseLanding_memOk (core ctx token : Nat) (s : State) (hm : s.memOk) :
    outOk (execPromiseLanding core ctx token s) := by
  unfold execPromiseLanding
  try dsimp only
  with_reducible repeat' first
    | assumption | apply outOk_next | apply State.answer_memOk | apply State.modEq_memOk | split

theorem execEqcfgWrite_memOk (core q : Nat) (v : Word) (s : State) (hm : s.memOk) :
    outOk (execEqcfgWrite core q v s) := by
  unfold execEqcfgWrite
  with_reducible repeat' first
    | assumption | apply outOk_next | apply State.modEq_memOk

theorem execQueueDisableComplete_memOk (core q : Nat) (s : State) (hm : s.memOk) :
    outOk (execQueueDisableComplete core q s) := by
  unfold execQueueDisableComplete
  with_reducible repeat' first
    | assumption | apply outOk_next | apply State.modEq_memOk

theorem State.dropCommands_memOk (s : State) (core : Nat) (own : Claim → Bool) (hm : s.memOk) :
    (s.dropCommands core own).memOk := by
  unfold State.dropCommands
  apply foldl_memOk
  · intro s x h; exact State.dropFated_memOk _ _ _ _ (State.modEq_memOk _ _ _ _ h)
  · exact hm

theorem State.sweepCommands_memOk (s : State) (core : Nat) (t : BitVec 4) (hm : s.memOk) :
    (s.sweepCommands core t).memOk := by
  unfold State.sweepCommands
  apply foldl_memOk
  · intro s x h; exact State.dropFated_memOk _ _ _ _ (State.modEq_memOk _ _ _ _ h)
  · exact hm

theorem State.emit_memOk (s : State) (p : Packet) (hm : s.memOk) :
    (State.emit s p).memOk := by
  unfold State.emit
  with_reducible repeat' first
    | assumption | split | refine memOk_mk (memOk_of ?_)

theorem State.remoteDone_memOk (s : State) (ci tok : Nat) (r : RemoteOp) (cls : Option (BitVec 4)) (data : Lanes)
    (hm : s.memOk) :
    (State.remoteDone s ci tok r cls data).memOk := by
  unfold State.remoteDone
  try dsimp only
  with_reducible repeat' first
    | assumption | intro _ | (refine snd_memOk ‹_› ?_) | (refine fst_memOk ‹_› ?_) | (refine some_memOk ‹_› ?_)
    | (refine some2_memOk ‹_› ?_) | apply State.modCtx_memOk | apply State.answer_memOk | split

theorem State.sendRequest_memOk (s : State) (ci tok tag : Nat) (r : RemoteOp) (hm : s.memOk) :
    (State.sendRequest s ci tok tag r).memOk := by
  unfold State.sendRequest
  try dsimp only
  with_reducible repeat' first
    | assumption | intro _ | (refine some_memOk ‹_› ?_) | (refine some2_memOk ‹_› ?_) | apply State.modCtx_memOk
    | apply State.emit_memOk | apply State.remoteDone_memOk | split | refine memOk_mk (memOk_of ?_)

theorem State.pumpGo_memOk (s : State) (n : Nat) (hm : s.memOk) : (s.pumpGo n).memOk := by
  induction n generalizing s with
  | zero => exact hm
  | succ n ih =>
    unfold State.pumpGo
    split
    · exact ih _ (State.sendRequest_memOk _ _ _ _ _ hm)
    · exact hm

theorem State.pump_memOk (s : State) (hm : s.memOk) :
    (State.pump s).memOk := by
  unfold State.pump
  with_reducible repeat' first
    | assumption | apply State.pumpGo_memOk

theorem State.request_memOk (s : State) (ci tok : Nat) (r : RemoteOp) (hm : s.memOk) :
    (State.request s ci tok r).memOk := by
  unfold State.request
  with_reducible repeat' first
    | assumption | apply State.pump_memOk | split | refine memOk_mk (memOk_of ?_)

theorem State.remoteLoad_memOk (s : State) (i : Instr) (f : OpM) (n : Nat) (kind : BitVec 6) (wb : Option Reg) (hm :
    s.memOk) :
    resOk (State.remoteLoad s i f n kind wb) := by
  unfold State.remoteLoad
  try dsimp only
  with_reducible repeat' first
    | assumption | intro _ | (refine snd_memOk ‹_› ?_) | (refine fst_memOk ‹_› ?_) | (refine ok_memOk ‹_› ?_)
    | (refine some_memOk ‹_› ?_) | (refine some2_memOk ‹_› ?_) | apply resOk_inSlot | apply resOk_pure
    | apply resOk_bind | apply resOk_blockAt | apply State.modMe_memOk | apply State.newTok_memOk
    | apply State.pendOn_memOk | apply State.request_memOk | split

theorem opRld_memOk (f : OpM) (s : State) (hm : s.memOk) :
    resOk (opRld f s) := by
  unfold opRld
  with_reducible repeat' first
    | assumption | apply State.remoteLoad_memOk

theorem opRldv_memOk (f : OpM) (s : State) (hm : s.memOk) :
    resOk (opRldv f s) := by
  unfold opRldv
  with_reducible repeat' first
    | assumption | (refine snd_memOk ‹_› ?_) | apply State.remoteLoad_memOk

theorem State.remoteStore_memOk (s : State) (i : Instr) (b : BitVec 2) (f : OpM) (n : Nat) (kind : BitVec 6) (hm :
    s.memOk) :
    resOk (State.remoteStore s i b f n kind) := by
  unfold State.remoteStore
  try dsimp only
  with_reducible repeat' first
    | assumption | intro _ | (refine snd_memOk ‹_› ?_) | (refine fst_memOk ‹_› ?_) | (refine ok_memOk ‹_› ?_)
    | apply resOk_inSlot | apply resOk_pure | apply resOk_bind | apply State.limit_memOk
    | apply State.newTok_memOk | apply State.addRel_memOk | split

theorem opRst_memOk (b : BitVec 2) (f : OpM) (s : State) (hm : s.memOk) :
    resOk (opRst b f s) := by
  unfold opRst
  with_reducible repeat' first
    | assumption | apply State.remoteStore_memOk

theorem opRstv_memOk (b : BitVec 2) (f : OpM) (s : State) (hm : s.memOk) :
    resOk (opRstv b f s) := by
  unfold opRstv
  with_reducible repeat' first
    | assumption | apply State.remoteStore_memOk

theorem opRop_memOk (f : OpM) (s : State) (hm : s.memOk) :
    resOk (opRop f s) := by
  unfold opRop
  try dsimp only
  with_reducible repeat' first
    | assumption | intro _ | (refine snd_memOk ‹_› ?_) | (refine fst_memOk ‹_› ?_) | (refine ok_memOk ‹_› ?_)
    | apply resOk_inSlot | apply resOk_pure | apply resOk_error | apply resOk_bind | apply resOk_raise
    | apply State.limit_memOk | apply State.newTok_memOk | apply State.pendOn_memOk | apply State.addRel_memOk
    | split

theorem opBclose_memOk (b : BitVec 2) (f : OpM) (s : State) (hm : s.memOk) :
    resOk (opBclose b f s) := by
  unfold opBclose
  try dsimp only
  with_reducible repeat' first
    | assumption | intro _ | (refine snd_memOk ‹_› ?_) | (refine fst_memOk ‹_› ?_) | (refine ok_memOk ‹_› ?_)
    | apply resOk_inSlot | apply resOk_pure | apply resOk_bind | apply State.limit_memOk
    | apply State.newTok_memOk | apply State.pendOn_memOk | apply State.addRel_memOk | split

theorem opRdrain_memOk (f : OpM) (s : State) (hm : s.memOk) :
    resOk (opRdrain f s) := by
  unfold opRdrain
  try dsimp only
  with_reducible repeat' first
    | assumption | intro _ | (refine snd_memOk ‹_› ?_) | (refine fst_memOk ‹_› ?_) | (refine ok_memOk ‹_› ?_)
    | apply resOk_inSlot | apply resOk_pure | apply resOk_bind | apply resOk_blockAt | apply State.limit_memOk
    | apply State.newTok_memOk | apply State.addRel_memOk | split

theorem State.closeStep_memOk (s : State) (ci : Nat) (x : RelItem) (b : BitVec 2) (sem : BitVec 8) (inc : BitVec 4) (n : Nat)
    (hm : s.memOk) : (s.closeStep ci x b sem inc n).1.memOk := by
  induction n generalizing s with
  | zero => exact hm
  | succ n ih =>
    unfold State.closeStep
    dsimp only
    split
    · exact State.modCtx_memOk _ _ _ hm
    · split
      · split
        · exact hm
        · exact ih _ (State.modCtx_memOk _ _ _ hm)
      · split
        · split
          · exact hm
          · exact ih _ (State.request_memOk _ _ _ _ (State.modCtx_memOk _ _ _ (State.newTok_memOk s hm)))
        · split
          · exact hm
          · exact State.addSem_memOk _ _ _ _ (State.answer_memOk _ ci x.tok _ _ (State.modCtx_memOk s ci _ hm))

theorem State.takeNet_memOk (s : State) (m : Msg) (hm : s.memOk) : optOk (s.takeNet m) := by
  intro t e
  unfold State.takeNet at e
  split at e
  · cases e; exact hm
  · cases e

theorem State.serve_memOk (s : State) (p : Packet) (kind : BitVec 6) (act : State → Option (BitVec 4) × Lanes × State)
    (hm : s.memOk) (hf : ∀ x, x.memOk → (act x).2.2.memOk) : (s.serve p kind act).memOk := by
  unfold State.serve
  split
  · exact hm
  · split
    · exact hm
    · rename_i s1 e
      have h1 : s1.memOk := State.takeNet_memOk _ _ hm _ e
      split
      · exact h1
      · exact State.emit_memOk _ _ (hf _ h1)

theorem State.countAdmit_memOk (s : State) (p : Packet) (hm : s.memOk) :
    (State.countAdmit s p).memOk := by
  unfold State.countAdmit
  try dsimp only
  with_reducible repeat' first
    | assumption | (refine snd_memOk ‹_› ?_) | (refine fst_memOk ‹_› ?_) | (refine some_memOk ‹_› ?_)
    | (refine some2_memOk ‹_› ?_) | apply State.countRef_memOk | split

theorem State.serveLoad_memOk (s : State) (p : Packet) (n : Nat) (hm : s.memOk) :
    (State.serveLoad s p n).2.2.memOk := by
  unfold State.serveLoad
  try dsimp only
  with_reducible repeat' first
    | assumption | (refine ok_memOk ‹_› ?_) | (refine some_memOk ‹_› ?_) | (refine some2_memOk ‹_› ?_)
    | apply State.l2Fill_memOk | apply State.countAdmit_memOk | split

theorem execRldRequest_memOk (p : Packet) (s : State) (hm : s.memOk) :
    outOk (execRldRequest p s) := by
  unfold execRldRequest
  with_reducible repeat' first
    | assumption | intro _ | apply outOk_next | apply State.serve_memOk | apply State.serveLoad_memOk

theorem execRldvRequest_memOk (p : Packet) (s : State) (hm : s.memOk) :
    outOk (execRldvRequest p s) := by
  unfold execRldvRequest
  with_reducible repeat' first
    | assumption | intro _ | apply outOk_next | apply State.serve_memOk | apply State.serveLoad_memOk

theorem State.tallyNote_memOk (s : State) (p : Packet) (cls : Option (BitVec 4)) (hm : s.memOk) :
    (State.tallyNote s p cls).memOk := by
  unfold State.tallyNote
  with_reducible repeat' first
    | assumption | split | refine memOk_mk (memOk_of ?_)

theorem State.serveStore_memOk (s : State) (p : Packet) (n : Nat) (hm : s.memOk) :
    (State.serveStore s p n).2.2.memOk := by
  unfold State.serveStore
  try dsimp only
  with_reducible repeat' first
    | assumption | intro _ | (refine ok_memOk ‹_› ?_) | (refine some_memOk ‹_› ?_) | (refine some2_memOk ‹_› ?_)
    | apply State.homeWrites_memOk | apply State.l2Fill_memOk | apply State.tallyNote_memOk
    | apply State.countAdmit_memOk | split | refine memOk_mk (memOk_of ?_)

theorem execRstRequest_memOk (p : Packet) (s : State) (hm : s.memOk) :
    outOk (execRstRequest p s) := by
  unfold execRstRequest
  with_reducible repeat' first
    | assumption | intro _ | apply outOk_next | apply State.serve_memOk | apply State.serveStore_memOk

theorem execRstvRequest_memOk (p : Packet) (s : State) (hm : s.memOk) :
    outOk (execRstvRequest p s) := by
  unfold execRstvRequest
  with_reducible repeat' first
    | assumption | intro _ | apply outOk_next | apply State.serve_memOk | apply State.serveStore_memOk

theorem execCloseRequest_memOk (p : Packet) (s : State) (hm : s.memOk) :
    outOk (execCloseRequest p s) := by
  unfold execCloseRequest
  try dsimp only
  with_reducible repeat' first
    | assumption | intro _ | (refine some_memOk ‹_› ?_) | (refine some2_memOk ‹_› ?_) | apply outOk_next
    | apply State.serve_memOk | split | refine memOk_mk (memOk_of ?_)

theorem State.ketApply_memOk (s : State) (k : Ket) (hm : s.memOk) :
    (State.ketApply s k).memOk := by
  unfold State.ketApply
  with_reducible repeat' first
    | assumption | intro _ | apply foldl_memOk | apply State.homeWrite_memOk

theorem State.ketTouch_memOk (s : State) (k : Ket) (hm : s.memOk) :
    (State.ketTouch s k).memOk := by
  unfold State.ketTouch
  with_reducible repeat' first
    | assumption | intro _ | (refine snd_memOk ‹_› ?_) | (refine fst_memOk ‹_› ?_) | apply foldl_memOk
    | apply State.countRef_memOk | apply State.countRead_memOk | apply State.l2Fill_memOk | split

theorem State.serveRop_memOk (s : State) (p : Packet) (hm : s.memOk) :
    (State.serveRop s p).2.2.memOk := by
  unfold State.serveRop
  try dsimp only
  with_reducible repeat' first
    | assumption | intro _ | (refine snd_memOk ‹_› ?_) | (refine fst_memOk ‹_› ?_) | (refine ok_memOk ‹_› ?_)
    | (refine some_memOk ‹_› ?_) | (refine some2_memOk ‹_› ?_) | apply State.countAdmit_memOk
    | apply State.ketApply_memOk | apply State.ketTouch_memOk | apply Auto.run_memOk | split

theorem execRopRequest_memOk (p : Packet) (s : State) (hm : s.memOk) :
    outOk (execRopRequest p s) := by
  unfold execRopRequest
  with_reducible repeat' first
    | assumption | intro _ | apply outOk_next | apply State.serve_memOk | apply State.serveRop_memOk

theorem State.lateReply_memOk (s : State) (hm : s.memOk) :
    (State.lateReply s).memOk := by
  unfold State.lateReply
  with_reducible repeat' first
    | assumption | apply State.setHubReg_memOk

theorem State.takeReply_memOk (s : State) (p : Packet) (ok : BitVec 6 → Bool) (hm : s.memOk) :
    (State.takeReply s p ok).memOk := by
  unfold State.takeReply
  try dsimp only
  with_reducible repeat' first
    | assumption | intro _ | (refine some_memOk ‹_› ?_) | (refine some2_memOk ‹_› ?_) | apply State.modCtx_memOk
    | apply State.remoteDone_memOk | apply State.pump_memOk | apply State.takeNet_memOk
    | apply State.lateReply_memOk | split | refine memOk_mk (memOk_of ?_)

theorem execRldReply_memOk (p : Packet) (s : State) (hm : s.memOk) :
    outOk (execRldReply p s) := by
  unfold execRldReply
  with_reducible repeat' first
    | assumption | apply outOk_next | apply State.takeReply_memOk

theorem execRldvReply_memOk (p : Packet) (s : State) (hm : s.memOk) :
    outOk (execRldvReply p s) := by
  unfold execRldvReply
  with_reducible repeat' first
    | assumption | apply outOk_next | apply State.takeReply_memOk

theorem execRopReply_memOk (p : Packet) (s : State) (hm : s.memOk) :
    outOk (execRopReply p s) := by
  unfold execRopReply
  with_reducible repeat' first
    | assumption | (refine some_memOk ‹_› ?_) | apply outOk_next | apply State.takeReply_memOk

theorem execWriteAcknowledgement_memOk (p : Packet) (s : State) (hm : s.memOk) :
    outOk (execWriteAcknowledgement p s) := by
  unfold execWriteAcknowledgement
  with_reducible repeat' first
    | assumption | apply outOk_next | apply State.takeReply_memOk

theorem execSummaryReply_memOk (p : Packet) (s : State) (hm : s.memOk) :
    outOk (execSummaryReply p s) := by
  unfold execSummaryReply
  with_reducible repeat' first
    | assumption | apply outOk_next | apply State.takeReply_memOk

theorem State.requestTimeout_memOk (s : State) (tag : Nat) (hm : s.memOk) :
    (State.requestTimeout s tag).memOk := by
  unfold State.requestTimeout
  try dsimp only
  with_reducible repeat' first
    | assumption | intro _ | (refine some_memOk ‹_› ?_) | (refine some2_memOk ‹_› ?_) | apply State.modCtx_memOk
    | apply State.remoteDone_memOk | apply State.pump_memOk | split | refine memOk_mk (memOk_of ?_)

theorem execTallyExpiry_memOk (smod : BitVec 12) (sctx : BitVec 9) (batch : BitVec 2) (s : State) (hm : s.memOk) :
    outOk (execTallyExpiry smod sctx batch s) := by
  unfold execTallyExpiry
  with_reducible repeat' first
    | assumption | apply outOk_next | split | refine memOk_mk (memOk_of ?_)

theorem State.revokeFabric_memOk (s : State) (slot : BitVec 4) (hm : s.memOk) :
    (State.revokeFabric s slot).memOk := by
  unfold State.revokeFabric
  with_reducible repeat' first
    | assumption | split | refine memOk_mk (memOk_of ?_)

theorem execFabslotWrite_memOk (slot : BitVec 4) (v : Word) (s : State) (hm : s.memOk) :
    outOk (execFabslotWrite slot v s) := by
  unfold execFabslotWrite
  with_reducible repeat' first
    | assumption | apply outOk_next | apply State.setHubReg_memOk | apply State.revokeFabric_memOk | split

theorem State.countAuth_memOk (s : State) (hm : s.memOk) :
    (State.countAuth s).memOk := by
  unfold State.countAuth
  with_reducible repeat' first
    | assumption | apply State.setHubReg_memOk

theorem execNetworkPacketArrival_memOk (p : Packet) (s : State) (hm : s.memOk) :
    outOk (execNetworkPacketArrival p s) := by
  unfold execNetworkPacketArrival
  try dsimp only
  with_reducible repeat' first
    | assumption | (refine some_memOk ‹_› ?_) | (refine some2_memOk ‹_› ?_) | apply outOk_next
    | apply State.emit_memOk | apply State.lateReply_memOk | apply State.countAuth_memOk | split
    | refine memOk_mk (memOk_of ?_)

end Sys2Proof.Machine
end

