-- ==== Sys2Proof/Laws/KeepStream.lean ====
section
/-! SUPPORT. The stream engine: every operation keeps the memory's canonical form. -/

namespace Sys2Proof.Machine

theorem State.setStream_memOk (s : State) (x : StreamId) (e : StreamEntry) (hm : s.memOk) :
    (State.setStream s x e).memOk := by
  unfold State.setStream
  with_reducible repeat' first
    | assumption | split | refine memOk_mk (memOk_of ?_)

theorem State.modStream_memOk (s : State) (x : StreamId) (f : StreamEntry → StreamEntry) (hm : s.memOk) :
    (State.modStream s x f).memOk := by
  unfold State.modStream
  with_reducible repeat' first
    | assumption | apply State.setStream_memOk

theorem State.newChk_memOk (s : State) (hm : s.memOk) :
    (State.newChk s).2.memOk := by
  unfold State.newChk
  with_reducible repeat' first
    | assumption | split | refine memOk_mk (memOk_of ?_)

theorem State.post_memOk (s : State) (dst : BitVec 12) (m : Msg) (hm : s.memOk) :
    (State.post s dst m).memOk := by
  unfold State.post
  with_reducible repeat' first
    | assumption | split | refine memOk_mk (memOk_of ?_)

theorem State.receive_memOk (s : State) (m : Msg) (hm : s.memOk) :
    (State.receive s m).memOk := by
  unfold State.receive
  with_reducible repeat' first
    | assumption | split | refine memOk_mk (memOk_of ?_)

theorem State.poolAlloc_memOk (s : State) (slot : BitVec 4) (bytes : Nat) (hm : s.memOk) :
    optOk2 (State.poolAlloc s slot bytes) := by
  unfold State.poolAlloc
  try dsimp only
  with_reducible repeat' first
    | assumption | apply optOk2_none | apply optOk2_some | split | refine memOk_mk (memOk_of ?_)

theorem State.poolFree_memOk (s : State) (slot : BitVec 4) (addr : Nat) (hm : s.memOk) :
    (State.poolFree s slot addr).memOk := by
  unfold State.poolFree
  with_reducible repeat' first
    | assumption | split | refine memOk_mk (memOk_of ?_)

theorem State.sxRelease_memOk (s : State) (i : Instr) (f : OpM) (act : State → Res State) (hm : s.memOk) (hf_act : ∀
    x, x.memOk → resOk (act x)) :
    resOk (State.sxRelease s i f act) := by
  unfold State.sxRelease
  try dsimp only
  with_reducible repeat' first
    | assumption | intro _ | (refine ok_memOk ‹_› ?_) | apply resOk_inSlot | apply resOk_pure | apply resOk_bind
    | apply State.limit_memOk | apply hf_act | split

theorem opSopen_memOk (f : OpM) (s : State) (hm : s.memOk) :
    resOk (opSopen f s) := by
  unfold opSopen
  with_reducible repeat' first
    | assumption | intro _ | apply resOk_pure | apply resOk_bind | apply State.newTok_memOk
    | apply State.pendOn_memOk | apply State.addRel_memOk | apply State.sxRelease_memOk

theorem opSclose_memOk (f : OpM) (s : State) (hm : s.memOk) :
    resOk (opSclose f s) := by
  unfold opSclose
  with_reducible repeat' first
    | assumption | intro _ | apply resOk_pure | apply resOk_bind | apply State.addRel_memOk
    | apply State.sxRelease_memOk

theorem State.sxPend_memOk (s : State) (w : BitVec 6) (hm : s.memOk) :
    (State.sxPend s w).2.memOk := by
  unfold State.sxPend
  with_reducible repeat' first
    | assumption | apply State.modMe_memOk | apply State.newTok_memOk | apply State.pendOn_memOk

theorem opSsend_memOk (f : OpM) (s : State) (hm : s.memOk) :
    resOk (opSsend f s) := by
  unfold opSsend
  with_reducible repeat' first
    | assumption | intro _ | apply resOk_pure | apply resOk_bind | apply State.addRel_memOk
    | apply State.sxRelease_memOk | apply State.sxPend_memOk

theorem opSxfer_memOk (f : OpM) (s : State) (hm : s.memOk) :
    resOk (opSxfer f s) := by
  unfold opSxfer
  try dsimp only
  with_reducible repeat' first
    | assumption | intro _ | (refine snd_memOk ‹_› ?_) | (refine fst_memOk ‹_› ?_) | (refine ok_memOk ‹_› ?_)
    | (refine some_memOk ‹_› ?_) | (refine some2_memOk ‹_› ?_) | apply resOk_pure | apply resOk_error
    | apply resOk_bind | apply resOk_raiseStream | apply State.addRel_memOk | apply State.modStream_memOk
    | apply State.sxRelease_memOk | apply State.sxPend_memOk | split

theorem State.reserveInst_memOk (s : State) (w : Word) (x : XferBody) (hm : s.memOk) :
    resOk (State.reserveInst s w x) := by
  unfold State.reserveInst
  try dsimp only
  with_reducible repeat' first
    | assumption | intro _ | (refine snd_memOk ‹_› ?_) | (refine ok_memOk ‹_› ?_) | (refine some_memOk ‹_› ?_)
    | (refine some2_memOk ‹_› ?_) | apply resOk_ok | apply resOk_error | apply resOk_raiseStream
    | apply State.modStream_memOk | apply State.poolAlloc_memOk | split

theorem State.recvLoad_memOk (s : State) (f : OpM) (bytes : List Byte) (poison : Bool) (hm : s.memOk) :
    (State.recvLoad s f bytes poison).memOk := by
  unfold State.recvLoad
  with_reducible repeat' first
    | assumption | apply State.modMe_memOk | apply State.newTok_memOk | apply State.pendOn_memOk

theorem opSrecv_memOk (f : OpM) (s : State) (hm : s.memOk) :
    resOk (opSrecv f s) := by
  unfold opSrecv
  try dsimp only
  with_reducible repeat' first
    | assumption | intro _ | (refine snd_memOk ‹_› ?_) | (refine ok_memOk ‹_› ?_) | (refine some_memOk ‹_› ?_)
    | (refine some2_memOk ‹_› ?_) | apply resOk_inSlot | apply resOk_pure | apply resOk_bind
    | apply resOk_blockAt | apply State.limit_memOk | apply State.addRel_memOk | apply State.modStream_memOk
    | apply State.reserveInst_memOk | apply State.recvLoad_memOk | split

theorem opSpoll_memOk (f : OpM) (s : State) (hm : s.memOk) :
    resOk (opSpoll f s) := by
  unfold opSpoll
  try dsimp only
  with_reducible repeat' first
    | assumption | intro _ | (refine ok_memOk ‹_› ?_) | apply resOk_inSlot | apply resOk_pure | apply resOk_bind
    | apply State.land_memOk | split

theorem opSstat_memOk (f : OpM) (s : State) (hm : s.memOk) :
    resOk (opSstat f s) := by
  unfold opSstat
  try dsimp only
  with_reducible repeat' first
    | assumption | intro _ | (refine ok_memOk ‹_› ?_) | apply resOk_inSlot | apply resOk_pure | apply resOk_bind
    | apply State.land_memOk | split

theorem State.sxDone_memOk (s : State) (ci tok kind : Nat) (seq : BitVec 32) (hm : s.memOk) :
    (State.sxDone s ci tok kind seq).memOk := by
  unfold State.sxDone
  try dsimp only
  with_reducible repeat' first
    | assumption | intro _ | apply foldl_memOk | apply State.modCtx_memOk | apply State.modCore_memOk
    | apply State.answer_memOk | split

theorem State.loseXfer_memOk (s : State) (x : XferBody) (hm : s.memOk) :
    (State.loseXfer s x).memOk := by
  unfold State.loseXfer
  with_reducible repeat' first
    | assumption | apply State.post_memOk | split

theorem State.loseStored_memOk (s : State) (e : EndRec) (hm : s.memOk) :
    (State.loseStored s e).memOk := by
  unfold State.loseStored
  with_reducible repeat' first
    | assumption | intro _ | apply foldl_memOk | apply State.loseXfer_memOk | split

theorem State.tellClosed_memOk (s : State) (x : StreamId) (cons : Bool) (e : EndRec) (aseq : BitVec 32) (orphan :
    Bool) (hm : s.memOk) :
    (State.tellClosed s x cons e aseq orphan).memOk := by
  unfold State.tellClosed
  with_reducible repeat' first
    | assumption | apply State.post_memOk | split

theorem State.removeEnd_memOk (s : State) (x : StreamId) (cons : Bool) (orphan : Bool) (hm : s.memOk) :
    (State.removeEnd s x cons orphan).memOk := by
  unfold State.removeEnd
  try dsimp only
  with_reducible repeat' first
    | assumption | intro _ | (refine some_memOk ‹_› ?_) | (refine some2_memOk ‹_› ?_) | apply foldl_memOk
    | apply State.modStream_memOk | apply State.poolFree_memOk | apply State.loseStored_memOk
    | apply State.tellClosed_memOk | split

theorem State.discardQueue_memOk (s : State) (l : List SendItem) (nseq : BitVec 32) (hm : s.memOk) :
    (State.discardQueue s l nseq).memOk := by
  unfold State.discardQueue
  try dsimp only
  with_reducible repeat' first
    | assumption | intro _ | apply foldl_memOk | apply State.move_memOk | apply State.sxDone_memOk
    | apply State.loseXfer_memOk | apply State.removeEnd_memOk | split

theorem State.makeXfer_memOk (s : State) (via sid : StreamId) (cons : Bool) (e : EndRec) (hm : s.memOk) :
    (State.makeXfer s via sid cons e).2.memOk := by
  unfold State.makeXfer
  try dsimp only
  with_reducible repeat' first
    | assumption | intro _ | (refine snd_memOk ‹_› ?_) | (refine fst_memOk ‹_› ?_) | (refine some_memOk ‹_› ?_)
    | (refine some2_memOk ‹_› ?_) | apply State.modStream_memOk | apply State.newChk_memOk
    | apply State.post_memOk | apply State.poolFree_memOk | split

theorem State.sendItem_memOk (s : State) (sid : StreamId) (e : EndRec) (h : SendItem) (body : ItemBody) (hm :
    s.memOk) :
    (State.sendItem s sid e h body).memOk := by
  unfold State.sendItem
  with_reducible repeat' first
    | assumption | apply State.modStream_memOk | apply State.post_memOk

theorem State.noteEmitted_memOk (s : State) (e : EndRec) (h : SendItem) (hm : s.memOk) :
    (State.noteEmitted s e h).memOk := by
  unfold State.noteEmitted
  try dsimp only
  with_reducible repeat' first
    | assumption | intro _ | (refine some_memOk ‹_› ?_) | (refine some2_memOk ‹_› ?_) | apply State.emit_memOk
    | split | refine memOk_mk (memOk_of ?_)

theorem State.sendHead_memOk (s : State) (sid : StreamId) (hm : s.memOk) :
    (State.sendHead s sid).memOk := by
  unfold State.sendHead
  try dsimp only
  with_reducible repeat' first
    | assumption | intro _ | (refine snd_memOk ‹_› ?_) | (refine fst_memOk ‹_› ?_) | (refine some_memOk ‹_› ?_)
    | (refine some2_memOk ‹_› ?_) | apply State.move_memOk | apply State.modStream_memOk
    | apply State.sxDone_memOk | apply State.discardQueue_memOk | apply State.makeXfer_memOk
    | apply State.sendItem_memOk | apply State.noteEmitted_memOk | split

theorem State.sendAll_memOk (s : State) (sid : StreamId) (n : Nat) (hm : s.memOk) : (s.sendAll sid n).memOk := by
  induction n generalizing s with
  | zero => exact hm
  | succ n ih => unfold State.sendAll; exact ih _ (State.sendHead_memOk _ _ hm)

theorem State.sendLost_memOk (s : State) (ci tok : Nat) (hm : s.memOk) :
    (State.sendLost s ci tok).memOk := by
  unfold State.sendLost
  with_reducible repeat' first
    | assumption | apply State.sxDone_memOk | split | refine memOk_mk (memOk_of ?_)

theorem State.sopenRel_memOk (s : State) (ci : Nat) (x : RelItem) (capc : BitVec 4) (hm : s.memOk) :
    (State.sopenRel s ci x capc).memOk := by
  unfold State.sopenRel
  try dsimp only
  with_reducible repeat' first
    | assumption | intro _ | (refine snd_memOk ‹_› ?_) | (refine fst_memOk ‹_› ?_) | (refine some_memOk ‹_› ?_)
    | (refine some2_memOk ‹_› ?_) | apply State.answer_memOk | apply State.modStream_memOk
    | apply State.newChk_memOk | apply State.poolAlloc_memOk | split | refine memOk_mk (memOk_of ?_)

theorem State.scloseRel_memOk (s : State) (w : Word) (hm : s.memOk) : (s.scloseRel w).memOk := by
  unfold State.scloseRel
  dsimp only
  split
  · exact hm
  · split
    · exact hm
    · split
      · exact State.removeEnd_memOk _ _ _ _ hm
      · have h := fun n => State.sendAll_memOk s (handleSid w) n hm
        split
        · exact h _
        · exact State.removeEnd_memOk _ _ _ _ (State.discardQueue_memOk _ _ _ (h _))

theorem State.ssendRel_memOk (s : State) (ci : Nat) (x : RelItem) (w : Word) (item : Packet64) (hm : s.memOk) :
    (State.ssendRel s ci x w item).memOk := by
  unfold State.ssendRel
  with_reducible repeat' first
    | assumption | intro _ | (refine some_memOk ‹_› ?_) | (refine some2_memOk ‹_› ?_)
    | apply State.modStream_memOk | apply State.sxDone_memOk | apply State.sendLost_memOk | split

theorem State.sxferRel_memOk (s : State) (ci : Nat) (x : RelItem) (w carrier : Word) (hm : s.memOk) :
    (State.sxferRel s ci x w carrier).memOk := by
  unfold State.sxferRel
  try dsimp only
  with_reducible repeat' first
    | assumption | intro _ | (refine some_memOk ‹_› ?_) | (refine some2_memOk ‹_› ?_) | apply State.move_memOk
    | apply State.modStream_memOk | apply State.sxDone_memOk | apply State.removeEnd_memOk
    | apply State.sendLost_memOk | split

theorem State.accept_memOk (s : State) (e : EndRec) (m : ItemMsg) (hm : s.memOk) :
    (State.accept s e m).memOk := by
  unfold State.accept
  with_reducible repeat' first
    | assumption | apply State.post_memOk | split

theorem State.storeItem_memOk (s : State) (e : EndRec) (m : ItemMsg) (hm : s.memOk) :
    (State.storeItem s e m).memOk := by
  unfold State.storeItem
  with_reducible repeat' first
    | assumption | apply State.homeWrites_memOk | apply State.modStream_memOk | apply State.accept_memOk | split

theorem State.checkDrained_memOk (s : State) (sid : StreamId) (hm : s.memOk) :
    (State.checkDrained s sid).memOk := by
  unfold State.checkDrained
  with_reducible repeat' first
    | assumption | apply State.modStream_memOk | apply State.post_memOk | split | refine memOk_mk (memOk_of ?_)

theorem State.passItem_memOk (s : State) (t : BitVec 12) (m : ItemMsg) (hm : s.memOk) :
    (State.passItem s t m).memOk := by
  unfold State.passItem
  with_reducible repeat' first
    | assumption | apply State.modStream_memOk | apply State.post_memOk | apply State.checkDrained_memOk

theorem execItemArrival_memOk (m : ItemMsg) (s : State) (hm : s.memOk) :
    outOk (execItemArrival m s) := by
  unfold execItemArrival
  with_reducible repeat' first
    | assumption | apply outOk_next | apply State.modStream_memOk | apply State.post_memOk
    | apply State.receive_memOk | apply State.accept_memOk | apply State.storeItem_memOk
    | apply State.passItem_memOk | split | refine memOk_mk (memOk_of ?_)

theorem State.relay_memOk (s : State) (sid : StreamId) (cons : Bool) (m : BitVec 12 → Msg) (hm : s.memOk) :
    (State.relay s sid cons m).memOk := by
  unfold State.relay
  with_reducible repeat' first
    | assumption | apply State.modStream_memOk | apply State.post_memOk | split

theorem State.itemAccepted_memOk (s : State) (m : AckMsg) (hm : s.memOk) :
    (State.itemAccepted s m).memOk := by
  unfold State.itemAccepted
  with_reducible repeat' first
    | assumption | apply State.modStream_memOk | apply State.receive_memOk | apply State.sxDone_memOk
    | apply State.relay_memOk | split | refine memOk_mk (memOk_of ?_)

theorem execSpaceReport_memOk (m : SpaceMsg) (s : State) (hm : s.memOk) :
    outOk (execSpaceReport m s) := by
  unfold execSpaceReport
  with_reducible repeat' first
    | assumption | apply outOk_next | apply State.modStream_memOk | apply State.receive_memOk
    | apply State.relay_memOk | split

theorem execSpaceReportSend_memOk (sid : StreamId) (s : State) (hm : s.memOk) :
    outOk (execSpaceReportSend sid s) := by
  unfold execSpaceReportSend
  with_reducible repeat' first
    | assumption | apply outOk_next | apply State.modStream_memOk | apply State.post_memOk | split

theorem State.freeProd_memOk (s : State) (sid : StreamId) (hm : s.memOk) :
    (State.freeProd s sid).memOk := by
  unfold State.freeProd
  with_reducible repeat' first
    | assumption | apply State.modStream_memOk | split

theorem execArrived_memOk (m : MoveMsg) (s : State) (hm : s.memOk) :
    outOk (execArrived m s) := by
  unfold execArrived
  with_reducible repeat' first
    | assumption | intro _ | apply outOk_next | apply foldl_memOk | apply State.modStream_memOk
    | apply State.post_memOk | apply State.receive_memOk | apply State.checkDrained_memOk
    | apply State.passItem_memOk | apply State.freeProd_memOk | split

theorem State.answerMove_memOk (s : State) (m : MoveMsg) (peer : BitVec 12) (nseq : BitVec 32) (hm : s.memOk) :
    (State.answerMove s m peer nseq).memOk := by
  unfold State.answerMove
  try dsimp only
  with_reducible repeat' first
    | assumption | intro _ | apply foldl_memOk | apply State.post_memOk | split

theorem execMoved_memOk (m : MoveMsg) (s : State) (hm : s.memOk) :
    outOk (execMoved m s) := by
  unfold execMoved
  try dsimp only
  with_reducible repeat' first
    | assumption | intro _ | (refine some_memOk ‹_› ?_) | (refine some2_memOk ‹_› ?_) | apply outOk_next
    | apply State.modStream_memOk | apply State.post_memOk | apply State.receive_memOk | apply State.relay_memOk
    | apply State.answerMove_memOk | split

theorem execMovedAcknowledgement_memOk (m : MoveMsg) (s : State) (hm : s.memOk) :
    outOk (execMovedAcknowledgement m s) := by
  unfold execMovedAcknowledgement
  with_reducible repeat' first
    | assumption | apply outOk_next | apply State.modStream_memOk | apply State.receive_memOk
    | apply State.freeProd_memOk | split

theorem execRedirected_memOk (m : RedirMsg) (s : State) (hm : s.memOk) :
    outOk (execRedirected m s) := by
  unfold execRedirected
  with_reducible repeat' first
    | assumption | apply outOk_next | apply State.modStream_memOk | apply State.receive_memOk
    | apply State.checkDrained_memOk | split

theorem execDrained_memOk (m : MoveMsg) (s : State) (hm : s.memOk) :
    outOk (execDrained m s) := by
  unfold execDrained
  with_reducible repeat' first
    | assumption | apply outOk_next | apply State.modStream_memOk | apply State.receive_memOk
    | apply State.relay_memOk | split

theorem State.failSent_memOk (s : State) (sid : StreamId) (fromSeq nseq : BitVec 32) (hm : s.memOk) :
    (State.failSent s sid fromSeq nseq).memOk := by
  unfold State.failSent
  with_reducible repeat' first
    | assumption | apply State.setStream_memOk | apply State.discardQueue_memOk

theorem State.loseRest_memOk (s : State) (sid : StreamId) (r : EndRec) (hm : s.memOk) :
    (State.loseRest s sid r).memOk := by
  unfold State.loseRest
  with_reducible repeat' first
    | assumption | intro _ | (refine snd_memOk ‹_› ?_) | (refine fst_memOk ‹_› ?_) | (refine some_memOk ‹_› ?_)
    | (refine some2_memOk ‹_› ?_) | apply State.modStream_memOk | apply State.post_memOk

theorem State.closeNoted_memOk (s : State) (m : CloseMsg) (hm : s.memOk) :
    (State.closeNoted s m).memOk := by
  unfold State.closeNoted
  try dsimp only
  with_reducible repeat' first
    | assumption | intro _ | (refine snd_memOk ‹_› ?_) | (refine fst_memOk ‹_› ?_) | (refine some_memOk ‹_› ?_)
    | (refine some2_memOk ‹_› ?_) | apply State.modStream_memOk | apply State.receive_memOk
    | apply State.relay_memOk | apply State.failSent_memOk | apply State.loseRest_memOk | split

theorem State.loseMoved_memOk (s : State) (sid : StreamId) (cons : Bool) (f : FwdRec) (hm : s.memOk) :
    (State.loseMoved s sid cons f).memOk := by
  unfold State.loseMoved
  with_reducible repeat' first
    | assumption | intro _ | (refine snd_memOk ‹_› ?_) | (refine fst_memOk ‹_› ?_) | apply State.modStream_memOk
    | apply State.tellClosed_memOk

theorem State.loseVia_memOk (s : State) (via sid : StreamId) (hm : s.memOk) :
    (State.loseVia s via sid).memOk := by
  unfold State.loseVia
  with_reducible repeat' first
    | assumption | intro _ | (refine snd_memOk ‹_› ?_) | (refine fst_memOk ‹_› ?_) | (refine some_memOk ‹_› ?_)
    | (refine some2_memOk ‹_› ?_) | apply foldl_memOk | apply State.loseMoved_memOk | split

theorem State.orphanEnd_memOk (s : State) (sid : StreamId) (cons : Bool) (hm : s.memOk) :
    (State.orphanEnd s sid cons).memOk := by
  unfold State.orphanEnd
  try dsimp only
  with_reducible repeat' first
    | assumption | intro _ | (refine snd_memOk ‹_› ?_) | (refine fst_memOk ‹_› ?_) | (refine some_memOk ‹_› ?_)
    | (refine some2_memOk ‹_› ?_) | apply foldl_memOk | apply State.modStream_memOk | apply State.post_memOk
    | apply State.failSent_memOk | apply State.loseVia_memOk | split

theorem State.awaitMove_memOk (s : State) (f : BitVec 12) (sid : StreamId) (cons : Bool) (r : EndRec) (hm : s.memOk)
    :
    (State.awaitMove s f sid cons r).memOk := by
  unfold State.awaitMove
  with_reducible repeat' first
    | assumption | intro _ | (refine snd_memOk ‹_› ?_) | (refine fst_memOk ‹_› ?_) | (refine some_memOk ‹_› ?_)
    | (refine some2_memOk ‹_› ?_) | apply State.modStream_memOk | split

theorem State.streamDown_memOk (s : State) (f : BitVec 12) (sid : StreamId) (hm : s.memOk) :
    (State.streamDown s f sid).memOk := by
  unfold State.streamDown
  try dsimp only
  with_reducible repeat' first
    | assumption | intro _ | (refine snd_memOk ‹_› ?_) | (refine fst_memOk ‹_› ?_) | (refine some_memOk ‹_› ?_)
    | (refine some2_memOk ‹_› ?_) | apply foldl_memOk | apply State.modStream_memOk | apply State.relay_memOk
    | apply State.loseRest_memOk | apply State.loseMoved_memOk | apply State.orphanEnd_memOk
    | apply State.awaitMove_memOk | split

theorem State.installEnd_memOk (s : State) (ci : Nat) (x : RelItem) (b : XferBody) (hm : s.memOk) :
    (State.installEnd s ci x b).memOk := by
  unfold State.installEnd
  try dsimp only
  with_reducible repeat' first
    | assumption | intro _ | (refine snd_memOk ‹_› ?_) | (refine fst_memOk ‹_› ?_) | (refine some_memOk ‹_› ?_)
    | (refine some2_memOk ‹_› ?_) | apply foldl_memOk | apply State.modStream_memOk | apply State.post_memOk
    | apply State.streamDown_memOk | split

theorem State.srecvRel_memOk (s : State) (ci : Nat) (x : RelItem) (w : Word) (b : Option XferBody) (hm : s.memOk) :
    (State.srecvRel s ci x w b).memOk := by
  unfold State.srecvRel
  with_reducible repeat' first
    | assumption | apply State.modStream_memOk | apply State.installEnd_memOk | split

theorem State.streamsDown_memOk (s : State) (f : BitVec 12) (hm : s.memOk) :
    (State.streamsDown s f).memOk := by
  unfold State.streamsDown
  with_reducible repeat' first
    | assumption | intro _ | (refine snd_memOk ‹_› ?_) | (refine fst_memOk ‹_› ?_) | apply foldl_memOk
    | apply State.streamDown_memOk

theorem execOrphanHoldoffExpiry_memOk (sid : StreamId) (s : State) (hm : s.memOk) :
    outOk (execOrphanHoldoffExpiry sid s) := by
  unfold execOrphanHoldoffExpiry
  with_reducible repeat' first
    | assumption | intro _ | (refine snd_memOk ‹_› ?_) | (refine fst_memOk ‹_› ?_) | apply outOk_next
    | apply foldl_memOk | apply State.orphanEnd_memOk | split

theorem execBelayNote_memOk (m : NoteMsg) (s : State) (hm : s.memOk) :
    outOk (execBelayNote m s) := by
  unfold execBelayNote
  with_reducible repeat' first
    | assumption | apply outOk_next | apply State.modStream_memOk | apply State.receive_memOk
    | apply State.relay_memOk | split

theorem State.sweepStreams_memOk (s : State) (slot : BitVec 4) (hm : s.memOk) :
    (State.sweepStreams s slot).memOk := by
  unfold State.sweepStreams
  try dsimp only
  with_reducible repeat' first
    | assumption | intro _ | (refine snd_memOk ‹_› ?_) | (refine fst_memOk ‹_› ?_) | (refine some_memOk ‹_› ?_)
    | (refine some2_memOk ‹_› ?_) | apply foldl_memOk | apply pair_foldl_memOk | apply State.modStream_memOk
    | apply State.post_memOk | apply State.poolFree_memOk | apply State.removeEnd_memOk | split

end Sys2Proof.Machine
end

