-- ==== Sys2Proof/Laws/KeepJournal.lean ====
section
/-! SUPPORT. The belay engine: every operation keeps the memory's canonical form. -/

namespace Sys2Proof.Machine

theorem State.setJournal_memOk (s : State) (j : Nat) (x : Journal) (hm : s.memOk) :
    (State.setJournal s j x).memOk := by
  unfold State.setJournal
  with_reducible repeat' first
    | assumption | split | refine memOk_mk (memOk_of ?_)

theorem State.modJournal_memOk (s : State) (j : Nat) (f : Journal → Journal) (hm : s.memOk) :
    (State.modJournal s j f).memOk := by
  unfold State.modJournal
  with_reducible repeat' first
    | assumption | apply State.setJournal_memOk | split

theorem State.freeJournal_memOk (s : State) (j : Nat) (hm : s.memOk) :
    (State.freeJournal s j).memOk := by
  unfold State.freeJournal
  with_reducible repeat' first
    | assumption | split | refine memOk_mk (memOk_of ?_)

theorem State.bjRelease_memOk (s : State) (i : Instr) (f : OpM) (act : State → Res State) (hm : s.memOk) (hf_act : ∀
    x, x.memOk → resOk (act x)) :
    resOk (State.bjRelease s i f act) := by
  unfold State.bjRelease
  try dsimp only
  with_reducible repeat' first
    | assumption | intro _ | (refine ok_memOk ‹_› ?_) | apply resOk_inSlot | apply resOk_pure | apply resOk_bind
    | apply State.limit_memOk | apply hf_act | split

theorem State.bjPend_memOk (s : State) (w : BitVec 6) (hm : s.memOk) :
    (State.bjPend s w).2.memOk := by
  unfold State.bjPend
  with_reducible repeat' first
    | assumption | apply State.newTok_memOk | apply State.pendOn_memOk

theorem opJopen_memOk (f : OpM) (s : State) (hm : s.memOk) :
    resOk (opJopen f s) := by
  unfold opJopen
  with_reducible repeat' first
    | assumption | intro _ | (refine snd_memOk ‹_› ?_) | apply resOk_pure | apply resOk_bind
    | apply State.addRel_memOk | apply State.bjRelease_memOk | apply State.bjPend_memOk | split

theorem opJtrunc_memOk (f : OpM) (s : State) (hm : s.memOk) :
    resOk (opJtrunc f s) := by
  unfold opJtrunc
  try dsimp only
  with_reducible repeat' first
    | assumption | intro _ | apply resOk_pure | apply resOk_bind | apply State.addRel_memOk
    | apply State.bjRelease_memOk | split

theorem opJpart_memOk (f : OpM) (s : State) (hm : s.memOk) :
    resOk (opJpart f s) := by
  unfold opJpart
  with_reducible repeat' first
    | assumption | intro _ | apply resOk_pure | apply resOk_bind | apply State.addRel_memOk
    | apply State.bjRelease_memOk | apply State.bjPend_memOk

theorem opJrep_memOk (f : OpM) (s : State) (hm : s.memOk) :
    resOk (opJrep f s) := by
  unfold opJrep
  with_reducible repeat' first
    | assumption | intro _ | apply resOk_pure | apply resOk_bind | apply State.addRel_memOk
    | apply State.bjRelease_memOk | apply State.bjPend_memOk

theorem opJstat_memOk (f : OpM) (s : State) (hm : s.memOk) :
    resOk (opJstat f s) := by
  unfold opJstat
  try dsimp only
  with_reducible repeat' first
    | assumption | intro _ | (refine ok_memOk ‹_› ?_) | apply resOk_inSlot | apply resOk_pure | apply resOk_bind
    | apply State.land_memOk | split

theorem opJrec_memOk (f : OpM) (s : State) (hm : s.memOk) :
    resOk (opJrec f s) := by
  unfold opJrec
  try dsimp only
  with_reducible repeat' first
    | assumption | intro _ | (refine snd_memOk ‹_› ?_) | (refine fst_memOk ‹_› ?_) | (refine ok_memOk ‹_› ?_)
    | apply resOk_inSlot | apply resOk_pure | apply resOk_error | apply resOk_bind | apply resOk_blockAt
    | apply resOk_raiseJournal | apply State.modMe_memOk | apply State.newTok_memOk | apply State.pendOn_memOk
    | apply State.post_memOk | split | refine memOk_mk (memOk_of ?_)

theorem State.jemitGo_memOk (s0 : State) (x : Journal) (w : Word) (wb : BitVec 6) (step : BitVec 32) (first : Bool)
    (hm : s0.memOk) :
    (State.jemitGo s0 x w wb step first).memOk := by
  unfold State.jemitGo
  with_reducible repeat' first
    | assumption | apply State.land_memOk | apply State.addRel_memOk | apply State.setJournal_memOk | split

theorem opJemit_memOk (f : OpM) (s : State) (hm : s.memOk) :
    resOk (opJemit f s) := by
  unfold opJemit
  with_reducible repeat' first
    | assumption | intro _ | apply resOk_pure | apply resOk_bind | apply State.bjRelease_memOk
    | apply State.jemitGo_memOk

theorem State.jemitRel_memOk (s : State) (ci : Nat) (x : RelItem) (w : Word) (r : Packet64) (hm : s.memOk) :
    (State.jemitRel s ci x w r).memOk := by
  unfold State.jemitRel
  with_reducible repeat' first
    | assumption | apply State.modStream_memOk | split

theorem State.readRec_memOk (s : State) (r : Ring) (step : BitVec 32) (hm : s.memOk) :
    (State.readRec s r step).2.memOk := by
  unfold State.readRec
  with_reducible repeat' first
    | assumption | (refine some_memOk ‹_› ?_) | (refine some2_memOk ‹_› ?_) | apply State.logCell_memOk | split

theorem State.readRecs_memOk (s : State) (r : Ring) (step : BitVec 32) (n : Nat) (hm : s.memOk) :
    (s.readRecs r step n).2.memOk :=
  pair_foldl_memOk (fun p _ hp => State.readRec_memOk p.2 _ _ hp) hm

theorem State.ringWrite_memOk (s : State) (r : Ring) (step : BitVec 32) (x : Packet64) (hm : s.memOk) :
    (State.ringWrite s r step x).memOk := by
  unfold State.ringWrite
  with_reducible repeat' first
    | assumption | apply State.homeWrites_memOk

theorem State.modRing_memOk (s : State) (iss jidx : BitVec 12) (f : Ring → Ring) (hm : s.memOk) :
    (State.modRing s iss jidx f).memOk := by
  unfold State.modRing
  with_reducible repeat' first
    | assumption | apply foldl_memOk | split | refine memOk_mk (memOk_of ?_)

theorem State.freeRing_memOk (s : State) (iss jidx : BitVec 12) (hm : s.memOk) :
    (State.freeRing s iss jidx).memOk := by
  unfold State.freeRing
  with_reducible repeat' first
    | assumption | apply State.poolFree_memOk | split | refine memOk_mk (memOk_of ?_)

theorem State.hostRing_memOk (s : State) (slot : BitVec 4) (entry : Option Nat) (m : RingReq) (hm : s.memOk) :
    optOk (State.hostRing s slot entry m) := by
  unfold State.hostRing
  with_reducible repeat' first
    | assumption | (refine some2_memOk ‹_› ?_) | apply optOk_none | apply optOk_some
    | apply State.poolAlloc_memOk | split | refine memOk_mk (memOk_of ?_)

theorem execRingHostRequest_memOk (m : RingReq) (s : State) (hm : s.memOk) :
    outOk (execRingHostRequest m s) := by
  unfold execRingHostRequest
  with_reducible repeat' first
    | assumption | (refine some_memOk ‹_› ?_) | apply outOk_next | apply optOk_none | apply State.post_memOk
    | apply State.receive_memOk | apply State.hostRing_memOk | split

theorem State.bjDone_memOk (s : State) (o : JOp) (v : Word) (hm : s.memOk) :
    (State.bjDone s o v).memOk := by
  unfold State.bjDone
  with_reducible repeat' first
    | assumption | apply State.answer_memOk

theorem State.bjGone_memOk (s : State) (o : JOp) (hm : s.memOk) :
    (State.bjGone s o).memOk := by
  unfold State.bjGone
  with_reducible repeat' first
    | assumption | (refine snd_memOk ‹_› ?_) | (refine fst_memOk ‹_› ?_) | apply State.bjDone_memOk
    | refine memOk_mk (memOk_of ?_)

theorem State.jopenEnd_memOk (s : State) (o : JOp) (code : Nat) (hm : s.memOk) :
    (State.jopenEnd s o code).memOk := by
  unfold State.jopenEnd
  try dsimp only
  with_reducible repeat' first
    | assumption | intro _ | (refine snd_memOk ‹_› ?_) | (refine fst_memOk ‹_› ?_) | (refine some_memOk ‹_› ?_)
    | (refine some2_memOk ‹_› ?_) | apply State.modStream_memOk | apply State.newChk_memOk
    | apply State.post_memOk | apply State.discardQueue_memOk | apply State.setJournal_memOk
    | apply State.freeJournal_memOk | apply State.bjDone_memOk | apply State.bjGone_memOk | split

theorem State.jopenStep_memOk (s : State) (o : JOp) (d : Packet64) (hm : s.memOk) :
    (State.jopenStep s o d).2.memOk := by
  unfold State.jopenStep
  try dsimp only
  with_reducible repeat' first
    | assumption | intro _ | (refine snd_memOk ‹_› ?_) | (refine fst_memOk ‹_› ?_) | (refine some_memOk ‹_› ?_)
    | (refine some2_memOk ‹_› ?_) | apply State.emit_memOk | apply State.post_memOk
    | apply State.setJournal_memOk | apply State.hostRing_memOk | apply State.bjDone_memOk
    | apply State.bjGone_memOk | apply State.jopenEnd_memOk | split

theorem State.jtruncStep_memOk (s : State) (o : JOp) (w c k : Word) (hm : s.memOk) :
    (State.jtruncStep s o w c k).2.memOk := by
  unfold State.jtruncStep
  try dsimp only
  with_reducible repeat' first
    | assumption | apply State.modStream_memOk | apply State.post_memOk | apply State.setJournal_memOk
    | apply State.freeJournal_memOk | split

theorem State.jpartEnd_memOk (s : State) (o : JOp) (newp : BitVec 12) (code : Nat) (hm : s.memOk) :
    (State.jpartEnd s o newp code).memOk := by
  unfold State.jpartEnd
  try dsimp only
  with_reducible repeat' first
    | assumption | (refine some_memOk ‹_› ?_) | (refine some2_memOk ‹_› ?_) | apply State.post_memOk
    | apply State.setJournal_memOk | apply State.bjDone_memOk | split

theorem State.jpartCopy_memOk (s : State) (o : JOp) (newp : BitVec 12) (hm : s.memOk) :
    (State.jpartCopy s o newp).2.memOk := by
  unfold State.jpartCopy
  try dsimp only
  with_reducible repeat' first
    | assumption | apply State.post_memOk | apply State.jpartEnd_memOk | split

theorem State.jpartGo_memOk (s : State) (o : JOp) (x : Journal) (newp : BitVec 12) (hm : s.memOk) :
    (State.jpartGo s o x newp).2.memOk := by
  unfold State.jpartGo
  try dsimp only
  with_reducible repeat' first
    | assumption | (refine some_memOk ‹_› ?_) | (refine some2_memOk ‹_› ?_) | apply State.post_memOk
    | apply State.hostRing_memOk | apply State.jpartEnd_memOk | apply State.jpartCopy_memOk | split

theorem State.jpartStep_memOk (s : State) (o : JOp) (w p : Word) (hm : s.memOk) :
    (State.jpartStep s o w p).2.memOk := by
  unfold State.jpartStep
  try dsimp only
  with_reducible repeat' first
    | assumption | intro _ | (refine some_memOk ‹_› ?_) | (refine some2_memOk ‹_› ?_)
    | apply State.setJournal_memOk | apply State.jpartGo_memOk | split

theorem State.jrepStep_memOk (s : State) (o : JOp) (seqid : Word) (hm : s.memOk) : (s.jrepStep o seqid).2.memOk := by
  unfold State.jrepStep
  split
  · exact State.bjDone_memOk _ _ _ hm
  · rename_i j x _
    generalize (s.hub.rings.find? fun r => r.entry == some j) = ring
    by_cases hc : x.ckpt = 0
    · simp only [hc, if_true]
      refine State.bjDone_memOk _ _ _ ?_
      have q := State.removeEnd_memOk _ x.sid false true (State.freeJournal_memOk _ j hm)
      split
      · exact State.freeRing_memOk _ _ _ q
      · exact q
    · simp only [hc, if_false]
      refine State.bjDone_memOk _ _ _ (memOk_mk (memOk_of (State.setJournal_memOk _ _ _ ?_)))
      cases ring with
      | none => exact State.newChk_memOk _ hm
      | some r => exact State.readRecs_memOk _ _ _ _ (State.newChk_memOk _ hm)

theorem State.jopStep_memOk (s : State) (o : JOp) (hm : s.memOk) :
    (State.jopStep s o).2.memOk := by
  unfold State.jopStep
  with_reducible repeat' first
    | assumption | (refine some_memOk ‹_› ?_) | (refine some2_memOk ‹_› ?_) | apply State.jopenStep_memOk
    | apply State.jtruncStep_memOk | apply State.jpartStep_memOk | apply State.jrepStep_memOk | split

theorem State.belayPump_memOk (s : State) (hm : s.memOk) : s.belayPump.memOk := by
  unfold State.belayPump
  refine memOk_mk (memOk_of ?_)
  apply pair_foldl_memOk
  · intro p x hp; exact State.jopStep_memOk _ _ hp
  · exact hm

theorem State.bjRel_memOk (s : State) (ci : Nat) (x : RelItem) (hm : s.memOk) :
    (State.bjRel s ci x).memOk := by
  unfold State.bjRel
  with_reducible repeat' first
    | assumption | apply State.belayPump_memOk | split | refine memOk_mk (memOk_of ?_)

theorem State.takeAsked_memOk (s : State) (j : Nat) (hm : s.memOk) : optOk2 (s.takeAsked j) := by
  intro a t e
  unfold State.takeAsked at e
  obtain ⟨o, _, q⟩ := Option.map_eq_some_iff.1 e
  cases q
  exact hm

theorem State.ringAnswered_memOk (s : State) (j code : Nat) (part : BitVec 12) (hm : s.memOk) :
    (State.ringAnswered s j code part).memOk := by
  unfold State.ringAnswered
  try dsimp only
  with_reducible repeat' first
    | assumption | (refine snd_memOk ‹_› ?_) | (refine fst_memOk ‹_› ?_) | (refine some_memOk ‹_› ?_)
    | (refine some2_memOk ‹_› ?_) | apply State.jopenEnd_memOk | apply State.jpartEnd_memOk
    | apply State.jpartCopy_memOk | apply State.belayPump_memOk | apply State.takeAsked_memOk | split
    | refine memOk_mk (memOk_of ?_)

theorem execRingHostAnswer_memOk (m : RingAns) (s : State) (hm : s.memOk) :
    outOk (execRingHostAnswer m s) := by
  unfold execRingHostAnswer
  with_reducible repeat' first
    | assumption | apply outOk_next | apply State.post_memOk | apply State.receive_memOk
    | apply State.ringAnswered_memOk | split

theorem execRingHostTimeout_memOk (jidx : BitVec 12) (s : State) (hm : s.memOk) :
    outOk (execRingHostTimeout jidx s) := by
  unfold execRingHostTimeout
  try dsimp only
  with_reducible repeat' first
    | assumption | apply outOk_next | apply State.ringAnswered_memOk | split

theorem execJournalAppend_memOk (m : AppendMsg) (s : State) (hm : s.memOk) :
    outOk (execJournalAppend m s) := by
  unfold execJournalAppend
  try dsimp only
  with_reducible repeat' first
    | assumption | apply outOk_next | apply State.post_memOk | apply State.receive_memOk
    | apply State.ringWrite_memOk | apply State.modRing_memOk | split

theorem State.losePartner_memOk (s : State) (j : Nat) (hm : s.memOk) :
    (State.losePartner s j).memOk := by
  unfold State.losePartner
  try dsimp only
  with_reducible repeat' first
    | assumption | intro _ | (refine snd_memOk ‹_› ?_) | apply foldl_memOk | apply State.modJournal_memOk
    | apply State.jpartEnd_memOk | split | refine memOk_mk (memOk_of ?_)

theorem execAppendAcknowledgement_memOk (m : AppendAck) (s : State) (hm : s.memOk) :
    outOk (execAppendAcknowledgement m s) := by
  unfold execAppendAcknowledgement
  try dsimp only
  with_reducible repeat' first
    | assumption | (refine ok_memOk ‹_› ?_) | (refine some_memOk ‹_› ?_) | (refine some2_memOk ‹_› ?_)
    | apply outOk_next | apply State.receive_memOk | apply State.setJournal_memOk | apply State.belayPump_memOk
    | apply State.losePartner_memOk | split

theorem execJrecRequest_memOk (m : JrecReq) (s : State) (hm : s.memOk) :
    outOk (execJrecRequest m s) := by
  unfold execJrecRequest
  try dsimp only
  with_reducible repeat' first
    | assumption | intro _ | (refine snd_memOk ‹_› ?_) | (refine fst_memOk ‹_› ?_) | (refine some_memOk ‹_› ?_)
    | (refine some2_memOk ‹_› ?_) | apply outOk_next | apply State.post_memOk | apply State.receive_memOk
    | apply State.readRec_memOk | split

theorem State.jrecDone_memOk (s : State) (tok : Nat) (v : Lanes) (m : Mark) (hm : s.memOk) :
    (State.jrecDone s tok v m).memOk := by
  unfold State.jrecDone
  try dsimp only
  with_reducible repeat' first
    | assumption | intro _ | (refine some_memOk ‹_› ?_) | (refine some2_memOk ‹_› ?_) | apply foldl_memOk
    | apply State.modCtx_memOk | apply State.modCore_memOk | apply State.answer_memOk | split
    | refine memOk_mk (memOk_of ?_)

theorem execJrecReply_memOk (m : JrecRep) (s : State) (hm : s.memOk) :
    outOk (execJrecReply m s) := by
  unfold execJrecReply
  try dsimp only
  with_reducible repeat' first
    | assumption | apply outOk_next | apply State.receive_memOk | apply State.belayPump_memOk
    | apply State.losePartner_memOk | apply State.jrecDone_memOk | split

theorem execRequestTimeout_memOk (tag : Nat) (s : State) (hm : s.memOk) :
    outOk (execRequestTimeout tag s) := by
  unfold execRequestTimeout
  with_reducible repeat' first
    | assumption | apply outOk_next | apply State.requestTimeout_memOk | apply State.jrecDone_memOk | split

theorem execReleaseMessage_memOk (m : ReleaseMsg) (s : State) (hm : s.memOk) :
    outOk (execReleaseMessage m s) := by
  unfold execReleaseMessage
  with_reducible repeat' first
    | assumption | apply outOk_next | apply State.receive_memOk | apply State.modRing_memOk
    | apply State.freeRing_memOk | split

theorem State.newRingGone_memOk (s : State) (j : Nat) (newp : BitVec 12) (hm : s.memOk) :
    (State.newRingGone s j newp).memOk := by
  unfold State.newRingGone
  with_reducible repeat' first
    | assumption | intro _ | (refine some_memOk ‹_› ?_) | (refine some2_memOk ‹_› ?_)
    | apply State.jpartEnd_memOk | apply State.belayPump_memOk | split | refine memOk_mk (memOk_of ?_)

theorem execReleaseNotice_memOk (m : NoticeMsg) (s : State) (hm : s.memOk) :
    outOk (execReleaseNotice m s) := by
  unfold execReleaseNotice
  try dsimp only
  with_reducible repeat' first
    | assumption | (refine snd_memOk ‹_› ?_) | (refine fst_memOk ‹_› ?_) | (refine some_memOk ‹_› ?_)
    | (refine some2_memOk ‹_› ?_) | apply outOk_next | apply State.receive_memOk | apply State.belayPump_memOk
    | apply State.losePartner_memOk | apply State.newRingGone_memOk | split

theorem execRingCopy_memOk (m : CopyMsg) (s : State) (hm : s.memOk) :
    outOk (execRingCopy m s) := by
  unfold execRingCopy
  try dsimp only
  with_reducible repeat' first
    | assumption | intro _ | (refine snd_memOk ‹_› ?_) | (refine fst_memOk ‹_› ?_) | (refine some_memOk ‹_› ?_)
    | (refine some2_memOk ‹_› ?_) | apply outOk_next | apply foldl_memOk | apply State.post_memOk
    | apply State.receive_memOk | apply State.readRecs_memOk | apply State.ringWrite_memOk
    | apply State.jpartEnd_memOk | apply State.belayPump_memOk | split | refine memOk_mk (memOk_of ?_)

theorem execItemSend_memOk (sid : StreamId) (s : State) (hm : s.memOk) :
    outOk (execItemSend sid s) := by
  unfold execItemSend
  with_reducible repeat' first
    | assumption | apply outOk_next | apply State.sendHead_memOk | apply State.belayPump_memOk

theorem execItemAcceptance_memOk (m : AckMsg) (s : State) (hm : s.memOk) :
    outOk (execItemAcceptance m s) := by
  unfold execItemAcceptance
  with_reducible repeat' first
    | assumption | apply outOk_next | apply State.itemAccepted_memOk | apply State.belayPump_memOk

theorem execCloseNotice_memOk (m : CloseMsg) (s : State) (hm : s.memOk) :
    outOk (execCloseNotice m s) := by
  unfold execCloseNotice
  with_reducible repeat' first
    | assumption | apply outOk_next | apply State.closeNoted_memOk | apply State.belayPump_memOk

theorem State.adopt_memOk (s : State) (r : Ring) (hm : s.memOk) :
    (State.adopt s r).memOk := by
  unfold State.adopt
  try dsimp only
  with_reducible repeat' first
    | assumption | intro _ | (refine snd_memOk ‹_› ?_) | (refine fst_memOk ‹_› ?_) | (refine some_memOk ‹_› ?_)
    | (refine some2_memOk ‹_› ?_) | apply State.emit_memOk | apply State.modStream_memOk
    | apply State.newChk_memOk | apply State.post_memOk | apply State.setJournal_memOk | split
    | refine memOk_mk (memOk_of ?_)

theorem State.belayDown_memOk (s : State) (f : BitVec 12) (hm : s.memOk) :
    (State.belayDown s f).memOk := by
  unfold State.belayDown
  try dsimp only
  with_reducible repeat' first
    | assumption | intro _ | apply foldl_memOk | apply State.jpartEnd_memOk | apply State.belayPump_memOk
    | apply State.ringAnswered_memOk | apply State.losePartner_memOk | apply State.jrecDone_memOk
    | apply State.adopt_memOk | split | refine memOk_mk (memOk_of ?_)

theorem State.sweepJournals_memOk (s : State) (slot : BitVec 4) (hm : s.memOk) :
    (State.sweepJournals s slot).memOk := by
  unfold State.sweepJournals
  with_reducible repeat' first
    | assumption | intro _ | apply foldl_memOk | apply State.post_memOk | apply State.poolFree_memOk
    | apply State.removeEnd_memOk | apply State.freeJournal_memOk | split | refine memOk_mk (memOk_of ?_)

end Sys2Proof.Machine
end

