-- ==== Sys2Proof/Laws/KeepWork.lean ====
section
/-! SUPPORT. Work objects, saving, killing and delivery of traps: every operation keeps the memory's canonical form. -/

namespace Sys2Proof.Machine

theorem State.setWobj_memOk (s : State) (i : Nat) (o : Packet64) (hm : s.memOk) :
    (State.setWobj s i o).memOk := by
  unfold State.setWobj
  with_reducible repeat' first
    | assumption | split | refine memOk_mk (memOk_of ?_)

theorem State.removeTasks_memOk (s : State) (lobj : BitVec 12) (slot : BitVec 4) (gen : BitVec 12) (hm : s.memOk) :
    (State.removeTasks s lobj slot gen).2.memOk := by
  unfold State.removeTasks
  with_reducible repeat' first
    | assumption | apply foldl_memOk | split | refine memOk_mk (memOk_of ?_)

theorem State.sendCompletion_memOk (s : State) (i : Nat) (o : Packet64) (hm : s.memOk) :
    (State.sendCompletion s i o).memOk := by
  unfold State.sendCompletion
  with_reducible repeat' first
    | assumption | apply State.modStream_memOk | split | refine memOk_mk (memOk_of ?_)

theorem State.endTasks_memOk (s : State) (i : Nat) (o : Packet64) (hm : s.memOk) :
    (State.endTasks s i o).2.memOk := by
  unfold State.endTasks
  with_reducible repeat' first
    | assumption | apply State.removeTasks_memOk | split

theorem State.signalWork_memOk (s : State) (core : Nat) (n : BitVec 8) (v : Nat) (hm : s.memOk) :
    (State.signalWork s core n v).memOk := by
  unfold State.signalWork
  with_reducible repeat' first
    | assumption | (refine snd_memOk ‹_› ?_) | (refine fst_memOk ‹_› ?_) | apply State.addSem_memOk | split
    | refine memOk_mk (memOk_of ?_)

theorem State.woNotify_memOk (s : State) (i : Nat) (o : Packet64) (hm : s.memOk) :
    (State.woNotify s i o).memOk := by
  unfold State.woNotify
  try dsimp only
  with_reducible repeat' first
    | assumption | (refine snd_memOk ‹_› ?_) | (refine fst_memOk ‹_› ?_) | apply State.sendCompletion_memOk
    | apply State.signalWork_memOk | split

theorem State.woDec_memOk (s : State) (i : Nat) (fails : Bool) (n : Nat) (hm : s.memOk) : (s.woDec i fails n).memOk := by
  induction n generalizing s i fails with
  | zero => exact hm
  | succ n ih =>
    unfold State.woDec
    dsimp only
    with_reducible repeat' first
      | assumption
      | apply ih
      | apply State.setWobj_memOk
      | apply State.woNotify_memOk
      | apply State.endTasks_memOk
      | split

theorem State.woSealAt_memOk (s : State) (i : Nat) (hm : s.memOk) :
    (State.woSealAt s i).memOk := by
  unfold State.woSealAt
  try dsimp only
  with_reducible repeat' first
    | assumption | apply State.setWobj_memOk | apply State.woDec_memOk | split

theorem State.setRow_memOk (s : State) (core i : Nat) (r : Packet64) (hm : s.memOk) :
    (State.setRow s core i r).memOk := by
  unfold State.setRow
  with_reducible repeat' first
    | assumption | intro _ | apply State.modCore_memOk

theorem State.endUnit_memOk (s : State) (ci rst : Nat) (exit : Word) (fails : Bool) (hm : s.memOk) :
    (State.endUnit s ci rst exit fails).memOk := by
  unfold State.endUnit
  try dsimp only
  with_reducible repeat' first
    | assumption | intro _ | apply State.setCtx_memOk | apply State.modCore_memOk | apply State.leaveCore_memOk
    | apply State.woDec_memOk | apply State.setRow_memOk | split

theorem State.killUnit_memOk (s : State) (ci : Nat) (hm : s.memOk) :
    (State.killUnit s ci).memOk := by
  unfold State.killUnit
  with_reducible repeat' first
    | assumption | apply State.rollback_memOk | apply State.endUnit_memOk | split

theorem State.dropOf_memOk (s : State) (core : Nat) (lobj : BitVec 12) (uid : BitVec 32) (lid : Word) (hm : s.memOk)
    :
    (State.dropOf s core lobj uid lid).memOk := by
  unfold State.dropOf
  try dsimp only
  with_reducible repeat' first
    | assumption | intro _ | (refine snd_memOk ‹_› ?_) | (refine fst_memOk ‹_› ?_) | apply foldl_memOk
    | apply State.modCtx_memOk | apply State.dropCommands_memOk

theorem State.killCancelled_memOk (s : State) (ci : Nat) (hm : s.memOk) :
    (State.killCancelled s ci).memOk := by
  unfold State.killCancelled
  try dsimp only
  with_reducible repeat' first
    | assumption | (refine snd_memOk ‹_› ?_) | (refine fst_memOk ‹_› ?_) | apply State.killUnit_memOk
    | apply State.dropOf_memOk

theorem State.failBlocked_memOk (s : State) (ci : Nat) (hm : s.memOk) :
    (State.failBlocked s ci).memOk := by
  unfold State.failBlocked
  with_reducible repeat' first
    | assumption | apply State.rollback_memOk | split

theorem State.killSaved_memOk (s : State) (core : Nat) (u : SavedUnit) (hm : s.memOk) : (s.killSaved core u).memOk := by
  unfold State.killSaved
  have h := fun f => State.modCore_memOk s core f hm
  apply State.woDec_memOk
  split
  · exact State.setRow_memOk _ _ _ _ (h _)
  · exact h _

theorem State.cancelPending_memOk (s : State) (core : Nat) (l : List (Nat × BitVec 4)) (hm : s.memOk) :
    (s.cancelPending core l).memOk := by
  unfold State.cancelPending
  apply foldl_memOk
  · intro x k h; exact State.woDec_memOk _ _ _ _ (State.setRow_memOk _ _ _ _ h)
  · exact State.modCore_memOk _ _ _ hm

theorem State.woCancelAt_memOk (s : State) (i : Nat) (hm : s.memOk) :
    (State.woCancelAt s i).memOk := by
  unfold State.woCancelAt
  try dsimp only
  with_reducible repeat' first
    | assumption | intro _ | (refine snd_memOk ‹_› ?_) | (refine fst_memOk ‹_› ?_) | apply foldl_memOk
    | apply pair_foldl_memOk | apply State.modCtx_memOk | apply State.setWobj_memOk
    | apply State.removeTasks_memOk | apply State.dropOf_memOk | apply State.killCancelled_memOk
    | apply State.killSaved_memOk | apply State.cancelPending_memOk | split

theorem State.woDone_memOk (s : State) (v : Word) (res : Nat) (hm : s.memOk) :
    (State.woDone s v res).memOk := by
  unfold State.woDone
  with_reducible repeat' first
    | assumption | apply State.setHubReg_memOk

theorem State.woCreate_memOk (s : State) (v : Word) (hm : s.memOk) :
    (State.woCreate s v).memOk := by
  unfold State.woCreate
  with_reducible repeat' first
    | assumption | apply State.setWobj_memOk | apply State.woDone_memOk | split

theorem State.woSealCmd_memOk (s : State) (v : Word) (hm : s.memOk) :
    (State.woSealCmd s v).memOk := by
  unfold State.woSealCmd
  with_reducible repeat' first
    | assumption | apply State.woSealAt_memOk | apply State.woDone_memOk | split

theorem State.woAddCmd_memOk (s : State) (v : Word) (hm : s.memOk) :
    (State.woAddCmd s v).memOk := by
  unfold State.woAddCmd
  try dsimp only
  with_reducible repeat' first
    | assumption | apply State.setWobj_memOk | apply State.woDone_memOk | split

theorem State.woCancelCmd_memOk (s : State) (v : Word) (hm : s.memOk) :
    (State.woCancelCmd s v).memOk := by
  unfold State.woCancelCmd
  with_reducible repeat' first
    | assumption | (refine snd_memOk ‹_› ?_) | (refine fst_memOk ‹_› ?_) | apply State.woCancelAt_memOk
    | apply State.woDone_memOk | split

theorem State.woFreeCmd_memOk (s : State) (v : Word) (hm : s.memOk) :
    (State.woFreeCmd s v).memOk := by
  unfold State.woFreeCmd
  with_reducible repeat' first
    | assumption | apply State.setWobj_memOk | apply State.woDone_memOk | split

theorem State.woctl_memOk (s : State) (v : Word) (hm : s.memOk) :
    (State.woctl s v).memOk := by
  unfold State.woctl
  with_reducible repeat' first
    | assumption | apply State.woCreate_memOk | apply State.woSealCmd_memOk | apply State.woAddCmd_memOk
    | apply State.woCancelCmd_memOk | apply State.woFreeCmd_memOk | split

theorem execWoCreate_memOk (v : Word) (s : State) (hm : s.memOk) :
    outOk (execWoCreate v s) := by
  unfold execWoCreate
  with_reducible repeat' first
    | assumption | apply outOk_next | apply State.woCreate_memOk | split

theorem execWoSeal_memOk (v : Word) (s : State) (hm : s.memOk) :
    outOk (execWoSeal v s) := by
  unfold execWoSeal
  with_reducible repeat' first
    | assumption | apply outOk_next | apply State.woSealCmd_memOk | split

theorem execWoAdd_memOk (v : Word) (s : State) (hm : s.memOk) :
    outOk (execWoAdd v s) := by
  unfold execWoAdd
  with_reducible repeat' first
    | assumption | apply outOk_next | apply State.woAddCmd_memOk | split

theorem execWoCancel_memOk (v : Word) (s : State) (hm : s.memOk) :
    outOk (execWoCancel v s) := by
  unfold execWoCancel
  with_reducible repeat' first
    | assumption | apply outOk_next | apply State.woCancelCmd_memOk | split

theorem execWoFree_memOk (v : Word) (s : State) (hm : s.memOk) :
    outOk (execWoFree v s) := by
  unfold execWoFree
  with_reducible repeat' first
    | assumption | apply outOk_next | apply State.woFreeCmd_memOk | split

theorem State.wkRelease_memOk (s : State) (i : Instr) (f : OpS) (act : State → ScalarArgs → Res State) (hm :
    s.memOk) (hf_act : ∀ x, x.memOk → ∀ y, resOk (act x y)) :
    resOk (State.wkRelease s i f act) := by
  unfold State.wkRelease
  try dsimp only
  with_reducible repeat' first
    | assumption | intro _ | (refine ok_memOk ‹_› ?_) | apply resOk_inSlot | apply resOk_pure | apply resOk_bind
    | apply State.limit_memOk | apply hf_act | split

theorem opFork_memOk (f : OpS) (s : State) (hm : s.memOk) :
    resOk (opFork f s) := by
  unfold opFork
  try dsimp only
  with_reducible repeat' first
    | assumption | intro _ | (refine ok_memOk ‹_› ?_) | apply resOk_inSlot | apply resOk_pure
    | apply resOk_error | apply resOk_bind | apply foldl_memOk | apply resOk_raise | apply resOk_blockAt
    | apply State.limit_memOk | apply State.addRel_memOk | split

theorem State.setJc_memOk (s : State) (core n v : Nat) (hm : s.memOk) :
    (State.setJc s core n v).memOk := by
  unfold State.setJc
  with_reducible repeat' first
    | assumption | apply State.modCore_memOk

theorem State.forkRel_memOk (s : State) (ci : Nat) (x : RelItem) (task : BitVec 256) (hm : s.memOk) :
    (State.forkRel s ci x task).memOk := by
  unfold State.forkRel
  try dsimp only
  with_reducible repeat' first
    | assumption | intro _ | (refine snd_memOk ‹_› ?_) | (refine fst_memOk ‹_› ?_) | (refine some_memOk ‹_› ?_)
    | (refine some2_memOk ‹_› ?_) | apply State.modCore_memOk | apply State.newTok_memOk
    | apply State.setJc_memOk | split

theorem opJadd_memOk (f : OpS) (s : State) (hm : s.memOk) :
    resOk (opJadd f s) := by
  unfold opJadd
  with_reducible repeat' first
    | assumption | intro _ | apply resOk_ok | apply State.addRel_memOk | apply State.wkRelease_memOk

theorem State.jaddRel_memOk (s : State) (ci : Nat) (x : RelItem) (j : BitVec 6) (n : Word) (hm : s.memOk) :
    (State.jaddRel s ci x j n).memOk := by
  unfold State.jaddRel
  with_reducible repeat' first
    | assumption | apply State.setJc_memOk | split

theorem opWdone_memOk (f : OpS) (s : State) (hm : s.memOk) :
    resOk (opWdone f s) := by
  unfold opWdone
  with_reducible repeat' first
    | assumption | intro _ | apply resOk_ok | apply State.addRel_memOk | apply State.wkRelease_memOk

theorem State.wdoneRel_memOk (s : State) (ci : Nat) (x : RelItem) (w : Word) (hm : s.memOk) :
    (State.wdoneRel s ci x w).memOk := by
  unfold State.wdoneRel
  with_reducible repeat' first
    | assumption | (refine some_memOk ‹_› ?_) | (refine some2_memOk ‹_› ?_) | apply State.setJc_memOk | split

theorem opWcan_memOk (f : OpS) (s : State) (hm : s.memOk) :
    resOk (opWcan f s) := by
  unfold opWcan
  with_reducible repeat' first
    | assumption | intro _ | apply resOk_ok | apply State.newTok_memOk | apply State.pendOn_memOk
    | apply State.addRel_memOk | apply State.wkRelease_memOk

theorem State.wcanRel_memOk (s : State) (ci : Nat) (x : RelItem) (obj : BitVec 12) (hm : s.memOk) :
    (State.wcanRel s ci x obj).memOk := by
  unfold State.wcanRel
  try dsimp only
  with_reducible repeat' first
    | assumption | apply State.answer_memOk | apply State.woCancelAt_memOk | split

theorem State.holdTask_memOk (s : State) (core : Nat) (key : Nat) (fromHead : Bool) (hm : s.memOk) :
    (State.holdTask s core key fromHead).memOk := by
  unfold State.holdTask
  with_reducible repeat' first
    | assumption | intro _ | (refine some_memOk ‹_› ?_) | (refine some2_memOk ‹_› ?_)
    | apply State.modCore_memOk

theorem opJoin_memOk (f : OpS) (s : State) (hm : s.memOk) :
    resOk (opJoin f s) := by
  unfold opJoin
  try dsimp only
  with_reducible repeat' first
    | assumption | intro _ | (refine snd_memOk ‹_› ?_) | (refine ok_memOk ‹_› ?_) | (refine some_memOk ‹_› ?_)
    | (refine some2_memOk ‹_› ?_) | apply resOk_inSlot | apply resOk_pure | apply resOk_error | apply resOk_bind
    | apply resOk_raise | apply resOk_blockAt | apply State.land_memOk | apply State.addRel_memOk
    | apply State.holdTask_memOk | split

theorem State.joinRel_memOk (s : State) (core key : Nat) (hm : s.memOk) :
    (State.joinRel s core key).memOk := by
  unfold State.joinRel
  with_reducible repeat' first
    | assumption | apply State.modCore_memOk

theorem State.sweepWork_memOk (s : State) (slot : BitVec 4) (hm : s.memOk) :
    (State.sweepWork s slot).memOk := by
  unfold State.sweepWork
  with_reducible repeat' first
    | assumption | split | refine memOk_mk (memOk_of ?_)

theorem State.hwPut_memOk (s : State) (a : Acc) (pa : Nat) (v : Word) (hm : s.memOk) :
    (State.hwPut s a pa v).memOk := by
  unfold State.hwPut
  with_reducible repeat' first
    | assumption | apply State.homeWrites_memOk

theorem State.putRecord_memOk (s : State) (core : Nat) (r : List Word) (hm : s.memOk) :
    optOk2 (State.putRecord s core r) := by
  unfold State.putRecord
  try dsimp only
  with_reducible repeat' first
    | assumption | apply optOk2_none | apply optOk2_some | apply State.irq_memOk | apply State.homeWrites_memOk
    | apply State.hwPut_memOk | split

theorem State.doResume_memOk (s : State) (ci : Nat) (e : List Word) (hm : s.memOk) :
    (State.doResume s ci e).memOk := by
  unfold State.doResume
  with_reducible repeat' first
    | assumption | intro _ | apply State.modCtx_memOk | apply State.makeReady_memOk

theorem State.doRedirect_memOk (s : State) (ci : Nat) (e : List Word) (haddr : Nat) (hm : s.memOk) :
    (State.doRedirect s ci e haddr).memOk := by
  unfold State.doRedirect
  try dsimp only
  with_reducible repeat' first
    | assumption | intro _ | (refine snd_memOk ‹_› ?_) | apply State.modCtx_memOk | apply State.makeReady_memOk

theorem State.tctlDone_memOk (s : State) (core i : Nat) (v : Word) (res : Nat) (hm : s.memOk) :
    (State.tctlDone s core i v res).memOk := by
  unfold State.tctlDone
  with_reducible repeat' first
    | assumption | apply State.modCore_memOk

theorem State.replyTo_memOk (s : State) (core : Nat) (u : SavedUnit) (r : Reply) (hm : s.memOk) :
    (State.replyTo s core u r).memOk := by
  unfold State.replyTo
  with_reducible repeat' first
    | assumption | apply State.modCore_memOk

theorem State.tctlAct_memOk (s : State) (core i : Nat) (v : Word) (hm : s.memOk) :
    (State.tctlAct s core i v).memOk := by
  unfold State.tctlAct
  try dsimp only
  with_reducible repeat' first
    | assumption | intro _ | (refine some_memOk ‹_› ?_) | (refine some2_memOk ‹_› ?_)
    | apply State.modCore_memOk | apply State.killUnit_memOk | apply State.killSaved_memOk
    | apply State.doResume_memOk | apply State.doRedirect_memOk | apply State.tctlDone_memOk
    | apply State.replyTo_memOk | split

theorem State.tctlCmd_memOk (s : State) (core i : Nat) (v : Word) (hm : s.memOk) :
    (State.tctlCmd s core i v).memOk := by
  unfold State.tctlCmd
  with_reducible repeat' first
    | assumption | apply State.tctlAct_memOk | split

theorem execTrapDelivery_memOk (core ctx : Nat) (s : State) (hm : s.memOk) :
    outOk (execTrapDelivery core ctx s) := by
  unfold execTrapDelivery
  try dsimp only
  with_reducible repeat' first
    | assumption | intro _ | (refine snd_memOk ‹_› ?_) | (refine fst_memOk ‹_› ?_) | (refine some_memOk ‹_› ?_)
    | (refine some2_memOk ‹_› ?_) | apply outOk_next | apply State.modCtx_memOk | apply State.endUnit_memOk
    | apply State.dropOf_memOk | apply State.putRecord_memOk | apply State.tctlAct_memOk | split

theorem execResume_memOk (core ctx : Nat) (v : Word) (s : State) (hm : s.memOk) :
    outOk (execResume core ctx v s) := by
  unfold execResume
  with_reducible repeat' first
    | assumption | apply outOk_next | apply State.tctlCmd_memOk | split

theorem execRedirect_memOk (core ctx : Nat) (v : Word) (s : State) (hm : s.memOk) :
    outOk (execRedirect core ctx v s) := by
  unfold execRedirect
  with_reducible repeat' first
    | assumption | apply outOk_next | apply State.tctlCmd_memOk | split

theorem execKill_memOk (core ctx : Nat) (v : Word) (s : State) (hm : s.memOk) :
    outOk (execKill core ctx v s) := by
  unfold execKill
  with_reducible repeat' first
    | assumption | apply outOk_next | apply State.tctlCmd_memOk | split

theorem State.holdAsync_memOk (s : State) (ci : Nat) (a : AsyncTrap) (hm : s.memOk) :
    (State.holdAsync s ci a).memOk := by
  unfold State.holdAsync
  with_reducible repeat' first
    | assumption | apply State.modCtx_memOk | apply State.asyncAtBlock_memOk

theorem execPromiseMissed_memOk (core q : Nat) (s : State) (hm : s.memOk) :
    outOk (execPromiseMissed core q s) := by
  unfold execPromiseMissed
  try dsimp only
  with_reducible repeat' first
    | assumption | apply outOk_next | apply State.modEq_memOk | apply State.replyTo_memOk
    | apply State.holdAsync_memOk | split

theorem State.saveCtx_memOk (s : State) (ci : Nat) (hm : s.memOk) :
    (State.saveCtx s ci).memOk := by
  unfold State.saveCtx
  try dsimp only
  with_reducible repeat' first
    | assumption | intro _ | (refine snd_memOk ‹_› ?_) | apply foldl_memOk | apply State.setCtx_memOk
    | apply State.modCtx_memOk | apply State.modCore_memOk | apply State.homeWrites_memOk
    | apply State.rollback_memOk | apply State.leaveCore_memOk | apply State.setRow_memOk | split
    | refine memOk_mk (memOk_of ?_)

theorem execPreemptSave_memOk (core ctx : Nat) (s : State) (hm : s.memOk) :
    outOk (execPreemptSave core ctx s) := by
  unfold execPreemptSave
  with_reducible repeat' first
    | assumption | apply outOk_next | apply State.saveCtx_memOk | split

theorem execPreRequest_memOk (core row : Nat) (s : State) (hm : s.memOk) :
    outOk (execPreRequest core row s) := by
  unfold execPreRequest
  with_reducible repeat' first
    | assumption | apply outOk_next | apply State.modCtx_memOk | apply State.setRow_memOk | split

theorem State.applyReply_memOk (s : State) (ci : Nat) (r : Reply) (hm : s.memOk) :
    (State.applyReply s ci r).memOk := by
  unfold State.applyReply
  with_reducible repeat' first
    | assumption | apply State.modCtx_memOk | apply State.doResume_memOk | apply State.doRedirect_memOk | split
    | refine memOk_mk (memOk_of ?_)

theorem State.touchArea_memOk (s : State) (core area : Nat) (hm : s.memOk) :
    (State.touchArea s core area).memOk := by
  unfold State.touchArea
  try dsimp only
  with_reducible repeat' first
    | assumption | intro _ | (refine snd_memOk ‹_› ?_) | (refine fst_memOk ‹_› ?_) | apply foldl_memOk
    | apply State.touchRun_memOk | split

theorem State.restoreCtx_memOk (s : State) (ci : Nat) (u : SavedUnit) (area : Nat) (hm : s.memOk) :
    (State.restoreCtx s ci u area).memOk := by
  unfold State.restoreCtx
  try dsimp only
  with_reducible repeat' first
    | assumption | intro _ | (refine snd_memOk ‹_› ?_) | (refine fst_memOk ‹_› ?_) | (refine some_memOk ‹_› ?_)
    | (refine some2_memOk ‹_› ?_) | apply foldl_memOk | apply pair_foldl_memOk | apply State.modCtx_memOk
    | apply State.modCore_memOk | apply State.makeReady_memOk | apply State.deliverAsync_memOk
    | apply State.applyReply_memOk | apply State.touchArea_memOk | split

theorem execReplyToSaved_memOk (core row : Nat) (r : Reply) (s : State) (hm : s.memOk) :
    outOk (execReplyToSaved core row r s) := by
  unfold execReplyToSaved
  try dsimp only
  with_reducible repeat' first
    | assumption | intro _ | (refine some_memOk ‹_› ?_) | (refine some2_memOk ‹_› ?_) | apply outOk_next
    | apply State.modCore_memOk | apply State.homeWrites_memOk | apply State.hwPut_memOk
    | apply State.putRecord_memOk | split

end Sys2Proof.Machine
end

