-- ==== Sys2Proof/Laws/KeepTenancy.lean ====
section
/-! SUPPORT. Tenancy, binding, reliability and the caddy: every operation keeps the memory's canonical form. -/

namespace Sys2Proof.Machine

theorem State.shootdown_memOk (s : State) (d : Nat) (v : Word) (hm : s.memOk) :
    (State.shootdown s d v).memOk := by
  unfold State.shootdown
  try dsimp only
  with_reducible repeat' first
    | assumption | intro _ | (refine snd_memOk ‹_› ?_) | (refine ok_memOk ‹_› ?_) | (refine some_memOk ‹_› ?_)
    | (refine some2_memOk ‹_› ?_) | apply State.modDie_memOk | split | refine memOk_mk (memOk_of ?_)

theorem execShootdown_memOk (die : BitVec 2) (v : Word) (s : State) (hm : s.memOk) :
    outOk (execShootdown die v s) := by
  unfold execShootdown
  with_reducible repeat' first
    | assumption | apply outOk_next | apply State.shootdown_memOk

theorem State.flushLines_memOk (s : State) (hit : CLine → Bool) (hm : s.memOk) :
    (State.flushLines s hit).memOk := by
  unfold State.flushLines
  with_reducible repeat' first
    | assumption | intro _ | apply foldl_memOk | apply State.modDie_memOk | apply State.wbRdcLine_memOk
    | apply State.dropL1Line_memOk

theorem execShootdownComplete_memOk (die : BitVec 2) (s : State) (hm : s.memOk) :
    outOk (execShootdownComplete die s) := by
  unfold execShootdownComplete
  try dsimp only
  with_reducible repeat' first
    | assumption | intro _ | (refine some_memOk ‹_› ?_) | (refine some2_memOk ‹_› ?_) | apply outOk_next
    | apply State.modDie_memOk | apply State.flushLines_memOk | split

theorem State.killStale_memOk (s : State) (ci : Nat) (hm : s.memOk) :
    (State.killStale s ci).memOk := by
  unfold State.killStale
  try dsimp only
  with_reducible repeat' first
    | assumption | intro _ | apply State.modCore_memOk | apply State.endUnit_memOk

theorem State.genAdvance_memOk (s : State) (slot : BitVec 4) (v : Word) (hm : s.memOk) :
    (State.genAdvance s slot v).memOk := by
  unfold State.genAdvance
  try dsimp only
  with_reducible repeat' first
    | assumption | intro _ | apply foldl_memOk | apply State.modTslot_memOk | apply State.killSaved_memOk
    | apply State.killStale_memOk | split | refine memOk_mk (memOk_of ?_)

theorem execGenAdvance_memOk (slot : BitVec 4) (v : Word) (s : State) (hm : s.memOk) :
    outOk (execGenAdvance slot v s) := by
  unfold execGenAdvance
  with_reducible repeat' first
    | assumption | apply outOk_next | apply State.genAdvance_memOk

theorem State.sweepCaches_memOk (s : State) (slot : BitVec 4) (hm : s.memOk) :
    (State.sweepCaches s slot).memOk := by
  unfold State.sweepCaches
  try dsimp only
  with_reducible repeat' first
    | assumption | intro _ | refine memOk_mk (memOk_of ?_)

theorem State.sweepWindows_memOk (s : State) (slot : BitVec 4) (hm : s.memOk) :
    (State.sweepWindows s slot).memOk := by
  unfold State.sweepWindows
  try dsimp only
  with_reducible repeat' first
    | assumption | intro _ | apply foldl_memOk | apply State.setHubReg_memOk | split

theorem State.sweepTags_memOk (s : State) (slot : BitVec 4) (hm : s.memOk) :
    (State.sweepTags s slot).memOk := by
  unfold State.sweepTags
  try dsimp only
  with_reducible repeat' first
    | assumption | intro _ | (refine snd_memOk ‹_› ?_) | (refine some_memOk ‹_› ?_)
    | (refine some2_memOk ‹_› ?_) | apply foldl_memOk | apply State.modCtx_memOk | apply State.pump_memOk
    | split | refine memOk_mk (memOk_of ?_)

theorem State.freshKeys_memOk (s : State) (slot : BitVec 4) (hm : s.memOk) :
    (State.freshKeys s slot).memOk := by
  unfold State.freshKeys
  with_reducible repeat' first
    | assumption | split | refine memOk_mk (memOk_of ?_)

theorem execOnchipSweepComplete_memOk (slot : BitVec 4) (s : State) (hm : s.memOk) :
    outOk (execOnchipSweepComplete slot s) := by
  unfold execOnchipSweepComplete
  with_reducible repeat' first
    | assumption | intro _ | apply outOk_next | apply foldl_memOk | apply State.modCore_memOk
    | apply State.modTslot_memOk | apply State.sweepCommands_memOk | apply State.sweepStreams_memOk
    | apply State.sweepJournals_memOk | apply State.sweepWork_memOk | apply State.sweepCaches_memOk
    | apply State.sweepWindows_memOk | apply State.sweepTags_memOk | apply State.freshKeys_memOk | split

theorem State.coreslotChange_memOk (s : State) (core : Nat) (v : Word) (hm : s.memOk) :
    (State.coreslotChange s core v).memOk := by
  unfold State.coreslotChange
  with_reducible repeat' first
    | assumption | intro _ | apply foldl_memOk | apply State.modCore_memOk | apply State.dropL1Line_memOk
    | split | refine memOk_mk (memOk_of ?_)

theorem execCoreslotChange_memOk (core : Nat) (v : Word) (s : State) (hm : s.memOk) :
    outOk (execCoreslotChange core v s) := by
  unfold execCoreslotChange
  with_reducible repeat' first
    | assumption | apply outOk_next | apply State.coreslotChange_memOk

theorem State.dropBlock_memOk (s : State) (d blk : Nat) (hm : s.memOk) :
    (State.dropBlock s d blk).memOk := by
  unfold State.dropBlock
  with_reducible repeat' first
    | assumption | split | refine memOk_mk (memOk_of ?_)

theorem Tab.wf_putRun {α : Type} [DecidableEq α] (d : α) (l : List Nat) (g : Nat → Nat) (v : α) (t : Tab α) (h : Tab.wf d t = true) :
    Tab.wf d (l.foldl (fun t i => Tab.put d t (g i) v) t) = true := by
  induction l generalizing t with
  | nil => exact h
  | cons x r ih => exact ih _ (Tab.wf_put _ _ _ _ h)

/-- The zero form of a block keeps the form. -/
theorem Mem.zeroBlock_wf (m : Mem) (sec : Nat) (g : BitVec 12) (w : Memory.wf m = true) :
    Memory.wf (m.zeroBlock sec g) = true := by
  simp only [Memory.wf, Bool.and_eq_true] at w
  simp only [Mem.zeroBlock, Memory.wf, Bool.and_eq_true]
  exact ⟨⟨⟨Tab.wfFrom_eraseRange _ _ w.1.1.1, Tab.wf_putRun _ _ _ _ _ w.1.1.2⟩,
      Tab.wfFrom_eraseRange _ _ w.1.2⟩, Tab.wfFrom_eraseRange _ _ w.2⟩

theorem State.blockReassign_memOk (s : State) (d : Nat) (v : Word) (hm : s.memOk) : (s.blockReassign d v).memOk := by
  unfold State.blockReassign
  dsimp only
  split
  · exact hm
  · split
    · exact State.modDie_memOk _ _ _ hm
    · refine State.modDie_memOk _ _ _ (memOk_mk (Mem.zeroBlock_wf _ _ _ ?_))
      exact foldl_memOk (fun _ _ h => State.noteMigr_memOk _ _ h) (State.dropBlock_memOk s d (field v 0 21) hm)

theorem execBlockReassign_memOk (die : BitVec 2) (v : Word) (s : State) (hm : s.memOk) :
    outOk (execBlockReassign die v s) := by
  unfold execBlockReassign
  with_reducible repeat' first
    | assumption | apply outOk_next | apply State.blockReassign_memOk

theorem State.decoded_memOk (s : State) (pa : Nat) (cell : CellResult) (src : Nat) (hm : s.memOk) :
    (State.decoded s pa cell src).memOk := by
  unfold State.decoded
  try dsimp only
  with_reducible repeat' first
    | assumption | intro _ | (refine snd_memOk ‹_› ?_) | apply State.modDie_memOk | apply State.logCell_memOk
    | apply State.irq_memOk | apply State.poisonHome_memOk | apply State.putWord_memOk | split

theorem State.restamp_memOk (s : State) (sec : Nat) (hm : s.memOk) : (s.restamp sec).memOk := by
  unfold State.restamp
  split
  · exact Mem.stamp_wf (s.mem.zeroSector sec) _ _ (Mem.zeroSector_wf _ _ hm)
  · exact hm

theorem execSweepVisit_memOk (die : BitVec 2) (cell : List SymErr) (s : State) (hm : s.memOk) :
    outOk (execSweepVisit die cell s) := by
  unfold execSweepVisit
  try dsimp only
  with_reducible repeat' first
    | assumption | intro _ | apply outOk_next | apply State.modDie_memOk | apply State.decoded_memOk
    | apply State.restamp_memOk | split

theorem State.retryLock_memOk (s : State) (t : Nat) (hm : s.memOk) :
    (State.retryLock s t).memOk := by
  unfold State.retryLock
  with_reducible repeat' first
    | assumption | apply State.genAdvance_memOk | split | refine memOk_mk (memOk_of ?_)

theorem execPassEnd_memOk (s : State) (hm : s.memOk) :
    outOk (execPassEnd s) := by
  unfold execPassEnd
  with_reducible repeat' first
    | assumption | intro _ | apply outOk_next | apply foldl_memOk | apply State.modDie_memOk
    | apply State.modTslot_memOk | apply State.retryLock_memOk | split | refine memOk_mk (memOk_of ?_)

theorem State.swctl_memOk (s : State) (v : Word) (hm : s.memOk) :
    (State.swctl s v).memOk := by
  unfold State.swctl
  with_reducible repeat' first
    | assumption | apply State.setHubReg_memOk | split

theorem execSwctlWrite_memOk (v : Word) (s : State) (hm : s.memOk) :
    outOk (execSwctlWrite v s) := by
  unfold execSwctlWrite
  with_reducible repeat' first
    | assumption | apply outOk_next | apply State.swctl_memOk

theorem State.go_memOk (s : State) (core i : Nat) (v : Packet64) (hm : s.memOk) :
    (State.go s core i v).memOk := by
  unfold State.go
  with_reducible repeat' first
    | assumption | apply State.modCtx_memOk | apply State.modCore_memOk | apply State.setRow_memOk | split
    | refine memOk_mk (memOk_of ?_)

theorem execGo_memOk (core row : Nat) (v : Packet64) (s : State) (hm : s.memOk) :
    outOk (execGo core row v s) := by
  unfold execGo
  with_reducible repeat' first
    | assumption | apply outOk_next | apply State.go_memOk

theorem State.loadDict_memOk (s : State) (core : Nat) (k : Kernel) (hm : s.memOk) :
    (State.loadDict s core k).memOk := by
  unfold State.loadDict
  with_reducible repeat' first
    | assumption | intro _ | apply foldl_memOk | apply State.modCore_memOk | split

theorem State.bindInto_memOk (s : State) (core i : Nat) (r : Packet64) (hm : s.memOk) :
    (State.bindInto s core i r).memOk := by
  unfold State.bindInto
  try dsimp only
  with_reducible repeat' first
    | assumption | intro _ | (refine snd_memOk ‹_› ?_) | (refine some_memOk ‹_› ?_)
    | (refine some2_memOk ‹_› ?_) | apply foldl_memOk | apply State.modCtx_memOk | apply State.modCore_memOk
    | apply State.makeReady_memOk | apply State.setRow_memOk | apply State.restoreCtx_memOk
    | apply State.loadDict_memOk | split

theorem State.bindRefuse_memOk (s : State) (core e : Nat) (r : Packet64) (why : Nat) (hm : s.memOk) :
    (State.bindRefuse s core e r why).memOk := by
  unfold State.bindRefuse
  try dsimp only
  with_reducible repeat' first
    | assumption | apply State.woDec_memOk | apply State.setRow_memOk | split

theorem execDispatchBind_memOk (core row : Nat) (s : State) (hm : s.memOk) :
    outOk (execDispatchBind core row s) := by
  unfold execDispatchBind
  try dsimp only
  with_reducible repeat' first
    | assumption | apply outOk_next | apply State.modCore_memOk | apply State.bindInto_memOk
    | apply State.bindRefuse_memOk | split

theorem execPendingBind_memOk (core : Nat) (s : State) (hm : s.memOk) :
    outOk (execPendingBind core s) := by
  unfold execPendingBind
  try dsimp only
  with_reducible repeat' first
    | assumption | apply outOk_next | apply State.modCore_memOk | apply State.setRow_memOk
    | apply State.bindInto_memOk | apply State.bindRefuse_memOk | split

theorem State.csaveWrite_memOk (s : State) (core img : Nat) (hm : s.memOk) :
    (State.csaveWrite s core img).memOk := by
  unfold State.csaveWrite
  try dsimp only
  with_reducible repeat' first
    | assumption | intro _ | apply foldl_memOk | apply State.homeWrites_memOk | apply State.poisonFlag_memOk

theorem State.csaveStep_memOk (s : State) (core : Nat) (hm : s.memOk) :
    (State.csaveStep s core).memOk := by
  unfold State.csaveStep
  with_reducible repeat' first
    | assumption | apply State.modCore_memOk | apply State.csaveWrite_memOk | split
    | refine memOk_mk (memOk_of ?_)

theorem execCsave_memOk (core : Nat) (v : Word) (s : State) (hm : s.memOk) :
    outOk (execCsave core v s) := by
  unfold execCsave
  with_reducible repeat' first
    | assumption | apply outOk_next | apply State.modCore_memOk | apply State.stop_memOk
    | apply State.setSeqr_memOk | apply State.csaveStep_memOk | split

theorem State.crestHead_memOk (s : State) (core img : Nat) (hm : s.memOk) :
    (State.crestHead s core img).memOk := by
  unfold State.crestHead
  with_reducible repeat' first
    | assumption | intro _ | apply foldl_memOk | apply State.modCore_memOk | apply State.setSem_memOk
    | apply State.take_memOk | apply State.setSeqr_memOk | apply State.setJc_memOk | split
    | refine memOk_mk (memOk_of ?_)

theorem State.crestArrays_memOk (s : State) (core img : Nat) (hm : s.memOk) :
    (State.crestArrays s core img).memOk := by
  unfold State.crestArrays
  try dsimp only
  with_reducible repeat' first
    | assumption | intro _ | (refine snd_memOk ‹_› ?_) | (refine some_memOk ‹_› ?_)
    | (refine some2_memOk ‹_› ?_) | apply foldl_memOk | apply State.modCore_memOk | apply State.spadWrites_memOk
    | apply State.setLine_memOk

theorem State.crestSlots_memOk (s : State) (core img : Nat) (hm : s.memOk) : (s.crestSlots core img).2.memOk := by
  unfold State.crestSlots
  apply pair_foldl_memOk
  · intro p x hp
    split
    · exact hp
    · split
      · exact State.setBslot_memOk _ _ _ _ hp
      · exact State.setBslot_memOk _ _ _ _ hp
  · exact hm

theorem State.touchImage_memOk (s : State) (core img : Nat) (hm : s.memOk) :
    (State.touchImage s core img).memOk := by
  unfold State.touchImage
  try dsimp only
  with_reducible repeat' first
    | assumption | intro _ | (refine snd_memOk ‹_› ?_) | (refine fst_memOk ‹_› ?_) | apply foldl_memOk
    | apply State.touchRun_memOk | split

theorem execCrest_memOk (core : Nat) (v : Word) (s : State) (hm : s.memOk) :
    outOk (execCrest core v s) := by
  unfold execCrest
  try dsimp only
  with_reducible repeat' first
    | assumption | intro _ | (refine snd_memOk ‹_› ?_) | (refine fst_memOk ‹_› ?_) | apply outOk_next
    | apply State.modCore_memOk | apply State.crestHead_memOk | apply State.crestArrays_memOk
    | apply State.crestSlots_memOk | apply State.touchImage_memOk | split

theorem State.measured_memOk (s : State) (i : Nat) (digest : BitVec 256) (hm : s.memOk) :
    (State.measured s i digest).memOk := by
  unfold State.measured
  try dsimp only
  with_reducible repeat' first
    | assumption | (refine snd_memOk ‹_› ?_) | (refine fst_memOk ‹_› ?_) | refine memOk_mk (memOk_of ?_)

theorem State.spoil_memOk (s : State) (g : Granule) (hm : s.memOk) : (s.spoil g).memOk := by
  cases g with
  | l2 sector =>
    simp only [State.memOk, Memory.wf, Bool.and_eq_true] at hm
    simp only [State.spoil, State.memOk, Memory.wf, Bool.and_eq_true]
    exact ⟨⟨⟨hm.1.1.1, hm.1.1.2⟩, Tab.wf_put _ _ _ _ hm.1.2⟩, hm.2⟩
  | _ => exact hm

theorem State.upset_memOk (s : State) (u : Upset) (hm : s.memOk) : (s.upset u).memOk := by
  unfold State.upset
  split
  · split
    · exact hm
    · split
      · exact State.spoil_memOk _ _ (State.countDie_memOk _ _ _ _ _ _ hm)
      · exact State.countDie_memOk _ _ _ _ _ _ hm
  · split
    · exact State.decoded_memOk _ _ _ _ hm
    · exact hm
  · exact State.measured_memOk _ _ _ hm
  · have q := State.countAuth_memOk _ (State.countAuth_memOk _ hm)
    split
    · exact hm
    · split
      · exact State.countAuth_memOk _ hm
      · split
        · exact State.poisonFlag_memOk _ _ q
        · exact q

theorem State.takeUpsets_memOk (s : State) (hm : s.memOk) : s.takeUpsets.memOk := by
  unfold State.takeUpsets
  split
  · exact hm
  · exact foldl_memOk (fun _ _ h => State.upset_memOk _ _ h) hm

theorem State.deliver_memOk (s : State) (b : Burst) (l : List WireFlip) (hm : s.memOk) : (s.deliver b l).memOk := by
  unfold State.deliver
  generalize List.filter (fun f => decide (f.wire.toNat < 32)) l = e
  generalize List.range 8 = r
  refine foldl_memOk (fun s k h => ?_) hm
  exact State.decoded_memOk s _ _ _ h

theorem State.logXfer_memOk (s : State) (d : Nat) (last : Word) (retries swaps fails : Nat) (hm : s.memOk) :
    (State.logXfer s d last retries swaps fails).memOk := by
  unfold State.logXfer
  with_reducible repeat' first
    | assumption | apply State.modDie_memOk | apply State.countDie_memOk

theorem execParityRetry_memOk (b : Burst) (s : State) (hm : s.memOk) :
    outOk (execParityRetry b s) := by
  unfold execParityRetry
  try dsimp only
  with_reducible repeat' first
    | assumption | (refine some_memOk ‹_› ?_) | (refine some2_memOk ‹_› ?_) | apply outOk_next
    | apply State.deliver_memOk | apply State.logXfer_memOk | split

theorem State.failBurst_memOk (s : State) (b : Burst) (hm : s.memOk) : (s.failBurst b).memOk := by
  unfold State.failBurst
  split
  · exact hm
  · exact hm

theorem execLaneSwap_memOk (b : Burst) (s : State) (hm : s.memOk) :
    outOk (execLaneSwap b s) := by
  unfold execLaneSwap
  try dsimp only
  with_reducible repeat' first
    | assumption | intro _ | (refine some_memOk ‹_› ?_) | (refine some2_memOk ‹_› ?_) | apply outOk_next
    | apply State.modDie_memOk | apply State.irq_memOk | apply State.deliver_memOk | apply State.logXfer_memOk
    | apply State.failBurst_memOk | split

theorem execMigration_memOk (die : BitVec 2) (n : Nat) (s : State) (hm : s.memOk) :
    outOk (execMigration die n s) := by
  unfold execMigration
  try dsimp only
  with_reducible repeat' first
    | assumption | intro _ | (refine snd_memOk ‹_› ?_) | (refine some_memOk ‹_› ?_)
    | (refine some2_memOk ‹_› ?_) | apply outOk_next | apply foldl_memOk | apply State.modDie_memOk
    | apply State.take_memOk | split

theorem execMigrationHoldTimeout_memOk (die : BitVec 2) (s : State) (hm : s.memOk) :
    outOk (execMigrationHoldTimeout die s) := by
  unfold execMigrationHoldTimeout
  with_reducible repeat' first
    | assumption | apply outOk_next | apply State.modDie_memOk | split

theorem State.rtctlWrite_memOk (s : State) (d : Nat) (v : Word) (hm : s.memOk) :
    (State.rtctlWrite s d v).memOk := by
  unfold State.rtctlWrite
  with_reducible repeat' first
    | assumption | apply State.modDie_memOk

theorem execRetireRequest_memOk (die : BitVec 2) (v : Word) (s : State) (hm : s.memOk) :
    outOk (execRetireRequest die v s) := by
  unfold execRetireRequest
  with_reducible repeat' first
    | assumption | apply outOk_next | apply State.rtctlWrite_memOk

theorem State.errWrite_memOk (s : State) (d off : Nat) (v : Word) (hm : s.memOk) :
    (State.errWrite s d off v).memOk := by
  unfold State.errWrite
  with_reducible repeat' first
    | assumption | apply State.modDie_memOk | split

theorem execErrorLogClear_memOk (die : BitVec 2) (off : BitVec 16) (v : Word) (s : State) (hm : s.memOk) :
    outOk (execErrorLogClear die off v s) := by
  unfold execErrorLogClear
  with_reducible repeat' first
    | assumption | apply outOk_next | apply State.errWrite_memOk

theorem execLatecntWrite_memOk (_v : Word) (s : State) (hm : s.memOk) :
    outOk (execLatecntWrite _v s) := by
  unfold execLatecntWrite
  with_reducible repeat' first
    | assumption | apply outOk_next | apply State.setHubReg_memOk

theorem execAuthcntWrite_memOk (_v : Word) (s : State) (hm : s.memOk) :
    outOk (execAuthcntWrite _v s) := by
  unfold execAuthcntWrite
  with_reducible repeat' first
    | assumption | apply outOk_next | apply State.setHubReg_memOk

theorem State.modCaddy_memOk (s : State) (f : Caddy → Caddy) (hm : s.memOk) :
    (State.modCaddy s f).memOk := by
  unfold State.modCaddy
  with_reducible repeat' first
    | assumption | split | refine memOk_mk (memOk_of ?_)

theorem State.erasePrivate_memOk (s : State) (world slot : Nat) (hm : s.memOk) :
    (State.erasePrivate s world slot).memOk := by
  unfold State.erasePrivate
  with_reducible repeat' first
    | assumption | split | refine memOk_mk (memOk_of ?_)

theorem State.wldcfgWrite_memOk (s : State) (slot : BitVec 4) (world : BitVec 2) (v : Word) (hm : s.memOk) :
    (State.wldcfgWrite s slot world v).memOk := by
  unfold State.wldcfgWrite
  with_reducible repeat' first
    | assumption | apply State.erasePrivate_memOk | split | refine memOk_mk (memOk_of ?_)

theorem execWldcfgWrite_memOk (slot : BitVec 4) (world : BitVec 2) (v : Word) (s : State) (hm : s.memOk) :
    outOk (execWldcfgWrite slot world v s) := by
  unfold execWldcfgWrite
  with_reducible repeat' first
    | assumption | apply outOk_next | apply State.wldcfgWrite_memOk

theorem State.mboxDone_memOk (s : State) (w : Nat) (v : Word) (res : Nat) (hm : s.memOk) :
    (State.mboxDone s w v res).memOk := by
  unfold State.mboxDone
  with_reducible repeat' first
    | assumption | apply State.modCaddy_memOk

theorem State.setKey_memOk (s : State) (place k : Nat) (hm : s.memOk) :
    (State.setKey s place k).memOk := by
  unfold State.setKey
  with_reducible repeat' first
    | assumption | split | refine memOk_mk (memOk_of ?_)

theorem State.drawKey_memOk (s : State) (place : Nat) (hm : s.memOk) :
    (State.drawKey s place).memOk := by
  unfold State.drawKey
  with_reducible repeat' first
    | assumption | apply State.setKey_memOk | split | refine memOk_mk (memOk_of ?_)

theorem State.drawBoot_memOk (s : State) (hm : s.memOk) :
    (State.drawBoot s).memOk := by
  unfold State.drawBoot
  try dsimp only
  with_reducible repeat' first
    | assumption | intro _ | (refine snd_memOk ‹_› ?_) | (refine fst_memOk ‹_› ?_) | apply State.modCaddy_memOk
    | refine memOk_mk (memOk_of ?_)

theorem State.kgenCmd_memOk (s : State) (w : Nat) (m : MboxCmd) (hm : s.memOk) :
    (State.kgenCmd s w m).2.memOk := by
  unfold State.kgenCmd
  with_reducible repeat' first
    | assumption | apply State.drawKey_memOk | split

theorem State.installKey_memOk (s : State) (w : Nat) (m : MboxCmd) (id : Nat) (hm : s.memOk) :
    (State.installKey s w m id).memOk := by
  unfold State.installKey
  with_reducible repeat' first
    | assumption | intro _ | (refine snd_memOk ‹_› ?_) | (refine fst_memOk ‹_› ?_) | (refine some_memOk ‹_› ?_)
    | (refine some2_memOk ‹_› ?_) | apply State.setHubReg_memOk | apply State.modCaddy_memOk
    | apply State.setKey_memOk | split

theorem State.kimpCmd_memOk (s : State) (w : Nat) (m : MboxCmd) (hm : s.memOk) :
    (State.kimpCmd s w m).2.memOk := by
  unfold State.kimpCmd
  try dsimp only
  with_reducible repeat' first
    | assumption | (refine snd_memOk ‹_› ?_) | (refine fst_memOk ‹_› ?_) | (refine some_memOk ‹_› ?_)
    | (refine some2_memOk ‹_› ?_) | apply State.installKey_memOk | split

theorem State.kdropCmd_memOk (s : State) (w : Nat) (m : MboxCmd) (hm : s.memOk) :
    (State.kdropCmd s w m).2.memOk := by
  unfold State.kdropCmd
  with_reducible repeat' first
    | assumption | apply State.modCaddy_memOk | apply State.setKey_memOk | split

theorem State.certwCmd_memOk (s : State) (w : Nat) (m : MboxCmd) (hm : s.memOk) :
    (State.certwCmd s w m).2.memOk := by
  unfold State.certwCmd
  try dsimp only
  with_reducible repeat' first
    | assumption | apply State.modCaddy_memOk | split

theorem State.noKeys_memOk (s : State) (hm : s.memOk) :
    (State.noKeys s).memOk := by
  unfold State.noKeys
  try dsimp only
  with_reducible repeat' first
    | assumption | intro _ | (refine snd_memOk ‹_› ?_) | (refine fst_memOk ‹_› ?_) | apply State.modCaddy_memOk
    | refine memOk_mk (memOk_of ?_)

theorem State.sealKeys_memOk (s : State) (hm : s.memOk) :
    (State.sealKeys s).memOk := by
  unfold State.sealKeys
  try dsimp only
  with_reducible repeat' first
    | assumption | intro _ | (refine some_memOk ‹_› ?_) | (refine some2_memOk ‹_› ?_)
    | apply State.modCaddy_memOk | apply State.noKeys_memOk | split

theorem State.sleepCmd_memOk (s : State) (w : Nat) (hm : s.memOk) :
    (State.sleepCmd s w).2.memOk := by
  unfold State.sleepCmd
  with_reducible repeat' first
    | assumption | (refine snd_memOk ‹_› ?_) | (refine fst_memOk ‹_› ?_) | apply State.sealKeys_memOk | split
    | refine memOk_mk (memOk_of ?_)

theorem State.mboxCmd_memOk (s : State) (mbox world : BitVec 2) (v : Word) (hm : s.memOk) :
    (State.mboxCmd s mbox world v).memOk := by
  unfold State.mboxCmd
  try dsimp only
  with_reducible repeat' first
    | assumption | intro _ | (refine snd_memOk ‹_› ?_) | (refine fst_memOk ‹_› ?_) | apply State.go_memOk
    | apply State.mboxDone_memOk | apply State.kgenCmd_memOk | apply State.kimpCmd_memOk
    | apply State.kdropCmd_memOk | apply State.certwCmd_memOk | apply State.sleepCmd_memOk | split
    | refine memOk_mk (memOk_of ?_)

theorem execKgen_memOk (mbox world : BitVec 2) (v : Word) (s : State) (hm : s.memOk) :
    outOk (execKgen mbox world v s) := by
  unfold execKgen
  with_reducible repeat' first
    | assumption | apply outOk_next | apply State.mboxCmd_memOk | split

theorem execKimp_memOk (mbox world : BitVec 2) (v : Word) (s : State) (hm : s.memOk) :
    outOk (execKimp mbox world v s) := by
  unfold execKimp
  with_reducible repeat' first
    | assumption | apply outOk_next | apply State.mboxCmd_memOk | split

theorem execKdrop_memOk (mbox world : BitVec 2) (v : Word) (s : State) (hm : s.memOk) :
    outOk (execKdrop mbox world v s) := by
  unfold execKdrop
  with_reducible repeat' first
    | assumption | apply outOk_next | apply State.mboxCmd_memOk | split

theorem execCertw_memOk (mbox world : BitVec 2) (v : Word) (s : State) (hm : s.memOk) :
    outOk (execCertw mbox world v s) := by
  unfold execCertw
  with_reducible repeat' first
    | assumption | apply outOk_next | apply State.mboxCmd_memOk | split

theorem execSleepCommand_memOk (mbox world : BitVec 2) (v : Word) (s : State) (hm : s.memOk) :
    outOk (execSleepCommand mbox world v s) := by
  unfold execSleepCommand
  with_reducible repeat' first
    | assumption | apply outOk_next | apply State.mboxCmd_memOk | split

theorem State.killSavedOf_memOk (s : State) (slot : BitVec 4) (hm : s.memOk) :
    (State.killSavedOf s slot).memOk := by
  unfold State.killSavedOf
  with_reducible repeat' first
    | assumption | intro _ | apply foldl_memOk | apply State.killSaved_memOk

theorem State.setLock_memOk (s : State) (t : Nat) (b : Bool) (hm : s.memOk) :
    (State.setLock s t b).memOk := by
  unfold State.setLock
  with_reducible repeat' first
    | assumption | split | refine memOk_mk (memOk_of ?_)

theorem State.killHeldOf_memOk (s : State) (slot : BitVec 4) (hm : s.memOk) :
    (State.killHeldOf s slot).memOk := by
  unfold State.killHeldOf
  try dsimp only
  with_reducible repeat' first
    | assumption | intro _ | (refine snd_memOk ‹_› ?_) | (refine fst_memOk ‹_› ?_) | apply foldl_memOk
    | apply State.killUnit_memOk | split

theorem State.endProtected_memOk (s : State) (t : Nat) (hm : s.memOk) :
    (State.endProtected s t).memOk := by
  unfold State.endProtected
  try dsimp only
  with_reducible repeat' first
    | assumption | (refine snd_memOk ‹_› ?_) | (refine fst_memOk ‹_› ?_) | apply State.genAdvance_memOk
    | apply State.killSavedOf_memOk | apply State.setLock_memOk | apply State.killHeldOf_memOk | split

theorem State.loseKeys_memOk (s : State) (hm : s.memOk) :
    (State.loseKeys s).memOk := by
  unfold State.loseKeys
  with_reducible repeat' first
    | assumption | intro _ | (refine snd_memOk ‹_› ?_) | (refine fst_memOk ‹_› ?_) | apply foldl_memOk
    | apply State.erasePrivate_memOk | apply State.noKeys_memOk | apply State.endProtected_memOk | split

theorem State.wakeKeys_memOk (s : State) (images : List (BitVec 256)) (kept : Bool) (hm : s.memOk) :
    (State.wakeKeys s images kept).memOk := by
  unfold State.wakeKeys
  with_reducible repeat' first
    | assumption | intro _ | apply State.loseKeys_memOk | apply State.modCaddy_memOk | split | refine memOk_mk (memOk_of ?_)

theorem execWake_memOk (images : List (BitVec 256)) (kept : Bool) (s : State) (hm : s.memOk) :
    outOk (execWake images kept s) := by
  unfold execWake
  try dsimp only
  with_reducible repeat' first
    | assumption | (refine snd_memOk ‹_› ?_) | (refine fst_memOk ‹_› ?_) | apply outOk_next
    | apply State.wakeKeys_memOk | split | refine memOk_mk (memOk_of ?_)

theorem State.answerOut_memOk (s : State) (l : List Byte) (hm : s.memOk) :
    (State.answerOut s l).memOk := by
  unfold State.answerOut
  with_reducible repeat' first
    | assumption | split | refine memOk_mk (memOk_of ?_)

theorem State.report_memOk (s : State) (nonce : BitVec 256) (cslot : Nat) (bound : BitVec 32) (hm : s.memOk) :
    (State.report s nonce cslot bound).memOk := by
  unfold State.report
  with_reducible repeat' first
    | assumption | apply State.modCaddy_memOk | apply State.answerOut_memOk | split
    | refine memOk_mk (memOk_of ?_)

theorem State.verifierHead_memOk (s : State) (k : VerifierKind) (hm : s.memOk) (m : VerifierMsg) (v : BitVec 32) (t : State)
    (e : s.verifierHead k = some (m, v, t)) : t.memOk := by
  unfold State.verifierHead at e
  split at e
  · split at e
    · cases e; exact State.modCaddy_memOk _ _ hm
    · cases e
  · cases e

theorem execChal_memOk (s : State) (hm : s.memOk) : outOk (execChal s) := by
  unfold execChal
  split
  · exact outOk_next hm
  · rename_i e; exact outOk_next (State.report_memOk _ _ _ _ (State.verifierHead_memOk _ _ hm _ _ _ e))

theorem execCert_memOk (s : State) (hm : s.memOk) : outOk (execCert s) := by
  unfold execCert
  split
  · exact outOk_next hm
  · rename_i e; exact outOk_next (State.answerOut_memOk _ _ (State.verifierHead_memOk _ _ hm _ _ _ e))

theorem execImportKey_memOk (s : State) (hm : s.memOk) : outOk (execImportKey s) := by
  unfold execImportKey
  split
  · exact outOk_next hm
  · rename_i e
    exact outOk_next (State.report_memOk _ _ _ _ (State.modCaddy_memOk _ _ (State.verifierHead_memOk _ _ hm _ _ _ e)))

theorem State.verifierArrival_memOk (s : State) (k : VerifierKind) (m : VerifierMsg) (hm : s.memOk) :
    (State.verifierArrival s k m).memOk := by
  unfold State.verifierArrival
  with_reducible repeat' first
    | assumption | apply State.modCaddy_memOk | split

end Sys2Proof.Machine
end

