-- ==== Sys2Proof/Laws/KeepDevice.lean ====
section
/-! SUPPORT. Launch, registers, device and release: every operation keeps the memory's canonical form. -/

namespace Sys2Proof.Machine

theorem State.wqcfgWrite_memOk (s : State) (w : Nat) (v : Word) (hm : s.memOk) :
    (State.wqcfgWrite s w v).memOk := by
  unfold State.wqcfgWrite
  with_reducible repeat' first
    | assumption | split | refine memOk_mk (memOk_of ?_)

theorem State.launchPlaces_memOk (s : State) (l : LaunchRest) (places : List Place) (hm : s.memOk) :
    (s.launchPlaces l places).2.memOk := by
  unfold State.launchPlaces
  refine pair_foldl_memOk (fun p x hp => ?_) hm
  split
  · exact hp
  · split
    · exact hp
    · exact State.go_memOk _ _ _ _ (State.homeWrites_memOk _ _ _ _ hp)

theorem State.launchOn_memOk (s : State) (l : LaunchRest) (places : List Place) (hm : s.memOk) :
    (State.launchOn s l places).memOk := by
  unfold State.launchOn
  try dsimp only
  with_reducible repeat' first
    | assumption | (refine snd_memOk ‹_› ?_) | (refine fst_memOk ‹_› ?_) | apply State.launchPlaces_memOk
    | split | refine memOk_mk (memOk_of ?_)

theorem execLaunchPacket_memOk (wq : Nat) (obj : BitVec 12) (places : List Place) (s : State) (hm : s.memOk) :
    outOk (execLaunchPacket wq obj places s) := by
  unfold execLaunchPacket
  try dsimp only
  with_reducible repeat' first
    | assumption | (refine some_memOk ‹_› ?_) | (refine some2_memOk ‹_› ?_) | apply outOk_next
    | apply State.homeWrites_memOk | apply State.setWobj_memOk | apply State.launchOn_memOk | split

theorem execModuleDownNotice_memOk (f : BitVec 12) (s : State) (hm : s.memOk) :
    outOk (execModuleDownNotice f s) := by
  unfold execModuleDownNotice
  with_reducible repeat' first
    | assumption | apply outOk_next | apply State.streamsDown_memOk | apply State.belayDown_memOk | split
    | refine memOk_mk (memOk_of ?_)

theorem State.storeHub_memOk (s : State) (off : Nat) (v res : Word) (hm : s.memOk) :
    (State.storeHub s off v res).memOk := by
  unfold State.storeHub
  with_reducible repeat' first
    | assumption | apply State.setHubReg_memOk | split

theorem State.writeLow_memOk (s : State) (off : Nat) (v : Word) (hm : s.memOk) :
    (State.writeLow s off v).memOk := by
  unfold State.writeLow
  with_reducible repeat' first
    | assumption | apply State.setHubReg_memOk | apply State.revokeFabric_memOk | apply State.storeHub_memOk
    | split

theorem State.writeTenancy_memOk (s : State) (off : Nat) (v : Word) (hm : s.memOk) :
    (State.writeTenancy s off v).memOk := by
  unfold State.writeTenancy
  with_reducible repeat' first
    | assumption | apply State.modTslot_memOk | apply State.genAdvance_memOk | apply State.coreslotChange_memOk
    | apply State.swctl_memOk | split

theorem nextOf_memOk (s : State) (o : Host.Outcome State Fault Refusal) (hm : s.memOk) (h : outOk o) : (nextOf s o).memOk := by
  cases o with
  | next t => exact h t rfl
  | fault _ => exact hm
  | refused _ => exact hm

theorem State.writeCoreReg_memOk (s : State) (off : Nat) (v : Word) (hm : s.memOk) : (s.writeCoreReg off v).memOk := by
  unfold State.writeCoreReg
  split
  · split
    · exact hm
    · exact State.modCore_memOk _ _ _ hm
  · split
    · exact State.tctlCmd_memOk _ _ _ _ hm
    · split
      · apply nextOf_memOk _ _ hm
        split
        · exact execCsave_memOk _ _ _ hm
        · exact execCrest_memOk _ _ _ hm
      · exact hm

theorem State.writeCaddy_memOk (s : State) (off : Nat) (world : BitVec 2) (v : Word) (hm : s.memOk) :
    (State.writeCaddy s off world v).memOk := by
  unfold State.writeCaddy
  with_reducible repeat' first
    | assumption | apply State.setHubReg_memOk | apply State.wldcfgWrite_memOk | apply State.mboxCmd_memOk
    | split

theorem State.writeHub_memOk (s : State) (off : Nat) (world : BitVec 2) (v : Word) (hm : s.memOk) :
    (State.writeHub s off world v).memOk := by
  unfold State.writeHub
  with_reducible repeat' first
    | assumption | apply State.woctl_memOk | apply State.go_memOk | apply State.wqcfgWrite_memOk
    | apply State.storeHub_memOk | apply State.writeLow_memOk | apply State.writeTenancy_memOk
    | apply State.writeCoreReg_memOk | apply State.writeCaddy_memOk | split | refine memOk_mk (memOk_of ?_)

theorem State.writeMs_memOk (s : State) (d off : Nat) (v : Word) (hm : s.memOk) :
    (State.writeMs s d off v).memOk := by
  unfold State.writeMs
  with_reducible repeat' first
    | assumption | apply State.modDie_memOk | apply State.modEq_memOk | apply State.shootdown_memOk
    | apply State.blockReassign_memOk | apply State.rtctlWrite_memOk | apply State.errWrite_memOk | split

theorem State.writeReg_memOk (s : State) (b : RegBlock) (off : Nat) (world : BitVec 2) (v : Word) (hm : s.memOk) :
    (State.writeReg s b off world v).memOk := by
  unfold State.writeReg
  with_reducible repeat' first
    | assumption | apply State.writeHub_memOk | apply State.writeMs_memOk | split

theorem execRegisterWrite_memOk (blk : RegBlock) (off : BitVec 25) (v : Word) (s : State) (hm : s.memOk) :
    outOk (execRegisterWrite blk off v s) := by
  unfold execRegisterWrite
  with_reducible repeat' first
    | assumption | apply outOk_next | apply State.writeReg_memOk | split

theorem State.busPart_memOk (s : State) (world : BitVec 2) (pa : Nat) (part : List Byte) (hm : s.memOk) :
    (State.busPart s world pa part).memOk := by
  unfold State.busPart
  with_reducible repeat' first
    | assumption | apply State.homeWrites_memOk | apply State.writeReg_memOk | split

theorem State.busWrite_memOk (s : State) (world : BitVec 2) (n pa : Nat) (l : List Byte) (hm : s.memOk) :
    (s.busWrite world n pa l).memOk := by
  induction n generalizing s pa l with
  | zero => exact hm
  | succ n ih =>
    cases l with
    | nil => exact hm
    | cons b r => exact ih _ _ _ (State.busPart_memOk _ _ _ _ hm)

theorem State.busAccess_memOk (s : State) (a : BusAccess) (world : BitVec 2) (hm : s.memOk) :
    (State.busAccess s a world).memOk := by
  unfold State.busAccess
  with_reducible repeat' first
    | assumption | apply State.answerOut_memOk | apply State.busWrite_memOk | split

theorem execHostAccess_memOk (a : BusAccess) (s : State) (hm : s.memOk) :
    outOk (execHostAccess a s) := by
  unfold execHostAccess
  with_reducible repeat' first
    | assumption | apply outOk_next | apply State.busAccess_memOk

theorem execGeneralPurposeCoreAccess_memOk (a : BusAccess) (s : State) (hm : s.memOk) :
    outOk (execGeneralPurposeCoreAccess a s) := by
  unfold execGeneralPurposeCoreAccess
  with_reducible repeat' first
    | assumption | apply outOk_next | apply State.countAuth_memOk | apply State.busAccess_memOk | split

theorem State.putPsctl_memOk (s : State) (busy : Bool) (src level target : Nat) (hm : s.memOk) :
    (State.putPsctl s busy src level target).memOk := by
  unfold State.putPsctl
  with_reducible repeat' first
    | assumption | (refine snd_memOk ‹_› ?_) | (refine fst_memOk ‹_› ?_) | apply State.setHubReg_memOk

theorem State.setPsctl_memOk (s : State) (src level target : Nat) (hm : s.memOk) :
    (State.setPsctl s src level target).memOk := by
  unfold State.setPsctl
  with_reducible repeat' first
    | assumption | (refine snd_memOk ‹_› ?_) | (refine fst_memOk ‹_› ?_) | apply State.putPsctl_memOk

theorem execPowerStepPins_memOk (level : BitVec 4) (s : State) (hm : s.memOk) :
    outOk (execPowerStepPins level s) := by
  unfold execPowerStepPins
  with_reducible repeat' first
    | assumption | apply outOk_next | apply State.setPsctl_memOk | split | refine memOk_mk (memOk_of ?_)

theorem State.datagram_memOk (s : State) (d : PowerDatagram) (hm : s.memOk) :
    (State.datagram s d).memOk := by
  unfold State.datagram
  with_reducible repeat' first
    | assumption | apply State.setHubReg_memOk | apply State.setPsctl_memOk | split

theorem execPowerStepDatagram_memOk (d : PowerDatagram) (s : State) (hm : s.memOk) :
    outOk (execPowerStepDatagram d s) := by
  unfold execPowerStepDatagram
  with_reducible repeat' first
    | assumption | apply outOk_next | apply State.datagram_memOk

theorem execManagementFrame_memOk (f : Frame) (s : State) (hm : s.memOk) :
    outOk (execManagementFrame f s) := by
  unfold execManagementFrame
  with_reducible repeat' first
    | assumption | apply outOk_next | apply State.verifierArrival_memOk | apply State.datagram_memOk | split
    | refine memOk_mk (memOk_of ?_)

theorem State.park_memOk (s : State) (core : Nat) (hm : s.memOk) :
    (State.park s core).memOk := by
  unfold State.park
  with_reducible repeat' first
    | assumption | intro _ | apply foldl_memOk | apply State.modCtx_memOk | apply State.modCore_memOk
    | apply State.setRow_memOk

theorem State.parkAll_memOk (s : State) (on : Bool) (hm : s.memOk) :
    (State.parkAll s on).memOk := by
  unfold State.parkAll
  with_reducible repeat' first
    | assumption | intro _ | apply foldl_memOk | apply State.modCore_memOk | apply State.park_memOk | split

theorem execCeilingApply_memOk (s : State) (hm : s.memOk) :
    outOk (execCeilingApply s) := by
  unfold execCeilingApply
  try dsimp only
  with_reducible repeat' first
    | assumption | apply outOk_next | apply State.setPsctl_memOk | apply State.parkAll_memOk | split
    | refine memOk_mk (memOk_of ?_)

theorem State.flushAll_memOk (s : State) (hm : s.memOk) :
    (State.flushAll s).memOk := by
  unfold State.flushAll
  with_reducible repeat' first
    | assumption | apply State.flushLines_memOk | split | refine memOk_mk (memOk_of ?_)

theorem State.drainDone_memOk (s : State) (p : Power) (hm : s.memOk) :
    (State.drainDone s p).memOk := by
  unfold State.drainDone
  with_reducible repeat' first
    | assumption | apply State.sealKeys_memOk | apply State.flushAll_memOk | split
    | refine memOk_mk (memOk_of ?_)

theorem State.failStart_memOk (s : State) (hm : s.memOk) :
    (State.failStart s).memOk := by
  unfold State.failStart
  try dsimp only
  with_reducible repeat' first
    | assumption | intro _ | (refine snd_memOk ‹_› ?_) | (refine fst_memOk ‹_› ?_) | apply foldl_memOk
    | apply State.setHubReg_memOk | apply State.failBlocked_memOk | apply State.putPsctl_memOk
    | refine memOk_mk (memOk_of ?_)

theorem State.failSwitch_memOk (s : State) (core : Nat) (hm : s.memOk) :
    (State.failSwitch s core).memOk := by
  unfold State.failSwitch
  try dsimp only
  with_reducible repeat' first
    | assumption | intro _ | (refine snd_memOk ‹_› ?_) | (refine fst_memOk ‹_› ?_) | (refine some_memOk ‹_› ?_)
    | (refine some2_memOk ‹_› ?_) | apply State.modCtx_memOk | apply State.switchFrom_memOk | split

theorem execSelfRefreshExpiry_memOk (s : State) (hm : s.memOk) :
    outOk (execSelfRefreshExpiry s) := by
  unfold execSelfRefreshExpiry
  with_reducible repeat' first
    | assumption | apply outOk_next | split | refine memOk_mk (memOk_of ?_)

theorem State.setBootstat_memOk (s : State) (phase err : Nat) (hm : s.memOk) :
    (State.setBootstat s phase err).memOk := by
  unfold State.setBootstat
  with_reducible repeat' first
    | assumption | apply State.setHubReg_memOk

theorem State.applyBlob_memOk (s : State) (b : BootBlob) (hm : s.memOk) :
    (State.applyBlob s b).memOk := by
  unfold State.applyBlob
  with_reducible repeat' first
    | assumption | intro _ | apply foldl_memOk | apply State.modDie_memOk | apply State.setHubReg_memOk | split
    | refine memOk_mk (memOk_of ?_)

theorem State.persistent_memOk (s : State) (valid : Bool) : (s.persistent valid).memOk := by
  cases valid <;> exact (rfl : Memory.wf State.reset.mem = true)

theorem State.bootStop_memOk (s : State) (b : BootBlob) (i : Nat) (hm : s.memOk) :
    (State.bootStop s b i).memOk := by
  unfold State.bootStop
  with_reducible repeat' first
    | assumption | intro _ | (refine snd_memOk ‹_› ?_) | (refine fst_memOk ‹_› ?_) | apply State.modCaddy_memOk
    | apply State.setBootstat_memOk

theorem State.coldStart_memOk (s : State) (b : BootBlob) (valid : Bool) (hm : s.memOk) :
    (State.coldStart s b valid).memOk := by
  unfold State.coldStart
  try dsimp only
  with_reducible repeat' first
    | assumption | intro _ | (refine snd_memOk ‹_› ?_) | (refine fst_memOk ‹_› ?_) | (refine some_memOk ‹_› ?_)
    | (refine some2_memOk ‹_› ?_) | apply State.setHubReg_memOk | apply State.modCaddy_memOk
    | apply State.drawBoot_memOk | apply State.parkAll_memOk | apply State.setBootstat_memOk
    | apply State.applyBlob_memOk | apply State.persistent_memOk | apply State.bootStop_memOk | split
    | refine memOk_mk (memOk_of ?_)

theorem State.reloadSlots_memOk (s : State) (core : Nat) (hm : s.memOk) :
    (State.reloadSlots s core).memOk := by
  unfold State.reloadSlots
  with_reducible repeat' first
    | assumption | intro _ | apply foldl_memOk | apply State.setBslot_memOk | split
    | refine memOk_mk (memOk_of ?_)

theorem State.exactResume_memOk (s : State) (hm : s.memOk) :
    (State.exactResume s).memOk := by
  unfold State.exactResume
  with_reducible repeat' first
    | assumption | intro _ | apply foldl_memOk | apply State.setHubReg_memOk | apply State.makeReady_memOk
    | apply State.loadDict_memOk | apply State.setBootstat_memOk | apply State.reloadSlots_memOk | split
    | refine memOk_mk (memOk_of ?_)

theorem State.bootResume_memOk (s : State) (b : BootBlob) (hm : s.memOk) :
    (State.bootResume s b).memOk := by
  unfold State.bootResume
  try dsimp only
  with_reducible repeat' first
    | assumption | intro _ | (refine some_memOk ‹_› ?_) | (refine some2_memOk ‹_› ?_)
    | apply State.modCaddy_memOk | apply State.setBootstat_memOk | apply State.bootStop_memOk
    | apply State.coldStart_memOk | split | refine memOk_mk (memOk_of ?_)

theorem execPowerFail_memOk (s : State) (hm : s.memOk) : outOk (execPowerFail s) := by
  unfold execPowerFail
  apply outOk_next
  split
  · exact State.failStart_memOk _ hm
  · exact State.failStart_memOk _ hm
  · split
    · split
      · exact State.drainDone_memOk _ _ hm
      · exact State.bootResume_memOk _ _ (State.drainDone_memOk _ _ hm)
    · exact foldl_memOk (fun s x h => State.failSwitch_memOk s x h) hm
  · exact hm
  · exact hm
  · exact hm

theorem execPowerReturn_memOk (b : BootBlob) (s : State) (hm : s.memOk) :
    outOk (execPowerReturn b s) := by
  unfold execPowerReturn
  with_reducible repeat' first
    | assumption | (refine snd_memOk ‹_› ?_) | (refine fst_memOk ‹_› ?_) | (refine some_memOk ‹_› ?_)
    | (refine some2_memOk ‹_› ?_) | apply outOk_next | apply State.wakeKeys_memOk | apply State.coldStart_memOk
    | apply State.exactResume_memOk | apply State.bootResume_memOk | split | refine memOk_mk (memOk_of ?_)

theorem execResetBoot_memOk (b : BootBlob) (s : State) (hm : s.memOk) :
    outOk (execResetBoot b s) := by
  unfold execResetBoot
  with_reducible repeat' first
    | assumption | (refine snd_memOk ‹_› ?_) | (refine fst_memOk ‹_› ?_) | apply outOk_next
    | apply State.coldStart_memOk | apply State.bootResume_memOk | split

theorem State.relStep_memOk (s : State) (ci : Nat) (x : RelItem) (sc : Scope) (hm : s.memOk) :
    (State.relStep s ci x sc).1.memOk := by
  unfold State.relStep
  try dsimp only
  with_reducible repeat' first
    | assumption | intro _ | apply State.modCtx_memOk | apply State.modCore_memOk
    | apply State.settleMloads_memOk | apply State.wbRdc_memOk | split

theorem State.step1Item_memOk (s : State) (ci : Nat) (x : RelItem) (hm : s.memOk) :
    (State.step1Item s ci x).1.memOk := by
  unfold State.step1Item
  try dsimp only
  with_reducible repeat' first
    | assumption | (refine snd_memOk ‹_› ?_) | (refine fst_memOk ‹_› ?_) | (refine some_memOk ‹_› ?_)
    | (refine some2_memOk ‹_› ?_) | apply State.wbL1Line_memOk | apply State.dropL1Line_memOk
    | apply State.setLine_memOk | apply State.answer_memOk | apply State.settleLoads_memOk
    | apply State.settleReads_memOk | apply State.performStore_memOk | apply State.settleStore_memOk
    | apply State.settleRest_memOk | apply State.atomicDo_memOk | apply State.request_memOk
    | apply State.closeStep_memOk | apply State.relStep_memOk | split

theorem State.mactAdd_memOk (s : State) (core : Nat) (x : RelItem) (b : MActBody) (hm : s.memOk) :
    (State.mactAdd s core x b).memOk := by
  unfold State.mactAdd
  with_reducible repeat' first
    | assumption | apply State.modCore_memOk | apply State.settleMx_memOk

theorem State.unlessStale_memOk (s : State) (x : RelItem) (t : State) (hm : s.memOk) (hm1 : t.memOk) :
    (State.unlessStale s x t).memOk := by
  unfold State.unlessStale
  with_reducible repeat' first
    | assumption | split

theorem State.step2Item_memOk (s : State) (ci : Nat) (x : RelItem) (hm : s.memOk) :
    (State.step2Item s ci x).1.memOk := by
  unfold State.step2Item
  try dsimp only
  with_reducible repeat' first
    | assumption | (refine some_memOk ‹_› ?_) | (refine some2_memOk ‹_› ?_) | apply State.mxRelease_memOk
    | apply State.tsLoadDo_memOk | apply State.tsRunDo_memOk | apply State.claimCmd_memOk
    | apply State.sopenRel_memOk | apply State.scloseRel_memOk | apply State.ssendRel_memOk
    | apply State.sxferRel_memOk | apply State.srecvRel_memOk | apply State.jemitRel_memOk
    | apply State.bjRel_memOk | apply State.forkRel_memOk | apply State.jaddRel_memOk
    | apply State.wdoneRel_memOk | apply State.wcanRel_memOk | apply State.joinRel_memOk
    | apply State.mactAdd_memOk | apply State.unlessStale_memOk | split

theorem State.sigDo_memOk (s : State) (core : Nat) (g : Sig) (hm : s.memOk) :
    (State.sigDo s core g).memOk := by
  unfold State.sigDo
  with_reducible repeat' first
    | assumption | apply State.setSem_memOk | apply State.addSem_memOk | split

theorem State.runPath_memOk (s : State) (ci n : Nat) (hm : s.memOk) : (s.runPath ci n).1.memOk := by
  induction n generalizing s with
  | zero => exact hm
  | succ n ih =>
    unfold State.runPath
    dsimp only
    with_reducible repeat' first
      | assumption
      | apply ih
      | apply State.modCtx_memOk
      | apply State.step1Item_memOk
      | apply State.step2Item_memOk
      | split

theorem State.yieldNow_memOk (s : State) (ci : Nat) (hm : s.memOk) :
    (State.yieldNow s ci).memOk := by
  unfold State.yieldNow
  try dsimp only
  with_reducible repeat' first
    | assumption | intro _ | apply State.modCtx_memOk | apply State.modCore_memOk | apply State.switchFrom_memOk
    | split

theorem State.actAfter_memOk (s : State) (ci : Nat) (hm : s.memOk) :
    (State.actAfter s ci).memOk := by
  unfold State.actAfter
  try dsimp only
  with_reducible repeat' first
    | assumption | intro _ | apply State.modCtx_memOk | apply State.leaveCore_memOk
    | apply State.deliverTrap_memOk | apply State.endUnit_memOk | apply State.yieldNow_memOk | split

theorem State.asyncAfter_memOk (s : State) (ci : Nat) (hm : s.memOk) :
    (State.asyncAfter s ci).memOk := by
  unfold State.asyncAfter
  with_reducible repeat' first
    | assumption | apply State.modCtx_memOk | apply State.deliverAsync_memOk | split
    | refine memOk_mk (memOk_of ?_)

theorem State.cancelAfter_memOk (s : State) (ci : Nat) (hm : s.memOk) :
    (State.cancelAfter s ci).memOk := by
  unfold State.cancelAfter
  try dsimp only
  with_reducible repeat' first
    | assumption | apply State.killCancelled_memOk | split

theorem State.afterRelease_memOk (s : State) (ci : Nat) (hm : s.memOk) :
    (State.afterRelease s ci).memOk := by
  unfold State.afterRelease
  with_reducible repeat' first
    | assumption | apply State.actAfter_memOk | apply State.asyncAfter_memOk | apply State.cancelAfter_memOk
    | split

theorem State.releasePitch_memOk (s : State) (ci : Nat) (hm : s.memOk) : (s.releasePitch ci).memOk := by
  unfold State.releasePitch
  split
  · exact hm
  · have h := fun n => State.runPath_memOk s ci n hm
    dsimp only
    split
    · exact h _
    · apply State.afterRelease_memOk
      apply State.modCtx_memOk
      apply foldl_memOk
      · intro x g hx; exact State.sigDo_memOk _ _ _ hx
      · exact h _

theorem execPitchRelease_memOk (core ctx : Nat) (s : State) (hm : s.memOk) :
    outOk (execPitchRelease core ctx s) := by
  unfold execPitchRelease
  with_reducible repeat' first
    | assumption | apply outOk_next | apply State.releasePitch_memOk

theorem execDirtyFifoDrain_memOk (core : Nat) (s : State) (hm : s.memOk) :
    outOk (execDirtyFifoDrain core s) := by
  unfold execDirtyFifoDrain
  with_reducible repeat' first
    | assumption | apply outOk_next | apply State.modCore_memOk | apply State.wbL1Line_memOk | split

end Sys2Proof.Machine
end

