-- ==== Sys2Proof/Laws/KeepBundle.lean ====
section
/-! SUPPORT. The examination and issue of a bundle, and the schedule of a step: every operation keeps the memory's canonical form. -/

namespace Sys2Proof.Machine

theorem opOf_memOk (i : Instr) (s : State) (hm : s.memOk) : resOk (opOf i s) := by
  cases i with
  | nop => exact resOk_ok hm
  | move m => exact opMove_memOk _ s hm
  | moveSplat m => exact opMoveSplat_memOk _ s hm
  | moveHi m => exact opMoveHi_memOk _ s hm
  | add u f => exact opAdd_memOk _ _ s hm
  | sub u f => exact opSub_memOk _ _ s hm
  | and u f => exact opAnd_memOk _ _ s hm
  | or u f => exact opOr_memOk _ _ s hm
  | xor u f => exact opXor_memOk _ _ s hm
  | andn u f => exact opAndn_memOk _ _ s hm
  | orn u f => exact opOrn_memOk _ _ s hm
  | shl u f => exact opShl_memOk _ _ s hm
  | shr u f => exact opShr_memOk _ _ s hm
  | sra u f => exact opSra_memOk _ _ s hm
  | ror u f => exact opRor_memOk _ _ s hm
  | min u f => exact opMin_memOk _ _ s hm
  | max u f => exact opMax_memOk _ _ s hm
  | minn u f => exact opMinn_memOk _ _ s hm
  | maxn u f => exact opMaxn_memOk _ _ s hm
  | sel u f => exact opSel_memOk _ _ s hm
  | sext8 u f => exact opSext8_memOk _ _ s hm
  | sext16 u f => exact opSext16_memOk _ _ s hm
  | sext32 u f => exact opSext32_memOk _ _ s hm
  | zext8 u f => exact opZext8_memOk _ _ s hm
  | zext16 u f => exact opZext16_memOk _ _ s hm
  | zext32 u f => exact opZext32_memOk _ _ s hm
  | clz u f => exact opClz_memOk _ _ s hm
  | ctz u f => exact opCtz_memOk _ _ s hm
  | popc u f => exact opPopc_memOk _ _ s hm
  | bfx u f => exact opBfx_memOk _ _ s hm
  | bfi u f => exact opBfi_memOk _ _ s hm
  | addsh u f => exact opAddsh_memOk _ _ s hm
  | ceq u k f => exact opCeq_memOk _ _ _ s hm
  | cne u k f => exact opCne_memOk _ _ _ s hm
  | clt u k f => exact opClt_memOk _ _ _ s hm
  | cle u k f => exact opCle_memOk _ _ _ s hm
  | cltn u k f => exact opCltn_memOk _ _ _ s hm
  | clen u k f => exact opClen_memOk _ _ _ s hm
  | mul f => exact opMul_memOk _ s hm
  | mulh f => exact opMulh_memOk _ s hm
  | mulhn f => exact opMulhn_memOk _ s hm
  | div f => exact opDiv_memOk _ s hm
  | divn f => exact opDivn_memOk _ s hm
  | rem f => exact opRem_memOk _ s hm
  | remn f => exact opRemn_memOk _ s hm
  | pand d f => exact opPand_memOk _ _ s hm
  | por d f => exact opPor_memOk _ _ s hm
  | pxor d f => exact opPxor_memOk _ _ s hm
  | pnot d f => exact opPnot_memOk _ _ s hm
  | pset d f => exact opPset_memOk _ _ s hm
  | vany d f => exact opVany_memOk _ _ s hm
  | vall d f => exact opVall_memOk _ _ s hm
  | br f => exact opBr_memOk _ s hm
  | call f => exact opCall_memOk _ s hm
  | ret f => exact opRet_memOk _ s hm
  | bix f => exact opBix_memOk _ s hm
  | lset n f => exact opLset_memOk _ _ s hm
  | lrot f => exact opLrot_memOk _ s hm
  | lbrk n f => exact opLbrk_memOk _ _ s hm
  | trap f => exact opTrap_memOk _ s hm
  | tret f => exact opTret_memOk _ s hm
  | exit f => exact opExit_memOk _ s hm
  | yield f => exact opYield_memOk _ s hm
  | sleep f => exact opSleep_memOk _ s hm
  | brk f => exact opBrk_memOk _ s hm
  | sset f => exact opSset_memOk _ s hm
  | sadd f => exact opSadd_memOk _ s hm
  | stake f => exact opStake_memOk _ s hm
  | swait f => exact opSwait_memOk _ s hm
  | fork f => exact opFork_memOk _ s hm
  | join f => exact opJoin_memOk _ s hm
  | jadd f => exact opJadd_memOk _ s hm
  | wcan f => exact opWcan_memOk _ s hm
  | wdone f => exact opWdone_memOk _ s hm
  | gpush f => exact opGpush_memOk _ s hm
  | gpop f => exact opGpop_memOk _ s hm
  | ldb nw f => exact opLdb_memOk _ _ s hm
  | ldh nw f => exact opLdh_memOk _ _ s hm
  | ldw nw f => exact opLdw_memOk _ _ s hm
  | ldd nw f => exact opLdd_memOk _ _ s hm
  | ldbn nw f => exact opLdbn_memOk _ _ s hm
  | ldhn nw f => exact opLdhn_memOk _ _ s hm
  | ldwn nw f => exact opLdwn_memOk _ _ s hm
  | stb f => exact opStb_memOk _ s hm
  | sth f => exact opSth_memOk _ s hm
  | stw f => exact opStw_memOk _ s hm
  | std f => exact opStd_memOk _ s hm
  | vld fmt nw f => exact opVld_memOk _ _ _ s hm
  | vst fmt f => exact opVst_memOk _ _ s hm
  | vlds nw f => exact opVlds_memOk _ _ s hm
  | vsts f => exact opVsts_memOk _ s hm
  | vldx nw f => exact opVldx_memOk _ _ s hm
  | vstx f => exact opVstx_memOk _ s hm
  | fewait f => exact opFewait_memOk _ s hm
  | feclr f => exact opFeclr_memOk _ s hm
  | feset f => exact opFeset_memOk _ s hm
  | fetst f => exact opFetst_memOk _ s hm
  | rel sc f => exact opRel_memOk _ _ s hm
  | acq sc f => exact opAcq_memOk _ _ s hm
  | cwb f => exact opCwb_memOk _ s hm
  | cinv f => exact opCinv_memOk _ s hm
  | xlat f => exact opXlat_memOk _ s hm
  | hdrop f => exact opHdrop_memOk _ s hm
  | hchk f => exact opHchk_memOk _ s hm
  | aadd sc f => exact opAadd_memOk _ _ s hm
  | aand sc f => exact opAand_memOk _ _ s hm
  | aor sc f => exact opAor_memOk _ _ s hm
  | axor sc f => exact opAxor_memOk _ _ s hm
  | axchg sc f => exact opAxchg_memOk _ _ s hm
  | acas sc f => exact opAcas_memOk _ _ s hm
  | amax sc f => exact opAmax_memOk _ _ s hm
  | cpy q f => exact opCpy_memOk _ _ s hm
  | csr q f => exact opCsr_memOk _ _ s hm
  | pfr q f => exact opPfr_memOk _ _ s hm
  | zfill q f => exact opZfill_memOk _ _ s hm
  | qfence q f => exact opQfence_memOk _ _ s hm
  | coll q f => exact opColl_memOk _ _ s hm
  | evict q f => exact opEvict_memOk _ _ s hm
  | cstat q f => exact opCstat_memOk _ _ s hm
  | rld f => exact opRld_memOk _ s hm
  | rldv f => exact opRldv_memOk _ s hm
  | rst b f => exact opRst_memOk _ _ s hm
  | rstv b f => exact opRstv_memOk _ _ s hm
  | rop f => exact opRop_memOk _ s hm
  | bclose b f => exact opBclose_memOk _ _ s hm
  | rdrain f => exact opRdrain_memOk _ s hm
  | sopen f => exact opSopen_memOk _ s hm
  | sclose f => exact opSclose_memOk _ s hm
  | ssend f => exact opSsend_memOk _ s hm
  | srecv f => exact opSrecv_memOk _ s hm
  | spoll f => exact opSpoll_memOk _ s hm
  | sxfer f => exact opSxfer_memOk _ s hm
  | sstat f => exact opSstat_memOk _ s hm
  | jopen f => exact opJopen_memOk _ s hm
  | jrec f => exact opJrec_memOk _ s hm
  | jemit f => exact opJemit_memOk _ s hm
  | jtrunc f => exact opJtrunc_memOk _ s hm
  | jpart f => exact opJpart_memOk _ s hm
  | jrep f => exact opJrep_memOk _ s hm
  | jstat f => exact opJstat_memOk _ s hm
  | vadd u f => exact opVadd_memOk _ _ s hm
  | vsub u f => exact opVsub_memOk _ _ s hm
  | vmul u f => exact opVmul_memOk _ _ s hm
  | vmulh u f => exact opVmulh_memOk _ _ s hm
  | vmin u f => exact opVmin_memOk _ _ s hm
  | vmax u f => exact opVmax_memOk _ _ s hm
  | vminn u f => exact opVminn_memOk _ _ s hm
  | vmaxn u f => exact opVmaxn_memOk _ _ s hm
  | vand u f => exact opVand_memOk _ _ s hm
  | vor u f => exact opVor_memOk _ _ s hm
  | vxor u f => exact opVxor_memOk _ _ s hm
  | vandn u f => exact opVandn_memOk _ _ s hm
  | vshl u f => exact opVshl_memOk _ _ s hm
  | vshr u f => exact opVshr_memOk _ _ s hm
  | vsra u f => exact opVsra_memOk _ _ s hm
  | vabs u f => exact opVabs_memOk _ _ s hm
  | vadds u f => exact opVadds_memOk _ _ s hm
  | vsubs u f => exact opVsubs_memOk _ _ s hm
  | vfadd u f => exact opVfadd_memOk _ _ s hm
  | vfsub u f => exact opVfsub_memOk _ _ s hm
  | vfmul u f => exact opVfmul_memOk _ _ s hm
  | vfma u f => exact opVfma_memOk _ _ s hm
  | vfnma u f => exact opVfnma_memOk _ _ s hm
  | vfmin u f => exact opVfmin_memOk _ _ s hm
  | vfmax u f => exact opVfmax_memOk _ _ s hm
  | vrcp u f => exact opVrcp_memOk _ _ s hm
  | vrsq u f => exact opVrsq_memOk _ _ s hm
  | vexp2 u f => exact opVexp2_memOk _ _ s hm
  | vlog2 u f => exact opVlog2_memOk _ _ s hm
  | vtanh u f => exact opVtanh_memOk _ _ s hm
  | vscale u f => exact opVscale_memOk _ _ s hm
  | vtag u f => exact opVtag_memOk _ _ s hm
  | vcvt u fmt f => exact opVcvt_memOk _ _ _ s hm
  | vsplat u f => exact opVsplat_memOk _ _ s hm
  | vins u f => exact opVins_memOk _ _ s hm
  | vext u f => exact opVext_memOk _ _ s hm
  | vperm u f => exact opVperm_memOk _ _ s hm
  | vrot u f => exact opVrot_memOk _ _ s hm
  | vsel u f => exact opVsel_memOk _ _ s hm
  | vcomp u f => exact opVcomp_memOk _ _ s hm
  | vsum u f => exact opVsum_memOk _ _ s hm
  | vmaxr u f => exact opVmaxr_memOk _ _ s hm
  | vargmax u f => exact opVargmax_memOk _ _ s hm
  | vrng u f => exact opVrng_memOk _ _ s hm
  | vsample u f => exact opVsample_memOk _ _ s hm
  | vpand u f => exact opVpand_memOk _ _ s hm
  | vpor u f => exact opVpor_memOk _ _ s hm
  | vpxor u f => exact opVpxor_memOk _ _ s hm
  | vpnot u f => exact opVpnot_memOk _ _ s hm
  | vpset u f => exact opVpset_memOk _ _ s hm
  | vpcnt u f => exact opVpcnt_memOk _ _ s hm
  | vceq u k f => exact opVceq_memOk _ _ _ s hm
  | vcne u k f => exact opVcne_memOk _ _ _ s hm
  | vclt u k f => exact opVclt_memOk _ _ _ s hm
  | vcle u k f => exact opVcle_memOk _ _ _ s hm
  | vcltn u k f => exact opVcltn_memOk _ _ _ s hm
  | vfceq u k f => exact opVfceq_memOk _ _ _ s hm
  | vfclt u k f => exact opVfclt_memOk _ _ _ s hm
  | vfcle u k f => exact opVfcle_memOk _ _ _ s hm
  | mload f => exact opMload_memOk _ s hm
  | mpush f => exact opMpush_memOk _ s hm
  | mpushv f => exact opMpushv_memOk _ s hm
  | mzero f => exact opMzero_memOk _ s hm
  | mpop f => exact opMpop_memOk _ s hm
  | mpopx f => exact opMpopx_memOk _ s hm
  | macc f => exact opMacc_memOk _ s hm
  | mrel f => exact opMrel_memOk _ s hm
  | tsload f => exact opTsload_memOk _ s hm
  | tsrun f => exact opTsrun_memOk _ s hm
  | tsstop f => exact opTsstop_memOk _ s hm
  | tsstat f => exact opTsstat_memOk _ s hm
  | xpin f => exact opXpin_memOk _ s hm
  | xpout f => exact opXpout_memOk _ s hm
  | xpclr f => exact opXpclr_memOk _ s hm
  | xpmode f => exact opXpmode_memOk _ s hm
  | _ => exact resOk_ok hm

theorem State.beginExam_memOk (s : State) (core i : Nat) (hm : s.memOk) :
    (State.beginExam s core i).memOk := by
  unfold State.beginExam
  try dsimp only
  with_reducible repeat' first
    | assumption | intro _ | (refine snd_memOk ‹_› ?_) | (refine fst_memOk ‹_› ?_) | apply State.modCtx_memOk
    | apply State.touchFetch_memOk | refine memOk_mk (memOk_of ?_)

theorem State.headerWait_memOk (s : State) (h : Header) (l : List (Nat × Instr)) (hm : s.memOk) :
    resOk (State.headerWait s h l) := by
  unfold State.headerWait
  try dsimp only
  with_reducible repeat' first
    | assumption | (refine ok_memOk ‹_› ?_) | apply resOk_ok | apply resOk_error | apply resOk_blockAt
    | apply State.setSem_memOk | apply State.take_memOk | split

theorem State.awake_memOk (s : State) (hm : s.memOk) :
    resOk (State.awake s) := by
  unfold State.awake
  with_reducible repeat' first
    | assumption | apply resOk_ok | apply resOk_blockAt | apply State.modMe_memOk | split

theorem State.lastWrites_memOk (s : State) (l : List RegWrite) (hm : s.memOk) :
    (State.lastWrites s l).memOk := by
  unfold State.lastWrites
  with_reducible repeat' first
    | assumption | intro _ | apply foldl_memOk | apply State.move_memOk

theorem State.evalLoop_memOk (s : State) (rot : Bool) (n : Nat) (after : NextAddr) (hm : s.memOk) (p : State × NextAddr)
    (e : s.evalLoop rot n after = .ok p) : p.1.memOk := by
  have w := fun l => State.lastWrites_memOk s l hm
  unfold State.evalLoop at e
  obtain ⟨_, _, e⟩ := ok_bind e
  split at e
  dsimp only at e
  split at e
  · obtain ⟨_, _, e⟩ := ok_bind e
    obtain ⟨_, _, e⟩ := ok_bind e
    cases e; exact w _
  · cases e; exact w _

theorem State.flow_memOk (s : State) (h : Header) (after : NextAddr) (hm : s.memOk) (p : State × NextAddr)
    (e : s.flow h after = .ok p) : p.1.memOk := by
  have w := fun l => State.lastWrites_memOk s l hm
  unfold State.flow at e
  obtain ⟨_, _, e⟩ := ok_bind e
  split at e
  · cases e
  · split at e
    · cases e; exact w _
    · split at e
      · cases e; exact w _
      · exact State.evalLoop_memOk _ _ _ _ hm _ e

theorem State.needWalk_memOk (old : Nat) (s : State) (w : Walk) (hm : s.memOk) :
    resOk (State.needWalk old s w) := by
  unfold State.needWalk
  try dsimp only
  with_reducible repeat' first
    | assumption | apply resOk_ok | apply resOk_error | apply resOk_blockAt | apply State.walkEnd_memOk | split

theorem State.pitchEnd_memOk (s : State) (old : Nat) (hm : s.memOk) : resOk (s.pitchEnd old) := by
  unfold State.pitchEnd
  split
  · exact resOk_error _
  · split
    · exact resOk_error _
    · split
      · exact resOk_error _
      · apply resOk_bind
        intro s1 e1
        have h1 : s1.memOk := resOk_foldlM (fun s x h => State.needWalk_memOk old s x h) hm _ e1
        apply resOk_bind
        intro l _
        dsimp only
        split
        · exact resOk_error _
        · exact resOk_pure (State.modMe_memOk _ _ h1)

theorem State.headerSignal_memOk (s : State) (h : Header) (hm : s.memOk) :
    resOk (State.headerSignal s h) := by
  unfold State.headerSignal
  with_reducible repeat' first
    | assumption | apply resOk_ok | apply State.signal_memOk | split

theorem State.endOfPitch_memOk (s : State) (h : Header) (old : Nat) (hm : s.memOk) :
    resOk (State.endOfPitch s h old) := by
  unfold State.endOfPitch
  with_reducible repeat' first
    | assumption | apply resOk_ok | apply State.pitchEnd_memOk | split

theorem State.examine_memOk (s : State) (hm : s.memOk) (x : Exam) (e : s.examine = .ok x) : x.st.memOk := by
  unfold State.examine at e
  obtain ⟨nb, _, e⟩ := ok_bind e
  dsimp only at e
  obtain ⟨_, _, e⟩ := ok_bind e
  obtain ⟨_, _, e⟩ := ok_bind e
  obtain ⟨s2, e2, e⟩ := ok_bind e
  have h2 : s2.memOk := State.headerWait_memOk _ _ _ (memOk_mk hm) _ e2
  obtain ⟨_, _, e⟩ := ok_bind e
  obtain ⟨s3, e3, e⟩ := ok_bind e
  have h3 : s3.memOk := State.awake_memOk _ h2 _ e3
  obtain ⟨s4, e4, e⟩ := ok_bind e
  have h4 : s4.memOk := resOk_foldlM (fun s x h => opOf_memOk x.2 s h) h3 _ e4
  obtain ⟨s5, e5, e⟩ := ok_bind e
  have h5 : s5.memOk := State.headerSignal_memOk _ _ h4 _ e5
  obtain ⟨p, e6, e⟩ := ok_bind e
  have h6 := State.flow_memOk _ _ _ h5 _ e6
  obtain ⟨s7, e7, e⟩ := ok_bind e
  cases e
  exact State.endOfPitch_memOk _ _ _ h6 _ e7

theorem State.holdCycle_memOk (s : State) (core : Nat) (hm : s.memOk) :
    (State.holdCycle s core).memOk := by
  unfold State.holdCycle
  with_reducible repeat' first
    | assumption | intro _ | apply foldl_memOk | apply State.modCtx_memOk | apply State.modCore_memOk

theorem State.killMismatch_memOk (s : State) (ci sub : Nat) (nr : Bool) (hm : s.memOk) :
    (State.killMismatch s ci sub nr).memOk := by
  unfold State.killMismatch
  try dsimp only
  with_reducible repeat' first
    | assumption | intro _ | apply State.modCtx_memOk | apply State.countDie_memOk | apply State.irq_memOk
    | apply State.leaveCore_memOk | apply State.deliverTrap_memOk

theorem State.missPitch_memOk (s : State) (ci : Nat) (hm : s.memOk) :
    (State.missPitch s ci).memOk := by
  unfold State.missPitch
  try dsimp only
  with_reducible repeat' first
    | assumption | intro _ | (refine snd_memOk ‹_› ?_) | (refine fst_memOk ‹_› ?_) | apply State.modCtx_memOk
    | apply State.countDie_memOk | apply State.rollback_memOk | apply State.blockOn_memOk
    | apply State.dropOf_memOk | apply State.woCancelAt_memOk | apply State.saveCtx_memOk
    | apply State.killMismatch_memOk | split

theorem State.pitchCheck_memOk (s : State) (h : Header) (hm : s.memOk) :
    (State.pitchCheck s h).memOk := by
  unfold State.pitchCheck
  try dsimp only
  with_reducible repeat' first
    | assumption | intro _ | (refine snd_memOk ‹_› ?_) | (refine fst_memOk ‹_› ?_) | (refine some_memOk ‹_› ?_)
    | (refine some2_memOk ‹_› ?_) | apply State.modCtx_memOk | apply State.touchPitchEntry_memOk
    | apply State.missPitch_memOk | split

theorem State.issue_memOk (s : State) (e : Exam) (h : e.st.memOk) : (s.issue e).memOk := by
  unfold State.issue
  have h1 := fun f (n : Nat) g => State.modMyCore_memOk { (e.st.commit.modMe f) with seq := n } g
    (memOk_mk (State.modMe_memOk _ f (State.commit_memOk _ h)))
  dsimp only
  with_reducible repeat' first
    | exact h1 _ _ _
    | apply State.holdCycle_memOk
    | apply State.pitchCheck_memOk
    | split

theorem State.cancelBlocked_memOk (s : State) (ci : Nat) (hm : s.memOk) :
    (State.cancelBlocked s ci).memOk := by
  unfold State.cancelBlocked
  with_reducible repeat' first
    | assumption | apply State.killCancelled_memOk | split

theorem State.runBundle_memOk (s : State) (core i : Nat) (hm : s.memOk) : (s.runBundle core i).memOk := by
  unfold State.runBundle
  have h0 := State.beginExam_memOk s core i hm
  dsimp only
  split
  · rename_i e; exact State.issue_memOk _ _ (State.examine_memOk _ h0 _ e)
  · exact State.failBlocked_memOk _ _ (State.cancelBlocked_memOk _ _ (State.stop_memOk _ h0 _))

theorem execBundleIssue_memOk (core : Nat) (s : State) (hm : s.memOk) :
    outOk (execBundleIssue core s) := by
  unfold execBundleIssue
  with_reducible repeat' first
    | assumption | apply outOk_next | apply State.runBundle_memOk | split

theorem execContextUnblock_memOk (core ctx : Nat) (s : State) (hm : s.memOk) :
    outOk (execContextUnblock core ctx s) := by
  unfold execContextUnblock
  try dsimp only
  with_reducible repeat' first
    | assumption | apply outOk_next | apply State.modCtx_memOk | apply State.modCore_memOk
    | apply State.makeReady_memOk | split

theorem execResultLanding_memOk (core ctx : Nat) (s : State) (hm : s.memOk) :
    outOk (execResultLanding core ctx s) := by
  unfold execResultLanding
  with_reducible repeat' first
    | assumption | apply outOk_next | apply State.modCtx_memOk

theorem execReplayReissue_memOk (core ctx : Nat) (s : State) (hm : s.memOk) :
    outOk (execReplayReissue core ctx s) := by
  unfold execReplayReissue
  with_reducible repeat' first
    | assumption | apply outOk_next | apply State.modCtx_memOk | split

theorem runPacket_memOk (p : Packet) (s : State) (hm : s.memOk) :
    outOk (runPacket p s) := by
  unfold runPacket
  with_reducible repeat' first
    | assumption | apply outOk_next | apply execRldRequest_memOk | apply execRldvRequest_memOk
    | apply execRstRequest_memOk | apply execRstvRequest_memOk | apply execCloseRequest_memOk
    | apply execRopRequest_memOk | apply execRldReply_memOk | apply execRldvReply_memOk
    | apply execRopReply_memOk | apply execWriteAcknowledgement_memOk | apply execSummaryReply_memOk | split

theorem runMsg_memOk (m : Msg) (s : State) (hm : s.memOk) :
    outOk (runMsg m s) := by
  unfold runMsg
  with_reducible repeat' first
    | assumption | apply outOk_next | apply execItemArrival_memOk | apply execSpaceReport_memOk
    | apply execArrived_memOk | apply execMoved_memOk | apply execMovedAcknowledgement_memOk
    | apply execRedirected_memOk | apply execDrained_memOk | apply execBelayNote_memOk
    | apply execRingHostRequest_memOk | apply execRingHostAnswer_memOk | apply execJournalAppend_memOk
    | apply execAppendAcknowledgement_memOk | apply execJrecRequest_memOk | apply execJrecReply_memOk
    | apply execReleaseMessage_memOk | apply execReleaseNotice_memOk | apply execRingCopy_memOk
    | apply execItemAcceptance_memOk | apply execCloseNotice_memOk | apply runPacket_memOk | split

theorem runCommand_memOk (core q cmd : Nat) (s : State) (hm : s.memOk) :
    outOk (runCommand core q cmd s) := by
  unfold runCommand
  with_reducible repeat' first
    | assumption | apply execCpyCommand_memOk | apply execCsrCommand_memOk | apply execZfillCommand_memOk
    | apply execPfrCommand_memOk | apply execEvictCommand_memOk | apply execQfenceCommand_memOk
    | apply execCollCommand_memOk | split

theorem Auto.run_memOk (a : Auto) (s : State) (hm : s.memOk) :
    outOk (Auto.run a s) := by
  unfold Auto.run
  with_reducible repeat' first
    | assumption | (refine some2_memOk ‹_› ?_) | apply execLoadLanding_memOk | apply execWalkComplete_memOk
    | apply execGatherRowArrival_memOk | apply execMacroEntryStart_memOk | apply execPushRowAdded_memOk
    | apply execOperandsConsumed_memOk | apply execPushComplete_memOk | apply execMloadComplete_memOk
    | apply execSequencerState_memOk | apply execCollTimeout_memOk | apply State.takeEntry_memOk
    | apply execEntryAdmit_memOk | apply execPromiseLanding_memOk | apply execQueueDisableComplete_memOk
    | apply State.request_memOk | apply execTallyExpiry_memOk | apply execSpaceReportSend_memOk
    | apply execOrphanHoldoffExpiry_memOk | apply execRingHostTimeout_memOk | apply execRequestTimeout_memOk
    | apply execItemSend_memOk | apply execTrapDelivery_memOk | apply execPromiseMissed_memOk
    | apply execPreemptSave_memOk | apply execReplyToSaved_memOk | apply execShootdownComplete_memOk
    | apply execOnchipSweepComplete_memOk | apply execPassEnd_memOk | apply execDispatchBind_memOk
    | apply execPendingBind_memOk | apply execCsave_memOk | apply execMigration_memOk
    | apply execMigrationHoldTimeout_memOk | apply execChal_memOk | apply execCert_memOk
    | apply execImportKey_memOk | apply execCeilingApply_memOk | apply execPowerFail_memOk
    | apply execPowerReturn_memOk | apply execPitchRelease_memOk | apply execDirtyFifoDrain_memOk
    | apply State.issue_memOk | apply execBundleIssue_memOk | apply execContextUnblock_memOk
    | apply runMsg_memOk | apply runCommand_memOk | split

theorem changed_memOk (s : State) (o : Host.Outcome State Fault Refusal) (h : outOk o) : optOk (changed s o) := by
  intro t e
  unfold changed at e
  split at e
  · split at e
    · cases e
    · cases e; exact h _ rfl
  · cases e

theorem State.firstAuto_memOk (s : State) (l : List Auto) (hm : s.memOk) : optOk (s.firstAuto l) := by
  induction l with
  | nil => exact optOk_none
  | cons a r ih =>
    unfold State.firstAuto
    split
    · rename_i t e
      exact optOk_some (changed_memOk _ _ (Auto.run_memOk a s hm) _ e)
    · exact ih

theorem State.tick_memOk (s : State) (hm : s.memOk) :
    (State.tick s).memOk := by
  unfold State.tick
  try dsimp only
  with_reducible repeat' first
    | assumption | refine memOk_mk (memOk_of ?_)

theorem State.takeSignals_memOk (s : State) (hm : s.memOk) :
    (State.takeSignals s).memOk := by
  unfold State.takeSignals
  try dsimp only
  with_reducible repeat' first
    | assumption | intro _ | (refine snd_memOk ‹_› ?_) | (refine fst_memOk ‹_› ?_) | apply foldl_memOk
    | apply pair_foldl_memOk | apply State.addSem_memOk | refine memOk_mk (memOk_of ?_)

theorem State.advance_memOk (s : State) (hm : s.memOk) :
    (State.advance s).memOk := by
  unfold State.advance
  with_reducible repeat' first
    | assumption | apply State.tick_memOk | apply State.takeSignals_memOk | split
    | refine memOk_mk (memOk_of ?_)

theorem State.idleStep_memOk (s : State) (hm : s.memOk) : s.idleStep.memOk := by
  unfold State.idleStep
  cases e : s.firstAuto s.autos with
  | none => exact State.advance_memOk _ hm
  | some t => exact State.firstAuto_memOk _ _ hm _ e

theorem State.endBurst_memOk (old : List Nat) (t : State) (hm : t.memOk) :
    (State.endBurst old t).memOk := by
  unfold State.endBurst
  with_reducible repeat' first
    | assumption | split | refine memOk_mk (memOk_of ?_)

theorem State.placeByte_memOk (s : State) (pa : Nat) (b : Byte) (hm : s.memOk) : (s.placeByte pa b).memOk := by
  simp only [State.memOk, Memory.wf, Bool.and_eq_true] at hm
  unfold State.placeByte
  simp only [State.memOk, Memory.wf, Bool.and_eq_true]
  refine ⟨⟨⟨Tab.wf_put _ _ _ _ hm.1.1.1, ?_⟩, Tab.wfFrom_erase _ _ hm.1.2⟩, Tab.wfFrom_erase _ _ hm.2⟩
  split
  · exact Tab.wf_put _ _ _ _ hm.1.1.2
  · exact hm.1.1.2

theorem State.placeBytes_memOk (s : State) (pa : Nat) (l : List Byte) (hm : s.memOk) : (s.placeBytes pa l).memOk := by
  induction l generalizing s pa with
  | nil => exact hm
  | cons b r ih => exact ih _ _ (State.placeByte_memOk _ _ _ hm)

theorem State.placeBundle_memOk (s : State) (b : BundleBits) (hm : s.memOk) :
    (State.placeBundle s b).memOk := by
  unfold State.placeBundle
  try dsimp only
  with_reducible repeat' first
    | assumption | intro _ | apply foldl_memOk | apply State.modCtx_memOk | apply State.modCore_memOk
    | apply State.modTslot_memOk | apply State.placeBytes_memOk | refine memOk_mk (memOk_of ?_)

end Sys2Proof.Machine
end

