-- ==== Sys2Proof/Laws/State.lean ====
section
/-! SUPPORT. What each update of State leaves alone, one lemma for each field; and what a read after it gives. -/

namespace Sys2Proof.Machine

@[simp] theorem State.setCtx_cores (s : State) (i : Nat) (c : Ctx) : (s.setCtx i c).cores = s.cores := rfl
@[simp] theorem State.setCtx_dies (s : State) (i : Nat) (c : Ctx) : (s.setCtx i c).dies = s.dies := rfl
@[simp] theorem State.setCtx_mem (s : State) (i : Nat) (c : Ctx) : (s.setCtx i c).mem = s.mem := rfl
@[simp] theorem State.setCtx_hub (s : State) (i : Nat) (c : Ctx) : (s.setCtx i c).hub = s.hub := rfl
@[simp] theorem State.setCtx_net (s : State) (i : Nat) (c : Ctx) : (s.setCtx i c).net = s.net := rfl
@[simp] theorem State.setCtx_out (s : State) (i : Nat) (c : Ctx) : (s.setCtx i c).out = s.out := rfl
@[simp] theorem State.setCtx_cycle (s : State) (i : Nat) (c : Ctx) : (s.setCtx i c).cycle = s.cycle := rfl
@[simp] theorem State.setCtx_stage (s : State) (i : Nat) (c : Ctx) : (s.setCtx i c).stage = s.stage := rfl
@[simp] theorem State.setCtx_dtime (s : State) (i : Nat) (c : Ctx) : (s.setCtx i c).dtime = s.dtime := rfl
@[simp] theorem State.setCtx_tfrac (s : State) (i : Nat) (c : Ctx) : (s.setCtx i c).tfrac = s.tfrac := rfl
@[simp] theorem State.setCtx_mhz (s : State) (i : Nat) (c : Ctx) : (s.setCtx i c).mhz = s.mhz := rfl
@[simp] theorem State.setCtx_cur (s : State) (i : Nat) (c : Ctx) : (s.setCtx i c).cur = s.cur := rfl
@[simp] theorem State.setCtx_seq (s : State) (i : Nat) (c : Ctx) : (s.setCtx i c).seq = s.seq := rfl
@[simp] theorem State.setCtx_burst (s : State) (i : Nat) (c : Ctx) : (s.setCtx i c).burst = s.burst := rfl
@[simp] theorem State.setCtx_upsets (s : State) (i : Nat) (c : Ctx) : (s.setCtx i c).upsets = s.upsets := rfl
@[simp] theorem State.setCtx_agenda (s : State) (i : Nat) (c : Ctx) : (s.setCtx i c).agenda = s.agenda := rfl
@[simp] theorem State.setCtx_fresh (s : State) (i : Nat) (c : Ctx) : (s.setCtx i c).fresh = s.fresh := rfl

@[simp] theorem State.modCtx_cores (s : State) (i : Nat) (f : Ctx → Ctx) : (s.modCtx i f).cores = s.cores := rfl
@[simp] theorem State.modCtx_dies (s : State) (i : Nat) (f : Ctx → Ctx) : (s.modCtx i f).dies = s.dies := rfl
@[simp] theorem State.modCtx_mem (s : State) (i : Nat) (f : Ctx → Ctx) : (s.modCtx i f).mem = s.mem := rfl
@[simp] theorem State.modCtx_hub (s : State) (i : Nat) (f : Ctx → Ctx) : (s.modCtx i f).hub = s.hub := rfl
@[simp] theorem State.modCtx_net (s : State) (i : Nat) (f : Ctx → Ctx) : (s.modCtx i f).net = s.net := rfl
@[simp] theorem State.modCtx_out (s : State) (i : Nat) (f : Ctx → Ctx) : (s.modCtx i f).out = s.out := rfl
@[simp] theorem State.modCtx_cycle (s : State) (i : Nat) (f : Ctx → Ctx) : (s.modCtx i f).cycle = s.cycle := rfl
@[simp] theorem State.modCtx_stage (s : State) (i : Nat) (f : Ctx → Ctx) : (s.modCtx i f).stage = s.stage := rfl
@[simp] theorem State.modCtx_dtime (s : State) (i : Nat) (f : Ctx → Ctx) : (s.modCtx i f).dtime = s.dtime := rfl
@[simp] theorem State.modCtx_tfrac (s : State) (i : Nat) (f : Ctx → Ctx) : (s.modCtx i f).tfrac = s.tfrac := rfl
@[simp] theorem State.modCtx_mhz (s : State) (i : Nat) (f : Ctx → Ctx) : (s.modCtx i f).mhz = s.mhz := rfl
@[simp] theorem State.modCtx_cur (s : State) (i : Nat) (f : Ctx → Ctx) : (s.modCtx i f).cur = s.cur := rfl
@[simp] theorem State.modCtx_seq (s : State) (i : Nat) (f : Ctx → Ctx) : (s.modCtx i f).seq = s.seq := rfl
@[simp] theorem State.modCtx_burst (s : State) (i : Nat) (f : Ctx → Ctx) : (s.modCtx i f).burst = s.burst := rfl
@[simp] theorem State.modCtx_upsets (s : State) (i : Nat) (f : Ctx → Ctx) : (s.modCtx i f).upsets = s.upsets := rfl
@[simp] theorem State.modCtx_agenda (s : State) (i : Nat) (f : Ctx → Ctx) : (s.modCtx i f).agenda = s.agenda := rfl
@[simp] theorem State.modCtx_fresh (s : State) (i : Nat) (f : Ctx → Ctx) : (s.modCtx i f).fresh = s.fresh := rfl

@[simp] theorem State.setCore_ctxs (s : State) (i : Nat) (c : Core) : (s.setCore i c).ctxs = s.ctxs := rfl
@[simp] theorem State.setCore_dies (s : State) (i : Nat) (c : Core) : (s.setCore i c).dies = s.dies := rfl
@[simp] theorem State.setCore_mem (s : State) (i : Nat) (c : Core) : (s.setCore i c).mem = s.mem := rfl
@[simp] theorem State.setCore_hub (s : State) (i : Nat) (c : Core) : (s.setCore i c).hub = s.hub := rfl
@[simp] theorem State.setCore_net (s : State) (i : Nat) (c : Core) : (s.setCore i c).net = s.net := rfl
@[simp] theorem State.setCore_out (s : State) (i : Nat) (c : Core) : (s.setCore i c).out = s.out := rfl
@[simp] theorem State.setCore_cycle (s : State) (i : Nat) (c : Core) : (s.setCore i c).cycle = s.cycle := rfl
@[simp] theorem State.setCore_stage (s : State) (i : Nat) (c : Core) : (s.setCore i c).stage = s.stage := rfl
@[simp] theorem State.setCore_dtime (s : State) (i : Nat) (c : Core) : (s.setCore i c).dtime = s.dtime := rfl
@[simp] theorem State.setCore_tfrac (s : State) (i : Nat) (c : Core) : (s.setCore i c).tfrac = s.tfrac := rfl
@[simp] theorem State.setCore_mhz (s : State) (i : Nat) (c : Core) : (s.setCore i c).mhz = s.mhz := rfl
@[simp] theorem State.setCore_cur (s : State) (i : Nat) (c : Core) : (s.setCore i c).cur = s.cur := rfl
@[simp] theorem State.setCore_seq (s : State) (i : Nat) (c : Core) : (s.setCore i c).seq = s.seq := rfl
@[simp] theorem State.setCore_burst (s : State) (i : Nat) (c : Core) : (s.setCore i c).burst = s.burst := rfl
@[simp] theorem State.setCore_upsets (s : State) (i : Nat) (c : Core) : (s.setCore i c).upsets = s.upsets := rfl
@[simp] theorem State.setCore_agenda (s : State) (i : Nat) (c : Core) : (s.setCore i c).agenda = s.agenda := rfl
@[simp] theorem State.setCore_fresh (s : State) (i : Nat) (c : Core) : (s.setCore i c).fresh = s.fresh := rfl

@[simp] theorem State.modCore_ctxs (s : State) (i : Nat) (f : Core → Core) : (s.modCore i f).ctxs = s.ctxs := rfl
@[simp] theorem State.modCore_dies (s : State) (i : Nat) (f : Core → Core) : (s.modCore i f).dies = s.dies := rfl
@[simp] theorem State.modCore_mem (s : State) (i : Nat) (f : Core → Core) : (s.modCore i f).mem = s.mem := rfl
@[simp] theorem State.modCore_hub (s : State) (i : Nat) (f : Core → Core) : (s.modCore i f).hub = s.hub := rfl
@[simp] theorem State.modCore_net (s : State) (i : Nat) (f : Core → Core) : (s.modCore i f).net = s.net := rfl
@[simp] theorem State.modCore_out (s : State) (i : Nat) (f : Core → Core) : (s.modCore i f).out = s.out := rfl
@[simp] theorem State.modCore_cycle (s : State) (i : Nat) (f : Core → Core) : (s.modCore i f).cycle = s.cycle := rfl
@[simp] theorem State.modCore_stage (s : State) (i : Nat) (f : Core → Core) : (s.modCore i f).stage = s.stage := rfl
@[simp] theorem State.modCore_dtime (s : State) (i : Nat) (f : Core → Core) : (s.modCore i f).dtime = s.dtime := rfl
@[simp] theorem State.modCore_tfrac (s : State) (i : Nat) (f : Core → Core) : (s.modCore i f).tfrac = s.tfrac := rfl
@[simp] theorem State.modCore_mhz (s : State) (i : Nat) (f : Core → Core) : (s.modCore i f).mhz = s.mhz := rfl
@[simp] theorem State.modCore_cur (s : State) (i : Nat) (f : Core → Core) : (s.modCore i f).cur = s.cur := rfl
@[simp] theorem State.modCore_seq (s : State) (i : Nat) (f : Core → Core) : (s.modCore i f).seq = s.seq := rfl
@[simp] theorem State.modCore_burst (s : State) (i : Nat) (f : Core → Core) : (s.modCore i f).burst = s.burst := rfl
@[simp] theorem State.modCore_upsets (s : State) (i : Nat) (f : Core → Core) : (s.modCore i f).upsets = s.upsets := rfl
@[simp] theorem State.modCore_agenda (s : State) (i : Nat) (f : Core → Core) : (s.modCore i f).agenda = s.agenda := rfl
@[simp] theorem State.modCore_fresh (s : State) (i : Nat) (f : Core → Core) : (s.modCore i f).fresh = s.fresh := rfl

@[simp] theorem State.setDie_ctxs (s : State) (i : Nat) (d : Die) : (s.setDie i d).ctxs = s.ctxs := rfl
@[simp] theorem State.setDie_cores (s : State) (i : Nat) (d : Die) : (s.setDie i d).cores = s.cores := rfl
@[simp] theorem State.setDie_mem (s : State) (i : Nat) (d : Die) : (s.setDie i d).mem = s.mem := rfl
@[simp] theorem State.setDie_hub (s : State) (i : Nat) (d : Die) : (s.setDie i d).hub = s.hub := rfl
@[simp] theorem State.setDie_net (s : State) (i : Nat) (d : Die) : (s.setDie i d).net = s.net := rfl
@[simp] theorem State.setDie_out (s : State) (i : Nat) (d : Die) : (s.setDie i d).out = s.out := rfl
@[simp] theorem State.setDie_cycle (s : State) (i : Nat) (d : Die) : (s.setDie i d).cycle = s.cycle := rfl
@[simp] theorem State.setDie_stage (s : State) (i : Nat) (d : Die) : (s.setDie i d).stage = s.stage := rfl
@[simp] theorem State.setDie_dtime (s : State) (i : Nat) (d : Die) : (s.setDie i d).dtime = s.dtime := rfl
@[simp] theorem State.setDie_tfrac (s : State) (i : Nat) (d : Die) : (s.setDie i d).tfrac = s.tfrac := rfl
@[simp] theorem State.setDie_mhz (s : State) (i : Nat) (d : Die) : (s.setDie i d).mhz = s.mhz := rfl
@[simp] theorem State.setDie_cur (s : State) (i : Nat) (d : Die) : (s.setDie i d).cur = s.cur := rfl
@[simp] theorem State.setDie_seq (s : State) (i : Nat) (d : Die) : (s.setDie i d).seq = s.seq := rfl
@[simp] theorem State.setDie_burst (s : State) (i : Nat) (d : Die) : (s.setDie i d).burst = s.burst := rfl
@[simp] theorem State.setDie_upsets (s : State) (i : Nat) (d : Die) : (s.setDie i d).upsets = s.upsets := rfl
@[simp] theorem State.setDie_agenda (s : State) (i : Nat) (d : Die) : (s.setDie i d).agenda = s.agenda := rfl
@[simp] theorem State.setDie_fresh (s : State) (i : Nat) (d : Die) : (s.setDie i d).fresh = s.fresh := rfl

@[simp] theorem State.modDie_ctxs (s : State) (i : Nat) (f : Die → Die) : (s.modDie i f).ctxs = s.ctxs := rfl
@[simp] theorem State.modDie_cores (s : State) (i : Nat) (f : Die → Die) : (s.modDie i f).cores = s.cores := rfl
@[simp] theorem State.modDie_mem (s : State) (i : Nat) (f : Die → Die) : (s.modDie i f).mem = s.mem := rfl
@[simp] theorem State.modDie_hub (s : State) (i : Nat) (f : Die → Die) : (s.modDie i f).hub = s.hub := rfl
@[simp] theorem State.modDie_net (s : State) (i : Nat) (f : Die → Die) : (s.modDie i f).net = s.net := rfl
@[simp] theorem State.modDie_out (s : State) (i : Nat) (f : Die → Die) : (s.modDie i f).out = s.out := rfl
@[simp] theorem State.modDie_cycle (s : State) (i : Nat) (f : Die → Die) : (s.modDie i f).cycle = s.cycle := rfl
@[simp] theorem State.modDie_stage (s : State) (i : Nat) (f : Die → Die) : (s.modDie i f).stage = s.stage := rfl
@[simp] theorem State.modDie_dtime (s : State) (i : Nat) (f : Die → Die) : (s.modDie i f).dtime = s.dtime := rfl
@[simp] theorem State.modDie_tfrac (s : State) (i : Nat) (f : Die → Die) : (s.modDie i f).tfrac = s.tfrac := rfl
@[simp] theorem State.modDie_mhz (s : State) (i : Nat) (f : Die → Die) : (s.modDie i f).mhz = s.mhz := rfl
@[simp] theorem State.modDie_cur (s : State) (i : Nat) (f : Die → Die) : (s.modDie i f).cur = s.cur := rfl
@[simp] theorem State.modDie_seq (s : State) (i : Nat) (f : Die → Die) : (s.modDie i f).seq = s.seq := rfl
@[simp] theorem State.modDie_burst (s : State) (i : Nat) (f : Die → Die) : (s.modDie i f).burst = s.burst := rfl
@[simp] theorem State.modDie_upsets (s : State) (i : Nat) (f : Die → Die) : (s.modDie i f).upsets = s.upsets := rfl
@[simp] theorem State.modDie_agenda (s : State) (i : Nat) (f : Die → Die) : (s.modDie i f).agenda = s.agenda := rfl
@[simp] theorem State.modDie_fresh (s : State) (i : Nat) (f : Die → Die) : (s.modDie i f).fresh = s.fresh := rfl

@[simp] theorem State.modTslot_ctxs (s : State) (t : Nat) (f : TSlot → TSlot) : (s.modTslot t f).ctxs = s.ctxs := rfl
@[simp] theorem State.modTslot_cores (s : State) (t : Nat) (f : TSlot → TSlot) : (s.modTslot t f).cores = s.cores := rfl
@[simp] theorem State.modTslot_dies (s : State) (t : Nat) (f : TSlot → TSlot) : (s.modTslot t f).dies = s.dies := rfl
@[simp] theorem State.modTslot_mem (s : State) (t : Nat) (f : TSlot → TSlot) : (s.modTslot t f).mem = s.mem := rfl
@[simp] theorem State.modTslot_net (s : State) (t : Nat) (f : TSlot → TSlot) : (s.modTslot t f).net = s.net := rfl
@[simp] theorem State.modTslot_out (s : State) (t : Nat) (f : TSlot → TSlot) : (s.modTslot t f).out = s.out := rfl
@[simp] theorem State.modTslot_cycle (s : State) (t : Nat) (f : TSlot → TSlot) : (s.modTslot t f).cycle = s.cycle := rfl
@[simp] theorem State.modTslot_stage (s : State) (t : Nat) (f : TSlot → TSlot) : (s.modTslot t f).stage = s.stage := rfl
@[simp] theorem State.modTslot_dtime (s : State) (t : Nat) (f : TSlot → TSlot) : (s.modTslot t f).dtime = s.dtime := rfl
@[simp] theorem State.modTslot_tfrac (s : State) (t : Nat) (f : TSlot → TSlot) : (s.modTslot t f).tfrac = s.tfrac := rfl
@[simp] theorem State.modTslot_mhz (s : State) (t : Nat) (f : TSlot → TSlot) : (s.modTslot t f).mhz = s.mhz := rfl
@[simp] theorem State.modTslot_cur (s : State) (t : Nat) (f : TSlot → TSlot) : (s.modTslot t f).cur = s.cur := rfl
@[simp] theorem State.modTslot_seq (s : State) (t : Nat) (f : TSlot → TSlot) : (s.modTslot t f).seq = s.seq := rfl
@[simp] theorem State.modTslot_burst (s : State) (t : Nat) (f : TSlot → TSlot) : (s.modTslot t f).burst = s.burst := rfl
@[simp] theorem State.modTslot_upsets (s : State) (t : Nat) (f : TSlot → TSlot) : (s.modTslot t f).upsets = s.upsets := rfl
@[simp] theorem State.modTslot_agenda (s : State) (t : Nat) (f : TSlot → TSlot) : (s.modTslot t f).agenda = s.agenda := rfl
@[simp] theorem State.modTslot_fresh (s : State) (t : Nat) (f : TSlot → TSlot) : (s.modTslot t f).fresh = s.fresh := rfl

@[simp] theorem State.setHubReg_ctxs (s : State) (o : Nat) (v : Word) : (s.setHubReg o v).ctxs = s.ctxs := rfl
@[simp] theorem State.setHubReg_cores (s : State) (o : Nat) (v : Word) : (s.setHubReg o v).cores = s.cores := rfl
@[simp] theorem State.setHubReg_dies (s : State) (o : Nat) (v : Word) : (s.setHubReg o v).dies = s.dies := rfl
@[simp] theorem State.setHubReg_mem (s : State) (o : Nat) (v : Word) : (s.setHubReg o v).mem = s.mem := rfl
@[simp] theorem State.setHubReg_net (s : State) (o : Nat) (v : Word) : (s.setHubReg o v).net = s.net := rfl
@[simp] theorem State.setHubReg_out (s : State) (o : Nat) (v : Word) : (s.setHubReg o v).out = s.out := rfl
@[simp] theorem State.setHubReg_cycle (s : State) (o : Nat) (v : Word) : (s.setHubReg o v).cycle = s.cycle := rfl
@[simp] theorem State.setHubReg_stage (s : State) (o : Nat) (v : Word) : (s.setHubReg o v).stage = s.stage := rfl
@[simp] theorem State.setHubReg_dtime (s : State) (o : Nat) (v : Word) : (s.setHubReg o v).dtime = s.dtime := rfl
@[simp] theorem State.setHubReg_tfrac (s : State) (o : Nat) (v : Word) : (s.setHubReg o v).tfrac = s.tfrac := rfl
@[simp] theorem State.setHubReg_mhz (s : State) (o : Nat) (v : Word) : (s.setHubReg o v).mhz = s.mhz := rfl
@[simp] theorem State.setHubReg_cur (s : State) (o : Nat) (v : Word) : (s.setHubReg o v).cur = s.cur := rfl
@[simp] theorem State.setHubReg_seq (s : State) (o : Nat) (v : Word) : (s.setHubReg o v).seq = s.seq := rfl
@[simp] theorem State.setHubReg_burst (s : State) (o : Nat) (v : Word) : (s.setHubReg o v).burst = s.burst := rfl
@[simp] theorem State.setHubReg_upsets (s : State) (o : Nat) (v : Word) : (s.setHubReg o v).upsets = s.upsets := rfl
@[simp] theorem State.setHubReg_agenda (s : State) (o : Nat) (v : Word) : (s.setHubReg o v).agenda = s.agenda := rfl
@[simp] theorem State.setHubReg_fresh (s : State) (o : Nat) (v : Word) : (s.setHubReg o v).fresh = s.fresh := rfl

@[simp] theorem State.modMe_cores (s : State) (f : Ctx → Ctx) : (s.modMe f).cores = s.cores := rfl
@[simp] theorem State.modMe_dies (s : State) (f : Ctx → Ctx) : (s.modMe f).dies = s.dies := rfl
@[simp] theorem State.modMe_mem (s : State) (f : Ctx → Ctx) : (s.modMe f).mem = s.mem := rfl
@[simp] theorem State.modMe_hub (s : State) (f : Ctx → Ctx) : (s.modMe f).hub = s.hub := rfl
@[simp] theorem State.modMe_net (s : State) (f : Ctx → Ctx) : (s.modMe f).net = s.net := rfl
@[simp] theorem State.modMe_out (s : State) (f : Ctx → Ctx) : (s.modMe f).out = s.out := rfl
@[simp] theorem State.modMe_cycle (s : State) (f : Ctx → Ctx) : (s.modMe f).cycle = s.cycle := rfl
@[simp] theorem State.modMe_stage (s : State) (f : Ctx → Ctx) : (s.modMe f).stage = s.stage := rfl
@[simp] theorem State.modMe_dtime (s : State) (f : Ctx → Ctx) : (s.modMe f).dtime = s.dtime := rfl
@[simp] theorem State.modMe_tfrac (s : State) (f : Ctx → Ctx) : (s.modMe f).tfrac = s.tfrac := rfl
@[simp] theorem State.modMe_mhz (s : State) (f : Ctx → Ctx) : (s.modMe f).mhz = s.mhz := rfl
@[simp] theorem State.modMe_cur (s : State) (f : Ctx → Ctx) : (s.modMe f).cur = s.cur := rfl
@[simp] theorem State.modMe_seq (s : State) (f : Ctx → Ctx) : (s.modMe f).seq = s.seq := rfl
@[simp] theorem State.modMe_burst (s : State) (f : Ctx → Ctx) : (s.modMe f).burst = s.burst := rfl
@[simp] theorem State.modMe_upsets (s : State) (f : Ctx → Ctx) : (s.modMe f).upsets = s.upsets := rfl
@[simp] theorem State.modMe_agenda (s : State) (f : Ctx → Ctx) : (s.modMe f).agenda = s.agenda := rfl
@[simp] theorem State.modMe_fresh (s : State) (f : Ctx → Ctx) : (s.modMe f).fresh = s.fresh := rfl

@[simp] theorem State.modMyCore_ctxs (s : State) (f : Core → Core) : (s.modMyCore f).ctxs = s.ctxs := rfl
@[simp] theorem State.modMyCore_dies (s : State) (f : Core → Core) : (s.modMyCore f).dies = s.dies := rfl
@[simp] theorem State.modMyCore_mem (s : State) (f : Core → Core) : (s.modMyCore f).mem = s.mem := rfl
@[simp] theorem State.modMyCore_hub (s : State) (f : Core → Core) : (s.modMyCore f).hub = s.hub := rfl
@[simp] theorem State.modMyCore_net (s : State) (f : Core → Core) : (s.modMyCore f).net = s.net := rfl
@[simp] theorem State.modMyCore_out (s : State) (f : Core → Core) : (s.modMyCore f).out = s.out := rfl
@[simp] theorem State.modMyCore_cycle (s : State) (f : Core → Core) : (s.modMyCore f).cycle = s.cycle := rfl
@[simp] theorem State.modMyCore_stage (s : State) (f : Core → Core) : (s.modMyCore f).stage = s.stage := rfl
@[simp] theorem State.modMyCore_dtime (s : State) (f : Core → Core) : (s.modMyCore f).dtime = s.dtime := rfl
@[simp] theorem State.modMyCore_tfrac (s : State) (f : Core → Core) : (s.modMyCore f).tfrac = s.tfrac := rfl
@[simp] theorem State.modMyCore_mhz (s : State) (f : Core → Core) : (s.modMyCore f).mhz = s.mhz := rfl
@[simp] theorem State.modMyCore_cur (s : State) (f : Core → Core) : (s.modMyCore f).cur = s.cur := rfl
@[simp] theorem State.modMyCore_seq (s : State) (f : Core → Core) : (s.modMyCore f).seq = s.seq := rfl
@[simp] theorem State.modMyCore_burst (s : State) (f : Core → Core) : (s.modMyCore f).burst = s.burst := rfl
@[simp] theorem State.modMyCore_upsets (s : State) (f : Core → Core) : (s.modMyCore f).upsets = s.upsets := rfl
@[simp] theorem State.modMyCore_agenda (s : State) (f : Core → Core) : (s.modMyCore f).agenda = s.agenda := rfl
@[simp] theorem State.modMyCore_fresh (s : State) (f : Core → Core) : (s.modMyCore f).fresh = s.fresh := rfl

@[simp] theorem State.setCtx_ctx (s : State) (i j : Nat) (c : Ctx) : (s.setCtx i c).ctx j = if j = i then c else s.ctx j := by
  simp [State.ctx, State.setCtx]
@[simp] theorem State.modCtx_ctx (s : State) (i j : Nat) (f : Ctx → Ctx) :
    (s.modCtx i f).ctx j = if j = i then f (s.ctx i) else s.ctx j := by simp [State.modCtx]
@[simp] theorem State.setCore_core (s : State) (i j : Nat) (c : Core) :
    (s.setCore i c).core j = if j = i then c else s.core j := by simp [State.core, State.setCore]
@[simp] theorem State.modCore_core (s : State) (i j : Nat) (f : Core → Core) :
    (s.modCore i f).core j = if j = i then f (s.core i) else s.core j := by simp [State.modCore]
@[simp] theorem State.setDie_die (s : State) (i j : Nat) (d : Die) : (s.setDie i d).die j = if j = i then d else s.die j := by
  simp [State.die, State.setDie]
@[simp] theorem State.modDie_die (s : State) (i j : Nat) (f : Die → Die) :
    (s.modDie i f).die j = if j = i then f (s.die i) else s.die j := by simp [State.modDie]
@[simp] theorem State.modTslot_tslot (s : State) (i j : Nat) (f : TSlot → TSlot) :
    (s.modTslot i f).tslot j = if j = i then f (s.tslot i) else s.tslot j := by simp [State.modTslot, State.tslot]
@[simp] theorem State.setHubReg_hubReg (s : State) (i j : Nat) (v : Word) :
    (s.setHubReg i v).hubReg j = if j = i then v else s.hubReg j := by simp [State.setHubReg, State.hubReg]

@[simp] theorem State.setCore_ctx (s : State) (i : Nat) (c : Core) (j : Nat) : (s.setCore i c).ctx j = s.ctx j := rfl
@[simp] theorem State.modCore_ctx (s : State) (i : Nat) (f : Core → Core) (j : Nat) : (s.modCore i f).ctx j = s.ctx j := rfl
@[simp] theorem State.setDie_ctx (s : State) (i : Nat) (d : Die) (j : Nat) : (s.setDie i d).ctx j = s.ctx j := rfl
@[simp] theorem State.modDie_ctx (s : State) (i : Nat) (f : Die → Die) (j : Nat) : (s.modDie i f).ctx j = s.ctx j := rfl
@[simp] theorem State.modTslot_ctx (s : State) (t : Nat) (f : TSlot → TSlot) (j : Nat) : (s.modTslot t f).ctx j = s.ctx j := rfl
@[simp] theorem State.setHubReg_ctx (s : State) (o : Nat) (v : Word) (j : Nat) : (s.setHubReg o v).ctx j = s.ctx j := rfl
@[simp] theorem State.modMyCore_ctx (s : State) (f : Core → Core) (j : Nat) : (s.modMyCore f).ctx j = s.ctx j := rfl

@[simp] theorem State.setCtx_core (s : State) (i : Nat) (c : Ctx) (j : Nat) : (s.setCtx i c).core j = s.core j := rfl
@[simp] theorem State.modCtx_core (s : State) (i : Nat) (f : Ctx → Ctx) (j : Nat) : (s.modCtx i f).core j = s.core j := rfl
@[simp] theorem State.setDie_core (s : State) (i : Nat) (d : Die) (j : Nat) : (s.setDie i d).core j = s.core j := rfl
@[simp] theorem State.modDie_core (s : State) (i : Nat) (f : Die → Die) (j : Nat) : (s.modDie i f).core j = s.core j := rfl
@[simp] theorem State.modTslot_core (s : State) (t : Nat) (f : TSlot → TSlot) (j : Nat) : (s.modTslot t f).core j = s.core j := rfl
@[simp] theorem State.setHubReg_core (s : State) (o : Nat) (v : Word) (j : Nat) : (s.setHubReg o v).core j = s.core j := rfl
@[simp] theorem State.modMe_core (s : State) (f : Ctx → Ctx) (j : Nat) : (s.modMe f).core j = s.core j := rfl

@[simp] theorem State.setCtx_die (s : State) (i : Nat) (c : Ctx) (j : Nat) : (s.setCtx i c).die j = s.die j := rfl
@[simp] theorem State.modCtx_die (s : State) (i : Nat) (f : Ctx → Ctx) (j : Nat) : (s.modCtx i f).die j = s.die j := rfl
@[simp] theorem State.setCore_die (s : State) (i : Nat) (c : Core) (j : Nat) : (s.setCore i c).die j = s.die j := rfl
@[simp] theorem State.modCore_die (s : State) (i : Nat) (f : Core → Core) (j : Nat) : (s.modCore i f).die j = s.die j := rfl
@[simp] theorem State.modTslot_die (s : State) (t : Nat) (f : TSlot → TSlot) (j : Nat) : (s.modTslot t f).die j = s.die j := rfl
@[simp] theorem State.setHubReg_die (s : State) (o : Nat) (v : Word) (j : Nat) : (s.setHubReg o v).die j = s.die j := rfl
@[simp] theorem State.modMe_die (s : State) (f : Ctx → Ctx) (j : Nat) : (s.modMe f).die j = s.die j := rfl
@[simp] theorem State.modMyCore_die (s : State) (f : Core → Core) (j : Nat) : (s.modMyCore f).die j = s.die j := rfl

@[simp] theorem State.setCtx_tslot (s : State) (i : Nat) (c : Ctx) (j : Nat) : (s.setCtx i c).tslot j = s.tslot j := rfl
@[simp] theorem State.modCtx_tslot (s : State) (i : Nat) (f : Ctx → Ctx) (j : Nat) : (s.modCtx i f).tslot j = s.tslot j := rfl
@[simp] theorem State.setCore_tslot (s : State) (i : Nat) (c : Core) (j : Nat) : (s.setCore i c).tslot j = s.tslot j := rfl
@[simp] theorem State.modCore_tslot (s : State) (i : Nat) (f : Core → Core) (j : Nat) : (s.modCore i f).tslot j = s.tslot j := rfl
@[simp] theorem State.setDie_tslot (s : State) (i : Nat) (d : Die) (j : Nat) : (s.setDie i d).tslot j = s.tslot j := rfl
@[simp] theorem State.modDie_tslot (s : State) (i : Nat) (f : Die → Die) (j : Nat) : (s.modDie i f).tslot j = s.tslot j := rfl
@[simp] theorem State.setHubReg_tslot (s : State) (o : Nat) (v : Word) (j : Nat) : (s.setHubReg o v).tslot j = s.tslot j := rfl
@[simp] theorem State.modMe_tslot (s : State) (f : Ctx → Ctx) (j : Nat) : (s.modMe f).tslot j = s.tslot j := rfl
@[simp] theorem State.modMyCore_tslot (s : State) (f : Core → Core) (j : Nat) : (s.modMyCore f).tslot j = s.tslot j := rfl

@[simp] theorem State.setCtx_gen (s : State) (i : Nat) (c : Ctx) (j : BitVec 4) : (s.setCtx i c).gen j = s.gen j := rfl
@[simp] theorem State.modCtx_gen (s : State) (i : Nat) (f : Ctx → Ctx) (j : BitVec 4) : (s.modCtx i f).gen j = s.gen j := rfl
@[simp] theorem State.setCore_gen (s : State) (i : Nat) (c : Core) (j : BitVec 4) : (s.setCore i c).gen j = s.gen j := rfl
@[simp] theorem State.modCore_gen (s : State) (i : Nat) (f : Core → Core) (j : BitVec 4) : (s.modCore i f).gen j = s.gen j := rfl
@[simp] theorem State.setDie_gen (s : State) (i : Nat) (d : Die) (j : BitVec 4) : (s.setDie i d).gen j = s.gen j := rfl
@[simp] theorem State.modDie_gen (s : State) (i : Nat) (f : Die → Die) (j : BitVec 4) : (s.modDie i f).gen j = s.gen j := rfl
@[simp] theorem State.setHubReg_gen (s : State) (o : Nat) (v : Word) (j : BitVec 4) : (s.setHubReg o v).gen j = s.gen j := rfl
@[simp] theorem State.modMe_gen (s : State) (f : Ctx → Ctx) (j : BitVec 4) : (s.modMe f).gen j = s.gen j := rfl
@[simp] theorem State.modMyCore_gen (s : State) (f : Core → Core) (j : BitVec 4) : (s.modMyCore f).gen j = s.gen j := rfl

@[simp] theorem State.setCtx_hubReg (s : State) (i : Nat) (c : Ctx) (j : Nat) : (s.setCtx i c).hubReg j = s.hubReg j := rfl
@[simp] theorem State.modCtx_hubReg (s : State) (i : Nat) (f : Ctx → Ctx) (j : Nat) : (s.modCtx i f).hubReg j = s.hubReg j := rfl
@[simp] theorem State.setCore_hubReg (s : State) (i : Nat) (c : Core) (j : Nat) : (s.setCore i c).hubReg j = s.hubReg j := rfl
@[simp] theorem State.modCore_hubReg (s : State) (i : Nat) (f : Core → Core) (j : Nat) : (s.modCore i f).hubReg j = s.hubReg j := rfl
@[simp] theorem State.setDie_hubReg (s : State) (i : Nat) (d : Die) (j : Nat) : (s.setDie i d).hubReg j = s.hubReg j := rfl
@[simp] theorem State.modDie_hubReg (s : State) (i : Nat) (f : Die → Die) (j : Nat) : (s.modDie i f).hubReg j = s.hubReg j := rfl
@[simp] theorem State.modTslot_hubReg (s : State) (t : Nat) (f : TSlot → TSlot) (j : Nat) : (s.modTslot t f).hubReg j = s.hubReg j := rfl
@[simp] theorem State.modMe_hubReg (s : State) (f : Ctx → Ctx) (j : Nat) : (s.modMe f).hubReg j = s.hubReg j := rfl
@[simp] theorem State.modMyCore_hubReg (s : State) (f : Core → Core) (j : Nat) : (s.modMyCore f).hubReg j = s.hubReg j := rfl

@[simp] theorem State.setCtx_cid (s : State) (i : Nat) (c : Ctx) : (s.setCtx i c).cid = s.cid := rfl
@[simp] theorem State.modCtx_cid (s : State) (i : Nat) (f : Ctx → Ctx) : (s.modCtx i f).cid = s.cid := rfl
@[simp] theorem State.setCore_cid (s : State) (i : Nat) (c : Core) : (s.setCore i c).cid = s.cid := rfl
@[simp] theorem State.modCore_cid (s : State) (i : Nat) (f : Core → Core) : (s.modCore i f).cid = s.cid := rfl
@[simp] theorem State.setDie_cid (s : State) (i : Nat) (d : Die) : (s.setDie i d).cid = s.cid := rfl
@[simp] theorem State.modDie_cid (s : State) (i : Nat) (f : Die → Die) : (s.modDie i f).cid = s.cid := rfl
@[simp] theorem State.modTslot_cid (s : State) (t : Nat) (f : TSlot → TSlot) : (s.modTslot t f).cid = s.cid := rfl
@[simp] theorem State.setHubReg_cid (s : State) (o : Nat) (v : Word) : (s.setHubReg o v).cid = s.cid := rfl
@[simp] theorem State.modMe_cid (s : State) (f : Ctx → Ctx) : (s.modMe f).cid = s.cid := rfl
@[simp] theorem State.modMyCore_cid (s : State) (f : Core → Core) : (s.modMyCore f).cid = s.cid := rfl

@[simp] theorem State.setCtx_coreSlot (s : State) (i : Nat) (c : Ctx) (j : Nat) : (s.setCtx i c).coreSlot j = s.coreSlot j := rfl
@[simp] theorem State.modCtx_coreSlot (s : State) (i : Nat) (f : Ctx → Ctx) (j : Nat) : (s.modCtx i f).coreSlot j = s.coreSlot j := rfl
@[simp] theorem State.setDie_coreSlot (s : State) (i : Nat) (d : Die) (j : Nat) : (s.setDie i d).coreSlot j = s.coreSlot j := rfl
@[simp] theorem State.modDie_coreSlot (s : State) (i : Nat) (f : Die → Die) (j : Nat) : (s.modDie i f).coreSlot j = s.coreSlot j := rfl
@[simp] theorem State.modTslot_coreSlot (s : State) (t : Nat) (f : TSlot → TSlot) (j : Nat) : (s.modTslot t f).coreSlot j = s.coreSlot j := rfl
@[simp] theorem State.setHubReg_coreSlot (s : State) (o : Nat) (v : Word) (j : Nat) : (s.setHubReg o v).coreSlot j = s.coreSlot j := rfl
@[simp] theorem State.modMe_coreSlot (s : State) (f : Ctx → Ctx) (j : Nat) : (s.modMe f).coreSlot j = s.coreSlot j := rfl

@[simp] theorem State.setCtx_coreGen (s : State) (i : Nat) (c : Ctx) (j : Nat) : (s.setCtx i c).coreGen j = s.coreGen j := rfl
@[simp] theorem State.modCtx_coreGen (s : State) (i : Nat) (f : Ctx → Ctx) (j : Nat) : (s.modCtx i f).coreGen j = s.coreGen j := rfl
@[simp] theorem State.setDie_coreGen (s : State) (i : Nat) (d : Die) (j : Nat) : (s.setDie i d).coreGen j = s.coreGen j := rfl
@[simp] theorem State.modDie_coreGen (s : State) (i : Nat) (f : Die → Die) (j : Nat) : (s.modDie i f).coreGen j = s.coreGen j := rfl
@[simp] theorem State.setHubReg_coreGen (s : State) (o : Nat) (v : Word) (j : Nat) : (s.setHubReg o v).coreGen j = s.coreGen j := rfl
@[simp] theorem State.modMe_coreGen (s : State) (f : Ctx → Ctx) (j : Nat) : (s.modMe f).coreGen j = s.coreGen j := rfl

@[simp] theorem State.setCore_me (s : State) (i : Nat) (c : Core) : (s.setCore i c).me = s.me := rfl
@[simp] theorem State.modCore_me (s : State) (i : Nat) (f : Core → Core) : (s.modCore i f).me = s.me := rfl
@[simp] theorem State.setDie_me (s : State) (i : Nat) (d : Die) : (s.setDie i d).me = s.me := rfl
@[simp] theorem State.modDie_me (s : State) (i : Nat) (f : Die → Die) : (s.modDie i f).me = s.me := rfl
@[simp] theorem State.modTslot_me (s : State) (t : Nat) (f : TSlot → TSlot) : (s.modTslot t f).me = s.me := rfl
@[simp] theorem State.setHubReg_me (s : State) (o : Nat) (v : Word) : (s.setHubReg o v).me = s.me := rfl
@[simp] theorem State.modMyCore_me (s : State) (f : Core → Core) : (s.modMyCore f).me = s.me := rfl

@[simp] theorem State.modMe_me (s : State) (f : Ctx → Ctx) : (s.modMe f).me = f s.me := by
  simp [State.me, State.modMe, State.modCtx, State.ctx, State.setCtx, State.cid]
@[simp] theorem State.modMe_ctx (s : State) (f : Ctx → Ctx) (j : Nat) :
    (s.modMe f).ctx j = if j = s.cid then f s.me else s.ctx j := by simp [State.modMe, State.me]
@[simp] theorem State.modMyCore_myCore (s : State) (f : Core → Core) : (s.modMyCore f).myCore = f s.myCore := by
  simp [State.myCore, State.modMyCore, State.modCore, State.core, State.setCore]
@[simp] theorem State.modMyCore_core (s : State) (f : Core → Core) (j : Nat) :
    (s.modMyCore f).core j = if j = s.cur.core then f s.myCore else s.core j := by simp [State.modMyCore, State.myCore]

end Sys2Proof.Machine
end

