-- ==== Sys2Proof/Laws/Ops.lean ====
section
/-! SUPPORT. What the shared operations can do, said once each: sequencing and settling, the operations of the scalar units,
address formation, and whole writes of registers. -/

namespace Sys2Proof.Machine

/-- A slot operation that succeeds commits. -/
theorem settle_ok {s t : State} {r : Res State} (h : r = .ok t) : settle s r = .next t.commit := by rw [h]; rfl

/-- A slot operation that blocks or traps stops its context. -/
theorem settle_error {s : State} {r : Res State} {x} (h : r = .error x) : settle s r = .next (s.stop x) := by rw [h]; rfl

/-- A slot operation always goes on. -/
theorem settle_next (s : State) (r : Res State) : ∃ t, settle s r = .next t := by
  cases r with
  | ok t => exact ⟨_, rfl⟩
  | error x => exact ⟨_, rfl⟩

/-- Two operations in a row succeed only where both do. -/
theorem bind_ok {α β : Type} {x : Res α} {f : α → Res β} {b : β} (h : (x >>= f) = .ok b) : ∃ a, x = .ok a ∧ f a = .ok b := by
  cases x with
  | error _ => cases h
  | ok a => exact ⟨a, rfl, h⟩

/-- Naming the slot of a trap changes no success. -/
theorem inSlot_ok {α : Type} {k : Nat} {r : Res α} {a : α} (h : inSlot k r = .ok a) : r = .ok a := by
  cases r with
  | ok a => exact h
  | error x => cases x <;> cases h

/-- A legal encoding passes. -/
theorem encOk_ok {i : Instr} (h : i.check = none) : encOk i = .ok () := by simp only [encOk, h]

/-- A legal encoding whose guard predicate is unpoisoned opens, where rrb is unpoisoned or renames nothing (R92, R396). -/
theorem opens_ok {s : State} {i : Instr} (h : i.check = none)
    (hg : ∀ v, i.view = some v → s.guardReady (v.slot == 3 || v.slot == 4) v.g = .ok ())
    (hr : s.intact (.sp 7) = .ok () ∨ ∀ v, i.view = some v → renamed i v = false) : s.opens i = .ok () := by
  simp only [State.opens, encOk_ok h]
  cases e : i.view with
  | none => rfl
  | some v =>
    have q : s.guardReady (v.slot == 3 || v.slot == 4) v.g = .ok () := hg v e
    rcases hr with hr | hr
    · have c : ∀ b : Bool, (if b = true then .ok () else pure () : Res Unit) = .ok () := fun b => by cases b <;> rfl
      simp only [q, hr, c]; rfl
    · simp [q, hr v e]; rfl

/-- A scalar operation with a true guard and readable operands lands what it computes. -/
theorem scalarOp_lands {s : State} {i : Instr} {slot unit lat : Nat} {f : OpS} {out : ScalarArgs → List RegWrite} {a : ScalarArgs}
    (hc : s.opens i = .ok ()) (hg : s.guard f.g = true) (ha : s.scalarArgs unit i.shape f = .ok a) :
    s.scalarOp i slot unit lat f out = .ok (s.land slot unit lat (out a)) := by
  simp only [State.scalarOp, hc, hg, ha]; rfl

/-- A scalar operation with a false guard does nothing. -/
theorem scalarOp_guarded {s : State} {i : Instr} {slot unit lat : Nat} {f : OpS} {out : ScalarArgs → List RegWrite}
    (hc : s.opens i = .ok ()) (hg : s.guard f.g = false) : s.scalarOp i slot unit lat f out = .ok s := by
  simp only [State.scalarOp, hc, hg]; rfl

/-- A scalar operation that succeeds has done nothing or put its result in flight. -/
theorem scalarOp_cases {s t : State} {i : Instr} {slot unit lat : Nat} {f : OpS} {out : ScalarArgs → List RegWrite}
    (h : s.scalarOp i slot unit lat f out = .ok t) :
    (s.guard f.g = false ∧ t = s) ∨
      ∃ a, s.guard f.g = true ∧ s.scalarArgs unit i.shape f = .ok a ∧ t = s.land slot unit lat (out a) := by
  have h := inSlot_ok h
  obtain ⟨_, _, h⟩ := bind_ok h
  split at h
  · rename_i hg; left; cases h; exact ⟨by simpa using hg, rfl⟩
  · rename_i hg
    obtain ⟨a, ha, h⟩ := bind_ok h
    cases h; exact .inr ⟨a, by simpa using hg, ha, rfl⟩

/-- A predicate operation that succeeds has done nothing or put its predicate in flight. -/
theorem predOp_cases {s t : State} {i : Instr} {d : BitVec 5} {f : OpS} {r : Src → Src → Bool} (h : s.predOp i d f r = .ok t) :
    t = s ∨ ∃ b, t = s.land 0 3 1 [wrP d.toNat b] := by
  have h := inSlot_ok h
  obtain ⟨_, _, h⟩ := bind_ok h
  split at h
  · left; cases h; rfl
  · obtain ⟨a, _, h⟩ := bind_ok h
    split at h
    · cases h; exact .inr ⟨_, rfl⟩
    · obtain ⟨b, _, h⟩ := bind_ok h
      cases h; exact .inr ⟨_, rfl⟩

/-- Writing a context twice is writing it once. -/
theorem Tab.set_set {α : Type} (t : Tab α) (k : Nat) (v w : α) : Tab.set (Tab.set t k v) k w = Tab.set t k w := by
  induction t with
  | nil => simp [Tab.set]
  | cons x r ih =>
    obtain ⟨j, y⟩ := x
    rcases Nat.lt_trichotomy k j with h | h | h
    · simp [Tab.set, h]
    · subst h; simp [Tab.set]
    · simp [Tab.set, Nat.not_lt.2 h.le, Nat.ne_of_gt h, ih]

/-- Two changes of the issuing context are one. -/
theorem State.modMe_modMe (s : State) (f g : Ctx → Ctx) : (s.modMe f).modMe g = s.modMe fun c => g (f c) := by
  simp only [State.modMe, State.modCtx, State.setCtx, State.ctx, State.cid, Tab.get_set_same, Tab.set_set]

/-- A divide that succeeds has done nothing or put its results in flight and taken the divider. -/
theorem divOp_cases {s t : State} {i : Instr} {f : OpS} {r : Word → Word → Word × Word} (h : s.divOp i f r = .ok t) :
    t = s ∨ ∃ a, s.me.divFree ≤ s.cycle ∧ s.scalarArgs 2 i.shape f = .ok a ∧
      t = (s.land 1 divUnit 34 (s.mulWrites f.w (r a.t a.o))).modMe fun c => { c with divFree := s.cycle + 34 } := by
  have h := inSlot_ok h
  obtain ⟨_, _, h⟩ := bind_ok h
  split at h
  · left; cases h; rfl
  · obtain ⟨a, ha, h⟩ := bind_ok h
    split at h
    · cases h
    · rename_i hd; cases h; exact .inr ⟨a, by omega, ha, rfl⟩

/-- A valid handle in an unpoisoned register may be used. -/
theorem useHandle_valid {s : State} {n : Nat} {ea : Handle → Nat} (h : (s.handle n).st = .valid)
    (hi : n = 15 ∨ s.intact (.h n) = .ok ()) : s.useHandle n ea = .ok (s.handle n) := by
  have q : (if n = 15 then .ok () else s.intact (.h n) : Res Unit) = .ok () := by
    split
    · rfl
    · exact hi.resolve_left ‹_›
  have r : ∀ a, s.handleReady n (s.handle n) a = .ok () := fun a => by simp only [State.handleReady, h]
  simp only [State.useHandle, q, r]; rfl

/-- Address formation that succeeds: the handle is valid, the access lies in its page, is aligned and allowed, and the place is
the offset in the scratchpad or the page's own address (R123). -/
theorem formAddr_ok {h : Handle} {off : Word} {disp : Int} {unit n a : Nat} {rd wr spadOnly remote atomic : Bool} {e p : Nat}
    (x : formAddr h off disp unit n a rd wr spadOnly remote atomic = .ok (e, p)) :
    let base := h.va.toNat / pageBytes h.ps.toNat * pageBytes h.ps.toNat
    h.st = .valid ∧ e = wrap 64 ((h.va.toNat : Int) + off.toInt + disp * unit) ∧ base ≤ e ∧
    e + n ≤ base + pageBytes h.ps.toNat ∧ e % a = 0 ∧ (rd = true → h.rd = true) ∧ (wr = true → h.wr = true) ∧
    p = if h.ps = 15 then e else h.pfn.toNat * 4096 + (e - base) := by
  intro base
  rw [formAddr] at x
  split at x; · cases x
  rename_i h1; split at x; · cases x
  rename_i h2; split at x; · cases x
  split at x; · cases x
  split at x; · cases x
  split at x; · cases x
  rename_i h4; split at x; · cases x
  rename_i h5; split at x; · cases x
  rename_i h6; split at x; · cases x
  rename_i h7
  simp only [Except.ok.injEq, Prod.mk.injEq] at x
  obtain ⟨rfl, rfl⟩ := x
  push Not at h2 h4 h5
  refine ⟨?_, rfl, h4.1, h4.2, h5, fun y => by simpa [y] using h6, fun y => by simpa [y] using h7, rfl⟩
  cases hs : h.st
  · exact absurd hs h1
  · exact absurd hs h2.1
  · rfl
  · exact absurd hs h2.2

/-- A write of every bit merges to the value written. -/
theorem mergeLow_full {n : Nat} (old : BitVec n) {w : RegWrite} (h : w.mask = fullMask) (hn : n ≤ 1024) :
    mergeLow n old w = w.val.data.setWidth n := by
  simp only [mergeLow, h, fullMask]
  ext i hi
  have h1 : i < 1024 := by omega
  simp only [BitVec.getElem_or, BitVec.getElem_and, BitVec.getElem_not, BitVec.getElem_setWidth, BitVec.getLsbD_allOnes, h1,
    decide_true, Bool.not_true, Bool.and_false, Bool.and_true, Bool.false_or]

/-- A whole write of a wide register with its tag. -/
theorem mergeWide_full (old : Wide) {w : RegWrite} (h : w.mask = fullMask) (ht : w.tag = true) : mergeWide old w = w.val := by
  simp only [mergeWide, h, ht, fullMask, if_true, BitVec.and_allOnes, BitVec.not_allOnes, BitVec.and_zero, BitVec.zero_or]

/-- A result put in flight changes the flights of the issuing context alone. -/
theorem State.land_me (s : State) (slot unit lat : Nat) (ws : List RegWrite) :
    (s.land slot unit lat ws).me = { s.me with flight := insertLanding ⟨s.cycle + lat, s.cur.seq, slot, unit, ws⟩ s.me.flight } := by
  simp [State.land]

end Sys2Proof.Machine
end

