-- ==== Sys2Proof/Laws/PerInstr.lean ====
section
/-! SUPPORT. The encoding of each instruction, one lemma for each constructor: a well-formed slot operation, encoded,
decodes in its slot to itself (R61 to R83); an event has no encoding. -/

namespace Sys2Proof.Laws

theorem bits_guard (v : View) : slotGuard v.bits = v.g := by
  have h1 : v.bits.extractLsb' 0 5 = v.g.gp := by
    simp only [View.bits]; rw [BitVec.extractLsb'_append_eq_of_add_le (by decide)]; simp
  have h2 : v.bits.getLsbD 5 = v.g.gn := by
    simp only [View.bits, BitVec.getLsbD_append]; simp
  simp only [slotGuard, h1, h2]
theorem bits_src (v : View) : slotSrc v.bits = v.src := by
  simp only [slotSrc, View.bits]
  rw [BitVec.extractLsb'_append_eq_of_le (by decide), BitVec.extractLsb'_append_eq_of_le (by decide),
    BitVec.extractLsb'_append_eq_of_add_le (by decide)]
  simp
theorem bits_dst (v : View) : slotDst v.bits = v.dst := by
  simp only [slotDst, View.bits]
  rw [BitVec.extractLsb'_append_eq_of_le (by decide), BitVec.extractLsb'_append_eq_of_le (by decide),
    BitVec.extractLsb'_append_eq_of_le (by decide), BitVec.extractLsb'_append_eq_of_add_le (by decide)]
  simp
theorem bits_op (v : View) (h : v.op < 256) : slotOp v.bits = v.op := by
  simp only [slotOp, View.bits]
  rw [BitVec.extractLsb'_append_eq_of_le (by decide), BitVec.extractLsb'_append_eq_of_le (by decide),
    BitVec.extractLsb'_append_eq_of_le (by decide), BitVec.extractLsb'_append_eq_of_le (by decide),
    BitVec.extractLsb'_append_eq_of_add_le (by decide)]
  simpa using h
theorem bits_aux (v : View) : slotAux v.bits = auxBits v.aux := by
  simp only [slotAux, View.bits]
  rw [BitVec.extractLsb'_append_eq_of_le (by decide), BitVec.extractLsb'_append_eq_of_le (by decide),
    BitVec.extractLsb'_append_eq_of_le (by decide), BitVec.extractLsb'_append_eq_of_le (by decide),
    BitVec.extractLsb'_append_eq_of_le (by decide)]
  simp
theorem ofBits_s (slot unit op : Nat) (f : OpS) : OpS.ofBits (View.ofS slot unit op f).bits = f := by
  obtain ⟨g, t, o, ol, w⟩ := f
  have ho : (BitVec.ofBool ol ++ w ++ o).extractLsb' 0 9 = o := by
    rw [BitVec.extractLsb'_append_eq_of_add_le (by decide)]; simp
  have hl : (BitVec.ofBool ol ++ w ++ o).getLsbD 15 = ol := by simp only [BitVec.getLsbD_append]; simp
  have hw : (BitVec.ofBool ol ++ w ++ o).extractLsb' 9 6 = w := by
    rw [BitVec.extractLsb'_append_eq_of_le (by decide), BitVec.extractLsb'_append_eq_of_add_le (by decide)]; simp
  simp only [OpS.ofBits, bits_guard, bits_src, bits_aux, View.ofS, auxBits, ho, hl, hw]
theorem ofBits_m (unit op : Nat) (f : OpM) : OpM.ofBits (View.ofM unit op f).bits = f := by
  obtain ⟨g, t, d, w, h⟩ := f
  have hd : (d ++ w ++ h).extractLsb' 10 6 = d := by
    rw [BitVec.extractLsb'_append_eq_of_le (by decide), BitVec.extractLsb'_append_eq_of_le (by decide)]; simp
  have hw : (d ++ w ++ h).extractLsb' 4 6 = w := by
    rw [BitVec.extractLsb'_append_eq_of_le (by decide), BitVec.extractLsb'_append_eq_of_add_le (by decide)]; simp
  have hh : (d ++ w ++ h).extractLsb' 0 4 = h := by
    rw [BitVec.extractLsb'_append_eq_of_add_le (by decide)]; simp
  simp only [OpM.ofBits, bits_guard, bits_src, bits_aux, View.ofM, auxBits, hd, hw, hh]
theorem ofBits_t (unit op : Nat) (f : OpT) : OpT.ofBits (View.ofT unit op f).bits = f ∧
    ((slotAux (View.ofT unit op f).bits).extractLsb' 13 3 == 0) = true := by
  obtain ⟨g, t, m, a, b⟩ := f
  have hm : (0#3 ++ m ++ a ++ b).extractLsb' 11 2 = m := by
    rw [BitVec.extractLsb'_append_eq_of_le (by decide), BitVec.extractLsb'_append_eq_of_le (by decide),
      BitVec.extractLsb'_append_eq_of_add_le (by decide)]; simp
  have ha : (0#3 ++ m ++ a ++ b).extractLsb' 7 4 = a := by
    rw [BitVec.extractLsb'_append_eq_of_le (by decide), BitVec.extractLsb'_append_eq_of_add_le (by decide)]; simp
  have hb : (0#3 ++ m ++ a ++ b).extractLsb' 0 7 = b := by
    rw [BitVec.extractLsb'_append_eq_of_add_le (by decide)]; simp
  have hz : (0#3 ++ m ++ a ++ b).extractLsb' 13 3 = 0 := by
    rw [BitVec.extractLsb'_append_eq_of_le (by decide), BitVec.extractLsb'_append_eq_of_le (by decide),
      BitVec.extractLsb'_append_eq_of_le (by decide)]; simp
  constructor
  · simp only [OpT.ofBits, bits_guard, bits_src, bits_aux, View.ofT, auxBits, hm, ha, hb]
  · simp only [bits_aux, View.ofT, auxBits, hz]; rfl
theorem decodeSlot_of {i : Instr} {v : View} (hv : i.view = some v) (hw : i.wf = true)
    (hc : decodeCandidate v.slot v.bits = (some i, true)) (hk : classOk v.slot v.bits = true)
    (ho : ∀ f, v.aux = .s f → formatSV v.slot = true) : decodeSlot v.slot v.bits = .ok i := by
  have hn : i.check = none := by
    simp only [Instr.wf, Bool.and_eq_true, beq_iff_eq] at hw; exact hw.1
  have h : slotCheck v i.shape i.opDefined i.extraOk = none := by
    simpa only [Instr.check, hv] using hn
  have hp : slotOPort v.slot v.bits = oPort v.aux i.shape := by
    simp only [slotOPort, hc, hv]
    cases hf : formatSV v.slot with
    | true => rfl
    | false =>
      cases ha : v.aux with
      | s f => rw [ho f ha] at hf; cases hf
      | m f => rfl
      | t f => rfl
      | move => rfl
  simp only [slotCheck] at h
  split at h
  · cases h
  rename_i h1
  split at h
  · cases h
  rename_i h2
  split at h
  · cases h
  rename_i h3
  split at h
  · cases h
  rename_i h4
  simp only [decodeSlot, bits_guard, bits_src, bits_dst, hp, hk, hc, hn, if_neg h1, if_neg h2, if_neg h3, if_neg h4]
  rfl

/-- A trigger in format S or V. -/
theorem round_s {i : Instr} {slot unit op : Nat} {f : OpS} (hv : i.view = some (.ofS slot unit op f))
    (hd : dstKind (BitVec.ofNat 9 (0x101 + 2 * unit)) = some (.trigger unit)) (hu : unitSlot unit = slot)
    (h5 : slot ≠ 5 ∧ slot ≠ 2)
    (hop : op < 256) (ht : ∀ x, OpS.ofBits x = f → decodeTrigger unit op x = some i) (hw : i.wf = true) :
    decodeSlot slot (View.ofS slot unit op f).bits = .ok i := by
  have h1 : slotDst (View.ofS slot unit op f).bits = BitVec.ofNat 9 (0x101 + 2 * unit) := bits_dst _
  have h2 : slotOp (View.ofS slot unit op f).bits = op := bits_op _ hop
  refine decodeSlot_of (v := View.ofS slot unit op f) hv hw ?_ ?_ ?_
  · rw [decodeCandidate, h1, hd]; simp only [h2, ht _ (ofBits_s slot unit op f), hu, ne_eq, h5.1, not_false_eq_true,
      decide_true, Bool.true_or]
  · rw [classOk, h1, hd]; exact beq_iff_eq.2 hu
  · intro g _; simp [formatSV, View.ofS, h5.1, h5.2]

/-- A trigger in format M. -/
theorem round_m {i : Instr} {unit op : Nat} {f : OpM} (hv : i.view = some (.ofM unit op f))
    (hd : dstKind (BitVec.ofNat 9 (0x101 + 2 * unit)) = some (.trigger unit)) (hu : unitSlot unit = 2)
    (hop : op < 256) (ht : ∀ x, OpM.ofBits x = f → decodeTrigger unit op x = some i) (hw : i.wf = true) :
    decodeSlot 2 (View.ofM unit op f).bits = .ok i := by
  have h1 : slotDst (View.ofM unit op f).bits = BitVec.ofNat 9 (0x101 + 2 * unit) := bits_dst _
  have h2 : slotOp (View.ofM unit op f).bits = op := bits_op _ hop
  refine decodeSlot_of (v := View.ofM unit op f) hv hw ?_ ?_ ?_
  · rw [decodeCandidate, h1, hd]; simp only [h2, ht _ (ofBits_m unit op f), hu]; rfl
  · rw [classOk, h1, hd]; exact beq_iff_eq.2 hu
  · intro g h; simp [View.ofM] at h

/-- A trigger in format T. -/
theorem round_t {i : Instr} {unit op : Nat} {f : OpT} (hv : i.view = some (.ofT unit op f))
    (hd : dstKind (BitVec.ofNat 9 (0x101 + 2 * unit)) = some (.trigger unit)) (hu : unitSlot unit = 5)
    (hop : op < 256) (ht : ∀ x, OpT.ofBits x = f → decodeTrigger unit op x = some i) (hw : i.wf = true) :
    decodeSlot 5 (View.ofT unit op f).bits = .ok i := by
  have h1 : slotDst (View.ofT unit op f).bits = BitVec.ofNat 9 (0x101 + 2 * unit) := bits_dst _
  have h2 : slotOp (View.ofT unit op f).bits = op := bits_op _ hop
  refine decodeSlot_of (v := View.ofT unit op f) hv hw ?_ ?_ ?_
  · rw [decodeCandidate, h1, hd]; simp only [h2, ht _ (ofBits_t unit op f).1, (ofBits_t unit op f).2, Bool.or_true]
  · rw [classOk, h1, hd]; exact beq_iff_eq.2 hu
  · intro g h; simp [View.ofT] at h

/-- A plain move. -/
theorem round_move {i : Instr} {op : Nat} {m : OpMove} (hv : i.view = some (.ofMove op m))
    (hd : ∀ u, dstKind m.dst ≠ some (.trigger u)) (hop : op < 256)
    (ht : ∀ x, slotOp x = op → slotGuard x = m.g → slotSrc x = m.src → slotDst x = m.dst →
      decodeMove m.slot.toNat x = some i) (hw : i.wf = true) :
    decodeSlot m.slot.toNat (View.ofMove op m).bits = .ok i := by
  have hb := bits_dst (View.ofMove op m)
  refine decodeSlot_of hv hw ?_ ?_ ?_
  · have ha : slotAux (View.ofMove op m).bits = 0 := bits_aux _
    rw [decodeCandidate, hb]
    have : (View.ofMove op m).dst = m.dst := rfl
    rw [this]
    split
    · rename_i u h; exact absurd h (hd u)
    · rw [ha]; exact congrArg₂ Prod.mk (ht _ (bits_op _ hop) (bits_guard _) (bits_src _) hb) rfl
  · rw [classOk, hb]
    split
    · rename_i u h; exact absurd h (hd u)
    · rfl
  · intro g h; simp [View.ofMove] at h

/-- A well-formed slot operation, encoded, decodes in its slot to itself (R61 to R83). -/
def Encoding.Statement (i : Instr) : Prop :=
  ∀ k x, encode i = some (k, x) → i.wf = true → decodeSlot k x = .ok i

theorem statement_of {i : Instr} {v : View} (hv : i.view = some v)
    (h : i.wf = true → decodeSlot v.slot v.bits = .ok i) : Encoding.Statement i := by
  intro k x e w
  simp only [encode, hv, Option.map_some, Option.some.injEq, Prod.mk.injEq] at e
  rw [← e.1, ← e.2]; exact h w

theorem bv_nat {w : Nat} (x : BitVec w) : ∃ n, n < 2 ^ w ∧ x = BitVec.ofNat w n := ⟨x.toNat, x.isLt, by simp⟩

theorem statement_event {i : Instr} (hv : i.view = none) : Encoding.Statement i := by
  intro k x e _; simp [encode, hv] at e

theorem opDefined_of {i : Instr} {v : View} (hv : i.view = some v) (hw : i.wf = true) : i.opDefined = true := by
  have hn : slotCheck v i.shape i.opDefined i.extraOk = none := by
    simp only [Instr.wf, Bool.and_eq_true, beq_iff_eq, Instr.check, hv] at hw; exact hw.1
  simp only [slotCheck] at hn
  split_ifs at hn with _ _ _ _ h
  simpa using h

theorem enc_s {i : Instr} {slot unit op : Nat} {f : OpS} (hv : i.view = some (.ofS slot unit op f))
    (hd : dstKind (BitVec.ofNat 9 (0x101 + 2 * unit)) = some (.trigger unit)) (hu : unitSlot unit = slot)
    (h5 : slot ≠ 5 ∧ slot ≠ 2) (hop : op < 256) (ht : ∀ x, OpS.ofBits x = f → decodeTrigger unit op x = some i) :
    Encoding.Statement i := statement_of hv (round_s hv hd hu h5 hop ht)

theorem enc_m {i : Instr} {unit op : Nat} {f : OpM} (hv : i.view = some (.ofM unit op f))
    (hd : dstKind (BitVec.ofNat 9 (0x101 + 2 * unit)) = some (.trigger unit)) (hu : unitSlot unit = 2)
    (hop : op < 256) (ht : ∀ x, OpM.ofBits x = f → decodeTrigger unit op x = some i) :
    Encoding.Statement i := statement_of hv (round_m hv hd hu hop ht)

theorem enc_t {i : Instr} {unit op : Nat} {f : OpT} (hv : i.view = some (.ofT unit op f))
    (hd : dstKind (BitVec.ofNat 9 (0x101 + 2 * unit)) = some (.trigger unit)) (hu : unitSlot unit = 5)
    (hop : op < 256) (ht : ∀ x, OpT.ofBits x = f → decodeTrigger unit op x = some i) :
    Encoding.Statement i := statement_of hv (round_t hv hd hu hop ht)

theorem extraOk_of {i : Instr} {v : View} (hv : i.view = some v) (hw : i.wf = true) : i.extraOk = true := by
  have hn : slotCheck v i.shape i.opDefined i.extraOk = none := by
    simp only [Instr.wf, Bool.and_eq_true, beq_iff_eq, Instr.check, hv] at hw; exact hw.1
  simp only [slotCheck] at hn
  split_ifs at hn with _ _ _ _ _ h
  simp only [Bool.not_eq_true', Bool.not_eq_false, Bool.and_eq_true] at h
  exact h.2

theorem Encoding.nop : Encoding.Statement .nop := by
  intro k x e _; simp only [encode, Instr.view, Option.map_some, Option.some.injEq, Prod.mk.injEq] at e
  rw [← e.1, ← e.2]; decide
theorem Encoding.move (m : OpMove) : Encoding.Statement (.move m) := by
  refine statement_of rfl fun w => ?_
  have h := extraOk_of rfl w
  simp only [Instr.extraOk, Bool.and_eq_true] at h
  refine round_move rfl ?_ (by decide) ?_ w
  · intro u hu; rw [hu] at h; simp at h
  · intro x h0 h1 h2 h3
    have hx : x ≠ 0 := by
      intro hx; subst hx
      have h4 := h.2
      rw [← h1, ← h2, ← h3] at h4
      exact absurd h4 (by decide)
    obtain ⟨a, b, c, d⟩ := m
    simp only at h1 h2 h3
    rw [decodeMove, h0]; simp only [if_neg hx, h1, h2, h3]; simp
theorem Encoding.moveSplat (m : OpMove) : Encoding.Statement (.moveSplat m) := by
  refine statement_of rfl fun w => ?_
  have h := extraOk_of rfl w
  simp only [Instr.extraOk] at h
  refine round_move rfl ?_ (by decide) ?_ w
  · intro u hu; rw [hu] at h; cases h
  · intro x h0 h1 h2 h3
    obtain ⟨a, b, c, d⟩ := m
    simp only at h1 h2 h3
    simp [decodeMove, h0, h1, h2, h3]
theorem Encoding.moveHi (m : OpMove) : Encoding.Statement (.moveHi m) := by
  refine statement_of rfl fun w => ?_
  have h := extraOk_of rfl w
  simp only [Instr.extraOk] at h
  refine round_move rfl ?_ (by decide) ?_ w
  · intro u hu; rw [hu] at h; cases h
  · intro x h0 h1 h2 h3
    obtain ⟨a, b, c, d⟩ := m
    simp only at h1 h2 h3
    simp [decodeMove, h0, h1, h2, h3]
theorem Encoding.add (u : AluUnit) (f : OpS) : Encoding.Statement (.add u f) := by
  cases u <;> exact enc_s rfl rfl rfl (by decide) (by decide) (by rintro _ rfl; rfl)
theorem Encoding.sub (u : AluUnit) (f : OpS) : Encoding.Statement (.sub u f) := by
  cases u <;> exact enc_s rfl rfl rfl (by decide) (by decide) (by rintro _ rfl; rfl)
theorem Encoding.and (u : AluUnit) (f : OpS) : Encoding.Statement (.and u f) := by
  cases u <;> exact enc_s rfl rfl rfl (by decide) (by decide) (by rintro _ rfl; rfl)
theorem Encoding.or (u : AluUnit) (f : OpS) : Encoding.Statement (.or u f) := by
  cases u <;> exact enc_s rfl rfl rfl (by decide) (by decide) (by rintro _ rfl; rfl)
theorem Encoding.xor (u : AluUnit) (f : OpS) : Encoding.Statement (.xor u f) := by
  cases u <;> exact enc_s rfl rfl rfl (by decide) (by decide) (by rintro _ rfl; rfl)
theorem Encoding.andn (u : AluUnit) (f : OpS) : Encoding.Statement (.andn u f) := by
  cases u <;> exact enc_s rfl rfl rfl (by decide) (by decide) (by rintro _ rfl; rfl)
theorem Encoding.orn (u : AluUnit) (f : OpS) : Encoding.Statement (.orn u f) := by
  cases u <;> exact enc_s rfl rfl rfl (by decide) (by decide) (by rintro _ rfl; rfl)
theorem Encoding.shl (u : AluUnit) (f : OpS) : Encoding.Statement (.shl u f) := by
  cases u <;> exact enc_s rfl rfl rfl (by decide) (by decide) (by rintro _ rfl; rfl)
theorem Encoding.shr (u : AluUnit) (f : OpS) : Encoding.Statement (.shr u f) := by
  cases u <;> exact enc_s rfl rfl rfl (by decide) (by decide) (by rintro _ rfl; rfl)
theorem Encoding.sra (u : AluUnit) (f : OpS) : Encoding.Statement (.sra u f) := by
  cases u <;> exact enc_s rfl rfl rfl (by decide) (by decide) (by rintro _ rfl; rfl)
theorem Encoding.ror (u : AluUnit) (f : OpS) : Encoding.Statement (.ror u f) := by
  cases u <;> exact enc_s rfl rfl rfl (by decide) (by decide) (by rintro _ rfl; rfl)
theorem Encoding.min (u : AluUnit) (f : OpS) : Encoding.Statement (.min u f) := by
  cases u <;> exact enc_s rfl rfl rfl (by decide) (by decide) (by rintro _ rfl; rfl)
theorem Encoding.max (u : AluUnit) (f : OpS) : Encoding.Statement (.max u f) := by
  cases u <;> exact enc_s rfl rfl rfl (by decide) (by decide) (by rintro _ rfl; rfl)
theorem Encoding.minn (u : AluUnit) (f : OpS) : Encoding.Statement (.minn u f) := by
  cases u <;> exact enc_s rfl rfl rfl (by decide) (by decide) (by rintro _ rfl; rfl)
theorem Encoding.maxn (u : AluUnit) (f : OpS) : Encoding.Statement (.maxn u f) := by
  cases u <;> exact enc_s rfl rfl rfl (by decide) (by decide) (by rintro _ rfl; rfl)
theorem Encoding.sel (u : AluUnit) (f : OpS) : Encoding.Statement (.sel u f) := by
  cases u <;> exact enc_s rfl rfl rfl (by decide) (by decide) (by rintro _ rfl; rfl)
theorem Encoding.sext8 (u : AluUnit) (f : OpS) : Encoding.Statement (.sext8 u f) := by
  cases u <;> exact enc_s rfl rfl rfl (by decide) (by decide) (by rintro _ rfl; rfl)
theorem Encoding.sext16 (u : AluUnit) (f : OpS) : Encoding.Statement (.sext16 u f) := by
  cases u <;> exact enc_s rfl rfl rfl (by decide) (by decide) (by rintro _ rfl; rfl)
theorem Encoding.sext32 (u : AluUnit) (f : OpS) : Encoding.Statement (.sext32 u f) := by
  cases u <;> exact enc_s rfl rfl rfl (by decide) (by decide) (by rintro _ rfl; rfl)
theorem Encoding.zext8 (u : AluUnit) (f : OpS) : Encoding.Statement (.zext8 u f) := by
  cases u <;> exact enc_s rfl rfl rfl (by decide) (by decide) (by rintro _ rfl; rfl)
theorem Encoding.zext16 (u : AluUnit) (f : OpS) : Encoding.Statement (.zext16 u f) := by
  cases u <;> exact enc_s rfl rfl rfl (by decide) (by decide) (by rintro _ rfl; rfl)
theorem Encoding.zext32 (u : AluUnit) (f : OpS) : Encoding.Statement (.zext32 u f) := by
  cases u <;> exact enc_s rfl rfl rfl (by decide) (by decide) (by rintro _ rfl; rfl)
theorem Encoding.clz (u : AluUnit) (f : OpS) : Encoding.Statement (.clz u f) := by
  cases u <;> exact enc_s rfl rfl rfl (by decide) (by decide) (by rintro _ rfl; rfl)
theorem Encoding.ctz (u : AluUnit) (f : OpS) : Encoding.Statement (.ctz u f) := by
  cases u <;> exact enc_s rfl rfl rfl (by decide) (by decide) (by rintro _ rfl; rfl)
theorem Encoding.popc (u : AluUnit) (f : OpS) : Encoding.Statement (.popc u f) := by
  cases u <;> exact enc_s rfl rfl rfl (by decide) (by decide) (by rintro _ rfl; rfl)
theorem Encoding.bfx (u : AluUnit) (f : OpS) : Encoding.Statement (.bfx u f) := by
  cases u <;> exact enc_s rfl rfl rfl (by decide) (by decide) (by rintro _ rfl; rfl)
theorem Encoding.bfi (u : AluUnit) (f : OpS) : Encoding.Statement (.bfi u f) := by
  cases u <;> exact enc_s rfl rfl rfl (by decide) (by decide) (by rintro _ rfl; rfl)
theorem Encoding.addsh (u : AluUnit) (f : OpS) : Encoding.Statement (.addsh u f) := by
  cases u <;> exact enc_s rfl rfl rfl (by decide) (by decide) (by rintro _ rfl; rfl)
theorem Encoding.ceq (u : AluUnit) (k : BitVec 4) (f : OpS) : Encoding.Statement (.ceq u k f) := by
  obtain ⟨m, h, rfl⟩ := bv_nat k
  cases u <;> interval_cases m <;> exact enc_s rfl rfl rfl (by decide) (by decide) (by rintro _ rfl; rfl)
theorem Encoding.cne (u : AluUnit) (k : BitVec 4) (f : OpS) : Encoding.Statement (.cne u k f) := by
  obtain ⟨m, h, rfl⟩ := bv_nat k
  cases u <;> interval_cases m <;> exact enc_s rfl rfl rfl (by decide) (by decide) (by rintro _ rfl; rfl)
theorem Encoding.clt (u : AluUnit) (k : BitVec 4) (f : OpS) : Encoding.Statement (.clt u k f) := by
  obtain ⟨m, h, rfl⟩ := bv_nat k
  cases u <;> interval_cases m <;> exact enc_s rfl rfl rfl (by decide) (by decide) (by rintro _ rfl; rfl)
theorem Encoding.cle (u : AluUnit) (k : BitVec 4) (f : OpS) : Encoding.Statement (.cle u k f) := by
  obtain ⟨m, h, rfl⟩ := bv_nat k
  cases u <;> interval_cases m <;> exact enc_s rfl rfl rfl (by decide) (by decide) (by rintro _ rfl; rfl)
theorem Encoding.cltn (u : AluUnit) (k : BitVec 4) (f : OpS) : Encoding.Statement (.cltn u k f) := by
  obtain ⟨m, h, rfl⟩ := bv_nat k
  cases u <;> interval_cases m <;> exact enc_s rfl rfl rfl (by decide) (by decide) (by rintro _ rfl; rfl)
theorem Encoding.clen (u : AluUnit) (k : BitVec 4) (f : OpS) : Encoding.Statement (.clen u k f) := by
  obtain ⟨m, h, rfl⟩ := bv_nat k
  cases u <;> interval_cases m <;> exact enc_s rfl rfl rfl (by decide) (by decide) (by rintro _ rfl; rfl)
theorem Encoding.mul (f : OpS) : Encoding.Statement (.mul f) :=
  enc_s rfl rfl rfl (by decide) (by decide) (by rintro _ rfl; rfl)
theorem Encoding.mulh (f : OpS) : Encoding.Statement (.mulh f) :=
  enc_s rfl rfl rfl (by decide) (by decide) (by rintro _ rfl; rfl)
theorem Encoding.mulhn (f : OpS) : Encoding.Statement (.mulhn f) :=
  enc_s rfl rfl rfl (by decide) (by decide) (by rintro _ rfl; rfl)
theorem Encoding.div (f : OpS) : Encoding.Statement (.div f) :=
  enc_s rfl rfl rfl (by decide) (by decide) (by rintro _ rfl; rfl)
theorem Encoding.divn (f : OpS) : Encoding.Statement (.divn f) :=
  enc_s rfl rfl rfl (by decide) (by decide) (by rintro _ rfl; rfl)
theorem Encoding.rem (f : OpS) : Encoding.Statement (.rem f) :=
  enc_s rfl rfl rfl (by decide) (by decide) (by rintro _ rfl; rfl)
theorem Encoding.remn (f : OpS) : Encoding.Statement (.remn f) :=
  enc_s rfl rfl rfl (by decide) (by decide) (by rintro _ rfl; rfl)
theorem Encoding.pand (d : BitVec 5) (f : OpS) : Encoding.Statement (.pand d f) := by
  obtain ⟨m, h, rfl⟩ := bv_nat d
  interval_cases m <;>
    first
    | exact enc_s rfl rfl rfl (by decide) (by decide) (by rintro _ rfl; rfl)
    | exact statement_of rfl fun w => absurd (opDefined_of rfl w) (Bool.eq_false_iff.1 rfl)
theorem Encoding.por (d : BitVec 5) (f : OpS) : Encoding.Statement (.por d f) := by
  obtain ⟨m, h, rfl⟩ := bv_nat d
  interval_cases m <;>
    first
    | exact enc_s rfl rfl rfl (by decide) (by decide) (by rintro _ rfl; rfl)
    | exact statement_of rfl fun w => absurd (opDefined_of rfl w) (Bool.eq_false_iff.1 rfl)
theorem Encoding.pxor (d : BitVec 5) (f : OpS) : Encoding.Statement (.pxor d f) := by
  obtain ⟨m, h, rfl⟩ := bv_nat d
  interval_cases m <;>
    first
    | exact enc_s rfl rfl rfl (by decide) (by decide) (by rintro _ rfl; rfl)
    | exact statement_of rfl fun w => absurd (opDefined_of rfl w) (Bool.eq_false_iff.1 rfl)
theorem Encoding.pnot (d : BitVec 5) (f : OpS) : Encoding.Statement (.pnot d f) := by
  obtain ⟨m, h, rfl⟩ := bv_nat d
  interval_cases m <;>
    first
    | exact enc_s rfl rfl rfl (by decide) (by decide) (by rintro _ rfl; rfl)
    | exact statement_of rfl fun w => absurd (opDefined_of rfl w) (Bool.eq_false_iff.1 rfl)
theorem Encoding.pset (d : BitVec 5) (f : OpS) : Encoding.Statement (.pset d f) := by
  obtain ⟨m, h, rfl⟩ := bv_nat d
  interval_cases m <;>
    first
    | exact enc_s rfl rfl rfl (by decide) (by decide) (by rintro _ rfl; rfl)
    | exact statement_of rfl fun w => absurd (opDefined_of rfl w) (Bool.eq_false_iff.1 rfl)
theorem Encoding.vany (d : BitVec 5) (f : OpS) : Encoding.Statement (.vany d f) := by
  obtain ⟨m, h, rfl⟩ := bv_nat d
  interval_cases m <;>
    first
    | exact enc_s rfl rfl rfl (by decide) (by decide) (by rintro _ rfl; rfl)
    | exact statement_of rfl fun w => absurd (opDefined_of rfl w) (Bool.eq_false_iff.1 rfl)
theorem Encoding.vall (d : BitVec 5) (f : OpS) : Encoding.Statement (.vall d f) := by
  obtain ⟨m, h, rfl⟩ := bv_nat d
  interval_cases m <;>
    first
    | exact enc_s rfl rfl rfl (by decide) (by decide) (by rintro _ rfl; rfl)
    | exact statement_of rfl fun w => absurd (opDefined_of rfl w) (Bool.eq_false_iff.1 rfl)
theorem Encoding.br (f : OpS) : Encoding.Statement (.br f) :=
  enc_s rfl rfl rfl (by decide) (by decide) (by rintro _ rfl; rfl)
theorem Encoding.call (f : OpS) : Encoding.Statement (.call f) :=
  enc_s rfl rfl rfl (by decide) (by decide) (by rintro _ rfl; rfl)
theorem Encoding.ret (f : OpS) : Encoding.Statement (.ret f) :=
  enc_s rfl rfl rfl (by decide) (by decide) (by rintro _ rfl; rfl)
theorem Encoding.bix (f : OpS) : Encoding.Statement (.bix f) :=
  enc_s rfl rfl rfl (by decide) (by decide) (by rintro _ rfl; rfl)
theorem Encoding.lset (n : BitVec 1) (f : OpS) : Encoding.Statement (.lset n f) := by
  obtain ⟨m, h, rfl⟩ := bv_nat n
  interval_cases m <;> exact enc_s rfl rfl rfl (by decide) (by decide) (by rintro _ rfl; rfl)
theorem Encoding.lrot (f : OpS) : Encoding.Statement (.lrot f) :=
  enc_s rfl rfl rfl (by decide) (by decide) (by rintro _ rfl; rfl)
theorem Encoding.lbrk (n : BitVec 1) (f : OpS) : Encoding.Statement (.lbrk n f) := by
  obtain ⟨m, h, rfl⟩ := bv_nat n
  interval_cases m <;> exact enc_s rfl rfl rfl (by decide) (by decide) (by rintro _ rfl; rfl)
theorem Encoding.trap (f : OpS) : Encoding.Statement (.trap f) :=
  enc_s rfl rfl rfl (by decide) (by decide) (by rintro _ rfl; rfl)
theorem Encoding.tret (f : OpS) : Encoding.Statement (.tret f) :=
  enc_s rfl rfl rfl (by decide) (by decide) (by rintro _ rfl; rfl)
theorem Encoding.exit (f : OpS) : Encoding.Statement (.exit f) :=
  enc_s rfl rfl rfl (by decide) (by decide) (by rintro _ rfl; rfl)
theorem Encoding.yield (f : OpS) : Encoding.Statement (.yield f) :=
  enc_s rfl rfl rfl (by decide) (by decide) (by rintro _ rfl; rfl)
theorem Encoding.sleep (f : OpS) : Encoding.Statement (.sleep f) :=
  enc_s rfl rfl rfl (by decide) (by decide) (by rintro _ rfl; rfl)
theorem Encoding.brk (f : OpS) : Encoding.Statement (.brk f) :=
  enc_s rfl rfl rfl (by decide) (by decide) (by rintro _ rfl; rfl)
theorem Encoding.sset (f : OpS) : Encoding.Statement (.sset f) :=
  enc_s rfl rfl rfl (by decide) (by decide) (by rintro _ rfl; rfl)
theorem Encoding.sadd (f : OpS) : Encoding.Statement (.sadd f) :=
  enc_s rfl rfl rfl (by decide) (by decide) (by rintro _ rfl; rfl)
theorem Encoding.stake (f : OpS) : Encoding.Statement (.stake f) :=
  enc_s rfl rfl rfl (by decide) (by decide) (by rintro _ rfl; rfl)
theorem Encoding.swait (f : OpS) : Encoding.Statement (.swait f) :=
  enc_s rfl rfl rfl (by decide) (by decide) (by rintro _ rfl; rfl)
theorem Encoding.fork (f : OpS) : Encoding.Statement (.fork f) :=
  enc_s rfl rfl rfl (by decide) (by decide) (by rintro _ rfl; rfl)
theorem Encoding.join (f : OpS) : Encoding.Statement (.join f) :=
  enc_s rfl rfl rfl (by decide) (by decide) (by rintro _ rfl; rfl)
theorem Encoding.jadd (f : OpS) : Encoding.Statement (.jadd f) :=
  enc_s rfl rfl rfl (by decide) (by decide) (by rintro _ rfl; rfl)
theorem Encoding.wcan (f : OpS) : Encoding.Statement (.wcan f) :=
  enc_s rfl rfl rfl (by decide) (by decide) (by rintro _ rfl; rfl)
theorem Encoding.wdone (f : OpS) : Encoding.Statement (.wdone f) :=
  enc_s rfl rfl rfl (by decide) (by decide) (by rintro _ rfl; rfl)
theorem Encoding.gpush (f : OpS) : Encoding.Statement (.gpush f) :=
  enc_s rfl rfl rfl (by decide) (by decide) (by rintro _ rfl; rfl)
theorem Encoding.gpop (f : OpS) : Encoding.Statement (.gpop f) :=
  enc_s rfl rfl rfl (by decide) (by decide) (by rintro _ rfl; rfl)
theorem Encoding.ldb (nw : Bool) (f : OpM) : Encoding.Statement (.ldb nw f) := by
  cases nw <;> exact enc_m rfl rfl rfl (by decide) (by rintro _ rfl; rfl)
theorem Encoding.ldh (nw : Bool) (f : OpM) : Encoding.Statement (.ldh nw f) := by
  cases nw <;> exact enc_m rfl rfl rfl (by decide) (by rintro _ rfl; rfl)
theorem Encoding.ldw (nw : Bool) (f : OpM) : Encoding.Statement (.ldw nw f) := by
  cases nw <;> exact enc_m rfl rfl rfl (by decide) (by rintro _ rfl; rfl)
theorem Encoding.ldd (nw : Bool) (f : OpM) : Encoding.Statement (.ldd nw f) := by
  cases nw <;> exact enc_m rfl rfl rfl (by decide) (by rintro _ rfl; rfl)
theorem Encoding.ldbn (nw : Bool) (f : OpM) : Encoding.Statement (.ldbn nw f) := by
  cases nw <;> exact enc_m rfl rfl rfl (by decide) (by rintro _ rfl; rfl)
theorem Encoding.ldhn (nw : Bool) (f : OpM) : Encoding.Statement (.ldhn nw f) := by
  cases nw <;> exact enc_m rfl rfl rfl (by decide) (by rintro _ rfl; rfl)
theorem Encoding.ldwn (nw : Bool) (f : OpM) : Encoding.Statement (.ldwn nw f) := by
  cases nw <;> exact enc_m rfl rfl rfl (by decide) (by rintro _ rfl; rfl)
theorem Encoding.stb (f : OpM) : Encoding.Statement (.stb f) :=
  enc_m rfl rfl rfl (by decide) (by rintro _ rfl; rfl)
theorem Encoding.sth (f : OpM) : Encoding.Statement (.sth f) :=
  enc_m rfl rfl rfl (by decide) (by rintro _ rfl; rfl)
theorem Encoding.stw (f : OpM) : Encoding.Statement (.stw f) :=
  enc_m rfl rfl rfl (by decide) (by rintro _ rfl; rfl)
theorem Encoding.std (f : OpM) : Encoding.Statement (.std f) :=
  enc_m rfl rfl rfl (by decide) (by rintro _ rfl; rfl)
theorem Encoding.vld (fmt : BitVec 4) (nw : Bool) (f : OpM) : Encoding.Statement (.vld fmt nw f) := by
  obtain ⟨m, h, rfl⟩ := bv_nat fmt
  interval_cases m <;> cases nw <;>
    first
    | exact enc_m rfl rfl rfl (by decide) (by rintro _ rfl; rfl)
    | exact statement_of rfl fun w => absurd (opDefined_of rfl w) (Bool.eq_false_iff.1 rfl)
theorem Encoding.vst (fmt : BitVec 4) (f : OpM) : Encoding.Statement (.vst fmt f) := by
  obtain ⟨m, h, rfl⟩ := bv_nat fmt
  interval_cases m <;>
    first
    | exact enc_m rfl rfl rfl (by decide) (by rintro _ rfl; rfl)
    | exact statement_of rfl fun w => absurd (opDefined_of rfl w) (Bool.eq_false_iff.1 rfl)
theorem Encoding.vlds (nw : Bool) (f : OpM) : Encoding.Statement (.vlds nw f) := by
  cases nw <;> exact enc_m rfl rfl rfl (by decide) (by rintro _ rfl; rfl)
theorem Encoding.vsts (f : OpM) : Encoding.Statement (.vsts f) :=
  enc_m rfl rfl rfl (by decide) (by rintro _ rfl; rfl)
theorem Encoding.vldx (nw : Bool) (f : OpM) : Encoding.Statement (.vldx nw f) := by
  cases nw <;> exact enc_m rfl rfl rfl (by decide) (by rintro _ rfl; rfl)
theorem Encoding.vstx (f : OpM) : Encoding.Statement (.vstx f) :=
  enc_m rfl rfl rfl (by decide) (by rintro _ rfl; rfl)
theorem Encoding.fewait (f : OpM) : Encoding.Statement (.fewait f) :=
  enc_m rfl rfl rfl (by decide) (by rintro _ rfl; rfl)
theorem Encoding.feclr (f : OpM) : Encoding.Statement (.feclr f) :=
  enc_m rfl rfl rfl (by decide) (by rintro _ rfl; rfl)
theorem Encoding.feset (f : OpM) : Encoding.Statement (.feset f) :=
  enc_m rfl rfl rfl (by decide) (by rintro _ rfl; rfl)
theorem Encoding.fetst (f : OpM) : Encoding.Statement (.fetst f) :=
  enc_m rfl rfl rfl (by decide) (by rintro _ rfl; rfl)
theorem Encoding.rel (sc : Scope) (f : OpM) : Encoding.Statement (.rel sc f) := by
  cases sc <;> exact enc_m rfl rfl rfl (by decide) (by rintro _ rfl; rfl)
theorem Encoding.acq (sc : Scope) (f : OpM) : Encoding.Statement (.acq sc f) := by
  cases sc <;> exact enc_m rfl rfl rfl (by decide) (by rintro _ rfl; rfl)
theorem Encoding.cwb (f : OpM) : Encoding.Statement (.cwb f) :=
  enc_m rfl rfl rfl (by decide) (by rintro _ rfl; rfl)
theorem Encoding.cinv (f : OpM) : Encoding.Statement (.cinv f) :=
  enc_m rfl rfl rfl (by decide) (by rintro _ rfl; rfl)
theorem Encoding.xlat (f : OpM) : Encoding.Statement (.xlat f) :=
  enc_m rfl rfl rfl (by decide) (by rintro _ rfl; rfl)
theorem Encoding.hdrop (f : OpM) : Encoding.Statement (.hdrop f) :=
  enc_m rfl rfl rfl (by decide) (by rintro _ rfl; rfl)
theorem Encoding.hchk (f : OpM) : Encoding.Statement (.hchk f) :=
  enc_m rfl rfl rfl (by decide) (by rintro _ rfl; rfl)
theorem Encoding.aadd (sc : Scope) (f : OpM) : Encoding.Statement (.aadd sc f) := by
  cases sc <;>
    first
    | exact enc_m rfl rfl rfl (by decide) (by rintro _ rfl; rfl)
    | exact statement_of rfl fun w => absurd (opDefined_of rfl w) (Bool.eq_false_iff.1 rfl)
theorem Encoding.aand (sc : Scope) (f : OpM) : Encoding.Statement (.aand sc f) := by
  cases sc <;>
    first
    | exact enc_m rfl rfl rfl (by decide) (by rintro _ rfl; rfl)
    | exact statement_of rfl fun w => absurd (opDefined_of rfl w) (Bool.eq_false_iff.1 rfl)
theorem Encoding.aor (sc : Scope) (f : OpM) : Encoding.Statement (.aor sc f) := by
  cases sc <;>
    first
    | exact enc_m rfl rfl rfl (by decide) (by rintro _ rfl; rfl)
    | exact statement_of rfl fun w => absurd (opDefined_of rfl w) (Bool.eq_false_iff.1 rfl)
theorem Encoding.axor (sc : Scope) (f : OpM) : Encoding.Statement (.axor sc f) := by
  cases sc <;>
    first
    | exact enc_m rfl rfl rfl (by decide) (by rintro _ rfl; rfl)
    | exact statement_of rfl fun w => absurd (opDefined_of rfl w) (Bool.eq_false_iff.1 rfl)
theorem Encoding.axchg (sc : Scope) (f : OpM) : Encoding.Statement (.axchg sc f) := by
  cases sc <;>
    first
    | exact enc_m rfl rfl rfl (by decide) (by rintro _ rfl; rfl)
    | exact statement_of rfl fun w => absurd (opDefined_of rfl w) (Bool.eq_false_iff.1 rfl)
theorem Encoding.acas (sc : Scope) (f : OpM) : Encoding.Statement (.acas sc f) := by
  cases sc <;>
    first
    | exact enc_m rfl rfl rfl (by decide) (by rintro _ rfl; rfl)
    | exact statement_of rfl fun w => absurd (opDefined_of rfl w) (Bool.eq_false_iff.1 rfl)
theorem Encoding.amax (sc : Scope) (f : OpM) : Encoding.Statement (.amax sc f) := by
  cases sc <;>
    first
    | exact enc_m rfl rfl rfl (by decide) (by rintro _ rfl; rfl)
    | exact statement_of rfl fun w => absurd (opDefined_of rfl w) (Bool.eq_false_iff.1 rfl)
theorem Encoding.cpy (q : BitVec 3) (f : OpM) : Encoding.Statement (.cpy q f) := by
  obtain ⟨m, h, rfl⟩ := bv_nat q
  interval_cases m <;> exact enc_m rfl rfl rfl (by decide) (by rintro _ rfl; rfl)
theorem Encoding.csr (q : BitVec 3) (f : OpM) : Encoding.Statement (.csr q f) := by
  obtain ⟨m, h, rfl⟩ := bv_nat q
  interval_cases m <;> exact enc_m rfl rfl rfl (by decide) (by rintro _ rfl; rfl)
theorem Encoding.pfr (q : BitVec 3) (f : OpM) : Encoding.Statement (.pfr q f) := by
  obtain ⟨m, h, rfl⟩ := bv_nat q
  interval_cases m <;> exact enc_m rfl rfl rfl (by decide) (by rintro _ rfl; rfl)
theorem Encoding.zfill (q : BitVec 3) (f : OpM) : Encoding.Statement (.zfill q f) := by
  obtain ⟨m, h, rfl⟩ := bv_nat q
  interval_cases m <;> exact enc_m rfl rfl rfl (by decide) (by rintro _ rfl; rfl)
theorem Encoding.qfence (q : BitVec 3) (f : OpM) : Encoding.Statement (.qfence q f) := by
  obtain ⟨m, h, rfl⟩ := bv_nat q
  interval_cases m <;> exact enc_m rfl rfl rfl (by decide) (by rintro _ rfl; rfl)
theorem Encoding.coll (q : BitVec 3) (f : OpM) : Encoding.Statement (.coll q f) := by
  obtain ⟨m, h, rfl⟩ := bv_nat q
  interval_cases m <;> exact enc_m rfl rfl rfl (by decide) (by rintro _ rfl; rfl)
theorem Encoding.evict (q : BitVec 3) (f : OpM) : Encoding.Statement (.evict q f) := by
  obtain ⟨m, h, rfl⟩ := bv_nat q
  interval_cases m <;> exact enc_m rfl rfl rfl (by decide) (by rintro _ rfl; rfl)
theorem Encoding.cstat (q : BitVec 3) (f : OpM) : Encoding.Statement (.cstat q f) := by
  obtain ⟨m, h, rfl⟩ := bv_nat q
  interval_cases m <;> exact enc_m rfl rfl rfl (by decide) (by rintro _ rfl; rfl)
theorem Encoding.rld (f : OpM) : Encoding.Statement (.rld f) :=
  enc_m rfl rfl rfl (by decide) (by rintro _ rfl; rfl)
theorem Encoding.rldv (f : OpM) : Encoding.Statement (.rldv f) :=
  enc_m rfl rfl rfl (by decide) (by rintro _ rfl; rfl)
theorem Encoding.rst (b : BitVec 2) (f : OpM) : Encoding.Statement (.rst b f) := by
  obtain ⟨m, h, rfl⟩ := bv_nat b
  interval_cases m <;> exact enc_m rfl rfl rfl (by decide) (by rintro _ rfl; rfl)
theorem Encoding.rstv (b : BitVec 2) (f : OpM) : Encoding.Statement (.rstv b f) := by
  obtain ⟨m, h, rfl⟩ := bv_nat b
  interval_cases m <;> exact enc_m rfl rfl rfl (by decide) (by rintro _ rfl; rfl)
theorem Encoding.rop (f : OpM) : Encoding.Statement (.rop f) :=
  enc_m rfl rfl rfl (by decide) (by rintro _ rfl; rfl)
theorem Encoding.bclose (b : BitVec 2) (f : OpM) : Encoding.Statement (.bclose b f) := by
  obtain ⟨m, h, rfl⟩ := bv_nat b
  interval_cases m <;> exact enc_m rfl rfl rfl (by decide) (by rintro _ rfl; rfl)
theorem Encoding.rdrain (f : OpM) : Encoding.Statement (.rdrain f) :=
  enc_m rfl rfl rfl (by decide) (by rintro _ rfl; rfl)
theorem Encoding.sopen (f : OpM) : Encoding.Statement (.sopen f) :=
  enc_m rfl rfl rfl (by decide) (by rintro _ rfl; rfl)
theorem Encoding.sclose (f : OpM) : Encoding.Statement (.sclose f) :=
  enc_m rfl rfl rfl (by decide) (by rintro _ rfl; rfl)
theorem Encoding.ssend (f : OpM) : Encoding.Statement (.ssend f) :=
  enc_m rfl rfl rfl (by decide) (by rintro _ rfl; rfl)
theorem Encoding.srecv (f : OpM) : Encoding.Statement (.srecv f) :=
  enc_m rfl rfl rfl (by decide) (by rintro _ rfl; rfl)
theorem Encoding.spoll (f : OpM) : Encoding.Statement (.spoll f) :=
  enc_m rfl rfl rfl (by decide) (by rintro _ rfl; rfl)
theorem Encoding.sxfer (f : OpM) : Encoding.Statement (.sxfer f) :=
  enc_m rfl rfl rfl (by decide) (by rintro _ rfl; rfl)
theorem Encoding.sstat (f : OpM) : Encoding.Statement (.sstat f) :=
  enc_m rfl rfl rfl (by decide) (by rintro _ rfl; rfl)
theorem Encoding.jopen (f : OpM) : Encoding.Statement (.jopen f) :=
  enc_m rfl rfl rfl (by decide) (by rintro _ rfl; rfl)
theorem Encoding.jrec (f : OpM) : Encoding.Statement (.jrec f) :=
  enc_m rfl rfl rfl (by decide) (by rintro _ rfl; rfl)
theorem Encoding.jemit (f : OpM) : Encoding.Statement (.jemit f) :=
  enc_m rfl rfl rfl (by decide) (by rintro _ rfl; rfl)
theorem Encoding.jtrunc (f : OpM) : Encoding.Statement (.jtrunc f) :=
  enc_m rfl rfl rfl (by decide) (by rintro _ rfl; rfl)
theorem Encoding.jpart (f : OpM) : Encoding.Statement (.jpart f) :=
  enc_m rfl rfl rfl (by decide) (by rintro _ rfl; rfl)
theorem Encoding.jrep (f : OpM) : Encoding.Statement (.jrep f) :=
  enc_m rfl rfl rfl (by decide) (by rintro _ rfl; rfl)
theorem Encoding.jstat (f : OpM) : Encoding.Statement (.jstat f) :=
  enc_m rfl rfl rfl (by decide) (by rintro _ rfl; rfl)
theorem Encoding.vadd (u : VecUnit) (f : OpS) : Encoding.Statement (.vadd u f) := by
  cases u <;> exact enc_s rfl rfl rfl (by decide) (by decide) (by rintro _ rfl; rfl)
theorem Encoding.vsub (u : VecUnit) (f : OpS) : Encoding.Statement (.vsub u f) := by
  cases u <;> exact enc_s rfl rfl rfl (by decide) (by decide) (by rintro _ rfl; rfl)
theorem Encoding.vmul (u : VecUnit) (f : OpS) : Encoding.Statement (.vmul u f) := by
  cases u <;> exact enc_s rfl rfl rfl (by decide) (by decide) (by rintro _ rfl; rfl)
theorem Encoding.vmulh (u : VecUnit) (f : OpS) : Encoding.Statement (.vmulh u f) := by
  cases u <;> exact enc_s rfl rfl rfl (by decide) (by decide) (by rintro _ rfl; rfl)
theorem Encoding.vmin (u : VecUnit) (f : OpS) : Encoding.Statement (.vmin u f) := by
  cases u <;> exact enc_s rfl rfl rfl (by decide) (by decide) (by rintro _ rfl; rfl)
theorem Encoding.vmax (u : VecUnit) (f : OpS) : Encoding.Statement (.vmax u f) := by
  cases u <;> exact enc_s rfl rfl rfl (by decide) (by decide) (by rintro _ rfl; rfl)
theorem Encoding.vminn (u : VecUnit) (f : OpS) : Encoding.Statement (.vminn u f) := by
  cases u <;> exact enc_s rfl rfl rfl (by decide) (by decide) (by rintro _ rfl; rfl)
theorem Encoding.vmaxn (u : VecUnit) (f : OpS) : Encoding.Statement (.vmaxn u f) := by
  cases u <;> exact enc_s rfl rfl rfl (by decide) (by decide) (by rintro _ rfl; rfl)
theorem Encoding.vand (u : VecUnit) (f : OpS) : Encoding.Statement (.vand u f) := by
  cases u <;> exact enc_s rfl rfl rfl (by decide) (by decide) (by rintro _ rfl; rfl)
theorem Encoding.vor (u : VecUnit) (f : OpS) : Encoding.Statement (.vor u f) := by
  cases u <;> exact enc_s rfl rfl rfl (by decide) (by decide) (by rintro _ rfl; rfl)
theorem Encoding.vxor (u : VecUnit) (f : OpS) : Encoding.Statement (.vxor u f) := by
  cases u <;> exact enc_s rfl rfl rfl (by decide) (by decide) (by rintro _ rfl; rfl)
theorem Encoding.vandn (u : VecUnit) (f : OpS) : Encoding.Statement (.vandn u f) := by
  cases u <;> exact enc_s rfl rfl rfl (by decide) (by decide) (by rintro _ rfl; rfl)
theorem Encoding.vshl (u : VecUnit) (f : OpS) : Encoding.Statement (.vshl u f) := by
  cases u <;> exact enc_s rfl rfl rfl (by decide) (by decide) (by rintro _ rfl; rfl)
theorem Encoding.vshr (u : VecUnit) (f : OpS) : Encoding.Statement (.vshr u f) := by
  cases u <;> exact enc_s rfl rfl rfl (by decide) (by decide) (by rintro _ rfl; rfl)
theorem Encoding.vsra (u : VecUnit) (f : OpS) : Encoding.Statement (.vsra u f) := by
  cases u <;> exact enc_s rfl rfl rfl (by decide) (by decide) (by rintro _ rfl; rfl)
theorem Encoding.vabs (u : VecUnit) (f : OpS) : Encoding.Statement (.vabs u f) := by
  cases u <;> exact enc_s rfl rfl rfl (by decide) (by decide) (by rintro _ rfl; rfl)
theorem Encoding.vadds (u : VecUnit) (f : OpS) : Encoding.Statement (.vadds u f) := by
  cases u <;> exact enc_s rfl rfl rfl (by decide) (by decide) (by rintro _ rfl; rfl)
theorem Encoding.vsubs (u : VecUnit) (f : OpS) : Encoding.Statement (.vsubs u f) := by
  cases u <;> exact enc_s rfl rfl rfl (by decide) (by decide) (by rintro _ rfl; rfl)
theorem Encoding.vfadd (u : VecUnit) (f : OpS) : Encoding.Statement (.vfadd u f) := by
  cases u <;> exact enc_s rfl rfl rfl (by decide) (by decide) (by rintro _ rfl; rfl)
theorem Encoding.vfsub (u : VecUnit) (f : OpS) : Encoding.Statement (.vfsub u f) := by
  cases u <;> exact enc_s rfl rfl rfl (by decide) (by decide) (by rintro _ rfl; rfl)
theorem Encoding.vfmul (u : VecUnit) (f : OpS) : Encoding.Statement (.vfmul u f) := by
  cases u <;> exact enc_s rfl rfl rfl (by decide) (by decide) (by rintro _ rfl; rfl)
theorem Encoding.vfma (u : VecUnit) (f : OpS) : Encoding.Statement (.vfma u f) := by
  cases u <;> exact enc_s rfl rfl rfl (by decide) (by decide) (by rintro _ rfl; rfl)
theorem Encoding.vfnma (u : VecUnit) (f : OpS) : Encoding.Statement (.vfnma u f) := by
  cases u <;> exact enc_s rfl rfl rfl (by decide) (by decide) (by rintro _ rfl; rfl)
theorem Encoding.vfmin (u : VecUnit) (f : OpS) : Encoding.Statement (.vfmin u f) := by
  cases u <;> exact enc_s rfl rfl rfl (by decide) (by decide) (by rintro _ rfl; rfl)
theorem Encoding.vfmax (u : VecUnit) (f : OpS) : Encoding.Statement (.vfmax u f) := by
  cases u <;> exact enc_s rfl rfl rfl (by decide) (by decide) (by rintro _ rfl; rfl)
theorem Encoding.vrcp (u : VecUnit) (f : OpS) : Encoding.Statement (.vrcp u f) := by
  cases u <;> exact enc_s rfl rfl rfl (by decide) (by decide) (by rintro _ rfl; rfl)
theorem Encoding.vrsq (u : VecUnit) (f : OpS) : Encoding.Statement (.vrsq u f) := by
  cases u <;> exact enc_s rfl rfl rfl (by decide) (by decide) (by rintro _ rfl; rfl)
theorem Encoding.vexp2 (u : VecUnit) (f : OpS) : Encoding.Statement (.vexp2 u f) := by
  cases u <;> exact enc_s rfl rfl rfl (by decide) (by decide) (by rintro _ rfl; rfl)
theorem Encoding.vlog2 (u : VecUnit) (f : OpS) : Encoding.Statement (.vlog2 u f) := by
  cases u <;> exact enc_s rfl rfl rfl (by decide) (by decide) (by rintro _ rfl; rfl)
theorem Encoding.vtanh (u : VecUnit) (f : OpS) : Encoding.Statement (.vtanh u f) := by
  cases u <;> exact enc_s rfl rfl rfl (by decide) (by decide) (by rintro _ rfl; rfl)
theorem Encoding.vscale (u : VecUnit) (f : OpS) : Encoding.Statement (.vscale u f) := by
  cases u <;> exact enc_s rfl rfl rfl (by decide) (by decide) (by rintro _ rfl; rfl)
theorem Encoding.vtag (u : VecUnit) (f : OpS) : Encoding.Statement (.vtag u f) := by
  cases u <;> exact enc_s rfl rfl rfl (by decide) (by decide) (by rintro _ rfl; rfl)
theorem Encoding.vcvt (u : VecUnit) (fmt : BitVec 4) (f : OpS) : Encoding.Statement (.vcvt u fmt f) := by
  obtain ⟨m, h, rfl⟩ := bv_nat fmt
  cases u <;> interval_cases m <;>
    first
    | exact enc_s rfl rfl rfl (by decide) (by decide) (by rintro _ rfl; rfl)
    | exact statement_of rfl fun w => absurd (opDefined_of rfl w) (Bool.eq_false_iff.1 rfl)
theorem Encoding.vsplat (u : VecUnit) (f : OpS) : Encoding.Statement (.vsplat u f) := by
  cases u <;> exact enc_s rfl rfl rfl (by decide) (by decide) (by rintro _ rfl; rfl)
theorem Encoding.vins (u : VecUnit) (f : OpS) : Encoding.Statement (.vins u f) := by
  cases u <;> exact enc_s rfl rfl rfl (by decide) (by decide) (by rintro _ rfl; rfl)
theorem Encoding.vext (u : VecUnit) (f : OpS) : Encoding.Statement (.vext u f) := by
  cases u <;> exact enc_s rfl rfl rfl (by decide) (by decide) (by rintro _ rfl; rfl)
theorem Encoding.vperm (u : VecUnit) (f : OpS) : Encoding.Statement (.vperm u f) := by
  cases u <;> exact enc_s rfl rfl rfl (by decide) (by decide) (by rintro _ rfl; rfl)
theorem Encoding.vrot (u : VecUnit) (f : OpS) : Encoding.Statement (.vrot u f) := by
  cases u <;> exact enc_s rfl rfl rfl (by decide) (by decide) (by rintro _ rfl; rfl)
theorem Encoding.vsel (u : VecUnit) (f : OpS) : Encoding.Statement (.vsel u f) := by
  cases u <;> exact enc_s rfl rfl rfl (by decide) (by decide) (by rintro _ rfl; rfl)
theorem Encoding.vcomp (u : VecUnit) (f : OpS) : Encoding.Statement (.vcomp u f) := by
  cases u <;> exact enc_s rfl rfl rfl (by decide) (by decide) (by rintro _ rfl; rfl)
theorem Encoding.vsum (u : VecUnit) (f : OpS) : Encoding.Statement (.vsum u f) := by
  cases u <;> exact enc_s rfl rfl rfl (by decide) (by decide) (by rintro _ rfl; rfl)
theorem Encoding.vmaxr (u : VecUnit) (f : OpS) : Encoding.Statement (.vmaxr u f) := by
  cases u <;> exact enc_s rfl rfl rfl (by decide) (by decide) (by rintro _ rfl; rfl)
theorem Encoding.vargmax (u : VecUnit) (f : OpS) : Encoding.Statement (.vargmax u f) := by
  cases u <;> exact enc_s rfl rfl rfl (by decide) (by decide) (by rintro _ rfl; rfl)
theorem Encoding.vrng (u : VecUnit) (f : OpS) : Encoding.Statement (.vrng u f) := by
  cases u <;> exact enc_s rfl rfl rfl (by decide) (by decide) (by rintro _ rfl; rfl)
theorem Encoding.vsample (u : VecUnit) (f : OpS) : Encoding.Statement (.vsample u f) := by
  cases u <;> exact enc_s rfl rfl rfl (by decide) (by decide) (by rintro _ rfl; rfl)
theorem Encoding.vpand (u : VecUnit) (f : OpS) : Encoding.Statement (.vpand u f) := by
  cases u <;> exact enc_s rfl rfl rfl (by decide) (by decide) (by rintro _ rfl; rfl)
theorem Encoding.vpor (u : VecUnit) (f : OpS) : Encoding.Statement (.vpor u f) := by
  cases u <;> exact enc_s rfl rfl rfl (by decide) (by decide) (by rintro _ rfl; rfl)
theorem Encoding.vpxor (u : VecUnit) (f : OpS) : Encoding.Statement (.vpxor u f) := by
  cases u <;> exact enc_s rfl rfl rfl (by decide) (by decide) (by rintro _ rfl; rfl)
theorem Encoding.vpnot (u : VecUnit) (f : OpS) : Encoding.Statement (.vpnot u f) := by
  cases u <;> exact enc_s rfl rfl rfl (by decide) (by decide) (by rintro _ rfl; rfl)
theorem Encoding.vpset (u : VecUnit) (f : OpS) : Encoding.Statement (.vpset u f) := by
  cases u <;> exact enc_s rfl rfl rfl (by decide) (by decide) (by rintro _ rfl; rfl)
theorem Encoding.vpcnt (u : VecUnit) (f : OpS) : Encoding.Statement (.vpcnt u f) := by
  cases u <;> exact enc_s rfl rfl rfl (by decide) (by decide) (by rintro _ rfl; rfl)
theorem Encoding.vceq (u : VecUnit) (k : BitVec 3) (f : OpS) : Encoding.Statement (.vceq u k f) := by
  obtain ⟨m, h, rfl⟩ := bv_nat k
  cases u <;> interval_cases m <;> exact enc_s rfl rfl rfl (by decide) (by decide) (by rintro _ rfl; rfl)
theorem Encoding.vcne (u : VecUnit) (k : BitVec 3) (f : OpS) : Encoding.Statement (.vcne u k f) := by
  obtain ⟨m, h, rfl⟩ := bv_nat k
  cases u <;> interval_cases m <;> exact enc_s rfl rfl rfl (by decide) (by decide) (by rintro _ rfl; rfl)
theorem Encoding.vclt (u : VecUnit) (k : BitVec 3) (f : OpS) : Encoding.Statement (.vclt u k f) := by
  obtain ⟨m, h, rfl⟩ := bv_nat k
  cases u <;> interval_cases m <;> exact enc_s rfl rfl rfl (by decide) (by decide) (by rintro _ rfl; rfl)
theorem Encoding.vcle (u : VecUnit) (k : BitVec 3) (f : OpS) : Encoding.Statement (.vcle u k f) := by
  obtain ⟨m, h, rfl⟩ := bv_nat k
  cases u <;> interval_cases m <;> exact enc_s rfl rfl rfl (by decide) (by decide) (by rintro _ rfl; rfl)
theorem Encoding.vcltn (u : VecUnit) (k : BitVec 3) (f : OpS) : Encoding.Statement (.vcltn u k f) := by
  obtain ⟨m, h, rfl⟩ := bv_nat k
  cases u <;> interval_cases m <;> exact enc_s rfl rfl rfl (by decide) (by decide) (by rintro _ rfl; rfl)
theorem Encoding.vfceq (u : VecUnit) (k : BitVec 3) (f : OpS) : Encoding.Statement (.vfceq u k f) := by
  obtain ⟨m, h, rfl⟩ := bv_nat k
  cases u <;> interval_cases m <;> exact enc_s rfl rfl rfl (by decide) (by decide) (by rintro _ rfl; rfl)
theorem Encoding.vfclt (u : VecUnit) (k : BitVec 3) (f : OpS) : Encoding.Statement (.vfclt u k f) := by
  obtain ⟨m, h, rfl⟩ := bv_nat k
  cases u <;> interval_cases m <;> exact enc_s rfl rfl rfl (by decide) (by decide) (by rintro _ rfl; rfl)
theorem Encoding.vfcle (u : VecUnit) (k : BitVec 3) (f : OpS) : Encoding.Statement (.vfcle u k f) := by
  obtain ⟨m, h, rfl⟩ := bv_nat k
  cases u <;> interval_cases m <;> exact enc_s rfl rfl rfl (by decide) (by decide) (by rintro _ rfl; rfl)
theorem Encoding.mload (f : OpT) : Encoding.Statement (.mload f) :=
  enc_t rfl rfl rfl (by decide) (by rintro _ rfl; rfl)
theorem Encoding.mpush (f : OpT) : Encoding.Statement (.mpush f) :=
  enc_t rfl rfl rfl (by decide) (by rintro _ rfl; rfl)
theorem Encoding.mpushv (f : OpT) : Encoding.Statement (.mpushv f) :=
  enc_t rfl rfl rfl (by decide) (by rintro _ rfl; rfl)
theorem Encoding.mzero (f : OpT) : Encoding.Statement (.mzero f) :=
  enc_t rfl rfl rfl (by decide) (by rintro _ rfl; rfl)
theorem Encoding.mpop (f : OpT) : Encoding.Statement (.mpop f) :=
  enc_t rfl rfl rfl (by decide) (by rintro _ rfl; rfl)
theorem Encoding.mpopx (f : OpT) : Encoding.Statement (.mpopx f) :=
  enc_t rfl rfl rfl (by decide) (by rintro _ rfl; rfl)
theorem Encoding.macc (f : OpT) : Encoding.Statement (.macc f) :=
  enc_t rfl rfl rfl (by decide) (by rintro _ rfl; rfl)
theorem Encoding.mrel (f : OpT) : Encoding.Statement (.mrel f) :=
  enc_t rfl rfl rfl (by decide) (by rintro _ rfl; rfl)
theorem Encoding.tsload (f : OpT) : Encoding.Statement (.tsload f) :=
  enc_t rfl rfl rfl (by decide) (by rintro _ rfl; rfl)
theorem Encoding.tsrun (f : OpT) : Encoding.Statement (.tsrun f) :=
  enc_t rfl rfl rfl (by decide) (by rintro _ rfl; rfl)
theorem Encoding.tsstop (f : OpT) : Encoding.Statement (.tsstop f) :=
  enc_t rfl rfl rfl (by decide) (by rintro _ rfl; rfl)
theorem Encoding.tsstat (f : OpT) : Encoding.Statement (.tsstat f) :=
  enc_t rfl rfl rfl (by decide) (by rintro _ rfl; rfl)
theorem Encoding.xpin (f : OpS) : Encoding.Statement (.xpin f) :=
  enc_s rfl rfl rfl (by decide) (by decide) (by rintro _ rfl; rfl)
theorem Encoding.xpout (f : OpS) : Encoding.Statement (.xpout f) :=
  enc_s rfl rfl rfl (by decide) (by decide) (by rintro _ rfl; rfl)
theorem Encoding.xpclr (f : OpS) : Encoding.Statement (.xpclr f) :=
  enc_s rfl rfl rfl (by decide) (by decide) (by rintro _ rfl; rfl)
theorem Encoding.xpmode (f : OpS) : Encoding.Statement (.xpmode f) :=
  enc_s rfl rfl rfl (by decide) (by decide) (by rintro _ rfl; rfl)
theorem Encoding.bundleIssue (core : Nat) : Encoding.Statement (.bundleIssue core) :=
  statement_event rfl
theorem Encoding.contextUnblock (core ctx : Nat) : Encoding.Statement (.contextUnblock core ctx) :=
  statement_event rfl
theorem Encoding.resultLanding (core ctx : Nat) : Encoding.Statement (.resultLanding core ctx) :=
  statement_event rfl
theorem Encoding.replayReissue (core ctx : Nat) : Encoding.Statement (.replayReissue core ctx) :=
  statement_event rfl
theorem Encoding.loadLanding (core ctx token : Nat) : Encoding.Statement (.loadLanding core ctx token) :=
  statement_event rfl
theorem Encoding.walkComplete (core walk : Nat) : Encoding.Statement (.walkComplete core walk) :=
  statement_event rfl
theorem Encoding.pitchRelease (core ctx : Nat) : Encoding.Statement (.pitchRelease core ctx) :=
  statement_event rfl
theorem Encoding.dirtyFifoDrain (core : Nat) : Encoding.Statement (.dirtyFifoDrain core) :=
  statement_event rfl
theorem Encoding.trapDelivery (core ctx : Nat) : Encoding.Statement (.trapDelivery core ctx) :=
  statement_event rfl
theorem Encoding.gatherRowArrival (core ctx : Nat) : Encoding.Statement (.gatherRowArrival core ctx) :=
  statement_event rfl
theorem Encoding.entryAdmit (core q : Nat) : Encoding.Statement (.entryAdmit core q) :=
  statement_event rfl
theorem Encoding.promiseLanding (core ctx token : Nat) :
    Encoding.Statement (.promiseLanding core ctx token) :=
  statement_event rfl
theorem Encoding.promiseMissed (core q : Nat) : Encoding.Statement (.promiseMissed core q) :=
  statement_event rfl
theorem Encoding.cpyCommand (core q n : Nat) : Encoding.Statement (.cpyCommand core q n) :=
  statement_event rfl
theorem Encoding.csrCommand (core q n : Nat) : Encoding.Statement (.csrCommand core q n) :=
  statement_event rfl
theorem Encoding.pfrCommand (core q n : Nat) : Encoding.Statement (.pfrCommand core q n) :=
  statement_event rfl
theorem Encoding.zfillCommand (core q n : Nat) : Encoding.Statement (.zfillCommand core q n) :=
  statement_event rfl
theorem Encoding.qfenceCommand (core q : Nat) : Encoding.Statement (.qfenceCommand core q) :=
  statement_event rfl
theorem Encoding.collCommand (core q : Nat) (members : List CollMember) :
    Encoding.Statement (.collCommand core q members) :=
  statement_event rfl
theorem Encoding.evictCommand (core q n : Nat) : Encoding.Statement (.evictCommand core q n) :=
  statement_event rfl
theorem Encoding.segmentReplay (core q : Nat) (served : List Bool) :
    Encoding.Statement (.segmentReplay core q served) :=
  statement_event rfl
theorem Encoding.collTimeout (core q : Nat) : Encoding.Statement (.collTimeout core q) :=
  statement_event rfl
theorem Encoding.eqcfgWrite (core q : Nat) (v : Word) : Encoding.Statement (.eqcfgWrite core q v) :=
  statement_event rfl
theorem Encoding.queueDisableComplete (core q : Nat) : Encoding.Statement (.queueDisableComplete core q) :=
  statement_event rfl
theorem Encoding.rldRequest (p : Packet) : Encoding.Statement (.rldRequest p) :=
  statement_event rfl
theorem Encoding.rldvRequest (p : Packet) : Encoding.Statement (.rldvRequest p) :=
  statement_event rfl
theorem Encoding.rstRequest (p : Packet) : Encoding.Statement (.rstRequest p) :=
  statement_event rfl
theorem Encoding.rstvRequest (p : Packet) : Encoding.Statement (.rstvRequest p) :=
  statement_event rfl
theorem Encoding.ropRequest (p : Packet) : Encoding.Statement (.ropRequest p) :=
  statement_event rfl
theorem Encoding.closeRequest (p : Packet) : Encoding.Statement (.closeRequest p) :=
  statement_event rfl
theorem Encoding.rldReply (p : Packet) : Encoding.Statement (.rldReply p) :=
  statement_event rfl
theorem Encoding.rldvReply (p : Packet) : Encoding.Statement (.rldvReply p) :=
  statement_event rfl
theorem Encoding.ropReply (p : Packet) : Encoding.Statement (.ropReply p) :=
  statement_event rfl
theorem Encoding.writeAcknowledgement (p : Packet) : Encoding.Statement (.writeAcknowledgement p) :=
  statement_event rfl
theorem Encoding.summaryReply (p : Packet) : Encoding.Statement (.summaryReply p) :=
  statement_event rfl
theorem Encoding.requestTimeout (tag : Nat) : Encoding.Statement (.requestTimeout tag) :=
  statement_event rfl
theorem Encoding.tallyExpiry (smod : BitVec 12) (sctx : BitVec 9) (batch : BitVec 2) :
    Encoding.Statement (.tallyExpiry smod sctx batch) :=
  statement_event rfl
theorem Encoding.fabslotWrite (slot : BitVec 4) (v : Word) : Encoding.Statement (.fabslotWrite slot v) :=
  statement_event rfl
theorem Encoding.migration (die : BitVec 2) (n : Nat) : Encoding.Statement (.migration die n) :=
  statement_event rfl
theorem Encoding.migrationHoldTimeout (die : BitVec 2) : Encoding.Statement (.migrationHoldTimeout die) :=
  statement_event rfl
theorem Encoding.itemSend (sid : StreamId) : Encoding.Statement (.itemSend sid) :=
  statement_event rfl
theorem Encoding.itemArrival (m : ItemMsg) : Encoding.Statement (.itemArrival m) :=
  statement_event rfl
theorem Encoding.itemAcceptance (m : AckMsg) : Encoding.Statement (.itemAcceptance m) :=
  statement_event rfl
theorem Encoding.spaceReport (m : SpaceMsg) : Encoding.Statement (.spaceReport m) :=
  statement_event rfl
theorem Encoding.arrived (m : MoveMsg) : Encoding.Statement (.arrived m) :=
  statement_event rfl
theorem Encoding.moved (m : MoveMsg) : Encoding.Statement (.moved m) :=
  statement_event rfl
theorem Encoding.redirected (m : RedirMsg) : Encoding.Statement (.redirected m) :=
  statement_event rfl
theorem Encoding.drained (m : MoveMsg) : Encoding.Statement (.drained m) :=
  statement_event rfl
theorem Encoding.moduleDownNotice (f : BitVec 12) : Encoding.Statement (.moduleDownNotice f) :=
  statement_event rfl
theorem Encoding.ringHostRequest (m : RingReq) : Encoding.Statement (.ringHostRequest m) :=
  statement_event rfl
theorem Encoding.journalAppend (m : AppendMsg) : Encoding.Statement (.journalAppend m) :=
  statement_event rfl
theorem Encoding.appendAcknowledgement (m : AppendAck) : Encoding.Statement (.appendAcknowledgement m) :=
  statement_event rfl
theorem Encoding.orphanHoldoffExpiry (sid : StreamId) : Encoding.Statement (.orphanHoldoffExpiry sid) :=
  statement_event rfl
theorem Encoding.macroEntryStart (core cim : Nat) : Encoding.Statement (.macroEntryStart core cim) :=
  statement_event rfl
theorem Encoding.pushRowAdded (core push : Nat) : Encoding.Statement (.pushRowAdded core push) :=
  statement_event rfl
theorem Encoding.operandsConsumed (core push : Nat) : Encoding.Statement (.operandsConsumed core push) :=
  statement_event rfl
theorem Encoding.pushComplete (core push : Nat) : Encoding.Statement (.pushComplete core push) :=
  statement_event rfl
theorem Encoding.mloadComplete (core slot : Nat) : Encoding.Statement (.mloadComplete core slot) :=
  statement_event rfl
theorem Encoding.sequencerState (core : Nat) : Encoding.Statement (.sequencerState core) :=
  statement_event rfl
theorem Encoding.shootdown (die : BitVec 2) (v : Word) : Encoding.Statement (.shootdown die v) :=
  statement_event rfl
theorem Encoding.shootdownComplete (die : BitVec 2) : Encoding.Statement (.shootdownComplete die) :=
  statement_event rfl
theorem Encoding.genAdvance (slot : BitVec 4) (v : Word) : Encoding.Statement (.genAdvance slot v) :=
  statement_event rfl
theorem Encoding.onchipSweepComplete (slot : BitVec 4) : Encoding.Statement (.onchipSweepComplete slot) :=
  statement_event rfl
theorem Encoding.coreslotChange (core : Nat) (v : Word) : Encoding.Statement (.coreslotChange core v) :=
  statement_event rfl
theorem Encoding.blockReassign (die : BitVec 2) (v : Word) : Encoding.Statement (.blockReassign die v) :=
  statement_event rfl
theorem Encoding.sweepVisit (die : BitVec 2) (cell : List SymErr) :
    Encoding.Statement (.sweepVisit die cell) :=
  statement_event rfl
theorem Encoding.passEnd : Encoding.Statement .passEnd :=
  statement_event rfl
theorem Encoding.swctlWrite (v : Word) : Encoding.Statement (.swctlWrite v) :=
  statement_event rfl
theorem Encoding.woCreate (v : Word) : Encoding.Statement (.woCreate v) :=
  statement_event rfl
theorem Encoding.woSeal (v : Word) : Encoding.Statement (.woSeal v) :=
  statement_event rfl
theorem Encoding.woAdd (v : Word) : Encoding.Statement (.woAdd v) :=
  statement_event rfl
theorem Encoding.woCancel (v : Word) : Encoding.Statement (.woCancel v) :=
  statement_event rfl
theorem Encoding.woFree (v : Word) : Encoding.Statement (.woFree v) :=
  statement_event rfl
theorem Encoding.launchPacket (wq : Nat) (obj : BitVec 12) (places : List Place) :
    Encoding.Statement (.launchPacket wq obj places) :=
  statement_event rfl
theorem Encoding.go (core row : Nat) (v : Packet64) : Encoding.Statement (.go core row v) :=
  statement_event rfl
theorem Encoding.dispatchBind (core row : Nat) : Encoding.Statement (.dispatchBind core row) :=
  statement_event rfl
theorem Encoding.pendingBind (core : Nat) : Encoding.Statement (.pendingBind core) :=
  statement_event rfl
theorem Encoding.preRequest (core row : Nat) : Encoding.Statement (.preRequest core row) :=
  statement_event rfl
theorem Encoding.preemptSave (core ctx : Nat) : Encoding.Statement (.preemptSave core ctx) :=
  statement_event rfl
theorem Encoding.resume (core ctx : Nat) (v : Word) : Encoding.Statement (.resume core ctx v) :=
  statement_event rfl
theorem Encoding.redirect (core ctx : Nat) (v : Word) : Encoding.Statement (.redirect core ctx v) :=
  statement_event rfl
theorem Encoding.kill (core ctx : Nat) (v : Word) : Encoding.Statement (.kill core ctx v) :=
  statement_event rfl
theorem Encoding.replyToSaved (core row : Nat) (r : Reply) : Encoding.Statement (.replyToSaved core row r) :=
  statement_event rfl
theorem Encoding.csave (core : Nat) (v : Word) : Encoding.Statement (.csave core v) :=
  statement_event rfl
theorem Encoding.crest (core : Nat) (v : Word) : Encoding.Statement (.crest core v) :=
  statement_event rfl
theorem Encoding.parityRetry (b : Burst) : Encoding.Statement (.parityRetry b) :=
  statement_event rfl
theorem Encoding.laneSwap (b : Burst) : Encoding.Statement (.laneSwap b) :=
  statement_event rfl
theorem Encoding.retireRequest (die : BitVec 2) (v : Word) : Encoding.Statement (.retireRequest die v) :=
  statement_event rfl
theorem Encoding.errorLogClear (die : BitVec 2) (off : BitVec 16) (v : Word) :
    Encoding.Statement (.errorLogClear die off v) :=
  statement_event rfl
theorem Encoding.latecntWrite (v : Word) : Encoding.Statement (.latecntWrite v) :=
  statement_event rfl
theorem Encoding.authcntWrite (v : Word) : Encoding.Statement (.authcntWrite v) :=
  statement_event rfl
theorem Encoding.wldcfgWrite (slot : BitVec 4) (world : BitVec 2) (v : Word) :
    Encoding.Statement (.wldcfgWrite slot world v) :=
  statement_event rfl
theorem Encoding.kgen (mbox world : BitVec 2) (v : Word) : Encoding.Statement (.kgen mbox world v) :=
  statement_event rfl
theorem Encoding.kimp (mbox world : BitVec 2) (v : Word) : Encoding.Statement (.kimp mbox world v) :=
  statement_event rfl
theorem Encoding.kdrop (mbox world : BitVec 2) (v : Word) : Encoding.Statement (.kdrop mbox world v) :=
  statement_event rfl
theorem Encoding.certw (mbox world : BitVec 2) (v : Word) : Encoding.Statement (.certw mbox world v) :=
  statement_event rfl
theorem Encoding.sleepCommand (mbox world : BitVec 2) (v : Word) :
    Encoding.Statement (.sleepCommand mbox world v) :=
  statement_event rfl
theorem Encoding.wake (images : List (BitVec 256)) (kept : Bool) : Encoding.Statement (.wake images kept) :=
  statement_event rfl
theorem Encoding.chal : Encoding.Statement .chal :=
  statement_event rfl
theorem Encoding.cert : Encoding.Statement .cert :=
  statement_event rfl
theorem Encoding.importKey : Encoding.Statement .importKey :=
  statement_event rfl
theorem Encoding.networkPacketArrival (p : Packet) : Encoding.Statement (.networkPacketArrival p) :=
  statement_event rfl
theorem Encoding.hostAccess (a : BusAccess) : Encoding.Statement (.hostAccess a) :=
  statement_event rfl
theorem Encoding.managementFrame (f : Frame) : Encoding.Statement (.managementFrame f) :=
  statement_event rfl
theorem Encoding.resetBoot (b : BootBlob) : Encoding.Statement (.resetBoot b) :=
  statement_event rfl
theorem Encoding.powerStepPins (level : BitVec 4) : Encoding.Statement (.powerStepPins level) :=
  statement_event rfl
theorem Encoding.powerStepDatagram (d : PowerDatagram) : Encoding.Statement (.powerStepDatagram d) :=
  statement_event rfl
theorem Encoding.ceilingApply : Encoding.Statement .ceilingApply :=
  statement_event rfl
theorem Encoding.powerFail : Encoding.Statement .powerFail :=
  statement_event rfl
theorem Encoding.powerReturn (b : BootBlob) : Encoding.Statement (.powerReturn b) :=
  statement_event rfl
theorem Encoding.selfRefreshExpiry : Encoding.Statement .selfRefreshExpiry :=
  statement_event rfl
theorem Encoding.registerWrite (blk : RegBlock) (off : BitVec 25) (v : Word) :
    Encoding.Statement (.registerWrite blk off v) :=
  statement_event rfl
theorem Encoding.generalPurposeCoreAccess (a : BusAccess) :
    Encoding.Statement (.generalPurposeCoreAccess a) :=
  statement_event rfl
theorem Encoding.spaceReportSend (sid : StreamId) : Encoding.Statement (.spaceReportSend sid) :=
  statement_event rfl
theorem Encoding.closeNotice (m : CloseMsg) : Encoding.Statement (.closeNotice m) :=
  statement_event rfl
theorem Encoding.movedAcknowledgement (m : MoveMsg) : Encoding.Statement (.movedAcknowledgement m) :=
  statement_event rfl
theorem Encoding.ringHostAnswer (m : RingAns) : Encoding.Statement (.ringHostAnswer m) :=
  statement_event rfl
theorem Encoding.ringHostTimeout (jidx : BitVec 12) : Encoding.Statement (.ringHostTimeout jidx) :=
  statement_event rfl
theorem Encoding.jrecRequest (m : JrecReq) : Encoding.Statement (.jrecRequest m) :=
  statement_event rfl
theorem Encoding.jrecReply (m : JrecRep) : Encoding.Statement (.jrecReply m) :=
  statement_event rfl
theorem Encoding.releaseMessage (m : ReleaseMsg) : Encoding.Statement (.releaseMessage m) :=
  statement_event rfl
theorem Encoding.releaseNotice (m : NoticeMsg) : Encoding.Statement (.releaseNotice m) :=
  statement_event rfl
theorem Encoding.belayNote (m : NoteMsg) : Encoding.Statement (.belayNote m) :=
  statement_event rfl
theorem Encoding.ringCopy (m : CopyMsg) : Encoding.Statement (.ringCopy m) :=
  statement_event rfl

end Sys2Proof.Laws
end

