-- ==== Sys2Proof/Safety.lean ====
section
/-! DEFINITION. What counts as a safe run, in the terms statements use. -/

namespace Sys2Proof.Machine

/-- The states that n steps from s pass through end in t. -/
def runs : Nat → State → State → Prop
  | 0, s, t => t = s
  | n + 1, s, t => ∃ u : State, step s = .next u ∧ runs n u t

/-- The states that can be reached from s. -/
def reaches (s t : State) : Prop := ∃ n, runs n s t

/-- A state is sound: its memory has the canonical form. -/
def State.sound (s : State) : Prop := s.memOk

/-- A state is safe: it is sound, and its step goes on to a sound state. -/
def State.safe (s : State) : Prop := s.sound ∧ ∃ t : State, step s = .next t ∧ t.sound

/-- A safe run: every state that can be reached is safe. -/
def safeRun (s : State) : Prop := ∀ t, reaches s t → t.safe

end Sys2Proof.Machine
end

