-- ==== Sys2Proof/Tests/Slice0.lean ====
section
/-! SUPPORT. The model's own tests: for every statement that has hypotheses a witness that meets them (witness_…), the words of
the opcode tables decoded (test_decode_…), ill-formed operations refused, and the worked examples of the spec. -/

set_option Elab.async false

namespace Sys2Proof.Tests

open Sys2Proof Sys2Proof.Machine

/-- The operands of most witnesses: s0 read twice, W = s1. -/
def wf0 : OpS := ⟨⟨0, false⟩, 0, 0, false, 1⟩
/-- The issuing context, in the middle of a pitch, with a register set changed. -/
def wctx (c : Ctx) : State := { State.reset with ctxs := [(0, c)] }

theorem witness_ScalarResultsLand :
    (∀ e ∈ Spec.alu 0 0 0, (e.1 .ia wf0).check = none ∧ Spec.on State.reset wf0.g ∧
      State.reset.scalarArgs 0 (e.1 .ia wf0).shape wf0 = .ok ⟨0, 0, 0⟩) ∧
    (∀ e ∈ Spec.compares 0 0, (e.1 .ib 1 wf0).check = none ∧ State.reset.scalarArgs 1 (e.1 .ib 1 wf0).shape wf0 = .ok ⟨0, 0, 0⟩) := by
  unfold Spec.on; decide +kernel

theorem witness_MultiplyAndDivideResultsLand :
    Spec.on State.reset wf0.g ∧ (∀ e ∈ Spec.muls 0 0, (e.1 wf0).check = none ∧ State.reset.scalarArgs 2 (e.1 wf0).shape wf0 = .ok ⟨0, 0, 0⟩) ∧
    (∀ e ∈ Spec.divs 0 0, (e.1 wf0).check = none ∧ State.reset.scalarArgs 2 (e.1 wf0).shape wf0 = .ok ⟨0, 0, 0⟩ ∧
      State.reset.me.divFree ≤ State.reset.cycle ∧ (wctx { divFree := 1 }).cycle < (wctx { divFree := 1 }).me.divFree) := by
  unfold Spec.on; decide +kernel

/-- A move from port a to port b in slot k. -/
def wmv (k : BitVec 3) (a b : BitVec 9) : OpMove := ⟨k, ⟨0, false⟩, a, b⟩
/-- A context that runs the placed program, at its first bundle, with the pitch-end bundle next. -/
def wrun : State := { State.reset.placeBundle 0 with cur := { nextA := 1 } }
/-- A landing of one write. -/
def wland : Landing := ⟨3, 0, 0, 0, [wr64 (.s 1) 5]⟩

theorem witness_PredicateOperationWritesOnePredicate :
    Spec.on State.reset wf0.g ∧ State.reset.readT 0 = .ok (srcS 0 (some (.s 0))) ∧ State.reset.readO 3 { wf0 with w := 0 } = .ok (srcS 0 (some (.s 0))) ∧
    (∀ e ∈ Spec.preds2 true true, (e.1 1 { wf0 with w := 0 }).check = none) ∧
    (∀ e ∈ Spec.preds1 (srcS 0), (e.1 1 { wf0 with w := 0 }).check = none) := by
  unfold Spec.on; decide +kernel

theorem witness_NothingIsPerformed :
    (∃ v, (Instr.add .ia { wf0 with g := ⟨0, true⟩ }).view = some v ∧ dstKind v.dst = some (.trigger 0) ∧ Spec.traceless 0 = true ∧
      (Instr.add .ia { wf0 with g := ⟨0, true⟩ }).check = none ∧ Spec.silent State.reset v) ∧
    (∃ v, (Instr.vfadd .va { wf0 with g := ⟨1, false⟩, t := 0x40, o := 0x41 }).view = some v ∧ dstKind v.dst = some (.trigger 24) ∧
      Spec.traceless 24 = true ∧ (Instr.vfadd .va { wf0 with g := ⟨1, false⟩, t := 0x40, o := 0x41 }).check = none ∧ Spec.silent State.reset v) ∧
    (∃ v, (Instr.ldw false ⟨⟨0, true⟩, 0, 0, 0, 1⟩).view = some v ∧ dstKind v.dst = some (.trigger 8) ∧
      (Instr.ldw false ⟨⟨0, true⟩, 0, 0, 0, 1⟩).check = none ∧ Spec.silent State.reset v) ∧ ∀ k, Tab.get 0 State.reset.me.counts k < 8 := by
  refine ⟨⟨_, rfl, by decide +kernel, by decide +kernel, by decide +kernel, ?_⟩, ⟨_, rfl, by decide +kernel, by decide +kernel, by decide +kernel, ?_⟩,
    ⟨_, rfl, by decide +kernel, by decide +kernel, ?_⟩, fun k => (by decide : 0 < 8)⟩ <;> unfold Spec.silent Spec.off <;> decide +kernel

theorem witness_OperationFrames :
    ∃ v t, (Instr.add .ia wf0).view = some v ∧ Spec.scalarTrigger v.dst = true ∧ opOf (.add .ia wf0) State.reset = .ok t :=
  ⟨_, _, rfl, by decide +kernel, rfl⟩

theorem witness_LandingOrder : (wctx { flight := [wland] }).me.flight = [wland] ∧ 2 < wland.due ∧ wland.due ≤ 3 ∧
    ({} : Ctx).flight = [] ∧ (1 : Nat) ≠ 0 ∧ 0 < 1 := by
  decide +kernel

theorem witness_MovesWrite :
    (dstKind 0x05 = some .scalar ∧ State.reset.readT 0x1E1 = .ok (srcS 1) ∧ Spec.moveActs State.reset (wmv 0 0x1E1 5) ∧ Spec.moveActs State.reset (wmv 3 0x1E1 5) ∧
      (Instr.move (wmv 0 0x1E1 5)).check = none ∧ (Instr.moveSplat (wmv 0 0x1E1 0x41)).check = none ∧
      (Instr.moveHi (wmv 0 0xA1 5)).check = none ∧ (Instr.moveHi (wmv 0 5 0xA1)).check = none) ∧
    (dstKind 0x41 = some .wide ∧ srcKind 0x42 = some .vector ∧ (Instr.move (wmv 3 0x42 0x41)).check = none ∧
      State.reset.guardReady true ⟨0, false⟩ = .ok ()) := by
  have h0 : Spec.moveActs State.reset (wmv 0 0x1E1 5) := by
    have : ¬ ((wmv 0 0x1E1 5).slot = 3 ∨ (wmv 0 0x1E1 5).slot = 4) := by decide
    rw [Spec.moveActs, if_neg this]; unfold Spec.on; decide +kernel
  have h3 : Spec.moveActs State.reset (wmv 3 0x1E1 5) := by
    have : (wmv 3 0x1E1 5).slot = 3 ∨ (wmv 3 0x1E1 5).slot = 4 := by decide
    rw [Spec.moveActs, if_pos this]; decide +kernel
  exact ⟨⟨by decide +kernel, by decide +kernel, h0, h3, by decide +kernel, by decide +kernel, by decide +kernel, by decide +kernel⟩,
    by decide +kernel⟩

theorem witness_ControlOperations :
    Spec.on wrun ⟨0, false⟩ ∧ wrun.intact (.sp 8) = .ok () ∧ (∀ e ∈ Spec.transfers wrun ⟨0, 0, 0⟩, (e.1 { wf0 with w := 0 }).check = none ∧
      wrun.scalarArgs 4 (e.1 { wf0 with w := 0 }).shape { wf0 with w := 0 } = .ok ⟨0, 0, 0⟩ ∧
      wrun.delayOk wrun.cid wrun.cur.nextA = true ∧ wrun.targetOk wrun.cid e.2.1 = .ok ()) ∧
    (Instr.lset 0 { wf0 with w := 0 }).check = none := by
  unfold Spec.on; decide +kernel

/-- The same, in a bundle with PITCH and CAIRN. -/
def wend (s : State) : State := { s with cur := { s.cur with pitch := true, cairn := true } }
/-- A context at the end of loop 0. -/
def wloop (lc ec : Word) : State := wctx { bank := { sp := [(0, lc), (5, 7), (6, ec)] } }
def wf1 : OpS := { wf0 with w := 0 }

theorem witness_ControlOperations_loops :
    (wrun.scalarArgs 5 (Instr.lset 0 wf1).shape { wf1 with o := 0x1E1 } = .ok ⟨0, 1, 0⟩ ∧ wrun.targetOk wrun.cid (wrun.exitAddr wrun.cid 1) = .ok () ∧
      (let s := wrun.modMe fun c => { c with bank := { c.bank with sp := [(2, 1)] } }
       s.intact (.sp 2) = .ok () ∧ s.delayOk s.cid s.cur.nextA = true ∧ s.targetOk s.cid (s.exitAddr s.cid (Tab.get 0 s.me.bank.sp 2)) = .ok ()) ∧
      (Instr.lrot wf1).check = none ∧ wrun.scalarArgs 5 (Instr.lrot wf1).shape wf1 = .ok ⟨0, 0, 0⟩ ∧
      (Instr.lbrk 0 wf1).check = none) ∧
    (∀ e ∈ [(true, 0, 3), (false, 2, 0), (true, 2, 0), (true, 1, 0)], (wloop (BitVec.ofNat 64 e.2.1) (BitVec.ofNat 64 e.2.2)).loopEnd e.1 = .ok (some 0) ∧
      (wloop (BitVec.ofNat 64 e.2.1) (BitVec.ofNat 64 e.2.2)).me.next.xfer = none ∧ (wloop (BitVec.ofNat 64 e.2.1) (BitVec.ofNat 64 e.2.2)).cur.xfer = none ∧
      ∀ n ∈ [0, 1, 6], (wloop (BitVec.ofNat 64 e.2.1) (BitVec.ofNat 64 e.2.2)).intact (.sp n) = .ok ()) := by
  decide +kernel

theorem witness_SystemAndSemaphoreOperations :
    Spec.on State.reset ⟨0, false⟩ ∧ (∀ e ∈ Spec.sysOps State.reset 0, (e.1 wf1).check = none ∧ State.reset.scalarArgs 6 (e.1 wf1).shape wf1 = .ok ⟨0, 0, 0⟩) ∧
    ((wctx { hnd := true }).me.hnd = true ∧ (wend State.reset).cur.pitch = true ∧ (wend State.reset).cur.cairn = true ∧
      State.reset.cur.pitch = true ∧ { State.reset.cur with pitch := false }.pitch = false ∧ State.reset.me.hnd = false ∧
      (Instr.sleep wf1).check = none ∧ State.reset.scalarArgs 6 (Instr.sleep wf1).shape wf1 = .ok ⟨0, 0, 0⟩) ∧
    (State.reset.scalarArgs 7 { t := .any, o := .any } wf0 = .ok ⟨0, 0, 0⟩ ∧ (Instr.stake wf0).check = none ∧
      (Instr.swait wf0).check = none ∧ (Instr.sset wf1).check = none ∧ (Instr.sadd wf1).check = none ∧
      State.reset.me.log.length < 16 ∧ State.reset.me.sigs.length < 16 ∧
      State.reset.scalarArgs 7 { t := .any, o := .any } { wf0 with o := 0x1E1 } = .ok ⟨0, 1, 0⟩ ∧ State.reset.sem 0 0 < 1) := by
  unfold Spec.on; decide +kernel

/-- Valid handles of a context of slot 0, generation 0: 1 the scratchpad's (PS 15), 2 a page of 4 KiB at physical 0x1000. -/
def whs : Tab Handle :=
  [(1, { st := .valid, rd := true, wr := true, ps := 15 }), (2, { st := .valid, rd := true, wr := true, pfn := 1 })]
/-- A context with these handles, a stride of 16 in ls.l, and line 0 of the scratchpad full. -/
def wh : State := (wctx { bank := { h := whs, ol := [(8, { data := 0x10 <<< 64 }), (10, {})] } }).setLine 0 0 0 0 true
def wm (h : BitVec 4) : OpM := ⟨⟨0, false⟩, 0, 0, 0, h⟩
/-- T and the latch of these witnesses. -/
theorem wh_operands : wh.readT 0 = .ok (srcS 0 (some (.s 0))) ∧ wh.readLatch 8 = .ok { data := 0x10 <<< 64 } ∧ Spec.on wh ⟨0, false⟩ ∧
    wh.readLatch 10 = .ok {} ∧ wh.readT 0x40 = .ok ⟨.vector, {}, some (.v 0), none⟩ ∧ (∀ h ∈ [1, 2, 15], Spec.held wh h) := by
  unfold Spec.on Spec.held; decide +kernel
theorem wh_linesFull (n : Nat) (h : n ≤ 128) : Spec.linesFull wh 0 n := by
  intro k _ hk
  have : k = 0 := by omega
  subst this; decide +kernel

theorem witness_LoadsIssue :
    (∀ h ∈ [(1 : BitVec 4), 2], ∀ e ∈ Spec.loads, (e.1 false (wm h)).check = none ∧
      Spec.allows (wh.handle h.toNat) (Spec.ea (wh.handle h.toNat) 0 (wm h) e.2.1) e.2.1 e.2.1 true false) ∧
    ((Instr.vld 1 false (wm 2)).check = none ∧ (Instr.vld 11 false (wm 2)).check = none ∧ (Instr.vlds false (wm 2)).check = none ∧
      (Instr.vldx false { wm 2 with t := 0x40 }).check = none ∧
      Spec.allows (wh.handle 2) (Spec.ea (wh.handle 2) 0 (wm 2) 128) 128 128 true false ∧
      Spec.allows (wh.handle 2) (Spec.ea (wh.handle 2) 0 (wm 2) 96) 96 32 true false ∧
      ∀ i < 8, Spec.allows (wh.handle 2) (Spec.ea (wh.handle 2) (BitVec.ofNat 64 (16 * i)) (wm 2) 16) 16 16 true false) := by
  unfold Spec.allows
  exact ⟨by decide +kernel, by decide +kernel, by decide +kernel, by decide +kernel, by decide +kernel, by decide +kernel, by decide +kernel,
    by decide +kernel⟩

theorem witness_StoreWaitsForRelease :
    (∀ h ∈ [(1 : BitVec 4), 2], ∀ e ∈ Spec.stores, (e.1 (wm h)).check = none ∧
      Spec.allows (wh.handle h.toNat) (Spec.ea (wh.handle h.toNat) 0 (wm h) e.2) e.2 e.2 false true ∧ wh.myCore.mops = []) ∧
    ((Instr.vst 1 { wm 2 with t := 0x40 }).check = none ∧ (Instr.vst 11 { wm 2 with t := 0x40 }).check = none ∧
      (Instr.vsts { wm 2 with t := 0x40 }).check = none ∧ (Instr.vstx { wm 2 with t := 0x40 }).check = none ∧
      Spec.allows (wh.handle 2) (Spec.ea (wh.handle 2) 0 (wm 2) 128) 128 128 false true ∧
      Spec.allows (wh.handle 2) (Spec.ea (wh.handle 2) 0 (wm 2) 96) 96 32 false true ∧
      ∀ i < 8, Spec.allows (wh.handle 2) (Spec.ea (wh.handle 2) (BitVec.ofNat 64 (16 * i)) (wm 2) 16) 16 16 false true) := by
  unfold Spec.allows
  exact ⟨by decide +kernel, by decide +kernel, by decide +kernel, by decide +kernel, by decide +kernel, by decide +kernel, by decide +kernel,
    by decide +kernel⟩

/-- One handle and access for each branch of address formation, in order. -/
theorem witness_AddressFaultsInOrder :
    let h : Handle := { st := .valid, ps := 0, va := 4096 }
    let e := fun (off : Word) => Spec.ea h off (wm 0) 8
    ({} : Handle).st = .null ∧ ({ st := .pending } : Handle).st = .pending ∧ ({ h with ps := 14 } : Handle).ps = 14 ∧
    e (-8) < Spec.pageOf h ∧ Spec.pageOf h + pageBytes h.ps.toNat < e 4089 + 8 ∧ e 4088 + 8 = Spec.pageOf h + pageBytes h.ps.toNat ∧
    ({ h with ps := 15 } : Handle).ps = 15 ∧ h.ps ≠ 15 ∧ h.ps ≠ 14 ∧
    e 4 % 8 ≠ 0 ∧ e 0 % 8 = 0 ∧ h.rd = false ∧ ({ h with rd := true } : Handle).wr = false ∧
    Spec.allows { h with rd := true, wr := true } (e 4088) 8 8 true true := by
  unfold Spec.allows; decide +kernel

theorem witness_FullEmptyAndOrderingOperations :
    (Spec.allows (wh.handle 1) (Spec.ea (wh.handle 1) 0 (wm 1) 128) 1 1 true false ∧ (wh.handle 1).ps = 15 ∧
      (Instr.fewait (wm 1)).check = none ∧ (Instr.feclr (wm 1)).check = none ∧ (Instr.feset (wm 1)).check = none ∧
      (Instr.fetst (wm 1)).check = none ∧ wh.lineFull 0 0 = true ∧ wh.lineFull 0 1 = false ∧ wh.myCore.mops = [] ∧
      Tab.get 0 wh.me.counts 0 < 16) ∧
    ((∀ sc ∈ [Scope.c, .k, .d, .v, .f], (Instr.rel sc (wm 0)).check = none ∧ (Instr.acq sc (wm 0)).check = none) ∧
      Tab.get 0 wh.me.counts 1 < 8 ∧ wh.me.rel = [] ∧ wh.me.path = [] ∧ wh.me.loads = [] ∧ wh.me.remote = []) ∧
    (Spec.allows (wh.handle 2) (Spec.ea (wh.handle 2) 0 (wm 2) 1024) 1 1 true false ∧ (Instr.cwb (wm 2)).check = none ∧
      (Instr.cinv (wm 2)).check = none) := by
  unfold Spec.allows; decide +kernel

/-- A leaf of the page at 0. -/
def wleaf : Leaf := ⟨0, 0, 1, 0, false, true, true⟩
/-- The core holds the translation of the page at 0 (R119). -/
def wtc : State := wh.modCore 0 fun k => { k with tc := [⟨0, 0, wleaf⟩] }
theorem witness_AtomicAndTranslateOperations :
    (Tab.get 0 wh.me.counts 2 < 8 ∧ (wh.handle 2).ps ≠ 15 ∧
      Spec.allows (wh.handle 2) (Spec.ea (wh.handle 2) 0 (wm 2) 8) 8 8 true true ∧
      ∀ e ∈ Spec.atomics 0 0 0, ∀ sc ∈ [Scope.k, .d, .v], (e.1 sc (wm 2)).check = none) ∧
    ((Instr.xlat (wm 3)).check = none ∧ (∃ a : Word, inAperture a = true ∧ wh.fabslot 0 = wh.hubReg 0x100) ∧
      inAperture 0 = false ∧ wtc.tcHit 0 0 0 = some wleaf ∧ wh.tcHit 0 0 0 = none) ∧
    ((Instr.hdrop (wm 2)).check = none ∧ (Instr.hchk { wm 2 with w := 1 }).check = none) := by
  refine ⟨by unfold Spec.allows; decide +kernel, ⟨by decide +kernel, ⟨BitVec.ofNat 64 (0xFF <<< 48), by decide +kernel, by decide +kernel⟩,
    by decide +kernel⟩, by decide +kernel⟩

theorem witness_GatherQueueOperations :
    let f : OpS := { wf0 with o := 0xB1, w := 0 }
    let g : OpS := wf1
    let r : GRow := ⟨0, 0, .clean⟩
    ((Instr.gpush f).check = none ∧ (wh.handle (f.o.toNat - 0xB0)).ps = 15 ∧
      Spec.allows (wh.handle 1) 0 128 16 true false ∧ wh.me.iq.length + wh.me.gq.length < 16) ∧
    ((Instr.gpop g).check = none ∧ (wctx { gq := [r] }).me.gq = [r] ∧ (wctx { gq := [r] }).me.iq = [] ∧ Spec.on (wctx { gq := [r] }) ⟨0, false⟩ ∧
      Spec.on (wctx {}) ⟨0, false⟩ ∧
      (wctx {}).me.gq = [] ∧ (wctx {}).me.iq = []) := by
  unfold Spec.allows Spec.on; decide +kernel

/-- A context whose v0, v1 and the latches of va and vb hold zeros of a format, and whose vp1 has one bit. -/
def wv (fm : BitVec 4) : State :=
  wctx { bank := { v := [(0, { fmt := fm }), (1, { fmt := fm })], ol := [(24, { fmt := fm })], vp := [(1, 1)] } }
def wsrc (fm : BitVec 4) (i : Nat) : Src := ⟨.vector, { fmt := fm }, some (.v i), none⟩
/-- The operands of a vector operation: v0, and v1, nothing or s0 as O. -/
def wvf (o : BitVec 9) : OpS := ⟨⟨0, false⟩, 0x40, o, false, 1⟩
/-- The decidable content of readiness with T = v0 and O as given. -/
def wready (fm : BitVec 4) (i : Instr) (o : BitVec 9) (x : Src) : Bool :=
  decide (i.check = none) && decide ((wv fm).guardReady true (wvf o).g = .ok ()) && ((wv fm).vguard (wvf o).g).getLsbD 0 && decide ((wv fm).readT 0x40 = .ok (wsrc fm 0)) &&
    (decide (i.shape.o = .none) || decide ((wv fm).readO 24 (wvf o) = .ok x)) && decide ((wv fm).readLatch 24 = .ok { fmt := fm })
theorem ready_of {fm : BitVec 4} {i : Instr} {o : BitVec 9} {x : Src} {n : Nat} (hn : 0 < n) (h : wready fm i o x = true) :
    Spec.vready (wv fm) i .va (wvf o) n (wsrc fm 0) x { fmt := fm } := by
  simp only [wready, Bool.and_eq_true, Bool.or_eq_true, decide_eq_true_eq] at h
  obtain ⟨⟨⟨⟨⟨h1, h0⟩, h2⟩, h3⟩, h4⟩, h5⟩ := h
  exact ⟨h1, h0, ⟨0, hn, h2⟩, h3, fun h => h4.resolve_left h, fun _ => h5⟩

theorem witness_VectorIntegerResults :
    (∀ fm ∈ [(1 : BitVec 4), 6], ∀ e ∈ Spec.ints fm.toNat (fmtWidth fm.toNat) 0 0,
      wready fm (e.1 .va (wvf 0x41)) 0x41 (wsrc fm 1) = true ∨ wready fm (e.1 .va (wvf 0)) 0 (wsrc fm 1) = true) ∧
    Spec.oneFormat 1 [(wsrc 1 0).tagged, (wsrc 1 1).tagged] ∧ Spec.oneFormat 6 [(wsrc 6 0).tagged] ∧
    Spec.biasBy 0 (wsrc 1 0).tagged (wsrc 1 1).tagged 8 0 ∧ Spec.biasBy 1 (wsrc 1 0).tagged (wsrc 1 1).tagged 8 0 ∧
    Spec.biasBy 2 (wsrc 1 0).tagged (wsrc 1 1).tagged 8 8 ∧ Spec.biasBy 3 (wsrc 1 0).tagged (wsrc 1 1).tagged 8 0 := by
  unfold Spec.oneFormat
  exact ⟨by decide +kernel, by decide +kernel, by decide +kernel,
    (by decide +kernel : ∀ x ∈ [(wsrc 1 0).tagged, (wsrc 1 1).tagged], x.fmt ≠ 0 → x.bias.toInt = 0),
    (by decide +kernel : (0 : Int) = (wsrc 1 0).tagged.b + (wsrc 1 1).tagged.b ∧ -32 ≤ (0 : Int) ∧ (0 : Int) ≤ 31),
    (by decide +kernel : (8 : Int) = (wsrc 1 0).tagged.b + (wsrc 1 1).tagged.b + ((8 : Nat) : Int) ∧ -32 ≤ (8 : Int) ∧ (8 : Int) ≤ 31),
    (by decide +kernel : (0 : Int) = (wsrc 1 0).tagged.b)⟩

theorem witness_VectorBitwisePredicateAndCompareResults :
    (∀ fm ∈ [(0 : BitVec 4), 1, 9], ∀ e ∈ Spec.bitwise true true, wready fm (e.1 .va (wvf 0x41)) 0x41 (wsrc fm 1) = true) ∧
    (∀ e ∈ Spec.vpreds 0 0 0, (e.1 .va { wvf 0 with t := 0xA1 }).check = none ∨ (e.1 .va { wvf 0xA1 with t := 0xA1 }).check = none) ∧
    (∀ e ∈ Spec.vcompares 1 8 0 0 0 0, ∀ k ∈ [(0 : BitVec 3), 7], wready 1 (e.1 .va k (wvf 0x41)) 0x41 (wsrc 1 1) = true) ∧
    Spec.oneFormat 11 [(wsrc 11 0).tagged, (wsrc 11 1).tagged] ∧ Spec.oneFormat 7 [(wsrc 7 0).tagged, (wsrc 7 1).tagged] ∧
    Spec.oneBias 0 [(wsrc 1 0).tagged, (wsrc 1 1).tagged] := by
  unfold Spec.oneFormat Spec.oneBias; decide +kernel

/-- fmode holds no poison, and a poisoned fmode is the case shut out (R396). -/
theorem witness_VectorFloatResults_rounding :
    Spec.rounding (wv 9) ∧ ¬ Spec.rounding (wctx { bank := { marks := [(Reg.key (.sp 15), .poison)] } }) := by
  unfold Spec.rounding; decide +kernel
theorem witness_VectorFloatResults :
    (∀ fm ∈ [(7 : BitVec 4), 8, 9], (∀ e ∈ Spec.floats 0 .nan .nan, wready fm (e.1 .va (wvf 0x41)) 0x41 (wsrc fm 1) = true) ∧
      (∀ i ∈ [Instr.vfmul .va (wvf 0x41), .vfma .va (wvf 0x41), .vfnma .va (wvf 0x41)], wready fm i 0x41 (wsrc fm 1) = true) ∧
      Spec.oneFormat fm.toNat [(wsrc fm 0).tagged, (wsrc fm 1).tagged, { fmt := fm }] ∧
      Spec.oneBias 0 [(wsrc fm 0).tagged, (wsrc fm 1).tagged]) ∧
    ((wsrc 7 0).tagged.b + (wsrc 7 1).tagged.b = 0 ∧ ({ fmt := 7 } : Wide).bias.toInt = 0) := by
  unfold Spec.oneFormat Spec.oneBias; decide +kernel

/-- Codes whose values are not a number, infinite and zero in f32, for the corners of R202. -/
theorem witness_VectorFunctionAndConversionResults :
    (∀ fm ∈ [(7 : BitVec 4), 8, 9], ∀ e ∈ Spec.funcs, wready fm (e.1 .va (wvf 0)) 0 (srcS 0) = true ∧ (wsrc fm 0).tagged.fmt.toNat = fm.toNat) ∧
    (fmtValue 9 0 0x7FC00000 = .nan ∧ fmtValue 9 0 0xFF800000 = .inf true ∧ ∃ e, fmtValue 9 0 0 = .fin false 0 e) ∧
    (∀ fm ∈ [(1 : BitVec 4), 9, 11], (∀ k ∈ [(1 : BitVec 4), 7, 11], wready fm (.vcvt .va k (wvf 0)) 0 (srcS 0 (some (.s 0))) = true) ∧
      wready fm (.vcvt .va 12 (wvf 0)) 0 (srcS 0 (some (.s 0))) = true ∧ wready fm (.vscale .va (wvf 0)) 0 (srcS 0 (some (.s 0))) = true ∧
      wready fm (.vtag .va (wvf 0)) 0 (srcS 0 (some (.s 0))) = true ∧ (wsrc fm 0).tagged.fmt ≠ 0 ∧ (wsrc fm 0).tagged.fmt ≠ 12) := by
  refine ⟨by decide +kernel, ⟨by decide +kernel, by decide +kernel, _, rfl⟩, by decide +kernel⟩

/-- Finite values for each function's bound: 3 (its exponential taken of 1.5), in f32 (R202). -/
theorem witness_VectorFunctionAndConversionResults_bounds :
    (∃ m e, fmtValue 9 0 0x40400000 = .fin false m e ∧ m ≠ 0 ∧ m % 3 = 0) ∧
    (∃ m e, fmtValue 9 0 0x3FC00000 = .fin false m e ∧ m ≠ 0 ∧ e < 0 ∧ m % 2 ^ (-e).toNat ≠ 0 ∧ m / 2 ^ (-e).toNat < 999) ∧
    (∃ m e, fmtValue 9 0 0x40000000 = .fin false m e ∧ m = 2 ^ 23) ∧ extreme 9 (.fin false 1 200) = true := by
  refine ⟨⟨_, _, rfl, by decide +kernel, by decide +kernel⟩, ⟨_, _, rfl, by decide +kernel, by decide +kernel, by decide +kernel, by decide +kernel⟩,
    ⟨_, _, rfl, by decide +kernel⟩, by decide +kernel⟩

theorem witness_OperationFrames_functions :
    Spec.vready (wv 9) (.vexp2 .va (wvf 0)) .va (wvf 0) 32 (wsrc 9 0) (srcS 0 (some (.s 0))) { fmt := 9 } ∧
    Spec.vready (wv 9) (.vcvt .va 10 (wvf 0)) .va (wvf 0) 128 (wsrc 9 0) (srcS 0 (some (.s 0))) { fmt := 9 } :=
  ⟨ready_of (by decide) (by decide +kernel), ready_of (by decide) (by decide +kernel)⟩

theorem witness_VectorLaneReductionAndRandomResults :
    (∀ fm ∈ [(1 : BitVec 4), 6, 11], (wsrc fm 0).tagged.fmt.toNat = fm.toNat ∧
      (∀ i ∈ [Instr.vsplat .va (wvf 0), .vins .va (wvf 0), .vrot .va (wvf 0), .vext .va (wvf 0)], wready fm i 0 (srcS 0 (some (.s 0))) = true) ∧
      (∀ i ∈ [Instr.vperm .va (wvf 0x41), .vsel .va (wvf 0x41)], wready fm i 0x41 (wsrc fm 1) = true) ∧
      wready fm (.vcomp .va (wvf 0)) 0 (srcS 0 (some (.s 0))) = true ∧
      Spec.oneFormat fm.toNat [(wsrc fm 0).tagged, (wsrc fm 1).tagged] ∧ Spec.oneBias 0 [(wsrc fm 0).tagged, (wsrc fm 1).tagged]) ∧
    (∀ fm ∈ [(1 : BitVec 4), 6, 7, 11], ∀ i ∈ [Instr.vsum .va (wvf 0), .vmaxr .va (wvf 0), .vargmax .va (wvf 0)],
      wready fm i 0 (srcS 0 (some (.s 0))) = true) ∧
    (wready 0 (.vrng .va (wvf 0)) 0 (srcS 0 (some (.s 0))) = true ∧
      ∀ fm ∈ [(7 : BitVec 4), 9], wready fm (.vsample .va (wvf 0)) 0 (srcS 0 (some (.s 0))) = true) := by
  unfold Spec.oneFormat Spec.oneBias; decide +kernel

/-- A context with a matrix descriptor of format i8 by handle 1, the scratchpad's; slot b0 holds an i8 tile; v0 is i8. -/
def wx (d : Lanes) : State :=
  { (wctx { bank := { h := whs, ol := [(28, { data := d })], v := [(0, { fmt := 1 }), (1, { fmt := 5 }), (2, { fmt := 9 })] } }) with
    cores := [(0, { bslots := [(0, { tag := 1 })], spadFull := (List.range 8).map fun i => (i, true) })] }
def wd : Lanes := (1 <<< 104) ||| (1 <<< 114)
def wt (t : BitVec 9) (mode : BitVec 2) : OpT := ⟨⟨0, false⟩, t, mode, 0, 0⟩
/-- A push of the issuing context, not released; and one released earlier. -/
def wpush : MOp := Spec.entry (wx wd) (wt 0 0) false false 8 1 0 5
def wold : MOp := { wpush with released := true }
def wxm (m : MOp) : State := { (wx wd).modCore 0 (fun k => { k with mops := [m] }) with cycle := 500 }

theorem witness_TileLoadsAndPushesIssue :
    ((Instr.mload (wt 0 0)).check = none ∧ Spec.on (wx wd) (wt 0 0).g ∧ Spec.held (wx wd) 1 ∧ (wx wd).readLatch 28 = .ok { data := wd } ∧
      (wx wd).readT 0 = .ok (srcS 0 (some (.s 0))) ∧ wd.toNat / 2 ^ 104 % 16 = 1 ∧ wd.toNat / 2 ^ 114 % 16 = 1 ∧ Spec.stride wd 1 = 128 ∧
      (∀ i < 128, Spec.allows ((wx wd).handle 1) (Spec.eaAt ((wx wd).handle 1) (BitVec.ofNat 64 (i * 128))) (Spec.rowBytes 1) 32 true false) ∧
      (wx wd).myCore.mops = []) ∧
    ((Instr.mpush (wt 0 0)).check = none ∧ (Instr.mpush (wt 0 1)).check = none ∧ (Instr.mpushv (wt 0x40 0)).check = none ∧
      (wx wd).readT 0x40 = .ok ⟨.vector, { fmt := 1 }, some (.v 0), none⟩ ∧ 127 * Spec.stride wd 1 + Spec.rowBytes 1 ≤ 2 ^ 20 ∧
      Spec.stride wd 1 % 32 = 0 ∧ Spec.flying (wx wd) 0 = []) := by
  unfold Spec.allows Spec.on Spec.held; decide +kernel
theorem witness_pushable : Spec.pushable (wx wd) (wt 0 0) 1 0 false 8 5 ∧ Spec.pushable (wx wd) (wt 0x40 0) 1 0 true 8 5 := by
  refine ⟨⟨true, ?_⟩, ⟨true, ?_⟩⟩ <;> decide +kernel

theorem witness_TileReadClearAndEpilogue :
    ((Instr.mzero (wt 0 0)).check = none ∧ Spec.flying (wx wd) 0 = [] ∧ Spec.flying (wxm wpush) 0 = [wpush] ∧ Spec.flying (wxm wold) 0 = [wold] ∧
      ([wpush].any fun m => m.ctx == (wxm wpush).cid && !m.released && m.pitch == (wxm wpush).me.pitch) = true ∧
      ([wold].any fun m => m.ctx == (wxm wold).cid && !m.released && m.pitch == (wxm wold).me.pitch) = false ∧
      (Instr.mpop (wt 0 0)).check = none) ∧
    ((Instr.mpopx (wt 0 0)).check = none ∧ (Instr.mpopx (wt 0 1)).check = none ∧ wd.toNat / 2 ^ 84 % 2 ^ 20 + 1024 ≤ 2 ^ 20 ∧
      (∀ i < 8, (wx wd).lineFull (wx wd).cur.core (wd.toNat / 2 ^ 84 % 2 ^ 20 / 128 + i) = true) ∧
      Spec.allows ((wx wd).handle 1) (Spec.eaAt ((wx wd).handle 1) (wd.setWidth 64)) (Spec.rowBytes 1) 32 false true) := by
  unfold Spec.allows; decide +kernel

theorem witness_TileUpdateAndRelease :
    ((∀ t ∈ [(0x40 : BitVec 9), 0x41, 0x42], (Instr.macc (wt t 0)).check = none) ∧
      (wx wd).readT 0x41 = .ok ⟨.vector, { fmt := 5 }, some (.v 1), none⟩ ∧ (wx wd).readT 0x42 = .ok ⟨.vector, { fmt := 9 }, some (.v 2), none⟩ ∧
      ((wx wd).tile 0 0).tag = 0 ∧ (Instr.mrel (wt 0 0)).check = none) ∧
    (let x : MAct := ⟨0, 0, 0, .macc 0 0 0 true false false {}⟩
     let y : MAct := ⟨0, 0, 0, .mrel 64 0 false⟩
     x.gen = (wx wd).gen x.slot ∧ y.gen = (wx wd).gen y.slot) := by
  decide +kernel

theorem witness_MatrixUnitEvents :
    let load : MOp := { wold with load := true, start := some 0, data := some (List.replicate 128 (0, 0)) }
    let run : MOp := { wold with start := some 0 }
    let loaded : MOp := { wold with load := true, data := some [] }
    let full : MOp := { wold with rows := 128, start := some 0, consumed := false, csem := some 3 }
    ((wxm wold).core 0).macts = [] ∧
    (((wxm wold).core 0).macroHead 0 = some wold ∧ wold.start = none ∧ wold.relAt < (wxm wold).cycle ∧
      ((wxm wold).core 0).macrosRunning + wold.macros.length ≤ (wxm wold).macroLimit ∧ wold.load = false ∧ loaded.data.isSome = true ∧
      ((wxm wold).core 0).macroHead 0 = some wold ∧ (∀ p ∈ wold.macros, (((wxm wold).core 0).macroHead p).map (·.id) = some wold.id) ∧
      (((wxm wold).core 0).mops.filter fun x => !x.load && decide (x.rows < if x.vec.isSome then 1 else 128) && x.acc == wold.acc &&
        x.id != wold.id).length < wold.lim) ∧
    (((wxm load).core 0).loadOf load.b.toNat = some load ∧ load.gang = false ∧ load.gen = (wxm load).gen load.slot ∧
      load.start = some 0 ∧ 0 + 128 ≤ (wxm load).cycle) ∧
    (((wxm run).core 0).push run.id = some run ∧ (wxm run).rowDue run = true ∧ run.gen = (wxm run).gen run.slot ∧ run.gen = (wxm run).coreGen 0 ∧ run.tag.toNat % 16 = 5) ∧
    (((wxm full).core 0).push full.id = some full ∧ (if full.vec.isSome then 1 else 128) ≤ full.rows ∧
      ((wxm { full with consumed := true }).core 0).push full.id = some { full with consumed := true }) ∧
    (∀ f ∈ [(7 : BitVec 4), 10, 11], let m : MOp := { run with tag := 9, fmt := f }
      let s := (wxm m).modCore 0 fun k => { k with bslots := [(0, { tag := 10, dtag := 10 })] }
      m.gen = s.gen m.slot ∧ m.gen = s.coreGen 0 ∧ m.tag = 9 ∧ m.fmt.toNat ∈ [7, 10, 11] ∧ (s.bslot 0 m.b.toNat).dtag.toNat % 16 ∈ [10, 11]) := by
  decide +kernel

def wxp (x : Xp) : State := State.reset.modCore 0 fun k => { k with xp := x }
def wrow : Lanes × Mark := (0, .clean)
theorem witness_TransposerOperations :
    let full : List (Lanes × Mark) := List.replicate 32 wrow
    let wide : Xp := { w := 32, owner := some 0 }
    ((Instr.xpin { wf1 with t := 0x40 }).check = none ∧ State.reset.readT 0x40 = .ok ⟨.vector, {}, some (.v 0), none⟩ ∧
      (Instr.xpout { wf1 with t := 0 }).check = none ∧ (Instr.xpclr wf1).check = none ∧ (Instr.xpmode { wf1 with t := 0x1E1 }).check = none) ∧
    (State.reset.myCore.xp.owner = none ∧ (wxp wide).myCore.xp.owner = some (wxp wide).cid) ∧
    (State.reset.myCore.xp.fill.length < 128 ∧ State.reset.myCore.xp.fillTag = none ∧ 32 ≤ (wxp { wide with fill := full }).myCore.xp.fill.length) ∧
    ((wxp { wide with drain := full }).myCore.xp.drain ≠ [] ∧ (wxp { wide with drain := full }).myCore.xp.avail ≤ 0 ∧
      (wxp { wide with drain := full, avail := 1 }).cycle < 1 ∧ State.reset.myCore.xp.drain = []) ∧
    (State.reset.readT 0x1E1 = .ok (srcS 1) ∧ (1 : Word).toNat % 4 ≠ 3 ∧ State.reset.myCore.xp.fill = [] ∧ (wxp { wide with fill := full }).myCore.xp.fill ≠ [] ∧
      Spec.on State.reset ⟨0, false⟩ ∧ Spec.on (wxp wide) ⟨0, false⟩) := by
  unfold Spec.on; decide +kernel

/-- A sequencer whose entry 3 performs one kind of state. -/
def wts (opc : Nat) (run : Bool) : State :=
  State.reset.modCore 0 fun k => { k with ts := { entries := [(3, BitVec.ofNat 128 (opc * 2 ^ 124 + 2 ^ 72))], nent := 4, run := run, loaded := true, state := 3 } }
theorem witness_SequencerOperationsAndStates :
    ((Instr.tsload (wt 0 0)).check = none ∧ (Instr.tsrun (wt 0 0)).check = none ∧ (Instr.tsstop (wt 0 0)).check = none ∧ (Instr.tsstat (wt 0 0)).check = none ∧
      (State.reset.seqr 0).run = false ∧ ((wts 5 true).seqr 0).run = true ∧ ((wts 5 true).seqr 0).owner = (wts 5 true).cid ∧
      State.reset.readLatch 28 = .ok {} ∧ (State.reset.handle 0).st = .null ∧ Spec.held State.reset 0 ∧ Spec.on State.reset ⟨0, false⟩ ∧
      State.reset.readT 0 = .ok (srcS 0 (some (.s 0)))) ∧
    (((wts 5 false).seqr 0).run = false ∧ ((wts 5 false).seqr 0).loaded = true ∧ 3 ≤ (3 : BitVec 8).toNat ∧ (3 : BitVec 8).toNat < ((wts 5 false).seqr 0).nent ∧
      (2 : BitVec 8).toNat < 3 ∧ ((wts 5 false).seqr 0).nent ≤ (4 : BitVec 8).toNat) ∧
    (∀ opc ∈ [0, 5, 6, 7], let x := (wts opc true).seqr 0
      x.run = true ∧ (wts opc true).hub.down = false ∧ (Tab.get (0 : BitVec 128) x.entries x.state.toNat).toNat / 2 ^ 124 % 16 = opc) ∧
    ((wts 7 true).sem 0 0 < 1 ∧ 1 ≤ ((wts 7 true).setSem 0 0 1).sem 0 0) := by
  unfold Spec.on Spec.held; decide +kernel

/-- A running sequencer at a matrix state of one kind and MODE, on the tiles of wx, by the scratchpad's handle. -/
def wtm (opc mode : Nat) (f : State → State := id) : State :=
  f ((wx wd).modCore 0 fun k => { k with ts := { entries := [(3, BitVec.ofNat 128 (opc * 2 ^ 124 + mode * 2 ^ 107))], nent := 5, run := true, loaded := true,
                                                 state := 3, mxo := wd, h := Tab.get {} whs 1 } })
theorem witness_SequencerOperationsAndStates_matrix :
    (∀ e ∈ [(1, 0), (1, 1), (2, 0), (2, 1), (3, 0), (3, 1), (4, 0)], Spec.seqStands (wtm e.1 e.2) 0 e.1 ∧ (Spec.seqAt (wtm e.1 e.2) 0).mode = e.2 ∧
      (Spec.seqAt (wtm e.1 e.2) 0).b = 0 ∧ (Spec.seqAt (wtm e.1 e.2) 0).t = 0 ∧ Spec.flyingAt (wtm e.1 e.2) 0 0 = [] ∧ Spec.roomAt (wtm e.1 e.2) 0 [0, 8]) ∧
    (let h := (wtm 1 0).judgeHandle (Spec.seqAt (wtm 1 0) 0).x.h
     wd.toNat / 2 ^ 104 % 16 = 1 ∧ Spec.stride wd 1 = 128 ∧ 127 * 128 + Spec.rowBytes 1 ≤ 2 ^ 20 ∧
      (∀ i < 128, Spec.allows h (Spec.eaAt h (BitVec.ofNat 64 (i * 128))) (Spec.rowBytes 1) 32 true false) ∧
      Spec.allows h (Spec.eaAt h (wd.setWidth 64)) (Spec.rowBytes 1) 32 false true) ∧
    (let e := wd.toNat / 2 ^ 84 % 2 ^ 20
     e + 1024 ≤ 2 ^ 20 ∧ ∀ i < 8, (wtm 3 0).lineFull 0 (e / 128 + i) = true) ∧
    (let s := wtm 4 0 fun s => s.modCore 0 fun k => { k with mops := [wold] }
     Spec.flyingAt s 0 0 = [wold] ∧ wold.released = true) ∧
    (∀ e ∈ [(HState.null, (0 : BitVec 4)), (HState.valid, 14)], let s := wtm 1 0 fun s => s.modCore 0 fun k => { k with ts := { k.ts with h := { st := e.1, ps := e.2 } } }
     let h := s.judgeHandle (Spec.seqAt s 0).x.h
     h.st = e.1 ∧ h.ps = e.2) := by
  unfold Spec.allows Spec.seqStands Spec.roomAt; decide +kernel
theorem witness_SequencerOperationsAndStates_pushes :
    Spec.pushableAt (wtm 2 0) 0 0 0 0 1 0 false 8 5 := by
  refine ⟨true, ?_⟩; decide +kernel

/-- A scratchpad that holds a table of four entries at 0, its one state an ENDP. -/
def wtab : State := State.reset.modCore 0 fun k => { k with spad := [(15, 4), (63, 8)] }
theorem witness_TableLoads :
    let entry := fun (s : State) (i : Nat) => ofBytes 128 ((List.range 16).map fun j => (s.spadByte 0 (0 + 16 * i + j)).1)
    Spec.entries (entry wtab 0) = 4 ∧ Spec.validTable 4 (entry wtab) ∧ Spec.entries (entry State.reset 0) = 256 ∧
      ¬ Spec.validTable 256 (entry State.reset) ∧ 0 + 16 * 256 ≤ 2 ^ 20 := by
  intro entry
  have h0 : entry State.reset 3 = 0 := by decide +kernel
  have h3 : entry wtab 3 = BitVec.ofNat 128 (2 ^ 123) := by decide +kernel
  refine ⟨by decide +kernel, ⟨by decide, by decide +kernel, by decide +kernel, ?_, ?_, ?_, by decide +kernel⟩, by decide +kernel, ?_, by decide⟩
  · intro i h h'
    obtain rfl : i = 3 := by omega
    rw [h3]; decide +kernel
  · intro i j h h' h''; omega
  · intro i h h'; omega
  · rintro ⟨-, -, -, h, -⟩
    have : (entry State.reset 3).toNat / 2 ^ 124 = 5 ∨ (entry State.reset 3).toNat / 2 ^ 124 = 0 → (entry State.reset 3).getLsbD 123 = true :=
      (h 3 (by decide) (by decide)).2.2.2.2
    rw [h0] at this
    exact absurd (this (.inr (by decide))) (by decide)

def wtask : Task := { key := 1, word := 5, lobj := 0, slot := 0, gen := 0, held := none }
def wdq : State := State.reset.modCore 0 fun k => { k with deque := [wtask] }
theorem witness_WorkOperationsAndReleases :
    ((∀ i ∈ [Instr.fork { wf1 with t := 0x40 }, .jadd wf1, .wdone wf1, .wcan { wf1 with w := 1 }, .join { wf1 with w := 1 }], i.check = none) ∧
      Tab.get 0 State.reset.me.counts 8 < 16 ∧ forksOf State.reset.me < 256 ∧ State.reset.myCore.deque.length < 256 ∧
      Spec.on State.reset ⟨0, false⟩ ∧ Spec.off State.reset ⟨0, true⟩ ∧ State.reset.me.rel = [] ∧
      (∀ i ∈ [Instr.jadd wf1, .wdone wf1, .wcan { wf1 with w := 1 }, .join { wf1 with w := 1 }], State.reset.scalarArgs 15 i.shape wf1 = .ok ⟨0, 0, 0⟩)) ∧
    (State.reset.jc 0 0 = 0 ∧ (State.reset.setJc 0 0 2).jc 0 0 ≠ 0 ∧ State.reset.findTask = none ∧ wdq.endTask wdq.cur.core true = some wtask ∧
      wdq.findTask = some (0, true, wtask)) ∧
    (let x : RelItem := ⟨0, 0, 15, 0, 0, .rdrain⟩
     x.gen = State.reset.gen x.slot ∧ ((1 : Word) <<< 31).getLsbD 31 = true ∧ State.reset.coreSlot 0 = x.slot ∧ State.reset.jc 0 0 < 2 ^ 32 - 1) := by
  unfold Spec.on Spec.off; decide +kernel

/-- An enabled queue 0 of core 0 with its line at physical 0, a handle of a window (PS 14) and one of a page. -/
def whq : Tab Handle := [(2, { st := .valid, rd := true, wr := true, pfn := 1 }), (3, { st := .valid, rd := true, wr := true, ps := 14 })]
def wq (v : Lanes) : State := (wctx { bank := { h := whq, v := [(0, { data := v })] } }).setEq 0 0 { cfg := BitVec.ofNat 64 (2 ^ 63) }
theorem witness_EnginePushIssues :
    (∀ e ∈ Spec.pushes, let v : Lanes := BitVec.ofNat 1024 (if e.2 = 6 then 5 * 2 ^ 352 else 0)
      Spec.within (wq v) (e.1 0 { wm 0 with t := 0x40 }) ⟨0, false⟩ 3 16 ∧ (wq v).readT 0x40 = .ok ⟨.vector, { data := v }, some (.v 0), none⟩ ∧
      packetBad (formPacket (v.setWidth 512) e.2 0 0 0 0) = false ∧ (wq v).me.bank.fmode = 0 ∧ (wq v).coreGen 0 = 0) ∧
    (let x := (wq 0).eq 0 0
     eqEn x.cfg = true ∧ x.closing = false ∧ (wq 0).me.reserved 0 < eqSize x.cfg ∧
      (wq 0).widx 0 0 - (wq 0).ridx 0 0 + ((List.range 4).map fun k => ((wq 0).ctx (4 * 0 + k)).reserved 0).sum < eqSize x.cfg) ∧
    (Instr.cstat 0 (wm 0)).check = none ∧ Spec.on (wq 0) ⟨0, false⟩ := by
  unfold Spec.within Spec.on; decide +kernel

/-- The same with a control word 1 (an atomic of kind 1) or as given in fm.l. -/
def wrm (w : Nat) : State := (wq 0).modMe fun c => { c with bank := { c.bank with ol := [(12, { data := BitVec.ofNat 1024 (w * 2 ^ 64) })] } }
theorem witness_RemoteOperationsIssue :
    (∀ h ∈ [(2 : BitVec 4), 3], (Instr.rld (wm h)).check = none ∧ (Instr.rldv (wm h)).check = none ∧
      (∀ n ∈ [8, 128], Spec.remotely ((wq 0).handle h.toNat) (Spec.ea ((wq 0).handle h.toNat) 0 (wm h) n) n true false)) ∧
    (wq 0).me.remote = [] ∧ Spec.on (wq 0) ⟨0, false⟩ ∧ (∀ h ∈ [2, 3], Spec.held (wq 0) h) := by
  unfold Spec.remotely Spec.on Spec.held; decide +kernel
theorem witness_RemoteOperationsIssue_writes :
    (∀ b ∈ [(0 : BitVec 2), 3], ∀ i ∈ [Instr.rst b (wm 2), .rst b (wm 3), .rstv b { wm 2 with t := 0x40 }, .rstv b { wm 3 with t := 0x40 },
      .bclose b (wm 0)], Spec.within (wrm 0) i ⟨0, false⟩ 4 16) ∧
    (Spec.within (wrm 0) (.rdrain (wm 0)) ⟨0, false⟩ 1 8 ∧ (wrm 0).me.remote = []) := by
  unfold Spec.within Spec.on; decide +kernel
theorem witness_RemoteOperationsIssue_handles :
    ∀ h ∈ [(2 : BitVec 4), 3], ∀ n ∈ [8, 128], Spec.remotely ((wrm 0).handle h.toNat) (Spec.ea ((wrm 0).handle h.toNat) 0 (wm h) n) n false true ∧ Spec.held (wrm 0) h.toNat := by
  unfold Spec.remotely Spec.held; decide +kernel
theorem witness_RemoteOperationsIssue_rop :
    (∀ k ∈ [1, 2, 3, 6, 64, 127], Spec.within (wrm k) (.rop { wm 2 with t := 0x40 }) ⟨0, false⟩ 4 16 ∧
      (wrm k).readLatch 12 = .ok { data := BitVec.ofNat 1024 (k * 2 ^ 64) } ∧
      (BitVec.ofNat 1024 (k * 2 ^ 64)).extractLsb' 64 64 = BitVec.ofNat 64 k) ∧
    (∀ n ∈ [8, 16, 32], Spec.remotely ((wrm 1).handle 2) (Spec.ea ((wrm 1).handle 2) 0 (wm 2) n) n true true) ∧ Spec.held (wrm 1) 2 := by
  unfold Spec.remotely Spec.within Spec.on Spec.held; decide +kernel

/-- Operands with T = s2. -/
def wm2 : OpM := { wm 0 with t := 2 }
/-- Live ends of streams 0 (both), its producer's handle 1 and its consumer's 1 + 2^35, and the producer of stream 1. -/
def wend1 : EndRec := { chk := 1, slot := 0, gen := 0, capc := 4, peer := 0 }
def wsx (k : EndRec) (a b : Word) : State :=
  ((wctx { bank := { s := [(2, a)], ol := [(13, { data := b.setWidth 1024 }), (14, { data := b.setWidth 1024 })] } }).setStream ⟨0, 0⟩
    { prod := some wend1, cons := some k, live := true }).setStream ⟨0, 1⟩ { prod := some wend1, live := true }
def wp0 : Word := 1
def wp1 : Word := BitVec.ofNat 64 (1 + 2 ^ 36)
def wc0 : Word := BitVec.ofNat 64 (1 + 2 ^ 35)
theorem witness_StreamOperations_ends :
    (∀ c ∈ [true, false], let a := if c then wc0 else wp0
      let s := wsx wend1 a wp1
      s.readT 2 = .ok (srcS a (some (.s 2))) ∧ s.readLatch 13 = .ok { data := wp1.setWidth 1024 } ∧ s.checkEnd a none = .ok wend1 ∧
      s.checkEnd wp1 (some false) = .ok wend1 ∧ wend1.journal = none ∧ handleSid a ≠ handleSid wp1 ∧ s.me.sx.length < 64 ∧
      Spec.within s (.sopen wm2) ⟨0, false⟩ 5 16 ∧ Spec.within s (.sclose wm2) ⟨0, false⟩ 5 16 ∧
      Spec.within s (.ssend { wm2 with t := 0x40 }) ⟨0, false⟩ 5 16 ∧ Spec.within s (.sxfer wm2) ⟨0, false⟩ 5 16 ∧ wend1.resv = [] ∧
      (Instr.spoll wm2).check = none ∧ (Instr.sstat wm2).check = none) := by
  unfold Spec.within Spec.on; decide +kernel
theorem witness_StreamOperations :
    (let k : EndRec := { wend1 with store := [(0, .data 0)] }
     let s := wsx k wc0 0
     (Instr.srecv wm2).check = none ∧ s.checkEnd wc0 (some true) = .ok k ∧ k.resv = [] ∧ k.nseq + BitVec.ofNat 32 k.resv.length = 0 ∧
      k.store.find? (fun x => x.1 == 0) = some (0, .data 0) ∧ wend1.store.find? (fun x => x.1 == 0) = none ∧
      Tab.get 0 s.me.counts 6 < 16) ∧
    (let t : EndRec := { wend1 with state := 2, endSeq := some 0 }
     (wsx t wc0 0).checkEnd wc0 (some true) = .ok t ∧ later 0 0 = false ∧ wend1.state = 0) ∧
    (∀ e ∈ [(({ wend1 with chk := 2 } : EndRec), 1), ({ wend1 with slot := 1 }, 2), ({ wend1 with gen := 1 }, 3), ({ wend1 with state := 1 }, 4)],
      (wsx e.1 wc0 0).checkEnd wc0 none = .error (.trap { cause := 14, sub := e.2, info := wc0 }) ∧
      ((wsx e.1 wc0 0).stream (handleSid wc0)).inst = []) := by
  decide +kernel

theorem witness_StreamOperations_guard : Spec.on (wsx { wend1 with store := [(0, .data 0)] } wc0 0) ⟨0, false⟩ := by
  unfold Spec.on; decide +kernel

/-- Journal 0 of the producer of stream 0, with one held step, number 0. -/
def wj0 : Journal :=
  { live := true, chk := 1, slot := 0, gen := 0, state := 0, iss := 0, part := 0, capc := 8, cur := 0, neseq := 1,
    tail := 1, cstep := 0, ckpt := 0, seqid := 0, sid := ⟨0, 0⟩, recs := [(0, 0)], emit := 1 }
def wjs (x : Journal) (v : Lanes) (l : Lanes) : State :=
  ((wctx { bank := { s := [(2, 1)], v := [(0, { data := v })], ol := [(14, { data := l })] } }).setJournal 0 x).setStream ⟨0, 0⟩
    { prod := some wend1, live := true }
theorem witness_JournalOperationsIssue :
    (let v : Lanes := BitVec.ofNat 1024 (2 ^ 64 + 2 ^ 143)
     let s := wjs wj0 v 1
     let d : Packet64 := v.setWidth 512
     Spec.within s (.jopen { wm2 with t := 0x40 }) ⟨0, false⟩ 7 16 ∧ s.readT 0x40 = .ok ⟨.vector, { data := v }, some (.v 0), none⟩ ∧
      s.checkEnd (d.extractLsb' 64 64) (some false) = .ok wend1 ∧ 8 ≤ d.toNat / 2 ^ 140 % 16 ∧ d.toNat / 2 ^ 144 % 2 ^ 16 = 0) ∧
    (let s := wjs wj0 0 1
     s.readT 2 = .ok (srcS 1 (some (.s 2))) ∧ s.readLatch 14 = .ok { data := 1 } ∧ s.checkJournal 1 = .ok wj0 ∧
      later wj0.cstep 1 = false ∧ later 1 wj0.tail = false ∧ wj0.state ≠ 3 ∧ s.me.jrecs.length < 4 ∧ wj0.part = s.fabid ∧
      (∀ i ∈ [Instr.jtrunc wm2, .jpart wm2, .jrep wm2, .jemit { wm2 with t := 0x40 }], Spec.within s i ⟨0, false⟩ 7 16) ∧
      (Instr.jstat wm2).check = none ∧ (Instr.jrec wm2).check = none) ∧
    (∀ k ∈ [(0 : BitVec 4), 2], let x := { wj0 with state := k }
      (wjs x 0 1).checkJournal 1 = .ok x ∧ later x.cstep 0 = false ∧ later x.tail 0 = true ∧ (0 : BitVec 32) = x.cur ∧
      ((wjs x 0 1).emissions x.sid).length < 64 ∧ Spec.within (wjs x 0 1) (.jemit { wm2 with t := 0x40 }) ⟨0, false⟩ 7 16) := by
  unfold Spec.within Spec.on
  exact ⟨by decide +kernel, by decide +kernel, by decide +kernel⟩

theorem witness_StorePerformanceFrame :
    let s := State.reset.modCore 0 fun k => { k with l1 := [⟨0, false, [(0, {})]⟩] }
    let h : Handle := { st := .valid, wr := true }
    h.ps ≠ 15 ∧ ({ h with ps := 15 } : Handle).ps = 15 ∧ cacheSector (s.core 0).l1 (127 / 128) = some {} ∧ ([0xAB] : List Byte) ≠ [] ∧
    127 % 128 + ([0xAB] : List Byte).length ≤ 128 ∧ (s.core 0).fifo.length < 256 := by
  decide +kernel

/-- The placed program of an empty bundle, its context changed. -/
def wpl (f : Ctx → Ctx) : State := (State.reset.placeBundle 0).modCtx 0 f
theorem witness_IssueAndArrivalEvents :
    (let s := wpl id
     (s.core 0).issuing = some 0 ∧ s.mayExamine 0 0 = true ∧ 9 < s.level ∧
      (match (s.beginExam 0 0).examine with | .ok e => !(Header.ofBits e.bits).pitch | .error _ => false) = true) ∧
    (let s := wpl fun c => { c with st := .blocked .sleep }
     (s.ctx 0).st = .blocked .sleep ∧ s.keptBlocked 0 = false ∧ s.stillBlocked 0 0 .sleep = false ∧ (s.core 0).issuing = some 0) ∧
    (let s := wpl fun c => { c with replayWait := true }
     s.mayExamine 0 0 = true ∧ (s.ctx 0).replayWait = true) ∧
    (let ld : PendLoad := ⟨7, 0, 0, {}, [⟨0, 0, 8⟩], .scalar 8 false, [], false, 0, 0⟩
     let c : Ctx := { loads := [ld], bank := { pend := [] } }
     let d : Ctx := { c with bank := c.bank.addPend (.s 5) ⟨7, 8, 0, false⟩ }
     d.loads.find? (fun l => l.tok == ld.tok) = some ld ∧ d.heldLoad ld = false ∧ (d.landDue 0).bank.pends (.s 5) = [⟨7, 8, 0, false⟩]) ∧
    (let w : Walk := { id := 1, ctx := 0, reg := 3, va := 0x1000, slot := 0, gen := 0, tok := 7, pitch := 0, addr := 0, again := false, failed := none, item := none }
     let s := (wpl fun c => { c with bank := { c.bank with h := [(3, { st := .pending, tok := 7 })] } }).modCore 0 fun k => { k with walks := [w] }
     (s.core 0).walks.find? (fun x => x.id == w.id && x.failed.isNone) = some w ∧ w.again = false ∧ w.item = none ∧ inAperture w.va = false ∧
      (match s.walk w.slot w.va with | .ok _ => true | _ => false) = true ∧
      (Tab.get {} (s.ctx w.ctx).bank.h 3).st = .pending ∧ (Tab.get {} (s.ctx w.ctx).bank.h 3).tok = w.tok) := by
  decide +kernel

theorem witness_ReleaseEvents :
    (let x : RelItem := ⟨0, 0, 8, 0, 0, .store (Spec.storing { ps := 15 } 0 0 0 0 [1])⟩
     let p : PitchRel := { pitch := 0, step1 := [x], step2 := [], sigs := [⟨1, true, 2, 0, 0⟩], begun := false }
     let c := (wctx { path := [p] }).ctx 0
     c.path = [p] ∧ p.step1 = [x] ∧ p.step2 = [] ∧ c.after = .none ∧ c.asyncDue = false ∧ c.cancel = false) ∧
    ((State.reset.modCore 0 fun k => { k with fifo := [.line 1, .line 2] }).core 0).fifo = .line 1 :: [.line 2] := by
  decide +kernel

/-- A trap record, and a stopped context that holds it. -/
def wrec : List Word := List.replicate 16 0
def wstop (c : Ctx) : State :=
  (wctx { c with st := .stopped, record := some wrec }).modCore 0 fun k => { k with tqcfg := BitVec.ofNat 64 (2 ^ 63) }
theorem witness_TrapEntrySavesAndRollsBack :
    (let s := State.reset.placeBundle (BitVec.ofNat 384 (2 ^ 384 - 1))
     (s.core 0).issuing = some 0 ∧ s.mayExamine 0 0 = true ∧ (s.beginExam 0 0).cid = 4 * 0 + 0 ∧
      (match (s.beginExam 0 0).examine with | .error (.trap _) => true | _ => false) = true) ∧
    (let s := wstop {}
     (s.ctx 0).record = some wrec ∧ (s.ctx 0).queued = false ∧ (s.ctx 0).dying = false ∧ (s.core 0).tqcfg.getLsbD 63 = true ∧
      (match s.putRecord 0 wrec with | some (_, u) => !(u.tctl 0 0).getLsbD 63 | none => false) = true ∧ (s.hwWord (busAcc 0) (tqBase (s.core 0).tqcfg) -
        s.hwWord (busAcc 0) (tqBase (s.core 0).tqcfg + 8)).toNat < tqSize (s.core 0).tqcfg) := by
  decide +kernel

theorem witness_UnitControlEvents :
    (let c := (wstop { queued := true }).ctx 0
     c.st = .stopped ∧ c.dying = false ∧ c.queued = true ∧ ((wstop { queued := true }).tctl 0 0).getLsbD 63 = false ∧ c.record = some wrec ∧ c.nr = false ∧ c.hnd = false ∧ wrec.length = 16) ∧
    (Spec.commands (wstop { queued := true }) 0 1 1 ∧ Spec.commands (wstop { queued := true }) 0 2 2 ∧ Spec.commands (wstop { queued := true }) 0 3 3) ∧
    (let s := wctx { st := .ready, pre := true, atCairn := true }
     (s.ctx 0).pre = true ∧ s.savePoint 0 = true ∧ (s.ctx 0).dying = false ∧ (s.tctl 0 0).getLsbD 63 = false) ∧
    (let u : SavedUnit := { savea := 0x8000, row := 0, uid := 1, lobj := 0, slot := 0, gen := 0 }
     let r : Reply := ⟨1, 0, 0, 5, 0, 0, 0⟩
     let s := State.reset.modCore 0 fun k => { k with units := [u], toSaved := [(0x8000, r)] }
     (s.core 0).units.find? (fun u => u.row == 0 && !u.restored && (s.core 0).toSaved.contains (u.savea, r)) = some u ∧
      Tab.get [] (s.core 0).replies 0 = [] ∧ s.ringCount 0 u.savea = 0) := by
  unfold Spec.commands; decide +kernel

/-- A command of a packet at the head of queue 0 of core 0, in the placed program's world (virtual 0 to 16 MiB at 0x1000000). -/
def wcmd (p : Nat) : Cmd :=
  { idx := 0, packet := BitVec.ofNat 512 p, prom := 10, owner := none, fate := 0, missed := false, began := true, done := 0,
    finished := false, err := false, fixes := [], rpos := (0, 0), marked := [], skipped := [], fence := [], csr := (0, 0), rows := [],
    members := [], first := none, result := none }
def wq1 (c : Cmd) : State := (wpl id).setEq 0 0 { cfg := BitVec.ofNat 64 (2 ^ 63), cmds := [c] }
/-- The packet of a command with a field set. -/
def wpk (cmd body : Nat) : Nat := cmd * 2 ^ 32 + body
theorem witness_EngineCommandsPerform :
    (let c := wcmd (wpk 1 (2 ^ 184 + 2 ^ 248 + 256 * 2 ^ 192 + 2 ^ 256))
     Spec.performing (wq1 c) 0 0 c [] 1 ∧ c.access 0 = some { src := some (true, 0), dst := some (true, 256), n := 1 } ∧
      c.access 1 = none ∧ (wq1 c).spadLocked 0 256 1 = false) ∧
    (let c := wcmd (wpk 4 (2 ^ 184 + 8 * 2 ^ 256))
     Spec.performing (wq1 c) 0 0 c [] 4 ∧ c.access 0 = some { src := none, dst := some (true, 0), n := 8 } ∧ c.access 1 = none) ∧
    (let c := wcmd (wpk 2 (2 ^ 352))
     Spec.performing (wq1 c) 0 0 c [] 2 ∧ Spec.pk c 352 16 ≠ 0 ∧
      (match (wq1 c).engPlace 0 (Spec.pk c 128 56 + 4 * Spec.pk c 320 32) 4 false with | .ok _ => true | _ => false) = true) ∧
    (∀ k ∈ [3, 7], let c := wcmd (wpk k (1024 * 2 ^ 256))
     Spec.performing (wq1 c) 0 0 c [] k ∧ (Spec.pk c 128 56 / 1024 + c.done) * 1024 < Spec.pk c 128 56 + Spec.pk c 256 32 ∧ Spec.pk c 256 32 ≠ 0 ∧
      (match (wq1 c).engLeaf 0 0 false with | .ok l => !(wq1 c).refused (engAcc c.packet l.key) (leafPa l 0) | _ => false) = true) := by
  unfold Spec.performing; decide +kernel
theorem witness_EngineCommandsPerform_fence :
    (let c := { wcmd (wpk 5 (2 ^ 128 + 3 * 2 ^ 24)) with fence := [(1, 0)] }
     Spec.performing (wq1 c) 0 0 c [] 5 ∧ (wq1 c).fenceMet 0 c = true ∧ Spec.pk c 24 4 ≠ 0) ∧
    (let c := wcmd (wpk 6 (0x4000 * 2 ^ 256 + 2 * 2 ^ 320 + 5 * 2 ^ 352))
     let s := (wq1 c).placeBytes 0x1004000 [2, 0]
     Spec.performing s 0 0 c [] 6 ∧ c.result = none ∧ c.members = [] ∧ c.first = none ∧ Spec.pk c 256 56 = 0x4000 ∧
      c.own = none ∧ (match s.collRead 0 0 c 0x4000 64 with
        | .error _ => false
        | .ok (hdr, s1) => match s1.collRead 0 0 c 0x4000 96 with
          | .error _ => false
          | .ok (d, s2) => let desc := d.map Prod.fst
            groupOk (hdr.map Prod.fst) && decide ((hdr.getD 0 (0, false)).1.toNat = 2) && decide (desc.take 2 = (hdr.map Prod.fst).take 2) &&
            (List.range 2).all (fun k => memberOk ((desc.drop (64 + 16 * k)).take 16)) &&
            (match s2.collRead 0 0 c 0 8 with | .ok _ => true | .error _ => false)) = true ∧ s.hub.downMods = [] ∧ Spec.pk c 320 32 % 2 = 0 ∧ ([] : List CollMember).length + 1 < 2 ∧ collElem c.packet = 4) := by
  unfold Spec.performing; decide +kernel

theorem witness_EngineQueueEvents :
    (let s := ((State.reset.setEq 0 0 { cfg := BitVec.ofNat 64 (2 ^ 63) }).placeBytes 0 [1])
     let x := s.eq 0 0
     let p : Packet64 := ofBytes 512 ((s.homeReads hwAcc (entryAddr x.cfg x.adm) 64).map Prod.fst)
     s.hub.down = false ∧ x.cfg.getLsbD 63 = true ∧ x.closing = false ∧ x.adm < s.widx 0 0 ∧ x.cmds = [] ∧
      p.toNat / 2 ^ 29 % 8 = x.adm / eqSize x.cfg % 8 ∧ s.engStale 0 p = false ∧ x.claims = []) ∧
    (let p : Promise := ⟨0, 7, 0, 10⟩
     let s := (wctx { bank := ({} : Bank).addPend (.rl 8) ⟨7, 11, 0, true⟩ }).setEq 0 0 { proms := [p] }
     (s.eq 0 0).proms = [p] ∧ (∀ j < 8, j ≠ 0 → (s.eq 0 j).proms = []) ∧ p.due ≤ s.cycle ∧ (s.ctx p.ctx).bank.waiting p.tok ≠ [] ∧
      ∀ j < 4, j ≠ 0 → (s.ctx j).bank.waiting p.tok = [] ∧ (s.ctx j).shadow.bank.waiting p.tok = []) ∧
    (let k : Claim := ⟨0, 0, 7, 0, 0, 0, false⟩
     let c := { wcmd (wpk 4 0) with prom := 0, owner := some k, marked := [1] }
     let s := (wctx { st := .ready }).setEq 0 0 { cmds := [c] }
     (s.eq 0 0).cmds = [c] ∧ c.missed = false ∧ c.prom.toNat ≤ s.dtime ∧ s.lineFull 0 1 = false ∧
      s.whereUnit 0 k = some (.inl 0) ∧ (s.ctx 0).st = .ready ∧ (s.ctx 0).held.length < 4) ∧
    (let f : FixUp := ⟨0, 4096, 0, none⟩
     let c := { wcmd (wpk 4 0) with fixes := [f] }
     ((wq1 c).eq 0 0).cmds = [c] ∧ c.began = true ∧ (wq1 c).hub.down = false ∧ f.answer = none) ∧
    (let c := { wcmd (wpk 6 0) with first := some 0 }
     let s := { wq1 c with dtime := 100000000 }
     (s.eq 0 0).cmds = [c] ∧ c.result = none ∧ c.packet.toNat / 2 ^ 32 % 16 = 6 ∧ 0 + 100000000 ≤ s.dtime) ∧
    (let v : Word := BitVec.ofNat 64 (2 ^ 63)
     v.toNat % 2 ^ 12 = 0 ∧ v.toNat / 2 ^ 39 % 2 ^ 20 = 0 ∧ (State.reset.eq 0 0).cfg.getLsbD 63 = false ∧ v.getLsbD 63 = true ∧
      (0 : Word).setWidth 63 = ((wq1 (wcmd 0)).eq 0 0).cfg.setWidth 63 ∧ ((wq1 (wcmd 0)).eq 0 0).cmds ≠ []) ∧
    (let x := (State.reset.setEq 0 0 { closing := true }).eq 0 0
     x.closing = true ∧ x.cmds = []) := by
  decide +kernel

/-- Block 0x100 (0x1000000 on) is slot 0's, and window 0 is its first 4 KiB. -/
def wown : State := { State.reset with dies := [(0, { owner := [(0x100, 0)] })] }
def wnet (m : Msg) : State :=
  { (wown.setHubReg 0x1000 0x1000).setHubReg 0x1008 (BitVec.ofNat 64 (7 * 2 ^ 61)) with net := [m] }
/-- A request of module 5 to this module, number 0. -/
def wp (k : BitVec 6) : Packet :=
  { kind := k, dmod := 0, smod := 5, world := 0, fseq := 0, auth := 0, tag := 0, inc := 0, win := 0, off := 0, ftag := 0, sctx := 0,
    batch := 0, errv := false, err := 0, birth := 0, key := 0, keyOk := true, own := false, data := 1 ||| (3 <<< 256) }
theorem witness_FabricRequestsServed :
    (∀ k ∈ [(1 : BitVec 6), 2, 3, 4, 5, 6], let p := wp k
      let s := wnet (.packet p)
      Spec.accepted s p ∧ p.kind = k ∧ s.hub.tally = [] ∧ (∀ n ∈ [8, 128],
        (match (Spec.taken s (.packet p)).admitPacket p n (k = 1 || k = 2 || k = 5) (k = 3 || k = 4 || k = 5) with
          | .ok v => v.pa = 0x1000000 && !((s.homeReads v.acc v.pa n).any Prod.snd) | .error _ => false) = true)) ∧
    (let p := { wp 1 with win := 1 }
     (Spec.taken (wnet (.packet p)) (.packet p)).admitPacket p 8 true false = .error 0) ∧
    (let z := Spec.taken (wnet (.packet (wp 5))) (.packet (wp 5))
     (∀ n ∈ [8, 16, 32], (match z.admitPacket (wp 5) n true true with | .ok _ => true | .error _ => false) = true) ∧
     (match z.admitPacket (wp 5) 8 true true with
      | .ok v => (match ((z.kettle 0 1 fun _ => 3).run.run { v := v }).1, ((z.kettle 4 1 fun _ => 3).run.run { v := v }).1,
            ((z.m8 0).run.run { v := v }).1 with
          | .ok (l, e), .error c, .ok old => decide (l = [0]) && !e && decide (c = 5) && decide (old = 0)
          | _, _, _ => false)
      | .error _ => false) = true) ∧
    (let y : Tally := ⟨5, 0, 0, 0, 1, 0⟩
     let s := { wnet (.packet (wp 6)) with hub := { (wnet (.packet (wp 6))).hub with tally := [y] } }
     Spec.tallied s (wp 6) = some y ∧ ∀ m ∈ s.net, Msg.batchWrite (wp 6) m = false) := by
  unfold Spec.accepted; decide +kernel

/-- A request of context 0 that is outstanding under tag 0. -/
def wop (k : BitVec 6) : RemoteOp := { h := {}, ea := 0, off := 0, n := 8, kind := k, batch := 0, ctrl := 0, data := 0, mask := 0, slot := 0, gen := 0 }
def wtag (k : BitVec 6) (net : List Msg) : State :=
  { wctx { bank := ({} : Bank).addPend (.s 5) ⟨7, 12, 0, false⟩, remote := [(7, 0)], unacked := [(7, wop 3)] } with
    net := net, dtime := 50000, hub := { State.reset.hub with tags := [(0, { req := some (0, 7, wop k) })] } }
theorem witness_FabricRepliesAndPortEvents :
    (∀ k ∈ [(1 : BitVec 6), 2, 3, 4, 5, 6], let p := { wp (k + 32) with birth := 50 }
      let s := wtag k [.packet p]
      let g := Tab.get ({} : Tag) s.hub.tags p.tag.toNat
      p.dmod = s.fabid ∧ s.net.contains (.packet p) ∧ s.tooOld p = false ∧ g.req = some (0, 7, wop k) ∧ g.inc = p.inc ∧ p.kind = (wop k).kind + 32 ∧ (wop k).gen = s.gen (wop k).slot ∧
        s.hub.waiting = [] ∧ g.sent + (s.hubReg 8).toNat * 1000 ≤ s.dtime ∧ (s.ctx 0).bank.pends (.s 5) = [⟨7, 12, 0, false⟩] ∧
        (wop k).n = 8 ∧ (wop k).mask = 0) := by
  decide +kernel
theorem witness_FabricRepliesAndPortEvents_timeout :
    let s := { wtag 1 [] with hub := { (wtag 1 []).hub with tally := [⟨5, 0, 0, 0, 1, 0⟩] } }
    let g := Tab.get ({} : Tag) s.hub.tags 0
    g.req = some (0, 7, wop 1) ∧ g.sent + (s.hubReg 8).toNat * 1000 ≤ s.dtime ∧ ((wtag 1 []).ctx 0).flight = [] := by
  decide +kernel
/-- Entries of the window table that are not enabled: EN = 0, LSZ 21, a reserved bit, a BASE out of alignment. -/
theorem witness_FabricRepliesAndPortEvents_window :
    ((0 : Word).toNat / 2 ^ 24 % 2 ^ 37 = 0) ∧
    (let en : BitVec 128 := 1 <<< 127
     ∀ e ∈ [((0 : BitVec 128), 0), (en ||| (21 <<< 104), 21), (en ||| (1 <<< 27), 0), (en ||| (1 <<< 104) ||| 1, 1)],
      let s := (State.reset.setHubReg 0x1000 (e.1.extractLsb' 0 64)).setHubReg 0x1008 (e.1.extractLsb' 64 64)
      (wp 1).own = false ∧ s.hub.down = false ∧ s.fxwin 0 = e.1 ∧ (e.1.extractLsb' 104 5).toNat = e.2 ∧
        (e.1.getLsbD 127 = false ∨ 20 < e.2 ∨ e.1.extractLsb' 27 53 ≠ 0 ∨ ∃ i < e.2, e.1.getLsbD i = true)) := by
  decide +kernel
/-- The header key of world 0, and a packet with the tag of its header under it, and with another. -/
def wfab : State := State.reset.modCaddy fun c => { c with fabKey := [(0, 9)] }
def wauth (x : BitVec 64) : Packet := { wp 1 with auth := macWord 9 (bytesOf (headerBits (wp 1)) 24) + x }
theorem witness_FabricRepliesAndPortEvents_port :
    (let p := wauth 0
     let s := wfab
     let key := Tab.get 0 s.hub.caddy.fabKey p.world.toNat
     p.dmod = s.fabid ∧ s.tooOld p = false ∧ p.world ≠ 3 ∧ s.hub.caddy.asleep = false ∧ key ≠ 0 ∧
      p.auth = macWord key (bytesOf (headerBits p) 24) ∧ Tab.get none s.hub.fseqIn 20 = none ∧
      1 ≤ p.kind.toNat ∧ p.kind.toNat ≤ 6 ∧ (s.hubReg 0xB080).toNat < 2 ^ 32 - 1) ∧
    (wauth 1).auth ≠ macWord (Tab.get 0 wfab.hub.caddy.fabKey (wauth 1).world.toNat) (bytesOf (headerBits (wauth 1)) 24) := by
  have hk : Tab.get 0 wfab.hub.caddy.fabKey 0 = 9 := by decide +kernel
  have h0 : ∀ x, headerBits (wauth x) = headerBits (wp 1) := fun x => by simp only [headerBits, wauth]
  refine ⟨⟨by decide +kernel, by decide +kernel, by decide +kernel, by decide +kernel, by decide +kernel, ?_, by decide +kernel, by decide +kernel,
    by decide +kernel, by decide +kernel⟩, ?_⟩
  · show _ = macWord (Tab.get 0 wfab.hub.caddy.fabKey 0) _
    rw [hk, h0]; exact BitVec.add_zero _
  · show _ ≠ macWord (Tab.get 0 wfab.hub.caddy.fabKey 0) _
    rw [hk, h0]
    show macWord 9 (bytesOf (headerBits (wp 1)) 24) + 1 ≠ _
    generalize macWord 9 (bytesOf (headerBits (wp 1)) 24) = a
    bv_omega

/-- Both ends of stream 0 of this module's or of module h's name. -/
def wst (h : BitVec 12) (x : StreamEntry) (net : List Msg) : State := { State.reset.setStream ⟨h, 0⟩ x with net := net }
theorem witness_StreamItemEvents :
    (let h : SendItem := ⟨.data 0, 0, 7, 0, 0, none⟩
     let e : EndRec := { wend1 with queue := [h] }
     let s := wst 0 { prod := some e } []
     Spec.quiet s ∧ (s.stream ⟨0, 0⟩).prod = some e ∧ e.queue = [h] ∧ h.body = .data 0 ∧ h.forced = none ∧ h.gen = s.gen h.slot ∧ e.state = 0 ∧ e.journal = none ∧
      0 < e.space) ∧
    (let m : ItemMsg := ⟨0, ⟨0, 0⟩, 0, 0, .data 0⟩
     let s := wst 0 { cons := some wend1 } [.item m]
     m.dst = s.fabid ∧ (s.stream m.sid).cons = some wend1 ∧ wend1.gen = s.gen wend1.slot ∧ later wend1.nseq m.seq = false ∧ wend1.store = [] ∧
      wend1.endSeq = none ∧ wend1.peer = m.prod) ∧
    (let m : AckMsg := ⟨0, ⟨0, 0⟩, 0⟩
     let h : SendItem := ⟨.data 0, 0, 7, 0, 0, none⟩
     let s := wst 0 { prod := some wend1, sent := [(0, h)] } [.ack m]
     Spec.quiet s ∧ m.dst = s.fabid ∧ (s.stream m.sid).prod = some wend1 ∧ (s.stream m.sid).sent = [(m.seq, h)] ∧ wend1.aseq = m.seq ∧
      wend1.acked = [] ∧ h.tok ≠ 0) ∧
    (let m : SpaceMsg := ⟨0, ⟨0, 0⟩, 3⟩
     m.dst = State.reset.fabid ∧ ((wst 0 { prod := some wend1 } [.space m]).stream m.sid).prod = some wend1) ∧
    (let r : EndRec := { wend1 with report := some 5 }
     ((wst 0 { cons := some r } []).stream ⟨0, 0⟩).cons = some r ∧ r.report = some 5) ∧
    (let m : CloseMsg := ⟨0, ⟨9, 0⟩, true, 0, false, false⟩
     let s := wst 9 { prod := some wend1 } [.close m]
     Spec.quiet s ∧ m.dst = s.fabid ∧ m.sid.hmod ≠ s.fabid ∧ m.cons = true ∧ m.lost = false ∧ (s.stream m.sid).prod = some wend1 ∧
      (s.stream m.sid).sent = [] ∧ wend1.state = 0) := by
  unfold Spec.quiet; decide +kernel

theorem witness_StreamMoveEvents :
    (let m : MoveMsg := ⟨0, ⟨0, 0⟩, true, 2, 3, 0⟩
     let f : FwdRec := { last := { wend1 with mc := 2 }, via := ⟨0, 0⟩ }
     let r : EndRec := { wend1 with hold := some (0, 4), old := some (2, 3) }
     let s := wst 0 { prod := some wend1, cons := some r, fcons := some f, fprod := some { f with dest := some 3 } } [.arrived m]
     m.dst = s.fabid ∧ (s.stream m.sid).fwd m.cons = some f ∧ f.mc = m.mc ∧ f.items = [] ∧ f.held = [] ∧ f.bnd = none ∧ f.dest = none ∧
      (s.stream m.sid).prod = some wend1 ∧ newer m.mc wend1.pmc = true ∧ wend1.peer = m.old ∧
      (s.stream m.sid).fprod = some { f with dest := some 3 } ∧ ({ f with dest := some 3 } : FwdRec).mc = 2 ∧ later 0 f.base = false ∧
      (s.stream m.sid).cons = some r ∧ r.old.map Prod.fst = some m.mc ∧ 0 ≤ s.dtime ∧ wend1.state = 0 ∧ m.sid.hmod = s.fabid ∧
      s.endStored m.sid false = false ∧ wend1.hold = none) ∧
    (let s := { State.reset with hub := { State.reset.hub with journals := [(0, wj0)] } }
     Spec.quiet s ∧ s.hub.streams = [] ∧ s.hub.rings = [] ∧ s.hub.jrecs = [] ∧ s.hub.journals = [(0, wj0)] ∧ wj0.live = true ∧ wj0.part = 0 ∧
      wj0.state ≠ 1 ∧ wj0.state ≠ 4) := by
  unfold Spec.quiet; decide +kernel

/-- A ring of journal 0 of module 5 at 0x1000000 in slot 0, with step 0 held. -/
def wring : Ring := ⟨5, 0, 0, 0, 0x1000000, 10, none, 0, 0, 1, 0, 1, ⟨0, 0⟩, 0, 0, 0, 4⟩
def wbj (f : Hub → Hub) (net : List Msg) : State := { wown with hub := f wown.hub, net := net }
def wrecd : Packet64 := makeRec 0 0 0 0
def wjop (b : RelBody) : JOp := { ctx := 0, tok := 7, slot := 0, gen := 0, body := b, stage := .asked 0, jidx := 0 }
/-- The pool of slot 0 holds one ring of 64 KiB, and the slot offers itself as a host. -/
def whost : State := (wown.setHubReg 0x4000 (BitVec.ofNat 64 (2 ^ 63 + 1))).setHubReg 0x5000 (BitVec.ofNat 64 (2 ^ 63))
def wreq : RingReq := ⟨0, 5, 0, 0, 10, 0, 0, 0, 0, ⟨0, 0⟩, 0, 0, 0, 4, 0⟩
theorem witness_JournalEvents_host :
    ((whost.bjhost 0).getLsbD 63 = true ∧ (whost.bjhost 0).setWidth 16 = wreq.ftag ∧ whost.freeEntry = some 0 ∧
      (∀ k < 16, (State.reset.bjhost k).getLsbD 63 = false)) ∧
    ∃ u, (Spec.taken whost (.ringReq wreq)).hostRing 0 (some 0) wreq = some u := by
  refine ⟨by decide +kernel, ?_⟩
  have h1 : ((Spec.taken whost (.ringReq wreq)).sbpool (0 : BitVec 4).toNat) = BitVec.ofNat 64 (2 ^ 63 + 1) := by decide +kernel
  have h2 : (Spec.taken whost (.ringReq wreq)).hub.bufs = [] := by decide +kernel
  have h3 : field (BitVec.ofNat 64 (2 ^ 63 + 1)) 0 16 * 65536 / ringBytes wreq.capc = 1 := by decide +kernel
  have h4 : (BitVec.ofNat 64 (2 ^ 63 + 1)).getLsbD 63 = true := by decide +kernel
  simp only [State.hostRing, State.poolAlloc, h1, h2, h3, h4, Nat.mod_one]
  exact ⟨_, rfl⟩
theorem witness_JournalEvents :
    (let o := wjop (.jopen (BitVec.ofNat 512 (2 ^ 64)))
     let w : Word := (BitVec.ofNat 512 (2 ^ 64) : Packet64).extractLsb' 64 64
     let m : RingAns := ⟨0, 0, 0, true⟩
     let s := (wbj (fun h => { h with jops := [o], journals := [(0, { wj0 with live := false })] }) [.ringAns m]).setStream ⟨0, 0⟩ { prod := some wend1 }
     m.dst = s.fabid ∧ s.hub.jops = [o] ∧ o.stage = .asked 0 ∧ o.body = .jopen (BitVec.ofNat 512 (2 ^ 64)) ∧ wj0.sid = handleSid w ∧ handleCons w = false ∧ wend1.chk = handleChk w ∧
      wend1.journal = none ∧ wend1.state ≠ 1 ∧ wend1.queue = [] ∧ o.jidx = m.jidx.toNat ∧ o.asked = m.part ∧
      s.journal o.jidx = some { wj0 with live := false } ∧ (s.stream wj0.sid).prod = some wend1 ∧ 0 + 1000000 ≤ ({ s with dtime := 1000000 } : State).dtime) ∧
    (let s := wbj (fun h => { h with rings := [wring] }) []
     s.fabid = 0 ∧ (5 : BitVec 12) ≠ s.fabid ∧ s.ringOf 5 0 = some wring ∧ wring.gen = s.gen wring.slot ∧ later wring.cstep 0 = false ∧
      later wring.tail 0 = true ∧ (s.placeBytes 0x1000000 (bytesOf wrecd 64)).ringRec wring 0 = some wrecd) ∧
    (let s := wbj (fun h => { h with journals := [(0, { wj0 with sent := some (1, 0) })] }) []
     Spec.quiet s ∧ s.journal 0 = some { wj0 with sent := some (1, 0) } ∧ wj0.part = 0 ∧ wj0.iss = s.fabid ∧ wj0.state ≠ 4) ∧
    (let s : State := { wctx { bank := ({} : Bank).addPend (.v 5) ⟨7, 14, 0, false⟩ } with hub := { State.reset.hub with jrecs := [(0, 7, 0, 0)] } }
     s.hub.jrecs.find? (fun x => x.2.1 == 7) = some (0, 7, 0, 0) ∧ ((s.ctx 0).landDue s.cycle).bank.pends (.v 5) = [⟨7, 14, 0, false⟩] ∧ (s.ctx 0).bank.pends (.v 5) = [⟨7, 14, 0, false⟩] ∧
      ∀ k < 512, k ≠ 0 → (s.ctx k) = {}) ∧
    (let s := wbj (fun h => { h with rings := [wring] }) []
     s.hub.rings = [wring] ∧ wring.iss = 5 ∧ wring.jidx = 0 ∧
      recOk (ofBytes 512 (((s.placeBytes 0x1000000 (bytesOf wrecd 64)).homeReads ⟨some wring.slot, wring.gen, false, 0, 0⟩ wring.addr 64).map Prod.fst)) = true) ∧
    (({} : Ctx).bank.waiting 7 = [] ∧ ({} : Ctx).shadow.bank.waiting 7 = []) := by
  unfold Spec.quiet; decide +kernel

theorem witness_ShootdownEvents :
    (let v : Word := BitVec.ofNat 64 (2 ^ 63)
     let s := State.reset.modDie 0 fun y => { y with sdctl := v }
     (State.reset.die 0).sdctl.getLsbD 63 = false ∧ v.getLsbD 63 = true ∧ field v 9 54 = 0 ∧ field v 0 4 ≤ 9 ∧
      (s.die 0).sdctl.getLsbD 63 = true ∧ s.ctxs = [] ∧ Spec.settled s (shotOf (s.die 0).sdPage (s.die 0).sdctl) (s.die 0).sdSeq) := by
  refine ⟨by decide +kernel, by decide +kernel, by decide +kernel, by decide +kernel, by decide +kernel, by decide +kernel, ?_⟩
  have h0 : (State.reset.modDie 0 fun y => { y with sdctl := BitVec.ofNat 64 (2 ^ 63) }).ctxs = [] := by decide +kernel
  intro c h; rw [h0] at h; simp at h

theorem witness_TenancyEvents :
    ((1 : Word).getLsbD 0 = true ∧ field (1 : Word) 1 61 = 0 ∧ (State.reset.tslot 0).busy = false ∧
      ((State.reset.tslot 0).gen + 1 - (State.reset.tslot 0).floor).toNat < 4095 ∧
      (let y := (State.reset.modTslot 0 fun t => { t with gen := 4094, busy := true }).tslot 0
       4095 ≤ (y.gen + 1 - y.floor).toNat ∧ y.busy = true)) ∧
    (field (3 : Word) 4 59 = 0 ∧ Spec.idle State.reset 0 ∧ ¬ Spec.idle (wctx { st := .ready }) 0) ∧
    (let v : Word := BitVec.ofNat 64 (2 ^ 63 + 16 * 2 ^ 24 + 1572863)
     v.getLsbD 63 = true ∧ field v 29 34 = 0 ∧ field v 21 3 = 0 ∧ field v 24 5 ≤ 16 ∧ field v 0 21 < 1572864) := by
  unfold Spec.idle; decide +kernel

/-- Eight symbols of a sector of zeros with errors in them, one more than the code corrects. -/
def werrs : List SymErr := (List.range 8).map fun i => { sym := BitVec.ofNat 8 i, flip := BitVec.ofNat 8 (i + 1) }
theorem witness_SweepAndImageEvents_cells : State.reset.readCell 0 [] = .clean ∧ State.reset.readCell 0 werrs = .uncorrectable := by
  decide +kernel
/-- R411: seven are corrected. -/
theorem test_sector_corrected : State.reset.readCell 0 (werrs.take 7) = .corrected 7 := by decide +kernel

theorem witness_SweepAndImageEvents :
    ((State.reset.die 0).passDone = false ∧
      ∀ d < 4, (([0, 1, 2, 3].foldl (fun x d => x.modDie d fun y => { y with passDone := true }) State.reset).die d).passDone = true) ∧
    (field (60 : Word) 32 32 = 0 ∧ 60 ≤ (60 : Word).toNat ∧ (60 : Word).toNat ≤ 172800) ∧
    (let v : Word := BitVec.ofNat 64 (2 ^ 63)
     let s : State := { State.reset with dies := [(0, { owner := (List.range 38).map fun i => (i, 0) })] }
     csReserved v = false ∧ v.getLsbD 63 = true ∧ Spec.idle s 0 ∧ s.imageOwned 0 (field v 12 27 * 4096) = true ∧
      (s.core 0).csave.getLsbD 63 = false ∧ (s.seqr 0).run = false ∧ (s.core 0).mops = [] ∧ (s.core 0).macts = []) := by
  unfold Spec.idle; decide +kernel

def whub (f : Hub → Hub) : State := { State.reset with hub := f State.reset.hub }
/-- A live launch of slot 0, and an image of a launch of one unit, with one unit outstanding. -/
def wobjL : Packet64 := BitVec.ofNat 512 (2 ^ 198 + 2 ^ 240 + 2 ^ 296)
theorem witness_WorkObjectCommands_refused :
    Spec.woCommand (BitVec.ofNat 64 (3 * 2 ^ 60)) 3 ∧ woState (State.reset.wobj 0) ≠ 1 ∧
    (let s := whub fun h => { h with wobj := [(0, wobjL ||| (1 <<< 226))] }
     (s.wobj 0).getLsbD 226 = true) := by
  unfold Spec.woCommand; decide +kernel
theorem witness_WorkObjectCommands :
    (let s := whub fun h => { h with wostage := BitVec.ofNat 512 (2 ^ 296) }
     (∀ k ∈ [1, 2, 3, 4, 5], Spec.woCommand (BitVec.ofNat 64 (k * 2 ^ 60)) k ∧ woIdx (BitVec.ofNat 64 (k * 2 ^ 60)) = 0) ∧
     woState (s.wobj 0) = 0 ∧ s.woRefused s.hub.wostage = false ∧ State.reset.woRefused State.reset.hub.wostage = true) ∧
    (let s := whub fun h => { h with wobj := [(0, wobjL)] }
     woState (s.wobj 0) = 1 ∧ woKind wobjL = 0 ∧ woPend wobjL ≠ 0 ∧ wobjL.getLsbD 226 = false ∧
      woState (BitVec.ofNat 512 (2 ^ 199)) = 2 ∧ woSlot wobjL = 0) ∧
    (let s := wctx { st := .blocked .join }
     (s.ctx 0).st = .blocked .join ∧ Spec.unitIn s 0 0 0) := by
  unfold Spec.woCommand Spec.unitIn; decide +kernel

/-- The placed program's world with a work queue at 0x2000 whose entry 0 is a launch of one unit: descriptor at virtual 0x4000. -/
def wdesc : Nat := 2 ^ 64 + 2 ^ 256 + 0x1000
def wlaunch : State :=
  let s := (State.reset.placeBundle 0).modCtx 0 fun c => { c with st := .free }
  let p : Nat := 2 ^ 248 + 0x4000 * 2 ^ 272
  let t := ((s.placeBytes 0x2000 [1]).placeBytes (0x2000 + 128) (bytesOf (BitVec.ofNat 512 p) 64)).placeBytes 0x1004000 (bytesOf (BitVec.ofNat 512 wdesc) 64)
  { t with hub := { t.hub with wq := [(0, BitVec.ofNat 64 (2 ^ 63 + 0x2000))] } }
theorem witness_DispatchEvents :
    (let s := wlaunch
     let cfg := s.wqcfg 0
     let p : Packet64 := ofBytes 512 ((s.homeReads hwAcc (entryAddr cfg 0) 64).map Prod.fst)
     let x : Place := ⟨0, some 0, 0, 0, 0, false⟩
     s.launchOf 0 = none ∧ cfg.getLsbD 63 = true ∧ (s.physWord (eqBase cfg + 8)).toNat = 0 ∧ 0 < (s.physWord (eqBase cfg)).toNat ∧ field p 29 3 = 0 / eqSize cfg % 8 ∧
      s.launchStat p = 1 ∧ woState (s.wobj 0) = 0 ∧ s.placeOk p x = true ∧ (s.ctx 0).st = .free ∧
      (let t := s.placeBytes (0x2000 + 128) (bytesOf (0 : Packet64) 64)
       t.launchStat (ofBytes 512 ((t.homeReads hwAcc (entryAddr cfg 0) 64).map Prod.fst)) = 2)) := by
  decide +kernel
/-- A committed record of a unit of launch 0, whose descriptor is at 0x1004000. -/
def wbind (e : Nat) (r : Packet64) : State :=
  ({ wlaunch with hub := { wlaunch.hub with wobj := [(0, wobjL)] } } : State).modCore 0 fun k =>
    { k with rows := [(e, r)], goRows := if e < 4 then [e] else [], goPend := if e < 4 then [] else [e] }
def wbrec : Packet64 := BitVec.ofNat 512 (0x1004000 * 2 ^ 320)
theorem witness_DispatchEvents_bind :
    (let s := wbind 0 wbrec
     let z := s.modCore 0 fun k => { k with goRows := k.goRows.filter (· != 0) }
     0 ∈ (s.core 0).goRows ∧ (s.core 0).parked = false ∧ (s.ctx 0).st = .free ∧ z.bindWhy 0 (z.row 0 0) = 0 ∧
      (z.row 0 0).getLsbD 248 = false) ∧
    (let s := wbind 0 (BitVec.ofNat 512 (2 ^ 16))
     let z := s.modCore 0 fun k => { k with goRows := k.goRows.filter (· != 0) }
     z.bindWhy 0 (z.row 0 0) ≠ 0) ∧
    (let s := wbind 5 wbrec
     let z := s.modCore 0 fun k => { k with goPend := [] }
     (s.core 0).goPend = [5] ∧ s.freeCtx 0 = some 0 ∧ (s.core 0).parked = false ∧ z.bindWhy 0 (z.row 0 5) = 0 ∧ (z.row 0 5).getLsbD 248 = false) := by
  decide +kernel

theorem witness_ReliabilityEvents :
    (let f : WireFlip := ⟨1, 2, 3⟩
     let b : Burst := ⟨0, false, [], []⟩
     let c : Burst := ⟨0, false, [[f]], []⟩
     let d : Burst := ⟨0, true, List.replicate 5 [f], [3]⟩
     burstPasses b [] = some 0 ∧ burstFlips b [] 0 = [] ∧ burstPasses c [] = some 1 ∧ burstFlips c [] 1 = [] ∧ burstPasses d [] = none ∧
      burstFlips d [((failGroup (burstFlips d [] 4)).getD 0, 3)] 5 = [] ∧ (State.reset.die 0).laneUsed 0 = [] ∧
      burstPasses { d with wires := List.replicate 17 0 } [] = none ∧ 16 < (List.replicate 17 (0 : BitVec 6)).length) ∧
    (let g : Migr := ⟨1, 2, 0, 0, none⟩
     let s := State.reset.modDie 0 fun y => { y with migr := some g }
     (s.die 0).migr = some g ∧ g.hold = none ∧ g.copied < 512 ∧ 512 ≤ { g with copied := 512 }.copied ∧ { g with hold := some 0 }.hold = some 0 ∧ g.dirty = 0) ∧
    (let v : Word := BitVec.ofNat 64 (2 ^ 63 + 2 ^ 62 + 7)
     v.getLsbD 62 = true ∧ v.getLsbD 63 = true ∧ field v 0 21 = 7 ∧ 7 < dieBlocks ∧ (State.reset.die 0).migr = none ∧
      (State.reset.die 0).cands = [] ∧ (State.reset.die 0).remap = [] ∧ field (State.reset.die 0).rtctl 41 11 ≠ 0) ∧
    (isErrCounter 0x2118 = true ∧ isErrLast 0x2120 = true) ∧ (Granule.spad 127 8191).there = true ∧ populated (128 * 0) = true := by
  decide +kernel

/-- What a sleep kept: one key of a slot. -/
def wsealed : Sealed := ⟨[(keyCode 0 0 5, 1)], [], [], [], [], none⟩
def wmbox (cmd : Nat) : Word := BitVec.ofNat 64 (2 ^ 63 + cmd * 2 ^ 56 + 5 * 2 ^ 44)
def wkeys : State := whub fun h => { h with caddy := { h.caddy with imports := [(0, 9)] }, keys := [(keyCode 0 0 5, 1)] }
/-- FIPS 197, C.3: the example of AES-256. -/
theorem test_aes_enciphers : bigNat (aesEnc ((List.range 32).map (BitVec.ofNat 8 ·)) ((List.range 16).map fun i => BitVec.ofNat 8 (0x11 * i))) =
    0x8EA2B7CA516745BFEAFC49904B496089 := by decide +kernel
theorem test_aes_deciphers : aesDec ((List.range 32).map (BitVec.ofNat 8 ·)) (bigBytes 16 0x8EA2B7CA516745BFEAFC49904B496089) =
    (List.range 16).map fun i => BitVec.ofNat 8 (0x11 * i) := by decide +kernel
/-- The first subkey of the AES-256 examples of SP 800-38B, from its L. -/
theorem test_cmac_subkey : cmacDouble (bigBytes 16 0xE568F68194CF76D6174D4CC04310A854) = bigBytes 16 0xCAD1ED03299EEDAC2E9A99808621502F := by
  decide +kernel
theorem witness_CaddyEvents_mail : (∀ k ∈ [1, 2, 3], Spec.mailed 0 0 (wmbox k) k) ∧ (∀ k ∈ [1, 4, 5], Spec.mailed 1 1 (wmbox k) k) := by
  unfold Spec.mailed; decide +kernel
theorem witness_CaddyEvents :
    (field (BitVec.ofNat 64 (2 ^ 63)) 0 62 = 0 ∧ (BitVec.ofNat 64 (2 ^ 63)).getLsbD 63 ≠ State.reset.prot 3 ∧ ∀ k < 128, State.reset.coreSlot k ≠ 3) ∧
    (let s := wkeys
     let v := wmbox
     (mboxOf (v 1)).key = 5 ∧ s.slotWorld 0 = 0 ∧ s.slotWorld 0 ≠ 1 ∧ Tab.get 0 s.hub.caddy.imports (mboxOf (v 2)).slot ≠ 0 ∧
      Spec.keyAt s (keyCode 0 0 5) ≠ 0 ∧ natOfBytes (s.caddyRead (mboxOf (v 4)).addr 4) ≤ 16384 ∧ s.ctxs = [] ∧ s.hub.caddy.asleep = false) ∧
    (let s := whub fun h => { h with power := .sleep, wldcfg := [(0, 1 <<< 63)],
                                     caddy := { h.caddy with asleep := true, wrapped := some wsealed, kept := measureAll [] } }
     s.hub.power = .sleep ∧ s.hub.caddy.wrapped = some wsealed ∧ measureAll [] = s.hub.caddy.kept ∧ s.prot 0 = true) ∧
    (let m : VerifierMsg := ⟨0, 0, 0, none, []⟩
     ∀ k ∈ [VerifierKind.chal, .cert, .imp], let s := whub fun h => { h with caddy := { h.caddy with queue := [(k, m, 0)] } }
      s.hub.caddy.queue = [(k, m, 0)] ∧ s.bootFailed = false ∧ s.hub.caddy.leaf < 2 ^ 40 ∧ Tab.get 0 s.hub.caddy.vers m.cslot.toNat = 0) := by
  unfold Spec.keyAt; decide +kernel

/-- A datagram of a known source, with the tag of its level and number under the installed key. -/
def wdgram : PowerDatagram := ⟨1, 3, 1, macWord 1 (bytesOf ((3 : Byte).setWidth 32) 4 ++ bytesOf (1 : BitVec 32) 4), true⟩
def wpskey : State := whub fun h => { h with psaddr := [1], caddy := { h.caddy with psKey := some 1 } }
theorem witness_DeviceEvents_datagram :
    wpskey.datagramOk wdgram = true ∧ wpskey.hub.pinTime ≠ some wpskey.dtime ∧ (whub fun h => { h with pinTime := some 0 }).hub.pinTime = some 0 := by
  have h1 : wpskey.hub.caddy.psKey = some 1 := by decide +kernel
  have h2 : wpskey.datagramMac wdgram = some wdgram.mac := by unfold State.datagramMac; rw [h1]; rfl
  have h3 : wpskey.bootFailed = false := by decide +kernel
  have h4 : wpskey.hub.psaddr.contains wdgram.src = true := by decide +kernel
  have h5 : (wpskey.hubReg 0xC018).toNat < wdgram.seq.toNat := by decide +kernel
  refine ⟨?_, by decide +kernel, by decide +kernel⟩
  unfold State.datagramOk
  rw [h2, h3, h4, decide_eq_true h5]
  exact (Bool.and_eq_true _ _).mpr ⟨(Bool.and_eq_true _ _).mpr ⟨by simp, rfl⟩, rfl⟩

def wblob : BootBlob := ⟨none, [], 3, 0, 60, [], 0, true⟩
theorem witness_DeviceEvents :
    (∀ x < 8, populated x = true ∧ blockAddr x = none) ∧
    (State.reset.hub.caddy.queue.length < 32 ∧ State.reset.bootFailed = false ∧ State.reset.hub.power = .on ∧ blobFails wblob = none) ∧
    (let s := State.reset.setPsctl 1 15 3
     let at' := fun (l n f : Nat) => { State.reset.setPsctl 1 l n with mhz := f }
     s.psTarget < s.level ∧ s.mhz ≤ clockOf (s.level - 1) ∧ (at' 1 0 100).psTarget < (at' 1 0 100).level ∧ (at' 1 0 100).mhz ≤ clockOf 0 ∧
      (at' 4 3 3300).psTarget < (at' 4 3 3300).level ∧ clockOf 3 < (at' 4 3 3300).mhz ∧
      (at' 9 12 100).level ≤ (at' 9 12 100).psTarget ∧ (at' 9 12 100).mhz < clockOf (at' 9 12 100).level ∧
      (at' 3 15 3300).level < (at' 3 15 3300).psTarget ∧ clockOf (at' 3 15 3300).level ≤ (at' 3 15 3300).mhz ∧
      State.reset.level = State.reset.psTarget ∧ State.reset.mhz = clockOf State.reset.level) ∧
    ((whub fun h => { h with power := .failing none }).hub.power = .failing none ∧ (whub fun h => { h with power := .failing none }).allQuiet = true ∧
      State.reset.hub.caddy.asleep = false ∧ wblob.drainOk = true ∧ blobFails { wblob with imagesOk := some 2 } = some 2 ∧
      (whub fun h => { h with power := .refresh }).hub.power = .refresh ∧ (whub fun h => { h with power := .lost }).hub.power = .lost ∧
      (whub fun h => { h with power := .resuming wblob }).hub.power = .resuming wblob) := by
  decide +kernel

/-- One operation in slot 0 (an add to s5) placed as a bundle on a core that may issue. -/
def wone : BundleBits := (BitVec.ofNat 384 ((encode (.add .ia { wf0 with w := 5 })).map (·.2.toNat) |>.getD 0)) <<< 48
theorem witness_StepRunsTheDecodedInstruction :
    let s := State.reset.placeBundle wone
    let s0 : State := { s with agenda := [] }
    let z := s0.beginExam 0 0
    s.upsets = [] ∧ s.agenda = [.bundleIssue 0] ∧ (s.core 0).issuing = some 0 ∧ s0.mayExamine 0 0 = true ∧
    s.hasCome (.bundleIssue 0) = true ∧ { s with stage := 3 }.hasCome (.bundleIssue 0) = false ∧ 9 < s.level ∧
    wone.extractLsb' 0 48 = 0 ∧ firstFail (decodeSlots wone) = none ∧
    (okSlots (decodeSlots wone)).filter (fun x => x.2 ≠ .nop) = [(0, .add .ia { wf0 with w := 5 })] ∧
    (match z.nextBundle z.cid with
      | .error _ => false
      | .ok nb => nb.bits == wone &&
        (let y := { z with cur := { z.cur with nextA := nb.after.pc, bi := 0, pitch := false, cairn := false } }
         y.me.wake.isNone && (match opOf (.add .ia { wf0 with w := 5 }) y with
          | .error _ => false
          | .ok t => match t.flow (Header.ofBits nb.bits) nb.after with | .ok _ => true | .error _ => false))) = true := by
  decide +kernel
theorem witness_DecodeOfEncode : ∃ k x, encode (.add .ia wf0) = some (k, x) ∧ (Instr.add .ia wf0).wf = true := ⟨_, _, rfl, by decide +kernel⟩
theorem witness_StepKeepsMemoryForm : State.reset.memOk ∧ ∃ t, step State.reset = .next t := ⟨by unfold State.memOk; decide +kernel, _, rfl⟩
theorem witness_HomeMemory :
    (let a : Acc := ⟨some 0, 0, false, 0, 0⟩
     Spec.taken_ wown a 0x1000000 ∧ (wown.homeWrite a [(0x1000000, 1)]).spareUsed 0x1000000 = wown.spareUsed 0x1000000 ∧ ([1] : List Byte) ≠ [] ∧ 0x1000000 % 128 + ([1] : List Byte).length ≤ 128 ∧
      wown.owner 0x1000000 ≠ (1 : BitVec 4).toNat ∧ wown.owner 0x1000000 ≠ 16 ∧ wown.owner 0 = 16 ∧ a.sysOk = false ∧
      wown.placed 0x1000000 = wown.placed 0x1000000 ∧ Spec.taken_ wown ⟨none, 0, false, 0, 2⟩ 0 ∧
      wown.accWorld ⟨none, 0, false, 0, 2⟩ = 2 ∧
      (wown.modTslot 0 fun t => { t with gen := 1 }).staleSector 0x1000000 = true ∧ inOwnerTable 0x1000000 = false ∧
      (wown.modTslot 0 fun t => { t with gen := 1 }).staleAcc a = true ∧
      wown.accWorld { a with slot := none, world := 1 } ≠ wown.blockWorld 0x1000000 ∧ wown.accWorld { a with slot := none, world := 1 } ≠ 2) := by
  unfold Spec.taken_; decide +kernel

/-- A slot of format S or V with DST, OP, SRC, O and W as written decodes to an operation with those operands, in one of the
forms the operations take (R61, R69). -/
def decS (k : Nat) (dst : BitVec 9) (op : Nat) (mk : OpS → Instr) : Bool :=
  [(0 : BitVec 9), 0x40, 0xA0].any fun t => [((0 : BitVec 9), (0 : BitVec 6)), (0x41, 0), (0xA0, 0), (0xB1, 0), (0, 1)].any fun e =>
    decide (decodeSlot k (Spec.slot48 (Spec.auxS 0 e.2 e.1) (BitVec.ofNat 8 op) dst t 0 0) = .ok (mk ⟨⟨0, false⟩, t, e.1, false, e.2⟩))
/-- The same of format M, with H = 3. -/
def decM (k : Nat) (dst : BitVec 9) (op : Nat) (mk : OpM → Instr) : Bool :=
  [(0 : BitVec 9), 0x40].any fun t => [(0 : BitVec 6), 1].any fun w =>
    decide (decodeSlot k (Spec.slot48 (Spec.auxM 0 w 3) (BitVec.ofNat 8 op) dst t 0 0) = .ok (mk ⟨⟨0, false⟩, t, 0, w, 3⟩))
/-- The same of format T, with ACC = 2 and B = 5. -/
def decT (k : Nat) (dst : BitVec 9) (op : Nat) (mk : OpT → Instr) : Bool :=
  [(0 : BitVec 9), 0x40].any fun t =>
    decide (decodeSlot k (Spec.slot48 (Spec.auxT 0 2 5) (BitVec.ofNat 8 op) dst t 0 0) = .ok (mk ⟨⟨0, false⟩, t, 0, 2, 5⟩))
/-- The operations of a list have consecutive OPs. -/
def run {α : Type} (d : Nat → α → Bool) (op : Nat) (l : List α) : Bool := l.zipIdx.all fun e => d (op + e.2) e.1

/-- R72. -/
def alu72 (u : AluUnit) : List (OpS → Instr) := [.add u, .sub u, .and u, .or u, .xor u, .andn u, .orn u, .shl u, .shr u,
  .sra u, .ror u, .min u, .max u, .minn u, .maxn u, .sel u, .sext8 u, .sext16 u, .sext32 u, .zext8 u,
  .zext16 u, .zext32 u, .clz u, .ctz u, .popc u, .bfx u, .bfi u, .addsh u]
def cmp72 (u : AluUnit) (k : BitVec 4) : List (OpS → Instr) := [.ceq u k, .cne u k, .clt u k, .cle u k, .cltn u k, .clen u k]
theorem test_decode_ia_ib : run (decS 0 0x101) 1 (alu72 .ia) && run (decS 1 0x103) 1 (alu72 .ib) &&
    ([0, 7, 15].all fun k => (cmp72 .ib (BitVec.ofNat 4 k)).zipIdx.all fun e => decS 1 0x103 (0x40 + 16 * e.2 + k) e.1) := by
  decide +kernel
/-- R73, R74. -/
theorem test_decode_mul_pr : run (decS 1 0x105) 1 [.mul, .mulh, .mulhn, .div, .divn, .rem, .remn] &&
    ([1, 31].all fun d => [Instr.pand d, .por d, .pxor d, .pnot d, .pset d, .vany d, .vall d].zipIdx.all fun e =>
      decS 0 0x107 (32 * e.2 + d.toNat) e.1) := by
  decide +kernel
/-- R75. -/
theorem test_decode_control : run (decS 0 0x109) 1 [.br, .call, .ret, .bix] &&
    run (decS 0 0x10B) 1 [.lset 0, .lset 1, .lrot, .lbrk 0, .lbrk 1] &&
    run (decS 0 0x10D) 1 [.trap, .tret, .exit, .yield, .sleep, .brk] &&
    run (decS 0 0x10F) 1 [.sset, .sadd, .stake, .swait] &&
    run (decS 0 0x11F) 1 [.fork, .join, .jadd, .wcan, .wdone] && run (decS 1 0x121) 1 [.gpush, .gpop] := by
  decide +kernel
/-- R76. -/
theorem test_decode_ls : (run (decM 2 0x111) 1 [.ldb false, .ldh false, .ldw false, .ldd false, .ldbn false, .ldhn false,
      .ldwn false, .stb, .sth, .stw, .std]) &&
    run (decM 2 0x111) 0x81 [.ldb true, .ldh true, .ldw true, .ldd true, .ldbn true, .ldhn true, .ldwn true] &&
    run (decM 2 0x111) 0x11 ((List.range 12).map fun f => .vld (BitVec.ofNat 4 (f + 1)) false) &&
    run (decM 2 0x111) 0x91 ((List.range 12).map fun f => .vld (BitVec.ofNat 4 (f + 1)) true) &&
    run (decM 2 0x111) 0x21 ((List.range 12).map fun f => .vst (BitVec.ofNat 4 (f + 1))) &&
    run (decM 2 0x111) 0x30 [.vlds false, .vsts, .vldx false, .vstx, .fewait, .feclr, .feset, .fetst] &&
    decM 2 0x111 0xB0 (.vlds true) && decM 2 0x111 0xB2 (.vldx true) &&
    run (decM 2 0x111) 0x40 [.rel .c, .rel .k, .rel .d, .rel .v, .rel .f] &&
    run (decM 2 0x111) 0x48 [.acq .c, .acq .k, .acq .d, .acq .v, .acq .f] && run (decM 2 0x111) 0x50 [.cwb, .cinv] := by
  decide +kernel
/-- R77, R78. -/
theorem test_decode_tx_at : run (decM 2 0x113) 1 [.xlat, .hdrop, .hchk] &&
    ([(1, Scope.k), (2, .d), (3, .v)].all fun c =>
      [Instr.aadd c.2, .aand c.2, .aor c.2, .axor c.2, .axchg c.2, .acas c.2, .amax c.2].zipIdx.all fun e =>
        decM 2 0x115 (8 * (e.2 + 1) + c.1) e.1) := by
  decide +kernel
/-- R79, R80. -/
theorem test_decode_ec_rm_sx_bj : ((List.range 8).all fun q => let k := BitVec.ofNat 3 q
      [Instr.cpy k, .csr k, .pfr k, .zfill k, .qfence k, .coll k, .evict k, .cstat k].zipIdx.all fun e =>
        decM 2 0x117 (8 * (e.2 + 1) + q) e.1) &&
    run (decM 2 0x119) 1 [.rld, .rldv, .rop, .rdrain] &&
    ((List.range 4).all fun b => let k := BitVec.ofNat 2 b
      decM 2 0x119 (0x10 + b) (.rst k) && decM 2 0x119 (0x14 + b) (.rstv k) && decM 2 0x119 (0x18 + b) (.bclose k)) &&
    run (decM 2 0x11B) 1 [.sopen, .sclose, .ssend, .srecv, .spoll, .sxfer, .sstat] &&
    run (decM 2 0x11D) 1 [.jopen, .jrec, .jemit, .jtrunc, .jpart, .jrep, .jstat] := by
  decide +kernel
/-- R81. -/
def vec81 (u : VecUnit) : List (Nat × List (OpS → Instr)) :=
  [(0x01, [.vadd u, .vsub u, .vmul u, .vmulh u, .vmin u, .vmax u, .vminn u, .vmaxn u, .vand u, .vor u,
    .vxor u, .vandn u, .vshl u, .vshr u, .vsra u, .vabs u, .vadds u, .vsubs u]),
   (0x18, [.vfadd u, .vfsub u, .vfmul u, .vfma u, .vfnma u, .vfmin u, .vfmax u, .vrcp u, .vrsq u, .vexp2 u,
    .vlog2 u, .vtanh u]),
   (0x28, [.vscale u, .vtag u]), (0x30, [.vsplat u, .vins u, .vext u, .vperm u, .vrot u, .vsel u, .vcomp u]),
   (0x38, [.vsum u, .vmaxr u, .vargmax u]), (0x3C, [.vrng u, .vsample u]),
   (0x40, [.vpand u, .vpor u, .vpxor u, .vpnot u, .vpset u, .vpcnt u]),
   (0x51, (List.range 12).map fun f => .vcvt u (BitVec.ofNat 4 (f + 1)))]
def vcmp81 (u : VecUnit) (k : BitVec 3) : List (OpS → Instr) :=
  [.vceq u k, .vcne u k, .vclt u k, .vcle u k, .vcltn u k, .vfceq u k, .vfclt u k, .vfcle u k]
theorem test_decode_va_vb : ((vec81 .va).all fun x => run (decS 3 0x131) x.1 x.2) && ((vec81 .vb).all fun x => run (decS 4 0x133) x.1 x.2) &&
    ([0, 7].all fun k => (vcmp81 .va (BitVec.ofNat 3 k)).zipIdx.all fun e => decS 3 0x131 (0x80 + 8 * e.2 + k) e.1) := by
  decide +kernel
/-- R82. -/
theorem test_decode_mx_ts_xp : run (decT 5 0x139) 1 [.mload, .mpush, .mpushv, .mzero, .mpop, .mpopx, .macc, .mrel] &&
    run (decT 5 0x13B) 1 [.tsload, .tsrun, .tsstop, .tsstat] && run (decS 6 0x13D) 1 [.xpin, .xpout, .xpclr, .xpmode] := by
  decide +kernel

/-- What a trigger with T = s2, O = s3 and W = s1 lands in s1 (R93); L is the latch of ia. -/
def wab (a b l : Word) : State := wctx { bank := { s := [(2, a), (3, b)], ol := [(0, { data := l.setWidth 1024 })] } }
def fab : OpS := ⟨⟨0, false⟩, 2, 3, false, 1⟩
def fa : OpS := ⟨⟨0, false⟩, 2, 0, false, 1⟩
def landsS (i : Instr) (s : State) (r : Reg) : Option Lanes :=
  match exec i s with
  | .next t => t.me.flight.getLast?.bind fun l => (l.writes.find? fun w => w.reg == r).map fun w => w.val.data
  | _ => none
def gives (i : Instr) (a b l r : Word) : Bool := landsS i (wab a b l) (.s 1) == some (r.setWidth 1024)
/-- R99: wraps, signs, shift amounts taken modulo 64, counts of zero, and the field operations at bit 63. -/
theorem test_alu : gives (.add .ia fab) (-1) 1 0 0 && gives (.sub .ia fab) 0 1 0 (-1) && gives (.shl .ia fab) 3 65 0 6 &&
    gives (.shr .ia fab) (-1) 63 0 1 && gives (.sra .ia fab) (-8) 1 0 (-4) && gives (.ror .ia fab) 1 1 0 (1 <<< 63) &&
    gives (.andn .ia fab) 0b1100 0b1010 0 0b0100 && gives (.min .ia fab) (-1) 1 0 (-1) && gives (.minn .ia fab) (-1) 1 0 1 &&
    gives (.sel .ia fab) 0 7 9 9 && gives (.sext8 .ia fa) 0x80 0 0 (-128) && gives (.zext16 .ia fa) (-1) 0 0 0xFFFF && gives (.clz .ia fa) 0 0 0 64 &&
    gives (.ctz .ia fa) 8 0 0 3 && gives (.popc .ia fa) (-1) 0 0 64 && gives (.bfx .ia fab) (0xF <<< 60) (62 + 64 * 7) 0 3 &&
    gives (.bfi .ia fab) 0 (-1) (60 + 64 * 7) (0xF <<< 60) && gives (.addsh .ia fab) 1 2 3 17 := by
  decide +kernel
/-- R100: signed and unsigned order; the predicate pair. -/
theorem test_compare : gives (.clt .ib 0 fab) (-1) 1 0 1 && gives (.cltn .ib 0 fab) (-1) 1 0 0 &&
    landsS (.ceq .ib 2 fab) (wab 5 5 0) (.p 4) == some 1 && landsS (.ceq .ib 2 fab) (wab 5 5 0) (.p 5) == some 0 := by
  decide +kernel
/-- R102, R103. -/
theorem test_mul_div : gives (.mul fab) (-1) 3 0 (-3) && gives (.mulh fab) (-1) 3 0 (-1) && gives (.mulhn fab) (-1) 2 0 1 &&
    gives (.div fab) (-7) 2 0 (-3) && gives (.rem fab) (-7) 2 0 (-1) && gives (.div fab) (1 <<< 63) (-1) 0 (1 <<< 63) &&
    gives (.div fab) 5 0 0 (-1) && gives (.remn fab) 5 0 0 5 && gives (.divn fab) (-1) 16 0 0x0FFFFFFFFFFFFFFF := by
  decide +kernel

/-- What a vector trigger with T = v2, O = v3 and W = v1 lands in v1, from two elements of a format. -/
def wvv (fm : BitVec 4) (a b : Nat) : State :=
  wctx { bank := { v := [(2, { data := BitVec.ofNat 1024 a, fmt := fm }), (3, { data := BitVec.ofNat 1024 b, fmt := fm })] } }
def fvv : OpS := ⟨⟨0, false⟩, 0x42, 0x43, false, 1⟩
def vgives (i : Instr) (fm : BitVec 4) (a b r : Nat) : Bool :=
  (landsS i (wvv fm a b) (.v 1)).map (fun x => x.toNat % 2 ^ 32) == some r
/-- R196, R197: i8 (format 1) wraps, saturates; i32 signed and unsigned order. -/
theorem test_vector_int : vgives (.vadd .va fvv) 1 0x7F 0x01 0x80 && vgives (.vadds .va fvv) 1 0x7F 0x01 0x7F &&
    vgives (.vsub .va fvv) 1 0x00 0x01 0xFF := by
  decide +kernel
/-- R201: f32 (format 9): 1 + 1 = 2, 1.5 × 1.5 = 2.25, and 1 + 2^-24 rounds to even. -/
theorem test_vector_float : vgives (.vfadd .va fvv) 9 0x3F800000 0x3F800000 0x40000000 &&
    vgives (.vfmul .va fvv) 9 0x3FC00000 0x3FC00000 0x40100000 && vgives (.vfadd .va fvv) 9 0x3F800000 0x33800000 0x3F800000 := by
  decide +kernel

/-- One ill-formed operation for each check of R83, which refuses it by name. -/
def ill : List (Instr × EncFail) :=
  [(.vadd .va ⟨⟨16, false⟩, 0x40, 0x41, false, 0⟩, .form), (.add .ia { wf0 with t := 0x106 }, .port), (.add .ia { wf0 with o := 0x1BF }, .port),
   (.move (wmv 0 1 0x0BF), .port), (.move (wmv 0 1 0x1FF), .port), (.vld 0 false (wm 0), .opcode), (.vld 13 false (wm 0), .opcode),
   (.vcvt .va 0 { wf0 with t := 0x40 }, .opcode), (.pand 0 { wf0 with w := 0 }, .opcode), (.aadd .c (wm 0), .opcode), (.aadd .f (wm 0), .opcode),
   (.ret { wf0 with t := 1, w := 0 }, .form), (.br { wf0 with w := 1 }, .form), (.br { wf0 with o := 1, w := 0 }, .form),
   (.clz .ia { wf0 with o := 1 }, .form), (.add .ia { wf0 with o := 1, ol := true }, .form), (.sel .ia { wf0 with ol := true }, .form),
   (.join { wf0 with w := 0 }, .form), (.join { wf0 with w := 61 }, .form), (.hchk (wm 0), .form), (.rel .c { wm 0 with disp := 1 }, .form),
   (.xlat (wm 15), .form), (.mload ⟨⟨0, false⟩, 0, 2, 0, 0⟩, .form), (.mload ⟨⟨0, false⟩, 0, 1, 0, 64⟩, .form), (.mzero ⟨⟨0, false⟩, 0, 1, 0, 0⟩, .form),
   (.vadd .va { wf0 with t := 0xA1 }, .form), (.move (wmv 0 0x40 0xB0), .form), (.moveSplat (wmv 0 0x40 0x41), .form), (.moveHi (wmv 0 1 2), .form),
   (.move (wmv 0 1 0x101), .form), (.move (wmv 7 1 2), .form), (.move (wmv 0 0 0), .form)]
theorem test_ill_formed : ill.all fun e => decide (e.1.check = some e.2) && !e.1.wf := by decide +kernel
theorem test_ill_formed_events : ([Instr.bundleIssue 128, .contextUnblock 0 4, .pitchRelease 128 0].all fun i => !i.wf) && (Instr.bundleIssue 127).wf := by
  decide +kernel
/-- R60, R61: a header with a reserved bit is no instruction; a bundle of zeros is the no-op. -/
theorem test_decode_refuses : decodeTableWord 384 (2 ^ 31) = none ∧
    decodeTableWord 48 0 = some .nop := by decide +kernel
/-- One step runs the placed operation: the add of two zeros into s5, one cycle later. -/
theorem test_step_runs : (match step (State.reset.withFetchWord 384 (wone.toNat)) with
    | .next t => (t.ctx 0).flight.map (fun l => (l.due, l.writes.length)) == [(1, 2)] && t.seq == 1
    | _ => false) = true := by decide +kernel

/-- The worked encodings of 03_bundles, 07_formats and 16_streams. -/
theorem test_worked_encodings :
    let b : BundleBits := BitVec.ofNat 384 (0x000001040203 + 0x0BE101808140 * 2 ^ 48 + 0x00000A888180 * 2 ^ 144)
    Header.ofBits b = ⟨0, false, false, false, false, 1, 4, 2, 3⟩ ∧ firstFail (decodeSlots b) = none ∧
    (okSlots (decodeSlots b)).filter (fun x => x.2 ≠ .nop) =
      [(0, .add .ia ⟨⟨0, false⟩, 5, 0x1E1, false, 5⟩), (2, .stw ⟨⟨0, false⟩, 6, 0, 0, 0⟩)] ∧
    decodeSlot 3 0x06025A989040 = .ok (.vcvt .va 10 ⟨⟨0, false⟩, 0x41, 2, false, 3⟩) ∧
    decodeSlot 2 0x0090048D81C0 = .ok (.srecv ⟨⟨0, false⟩, 7, 0, 9, 0⟩) := by
  decide +kernel
/-- The worked conversions of 07_formats: f32 to t8 at a bias, t6, and i8 under each rounding mode. -/
def wcv (mode b x : Nat) : State :=
  wctx { bank := { v := [(2, { data := BitVec.ofNat 1024 x, fmt := 9 })], s := [(3, BitVec.ofNat 64 b)], sp := [(15, BitVec.ofNat 64 mode)] } }
def fcv : OpS := ⟨⟨0, false⟩, 0x42, 3, false, 1⟩
def cvt (fmt : BitVec 4) (mode b x r : Nat) : Bool := (landsS (.vcvt .va fmt fcv) (wcv mode b x) (.v 1)).map (fun y => y.toNat % 2 ^ 8) == some r
def cvt8 (x b r : Nat) : Bool := cvt 10 0 b x r
def cvti (mode x r : Nat) : Bool := cvt 1 mode 0 x r
theorem test_worked_t8 : cvt8 0x40400000 0 0x58 && cvt8 0x3DCCCCCD 0 0x15 && cvt8 0xC0133333 0 0xD2 && cvt8 0x40140000 0 0x52 && cvt8 0x44BB8000 0 0x7E && cvt8 0x459C4000 0 0x7F && cvt8 0x3951B717 0 0x01 && cvt8 0x3727C5AC 0 0x00 && cvt8 0x7FC00000 0 0x80 && cvt8 0xFF800000 0 0x80 && cvt8 0x41C00000 2 0x64 := by
  decide +kernel
theorem test_worked_t6_i8 : cvt 11 0 0 0x40A00000 0x18 && cvti 0 0x40200000 2 && cvti 1 0x40200000 2 && cvti 2 0x40200000 3 && cvti 3 0x40200000 2 && cvti 0 0xC0200000 254 && cvti 1 0xC0200000 254 && cvti 2 0xC0200000 254 && cvti 3 0xC0200000 253 && cvti 0 0x43960000 127 && cvti 1 0x43960000 127 && cvti 2 0x43960000 127 && cvti 3 0x43960000 127 && cvti 0 0x7FC00000 0 && cvti 1 0x7FC00000 0 && cvti 2 0x7FC00000 0 && cvti 3 0x7FC00000 0 := by
  decide +kernel
/-- "The ratio is 4, so the 32 results fill t8 elements 32 to 63" (07_formats). -/
theorem test_worked_part : (landsS (.vcvt .va 10 fcv) (wcv 0 0x100 0x40400000) (.v 1)).map (fun y => (y.toNat % 2 ^ 256, y.toNat / 2 ^ 256 % 256)) =
    some (0, 0x58) := by
  decide +kernel

/-- A port at each end of every range of R62, read in the state after reset; and what the reserved ranges give. -/
theorem witness_PortsAndRegisters :
    ([(0 : BitVec 9), 0x3F, 0x40, 0x7F, 0x80, 0x81, 0x9F, 0xA0, 0xA1, 0xAF, 0xB0, 0xBF, 0xC0, 0xD1, 0xD8, 0xDF, 0x100, 0x105, 0x107, 0x10C, 0x110,
      0x115, 0x180, 0x181, 0x182, 0x183, 0x1C0, 0x1FF].all fun p => (State.reset.readPort p).isSome) ∧
    ([(0xD2 : BitVec 9), 0xD7, 0xE0, 0xFF, 0x106, 0x10D, 0x10F, 0x116, 0x17F, 0x184, 0x1BF].all fun p => (State.reset.readPort p).isNone) := by
  decide +kernel
/-- R17, R63: s0 and p0 discard, rrb keeps five bits and fmode two. -/
theorem test_discarding_registers : (({} : Bank).write (wr64 (.s 0) 7)).getS 0 = 0 ∧ (({} : Bank).write (wrP 0 false)).getP 0 = true ∧
    (({} : Bank).write (wr64 (.sp 7) 0x3F)).getSp 7 = 0x1F ∧ (({} : Bank).write (wr64 (.sp 15) 7)).getSp 15 = 3 := by
  decide +kernel
theorem witness_LoadedBytesGiveTheValue :
    ((LoadForm.scalar 1 true).value [0x80]).lo = -128 ∧ ((LoadForm.scalar 8 false).value (List.replicate 8 0xFF)).lo = -1 ∧
    (∀ i < 128, elem 8 (0 : Lanes) i < 64) ∧ (9 : BitVec 4) ≠ 11 := by
  decide +kernel

end Sys2Proof.Tests
end

section
/-! What one operation or event of the agenda does to the memory's form: the meaning of a slot operation is settled from
what it does in a bundle, and every event keeps the form by its own law. -/

namespace Sys2Proof.Machine

/-- The meaning of a slot operation, one with an encoding (R61), is what it does in its bundle, settled. -/
theorem exec_eq_settle_opOf (i : Instr) (s : State) (h : i.view.isSome = true) : exec i s = settle s (opOf i s) := by
  -- An event has no encoding, so `cases h` closes its case; a slot operation's meaning is this by definition.
  cases i <;> cases h <;> rfl

/-- A slot operation keeps the memory's canonical form, whether it commits, traps or blocks. -/
theorem exec_slotOp_memOk {i : Instr} (h : i.view.isSome = true) (s : State) (hm : s.memOk) : outOk (exec i s) := by
  rw [exec_eq_settle_opOf i s h]
  exact settle_memOk hm (opOf_memOk i s hm)

/-- Every operation and every event keeps the memory's canonical form: each event by its own law, a slot operation as one. -/
theorem exec_memOk (i : Instr) (s : State) (hm : s.memOk) : outOk (exec i s) := by
  cases i with
  | bundleIssue core => exact execBundleIssue_memOk core s hm
  | contextUnblock core ctx => exact execContextUnblock_memOk core ctx s hm
  | resultLanding core ctx => exact execResultLanding_memOk core ctx s hm
  | replayReissue core ctx => exact execReplayReissue_memOk core ctx s hm
  | loadLanding core ctx token => exact execLoadLanding_memOk core ctx token s hm
  | walkComplete core walk => exact execWalkComplete_memOk core walk s hm
  | pitchRelease core ctx => exact execPitchRelease_memOk core ctx s hm
  | dirtyFifoDrain core => exact execDirtyFifoDrain_memOk core s hm
  | trapDelivery core ctx => exact execTrapDelivery_memOk core ctx s hm
  | gatherRowArrival core ctx => exact execGatherRowArrival_memOk core ctx s hm
  | entryAdmit core q => exact execEntryAdmit_memOk core q s hm
  | promiseLanding core ctx token => exact execPromiseLanding_memOk core ctx token s hm
  | promiseMissed core q => exact execPromiseMissed_memOk core q s hm
  | cpyCommand core q n => exact execCpyCommand_memOk core q n s hm
  | csrCommand core q n => exact execCsrCommand_memOk core q n s hm
  | pfrCommand core q n => exact execPfrCommand_memOk core q n s hm
  | zfillCommand core q n => exact execZfillCommand_memOk core q n s hm
  | qfenceCommand core q => exact execQfenceCommand_memOk core q s hm
  | collCommand core q members => exact execCollCommand_memOk core q members s hm
  | evictCommand core q n => exact execEvictCommand_memOk core q n s hm
  | segmentReplay core q served => exact execSegmentReplay_memOk core q served s hm
  | collTimeout core q => exact execCollTimeout_memOk core q s hm
  | eqcfgWrite core q v => exact execEqcfgWrite_memOk core q v s hm
  | queueDisableComplete core q => exact execQueueDisableComplete_memOk core q s hm
  | rldRequest p => exact execRldRequest_memOk p s hm
  | rldvRequest p => exact execRldvRequest_memOk p s hm
  | rstRequest p => exact execRstRequest_memOk p s hm
  | rstvRequest p => exact execRstvRequest_memOk p s hm
  | ropRequest p => exact execRopRequest_memOk p s hm
  | closeRequest p => exact execCloseRequest_memOk p s hm
  | rldReply p => exact execRldReply_memOk p s hm
  | rldvReply p => exact execRldvReply_memOk p s hm
  | ropReply p => exact execRopReply_memOk p s hm
  | writeAcknowledgement p => exact execWriteAcknowledgement_memOk p s hm
  | summaryReply p => exact execSummaryReply_memOk p s hm
  | requestTimeout tag => exact execRequestTimeout_memOk tag s hm
  | tallyExpiry smod sctx batch => exact execTallyExpiry_memOk smod sctx batch s hm
  | fabslotWrite slot v => exact execFabslotWrite_memOk slot v s hm
  | migration die n => exact execMigration_memOk die n s hm
  | migrationHoldTimeout die => exact execMigrationHoldTimeout_memOk die s hm
  | itemSend sid => exact execItemSend_memOk sid s hm
  | itemArrival m => exact execItemArrival_memOk m s hm
  | itemAcceptance m => exact execItemAcceptance_memOk m s hm
  | spaceReport m => exact execSpaceReport_memOk m s hm
  | arrived m => exact execArrived_memOk m s hm
  | moved m => exact execMoved_memOk m s hm
  | redirected m => exact execRedirected_memOk m s hm
  | drained m => exact execDrained_memOk m s hm
  | moduleDownNotice f => exact execModuleDownNotice_memOk f s hm
  | ringHostRequest m => exact execRingHostRequest_memOk m s hm
  | journalAppend m => exact execJournalAppend_memOk m s hm
  | appendAcknowledgement m => exact execAppendAcknowledgement_memOk m s hm
  | orphanHoldoffExpiry sid => exact execOrphanHoldoffExpiry_memOk sid s hm
  | macroEntryStart core cim => exact execMacroEntryStart_memOk core cim s hm
  | pushRowAdded core push => exact execPushRowAdded_memOk core push s hm
  | operandsConsumed core push => exact execOperandsConsumed_memOk core push s hm
  | pushComplete core push => exact execPushComplete_memOk core push s hm
  | mloadComplete core slot => exact execMloadComplete_memOk core slot s hm
  | sequencerState core => exact execSequencerState_memOk core s hm
  | shootdown die v => exact execShootdown_memOk die v s hm
  | shootdownComplete die => exact execShootdownComplete_memOk die s hm
  | genAdvance slot v => exact execGenAdvance_memOk slot v s hm
  | onchipSweepComplete slot => exact execOnchipSweepComplete_memOk slot s hm
  | coreslotChange core v => exact execCoreslotChange_memOk core v s hm
  | blockReassign die v => exact execBlockReassign_memOk die v s hm
  | sweepVisit die cell => exact execSweepVisit_memOk die cell s hm
  | passEnd => exact execPassEnd_memOk s hm
  | swctlWrite v => exact execSwctlWrite_memOk v s hm
  | woCreate v => exact execWoCreate_memOk v s hm
  | woSeal v => exact execWoSeal_memOk v s hm
  | woAdd v => exact execWoAdd_memOk v s hm
  | woCancel v => exact execWoCancel_memOk v s hm
  | woFree v => exact execWoFree_memOk v s hm
  | launchPacket wq obj places => exact execLaunchPacket_memOk wq obj places s hm
  | go core row v => exact execGo_memOk core row v s hm
  | dispatchBind core row => exact execDispatchBind_memOk core row s hm
  | pendingBind core => exact execPendingBind_memOk core s hm
  | preRequest core row => exact execPreRequest_memOk core row s hm
  | preemptSave core ctx => exact execPreemptSave_memOk core ctx s hm
  | resume core ctx v => exact execResume_memOk core ctx v s hm
  | redirect core ctx v => exact execRedirect_memOk core ctx v s hm
  | kill core ctx v => exact execKill_memOk core ctx v s hm
  | replyToSaved core row r => exact execReplyToSaved_memOk core row r s hm
  | csave core v => exact execCsave_memOk core v s hm
  | crest core v => exact execCrest_memOk core v s hm
  | parityRetry b => exact execParityRetry_memOk b s hm
  | laneSwap b => exact execLaneSwap_memOk b s hm
  | retireRequest die v => exact execRetireRequest_memOk die v s hm
  | errorLogClear die off v => exact execErrorLogClear_memOk die off v s hm
  | latecntWrite v => exact execLatecntWrite_memOk v s hm
  | authcntWrite v => exact execAuthcntWrite_memOk v s hm
  | wldcfgWrite slot world v => exact execWldcfgWrite_memOk slot world v s hm
  | kgen mbox world v => exact execKgen_memOk mbox world v s hm
  | kimp mbox world v => exact execKimp_memOk mbox world v s hm
  | kdrop mbox world v => exact execKdrop_memOk mbox world v s hm
  | certw mbox world v => exact execCertw_memOk mbox world v s hm
  | sleepCommand mbox world v => exact execSleepCommand_memOk mbox world v s hm
  | wake images kept => exact execWake_memOk images kept s hm
  | chal => exact execChal_memOk s hm
  | cert => exact execCert_memOk s hm
  | importKey => exact execImportKey_memOk s hm
  | networkPacketArrival p => exact execNetworkPacketArrival_memOk p s hm
  | hostAccess a => exact execHostAccess_memOk a s hm
  | managementFrame f => exact execManagementFrame_memOk f s hm
  | resetBoot b => exact execResetBoot_memOk b s hm
  | powerStepPins level => exact execPowerStepPins_memOk level s hm
  | powerStepDatagram d => exact execPowerStepDatagram_memOk d s hm
  | ceilingApply => exact execCeilingApply_memOk s hm
  | powerFail => exact execPowerFail_memOk s hm
  | powerReturn b => exact execPowerReturn_memOk b s hm
  | selfRefreshExpiry => exact execSelfRefreshExpiry_memOk s hm
  | registerWrite blk off v => exact execRegisterWrite_memOk blk off v s hm
  | generalPurposeCoreAccess a => exact execGeneralPurposeCoreAccess_memOk a s hm
  | spaceReportSend sid => exact execSpaceReportSend_memOk sid s hm
  | closeNotice m => exact execCloseNotice_memOk m s hm
  | movedAcknowledgement m => exact execMovedAcknowledgement_memOk m s hm
  | ringHostAnswer m => exact execRingHostAnswer_memOk m s hm
  | ringHostTimeout jidx => exact execRingHostTimeout_memOk jidx s hm
  | jrecRequest m => exact execJrecRequest_memOk m s hm
  | jrecReply m => exact execJrecReply_memOk m s hm
  | releaseMessage m => exact execReleaseMessage_memOk m s hm
  | releaseNotice m => exact execReleaseNotice_memOk m s hm
  | belayNote m => exact execBelayNote_memOk m s hm
  | ringCopy m => exact execRingCopy_memOk m s hm
  | _ => exact exec_slotOp_memOk rfl s hm

/-- The agenda's head, or else the machine's own work, keeps the memory's canonical form. -/
theorem State.proceed_memOk (s : State) (hm : s.memOk) : outOk s.proceed := by
  have idle : outOk (.next (s.idleStep.endBurst s.burst)) :=
    outOk_next (State.endBurst_memOk _ _ (State.idleStep_memOk s hm))
  unfold State.proceed
  cases s.agenda with
  | nil => exact idle
  | cons i r =>
    have hx : outOk (exec i { s with agenda := r }) := exec_memOk i _ hm
    dsimp only
    split
    · split
      · rename_i t e
        exact outOk_next (State.endBurst_memOk _ _ (next_memOk e hx))
      · exact hx
    · exact idle

/-- Settles O58: the soft errors a step begins with keep the form, and so does what it then does. -/
theorem stepKeepsMemoryForm : Obligations.StepKeepsMemoryForm := by
  unfold Obligations.StepKeepsMemoryForm
  intro s t hm h
  exact next_memOk h (State.proceed_memOk _ (State.takeUpsets_memOk s hm))

end Sys2Proof.Machine
end

section
/-! Every instruction the decoder reads from a slot is a slot operation, one with an encoding: no bits stand for an event
(R61, R71 to R82). -/

namespace Sys2Proof

/-- What an opcode table names, if anything, is a slot operation. -/
def namesSlotOp (o : Option Instr) : Bool := o.all fun i => i.view.isSome

theorem view_isSome_of_namesSlotOp {o : Option Instr} {i : Instr} (h : namesSlotOp o = true) (e : o = some i) :
    i.view.isSome = true := by
  subst e; exact h

theorem namesSlotOp_ite {c : Prop} [Decidable c] {a b : Option Instr} (ha : namesSlotOp a = true) (hb : namesSlotOp b = true) :
    namesSlotOp (if c then a else b) = true := by
  split
  · exact ha
  · exact hb

/-- An operation whose OP holds a scope is a slot operation in every scope. -/
theorem namesSlotOp_map {α : Type} {g : α → Instr} (o : Option α) (h : ∀ a, (g a).view.isSome = true) :
    namesSlotOp (o.map g) = true := by
  cases o with
  | none => rfl
  | some a => exact h a

/-! The opcode table of each unit names slot operations alone (R72 to R82). -/

theorem decodeAlu_namesSlotOp (u : AluUnit) (op : Nat) (f : OpS) : namesSlotOp (decodeAlu u op f) = true := by
  unfold decodeAlu
  split
  all_goals repeat' with_reducible apply namesSlotOp_ite
  all_goals rfl
theorem decodeMul_namesSlotOp (op : Nat) (f : OpS) : namesSlotOp (decodeMul op f) = true := by
  unfold decodeMul; split <;> rfl
theorem decodePr_namesSlotOp (op : Nat) (f : OpS) : namesSlotOp (decodePr op f) = true := by
  unfold decodePr
  repeat' with_reducible apply namesSlotOp_ite
  all_goals rfl
theorem decodeBr_namesSlotOp (op : Nat) (f : OpS) : namesSlotOp (decodeBr op f) = true := by
  unfold decodeBr; split <;> rfl
theorem decodeLp_namesSlotOp (op : Nat) (f : OpS) : namesSlotOp (decodeLp op f) = true := by
  unfold decodeLp
  split
  all_goals repeat' with_reducible apply namesSlotOp_ite
  all_goals rfl
theorem decodeSys_namesSlotOp (op : Nat) (f : OpS) : namesSlotOp (decodeSys op f) = true := by
  unfold decodeSys; split <;> rfl
theorem decodeSm_namesSlotOp (op : Nat) (f : OpS) : namesSlotOp (decodeSm op f) = true := by
  unfold decodeSm; split <;> rfl
theorem decodeWk_namesSlotOp (op : Nat) (f : OpS) : namesSlotOp (decodeWk op f) = true := by
  unfold decodeWk; split <;> rfl
theorem decodeGq_namesSlotOp (op : Nat) (f : OpS) : namesSlotOp (decodeGq op f) = true := by
  unfold decodeGq; split <;> rfl
theorem decodeLs_namesSlotOp (op : Nat) (f : OpM) : namesSlotOp (decodeLs op f) = true := by
  have hrel : namesSlotOp ((scopeOf (op - 0x40)).map (.rel · f)) = true := namesSlotOp_map _ fun _ => rfl
  have hacq : namesSlotOp ((scopeOf (op - 0x48)).map (.acq · f)) = true := namesSlotOp_map _ fun _ => rfl
  unfold decodeLs
  split
  case h_13 =>
    iterate 21 refine namesSlotOp_ite rfl ?_
    exact namesSlotOp_ite hrel (namesSlotOp_ite hacq rfl)
  all_goals rfl
theorem decodeTx_namesSlotOp (op : Nat) (f : OpM) : namesSlotOp (decodeTx op f) = true := by
  unfold decodeTx; split <;> rfl
theorem decodeAt_namesSlotOp (op : Nat) (f : OpM) : namesSlotOp (decodeAt op f) = true := by
  unfold decodeAt
  iterate 7 refine namesSlotOp_ite (namesSlotOp_map _ fun _ => rfl) ?_
  rfl
theorem decodeEc_namesSlotOp (op : Nat) (f : OpM) : namesSlotOp (decodeEc op f) = true := by
  unfold decodeEc
  repeat' with_reducible apply namesSlotOp_ite
  all_goals rfl
theorem decodeRm_namesSlotOp (op : Nat) (f : OpM) : namesSlotOp (decodeRm op f) = true := by
  unfold decodeRm
  split
  all_goals repeat' with_reducible apply namesSlotOp_ite
  all_goals rfl
theorem decodeSx_namesSlotOp (op : Nat) (f : OpM) : namesSlotOp (decodeSx op f) = true := by
  unfold decodeSx; split <;> rfl
theorem decodeBj_namesSlotOp (op : Nat) (f : OpM) : namesSlotOp (decodeBj op f) = true := by
  unfold decodeBj; split <;> rfl
theorem decodeVec_namesSlotOp (u : VecUnit) (op : Nat) (f : OpS) : namesSlotOp (decodeVec u op f) = true := by
  unfold decodeVec
  split
  all_goals repeat' with_reducible apply namesSlotOp_ite
  all_goals rfl
theorem decodeMx_namesSlotOp (op : Nat) (f : OpT) : namesSlotOp (decodeMx op f) = true := by
  unfold decodeMx; split <;> rfl
theorem decodeTs_namesSlotOp (op : Nat) (f : OpT) : namesSlotOp (decodeTs op f) = true := by
  unfold decodeTs; split <;> rfl
theorem decodeXp_namesSlotOp (op : Nat) (f : OpS) : namesSlotOp (decodeXp op f) = true := by
  unfold decodeXp; split <;> rfl

/-- Every trigger starts a slot operation of its unit, or nothing. -/
theorem decodeTrigger_namesSlotOp (u op : Nat) (x : SlotBits) : namesSlotOp (decodeTrigger u op x) = true := by
  unfold decodeTrigger
  split
  · exact decodeAlu_namesSlotOp ..
  · exact decodeAlu_namesSlotOp ..
  · exact decodeMul_namesSlotOp ..
  · exact decodePr_namesSlotOp ..
  · exact decodeBr_namesSlotOp ..
  · exact decodeLp_namesSlotOp ..
  · exact decodeSys_namesSlotOp ..
  · exact decodeSm_namesSlotOp ..
  · exact decodeLs_namesSlotOp ..
  · exact decodeTx_namesSlotOp ..
  · exact decodeAt_namesSlotOp ..
  · exact decodeEc_namesSlotOp ..
  · exact decodeRm_namesSlotOp ..
  · exact decodeSx_namesSlotOp ..
  · exact decodeBj_namesSlotOp ..
  · exact decodeWk_namesSlotOp ..
  · exact decodeGq_namesSlotOp ..
  · exact decodeVec_namesSlotOp ..
  · exact decodeVec_namesSlotOp ..
  · exact decodeMx_namesSlotOp ..
  · exact decodeTs_namesSlotOp ..
  · exact decodeXp_namesSlotOp ..
  · rfl

theorem decodeMove_namesSlotOp (k : Nat) (x : SlotBits) : namesSlotOp (decodeMove k x) = true := by
  unfold decodeMove
  dsimp only
  split
  · exact namesSlotOp_ite rfl rfl
  all_goals rfl

theorem decodeCandidate_namesSlotOp (k : Nat) (x : SlotBits) : namesSlotOp (decodeCandidate k x).1 = true := by
  unfold decodeCandidate
  split
  · exact decodeTrigger_namesSlotOp ..
  · exact decodeMove_namesSlotOp ..

/-- What a slot decodes to is the operation it names. -/
theorem decodeCandidate_of_decodeSlot {k : Nat} {x : SlotBits} {i : Instr} (h : decodeSlot k x = .ok i) :
    (decodeCandidate k x).1 = some i := by
  unfold decodeSlot at h
  split at h; · cases h
  split at h; · cases h
  split at h; · cases h
  split at h; · cases h
  split at h; · cases h
  split at h
  · cases h
  · rename_i j extra e
    split at h
    · cases h
    · cases h
    · split at h
      · cases h; rw [e]
      · cases h

/-- A decoded slot holds a slot operation. -/
theorem view_isSome_of_decodeSlot {k : Nat} {x : SlotBits} {i : Instr} (h : decodeSlot k x = .ok i) : i.view.isSome = true :=
  view_isSome_of_namesSlotOp (decodeCandidate_namesSlotOp k x) (decodeCandidate_of_decodeSlot h)

theorem mem_of_mem_okSlots {l : List (Nat × Except EncFail Instr)} {k : Nat} {i : Instr} (h : (k, i) ∈ okSlots l) :
    (k, .ok i) ∈ l := by
  induction l with
  | nil => cases h
  | cons x r ih =>
    obtain ⟨j, e | a⟩ := x
    · exact List.mem_cons_of_mem _ (ih h)
    · rcases List.mem_cons.1 h with e | h
      · cases e; exact List.mem_cons_self
      · exact List.mem_cons_of_mem _ (ih h)

/-- Every operation of a decoded bundle is a slot operation. -/
theorem view_isSome_of_mem_okSlots {b : BundleBits} {k : Nat} {i : Instr} (h : (k, i) ∈ okSlots (decodeSlots b)) :
    i.view.isSome = true := by
  obtain ⟨j, -, e⟩ := List.mem_map.1 (mem_of_mem_okSlots h)
  exact view_isSome_of_decodeSlot (Prod.ext_iff.1 e).2

/-- A bundle without a failing slot and with one operation is that operation (R83). -/
theorem bundleInstr_of_one {b : BundleBits} {k : Nat} {i : Instr} (hf : firstFail (decodeSlots b) = none)
    (hl : (okSlots (decodeSlots b)).filter (fun x => x.2 ≠ .nop) = [(k, i)]) : bundleInstr b = some i := by
  simp only [bundleInstr, hf, hl]

/-- The header of no fields (R60). -/
def Header.empty : Header := ⟨0, false, false, false, false, 0, 0, 0, 0⟩

/-- A bundle whose bits 47:0 are zero has the empty header (R60). -/
theorem Header.ofBits_eq_empty {b : BundleBits} (h : b.extractLsb' 0 48 = 0) : Header.ofBits b = Header.empty := by
  have bit (k : Nat) (hk : k < 48) : b.getLsbD k = false := by
    simpa [hk] using congrArg (BitVec.getLsbD · k) h
  have run (k n : Nat) (hk : k + n ≤ 48) : b.extractLsb' k n = 0 := by
    ext i hi
    simpa using bit (k + i) (by omega)
  simp only [Header.ofBits, Header.empty, bit 31, bit 30, bit 29, bit 28, run 32 16, run 24 4, run 16 8, run 8 8, run 0 8,
    Nat.reduceLT, Nat.reduceAdd, Nat.reduceLeDiff]

end Sys2Proof
end

section
/-! The issue of a bundle of one operation with an empty header (R83): what its examination begins with, what it gives, and
what issue adds. -/

namespace Sys2Proof.Machine

theorem foldl_hub {α : Type} {f : State → α → State} (hf : ∀ s x, (f s x).hub = s.hub) (l : List α) (s : State) :
    (l.foldl f s).hub = s.hub := by
  induction l generalizing s with
  | nil => rfl
  | cons x r ih => exact (ih _).trans (hf s x)

@[simp] theorem State.l2Fill_hub (s : State) (pa : Nat) (slot : Option (BitVec 4)) : (s.l2Fill pa slot).hub = s.hub := by
  unfold State.l2Fill
  dsimp only
  repeat' split
  all_goals rfl

@[simp] theorem State.countRead_hub (s : State) (a : Acc) (pa : Nat) : (s.countRead a pa).hub = s.hub := by
  unfold State.countRead
  split <;> rfl

@[simp] theorem State.touchWalk_hub (s : State) (slot : BitVec 4) (root va : Word) : (s.touchWalk slot root va).hub = s.hub := by
  unfold State.touchWalk
  split
  · rfl
  · exact foldl_hub (fun s a => s.l2Fill_hub a _) _ _

@[simp] theorem State.touchRun_hub (s : State) (a : Acc) (pa n : Nat) : (s.touchRun a pa n).hub = s.hub :=
  (foldl_hub (fun s _ => s.countRead_hub a _) _ _).trans (foldl_hub (fun s _ => s.l2Fill_hub _ _) _ _)

@[simp] theorem State.touchPage_hub (s : State) (slot : BitVec 4) (va : Word) (n : Nat) : (s.touchPage slot va n).hub = s.hub := by
  unfold State.touchPage
  split <;> simp

@[simp] theorem State.touchVA_hub (s : State) (slot : BitVec 4) (va : Word) (n : Nat) : (s.touchVA slot va n).hub = s.hub := by
  unfold State.touchVA
  dsimp only
  split <;> simp

/-- A fetch changes what the home slices hold and count, and no word of the hub. -/
@[simp] theorem State.touchFetch_hub (s : State) (ci : Nat) : (s.touchFetch ci).hub = s.hub := by
  unfold State.touchFetch
  dsimp only
  repeat' split
  all_goals simp

/-- The examination of a bundle begins at the level the module is at (R444). -/
theorem State.beginExam_level (s : State) (core i : Nat) : (s.beginExam core i).level = s.level := by
  have h : (s.beginExam core i).hub = s.hub := s.touchFetch_hub _
  simp only [State.level, State.hubReg, h]

/-- Empty slots do nothing: the operations of a bundle run as those of the slots that hold one. -/
theorem foldlM_opOf_filter_nop (l : List (Nat × Instr)) (s : State) :
    l.foldlM (fun x p => opOf p.2 x) s = (l.filter fun x => x.2 ≠ .nop).foldlM (fun x p => opOf p.2 x) s := by
  induction l generalizing s with
  | nil => rfl
  | cons x r ih =>
    by_cases h : x.2 = .nop
    · simp only [List.foldlM_cons, h, ne_eq, not_true_eq_false, decide_false, Bool.false_eq_true, not_false_eq_true,
        List.filter_cons_of_neg]
      exact ih s
    · simp only [List.foldlM_cons, List.filter_cons_of_pos (p := fun x : Nat × Instr => decide (x.2 ≠ .nop)) (decide_eq_true h), ih]

/-- A bundle whose every operation succeeds on the state it is examined in holds no swait that blocks. -/
theorem State.swaitBlocks_eq_false {s : State} {l : List (Nat × Instr)} (h : ∀ x ∈ l, ∃ t, opOf x.2 s = .ok t) :
    s.swaitBlocks l = false := by
  refine List.any_eq_false.2 fun x hx => ?_
  obtain ⟨t, e⟩ := h x hx
  split
  · rename_i f q
    rw [q] at e
    have e : opSwait f s = .ok t := e
    simp [e]
  · simp

/-- A bundle holds one operation beside empty slots: each of its slots' operations is that one or the no-op. -/
theorem eq_or_nop_of_filter {l : List (Nat × Instr)} {k : Nat} {i : Instr}
    (hl : l.filter (fun x => x.2 ≠ .nop) = [(k, i)]) {x : Nat × Instr} (hx : x ∈ l) : x.2 = i ∨ x.2 = .nop := by
  by_cases h : x.2 = .nop
  · exact .inr h
  · have hm : x ∈ l.filter (fun x => x.2 ≠ .nop) := List.mem_filter.2 ⟨hx, decide_eq_true h⟩
    rw [hl, List.mem_singleton] at hm
    exact .inl (by rw [hm])

theorem mem_of_filter_eq_singleton {α : Type} {p : α → Bool} {l : List α} {x : α} (hl : l.filter p = [x]) : x ∈ l := by
  have h : x ∈ l.filter p := by rw [hl]; exact List.mem_singleton_self x
  exact (List.mem_filter.1 h).1

/-- The state that a bundle's operations are examined in: its next address and its header are noted (R83). -/
def State.atBundle (z : State) (nb : NextBundle) (h : Header) : State :=
  { z with cur := { z.cur with nextA := nb.after.pc, bi := h.bi, pitch := h.pitch, cairn := h.cairn } }

theorem State.atBundle_eq (z : State) (nb : NextBundle) (h : Header) : z.atBundle nb h =
    { z with cur := { z.cur with nextA := nb.after.pc, bi := h.bi, pitch := h.pitch, cairn := h.cairn } } := rfl

/-- An empty header is legal, waits for nothing, signals nothing and ends no pitch (R60, R147, R149). -/
theorem State.headerOk_empty (s : State) : s.headerOk .empty = .ok () := by simp [State.headerOk, Header.empty]
theorem State.headerWait_empty (s : State) (l : List (Nat × Instr)) : s.headerWait .empty l = .ok s := rfl
theorem State.headerSignal_empty (s : State) : s.headerSignal .empty = .ok s := rfl
theorem State.endOfPitch_empty (s : State) (old : Nat) : s.endOfPitch .empty old = .ok s := rfl

/-- The examination of a bundle with an empty header and one operation (R83) succeeds where the operation and what follows
the bundle do, and gives what they give. -/
theorem State.examine_one {z t v : State} {nb : NextBundle} {k : Nat} {ins : Instr} {nx : NextAddr}
    (hn : z.nextBundle z.cid = .ok nb) (hh : Header.ofBits nb.bits = .empty) (hf : firstFail (decodeSlots nb.bits) = none)
    (hl : (okSlots (decodeSlots nb.bits)).filter (fun x => x.2 ≠ .nop) = [(k, ins)])
    (hw : (z.atBundle nb .empty).me.wake = none) (ho : opOf ins (z.atBundle nb .empty) = .ok t)
    (hv : t.flow (Header.ofBits nb.bits) nb.after = .ok (v, nx)) : z.examine = .ok ⟨v, nb.bits, nx⟩ := by
  have legal : slotsOk (decodeSlots nb.bits) = .ok () := by simp only [slotsOk, hf]
  have goes : (z.atBundle nb .empty).swaitFirst (okSlots (decodeSlots nb.bits)) = .ok () := by
    have hb : (z.atBundle nb .empty).swaitBlocks (okSlots (decodeSlots nb.bits)) = false := by
      refine State.swaitBlocks_eq_false fun x hx => ?_
      rcases eq_or_nop_of_filter hl hx with e | e
      · exact ⟨t, e ▸ ho⟩
      · exact ⟨_, by rw [e]; rfl⟩
    simp [State.swaitFirst, hb]
  have awake : (z.atBundle nb .empty).awake = .ok (z.atBundle nb .empty) := by simp only [State.awake, hw]
  have ops : (okSlots (decodeSlots nb.bits)).foldlM (fun x p => opOf p.2 x) (z.atBundle nb .empty) = .ok t := by
    rw [foldlM_opOf_filter_nop, hl, List.foldlM_cons, ho]; rfl
  rw [hh] at hv
  simp only [State.examine, hn, hh, bind, Except.bind, pure, Except.pure, ← State.atBundle_eq, State.headerOk_empty, legal,
    State.headerWait_empty, goes, awake, ops, State.headerSignal_empty, hv, State.endOfPitch_empty]

/-- What issue adds to a bundle with an empty header, above level 9 (R83, R406): the count and the signature of the pitch, the
next address, and the next issue cycle. No pitch ends, and no cycle is held (R446). -/
theorem State.issue_empty {z : State} {e : Exam} (hh : Header.ofBits e.bits = Header.empty) (hl : 9 < z.level) :
    z.issue e = ({ (e.st.commit.modMe fun c => c.issued e.bits (Header.ofBits e.bits)
        { e.next with xfer := e.st.cur.xfer, cairn := false } z.seq false) with seq := z.seq + 1 } : State).modMyCore
      fun c => { c with nextIssue := z.cycle + 1 } := by
  have hl : ¬z.level ≤ 9 := Nat.not_le.2 hl
  simp [State.issue, hh, Header.empty, hl]

/-- A bundle issue of a core that may issue examines and issues its next bundle (R83). -/
theorem execBundleIssue_next {s : State} {core i : Nat} {e : Exam} (hi : (s.core core).issuing = some i)
    (hm : s.mayExamine core i = true) (he : (s.beginExam core i).examine = .ok e) :
    execBundleIssue core s = .next ((s.beginExam core i).issue e) := by
  simp only [execBundleIssue, hi, hm, if_true, State.runBundle, he]

/-- A step without soft errors begins with the agenda. -/
theorem step_of_upsets_nil {s : State} (h : s.upsets = []) : step s = s.proceed := by
  simp only [step, State.takeUpsets, h]

/-- The agenda's head, its moment come, is what the machine does (R150). -/
theorem State.proceed_of_hasCome {s t : State} {i : Instr} {r : List Instr} (ha : s.agenda = i :: r) (hc : s.hasCome i = true)
    (hx : exec i { s with agenda := r } = .next t) : s.proceed = .next (t.endBurst s.burst) := by
  simp only [State.proceed, ha, hc, if_true, hx]

/-- Until that moment the machine goes on with its own work. -/
theorem State.proceed_of_not_hasCome {s : State} {i : Instr} {r : List Instr} (ha : s.agenda = i :: r) (hc : s.hasCome i = false) :
    s.proceed = .next (s.idleStep.endBurst s.burst) := by
  simp only [State.proceed, ha, hc, Bool.false_eq_true, if_false]

/-- A core that may examine its next bundle stands at the stage of issue, so a bundle issue in its agenda has come (R150). -/
theorem State.hasCome_bundleIssue {s : State} {core i : Nat} (h : s.mayExamine core i = true) :
    s.hasCome (.bundleIssue core) = true := by
  simp only [State.mayExamine, Bool.and_eq_true] at h
  obtain ⟨⟨⟨⟨⟨⟨⟨hs, -⟩, -⟩, -⟩, -⟩, -⟩, -⟩, -⟩ := h
  exact hs

/-- Settles O56: the bundle's examination is its one operation's, issue adds its own, and the agenda decides which work is done. -/
theorem stepRunsTheDecodedInstruction : Obligations.StepRunsTheDecodedInstruction := by
  unfold Obligations.StepRunsTheDecodedInstruction
  intro s r hu
  rw [step_of_upsets_nil hu]
  refine ⟨?_, fun i t ha => ⟨State.proceed_of_hasCome ha, State.proceed_of_not_hasCome ha⟩⟩
  intro core i k nb ins t v nx ha s0 z y hi hm hlev hn hz hf hl hw ho hv
  have hh : Header.ofBits nb.bits = Header.empty := Header.ofBits_eq_empty hz
  have hslot : ins.view.isSome = true :=
    view_isSome_of_mem_okSlots (mem_of_filter_eq_singleton hl)
  have hex : z.examine = .ok ⟨v, nb.bits, nx⟩ := State.examine_one hn hh hf hl hw ho hv
  have hzl : 9 < z.level := (s0.beginExam_level core i).symm ▸ hlev
  refine ⟨bundleInstr_of_one hf hl, ?_, ?_⟩
  · rw [exec_eq_settle_opOf ins y hslot, settle_ok ho]
  · have hx : exec (.bundleIssue core) s0 = .next (z.issue ⟨v, nb.bits, nx⟩) := execBundleIssue_next hi hm hex
    rw [State.issue_empty (e := ⟨v, nb.bits, nx⟩) hh hzl] at hx
    exact State.proceed_of_hasCome ha (State.hasCome_bundleIssue hm) hx

end Sys2Proof.Machine
end

section
/-! What each group of source ports reads (R62), as the reading its operations take of it (R66). -/

namespace Sys2Proof.Machine

/-! p0 and vp0 are no storage; every other register of their files is (R16). -/

theorem Bank.getP_zero (b : Bank) : b.getP 0 = true := rfl
theorem Bank.getP_of_ne {b : Bank} {i : Nat} (h : i ≠ 0) : b.getP i = Tab.get false b.p i := by
  rw [Bank.getP, beq_false_of_ne h, Bool.false_or]
theorem Bank.getVP_zero (b : Bank) : b.getVP 0 = BitVec.allOnes 128 := rfl
theorem Bank.getVP_of_ne {b : Bank} {i : Nat} (h : i ≠ 0) : b.getVP i = Tab.get 0 b.vp i := if_neg h

/-- A value of at most 1,024 bits, held as a register's data, is read whole. -/
theorem setWidth_setWidth_1024 {n : Nat} (x : BitVec n) (h : n ≤ 1024) : (x.setWidth 1024).setWidth n = x :=
  (BitVec.setWidth_setWidth_of_le x h).trans (BitVec.setWidth_eq x)

/-- A scalar reads as the word it holds. -/
@[simp] theorem srcS_word (v : Word) (r : Option Reg) : (srcS v r).word = v :=
  setWidth_setWidth_1024 v (by decide)

/-- A predicate reads as the bit it holds. -/
@[simp] theorem Src.bool_pred (b : Bool) (r : Option Reg) :
    Src.bool ⟨.pred, { data := (BitVec.ofBool b).setWidth 1024 }, r, none⟩ = b := by
  simp only [Src.bool, Src.word]
  cases b <;> decide

/-- A vector predicate reads as the bits it holds. -/
@[simp] theorem Src.vec_vpred (v : VPred) (r : Option Reg) :
    Src.vec ⟨.vpred, { data := v.setWidth 1024 }, r, none⟩ = v :=
  setWidth_setWidth_1024 v (by decide)

section
variable {s : State} {p : BitVec 9}

/-- Ports 0x000 to 0x03F read the scalar registers, s32 to s63 renamed by rrb (R92). -/
theorem readPort_scalar (h : p.toNat < 0x40) :
    (s.readPort p).map Src.word = some (s.me.bank.getS (physS s.me.bank.rrb p.toNat)) := by
  have hk : srcKind p = some .scalar := by simp (disch := omega) only [srcKind, if_pos]
  simp (disch := omega) only [State.readPort, hk, if_pos, Option.map_some, srcS_word]

/-- Ports 0x040 to 0x07F read the vector registers, data and tag. -/
theorem readPort_vector (h : 0x40 ≤ p.toNat) (h' : p.toNat < 0x80) :
    (s.readPort p).map Src.wide = some (s.me.bank.getV (p.toNat - 0x40)) := by
  have hk : srcKind p = some .vector := by simp (disch := omega) only [srcKind, if_pos, if_neg]
  simp (disch := omega) only [State.readPort, hk, if_pos, Option.map_some, Src.wide]

/-- Ports 0x080 to 0x09F read the predicates. -/
theorem readPort_pred (h : 0x80 ≤ p.toNat) (h' : p.toNat < 0xA0) :
    (s.readPort p).map Src.bool = some (s.me.bank.getP (p.toNat - 0x80)) := by
  have hk : srcKind p = some .pred := by simp (disch := omega) only [srcKind, if_pos, if_neg]
  simp only [State.readPort, hk, Option.map_some, Src.bool_pred]

/-- Ports 0x0A0 to 0x0AF read the vector predicates. -/
theorem readPort_vpred (h : 0xA0 ≤ p.toNat) (h' : p.toNat < 0xB0) :
    (s.readPort p).map Src.vec = some (s.me.bank.getVP (p.toNat - 0xA0)) := by
  have hk : srcKind p = some .vpred := by simp (disch := omega) only [srcKind, if_pos, if_neg]
  simp only [State.readPort, hk, Option.map_some, Src.vec_vpred]

/-- Ports 0x1C0 to 0x1FF read the constants -32 to 31. -/
theorem readPort_constant (h : 0x1C0 ≤ p.toNat) :
    (s.readPort p).map Src.word = some (Spec.z64 ((p.toNat : Int) - 0x1E0)) := by
  have hk : srcKind p = some .scalar := by simp (disch := omega) only [srcKind, if_pos, if_neg]
  simp (disch := omega) only [State.readPort, hk, if_neg, Option.map_some, srcS_word, Spec.z64]

/-- Port 0x180, bi: the bundle immediate sign-extended. -/
theorem readPort_bi : (s.readPort 0x180).map Src.word = some (s.cur.bi.signExtend 64) :=
  congrArg some (srcS_word _ none)

/-- Port 0x181, biz: the bundle immediate zero-extended. -/
theorem readPort_biz : (s.readPort 0x181).map Src.word = some (s.cur.bi.setWidth 64) :=
  congrArg some (srcS_word _ none)

/-- Port 0x182, bih: the bundle immediate sign-extended and shifted left by 16. -/
theorem readPort_bih : (s.readPort 0x182).map Src.word = some (s.cur.bi.signExtend 64 <<< 16) :=
  congrArg some (srcS_word _ none)

/-- The ports R62 reserves are of no kind. -/
theorem srcKind_reserved (h : (0xD2 ≤ p.toNat ∧ p.toNat < 0xD8) ∨ (0xE0 ≤ p.toNat ∧ p.toNat < 0x100) ∨ p.toNat = 0x106 ∨
    (0x10D ≤ p.toNat ∧ p.toNat < 0x110) ∨ (0x116 ≤ p.toNat ∧ p.toNat < 0x180) ∨ (0x184 ≤ p.toNat ∧ p.toNat < 0x1C0)) :
    srcKind p = none := by
  rcases h with h | h | h | h | h | h <;> simp (disch := omega) only [srcKind, if_pos, if_neg]

/-- A port of no kind reads nothing. -/
theorem readPort_eq_none (h : srcKind p = none) : s.readPort p = none := by
  simp only [State.readPort, h]

end

/-- Each group of source ports reads what R16, R62 and R92 give it. -/
theorem sourcePortsRead : Spec.SourcePortsRead := by
  intro s p
  refine ⟨readPort_scalar, fun h => readPort_vector h.1 h.2, ?p0, ?pred, ?vp0, ?vpred, ?bi, ?biz, ?bih, readPort_constant,
    ?reserved⟩
  case p0 =>
    intro h
    have hp : p.toNat = 0x80 := congrArg BitVec.toNat h
    rw [readPort_pred hp.ge (by omega), hp, Nat.sub_self, Bank.getP_zero]
  case pred =>
    rintro ⟨h, h'⟩
    rw [readPort_pred h.le h', Bank.getP_of_ne (by omega)]
  case vp0 =>
    intro h
    have hp : p.toNat = 0xA0 := congrArg BitVec.toNat h
    rw [readPort_vpred hp.ge (by omega), hp, Nat.sub_self, Bank.getVP_zero]
  case vpred =>
    rintro ⟨h, h'⟩
    rw [readPort_vpred h.le h', Bank.getVP_of_ne (by omega)]
  case bi => rintro rfl; exact readPort_bi
  case biz => rintro rfl; exact readPort_biz
  case bih => rintro rfl; exact readPort_bih
  case reserved =>
    intro h
    refine readPort_eq_none (srcKind_reserved ?_)
    rwa [← BitVec.toNat_inj] at h

end Sys2Proof.Machine
end

section
/-! What a register reads after a whole write to its file (R17, R63). -/

namespace Sys2Proof.Machine

section
variable (b : Bank) (w : RegWrite) (j : Nat)

/-! A write gives each file what its store gives it: besides, it changes marks and pending results alone. -/

@[simp] theorem Bank.getS_write : (b.write w).getS j = (b.store w).getS j := rfl
@[simp] theorem Bank.getP_write : (b.write w).getP j = (b.store w).getP j := rfl
@[simp] theorem Bank.getVP_write : (b.write w).getVP j = (b.store w).getVP j := rfl
@[simp] theorem Bank.getSp_write : (b.write w).getSp j = (b.store w).getSp j := rfl
@[simp] theorem Bank.getV_write : (b.write w).getV j = (b.store w).getV j := rfl
@[simp] theorem Bank.getOL_write : (b.write w).getOL j = (b.store w).getOL j := rfl
@[simp] theorem Bank.getRL_write : (b.write w).getRL j = (b.store w).getRL j := rfl

end

section
variable {b : Bank} {w : RegWrite} {i j : Nat}

/-- A whole write to a scalar register: s0 discards it. -/
theorem Bank.getS_store (hr : w.reg = .s i) (hm : w.mask = fullMask) :
    (b.store w).getS j = if j = i ∧ i ≠ 0 then w.val.data.setWidth 64 else b.getS j := by
  by_cases hi : i = 0
  · simp [Bank.store, hr, hi]
  · by_cases hj : j = i
    · subst hj; simp [Bank.store, Bank.getS, hr, hi, mergeLow_full _ hm]
    · simp [Bank.store, Bank.getS, hr, hi, hj]

/-- A write to a predicate: p0 discards it. -/
theorem Bank.getP_store (hr : w.reg = .p i) :
    (b.store w).getP j = if j = i ∧ i ≠ 0 then w.val.data.getLsbD 0 else b.getP j := by
  by_cases hi : i = 0
  · simp [Bank.store, hr, hi]
  · by_cases hj : j = i
    · subst hj; simp [Bank.store, Bank.getP, hr, hi]
    · simp [Bank.store, Bank.getP, hr, hi, hj]

/-- A whole write to a vector predicate: vp0 discards it. -/
theorem Bank.getVP_store (hr : w.reg = .vp i) (hm : w.mask = fullMask) :
    (b.store w).getVP j = if j = i ∧ i ≠ 0 then w.val.data.setWidth 128 else b.getVP j := by
  by_cases hi : i = 0
  · simp [Bank.store, hr, hi]
  · by_cases hj : j = i
    · subst hj; simp [Bank.store, Bank.getVP, hr, hi, mergeLow_full _ hm]
    · simp [Bank.store, Bank.getVP, hr, hi, hj]

/-- A whole write to a special register: rrb keeps bits 4:0 and fmode bits 1:0. -/
theorem Bank.getSp_store (hr : w.reg = .sp i) (hm : w.mask = fullMask) :
    (b.store w).getSp j =
      if j = i then (let v := w.val.data.setWidth 64; if i = 7 then v &&& 31 else if i = 15 then v &&& 3 else v)
      else b.getSp j := by
  simp [Bank.store, Bank.getSp, hr, mergeLow_full _ hm]

/-- A whole write to a vector register, with its tag. -/
theorem Bank.getV_store (hr : w.reg = .v i) (hm : w.mask = fullMask) (ht : w.tag = true) :
    (b.store w).getV j = if j = i then w.val else b.getV j := by
  simp [Bank.store, Bank.getV, hr, mergeWide_full _ hm ht]

/-- A whole write to an operand latch, with its tag. -/
theorem Bank.getOL_store (hr : w.reg = .ol i) (hm : w.mask = fullMask) (ht : w.tag = true) :
    (b.store w).getOL j = if j = i then w.val else b.getOL j := by
  simp [Bank.store, Bank.getOL, hr, mergeWide_full _ hm ht]

/-- A whole write to a result latch, with its tag. -/
theorem Bank.getRL_store (hr : w.reg = .rl i) (hm : w.mask = fullMask) (ht : w.tag = true) :
    (b.store w).getRL j = if j = i then w.val else b.getRL j := by
  simp [Bank.store, Bank.getRL, hr, mergeWide_full _ hm ht]

end

/-- The value a write of 64 bits brings. -/
@[simp] theorem wr64_setWidth (r : Reg) (x : Word) (m : Mark) : (wr64 r x m).val.data.setWidth 64 = x :=
  setWidth_setWidth_1024 x (by decide)

/-- The bit a write of a predicate brings. -/
@[simp] theorem wrP_getLsbD_zero (i : Nat) (y : Bool) : (wrP i y).val.data.getLsbD 0 = y := by
  simp [wrP]

/-- The value a write of a wide register brings. -/
@[simp] theorem wrW_val (r : Reg) (v : Wide) (m : Mark) : (wrW r v m).val = v := rfl

/-- A whole write is read back from its register, as far as the register keeps it, and no other register of its file changes. -/
theorem registerWriteIsReadBack : Spec.RegisterWriteIsReadBack := by
  intro b x y i j
  refine ⟨?s, ?p, fun v => ?vp, ?sp, fun w => ⟨?v, ?ol, ?rl⟩⟩
  case s => rw [Bank.getS_write, Bank.getS_store (w := wr64 (.s i) x) rfl rfl, wr64_setWidth]
  case p => rw [Bank.getP_write, Bank.getP_store (w := wrP i y) rfl, wrP_getLsbD_zero]
  case vp =>
    rw [Bank.getVP_write, Bank.getVP_store (w := { reg := .vp i, val := { data := v.setWidth 1024 }, mask := fullMask }) rfl rfl,
      setWidth_setWidth_1024 v (by decide)]
  case sp => rw [Bank.getSp_write, Bank.getSp_store (w := wr64 (.sp i) x) rfl rfl, wr64_setWidth]
  case v => rw [Bank.getV_write, Bank.getV_store (w := wrW (.v i) w) rfl rfl rfl, wrW_val]
  case ol => rw [Bank.getOL_write, Bank.getOL_store (w := wrW (.ol i) w) rfl rfl rfl, wrW_val]
  case rl => rw [Bank.getRL_write, Bank.getRL_store (w := wrW (.rl i) w) rfl rfl rfl, wrW_val]

/-- Settles O6: what the source ports read, and what a register reads after a write. -/
theorem portsAndRegisters : Obligations.PortsAndRegisters := ⟨sourcePortsRead, registerWriteIsReadBack⟩

end Sys2Proof.Machine
end

section
/-! Decoding gives back what was encoded (R61, R69 to R82): in its slot, by the law of each operation; and as the one operation
of a bundle, whose other slots are empty. -/

namespace Sys2Proof

/-- Every slot operation, encoded, decodes in its slot to itself: each by its own law; an event has no encoding. -/
theorem decodeSlot_encode (i : Instr) : Laws.Encoding.Statement i := by
  cases i with
  | nop => exact Laws.Encoding.nop
  | move m => exact Laws.Encoding.move m
  | moveSplat m => exact Laws.Encoding.moveSplat m
  | moveHi m => exact Laws.Encoding.moveHi m
  | add u f => exact Laws.Encoding.add u f
  | sub u f => exact Laws.Encoding.sub u f
  | and u f => exact Laws.Encoding.and u f
  | or u f => exact Laws.Encoding.or u f
  | xor u f => exact Laws.Encoding.xor u f
  | andn u f => exact Laws.Encoding.andn u f
  | orn u f => exact Laws.Encoding.orn u f
  | shl u f => exact Laws.Encoding.shl u f
  | shr u f => exact Laws.Encoding.shr u f
  | sra u f => exact Laws.Encoding.sra u f
  | ror u f => exact Laws.Encoding.ror u f
  | min u f => exact Laws.Encoding.min u f
  | max u f => exact Laws.Encoding.max u f
  | minn u f => exact Laws.Encoding.minn u f
  | maxn u f => exact Laws.Encoding.maxn u f
  | sel u f => exact Laws.Encoding.sel u f
  | sext8 u f => exact Laws.Encoding.sext8 u f
  | sext16 u f => exact Laws.Encoding.sext16 u f
  | sext32 u f => exact Laws.Encoding.sext32 u f
  | zext8 u f => exact Laws.Encoding.zext8 u f
  | zext16 u f => exact Laws.Encoding.zext16 u f
  | zext32 u f => exact Laws.Encoding.zext32 u f
  | clz u f => exact Laws.Encoding.clz u f
  | ctz u f => exact Laws.Encoding.ctz u f
  | popc u f => exact Laws.Encoding.popc u f
  | bfx u f => exact Laws.Encoding.bfx u f
  | bfi u f => exact Laws.Encoding.bfi u f
  | addsh u f => exact Laws.Encoding.addsh u f
  | ceq u k f => exact Laws.Encoding.ceq u k f
  | cne u k f => exact Laws.Encoding.cne u k f
  | clt u k f => exact Laws.Encoding.clt u k f
  | cle u k f => exact Laws.Encoding.cle u k f
  | cltn u k f => exact Laws.Encoding.cltn u k f
  | clen u k f => exact Laws.Encoding.clen u k f
  | mul f => exact Laws.Encoding.mul f
  | mulh f => exact Laws.Encoding.mulh f
  | mulhn f => exact Laws.Encoding.mulhn f
  | div f => exact Laws.Encoding.div f
  | divn f => exact Laws.Encoding.divn f
  | rem f => exact Laws.Encoding.rem f
  | remn f => exact Laws.Encoding.remn f
  | pand d f => exact Laws.Encoding.pand d f
  | por d f => exact Laws.Encoding.por d f
  | pxor d f => exact Laws.Encoding.pxor d f
  | pnot d f => exact Laws.Encoding.pnot d f
  | pset d f => exact Laws.Encoding.pset d f
  | vany d f => exact Laws.Encoding.vany d f
  | vall d f => exact Laws.Encoding.vall d f
  | br f => exact Laws.Encoding.br f
  | call f => exact Laws.Encoding.call f
  | ret f => exact Laws.Encoding.ret f
  | bix f => exact Laws.Encoding.bix f
  | lset n f => exact Laws.Encoding.lset n f
  | lrot f => exact Laws.Encoding.lrot f
  | lbrk n f => exact Laws.Encoding.lbrk n f
  | trap f => exact Laws.Encoding.trap f
  | tret f => exact Laws.Encoding.tret f
  | exit f => exact Laws.Encoding.exit f
  | yield f => exact Laws.Encoding.yield f
  | sleep f => exact Laws.Encoding.sleep f
  | brk f => exact Laws.Encoding.brk f
  | sset f => exact Laws.Encoding.sset f
  | sadd f => exact Laws.Encoding.sadd f
  | stake f => exact Laws.Encoding.stake f
  | swait f => exact Laws.Encoding.swait f
  | fork f => exact Laws.Encoding.fork f
  | join f => exact Laws.Encoding.join f
  | jadd f => exact Laws.Encoding.jadd f
  | wcan f => exact Laws.Encoding.wcan f
  | wdone f => exact Laws.Encoding.wdone f
  | gpush f => exact Laws.Encoding.gpush f
  | gpop f => exact Laws.Encoding.gpop f
  | ldb nw f => exact Laws.Encoding.ldb nw f
  | ldh nw f => exact Laws.Encoding.ldh nw f
  | ldw nw f => exact Laws.Encoding.ldw nw f
  | ldd nw f => exact Laws.Encoding.ldd nw f
  | ldbn nw f => exact Laws.Encoding.ldbn nw f
  | ldhn nw f => exact Laws.Encoding.ldhn nw f
  | ldwn nw f => exact Laws.Encoding.ldwn nw f
  | stb f => exact Laws.Encoding.stb f
  | sth f => exact Laws.Encoding.sth f
  | stw f => exact Laws.Encoding.stw f
  | std f => exact Laws.Encoding.std f
  | vld fmt nw f => exact Laws.Encoding.vld fmt nw f
  | vst fmt f => exact Laws.Encoding.vst fmt f
  | vlds nw f => exact Laws.Encoding.vlds nw f
  | vsts f => exact Laws.Encoding.vsts f
  | vldx nw f => exact Laws.Encoding.vldx nw f
  | vstx f => exact Laws.Encoding.vstx f
  | fewait f => exact Laws.Encoding.fewait f
  | feclr f => exact Laws.Encoding.feclr f
  | feset f => exact Laws.Encoding.feset f
  | fetst f => exact Laws.Encoding.fetst f
  | rel sc f => exact Laws.Encoding.rel sc f
  | acq sc f => exact Laws.Encoding.acq sc f
  | cwb f => exact Laws.Encoding.cwb f
  | cinv f => exact Laws.Encoding.cinv f
  | xlat f => exact Laws.Encoding.xlat f
  | hdrop f => exact Laws.Encoding.hdrop f
  | hchk f => exact Laws.Encoding.hchk f
  | aadd sc f => exact Laws.Encoding.aadd sc f
  | aand sc f => exact Laws.Encoding.aand sc f
  | aor sc f => exact Laws.Encoding.aor sc f
  | axor sc f => exact Laws.Encoding.axor sc f
  | axchg sc f => exact Laws.Encoding.axchg sc f
  | acas sc f => exact Laws.Encoding.acas sc f
  | amax sc f => exact Laws.Encoding.amax sc f
  | cpy q f => exact Laws.Encoding.cpy q f
  | csr q f => exact Laws.Encoding.csr q f
  | pfr q f => exact Laws.Encoding.pfr q f
  | zfill q f => exact Laws.Encoding.zfill q f
  | qfence q f => exact Laws.Encoding.qfence q f
  | coll q f => exact Laws.Encoding.coll q f
  | evict q f => exact Laws.Encoding.evict q f
  | cstat q f => exact Laws.Encoding.cstat q f
  | rld f => exact Laws.Encoding.rld f
  | rldv f => exact Laws.Encoding.rldv f
  | rst b f => exact Laws.Encoding.rst b f
  | rstv b f => exact Laws.Encoding.rstv b f
  | rop f => exact Laws.Encoding.rop f
  | bclose b f => exact Laws.Encoding.bclose b f
  | rdrain f => exact Laws.Encoding.rdrain f
  | sopen f => exact Laws.Encoding.sopen f
  | sclose f => exact Laws.Encoding.sclose f
  | ssend f => exact Laws.Encoding.ssend f
  | srecv f => exact Laws.Encoding.srecv f
  | spoll f => exact Laws.Encoding.spoll f
  | sxfer f => exact Laws.Encoding.sxfer f
  | sstat f => exact Laws.Encoding.sstat f
  | jopen f => exact Laws.Encoding.jopen f
  | jrec f => exact Laws.Encoding.jrec f
  | jemit f => exact Laws.Encoding.jemit f
  | jtrunc f => exact Laws.Encoding.jtrunc f
  | jpart f => exact Laws.Encoding.jpart f
  | jrep f => exact Laws.Encoding.jrep f
  | jstat f => exact Laws.Encoding.jstat f
  | vadd u f => exact Laws.Encoding.vadd u f
  | vsub u f => exact Laws.Encoding.vsub u f
  | vmul u f => exact Laws.Encoding.vmul u f
  | vmulh u f => exact Laws.Encoding.vmulh u f
  | vmin u f => exact Laws.Encoding.vmin u f
  | vmax u f => exact Laws.Encoding.vmax u f
  | vminn u f => exact Laws.Encoding.vminn u f
  | vmaxn u f => exact Laws.Encoding.vmaxn u f
  | vand u f => exact Laws.Encoding.vand u f
  | vor u f => exact Laws.Encoding.vor u f
  | vxor u f => exact Laws.Encoding.vxor u f
  | vandn u f => exact Laws.Encoding.vandn u f
  | vshl u f => exact Laws.Encoding.vshl u f
  | vshr u f => exact Laws.Encoding.vshr u f
  | vsra u f => exact Laws.Encoding.vsra u f
  | vabs u f => exact Laws.Encoding.vabs u f
  | vadds u f => exact Laws.Encoding.vadds u f
  | vsubs u f => exact Laws.Encoding.vsubs u f
  | vfadd u f => exact Laws.Encoding.vfadd u f
  | vfsub u f => exact Laws.Encoding.vfsub u f
  | vfmul u f => exact Laws.Encoding.vfmul u f
  | vfma u f => exact Laws.Encoding.vfma u f
  | vfnma u f => exact Laws.Encoding.vfnma u f
  | vfmin u f => exact Laws.Encoding.vfmin u f
  | vfmax u f => exact Laws.Encoding.vfmax u f
  | vrcp u f => exact Laws.Encoding.vrcp u f
  | vrsq u f => exact Laws.Encoding.vrsq u f
  | vexp2 u f => exact Laws.Encoding.vexp2 u f
  | vlog2 u f => exact Laws.Encoding.vlog2 u f
  | vtanh u f => exact Laws.Encoding.vtanh u f
  | vscale u f => exact Laws.Encoding.vscale u f
  | vtag u f => exact Laws.Encoding.vtag u f
  | vcvt u fmt f => exact Laws.Encoding.vcvt u fmt f
  | vsplat u f => exact Laws.Encoding.vsplat u f
  | vins u f => exact Laws.Encoding.vins u f
  | vext u f => exact Laws.Encoding.vext u f
  | vperm u f => exact Laws.Encoding.vperm u f
  | vrot u f => exact Laws.Encoding.vrot u f
  | vsel u f => exact Laws.Encoding.vsel u f
  | vcomp u f => exact Laws.Encoding.vcomp u f
  | vsum u f => exact Laws.Encoding.vsum u f
  | vmaxr u f => exact Laws.Encoding.vmaxr u f
  | vargmax u f => exact Laws.Encoding.vargmax u f
  | vrng u f => exact Laws.Encoding.vrng u f
  | vsample u f => exact Laws.Encoding.vsample u f
  | vpand u f => exact Laws.Encoding.vpand u f
  | vpor u f => exact Laws.Encoding.vpor u f
  | vpxor u f => exact Laws.Encoding.vpxor u f
  | vpnot u f => exact Laws.Encoding.vpnot u f
  | vpset u f => exact Laws.Encoding.vpset u f
  | vpcnt u f => exact Laws.Encoding.vpcnt u f
  | vceq u k f => exact Laws.Encoding.vceq u k f
  | vcne u k f => exact Laws.Encoding.vcne u k f
  | vclt u k f => exact Laws.Encoding.vclt u k f
  | vcle u k f => exact Laws.Encoding.vcle u k f
  | vcltn u k f => exact Laws.Encoding.vcltn u k f
  | vfceq u k f => exact Laws.Encoding.vfceq u k f
  | vfclt u k f => exact Laws.Encoding.vfclt u k f
  | vfcle u k f => exact Laws.Encoding.vfcle u k f
  | mload f => exact Laws.Encoding.mload f
  | mpush f => exact Laws.Encoding.mpush f
  | mpushv f => exact Laws.Encoding.mpushv f
  | mzero f => exact Laws.Encoding.mzero f
  | mpop f => exact Laws.Encoding.mpop f
  | mpopx f => exact Laws.Encoding.mpopx f
  | macc f => exact Laws.Encoding.macc f
  | mrel f => exact Laws.Encoding.mrel f
  | tsload f => exact Laws.Encoding.tsload f
  | tsrun f => exact Laws.Encoding.tsrun f
  | tsstop f => exact Laws.Encoding.tsstop f
  | tsstat f => exact Laws.Encoding.tsstat f
  | xpin f => exact Laws.Encoding.xpin f
  | xpout f => exact Laws.Encoding.xpout f
  | xpclr f => exact Laws.Encoding.xpclr f
  | xpmode f => exact Laws.Encoding.xpmode f
  | _ => exact Laws.statement_event rfl

/-- The empty slot holds the no-op (R61). -/
theorem decodeSlot_zero {k : Nat} (h : k < 7) : decodeSlot k 0 = .ok .nop := by
  interval_cases k <;> decide

/-- A unit's class is one of the seven slots (R15). -/
theorem unitSlot_lt (u : Nat) : unitSlot u < 7 := by
  unfold unitSlot
  split_ifs <;> decide

/-- A slot that decodes names an operation of its own class (R64). -/
theorem classOk_of_decodeSlot {k : Nat} {x : SlotBits} {i : Instr} (h : decodeSlot k x = .ok i) : classOk k x = true := by
  unfold decodeSlot at h
  split_ifs at h with _ _ _ _ hc
  simpa using hc

/-- A decoded operation of a trigger stands in the slot of its unit, which is one of the seven. -/
theorem slot_lt_of_trigger {k u : Nat} {x : SlotBits} {i : Instr} (h : decodeSlot k x = .ok i)
    (hd : dstKind (slotDst x) = some (.trigger u)) : k < 7 := by
  have hc : classOk k x = true := classOk_of_decodeSlot h
  simp only [classOk, hd, beq_iff_eq] at hc
  exact hc ▸ unitSlot_lt u

/-- What decodes as a plain move is the empty slot or one of the three moves. -/
theorem decodeMove_cases {k : Nat} {x : SlotBits} {i : Instr} (h : decodeMove k x = some i) :
    i = .nop ∨ ∃ m, i = .move m ∨ i = .moveSplat m ∨ i = .moveHi m := by
  unfold decodeMove at h
  dsimp only at h
  split at h
  · split at h
    · cases h; exact .inl rfl
    · cases h; exact .inr ⟨_, .inl rfl⟩
  · cases h; exact .inr ⟨_, .inr (.inl rfl)⟩
  · cases h; exact .inr ⟨_, .inr (.inr rfl)⟩
  · cases h

/-- A well-formed plain move names one of the seven slots (R65). -/
theorem move_slot_lt {i : Instr} {m : OpMove} (h : i = .move m ∨ i = .moveSplat m ∨ i = .moveHi m) (hw : i.wf = true) :
    m.slot.toNat < 7 := by
  have he : i.extraOk = true := by
    rcases h with rfl | rfl | rfl
    all_goals exact Laws.extraOk_of rfl hw
  rcases h with rfl | rfl | rfl
  case inl =>
    obtain ⟨hs, -⟩ := Bool.and_eq_true_iff.1 he
    split at hs
    · cases hs
    · exact of_decide_eq_true hs
  all_goals
    simp only [Instr.extraOk] at he
    split at he
    · cases he
    · exact of_decide_eq_true he

/-- A well-formed slot operation stands in one of the seven slots (R61). -/
theorem slot_lt_of_encode {i : Instr} {k : Nat} {x : SlotBits} (h : encode i = some (k, x)) (hw : i.wf = true) : k < 7 := by
  have hd : decodeSlot k x = .ok i := decodeSlot_encode i k x h hw
  have hc : (decodeCandidate k x).1 = some i := decodeCandidate_of_decodeSlot hd
  unfold decodeCandidate at hc
  split at hc
  · exact slot_lt_of_trigger hd ‹_›
  · rcases decodeMove_cases hc with rfl | ⟨m, hm⟩
    · cases h; decide
    · have hk : k = m.slot.toNat := by rcases hm with rfl | rfl | rfl <;> cases h <;> rfl
      exact hk ▸ move_slot_lt hm hw

/-- In the bundle that holds x in slot k and nothing else, slot k is x and every other slot is empty (R61). -/
theorem slotOf_shiftLeft (x : SlotBits) {j k : Nat} (hj : j < 7) :
    slotOf ((x.setWidth 384) <<< (48 * k + 48)) j = if j = k then x else 0 := by
  ext n hn
  simp only [slotOf, BitVec.getElem_extractLsb', BitVec.getLsbD_shiftLeft, BitVec.getLsbD_setWidth]
  rcases Nat.lt_trichotomy j k with h | rfl | h
  · have below : 48 * j + 48 + n < 48 * k + 48 := by omega
    simp [below, h.ne]
  · have inside : 48 * j + 48 + n < 384 := by omega
    have low : n < 384 := by omega
    simp [inside, low, BitVec.getLsbD_eq_getElem hn]
  · have above : 48 ≤ 48 * j + 48 + n - (48 * k + 48) := by omega
    simp [BitVec.getLsbD_of_ge x _ above, h.ne']

/-- Slots that all decode: none fails. -/
theorem firstFail_map_ok (f : Nat → Instr) (l : List Nat) : firstFail (l.map fun j => (j, .ok (f j))) = none := by
  induction l with
  | nil => rfl
  | cons j l ih => exact ih

/-- Slots that all decode: the operations are theirs. -/
theorem okSlots_map_ok (f : Nat → Instr) (l : List Nat) :
    okSlots (l.map fun j => (j, .ok (f j))) = l.map fun j => (j, f j) := by
  induction l with
  | nil => rfl
  | cons j l ih => exact congrArg ((j, f j) :: ·) ih

/-- The slots of the bundle of one operation hold it and, otherwise, no-ops. -/
theorem decodeSlots_encodeBundle {i : Instr} {b : BundleBits} {k : Nat} {x : SlotBits} (h : encode i = some (k, x))
    (hw : i.wf = true) (hb : encodeBundle i = some b) :
    decodeSlots b = (List.range 7).map fun j => (j, .ok (if j = k then i else .nop)) := by
  simp only [encodeBundle, h, Option.map_some, Option.some.injEq] at hb
  subst hb
  refine List.map_congr_left fun j hj => ?_
  have hj : j < 7 := List.mem_range.1 hj
  rw [slotOf_shiftLeft x hj]
  by_cases hk : j = k
  · subst hk; simp [decodeSlot_encode i j x h hw]
  · rw [if_neg hk, if_neg hk, decodeSlot_zero hj]

/-- The bundle of one well-formed operation stands for that operation. -/
theorem bundleInstr_encodeBundle {i : Instr} {b : BundleBits} {k : Nat} {x : SlotBits} (h : encode i = some (k, x))
    (hw : i.wf = true) (hb : encodeBundle i = some b) : bundleInstr b = some i := by
  have hk : k < 7 := slot_lt_of_encode h hw
  have hd := decodeSlots_encodeBundle h hw hb
  have hf : firstFail (decodeSlots b) = none := hd ▸ firstFail_map_ok _ _
  have ho : okSlots (decodeSlots b) = (List.range 7).map fun j => (j, if j = k then i else .nop) := hd ▸ okSlots_map_ok _ _
  by_cases hn : i = .nop
  · subst hn
    simp only [bundleInstr, hf, ho, ite_self]
    rfl
  · refine bundleInstr_of_one (k := k) hf ?_
    rw [ho]
    interval_cases k <;> simp [List.range, List.range.loop, hn]

/-- Settles O55: in its slot an operation decodes by its own law, and in a bundle the other slots are empty. -/
theorem decodeOfEncode : Obligations.DecodeOfEncode := by
  unfold Obligations.DecodeOfEncode
  intro i k x h hw
  exact ⟨decodeSlot_encode i k x h hw, fun b hb => bundleInstr_encodeBundle h hw hb⟩

end Sys2Proof
end

section
/-! The plain moves (R65, R66, R68): what a move that its guard lets act writes, and the elements that a vector move copies. -/

namespace Sys2Proof.Machine

/-! The bits of a wide value given by its elements (R175). -/

/-- Bit j of a number given by its elements of width w lies in element j / w. -/
theorem testBit_ofElems {w : Nat} (hw : 0 < w) (l : List Nat) (j : Nat) :
    (ofElems w l).testBit j = (l.getD (j / w) 0).testBit (j % w) := by
  induction l generalizing j with
  | nil => simp [ofElems]
  | cons e r ih =>
    rw [ofElems, Nat.add_comm, Nat.testBit_two_pow_mul_add _ (Nat.mod_lt _ (Nat.two_pow_pos w))]
    by_cases h : j < w
    · simp [h, Nat.testBit_mod_two_pow, Nat.div_eq_of_lt h, Nat.mod_eq_of_lt h]
    · have hj : w ≤ j := Nat.le_of_not_lt h
      rw [if_neg h, ih, Nat.div_eq_sub_div hw hj, ← Nat.mod_eq_sub_mod hj]
      rfl

/-- Bit j of a wide value given by its elements. -/
theorem getLsbD_lanesOf {w : Nat} (hw : 0 < w) (l : List Nat) {j : Nat} (hj : j < 1024) :
    (lanesOf w l).getLsbD j = (l.getD (j / w) 0).testBit (j % w) := by
  rw [lanesOf, BitVec.getLsbD_ofNat, testBit_ofElems hw, decide_eq_true hj, Bool.true_and]

/-- A splat's value repeats the word in all sixteen lanes. -/
theorem lanesOf_splat (x : Word) : lanesOf 64 ((List.range 16).map fun _ => x.toNat) =
    BitVec.ofFnLE fun i : Fin 1024 => x.getLsbD (i.val % 64) := by
  ext j hj
  have hl : j / 64 < 16 := by omega
  rw [← BitVec.getLsbD_eq_getElem, getLsbD_lanesOf (by decide) _ hj]
  rw [List.getD_eq_getElem _ _ (by simpa using hl), List.getElem_map]
  simp [BitVec.getLsbD]

/-- The elements of a format divide a wide value evenly (R174). -/
theorem fmtWidth_dvd (fmt : Nat) : fmtWidth fmt ∣ 1024 := by
  unfold fmtWidth
  split_ifs <;> decide

/-- A whole write writes something. -/
theorem fullMask_ne_zero : fullMask ≠ 0 := by decide +kernel

/-- An element has at least 8 bits (R174). -/
theorem le_fmtWidth (fmt : Nat) : 8 ≤ fmtWidth fmt := by
  unfold fmtWidth
  split_ifs <;> decide

/-- The bits a vector guard lets a move write: those of the elements whose guard bit is 1 (R68). -/
theorem elemMask_eq {w : Nat} (hw : w ∣ 1024) (g : VPred) :
    elemMask w g = BitVec.ofFnLE fun i : Fin 1024 => g.getLsbD (i.val / w) := by
  have hp : 0 < w := Nat.pos_of_dvd_of_pos hw (by decide)
  ext j hj
  have hl : j / w < 1024 / w := Nat.div_lt_div_of_lt_of_dvd hw hj
  rw [← BitVec.getLsbD_eq_getElem, elemMask, getLsbD_lanesOf hp _ hj]
  by_cases hg : g.getLsbD (j / w)
  · simp [hl, hg, Nat.testBit_two_pow_sub_one, Nat.mod_lt j hp]
  · simp [hl, hg]

/-- A guard without ones lets nothing be written. -/
theorem elemMask_zero {w : Nat} (hw : w ∣ 1024) : elemMask w 0 = 0 := by
  rw [elemMask_eq hw]
  ext j hj
  simp

/-- A guard of ones lets everything be written. -/
theorem elemMask_allOnes {w : Nat} (hw : w ∣ 1024) (h : 8 ≤ w) : elemMask w (BitVec.allOnes 128) = fullMask := by
  rw [elemMask_eq hw]
  ext j hj
  have hl : j / w < 128 := Nat.div_lt_of_lt_mul (by omega)
  rw [fullMask, BitVec.getElem_allOnes, BitVec.getElem_ofFnLE, BitVec.getLsbD_allOnes, decide_eq_true hl]


/-- A slot number names a vector unit's slot as a View's number as it does as a move's field. -/
theorem isVecSlot_toNat (k : BitVec 3) : (k.toNat == 3 || k.toNat == 4) = decide (k = 3 ∨ k = 4) := by
  revert k; decide

/-- The wide destinations lie above the scalar registers (R63). -/
theorem le_of_dstKind_wide {p : BitVec 9} (h : dstKind p = some .wide) : 64 ≤ p.toNat := by
  by_contra hp
  have hs : dstKind p = some .scalar := if_pos (Nat.lt_of_not_le hp)
  cases hs.symm.trans h

section
variable {s : State} {i : Instr} {op : Nat} {m : OpMove}

/-- A well-formed plain move joins kinds that R65 and R66 let it join. -/
theorem moveKinds_of_check (hv : i.view = some (.ofMove op m)) (hc : i.check = none) {d : DstKind}
    (hd : dstKind m.dst = some d) : ∃ k, srcKind m.src = some k ∧ moveKinds op k d = true := by
  simp only [Instr.check, hv, slotCheck] at hc
  split_ifs at hc with _ _ _ _ _ hf
  simp only [Bool.not_eq_true', Bool.not_eq_false, Bool.and_eq_true, formOk, View.ofMove, hd] at hf
  obtain ⟨⟨-, hk⟩, -⟩ := hf
  cases hs : srcKind m.src with
  | none => rw [hs] at hk; cases hk
  | some k => rw [hs] at hk; exact ⟨k, rfl, hk⟩

/-- A well-formed plain move whose guard may be read opens, where rrb may be read or the destination is wide (R61, R92). -/
theorem opens_move (hv : i.view = some (.ofMove op m)) (hc : i.check = none)
    (hg : s.guardReady (decide (m.slot = 3 ∨ m.slot = 4)) m.g = .ok ())
    (hr : s.intact (.sp 7) = .ok () ∨ dstKind m.dst = some .wide) : s.opens i = .ok () := by
  refine opens_ok hc (fun v e => ?_) (hr.imp_right fun hw v e => ?_)
  · cases hv.symm.trans e
    exact (isVecSlot_toNat m.slot).symm ▸ hg
  · cases hv.symm.trans e
    simp [renamed, View.ofMove, Nat.not_lt.2 (le_of_dstKind_wide hw)]

/-- A .hi move goes to a scalar or to a vector predicate (R65). -/
theorem moveKinds_hi {k : Kind} {d : DstKind} (h : moveKinds 2 k d = true) : d = .scalar ∨ d = .vpred := by
  unfold moveKinds at h
  split at h
  all_goals simp_all

/-- A move that its guard lets act opens (R61, R92). -/
theorem opens_of_moveActs (hv : i.view = some (.ofMove op m)) (hc : i.check = none) (ha : Spec.moveActs s m) :
    s.opens i = .ok () := by
  unfold Spec.moveActs at ha
  split at ha
  · obtain ⟨hg, -, hr⟩ := ha
    exact opens_move hv hc (by rwa [decide_eq_true ‹_›]) (.inl hr)
  · obtain ⟨hg, -, hr⟩ := ha
    exact opens_move hv hc (by rwa [decide_eq_false ‹_›]) (.inl hr)

/-- Outside slots 3 and 4 the guard of a move that acts stands for a vector guard of ones (R61). -/
theorem moveGuard_scalar (ha : Spec.moveActs s m) (hk : ¬(m.slot = 3 ∨ m.slot = 4)) :
    s.moveGuard m = some (BitVec.allOnes 128) := by
  rw [Spec.moveActs, if_neg hk] at ha
  obtain ⟨-, hg, -⟩ := ha
  rw [State.moveGuard, if_neg hk, if_pos hg]

/-- A move that its guard lets act as a whole has a guard with bit 0 set (R68). -/
theorem moveGuard_of_moveActs (ha : Spec.moveActs s m) : ∃ g, s.moveGuard m = some g ∧ g.getLsbD 0 = true := by
  by_cases hk : m.slot = 3 ∨ m.slot = 4
  · refine ⟨s.vguard m.g, by rw [State.moveGuard, if_pos hk], ?_⟩
    rw [Spec.moveActs, if_pos hk] at ha
    exact ha.2.1
  · exact ⟨_, moveGuard_scalar ha hk, rfl⟩

variable {w : DstKind → Reg → Src → RegWrite} {byElem : Bool} {g : VPred} {d : DstKind} {x : Src}

/-- A move that acts as a whole writes its destination at commit. -/
theorem moveOp_whole (ho : s.opens i = .ok ()) (hm : s.moveGuard m = some g) (hg : g.getLsbD 0 = true)
    (hd : dstKind m.dst = some d) (hx : s.readT m.src = .ok x)
    (he : ¬(byElem = true ∧ srcKind m.src = some .vector ∧ d = .wide)) :
    s.moveOp i m w byElem = .ok (s.move m.slot.toNat (w d (s.dstReg m.dst) x)) := by
  have he : (byElem && srcKind m.src == some .vector && d == .wide) = false := by simpa [and_assoc] using he
  simp only [State.moveOp, ho, hm, hd, he, hg, hx, if_true, Bool.false_eq_true, if_false]
  rfl

/-- A vector move acts by elements: it writes those that its guard sets, or nothing (R68). -/
theorem moveOp_elements (ho : s.opens i = .ok ()) (hm : s.moveGuard m = some g) (hd : dstKind m.dst = some .wide)
    (hs : srcKind m.src = some .vector) (hx : s.readT m.src = .ok x) :
    s.moveOp i m w true = .ok (if elemMask (fmtWidth x.val.fmt.toNat) g = 0 then s
      else s.move m.slot.toNat { w .wide (s.dstReg m.dst) x with mask := elemMask (fmtWidth x.val.fmt.toNat) g }) := by
  simp only [State.moveOp, ho, hm, hd, hs, hx, beq_self_eq_true, Bool.and_self, if_true]
  by_cases hg : g = 0
  · subst hg
    rw [if_pos (elemMask_zero (fmtWidth_dvd _)), if_pos rfl]
    rfl
  · rw [if_neg hg]
    by_cases hz : elemMask (fmtWidth x.val.fmt.toNat) g = 0
    · rw [if_pos hz]
      simp only [bind, Except.bind, hz, if_true]
      rfl
    · rw [if_neg hz]
      simp only [bind, Except.bind, hz, if_false]
      rfl

end

/-- The bit that a reading as a predicate writes (R66). -/
theorem setWidth_ofBool_bool (x : Src) : (BitVec.ofBool x.bool).setWidth 1024 = if x.word = 0 then 0 else 1 := by
  by_cases h : x.word = 0
  · have hb : x.bool = false := by simp only [Src.bool, h, bne_self_eq_false]
    rw [hb, if_pos h]; decide +kernel
  · have hb : x.bool = true := bne_iff_ne.2 h
    rw [hb, if_neg h]; decide +kernel

/-- The 128 bits a source reads as, by its kind (R66). -/
theorem Src.vec_eq (x : Src) : x.vec =
    if x.kind = .pred then (if x.word = 0 then 0 else BitVec.allOnes 128) else x.val.data.setWidth 128 := by
  unfold Src.vec
  split
  case h_1 hk =>
    rw [if_pos hk]
    by_cases h : x.word = 0
    · rw [Src.bool, h, if_pos rfl]; rfl
    · rw [Src.bool, if_neg h, if_pos (bne_iff_ne.2 h)]
  case h_2 hk => rw [if_neg hk]

/-- The wide value a source reads as, by its kind (R66). -/
theorem Src.wide_eq (x : Src) : x.wide = if x.kind = .vector then x.val else { data := x.val.data } := by
  unfold Src.wide
  split
  case h_1 hk => rw [if_pos hk]
  case h_2 hk => rw [if_neg hk]

/-- A whole move's value is the one R66 gives. -/
theorem moveWrite_eq_moved (d : DstKind) (r : Reg) (x : Src) : moveWrite d r x = Spec.moved d r x := by
  cases d with
  | wide => rw [moveWrite, Src.wide_eq, apply_ite (wrW r ·)]; rfl
  | pred => rw [moveWrite, setWidth_ofBool_bool]; rfl
  | vpred => rw [moveWrite, Src.vec_eq]; rfl
  | scalar | handle | trigger u => rfl

/-- A source read through its checks is what its port reads. -/
theorem readPort_of_readT {s : State} {p : BitVec 9} {x : Src} (h : s.readT p = .ok x) : s.readPort p = some x := by
  unfold State.readT State.readSrc at h
  split at h
  · cases h
  · rename_i y hy
    simp only [bind, Except.bind, pure, Except.pure] at h
    repeat' split at h
    all_goals cases h
    all_goals exact hy

/-- A vector port reads a vector (R62). -/
theorem kind_of_readPort {s : State} {p : BitVec 9} {x : Src} (hs : srcKind p = some .vector) (h : s.readPort p = some x) :
    x.kind = .vector := by
  unfold State.readPort at h
  simp only [hs] at h
  split_ifs at h
  all_goals cases h; rfl

/-- A .hi move into a vector predicate writes its bits 127:64 alone (R65). -/
theorem hiMask_eq : BitVec.ofNat 1024 (maskBits 64 64) = (BitVec.allOnes 64).setWidth 1024 <<< 64 := by
  decide +kernel

/-- What a plain move of any kind that acts writes, as R65, R66 and R68 give it. -/
theorem plainMoveWritesConvertedValue : Spec.PlainMoveWritesConvertedValue := by
  intro m s x d hd hx ha
  obtain ⟨g, hm, hg⟩ := moveGuard_of_moveActs ha
  refine ⟨fun hc hne => ?move, fun hc => ?splat, fun hc => ?hi⟩
  case move =>
    have ho : s.opens (.move m) = .ok () := opens_of_moveActs rfl hc ha
    refine settle_ok ?_
    by_cases he : srcKind m.src = some .vector ∧ d = .wide
    · obtain ⟨hs, rfl⟩ := he
      have hk : ¬(m.slot = 3 ∨ m.slot = 4) := fun hk => hne ⟨hk, hs, rfl⟩
      have hf := elemMask_allOnes (fmtWidth_dvd x.val.fmt.toNat) (le_fmtWidth _)
      rw [opMove, moveOp_elements ho (moveGuard_scalar ha hk) hd hs hx, hf, if_neg fullMask_ne_zero, moveWrite_eq_moved,
        Spec.moved, if_pos (kind_of_readPort hs (readPort_of_readT hx))]
      rfl
    · rw [opMove, moveOp_whole ho hm hg hd hx fun h => he h.2, moveWrite_eq_moved]
  case splat =>
    have ho : s.opens (.moveSplat m) = .ok () := opens_of_moveActs rfl hc ha
    refine settle_ok ?_
    rw [opMoveSplat, moveOp_whole ho hm hg hd hx fun h => Bool.false_ne_true h.1, splatWrite, lanesOf_splat]
  case hi =>
    have ho : s.opens (.moveHi m) = .ok () := opens_of_moveActs rfl hc ha
    refine settle_ok ?_
    rw [opMoveHi, moveOp_whole ho hm hg hd hx fun h => Bool.false_ne_true h.1]
    obtain ⟨k, -, hk⟩ := moveKinds_of_check rfl hc hd
    by_cases hs : d = .scalar
    · rw [if_pos hs, hs]; rfl
    · rw [if_neg hs, (moveKinds_hi hk).resolve_left hs, ← hiMask_eq]; rfl

/-- The elements a vector move copies (R68). -/
theorem vectorMoveCopiesGuardedElements : Spec.VectorMoveCopiesGuardedElements := by
  intro m s x hd hs hc hk hg hx w mask
  have ho : s.opens (.move m) = .ok () := opens_move rfl hc (by rwa [decide_eq_true hk]) (.inr hd)
  have hm : s.moveGuard m = some (s.vguard m.g) := if_pos hk
  refine settle_ok ?_
  rw [opMove, moveOp_elements ho hm hd hs hx, elemMask_eq (fmtWidth_dvd _), moveWrite_eq_moved, Spec.moved,
    if_pos (kind_of_readPort hs (readPort_of_readT hx))]
  rfl

/-- Settles O8: a plain move acts as a whole, or, of a vector in slots 3 and 4, by elements. -/
theorem movesWrite : Obligations.MovesWrite := ⟨plainMoveWritesConvertedValue, vectorMoveCopiesGuardedElements⟩

end Sys2Proof.Machine
end

section
/-! Every step goes on: an operation of a bundle is settled, an event answers a next state in each of its cases, and a step does
one of these or the machine's own work (R83). -/

namespace Sys2Proof.Machine

/-- A slot operation goes on: it commits, traps or blocks. -/
theorem exec_slotOp_next {i : Instr} (h : i.view.isSome = true) (s : State) : ∃ t, exec i s = .next t := by
  rw [exec_eq_settle_opOf i s h]
  exact settle_next s _

/-- Every operation and every event goes on: the events of the first group in each of their cases, those of the second without a
case split, and a slot operation settled. -/
theorem exec_next (i : Instr) (s : State) : ∃ t, exec i s = .next t := by
  cases i with
  | contextUnblock core ctx | loadLanding core ctx token | walkComplete core walk | trapDelivery core ctx
  | promiseLanding core ctx token | promiseMissed core q | qfenceCommand core q | collCommand core q members
  | segmentReplay core q served | collTimeout core q | closeRequest p | requestTimeout tag | fabslotWrite slot v
  | migration die n | migrationHoldTimeout die | itemArrival m | spaceReport m | arrived m | moved m | redirected m
  | drained m | ringHostRequest m | journalAppend m | appendAcknowledgement m | pushRowAdded core push
  | operandsConsumed core push | pushComplete core push | mloadComplete core slot | sequencerState core
  | shootdownComplete die | onchipSweepComplete slot | sweepVisit die cell | passEnd | launchPacket wq obj places
  | dispatchBind core row | pendingBind core | preRequest core row | replyToSaved core row r | chal | cert | importKey
  | networkPacketArrival p | ceilingApply | movedAcknowledgement m | ringHostAnswer m | ringHostTimeout jidx | jrecRequest m
  | jrecReply m | releaseMessage m | releaseNotice m | belayNote m | ringCopy m =>
    dsimp only [exec, execContextUnblock, execLoadLanding, execWalkComplete, execTrapDelivery, execPromiseLanding,
      execPromiseMissed, execQfenceCommand, execCollCommand, execSegmentReplay, execCollTimeout, execCloseRequest,
      execRequestTimeout, execFabslotWrite, execMigration, execMigrationHoldTimeout, execItemArrival, execSpaceReport,
      execArrived, execMoved, execRedirected, execDrained, execRingHostRequest, execJournalAppend, execAppendAcknowledgement,
      execPushRowAdded, execOperandsConsumed, execPushComplete, execMloadComplete, execSequencerState, execShootdownComplete,
      execOnchipSweepComplete, execSweepVisit, execPassEnd, execLaunchPacket, execDispatchBind, execPendingBind,
      execPreRequest, execReplyToSaved, execChal, execCert, execImportKey, execNetworkPacketArrival, execCeilingApply,
      execMovedAcknowledgement, execRingHostAnswer, execRingHostTimeout, execJrecRequest, execJrecReply, execReleaseMessage,
      execReleaseNotice, execBelayNote, execRingCopy]
    repeat' split
    all_goals exact ⟨_, rfl⟩
  | bundleIssue core | resultLanding core ctx | replayReissue core ctx | pitchRelease core ctx | dirtyFifoDrain core
  | gatherRowArrival core ctx | entryAdmit core q | cpyCommand core q n | csrCommand core q n | pfrCommand core q n
  | zfillCommand core q n | evictCommand core q n | eqcfgWrite core q v | queueDisableComplete core q | rldRequest p
  | rldvRequest p | rstRequest p | rstvRequest p | ropRequest p | rldReply p | rldvReply p | ropReply p
  | writeAcknowledgement p | summaryReply p | tallyExpiry smod sctx batch | itemSend sid | itemAcceptance m
  | moduleDownNotice f | orphanHoldoffExpiry sid | macroEntryStart core cim | shootdown die v | genAdvance slot v
  | coreslotChange core v | blockReassign die v | swctlWrite v | woCreate v | woSeal v | woAdd v | woCancel v | woFree v
  | go core row v | preemptSave core ctx | resume core ctx v | redirect core ctx v | kill core ctx v | csave core v
  | crest core v | parityRetry b | laneSwap b | retireRequest die v | errorLogClear die off v | latecntWrite v
  | authcntWrite v | wldcfgWrite slot world v | kgen mbox world v | kimp mbox world v | kdrop mbox world v
  | certw mbox world v | sleepCommand mbox world v | wake images kept | hostAccess a | managementFrame f | resetBoot b
  | powerStepPins level | powerStepDatagram d | powerFail | powerReturn b | selfRefreshExpiry | registerWrite blk off v
  | generalPurposeCoreAccess a | spaceReportSend sid | closeNotice m =>
    exact ⟨_, rfl⟩
  | _ => exact exec_slotOp_next rfl s

/-- Settles O57: a step does the agenda's head or the machine's own work, and either goes on. -/
theorem everyStepGoesOn : Obligations.EveryStepGoesOn := by
  intro s
  unfold step State.proceed
  split
  · rename_i i r _
    split
    · obtain ⟨t, ht⟩ := exec_next i { s.takeUpsets with agenda := r }
      rw [ht]
      exact ⟨_, rfl⟩
    · exact ⟨_, rfl⟩
  · exact ⟨_, rfl⟩

end Sys2Proof.Machine
end

section
/-! Words written out from the encoding tables (R60 to R82). -/

namespace Sys2Proof

/-- Settles O54: each word is closed, so the decoder computes it. -/
theorem decodingSanity : Obligations.DecodingSanity := by
  unfold Obligations.DecodingSanity
  refine ⟨?_, ?_, ?_, ?_, ?_, ?_, ?_, ?_, ?_⟩
  all_goals decide

end Sys2Proof
end

section
/-! What reads of memory look at, and operations that leave it alone: whoever reads it, memory reads as before (R1, R131, R135). -/

namespace Sys2Proof.Machine

/-- What a read of DRAM looks at: its bytes, the dies' tables and the bursts, and of the hub the slots, worlds and keys (R309 to
R312, R421 to R423). -/
def State.homeView (s : State) : State :=
  { dies := s.dies, mem := s.mem, burst := s.burst,
    hub :=
      { slots := s.hub.slots, wldcfg := s.hub.wldcfg, caddyBlocks := s.hub.caddyBlocks, keys := s.hub.keys, caddy := s.hub.caddy } }

/-- What a core stores of memory: its L1 and its scratchpad, under its slot (R131, R135). -/
def Core.stored (k : Core) : Core :=
  { l1 := k.l1, spad := k.spad, spadStamp := k.spadStamp, spadPoison := k.spadPoison, slot := k.slot }

/-- What a read through core k looks at. -/
def State.coreView (s : State) (k : Nat) : State := { s.homeView with cores := [(k, (s.core k).stored)] }

/-- Nothing that a read of memory looks at has changed. -/
def State.storesAs (s t : State) : Prop := t.homeView = s.homeView ∧ ∀ k, (t.core k).stored = (s.core k).stored

theorem State.homeRead_homeView (s : State) (a : Acc) (pa : Nat) : s.homeView.homeRead a pa = s.homeRead a pa := rfl

@[simp] theorem State.coreView_core (s : State) (k : Nat) : (s.coreView k).core k = (s.core k).stored := by
  simp [State.coreView, State.core, Tab.get]

theorem State.l1Byte_coreView (s : State) (k pa : Nat) : (s.coreView k).l1Byte k pa = s.l1Byte k pa := by
  simp only [State.l1Byte, coreView_core]
  rfl

theorem State.spadByte_coreView (s : State) (k off : Nat) : (s.coreView k).spadByte k off = s.spadByte k off := by
  simp only [State.spadByte, State.spadStale, State.coreGen, State.coreSlot, coreView_core]
  rfl

/-- Where nothing has changed that a read looks at, every byte reads as before. -/
theorem State.storesAs.sameMemory {s t : State} (h : s.storesAs t) : Spec.sameMemory s t := by
  obtain ⟨hh, hc⟩ := h
  have hv (k : Nat) : t.coreView k = s.coreView k := by simp only [State.coreView, hh, hc]
  refine ⟨fun a pa => ?_, fun k pa => ?_, fun k off => ?_⟩
  · rw [← homeRead_homeView, hh, homeRead_homeView]
  · rw [← l1Byte_coreView, hv, l1Byte_coreView]
  · rw [← spadByte_coreView, hv, spadByte_coreView]

section
variable {s t u : State}

theorem State.storesAs.refl (s : State) : s.storesAs s := ⟨rfl, fun _ => rfl⟩
theorem State.storesAs.trans (h : s.storesAs t) (h' : t.storesAs u) : s.storesAs u :=
  ⟨h'.1.trans h.1, fun k => (h'.2 k).trans (h.2 k)⟩

/-- A change of the state that touches neither the cores nor what a read of DRAM looks at. -/
theorem State.storesAs_of_cores (hv : t.homeView = s.homeView) (hc : t.cores = s.cores) : s.storesAs t :=
  ⟨hv, fun k => congrArg (fun c => (Tab.get {} c k).stored) hc⟩

theorem State.storesAs_setCtx (s : State) (i : Nat) (c : Ctx) : s.storesAs (s.setCtx i c) := storesAs_of_cores rfl rfl
theorem State.storesAs_modCtx (s : State) (i : Nat) (f : Ctx → Ctx) : s.storesAs (s.modCtx i f) := storesAs_of_cores rfl rfl

/-- A change of a core that keeps what it stores. -/
theorem State.storesAs_modCore (s : State) (i : Nat) {f : Core → Core} (hf : ∀ k, (f k).stored = k.stored) :
    s.storesAs (s.modCore i f) := by
  refine ⟨rfl, fun k => ?_⟩
  rw [modCore_core]
  split
  · rw [hf, ‹k = i›]
  · rfl

theorem State.storesAs_foldl {α : Type} {f : State → α → State} (hf : ∀ (s : State) (x : α), s.storesAs (f s x)) (l : List α)
    (s : State) : s.storesAs (l.foldl f s) := by
  induction l generalizing s with
  | nil => exact .refl s
  | cons x r ih => exact (hf s x).trans (ih _)

end

/-! A rollback and the taking of a trap change no byte of memory (R394). -/

theorem State.storesAs_returnWaits (s : State) (core : Nat) (log : Tab Nat) : s.storesAs (s.returnWaits core log) := by
  refine storesAs_foldl (fun s e => ?_) log s
  exact storesAs_modCore s core fun _ => rfl

theorem State.storesAs_returnReplay (s : State) (l : List RelItem) : s.storesAs (s.returnReplay l) := by
  refine storesAs_foldl (fun s x => ?_) _ s
  split
  · exact storesAs_of_cores rfl rfl
  · exact .refl s

theorem State.storesAs_rollback (s : State) (ci : Nat) : s.storesAs (s.rollback ci) := by
  unfold State.rollback
  dsimp only
  refine .trans ?_ (storesAs_setCtx _ ci _)
  refine .trans ?_ (storesAs_modCore _ _ fun _ => rfl)
  refine .trans ?_ (storesAs_foldl (fun s k => by exact storesAs_modCore s k fun _ => rfl) _ _)
  refine .trans ?_ (storesAs_of_cores rfl rfl)
  refine .trans ?_ (storesAs_returnReplay _ _)
  exact (s.storesAs_returnWaits _ _).trans (storesAs_of_cores rfl rfl)

theorem State.storesAs_switchFrom (s : State) (core start : Nat) : s.storesAs (s.switchFrom core start) := by
  unfold State.switchFrom
  split
  · exact (storesAs_modCtx s _ _).trans (storesAs_modCore _ core fun _ => rfl)
  · split
    · exact .refl s
    · split
      · exact .refl s
      · exact storesAs_modCore s core fun _ => rfl

theorem State.storesAs_leaveCore (s : State) (ci start : Nat) : s.storesAs (s.leaveCore ci start) := by
  unfold State.leaveCore
  dsimp only
  split
  · refine .trans ?_ (storesAs_switchFrom _ _ _)
    exact storesAs_modCore s (ci / 4) fun _ => rfl
  · exact .refl s

theorem State.storesAs_takeTrap (s : State) (nr : Bool) (x : TrapInfo) : s.storesAs (s.takeTrap nr x) :=
  ((s.storesAs_rollback s.cid).trans (storesAs_modCtx _ _ _)).trans (storesAs_leaveCore _ _ _)

end Sys2Proof.Machine
end

section
/-! The taking of a trap (R389 to R395): the context that takes it, and its record's way into the trap queue. -/

namespace Sys2Proof.Machine

/-- A rolled-back context is as its shadow holds it, its pitch's own work gone; its release path stays (R393, R394). -/
theorem State.rollback_ctx (s : State) (ci : Nat) :
    let c := s.ctx ci
    let d := (s.rollback ci).ctx ci
    d.bank = c.shadow.bank ∧ d.next = c.shadow.next ∧ d.rel = [] ∧ d.sigs = [] ∧ d.log = [] ∧ d.flight = [] ∧ d.path = c.path := by
  simp [State.rollback]

/-- The context a trap is delivered to stops with tcause and taddr written and its record held (R390, R392). -/
theorem State.deliverTrap_ctx (s : State) (ci : Nat) (t : TrapInfo) (async nr rb : Bool) (taddr raddr : Nat) (loops : List Word) :
    (s.deliverTrap ci t async nr rb taddr raddr loops).ctx ci =
      { s.ctx ci with
        st := .stopped
        record := some (s.trapRecord ci (s.ctx ci).trapUnit t async nr rb taddr raddr loops)
        queued := false
        nr := nr
        bank := ((s.ctx ci).bank.store (wr64 (.sp 16) (t.tcause async))).store
          (wr64 (.sp 17) (BitVec.ofNat 64 (taddr % 65536))) } := by
  simp [State.deliverTrap]

/-- The context chosen for a core is ready (R144). -/
theorem State.bestReady_ready {s : State} {core i : Nat} (h : s.bestReady core = some i) : (s.ctx (4 * core + i)).st = .ready := by
  refine List.foldlRecOn (motive := fun best => ∀ j, best = some j → (s.ctx (4 * core + j)).st = .ready) _ _
    (by simp) (fun best hb i _ => ?_) i h
  dsimp only
  split
  · exact hb
  · next hc =>
    have hi : (s.ctx (4 * core + i)).st = .ready := by
      by_contra h
      exact hc (.inl h)
    split
    · rintro _ ⟨⟩
      exact hi
    · split
      · rintro _ ⟨⟩
        exact hi
      · exact hb

/-- A core hands itself to a ready context, so one that is not ready stays as it is. -/
theorem State.switchFrom_ctx {s : State} {core start j : Nat} (h : (s.ctx j).st ≠ .ready) :
    (s.switchFrom core start).ctx j = s.ctx j := by
  unfold State.switchFrom
  split
  · rename_i i hi
    have hj : j ≠ 4 * core + i := fun e => h (e ▸ bestReady_ready hi)
    simp [hj]
  · repeat' split
    all_goals rfl

theorem State.leaveCore_ctx {s : State} {ci start j : Nat} (h : (s.ctx j).st ≠ .ready) :
    (s.leaveCore ci start).ctx j = s.ctx j := by
  unfold State.leaveCore
  dsimp only
  split
  · exact switchFrom_ctx h
  · rfl

end Sys2Proof.Machine
end

section
/-! The obligation on traps (R67, R83, R389 to R395). -/

namespace Sys2Proof.Machine

/-- A write of a special register leaves the registers of the other files alone. -/
theorem Bank.getS_store_sp (b : Bank) (i : Nat) (v : Word) (j : Nat) : (b.store (wr64 (.sp i) v)).getS j = b.getS j := rfl
theorem Bank.getV_store_sp (b : Bank) (i : Nat) (v : Word) (j : Nat) : (b.store (wr64 (.sp i) v)).getV j = b.getV j := rfl
theorem Bank.getP_store_sp (b : Bank) (i : Nat) (v : Word) (j : Nat) : (b.store (wr64 (.sp i) v)).getP j = b.getP j := rfl

/-- Each of the nine loop registers, in record order (R391). -/
theorem Bank.loops_getD (b : Bank) (i : Nat) (h : i < 9) : b.loops.getD i 0 = b.getSp i := by
  simp [Bank.loops, h]

/-- The context that takes a trap, as the rollback and the delivery leave it (R389 to R394). -/
theorem State.takeTrap_ctx (s : State) (nr : Bool) (x : TrapInfo) :
    (s.takeTrap nr x).ctx s.cid =
      (((s.rollback s.cid).deliverTrap s.cid x false (nr && s.me.destroyed) true (x.addr.getD s.cur.addr)
        s.me.shadow.next.pc s.me.shadow.bank.loops).ctx s.cid) := by
  obtain ⟨hb, hn, -⟩ := s.rollback_ctx s.cid
  unfold State.takeTrap
  dsimp only
  rw [hb, hn]
  exact leaveCore_ctx (by rw [deliverTrap_ctx]; nofun)

/-- The special registers of a context that takes a trap: tcause, taddr, and the others as they were (R390). -/
theorem Bank.getSp_trapped (b : Bank) (cause addr : Word) (j : Nat) :
    ((b.store (wr64 (.sp 16) cause)).store (wr64 (.sp 17) addr)).getSp j =
      if j = 17 then addr else if j = 16 then cause else b.getSp j := by
  rw [Bank.getSp_store (w := wr64 (.sp 17) addr) rfl rfl, Bank.getSp_store (w := wr64 (.sp 16) cause) rfl rfl]
  simp only [wr64_setWidth, Nat.reduceEqDiff, if_false]

/-- A record's words after those of the trap itself are the loop registers (R391). -/
theorem State.trapRecord_loops (s : State) (ci : Nat) (u : TrapUnit) (t : TrapInfo) (async nr rb : Bool) (taddr raddr i : Nat)
    (l : List Word) : (s.trapRecord ci u t async nr rb taddr raddr l).getD (7 + i) 0 = l.getD i 0 := by
  simp [State.trapRecord, Nat.add_comm 7 i]

theorem State.cancelBlocked_of_stopped {s : State} {ci : Nat} (h : (s.ctx ci).st = .stopped) : s.cancelBlocked ci = s := by
  simp only [State.cancelBlocked, h]

theorem State.failBlocked_of_stopped {s : State} {ci : Nat} (h : (s.ctx ci).st = .stopped) : s.failBlocked ci = s := by
  simp only [State.failBlocked, h]

theorem State.takeTrap_stopped (s : State) (nr : Bool) (x : TrapInfo) : ((s.takeTrap nr x).ctx s.cid).st = .stopped := by
  rw [takeTrap_ctx, deliverTrap_ctx]

/-- A trap at the issue of a bundle is taken, and nothing more comes of the bundle (R83). -/
theorem State.runBundle_trap {s : State} {core i : Nat} {x : TrapInfo} (hx : (s.beginExam core i).examine = .error (.trap x))
    (hk : (s.beginExam core i).cid = 4 * core + i) :
    s.runBundle core i = (s.beginExam core i).takeTrap
      ((s.beginExam core i).me.destroyed && (s.beginExam core i).noReplay (s.beginExam core i).cid) x := by
  unfold State.runBundle
  simp only [hx, State.stop]
  have h := (s.beginExam core i).takeTrap_stopped
    ((s.beginExam core i).me.destroyed && (s.beginExam core i).noReplay (s.beginExam core i).cid) x
  rw [hk] at h ⊢
  rw [cancelBlocked_of_stopped h, failBlocked_of_stopped h]

/-- A held record enters a queue that has room, and the context knows where it stands (R392). -/
theorem execTrapDelivery_queued {s u : State} {core i n : Nat} {r : List Word} (hr : (s.ctx (4 * core + i)).record = some r)
    (hq : (s.ctx (4 * core + i)).queued = false) (hd : (s.ctx (4 * core + i)).dying = false)
    (hp : s.putRecord core r = some (n, u)) (ht : (u.tctl core i).getLsbD 63 = false) :
    execTrapDelivery core i s = .next (u.modCtx (4 * core + i) fun c => { c with queued := true, recIdx := n }) := by
  have ht' : ((u.modCtx (4 * core + i) fun c => { c with queued := true, recIdx := n }).tctl core i).getLsbD 63 = false := ht
  simp only [execTrapDelivery, hr, hq, hd, hp, ht', Bool.false_eq_true, if_false]

/-- An enabled queue with fewer than N records waiting has room (R392). -/
theorem State.putRecord_room {s : State} {core : Nat} (r : List Word) (he : (s.core core).tqcfg.getLsbD 63 = true)
    (hn : (s.hwWord (busAcc 0) (tqBase (s.core core).tqcfg) - s.hwWord (busAcc 0) (tqBase (s.core core).tqcfg + 8)).toNat <
      tqSize (s.core core).tqcfg) :
    ∃ u, s.putRecord core r = some ((s.hwWord (busAcc 0) (tqBase (s.core core).tqcfg)).toNat, u) := by
  have hc : ¬ ((!(s.core core).tqcfg.getLsbD 63) = true ∨ tqSize (s.core core).tqcfg ≤
      (s.hwWord (busAcc 0) (tqBase (s.core core).tqcfg) - s.hwWord (busAcc 0) (tqBase (s.core core).tqcfg + 8)).toNat) := by
    rintro (h | h)
    · rw [he] at h
      exact absurd h (by decide)
    · exact absurd hn (Nat.not_lt.mpr h)
  unfold State.putRecord
  dsimp only
  rw [if_neg hc]
  exact ⟨_, rfl⟩

end Sys2Proof.Machine

namespace Sys2Proof

open Machine

/-- R67, R389 to R394: what the taking of a trap leaves of the context and of memory. -/
theorem takeTrapRollsBackAndRecords (s : State) (nr : Bool) (x : TrapInfo) :
    let c := s.me
    let t := s.takeTrap nr x
    let d := t.ctx s.cid
    d.st = .stopped ∧ d.next = c.shadow.next ∧ d.rel = [] ∧ d.sigs = [] ∧ d.log = [] ∧ d.flight = [] ∧ d.path = c.path ∧
    (∀ i, d.bank.getS i = c.shadow.bank.getS i ∧ d.bank.getV i = c.shadow.bank.getV i ∧ d.bank.getP i = c.shadow.bank.getP i) ∧
    d.bank.getSp 16 = Spec.causeWord x ∧ d.bank.getSp 17 = Spec.n64 (x.addr.getD s.cur.addr % 65536) ∧
    (∀ i, i ≠ 16 → i ≠ 17 → d.bank.getSp i = c.shadow.bank.getSp i) ∧
    (∃ r, d.record = some r ∧ r.length = 16 ∧ r.getD 1 0 = Spec.n64 (x.addr.getD s.cur.addr % 65536 +
      c.shadow.next.pc % 65536 * 65536) ∧ r.getD 2 0 = x.arg ∧ r.getD 3 0 = x.info ∧
      ∀ i < 9, r.getD (7 + i) 0 = c.shadow.bank.getSp i) ∧ d.queued = false ∧ Spec.sameMemory s t := by
  intro c t d
  obtain ⟨hb, hn, hrel, hsigs, hlog, hflight, hpath⟩ := s.rollback_ctx s.cid
  have hd := (s.takeTrap_ctx nr x).trans (State.deliverTrap_ctx _ _ _ _ _ _ _ _ _)
  have hbank := congrArg Ctx.bank hd
  rw [show ((s.rollback s.cid).ctx s.cid).bank = c.shadow.bank from hb] at hbank
  have hsp (i : Nat) := (congrArg (·.getSp i) hbank).trans (Bank.getSp_trapped _ _ _ i)
  refine ⟨congrArg Ctx.st hd, (congrArg Ctx.next hd).trans hn, (congrArg Ctx.rel hd).trans hrel,
    (congrArg Ctx.sigs hd).trans hsigs, (congrArg Ctx.log hd).trans hlog, (congrArg Ctx.flight hd).trans hflight,
    (congrArg Ctx.path hd).trans hpath, fun i => ⟨?_, ?_, ?_⟩, ?_, ?_, fun i h16 h17 => ?_,
    ⟨_, congrArg Ctx.record hd, ?_, rfl, rfl, rfl, fun i hi => ?_⟩, congrArg Ctx.queued hd,
    (s.storesAs_takeTrap nr x).sameMemory⟩
  · exact congrArg (·.getS i) hbank
  · exact congrArg (·.getV i) hbank
  · exact congrArg (·.getP i) hbank
  · exact (hsp 16).trans (by simp [TrapInfo.tcause, Spec.causeWord, Spec.n64])
  · exact (hsp 17).trans (by simp [Spec.n64])
  · exact (hsp i).trans (by simp [h16, h17])
  · simp [State.trapRecord, Bank.loops]
  · rw [State.trapRecord_loops]
    exact Bank.loops_getD _ i hi

/-- Settles O37: the rollback, the delivery and the handing over of the core, in that order; none of them touches what a read
of memory looks at. -/
theorem trapEntrySavesAndRollsBack : Obligations.TrapEntrySavesAndRollsBack := by
  unfold Obligations.TrapEntrySavesAndRollsBack
  refine ⟨takeTrapRollsBackAndRecords, ?_, ?_, ?_⟩
  · intro s core i x hi hm s0 hx hk
    rw [show exec (.bundleIssue core) s = execBundleIssue core s from rfl]
    simp only [execBundleIssue, hi, hm, if_true]
    exact congrArg _ (State.runBundle_trap hx hk)
  · intro s core i r n u _ hr hq hd hp ht
    exact execTrapDelivery_queued hr hq hd hp ht
  · intro s core r cfg w he hn
    exact State.putRecord_room r he hn

end Sys2Proof
end

section
/-! What the memory system changes: the dies, the cores' caches and DRAM, and neither a context nor the time (R131, R135, R139). -/

namespace Sys2Proof.Machine

/-- All of a state but the dies. -/
def State.offDies (s : State) : State := { s with dies := [] }

/-- All of a state but the cores, the dies and DRAM: contexts, hub, time and the bundle in issue. -/
def State.offMemory (s : State) : State := { s with cores := [], dies := [], mem := {} }

theorem State.offMemory_of_offDies {s t : State} (h : t.offDies = s.offDies) : t.offMemory = s.offMemory := by
  rw [show t.offMemory = t.offDies.offMemory from rfl, h]
  rfl

/-- What each step of a fold keeps, the fold keeps. -/
theorem foldl_keeps {σ α β : Type} {v : σ → β} {f : σ → α → σ} (hf : ∀ s x, v (f s x) = v s) (l : List α) (s : σ) :
    v (l.foldl f s) = v s := by
  induction l generalizing s with
  | nil => rfl
  | cons x r ih => exact (ih _).trans (hf s x)

/-! Reads that meet their home slices: only the dies know of them. -/

@[simp] theorem State.l2Fill_offDies (s : State) (pa : Nat) (slot : Option (BitVec 4)) :
    (s.l2Fill pa slot).offDies = s.offDies := by
  unfold State.l2Fill
  dsimp only
  repeat' split
  all_goals rfl

@[simp] theorem State.countRead_offDies (s : State) (a : Acc) (pa : Nat) : (s.countRead a pa).offDies = s.offDies := by
  unfold State.countRead
  split <;> rfl

@[simp] theorem State.touchWalk_offDies (s : State) (slot : BitVec 4) (root va : Word) :
    (s.touchWalk slot root va).offDies = s.offDies := by
  unfold State.touchWalk
  split
  · rfl
  · exact foldl_keeps (fun s a => s.l2Fill_offDies a _) _ _

@[simp] theorem State.touchRun_offDies (s : State) (a : Acc) (pa n : Nat) : (s.touchRun a pa n).offDies = s.offDies :=
  (foldl_keeps (fun s _ => s.countRead_offDies a _) _ _).trans (foldl_keeps (fun s _ => s.l2Fill_offDies _ _) _ _)

@[simp] theorem State.touchPage_offDies (s : State) (slot : BitVec 4) (va : Word) (n : Nat) :
    (s.touchPage slot va n).offDies = s.offDies := by
  unfold State.touchPage
  dsimp only
  split
  · simp
  · simp

@[simp] theorem State.touchVA_offDies (s : State) (slot : BitVec 4) (va : Word) (n : Nat) :
    (s.touchVA slot va n).offDies = s.offDies := by
  unfold State.touchVA
  dsimp only
  split
  · simp
  · simp

@[simp] theorem State.touchFetch_offDies (s : State) (ci : Nat) : (s.touchFetch ci).offDies = s.offDies := by
  unfold State.touchFetch
  dsimp only
  repeat' split
  all_goals simp

/-! Writes at home, and lines that come into a die's RDC and leave it. -/

@[simp] theorem State.l2Fill_offMemory (s : State) (pa : Nat) (slot : Option (BitVec 4)) :
    (s.l2Fill pa slot).offMemory = s.offMemory :=
  offMemory_of_offDies (s.l2Fill_offDies pa slot)

@[simp] theorem State.countRead_offMemory (s : State) (a : Acc) (pa : Nat) : (s.countRead a pa).offMemory = s.offMemory :=
  offMemory_of_offDies (s.countRead_offDies a pa)

@[simp] theorem State.modDie_offMemory (s : State) (d : Nat) (f : Die → Die) : (s.modDie d f).offMemory = s.offMemory := rfl
@[simp] theorem State.modCore_offMemory (s : State) (k : Nat) (f : Core → Core) : (s.modCore k f).offMemory = s.offMemory := rfl
@[simp] theorem State.countRef_offMemory (s : State) (pa : Nat) : (s.countRef pa).offMemory = s.offMemory := rfl

@[simp] theorem State.noteMigr_offMemory (s : State) (pa : Nat) : (s.noteMigr pa).offMemory = s.offMemory := by
  unfold State.noteMigr
  repeat' split
  all_goals rfl

theorem State.homePuts_offMemory (s : State) (k : Nat) (cells : List (Nat × Byte)) :
    (cells.foldl (fun x e => x.homePut k e) s).offMemory = s.offMemory :=
  foldl_keeps (v := State.offMemory) (fun x e => show (x.homePut k e).offMemory = x.offMemory from rfl) cells s

@[simp] theorem State.homeWrite_offMemory (s : State) (a : Acc) (cells : List (Nat × Byte)) :
    (s.homeWrite a cells).offMemory = s.offMemory := by
  unfold State.homeWrite
  split
  · rfl
  · dsimp only
    split
    · rfl
    · split
      · rfl
      · split
        · rfl
        · split
          · rfl
          · split
            · rfl
            · rw [noteMigr_offMemory, homePuts_offMemory]
              repeat' split
              all_goals rfl

@[simp] theorem State.poisonFlag_offMemory (s : State) (sec : Nat) : (s.poisonFlag sec).offMemory = s.offMemory :=
  s.noteMigr_offMemory _

@[simp] theorem State.wbHome_offMemory (s : State) (sec : Nat) (x : Sector) : (s.wbHome sec x).offMemory = s.offMemory := by
  unfold State.wbHome
  dsimp only
  split
  · rfl
  · split
    · simp
    · simp

@[simp] theorem State.wbRdcLine_offMemory (s : State) (c : CLine) : (s.wbRdcLine c).offMemory = s.offMemory :=
  foldl_keeps (fun s e => s.wbHome_offMemory _ e.2) _ _

@[simp] theorem State.rdcLine_offMemory (s : State) (d line : Nat) : (s.rdcLine d line).offMemory = s.offMemory := by
  unfold State.rdcLine
  dsimp only
  split
  · rfl
  · split
    · split
      · rfl
      · simp
    · rfl

@[simp] theorem State.rdcRefill_offMemory (s : State) (d : Nat) (a : Acc) (sec : Nat) :
    (s.rdcRefill d a sec).2.offMemory = s.offMemory := by
  simp [State.rdcRefill]

@[simp] theorem State.rdcSector_offMemory (s : State) (d : Nat) (a : Acc) (sec : Nat) :
    (s.rdcSector d a sec).2.offMemory = s.offMemory := by
  unfold State.rdcSector
  split
  · split
    · simp
    · split
      · rfl
      · simp
  · simp

/-! Sectors that come into an L1, and those that leave it. -/

@[simp] theorem State.fillSource_offMemory (s : State) (core : Nat) (a : Acc) (sec : Nat) :
    (s.fillSource core a sec).2.offMemory = s.offMemory := by
  unfold State.fillSource
  dsimp only
  split
  · simp
  · simp

@[simp] theorem State.wbL1Sector_offMemory (s : State) (core sec : Nat) (x : Sector) :
    (s.wbL1Sector core sec x).offMemory = s.offMemory := by
  unfold State.wbL1Sector
  dsimp only
  split
  · rfl
  · split
    · simp
    · split
      · rfl
      · split
        · simp
        · simp

@[simp] theorem State.wbL1Line_offMemory (s : State) (core line : Nat) : (s.wbL1Line core line).offMemory = s.offMemory := by
  unfold State.wbL1Line
  dsimp only
  split
  · rfl
  · rw [modCore_offMemory]
    exact foldl_keeps (fun x (e : Nat × Sector) => wbL1Sector_offMemory x core _ e.2) _ _

@[simp] theorem State.dropL1Line_offMemory (s : State) (core line : Nat) : (s.dropL1Line core line).offMemory = s.offMemory :=
  s.wbL1Line_offMemory core line

@[simp] theorem State.l1Line_offMemory (s : State) (core line : Nat) (sh : Bool) :
    (s.l1Line core line sh).offMemory = s.offMemory := by
  unfold State.l1Line
  dsimp only
  split
  · rfl
  · rw [modCore_offMemory]
    split
    · split
      · rfl
      · simp
    · rfl

@[simp] theorem State.l1Yield_offMemory (s : State) (core sec : Nat) : (s.l1Yield core sec).offMemory = s.offMemory := by
  unfold State.l1Yield
  split
  · simp
  · rfl

@[simp] theorem State.l1Fill_offMemory (s : State) (core : Nat) (a : Acc) (sh : Bool) (sec : Nat) :
    (s.l1Fill core a sh sec).offMemory = s.offMemory := by
  unfold State.l1Fill
  dsimp only
  split
  · rfl
  · simp

@[simp] theorem State.l1Read_offMemory (s : State) (core : Nat) (a : Acc) (sh : Bool) (pa n : Nat) :
    (s.l1Read core a sh pa n).2.offMemory = s.offMemory :=
  foldl_keeps (fun s sec => s.l1Fill_offMemory core a sh sec) _ _

/-- A load that reads its bytes through the L1 changes no context (R135). -/
theorem State.landParts_offMemory (s : State) (core : Nat) (ld : PendLoad) (l : List LoadPart) :
    (s.landParts core ld l).2.offMemory = s.offMemory := by
  induction l generalizing s with
  | nil => rfl
  | cons p r ih =>
    have hp : (s.landPart core ld p).2.offMemory = s.offMemory := by
      unfold State.landPart
      dsimp only
      split
      · simp
      · rfl
    exact (ih _).trans hp

end Sys2Proof.Machine
end

section
/-! What is read early for a context (R255) changes of the contexts only the pending loads that take bytes. -/

namespace Sys2Proof.Machine

/-- A context without its pending loads. -/
def Ctx.offLoads (c : Ctx) : Ctx := { c with loads := [] }

/-- Every context is the same but for its pending loads. -/
def State.sameButLoads (s t : State) : Prop := ∀ j, (t.ctx j).offLoads = (s.ctx j).offLoads

section
variable {s t u : State}

theorem State.sameButLoads.refl (s : State) : s.sameButLoads s := fun _ => rfl
theorem State.sameButLoads.trans (h : s.sameButLoads t) (h' : t.sameButLoads u) : s.sameButLoads u :=
  fun j => (h' j).trans (h j)
theorem State.sameButLoads.bank (h : s.sameButLoads t) (j : Nat) : (t.ctx j).bank = (s.ctx j).bank := by
  rw [show (t.ctx j).bank = (t.ctx j).offLoads.bank from rfl, h j]
  rfl

/-- The contexts of states that differ in memory alone are the same. -/
theorem State.ctx_of_offMemory (h : t.offMemory = s.offMemory) (j : Nat) : t.ctx j = s.ctx j :=
  congrArg (·.ctx j) h

theorem State.sameButLoads_of_offMemory (h : t.offMemory = s.offMemory) : s.sameButLoads t := fun j => by
  rw [ctx_of_offMemory h]

theorem State.sameButLoads_foldl {α : Type} {f : State → α → State} (hf : ∀ (s : State) (x : α), s.sameButLoads (f s x))
    (l : List α) (s : State) : s.sameButLoads (l.foldl f s) := by
  induction l generalizing s with
  | nil => exact .refl s
  | cons x r ih => exact (hf s x).trans (ih _)

end

theorem State.sameButLoads_readAhead (s : State) (ci seq : Nat) (r : Run) : s.sameButLoads (s.readAhead ci seq r) := fun j => by
  unfold State.readAhead
  rw [modCtx_ctx]
  split
  · rw [‹j = ci›]
    rfl
  · rfl

theorem State.sameButLoads_settleLoads (s : State) (ci seq : Nat) (r : Run) : s.sameButLoads (s.settleLoads ci seq r) := by
  unfold State.settleLoads
  dsimp only
  split
  · exact .refl s
  · refine .trans ?_ (sameButLoads_readAhead _ ci seq r)
    refine sameButLoads_of_offMemory (foldl_keeps (fun x l => ?_) _ _)
    exact foldl_keeps (fun y a => y.l1Fill_offMemory _ _ _ _) _ _

theorem State.sameButLoads_mloadData (s : State) (core : Nat) (m : MOp) : s.sameButLoads (s.mloadData core m).2 := by
  unfold State.mloadData
  refine List.foldlRecOn (motive := fun acc : List (Lanes × BitVec 128) × State => s.sameButLoads acc.2) _ _ (.refl s)
    fun acc h k _ => h.trans ?_
  dsimp only
  split
  · exact .refl _
  · exact (sameButLoads_settleLoads acc.2 m.ctx m.seq (_, _)).trans
      (sameButLoads_of_offMemory (l1Read_offMemory _ core _ _ _ _))

theorem State.sameButLoads_settleMloads (s : State) (ci seq : Nat) (r : Option (List Run)) :
    s.sameButLoads (s.settleMloads ci seq r) := by
  unfold State.settleMloads
  dsimp only
  split_ifs
  · exact .refl s
  · refine sameButLoads_foldl (fun x m => ?_) _ s
    exact (sameButLoads_mloadData x _ m).trans (sameButLoads_of_offMemory (modCore_offMemory _ _ _))

theorem State.sameButLoads_settleReads (s : State) (ci seq : Nat) (r : Run) : s.sameButLoads (s.settleReads ci seq r) :=
  (s.sameButLoads_settleMloads ci seq (some [r])).trans (sameButLoads_settleLoads _ ci seq r)

theorem State.sameButLoads_settleParts (s : State) (ci : Nat) (ld : PendLoad) : s.sameButLoads (s.settleParts ci ld) := by
  unfold State.settleParts
  split
  · exact .refl s
  · refine sameButLoads_foldl (fun x p => ?_) _ s
    exact sameButLoads_settleReads x ci ld.seq (p.pa, p.n)

end Sys2Proof.Machine
end

section
/-! A late result reaches the scalar register that waits for it (R96, R127). -/

namespace Sys2Proof.Machine

@[simp] theorem Bank.store_pend (b : Bank) (w : RegWrite) : (b.store w).pend = b.pend := by
  unfold Bank.store
  repeat' split
  all_goals rfl

/-- The numbers of the other places that take late results are not those of the scalar registers. -/
theorem Reg.key_ne_of_mem_allRegs {r : Reg} {n : Nat} (hr : r ∈ allRegs) (hn : n < 64) (h : r ≠ .s n) : n ≠ r.key := by
  have shape : (∃ i, r = .s i) ∨ (∃ i, r = .v i) ∨ ∃ i, r = .rl i := by
    simp only [allRegs, List.mem_append, List.mem_map] at hr
    rcases hr with (⟨i, -, rfl⟩ | ⟨i, -, rfl⟩) | ⟨i, -, rfl⟩
    · exact .inl ⟨i, rfl⟩
    · exact .inr (.inl ⟨i, rfl⟩)
    · exact .inr (.inr ⟨i, rfl⟩)
  obtain ⟨i, rfl⟩ | ⟨i, rfl⟩ | ⟨i, rfl⟩ := shape
  · exact fun e => h (congrArg Reg.s e.symm)
  · simp only [Reg.key]
    omega
  · simp only [Reg.key]
    omega

theorem Reg.s_mem_allRegs {n : Nat} (hn : n < 64) : Reg.s n ∈ allRegs := by
  simp [allRegs, hn]

/-- What a result writes into a scalar register: the whole. -/
theorem resultWrite_s (v : Wide) (m : Mark) (n : Nat) : resultWrite v m (.s n) = some (wrW (.s n) v m) := by
  simp [resultWrite]

section
variable {b : Bank} {tok n : Nat} {p : Pend} (v : Wide) (m : Mark)

/-- What one place waits for when a result has reached it. -/
theorem Bank.deliver_one_pends {w : Reg → Option RegWrite} {r : Reg} {x : RegWrite} (hx : w r = some x) (q : Reg) :
    (b.deliver tok w [r]).pends q = if (b.pends r).any (fun p => p.tok == tok) = true ∧ q.key = r.key then
      (b.pends r).filter fun p => p.tok != tok else b.pends q := by
  simp only [Bank.deliver, List.foldl_cons, List.foldl_nil, hx]
  by_cases ha : (b.pends r).any (fun p => p.tok == tok) = true
  · simp only [ha, if_true, true_and]
    simp only [Bank.pends, Tab.get_put, Bank.store_pend]
  · simp only [ha, Bool.false_eq_true, if_false, false_and]

/-- What a scalar register holds when a result has reached one place. -/
theorem Bank.deliver_one_getS {w : Reg → Option RegWrite} {r : Reg} {x : RegWrite} (hx : w r = some x) (i : Nat) :
    (b.deliver tok w [r]).getS i = if (b.pends r).any (fun p => p.tok == tok) = true then (b.store x).getS i else b.getS i := by
  simp only [Bank.deliver, List.foldl_cons, List.foldl_nil, hx]
  split
  · rfl
  · rfl

/-- A write to another place leaves a scalar register. -/
theorem Bank.getS_store_other {w : RegWrite} (h : w.reg ≠ .s n) (hm : w.mask = fullMask) : (b.store w).getS n = b.getS n := by
  cases hr : w.reg
  case s i =>
    rw [Bank.getS_store hr hm, if_neg]
    exact fun e => h (hr.trans (congrArg Reg.s e.1.symm))
  all_goals
    simp only [Bank.store, hr]
    repeat' split
    all_goals rfl

/-- A result that reaches another place changes neither the register nor what it waits for. -/
theorem Bank.deliver_other {r : Reg} (hr : r ∈ allRegs) (hn : n < 64) (h : r ≠ .s n) :
    (b.deliver tok (resultWrite v m) [r]).pends (.s n) = b.pends (.s n) ∧
      (b.deliver tok (resultWrite v m) [r]).getS n = b.getS n := by
  have hk : (Reg.s n).key ≠ r.key := Reg.key_ne_of_mem_allRegs hr hn h
  constructor
  · rw [deliver_one_pends (w := resultWrite v m) rfl, if_neg fun e => hk e.2]
  · rw [deliver_one_getS (w := resultWrite v m) rfl]
    split
    · exact getS_store_other h rfl
    · rfl

/-- A register that waits for nothing more keeps its value, whatever places the result reaches. -/
theorem Bank.deliver_settled {rs : List Reg} (hrs : ∀ r ∈ rs, r ∈ allRegs) (hn : n < 64) (h : b.pends (.s n) = []) :
    (b.deliver tok (resultWrite v m) rs).pends (.s n) = [] ∧ (b.deliver tok (resultWrite v m) rs).getS n = b.getS n := by
  induction rs generalizing b with
  | nil => exact ⟨h, rfl⟩
  | cons r rs ih =>
    rw [show b.deliver tok (resultWrite v m) (r :: rs) =
      (b.deliver tok (resultWrite v m) [r]).deliver tok (resultWrite v m) rs from rfl]
    have hone : (b.deliver tok (resultWrite v m) [r]).pends (.s n) = [] ∧
        (b.deliver tok (resultWrite v m) [r]).getS n = b.getS n := by
      by_cases hr : r = .s n
      · rw [hr, show b.deliver tok (resultWrite v m) [.s n] = b by simp [Bank.deliver, h]]
        exact ⟨h, rfl⟩
      · obtain ⟨hp, hg⟩ := deliver_other v m (hrs r (List.mem_cons_self ..)) hn hr (b := b) (tok := tok)
        exact ⟨hp.trans h, hg⟩
    obtain ⟨hp, hg⟩ := ih (fun x hx => hrs x (List.mem_cons_of_mem _ hx)) hone.1
    exact ⟨hp, hg.trans hone.2⟩

/-- The register that waits for the result alone takes it, and waits no more. -/
theorem Bank.deliver_waiting_s (hn0 : 0 < n) (hn : n < 64) (hp : b.pends (.s n) = [p]) (ht : p.tok = tok) {rs : List Reg}
    (hrs : ∀ r ∈ rs, r ∈ allRegs) (hmem : .s n ∈ rs) :
    (b.deliver tok (resultWrite v m) rs).pends (.s n) = [] ∧
      (b.deliver tok (resultWrite v m) rs).getS n = v.data.setWidth 64 := by
  induction rs generalizing b with
  | nil => exact absurd hmem (List.not_mem_nil)
  | cons r rs ih =>
    have hrest : ∀ x ∈ rs, x ∈ allRegs := fun x hx => hrs x (List.mem_cons_of_mem _ hx)
    rw [show b.deliver tok (resultWrite v m) (r :: rs) =
      (b.deliver tok (resultWrite v m) [r]).deliver tok (resultWrite v m) rs from rfl]
    by_cases hr : r = .s n
    · subst hr
      have hany : (b.pends (.s n)).any (fun p => p.tok == tok) = true := by simp [hp, ht]
      have hone : (b.deliver tok (resultWrite v m) [.s n]).pends (.s n) = [] := by
        rw [deliver_one_pends (resultWrite_s v m n), if_pos ⟨hany, rfl⟩, hp]
        simp [ht]
      have hval : (b.deliver tok (resultWrite v m) [.s n]).getS n = v.data.setWidth 64 := by
        rw [deliver_one_getS (resultWrite_s v m n), if_pos hany, Bank.getS_store (w := wrW (.s n) v m) rfl rfl,
          if_pos ⟨rfl, hn0.ne'⟩]
        rfl
      obtain ⟨h1, h2⟩ := deliver_settled v m hrest hn hone
      exact ⟨h1, h2.trans hval⟩
    · obtain ⟨hp', -⟩ := deliver_other v m (hrs r (List.mem_cons_self ..)) hn hr (b := b) (tok := tok)
      refine ih (hp'.trans hp) hrest ?_
      exact (List.mem_cons.mp hmem).resolve_left fun e => hr e.symm

/-- The same, where the result goes to every place that waits for it (R127). -/
theorem Bank.deliver_to_waiting (hn0 : 0 < n) (hn : n < 64) (hp : b.pends (.s n) = [p]) (ht : p.tok = tok) :
    (b.deliver tok (resultWrite v m) (b.waiting tok)).pends (.s n) = [] ∧
      (b.deliver tok (resultWrite v m) (b.waiting tok)).getS n = v.data.setWidth 64 := by
  refine deliver_waiting_s v m hn0 hn hp ht (fun r hr => (List.mem_filter.mp hr).1) ?_
  exact List.mem_filter.mpr ⟨Reg.s_mem_allRegs hn, by simp [hp, ht]⟩

end

end Sys2Proof.Machine
end

section
/-! The events of issue and arrival, one by one (R83, R93, R116, R127, R141, R210, R394). -/

namespace Sys2Proof.Machine

section
variable {s : State} {core i : Nat}

/-! A bundle issues (R83). -/

theorem State.beginExam_offCtxs (s : State) (core i : Nat) :
    (s.beginExam core i).seq = s.seq ∧ (s.beginExam core i).cycle = s.cycle := by
  have h := s.touchFetch_offDies (4 * core + i)
  have hseq := congrArg State.seq h
  have hcycle := congrArg State.cycle h
  exact ⟨hseq, hcycle⟩

/-- What an examined bundle without PITCH leaves at full power: its slots' work, one more bundle counted, and the time of the
next. -/
def State.afterIssue (s : State) (e : Exam) (next : NextAddr) : State :=
  ({ e.st.commit.modMe fun c => c.issued e.bits (Header.ofBits e.bits) next s.seq false with seq := s.seq + 1 } : State).modMyCore
    fun k => { k with nextIssue := s.cycle + 1 }

theorem State.issue_of_noPitch {e : Exam} (hp : (Header.ofBits e.bits).pitch = false) (hl : 9 < s.level) :
    ∃ next : NextAddr, next.pc = e.next.pc ∧ s.issue e = s.afterIssue e next := by
  let computed := e.st.cur.xfer.isSome && (okSlots (decodeSlots e.bits)).any fun x => isComputed x.2
  refine ⟨{ e.next with xfer := e.st.cur.xfer, cairn := (Header.ofBits e.bits).cairn && computed }, rfl, ?_⟩
  unfold State.issue
  dsimp only
  rw [if_neg fun h => absurd h.1 (Nat.not_le.mpr hl), hp]
  rfl

theorem State.afterIssue_ctx (s : State) (e : Exam) (next : NextAddr) : (s.afterIssue e next).ctx e.st.cid =
    (e.st.commit.ctx e.st.cid).issued e.bits (Header.ofBits e.bits) next s.seq false := by
  unfold State.afterIssue
  rw [modMyCore_ctx]
  exact e.st.commit.modMe_me fun c => c.issued e.bits (Header.ofBits e.bits) next s.seq false

/-- Commit, the count of a bundle and the time of the next touch no byte of memory. -/
theorem State.storesAs_afterIssue (s : State) (e : Exam) (next : NextAddr) : e.st.storesAs (s.afterIssue e next) := by
  unfold State.afterIssue
  refine .trans (storesAs_of_cores ?_ ?_) (storesAs_modCore _ _ ?_)
  · rfl
  · rfl
  · exact fun _ => rfl

/-- An issued bundle is counted in special register 14 (R17). -/
theorem Ctx.issued_getSp (c : Ctx) (bits : BundleBits) (h : Header) (next : NextAddr) (seq : Nat) (atCairn : Bool) :
    (c.issued bits h next seq atCairn).bank.getSp 14 = c.bank.getSp 14 + 1 := by
  simp [Ctx.issued, Bank.getSp]

theorem bundleIssue_counts {e : Exam} (hi : (s.core core).issuing = some i) (hm : s.mayExamine core i = true)
    (he : (s.beginExam core i).examine = .ok e) (hp : (Header.ofBits e.bits).pitch = false) (hl : 9 < s.level) :
    ∃ t : State, exec (.bundleIssue core) s = .next t ∧ t.seq = s.seq + 1 ∧
      (t.core e.st.cur.core).nextIssue = s.cycle + 1 ∧ (t.ctx e.st.cid).next.pc = e.next.pc ∧
      (t.ctx e.st.cid).obs = (e.st.commit.ctx e.st.cid).obs + 1 ∧
      (t.ctx e.st.cid).bank.getSp 14 = (e.st.commit.ctx e.st.cid).bank.getSp 14 + 1 ∧ Spec.sameMemory e.st t := by
  obtain ⟨hseq, hcyc⟩ := s.beginExam_offCtxs core i
  obtain ⟨next, hpc, ht⟩ := State.issue_of_noPitch hp ((s.beginExam_level core i).symm ▸ hl)
  refine ⟨_, execBundleIssue_next hi hm he, ?_, ?_, ?_, ?_, ?_, ?_⟩ <;> rw [ht]
  · exact congrArg (· + 1) hseq
  · rw [State.afterIssue, State.modMyCore_core, hcyc]
    exact congrArg Core.nextIssue (if_pos rfl)
  · rw [State.afterIssue_ctx]
    exact hpc
  · rw [State.afterIssue_ctx]
    rfl
  · rw [State.afterIssue_ctx]
    exact Ctx.issued_getSp ..
  · exact (State.storesAs_afterIssue _ e next).sameMemory

/-! A blocked context goes on (R141). -/

theorem execContextUnblock_issuing {b : BlockPoint} (hb : (s.ctx (4 * core + i)).st = .blocked b)
    (hk : s.keptBlocked (4 * core + i) = false) (hs : s.stillBlocked core i b = false) (hi : (s.core core).issuing = some i) :
    execContextUnblock core i s = .next ((s.modCtx (4 * core + i) fun c => { c with st := .issuing }).modCore core fun k =>
      { k with nextIssue := max k.nextIssue (s.cycle + 1) }) := by
  simp only [execContextUnblock, hb, hk, hs, hi, Bool.or_self, Bool.false_eq_true, if_false, if_true]

theorem contextUnblock_goesOn {b : BlockPoint} (hb : (s.ctx (4 * core + i)).st = .blocked b)
    (hk : s.keptBlocked (4 * core + i) = false) (hs : s.stillBlocked core i b = false) (hi : (s.core core).issuing = some i) :
    ∃ t : State, exec (.contextUnblock core i) s = .next t ∧
      t.ctx (4 * core + i) = { s.ctx (4 * core + i) with st := .issuing } ∧
      (t.core core).nextIssue = max (s.core core).nextIssue (s.cycle + 1) := by
  refine ⟨_, execContextUnblock_issuing hb hk hs hi, ?_, ?_⟩
  · rw [State.modCore_ctx, State.modCtx_ctx, if_pos rfl]
  · rw [State.modCore_core, if_pos rfl, State.modCtx_core]

/-! Due results land (R93), and the rows of gathers (R210). -/

theorem resultLanding_lands (s : State) (core i : Nat) :
    ∃ t : State, exec (.resultLanding core i) s = .next t ∧
      t.ctx (4 * core + i) = (s.ctx (4 * core + i)).landDue s.cycle ∧ ∀ j, j ≠ 4 * core + i → t.ctx j = s.ctx j := by
  refine ⟨_, rfl, ?_, fun j hj => ?_⟩
  · rw [State.modCtx_ctx, if_pos rfl]
  · rw [State.modCtx_ctx, if_neg hj]

theorem gatherRowArrival_queues (s : State) (core i : Nat) :
    ∃ t : State, exec (.gatherRowArrival core i) s = .next t ∧ t.ctx (4 * core + i) = { s.ctx (4 * core + i) with
      gq := (s.ctx (4 * core + i)).gq ++ (s.ctx (4 * core + i)).iq.filter (fun r => decide (r.due ≤ s.cycle)),
      iq := (s.ctx (4 * core + i)).iq.filter fun r => decide (s.cycle < r.due) } := by
  refine ⟨_, rfl, ?_⟩
  rw [State.modCtx_ctx, if_pos rfl]
  rfl

/-! Replay records are issued again (R394). -/

theorem replayReissue_restores (hm : s.mayExamine core i = true) (hw : (s.ctx (4 * core + i)).replayWait = true) :
    ∃ t : State, exec (.replayReissue core i) s = .next t ∧ (t.ctx (4 * core + i)).replayWait = false ∧
      (t.ctx (4 * core + i)).flight = (s.ctx (4 * core + i)).replay.foldl
        (fun l r => insertLanding { r with due := s.cycle + r.due - 1 } l) (s.ctx (4 * core + i)).flight := by
  have hc : (s.modCtx (4 * core + i) fun c => c.startReplay s.cycle).ctx (4 * core + i) =
      (s.ctx (4 * core + i)).startReplay s.cycle := by
    rw [State.modCtx_ctx, if_pos rfl]
  refine ⟨s.modCtx (4 * core + i) fun c => c.startReplay s.cycle, ?_, ?_, ?_⟩
  · rw [show exec (.replayReissue core i) s = execReplayReissue core i s from rfl]
    simp only [execReplayReissue, hm, if_true]
  · rw [hc, Ctx.startReplay, if_pos hw]
  · rw [hc, Ctx.startReplay, if_pos hw]

/-! A load's bytes arrive (R127). -/

/-- What a landing load leaves of its context: it is no longer listed, and its value has gone to the places that wait. -/
theorem State.landLoad_ctx (s : State) (ci : Nat) (ld : PendLoad) : ∃ m : Mark, (s.landLoad ci ld).ctx ci =
    ({ s.ctx ci with loads := (s.ctx ci).loads.filter fun x => x.tok != ld.tok } : Ctx).deliver ld.tok
      (ld.form.value ((s.landParts (ci / 4) ld ld.parts).1.map Prod.fst)) m := by
  unfold State.landLoad
  dsimp only
  rw [modCtx_ctx, if_pos rfl, ctx_of_offMemory (s.landParts_offMemory _ ld ld.parts)]
  exact ⟨_, rfl⟩

theorem execLoadLanding_found {ld : PendLoad}
    (hf : (s.ctx (4 * core + i)).loads.find? (fun l => l.tok == ld.tok) = some ld)
    (hh : (s.ctx (4 * core + i)).heldLoad ld = false) : execLoadLanding core i ld.tok s =
      .next (((s.modCtx (4 * core + i) fun c => c.landDue s.cycle).settleParts (4 * core + i) ld).landLoad (4 * core + i) ld) := by
  simp only [execLoadLanding, hf, hh, Bool.false_eq_true, if_false]

theorem loadLanding_reaches (hi : i < 4) {ld : PendLoad} {n : Nat} {p : Pend}
    (hf : (s.ctx (4 * core + i)).loads.find? (fun l => l.tok == ld.tok) = some ld)
    (hh : (s.ctx (4 * core + i)).heldLoad ld = false) (hn0 : 0 < n) (hn : n < 64)
    (hp : ((s.ctx (4 * core + i)).landDue s.cycle).bank.pends (.s n) = [p]) (ht : p.tok = ld.tok) :
    let z := (s.modCtx (4 * core + i) fun c => c.landDue s.cycle).settleParts (4 * core + i) ld
    ∃ t : State, exec (.loadLanding core i ld.tok) s = .next t ∧ (∀ x ∈ (t.ctx (4 * core + i)).loads, x.tok ≠ ld.tok) ∧
      (t.ctx (4 * core + i)).bank.pends (.s n) = [] ∧ (t.ctx (4 * core + i)).bank.getS n =
        (ld.form.value ((z.landParts core ld ld.parts).1.map Prod.fst)).data.setWidth 64 := by
  intro z
  obtain ⟨m, hm⟩ := z.landLoad_ctx (4 * core + i) ld
  have hb : (z.ctx (4 * core + i)).bank = ((s.ctx (4 * core + i)).landDue s.cycle).bank := by
    refine ((State.sameButLoads_settleParts _ _ ld).bank _).trans ?_
    rw [State.modCtx_ctx, if_pos rfl]
  rw [← hb] at hp
  rw [show (4 * core + i) / 4 = core by omega] at hm
  obtain ⟨hpend, hval⟩ := Bank.deliver_to_waiting
    (ld.form.value ((z.landParts core ld ld.parts).1.map Prod.fst)) m hn0 hn hp ht
  refine ⟨_, execLoadLanding_found hf hh, fun x hx => ?_, ?_, ?_⟩
  · rw [hm] at hx
    simpa using (List.mem_filter.mp hx).2
  · rw [hm]
    exact hpend
  · rw [hm]
    exact hval

/-! A walk ends (R116). -/

/-- An entry of a table whose entries have all been changed by a function that keeps the default. -/
theorem Tab.get_map {α : Type} {d : α} {f : α → α} (hf : f d = d) (t : Tab α) (n : Nat) :
    Tab.get d (t.map fun e => (e.1, f e.2)) n = f (Tab.get d t n) := by
  induction t with
  | nil => exact hf.symm
  | cons e r ih =>
    simp only [List.map_cons, Tab.get, ih]
    split
    · rfl
    · rfl

/-- A handle register that carries a token has what the token's walk gives it (R116). -/
theorem Ctx.mapHandle_pending {c : Ctx} {n tok : Nat} {h : Handle} (hst : (Tab.get {} c.bank.h n).st = .pending)
    (htok : (Tab.get {} c.bank.h n).tok = tok) :
    Tab.get {} (c.mapHandle fun x => if x.st = .pending ∧ x.tok = tok then h else x).bank.h n = h := by
  have hnull : (if ({} : Handle).st = .pending ∧ ({} : Handle).tok = tok then h else {}) = {} := if_neg fun e => nomatch e.1
  exact (Tab.get_map (f := fun x => if x.st = .pending ∧ x.tok = tok then h else x) hnull c.bank.h n).trans
    (if_pos ⟨hst, htok⟩)

/-- A walk for a register that ends with a leaf goes from its core, and every register that waits for it takes the handle. -/
theorem State.walkGood_of_register {w : Walk} (h : Handle) (hi : w.item = none) (ha : w.again = false) :
    s.walkGood core w h = (s.modCore core fun k => { k with walks := k.walks.filter fun x => x.id != w.id }).modCtx w.ctx
      fun c => c.mapHandle fun x => if x.st = .pending ∧ x.tok = w.tok then h else x := by
  simp only [State.walkGood, hi, ha, Option.isSome_none, Bool.false_eq_true, if_false]

/-- A walk that finds a leaf: its reads have met their home slices, and the leaf may be kept. -/
theorem State.walkEnd_leaf {w : Walk} {l : Leaf} (hin : inAperture w.va = false) (hl : s.walkBy w.slot w.root w.va = .ok l) :
    ∃ z : State, z.ctxs = s.ctxs ∧ s.walkEnd core w = z.walkGood core w (leafHandle w.slot w.gen w.va l) := by
  have hctxs : (s.touchWalk w.slot w.root w.va).ctxs = s.ctxs := by
    have h := congrArg State.ctxs (s.touchWalk_offDies w.slot w.root w.va)
    exact h
  unfold State.walkEnd
  simp only [hin, hl, Bool.false_eq_true, if_false]
  refine ⟨_, ?_, rfl⟩
  split
  · exact hctxs
  · exact hctxs

theorem walkComplete_replaces {w : Walk} {l : Leaf} {n : Nat}
    (hf : (s.core core).walks.find? (fun x => x.id == w.id && x.failed.isNone) = some w) (ha : w.again = false)
    (hi : w.item = none) (hin : inAperture w.va = false) (hl : s.walkBy w.slot w.root w.va = .ok l)
    (hst : (Tab.get {} (s.ctx w.ctx).bank.h n).st = .pending) (htok : (Tab.get {} (s.ctx w.ctx).bank.h n).tok = w.tok) :
    ∃ t : State, exec (.walkComplete core w.id) s = .next t ∧ (∀ x ∈ (t.core core).walks, x.id ≠ w.id) ∧
      Tab.get {} (t.ctx w.ctx).bank.h n = leafHandle w.slot w.gen w.va l := by
  obtain ⟨z, hz, hend⟩ := State.walkEnd_leaf (core := core) hin hl
  rw [State.walkGood_of_register _ hi ha] at hend
  have hctx : z.ctx w.ctx = s.ctx w.ctx := congrArg (Tab.get ({} : Ctx) · w.ctx) hz
  refine ⟨s.walkEnd core w, ?_, fun x hx => ?_, ?_⟩
  · rw [show exec (.walkComplete core w.id) s = execWalkComplete core w.id s from rfl]
    simp only [execWalkComplete, hf]
  · rw [hend, State.modCtx_core, State.modCore_core, if_pos rfl] at hx
    simpa using (List.mem_filter.mp hx).2
  · rw [hend, State.modCtx_ctx, if_pos rfl, State.modCore_ctx, hctx]
    exact Ctx.mapHandle_pending hst htok

end

end Sys2Proof.Machine

namespace Sys2Proof

open Machine

/-- Settles O35: each event by the rule of its own above. -/
theorem issueAndArrivalEvents : Obligations.IssueAndArrivalEvents := by
  unfold Obligations.IssueAndArrivalEvents
  intro s core i hi k c
  refine ⟨?_, ?_, resultLanding_lands s core i, ?_, ?_, ?_, gatherRowArrival_queues s core i⟩
  · intro e his hm he h hp hl
    exact bundleIssue_counts his hm he hp hl
  · intro b hb hk hs his
    exact contextUnblock_goesOn hb hk hs his
  · intro hm hw
    exact replayReissue_restores hm hw
  · intro ld n p hf hh hn0 hn hp ht
    exact loadLanding_reaches hi hf hh hn0 hn hp ht
  · intro w l n hf ha hit hin hl hst htok
    exact walkComplete_replaces hf ha hit hin hl hst htok

end Sys2Proof
end

section
/-! Landings become visible in their cycle, and of two writes of one register the later-issued remains (R93 to R95). -/

namespace Sys2Proof.Machine

/-- A whole write of a scalar register other than s0 is read back. -/
theorem Bank.getS_write_same (b : Bank) {i : Nat} (hi : i ≠ 0) (x : Word) : (b.write (wr64 (.s i) x)).getS i = x :=
  ((registerWriteIsReadBack b x false i i).1).trans (if_pos ⟨rfl, hi⟩)

/-- Two landings of one cycle stand in the order of their issue, whichever enters the pipelines first (R95). -/
theorem insertLanding_bySeq {x y : Landing} (hd : x.due = y.due) (hs : x.seq < y.seq) :
    insertLanding y (insertLanding x []) = [x, y] ∧ insertLanding x (insertLanding y []) = [x, y] := by
  have hxy : landBefore x y = true := by simp [landBefore, hd, hs]
  have hyx : landBefore y x = false := by simp [landBefore, hd, hs.le, hs.ne']
  exact ⟨by simp only [insertLanding, hxy, if_true], by simp only [insertLanding, hyx, Bool.false_eq_true, if_false]⟩

/-- Landings of one cycle take effect together, in their order. -/
theorem Ctx.landDue_all {c : Ctx} {l : List Landing} {k : Nat} (hf : c.flight = l) (h : ∀ x ∈ l, x.due ≤ k) :
    (c.landDue k).bank = l.foldl (fun b x => x.writes.foldl Bank.write b) c.bank ∧ (c.landDue k).flight = [] := by
  subst hf
  refine ⟨?_, List.filter_eq_nil_iff.2 fun x hx => by simpa using h x hx⟩
  rw [Ctx.landDue, List.filter_eq_self.2 fun x hx => decide_eq_true (h x hx)]

/-- Landings of later cycles are not seen (R93). -/
theorem Ctx.landDue_none {c : Ctx} {l : List Landing} {k : Nat} (hf : c.flight = l) (h : ∀ x ∈ l, k < x.due) :
    (c.landDue k).bank = c.bank ∧ (c.landDue k).flight = l := by
  subst hf
  refine ⟨?_, List.filter_eq_self.2 fun x hx => decide_eq_true (h x hx)⟩
  rw [Ctx.landDue, List.filter_eq_nil_iff.2 fun x hx => by simpa using h x hx]
  rfl

/-- A whole write hides an earlier write of its register whole (R95). -/
theorem RegWrite.hide_whole (r : Reg) (x y : Word) : (wr64 r x).hide (wr64 r y) = none := by
  have hm : fullMask &&& ~~~fullMask = 0 := BitVec.and_not_self ..
  simp [RegWrite.hide, wr64, hm]

/-- A landing is seen from its cycle on and no earlier. -/
theorem landingIsSeenFromItsCycle : Spec.LandingIsSeenFromItsCycle := by
  intro c l k hf
  exact ⟨fun h => Ctx.landDue_none hf (List.forall_mem_singleton.2 h),
    fun h => Ctx.landDue_all hf (List.forall_mem_singleton.2 h)⟩

/-- Of two writes of a register for one cycle the later-issued remains: a landing's by its place in the order, a move's by
hiding the earlier landing's. -/
theorem laterIssuedWriteRemains : Spec.LaterIssuedWriteRemains := by
  intro c i x y due a b sa sb ua ub hi hab hf la lb
  obtain ⟨hab', hba'⟩ := insertLanding_bySeq (x := la) (y := lb) rfl hab
  have both : (({ c with flight := [la, lb] } : Ctx).landDue due).bank.getS i = y := by
    obtain ⟨hb, -⟩ := Ctx.landDue_all (c := { c with flight := [la, lb] }) (k := due) rfl (by simp [la, lb])
    rw [hb]
    exact Bank.getS_write_same _ hi y
  refine ⟨hab' ▸ both, hba' ▸ both, ?_⟩
  have hidden : (({ c with flight := [la] } : Ctx).commitWrite (due - 1) b (wr64 (.s i) y)).flight = [{ la with writes := [] }] := by
    have hdue : due ≤ due - 1 + 1 := by omega
    simp [Ctx.commitWrite, la, hdue, hab, RegWrite.hide_whole]
  obtain ⟨hb, -⟩ := Ctx.landDue_all (k := due) hidden (by simp [la])
  rw [hb]
  exact Bank.getS_write_same _ hi y

/-- Settles O7: a landing's cycle, and the order of two writes. -/
theorem landingOrder : Obligations.LandingOrder := ⟨landingIsSeenFromItsCycle, laterIssuedWriteRemains⟩

end Sys2Proof.Machine
end

section
/-! The results of the scalar units as the numbers and bits of R99, R102 and R103. -/

namespace Sys2Proof.Machine

open Spec (n64 z64 bits64)

section
variable (t o l : Word)

/-! Words as numbers, as integers and as bits. -/

theorem n64_toNat : n64 t.toNat = t := (BitVec.ofNat_toNat 64 t).trans (BitVec.setWidth_eq t)
theorem z64_toInt : z64 t.toInt = t := BitVec.ofInt_toInt
theorem z64_natCast (n : Nat) : z64 n = n64 n := BitVec.ofInt_natCast 64 n
theorem getElem_bits64 (f : Nat → Bool) {i : Nat} (h : i < 64) : (bits64 f)[i] = f i := BitVec.getElem_ofFnLE _ i h

/-- A word is its bits. -/
theorem eq_bits64 {x : Word} {f : Nat → Bool} (h : ∀ (i : Nat) (hi : i < 64), x[i] = f i) : x = bits64 f :=
  BitVec.eq_of_getElem_eq fun i hi => (h i hi).trans (getElem_bits64 f hi).symm

/-! Bitwise operations (R99). -/

theorem and_eq_bits64 : t &&& o = bits64 fun i => t.getLsbD i && o.getLsbD i :=
  eq_bits64 fun i hi => by simp [BitVec.getLsbD_eq_getElem, hi]
theorem or_eq_bits64 : t ||| o = bits64 fun i => t.getLsbD i || o.getLsbD i :=
  eq_bits64 fun i hi => by simp [BitVec.getLsbD_eq_getElem, hi]
theorem xor_eq_bits64 : t ^^^ o = bits64 fun i => t.getLsbD i != o.getLsbD i :=
  eq_bits64 fun i hi => by simp [BitVec.getLsbD_eq_getElem, hi]
theorem andn_eq_bits64 : t &&& ~~~o = bits64 fun i => t.getLsbD i && !o.getLsbD i :=
  eq_bits64 fun i hi => by simp [BitVec.getLsbD_eq_getElem, hi]
theorem orn_eq_bits64 : t ||| ~~~o = bits64 fun i => t.getLsbD i || !o.getLsbD i :=
  eq_bits64 fun i hi => by simp [BitVec.getLsbD_eq_getElem, hi]

/-! Sums and shifts (R99). -/

theorem sh6_eq : sh6 o = o.toNat % 64 := BitVec.toNat_setWidth ..

theorem add_eq_n64 : t + o = n64 (t.toNat + o.toNat) := by
  rw [← n64_toNat (t + o), BitVec.toNat_add]
  exact BitVec.eq_of_toNat_eq (by simp [n64])

theorem sub_eq_z64 : t - o = z64 (t.toNat - o.toNat) := by
  refine BitVec.eq_of_toInt_eq ?_
  rw [BitVec.toInt_sub, z64, BitVec.toInt_ofInt, BitVec.toInt_eq_toNat_bmod, BitVec.toInt_eq_toNat_bmod, Int.bmod_sub_bmod,
    Int.sub_bmod_bmod]

theorem shl_eq_n64 : t <<< sh6 o = n64 (t.toNat * 2 ^ (o.toNat % 64)) := by
  refine BitVec.eq_of_toNat_eq ?_
  rw [sh6_eq, BitVec.toNat_shiftLeft, Nat.shiftLeft_eq, n64, BitVec.toNat_ofNat]

theorem shr_eq_n64 : t >>> sh6 o = n64 (t.toNat / 2 ^ (o.toNat % 64)) := by
  rw [← n64_toNat (t >>> sh6 o), sh6_eq, BitVec.toNat_ushiftRight, Nat.shiftRight_eq_div_pow]

theorem sra_eq_z64 : t.sshiftRight (sh6 o) = z64 (t.toInt / 2 ^ (o.toNat % 64)) := by
  rw [← z64_toInt (t.sshiftRight _), sh6_eq, BitVec.toInt_sshiftRight, Int.shiftRight_eq_div_pow, Nat.cast_pow, Nat.cast_ofNat]

theorem ror_eq_bits64 : t.rotateRight (sh6 o) = bits64 fun i => t.getLsbD ((i + o.toNat % 64) % 64) := by
  refine eq_bits64 fun i hi => ?_
  rw [BitVec.getElem_rotateRight, sh6_eq]
  split <;> exact (BitVec.getLsbD_eq_getElem _).symm.trans (congrArg t.getLsbD (by omega))

theorem addsh_eq_n64 : t + o <<< sh6 l = n64 (t.toNat + o.toNat * 2 ^ (l.toNat % 64)) := by
  rw [shl_eq_n64, add_eq_n64]
  exact BitVec.eq_of_toNat_eq (by simp [n64])

/-! The lesser and the greater (R99). -/

theorem slt_iff : t.slt o = true ↔ t.toInt < o.toInt := BitVec.slt_iff_toInt_lt
theorem ult_iff : t.ult o = true ↔ t.toNat < o.toNat := BitVec.ult_iff_lt.trans BitVec.lt_def

theorem min_eq_z64 : (if t.slt o then t else o) = z64 (min t.toInt o.toInt) := by
  split
  · rw [min_eq_left ((slt_iff t o).1 ‹_›).le, z64_toInt]
  · rw [min_eq_right (not_lt.1 (mt (slt_iff t o).2 ‹_›)), z64_toInt]

theorem max_eq_z64 : (if t.slt o then o else t) = z64 (max t.toInt o.toInt) := by
  split
  · rw [max_eq_right ((slt_iff t o).1 ‹_›).le, z64_toInt]
  · rw [max_eq_left (not_lt.1 (mt (slt_iff t o).2 ‹_›)), z64_toInt]

theorem min_eq_n64 : (if t.ult o then t else o) = n64 (min t.toNat o.toNat) := by
  split
  · rw [min_eq_left ((ult_iff t o).1 ‹_›).le, n64_toNat]
  · rw [min_eq_right (not_lt.1 (mt (ult_iff t o).2 ‹_›)), n64_toNat]

theorem max_eq_n64 : (if t.ult o then o else t) = n64 (max t.toNat o.toNat) := by
  split
  · rw [max_eq_right ((ult_iff t o).1 ‹_›).le, n64_toNat]
  · rw [max_eq_left (not_lt.1 (mt (ult_iff t o).2 ‹_›)), n64_toNat]

/-! Extensions of the low w bits (R99). -/

theorem sext_eq_z64 (w : Nat) : (t.setWidth w).signExtend 64 = z64 (Int.bmod t.toNat (2 ^ w)) := by
  rw [BitVec.signExtend, BitVec.toInt_setWidth, z64]

theorem zext_eq_n64 (w : Nat) : (t.setWidth w).setWidth 64 = n64 (t.toNat % 2 ^ w) := by
  rw [← BitVec.toNat_setWidth, n64, BitVec.ofNat_toNat]

/-! Counts of bits (R99). -/

theorem clzFrom_eq_findIdx (n : Nat) : clzFrom t n = (List.range n).findIdx fun i => t.getLsbD (n - 1 - i) := by
  induction n with
  | zero => rfl
  | succ n ih =>
    have next : (fun i => t.getLsbD (n + 1 - 1 - i)) ∘ Nat.succ = fun i => t.getLsbD (n - 1 - i) := by
      funext i
      exact congrArg t.getLsbD (by omega)
    rw [clzFrom, ih, List.range_succ_eq_map, List.findIdx_cons, List.findIdx_map, next]
    cases h : t.getLsbD n
    · simp [h]
    · simp [h]

theorem ctzFrom_eq_findIdx (i n : Nat) : ctzFrom t i n = (List.range n).findIdx fun k => t.getLsbD (i + k) := by
  induction n generalizing i with
  | zero => rfl
  | succ n ih =>
    have next : (fun k => t.getLsbD (i + k)) ∘ Nat.succ = fun k => t.getLsbD (i + 1 + k) := by
      funext k
      exact congrArg t.getLsbD (by omega)
    rw [ctzFrom, ih, List.range_succ_eq_map, List.findIdx_cons, List.findIdx_map, next]
    cases t.getLsbD i
    · simp
    · simp

theorem clz64_eq_findIdx : clz64 t = (List.range 64).findIdx fun i => t.getLsbD (63 - i) := clzFrom_eq_findIdx t 64

theorem ctz64_eq_findIdx : ctz64 t = (List.range 64).findIdx fun i => t.getLsbD i :=
  (ctzFrom_eq_findIdx t 0 64).trans (by simp only [Nat.zero_add])

theorem popCount_eq_countP (n : Nat) : popCount t.toNat n = (List.range n).countP fun i => t.getLsbD i := by
  induction n with
  | zero => rfl
  | succ n ih => rw [popCount, ih, List.range_succ, List.countP_append, List.countP_singleton]; rfl

/-! Fields (R99). -/

theorem fieldPos_eq : fieldPos o = o.toNat % 64 := by simp [fieldPos, BitVec.extractLsb'_toNat]

theorem fieldLen_eq : fieldLen o = o.toNat / 64 % 64 + 1 := by
  simp [fieldLen, BitVec.extractLsb'_toNat, Nat.shiftRight_eq_div_pow]

theorem fieldLen_le : fieldLen o ≤ 64 := by rw [fieldLen_eq]; omega

theorem maskLen_toNat {n : Nat} (h : n ≤ 64) : (maskLen n).toNat = 2 ^ n - 1 := by
  have hle : 2 ^ n ≤ 2 ^ 64 := Nat.pow_le_pow_right (by decide) h
  have hpos : 0 < 2 ^ n := Nat.two_pow_pos n
  rw [maskLen, BitVec.toNat_ofNat, Nat.mod_eq_of_lt (by omega)]

theorem getLsbD_maskLen {n i : Nat} (h : n ≤ 64) : (maskLen n).getLsbD i = decide (i < n) := by
  rw [BitVec.getLsbD, maskLen_toNat h, Nat.testBit_two_pow_sub_one]

theorem bfx_eq_n64 : bfxOf t o = n64 (t.toNat / 2 ^ (o.toNat % 64) % 2 ^ (o.toNat / 64 % 64 + 1)) := by
  rw [← n64_toNat (bfxOf t o), bfxOf, BitVec.toNat_and, maskLen_toNat (fieldLen_le o), Nat.and_two_pow_sub_one_eq_mod,
    BitVec.toNat_ushiftRight, Nat.shiftRight_eq_div_pow, fieldPos_eq, fieldLen_eq]

/-- The mask that bfi moves to its field covers that field (R99). -/
theorem getLsbD_fieldMask {i : Nat} (hi : i < 64) : (maskLen (fieldLen l) <<< fieldPos l).getLsbD i =
    decide (fieldPos l ≤ i ∧ i < fieldPos l + fieldLen l) := by
  rw [BitVec.getLsbD_shiftLeft, getLsbD_maskLen (fieldLen_le l), Bool.eq_iff_iff]
  simp only [Bool.and_eq_true, Bool.not_eq_true', decide_eq_true_eq, decide_eq_false_iff_not]
  omega

theorem bfi_eq_bits64 : bfiOf t o l = bits64 fun i =>
    if l.toNat % 64 ≤ i ∧ i < l.toNat % 64 + (l.toNat / 64 % 64 + 1) then o.getLsbD (i - l.toNat % 64) else t.getLsbD i := by
  refine eq_bits64 fun i hi => ?_
  rw [← fieldPos_eq, ← fieldLen_eq, ← BitVec.getLsbD_eq_getElem]
  simp only [bfiOf, BitVec.getLsbD_or, BitVec.getLsbD_and, BitVec.getLsbD_not, getLsbD_fieldMask l hi, BitVec.getLsbD_shiftLeft]
  by_cases h : fieldPos l ≤ i ∧ i < fieldPos l + fieldLen l
  · simp [h, hi, Nat.not_lt.2 h.1]
  · simp [h, hi]

/-! Products and quotients (R102, R103). -/

theorem loHalf_ofInt (p : Int) : loHalf (BitVec.ofInt 128 p) = z64 p := by
  refine BitVec.eq_of_toNat_eq ?_
  simp only [loHalf, z64, BitVec.extractLsb'_toNat, BitVec.toNat_ofInt, Nat.shiftRight_zero]
  omega

theorem hiHalf_ofInt (p : Int) : hiHalf (BitVec.ofInt 128 p) = z64 (p / 2 ^ 64) := by
  refine BitVec.eq_of_toNat_eq ?_
  simp only [hiHalf, z64, BitVec.extractLsb'_toNat, BitVec.toNat_ofInt, Nat.shiftRight_eq_div_pow]
  omega

theorem prodU_eq_ofInt : prodU t o = BitVec.ofInt 128 ((t.toNat * o.toNat : Nat) : Int) := (BitVec.ofInt_natCast 128 _).symm

theorem loHalf_prodU : loHalf (prodU t o) = n64 (t.toNat * o.toNat) := by
  rw [prodU_eq_ofInt, loHalf_ofInt, z64_natCast]

theorem hiHalf_prodU : hiHalf (prodU t o) = n64 (t.toNat * o.toNat / 2 ^ 64) := by
  rw [prodU_eq_ofInt, hiHalf_ofInt, ← z64_natCast]
  rfl

theorem allOnes_eq_z64 : BitVec.allOnes 64 = z64 (-1) := rfl

/-- The signed quotient and remainder (R103): of the one overflow they are the dividend and 0 as well. -/
theorem divide_signed : divide true t o =
    (if o = 0 then z64 (-1) else z64 (t.toInt.tdiv o.toInt), if o = 0 then t else z64 (t.toInt.tmod o.toInt)) := by
  by_cases h : o = 0
  · simp only [divide, h, if_true, allOnes_eq_z64]
  · simp only [divide, h, if_false, if_true]
    split
    · obtain ⟨rfl, rfl⟩ := ‹_ ∧ _›
      rfl
    · rfl

/-- The unsigned quotient and remainder (R103). -/
theorem divide_unsigned : divide false t o =
    (if o = 0 then z64 (-1) else n64 (t.toNat / o.toNat), if o = 0 then t else n64 (t.toNat % o.toNat)) := by
  by_cases h : o = 0
  · simp only [divide, h, if_true, allOnes_eq_z64]
  · simp only [divide, h, if_false, Bool.false_eq_true]
    rfl

end

end Sys2Proof.Machine
end

section
/-! The operations of ia, ib, mul and pr complete and put their results in flight (R99 to R106). -/

namespace Sys2Proof.Machine

section
variable {s : State} {i : Instr} {v : View}

/-- A legal slot operation outside slots 3 and 4 whose guard is true and unpoisoned opens. -/
theorem State.opens_of_on (hc : i.check = none) (hv : i.view = some v) (hk : (v.slot == 3 || v.slot == 4) = false)
    (hon : Spec.on s v.g) : s.opens i = .ok () := by
  obtain ⟨hg, -, hr⟩ := hon
  refine opens_ok hc (fun w e => ?_) (.inl hr)
  obtain rfl : v = w := Option.some.inj (hv.symm.trans e)
  rw [hk]
  exact hg

/-- A slot operation that succeeds is executed to its commit. -/
theorem exec_of_opOf {t : State} (hv : i.view = some v) (h : opOf i s = .ok t) : exec i s = .next t.commit := by
  rw [exec_eq_settle_opOf i s (by rw [hv]; rfl), settle_ok h]

end

theorem aluSlot_not_vector (u : AluUnit) : (u.slot == 3 || u.slot == 4) = false := by cases u <;> rfl

/-! What a unit writes: its latch and the renamed W (R92, R93). -/

theorem State.wbWrite_eq (s : State) (w : BitVec 6) (r : Word) :
    ((s.wbS w).toList.map fun x => wr64 x r) = Spec.wbWrite s w r := by
  unfold State.wbS Spec.wbWrite physS
  split <;> rfl

theorem State.scalarWrites_eq (s : State) (latch : Nat) (w : BitVec 6) (r : Word) :
    s.scalarWrites latch w r = Spec.writes s latch w r := congrArg (wr64 (.rl latch) r :: ·) (s.wbWrite_eq w r)

theorem State.mulWrites_eq (s : State) (w : BitVec 6) (r : Word × Word) :
    s.mulWrites w r = Spec.mulWrites s w r.1 r.2 :=
  congrArg (fun l => wr64 (.rl 2) r.1 :: wr64 (.rl 3) r.2 :: l) (s.wbWrite_eq w r.1)

/-- The predicate pair of a compare (R100). -/
theorem predPair_eq (k : BitVec 4) (b : Bool) :
    predPair k.toNat b = if k = 0 then [] else [wrP (2 * k.toNat) b, wrP (2 * k.toNat + 1) (!b)] := by
  have hk : k.toNat = 0 ↔ k = 0 := by rw [← BitVec.toNat_inj]; rfl
  simp only [predPair, hk]

/-- A scalar operation of slots 0 to 2 and 5, 6 whose guard is true and whose operands are readable lands what it computes. -/
theorem lands_of_scalarOp {s : State} {i : Instr} {slot unit lat op : Nat} {f : OpS} {out : ScalarArgs → List RegWrite}
    {a : ScalarArgs} (hk : (slot == 3 || slot == 4) = false) (hv : i.view = some (.ofS slot unit op f)) (hc : i.check = none)
    (hon : Spec.on s f.g) (ha : s.scalarArgs unit i.shape f = .ok a) (hop : opOf i s = s.scalarOp i slot unit lat f out) :
    Spec.lands s i slot unit lat (out a) := by
  have ho : s.opens i = .ok () := State.opens_of_on hc hv hk hon
  obtain ⟨-, hg, -⟩ := hon
  exact exec_of_opOf hv (hop.trans (scalarOp_lands ho hg ha))

/-! The operations of the ALUs (R99). -/

/-- The instructions that mk makes for each ALU are operations of R99 that compute r of T, O and L. -/
def aluComputes (mk : AluUnit → OpS → Instr) (r : Word → Word → Word → Word) : Prop :=
  ∀ (u : AluUnit) (f : OpS), (∃ op, (mk u f).view = some (.ofS u.slot u.unit op f)) ∧
    ∀ s, opOf (mk u f) s = s.aluOp (mk u f) u f r

/-- An operation of R99 with its result: the model computes it by a function with this value. -/
theorem mem_alu_computes {t o l : Word} {e : (AluUnit → OpS → Instr) × Word} (he : e ∈ Spec.alu t o l) :
    ∃ r, aluComputes e.1 r ∧ r t o l = e.2 := by
  revert e
  simp only [Spec.alu, List.forall_mem_cons, List.not_mem_nil, false_implies, implies_true, and_true]
  refine ⟨⟨fun t o _ => t + o, ?_, add_eq_n64 t o⟩,
    ⟨fun t o _ => t - o, ?_, sub_eq_z64 t o⟩,
    ⟨fun t o _ => t &&& o, ?_, and_eq_bits64 t o⟩,
    ⟨fun t o _ => t ||| o, ?_, or_eq_bits64 t o⟩,
    ⟨fun t o _ => t ^^^ o, ?_, xor_eq_bits64 t o⟩,
    ⟨fun t o _ => t &&& ~~~o, ?_, andn_eq_bits64 t o⟩,
    ⟨fun t o _ => t ||| ~~~o, ?_, orn_eq_bits64 t o⟩,
    ⟨fun t o _ => t <<< sh6 o, ?_, shl_eq_n64 t o⟩,
    ⟨fun t o _ => t >>> sh6 o, ?_, shr_eq_n64 t o⟩,
    ⟨fun t o _ => t.sshiftRight (sh6 o), ?_, sra_eq_z64 t o⟩,
    ⟨fun t o _ => t.rotateRight (sh6 o), ?_, ror_eq_bits64 t o⟩,
    ⟨fun t o _ => if t.slt o then t else o, ?_, min_eq_z64 t o⟩,
    ⟨fun t o _ => if t.slt o then o else t, ?_, max_eq_z64 t o⟩,
    ⟨fun t o _ => if t.ult o then t else o, ?_, min_eq_n64 t o⟩,
    ⟨fun t o _ => if t.ult o then o else t, ?_, max_eq_n64 t o⟩,
    ⟨fun t o l => if t ≠ 0 then o else l, ?_, ite_not ..⟩,
    ⟨fun t _ _ => (t.setWidth 8).signExtend 64, ?_, sext_eq_z64 t 8⟩,
    ⟨fun t _ _ => (t.setWidth 16).signExtend 64, ?_, sext_eq_z64 t 16⟩,
    ⟨fun t _ _ => (t.setWidth 32).signExtend 64, ?_, sext_eq_z64 t 32⟩,
    ⟨fun t _ _ => (t.setWidth 8).setWidth 64, ?_, zext_eq_n64 t 8⟩,
    ⟨fun t _ _ => (t.setWidth 16).setWidth 64, ?_, zext_eq_n64 t 16⟩,
    ⟨fun t _ _ => (t.setWidth 32).setWidth 64, ?_, zext_eq_n64 t 32⟩,
    ⟨fun t _ _ => BitVec.ofNat 64 (clz64 t), ?_, congrArg Spec.n64 (clz64_eq_findIdx t)⟩,
    ⟨fun t _ _ => BitVec.ofNat 64 (ctz64 t), ?_, congrArg Spec.n64 (ctz64_eq_findIdx t)⟩,
    ⟨fun t _ _ => BitVec.ofNat 64 (popCount t.toNat 64), ?_, congrArg Spec.n64 (popCount_eq_countP t 64)⟩,
    ⟨fun t o _ => bfxOf t o, ?_, bfx_eq_n64 t o⟩,
    ⟨fun t o l => bfiOf t o l, ?_, bfi_eq_bits64 t o l⟩,
    ⟨fun t o l => t + (o <<< sh6 l), ?_, addsh_eq_n64 t o l⟩⟩
  all_goals exact fun u f => ⟨⟨_, rfl⟩, fun _ => rfl⟩

/-- R99: each value operation lands its result. -/
theorem aluResultLandsAfterOneCycle : Spec.AluResultLandsAfterOneCycle := by
  intro u f s a e he hc hon ha
  obtain ⟨r, hr, hval⟩ := mem_alu_computes he
  obtain ⟨⟨op, hv⟩, hop⟩ := hr u f
  rw [← State.scalarWrites_eq, ← hval]
  exact lands_of_scalarOp (aluSlot_not_vector u) hv hc hon ha (hop s)

/-- A compare of R100 with its condition is the model's compare of some number. -/
theorem mem_compares {t o : Word} {e : (AluUnit → BitVec 4 → OpS → Instr) × Bool} (he : e ∈ Spec.compares t o) :
    ∃ c, (∀ u k f, (∃ op, (e.1 u k f).view = some (.ofS u.slot u.unit op f)) ∧
      ∀ s, opOf (e.1 u k f) s = s.compareOp (e.1 u k f) c u k f) ∧ scalarCond c t o = e.2 := by
  revert e
  simp only [Spec.compares, List.forall_mem_cons, List.not_mem_nil, false_implies, implies_true, and_true]
  refine ⟨⟨0, ?_, rfl⟩, ⟨1, ?_, (decide_not ..).symm⟩, ⟨2, ?_, rfl⟩, ⟨3, ?_, rfl⟩, ⟨4, ?_, rfl⟩, ⟨5, ?_, rfl⟩⟩
  all_goals exact fun u k f => ⟨⟨_, rfl⟩, fun _ => rfl⟩

/-- R100: each compare lands its result and its predicate pair. -/
theorem compareWritesResultAndPredicatePair : Spec.CompareWritesResultAndPredicatePair := by
  intro u k f s a e he hc hon ha
  obtain ⟨c, hcmp, hval⟩ := mem_compares he
  obtain ⟨⟨op, hv⟩, hop⟩ := hcmp u k f
  rw [← State.scalarWrites_eq, ← predPair_eq, ← hval]
  exact lands_of_scalarOp (aluSlot_not_vector u) hv hc hon ha (hop s)

/-- Settles O1: the value operations and the compares. -/
theorem scalarResultsLand : Obligations.ScalarResultsLand := ⟨aluResultLandsAfterOneCycle, compareWritesResultAndPredicatePair⟩

/-! The multiplier and the divider (R102 to R104). -/

/-- A multiply of R102 with its halves. -/
theorem mem_muls {t o : Word} {e : (OpS → Instr) × Word × Word} (he : e ∈ Spec.muls t o) :
    ∃ r, (∀ f, (∃ op, (e.1 f).view = some (.ofS 1 2 op f)) ∧ ∀ s, opOf (e.1 f) s = s.mulOp (e.1 f) f r) ∧ r t o = e.2 := by
  revert e
  simp only [Spec.muls, List.forall_mem_cons, List.not_mem_nil, false_implies, implies_true, and_true]
  refine ⟨⟨fun t o => (loHalf (prodS t o), hiHalf (prodS t o)), ?_, Prod.ext (loHalf_ofInt _) (hiHalf_ofInt _)⟩,
    ⟨fun t o => (hiHalf (prodS t o), loHalf (prodS t o)), ?_, Prod.ext (hiHalf_ofInt _) (loHalf_ofInt _)⟩,
    ⟨fun t o => (hiHalf (prodU t o), loHalf (prodU t o)), ?_, Prod.ext (hiHalf_prodU t o) (loHalf_prodU t o)⟩⟩
  all_goals exact fun f => ⟨⟨_, rfl⟩, fun _ => rfl⟩

/-- R102: each multiply lands the halves of its exact product. -/
theorem multiplyLandsExactProductAfterThreeCycles : Spec.MultiplyLandsExactProductAfterThreeCycles := by
  intro f s a e he hc hon ha
  obtain ⟨r, hr, hval⟩ := mem_muls he
  obtain ⟨⟨op, hv⟩, hop⟩ := hr f
  rw [← State.mulWrites_eq s f.w e.2, ← hval]
  exact lands_of_scalarOp rfl hv hc hon ha (hop s)

/-- A divide of R103 with its quotient and remainder. -/
theorem mem_divs {t o : Word} {e : (OpS → Instr) × Word × Word} (he : e ∈ Spec.divs t o) :
    ∃ r, (∀ f, (∃ op, (e.1 f).view = some (.ofS 1 2 op f)) ∧ ∀ s, opOf (e.1 f) s = s.divOp (e.1 f) f r) ∧ r t o = e.2 := by
  revert e
  simp only [Spec.divs, List.forall_mem_cons, List.not_mem_nil, false_implies, implies_true, and_true]
  refine ⟨⟨fun t o => divide true t o, ?_, divide_signed t o⟩,
    ⟨fun t o => divide false t o, ?_, divide_unsigned t o⟩,
    ⟨fun t o => (divide true t o).swap, ?_, congrArg Prod.swap (divide_signed t o)⟩,
    ⟨fun t o => (divide false t o).swap, ?_, congrArg Prod.swap (divide_unsigned t o)⟩⟩
  all_goals exact fun f => ⟨⟨_, rfl⟩, fun _ => rfl⟩

section
variable {s : State} {i : Instr} {f : OpS} {r : Word → Word → Word × Word} {a : ScalarArgs}

/-- A divide with the divider free lands its results and takes the divider (R103, R104). -/
theorem divOp_lands (ho : s.opens i = .ok ()) (hg : s.guard f.g = true) (ha : s.scalarArgs 2 i.shape f = .ok a)
    (hd : s.me.divFree ≤ s.cycle) : s.divOp i f r =
      .ok ((s.land 1 divUnit 34 (s.mulWrites f.w (r a.t a.o))).modMe fun c => { c with divFree := s.cycle + 34 }) := by
  simp only [State.divOp, ho, hg, ha]
  simp only [bind, Except.bind, Nat.not_lt.2 hd, if_false]
  rfl

/-- A divide that finds the divider busy takes the queue-overflow trap (R104). -/
theorem divOp_busy (ho : s.opens i = .ok ()) (hg : s.guard f.g = true) (ha : s.scalarArgs 2 i.shape f = .ok a)
    (hd : s.cycle < s.me.divFree) : s.divOp i f r = .error (.trap { cause := 10, unit := 2, slot := 1 }) := by
  simp only [State.divOp, ho, hg, ha]
  simp only [bind, Except.bind, hd, if_true]
  rfl

end

/-- R103, R104: each divide lands quotient and remainder, or traps at a busy divider. -/
theorem divideLandsAfterThirtyFourCycles : Spec.DivideLandsAfterThirtyFourCycles := by
  intro f s a e he hc hon ha
  obtain ⟨r, hr, hval⟩ := mem_divs he
  obtain ⟨⟨op, hv⟩, hop⟩ := hr f
  have ho : s.opens (e.1 f) = .ok () := State.opens_of_on hc hv rfl hon
  obtain ⟨-, hg, -⟩ := hon
  refine ⟨fun hd => ?_, fun hd => ?_⟩
  · rw [← State.mulWrites_eq s f.w e.2, ← hval]
    exact exec_of_opOf hv ((hop s).trans (divOp_lands ho hg ha hd))
  · rw [exec_eq_settle_opOf _ s (by rw [hv]; rfl)]
    exact settle_error ((hop s).trans (divOp_busy ho hg ha hd))

/-- Settles O2: the multiplies and the divides. -/
theorem multiplyAndDivideResultsLand : Obligations.MultiplyAndDivideResultsLand :=
  ⟨multiplyLandsExactProductAfterThreeCycles, divideLandsAfterThirtyFourCycles⟩

/-! The predicate unit (R106). -/

section
variable {s : State} {i : Instr} {d : BitVec 5} {f : OpS} {r : Src → Src → Bool} {t o : Src} {op : Nat}

/-- A predicate operation with a true guard and readable operands lands its bit in p_d. -/
theorem lands_of_predOp (hv : i.view = some (.ofS 0 3 op f)) (hc : i.check = none) (hon : Spec.on s f.g)
    (ht : s.readT f.t = .ok t) (ho : (if i.shape.o = .none then pure t else s.readO 3 f) = .ok o)
    (hop : opOf i s = s.predOp i d f r) : Spec.lands s i 0 3 1 [wrP d.toNat (r t o)] := by
  refine exec_of_opOf hv (hop.trans ?_)
  have hopen : s.opens i = .ok () := State.opens_of_on hc hv rfl hon
  obtain ⟨-, hg, -⟩ := hon
  by_cases hs : i.shape.o = .none
  · rw [if_pos hs] at ho
    cases ho
    simp only [State.predOp, hopen, hg, ht, hs]
    rfl
  · rw [if_neg hs] at ho
    simp only [State.predOp, hopen, hg, ht, hs, ho]
    rfl

end

/-- A predicate operation of T and O. -/
theorem mem_preds2 {t o : Src} {e : (BitVec 5 → OpS → Instr) × Bool} (he : e ∈ Spec.preds2 t.bool o.bool) :
    ∃ r, (∀ d f, (∃ op, (e.1 d f).view = some (.ofS 0 3 op f)) ∧ (e.1 d f).shape.o ≠ .none ∧
      ∀ s, opOf (e.1 d f) s = s.predOp (e.1 d f) d f r) ∧ r t o = e.2 := by
  revert e
  simp only [Spec.preds2, List.forall_mem_cons, List.not_mem_nil, false_implies, implies_true, and_true]
  refine ⟨⟨fun t o => t.bool && o.bool, ?_, rfl⟩, ⟨fun t o => t.bool || o.bool, ?_, rfl⟩, ⟨fun t o => t.bool != o.bool, ?_, rfl⟩⟩
  all_goals exact fun d f => ⟨⟨_, rfl⟩, nofun, fun _ => rfl⟩

theorem bne_zero_eq_any (x : VPred) : (x != 0) = (List.range 128).any fun i => x.getLsbD i := by
  rw [Bool.eq_iff_iff, bne_iff_ne, List.any_eq_true, ne_eq, ← not_iff_not, not_not, not_exists]
  constructor
  · rintro rfl i ⟨-, h⟩
    simp at h
  · intro h
    ext i hi
    simpa [hi, BitVec.getLsbD_eq_getElem] using fun hx => h i ⟨List.mem_range.2 hi, hx⟩

theorem beq_allOnes_eq_all (x : VPred) : (x == BitVec.allOnes 128) = (List.range 128).all fun i => x.getLsbD i := by
  rw [Bool.eq_iff_iff, beq_iff_eq, List.all_eq_true]
  constructor
  · rintro rfl i hi
    rw [BitVec.getLsbD_allOnes, decide_eq_true (List.mem_range.1 hi)]
  · intro h
    ext i hi
    rw [BitVec.getElem_allOnes, ← BitVec.getLsbD_eq_getElem, h i (List.mem_range.2 hi)]

/-- A predicate operation of T alone. -/
theorem mem_preds1 {t : Src} {e : (BitVec 5 → OpS → Instr) × Bool} (he : e ∈ Spec.preds1 t) :
    ∃ r : Src → Src → Bool, (∀ d f, (∃ op, (e.1 d f).view = some (.ofS 0 3 op f)) ∧ (e.1 d f).shape.o = .none ∧
      ∀ s, opOf (e.1 d f) s = s.predOp (e.1 d f) d f r) ∧ r t t = e.2 := by
  revert e
  simp only [Spec.preds1, List.forall_mem_cons, List.not_mem_nil, false_implies, implies_true, and_true]
  refine ⟨⟨fun t _ => !t.bool, ?_, rfl⟩, ⟨fun t _ => t.bool, ?_, rfl⟩, ⟨fun t _ => t.vec != 0, ?_, bne_zero_eq_any t.vec⟩,
    ⟨fun t _ => t.vec == BitVec.allOnes 128, ?_, beq_allOnes_eq_all t.vec⟩⟩
  all_goals exact fun d f => ⟨⟨_, rfl⟩, rfl, fun _ => rfl⟩

/-- Settles O3: the operations that read T and O, and those that read T alone. -/
theorem predicateOperationWritesOnePredicate : Obligations.PredicateOperationWritesOnePredicate := by
  unfold Obligations.PredicateOperationWritesOnePredicate
  intro d f s t ht hon
  refine ⟨fun o hread e he hc => ?_, fun e he hc => ?_⟩
  · obtain ⟨r, hr, hval⟩ := mem_preds2 he
    obtain ⟨⟨op, hv⟩, hshape, hop⟩ := hr d f
    rw [← hval]
    exact lands_of_predOp hv hc hon ht ((if_neg hshape).trans hread) (hop s)
  · obtain ⟨r, hr, hval⟩ := mem_preds1 he
    obtain ⟨⟨op, hv⟩, hshape, hop⟩ := hr d f
    rw [← hval]
    exact lands_of_predOp hv hc hon ht (if_pos hshape) (hop s)

end Sys2Proof.Machine
end

section
/-! Changes of the issuing context (R93, R97). -/

namespace Sys2Proof.Machine

/-- A change of the issuing context is known by what it makes of that context. -/
theorem State.modMe_congr {s : State} {f g : Ctx → Ctx} (h : f s.me = g s.me) : s.modMe f = s.modMe g :=
  congrArg (s.setCtx s.cid) h

end Sys2Proof.Machine
end

section
/-! A trigger with a false guard starts nothing (R61, R97), whatever its operation. -/

namespace Sys2Proof.Machine

section
variable {s : State} {i : Instr} {v : View}

/-! What a silent trigger's own checks find. -/

/-- Outside slots 3 and 4 a silent guard is a false predicate. -/
theorem guard_of_silent (h : Spec.silent s v) (hk : ¬(v.slot = 3 ∨ v.slot = 4)) : s.guard v.g = false := by
  rw [Spec.silent, if_neg hk] at h
  exact h.2

/-- In slots 3 and 4 it is a vector guard of zeros. -/
theorem vguard_of_silent (h : Spec.silent s v) (hk : v.slot = 3 ∨ v.slot = 4) : s.vguard v.g = 0 := by
  rw [Spec.silent, if_pos hk] at h
  exact h.2

/-- A legal trigger with a silent guard opens: rrb is not read for an operation that does not act (R92, R98). -/
theorem opens_of_silent (hv : i.view = some v) (hc : i.check = none) (h : Spec.silent s v) : s.opens i = .ok () := by
  have hslot : (v.slot == 3 || v.slot == 4) = decide (v.slot = 3 ∨ v.slot = 4) := by
    rw [Bool.decide_or]
    rfl
  simp only [State.opens, encOk_ok hc, hv, hslot]
  by_cases hk : v.slot = 3 ∨ v.slot = 4
  · have hg : s.guardReady true v.g = .ok () := by
      rw [Spec.silent, if_pos hk] at h
      exact h.1
    have hz : (s.vguard v.g).getLsbD 0 = false := by rw [vguard_of_silent h hk]; rfl
    simp only [decide_eq_true hk, hg, hz]
    rfl
  · have hg : s.guardReady false v.g = .ok () := by
      rw [Spec.silent, if_neg hk] at h
      exact h.1
    simp only [decide_eq_false hk, hg, guard_of_silent h hk]
    rfl

end

/-! The three frames an operation has: under a predicate, under a predicate with a limit counted before it, and under a vector
guard. -/

section
variable {s : State} {i : Instr} {v : View} {k : Nat}

/-- An operation under a predicate (R97). -/
theorem guarded_of_silent {g : Guard} {act : Res State} (hv : i.view = some v) (hc : i.check = none) (h : Spec.silent s v)
    (hk : ¬(v.slot = 3 ∨ v.slot = 4)) (hg : v.g = g) :
    (inSlot k do s.opens i; if !s.guard g then pure s else act) = .ok s := by
  subst hg
  simp only [opens_of_silent hv hc h, guard_of_silent h hk]
  rfl

/-- An operation that counts in a limit of its pitch whatever its guard (log 36). -/
theorem limited_of_silent {g : Guard} {kind max unit : Nat} {act : State → Res State} (hv : i.view = some v)
    (hc : i.check = none) (h : Spec.silent s v) (hk : ¬(v.slot = 3 ∨ v.slot = 4)) (hg : v.g = g)
    (hroom : Tab.get 0 s.me.counts kind < max) :
    (inSlot k do s.opens i; let s0 ← s.limit kind max unit; if !s.guard g then pure s0 else act s0) =
      .ok (Spec.counted s kind) := by
  subst hg
  simp only [opens_of_silent hv hc h, guard_of_silent h hk, State.limit, if_neg (Nat.not_le.2 hroom)]
  rfl

/-- An operation under a vector guard (R197). -/
theorem vecOp_of_silent {u : VecUnit} {f : OpS} {op lat range : Nat} {act : VArgs → Res (List RegWrite)} {rounds : Bool}
    (hv : i.view = some (.ofS u.slot u.unit op f)) (hc : i.check = none) (h : Spec.silent s (.ofS u.slot u.unit op f)) :
    s.vecOp i u f lat range act rounds = .ok s := by
  have hk : u.slot = 3 ∨ u.slot = 4 := by cases u <;> decide
  have hg : s.vguard f.g = 0 := vguard_of_silent h hk
  simp only [State.vecOp, opens_of_silent hv hc h, hg]
  rfl

end


/-! The shared vector operations (R199 to R209) under a vector guard of zeros. -/

section
variable {s : State} {i : Instr} {u : VecUnit} {f : OpS} {op : Nat} (hv : i.view = some (.ofS u.slot u.unit op f))
  (hc : i.check = none) (h : Spec.silent s (.ofS u.slot u.unit op f))
include hv hc h

theorem vint_of_silent {r e} : s.vint i u f r e = .ok s := by
  rw [State.vint]
  exact vecOp_of_silent hv hc h

theorem vbit_of_silent {e} : s.vbit i u f e = .ok s := by
  rw [State.vbit]
  exact vecOp_of_silent hv hc h

theorem vfl2_of_silent {e} : s.vfl2 i u f e = .ok s := by
  rw [State.vfl2]
  exact vecOp_of_silent hv hc h

theorem vfl3_of_silent {n} : s.vfl3 i u f n = .ok s := by
  rw [State.vfl3]
  exact vecOp_of_silent hv hc h

theorem vtrans_of_silent {o} : s.vtrans i u f o = .ok s := by
  rw [State.vtrans]
  exact vecOp_of_silent hv hc h

theorem vlane_of_silent {e} : s.vlane i u f e = .ok s := by
  rw [State.vlane]
  exact vecOp_of_silent hv hc h

theorem vred_of_silent {lat e rounds} : s.vred i u f lat e rounds = .ok s := by
  rw [State.vred]
  exact vecOp_of_silent hv hc h

theorem vpOp_of_silent {r} : s.vpOp i u f r = .ok s := by
  rw [State.vpOp]
  exact vecOp_of_silent hv hc h

theorem vcmp_of_silent {c k} : s.vcmp i c u k f = .ok s := by
  rw [State.vcmp]
  exact vecOp_of_silent hv hc h

end

theorem aluSlot_scalar (u : AluUnit) : ¬(u.slot = 3 ∨ u.slot = 4) := by cases u <;> decide

/-- A move whose encoding is legal names no trigger port (R65). -/
theorem dst_ne_trigger_of_check {i : Instr} {m : OpMove} {op : Nat} (hv : i.view = some (.ofMove op m)) (hc : i.check = none)
    (hm : i = .move m ∨ i = .moveSplat m ∨ i = .moveHi m) (u : Nat) : dstKind m.dst ≠ some (.trigger u) := by
  intro hd
  have he : i.extraOk = true := by
    by_contra he
    simp only [Instr.check, hv, slotCheck] at hc
    split_ifs at hc with _ _ _ _ _ hf
    exact hf (by simp [he])
  rcases hm with rfl | rfl | rfl
  all_goals simp [Instr.extraOk, hd] at he

/-- The units some of whose triggers count whatever their guard: ls, at, ec, rm, sx, bj and wk (log 36). -/
theorem not_traceless_of_trigger {n u : Nat} (hn : n ∈ [8, 10, 11, 12, 13, 14, 15])
    (hd : dstKind (BitVec.ofNat 9 (0x101 + 2 * n)) = some (.trigger u)) : Spec.traceless u = false := by
  simp only [List.mem_cons, List.not_mem_nil, or_false] at hn
  rcases hn with rfl | rfl | rfl | rfl | rfl | rfl | rfl
  all_goals
    simp [dstKind] at hd
    subst hd
    rfl

/-- What a silent trigger of unit u does: nothing, or it counts, in a unit that counts some of its triggers. -/
def startsNothing (s : State) (u : Nat) (r : Res State) : Prop :=
  r = .ok s ∨ Spec.traceless u = false ∧ ∃ kind, (Tab.get 0 s.me.counts kind < 8 → r = .ok (Spec.counted s kind))


theorem ofS_scalar {k : Nat} (u op : Nat) (f : OpS) (hk : ¬(k = 3 ∨ k = 4)) :
    ¬((View.ofS k u op f).slot = 3 ∨ (View.ofS k u op f).slot = 4) := hk
theorem ofM_scalar (u op : Nat) (f : OpM) : ¬((View.ofM u op f).slot = 3 ∨ (View.ofM u op f).slot = 4) := by
  simp [View.ofM]
theorem ofT_scalar (u op : Nat) (f : OpT) : ¬((View.ofT u op f).slot = 3 ∨ (View.ofT u op f).slot = 4) := by
  simp [View.ofT]

/-- Every trigger with a silent guard starts nothing. -/
theorem opOf_of_silent {s : State} {i : Instr} {v : View} {u : Nat} (hv : i.view = some v)
    (hd : dstKind v.dst = some (.trigger u)) (hc : i.check = none) (h : Spec.silent s v) : startsNothing s u (opOf i s) := by
  cases i with
  | nop => cases hv; cases hd
  | move m => cases hv; exact absurd hd (dst_ne_trigger_of_check rfl hc (.inl rfl) u)
  | moveSplat m => cases hv; exact absurd hd (dst_ne_trigger_of_check rfl hc (.inr (.inl rfl)) u)
  | moveHi m => cases hv; exact absurd hd (dst_ne_trigger_of_check rfl hc (.inr (.inr rfl)) u)
  | add w f | sub w f | and w f | or w f | xor w f | andn w f | orn w f | shl w f | shr w f | sra w f | ror w f | min w f
  | max w f | minn w f | maxn w f | sel w f | sext8 w f | sext16 w f | sext32 w f | zext8 w f | zext16 w f | zext32 w f
  | clz w f | ctz w f | popc w f | bfx w f | bfi w f | addsh w f | ceq w k f | cne w k f | clt w k f | cle w k f
  | cltn w k f | clen w k f =>
    cases hv
    unfold opOf
    exact .inl (guarded_of_silent rfl hc h (ofS_scalar _ _ _ (aluSlot_scalar w)) rfl)
  | mul f | mulh f | mulhn f | div f | divn f | rem f | remn f | pand d f | por d f | pxor d f | pnot d f | pset d f
  | vany d f | vall d f | br f | call f | ret f | bix f | lset n f | lrot f | lbrk n f | trap f | exit f | yield f | sleep f
  | brk f | sset f | sadd f | stake f | swait f | join f | gpush f | gpop f | xpin f | xpout f | xpclr f | xpmode f =>
    cases hv
    unfold opOf
    exact .inl (guarded_of_silent rfl hc h (ofS_scalar _ _ _ (by decide)) rfl)
  | ldb nw f | ldh nw f | ldw nw f | ldd nw f
  | ldbn nw f | ldhn nw f | ldwn nw f | stb f | sth f | stw f | std f | vld fmt nw f | vst fmt f | vlds nw f | vsts f
  | vldx nw f | vstx f | fewait f | feclr f | feset f | fetst f | acq sc f | cwb f | cinv f | xlat f | hdrop f | hchk f
  | cstat q f | rld f | rldv f | srecv f | spoll f | sstat f | jrec f | jstat f =>
    cases hv
    unfold opOf
    exact .inl (guarded_of_silent rfl hc h (ofM_scalar _ _ _) rfl)
  | mload f | mpush f | mpushv f | mzero f | mpop f | mpopx f | macc f | mrel f | tsload f | tsrun f | tsstop f | tsstat f =>
    cases hv
    unfold opOf
    exact .inl (guarded_of_silent rfl hc h (ofT_scalar _ _ _) rfl)
  | tret f =>
    cases hv
    have ho : s.opens (.tret f) = .ok () := opens_of_silent rfl hc h
    have hg : s.guard f.g = false := guard_of_silent h (ofS_scalar 6 2 f (by decide))
    refine .inl ?_
    show opTret f s = .ok s
    simp only [opTret, State.sysOp, ho, hg]
    rfl
  | vadd w f | vsub w f | vmul w f | vmulh w f | vmin w f | vmax w f | vminn w f | vmaxn w f | vshl w f | vshr w f
  | vsra w f | vabs w f | vadds w f | vsubs w f =>
    cases hv
    unfold opOf
    exact .inl (vint_of_silent rfl hc h)
  | vand w f | vor w f | vxor w f | vandn w f =>
    cases hv
    unfold opOf
    exact .inl (vbit_of_silent rfl hc h)
  | vfadd w f | vfsub w f | vfmin w f | vfmax w f =>
    cases hv
    unfold opOf
    exact .inl (vfl2_of_silent rfl hc h)
  | vfma w f | vfnma w f =>
    cases hv
    unfold opOf
    exact .inl (vfl3_of_silent rfl hc h)
  | vrcp w f | vrsq w f | vexp2 w f | vlog2 w f | vtanh w f =>
    cases hv
    unfold opOf
    exact .inl (vtrans_of_silent rfl hc h)
  | vsplat w f | vins w f | vperm w f | vrot w f =>
    cases hv
    unfold opOf
    exact .inl (vlane_of_silent rfl hc h)
  | vsum w f | vmaxr w f | vargmax w f =>
    cases hv
    unfold opOf
    exact .inl (vred_of_silent rfl hc h)
  | vpand w f | vpor w f | vpxor w f | vpnot w f | vpset w f | vpcnt w f =>
    cases hv
    unfold opOf
    exact .inl (vpOp_of_silent rfl hc h)
  | vceq w k f | vcne w k f | vclt w k f | vcle w k f | vcltn w k f | vfceq w k f | vfclt w k f | vfcle w k f =>
    cases hv
    unfold opOf
    exact .inl (vcmp_of_silent rfl hc h)
  | vfmul w f | vscale w f | vtag w f | vext w f | vsel w f | vcomp w f | vrng w f | vsample w f =>
    cases hv
    unfold opOf
    exact .inl (vecOp_of_silent rfl hc h)
  | vcvt w fmt f =>
    cases hv
    unfold opOf opVcvt
    exact .inl (vecOp_of_silent rfl hc h)
  | rel sc f =>
    cases hv
    unfold opOf
    exact .inr ⟨not_traceless_of_trigger (n := 8) (by decide) hd, _, limited_of_silent rfl hc h (ofM_scalar _ _ _) rfl⟩
  | aadd sc f | aand sc f | aor sc f | axor sc f | axchg sc f | acas sc f | amax sc f =>
    cases hv
    unfold opOf
    exact .inr ⟨not_traceless_of_trigger (n := 10) (by decide) hd, _, limited_of_silent rfl hc h (ofM_scalar _ _ _) rfl⟩
  | cpy q f | csr q f | pfr q f | zfill q f | qfence q f | coll q f | evict q f =>
    cases hv
    unfold opOf
    exact .inr ⟨not_traceless_of_trigger (n := 11) (by decide) hd, _,
      fun hr => limited_of_silent rfl hc h (ofM_scalar _ _ _) rfl (hr.trans (by decide))⟩
  | rst b f | rstv b f | rop f | bclose b f =>
    cases hv
    unfold opOf
    exact .inr ⟨not_traceless_of_trigger (n := 12) (by decide) hd, _,
      fun hr => limited_of_silent rfl hc h (ofM_scalar _ _ _) rfl (hr.trans (by decide))⟩
  | rdrain f =>
    cases hv
    unfold opOf
    exact .inr ⟨not_traceless_of_trigger (n := 12) (by decide) hd, _, limited_of_silent rfl hc h (ofM_scalar _ _ _) rfl⟩
  | sopen f | sclose f | ssend f | sxfer f =>
    cases hv
    unfold opOf
    exact .inr ⟨not_traceless_of_trigger (n := 13) (by decide) hd, _,
      fun hr => limited_of_silent rfl hc h (ofM_scalar _ _ _) rfl (hr.trans (by decide))⟩
  | jopen f | jemit f | jtrunc f | jpart f | jrep f =>
    cases hv
    unfold opOf
    exact .inr ⟨not_traceless_of_trigger (n := 14) (by decide) hd, _,
      fun hr => limited_of_silent rfl hc h (ofM_scalar _ _ _) rfl (hr.trans (by decide))⟩
  | fork f | jadd f | wcan f | wdone f =>
    cases hv
    unfold opOf
    exact .inr ⟨not_traceless_of_trigger (n := 15) (by decide) hd, _,
      fun hr => limited_of_silent rfl hc h (ofS_scalar _ _ _ (by decide)) rfl (hr.trans (by decide))⟩
  | _ => cases hv

/-- R97: a trigger with a silent guard starts nothing. -/
theorem falseGuardStartsNothing : Spec.FalseGuardStartsNothing := by
  intro i v s u hv hd hc h
  rcases opOf_of_silent hv hd hc h with ho | ⟨hu, kind, ho⟩
  · have hx : exec i s = .next s.commit := exec_of_opOf hv ho
    exact ⟨fun _ => hx, fun _ => ⟨s, hx, .inl rfl⟩⟩
  · refine ⟨fun ht => absurd (ht.symm.trans hu) (by decide), fun hroom => ?_⟩
    exact ⟨_, exec_of_opOf hv (ho (hroom kind)), .inr ⟨_, State.modMe_congr rfl⟩⟩

/-- Settles O4: the triggers, and the empty slot, whose operation is to do nothing. -/
theorem nothingIsPerformed : Obligations.NothingIsPerformed := ⟨falseGuardStartsNothing, fun _ => rfl⟩

end Sys2Proof.Machine
end

section
/-! What the operations of ia, ib, mul and pr leave unchanged (R93, R97 to R99). -/

namespace Sys2Proof.Machine

/-- Of the issuing context the flights of results and the divider's time have changed at most, and nothing else has. -/
def State.resultsOnly (s t : State) : Prop := t = s ∨ ∃ fl df, t = s.modMe fun c => { c with flight := fl, divFree := df }

section
variable {s t : State} {i : Instr}

theorem State.resultsOnly_land (slot unit lat : Nat) (ws : List RegWrite) : s.resultsOnly (s.land slot unit lat ws) :=
  .inr ⟨_, s.me.divFree, State.modMe_congr rfl⟩

theorem resultsOnly_of_scalarOp {slot unit lat : Nat} {f : OpS} {out : ScalarArgs → List RegWrite}
    (h : s.scalarOp i slot unit lat f out = .ok t) : s.resultsOnly t := by
  obtain ⟨_, rfl⟩ | ⟨a, _, _, rfl⟩ := scalarOp_cases h
  · exact .inl rfl
  · exact State.resultsOnly_land ..

theorem resultsOnly_of_predOp {d : BitVec 5} {f : OpS} {r : Src → Src → Bool} (h : s.predOp i d f r = .ok t) :
    s.resultsOnly t := by
  obtain rfl | ⟨b, rfl⟩ := predOp_cases h
  · exact .inl rfl
  · exact State.resultsOnly_land ..

theorem resultsOnly_of_divOp {f : OpS} {r : Word → Word → Word × Word} (h : s.divOp i f r = .ok t) : s.resultsOnly t := by
  obtain rfl | ⟨a, _, _, rfl⟩ := divOp_cases h
  · exact .inl rfl
  · exact .inr ⟨_, _, (State.modMe_modMe ..).trans (State.modMe_congr rfl)⟩

/-- An operation that opens has a legal encoding (R83). -/
theorem check_of_opens (h : s.opens i = .ok ()) : i.check = none := by
  obtain ⟨_, he, _⟩ := bind_ok h
  cases hc : i.check with
  | none => rfl
  | some e => simp only [encOk, hc, raise] at he; cases he

/-- A plain move that completes has a legal encoding. -/
theorem check_of_moveOp {m : OpMove} {w : DstKind → Reg → Src → RegWrite} {b : Bool} (h : s.moveOp i m w b = .ok t) :
    i.check = none := by
  obtain ⟨_, ho, _⟩ := bind_ok (inSlot_ok h)
  exact check_of_opens ho

end

theorem VecUnit.four_le_unit (u : VecUnit) : 4 ≤ u.unit := by cases u <;> decide
theorem VecUnit.unit_lt (u : VecUnit) : u.unit < 32 := by cases u <;> decide

/-- The ports of the units from 4 on are not those of ia, ib, mul and pr (R63). -/
theorem not_scalarTrigger {n : Nat} (hn : 4 ≤ n) (hn' : n < 32) :
    ¬Spec.scalarTrigger (BitVec.ofNat 9 (0x101 + 2 * n)) = true := by
  interval_cases n <;> decide

/-- The ports of ia, ib, mul and pr are trigger ports. -/
theorem dstKind_of_scalarTrigger {p : BitVec 9} (h : Spec.scalarTrigger p = true) : ∃ u, dstKind p = some (.trigger u) := by
  simp only [Spec.scalarTrigger, Bool.or_eq_true, beq_iff_eq] at h
  rcases h with ((rfl | rfl) | rfl) | rfl
  · exact ⟨0, by decide⟩
  · exact ⟨1, by decide⟩
  · exact ⟨2, by decide⟩
  · exact ⟨3, by decide⟩

/-- A plain move to their ports does not complete (R65). -/
theorem not_scalarTrigger_of_move {i : Instr} {m : OpMove} {op : Nat} (hv : i.view = some (.ofMove op m)) (hc : i.check = none)
    (hm : i = .move m ∨ i = .moveSplat m ∨ i = .moveHi m) : ¬Spec.scalarTrigger m.dst = true := fun h => by
  obtain ⟨u, hd⟩ := dstKind_of_scalarTrigger h
  exact dst_ne_trigger_of_check hv hc hm u hd

/-- What a trigger of ia, ib, mul or pr that completes has changed. -/
theorem opOf_resultsOnly {s t : State} {i : Instr} {v : View} (hv : i.view = some v) (hp : Spec.scalarTrigger v.dst = true)
    (h : opOf i s = .ok t) : s.resultsOnly t := by
  cases i with
  | nop => cases hv; exact absurd hp (by decide)
  | move m => cases hv; exact absurd hp (not_scalarTrigger_of_move rfl (check_of_moveOp h) (.inl rfl))
  | moveSplat m => cases hv; exact absurd hp (not_scalarTrigger_of_move rfl (check_of_moveOp h) (.inr (.inl rfl)))
  | moveHi m => cases hv; exact absurd hp (not_scalarTrigger_of_move rfl (check_of_moveOp h) (.inr (.inr rfl)))
  | add w f | sub w f | and w f | or w f | xor w f | andn w f | orn w f | shl w f | shr w f | sra w f | ror w f | min w f
  | max w f | minn w f | maxn w f | sel w f | sext8 w f | sext16 w f | sext32 w f | zext8 w f | zext16 w f | zext32 w f
  | clz w f | ctz w f | popc w f | bfx w f | bfi w f | addsh w f | ceq w k f | cne w k f | clt w k f | cle w k f
  | cltn w k f | clen w k f | mul f | mulh f | mulhn f =>
    unfold opOf at h
    exact resultsOnly_of_scalarOp h
  | div f | divn f | rem f | remn f =>
    unfold opOf at h
    exact resultsOnly_of_divOp h
  | pand d f | por d f | pxor d f | pnot d f | pset d f | vany d f | vall d f =>
    unfold opOf at h
    exact resultsOnly_of_predOp h
  | _ => cases hv <;> exact absurd hp (not_scalarTrigger (by simp [VecUnit.four_le_unit]) (by simp [VecUnit.unit_lt]))

end Sys2Proof.Machine
end

section
/-! What an operation leaves unchanged whose results fly, whose effect waits for the release, or that changes the sequencer alone
(R93, R190 to R193, R202, R232, R233, R239). -/

namespace Sys2Proof.Machine

/-- The registers of the issuing context, the semaphores, the other contexts, the bytes of memory and the tiles are as before. -/
def State.framesAs (s t : State) : Prop :=
  t.me.bank = s.me.bank ∧ (∀ core n, t.sem core n = s.sem core n) ∧ (∀ k, k ≠ s.cid → t.ctx k = s.ctx k) ∧
    Spec.sameMemory s t ∧ ∀ core n, t.tile core n = s.tile core n

section
variable {s t : State} {i : Instr} {v : View}

theorem State.framesAs_refl (s : State) : s.framesAs s :=
  ⟨rfl, fun _ _ => rfl, fun _ _ => rfl, (State.storesAs.refl s).sameMemory, fun _ _ => rfl⟩

/-- A change of the issuing context that keeps its registers. -/
theorem State.framesAs_modMe {g : Ctx → Ctx} (hg : (g s.me).bank = s.me.bank) : s.framesAs (s.modMe g) :=
  ⟨by rw [State.modMe_me, hg], fun _ _ => rfl, fun k hk => by rw [State.modMe_ctx, if_neg hk],
    (State.storesAs_modCtx s s.cid g).sameMemory, fun _ _ => rfl⟩

theorem State.framesAs_land (s : State) (slot unit lat : Nat) (ws : List RegWrite) : s.framesAs (s.land slot unit lat ws) :=
  State.framesAs_modMe rfl

theorem State.framesAs_addRel (s : State) (tok unit : Nat) (b : RelBody) : s.framesAs (s.addRel tok unit b) :=
  State.framesAs_modMe rfl

/-- A change of a core's sequencer. -/
theorem State.framesAs_setSeqr (s : State) (core : Nat) (x : Ts) : s.framesAs (s.setSeqr core x) := by
  have hcore (j : Nat) : ∃ y, (s.setSeqr core x).core j = { s.core j with ts := y } := by
    rw [State.setSeqr, State.modCore_core]
    split
    · exact ⟨x, by rw [‹j = core›]⟩
    · exact ⟨(s.core j).ts, rfl⟩
  have hmem : s.storesAs (s.setSeqr core x) := State.storesAs_modCore s core fun _ => rfl
  refine ⟨rfl, fun j n => ?_, fun _ _ => rfl, hmem.sameMemory, fun j n => ?_⟩
  · obtain ⟨y, hy⟩ := hcore j
    simp only [State.sem, State.coreGen, State.coreSlot, hy]
    rfl
  · obtain ⟨y, hy⟩ := hcore j
    simp only [State.tile, State.coreGen, State.coreSlot, hy]
    rfl

theorem State.resultsOnly.framesAs (h : s.resultsOnly t) : s.framesAs t := by
  obtain rfl | ⟨fl, df, rfl⟩ := h
  · exact State.framesAs_refl t
  · exact State.framesAs_modMe rfl

/-- The operation succeeds, with a frame. -/
def State.completes (s : State) (r : Res State) : Prop := ∃ t, r = .ok t ∧ s.framesAs t

theorem framed_of_completes (hv : i.view = some v) (h : s.completes (opOf i s)) : Spec.framed s i := by
  obtain ⟨t, ht, hf⟩ := h
  exact ⟨t, exec_of_opOf hv ht, hf⟩

end

/-- The frame of ia, ib, mul and pr. -/
theorem scalarOperationFrame : Spec.ScalarOperationFrame := by
  intro i v s t hv hp h
  have hr : s.resultsOnly t := opOf_resultsOnly hv hp h
  obtain ⟨hbank, hsem, hctx, hmem, -⟩ := hr.framesAs
  exact ⟨exec_of_opOf hv h, hr, hbank, hsem, hctx, hmem⟩

end Sys2Proof.Machine
end

section
/-! The vector operations, tile updates and sequencer operations that complete with a frame. -/

namespace Sys2Proof.Machine

/-! Vector operations (R194 to R198). -/

section
variable {s : State} {i : Instr} {u : VecUnit} {f : OpS} {op n : Nat} {t o : Src} {l : Wide}

/-- An operation of slots 3 and 4 with an unpoisoned guard opens: it renames no register (R92). -/
theorem opens_of_vready (hv : i.view = some (.ofS u.slot u.unit op f)) (hr : Spec.vready s i u f n t o l) :
    s.opens i = .ok () := by
  obtain ⟨hc, hg, -⟩ := hr
  refine opens_ok hc (fun v e => ?_) (.inr fun v e => ?_)
  all_goals obtain rfl : View.ofS u.slot u.unit op f = v := Option.some.inj (hv.symm.trans e)
  · cases u <;> exact hg
  · cases u <;> rfl

/-- The guard has an element of the first n. -/
theorem vguard_ne_zero (hr : Spec.vready s i u f n t o l) : (s.vguard f.g).toNat % 2 ^ n ≠ 0 := by
  obtain ⟨-, -, ⟨k, hk, hb⟩, -⟩ := hr
  intro hz
  have hbit : ((s.vguard f.g).toNat % 2 ^ n).testBit k = true := by
    rw [Nat.testBit_mod_two_pow, BitVec.testBit_toNat, hb, decide_eq_true hk]
    rfl
  rw [hz, Nat.zero_testBit] at hbit
  cases hbit

/-- What a vector operation with readable operands reads. -/
def State.vargs (s : State) (i : Instr) (f : OpS) (t o : Src) (l : Wide) : VArgs :=
  ⟨t, if i.shape.o = .none then srcS 0 else o, if i.shape.readsL then l else {}, s.vguard f.g, s.me.bank.fmode, f.ol⟩

/-- A vector operation that may act and whose function accepts its operands puts its results in flight. -/
theorem vecOp_lands {lat range : Nat} {act : VArgs → Res (List RegWrite)} {rounds : Bool} {ws : List RegWrite}
    (hv : i.view = some (.ofS u.slot u.unit op f)) (hr : Spec.vready s i u f n t o l) (hn : range = n)
    (hm : rounds = true → Spec.rounding s) (ha : act (s.vargs i f t o l) = .ok ws) :
    s.vecOp i u f lat range act rounds = .ok (s.land u.slot u.unit lat ws) := by
  have hopens : s.opens i = .ok () := opens_of_vready hv hr
  have hne := vguard_ne_zero hr
  obtain ⟨-, -, -, ht, ho, hl⟩ := hr
  have hR : (if rounds then s.intact (.sp 15) else .ok () : Res Unit) = .ok () := by
    split
    · exact hm ‹_›
    · rfl
  subst hn
  by_cases h1 : i.shape.o = .none
  all_goals by_cases h2 : i.shape.readsL = true
  all_goals
    simp only [State.vargs, h1, h2, if_true, if_false, Bool.false_eq_true] at ha
    simp only [State.vecOp, hopens, ht, h1, h2, ho, hl, hR, if_neg hne, if_true, if_false, ne_eq, not_false_eq_true,
      Bool.false_eq_true]
    show inSlot _ ((act _).bind _) = _
    rw [ha]
    rfl

theorem vecOp_completes {lat range : Nat} {act : VArgs → Res (List RegWrite)} {rounds : Bool}
    (hv : i.view = some (.ofS u.slot u.unit op f)) (hr : Spec.vready s i u f n t o l) (hn : range = n)
    (hm : rounds = true → Spec.rounding s) (ha : ∃ ws, act (s.vargs i f t o l) = .ok ws) :
    s.completes (s.vecOp i u f lat range act rounds) := by
  obtain ⟨ws, ha⟩ := ha
  exact ⟨_, vecOp_lands hv hr hn hm ha, State.framesAs_land ..⟩

end

/-! The tag of a source that can be read is known before it is read (R127, R197). -/

section
variable {s : State} {x : Src}

theorem pends_of_readable {r : Reg} {k : Nat} {low : Bool} (h : s.readable r k low = .ok ()) : s.me.bank.pends r = [] := by
  cases hp : s.me.bank.pends r with
  | nil => rfl
  | cons p ps =>
    simp only [State.readable, hp] at h
    split at h
    all_goals cases h

theorem pends_of_readLatch {unit : Nat} {low : Bool} {w : Wide} (h : s.readLatch unit low = .ok w) :
    s.me.bank.pends (.ol unit) = [] ∧ w = s.me.bank.getOL unit := by
  obtain ⟨_, hr, h⟩ := bind_ok h
  cases h
  exact ⟨pends_of_readable hr, rfl⟩

/-- A source that can be read stands in its port, and its place waits for no result. -/
theorem readPort_of_readSrc {p : BitVec 9} {k : Nat} (h : s.readSrc p k = .ok x) :
    s.readPort p = some x ∧ ∀ r, x.reg = some r → s.me.bank.pends r = [] := by
  unfold State.readSrc at h
  split at h
  case h_1 => cases h
  case h_2 y hy =>
    have hready : ∀ r, y.reg = some r → s.me.bank.pends r = [] := fun r hr => by
      cases hrd : s.readable r k with
      | ok _ => exact pends_of_readable hrd
      | error e =>
        simp only [hr, hrd, bind, Except.bind] at h
        repeat' split at h
        all_goals cases h
    have hxy : y = x := by
      simp only [bind, Except.bind, pure, Except.pure] at h
      repeat' split at h
      all_goals cases h
      all_goals rfl
    exact hxy ▸ ⟨hy, hready⟩

theorem codeAt_of_pends {r : Option Reg} {c : Nat} (h : ∀ y, r = some y → s.me.bank.pends y = []) : s.codeAt r c = some c := by
  cases r with
  | none => rfl
  | some y => simp [State.codeAt, h y rfl]

/-- The tag of T is known where T can be read. -/
theorem portTag_of_readT {p : BitVec 9} (h : s.readT p = .ok x) : s.portTag p = some x.tagged.fmt.toNat := by
  obtain ⟨hp, hr⟩ := readPort_of_readSrc h
  simp only [State.portTag, hp, Src.tagged]
  split
  · exact codeAt_of_pends hr
  · rfl

/-- The new code of a vtag is known where O can be read. -/
theorem newCode_of_readO {u : VecUnit} {f : OpS} (h : s.readO u.unit f = .ok x) : s.newCode u f = some (x.word.toNat % 16) := by
  unfold State.readO at h
  unfold State.newCode
  cases hol : f.ol with
  | true =>
    simp only [hol, if_true] at h ⊢
    obtain ⟨w, hw, h⟩ := bind_ok h
    obtain ⟨hp, rfl⟩ := pends_of_readLatch hw
    cases h
    refine codeAt_of_pends fun y hy => ?_
    cases hy
    exact hp
  | false =>
    simp only [hol, if_false, Bool.false_eq_true] at h ⊢
    obtain ⟨hp, hr⟩ := readPort_of_readSrc h
    simp only [hp]
    exact codeAt_of_pends hr

end

/-! The functions and conversions. -/

section
variable {s : State} {u : VecUnit} {f : OpS} {t o : Src}

theorem rangeOf_typed {k : Nat} (hk : k ≠ 0) : rangeOf (some k) = 1024 / fmtWidth k := by
  cases k with
  | zero => exact absurd rfl hk
  | succ n => rfl

/-- One typed source of an IEEE format gives its format (R196). -/
theorem vecFmt_ieee {x : Wide} (h : 7 ≤ x.fmt.toNat) (h' : x.fmt.toNat ≤ 9) : vecFmt fmtIeee [(0, x)] = .ok x.fmt.toNat := by
  have h0 : (x.fmt != 0) = true := by
    rw [bne_iff_ne]
    rintro h0
    rw [h0] at h
    exact absurd h (by decide)
  have h12 : (x.fmt == 12) = false := by
    rw [beq_eq_false_iff_ne]
    rintro h12
    rw [h12] at h'
    exact absurd h' (by decide)
  have ha : fmtIeee x.fmt.toNat = true := by simp [fmtIeee, h, h']
  simp only [vecFmt, List.filter_cons, List.filter_nil, List.find?_cons, List.find?_nil, h0, h12, ha, bne_self_eq_false,
    if_true]

/-- A function of R202 completes with a frame. -/
theorem vtrans_framed {i : Instr} {op k : Nat} (hv : i.view = some (.ofS u.slot u.unit op f)) (hop : opOf i s = s.vtrans i u f k)
    (ho : i.shape.o = .none) (hl : i.shape.readsL = false) (h : 7 ≤ t.tagged.fmt.toNat) (h' : t.tagged.fmt.toNat ≤ 9)
    (hm : Spec.rounding s) (hr : Spec.vready s i u f (1024 / fmtWidth t.tagged.fmt.toNat) t o {}) : Spec.framed s i := by
  obtain ⟨-, -, -, ht, -⟩ := id hr
  have hrange : s.fmtRange i u f = 1024 / fmtWidth t.tagged.fmt.toNat := by
    have h0 : t.tagged.fmt.toNat ≠ 0 := by omega
    simp only [State.fmtRange, State.codes, ho, hl, portTag_of_readT ht]
    simp [firstCode, h0, rangeOf_typed h0]
  refine framed_of_completes hv ?_
  rw [hop, State.vtrans]
  refine vecOp_completes hv hr hrange (fun _ => hm) ?_
  show ∃ ws, (vecFmt fmtIeee [(0, t.tagged)]).bind _ = .ok ws
  rw [vecFmt_ieee h h']
  exact ⟨_, rfl⟩

theorem functions_framed (h : 7 ≤ t.tagged.fmt.toNat) (h' : t.tagged.fmt.toNat ≤ 9) (hm : Spec.rounding s) :
    ∀ e ∈ Spec.funcs, Spec.vready s (e.1 u f) u f (1024 / fmtWidth t.tagged.fmt.toNat) t o {} → Spec.framed s (e.1 u f) := by
  simp only [Spec.funcs, List.forall_mem_cons, List.not_mem_nil, false_imp_iff, implies_true, and_true]
  refine ⟨?_, ?_, ?_, ?_, ?_⟩
  all_goals
    intro hr
    exact vtrans_framed rfl rfl rfl rfl h h' hm hr

/-- vcvt (R190). -/
theorem vcvt_framed {fmt : BitVec 4} (h : fmt = 12 ∨ (t.tagged.fmt ≠ 0 ∧ t.tagged.fmt ≠ 12 ∧ Spec.rounding s))
    (hr : Spec.vready s (.vcvt u fmt f) u f (1024 / fmtWidth fmt.toNat) t o {}) : Spec.framed s (.vcvt u fmt f) := by
  refine framed_of_completes rfl ?_
  unfold opOf opVcvt
  by_cases h12 : fmt = 12
  · exact vecOp_completes rfl hr rfl (fun hm => absurd h12 (bne_iff_ne.1 hm)) ⟨_, if_pos h12⟩
  · obtain ⟨h0, ht12, hm⟩ := h.resolve_left h12
    exact vecOp_completes rfl hr rfl (fun _ => hm) ⟨_, (if_neg h12).trans (if_neg (not_or.2 ⟨h0, ht12⟩))⟩

/-- vscale (R191). -/
theorem vscale_framed (h : t.tagged.fmt ≠ 0) (h' : t.tagged.fmt ≠ 12) (hm : Spec.rounding s)
    (hr : Spec.vready s (.vscale u f) u f (1024 / fmtWidth t.tagged.fmt.toNat) t o {}) : Spec.framed s (.vscale u f) := by
  obtain ⟨-, -, -, ht, -⟩ := id hr
  have h0 : t.tagged.fmt.toNat ≠ 0 := fun e => h (BitVec.eq_of_toNat_eq e)
  have hrange : s.tRange f = 1024 / fmtWidth t.tagged.fmt.toNat := by
    rw [State.tRange, portTag_of_readT ht, rangeOf_typed h0]
  refine framed_of_completes rfl ?_
  unfold opOf opVscale
  exact vecOp_completes rfl hr hrange (fun _ => hm) ⟨_, if_neg (not_or.2 ⟨h, h'⟩)⟩

/-- vtag (R192). -/
theorem vtag_framed (h : o.word.toNat % 16 ≤ 12)
    (hr : Spec.vready s (.vtag u f) u f (1024 / fmtWidth (o.word.toNat % 16)) t o {}) : Spec.framed s (.vtag u f) := by
  obtain ⟨-, -, -, -, ho, -⟩ := id hr
  have hn : s.newCode u f = some (o.word.toNat % 16) := newCode_of_readO (ho (by intro hs; cases hs))
  have hcode : field (s.vargs (.vtag u f) f t o {}).os 0 4 = o.word.toNat % 16 := by
    show (o.word.extractLsb' 0 4).toNat = _
    simp [BitVec.extractLsb'_toNat]
  refine framed_of_completes rfl ?_
  unfold opOf opVtag
  exact vecOp_completes rfl hr (by rw [hn]) (fun hm => by cases hm) ⟨_, if_neg (by rw [hcode]; omega)⟩

end

/-! Tile updates and sequencer operations (R232, R233, R239). -/

section
variable {s : State} {i : Instr} {f : OpT} {unit op : Nat} {l : Wide}

/-- An operation under a predicate that may act, whose action completes. -/
theorem guarded_completes {v : View} {g : Guard} {k : Nat} {act : Res State} (hv : i.view = some v) (hg : v.g = g)
    (hk : (v.slot == 3 || v.slot == 4) = false) (hc : i.check = none) (hon : Spec.on s g) (ha : s.completes act) :
    s.completes (inSlot k do s.opens i; if !s.guard g then pure s else act) := by
  subst hg
  obtain ⟨t, rfl, hf⟩ := ha
  obtain ⟨-, hguard, -⟩ := id hon
  refine ⟨t, ?_, hf⟩
  simp only [State.opens_of_on hc hv hk hon, hguard]
  rfl

theorem mxOp_completes {act : Lanes → Res State} (hv : i.view = some (.ofT unit op f)) (hr : Spec.mready s i f l)
    (ha : s.completes (act l.data)) : s.completes (s.mxOp i f act) := by
  obtain ⟨hc, hon, hl⟩ := hr
  rw [State.mxOp, hl]
  exact guarded_completes hv rfl rfl hc hon ha

theorem tsOp_completes {act : Ts → Res State} (hv : i.view = some (.ofT unit op f)) (hr : Spec.tready s i f)
    (ha : s.completes (act (s.seqr s.cur.core))) : s.completes (s.tsOp i f act) := by
  obtain ⟨hc, hon, hx⟩ := hr
  have hfree : ((s.seqr s.cur.core).run && (s.seqr s.cur.core).owner != s.cid) = false := by
    rcases hx with hx | hx
    all_goals simp [hx]
  simp only [State.tsOp, hfree, Bool.false_eq_true, if_false]
  exact guarded_completes hv rfl rfl hc hon ha

/-- Of two operations in a row the first of which succeeds, the second remains. -/
theorem bind_of_ok {α β : Type} (a : α) (g : α → Res β) : (Except.ok a >>= g : Res β) = g a := rfl

theorem completes_ok {t : State} (h : s.framesAs t) : s.completes (pure t) := ⟨t, rfl, h⟩

/-- A valid or null handle in an unpoisoned register may be used. -/
theorem useHandle_valid_or_null {n : Nat} {ea : Handle → Nat} (h : (s.handle n).st = .valid ∨ (s.handle n).st = .null)
    (hi : Spec.held s n) : s.useHandle n ea = .ok (s.handle n) := by
  have hheld : (if n = 15 then .ok () else s.intact (.h n) : Res Unit) = .ok () := by
    split
    · rfl
    · exact hi.resolve_left ‹_›
  have hready (a : Word) : s.handleReady n (s.handle n) a = .ok () := by
    rcases h with h | h
    all_goals simp only [State.handleReady, h]
  simp only [State.useHandle, hheld, hready]
  rfl

theorem tagFmt_eq (t : BitVec 10) : tagFmt t = t.toNat % 16 := by
  simp [tagFmt, field, BitVec.extractLsb'_toNat]

theorem tagBias_eq (t : BitVec 10) : tagBias t = Spec.tagB t := by
  have hf : field t 4 6 = t.toNat / 16 := by
    have := t.isLt
    rw [field, BitVec.extractLsb'_toNat, Nat.shiftRight_eq_div_pow]
    omega
  have hlt : t.toNat / 16 < 64 := by omega
  simp only [tagBias, Spec.tagB, hf, signed, Int.bmod]
  split_ifs
  all_goals omega

/-- The tags of a row and of its tile that macc accepts (R232). -/
theorem maccFormat_ok {tag : BitVec 10} {v : Wide}
    (h : (v.fmt = 9 ∧ tag.toNat % 16 ≠ 5) ∨
      (v.fmt = 5 ∧ tag.toNat % 16 ≠ 9 ∧ (tag.toNat % 16 = 5 → Spec.tagB tag = v.bias.toInt)) ∨ v.fmt = 0) :
    ∃ b, maccFormat tag v = .ok b := by
  simp only [maccFormat, tagFmt_eq, tagBias_eq]
  rcases h with ⟨h9, hk⟩ | ⟨h5, hk, hb⟩ | h0
  · exact ⟨true, by simp [h9, hk]⟩
  · exact ⟨false, by simp [h5, hk]; tauto⟩
  · exact ⟨tag.toNat % 16 == 9, by simp [h0]⟩

/-- macc (R232). -/
theorem macc_framed {t : Src} (hr : Spec.mready s (.macc f) f l) (ht : s.readT f.t = .ok t)
    (h : ∃ b, maccFormat (s.tile s.cur.core f.acc.toNat).tag t.wide = .ok b) : Spec.framed s (.macc f) := by
  obtain ⟨b, hb⟩ := h
  refine framed_of_completes rfl ?_
  unfold opOf opMacc
  refine mxOp_completes rfl hr ?_
  simp only [ht, hb, bind_of_ok]
  exact completes_ok (State.framesAs_addRel ..)

/-- mrel (R233). -/
theorem mrel_framed (hr : Spec.mready s (.mrel f) f l) : Spec.framed s (.mrel f) := by
  refine framed_of_completes rfl ?_
  unfold opOf opMrel
  exact mxOp_completes rfl hr (completes_ok (State.framesAs_addRel ..))

/-- tsload (R239). -/
theorem tsload_framed {t : Src} (hr : Spec.tready s (.tsload f) f) (ht : s.readT f.t = .ok t)
    (hrun : (s.seqr s.cur.core).run = false) : Spec.framed s (.tsload f) := by
  refine framed_of_completes rfl ?_
  unfold opOf opTsload
  refine tsOp_completes rfl hr ?_
  simp only [ht, hrun]
  exact completes_ok (State.framesAs_addRel ..)

/-- tsrun (R239). -/
theorem tsrun_framed {t : Src} (hr : Spec.tready s (.tsrun f) f) (ht : s.readT f.t = .ok t) (hl : s.readLatch 28 = .ok l)
    (hh : Spec.held s (mxHnd l.data)) (hm : Spec.rounding s)
    (hst : (s.handle (mxHnd l.data)).st = .valid ∨ (s.handle (mxHnd l.data)).st = .null) : Spec.framed s (.tsrun f) := by
  have hm : s.intact (.sp 15) = .ok () := hm
  refine framed_of_completes rfl ?_
  unfold opOf opTsrun
  refine tsOp_completes rfl hr ?_
  simp only [ht, hl, useHandle_valid_or_null hst hh, hm, bind_of_ok]
  exact completes_ok (State.framesAs_addRel ..)

/-- tsstop (R239). -/
theorem tsstop_framed (hr : Spec.tready s (.tsstop f) f) : Spec.framed s (.tsstop f) := by
  refine framed_of_completes rfl ?_
  unfold opOf opTsstop
  refine tsOp_completes rfl hr (completes_ok ?_)
  split
  · exact State.framesAs_setSeqr ..
  · exact State.framesAs_refl s

/-- tsstat (R239). -/
theorem tsstat_framed (hr : Spec.tready s (.tsstat f) f) : Spec.framed s (.tsstat f) := by
  refine framed_of_completes rfl ?_
  unfold opOf opTsstat
  exact tsOp_completes rfl hr (completes_ok (State.framesAs_land ..))

/-- The handle field of a descriptor (R216). -/
theorem mxHnd_eq (d : Lanes) : mxHnd d = d.toNat / 2 ^ 114 % 16 := by
  rw [mxHnd, field, BitVec.extractLsb'_toNat, Nat.shiftRight_eq_div_pow]

end

/-- The frame of the functions, the conversions, the tile updates and the sequencer operations. -/
theorem functionUpdateAndSequencerFrame : Spec.FunctionUpdateAndSequencerFrame := by
  intro s
  refine ⟨fun u f t o => ⟨fun h h' hm => functions_framed h h' hm, fun fmt => vcvt_framed, vscale_framed, vtag_framed⟩,
    fun f l t => ⟨fun hr ht h => macc_framed hr ht (maccFormat_ok h), mrel_framed, tsload_framed,
      fun hr ht hl hh hm hst => ?_, tsstop_framed, tsstat_framed⟩⟩
  rw [← mxHnd_eq] at hh hst
  exact tsrun_framed hr ht hl hh hm hst

/-- Settles O5: the scalar units by the outcomes of their shared operations, the others by what each puts in flight, in the
release list or in the sequencer. -/
theorem operationFrames : Obligations.OperationFrames := ⟨scalarOperationFrame, functionUpdateAndSequencerFrame⟩

end Sys2Proof.Machine
end

section
/-! The state right after reset (R140, R294, R320, R418, R445). -/

namespace Sys2Proof

open Machine

/-- The hub's registers at reset: RTOUT, SWCTL and PSCTL, the others 0. -/
theorem hubReg_reset (off : Nat) :
    State.reset.hubReg off = if off = 0x8 then 50 else if off = 0x3800 then 900 else if off = 0xC000 then 0xFF else 0 := by
  rw [State.hubReg, State.reset]
  simp only [Tab.get, eq_comm]

/-- Settles O59: no context, core or die is listed at reset, so each reads as its default; the hub's listed registers are three. -/
theorem resetState : Obligations.ResetState := by
  refine ⟨rfl, rfl, rfl, rfl, rfl, rfl, hubReg_reset, fun i n => ⟨rfl, ?bank⟩, fun k n => ?core, fun t => ?hub, fun _ => rfl,
    rfl, rfl, rfl, fun _ => rfl, fun d => ?die⟩
  case bank =>
    refine ⟨ite_self _, rfl, fun hn => ⟨?_, if_neg hn⟩, rfl, rfl, rfl, rfl, fun _ => ⟨rfl, rfl⟩⟩
    exact Bool.or_eq_false_iff.2 ⟨beq_eq_false_iff_ne.2 hn, rfl⟩
  case core =>
    exact ⟨rfl, rfl, rfl, rfl, rfl, rfl, rfl, rfl, rfl, rfl, rfl, rfl, rfl, rfl, rfl, rfl⟩
  case hub =>
    exact ⟨rfl, rfl, rfl, ite_self _, rfl, rfl⟩
  case die =>
    rw [show State.reset.die d = {} from rfl]
    exact ⟨by decide, by decide, by decide, by decide, by decide, fun _ => rfl, fun _ => rfl, rfl, rfl, rfl⟩

end Sys2Proof
end

section
/-! Address formation (R123): its faults in their order, and what an access that its handle allows is given. -/

namespace Sys2Proof.Machine

/-- Address formation with its checks as R123 lists them. -/
theorem formAddr_eq (h : Handle) (off : Word) (f : OpM) (unit n a : Nat) (rd wr spad rem atom : Bool) :
    let e := Spec.ea h off f unit
    formAddr h off (dispOf f) unit n a rd wr spad rem atom =
      if h.st = .null then raiseAt 6 1 e
      else if h.st = .pending ∨ h.st = .revoked then blockAt .handle
      else if spad = true ∧ h.ps ≠ 15 then raiseAt 8 3 e
      else if h.ps = 14 ∧ rem = false then raiseAt 8 4 e
      else if h.ps = 15 ∧ (rem = true ∨ atom = true) then raiseAt 8 3 e
      else if e < Spec.pageOf h ∨ Spec.pageOf h + pageBytes h.ps.toNat < e + n then raiseAt 8 1 e
      else if e % a ≠ 0 then raiseAt 8 2 e
      else if rd = true ∧ h.rd = false then raiseAt 7 1 e
      else if wr = true ∧ h.wr = false then raiseAt 7 2 e
      else .ok (e, Spec.place h e) := by
  rw [formAddr]
  simp only [Bool.not_eq_true']
  rfl

/-- Settles O14: the checks of address formation are those of the chain, one for one. -/
theorem addressFaultsInOrder : Obligations.AddressFaultsInOrder := by
  unfold Obligations.AddressFaultsInOrder
  intro h off f unit n a rd wr spad rem atom e r fault
  have hr := formAddr_eq h off f unit n a rd wr spad rem atom
  simp only [apply_ite (Eq _)] at hr
  exact hr

end Sys2Proof.Machine
end

section
/-! Operations under a predicate (R61, R97), and addresses that a handle allows (R115, R123). -/

namespace Sys2Proof.Machine

section
variable {s : State} {i : Instr} {v : View}

/-- Under a true guard an operation is its action. -/
theorem guarded_acts {g : Guard} {k : Nat} {act : Res State} (hv : i.view = some v) (hg : v.g = g)
    (hk : (v.slot == 3 || v.slot == 4) = false) (hc : i.check = none) (hon : Spec.on s g) :
    (inSlot k do s.opens i; if !s.guard g then pure s else act) = inSlot k act := by
  subst hg
  obtain ⟨-, hguard, -⟩ := id hon
  simp only [State.opens_of_on hc hv hk hon, hguard]
  rfl

/-- The same of an operation that counts in a limit of its pitch (log 36): one more is counted. -/
theorem limited_acts {g : Guard} {k kind max unit : Nat} {act : State → Res State} (hv : i.view = some v) (hg : v.g = g)
    (hk : (v.slot == 3 || v.slot == 4) = false) (hc : i.check = none) (hon : Spec.on s g)
    (hroom : Tab.get 0 s.me.counts kind < max) :
    (inSlot k do s.opens i; let s0 ← s.limit kind max unit; if !s.guard g then pure s0 else act s0) =
      inSlot k (act (Spec.counted s kind)) := by
  subst hg
  obtain ⟨-, hguard, -⟩ := id hon
  simp only [State.opens_of_on hc hv hk hon, State.limit, if_neg (Nat.not_le.2 hroom), hguard]
  rfl

/-- An operation of ls with a true guard is its action. -/
theorem lsOp_acts {f : OpM} {op : Nat} {act : Res State} (hv : i.view = some (.ofM 8 op f)) (hc : i.check = none)
    (hon : Spec.on s f.g) : s.lsOp i f act = inSlot 2 act := guarded_acts hv rfl rfl hc hon

/-- A slot operation that blocks or traps stops its context. -/
theorem exec_of_opOf_error {x : Stop} (hv : i.view = some v) (h : opOf i s = .error x) : exec i s = .next (s.stop x) := by
  rw [exec_eq_settle_opOf i s (by rw [hv]; rfl), settle_error h]

end

section
variable {h : Handle} {off : Word} {f : OpM} {unit n a : Nat} {rd wr : Bool}

/-- An access that its handle allows is given its address: of the scratchpad alone where that is asked for, and not of it for an
atomic (R132, R133). -/
theorem formAddr_of_allows {spad atom : Bool} (ha : Spec.allows h (Spec.ea h off f unit) n a rd wr)
    (hs : spad = true → h.ps = 15) (hat : atom = true → h.ps ≠ 15) :
    formAddr h off (dispOf f) unit n a rd wr spad false atom = .ok (Spec.ea h off f unit, Spec.place h (Spec.ea h off f unit)) := by
  obtain ⟨hst, hps, hlo, hhi, hal, hrd, hwr⟩ := ha
  rw [formAddr_eq, if_neg (by simp [hst]), if_neg (by simp [hst]), if_neg fun x => x.2 (hs x.1), if_neg fun x => hps x.1,
    if_neg fun x => hat (x.2.resolve_left Bool.false_ne_true) x.1, if_neg (not_or.2 ⟨hlo.not_gt, hhi.not_gt⟩),
    if_neg (not_not.2 hal), if_neg, if_neg]
  · rintro ⟨hw, hf⟩
    exact absurd (hwr hw) (by simp [hf])
  · rintro ⟨hr, hf⟩
    exact absurd (hrd hr) (by simp [hf])

/-- Chunks that their handle allows are all given their addresses (R126). -/
theorem formChunks_of_allows {offs : List Word} (ha : ∀ o ∈ offs, Spec.allows h (Spec.ea h o f unit) n a rd wr) :
    formChunks h (dispOf f) unit n a rd wr offs =
      .ok (offs.map fun o => (Spec.ea h o f unit, Spec.place h (Spec.ea h o f unit))) := by
  induction offs with
  | nil => rfl
  | cons o r ih =>
    obtain ⟨ho, hr⟩ := List.forall_mem_cons.1 ha
    simp only [formChunks, formAddr_of_allows (spad := false) (atom := false) ho nofun nofun, ih hr, bind_of_ok]
    rfl

end

/-- A check that every element of a list passes. -/
theorem forM_ok {α : Type} {l : List α} {g : α → Res Unit} (h : ∀ x ∈ l, g x = .ok ()) : l.forM g = .ok () := by
  induction l with
  | nil => rfl
  | cons x r ih =>
    obtain ⟨hx, hr⟩ := List.forall_mem_cons.1 h
    show (g x >>= fun _ => r.forM g) = _
    rw [hx, bind_of_ok, ih hr]

end Sys2Proof.Machine
end

section
/-! Loads issue (R124 to R127, R131). -/

namespace Sys2Proof.Machine

section
variable {s : State} {nw : Bool} {f : OpM}

/-- An access to full lines of the scratchpad goes on (R131). -/
theorem needFull_ok {off n : Nat} (hn : 0 < n) (h : Spec.linesFull s off n) : s.needFull off n = .ok () := by
  refine if_pos (List.all_eq_true.2 fun i hi => h _ (Nat.le_add_right ..) ?_)
  have hi := List.mem_range.1 hi
  omega

/-- A load of chunks that its handle allows, from full lines where it asks for them, issues. -/
theorem loadOp_of_allows {unit n a : Nat} {offs : List Word} (form : LoadForm) (latch : Nat) (wb : Option Reg)
    (hn : 0 < n)
    (hh : Spec.held s f.h.toNat) (hne : offs ≠ [])
    (ha : ∀ o ∈ offs, Spec.allows (s.handle f.h.toNat) (Spec.ea (s.handle f.h.toNat) o f unit) n a true false ∧
      ((s.handle f.h.toNat).ps = 15 → nw = false → Spec.linesFull s (Spec.ea (s.handle f.h.toNat) o f unit) n)) :
    s.loadOp nw f unit n a offs form latch wb = .ok (s.issueLoad (s.handle f.h.toNat)
      (offs.map fun o => (Spec.ea (s.handle f.h.toNat) o f unit, Spec.place (s.handle f.h.toNat)
        (Spec.ea (s.handle f.h.toNat) o f unit))) n form latch wb) := by
  obtain ⟨o, ho⟩ := List.exists_mem_of_ne_nil _ hne
  have hst : (s.handle f.h.toNat).st = .valid := (ha o ho).1.1
  rw [State.loadOp, useHandle_valid hst hh, bind_of_ok, formChunks_of_allows fun o ho => (ha o ho).1, bind_of_ok]
  split
  · rename_i hfull
    obtain ⟨hps, hnw⟩ := hfull
    rw [forM_ok]
    · rfl
    · simp only [List.forall_mem_map, Spec.place, if_pos hps]
      exact fun o ho => needFull_ok hn ((ha o ho).2 hps (by simpa using hnw))
  · rfl

end

theorem stridedOffs_ne_nil (off stride : Word) : stridedOffs off stride ≠ [] := by simp [stridedOffs]
theorem indexedOffs_ne_nil (x : Lanes) : indexedOffs x ≠ [] := by simp [indexedOffs]

/-- A stride that is a multiple of 16 passes for a valid handle (R126). -/
theorem strideOk_ok {s : State} {f : OpM} {off stride : Word} (hst : (s.handle f.h.toNat).st = .valid)
    (hh : Spec.held s f.h.toNat) (hs : stride.toNat % 16 = 0) : s.strideOk f off stride = .ok () := by
  have hnull : (s.handle f.h.toNat).st ≠ .null := by rw [hst]; nofun
  rw [State.strideOk, useHandle_valid hst hh, bind_of_ok, if_neg hnull, if_pos hs]
  rfl

/-- A load of R124 is the model's scalar load of its bytes. -/
theorem mem_loads {e : (Bool → OpM → Instr) × Nat × Bool} (he : e ∈ Spec.loads) : 0 < e.2.1 ∧ ∀ nw f,
    (∃ op, (e.1 nw f).view = some (.ofM 8 op f)) ∧
    ∀ s, opOf (e.1 nw f) s = s.scalarLoad (e.1 nw f) nw f e.2.1 e.2.2 := by
  revert e
  simp only [Spec.loads, List.forall_mem_cons, List.not_mem_nil, false_implies, implies_true, and_true]
  refine ⟨?ldb, ?ldh, ?ldw, ?ldd, ?ldbn, ?ldhn, ?ldwn⟩
  all_goals exact ⟨by decide, fun nw f => ⟨⟨_, rfl⟩, fun _ => rfl⟩⟩

/-- R124, R127: a scalar load is the load of one chunk at T. -/
theorem scalarLoadIssues : Spec.ScalarLoadIssues := by
  intro nw f s t e he h a hc hon ht hh ha hfull
  obtain ⟨hn, hop⟩ := mem_loads he
  obtain ⟨⟨op, hv⟩, hop⟩ := hop nw f
  refine exec_of_opOf hv ((hop s).trans ?_)
  rw [State.scalarLoad, lsOp_acts hv hc hon, ht, bind_of_ok,
    loadOp_of_allows _ _ _ hn hh (List.cons_ne_nil _ _) (List.forall_mem_singleton.2 ⟨ha, hfull⟩)]
  rfl

/-- R125, R126: vld is the load of one chunk at T; vlds and vldx are loads of eight. -/
theorem vectorLoadIssues : Spec.VectorLoadIssues := by
  intro nw f s t hon ht hh h ok go
  refine ⟨?vld, ?vlds, ?vldx⟩
  case vld =>
    rintro fmt n rfl hc hok
    have hn : 0 < vecBytes fmt := by unfold vecBytes; split <;> decide
    refine exec_of_opOf (v := .ofM 8 _ f) rfl ((lsOp_acts rfl hc hon).trans ?_)
    rw [ht, bind_of_ok]
    exact congrArg (inSlot 2) (loadOp_of_allows _ _ _ hn hh (List.cons_ne_nil _ _) hok)
  case vlds =>
    intro l hl stride offs hc hstride hok
    have hne : offs ≠ [] := stridedOffs_ne_nil t.word stride
    obtain ⟨o, ho⟩ := List.exists_mem_of_ne_nil _ hne
    have hst : h.st = .valid := (hok o ho).1.1
    refine exec_of_opOf (v := .ofM 8 _ f) rfl ((lsOp_acts rfl hc hon).trans ?_)
    rw [ht, bind_of_ok, hl, bind_of_ok, strideOk_ok (stride := l.hi) hst hh hstride, bind_of_ok]
    exact congrArg (inSlot 2) (loadOp_of_allows _ _ _ (by decide) hh hne hok)
  case vldx =>
    rintro offs rfl hc hok
    refine exec_of_opOf (v := .ofM 8 _ f) rfl ((lsOp_acts rfl hc hon).trans ?_)
    rw [ht, bind_of_ok]
    exact congrArg (inSlot 2) (loadOp_of_allows _ _ _ (by decide) hh (indexedOffs_ne_nil _) hok)

/-- Settles O11: the scalar loads and the vector loads. -/
theorem loadsIssue : Obligations.LoadsIssue := ⟨scalarLoadIssues, vectorLoadIssues⟩

end Sys2Proof.Machine
end

section
/-! The value of loaded bytes (R1, R124 to R126). -/

namespace Sys2Proof.Machine

/-- The number of a list of bytes, by elements of 8 bits (R1). -/
theorem natOfBytes_eq_ofElems (l : List Byte) : natOfBytes l = ofElems 8 (l.map BitVec.toNat) := by
  induction l with
  | nil => rfl
  | cons b r ih => rw [natOfBytes, ih, List.map_cons, ofElems, Nat.mod_eq_of_lt b.isLt]; rfl

/-- Bit j of the number of a list of bytes. -/
theorem testBit_natOfBytes (l : List Byte) (j : Nat) : (natOfBytes l).testBit j = (l.getD (j / 8) 0).getLsbD (j % 8) := by
  rw [natOfBytes_eq_ofElems, testBit_ofElems (by decide)]
  rw [show (0 : Nat) = BitVec.toNat (0 : Byte) from rfl, List.getD_map]
  rfl

/-- The bytes of a value, read as a number, are its low bits. -/
theorem natOfBytes_bytesOf {w : Nat} (x : BitVec w) (n : Nat) : natOfBytes (bytesOf x n) = x.toNat % 2 ^ (8 * n) := by
  refine Nat.eq_of_testBit_eq fun j => ?_
  rw [testBit_natOfBytes, Nat.testBit_mod_two_pow, bytesOf]
  by_cases hj : j < 8 * n
  · have hd : j / 8 < n := by omega
    have hb : 8 * (j / 8) + j % 8 = j := by omega
    rw [List.getD_eq_getElem _ _ (by simpa using hd), List.getElem_map, List.getElem_range, BitVec.getLsbD_extractLsb', hb,
      decide_eq_true hj, decide_eq_true (Nat.mod_lt j (by decide))]
    rfl
  · have hd : n ≤ j / 8 := by omega
    rw [List.getD_eq_default _ _ (by simpa using hd), decide_eq_false hj]
    simp

/-- A value of n bytes is the value of its bytes. -/
theorem ofBytes_bytesOf {n : Nat} (x : BitVec (8 * n)) : ofBytes (8 * n) (bytesOf x n) = x := by
  rw [ofBytes, natOfBytes_bytesOf, Nat.mod_eq_of_lt x.isLt, BitVec.ofNat_toNat, BitVec.setWidth_eq]

/-- A wide value is given by its elements of 8 bits. -/
theorem lanesOf_elem (x : Lanes) : lanesOf 8 ((List.range 128).map (elem 8 x)) = x := by
  ext j hj
  have hd : j / 8 < 128 := by omega
  have hb : 8 * (j / 8) + j % 8 = j := by omega
  rw [← BitVec.getLsbD_eq_getElem, getLsbD_lanesOf (by decide) _ hj, List.getD_eq_getElem _ _ (by simpa using hd),
    List.getElem_map, List.getElem_range, elem, BitVec.testBit_toNat, BitVec.getLsbD_extractLsb', hb,
    decide_eq_true (Nat.mod_lt j (by decide)), ← BitVec.getLsbD_eq_getElem]
  rfl

/-- Rows of n values in a row are the m * n values in order. -/
theorem flatten_map_range {α : Type} (f : Nat → α) (m n : Nat) :
    ((List.range m).map fun i => (List.range n).map fun j => f (n * i + j)).flatten = (List.range (n * m)).map f := by
  induction m with
  | zero => simp
  | succ m ih =>
    rw [List.range_succ, List.map_append, List.flatten_append, ih, Nat.mul_succ, List.range_add, List.map_append, List.map_map]
    simp

/-- The g-th of chunks of n values each is found in their row at n * g. -/
theorem take_drop_flatten {α : Type} {n : Nat} {l : List (List α)} (h : ∀ x ∈ l, x.length = n) {g : Nat} (hg : g < l.length) :
    (l.flatten.drop (n * g)).take n = l[g] := by
  induction l generalizing g with
  | nil => cases hg
  | cons x r ih =>
    obtain ⟨hx, hr⟩ := List.forall_mem_cons.1 h
    cases g with
    | zero => simp [← hx]
    | succ g =>
      rw [List.flatten_cons, Nat.mul_succ, Nat.add_comm, ← List.drop_drop, ← hx, List.drop_left, hx]
      exact ih hr (Nat.lt_of_succ_lt_succ hg)

/-- The eight chunks of a wide value are its 128 bytes in order (R126). -/
theorem eight_flatten (x : Lanes) : (Spec.eight x).flatten = bytesOf x 128 := by
  have hf : Spec.eight x = (List.range 8).map fun i => (List.range 16).map fun j => x.extractLsb' (8 * (16 * i + j)) 8 := by
    simp only [Spec.eight, Nat.mul_add, ← Nat.mul_assoc, Nat.reduceMul]
  rw [hf, flatten_map_range fun k => x.extractLsb' (8 * k) 8]
  rfl

/-! Packing of t6 (R125). -/

/-- Four elements of t6, one above the other. -/
def t6Word (x : Lanes) (g : Nat) : Nat :=
  (List.range 4).foldl (fun a j => a + elem 8 x (4 * g + j) % 64 * 2 ^ (6 * j)) 0

/-- Element j of such a word. -/
theorem t6Word_elem (x : Lanes) (g : Nat) {j : Nat} (hj : j < 4) :
    t6Word x g % 2 ^ 24 / 2 ^ (6 * j) % 64 = elem 8 x (4 * g + j) % 64 := by
  have hw : t6Word x g = elem 8 x (4 * g + 0) % 64 * 2 ^ (6 * 0) + elem 8 x (4 * g + 1) % 64 * 2 ^ (6 * 1) +
      elem 8 x (4 * g + 2) % 64 * 2 ^ (6 * 2) + elem 8 x (4 * g + 3) % 64 * 2 ^ (6 * 3) := by
    simp [t6Word, List.range, List.range.loop]
  rw [hw]
  interval_cases j
  all_goals omega

/-- The three bytes of the g-th word of a packed register. -/
theorem packT6_word (x : Lanes) {g : Nat} (hg : g < 32) :
    natOfBytes (((packT6 x).drop (3 * g)).take 3) = t6Word x g % 2 ^ 24 := by
  have hp : packT6 x = ((List.range 32).map fun g => bytesOf (BitVec.ofNat 24 (t6Word x g)) 3).flatten := rfl
  rw [hp, take_drop_flatten (by simp [bytesOf]) (by simpa using hg), List.getElem_map, List.getElem_range, natOfBytes_bytesOf,
    BitVec.toNat_ofNat, Nat.mod_mod]

/-- A register packed as t6 is unpacked to itself, where its elements are elements of t6 (R125). -/
theorem unpackT6_packT6 {x : Lanes} (h : ∀ i < 128, elem 8 x i < 64) : unpackT6 (packT6 x) = x := by
  refine Eq.trans ?_ (lanesOf_elem x)
  refine congrArg (lanesOf 8) (List.map_congr_left fun i hi => ?_)
  have hi := List.mem_range.1 hi
  have hs : 4 * (i / 4) + i % 4 = i := by omega
  rw [packT6_word x (by omega), t6Word_elem x _ (Nat.mod_lt i (by decide)), hs, Nat.mod_eq_of_lt (h i hi)]

/-! The obligation on loaded values. -/

/-- The signed reading of n bits is the residue about 0. -/
theorem signed_eq_bmod {n : Nat} (hn : 0 < n) (x : Nat) : signed n x = Int.bmod x (2 ^ n) := by
  obtain ⟨k, rfl⟩ : ∃ k, n = k + 1 := ⟨n - 1, by omega⟩
  have hp : 2 ^ (k + 1) = 2 * 2 ^ k := by rw [Nat.pow_succ, Nat.mul_comm]
  simp only [signed, Int.bmod, Nat.add_sub_cancel, hp]
  split_ifs
  all_goals omega

/-- A scalar result as a word. -/
theorem value_scalar_lo (n : Nat) (sext : Bool) (l : List Byte) : ((LoadForm.scalar n sext).value l).lo =
    BitVec.ofInt 64 (if sext then signed (8 * n) (natOfBytes l) else natOfBytes l) :=
  setWidth_setWidth_1024 _ (by decide)

/-- Settles O12: the bits of each form's value. -/
theorem loadedBytesGiveTheValue : Obligations.LoadedBytesGiveTheValue := by
  refine ⟨fun n l hn _ => ⟨?_, ?_⟩, fun fmt l hf => ?_, fun x hx => ?_, fun x => ?_⟩
  · have hpos : 0 < 8 * n := by
      simp only [List.mem_cons, List.not_mem_nil, or_false] at hn
      omega
    rw [value_scalar_lo, if_pos rfl, signed_eq_bmod hpos]
    rfl
  · rw [value_scalar_lo]
    exact BitVec.ofInt_natCast 64 _
  · rw [LoadForm.value, if_neg hf]
  · rw [LoadForm.value, if_pos rfl, unpackT6_packT6 hx]
  · rw [LoadForm.value, eight_flatten, ofBytes_bytesOf (n := 128)]

end Sys2Proof.Machine
end

section
/-! Stores wait for the release (R124 to R128, R220). -/

namespace Sys2Proof.Machine

section
variable {s : State} {f : OpM}

/-- A store or full/empty action on bytes that no push holds locked goes on (R220). -/
theorem lockCheck_ok {off n : Nat} (store : Bool) (h : Spec.unlocked s off n) : s.lockCheck off n store = .ok () := by
  have hl : (s.myCore.mops.filter fun m => m.touches off n) = [] :=
    List.filter_eq_nil_iff.2 fun m hm => by simp [h m hm]
  simp only [State.lockCheck, hl, List.any_nil, Bool.and_false, Bool.false_eq_true, if_false, List.isEmpty_nil, if_true]

/-- A store of chunks that its handle allows, on bytes without a lock, waits in the release list with the places it is for. -/
theorem storeOp_of_allows {unit n a : Nat} {offs : List Word} (data : List (List Byte)) (hh : Spec.held s f.h.toNat)
    (hne : offs ≠ [])
    (ha : ∀ o ∈ offs, Spec.allows (s.handle f.h.toNat) (Spec.ea (s.handle f.h.toNat) o f unit) n a false true ∧
      ((s.handle f.h.toNat).ps = 15 → Spec.unlocked s (Spec.ea (s.handle f.h.toNat) o f unit) n)) :
    s.storeOp f unit n a offs data = .ok (s.addRel 0 8 (Spec.gated s (s.handle f.h.toNat) f unit offs data)) := by
  obtain ⟨o, ho⟩ := List.exists_mem_of_ne_nil _ hne
  have hst : (s.handle f.h.toNat).st = .valid := (ha o ho).1.1
  have hgated : Spec.gated s (s.handle f.h.toNat) f unit offs data = .store
      { h := s.handle f.h.toNat, poison := false, slot := s.coreSlot s.cur.core, gen := s.coreGen s.cur.core, marked := false,
        chunks := ((offs.map fun o => (Spec.ea (s.handle f.h.toNat) o f unit, Spec.place (s.handle f.h.toNat)
          (Spec.ea (s.handle f.h.toNat) o f unit))).zip data).map fun e => (e.1.1, e.1.2, e.2) } := by
    rw [Spec.gated, List.zip_map_left, List.map_map]
    rfl
  rw [State.storeOp, useHandle_valid hst hh, bind_of_ok, formChunks_of_allows fun o ho => (ha o ho).1, bind_of_ok, hgated]
  split
  · rename_i hps
    rw [forM_ok]
    · rfl
    · simp only [List.forall_mem_map, Spec.place, if_pos hps]
      exact fun o ho => lockCheck_ok true ((ha o ho).2 hps)
  · rfl

/-- An entry of the release list and a commit change no byte of memory. -/
theorem addRel_commit_sameMemory (s : State) (tok unit : Nat) (b : RelBody) :
    Spec.sameMemory s (s.addRel tok unit b).commit :=
  (State.storesAs_of_cores (t := (s.addRel tok unit b).commit) rfl rfl).sameMemory

/-- A store of ls whose action is a store of allowed chunks completes and changes no memory. -/
theorem store_completes {i : Instr} {op : Nat} {act : Res State} {b : RelBody} (hv : i.view = some (.ofM 8 op f))
    (hop : opOf i s = s.lsOp i f act) (hc : i.check = none) (hon : Spec.on s f.g) (ha : act = .ok (s.addRel 0 8 b)) :
    exec i s = .next (s.addRel 0 8 b).commit ∧ Spec.sameMemory s (s.addRel 0 8 b).commit :=
  ⟨exec_of_opOf hv (by rw [hop, lsOp_acts hv hc hon, ha]; rfl), addRel_commit_sameMemory ..⟩

/-- A store of R124 is the model's scalar store of its bytes. -/
theorem mem_stores {e : (OpM → Instr) × Nat} (he : e ∈ Spec.stores) (f : OpM) :
    (∃ op, (e.1 f).view = some (.ofM 8 op f)) ∧ ∀ s, opOf (e.1 f) s = s.scalarStore (e.1 f) f e.2 := by
  revert e
  simp only [Spec.stores, List.forall_mem_cons, List.not_mem_nil, false_implies, implies_true, and_true]
  refine ⟨?stb, ?sth, ?stw, ?std⟩
  all_goals exact ⟨⟨_, rfl⟩, fun _ => rfl⟩

/-- The eight chunks of a wide value, as bytes of the value (R126). -/
theorem chunks16_eq (x : Lanes) : chunks16 x = Spec.eight x := by
  refine List.map_congr_left fun i _ => List.map_congr_left fun j hj => ?_
  have hj := List.mem_range.1 hj
  ext k hk
  have hin : 8 * j + k < 128 := by omega
  simp [hin, Nat.add_assoc]

/-- Settles O13: each store is a store of chunks at the offsets of its latch. -/
theorem storeWaitsForRelease : Obligations.StoreWaitsForRelease := by
  unfold Obligations.StoreWaitsForRelease
  intro f s t l hon ht hl hh h ok off stride idx str done
  have hone (o : Word) : [o] ≠ [] := List.cons_ne_nil _ _
  refine ⟨fun e he hc hok => ?scalar, fun fmt hc hf htag hok => ?vst, fun hc htag hok => ?t6, fun hc hstride hok => ?vsts,
    fun hc hok => ?vstx⟩
  case scalar =>
    obtain ⟨⟨op, hv⟩, hop⟩ := mem_stores he f
    refine store_completes hv (hop s) hc hon ?_
    rw [ht, bind_of_ok, hl, bind_of_ok]
    exact storeOp_of_allows _ hh (hone _) hok
  case vst =>
    refine store_completes (op := _) rfl rfl hc hon ?_
    rw [ht, bind_of_ok, hl, bind_of_ok, if_neg fun x => htag.elim x.1 x.2]
    simp only [vecBytes, vecAlign, packVec, if_neg hf]
    exact storeOp_of_allows _ hh (hone _) hok
  case t6 =>
    refine store_completes (op := _) rfl rfl hc hon ?_
    rw [ht, bind_of_ok, hl, bind_of_ok, if_neg fun x => htag.elim x.1 x.2]
    exact storeOp_of_allows _ hh (hone _) hok
  case vsts =>
    have hne : str ≠ [] := stridedOffs_ne_nil off stride
    obtain ⟨o, ho⟩ := List.exists_mem_of_ne_nil _ hne
    have hst : h.st = .valid := (hok o ho).1.1
    refine store_completes (op := _) rfl rfl hc hon ?_
    rw [ht, bind_of_ok, hl, bind_of_ok, strideOk_ok (stride := l.hi) hst hh hstride, bind_of_ok, chunks16_eq]
    exact storeOp_of_allows _ hh hne hok
  case vstx =>
    refine store_completes (op := _) rfl rfl hc hon ?_
    rw [ht, bind_of_ok, hl, bind_of_ok, chunks16_eq]
    exact storeOp_of_allows _ hh (indexedOffs_ne_nil _) hok

end

end Sys2Proof.Machine
end

section
/-! Full/empty operations, ordering and cache operations (R131, R132, R137, R248 to R250). -/

namespace Sys2Proof.Machine

section
variable {s : State} {f : OpM}

/-- The line that a full/empty operation names, for a handle of the scratchpad (R132). -/
theorem feLine_of_allows {t : Src} (ht : s.readT f.t = .ok t) (hh : Spec.held s f.h.toNat)
    (hps : (s.handle f.h.toNat).ps = 15)
    (ha : Spec.allows (s.handle f.h.toNat) (Spec.ea (s.handle f.h.toNat) t.word f 128) 1 1 true false) :
    s.feLine f = .ok (Spec.ea (s.handle f.h.toNat) t.word f 128 / 128) := by
  rw [State.feLine, ht, bind_of_ok, useHandle_valid ha.1 hh, bind_of_ok,
    formAddr_of_allows (spad := true) (atom := false) ha (fun _ => hps) nofun, bind_of_ok, Spec.place, if_pos hps]
  rfl

/-- A limit of the pitch that has room counts one more. -/
theorem limit_of_room {kind max unit : Nat} (h : Tab.get 0 s.me.counts kind < max) :
    s.limit kind max unit = .ok (Spec.counted s kind) := if_neg (Nat.not_le.2 h)

/-- feclr and feset wait for the release with their line (R132, R220). -/
theorem feAct_of_line {i : Instr} {op line : Nat} (full : Bool) (hv : i.view = some (.ofM 8 op f)) (hc : i.check = none)
    (hon : Spec.on s f.g) (hl : s.feLine f = .ok line) (hu : Spec.unlocked s (128 * line) 128)
    (hroom : Tab.get 0 s.me.counts 0 < 16) :
    s.feAct i f full = .ok ((Spec.counted s 0).addRel 0 8 (.fe full line)) := by
  rw [State.feAct, lsOp_acts hv hc hon, hl, bind_of_ok, lockCheck_ok false hu, bind_of_ok, limFe, limit_of_room hroom]
  rfl

/-- A byte of 1 or 0 loads as the word 1 or 0. -/
theorem value_flag (b : Bool) : (LoadForm.scalar 1 false).value [if b then 1 else 0] = { data := if b then 1 else 0 } := by
  cases b
  · decide +kernel
  · decide +kernel

end

/-- R132: each full/empty operation on the line its handle and T name. -/
theorem fullEmptyOperations : Spec.FullEmptyOperations := by
  intro f s t hon ht hh h a line hps ha
  have hl : s.feLine f = .ok line := feLine_of_allows ht hh hps ha
  refine ⟨fun hc => ⟨fun hf => ?goesOn, fun hf => ?blocks⟩, ?acts, fun hc => ?fetst⟩
  case goesOn =>
    refine exec_of_opOf (v := .ofM 8 _ f) rfl ((lsOp_acts rfl hc hon).trans ?_)
    rw [hl, bind_of_ok, if_pos hf]
    rfl
  case blocks =>
    refine exec_of_opOf_error (v := .ofM 8 _ f) rfl ((lsOp_acts rfl hc hon).trans ?_)
    rw [hl, bind_of_ok, hf, if_neg Bool.false_ne_true]
    rfl
  case acts =>
    simp only [List.forall_mem_cons, List.not_mem_nil, false_implies, implies_true, and_true]
    refine ⟨fun hc hu hroom => ?_, fun hc hu hroom => ?_⟩
    all_goals exact exec_of_opOf (v := .ofM 8 _ f) rfl (feAct_of_line _ rfl hc hon hl hu hroom)
  case fetst =>
    refine ⟨_, exec_of_opOf (v := .ofM 8 _ f) rfl ((lsOp_acts rfl hc hon).trans (by rw [hl]; rfl)), rfl, _,
      congrArg Ctx.loads (State.modMe_me ..), rfl, ?_⟩
    exact value_flag (s.lineFull s.cur.core line)

/-- A rel counts among the fences of its pitch and waits for the release, a rel.f where no remote load is outstanding (R248,
R251). -/
theorem opRel_of_room {s : State} {sc : Scope} {f : OpM} (hc : (Instr.rel sc f).check = none) (hon : Spec.on s f.g)
    (hroom : Tab.get 0 s.me.counts 1 < 8) (hremote : sc = .f → s.me.remote = []) :
    opRel sc f s = .ok (({ Spec.counted s 1 with fresh := s.fresh + 1 } : State).addRel (s.fresh + 1) 8 (.rel sc)) := by
  have hquiet : ¬(sc = .f ∧ (!s.me.remote.isEmpty) = true) := fun x => by simp [hremote x.1] at x
  rw [opRel, limited_acts (v := .ofM 8 _ f) (g := f.g) (kind := limFence) rfl rfl rfl hc hon hroom, if_neg hquiet]
  rfl

/-- With nothing pending, no fence in the pitch and no entry on the path: acq goes on (R250). -/
theorem opAcq_quiet {s : State} {sc : Scope} {f : OpM} (hc : (Instr.acq sc f).check = none) (hon : Spec.on s f.g)
    (hrel : s.me.rel = []) (hpath : s.me.path = []) (hloads : s.me.loads = []) (hremote : s.me.remote = []) :
    opAcq sc f s = .ok (
      let s0 := s.settleMloads s.cid s.cur.seq none
      let s1 := if sc.code < 2 then s0 else s0.invalL1 s.cur.core
      if sc.code < 3 then s1 else s1.flushRdc (dieOf s.cur.core)) := by
  refine (lsOp_acts (op := _) rfl hc hon).trans ?_
  simp only [hrel, hpath, hloads, hremote]
  rfl

/-- R137, R248 to R250: rel counts and waits for the release; acq invalidates by its scope; cwb and cinv wait for the release. -/
theorem orderingAndCacheOperations : Spec.OrderingAndCacheOperations := by
  refine ⟨fun sc f s hc hon hroom hremote => ?rel, fun sc f s hc hon hrel hpath hloads hremote => ?acq,
    fun f s t hon ht hh => ?cache⟩
  case rel =>
    exact exec_of_opOf (i := .rel sc f) (v := .ofM 8 _ f) rfl (opRel_of_room hc hon hroom hremote)
  case acq =>
    refine (exec_of_opOf (i := .acq sc f) (v := .ofM 8 _ f) rfl (opAcq_quiet hc hon hrel hpath hloads hremote)).trans ?_
    cases sc
    all_goals rfl
  case cache =>
    intro h a ha
    simp only [List.forall_mem_cons, List.not_mem_nil, false_implies, implies_true, and_true]
    refine ⟨fun hc => ?_, fun hc => ?_⟩
    all_goals
      refine exec_of_opOf (v := .ofM 8 _ f) rfl ((lsOp_acts rfl hc hon).trans ?_)
      rw [ht, bind_of_ok, useHandle_valid ha.1 hh, bind_of_ok, formAddr_of_allows (spad := false) (atom := false) ha nofun nofun]
      rfl

/-- Settles O15: the full/empty operations, and the ordering and cache operations. -/
theorem fullEmptyAndOrderingOperations : Obligations.FullEmptyAndOrderingOperations :=
  ⟨fullEmptyOperations, orderingAndCacheOperations⟩

end Sys2Proof.Machine
end

section
/-! Atomics and handles (R116 to R118, R133). -/

namespace Sys2Proof.Machine

/-- An atomic of R133 is the model's atomic of its number, whose new word is the one R133 gives. -/
theorem mem_atomics {old t cmp : Word} {e : (Scope → OpM → Instr) × Nat × Option Word} (he : e ∈ Spec.atomics old t cmp) :
    (∀ sc f, (∃ op, (e.1 sc f).view = some (.ofM 10 op f)) ∧ ∀ s, opOf (e.1 sc f) s = s.atomicOp (e.1 sc f) e.2.1 sc f) ∧
    atomicNew e.2.1 old t cmp = e.2.2 := by
  revert e
  simp only [Spec.atomics, List.forall_mem_cons, List.not_mem_nil, false_implies, implies_true, and_true]
  refine ⟨⟨?_, congrArg some (add_eq_n64 old t)⟩, ⟨?_, congrArg some (and_eq_bits64 old t)⟩,
    ⟨?_, congrArg some (or_eq_bits64 old t)⟩, ⟨?_, congrArg some (xor_eq_bits64 old t)⟩, ⟨?_, rfl⟩, ⟨?_, rfl⟩,
    ⟨?_, congrArg some (max_eq_z64 old t)⟩⟩
  all_goals exact fun sc f => ⟨⟨_, rfl⟩, fun _ => rfl⟩

/-- An atomic that its handle allows counts in its pitch, makes its results pending and waits for the release (R133). -/
theorem atomicOp_of_allows {s : State} {i : Instr} {op view : Nat} {sc : Scope} {f : OpM} {t : Src} {l : Wide}
    (hv : i.view = some (.ofM 10 view f)) (hc : i.check = none) (hon : Spec.on s f.g) (ht : s.readT f.t = .ok t)
    (hl : s.readLatch 10 = .ok l) (hh : Spec.held s f.h.toNat) (hroom : Tab.get 0 s.me.counts 2 < 8)
    (hps : (s.handle f.h.toNat).ps ≠ 15)
    (ha : Spec.allows (s.handle f.h.toNat) (Spec.ea (s.handle f.h.toNat) l.lo f 8) 8 8 true true) :
    let h := s.handle f.h.toNat
    s.atomicOp i op sc f = .ok ((({ Spec.counted s 2 with fresh := s.fresh + 1 } : State).pendOn
      (.rl 7 :: (s.wbS f.w).toList) (s.fresh + 1) 10 true).addRel (s.fresh + 1) 10
      (.atomic op sc h (Spec.ea h l.lo f 8) (Spec.place h (Spec.ea h l.lo f 8)) t.word l.hi false)) := by
  intro h
  rw [State.atomicOp, limited_acts (v := .ofM 10 view f) (g := f.g) (kind := limAt) hv rfl rfl hc hon hroom, ht, bind_of_ok, hl,
    bind_of_ok, useHandle_valid ha.1 hh, bind_of_ok, formAddr_of_allows (spad := false) (atom := true) ha nofun fun _ => hps]
  rfl

/-- R133: each atomic waits with its operands, and writes what its operation gives. -/
theorem atomicOperations : Spec.AtomicOperations := by
  refine ⟨?_, fun old t cmp e he => ?_⟩
  · intro sc f s t l hon ht hl hh hroom h a hps ha e he hc
    obtain ⟨hop, -⟩ := mem_atomics he
    obtain ⟨⟨view, hv⟩, hop⟩ := hop sc f
    exact exec_of_opOf hv ((hop s).trans (atomicOp_of_allows hv hc hon ht hl hh hroom hps ha))
  · obtain ⟨-, hnew⟩ := mem_atomics he
    exact hnew

/-! Handles (R116 to R118). -/

/-- The handle's bits 127:94 at bits 63:30 (R118). -/
theorem image_high_eq (x : BitVec 128) :
    ((x.extractLsb' 94 34).setWidth 64 : Word) <<< 30 = BitVec.ofNat 64 (x.toNat / 2 ^ 94 * 2 ^ 30) := by
  have hx := x.isLt
  have hq : x.toNat / 2 ^ 94 < 2 ^ 34 := by omega
  refine BitVec.eq_of_toNat_eq ?_
  rw [BitVec.toNat_shiftLeft, BitVec.toNat_setWidth, BitVec.extractLsb'_toNat, BitVec.toNat_ofNat, Nat.shiftRight_eq_div_pow,
    Nat.shiftLeft_eq, Nat.mod_eq_of_lt hq, Nat.mod_eq_of_lt (hq.trans (by decide))]

/-- An address of 56 bits is one that a table can hold (R108). -/
theorem va_high_eq_zero {va : Word} (h : va.toNat < 2 ^ 56) : ¬va.toNat / 2 ^ 56 ≠ 0 := not_not.2 (Nat.div_eq_of_lt h)

/-- R116 to R118: xlat, hdrop and hchk. -/
theorem translateOperations : Spec.TranslateOperations := by
  refine ⟨fun f s t hc hon ht => ?xlat, fun f s hc hon => ?hdrop, fun f s hc hon hh => ?hchk⟩
  case xlat =>
    intro slot gen n
    refine ⟨fun hin hen => exec_of_opOf (i := .xlat f) rfl ?aperture, fun hin hva l hl => exec_of_opOf (i := .xlat f) rfl ?hit,
      fun hin hva hl => exec_of_opOf (i := .xlat f) rfl ?walk⟩
    all_goals
      show opXlat f s = _
      rw [opXlat, guarded_acts (v := .ofM 9 1 f) (g := f.g) rfl rfl rfl hc hon, ht, bind_of_ok]
    case aperture =>
      rw [if_pos hin, if_pos hen]
      rfl
    case hit =>
      rw [if_neg (by simp [hin]), if_neg (va_high_eq_zero hva), hl]
      rfl
    case walk =>
      rw [if_neg (by simp [hin]), if_neg (va_high_eq_zero hva), hl]
      rfl
  case hdrop =>
    refine exec_of_opOf (i := .hdrop f) (v := .ofM 9 2 f) rfl ?_
    show opHdrop f s = _
    rw [opHdrop, guarded_acts (v := .ofM 9 2 f) (g := f.g) rfl rfl rfl hc hon]
    rfl
  case hchk =>
    have hheld : (if f.h = 15 then .ok () else s.intact (.h f.h.toNat) : Res Unit) = .ok () := by
      split
      · rfl
      · rename_i hne
        exact hh.resolve_left fun e => hne (BitVec.eq_of_toNat_eq e)
    refine exec_of_opOf (i := .hchk f) (v := .ofM 9 3 f) rfl ?_
    show opHchk f s = _
    rw [opHchk, guarded_acts (v := .ofM 9 3 f) (g := f.g) rfl rfl rfl hc hon, hheld, bind_of_ok, image_high_eq]
    rfl

/-- Settles O16: the atomics, and xlat, hdrop and hchk. -/
theorem atomicAndTranslateOperations : Obligations.AtomicAndTranslateOperations := ⟨atomicOperations, translateOperations⟩

end Sys2Proof.Machine
end

section
/-! A store into a sector that the L1 holds under another KEY (R128, R135, R246, R421, R422): the sector is written back and filled
again, so bytes other than the store's change at home. -/

namespace Sys2Proof.Machine

/-- A core whose L1 holds sector 0, filled under the public KEY, with its own byte 1 of value 0xFF; KEY 5 exists for system blocks. -/
def clashState : State :=
  { cores := [(0, { l1 := [⟨0, false, [(0, { data := 0xFF00, mask := 2 })]⟩] })], hub := { keys := [(keyCode 0 16 5, 8)] } }

/-- A handle of the same page under KEY 5. -/
def clashHandle : Handle := { key := 5, st := .valid, wr := true }

/-- The sector is in the L1, but not for the store's access: not under its KEY. -/
theorem clash_not_held : (cacheSector (clashState.core 0).l1 0).isSome = true ∧
    clashState.l1Holds 0 ⟨some 0, 0, true, clashHandle.key, 0⟩ 0 = false := by decide +kernel

/-- At home, byte 1 of memory is 0 before the store of one byte at address 0, and 0xFF after it. -/
theorem clash_home (a : Acc) (ha : a = ⟨none, 0, true, 0, 0⟩) : clashState.homeRead a 1 = (0, false) ∧
    (clashState.performStore 0 0 0 (Spec.storing clashHandle 0 0 0 0 [1])).homeRead a 1 = (0xFF, false) := by
  subst ha
  decide +kernel

/-- Refutes O34: the premise asks that the L1 holds the sector under whatever KEY; a store under another writes the sector's own
bytes back first, and the home's bytes change that the store does not name. -/
theorem not_storePerformanceFrame : ¬ Obligations.StorePerformanceFrame := by
  unfold Obligations.StorePerformanceFrame
  intro h
  obtain ⟨-, hcached⟩ := h clashState 0 clashHandle 0 0 0 [1]
  obtain ⟨⟨hhome, -⟩, -⟩ := hcached (by decide) ⟨_, rfl⟩ (List.cons_ne_nil _ _) (by decide) (by decide)
  obtain ⟨hbefore, hafter⟩ := clash_home _ rfl
  have hsame : (0xFF, false) = ((0, false) : Byte × Bool) := hafter.symm.trans ((hhome _ 1).trans hbefore)
  exact absurd hsame (by decide)

end Sys2Proof.Machine
end

section
/-! Which lines the caches hold: a write at home leaves every cache alone, and a line written back stays, until it is dropped (R135
to R138). -/

namespace Sys2Proof.Machine

/-- The cores and the RDCs of the dies. -/
def State.caches (s : State) : Tab Core × (Nat → List CLine) := (s.cores, fun d => (s.die d).rdc)

section
variable (s : State)

theorem State.modDie_caches (d : Nat) {f : Die → Die} (hf : ∀ x, (f x).rdc = x.rdc) : (s.modDie d f).caches = s.caches := by
  refine Prod.ext rfl (funext fun e => ?_)
  show ((s.modDie d f).die e).rdc = (s.die e).rdc
  rw [modDie_die]
  split
  · rw [hf, ‹e = d›]
  · rfl

/-! Writes at home. -/

theorem State.l2Fill_caches (pa : Nat) (slot : Option (BitVec 4)) : (s.l2Fill pa slot).caches = s.caches := by
  unfold State.l2Fill
  split
  · rfl
  · dsimp only
    split
    · rfl
    · split
      · exact s.modDie_caches _ fun _ => rfl
      · split
        · rfl
        · exact s.modDie_caches _ fun _ => rfl

theorem State.countRef_caches (pa : Nat) : (s.countRef pa).caches = s.caches := s.modDie_caches _ fun _ => rfl

theorem State.countRead_caches (a : Acc) (pa : Nat) : (s.countRead a pa).caches = s.caches := by
  unfold State.countRead
  split
  · exact s.countRef_caches pa
  · rfl

theorem Die.startMigr_rdc (d : Die) : d.startMigr.rdc = d.rdc := by
  unfold Die.startMigr
  split
  · dsimp only
    split
    · unfold Die.logPend
      split <;> rfl
    · rfl
  · rfl

theorem Die.switchMigr_rdc (d : Die) : d.switchMigr.rdc = d.rdc := by
  unfold Die.switchMigr
  split
  · rfl
  · exact Die.startMigr_rdc _

theorem State.noteMigr_caches (pa : Nat) : (s.noteMigr pa).caches = s.caches := by
  unfold State.noteMigr
  split
  · rfl
  · split
    · rfl
    · split
      · split
        · exact s.modDie_caches _ Die.switchMigr_rdc
        · exact s.modDie_caches _ fun _ => rfl
      · exact s.modDie_caches _ fun _ => rfl

theorem State.homePuts_caches (k : Nat) (cells : List (Nat × Byte)) :
    (cells.foldl (fun x e => x.homePut k e) s).caches = s.caches :=
  foldl_keeps (v := State.caches) (fun x e => show (x.homePut k e).caches = x.caches from rfl) cells s

theorem State.homeWrite_caches (a : Acc) (cells : List (Nat × Byte)) : (s.homeWrite a cells).caches = s.caches := by
  unfold State.homeWrite
  split
  · rfl
  · dsimp only
    split
    · rfl
    · split
      · exact s.countRef_caches _
      · split
        · rfl
        · split
          · exact s.countRef_caches _
          · split
            · exact s.countRef_caches _
            · rw [noteMigr_caches, homePuts_caches]
              repeat' split
              all_goals rfl

theorem State.poisonFlag_caches (sec : Nat) : (s.poisonFlag sec).caches = s.caches := s.noteMigr_caches _

theorem State.wbHome_caches (sec : Nat) (x : Sector) : (s.wbHome sec x).caches = s.caches := by
  unfold State.wbHome
  dsimp only
  split
  · rfl
  · split
    · rw [poisonFlag_caches, homeWrite_caches, l2Fill_caches]
    · rw [homeWrite_caches, l2Fill_caches]

theorem State.wbRdcLine_caches (c : CLine) : (s.wbRdcLine c).caches = s.caches :=
  foldl_keeps (fun s e => s.wbHome_caches _ e.2) _ _

/-! A sector written back from an L1 goes to its home or to the die's RDC: the cores are as before. -/

theorem State.cores_of_caches {s t : State} (h : t.caches = s.caches) : t.cores = s.cores := congrArg Prod.fst h

theorem State.rdcLine_cores (d line : Nat) : (s.rdcLine d line).cores = s.cores := by
  unfold State.rdcLine
  dsimp only
  split
  · rfl
  · split
    · split
      · rfl
      · rename_i v _ _ _
        have h := cores_of_caches (s.wbRdcLine_caches v)
        exact h
    · rfl

theorem State.rdcRefill_cores (d : Nat) (a : Acc) (sec : Nat) : (s.rdcRefill d a sec).2.cores = s.cores := by
  refine (rdcLine_cores _ d (sec / 8)).trans (cores_of_caches ?_)
  rw [countRead_caches, l2Fill_caches]

theorem State.rdcSector_cores (d : Nat) (a : Acc) (sec : Nat) : (s.rdcSector d a sec).2.cores = s.cores := by
  unfold State.rdcSector
  split
  · split
    · rfl
    · split
      · rfl
      · exact (rdcRefill_cores _ d a sec).trans (cores_of_caches (s.wbHome_caches sec _))
  · exact s.rdcRefill_cores d a sec

theorem State.wbL1Sector_cores (core sec : Nat) (x : Sector) : (s.wbL1Sector core sec x).cores = s.cores := by
  unfold State.wbL1Sector
  dsimp only
  split
  · rfl
  · split
    · exact cores_of_caches (s.wbHome_caches sec x)
    · split
      · rfl
      · split
        · rfl
        · exact s.rdcSector_cores _ _ sec

theorem State.wbL1Sectors_cores (core line : Nat) (l : List (Nat × Sector)) :
    (l.foldl (fun x e => x.wbL1Sector core (8 * line + e.1) e.2) s).cores = s.cores :=
  foldl_keeps (v := State.cores) (fun x e => x.wbL1Sector_cores core _ e.2) l s

/-- The core of an L1 whose line has been written back: the line is clean and out of the FIFO (R136). -/
theorem State.wbL1Line_core (core line j : Nat) (h : ∃ c ∈ (s.core core).l1, c.line = line) :
    (s.wbL1Line core line).core j = if j = core then
      { s.core core with
        l1 := (s.core core).l1.map fun y => if y.line == line then y.clean else y
        fifo := (s.core core).fifo.filter (· != .line line) } else s.core j := by
  unfold State.wbL1Line
  split
  · rename_i hnone
    obtain ⟨c, hc, hl⟩ := h
    exact absurd hl (by simpa using List.find?_eq_none.1 hnone c hc)
  · rename_i c _
    have hcores := s.wbL1Sectors_cores core line c.sect
    have hcore (k : Nat) : (c.sect.foldl (fun x e => x.wbL1Sector core (8 * line + e.1) e.2) s).core k = s.core k :=
      congrArg (Tab.get ({} : Core) · k) hcores
    dsimp only
    rw [modCore_core, hcore, hcore]

/-- A line that an L1 does not hold is not written back. -/
theorem State.wbL1Line_of_absent (core line : Nat) (h : ¬∃ c ∈ (s.core core).l1, c.line = line) : s.wbL1Line core line = s := by
  have hnone : ((s.core core).l1.find? fun c => c.line == line) = none :=
    List.find?_eq_none.2 fun c hc hl => h ⟨c, hc, by simpa using hl⟩
  simp only [State.wbL1Line, hnone]

/-! The line numbers of an L1. -/

/-- The numbers of the lines a core's L1 holds. -/
def State.l1Lines (k : Nat) : List Nat := (s.core k).l1.map CLine.line

theorem State.wbL1Line_l1Lines (core line j : Nat) : (s.wbL1Line core line).l1Lines j = s.l1Lines j := by
  by_cases h : ∃ c ∈ (s.core core).l1, c.line = line
  · rw [State.l1Lines, wbL1Line_core s core line j h]
    split
    · subst_vars
      rw [List.map_map]
      refine List.map_congr_left fun c _ => ?_
      show (if c.line == line then c.clean else c).line = c.line
      split <;> rfl
    · rfl
  · rw [wbL1Line_of_absent s core line h]

theorem State.dropL1Line_l1Lines (core line j : Nat) : (s.dropL1Line core line).l1Lines j =
    if j = core then (s.l1Lines core).filter (· != line) else s.l1Lines j := by
  rw [State.dropL1Line, State.l1Lines, modCore_core]
  split
  · rw [← wbL1Line_l1Lines s core line core, State.l1Lines, List.filter_map]
    rfl
  · exact wbL1Line_l1Lines s core line j

theorem State.dropL1Lines_l1Lines (core : Nat) (l : List CLine) (j : Nat) :
    (l.foldl (fun y c => y.dropL1Line core c.line) s).l1Lines j =
      if j = core then (s.l1Lines core).filter fun n => l.all fun c => n != c.line else s.l1Lines j := by
  induction l generalizing s with
  | nil =>
    split
    · subst_vars
      simp
    · rfl
  | cons c r ih =>
    rw [List.foldl_cons, ih, dropL1Line_l1Lines, dropL1Line_l1Lines, if_pos rfl]
    split
    · rw [List.filter_filter]
      refine List.filter_congr fun n _ => ?_
      rw [List.all_cons, Bool.and_comm]
    · rfl

end

end Sys2Proof.Machine
end

section
/-! Lines that a test names leave every L1 and every RDC (R120). -/

namespace Sys2Proof.Machine

section
variable {hit : CLine → Bool} {line : Nat → Bool}

/-- The lines of one L1 that the test names are written back and dropped. -/
def State.dropHits (hit : CLine → Bool) (s : State) (k : Nat) : State :=
  ((s.core k).l1.filter hit).foldl (fun y c => y.dropL1Line k c.line) s

/-- The lines of one die's RDC that the test names are written back and dropped. -/
def State.dropRdcHits (hit : CLine → Bool) (s : State) (d : Nat) : State :=
  (((s.die d).rdc.filter hit).foldl State.wbRdcLine s).modDie d fun y => { y with rdc := y.rdc.filter fun c => !hit c }

theorem State.flushLines_eq (s : State) (hit : CLine → Bool) :
    s.flushLines hit = (List.range 4).foldl (State.dropRdcHits hit) ((s.cores.map Prod.fst).foldl (State.dropHits hit) s) := rfl

/-- What a drop leaves of the line numbers, where the test asks for the number alone. -/
theorem State.dropHits_l1Lines (hl : ∀ c, hit c = line c.line) (s : State) (k j : Nat) :
    (s.dropHits hit k).l1Lines j = if j = k then (s.l1Lines k).filter fun n => !line n else s.l1Lines j := by
  rw [State.dropHits, dropL1Lines_l1Lines]
  split
  · refine List.filter_congr fun n hn => ?_
    obtain ⟨c, hc, rfl⟩ := List.mem_map.1 hn
    rw [← hl c, Bool.eq_iff_iff, List.all_eq_true]
    simp only [List.mem_filter, bne_iff_ne, Bool.not_eq_true', and_imp]
    refine ⟨fun h => ?_, fun h c' _ hc' he => ?_⟩
    · by_contra hne
      exact h c hc (by simpa using hne) rfl
    · rw [hl, he, ← hl, hc'] at h
      cases h
  · rfl

theorem State.dropHits_foldl_l1Lines (hl : ∀ c, hit c = line c.line) (ks : List Nat) (s : State) (j : Nat) :
    (ks.foldl (State.dropHits hit) s).l1Lines j = if j ∈ ks then (s.l1Lines j).filter fun n => !line n else s.l1Lines j := by
  induction ks generalizing s with
  | nil => rfl
  | cons k r ih =>
    rw [List.foldl_cons, ih, dropHits_l1Lines hl]
    by_cases hk : j = k
    · subst hk
      simp
    · simp [hk]

/-- A core that is not listed is as at reset. -/
theorem Tab.get_of_not_mem {α : Type} {d : α} {t : Tab α} {k : Nat} (h : k ∉ t.map Prod.fst) : Tab.get d t k = d := by
  induction t with
  | nil => rfl
  | cons e r ih =>
    rw [List.map_cons, List.mem_cons, not_or] at h
    rw [Tab.get, if_neg (Ne.symm h.1), ih h.2]

/-- What leaves the RDC of one die changes no other RDC and no core. -/
theorem State.dropRdcHits_caches (s : State) (d : Nat) : (s.dropRdcHits hit d).caches =
    (s.cores, fun e => if e = d then (s.die d).rdc.filter fun c => !hit c else (s.die e).rdc) := by
  have hwb : (((s.die d).rdc.filter hit).foldl State.wbRdcLine s).caches = s.caches :=
    foldl_keeps (v := State.caches) (fun s c => s.wbRdcLine_caches c) _ s
  have hcores : (((s.die d).rdc.filter hit).foldl State.wbRdcLine s).cores = s.cores := cores_of_caches hwb
  have hrdc (e : Nat) : ((((s.die d).rdc.filter hit).foldl State.wbRdcLine s).die e).rdc = (s.die e).rdc :=
    congrFun (congrArg Prod.snd hwb) e
  refine Prod.ext hcores (funext fun e => ?_)
  show ((s.dropRdcHits hit d).die e).rdc = if e = d then (s.die d).rdc.filter fun c => !hit c else (s.die e).rdc
  rw [State.dropRdcHits, modDie_die]
  split
  · exact congrArg (List.filter fun c => !hit c) (hrdc d)
  · exact hrdc e

theorem State.dropRdcHits_foldl_caches (ds : List Nat) (s : State) : (ds.foldl (State.dropRdcHits hit) s).caches =
    (s.cores, fun e => if e ∈ ds then (s.die e).rdc.filter fun c => !hit c else (s.die e).rdc) := by
  induction ds generalizing s with
  | nil => rfl
  | cons d r ih =>
    have hd := dropRdcHits_caches (hit := hit) s d
    have hcores : (s.dropRdcHits hit d).cores = s.cores := congrArg Prod.fst hd
    have hrdc (e : Nat) := congrFun (congrArg Prod.snd hd) e
    rw [List.foldl_cons, ih, hcores]
    refine Prod.ext rfl (funext fun e => ?_)
    show (if e ∈ r then ((s.dropRdcHits hit d).die e).rdc.filter fun c => !hit c else ((s.dropRdcHits hit d).die e).rdc) = _
    rw [show ((s.dropRdcHits hit d).die e).rdc = _ from hrdc e]
    by_cases he : e = d
    · subst he
      simp
    · simp [he]

/-- Every core that holds a line is listed: once the listed cores have dropped theirs, no L1 holds a named line. -/
theorem State.dropHits_cores (hl : ∀ c, hit c = line c.line) (s : State) (k : Nat) :
    ∀ c ∈ (((s.cores.map Prod.fst).foldl (State.dropHits hit) s).core k).l1, hit c = false := by
  intro c hc
  have hn : c.line ∈ ((s.cores.map Prod.fst).foldl (State.dropHits hit) s).l1Lines k := List.mem_map_of_mem hc
  rw [dropHits_foldl_l1Lines hl] at hn
  split at hn
  · rw [hl]
    simpa using (List.mem_filter.1 hn).2
  · rename_i hk
    have hempty : s.core k = {} := Tab.get_of_not_mem hk
    rw [State.l1Lines, hempty] at hn
    cases hn

/-- After the flush no L1 and no RDC of a die holds a line that the test names. -/
theorem State.flushLines_clears (hl : ∀ c, hit c = line c.line) (s : State) :
    (∀ k, ∀ c ∈ ((s.flushLines hit).core k).l1, hit c = false) ∧
      ∀ e < 4, ∀ c ∈ ((s.flushLines hit).die e).rdc, hit c = false := by
  rw [flushLines_eq]
  have hl1 := s.dropHits_cores hl
  generalize (s.cores.map Prod.fst).foldl (State.dropHits hit) s = s1 at hl1 ⊢
  have hcaches := s1.dropRdcHits_foldl_caches (hit := hit) (List.range 4)
  generalize (List.range 4).foldl (State.dropRdcHits hit) s1 = t at hcaches ⊢
  have hcores : t.cores = s1.cores := congrArg Prod.fst hcaches
  have hrdc (e : Nat) : (t.die e).rdc = if e ∈ List.range 4 then (s1.die e).rdc.filter fun c => !hit c else (s1.die e).rdc :=
    congrFun (congrArg Prod.snd hcaches) e
  refine ⟨fun k => ?_, fun e he c hc => ?_⟩
  · rw [show t.core k = s1.core k from congrArg (Tab.get ({} : Core) · k) hcores]
    exact hl1 k
  · rw [hrdc, if_pos (List.mem_range.2 he)] at hc
    simpa using (List.mem_filter.1 hc).2

end

end Sys2Proof.Machine
end

section
/-! The obligation on shootdowns (R120, R226, R238). -/

namespace Sys2Proof.Machine

/-- A translation that a shootdown names (R120). -/
def Shot.namesEntry (x : Shot) (e : TcEntry) : Bool :=
  e.slot == x.slot && match x.page with
    | none => true
    | some p => rangesMeet p (e.page, pageBytes e.leaf.ps.toNat)

/-- A core as a shootdown leaves it: without the translations it names, its copies of handles revoked. -/
def Shot.core (x : Shot) (k : Core) : Core :=
  { k with
    tc := k.tc.filter fun e => !x.namesEntry e
    mops := k.mops.map fun m => if m.load && m.data.isNone then { m with h := x.revoke m.h } else m
    ts := { k.ts with h := x.revoke k.ts.h } }

/-- A context as a shootdown leaves it: its handles revoked, its gated entries marked. -/
def Shot.ctx (x : Shot) (c : Ctx) : Ctx :=
  { c.mapHandle x.revoke with
    rel := c.rel.map x.markItem
    path := c.path.map fun p => { p with step2 := p.step2.map x.markItem } }

section
variable {s : State} {v : Word}

/-- A legal write of SDCTL with BUSY changes every core and every context, and its die's shootdown registers (R120). -/
theorem State.shootdown_eq (d : Nat) (hidle : (s.die d).sdctl.getLsbD 63 = false) (hbusy : v.getLsbD 63 = true)
    (hres : field v 9 54 = 0) (hps : field v 0 4 ≤ 9 ∨ v.getLsbD 8 = true) :
    ∃ pages, s.shootdown d v =
      ({ s with
        cores := s.cores.map fun e => (e.1, (shotOf (s.die d).sdva v).core e.2)
        ctxs := s.ctxs.map fun e => (e.1, (shotOf (s.die d).sdva v).ctx e.2) } : State).modDie d fun y =>
          { y with sdctl := v, sdPage := (s.die d).sdva, sdSeq := s.seq, sdTok := s.fresh, sdPages := pages } := by
  have hlegal : ¬((s.die d).sdctl.getLsbD 63 = true ∨ field v 9 54 ≠ 0 ∨ (9 < field v 0 4 ∧ (!v.getLsbD 8) = true)) := by
    rintro (h | h | ⟨h, h8⟩)
    · rw [hidle] at h
      cases h
    · exact h hres
    · rcases hps with hps | hps
      · exact absurd h (Nat.not_lt.2 hps)
      · rw [hps] at h8
        cases h8
  unfold State.shootdown
  dsimp only
  rw [if_neg hlegal, if_neg (by simp [hbusy])]
  exact ⟨_, rfl⟩

/-- A null handle is not revoked. -/
theorem Shot.revoke_null (x : Shot) : x.revoke {} = {} := if_neg fun h => nomatch h.1

/-- A core as at reset stays so. -/
theorem Shot.core_default (x : Shot) : x.core {} = {} := by
  rw [Shot.core, show ({} : Core).ts.h = {} from rfl, x.revoke_null]
  rfl

/-- The handle registers of a context are each revoked where they are named. -/
theorem Shot.ctx_handle (x : Shot) (c : Ctx) (r : Nat) : Tab.get {} (x.ctx c).bank.h r = x.revoke (Tab.get {} c.bank.h r) :=
  Tab.get_map x.revoke_null c.bank.h r

/-- A translation of the slot that stays lies outside the page that is named (R120). -/
theorem Shot.core_tc {x : Shot} {k : Core} {e : TcEntry} (he : e ∈ (x.core k).tc) (hs : e.slot = x.slot) :
    ∃ p, x.page = some p ∧ rangesMeet p (e.page, pageBytes e.leaf.ps.toNat) = false := by
  have hn : x.namesEntry e = false := by simpa using (List.mem_filter.1 he).2
  rw [Shot.namesEntry, beq_iff_eq.2 hs, Bool.true_and] at hn
  cases hp : x.page with
  | none =>
    rw [hp] at hn
    cases hn
  | some p =>
    rw [hp] at hn
    exact ⟨p, rfl, hn⟩

/-- A shootdown that begins passes over every context and every core, and reads busy. -/
theorem shootdown_begins (d : BitVec 2) (hidle : (s.die d.toNat).sdctl.getLsbD 63 = false) (hbusy : v.getLsbD 63 = true)
    (hres : field v 9 54 = 0) (hps : field v 0 4 ≤ 9 ∨ v.getLsbD 8 = true) :
    ∃ t : State, exec (.shootdown d v) s = .next t ∧ (t.die d.toNat).sdctl = v ∧ t.mem = s.mem ∧
      (∀ i, t.ctx i = (shotOf (s.die d.toNat).sdva v).ctx (s.ctx i)) ∧
      ∀ k, t.core k = (shotOf (s.die d.toNat).sdva v).core (s.core k) := by
  obtain ⟨pages, heq⟩ := State.shootdown_eq d.toNat hidle hbusy hres hps
  refine ⟨s.shootdown d.toNat v, rfl, ?_, ?_, fun i => ?_, fun k => ?_⟩
  all_goals rw [heq]
  · rw [State.modDie_die, if_pos rfl]
  · rfl
  · exact Tab.get_map (f := (shotOf (s.die d.toNat).sdva v).ctx) rfl s.ctxs i
  · exact Tab.get_map (Shot.core_default _) s.cores k

/-- A shootdown that has nothing left to wait for flushes the lines that may lie in its pages, and is busy no longer (R120). -/
theorem execShootdownComplete_settled {d : BitVec 2} (hbusy : (s.die d.toNat).sdctl.getLsbD 63 = true)
    (hs : Spec.settled s (shotOf (s.die d.toNat).sdPage (s.die d.toNat).sdctl) (s.die d.toNat).sdSeq)
    (hr : Spec.remoteSettled s (shotOf (s.die d.toNat).sdPage (s.die d.toNat).sdctl) (s.die d.toNat).sdTok) :
    exec (.shootdownComplete d) s = .next ((s.flushLines (s.lineMaybe (shotOf (s.die d.toNat).sdPage (s.die d.toNat).sdctl)
      (s.die d.toNat).sdPages)).modDie d.toNat fun y => { y with sdctl := setField y.sdctl 63 1 0, sdPages := [] }) := by
  show execShootdownComplete d s = _
  obtain ⟨hwaiting, htags⟩ := hr
  unfold execShootdownComplete
  dsimp only
  rw [if_neg (by simp [hbusy]), if_neg]
  intro hw
  rcases Bool.or_eq_true_iff.1 hw with hw | hw
  · obtain ⟨c, hc, hw⟩ := List.any_eq_true.1 hw
    obtain ⟨hloads, hpath⟩ := hs c hc
    rcases Bool.or_eq_true_iff.1 hw with hw | hw
    · obtain ⟨l, hl, hw⟩ := List.any_eq_true.1 hw
      obtain ⟨hlt, hhit⟩ := Bool.and_eq_true_iff.1 hw
      exact absurd (of_decide_eq_true hlt) (Nat.not_lt.2 (hloads l hl hhit))
    · obtain ⟨p, hp, hw⟩ := List.any_eq_true.1 hw
      obtain ⟨i, hi, hw⟩ := List.any_eq_true.1 hw
      obtain ⟨hlt, hhit⟩ := Bool.and_eq_true_iff.1 hw
      split at hhit
      · exact absurd (of_decide_eq_true hlt) (Nat.not_lt.2 (hpath p hp i hi _ ‹_› hhit))
      · cases hhit
  · rcases Bool.or_eq_true_iff.1 hw with hw | hw
    · obtain ⟨w, hmem, hw⟩ := List.any_eq_true.1 hw
      simp only [Bool.and_eq_true, bne_iff_ne, decide_eq_true_eq] at hw
      obtain ⟨⟨hk, hle⟩, hhit⟩ := hw
      exact absurd hle (Nat.not_le.2 (hwaiting w hmem hk hhit))
    · obtain ⟨t, hmem, hw⟩ := List.any_eq_true.1 hw
      split at hw
      · simp only [Bool.and_eq_true, bne_iff_ne, decide_eq_true_eq] at hw
        obtain ⟨⟨hk, hle⟩, hhit⟩ := hw
        exact absurd hle (Nat.not_le.2 (htags t hmem _ ‹_› hk hhit))
      · cases hw

/-- BUSY reads 0 once it is cleared. -/
theorem setField_busy (x : Word) : (setField x 63 1 0).getLsbD 63 = false := by
  simp [setField]

end

/-- Settles O46: the beginning passes over every context and core; the completion flushes the lines of the pages, and more. -/
theorem shootdownEvents : Obligations.ShootdownEvents := by
  unfold Obligations.ShootdownEvents
  intro s d v y
  refine ⟨?begins, ?completes⟩
  case begins =>
    intro hidle hbusy hres hps x
    obtain ⟨t, ht, hctl, hmem, hctx, hcore⟩ := shootdown_begins d hidle hbusy hres hps
    refine ⟨t, ht, hctl, hmem, fun i r => ?_, fun k => ?_, fun k e he hslot => ?_⟩
    · rw [hctx]
      exact x.ctx_handle (s.ctx i) r
    · rw [hcore]
      rfl
    · rw [hcore] at he
      exact Shot.core_tc he hslot
  case completes =>
    intro hbusy x hs hr
    obtain ⟨hl1, hrdc⟩ := State.flushLines_clears (hit := s.lineMaybe x y.sdPages)
      (line := fun n => s.lineMaybe x y.sdPages ⟨n, false, []⟩) (fun _ => rfl) s
    have hpage {c : CLine} (h : s.lineMaybe x y.sdPages c = false) : lineIn y.sdPages c = false := by
      simp only [State.lineMaybe, Bool.or_eq_false_iff] at h
      exact h.1.1
    have hexec := execShootdownComplete_settled hbusy hs hr
    generalize s.flushLines (s.lineMaybe x y.sdPages) = z at hl1 hrdc hexec
    refine ⟨_, hexec, ?_, fun k c hc => ?_, fun e he c hc => ?_⟩
    · rw [State.modDie_die, if_pos rfl]
      exact setField_busy _
    · rw [State.modDie_core] at hc
      exact hpage (hl1 k c hc)
    · refine hpage (hrdc e he c ?_)
      rw [State.modDie_die] at hc
      split at hc
      · rename_i hd
        rw [hd]
        exact hc
      · exact hc

end Sys2Proof.Machine
end

section
/-! What a store that performs leaves alone: the contexts but for their pending loads (R128, R131, R135, R255). -/

namespace Sys2Proof.Machine

section
variable (s : State)

theorem State.spadFresh_offMemory (core line : Nat) : (s.spadFresh core line).offMemory = s.offMemory := by
  unfold State.spadFresh
  split <;> rfl

theorem State.spadPut_offMemory (core : Nat) (slot : BitVec 4) (gen : BitVec 12) (e : Nat × Byte) :
    (s.spadPut core slot gen e).offMemory = s.offMemory := by
  unfold State.spadPut
  split
  · rfl
  · exact s.spadFresh_offMemory core _

theorem State.spadWrites_offMemory (core : Nat) (slot : BitVec 4) (gen : BitVec 12) (poison : Bool) (off : Nat) (l : List Byte) :
    (s.spadWrites core slot gen poison off l).offMemory = s.offMemory := by
  have hput (x : State) (e : Byte × Nat) : (x.spadPut core slot gen (off + e.2, e.1)).offMemory = x.offMemory :=
    x.spadPut_offMemory core slot gen _
  unfold State.spadWrites
  dsimp only
  split
  · exact foldl_keeps (v := State.offMemory) hput _ s
  · split
    · rw [modCore_offMemory]
      exact foldl_keeps (v := State.offMemory) hput _ s
    · split
      · rw [modCore_offMemory]
        exact foldl_keeps (v := State.offMemory) hput _ s
      · exact foldl_keeps (v := State.offMemory) hput _ s

theorem State.l1Bring_offMemory (core : Nat) (a : Acc) (sh whole : Bool) (sec : Nat) :
    (s.l1Bring core a sh whole sec).offMemory = s.offMemory := by
  unfold State.l1Bring
  split
  · rfl
  · split
    · simp
    · simp

theorem State.l1Write_offMemory (core : Nat) (a : Acc) (sh poison : Bool) (cells : List (Nat × Byte)) :
    (s.l1Write core a sh poison cells).offMemory = s.offMemory := by
  unfold State.l1Write
  split
  · rfl
  · split
    · rfl
    · dsimp only
      split
      · exact s.l1Bring_offMemory core a sh _ _
      · repeat' split
        all_goals simp only [modCore_offMemory, wbL1Line_offMemory, l1Bring_offMemory]

theorem State.l1Writes_offMemory (core : Nat) (a : Acc) (sh poison : Bool) (pa : Nat) (l : List Byte) :
    (s.l1Writes core a sh poison pa l).offMemory = s.offMemory := by
  unfold State.l1Writes
  exact foldl_keeps (v := State.offMemory) (fun x cells => x.l1Write_offMemory core a sh poison cells) _ s

theorem State.performStore_offMemory (core : Nat) (slot : BitVec 4) (gen : BitVec 12) (g : Gated) :
    (s.performStore core slot gen g).offMemory = s.offMemory := by
  unfold State.performStore
  refine foldl_keeps (v := State.offMemory) (fun x c => ?_) g.chunks s
  split
  · exact x.spadWrites_offMemory core slot gen g.poison _ _
  · exact x.l1Writes_offMemory core _ g.h.sh g.poison _ _

theorem State.sameButLoads_settleBundle (ci seq : Nat) : s.sameButLoads (s.settleBundle ci seq) := by
  unfold State.settleBundle
  refine sameButLoads_foldl (fun x l => ?_) _ s
  refine sameButLoads_foldl (fun y p => ?_) _ x
  exact y.sameButLoads_settleLoads ci (seq + 1) (p.pa, p.n)

theorem State.sameButLoads_settleStore (ci seq : Nat) (g : Gated) : s.sameButLoads (s.settleStore ci seq g) := by
  have hz := s.sameButLoads_settleBundle ci seq
  unfold State.settleStore
  dsimp only
  split
  · exact hz
  · refine hz.trans (sameButLoads_foldl (fun x c => ?_) _ _)
    exact x.sameButLoads_settleReads ci (seq + 1) (c.2.1, c.2.2.length)

theorem State.sameButLoads_settleRest (ci : Nat) (g : Gated) : s.sameButLoads (s.settleRest ci g) := by
  unfold State.settleRest
  split
  · exact .refl s
  · refine sameButLoads_foldl (fun x c => ?_) _ s
    exact x.sameButLoads_settleLoads ci (s.seq + 1) (c.2.1, c.2.2.length)

theorem State.sameButLoads_sigs (core : Nat) (l : List Sig) : s.sameButLoads (l.foldl (fun x g => x.sigDo core g) s) := by
  refine sameButLoads_of_offMemory (foldl_keeps (v := State.offMemory) (fun x g => ?_) l s)
  unfold State.sigDo
  repeat' split
  all_goals rfl

/-- A gated store acts: what has to read before it, the store itself, and what has to read right after (R128, R255, R256). -/
def State.storeActs (core ci : Nat) (x : RelItem) (g : Gated) : State :=
  ((s.settleStore ci x.seq g).performStore core x.slot x.gen g).settleRest ci g

theorem State.sameButLoads_storeActs (core ci : Nat) (x : RelItem) (g : Gated) : s.sameButLoads (s.storeActs core ci x g) :=
  ((s.sameButLoads_settleStore ci x.seq g).trans (sameButLoads_of_offMemory (performStore_offMemory _ core x.slot x.gen g))).trans
    (sameButLoads_settleRest _ ci g)

end

end Sys2Proof.Machine
end

section
/-! The release of a pitch with one store, signals, and the FIFO (R132, R136, R146, R149, R247). -/

namespace Sys2Proof.Machine

section
variable {s t : State}

/-! What of a context is not its pending loads stands across what is read early. -/

theorem State.sameButLoads.path (h : s.sameButLoads t) (j : Nat) : (t.ctx j).path = (s.ctx j).path := by
  have hp := congrArg Ctx.path (h j)
  exact hp

theorem State.sameButLoads.after (h : s.sameButLoads t) (j : Nat) : (t.ctx j).after = (s.ctx j).after := by
  have hp := congrArg Ctx.after (h j)
  exact hp

theorem State.sameButLoads.asyncDue (h : s.sameButLoads t) (j : Nat) : (t.ctx j).asyncDue = (s.ctx j).asyncDue := by
  have hp := congrArg Ctx.asyncDue (h j)
  exact hp

theorem State.sameButLoads.cancel (h : s.sameButLoads t) (j : Nat) : (t.ctx j).cancel = (s.ctx j).cancel := by
  have hp := congrArg Ctx.cancel (h j)
  exact hp

/-- Functions that agree on a context change it alike. -/
theorem State.modCtx_congr {k : Nat} {f f' : Ctx → Ctx} (h : f (s.ctx k) = f' (s.ctx k)) : s.modCtx k f = s.modCtx k f' :=
  congrArg (s.setCtx k) h

theorem State.modCtx_ctx_self (k : Nat) (f : Ctx → Ctx) : (s.modCtx k f).ctx k = f (s.ctx k) := by
  rw [modCtx_ctx, if_pos rfl]

/-! The release path. -/

/-- The store at the head of a path, in a context that owes its bundle no remote load, acts (R128, R257). -/
theorem State.step1Item_store {ci : Nat} {x : RelItem} {g : Gated} (hx : x.body = .store g)
    (hremote : (s.ctx ci).bundleReads x = false) : s.step1Item ci x = (s.storeActs (ci / 4) ci x g, true) := by
  unfold State.step1Item State.storeActs
  simp only [hx, hremote]
  rfl

theorem RelItem.divides_store {x : RelItem} {g : Gated} (hx : x.body = .store g) : x.divides = false := by
  simp only [RelItem.divides, hx]

theorem Ctx.bundleReads_of_none {c : Ctx} {x : RelItem} (h : ∀ t ∈ c.remote, t.2.2 ≠ x.seq) : c.bundleReads x = false := by
  simp only [Ctx.bundleReads, Bool.and_eq_false_iff, List.any_eq_false, beq_iff_eq]
  exact .inr h

theorem State.runPath_done {ci n : Nat} {p : PitchRel} {r : List PitchRel} (hpath : (s.ctx ci).path = p :: r)
    (h1 : p.step1 = []) (h2 : p.step2 = []) : s.runPath ci (n + 1) = (s, true) := by
  simp only [State.runPath, hpath, h1, h2]

/-- A path whose only entry is a store runs to its end (R149, R247). -/
theorem State.runPath_store {ci : Nat} {p : PitchRel} {x : RelItem} {g : Gated}
    (hpath : (s.ctx ci).path = [p]) (h1 : p.step1 = [x]) (h2 : p.step2 = []) (hx : x.body = .store g)
    (hremote : ∀ t ∈ (s.ctx ci).remote, t.2.2 ≠ x.seq) :
    s.runPath ci p.size =
      ((s.modCtx ci fun c => { c with path := [{ p with step1 := [] }] }).storeActs (ci / 4) ci x g, true) := by
  have hsize : p.size = 2 := by rw [PitchRel.size, h1, h2]; rfl
  have hhead : (s.modCtx ci fun c => c.modHead fun p => { p with step1 := [] }) =
      s.modCtx ci fun c => { c with path := [{ p with step1 := [] }] } := by
    refine modCtx_congr ?_
    simp only [Ctx.modHead, hpath]
  rw [hsize]
  simp only [State.runPath, hpath, h1, RelItem.divides_store hx, hhead]
  have hctx := modCtx_ctx_self (s := s) ci fun c => { c with path := [{ p with step1 := [] }] }
  generalize (s.modCtx ci fun c => { c with path := [{ p with step1 := [] }] }) = s1 at hctx ⊢
  have hreads : (s1.ctx ci).bundleReads x = false := by
    rw [hctx]
    exact Ctx.bundleReads_of_none hremote
  have hpath2 : ((s1.storeActs (ci / 4) ci x g).ctx ci).path = [{ p with step1 := [] }] := by
    rw [(s1.sameButLoads_storeActs (ci / 4) ci x g).path, hctx]
  rw [step1Item_store hx hreads]
  simp only [hpath2, h2]
  rfl

/-- A context with nothing to do after its path's end goes on as it is (R146). -/
theorem State.afterRelease_of_none {ci : Nat} (hafter : (s.ctx ci).after = .none) (hasync : (s.ctx ci).asyncDue = false)
    (hcancel : (s.ctx ci).cancel = false) : s.afterRelease ci = s := by
  have hact : s.actAfter ci = s := by simp only [State.actAfter, hafter]
  have hdue : s.asyncAfter ci = s := by simp [State.asyncAfter, hasync]
  have hcan : s.cancelAfter ci = s := by simp [State.cancelAfter, hcancel]
  unfold State.afterRelease
  rw [hact, hdue, hcan, ite_self]

/-- The release of a path with one store: the store, the signals in their order, and the path is empty (R149, R247). -/
theorem State.releasePitch_store {ci : Nat} {p : PitchRel} {x : RelItem} {g : Gated}
    (hpath : (s.ctx ci).path = [p]) (h1 : p.step1 = [x]) (h2 : p.step2 = []) (hx : x.body = .store g)
    (hremote : ∀ t ∈ (s.ctx ci).remote, t.2.2 ≠ x.seq) (hafter : (s.ctx ci).after = .none)
    (hasync : (s.ctx ci).asyncDue = false) (hcancel : (s.ctx ci).cancel = false) :
    s.releasePitch ci = (p.sigs.foldl (fun z q => z.sigDo (ci / 4) q)
      ((s.modCtx ci fun c => { c with path := [{ p with step1 := [] }] }).storeActs (ci / 4) ci x g)).modCtx ci
        fun c => { c with path := c.path.drop 1 } := by
  have hrun := runPath_store hpath h1 h2 hx hremote
  have hctx := modCtx_ctx_self (s := s) ci fun c => { c with path := [{ p with step1 := [] }] }
  simp only [State.releasePitch, hpath, hrun]
  generalize (s.modCtx ci fun c => { c with path := [{ p with step1 := [] }] }) = s1 at hctx ⊢
  have hsame := (s1.sameButLoads_storeActs (ci / 4) ci x g).trans (State.sameButLoads_sigs _ (ci / 4) p.sigs)
  generalize p.sigs.foldl (fun z q => z.sigDo (ci / 4) q) (s1.storeActs (ci / 4) ci x g) = s2 at hsame ⊢
  refine afterRelease_of_none ?_ ?_ ?_
  · rw [modCtx_ctx_self]
    exact (hsame.after ci).trans ((congrArg Ctx.after hctx).trans hafter)
  · rw [modCtx_ctx_self]
    exact (hsame.asyncDue ci).trans ((congrArg Ctx.asyncDue hctx).trans hasync)
  · rw [modCtx_ctx_self]
    exact (hsame.cancel ci).trans ((congrArg Ctx.cancel hctx).trans hcancel)

end

section
variable (s : State)

/-- The generation of a core's slot stands while its slot does. -/
theorem State.modCore_coreGen (core j : Nat) {f : Core → Core} (hf : ∀ k, (f k).slot = k.slot) :
    (s.modCore core f).coreGen j = s.coreGen j := by
  have hslot : ((s.modCore core f).core j).slot = (s.core j).slot := by
    rw [modCore_core]
    split
    · rw [hf, ‹j = core›]
    · rfl
  exact congrArg s.gen hslot

/-! Signals. -/

/-- A semaphore reads what a signal set, up to 65,535; every other is as before (R132). -/
theorem State.sem_setSem (core : Nat) (q r : BitVec 8) (v : Nat) :
    (s.setSem core q v).sem core r = if r = q then min v 65535 else s.sem core r := by
  have hgen : (s.setSem core q v).coreGen core = s.coreGen core := modCore_coreGen s core core fun _ => rfl
  unfold State.sem
  rw [hgen, State.setSem, modCore_core, if_pos rfl]
  simp only [Tab.get_put, BitVec.toNat_inj]
  split
  · rw [if_pos rfl, BitVec.toNat_ofNat]
    omega
  · rfl

/-! Full and empty lines. -/

/-- A line brought up to date is of the slot's generation; every other line stays as it is. -/
theorem State.spadFresh_spadStale (core line j : Nat) :
    (s.spadFresh core line).spadStale core j = if j = line then false else s.spadStale core j := by
  have hgen : (s.spadFresh core line).coreGen core = s.coreGen core := by
    unfold State.spadFresh
    split
    · exact modCore_coreGen s core core fun _ => rfl
    · rfl
  unfold State.spadStale
  rw [hgen]
  unfold State.spadFresh
  split
  · rw [modCore_core, if_pos rfl, Tab.get_put]
    split
    · exact bne_self_eq_false _
    · rfl
  · split
    · rw [‹j = line›]
      exact Bool.eq_false_iff.2 ‹_›
    · rfl

theorem State.spadFresh_spadFull {core line j : Nat} (hj : j ≠ line) :
    Tab.get false ((s.spadFresh core line).core core).spadFull j = Tab.get false (s.core core).spadFull j := by
  unfold State.spadFresh
  split
  · rw [modCore_core, if_pos rfl, Tab.get_put, if_neg hj]
  · rfl

/-- A line reads as it was made, full or empty; every other is as before (R132). -/
theorem State.lineFull_setLine (core line : Nat) (slot : BitVec 4) (full : Bool) (j : Nat) :
    (s.setLine core line slot (s.gen slot) full).lineFull core j = if j = line then full else s.lineFull core j := by
  have hset : s.setLine core line slot (s.gen slot) full = (s.spadFresh core line).modCore core
      fun k => { k with spadFull := Tab.put false k.spadFull line full } := if_neg (not_not_intro rfl)
  have hstale : (s.setLine core line slot (s.gen slot) full).spadStale core j = (s.spadFresh core line).spadStale core j := by
    rw [hset, State.spadStale, modCore_coreGen, modCore_core, if_pos rfl]
    · rfl
    · exact fun _ => rfl
  unfold State.lineFull
  rw [hstale, spadFresh_spadStale, hset, modCore_core, if_pos rfl]
  dsimp only
  rw [Tab.get_put]
  split
  · rfl
  · rw [spadFresh_spadFull s ‹_›]

/-! The FIFO. -/

/-- Once a line is made clean, none of its bytes is dirty. -/
theorem CLine.clean_mask {y : CLine} {l : Nat} (hl : (if y.line == l then y.clean else y).line = l) {e : Nat × Sector}
    (he : e ∈ (if y.line == l then y.clean else y).sect) : e.2.mask = 0 := by
  split at he
  · obtain ⟨x, -, rfl⟩ := List.mem_map.1 he
    rfl
  · rename_i hne
    rw [if_neg hne] at hl
    exact absurd (beq_iff_eq.2 hl) hne

/-- The line at the FIFO's head is written back, leaves the FIFO and is clean in the L1 (R136). -/
theorem State.dirtyFifoDrain_line {core l : Nat} {r : List FifoEntry} (hfifo : (s.core core).fifo = .line l :: r) :
    ∃ t : State, exec (.dirtyFifoDrain core) s = .next t ∧ (.line l) ∉ (t.core core).fifo ∧
      ∀ c ∈ (t.core core).l1, c.line = l → ∀ e ∈ c.sect, e.2.mask = 0 := by
  have hexec : exec (.dirtyFifoDrain core) s =
      .next ((s.wbL1Line core l).modCore core fun k => { k with fifo := k.fifo.filter (· != .line l) }) := by
    show execDirtyFifoDrain core s = _
    simp only [execDirtyFifoDrain, hfifo]
  refine ⟨_, hexec, ?_, fun c hc hl e he => ?_⟩
  · rw [modCore_core, if_pos rfl]
    simp
  · rw [modCore_core, if_pos rfl] at hc
    by_cases h : ∃ c ∈ (s.core core).l1, c.line = l
    · rw [wbL1Line_core s core l core h, if_pos rfl] at hc
      obtain ⟨y, -, rfl⟩ := List.mem_map.1 hc
      exact CLine.clean_mask hl he
    · rw [wbL1Line_of_absent s core l h] at hc
      exact absurd ⟨c, hc, hl⟩ h

end

/-- Settles O36: the path is run entry by entry; reads made early leave of a context all but its loads. -/
theorem releaseEvents : Obligations.ReleaseEvents := by
  unfold Obligations.ReleaseEvents
  refine ⟨?release, ?signal, ?line, ?fifo⟩
  case release =>
    intro s core i p x g hi k c hpath h1 hx hremote h2 hafter hasync hcancel
    have hk : k / 4 = core := by omega
    have h := State.releasePitch_store hpath h1 h2 hx hremote hafter hasync hcancel
    rw [hk] at h
    exact congrArg Host.Outcome.next h
  case signal => exact State.sem_setSem
  case line => exact State.lineFull_setLine
  case fifo => exact fun s core l r h => s.dirtyFifoDrain_line h

end Sys2Proof.Machine
end

section
/-! Operations of slot 0 under a true guard, on the operands they read (R61, R69, R97). -/

namespace Sys2Proof.Machine

section
variable {s : State} {i : Instr} {f : OpS} {a : ScalarArgs} {unit op : Nat}

/-- Under a true guard, with its operands readable, an operation of slot 0 is its action on them. -/
theorem slotZero_acts {act : ScalarArgs → Res State} (hv : i.view = some (.ofS 0 unit op f)) (hc : i.check = none)
    (hon : Spec.on s f.g) (ha : s.scalarArgs unit i.shape f = .ok a) :
    (inSlot 0 do
      s.opens i
      if !s.guard f.g then pure s
      else do
        let x ← s.scalarArgs unit i.shape f
        act x) = inSlot 0 (act a) := by
  refine (guarded_acts hv rfl rfl hc hon).trans ?_
  rw [ha, bind_of_ok]

/-- The slot's name is given to a trap once. -/
theorem inSlot_inSlot {α : Type} (k : Nat) (r : Res α) : inSlot k (inSlot k r) = inSlot k r := by
  cases r with
  | ok a => rfl
  | error x =>
    cases x with
    | trap t =>
      by_cases h : t.unit = 62
      · simp only [inSlot, h, if_true]
      · simp only [inSlot, h, if_false]
    | block b h => rfl
    | jemit j step r => rfl

end

end Sys2Proof.Machine
end

section
/-! Transfers of control and loops (R153 to R161). -/

namespace Sys2Proof.Machine

/-- A transfer taken: it waits for its delay bundle (R153). -/
def State.takes (s : State) (x : Word × Option Nat) : State := { s with cur := { s.cur with xfer := some x } }

section
variable {s : State} {i : Instr} {f : OpS} {a : ScalarArgs} {unit : Nat} {t : Word} {lk : Option Nat}

/-- A transfer with a legal delay bundle and target is taken (R153). -/
theorem transfer_ok (hd : s.delayOk s.cid s.cur.nextA = true) (ht : s.targetOk s.cid t = .ok ()) :
    s.transfer unit t lk = .ok (s.takes (t, lk)) := by
  simp only [State.transfer, hd, ht]
  rfl

/-- Writes of slot 0 at commit, one after the other, are the list of them. -/
theorem foldl_move (s : State) (ws : List RegWrite) : ws.foldl (fun x w => x.move 0 w) s = Spec.withMoves s ws := by
  induction ws generalizing s with
  | nil => simp [Spec.withMoves]
  | cons w r ih =>
    rw [List.foldl_cons, ih]
    simp [Spec.withMoves, State.move]

/-- The rotating predicates of a loop that begins: p16 true, the others false (R160). -/
theorem rotWrites_first : (rotWrites (fun i => i == 16) fun _ => .clean) =
    (List.range 16).map fun k => wrP (16 + k) (decide (k = 0)) := by
  refine List.map_congr_left fun k _ => ?_
  have hk : (16 + k == 16) = decide (k = 0) := by
    rw [Bool.eq_iff_iff, beq_iff_eq, decide_eq_true_iff]
    omega
  exact congrArg (wrP (16 + k)) hk

/-- An operation of br with a legal delay bundle and target takes its transfer (R154). -/
theorem brOp_takes {op : Nat} {target : ScalarArgs → Word} (hv : i.view = some (.ofS 0 4 op f)) (hc : i.check = none)
    (hon : Spec.on s f.g) (ha : s.scalarArgs 4 i.shape f = .ok a) (hd : s.delayOk s.cid s.cur.nextA = true)
    (ht : s.targetOk s.cid (target a) = .ok ()) : s.brOp i f target lk = .ok (s.takes (target a, lk)) := by
  rw [State.brOp, slotZero_acts hv hc hon ha, transfer_ok hd ht]
  rfl

/-- ret takes its transfer to lk, which is not poisoned (R154, R396). -/
theorem opRet_takes (hc : (Instr.ret f).check = none) (hon : Spec.on s f.g) (hlk : s.intact (.sp 8) = .ok ())
    (hd : s.delayOk s.cid s.cur.nextA = true) (ht : s.targetOk s.cid (s.me.bank.getSp 8) = .ok ()) :
    opRet f s = .ok (s.takes (s.me.bank.getSp 8, none)) := by
  refine (guarded_acts (v := .ofS 0 4 _ f) rfl rfl rfl hc hon).trans ?_
  rw [hlk, bind_of_ok, transfer_ok hd ht]
  rfl

end

/-! The delay bundle. -/

/-- The commit of a write leaves the next address alone. -/
theorem foldl_commitWrite_next (cycle seq : Nat) (l : List RegWrite) (c : Ctx) :
    (l.foldl (fun c w => c.commitWrite cycle seq w) c).next = c.next :=
  foldl_keeps (v := Ctx.next) (f := fun c w => c.commitWrite cycle seq w) (fun _ _ => rfl) l c

/-- At commit the transfer that the bundle takes becomes the context's; one that waits stands where it takes none (R153). -/
theorem State.commit_next_xfer (s : State) : s.commit.me.next.xfer = s.cur.xfer.orElse fun _ => s.me.next.xfer := by
  have hme (c : Ctx) (x : Cur) (hx : 4 * x.core + x.ctx = s.cid) : ({ s.setCtx s.cid c with cur := x } : State).me = c := by
    show (s.setCtx s.cid c).ctx (4 * x.core + x.ctx) = c
    rw [hx]
    exact Tab.get_set_same ..
  simp only [State.commit]
  rw [hme]
  · dsimp only
    rw [foldl_commitWrite_next]
  · rfl

section
variable {s : State} {h : Header} {after : NextAddr}

/-- A delay bundle is followed by the target, and writes lk where the transfer is a call (R153, R154). -/
theorem State.flow_of_xfer {t : Word} {lk : Option Nat} {hit : Option Nat} (hx : s.me.next.xfer = some (t, lk))
    (hrot : h.rot = false) (hl : s.loopEnd false = .ok hit) (hp : hit.isSome = true → h.pitch = true) :
    s.flow h after = .ok (s.lastWrites (lk.toList.map fun a => wr64 (.sp 8) (Spec.n64 a)), { pc := t.toNat }) := by
  have hlegal : (hit.isSome && !h.pitch) = false := by
    cases hs : hit.isSome with
    | false => rfl
    | true => rw [hp hs]; rfl
  simp only [State.flow, hrot, hl, bind_of_ok, hlegal, hx]
  cases lk with
  | none => rfl
  | some a => rfl

/-- A loop-end bundle with PITCH and without a transfer evaluates its set (R158). -/
theorem State.flow_of_loopEnd {n : Nat} (hx : s.me.next.xfer = none) (hc : s.cur.xfer = none)
    (hl : s.loopEnd h.rot = .ok (some n)) (hp : h.pitch = true) : s.flow h after = s.evalLoop h.rot n after := by
  simp only [State.flow, hl, bind_of_ok, hp, hx, hc]
  rfl

end

/-! The loop end. -/

theorem sub_one_bne_zero (x : Word) : (x - 1 != 0) = decide (x ≠ 1) := by
  rw [Bool.eq_iff_iff, bne_iff_ne, decide_eq_true_iff, ne_eq, ne_eq, sub_eq_zero]

section
variable {lc ec : Word}

/-- Without ROT the count falls, and control goes back while it is not 0 (R158). -/
theorem loopStep_plain : loopStep false lc ec = (lc - 1, ec, false, decide (lc ≠ 1)) := by
  rw [← sub_one_bne_zero]
  rfl

/-- With ROT and more than one turn left, the count falls and a stage begins (R159). -/
theorem loopStep_turn (h : 1 < lc.toNat) : loopStep true lc ec = (lc - 1, ec, true, true) := if_pos h

/-- The last turn begins no stage, and goes back while stages drain (R159). -/
theorem loopStep_last : loopStep true 1 ec = (0, ec, false, decide (ec ≠ 0)) := by
  rw [decide_not]
  rfl

/-- Then the stages drain through ec (R159). -/
theorem loopStep_drain (h : ¬1 < lc.toNat) (h1 : lc ≠ 1) : loopStep true lc ec = (lc, ec - 1, false, decide (ec ≠ 1)) := by
  rw [← sub_one_bne_zero]
  exact (if_neg h).trans (if_neg h1)

end

/-- The rotation by one: p16 takes the bit x, each other rotating predicate its lower neighbour with its mark (R159). -/
theorem Bank.rotate_eq (b : Bank) (x : Bool) : b.rotate x =
    wr64 (.sp 7) (Spec.n64 ((b.rrb + 31) % 32)) (b.mark (.sp 7)) :: (List.range 16).map fun k =>
      { wrP (16 + k) (if k = 0 then x else b.getP (15 + k)) with mark := if k = 0 then .clean else b.mark (.p (15 + k)) } := by
  refine congrArg (_ :: ·) (List.map_congr_left fun k _ => ?_)
  have hk : 16 + k = 16 ↔ k = 0 := by omega
  have hpred : 16 + k - 1 = 15 + k := by omega
  simp only [hk, hpred]

/-- What a loop-end evaluation of set n writes: the count and, in a rotating loop, ec and the rotation (R158, R159). -/
def Bank.loopWrites (b : Bank) (rot : Bool) (n : Nat) (lc ec : Word) (x : Bool) : List RegWrite :=
  wr64 (.sp (3 * n)) lc :: if rot then wr64 (.sp 6) ec :: b.rotate x else []

section
variable {s : State} {rot : Bool} {n : Nat} {lc ec : Word} {x : Bool} {after : NextAddr}

/-- An evaluation that goes back is followed by the set's start (R158). -/
theorem State.evalLoop_back (hstep : loopStep rot (s.me.bank.getSp (3 * n)) (s.me.bank.getSp 6) = (lc, ec, x, true))
    (hec : s.intact (.sp 6) = .ok ()) (hls : s.intact (.sp (3 * n + 1)) = .ok ())
    (ht : s.targetOk s.cid (s.me.bank.getSp (3 * n + 1)) = .ok ()) :
    s.evalLoop rot n after =
      .ok (s.lastWrites (s.me.bank.loopWrites rot n lc ec x), { pc := (s.me.bank.getSp (3 * n + 1)).toNat }) := by
  simp only [State.evalLoop, lcReg, lsReg, hstep, hec, ite_self, bind_of_ok, if_true, hls, ht]
  rfl

/-- One that does not is followed by the next bundle in code order (R158). -/
theorem State.evalLoop_exit (hstep : loopStep rot (s.me.bank.getSp (3 * n)) (s.me.bank.getSp 6) = (lc, ec, x, false))
    (hec : s.intact (.sp 6) = .ok ()) :
    s.evalLoop rot n after = .ok (s.lastWrites (s.me.bank.loopWrites rot n lc ec x), after) := by
  simp only [State.evalLoop, lcReg, hstep, hec, ite_self, bind_of_ok]
  rfl

end

/-- R153, R154: a taken transfer waits for the delay bundle, which its target follows. -/
theorem transferWaitsForItsDelayBundle : Spec.TransferWaitsForItsDelayBundle := by
  refine ⟨fun f s a => ?taken, fun s t lk hx => ?commits, fun s h after t lk hx hrot hit hl hp => ?follows⟩
  case taken =>
    simp only [Spec.transfers, List.forall_mem_cons, List.not_mem_nil, false_implies, implies_true, and_true]
    refine ⟨fun hc hon ha _ hd ht => ?br, fun hc hon ha _ hd ht => ?call, fun hc hon _ hlk hd ht => ?ret,
      fun hc hon ha _ hd ht => ?bix⟩
    case br => exact exec_of_opOf (v := .ofS 0 4 _ f) rfl (brOp_takes rfl hc hon ha hd ht)
    case call => exact exec_of_opOf (v := .ofS 0 4 _ f) rfl (brOp_takes rfl hc hon ha hd ht)
    case ret => exact exec_of_opOf (v := .ofS 0 4 _ f) rfl (opRet_takes hc hon (hlk trivial) hd ht)
    case bix =>
      rw [← add_eq_n64] at ht ⊢
      exact exec_of_opOf (v := .ofS 0 4 _ f) rfl (brOp_takes rfl hc hon ha hd ht)
  case commits => rw [State.commit_next_xfer, hx]; rfl
  case follows => exact State.flow_of_xfer hx hrot hl hp

/-- R157, R160, R161: the loop operations' writes at commit, and the transfers of lset and lbrk. -/
theorem loopOperationsSetTheirRegisters : Spec.LoopOperationsSetTheirRegisters := by
  refine ⟨?lset, fun f s a hc hon ha => ?lrot, ?lbrk⟩
  case lset =>
    intro n f s a hc hon ha hd t ht
    have htarget : (if a.l ≠ 0 then a.t else s.exitAddr s.cid a.o) = t := ite_not ..
    refine exec_of_opOf (v := .ofS 0 5 _ f) rfl ((slotZero_acts (op := _) rfl hc hon ha).trans ?_)
    rw [htarget, transfer_ok hd ht, bind_of_ok]
    exact congrArg Except.ok (foldl_move (s.takes (t, none)) [_, _, _])
  case lrot =>
    refine exec_of_opOf (v := .ofS 0 5 _ f) rfl ((slotZero_acts (op := _) rfl hc hon ha).trans ?_)
    rw [← foldl_move, ← rotWrites_first, List.foldl_append]
    rfl
  case lbrk =>
    intro n f s hc hon hle hd t ht
    refine exec_of_opOf (v := .ofS 0 5 _ f) rfl ((guarded_acts (v := .ofS 0 5 _ f) rfl rfl rfl hc hon).trans ?_)
    rw [leReg, hle, bind_of_ok]
    show inSlot 0 (s.transfer 5 t none >>= _) = _
    rw [transfer_ok hd ht, bind_of_ok]
    rfl

/-- R158, R159: the evaluation by what remains of the count. -/
theorem loopEndEvaluation : Spec.LoopEndEvaluation := by
  intro s h after n hx hc hl hp _ hec hls b lc ec ls turn go
  have hturn (x : Bool) : b.rotate x = turn x := b.rotate_eq x
  have evaluates {lc' ec' : Word} {x back : Bool} (hstep : loopStep h.rot lc ec = (lc', ec', x, back)) :
      go (b.loopWrites h.rot n lc' ec' x) back := by
    have hflow : s.flow h after = s.evalLoop h.rot n after := State.flow_of_loopEnd hx hc hl hp
    cases back with
    | true => exact fun ht => hflow.trans (State.evalLoop_back hstep hec hls ht)
    | false => exact hflow.trans (State.evalLoop_exit hstep hec)
  cases hrot : h.rot with
  | false =>
    rw [hrot] at evaluates
    exact evaluates loopStep_plain
  | true =>
    simp only [hrot, Bank.loopWrites, if_true, hturn] at evaluates
    rw [if_neg Bool.noConfusion]
    by_cases hmore : 1 < lc.toNat
    · rw [if_pos hmore]
      exact evaluates (loopStep_turn hmore)
    · rw [if_neg hmore]
      by_cases hlast : lc = 1
      · rw [if_pos hlast]
        exact evaluates (hlast ▸ loopStep_last)
      · rw [if_neg hlast]
        exact evaluates (loopStep_drain hmore hlast)

/-- Settles O9: transfers, the loop operations, and the evaluation of a loop end. -/
theorem controlOperations : Obligations.ControlOperations :=
  ⟨transferWaitsForItsDelayBundle, loopOperationsSetTheirRegisters, loopEndEvaluation⟩

end Sys2Proof.Machine
end

section
/-! System operations and semaphores (R146 to R151, R165 to R172). -/

namespace Sys2Proof.Machine

section
variable {s : State} {i : Instr} {f : OpS} {a : ScalarArgs} {op : Nat}

/-! System operations. -/

/-- In a bundle with PITCH and CAIRN the act of a system operation waits for the release (R165). -/
theorem sysOp_waits {act : Word → After} (hv : i.view = some (.ofS 0 6 op f)) (hc : i.check = none) (hon : Spec.on s f.g)
    (ha : s.scalarArgs 6 i.shape f = .ok a) (hp : s.cur.pitch = true) (hk : s.cur.cairn = true) :
    s.sysOp i f act = .ok (s.modMe fun c => { c with after := act a.t }) := by
  rw [State.sysOp, slotZero_acts hv hc hon ha, hp, hk]
  rfl

/-- In any other bundle it is an illegal form, with sys named (R165). -/
theorem sysOp_illegal {act : Word → After} (hv : i.view = some (.ofS 0 6 op f)) (hc : i.check = none) (hon : Spec.on s f.g)
    (ha : s.scalarArgs 6 i.shape f = .ok a) (h : s.cur.pitch = false ∨ s.cur.cairn = false) :
    s.sysOp i f act = .error (.trap { cause := 4, unit := 6, slot := 0 }) := by
  have hform : (s.cur.pitch && s.cur.cairn) = false := Bool.and_eq_false_iff.2 h
  rw [State.sysOp, slotZero_acts hv hc hon ha, hform]
  rfl

/-- In a handler tret is a system operation as the others (R169). -/
theorem opTret_of_hnd (h : s.me.hnd = true) : opTret f s = s.sysOp (.tret f) f fun _ => .tret := by
  have hform : (s.guard f.g && !s.me.hnd) = false := by rw [h]; exact Bool.and_false _
  rw [opTret, hform, State.sysOp]
  cases s.opens (.tret f) with
  | error x => rfl
  | ok u => exact inSlot_inSlot ..

/-- Outside of one it is an illegal form, whatever its operands (R169). -/
theorem opTret_illegal (hc : (Instr.tret f).check = none) (hon : Spec.on s f.g) (h : s.me.hnd = false) :
    opTret f s = .error (.trap { cause := 4, unit := 6, slot := 0 }) := by
  have ho : s.opens (.tret f) = .ok () := State.opens_of_on (v := .ofS 0 6 _ f) hc rfl rfl hon
  obtain ⟨-, hg, -⟩ := hon
  rw [opTret, ho, bind_of_ok, hg, h]
  rfl

/-- A system operation with what waits for the release; of tret, in a handler. -/
theorem mem_sysOps {t : Word} {e : (OpS → Instr) × After} (he : e ∈ Spec.sysOps s t) :
    ∃ act : Word → After, (∃ op, (e.1 f).view = some (.ofS 0 6 op f)) ∧
      ((e.1 f = .tret f → s.me.hnd = true) → opOf (e.1 f) s = s.sysOp (e.1 f) f act) ∧ act t = e.2 := by
  revert e
  simp only [Spec.sysOps, List.forall_mem_cons, List.not_mem_nil, false_implies, implies_true, and_true]
  exact ⟨⟨fun t => .swTrap 18 t s.cur.addr, ⟨_, rfl⟩, fun _ => rfl, rfl⟩,
    ⟨fun _ => .tret, ⟨_, rfl⟩, fun hh => opTret_of_hnd (hh trivial), rfl⟩,
    ⟨.exit, ⟨_, rfl⟩, fun _ => rfl, rfl⟩,
    ⟨fun _ => .yield, ⟨_, rfl⟩, fun _ => rfl, rfl⟩,
    ⟨fun t => .swTrap 19 t s.cur.addr, ⟨_, rfl⟩, fun _ => rfl, rfl⟩⟩

/-! Takes (R147, R148). -/

/-- What a take of n leaves: the semaphore less n, and n more in the log of what is returned; a take of 0 is none. -/
def State.taken (s : State) (q : BitVec 8) (n : Nat) : State :=
  if n = 0 then s
  else (s.modMe fun c => { c with log := Tab.upd 0 c.log q.toNat (· + n) }).setSem s.cur.core q (s.sem s.cur.core q - n)

/-- A log with room takes the amount. -/
theorem take_of_room {q : BitVec 8} {n unit : Nat} (h : s.me.log.length < 16) : s.take q n unit = .ok (s.taken q n) := by
  unfold State.take State.taken
  split
  · rfl
  · simp only [State.logTake, h, decide_true, Bool.or_true, if_true]
    rfl

/-! Signals (R149). -/

/-- An add merges with no entry of another semaphore. -/
theorem mergeAdd_eq_none {q : BitVec 8} (n : Nat) {l : List Sig} (h : ∀ x ∈ l, x.sem ≠ q) : mergeAdd q n l = none := by
  induction l with
  | nil => rfl
  | cons x r ih =>
    obtain ⟨hx, hr⟩ := List.forall_mem_cons.1 h
    simp [mergeAdd, ih hr, hx]

/-- What a signal with its own entry leaves. -/
def State.signaled (s : State) (q : BitVec 8) (set : Bool) (n : Nat) : State :=
  s.modMe fun c => { c with sigs := c.sigs ++ [⟨q, set, n, s.coreSlot s.cur.core, s.coreGen s.cur.core⟩] }

/-- A buffer with room takes a signal that merges with none. -/
theorem signal_of_room {q : BitVec 8} {set : Bool} {n unit : Nat} (h : s.me.sigs.length < 16)
    (hm : set = false → mergeAdd q n s.me.sigs = none) : s.signal q set n unit = .ok (s.signaled q set n) := by
  have hnone : (if set then none else mergeAdd q n s.me.sigs) = none := by
    cases set with
    | true => rfl
    | false => exact hm rfl
  simp only [State.signal, hnone, if_neg (Nat.not_le.2 h)]
  rfl

/-- A semaphore operation is its action on its operands (R151). -/
theorem smOp_acts {act : ScalarArgs → Res State} (hv : i.view = some (.ofS 0 7 op f)) (hc : i.check = none)
    (hon : Spec.on s f.g) (ha : s.scalarArgs 7 i.shape f = .ok a) : s.smOp i f act = inSlot 0 (act a) :=
  slotZero_acts hv hc hon ha

end

section
variable {s : State} {f : OpS} {a : ScalarArgs} (hon : Spec.on s f.g)
  (ha : s.scalarArgs 7 { t := .any, o := .any } f = .ok a)
include hon ha

/-- stake takes from a semaphore that holds enough, and sets the top bit of what it returns (R151). -/
theorem opStake_takes (hc : (Instr.stake f).check = none) (hlog : s.me.log.length < 16)
    (hn : a.o.toNat ≤ s.sem s.cur.core (semOf a.t)) : opStake f s =
      .ok ((s.taken (semOf a.t) a.o.toNat).land 0 7 1
        (Spec.writes s 9 f.w (Spec.n64 (2 ^ 63 + s.sem s.cur.core (semOf a.t))))) := by
  refine (smOp_acts (op := _) rfl hc hon ha).trans ?_
  simp only [hn, if_true, take_of_room hlog, bind_of_ok, State.scalarWrites_eq]
  rfl

/-- stake takes nothing from one that holds too little (R151). -/
theorem opStake_fails (hc : (Instr.stake f).check = none) (hn : s.sem s.cur.core (semOf a.t) < a.o.toNat) :
    opStake f s = .ok (s.land 0 7 1 (Spec.writes s 9 f.w (Spec.n64 (s.sem s.cur.core (semOf a.t))))) := by
  refine (smOp_acts (op := _) rfl hc hon ha).trans ?_
  simp only [Nat.not_le.2 hn, if_false, State.scalarWrites_eq]
  rfl

/-- swait takes from a semaphore that holds enough (R147, R151). -/
theorem opSwait_takes (hc : (Instr.swait f).check = none) (hlog : s.me.log.length < 16)
    (hn : a.o.toNat ≤ s.sem s.cur.core (semOf a.t)) : opSwait f s =
      .ok ((s.taken (semOf a.t) a.o.toNat).land 0 7 1 (Spec.writes s 9 f.w (Spec.n64 (s.sem s.cur.core (semOf a.t))))) := by
  refine (smOp_acts (op := _) rfl hc hon ha).trans ?_
  simp only [Nat.not_lt.2 hn, if_false, take_of_room hlog, bind_of_ok, State.scalarWrites_eq]
  rfl

/-- swait blocks at one that holds too little (R147). -/
theorem opSwait_blocks (hc : (Instr.swait f).check = none) (hn : s.sem s.cur.core (semOf a.t) < a.o.toNat) :
    opSwait f s = .error (.block .swait) := by
  refine (smOp_acts (op := _) rfl hc hon ha).trans ?_
  simp only [hn, if_true]
  rfl

/-- sset enters the signal buffer (R149, R151). -/
theorem opSset_of_room (hc : (Instr.sset f).check = none) (hsigs : s.me.sigs.length < 16) :
    opSset f s = .ok (s.signaled (semOf a.t) true a.o.toNat) := by
  refine (smOp_acts (op := _) rfl hc hon ha).trans ?_
  rw [signal_of_room hsigs fun h => Bool.noConfusion h]
  rfl

/-- So does sadd, where it merges with no entry (R149, R151). -/
theorem opSadd_of_room (hc : (Instr.sadd f).check = none) (hsigs : s.me.sigs.length < 16)
    (hq : ∀ x ∈ s.me.sigs, x.sem ≠ semOf a.t) : opSadd f s = .ok (s.signaled (semOf a.t) false a.o.toNat) := by
  refine (smOp_acts (op := _) rfl hc hon ha).trans ?_
  rw [signal_of_room hsigs fun _ => mergeAdd_eq_none a.o.toNat hq]
  rfl

end

/-- R165, R168 to R172: the system operations. -/
theorem systemOperationsWaitForRelease : Spec.SystemOperationsWaitForRelease := by
  refine ⟨fun f s a e he hc hon ha hhnd => ?acts, fun f s hc hon hhnd => ?tret, fun f s a hc hon ha => ?sleep⟩
  case acts =>
    obtain ⟨act, ⟨op, hv⟩, hop, hact⟩ := mem_sysOps (f := f) he
    refine ⟨fun hp hk => ?_, fun h => ?_⟩
    · rw [← hact]
      exact exec_of_opOf hv ((hop hhnd).trans (sysOp_waits hv hc hon ha hp hk))
    · exact exec_of_opOf_error hv ((hop hhnd).trans (sysOp_illegal hv hc hon ha h))
  case tret => exact exec_of_opOf_error (v := .ofS 0 6 _ f) rfl (opTret_illegal hc hon hhnd)
  case sleep => exact exec_of_opOf (v := .ofS 0 6 _ f) rfl (slotZero_acts (op := _) rfl hc hon ha)

/-- R147 to R151: the semaphore operations. -/
theorem semaphoreOperations : Spec.SemaphoreOperations := by
  intro f s a hon ha q v n taken
  exact ⟨fun hc hlog hn => exec_of_opOf (v := .ofS 0 7 _ f) rfl (opStake_takes hon ha hc hlog hn),
    fun hc hn => exec_of_opOf (v := .ofS 0 7 _ f) rfl (opStake_fails hon ha hc hn),
    fun hc hlog hn => exec_of_opOf (v := .ofS 0 7 _ f) rfl (opSwait_takes hon ha hc hlog hn),
    fun hc hn => exec_of_opOf_error (v := .ofS 0 7 _ f) rfl (opSwait_blocks hon ha hc hn),
    fun hsigs => ⟨fun hc => exec_of_opOf (v := .ofS 0 7 _ f) rfl (opSset_of_room hon ha hc hsigs),
      fun hc hq => exec_of_opOf (v := .ofS 0 7 _ f) rfl (opSadd_of_room hon ha hc hsigs hq)⟩⟩

/-- Settles O10: the system operations and the semaphore operations. -/
theorem systemAndSemaphoreOperations : Obligations.SystemAndSemaphoreOperations :=
  ⟨systemOperationsWaitForRelease, semaphoreOperations⟩

end Sys2Proof.Machine
end

section
/-! Element-wise results (R197): the writes of an operation of va or vb as its statement gives them, and the rule by which one lands
them. -/

namespace Sys2Proof.Machine

/-- The elements of a result as its bits: those under a false bit of the guard are zero in the latch (R197). -/
theorem lanesOf_guarded {w : Nat} (hw : w ∣ 1024) (g : VPred) (r : Nat → Nat) :
    lanesOf w ((List.range (1024 / w)).map fun i => if g.getLsbD i then r i else 0) =
      BitVec.ofFnLE fun i : Fin 1024 => g.getLsbD (i.val / w) && (r (i.val / w)).testBit (i.val % w) := by
  ext j hj
  have hl : j / w < 1024 / w := Nat.div_lt_div_of_lt_of_dvd hw hj
  rw [← BitVec.getLsbD_eq_getElem, getLsbD_lanesOf (Nat.pos_of_dvd_of_pos hw (by decide)) _ hj]
  by_cases hg : g.getLsbD (j / w)
  · simp [hl, hg]
  · simp [hl, hg]

/-- The writes of an element-wise result: the latch and, under the guard, W (R197). -/
theorem elemWrites_eq_elementwise {w : Nat} (hw : w ∣ 1024) (s : State) (u : VecUnit) (f : OpS) (fm : Nat) (b : Int)
    (r : Nat → Nat) : elemWrites u f.w (s.vguard f.g) w fm b r = Spec.elementwise s u f w fm b r := by
  simp only [elemWrites, Spec.elementwise, lanesOf_guarded hw, elemMask_eq hw, wbV]
  congr 1
  split
  · rfl
  · rfl

section
variable {s : State} {i : Instr} {u : VecUnit} {f : OpS} {op n lat range fm : Nat} {t o : Src} {l : Wide} {b : Int} {r : Nat → Nat}
  {act : VArgs → Res (List RegWrite)} {rounds : Bool}

/-- A vector operation that may act lands the elements its function gives (R194 to R197). -/
theorem vecOp_lands_elementwise (hv : i.view = some (.ofS u.slot u.unit op f)) (hop : opOf i s = s.vecOp i u f lat range act rounds)
    (hr : Spec.vready s i u f n t o l) (hn : range = n) (hm : rounds = true → Spec.rounding s)
    (ha : act (s.vargs i f t o l) = .ok (elemWrites u f.w (s.vguard f.g) (fmtWidth fm) fm b r)) :
    Spec.lands s i u.slot u.unit lat (Spec.elementwise s u f (fmtWidth fm) fm b r) := by
  rw [← elemWrites_eq_elementwise (fmtWidth_dvd fm)]
  exact exec_of_opOf hv (hop.trans (vecOp_lands hv hr hn hm ha))

/-- The range of the guard of an operation on T alone, by T's format (R197). -/
theorem fmtRange_of_readT (ho : i.shape.o = .none) (hl : i.shape.readsL = false) (ht : s.readT f.t = .ok t)
    (h0 : t.tagged.fmt.toNat ≠ 0) : s.fmtRange i u f = 1024 / fmtWidth t.tagged.fmt.toNat := by
  simp [State.fmtRange, State.codes, ho, hl, portTag_of_readT ht, firstCode, h0, rangeOf_typed h0]

/-- A typed source is a vector, with elements of its own (R195). -/
theorem elemAt_of_typed (h : t.tagged.fmt ≠ 0) (w k : Nat) : t.elemAt w k = elem w t.tagged.data k := by
  have hk : t.kind = .vector := by
    by_contra hk
    exact h (by simp only [Src.tagged, if_neg hk])
  simp only [Src.elemAt, Src.tagged, if_pos hk]

end

end Sys2Proof.Machine
end

section
/-! The functions of R202: the values of their exact cases, and the bound that holds the others. -/

namespace Sys2Proof.Machine

/-- A result that the rounded exact value decides where that overflows or underflows, and otherwise up to n ulp (R189, R202). -/
def HeldToBound (fm n mode : Nat) (exact : FVal) (r : Nat) : Prop :=
  (r = encodeIeee fm mode exact ∨ withinUlp fm n (ieeeValue fm r) exact = true) ∧
    (extreme fm exact = true → r = encodeIeee fm mode exact)

/-- Whatever the free value, it is kept within the bound only. -/
theorem boundedFree_heldToBound (fm n mode free : Nat) (exact : FVal) :
    HeldToBound fm n mode exact (boundedFree fm n mode free exact) := by
  unfold boundedFree
  by_cases hx : extreme fm exact = true
  · rw [if_pos hx]
    exact ⟨.inl rfl, fun _ => rfl⟩
  · rw [if_neg hx]
    refine ⟨?_, fun h => absurd h hx⟩
    split
    · exact .inr ‹_›
    · exact .inl rfl

section
variable {fm mode c : Nat} {b : Int} {a : Bool} {m : Nat} {e : Int}

/-- A NaN gives the canonical NaN. -/
theorem transcend_nan (op : Nat) (hx : fmtValue fm b c = .nan) : transcend op fm mode c b = ieeeNan fm := by
  unfold transcend
  rw [hx]

/-- The limits at the infinities. -/
theorem transcend_inf (hx : fmtValue fm b c = .inf a) :
    transcend 0 fm mode c b = encodeIeee fm mode (.fin a 0 0) ∧
      transcend 1 fm mode c b = (if a then ieeeNan fm else encodeIeee fm mode (.fin false 0 0)) ∧
      transcend 2 fm mode c b = encodeIeee fm mode (if a then .fin false 0 0 else .inf false) ∧
      transcend 3 fm mode c b = (if a then ieeeNan fm else encodeIeee fm mode (.inf false)) ∧
      transcend 4 fm mode c b = encodeIeee fm mode (.fin a 1 0) := by
  unfold transcend
  rw [hx]
  refine ⟨rfl, rfl, rfl, rfl, ?_⟩
  cases a
  · rfl
  · rfl

/-! Each function at a finite value. -/

theorem transcend_rcp (hx : fmtValue fm b c = .fin a m e) : transcend 0 fm mode c b =
    if m = 0 then encodeIeee fm mode (.inf a)
    else boundedFree fm 1 mode (Config.transcendental 0 fm mode c b % 2 ^ fmtWidth fm) (recipVal a m e) := by
  unfold transcend
  rw [hx]
  rfl

theorem transcend_rsq (hx : fmtValue fm b c = .fin a m e) : transcend 1 fm mode c b =
    if m = 0 then encodeIeee fm mode (.inf a)
    else if a then ieeeNan fm
    else boundedFree fm 1 mode (Config.transcendental 1 fm mode c b % 2 ^ fmtWidth fm) (rsqrtVal m e) := by
  unfold transcend
  rw [hx]
  rfl

theorem transcend_exp2 (hx : fmtValue fm b c = .fin a m e) : transcend 2 fm mode c b =
    if 1000 ≤ roundMag 1 a m e then encodeIeee fm mode (.fin false 1 (if a then -1000 else 1000))
    else if m = 0 || 0 ≤ e || decide (roundMag 1 a m e * 2 ^ (-e).toNat = m) then
      encodeIeee fm mode (.fin false 1 (if a then -(roundMag 1 a m e : Int) else roundMag 1 a m e))
    else boundedFree fm (if fm = 9 then 2 else 1) mode (Config.transcendental 2 fm mode c b % 2 ^ fmtWidth fm) (exp2Val a m e) := by
  unfold transcend
  rw [hx]
  rfl

theorem transcend_log2 (hx : fmtValue fm b c = .fin a m e) : transcend 3 fm mode c b =
    if m = 0 then encodeIeee fm mode (.inf true)
    else if a then ieeeNan fm
    else if isPow2 m then encodeIeee fm mode (.fin ((Nat.log2 m : Int) + e < 0) ((Nat.log2 m : Int) + e).natAbs 0)
    else boundedFree fm (if fm = 9 then 2 else 1) mode (Config.transcendental 3 fm mode c b % 2 ^ fmtWidth fm) (log2Val m e) := by
  unfold transcend
  rw [hx]
  rfl

theorem transcend_tanh (hx : fmtValue fm b c = .fin a m e) : transcend 4 fm mode c b =
    if m = 0 then encodeIeee fm mode (.fin a 0 0)
    else boundedFree fm (if fm = 9 then 2 else 1) mode (Config.transcendental 4 fm mode c b % 2 ^ fmtWidth fm) (tanhVal a m e) := by
  unfold transcend
  rw [hx]
  rfl

/-! The exact cases. -/

/-- The magnitude of a zero is the integer 0. -/
theorem roundMag_zero (a : Bool) (e : Int) : roundMag 1 a 0 e = 0 := by
  cases e with
  | ofNat k => exact Nat.zero_mul _
  | negSucc k => simp [roundMag]

/-- The values and poles at the zeros. -/
theorem transcend_zero (hx : fmtValue fm b c = .fin a 0 e) :
    transcend 0 fm mode c b = encodeIeee fm mode (.inf a) ∧ transcend 1 fm mode c b = encodeIeee fm mode (.inf a) ∧
      transcend 2 fm mode c b = encodeIeee fm mode (.fin false 1 0) ∧ transcend 3 fm mode c b = encodeIeee fm mode (.inf true) ∧
      transcend 4 fm mode c b = encodeIeee fm mode (.fin a 0 0) := by
  refine ⟨transcend_rcp hx, transcend_rsq hx, ?_, transcend_log2 hx, transcend_tanh hx⟩
  rw [transcend_exp2 hx, roundMag_zero]
  simp

/-- Root and logarithm of a negative value are NaN. -/
theorem transcend_negative (hx : fmtValue fm b c = .fin true m e) (hm : m ≠ 0) :
    transcend 1 fm mode c b = ieeeNan fm ∧ transcend 3 fm mode c b = ieeeNan fm := by
  rw [transcend_rsq hx, transcend_log2 hx, if_neg hm, if_neg hm]
  exact ⟨rfl, rfl⟩

/-- The logarithm of a power of two is an integer. -/
theorem transcend_log2_two_pow {k : Nat} (hx : fmtValue fm b c = .fin false (2 ^ k) e) :
    transcend 3 fm mode c b = encodeIeee fm mode (.fin ((k : Int) + e < 0) ((k : Int) + e).natAbs 0) := by
  have hpow : isPow2 (2 ^ k) = true := by simp [isPow2]
  rw [transcend_log2 hx, if_neg (Nat.two_pow_pos k).ne', if_neg Bool.false_ne_true, if_pos hpow, Nat.log2_two_pow]

/-! The cases held to a bound. -/

theorem transcend_rcp_heldToBound (hx : fmtValue fm b c = .fin a m e) (hm : m ≠ 0) :
    HeldToBound fm 1 mode (recipVal a m e) (transcend 0 fm mode c b) := by
  rw [transcend_rcp hx, if_neg hm]
  exact boundedFree_heldToBound ..

theorem transcend_rsq_heldToBound (hx : fmtValue fm b c = .fin false m e) (hm : m ≠ 0) :
    HeldToBound fm 1 mode (rsqrtVal m e) (transcend 1 fm mode c b) := by
  rw [transcend_rsq hx, if_neg hm, if_neg Bool.false_ne_true]
  exact boundedFree_heldToBound ..

/-- A magnitude with bits after the point, rounded toward zero. -/
theorem roundMag_trunc (he : e < 0) : roundMag 1 a m e = m / 2 ^ (-e).toNat := by
  obtain ⟨k, rfl⟩ := Int.eq_negSucc_of_lt_zero he
  rfl

/-- The exponential of a value that is no integer, its magnitude below 999. -/
theorem transcend_exp2_heldToBound (hx : fmtValue fm b c = .fin a m e) (hm : m ≠ 0) (he : e < 0) (hfrac : m % 2 ^ (-e).toNat ≠ 0)
    (hlt : m / 2 ^ (-e).toNat < 999) : HeldToBound fm (if fm = 9 then 2 else 1) mode (exp2Val a m e) (transcend 2 fm mode c b) := by
  have hsmall : ¬ 1000 ≤ m / 2 ^ (-e).toNat := Nat.not_le.2 (hlt.trans (by decide))
  have hne : m / 2 ^ (-e).toNat * 2 ^ (-e).toNat ≠ m := fun h => hfrac (Nat.mod_eq_zero_of_dvd (Dvd.intro_left _ h))
  have hfractional : ¬ (m = 0 || 0 ≤ e || decide (m / 2 ^ (-e).toNat * 2 ^ (-e).toNat = m)) = true := by simp [hm, he, hne]
  rw [transcend_exp2 hx, roundMag_trunc he, if_neg hsmall, if_neg hfractional]
  exact boundedFree_heldToBound ..

/-- The logarithm of a positive value that is no power of two. -/
theorem transcend_log2_heldToBound (hx : fmtValue fm b c = .fin false m e) (hm : m ≠ 0) (hpow : ∀ k, m ≠ 2 ^ k) :
    HeldToBound fm (if fm = 9 then 2 else 1) mode (log2Val m e) (transcend 3 fm mode c b) := by
  have hp : ¬ isPow2 m = true := by simp [isPow2, hpow]
  rw [transcend_log2 hx, if_neg hm, if_neg Bool.false_ne_true, if_neg hp]
  exact boundedFree_heldToBound ..

theorem transcend_tanh_heldToBound (hx : fmtValue fm b c = .fin a m e) (hm : m ≠ 0) :
    HeldToBound fm (if fm = 9 then 2 else 1) mode (tanhVal a m e) (transcend 4 fm mode c b) := by
  rw [transcend_tanh hx, if_neg hm]
  exact boundedFree_heldToBound ..

end

section
variable {s : State} {u : VecUnit} {f : OpS} {t : Src}

/-- A function of R202 lands its elements after six cycles. -/
theorem vtrans_lands {i : Instr} {op k : Nat} (hv : i.view = some (.ofS u.slot u.unit op f)) (hop : opOf i s = s.vtrans i u f k)
    (ho : i.shape.o = .none) (hl : i.shape.readsL = false) (h : 7 ≤ t.tagged.fmt.toNat) (h' : t.tagged.fmt.toNat ≤ 9)
    (hm : Spec.rounding s) (hr : Spec.vready s i u f (1024 / fmtWidth t.tagged.fmt.toNat) t (srcS 0) {}) :
    Spec.lands s i u.slot u.unit 6 (Spec.elementwise s u f (fmtWidth t.tagged.fmt.toNat) t.tagged.fmt.toNat 0 fun j =>
      transcend k t.tagged.fmt.toNat s.me.bank.fmode (t.elemAt (fmtWidth t.tagged.fmt.toNat) j) t.tagged.b) := by
  obtain ⟨-, -, -, ht, -⟩ := id hr
  refine vecOp_lands_elementwise hv hop hr (fmtRange_of_readT ho hl ht (by omega)) (fun _ => hm) ?_
  show (vecFmt fmtIeee [(0, t.tagged)]).bind _ = _
  rw [vecFmt_ieee h h']
  rfl

end

/-- R202: the functions land, and their elements have the values of the rule. -/
theorem vectorFunctionResults : Spec.VectorFunctionResults := by
  refine ⟨fun u f s t fm h h' hm => ?lands, fun fm mode c b _ _ => ⟨fun hx e _ => transcend_nan e.2 hx,
    fun a hx => transcend_inf hx, fun a e hx => transcend_zero hx, fun a m e hx hm => ⟨?negative, ?pow, ?bound⟩⟩⟩
  case lands =>
    simp only [Spec.funcs, List.forall_mem_cons, List.not_mem_nil, false_imp_iff, implies_true, and_true]
    refine ⟨?_, ?_, ?_, ?_, ?_⟩
    all_goals
      rintro hr rfl
      exact vtrans_lands rfl rfl rfl rfl h h' hm hr
  case negative =>
    rintro rfl
    exact transcend_negative hx hm
  case pow =>
    rintro rfl k rfl
    exact transcend_log2_two_pow hx
  case bound =>
    simp only [List.forall_mem_cons, List.not_mem_nil, false_imp_iff, implies_true, and_true]
    refine ⟨fun _ _ _ => transcend_rcp_heldToBound hx hm, fun ha _ _ => ?rsq, fun _ he _ => ?exp2, fun ha _ hp => ?log2,
      fun _ _ _ => transcend_tanh_heldToBound hx hm⟩
    case rsq =>
      obtain rfl := ha (.inl trivial)
      exact transcend_rsq_heldToBound hx hm
    case exp2 =>
      obtain ⟨hneg, hfrac, hlt⟩ := he trivial
      exact transcend_exp2_heldToBound hx hm hneg hfrac hlt
    case log2 =>
      obtain rfl := ha (.inr trivial)
      exact transcend_log2_heldToBound hx hm (hp trivial)

end Sys2Proof.Machine
end

section
/-! The conversions (R190 to R193), and the obligation on functions and conversions. -/

namespace Sys2Proof.Machine

/-- A field as a number. -/
theorem field_eq_div_mod {w : Nat} (x : BitVec w) (lo n : Nat) : field x lo n = x.toNat / 2 ^ lo % 2 ^ n := by
  rw [field, BitVec.extractLsb'_toNat, Nat.shiftRight_eq_div_pow]

/-- A signed field of O: its low bits from bit lo up, read in two's complement. -/
theorem signed_field {n : Nat} (hn : 0 < n) (x : Word) (lo : Nat) :
    signed n (field x lo n) = Int.bmod ((x.toNat / 2 ^ lo % 2 ^ n : Nat) : Int) (2 ^ n) := by
  rw [signed_eq_bmod hn, field_eq_div_mod]

/-- An element of a vcvt: into elements no wider than the source's, a part of the result is filled; into wider ones, a part of the
source is converted (R190). -/
theorem cvtElem_eq (fm : Nat) (b : Int) (mode part : Nat) (t : Wide) (k : Nat) :
    let ws := fmtWidth t.fmt.toNat
    let wd := fmtWidth fm
    let conv := fun (j : Nat) => fmtEncode fm b mode (fmtValue t.fmt.toNat t.bias.toInt (elem ws t.data j))
    cvtElem fm b mode part t k = if wd ≤ ws then
        (let p := part % (ws / wd) * (1024 / ws)
         if p ≤ k ∧ k < p + 1024 / ws then conv (k - p) else 0)
      else conv (part % (wd / ws) * (1024 / wd) + k) := by
  intro ws wd conv
  by_cases h : wd ≤ ws
  · simp only [cvtElem, ws, wd, conv, Nat.max_eq_left h, Nat.min_eq_right h, if_pos h]
  · have hle : ws ≤ wd := Nat.le_of_not_le h
    simp only [cvtElem, ws, wd, conv, Nat.max_eq_right hle, Nat.min_eq_left hle, if_neg h]

section
variable {s : State} {u : VecUnit} {f : OpS} {t o : Src}

/-- vcvt to a format with values (R190). -/
theorem vcvt_lands {fmt : BitVec 4} (h12 : fmt ≠ 12) (hm : Spec.rounding s) (h0 : t.tagged.fmt ≠ 0) (ht12 : t.tagged.fmt ≠ 12)
    (hr : Spec.vready s (.vcvt u fmt f) u f (1024 / fmtWidth fmt.toNat) t o {}) :
    Spec.lands s (.vcvt u fmt f) u.slot u.unit 4 (Spec.elementwise s u f (fmtWidth fmt.toNat) fmt.toNat
      (signed 6 (field o.word 0 6)) fun k =>
        cvtElem fmt.toNat (signed 6 (field o.word 0 6)) s.me.bank.fmode (field o.word 8 2) t.tagged k) := by
  have hop : opOf (.vcvt u fmt f) s = opVcvt u fmt f s := rfl
  have hshape : (Instr.vcvt u fmt f).shape = { t := .vec, o := .any, w := .opt } := if_neg h12
  rw [opVcvt, if_neg h12] at hop
  refine vecOp_lands_elementwise rfl hop hr rfl (fun _ => hm) ?_
  simp only [if_neg h12, State.vargs, VArgs.os, hshape, reduceCtorEq, if_false, h0, ht12, or_self]

/-- vcvt to raw copies (R190). -/
theorem vcvt_raw_lands (hr : Spec.vready s (.vcvt u 12 f) u f 16 t o {}) :
    Spec.lands s (.vcvt u 12 f) u.slot u.unit 2 (Spec.elementwise s u f 64 12 0 fun k => elem 64 t.tagged.data k) := by
  have hop : opOf (.vcvt u 12 f) s = opVcvt u 12 f s := rfl
  rw [opVcvt, if_pos rfl] at hop
  exact vecOp_lands_elementwise (fm := 12) rfl hop hr rfl (fun hm => by cases hm) (if_pos rfl)

/-- vscale (R191). -/
theorem vscale_lands (hm : Spec.rounding s) (h0 : t.tagged.fmt ≠ 0) (ht12 : t.tagged.fmt ≠ 12)
    (hr : Spec.vready s (.vscale u f) u f (1024 / fmtWidth t.tagged.fmt.toNat) t o {}) :
    Spec.lands s (.vscale u f) u.slot u.unit 4 (Spec.elementwise s u f (fmtWidth t.tagged.fmt.toNat) t.tagged.fmt.toNat
      t.tagged.bias.toInt fun k =>
        let c := elem (fmtWidth t.tagged.fmt.toNat) t.tagged.data k
        if signed 8 o.word.toNat = 0 then c
        else fmtEncode t.tagged.fmt.toNat t.tagged.bias.toInt s.me.bank.fmode
          ((fmtValue t.tagged.fmt.toNat t.tagged.bias.toInt c).scale (signed 8 o.word.toNat))) := by
  obtain ⟨-, -, -, ht, -⟩ := id hr
  have hrange : s.tRange f = 1024 / fmtWidth t.tagged.fmt.toNat := by
    rw [State.tRange, portTag_of_readT ht, rangeOf_typed fun e => h0 (BitVec.eq_of_toNat_eq e)]
  have hop : opOf (.vscale u f) s = opVscale u f s := rfl
  rw [opVscale] at hop
  refine vecOp_lands_elementwise rfl hop hr hrange (fun _ => hm) ?_
  simp only [State.vargs, VArgs.os, h0, ht12, or_self, if_false, elemAt_of_typed h0]
  rfl

/-- vtag to a code that is not reserved (R192). -/
theorem vtag_lands (h : o.word.toNat % 16 ≤ 12) (hr : Spec.vready s (.vtag u f) u f (1024 / fmtWidth (o.word.toNat % 16)) t o {}) :
    Spec.lands s (.vtag u f) u.slot u.unit 2 (Spec.elementwise s u f (fmtWidth (o.word.toNat % 16)) (o.word.toNat % 16)
      (signed 6 (field o.word 4 6)) fun k => t.elemAt (fmtWidth (o.word.toNat % 16)) k) := by
  obtain ⟨-, -, -, -, ho, -⟩ := id hr
  have hn : s.newCode u f = some (o.word.toNat % 16) := newCode_of_readO (ho (by intro hs; cases hs))
  have hcode : field o.word 0 4 = o.word.toNat % 16 := by rw [field_eq_div_mod, Nat.pow_zero, Nat.div_one]; rfl
  have hop : opOf (.vtag u f) s = opVtag u f s := rfl
  rw [opVtag] at hop
  refine vecOp_lands_elementwise rfl hop hr (by rw [hn]) (fun hm => by cases hm) ?_
  have hshape : (Instr.vtag u f).shape.o = .any := rfl
  have hvalid : ¬ 13 ≤ o.word.toNat % 16 := by omega
  simp only [State.vargs, VArgs.os, hshape, reduceCtorEq, if_false, hcode, hvalid]

end

/-- R190 to R193: the conversions land. -/
theorem vectorConversionResults : Spec.VectorConversionResults := by
  intro u f s t o
  refine ⟨fun fmt h12 hm h0 ht12 hr => ?cvt, vcvt_raw_lands, fun hm h0 ht12 hr => ?scale, fun h hr => ?tag⟩
  case cvt =>
    have h := vcvt_lands h12 hm h0 ht12 hr
    have hbias : signed 6 (field o.word 0 6) = Int.bmod (o.word.toNat % 64) 64 := by
      rw [signed_field (by decide), Nat.pow_zero, Nat.div_one]
      rfl
    have hpart : field o.word 8 2 = o.word.toNat / 256 % 4 := field_eq_div_mod ..
    simp only [cvtElem_eq, hbias, hpart] at h
    exact h
  case scale =>
    have h := vscale_lands hm h0 ht12 hr
    have hscale : signed 8 o.word.toNat = Int.bmod (o.word.toNat % 256) 256 := by
      rw [signed_eq_bmod (by decide)]
      exact (Int.emod_bmod ..).symm
    simp only [hscale] at h
    exact h
  case tag =>
    have h := vtag_lands h hr
    have hbias : signed 6 (field o.word 4 6) = Int.bmod (o.word.toNat / 16 % 64) 64 := signed_field (by decide) ..
    rw [hbias] at h
    exact h

/-- Settles O21: the functions of R202 by their cases, and the conversions by the writes of each. -/
theorem vectorFunctionAndConversionResults : Obligations.VectorFunctionAndConversionResults :=
  ⟨vectorFunctionResults, vectorConversionResults⟩

end Sys2Proof.Machine
end

section
/-! The gather queues (R210 to R212). -/

namespace Sys2Proof.Machine

section
variable {s : State} {f : OpS}

/-- A row fetched by gpush: the context's own unperformed stores, and otherwise the scratchpad (R128, R211). -/
def State.fetchedRow (s : State) (a : Nat) : GRow :=
  let l := (List.range 128).map fun i => s.mySpadByte (s.me.ownCells true) (a + i)
  ⟨s.cycle + 8, ofBytes 1024 (l.map Prod.fst), if l.any Prod.snd then .poison else .clean⟩

/-- A row read through a handle of the scratchpad is given its offset (R123, R211). -/
theorem formAddr_row {h : Handle} {off : Word} (hps : h.ps = 15)
    (ha : Spec.allows h (((h.va.toNat : Int) + off.toInt) % 2 ^ 64).toNat 128 16 true false) :
    formAddr h off 0 0 128 16 true false true false false =
      .ok ((((h.va.toNat : Int) + off.toInt) % 2 ^ 64).toNat, (((h.va.toNat : Int) + off.toInt) % 2 ^ 64).toNat) := by
  have he : Spec.ea h off ⟨⟨0, false⟩, 0, 0, 0, 0⟩ 0 = (((h.va.toNat : Int) + off.toInt) % 2 ^ 64).toNat := by
    simp only [Spec.ea, Int.natCast_zero, Int.mul_zero, Int.add_zero]
  rw [← he] at ha ⊢
  refine (formAddr_of_allows (spad := true) (atom := false) ha (fun _ => hps) nofun).trans ?_
  rw [Spec.place, if_pos hps]

/-- gpush on a row that its handle allows, with room in the queues, puts the row into the index queue (R211). -/
theorem opGpush_fetches {t : Src} (hc : (Instr.gpush f).check = none) (hon : Spec.on s f.g) (ht : s.readT f.t = .ok t)
    (hh : Spec.held s (f.o.toNat - 0xB0)) {a : Nat}
    (he : (((s.handle (f.o.toNat - 0xB0)).va.toNat + t.word.toInt) % 2 ^ 64).toNat = a)
    (hps : (s.handle (f.o.toNat - 0xB0)).ps = 15) (ha : Spec.allows (s.handle (f.o.toNat - 0xB0)) a 128 16 true false)
    (hroom : s.me.iq.length + s.me.gq.length < 16) :
    opGpush f s = .ok (s.modMe fun c => { c with iq := c.iq ++ [s.fetchedRow a] }) := by
  subst he
  have hfree : ¬16 ≤ s.me.gocc := Nat.not_le.2 hroom
  refine (guarded_acts (v := .ofS 1 _ _ f) rfl rfl rfl hc hon).trans ?_
  simp only [ht, bind_of_ok, useHandle_valid ha.1 hh, formAddr_row hps ha, if_neg hfree]
  rfl

/-- A data queue that is not waiting for a row keeps its rows. -/
theorem gatherArrive_of_iq_nil {c : Ctx} (h : c.iq = []) (cycle : Nat) : c.gatherArrive cycle = c := by
  cases c
  simp_all [Ctx.gatherArrive]

/-- gpop takes the oldest row and lands it (R212). -/
theorem opGpop_lands {r : GRow} {rest : List GRow} (hc : (Instr.gpop f).check = none) (hon : Spec.on s f.g)
    (hq : s.me.gq = r :: rest) (hi : s.me.iq = []) : opGpop f s = .ok (((s.modMe fun c => c.gatherArrive s.cycle).modMe fun c =>
      { c with gq := rest }).land 1 16 1 [wrW (.rl 0x14) { data := r.row } r.mark]) := by
  refine (guarded_acts (v := .ofS 1 _ _ f) rfl rfl rfl hc hon).trans ?_
  have h1 : (s.modMe fun c => c.gatherArrive s.cycle).me.gq = r :: rest := by
    rw [State.modMe_me, gatherArrive_of_iq_nil hi, hq]
  simp only [h1]
  rfl

/-- gpop of a context without rows traps (R212). -/
theorem opGpop_empty (hc : (Instr.gpop f).check = none) (hon : Spec.on s f.g) (hq : s.me.gq = []) (hi : s.me.iq = []) :
    opGpop f s = .error (.trap { cause := 11, unit := 16, slot := 1 }) := by
  refine (guarded_acts (v := .ofS 1 _ _ f) rfl rfl rfl hc hon).trans ?_
  have h1 : (s.modMe fun c => c.gatherArrive s.cycle).me.gq = [] := by
    rw [State.modMe_me, gatherArrive_of_iq_nil hi, hq]
  simp only [h1]
  rfl

end

/-- Settles O17: gpush through the address its handle allows; gpop as a change of the queue and a landing. -/
theorem gatherQueueOperations : Obligations.GatherQueueOperations := by
  refine ⟨fun f s t hc hon ht hh => ?push, fun f s r rest hc hon hq hi => ?pop, fun f s hc hon hq hi => ?empty⟩
  case push =>
    intro h a hps ha hroom
    exact exec_of_opOf (v := .ofS 1 16 1 f) rfl (opGpush_fetches hc hon ht hh rfl hps ha hroom)
  case pop =>
    refine ⟨_, exec_of_opOf (v := .ofS 1 16 2 f) rfl (opGpop_lands hc hon hq hi), ?_⟩
    rw [State.land, State.modMe_modMe, State.modMe_modMe]
    refine ⟨by rw [State.modMe_me], ?_, ?_, (State.storesAs_modCtx s s.cid _).sameMemory⟩
    · rw [State.modMe_me, gatherArrive_of_iq_nil hi]
      rfl
    · rw [State.modMe_me, gatherArrive_of_iq_nil hi]
  case empty =>
    exact exec_of_opOf_error (v := .ofS 1 16 2 f) rfl (opGpop_empty hc hon hq hi)

end Sys2Proof.Machine
end

section
/-! The operands of a vector operation: the format, the bias and the range of the guard that its tags give (R195 to R197), and what
it lands. -/

namespace Sys2Proof.Machine

/-! Formats and biases of lists of sources (R196). -/

section
variable {fm : Nat} {b : Int} {acc : Nat → Bool} {srcs : List (Nat × Wide)}

/-- A typed source of a format has its code. -/
theorem fmt_eq_of_oneFormat {l : List Wide} (h : Spec.oneFormat fm l) {x : Wide} (hx : x ∈ l) (h0 : x.fmt ≠ 0) :
    x.fmt.toNat = fm := (h.2 x hx).resolve_left h0

/-- Sources of one format that the operation accepts give it (R196). -/
theorem vecFmt_of_oneFormat (h : Spec.oneFormat fm (srcs.map Prod.snd)) (h12 : fm ≠ 12) (ha : acc fm = true) :
    vecFmt acc srcs = .ok fm := by
  have hcode : ∀ e ∈ srcs.filter (fun e => e.2.fmt != 0), e.2.fmt.toNat = fm := fun e he => by
    obtain ⟨hm, h0⟩ := List.mem_filter.1 he
    exact fmt_eq_of_oneFormat h (List.mem_map_of_mem hm) (bne_iff_ne.1 h0)
  obtain ⟨x, hx, hx0⟩ := h.1
  obtain ⟨e, he, rfl⟩ := List.mem_map.1 hx
  have hmem : e ∈ srcs.filter (fun e => e.2.fmt != 0) := List.mem_filter.2 ⟨he, bne_iff_ne.2 hx0⟩
  cases htyped : srcs.filter (fun e => e.2.fmt != 0) with
  | nil => exact absurd (htyped ▸ hmem) List.not_mem_nil
  | cons a r =>
    rw [htyped] at hcode
    have hraw : (a :: r).find? (fun e => e.2.fmt == 12) = none := List.find?_eq_none.2 fun y hy h => by
      rw [← hcode y hy, beq_iff_eq.1 h] at h12
      exact h12 rfl
    have hfmt : a.2.fmt.toNat = fm := hcode a List.mem_cons_self
    have hsame : (a :: r).find? (fun e => e.2.fmt != a.2.fmt) = none := List.find?_eq_none.2 fun y hy h =>
      bne_iff_ne.1 h (BitVec.eq_of_toNat_eq ((hcode y hy).trans hfmt.symm))
    simp only [vecFmt, htyped, hraw, hsame, hfmt, ha, if_true]

/-- Sources of one bias, one of them typed, have it in common (R196). -/
theorem commonBias_of_oneBias (hf : Spec.oneFormat fm (srcs.map Prod.snd)) (h : Spec.oneBias b (srcs.map Prod.snd)) :
    commonBias srcs = .ok b := by
  have hbias : ∀ e ∈ srcs.filter (fun e => e.2.fmt != 0), e.2.bias.toInt = b := fun e he => by
    obtain ⟨hm, h0⟩ := List.mem_filter.1 he
    exact h e.2 (List.mem_map_of_mem hm) (bne_iff_ne.1 h0)
  obtain ⟨x, hx, hx0⟩ := hf.1
  obtain ⟨e, he, rfl⟩ := List.mem_map.1 hx
  have hmem : e ∈ srcs.filter (fun e => e.2.fmt != 0) := List.mem_filter.2 ⟨he, bne_iff_ne.2 hx0⟩
  cases htyped : srcs.filter (fun e => e.2.fmt != 0) with
  | nil => exact absurd (htyped ▸ hmem) List.not_mem_nil
  | cons a r =>
    rw [htyped] at hbias
    have ha : a.2.bias.toInt = b := hbias a List.mem_cons_self
    have hsame : (a :: r).find? (fun e => e.2.bias != a.2.bias) = none := List.find?_eq_none.2 fun y hy h =>
      bne_iff_ne.1 h (BitVec.eq_of_toInt_eq ((hbias y hy).trans ha.symm))
    simp only [commonBias, htyped, hsame, ha]

/-- The first code of sources of one format is its own (R197). -/
theorem firstCode_of_oneFormat {l : List Wide} (h : Spec.oneFormat fm l) :
    firstCode (· != 0) (l.map fun x => some x.fmt.toNat) = some fm := by
  obtain ⟨⟨x, hx, hx0⟩, hall⟩ := h
  induction l with
  | nil => exact absurd hx List.not_mem_nil
  | cons a r ih =>
    by_cases h0 : a.fmt = 0
    · have hr : x ∈ r := (List.mem_cons.1 hx).resolve_left fun e => hx0 (e ▸ h0)
      simpa [firstCode, h0] using ih (fun y hy => hall y (List.mem_cons_of_mem a hy)) hr
    · have hfm : a.fmt.toNat = fm := (hall a List.mem_cons_self).resolve_left h0
      have hne : (a.fmt.toNat != 0) = true := bne_iff_ne.2 fun e => h0 (BitVec.eq_of_toNat_eq e)
      rw [List.map_cons, firstCode, if_pos hne, hfm]

end

section
variable {s : State} {i : Instr} {u : VecUnit} {f : OpS} {op n lat range fm w : Nat} {t o : Src} {l : Wide} {b : Int} {r : Nat → Nat}
  {act : VArgs → Res (List RegWrite)} {rounds : Bool} {ws : List RegWrite}

/-! The tags are known before the sources are read (R127, R197). -/

/-- The tag of a source is known where the source can be read. -/
theorem portTag_of_readSrc {p : BitVec 9} {k : Nat} (h : s.readSrc p k = .ok t) : s.portTag p = some t.tagged.fmt.toNat := by
  obtain ⟨hp, hr⟩ := readPort_of_readSrc h
  simp only [State.portTag, hp, Src.tagged]
  split
  · exact codeAt_of_pends hr
  · rfl

/-- The tag of a latch is known where the latch can be read. -/
theorem latchTag_of_readLatch {unit : Nat} (h : s.readLatch unit = .ok l) : s.latchTag unit = some l.fmt.toNat := by
  obtain ⟨hp, rfl⟩ := pends_of_readLatch h
  exact codeAt_of_pends fun y hy => Option.some.inj hy ▸ hp

/-- The tag of O is known where O can be read. -/
theorem codeO_of_readO (h : s.readO u.unit f = .ok o) :
    (if f.ol then [s.latchTag u.unit] else [s.portTag f.o]) = [some o.tagged.fmt.toNat] := by
  unfold State.readO at h
  cases hol : f.ol with
  | true =>
    simp only [hol, if_true] at h ⊢
    obtain ⟨x, hx, h⟩ := bind_ok h
    cases h
    rw [latchTag_of_readLatch hx]
    rfl
  | false =>
    simp only [hol, if_false, Bool.false_eq_true] at h ⊢
    rw [portTag_of_readSrc h]

/-- The sources that an operation reads, with their tags (R196). -/
def Instr.sources (i : Instr) (t o : Src) (l : Wide) : List Wide :=
  t.tagged :: (if i.shape.o = .none then [] else [o.tagged]) ++ if i.shape.readsL then [l] else []

/-- The sources of an operation that reads T and O alone. -/
theorem sources_two (ho : i.shape.o ≠ .none) (hl : i.shape.readsL = false) : Instr.sources i t o l = [t.tagged, o.tagged] := by
  rw [Instr.sources, if_neg ho, hl]
  rfl

/-- The tags of T and O where both are read. -/
theorem vargs_two (ho : i.shape.o ≠ .none) : (s.vargs i f t o l).two.map Prod.snd = [t.tagged, o.tagged] := by
  simp only [State.vargs, if_neg ho]
  rfl

/-- The codes by which the range of the guard is found are those of the sources read. -/
theorem codes_of_vready (hr : Spec.vready s i u f n t o l) :
    s.codes i u f = (Instr.sources i t o l).map fun x => some x.fmt.toNat := by
  obtain ⟨-, -, -, ht, ho, hl⟩ := hr
  rw [State.codes, Instr.sources, portTag_of_readT ht]
  have hO : (if i.shape.o = .none then [] else if f.ol then [s.latchTag u.unit] else [s.portTag f.o]) =
      (if i.shape.o = .none then [] else [o.tagged]).map fun x => some x.fmt.toNat := by
    split
    · rfl
    · exact codeO_of_readO (ho ‹_›)
  have hL : (if i.shape.readsL then [s.latchTag u.unit] else []) =
      (if i.shape.readsL then [l] else []).map fun x => some x.fmt.toNat := by
    split
    · rw [latchTag_of_readLatch (hl ‹_›)]
      rfl
    · rfl
  rw [hO, hL, List.map_append, List.map_cons, List.cons_append]

/-- The range of the guard of sources of one format: the format's elements (R197). -/
theorem fmtRange_of_oneFormat (hr : Spec.vready s i u f n t o l) (hf : Spec.oneFormat fm (Instr.sources i t o l)) (h0 : fm ≠ 0) :
    s.fmtRange i u f = 1024 / fmtWidth fm := by
  rw [State.fmtRange, codes_of_vready hr, firstCode_of_oneFormat hf, rangeOf_typed h0]

/-- The range of the guard by the format of a typed T (R197). -/
theorem tRange_of_typed (hr : Spec.vready s i u f n t o l) (ht : t.tagged.fmt.toNat = fm) (h0 : fm ≠ 0) :
    s.tRange f = 1024 / fmtWidth fm := by
  obtain ⟨-, -, -, hT, -⟩ := hr
  rw [State.tRange, portTag_of_readT hT, ht, rangeOf_typed h0]

/-- A typed T alone gives the format. -/
theorem oneFormat_single {x : Wide} (hx : x.fmt.toNat = fm) (h0 : fm ≠ 0) : Spec.oneFormat fm [x] := by
  refine ⟨⟨x, List.mem_singleton_self x, fun e => h0 ?_⟩, fun y hy => .inr ?_⟩
  · rw [← hx, e]
    rfl
  · rw [List.mem_singleton.1 hy, hx]

/-! What an operation lands. -/

/-- A vector operation that may act lands what its function gives (R194). -/
theorem vecOp_lands_writes (hv : i.view = some (.ofS u.slot u.unit op f)) (hop : opOf i s = s.vecOp i u f lat range act rounds)
    (hr : Spec.vready s i u f n t o l) (hn : range = n) (hm : rounds = true → Spec.rounding s)
    (ha : act (s.vargs i f t o l) = .ok ws) : Spec.lands s i u.slot u.unit lat ws :=
  exec_of_opOf hv (hop.trans (vecOp_lands hv hr hn hm ha))

/-- One result that fills the latch and W. -/
theorem wholeWrites_eq_whole (u : VecUnit) (f : OpS) (v : Wide) : wholeWrites u f.w v = Spec.whole u f v := by
  simp only [wholeWrites, Spec.whole]
  congr 1
  unfold wbV
  split
  · rfl
  · rfl

/-- A vector operation that may act lands the one result its function gives (R197). -/
theorem vecOp_lands_whole {v : Wide} (hv : i.view = some (.ofS u.slot u.unit op f))
    (hop : opOf i s = s.vecOp i u f lat range act rounds)
    (hr : Spec.vready s i u f n t o l) (hn : range = n) (hm : rounds = true → Spec.rounding s)
    (ha : act (s.vargs i f t o l) = .ok (wholeWrites u f.w v)) : Spec.lands s i u.slot u.unit lat (Spec.whole u f v) := by
  rw [← wholeWrites_eq_whole]
  exact vecOp_lands_writes hv hop hr hn hm ha

/-- An element of a source fits its width (R175, R195). -/
theorem elemAt_lt (x : Src) (w k : Nat) : x.elemAt w k < 2 ^ w := by
  unfold Src.elemAt
  split
  · exact BitVec.isLt _
  · exact Nat.mod_lt _ (Nat.two_pow_pos w)

end

end Sys2Proof.Machine
end

section
/-! The integer operations (R199): exact results modulo 2^w. -/

namespace Sys2Proof.Machine

/-! Codes of results as residues. -/

section
variable {fm w a b : Nat}

/-- A result that is no negative number, modulo 2^w. -/
theorem wrap_natCast (w n : Nat) : wrap w (n : Int) = n % 2 ^ w := by
  rw [wrap, ← Int.natCast_mod, Int.toNat_natCast]

/-- The code of a code's signed value. -/
theorem wrap_signed (hw : 0 < w) (ha : a < 2 ^ w) : wrap w (signed w a) = a := by
  have hmod : signed w a % (2 ^ w : Nat) = (a : Int) % (2 ^ w : Nat) := by
    rw [signed_eq_bmod hw]
    exact Int.bmod_emod ..
  rw [wrap, hmod, ← Int.natCast_mod, Int.toNat_natCast, Nat.mod_eq_of_lt ha]

/-- The code of the lesser of two signed values. -/
theorem wrap_min_signed (hw : 0 < w) (ha : a < 2 ^ w) (hb : b < 2 ^ w) :
    (if signed w a ≤ signed w b then a else b) = wrap w (min (signed w a) (signed w b)) := by
  split
  · rw [min_eq_left ‹_›, wrap_signed hw ha]
  · rw [min_eq_right (le_of_not_ge ‹_›), wrap_signed hw hb]

/-- The code of the greater of two signed values. -/
theorem wrap_max_signed (hw : 0 < w) (ha : a < 2 ^ w) (hb : b < 2 ^ w) :
    (if signed w a ≤ signed w b then b else a) = wrap w (max (signed w a) (signed w b)) := by
  split
  · rw [max_eq_right ‹_›, wrap_signed hw hb]
  · rw [max_eq_left (le_of_not_ge ‹_›), wrap_signed hw ha]

/-- A code as its integer format reads it. -/
theorem rawInt_eq (hw : 0 < w) (x : Nat) : rawInt fm w x = if fm = 1 ∨ fm = 3 ∨ fm = 5 then Int.bmod x (2 ^ w) else x := by
  simp only [rawInt, fmtSigned, Bool.or_eq_true, beq_iff_eq, or_assoc, signed_eq_bmod hw]

/-- Saturation to a format's range (R176). -/
theorem saturate_eq (z : Int) : saturate fm z = wrap (fmtWidth fm) (if fm = 1 ∨ fm = 3 ∨ fm = 5
    then max (-2 ^ (fmtWidth fm - 1)) (min (2 ^ (fmtWidth fm - 1) - 1) z) else max 0 (min (2 ^ fmtWidth fm - 1) z)) := by
  simp only [saturate, intRange, fmtSigned, Bool.or_eq_true, beq_iff_eq, or_assoc]
  split_ifs <;> simp

end

/-- The number of a bias rule among those of R199. -/
def BiasRule.number : BiasRule → Nat
  | .common => 0
  | .sum => 1
  | .sumW => 2
  | .ofT => 3

section
variable {s : State} {i : Instr} {u : VecUnit} {f : OpS} {op fm : Nat} {t o : Src} {b : Int} {r : BiasRule}
  {e : Nat → Nat → Nat → Nat → Nat} {res : Nat → Nat}

/-- A sum of biases in range (R199, R201). -/
theorem biasOk_of_range {srcs : List (Nat × Wide)} (h : -32 ≤ b ∧ b ≤ 31) : biasOk b srcs = .ok () := if_pos h

/-- The result bias that the rule of an operation asks for (R199). -/
theorem bias_of_biasBy {a : VArgs} {w : Nat} (h : Spec.biasBy r.number a.t.tagged a.o.tagged w b)
    (hf : r = .common → Spec.oneFormat fm [a.t.tagged, a.o.tagged]) : r.bias a w = .ok b := by
  cases r with
  | common => exact commonBias_of_oneBias (hf rfl) h
  | sum =>
    obtain ⟨rfl, hb⟩ := h
    simp only [BiasRule.bias, biasOk_of_range hb]
    rfl
  | sumW =>
    obtain ⟨rfl, hb⟩ := h
    simp only [BiasRule.bias, biasOk_of_range hb]
    rfl
  | ofT => exact congrArg Except.ok h.symm

/-- An integer operation lands the elements of its function (R199). -/
theorem vint_lands (hv : i.view = some (.ofS u.slot u.unit op f)) (hop : opOf i s = s.vint i u f r e)
    (hl : i.shape.readsL = false) (h1 : 1 ≤ fm) (h6 : fm ≤ 6) (hr : Spec.vready s i u f (1024 / fmtWidth fm) t o {})
    (hf : Spec.oneFormat fm (t.tagged :: if i.shape.o = .none then [] else [o.tagged]))
    (hb : Spec.biasBy r.number t.tagged o.tagged (fmtWidth fm) b) (ho : i.shape.o = .none → r = .ofT)
    (he : ∀ k, e fm (fmtWidth fm) (t.elemAt (fmtWidth fm) k) ((if i.shape.o = .none then srcS 0 else o).elemAt (fmtWidth fm) k) =
      res k) : Spec.lands s i u.slot u.unit 2 (Spec.elementwise s u f (fmtWidth fm) fm b res) := by
  have hint : fmtInt fm = true := by simp [fmtInt, h1, h6]
  have hsrc : Instr.sources i t o {} = t.tagged :: if i.shape.o = .none then [] else [o.tagged] := by
    rw [Instr.sources, hl]
    exact List.append_nil _
  have hfmt : vecFmt fmtInt (if i.shape.o = .none then [(0, (s.vargs i f t o {}).t.tagged)] else (s.vargs i f t o {}).two) =
      .ok fm := by
    refine vecFmt_of_oneFormat ?_ (by omega) hint
    by_cases hn : i.shape.o = .none
    · simp only [if_pos hn] at hf ⊢
      exact hf
    · simp only [VArgs.two, State.vargs, if_neg hn] at hf ⊢
      exact hf
  have hbias : r.bias (s.vargs i f t o {}) (fmtWidth fm) = .ok b := by
    by_cases hn : i.shape.o = .none
    · obtain rfl := ho hn
      exact bias_of_biasBy (fm := fm) (r := .ofT) hb nofun
    · simp only [State.vargs, if_neg hn] at hf ⊢
      exact bias_of_biasBy hb fun _ => hf
  obtain rfl := funext he
  refine vecOp_lands_elementwise hv hop hr (fmtRange_of_oneFormat hr (hsrc ▸ hf) (by omega)) nofun ?_
  simp only [hfmt, bind_of_ok, hbias]
  rfl

end

/-- The instructions of an operation run the model's integer operation of bias rule r and element function e. -/
def integer (mk : VecUnit → OpS → Instr) (r : BiasRule) (e : Nat → Nat → Nat → Nat → Nat) : Prop := ∀ u f,
  (∃ op, (mk u f).view = some (.ofS u.slot u.unit op f)) ∧ (∀ s, opOf (mk u f) s = s.vint (mk u f) u f r e) ∧
  (mk u f).shape.readsL = false ∧ ((mk u f).shape.o = .none → r = .ofT ∧ ∀ fm w a b c, e fm w a b = e fm w a c)

/-- Each integer operation of R199 runs an element function whose results are the residues of its exact ones. -/
theorem ints_entry {fm w j : Nat} (hw : fmtWidth fm = w) (hj : j < 14) : ∃ mk r e, integer mk r e ∧ ∀ a b, a < 2 ^ w → b < 2 ^ w →
    ∃ z, (Spec.ints fm w a b)[j]? = some (mk, r.number, z) ∧ e fm w a b = wrap w z := by
  have h0 : 0 < w := hw ▸ Nat.lt_of_lt_of_le (by decide) (le_fmtWidth fm)
  match j, hj with
  | 0, _ =>
    refine ⟨.vadd, .common, _, fun u f => ⟨⟨_, rfl⟩, fun s => show opVadd u f s = _ from rfl, rfl, nofun⟩,
      fun a b ha hb => ⟨_, rfl, ?_⟩⟩
    exact (wrap_natCast w (a + b)).symm
  | 1, _ =>
    refine ⟨.vsub, .common, _, fun u f => ⟨⟨_, rfl⟩, fun s => show opVsub u f s = _ from rfl, rfl, nofun⟩,
      fun a b ha hb => ⟨_, rfl, ?_⟩⟩
    rfl
  | 2, _ =>
    refine ⟨.vmul, .sum, _, fun u f => ⟨⟨_, rfl⟩, fun s => show opVmul u f s = _ from rfl, rfl, nofun⟩,
      fun a b ha hb => ⟨_, rfl, ?_⟩⟩
    exact (wrap_natCast w (a * b)).symm
  | 3, _ =>
    refine ⟨.vmulh, .sumW, _, fun u f => ⟨⟨_, rfl⟩, fun s => show opVmulh u f s = _ from rfl, rfl, nofun⟩,
      fun a b ha hb => ⟨_, rfl, ?_⟩⟩
    simp only [rawInt_eq h0, Nat.cast_pow, Nat.cast_ofNat]
  | 4, _ =>
    refine ⟨.vmin, .common, _, fun u f => ⟨⟨_, rfl⟩, fun s => show opVmin u f s = _ from rfl, rfl, nofun⟩,
      fun a b ha hb => ⟨_, rfl, ?_⟩⟩
    rw [wrap_min_signed h0 ha hb, signed_eq_bmod h0, signed_eq_bmod h0]
  | 5, _ =>
    refine ⟨.vmax, .common, _, fun u f => ⟨⟨_, rfl⟩, fun s => show opVmax u f s = _ from rfl, rfl, nofun⟩,
      fun a b ha hb => ⟨_, rfl, ?_⟩⟩
    rw [wrap_max_signed h0 ha hb, signed_eq_bmod h0, signed_eq_bmod h0]
  | 6, _ =>
    refine ⟨.vminn, .common, _, fun u f => ⟨⟨_, rfl⟩, fun s => show opVminn u f s = _ from rfl, rfl, nofun⟩,
      fun a b ha hb => ⟨_, rfl, ?_⟩⟩
    rw [← Nat.cast_min, wrap_natCast, Nat.mod_eq_of_lt (min_lt_of_left_lt ha), Nat.min_def]
  | 7, _ =>
    refine ⟨.vmaxn, .common, _, fun u f => ⟨⟨_, rfl⟩, fun s => show opVmaxn u f s = _ from rfl, rfl, nofun⟩,
      fun a b ha hb => ⟨_, rfl, ?_⟩⟩
    rw [← Nat.cast_max, wrap_natCast, Nat.mod_eq_of_lt (max_lt ha hb), Nat.max_def]
  | 8, _ =>
    refine ⟨.vshl, .ofT, _, fun u f => ⟨⟨_, rfl⟩, fun s => show opVshl u f s = _ from rfl, rfl, nofun⟩,
      fun a b ha hb => ⟨_, rfl, ?_⟩⟩
    exact_mod_cast (wrap_natCast w (a * 2 ^ (b % w))).symm
  | 9, _ =>
    refine ⟨.vshr, .ofT, _, fun u f => ⟨⟨_, rfl⟩, fun s => show opVshr u f s = _ from rfl, rfl, nofun⟩,
      fun a b ha hb => ⟨_, rfl, ?_⟩⟩
    have hlt : a / 2 ^ (b % w) < 2 ^ w := (Nat.div_le_self ..).trans_lt ha
    rw [← Nat.mod_eq_of_lt hlt]
    exact_mod_cast (wrap_natCast w (a / 2 ^ (b % w))).symm
  | 10, _ =>
    refine ⟨.vsra, .ofT, _, fun u f => ⟨⟨_, rfl⟩, fun s => show opVsra u f s = _ from rfl, rfl, nofun⟩,
      fun a b ha hb => ⟨_, rfl, ?_⟩⟩
    simp only [signed_eq_bmod h0, Nat.cast_pow, Nat.cast_ofNat]
  | 11, _ =>
    refine ⟨.vadds, .common, _, fun u f => ⟨⟨_, rfl⟩, fun s => show opVadds u f s = _ from rfl, rfl, nofun⟩,
      fun a b ha hb => ⟨_, rfl, ?_⟩⟩
    simp only [saturate_eq, rawInt_eq h0, hw]
  | 12, _ =>
    refine ⟨.vsubs, .common, _, fun u f => ⟨⟨_, rfl⟩, fun s => show opVsubs u f s = _ from rfl, rfl, nofun⟩,
      fun a b ha hb => ⟨_, rfl, ?_⟩⟩
    simp only [saturate_eq, rawInt_eq h0, hw]
  | 13, _ =>
    refine ⟨.vabs, .ofT, _, fun u f => ⟨⟨_, rfl⟩, fun s => show opVabs u f s = _ from rfl, rfl, fun _ => ⟨rfl, fun _ _ _ _ _ => rfl⟩⟩,
      fun a b ha hb => ⟨_, rfl, ?_⟩⟩
    simp only [fmtSigned, Bool.or_eq_true, beq_iff_eq, or_assoc, signed_eq_bmod h0, Int.natCast_natAbs]
    split
    · rfl
    · rw [wrap_natCast, Nat.mod_eq_of_lt ha]

/-- Settles O18: each operation by its bias rule and the residue of its exact result. -/
theorem vectorIntegerResults : Obligations.VectorIntegerResults := by
  intro u f s t o fm b h1 h6 w j hj op i rule z hop hr hf hb
  obtain ⟨mk, r, e, hmk, hval⟩ := ints_entry (fm := fm) (w := w) rfl hj
  obtain ⟨⟨opc, hv⟩, hopOf, hl, hn⟩ := hmk u f
  have hentry (x y : Nat) (hx : x < 2 ^ w) (hy : y < 2 ^ w) : op x y = some (mk u f, r.number, (op x y).elim 0 fun c => c.2.2) ∧
      e fm w x y = wrap w ((op x y).elim 0 fun c => c.2.2) := by
    obtain ⟨v, hget, hv⟩ := hval x y hx hy
    have hop : op x y = some (mk u f, r.number, v) := congrArg (Option.map _) hget
    rw [hop]
    exact ⟨rfl, hv⟩
  obtain ⟨rfl, rfl⟩ : mk u f = i ∧ r.number = rule := by
    have h := (hentry 0 0 (Nat.two_pow_pos w) (Nat.two_pow_pos w)).1.symm.trans hop
    simp only [Option.some.injEq, Prod.mk.injEq] at h
    exact ⟨h.1, h.2.1⟩
  refine vint_lands hv (hopOf s) hl h1 h6 hr hf hb (fun h => (hn h).1) fun k => ?_
  obtain ⟨hop, he⟩ := hentry _ _ (elemAt_lt t w k) (elemAt_lt o w k)
  have hsame : e fm w (t.elemAt w k) ((if (mk u f).shape.o = .none then srcS 0 else o).elemAt w k) =
      e fm w (t.elemAt w k) (o.elemAt w k) := by
    split
    · exact (hn ‹_›).2 ..
    · rfl
  rw [hsame, he, hop]
  simp only [Option.elim, wrap, Nat.cast_pow, Nat.cast_ofNat]

end Sys2Proof.Machine
end

section
/-! The bitwise operations (R200), the operations on vector predicates (R209) and the compares (R203). -/

namespace Sys2Proof.Machine

/-! Numbers given by their bits. -/

/-- An operation on numbers of w bits that works bit by bit. -/
theorem toNat_bits {w a b c : Nat} {h : Bool → Bool → Bool} (ha : a < 2 ^ w) (hb : b < 2 ^ w) (h0 : h false false = false)
    (hc : ∀ n, c.testBit n = h (a.testBit n) (b.testBit n)) :
    c = (BitVec.ofFnLE fun n : Fin w => h (a.testBit n) (b.testBit n)).toNat := by
  refine Nat.eq_of_testBit_eq fun n => ?_
  rw [hc, BitVec.testBit_toNat]
  by_cases hn : n < w
  · rw [BitVec.getLsbD_eq_getElem hn, BitVec.getElem_ofFnLE]
  · have hle : 2 ^ w ≤ 2 ^ n := Nat.pow_le_pow_right (by decide) (Nat.le_of_not_lt hn)
    rw [BitVec.getLsbD_of_ge _ _ (Nat.le_of_not_lt hn), Nat.testBit_lt_two_pow (ha.trans_le hle),
      Nat.testBit_lt_two_pow (hb.trans_le hle), h0]

/-- The count of one bits among the low n, as a count of places. -/
theorem popCount_eq_countP_testBit (x n : Nat) : popCount x n = (List.range n).countP fun i => x.testBit i := by
  induction n with
  | zero => rfl
  | succ n ih =>
    rw [popCount, ih, List.range_succ, List.countP_append]
    simp [List.countP_cons]

/-- A number added up from the places of its one bits. -/
theorem testBit_foldl_two_pow (p : Nat → Bool) (n j : Nat) :
    ((List.range n).foldl (fun x i => if p i then x + 2 ^ i else x) 0).testBit j = (decide (j < n) && p j) := by
  have hlt (n : Nat) : (List.range n).foldl (fun x i => if p i then x + 2 ^ i else x) 0 < 2 ^ n := by
    induction n with
    | zero => exact Nat.one_pos
    | succ n ih =>
      rw [List.range_succ, List.foldl_append, List.foldl_cons, List.foldl_nil, Nat.pow_succ]
      split <;> omega
  induction n with
  | zero => simp
  | succ n ih =>
    rw [List.range_succ, List.foldl_append, List.foldl_cons, List.foldl_nil]
    rcases Nat.lt_trichotomy j n with h | rfl | h
    · split
      · rw [Nat.add_comm, Nat.testBit_two_pow_add_gt h, ih]
        simp [h, Nat.lt_succ_of_lt h]
      · rw [ih]
        simp [h, Nat.lt_succ_of_lt h]
    · have hz := Nat.testBit_lt_two_pow (hlt j)
      split
      · rw [Nat.add_comm, Nat.testBit_two_pow_add_eq, hz]
        simp [*]
      · rw [hz]
        simp [*]
    · have hp : 2 ^ (n + 1) ≤ 2 ^ j := Nat.pow_le_pow_right (by decide) h
      have hn := hlt (n + 1)
      rw [List.range_succ, List.foldl_append, List.foldl_cons, List.foldl_nil] at hn
      rw [Nat.testBit_lt_two_pow (hn.trans_le hp)]
      simp [Nat.not_lt.2 (Nat.succ_le_of_lt h)]

/-! The bitwise operations. -/

section
variable {s : State} {i : Instr} {u : VecUnit} {f : OpS} {op : Nat} {t o : Src} {e : Nat → Nat → Nat} {h : Bool → Bool → Bool}

/-- The element width of a bitwise operation (R200): of the first source that is typed and not raw, and 64 where none is. -/
def bitwiseWidth (t o : Wide) : Nat :=
  if t.fmt ≠ 0 ∧ t.fmt ≠ 12 then fmtWidth t.fmt.toNat else if o.fmt ≠ 0 ∧ o.fmt ≠ 12 then fmtWidth o.fmt.toNat else 64

theorem bitwiseWidth_dvd (t o : Wide) : bitwiseWidth t o ∣ 1024 := by
  unfold bitwiseWidth
  split_ifs
  exacts [fmtWidth_dvd _, fmtWidth_dvd _, by decide]

/-- The element width of a bitwise operation is known before its sources are read. -/
theorem bitWidth_of_vready {n : Nat} (hr : Spec.vready s i u f n t o {}) (ho : i.shape.o ≠ .none) (hl : i.shape.readsL = false) :
    s.bitWidth i u f = some (bitwiseWidth t.tagged o.tagged) := by
  have hgives (x : Wide) : (x.fmt.toNat != 0 && x.fmt.toNat != 12) = true ↔ x.fmt ≠ 0 ∧ x.fmt ≠ 12 := by
    rw [Bool.and_eq_true, bne_iff_ne, bne_iff_ne, Ne, Ne, Ne, Ne, ← BitVec.toNat_inj, ← BitVec.toNat_inj]
    rfl
  have h0 {x : Wide} (hx : x.fmt ≠ 0 ∧ x.fmt ≠ 12) : x.fmt.toNat ≠ 0 := fun e => hx.1 (BitVec.eq_of_toNat_eq e)
  rw [State.bitWidth, codes_of_vready hr, sources_two ho hl]
  simp only [bitwiseWidth, List.map_cons, List.map_nil, firstCode, hgives]
  split
  · rw [Option.map_some, if_neg (h0 ‹_›)]
  · split
    · rw [Option.map_some, if_neg (h0 ‹_›)]
    · rfl

/-- A bitwise operation lands its elements, bit by bit, under the tag of its first source that has one (R200). -/
theorem vbit_lands {tag : Wide} {w : Nat} (hv : i.view = some (.ofS u.slot u.unit op f)) (hop : opOf i s = s.vbit i u f e)
    (ho : i.shape.o ≠ .none) (hl : i.shape.readsL = false) (hw : bitwiseWidth t.tagged o.tagged = w)
    (htag : (if t.tagged.fmt ≠ 0 then t.tagged else o.tagged) = tag) (hr : Spec.vready s i u f (1024 / w) t o {})
    (he : ∀ a b n, (e a b).testBit n = h (a.testBit n) (b.testBit n)) (h0 : h false false = false) :
    Spec.lands s i u.slot u.unit 2 (Spec.elementwise s u f w tag.fmt.toNat tag.bias.toInt fun k =>
      (BitVec.ofFnLE fun n : Fin w => h ((t.elemAt w k).testBit n) ((o.elemAt w k).testBit n)).toNat) := by
  have hbits : (s.bitWidth i u f).getD 8 = w := by rw [bitWidth_of_vready hr ho hl, hw, Option.getD_some]
  have helem : (fun k => (BitVec.ofFnLE fun n : Fin w => h ((t.elemAt w k).testBit n) ((o.elemAt w k).testBit n)).toNat) =
      fun k => e (t.elemAt w k) (o.elemAt w k) :=
    funext fun k => (toNat_bits (elemAt_lt t w k) (elemAt_lt o w k) h0 (he _ _)).symm
  rw [helem, ← elemWrites_eq_elementwise (hw ▸ bitwiseWidth_dvd ..)]
  simp only [State.vbit, hbits] at hop
  refine vecOp_lands_writes hv hop hr rfl nofun ?_
  simp only [State.vargs, if_neg ho, htag]

end

/-- R200: the bitwise operations land. -/
theorem vectorBitwiseResults : Spec.VectorBitwiseResults := by
  intro u f s t o typed w tag j hj
  match j, hj with
  | 0, _ =>
    intro op i z hop hr
    cases hop
    exact vbit_lands (h := fun a b => a && b) rfl (show opVand u f s = _ from rfl) nofun rfl rfl rfl hr Nat.testBit_and rfl
  | 1, _ =>
    intro op i z hop hr
    cases hop
    exact vbit_lands (h := fun a b => a || b) rfl (show opVor u f s = _ from rfl) nofun rfl rfl rfl hr Nat.testBit_or rfl
  | 2, _ =>
    intro op i z hop hr
    cases hop
    exact vbit_lands (h := fun a b => a ^^ b) rfl (show opVxor u f s = _ from rfl) nofun rfl rfl rfl hr Nat.testBit_xor rfl
  | 3, _ =>
    intro op i z hop hr
    cases hop
    refine vbit_lands (h := fun a b => a && !b) rfl (show opVandn u f s = _ from rfl) nofun rfl rfl rfl hr (fun a b n => ?_) rfl
    rw [Nat.testBit_xor, Nat.testBit_and]
    cases a.testBit n
    · rfl
    · exact Bool.true_xor _

/-! The operations on vector predicates. -/

section
variable {s : State} {i : Instr} {u : VecUnit} {f : OpS} {op : Nat} {t o : Src} {r : VPred → VPred → VPred → Nat}

/-- An operation on vector predicates lands the number its function gives (R209). -/
theorem vpOp_lands {v : Nat} (hv : i.view = some (.ofS u.slot u.unit op f)) (hop : opOf i s = s.vpOp i u f r)
    (hr : Spec.vready s i u f 128 t o {})
    (hval : r t.vec (if i.shape.o = .none then srcS 0 else o).vec (s.vguard f.g) = v) :
    Spec.lands s i u.slot u.unit 2 (Spec.whole u f { data := BitVec.ofNat 1024 v }) := by
  subst hval
  exact vecOp_lands_whole hv hop hr rfl nofun rfl

/-- A predicate under the guard, bit by bit. -/
theorem toNat_guarded {x g : VPred} {h : Nat → Bool} (hx : ∀ i < 128, x.getLsbD i = h i) :
    (x &&& g).toNat = (BitVec.ofFnLE fun i : Fin 128 => h i.val && g.getLsbD i.val).toNat := by
  refine congrArg BitVec.toNat (BitVec.eq_of_getElem_eq fun i hi => ?_)
  rw [BitVec.getElem_ofFnLE, BitVec.getElem_and, ← BitVec.getLsbD_eq_getElem, ← BitVec.getLsbD_eq_getElem, hx i hi]

end

/-- R209: the operations on vector predicates land. -/
theorem vectorPredicateResults : Spec.VectorPredicateResults := by
  intro u f s t o
  simp only [Spec.vpreds, List.forall_mem_cons, List.not_mem_nil, false_imp_iff, implies_true, and_true]
  refine ⟨fun hr => ?and, fun hr => ?or, fun hr => ?xor, fun hr => ?not, fun hr => ?set, fun hr => ?cnt⟩
  case and =>
    exact vpOp_lands rfl (show opVpand u f s = _ from rfl) hr
      (toNat_guarded (x := t.vec &&& o.vec) (h := fun i => t.vec.getLsbD i && o.vec.getLsbD i) fun _ _ => BitVec.getLsbD_and)
  case or =>
    exact vpOp_lands rfl (show opVpor u f s = _ from rfl) hr
      (toNat_guarded (x := t.vec ||| o.vec) (h := fun i => t.vec.getLsbD i || o.vec.getLsbD i) fun _ _ => BitVec.getLsbD_or)
  case xor =>
    exact vpOp_lands rfl (show opVpxor u f s = _ from rfl) hr
      (toNat_guarded (x := t.vec ^^^ o.vec) (h := fun i => t.vec.getLsbD i ^^ o.vec.getLsbD i) fun _ _ => BitVec.getLsbD_xor)
  case not =>
    refine vpOp_lands rfl (show opVpnot u f s = _ from rfl) hr
      (toNat_guarded (x := ~~~t.vec) (h := fun i => !t.vec.getLsbD i) fun i hi => ?_)
    rw [BitVec.getLsbD_not, decide_eq_true hi, Bool.true_and]
  case set =>
    exact vpOp_lands rfl (show opVpset u f s = _ from rfl) hr (toNat_guarded (h := t.vec.getLsbD) fun _ _ => rfl)
  case cnt =>
    refine vpOp_lands rfl (show opVpcnt u f s = _ from rfl) hr ?_
    rw [popCount_eq_countP_testBit]
    simp only [BitVec.testBit_toNat, BitVec.getLsbD_and]

/-! The compares. -/

section
variable {s : State} {i : Instr} {c : Nat} {u : VecUnit} {k : BitVec 3} {f : OpS} {op fm : Nat} {t o : Src}

/-- The bits of a predicate of a pair: in range, under the guard, and as the condition or its complement says (R203). -/
theorem pair_bits (n : Nat) (g : VPred) (p : Nat → Bool) :
    BitVec.ofNat 128 ((List.range n).foldl (fun x i => if g.getLsbD i && p i then x + 2 ^ i else x) 0) =
      BitVec.ofFnLE fun i : Fin 128 => decide (i.val < n) && g.getLsbD i.val && p i.val := by
  refine BitVec.eq_of_getElem_eq fun i hi => ?_
  rw [BitVec.getElem_ofFnLE, ← BitVec.getLsbD_eq_getElem, BitVec.getLsbD_ofNat,
    testBit_foldl_two_pow (fun i => g.getLsbD i && p i), decide_eq_true hi, Bool.true_and, Bool.and_assoc]

/-- The predicate pair of a vector compare (R203). -/
theorem vpredPair_eq (k : BitVec 3) (pt pf : VPred) : vpredPair k.toNat pt pf = if k = 0 then [] else
    [{ reg := .vp (2 * k.toNat), mask := fullMask, val := { data := pt.setWidth 1024 } },
     { reg := .vp (2 * k.toNat + 1), mask := fullMask, val := { data := pf.setWidth 1024 } }] := by
  have hk : k.toNat = 0 ↔ k = 0 := by rw [← BitVec.toNat_inj]; rfl
  simp only [vpredPair, hk]

/-- A compare whose format it accepts, and whose sources have one bias where it compares codes, lands its elements and the pair
(R203). -/
theorem vcmp_lands {cond : Nat → Bool} (hv : i.view = some (.ofS u.slot u.unit op f)) (hop : opOf i s = s.vcmp i c u k f)
    (ho : i.shape.o ≠ .none) (hl : i.shape.readsL = false) (hr : Spec.vready s i u f (1024 / fmtWidth fm) t o {})
    (hf : Spec.oneFormat fm [t.tagged, o.tagged]) (h0 : fm ≠ 0) (h12 : fm ≠ 12) (hacc : cmpFmt c fm = true)
    (hb : c < 5 → ∃ b, Spec.oneBias b [t.tagged, o.tagged])
    (hcond : ∀ bt bo, (5 ≤ c → bt = (if t.tagged.fmt = 0 then o.tagged.b else t.tagged.b) ∧
      bo = if o.tagged.fmt = 0 then t.tagged.b else o.tagged.b) →
      ∀ x, vecCond c fm (fmtWidth fm) bt bo (t.elemAt (fmtWidth fm) x) (o.elemAt (fmtWidth fm) x) = cond x) :
    let n := 1024 / fmtWidth fm
    let g := s.vguard f.g
    Spec.lands s i u.slot u.unit 2 (Spec.elementwise s u f (fmtWidth fm) 0 0 (fun x => if cond x then 2 ^ fmtWidth fm - 1 else 0) ++
      if k = 0 then [] else
        [{ reg := .vp (2 * k.toNat), mask := fullMask, val := { data :=
            (BitVec.ofFnLE fun i : Fin 128 => decide (i.val < n) && g.getLsbD i.val && cond i.val).setWidth 1024 } },
         { reg := .vp (2 * k.toNat + 1), mask := fullMask, val := { data :=
            (BitVec.ofFnLE fun i : Fin 128 => decide (i.val < n) && g.getLsbD i.val && !cond i.val).setWidth 1024 } }]) := by
  intro n g
  have hsrc : Spec.oneFormat fm (Instr.sources i t o {}) := (sources_two ho hl).symm ▸ hf
  have htwo : (s.vargs i f t o {}).two.map Prod.snd = [t.tagged, o.tagged] := vargs_two ho
  have hfmt : vecFmt (cmpFmt c) (s.vargs i f t o {}).two = .ok fm := vecFmt_of_oneFormat (htwo ▸ hf) h12 hacc
  rw [← elemWrites_eq_elementwise (fmtWidth_dvd fm)]
  refine vecOp_lands_writes hv hop hr (fmtRange_of_oneFormat hr hsrc h0) nofun ?_
  simp only [hfmt, bind_of_ok, pair_bits, vpredPair_eq, beq_true, beq_false]
  by_cases hc : c < 5
  · obtain ⟨b, hb⟩ := hb hc
    have hbias : commonBias (s.vargs i f t o {}).two = .ok b := commonBias_of_oneBias (htwo ▸ hf) (htwo ▸ hb)
    have hval := hcond b b fun h => absurd hc (Nat.not_lt.2 h)
    simp only [if_pos hc, hbias, bind_of_ok]
    simp only [State.vargs, if_neg ho, hval]
    rfl
  · have hval := hcond _ _ fun _ => ⟨rfl, rfl⟩
    simp only [if_neg hc, State.vargs, if_neg ho]
    simp only [pure_bind, hval]
    rfl

end

/-- The instructions of a compare run the model's compare of number c. -/
def vectorCompare (mk : VecUnit → BitVec 3 → OpS → Instr) (c : Nat) : Prop := ∀ u k f,
  (∃ op, (mk u k f).view = some (.ofS u.slot u.unit op f)) ∧ (∀ s, opOf (mk u k f) s = s.vcmp (mk u k f) c u k f) ∧
  (mk u k f).shape.o ≠ .none ∧ (mk u k f).shape.readsL = false

/-- Each compare of R203 runs the model's compare of its number, whose condition is that of the list; the first five compare codes. -/
theorem vcompares_entry {fm w j : Nat} (hw : 0 < w) (hj : j < 8) : ∃ mk, vectorCompare mk j ∧ ∀ bt bo x y,
    (Spec.vcompares fm w bt bo x y)[j]? = some (mk, decide (j < 5), vecCond j fm w bt bo x y) := by
  have hne (a b : Nat) : decide (a ≠ b) = (a != b) := by rw [decide_not]; rfl
  match j, hj with
  | 0, _ => exact ⟨.vceq, fun _ _ _ => ⟨⟨_, rfl⟩, fun _ => rfl, nofun, rfl⟩, fun _ _ _ _ => rfl⟩
  | 1, _ =>
    refine ⟨.vcne, fun _ _ _ => ⟨⟨_, rfl⟩, fun _ => rfl, nofun, rfl⟩, fun _ _ _ _ => ?_⟩
    simp only [Spec.vcompares, hne]
    rfl
  | 2, _ =>
    refine ⟨.vclt, fun _ _ _ => ⟨⟨_, rfl⟩, fun _ => rfl, nofun, rfl⟩, fun _ _ _ _ => ?_⟩
    simp only [vecCond, signed_eq_bmod hw]
    rfl
  | 3, _ =>
    refine ⟨.vcle, fun _ _ _ => ⟨⟨_, rfl⟩, fun _ => rfl, nofun, rfl⟩, fun _ _ _ _ => ?_⟩
    simp only [vecCond, signed_eq_bmod hw]
    rfl
  | 4, _ => exact ⟨.vcltn, fun _ _ _ => ⟨⟨_, rfl⟩, fun _ => rfl, nofun, rfl⟩, fun _ _ _ _ => rfl⟩
  | 5, _ => exact ⟨.vfceq, fun _ _ _ => ⟨⟨_, rfl⟩, fun _ => rfl, nofun, rfl⟩, fun _ _ _ _ => rfl⟩
  | 6, _ => exact ⟨.vfclt, fun _ _ _ => ⟨⟨_, rfl⟩, fun _ => rfl, nofun, rfl⟩, fun _ _ _ _ => rfl⟩
  | 7, _ => exact ⟨.vfcle, fun _ _ _ => ⟨⟨_, rfl⟩, fun _ => rfl, nofun, rfl⟩, fun _ _ _ _ => rfl⟩

/-- A compare of codes reads no bias. -/
theorem vecCond_of_codes {c : Nat} (hc : c < 5) (fm w : Nat) (bt bo bt' bo' : Int) (x y : Nat) :
    vecCond c fm w bt bo x y = vecCond c fm w bt' bo' x y := by
  match c, hc with
  | 0, _ | 1, _ | 2, _ | 3, _ | 4, _ => rfl

/-- R203: the compares land. -/
theorem vectorCompareResults : Spec.VectorCompareResults := by
  intro u k f s t o fm w n g tg og bt bo j hj c codes hop cond hk hf hr
  have hw : 0 < w := Nat.lt_of_lt_of_le (by decide) (le_fmtWidth fm)
  obtain ⟨mk, hmk, hget⟩ := vcompares_entry (fm := fm) hw hj
  obtain ⟨⟨opc, hv⟩, hopOf, ho, hl⟩ := hmk u k f
  obtain ⟨rfl, rfl⟩ : mk = c ∧ decide (j < 5) = codes := by
    have h := hop 0 0
    rw [hget] at h
    cases h
    exact ⟨rfl, rfl⟩
  have hcond : ∀ x, vecCond j fm w bt bo (t.elemAt w x) (o.elemAt w x) = cond x := fun x => by
    simp only [cond, hget, Option.map_some, Option.getD_some]
  have hfm : fm ≠ 0 ∧ fm ≠ 12 ∧ cmpFmt j fm = true ∧ (j < 5 → ∃ b, Spec.oneBias b [tg, og]) := by
    by_cases hc : j < 5
    · rw [decide_eq_true hc, if_pos rfl] at hk
      obtain ⟨hk, hb⟩ := hk
      refine ⟨by omega, by omega, ?_, fun _ => hb⟩
      simp only [cmpFmt, fmtInt, if_neg (Nat.not_le.2 hc)]
      rcases hk with ⟨h1, h6⟩ | ⟨h2, h⟩
      · simp [h1, h6]
      · rcases h with rfl | rfl <;> simp [h2]
    · rw [decide_eq_false hc, if_neg Bool.false_ne_true] at hk
      refine ⟨by omega, by omega, ?_, fun h => absurd h hc⟩
      simp [cmpFmt, fmtIeee, Nat.le_of_not_lt hc, hk]
  obtain ⟨h0, h12, hacc, hb⟩ := hfm
  refine vcmp_lands hv (hopOf s) ho hl hr hf h0 h12 hacc hb fun bt' bo' hbias x => ?_
  by_cases hc : j < 5
  · rw [← hcond, vecCond_of_codes hc]
  · obtain ⟨rfl, rfl⟩ := hbias (Nat.le_of_not_lt hc)
    exact hcond x

/-- Settles O19: the bitwise operations, the operations on vector predicates and the compares. -/
theorem vectorBitwisePredicateAndCompareResults : Obligations.VectorBitwisePredicateAndCompareResults :=
  ⟨vectorBitwiseResults, vectorPredicateResults, vectorCompareResults⟩

end Sys2Proof.Machine
end

section
/-! The floating-point operations (R201): the exact result, encoded once. -/

namespace Sys2Proof.Machine

section
variable {s : State} {i : Instr} {u : VecUnit} {f : OpS} {op fm : Nat} {t o : Src} {l : Wide} {b : Int}

/-- An IEEE format is accepted where one is asked for. -/
theorem fmtIeee_of_range (h7 : 7 ≤ fm) (h9 : fm ≤ 9) : fmtIeee fm = true := by simp [fmtIeee, h7, h9]

/-- A floating operation of two sources under their common bias lands its encoded values (R201). -/
theorem vfl2_lands {e : Nat → FVal → FVal → FVal} (hv : i.view = some (.ofS u.slot u.unit op f)) (hop : opOf i s = s.vfl2 i u f e)
    (ho : i.shape.o ≠ .none) (hl : i.shape.readsL = false) (h7 : 7 ≤ fm) (h9 : fm ≤ 9) (hm : Spec.rounding s)
    (hr : Spec.vready s i u f (1024 / fmtWidth fm) t o l) (hf : Spec.oneFormat fm [t.tagged, o.tagged])
    (hb : Spec.oneBias b [t.tagged, o.tagged]) :
    Spec.lands s i u.slot u.unit 4 (Spec.elementwise s u f (fmtWidth fm) fm b fun k => fmtEncode fm b s.me.bank.fmode
      (e s.me.bank.fmode (fmtValue fm b (t.elemAt (fmtWidth fm) k)) (fmtValue fm b (o.elemAt (fmtWidth fm) k)))) := by
  have hsrc : Spec.oneFormat fm (Instr.sources i t o l) := (sources_two ho hl).symm ▸ hf
  have htwo : (s.vargs i f t o l).two.map Prod.snd = [t.tagged, o.tagged] := vargs_two ho
  have hfmt : vecFmt fmtIeee (s.vargs i f t o l).two = .ok fm :=
    vecFmt_of_oneFormat (htwo ▸ hf) (by omega) (fmtIeee_of_range h7 h9)
  have hbias : commonBias (s.vargs i f t o l).two = .ok b := commonBias_of_oneBias (htwo ▸ hf) (htwo ▸ hb)
  refine vecOp_lands_elementwise hv hop hr (fmtRange_of_oneFormat hr hsrc (by omega)) (fun _ => hm) ?_
  simp only [hfmt, hbias, bind_of_ok]
  simp only [State.vargs, if_neg ho]
  rfl

/-- A product lands encoded once, under the sum of the biases (R201). -/
theorem vfmul_lands (h7 : 7 ≤ fm) (h9 : fm ≤ 9) (hm : Spec.rounding s)
    (hr : Spec.vready s (.vfmul u f) u f (1024 / fmtWidth fm) t o l) (hf : Spec.oneFormat fm [t.tagged, o.tagged])
    (hb : b = t.tagged.b + o.tagged.b) (hrange : -32 ≤ b ∧ b ≤ 31) :
    Spec.lands s (.vfmul u f) u.slot u.unit 4 (Spec.elementwise s u f (fmtWidth fm) fm b fun k => fmtEncode fm b s.me.bank.fmode
      ((fmtValue fm t.tagged.b (t.elemAt (fmtWidth fm) k)).mul (fmtValue fm o.tagged.b (o.elemAt (fmtWidth fm) k)))) := by
  subst hb
  have hfmt : vecFmt fmtIeee (s.vargs (.vfmul u f) f t o l).two = .ok fm :=
    vecFmt_of_oneFormat hf (by omega) (fmtIeee_of_range h7 h9)
  refine vecOp_lands_elementwise rfl (show opVfmul u f s = _ from rfl) hr (fmtRange_of_oneFormat hr hf (by omega)) (fun _ => hm) ?_
  rw [hfmt, bind_of_ok]
  exact congrArg (fun x : Res Unit => x.bind _) (biasOk_of_range hrange)

/-- A fused product lands encoded once, under the sum of the biases of T and O, which L's equals (R201). -/
theorem vfl3_lands {neg : Bool} (hv : i.view = some (.ofS u.slot u.unit op f)) (hop : opOf i s = s.vfl3 i u f neg)
    (ho : i.shape.o ≠ .none) (hl : i.shape.readsL = true) (h7 : 7 ≤ fm) (h9 : fm ≤ 9) (hm : Spec.rounding s)
    (hr : Spec.vready s i u f (1024 / fmtWidth fm) t o l) (hf : Spec.oneFormat fm [t.tagged, o.tagged, l])
    (hb : b = t.tagged.b + o.tagged.b) (hrange : -32 ≤ b ∧ b ≤ 31) (hbl : l.fmt ≠ 0 → l.bias.toInt = b) :
    Spec.lands s i u.slot u.unit 4 (Spec.elementwise s u f (fmtWidth fm) fm b fun k => fmtEncode fm b s.me.bank.fmode
      (let p := (fmtValue fm t.tagged.b (t.elemAt (fmtWidth fm) k)).mul (fmtValue fm o.tagged.b (o.elemAt (fmtWidth fm) k))
       FVal.add s.me.bank.fmode (if neg then p.neg else p) (fmtValue fm b (elem (fmtWidth fm) l.data k)))) := by
  subst hb
  have hsrc : Spec.oneFormat fm (Instr.sources i t o l) := by
    rw [Instr.sources, if_neg ho, hl]
    exact hf
  have hargs : s.vargs i f t o l = ⟨t, o, l, s.vguard f.g, s.me.bank.fmode, f.ol⟩ := by
    rw [State.vargs, if_neg ho, if_pos hl]
  have hfmt : vecFmt fmtIeee (s.vargs i f t o l).three = .ok fm := by
    rw [hargs]
    exact vecFmt_of_oneFormat hf (by omega) (fmtIeee_of_range h7 h9)
  have hL : ¬(l.fmt ≠ 0 ∧ l.bias.toInt ≠ t.tagged.b + o.tagged.b) := fun h => h.2 (hbl h.1)
  refine vecOp_lands_elementwise hv hop hr (fmtRange_of_oneFormat hr hsrc (by omega)) (fun _ => hm) ?_
  simp only [hfmt, bind_of_ok]
  simp only [hargs, biasOk_of_range hrange, bind_of_ok, if_neg hL]
  rfl

end

/-- The instructions of a floating operation run the model's operation under the common bias, with the result e. -/
def floating (mk : VecUnit → OpS → Instr) (e : Nat → FVal → FVal → FVal) : Prop := ∀ u f,
  (∃ op, (mk u f).view = some (.ofS u.slot u.unit op f)) ∧ (∀ s, opOf (mk u f) s = s.vfl2 (mk u f) u f e) ∧
  (mk u f).shape.o ≠ .none ∧ (mk u f).shape.readsL = false

/-- Each floating operation of R201 under the common bias has the exact result of the list. -/
theorem floats_entry {j : Nat} (hj : j < 4) : ∃ mk e, floating mk e ∧
    ∀ mode x y, (Spec.floats mode x y)[j]? = some (mk, e mode x y) := by
  match j, hj with
  | 0, _ => exact ⟨.vfadd, _, fun u f => ⟨⟨_, rfl⟩, fun s => show opVfadd u f s = _ from rfl, nofun, rfl⟩, fun _ _ _ => rfl⟩
  | 1, _ => exact ⟨.vfsub, _, fun u f => ⟨⟨_, rfl⟩, fun s => show opVfsub u f s = _ from rfl, nofun, rfl⟩, fun _ _ _ => rfl⟩
  | 2, _ => exact ⟨.vfmin, _, fun u f => ⟨⟨_, rfl⟩, fun s => show opVfmin u f s = _ from rfl, nofun, rfl⟩, fun _ _ _ => rfl⟩
  | 3, _ => exact ⟨.vfmax, _, fun u f => ⟨⟨_, rfl⟩, fun s => show opVfmax u f s = _ from rfl, nofun, rfl⟩, fun _ _ _ => rfl⟩

/-- Settles O20: sums, differences and choices by the common bias, products and fused products by the sum of the biases. -/
theorem vectorFloatResults : Obligations.VectorFloatResults := by
  intro u f s t o l fm b h7 h9 hm w mode tv ov two three bt bo done
  refine ⟨fun j hj e he hr hf hb => ?two, fun hr hf hb hlo hhi => vfmul_lands h7 h9 hm hr hf hb ⟨hlo, hhi⟩,
    fun hb hlo hhi hbl hf => ⟨fun hr => ?vfma, fun hr => ?vfnma⟩⟩
  case two =>
    obtain ⟨mk, r, hmk, hget⟩ := floats_entry hj
    obtain ⟨⟨opc, hv⟩, hop, ho, hl⟩ := hmk u f
    have h := he 0
    simp only [hget, Option.map_some, Option.some.injEq] at h
    subst h
    simp only [hget, Option.map_some, Option.getD_some]
    exact vfl2_lands hv (hop s) ho hl h7 h9 hm hr hf hb
  case vfma => exact vfl3_lands (neg := false) rfl (show opVfma u f s = _ from rfl) nofun rfl h7 h9 hm hr hf hb ⟨hlo, hhi⟩ hbl
  case vfnma => exact vfl3_lands (neg := true) rfl (show opVfnma u f s = _ from rfl) nofun rfl h7 h9 hm hr hf hb ⟨hlo, hhi⟩ hbl

end Sys2Proof.Machine
end

section
/-! The lane operations (R204), the reductions (R205, R206) and the random operations (R207, R208). -/

namespace Sys2Proof.Machine

section
variable {s : State} {i : Instr} {u : VecUnit} {f : OpS} {op fm lat : Nat} {t o : Src} {l : Wide} {b : Int}

/-! The lane operations. -/

/-- Every typed format but raw is accepted by a lane operation (R204). -/
theorem laneFmt_of_range (h1 : 1 ≤ fm) (h11 : fm ≤ 11) : laneFmt fm = true := by simp [laneFmt, h1, h11]

/-- A code that is not 0 is that of a typed source. -/
theorem fmt_ne_zero_of_toNat {x : Wide} (h : x.fmt.toNat = fm) (h0 : fm ≠ 0) : x.fmt ≠ 0 := fun e => h0 (by rw [← h, e]; rfl)

/-- The format of a typed source (R196). -/
theorem vecFmt_of_typed {acc : Nat → Bool} {x : Wide} {n : Nat} (h : x.fmt.toNat = fm) (h0 : fm ≠ 0) (h12 : fm ≠ 12)
    (ha : acc fm = true) : vecFmt acc [(n, x)] = .ok fm :=
  vecFmt_of_oneFormat (oneFormat_single h h0) h12 ha

/-- What depends on T's format, where a lane operation accepts it (R204). -/
theorem laneFmt_bind {α : Type} {x : Wide} (h1 : 1 ≤ fm) (h11 : fm ≤ 11) (h : x.fmt.toNat = fm) (g : Nat → Res α) :
    (vecFmt laneFmt [(0, x)] >>= g) = g fm := by
  rw [vecFmt_of_typed h (by omega) (by omega) (laneFmt_of_range h1 h11), bind_of_ok]

/-- A lane operation lands the elements of its function, with T's tag (R204). -/
theorem vlane_lands {e : VArgs → Nat → Nat → Nat → Nat} {r : Nat → Nat} (hv : i.view = some (.ofS u.slot u.unit op f))
    (hop : opOf i s = s.vlane i u f e) (h1 : 1 ≤ fm) (h11 : fm ≤ 11) (ht : t.tagged.fmt.toNat = fm)
    (hr : Spec.vready s i u f (1024 / fmtWidth fm) t o l)
    (he : ∀ k, e (s.vargs i f t o l) (1024 / fmtWidth fm) (fmtWidth fm) k = r k) :
    Spec.lands s i u.slot u.unit 2 (Spec.elementwise s u f (fmtWidth fm) fm t.tagged.bias.toInt r) := by
  obtain rfl := funext he
  refine vecOp_lands_elementwise hv hop hr (tRange_of_typed hr ht (by omega)) nofun ?_
  exact laneFmt_bind h1 h11 ht _

/-- vext lands one element, extended by its format (R204). -/
theorem vext_lands (h1 : 1 ≤ fm) (h11 : fm ≤ 11) (ht : t.tagged.fmt.toNat = fm) (hr : Spec.vready s (.vext u f) u f 1 t o l) :
    let x := t.elemAt (fmtWidth fm) (o.word.toNat % (1024 / fmtWidth fm))
    Spec.lands s (.vext u f) u.slot u.unit 2 (Spec.whole u f { data := (Spec.z64 (
      rawInt fm (fmtWidth fm) (if fm = 11 then x % 64 else x))).setWidth 1024 }) := by
  refine vecOp_lands_whole rfl (show opVext u f s = _ from rfl) hr rfl nofun ?_
  exact laneFmt_bind h1 h11 ht _

/-- The element of a vext as its format extends it: with its sign, or the significant bits of a t6 lane, or with zeros (R182, R204). -/
theorem rawInt_ext {w : Nat} (hw : 0 < w) (x : Nat) : rawInt fm w (if fm = 11 then x % 64 else x) =
    if fm = 1 ∨ fm = 3 ∨ fm = 5 then Int.bmod x (2 ^ w) else if fm = 11 then x % 2 ^ 6 else x := by
  rw [rawInt_eq hw]
  by_cases h : fm = 11
  · subst h
    rfl
  · simp only [if_neg h]

/-- Elements packed from element 0 upward, and zeros after them. -/
theorem lanesOf_packed {w : Nat} (hw : 0 < w) (kept : List Nat) (x : Nat → Nat) :
    lanesOf w (kept.map x) = BitVec.ofFnLE fun i : Fin 1024 => match kept[i.val / w]? with
      | some k => (x k).testBit (i.val % w)
      | none => false := by
  refine BitVec.eq_of_getElem_eq fun i hi => ?_
  rw [BitVec.getElem_ofFnLE, ← BitVec.getLsbD_eq_getElem, getLsbD_lanesOf hw _ hi, List.getD_eq_getElem?_getD, List.getElem?_map]
  cases h : kept[i / w]? with
  | none => simp
  | some k => simp

/-- vcomp lands the guarded elements, packed (R204). -/
theorem vcomp_lands (h1 : 1 ≤ fm) (h11 : fm ≤ 11) (ht : t.tagged.fmt.toNat = fm)
    (hr : Spec.vready s (.vcomp u f) u f (1024 / fmtWidth fm) t o l) :
    let kept := (List.range (1024 / fmtWidth fm)).filter fun k => (s.vguard f.g).getLsbD k
    Spec.lands s (.vcomp u f) u.slot u.unit 2 (Spec.whole u f
      { t.tagged with data := lanesOf (fmtWidth fm) (kept.map fun k => t.elemAt (fmtWidth fm) k) }) := by
  refine vecOp_lands_whole rfl (show opVcomp u f s = _ from rfl) hr (tRange_of_typed hr ht (by omega)) nofun ?_
  exact laneFmt_bind h1 h11 ht _

/-- An operation that reads its latch as L does not read it as O (R69, R195). -/
theorem ol_eq_false_of_readsL {slot unit : Nat} (hv : i.view = some (.ofS slot unit op f)) (hc : i.check = none)
    (hl : i.shape.readsL = true) : f.ol = false := by
  by_contra hol
  have hform : formOk (.ofS slot unit op f) i.shape = false := by
    simp [formOk, View.ofS, hol, hl]
  simp only [Instr.check, hv, slotCheck, hform, Bool.false_and, Bool.not_false, if_true] at hc
  split_ifs at hc

/-- vsel lands the elements of T or O, as L's bits say (R204). -/
theorem vsel_lands (h1 : 1 ≤ fm) (h11 : fm ≤ 11) (hf : Spec.oneFormat fm [t.tagged, o.tagged])
    (hb : Spec.oneBias b [t.tagged, o.tagged]) (hr : Spec.vready s (.vsel u f) u f (1024 / fmtWidth fm) t o l) :
    Spec.lands s (.vsel u f) u.slot u.unit 2 (Spec.elementwise s u f (fmtWidth fm) fm b fun k =>
      if l.data.getLsbD k then t.elemAt (fmtWidth fm) k else o.elemAt (fmtWidth fm) k) := by
  obtain ⟨hc, -, -, ht, ho, -⟩ := id hr
  have hol : f.ol = false := ol_eq_false_of_readsL (i := .vsel u f) rfl hc rfl
  have hO : s.portTag f.o = some o.tagged.fmt.toNat := by
    have h := codeO_of_readO (ho nofun)
    rw [hol] at h
    exact List.head_eq_of_cons_eq h
  have hrange : rangeOf (firstCode (· != 0) [s.portTag f.t, s.portTag f.o]) = 1024 / fmtWidth fm := by
    rw [portTag_of_readT ht, hO]
    exact (congrArg rangeOf (firstCode_of_oneFormat hf)).trans (rangeOf_typed (by omega))
  have hfmt : vecFmt laneFmt (s.vargs (.vsel u f) f t o l).two = .ok fm :=
    vecFmt_of_oneFormat hf (by omega) (laneFmt_of_range h1 h11)
  have hbias : commonBias (s.vargs (.vsel u f) f t o l).two = .ok b := commonBias_of_oneBias (fm := fm) hf hb
  refine vecOp_lands_elementwise rfl (show opVsel u f s = _ from rfl) hr hrange nofun ?_
  simp only [hfmt, bind_of_ok, hbias]
  rfl

end

/-- R204: the lane operations land. -/
theorem vectorLaneResults : Spec.VectorLaneResults := by
  intro u f s t o l fm h1 h11 w n tg x c
  have hw : 0 < w := Nat.lt_of_lt_of_le (by decide) (le_fmtWidth fm)
  have hx (ht : tg.fmt.toNat = fm) : t.elemAt w = x := funext fun k => elemAt_of_typed (fmt_ne_zero_of_toNat ht (by omega)) w k
  refine ⟨fun ht => ?lanes, fun ht hr => ?vext, fun ht hr => ?vcomp, fun b hf hb hr => vsel_lands h1 h11 hf hb hr⟩
  case lanes =>
    simp only [List.forall_mem_cons, List.not_mem_nil, false_imp_iff, implies_true, and_true]
    refine ⟨fun hr => ?splat, fun hr => ?ins, fun hr => ?perm, fun hr => ?rot⟩
    all_goals rw [← hx ht]
    case splat => exact vlane_lands rfl (show opVsplat u f s = _ from rfl) h1 h11 ht hr fun k => rfl
    case ins =>
      refine vlane_lands rfl (show opVins u f s = _ from rfl) h1 h11 ht hr fun k => ?_
      rw [field_eq_div_mod, Nat.pow_zero, Nat.div_one]
      rfl
    case perm => exact vlane_lands rfl (show opVperm u f s = _ from rfl) h1 h11 ht hr fun k => rfl
    case rot => exact vlane_lands rfl (show opVrot u f s = _ from rfl) h1 h11 ht hr fun k => rfl
  case vext =>
    have h := vext_lands h1 h11 ht hr
    rw [hx ht] at h
    rw [← rawInt_ext hw (x (c % n))]
    exact h
  case vcomp =>
    intro kept d
    have hd : lanesOf w (kept.map x) = d := lanesOf_packed hw kept x
    rw [← hd, ← hx ht]
    exact vcomp_lands h1 h11 ht hr

/-! The reductions. -/

section
variable {s : State} {i : Instr} {u : VecUnit} {f : OpS} {op fm lat : Nat} {t o : Src}

/-- The guarded elements of T with their indexes (R205). -/
def State.guarded (s : State) (f : OpS) (fm : Nat) (t : Wide) : List (Nat × Nat) :=
  ((List.range (1024 / fmtWidth fm)).filter fun k => (s.vguard f.g).getLsbD k).map fun k => (k, elem (fmtWidth fm) t.data k)

/-- A reduction lands its one result (R205). -/
theorem vred_lands {act : VArgs → Nat → List (Nat × Nat) → Wide} {rounds : Bool} {v : Wide}
    (hv : i.view = some (.ofS u.slot u.unit op f)) (hop : opOf i s = s.vred i u f lat act rounds) (h1 : 1 ≤ fm) (h11 : fm ≤ 11)
    (ht : t.tagged.fmt.toNat = fm) (hm : rounds = true → Spec.rounding s)
    (hr : Spec.vready s i u f (1024 / fmtWidth fm) t o {})
    (hval : act (s.vargs i f t o {}) fm (s.guarded f fm t.tagged) = v) :
    Spec.lands s i u.slot u.unit lat (Spec.whole u f v) := by
  subst hval
  have hx : (fun k => (k, elem (fmtWidth fm) t.tagged.data k)) = fun k => (k, t.elemAt (fmtWidth fm) k) :=
    funext fun k => by rw [elemAt_of_typed (fmt_ne_zero_of_toNat ht (by omega))]
  refine vecOp_lands_whole hv hop hr (tRange_of_typed hr ht (by omega)) hm ?_
  rw [State.guarded, hx]
  exact laneFmt_bind h1 h11 ht _

/-- The elements added up one by one. -/
theorem foldl_add_eq_sum {α : Type} (g : α → Int) (l : List α) : l.foldl (fun x e => x + g e) 0 = (l.map g).sum := by
  rw [List.sum_eq_foldl, List.foldl_map]

/-- A sum's low 64 bits, in bits 63:0 (R205). -/
theorem lowWide_wrap (z : Int) : lowWide (wrap 64 z) = { data := (Spec.z64 z).setWidth 1024 } := by
  rw [← BitVec.ofNat_toNat, Spec.z64, BitVec.toNat_ofInt]
  rfl

/-- The nodes of level 0 of the summation tree: the guarded elements by index (R206). -/
theorem find?_guarded (n : Nat) (p : Nat → Bool) (x : Nat → Nat) {k : Nat} (hk : k < n) :
    (((List.range n).filter p).map fun k => (k, x k)).find? (fun e => e.1 == k) = if p k then some (k, x k) else none := by
  have hfind : (List.range n).find? (fun a => p a && a == k) = if p k then some k else none := by
    split
    · rw [List.find?_range_eq_some]
      refine ⟨by simp [*], List.mem_range.2 hk, fun j hj => ?_⟩
      simp [Nat.ne_of_lt hj]
    · rw [List.find?_range_eq_none]
      intro j _
      by_cases hj : j = k
      · simp [*]
      · simp [hj]
  rw [List.find?_map, List.find?_filter]
  simp only [Function.comp_def, Bool.decide_and, Bool.decide_eq_true, hfind]
  split
  · rfl
  · rfl

end

/-- R205, R206: the reductions land. -/
theorem vectorReductionResults : Spec.VectorReductionResults := by
  intro u f s t o fm h1 h11 w n tg on l ht
  have hw : 0 < w := Nat.lt_of_lt_of_le (by decide) (le_fmtWidth fm)
  have hl : s.guarded f fm tg = l := rfl
  refine ⟨fun h6 hr => ?isum, fun h6 hm hr => ?fsum, fun hr => ?maxr, fun hr => ?argmax⟩
  case isum =>
    have hint : fmtInt fm = true := by simp [fmtInt, h1, h6]
    obtain ⟨-, -, -, hT, -⟩ := id hr
    have hr0 : (!(s.portTag f.t).any fmtInt) = false := by
      rw [portTag_of_readT hT, ht, Option.any_some, hint]
      rfl
    refine vred_lands rfl (show opVsum u f s = _ from rfl) h1 h11 ht (fun h => ?_) hr ?_
    · rw [hr0] at h
      cases h
    · rw [hl, if_pos hint, foldl_add_eq_sum, lowWide_wrap, List.map_map]
      simp only [Function.comp_def, rawInt_eq (w := fmtWidth fm) hw]
      rfl
  case fsum =>
    have hint : fmtInt fm = false := by simp [fmtInt, Nat.not_le.2 h6]
    have hieee : (fmtIeee fm = true) = (fm ≤ 9) := by simp [fmtIeee, Nat.succ_le_of_lt h6]
    intro b nodes
    have hnodes : (List.range n).map (fun k => (l.find? fun e => e.1 == k).map fun e => fmtValue fm b e.2) = nodes := by
      refine List.map_congr_left fun k hk => ?_
      rw [find?_guarded n _ (elem w tg.data) (List.mem_range.1 hk)]
      split
      · rfl
      · rfl
    refine vred_lands rfl (show opVsum u f s = _ from rfl) h1 h11 ht (fun _ => hm) hr ?_
    rw [hl, hint, if_neg Bool.false_ne_true]
    simp only [hieee]
    rw [← hnodes]
    rfl
  case maxr =>
    refine vred_lands rfl (show opVmaxr u f s = _ from rfl) h1 h11 ht nofun hr ?_
    rw [hl]
    cases greatest fm l <;> rfl
  case argmax =>
    refine vred_lands rfl (show opVargmax u f s = _ from rfl) h1 h11 ht nofun hr ?_
    rw [hl]
    cases greatest fm l <;> rfl

/-! The random operations. -/

section
variable {s : State} {u : VecUnit} {f : OpS} {fm : Nat} {t o : Src}

/-- vrng lands its words (R207). -/
theorem vrng_lands (hr : Spec.vready s (.vrng u f) u f 16 t o {}) : Spec.lands s (.vrng u f) u.slot u.unit 4
    (Spec.elementwise s u f 64 0 0 fun j => (rngMix o.word (t.word + BitVec.ofNat 64 j)).toNat) :=
  vecOp_lands_elementwise (fm := 0) rfl (show opVrng u f s = _ from rfl) hr rfl nofun rfl

/-- vsample lands its draw (R208). -/
theorem vsample_lands (h7 : 7 ≤ fm) (h9 : fm ≤ 9) (ht : t.tagged.fmt.toNat = fm)
    (hr : Spec.vready s (.vsample u f) u f (1024 / fmtWidth fm) t o {}) :
    let kept := (List.range (1024 / fmtWidth fm)).filter fun k => (s.vguard f.g).getLsbD k
    let l := kept.map fun k => (k, fmtValue fm t.tagged.b (t.elemAt (fmtWidth fm) k))
    Spec.lands s (.vsample u f) u.slot u.unit 8 (Spec.whole u f (lowWide (sampleDraw l (o.word.toNat / 2 ^ 32)))) := by
  have hfmt : vecFmt fmtIeee [(0, t.tagged)] = .ok fm := ht ▸ vecFmt_ieee (ht.symm ▸ h7) (ht.symm ▸ h9)
  refine vecOp_lands_whole rfl (show opVsample u f s = _ from rfl) hr (tRange_of_typed hr ht (by omega)) nofun ?_
  show (vecFmt fmtIeee [(0, t.tagged)]).bind _ = _
  rw [hfmt]
  rfl

end

/-- R207, R208: the random operations land. -/
theorem vectorRandomResults : Spec.VectorRandomResults := by
  intro u f s t o
  refine ⟨fun hr => vrng_lands hr, fun fm h7 h9 ht hr => ?sample⟩
  have hx : t.elemAt (fmtWidth fm) = elem (fmtWidth fm) t.tagged.data :=
    funext fun k => elemAt_of_typed (fmt_ne_zero_of_toNat ht (by omega)) _ k
  have h := vsample_lands h7 h9 ht hr
  rw [hx] at h
  exact h

/-- Settles O22: the lane operations, the reductions and the random operations. -/
theorem vectorLaneReductionAndRandomResults : Obligations.VectorLaneReductionAndRandomResults :=
  ⟨vectorLaneResults, vectorReductionResults, vectorRandomResults⟩

end Sys2Proof.Machine
end

section
/-! The matrix unit's descriptor, waits and rooms (R216 to R221), and the entries that its loads and pushes make. -/

namespace Sys2Proof.Machine

/-! The fields of a descriptor (R216). -/

section
variable (d : Lanes)

theorem mxFmt_toNat : (mxFmt d).toNat = d.toNat / 2 ^ 104 % 16 := field_eq_div_mod d 104 4
theorem mxFmt_eq_ofNat : mxFmt d = BitVec.ofNat 4 (d.toNat / 2 ^ 104 % 16) := by
  rw [← mxFmt_toNat, BitVec.ofNat_toNat, BitVec.setWidth_eq]
theorem rowStride_eq_stride (fm : Nat) : rowStride (mxStride d) fm = Spec.stride d fm := by
  rw [mxStride, field_eq_div_mod]
  rfl

/-- The tag of a loaded tile is the descriptor's FMT and BIAS (R226). -/
theorem tagOf_descriptor : tagOf (d.toNat / 2 ^ 104 % 16) (mxBias d).toInt = BitVec.ofNat 10 (d.toNat / 2 ^ 104 % 1024) := by
  have hb : (mxBias d).toNat = d.toNat / 2 ^ 104 / 16 % 64 := by
    rw [mxBias, BitVec.extractLsb'_toNat, Nat.shiftRight_eq_div_pow, Nat.div_div_eq_div_mul]
    rfl
  have hw : wrap 6 (mxBias d).toInt = (mxBias d).toNat := by
    have := (mxBias d).isLt
    simp only [wrap, BitVec.toInt]
    split
    all_goals omega
  rw [tagOf, hw, hb]
  congr 1
  omega

end

/-- MODE 1 (R69). -/
theorem mode_toNat_eq_one {mode : BitVec 2} : mode.toNat = 1 ↔ mode = 1 := BitVec.toNat_inj (y := 1)
theorem mode_toNat_beq_one (mode : BitVec 2) : (mode == 1) = (mode.toNat == 1) := by
  rw [Bool.eq_iff_iff, beq_iff_eq, beq_iff_eq, mode_toNat_eq_one]

/-! Operations of mx and their waits. -/

section
variable {s : State} {i : Instr} {f : OpT} {unit op : Nat} {l : Wide}

/-- Under a true guard, with its descriptor readable, an operation of mx is its action. -/
theorem mxOp_acts {act : Lanes → Res State} (hv : i.view = some (.ofT unit op f)) (hr : Spec.mready s i f l) :
    s.mxOp i f act = inSlot 5 (act l.data) := by
  obtain ⟨hc, hon, hl⟩ := hr
  rw [State.mxOp, hl]
  exact guarded_acts hv rfl rfl hc hon

end

section
variable {s : State} {core ci : Nat} {acc : BitVec 4} {r : Nat}

/-- A push in flight that is still to add row r (R219, R228). -/
def MOp.owes (r : Nat) (m : MOp) : Bool :=
  match m.vec with
  | some q => q.1.toNat == r
  | none => decide (m.rows ≤ r)

theorem MOp.not_added_eq_owes {m : MOp} (h : m.flying = true) : (!m.added r) = m.owes r := by
  unfold MOp.flying MOp.total at h
  unfold MOp.added MOp.owes
  cases hv : m.vec with
  | none => simp [← decide_not]
  | some q =>
    have hrows : m.rows = 0 := by simpa [hv] using (Bool.and_eq_true_iff.1 h).2
    simp [hrows, bne]

/-- The pushes in flight on a tile (R218, R219). -/
theorem mem_flyingAt {m : MOp} : m ∈ Spec.flyingAt s core acc ↔ m ∈ (s.core core).mops ∧ (m.flying && m.acc == acc) = true :=
  List.mem_filter

/-- The pushes a wait on the whole tile is for. -/
theorem late_eq_flyingAt : ((s.core core).mops.filter fun m => m.flying && m.acc.toNat == acc.toNat && true) =
    Spec.flyingAt s core acc := by
  refine List.filter_congr fun m _ => ?_
  rw [Bool.and_true, show (m.acc.toNat == acc.toNat) = (m.acc == acc) from by
    simp [BitVec.toNat_inj, beq_eq_decide]]
  rfl

/-- The pushes a wait on one row is for. -/
theorem late_eq_owing : ((s.core core).mops.filter fun m => m.flying && m.acc.toNat == acc.toNat && !m.added r) =
    (Spec.flyingAt s core acc).filter (MOp.owes r) := by
  rw [← late_eq_flyingAt, List.filter_filter]
  refine List.filter_congr fun m _ => ?_
  by_cases hf : m.flying = true
  · rw [MOp.not_added_eq_owes hf, Bool.and_true, Bool.and_comm]
  · simp [Bool.eq_false_iff.2 hf]

/-- A tile without a push in flight may be cleared at once. -/
theorem tileWait_clear (h : Spec.flyingAt s core acc = []) : s.tileWait core ci acc.toNat none = .ok () := by
  simp only [State.tileWait, late_eq_flyingAt, h]
  rfl

/-- A tile with pushes in flight: one of the context's own pitch traps, any other blocks. -/
theorem tileWait_flying (h : Spec.flyingAt s core acc ≠ []) : s.tileWait core ci acc.toNat none =
    if (Spec.flyingAt s core acc).any fun m => m.ownPitch ci (s.ctx ci).pitch then raise 11 0 28 else blockAt .busyTile := by
  simp only [State.tileWait, late_eq_flyingAt, List.isEmpty_iff, if_neg h]

/-- A row to which no push in flight is still to add may be read at once. -/
theorem tileWait_row (h : ∀ m ∈ Spec.flyingAt s core acc, m.owes r = false) :
    s.tileWait core ci acc.toNat (some r) = .ok () := by
  have hl : (Spec.flyingAt s core acc).filter (MOp.owes r) = [] := List.filter_eq_nil_iff.2 fun m hm => by simp [h m hm]
  simp only [State.tileWait, late_eq_owing, hl]
  rfl

/-- A row to which pushes in flight are still to add. -/
theorem tileWait_row_owed (h : (Spec.flyingAt s core acc).filter (MOp.owes r) ≠ []) : s.tileWait core ci acc.toNat (some r) =
    if ((Spec.flyingAt s core acc).filter (MOp.owes r)).any fun m => m.ownPitch ci (s.ctx ci).pitch then raise 11 0 28
    else blockAt .busyTile := by
  simp only [State.tileWait, late_eq_owing, List.isEmpty_iff, if_neg h]

/-- A push that adds to other rows, or has added row r, does not owe it. -/
theorem owes_eq_false {m : MOp} (h : match m.vec with
    | some q => q.1.toNat ≠ r
    | none => r < m.rows) : m.owes r = false := by
  unfold MOp.owes
  cases hv : m.vec with
  | none => simpa [hv] using h
  | some q => simpa [hv] using h

/-- A check of the queues an entry joins and of its tile's limit (R218, R221) that is passed. -/
theorem macroRoom_ok {m : MOp} {lim : Nat} (hfly : m.load = false → (Spec.flyingAt s core m.acc).length < lim)
    (hroom : Spec.roomAt s core m.macros) : s.macroRoom core ci m lim = .ok () := by
  have hlim : (!m.load && decide (lim ≤ (Spec.flyingAt s core m.acc).length)) = false := by
    cases hl : m.load
    · simpa using hfly hl
    · rfl
  have hq : (m.macros.forM fun q => (if 8 ≤ ((s.core core).mops.filter fun x => x.macros.contains q).length
      then fullStop ci (s.ctx ci).pitch ((s.core core).mops.filter fun x => x.macros.contains q) else .ok () : Res Unit)) = .ok () :=
    forM_ok fun q hq => if_neg (Nat.not_le.2 (hroom q hq))
  exact (if_neg (Bool.eq_false_iff.1 hlim)).trans hq

end

/-! The entries of loads and pushes (R217, R218, R226 to R228), as a context or the sequencer makes them. -/

/-- The entry of an mload. -/
def State.loadEntry (s : State) (core ci : Nat) (d : Lanes) (t : Word) (b : BitVec 7) (mode : Nat) (h : Handle) (id : Nat) : MOp :=
  { id := id, ctx := ci, pitch := (s.ctx ci).pitch, seq := s.seq, load := true, b := b, gang := mode == 1, acc := 0, rtime := 0,
    fmt := mxFmt d, bias := mxBias d, tag := BitVec.ofNat 10 (d.toNat / 2 ^ 104 % 1024), off := t,
    stride := Spec.stride d (d.toNat / 2 ^ 104 % 16), h := h, vec := none, csem := none, slot := s.coreSlot core,
    gen := s.coreGen core, released := false, relAt := 0, start := none, rows := 0, consumed := true, data := none, lim := 0 }

/-- The entry of an mpush of row time r, which makes its tile one of the tag. -/
def State.pushEntry (s : State) (core ci : Nat) (d : Lanes) (t : Word) (b : BitVec 7) (acc : BitVec 4) (id r : Nat)
    (tag : BitVec 10) : MOp :=
  { id := id, ctx := ci, pitch := (s.ctx ci).pitch, seq := s.seq, load := false, b := b,
    gang := d.toNat / 2 ^ 104 % 16 == 7, acc := acc, rtime := r, fmt := mxFmt d, bias := mxBias d, tag := tag, off := t,
    stride := Spec.stride d (d.toNat / 2 ^ 104 % 16), h := {}, vec := none, csem := mxCsem d, slot := s.coreSlot core,
    gen := s.coreGen core, released := false, relAt := 0, start := none, rows := 0, consumed := false, data := none, lim := r }

/-- The entry of an mpushv. -/
def State.rowEntry (s : State) (core ci : Nat) (d : Lanes) (v : Wide) (b : BitVec 7) (acc : BitVec 4) (id r : Nat)
    (tag : BitVec 10) : MOp :=
  { id := id, ctx := ci, pitch := (s.ctx ci).pitch, seq := s.seq, load := false, b := b, gang := false, acc := acc, rtime := r,
    fmt := v.fmt, bias := v.bias, tag := tag, off := 0, stride := 0, h := {}, vec := some (mxRow d, v.data), csem := none,
    slot := s.coreSlot core, gen := s.coreGen core, released := false, relAt := 0, start := none, rows := 0, consumed := true,
    data := none, lim := r }

section
variable {h : Handle} {n a : Nat} {rd wr : Bool}

/-- An access without displacement that its handle allows is given its address. -/
theorem formAddr_at_of_allows {off : Word} (ha : Spec.allows h (Spec.eaAt h off) n a rd wr) :
    formAddr h off 0 0 n a rd wr false false false = .ok (Spec.eaAt h off, Spec.place h (Spec.eaAt h off)) := by
  have he : Spec.eaAt h off = Spec.ea h off ⟨⟨0, false⟩, 0, 0, 0, 0⟩ 0 := by simp [Spec.eaAt, Spec.ea]
  rw [he] at ha ⊢
  have hform := formAddr_of_allows (spad := false) (atom := false) ha nofun nofun
  rwa [show dispOf ⟨⟨0, false⟩, 0, 0, 0, 0⟩ = 0 from rfl] at hform

/-- The rows of an mload that its handle allows are all given their addresses (R226). -/
theorem mloadRows_ok {t : Word} {stride : Nat} (k i : Nat)
    (ha : ∀ j < i + k, i ≤ j → Spec.allows h (Spec.eaAt h (t + BitVec.ofNat 64 (j * stride))) n 32 true false) :
    ∃ l, mloadRows h t stride n k i = .ok l := by
  induction k generalizing i with
  | zero => exact ⟨[], rfl⟩
  | succ k ih =>
    obtain ⟨l, hl⟩ := ih (i + 1) fun j hj hi => ha j (by omega) (by omega)
    rw [mloadRows, formAddr_at_of_allows (ha i (by omega) (Nat.le_refl i)), bind_of_ok, hl]
    exact ⟨_, rfl⟩

end

section
variable {s : State} {core ci : Nat} {d : Lanes} {t : Word} {b : BitVec 7} {acc : BitVec 4} {mode id : Nat}

/-- An mload whose format and rows are allowed and whose queues have room is given its entry (R226). -/
theorem mloadPlan_ok {h : Handle}
    (hfm : d.toNat / 2 ^ 104 % 16 = 1 ∨ d.toNat / 2 ^ 104 % 16 = 10 ∨ d.toNat / 2 ^ 104 % 16 = 11)
    (ha : ∀ i < 128, Spec.allows h (Spec.eaAt h (t + BitVec.ofNat 64 (i * Spec.stride d (d.toNat / 2 ^ 104 % 16))))
      (Spec.rowBytes (d.toNat / 2 ^ 104 % 16)) 32 true false)
    (hroom : Spec.roomAt s core (s.loadEntry core ci d t b mode h id).macros) :
    s.mloadPlan core ci d t b mode h id = .ok (s.loadEntry core ci d t b mode h id) := by
  obtain ⟨l, hl⟩ := mloadRows_ok (h := h) (t := t) 128 0 fun j hj _ => ha j (by omega)
  have hf : (!(d.toNat / 2 ^ 104 % 16 == 1 || d.toNat / 2 ^ 104 % 16 == 10 || d.toNat / 2 ^ 104 % 16 == 11)) = false := by
    rcases hfm with h | h | h <;> rw [h] <;> rfl
  have hm := macroRoom_ok (ci := ci) (lim := 0) (m := s.loadEntry core ci d t b mode h id) nofun hroom
  have hpw : packedWidth (d.toNat / 2 ^ 104 % 16) = Spec.rowBytes (d.toNat / 2 ^ 104 % 16) := rfl
  simp only [State.mloadPlan, mxFmt_toNat, hf, rowStride_eq_stride, tagOf_descriptor, hpw, hl, Bool.false_eq_true, if_false, bind_of_ok]
  unfold State.loadEntry at hm ⊢
  rw [hm, bind_of_ok]
  rfl

/-- A pair of formats of R221, ganged for bf16, has its row time as its limit. -/
theorem pairOf_of_mem {fa fb r : Nat} {i32 gang : Bool} (h : (fa, fb, r, i32) ∈ Spec.pairs) (hg : fa = 7 → gang = true) :
    fb ≠ 0 ∧ ∃ wa, pairOf fa fb gang = some (r, r, i32, wa) := by
  simp only [Spec.pairs, List.mem_cons, List.not_mem_nil, or_false, Prod.mk.injEq] at h
  rcases h with ⟨rfl, rfl, rfl, rfl⟩ | ⟨rfl, rfl, rfl, rfl⟩ | ⟨rfl, rfl, rfl, rfl⟩ | ⟨rfl, rfl, rfl, rfl⟩ |
    ⟨rfl, rfl, rfl, rfl⟩ | ⟨rfl, rfl, rfl, rfl⟩ | ⟨rfl, rfl, rfl, rfl⟩
  all_goals exact ⟨by decide, _, by simp [pairOf, hg]; rfl⟩

/-- The format-tag checks of a push that its slot and tile allow are passed (R221). -/
theorem pushTags_ok {fa r : Nat} {ba : Int} {isVec : Bool} {tag : BitVec 10}
    (h : Spec.pushableAt s core b acc mode fa ba isVec r tag) :
    s.pushTags core fa ba b.toNat acc.toNat (mode == 0) isVec = .ok (r, r, tag) := by
  obtain ⟨i32, hpair, h7, hint, hfloat, hacc⟩ := h
  obtain ⟨hfb, wa, hp⟩ := pairOf_of_mem (gang := (s.bslot core b.toNat).gang && decide (b.toNat < 64)) hpair fun e => by
    obtain ⟨-, hgang, hb⟩ := h7 e
    simp [hgang, hb]
  have hvec : ¬(isVec = true ∧ fa = 7) := fun ⟨hv, e⟩ => by simp [(h7 e).1] at hv
  have hbias : ¬(i32 = true ∧ (ba + Spec.tagB (s.bslot core b.toNat).tag < -32 ∨ 31 < ba + Spec.tagB (s.bslot core b.toNat).tag)) :=
    fun ⟨hi, ho⟩ => by obtain ⟨hlo, hhi, -⟩ := hint hi; omega
  have htag : (if i32 = true then tagOf 5 (ba + Spec.tagB (s.bslot core b.toNat).tag) else tagOf 9 0) = tag := by
    cases i32
    · exact (hfloat rfl).symm
    · exact (hint rfl).2.2.symm
  have hsame : (mode == 0) = true → tagFmt (s.tile core acc.toNat).tag ≠ 0 → (s.tile core acc.toNat).tag = tag := fun hm h0 =>
    (hacc (by simpa using hm)).resolve_left (by rwa [tagFmt_eq] at h0)
  simp only [State.pushTags, tagFmt_eq (s.bslot core b.toNat).tag, if_neg hfb, hp, if_neg hvec, tagBias_eq, if_neg hbias, htag]
  rw [if_neg fun ⟨hm, h0, hne⟩ => hne (by rw [hsame hm h0]), if_neg fun ⟨hm, h0, hne⟩ => hne (hsame hm h0)]
  rfl

/-- In MODE 1 a push waits until no other is in flight on its tile (R227, R228). -/
theorem after_clearWait {α : Type} (h : mode = 1 → Spec.flyingAt s core acc = []) (next : Res α) :
    (if mode = 1 then s.tileWait core ci acc.toNat none >>= fun _ => next else next) = next := by
  split
  · rw [tileWait_clear (h ‹_›), bind_of_ok]
  · rfl

/-- An mpush whose formats pair, whose rows lie in the scratchpad and whose tile and queues have room is given its entry (R220,
R221, R227). -/
theorem mpushPlan_ok {r : Nat} {tag : BitVec 10}
    (hp : Spec.pushableAt s core b acc mode (d.toNat / 2 ^ 104 % 16) (mxBias d).toInt false r tag)
    (hin : t.toNat + 127 * Spec.stride d (d.toNat / 2 ^ 104 % 16) + Spec.rowBytes (d.toNat / 2 ^ 104 % 16) ≤ 2 ^ 20)
    (ht : t.toNat % 32 = 0) (hst : Spec.stride d (d.toNat / 2 ^ 104 % 16) % 32 = 0)
    (hlim : (Spec.flyingAt s core acc).length < r) (hclear : mode = 1 → Spec.flyingAt s core acc = [])
    (hroom : Spec.roomAt s core (s.pushEntry core ci d t b acc id r tag).macros) :
    s.mpushPlan core ci d t b acc mode id = .ok (s.pushEntry core ci d t b acc id r tag) := by
  have hm := macroRoom_ok (ci := ci) (m := s.pushEntry core ci d t b acc id r tag) (fun _ => hlim) hroom
  have hpw : packedWidth (d.toNat / 2 ^ 104 % 16) = Spec.rowBytes (d.toNat / 2 ^ 104 % 16) := rfl
  have hal : ¬(t.toNat % 32 ≠ 0 ∨ Spec.stride d (d.toNat / 2 ^ 104 % 16) % 32 ≠ 0) := fun h => h.elim (· ht) (· hst)
  simp only [State.mpushPlan, mxFmt_toNat, pushTags_ok hp, rowStride_eq_stride, hpw, bind_of_ok, if_neg (Nat.not_lt.2 hin)]
  unfold State.pushEntry at hm ⊢
  rw [if_neg hal, after_clearWait hclear, hm, bind_of_ok]
  rfl

/-- An mpushv whose formats pair and whose tile and queues have room is given its entry (R221, R228). -/
theorem mpushvPlan_ok {v : Wide} {r : Nat} {tag : BitVec 10}
    (hp : Spec.pushableAt s core b acc mode v.fmt.toNat v.bias.toInt true r tag)
    (hlim : (Spec.flyingAt s core acc).length < r) (hclear : mode = 1 → Spec.flyingAt s core acc = [])
    (hroom : Spec.roomAt s core (s.rowEntry core ci d v b acc id r tag).macros) :
    s.mpushvPlan core ci d v b acc mode id = .ok (s.rowEntry core ci d v b acc id r tag) := by
  have hm := macroRoom_ok (ci := ci) (m := s.rowEntry core ci d v b acc id r tag) (fun _ => hlim) hroom
  have htags := pushTags_ok hp
  have hfmt : ¬(v.fmt = 0 ∨ v.fmt = 12) := by
    obtain ⟨i32, hpair, -⟩ := hp
    rintro (h | h)
    all_goals simp [h, Spec.pairs] at hpair
  simp only [State.mpushvPlan, if_neg hfmt, htags, bind_of_ok]
  unfold State.rowEntry at hm ⊢
  rw [after_clearWait hclear, hm, bind_of_ok]
  rfl

end

end Sys2Proof.Machine
end

section
/-! Loads and pushes of a context issue (R216 to R221, R226 to R228). -/

namespace Sys2Proof.Machine

section
variable {s : State} {f : OpT} {l : Wide} {t : Src}

/-- An mload that is given its entry waits in its queue and in the release list (R217, R226). -/
theorem opMload_enters {m : MOp} (hr : Spec.mready s (.mload f) f l) (ht : s.readT f.t = .ok t)
    (hst : (s.handle (mxHnd l.data)).st = .valid) (hh : Spec.held s (mxHnd l.data))
    (hm : s.mloadPlan s.cur.core s.cid l.data t.word f.b f.mode.toNat (s.handle (mxHnd l.data)) (s.fresh + 1) = .ok m) :
    opMload f s = .ok (Spec.enter { s with fresh := s.fresh + 1 } m (.mload (s.fresh + 1) (s.handle (mxHnd l.data)) false)) := by
  refine (mxOp_acts (op := 1) rfl hr).trans ?_
  simp only [ht, bind_of_ok, useHandle_valid hst hh, State.newTok, hm]
  rfl

/-- In MODE 1 a push empties its tile at issue, which destroys (R227, R228, R240). -/
theorem modeClear_eq (s : State) (mode : BitVec 2) (acc : BitVec 4) (tag : BitVec 10) :
    s.modeClear mode.toNat acc tag = if mode = 1 then Spec.emptied s acc tag else s := by
  simp only [State.modeClear, mode_toNat_eq_one]
  rfl

/-- An mpush that is given its entry waits in its queues and in the release list, its tile emptied in MODE 1 (R217, R227). -/
theorem opMpush_enters {m : MOp} (hr : Spec.mready s (.mpush f) f l) (ht : s.readT f.t = .ok t)
    (hm : s.mpushPlan s.cur.core s.cid l.data t.word f.b f.acc f.mode.toNat (s.fresh + 1) = .ok m) :
    opMpush f s = .ok (Spec.enter (if f.mode = 1 then Spec.emptied { s with fresh := s.fresh + 1 } f.acc m.tag
      else { s with fresh := s.fresh + 1 }) m (.push (s.fresh + 1))) := by
  refine (mxOp_acts (op := 2) rfl hr).trans ?_
  simp only [ht, bind_of_ok, State.newTok, hm, modeClear_eq]
  rfl

/-- The same of an mpushv (R217, R228). -/
theorem opMpushv_enters {m : MOp} (hr : Spec.mready s (.mpushv f) f l) (ht : s.readT f.t = .ok t)
    (hm : s.mpushvPlan s.cur.core s.cid l.data t.wide f.b f.acc f.mode.toNat (s.fresh + 1) = .ok m) :
    opMpushv f s = .ok (Spec.enter (if f.mode = 1 then Spec.emptied { s with fresh := s.fresh + 1 } f.acc m.tag
      else { s with fresh := s.fresh + 1 }) m (.push (s.fresh + 1))) := by
  refine (mxOp_acts (op := 3) rfl hr).trans ?_
  simp only [ht, bind_of_ok, State.newTok, hm, modeClear_eq]
  rfl

end

/-- R226: an mload is given its entry, and waits in its queue and in the release list. -/
theorem tileLoadIssues : Spec.TileLoadIssues := by
  intro f s l t hr ht d fm n h st m hh hfm ha hroom
  have hst : (s.handle (mxHnd d)).st = .valid := by
    rw [mxHnd_eq]
    exact (ha 0 (by decide)).1
  have hheld : Spec.held s (mxHnd d) := by rwa [mxHnd_eq]
  have hm : m = s.loadEntry s.cur.core s.cid d t.word f.b f.mode.toNat h (s.fresh + 1) := by
    rw [State.loadEntry, ← mode_toNat_beq_one, mxFmt_eq_ofNat]
    rfl
  have hplan : s.mloadPlan s.cur.core s.cid d t.word f.b f.mode.toNat h (s.fresh + 1) = .ok m := by
    rw [hm] at hroom ⊢
    exact mloadPlan_ok hfm ha hroom
  refine exec_of_opOf (v := .ofT 28 1 f) rfl ?_
  have := opMload_enters hr ht hst hheld (by rw [mxHnd_eq]; exact hplan)
  rw [mxHnd_eq] at this
  exact this

/-- R227, R228: an mpush and an mpushv are given their entries, and wait in their queues and in the release list. -/
theorem pushIssues : Spec.PushIssues := by
  intro f s l t r tag ht d fm st m v s1 cleared hlim hclear
  have hclear : f.mode.toNat = 1 → Spec.flyingAt s s.cur.core f.acc = [] := fun h => hclear (mode_toNat_eq_one.1 h)
  refine ⟨fun hr hp hin ht0 hst hroom => ?mpush, fun hr hp hroom => ?mpushv⟩
  case mpush =>
    have hm : m = s.pushEntry s.cur.core s.cid d t.word f.b f.acc (s.fresh + 1) r tag := by
      rw [State.pushEntry, mxFmt_eq_ofNat]
      rfl
    have hplan : s.mpushPlan s.cur.core s.cid d t.word f.b f.acc f.mode.toNat (s.fresh + 1) = .ok m := by
      rw [hm] at hroom ⊢
      exact mpushPlan_ok hp hin ht0 hst hlim hclear hroom
    exact exec_of_opOf (v := .ofT 28 2 f) rfl (opMpush_enters (m := m) hr ht hplan)
  case mpushv =>
    have hplan : s.mpushvPlan s.cur.core s.cid d t.wide f.b f.acc f.mode.toNat (s.fresh + 1) = .ok v :=
      mpushvPlan_ok hp hlim hclear hroom
    exact exec_of_opOf (v := .ofT 28 3 f) rfl (opMpushv_enters (m := v) hr ht hplan)

/-- Settles O23: the loads, and the pushes of 128 rows and of one. -/
theorem tileLoadsAndPushesIssue : Obligations.TileLoadsAndPushesIssue := ⟨tileLoadIssues, pushIssues⟩

end Sys2Proof.Machine
end

section
/-! Reading and clearing tiles (R215, R219, R229, R230). -/

namespace Sys2Proof.Machine

section
variable {s : State} {f : OpT} {l : Wide} {t : Src}

/-- The stop of an operation of mx that waits for pushes of its tile (R219): the queue-underflow trap, or a block. -/
theorem inSlot_tileWait {α : Type} (own : Bool) (next : Unit → Res α) :
    inSlot 5 ((if own then raise 11 0 28 else blockAt .busyTile : Res Unit) >>= next) =
      .error (if own then .trap { cause := 11, unit := 28, slot := 5 } else .block .busyTile) := by
  cases own
  · rfl
  · rfl

/-- An operation of mx that waits for pushes of its tile traps or blocks its context. -/
theorem exec_tileWait {i : Instr} {v : View} {own : Bool} (hv : i.view = some v)
    (h : opOf i s = .error (if own then .trap { cause := 11, unit := 28, slot := 5 } else .block .busyTile)) :
    exec i s = if own then .next (s.stop (.trap { cause := 11, unit := 28, slot := 5 })) else .next (s.stop (.block .busyTile)) := by
  rw [exec_of_opOf_error hv h]
  cases own
  · rfl
  · rfl

theorem opMzero_empties (hr : Spec.mready s (.mzero f) f l) (h : Spec.flying s f.acc = []) :
    opMzero f s = .ok (Spec.emptied s f.acc 0) := by
  refine (mxOp_acts (op := 4) rfl hr).trans ?_
  rw [tileWait_clear h, bind_of_ok]
  rfl

theorem opMzero_waits (hr : Spec.mready s (.mzero f) f l) (h : Spec.flying s f.acc ≠ []) :
    opMzero f s = .error (if (Spec.flying s f.acc).any fun m => m.ownPitch s.cid s.me.pitch
      then .trap { cause := 11, unit := 28, slot := 5 } else .block .busyTile) := by
  refine (mxOp_acts (op := 4) rfl hr).trans ?_
  rw [tileWait_flying h]
  exact inSlot_tileWait ..

/-- What mpop reads of a tile (R230): 32 elements of a row, under the tile's tag. -/
theorem poppedWide_eq (x : Tile) (r g : Nat) :
    ({ data := (x.row r).extractLsb' (1024 * g) 1024, fmt := BitVec.ofNat 4 (tagFmt x.tag), bias := x.tag.extractLsb' 4 6 } : Wide) =
      { data := ((Tab.get 0 x.rows r).toNat / 2 ^ (1024 * g) : Nat), fmt := x.tag.setWidth 4, bias := x.tag.extractLsb' 4 6 } := by
  have hdata : (x.row r).extractLsb' (1024 * g) 1024 = BitVec.ofNat 1024 ((Tab.get 0 x.rows r).toNat / 2 ^ (1024 * g)) := by
    refine BitVec.eq_of_toNat_eq ?_
    rw [BitVec.extractLsb'_toNat, BitVec.toNat_ofNat, Nat.shiftRight_eq_div_pow]
    rfl
  have hfmt : BitVec.ofNat 4 (tagFmt x.tag) = x.tag.setWidth 4 := by
    refine BitVec.eq_of_toNat_eq ?_
    rw [tagFmt_eq, BitVec.toNat_ofNat, BitVec.toNat_setWidth, Nat.mod_mod]
  rw [hdata, hfmt]
  rfl

/-- Whether an element of what mpop reads is poisoned (R225). -/
theorem poppedMark_eq (p : BitVec 128) (g : Nat) : (if p.extractLsb' (32 * g) 32 ≠ 0 then Mark.poison else .clean) =
    if p.toNat / 2 ^ (32 * g) % 2 ^ 32 ≠ 0 then .poison else .clean := by
  have h : p.extractLsb' (32 * g) 32 ≠ 0 ↔ p.toNat / 2 ^ (32 * g) % 2 ^ 32 ≠ 0 := by
    rw [ne_eq, ← BitVec.toNat_inj, BitVec.extractLsb'_toNat, Nat.shiftRight_eq_div_pow]
    rfl
  exact if_congr h rfl rfl

/-- The row and the segment that T of mpop names (R230). -/
theorem rowField_eq (x : Word) : field x 0 7 = x.toNat % 128 := by
  rw [field_eq_div_mod, pow_zero, Nat.div_one]
  rfl
theorem segField_eq (x : Word) : field x 7 2 = x.toNat / 128 % 4 := field_eq_div_mod x 7 2

theorem opMpop_lands (hr : Spec.mready s (.mpop f) f l) (ht : s.readT f.t = .ok t)
    (h : ∀ m ∈ Spec.flying s f.acc, m.owes (t.word.toNat % 128) = false) :
    let x := s.tile s.cur.core f.acc.toNat
    let r := t.word.toNat % 128
    let g := t.word.toNat / 128 % 4
    opMpop f s = .ok (s.land 5 28 2 [wrW (.rl 0x13)
      { data := ((Tab.get 0 x.rows r).toNat / 2 ^ (1024 * g) : Nat), fmt := x.tag.setWidth 4, bias := x.tag.extractLsb' 4 6 }
      (if (Tab.get 0 x.poison r).toNat / 2 ^ (32 * g) % 2 ^ 32 ≠ 0 then .poison else .clean)]) := by
  intro x r g
  have hwait : s.tileWait s.cur.core s.cid f.acc.toNat (some (t.word.toNat % 128)) = .ok () := tileWait_row h
  refine (mxOp_acts (op := 5) rfl hr).trans ?_
  simp only [ht, bind_of_ok, rowField_eq, segField_eq, hwait, poppedWide_eq, poppedMark_eq]
  rfl

theorem opMpop_waits (hr : Spec.mready s (.mpop f) f l) (ht : s.readT f.t = .ok t)
    (h : (Spec.flying s f.acc).filter (MOp.owes (t.word.toNat % 128)) ≠ []) :
    opMpop f s = .error (if ((Spec.flying s f.acc).filter (MOp.owes (t.word.toNat % 128))).any fun m => m.ownPitch s.cid s.me.pitch
      then .trap { cause := 11, unit := 28, slot := 5 } else .block .busyTile) := by
  refine (mxOp_acts (op := 5) rfl hr).trans ?_
  simp only [ht, bind_of_ok, rowField_eq]
  rw [tileWait_row_owed h]
  exact inSlot_tileWait ..

end

/-- R229, R230: mzero and mpop, and their waits. -/
theorem tileReadAndClear : Spec.TileReadAndClear := by
  intro f s l
  refine ⟨fun hr h => ?zero, fun hr h => ?zeroWaits, fun t hr ht => ?pop, fun t hr ht => ?popWaits⟩
  case zero => exact exec_of_opOf (v := .ofT 28 4 f) rfl (opMzero_empties hr h)
  case zeroWaits => exact exec_tileWait (i := .mzero f) rfl (opMzero_waits hr h)
  case pop =>
    intro r g x h
    exact exec_of_opOf (v := .ofT 28 5 f) rfl (opMpop_lands hr ht fun m hm => owes_eq_false (h m hm))
  case popWaits =>
    intro late h
    exact exec_tileWait (i := .mpop f) rfl (opMpop_waits hr ht h)

end Sys2Proof.Machine
end

section
/-! The epilogue (R231). -/

namespace Sys2Proof.Machine

/-- A wide value given by a function of the element number (R175). -/
theorem lanesOf_range {w n : Nat} (hw : 0 < w) (hn : w * n = 1024) (r : Nat → Nat) :
    lanesOf w ((List.range n).map r) = BitVec.ofFnLE fun i : Fin 1024 => (r (i.val / w)).testBit (i.val % w) := by
  ext j hj
  have hd : j / w < n := Nat.div_lt_of_lt_mul (hn ▸ hj)
  rw [← BitVec.getLsbD_eq_getElem, getLsbD_lanesOf hw _ hj, List.getD_eq_getElem _ _ (by simpa using hd), List.getElem_map,
    List.getElem_range, BitVec.getElem_ofFnLE]

/-- An element of a tile row (R215). -/
theorem tileElem_eq (x : BitVec 4096) (c : Nat) : tileElem x c = x.toNat / 2 ^ (32 * c) % 2 ^ 32 := field_eq_div_mod x (32 * c) 32

/-- The epilogue of a row under a descriptor. -/
theorem epilogue_eq_epiRow (tag : BitVec 10) (row : BitVec 4096) (tbl : List Byte) (d : Lanes) (mode : Nat) :
    epilogue tag row tbl (mxRelu d) (d.toNat / 2 ^ 104 % 16) (mxBias d).toInt mode = Spec.epiRow tag row tbl d mode := by
  simp only [epilogue, lanesOf_range (w := 8) (n := 128) (by decide) rfl, tileElem_eq, Nat.zero_add]
  rfl

/-- OFF of a descriptor (R216). -/
theorem mxOff_eq (d : Lanes) : mxOff d = d.setWidth 64 :=
  BitVec.eq_of_toNat_eq (by rw [mxOff, BitVec.extractLsb'_toNat, Nat.shiftRight_zero, BitVec.toNat_setWidth])

/-- A byte of the scratchpad, the own stores of a context before it (R128). -/
def State.seenByte (s : State) (core : Nat) (own : List (Nat × Byte × Bool)) (off : Nat) : Byte × Bool :=
  match lookupCell own off with
  | some b => b
  | none => s.spadByte core off

/-- The scales and biases of an epilogue (R231). -/
def State.epiTable (s : State) (core : Nat) (own : List (Nat × Byte × Bool)) (d : Lanes) : List (Byte × Bool) :=
  (List.range 1024).map fun i => s.seenByte core own (d.toNat / 2 ^ 84 % 2 ^ 20 + i)

/-- Whether what an epilogue reads is poisoned (R225). -/
def State.epiPoison (s : State) (core : Nat) (own : List (Nat × Byte × Bool)) (d : Lanes) (t : Word) (acc : BitVec 4) : Bool :=
  Tab.get 0 (s.tile core acc.toNat).poison (t.toNat % 128) != 0 || (s.epiTable core own d).any Prod.snd

/-- What an mpopx lands (R231). -/
def State.epiWide (s : State) (core : Nat) (own : List (Nat × Byte × Bool)) (d : Lanes) (t : Word) (acc : BitVec 4)
    (fmode : Nat) : Wide :=
  { data := Spec.epiRow (s.tile core acc.toNat).tag (Tab.get 0 (s.tile core acc.toNat).rows (t.toNat % 128))
      ((s.epiTable core own d).map Prod.fst) d fmode
    fmt := mxFmt d, bias := mxBias d }

/-- Where an mpopx of MODE 1 stores its row (R231). -/
def epiAddr (h : Handle) (d : Lanes) (t : Word) : Nat :=
  Spec.eaAt h (d.setWidth 64 + BitVec.ofNat 64 (t.toNat % 128 * Spec.stride d (d.toNat / 2 ^ 104 % 16)))

/-- The gated store of an mpopx of MODE 1 (R231). -/
def State.epiStore (s : State) (core : Nat) (own : List (Nat × Byte × Bool)) (d : Lanes) (t : Word) (acc : BitVec 4)
    (fmode : Nat) (h : Handle) : Gated :=
  { h := h, poison := s.epiPoison core own d t acc, slot := s.coreSlot core, gen := s.coreGen core, marked := false,
    chunks := [(epiAddr h d t, Spec.place h (epiAddr h d t), packVec (mxFmt d) (s.epiWide core own d t acc fmode).data)] }

section
variable {s : State} {core ci mode fmode : Nat} {own : List (Nat × Byte × Bool)} {d : Lanes} {t : Word} {acc : BitVec 4}
  (hfm : d.toNat / 2 ^ 104 % 16 = 1 ∨ d.toNat / 2 ^ 104 % 16 = 2 ∨ d.toNat / 2 ^ 104 % 16 = 10 ∨ d.toNat / 2 ^ 104 % 16 = 11)
  (hw : ∀ m ∈ Spec.flyingAt s core acc, m.owes (t.toNat % 128) = false) (he : d.toNat / 2 ^ 84 % 2 ^ 20 + 1024 ≤ 2 ^ 20)
  (hl : ∀ i < 8, s.lineFull core (d.toNat / 2 ^ 84 % 2 ^ 20 / 128 + i) = true)
include hfm hw he hl

/-- An mpopx that no push and no empty line keeps waiting has its row, and in MODE 1 a handle and an address to store it at. -/
theorem mpopxPlan_reads (h : Res Handle) : s.mpopxPlan core ci own d t acc mode fmode h =
    (let v := s.epiWide core own d t acc fmode
     let m : Mark := if s.epiPoison core own d t acc then .poison else .clean
     if mode ≠ 1 then pure (v, m, none)
     else h >>= fun h => formAddr h (mpopxOff d t) 0 0 (packedWidth (d.toNat / 2 ^ 104 % 16)) 32 false true false false false >>= fun a =>
       pure (v, m, some { s.epiStore core own d t acc fmode h with chunks := [(a.1, a.2, packVec (mxFmt d) v.data)] })) := by
  have hf : (!(d.toNat / 2 ^ 104 % 16 == 1 || d.toNat / 2 ^ 104 % 16 == 2 || d.toNat / 2 ^ 104 % 16 == 10 ||
      d.toNat / 2 ^ 104 % 16 == 11)) = false := by
    rcases hfm with h | h | h | h <;> rw [h] <;> rfl
  have hepi : mxEpi d = d.toNat / 2 ^ 84 % 2 ^ 20 := field_eq_div_mod d 84 20
  have hfull : (!(List.range 8).all fun i => s.lineFull core (d.toNat / 2 ^ 84 % 2 ^ 20 / 128 + i)) = false := by
    rw [Bool.not_eq_false', List.all_eq_true]
    exact fun i hi => hl i (List.mem_range.1 hi)
  simp only [State.mpopxPlan, mxFmt_toNat, hf, rowField_eq, tileWait_row hw, bind_of_ok, hepi, hfull, if_neg (Nat.not_lt.2 he),
    epilogue_eq_epiRow, Bool.false_eq_true, if_false, State.epiStore, State.epiWide, State.epiPoison, State.epiTable]
  rfl

/-- An mpopx of MODE 0. -/
theorem mpopxPlan_lands (hm : mode ≠ 1) (h : Res Handle) : s.mpopxPlan core ci own d t acc mode fmode h =
    .ok (s.epiWide core own d t acc fmode, if s.epiPoison core own d t acc then .poison else .clean, none) := by
  rw [mpopxPlan_reads hfm hw he hl]
  exact if_pos hm

/-- An mpopx of MODE 1 whose handle allows its store. -/
theorem mpopxPlan_stores (hm : mode = 1) {h : Handle}
    (ha : Spec.allows h (epiAddr h d t) (Spec.rowBytes (d.toNat / 2 ^ 104 % 16)) 32 false true) :
    s.mpopxPlan core ci own d t acc mode fmode (.ok h) =
      .ok (s.epiWide core own d t acc fmode, if s.epiPoison core own d t acc then .poison else .clean,
        some (s.epiStore core own d t acc fmode h)) := by
  have hoff : mpopxOff d t = d.setWidth 64 + BitVec.ofNat 64 (t.toNat % 128 * Spec.stride d (d.toNat / 2 ^ 104 % 16)) := by
    rw [mpopxOff, rowField_eq, mxFmt_toNat, rowStride_eq_stride, mxOff_eq]
  rw [mpopxPlan_reads hfm hw he hl, hoff]
  refine (if_neg (not_not.2 hm)).trans ?_
  rw [bind_of_ok]
  refine (congrArg (· >>= _) (formAddr_at_of_allows ha)).trans rfl

end

/-- The bytes of a stored row (R216): mpopx stores no bf16. -/
theorem packVec_length {fmt : BitVec 4} (h7 : fmt.toNat ≠ 7) (x : Lanes) : (packVec fmt x).length = Spec.rowBytes fmt.toNat := by
  by_cases h : fmt = 11
  · simp [packVec, h, packT6, bytesOf, Spec.rowBytes, Function.comp_def]
  · have h11 : fmt.toNat ≠ 11 := fun e => h (BitVec.eq_of_toNat_eq e)
    rw [packVec, if_neg h, Spec.rowBytes, if_neg h11, if_neg h7]
    simp [bytesOf]

section
variable {s : State} {f : OpT} {l : Wide} {t : Src} {v : Wide} {m : Mark}

/-- An mpopx of MODE 0 lands its row (R231). -/
theorem opMpopx_lands (hr : Spec.mready s (.mpopx f) f l) (ht : s.readT f.t = .ok t) (hround : Spec.rounding s)
    (hp : ∀ h, s.mpopxPlan s.cur.core s.cid (s.me.ownCells true) l.data t.word f.acc f.mode.toNat s.me.bank.fmode h =
      .ok (v, m, none)) :
    opMpopx f s = .ok (s.land 5 28 6 [wrW (.rl 0x13) v m]) := by
  have hround : s.intact (.sp 15) = .ok () := hround
  refine (mxOp_acts (op := 6) rfl hr).trans ?_
  simp only [ht, hround, hp, bind_of_ok]
  rfl

/-- An mpopx of MODE 1 lands its row and waits as a gated store, where no push holds its bytes locked (R220, R231). -/
theorem opMpopx_stores {g : Gated} (hr : Spec.mready s (.mpopx f) f l) (ht : s.readT f.t = .ok t) (hround : Spec.rounding s)
    (hst : (s.handle (mxHnd l.data)).st = .valid) (hh : Spec.held s (mxHnd l.data))
    (hp : s.mpopxPlan s.cur.core s.cid (s.me.ownCells true) l.data t.word f.acc f.mode.toNat s.me.bank.fmode
      (.ok (s.handle (mxHnd l.data))) = .ok (v, m, some g))
    (hlock : g.h.ps = 15 → ∀ c ∈ g.chunks, Spec.unlocked s c.2.1 c.2.2.length) :
    opMpopx f s = .ok ((s.land 5 28 6 [wrW (.rl 0x13) v m]).addRel 0 28 (.store g)) := by
  have hround : s.intact (.sp 15) = .ok () := hround
  refine (mxOp_acts (op := 6) rfl hr).trans ?_
  simp only [ht, hround, useHandle_valid hst hh, hp, bind_of_ok]
  split
  · rw [forM_ok fun c hc => lockCheck_ok true (hlock ‹_› c hc)]
    rfl
  · rfl

end

/-- R231: mpopx in MODE 0 and in MODE 1. -/
theorem epiloguePopResults : Spec.EpiloguePopResults := by
  intro f s l t hr ht hround d r fm e x tbl v bad h a hfm howed he hl u
  have hw : ∀ m ∈ Spec.flyingAt s s.cur.core f.acc, m.owes (t.word.toNat % 128) = false := fun m hm => owes_eq_false (howed m hm)
  have hv : s.epiWide s.cur.core (s.me.ownCells true) d t.word f.acc s.me.bank.fmode = v := rfl
  have hbad : s.epiPoison s.cur.core (s.me.ownCells true) d t.word f.acc = bad := rfl
  refine ⟨fun hm => ?land, fun hm hh ha hlock => ?store⟩
  case land =>
    have hm : f.mode.toNat ≠ 1 := by simp [hm]
    have hp := mpopxPlan_lands (ci := s.cid) (own := s.me.ownCells true) (fmode := s.me.bank.fmode) hfm hw he hl hm
    rw [hv, hbad] at hp
    exact exec_of_opOf (v := .ofT 28 6 f) rfl (opMpopx_lands hr ht hround hp)
  case store =>
    have hm : f.mode.toNat = 1 := mode_toNat_eq_one.2 hm
    have hst : h.st = .valid := ha.1
    have hp := mpopxPlan_stores (ci := s.cid) (own := s.me.ownCells true) (fmode := s.me.bank.fmode) hfm hw he hl hm (h := h) ha
    rw [hv, hbad] at hp
    have hhnd : s.handle (mxHnd d) = h := by rw [mxHnd_eq]
    have hlen : (packVec (mxFmt d) v.data).length = Spec.rowBytes fm := by
      rw [packVec_length (by rw [mxFmt_toNat]; omega), mxFmt_toNat]
    refine exec_of_opOf (v := .ofT 28 6 f) rfl (opMpopx_stores hr ht hround (by rwa [hhnd]) (by rwa [mxHnd_eq]) (by rwa [hhnd]) ?_)
    intro hps c hc
    obtain rfl := List.mem_singleton.1 hc
    show Spec.unlocked s (Spec.place h a) (packVec (mxFmt d) v.data).length
    rw [hlen, Spec.place, if_pos hps]
    exact hlock hps

/-- Settles O24: mzero and mpop, and mpopx. -/
theorem tileReadClearAndEpilogue : Obligations.TileReadClearAndEpilogue := ⟨tileReadAndClear, epiloguePopResults⟩

end Sys2Proof.Machine
end

section
/-! The transposer (R234, R235). -/

namespace Sys2Proof.Machine

section
variable {s : State} {i : Instr} {f : OpS} {op : Nat} {t : Src}

/-- Under a true guard, with the transposer free or its own, an operation of xp is its action. -/
theorem xpOp_acts {act : Xp → Res State} (hv : i.view = some (.ofS 6 30 op f)) (hr : Spec.xready s i f) :
    s.xpOp i f act = inSlot 6 (act s.myCore.xp) := by
  obtain ⟨hc, hon, hown⟩ := hr
  rw [State.xpOp]
  refine (guarded_acts hv rfl rfl hc hon).trans ?_
  rcases hown with h | h
  · simp only [h]
  · simp only [h, if_true]

/-- The transposer with its buffers as they are now: free where both are empty (R234). -/
theorem setXp_eq_withXp (s : State) (x : Xp) : s.setXp x = Spec.withXp s x := by
  have hx : (if x.empty then x.freed else x) = if x.fill = [] ∧ x.drain = [] then
      { x with w := if x.restart then 8 else x.w, restart := false, fillTag := none, drainTag := none, col := 0, owner := none }
      else x := by
    by_cases h : x.fill = [] ∧ x.drain = []
    · obtain ⟨hfill, hdrain⟩ := id h
      simp [Xp.empty, Xp.freed, hfill, hdrain]
    · rw [if_neg h, if_neg]
      simpa [Xp.empty] using h
  rw [State.setXp, hx]
  rfl

/-- An operation of xp traps (R235). -/
theorem exec_xp_trap {cause : Nat} (hv : i.view = some (.ofS 6 30 op f)) (h : opOf i s = inSlot 6 (raise cause 0 30)) :
    exec i s = .next (s.stop (.trap { cause := cause, unit := 30, slot := 6 })) := exec_of_opOf_error hv h

/-- xpclr (R235). -/
theorem opXpclr_empties (hr : Spec.xready s (.xpclr f) f) : opXpclr f s =
    .ok (Spec.withXp s { s.myCore.xp with fill := [], drain := [], fillTag := none, drainTag := none, col := 0 }) := by
  refine (xpOp_acts (op := 3) rfl hr).trans ?_
  rw [setXp_eq_withXp]
  rfl

/-- The width that T of xpmode names (R235). -/
theorem widthField_eq (x : Word) : field x 0 2 = x.toNat % 4 := by
  rw [field_eq_div_mod, pow_zero, Nat.div_one]
  rfl

theorem Xp.empty_iff {x : Xp} : x.empty = true ↔ x.fill = [] ∧ x.drain = [] := by simp [Xp.empty]

section
variable (hr : Spec.xready s (.xpmode f) f) (ht : s.readT f.t = .ok t) (h3 : t.word.toNat % 4 ≠ 3)
include hr ht h3

/-- xpmode on an empty transposer (R235). -/
theorem opXpmode_sets (he : s.myCore.xp.fill = [] ∧ s.myCore.xp.drain = []) :
    opXpmode f s = .ok (Spec.withXp s { s.myCore.xp with w := 8 * 2 ^ (t.word.toNat % 4) }) := by
  refine (xpOp_acts (op := 4) rfl hr).trans ?_
  simp only [ht, bind_of_ok, widthField_eq, if_neg h3, Xp.empty_iff.2 he, setXp_eq_withXp]
  rfl

/-- xpmode on an occupied transposer (R235). -/
theorem opXpmode_occupied (he : ¬(s.myCore.xp.fill = [] ∧ s.myCore.xp.drain = [])) :
    opXpmode f s = inSlot 6 (raise 10 0 30) := by
  refine (xpOp_acts (op := 4) rfl hr).trans ?_
  simp only [ht, bind_of_ok, widthField_eq, if_neg h3, Bool.eq_false_iff.2 fun h => he (Xp.empty_iff.1 h)]
  rfl

end

/-- The column that xpout pops (R235): bit i of it is bit i % w of element col of row i / w of the drain block. -/
def Xp.column (x : Xp) : Lanes :=
  BitVec.ofFnLE fun i : Fin 1024 => match x.drain[i.val / x.w]? with
    | some r => (elem x.w r.1 x.col).testBit (i.val % x.w)
    | none => false

theorem lanesOf_column (x : Xp) : lanesOf x.w (x.drain.map fun r => elem x.w r.1 x.col) = x.column := by
  unfold Xp.column
  ext j hj
  rw [BitVec.getElem_ofFnLE, ← BitVec.getLsbD_eq_getElem, lanesOf, BitVec.getLsbD_ofNat, decide_eq_true hj, Bool.true_and]
  by_cases hw : x.w = 0
  · have hzero (l : List Nat) : ofElems 0 l = 0 := by
      induction l with
      | nil => rfl
      | cons e r ih => rw [ofElems, ih, pow_zero, Nat.mod_one]; rfl
    have he (y : Lanes) : elem 0 y x.col = 0 := Nat.lt_one_iff.1 (BitVec.isLt _)
    rw [hw, hzero, Nat.zero_testBit]
    split <;> simp [he]
  · rw [testBit_ofElems (Nat.pos_of_ne_zero hw), List.getD_eq_getElem?_getD, List.getElem?_map]
    cases x.drain[j / x.w]? with
    | none => exact Nat.zero_testBit _
    | some r => rfl

/-- A wide result into W, where W is named (R69). -/
theorem writeBack_eq (w : BitVec 6) (v : Wide) : ((wbV w).toList.map fun r => wrW r v) =
    if w = 0 then [] else [wrW (.v w.toNat) v] := by
  unfold wbV
  split
  · rfl
  · rfl

/-- The format code of a tag field (R184). -/
theorem tagFormat_eq (t : BitVec 10) : t.extractLsb' 0 4 = t.setWidth 4 :=
  BitVec.eq_of_toNat_eq (by rw [BitVec.extractLsb'_toNat, Nat.shiftRight_zero, BitVec.toNat_setWidth])

/-- What the drain buffer and the fill buffer are after a column is popped (R234, R235). -/
def Xp.popped (x : Xp) (cycle : Nat) : Xp :=
  if x.col + 1 < 1024 / x.w then { x with col := x.col + 1 }
  else if x.fill.length = 1024 / x.w then
    { x with drain := x.fill, drainTag := x.fillTag, fill := [], fillTag := none, col := 0, avail := cycle + 1 }
  else { x with drain := [], drainTag := none, col := 0 }

/-- xpout on a drain block that can be popped (R235). -/
theorem opXpout_pops (hr : Spec.xready s (.xpout f) f) (hd : s.myCore.xp.drain ≠ []) (ha : s.myCore.xp.avail ≤ s.cycle) :
    let x := s.myCore.xp
    let v : Wide := { data := x.column, fmt := (x.drainTag.getD 0).setWidth 4,
                      bias := (x.drainTag.getD 0).extractLsb' 4 6 }
    opXpout f s = .ok ((Spec.withXp s (x.popped s.cycle)).land 6 30 2
      (wrW (.rl 0x12) v :: if f.w = 0 then [] else [wrW (.v f.w.toNat) v])) := by
  intro x v
  have hgo : ¬(x.drain.isEmpty = true ∨ s.cycle < x.avail) := by simp [x, hd, ha]
  refine (xpOp_acts (op := 2) rfl hr).trans ?_
  rw [if_neg hgo]
  simp only [writeBack_eq, tagFormat_eq, setXp_eq_withXp, lanesOf_column]
  rfl

/-- xpout without such a block (R235). -/
theorem opXpout_empty (hr : Spec.xready s (.xpout f) f) (h : s.myCore.xp.drain = [] ∨ s.cycle < s.myCore.xp.avail) :
    opXpout f s = inSlot 6 (raise 11 0 30) := by
  refine (xpOp_acts (op := 2) rfl hr).trans ?_
  rw [if_pos (by simpa using h)]

/-- A tag field (R184). -/
theorem tagField_eq (v : Wide) : BitVec.ofNat 10 (v.bias.toNat * 16 + v.fmt.toNat) = v.bias ++ v.fmt := by
  refine BitVec.eq_of_toNat_eq ?_
  have := v.bias.isLt
  rw [BitVec.toNat_append, ← Nat.shiftLeft_add_eq_or_of_lt v.fmt.isLt, Nat.shiftLeft_eq, BitVec.toNat_ofNat]
  exact Nat.mod_eq_of_lt (by omega)

/-- What the buffers are after a row of the tag g is appended (R234, R235). -/
def Xp.filled (x : Xp) (v : Wide) (cid cycle : Nat) : Xp :=
  let rows := x.fill ++ [(v.data, Mark.clean)]
  let g : Option (BitVec 10) := if x.fillTag = none ∧ v.fmt ≠ 0 then some (v.bias ++ v.fmt) else x.fillTag
  if rows.length = 1024 / x.w ∧ x.drain = [] then
    { x with fill := [], fillTag := none, drain := rows, drainTag := g, col := 0, avail := cycle + 1, owner := some cid }
  else { x with fill := rows, fillTag := g, owner := some cid }

section
variable (hr : Spec.xready s (.xpin f) f) (ht : s.readT f.t = .ok t) (h12 : t.wide.fmt ≠ 12)
include hr ht h12

/-- xpin on a fill buffer with room, of a row that is raw or has the block's tag (R234, R235). -/
theorem opXpin_fills (hroom : s.myCore.xp.fill.length < 1024 / s.myCore.xp.w)
    (htag : t.wide.fmt = 0 ∨ s.myCore.xp.fillTag = none ∨ s.myCore.xp.fillTag = some (t.wide.bias ++ t.wide.fmt)) :
    opXpin f s = .ok (Spec.withXp s (s.myCore.xp.filled t.wide s.cid s.cycle)) := by
  refine (xpOp_acts (op := 1) rfl hr).trans ?_
  have hg : (s.myCore.xp.fillTag.orElse fun _ => if t.wide.fmt = 0 then none else some (t.wide.bias ++ t.wide.fmt)) =
      if s.myCore.xp.fillTag = none ∧ t.wide.fmt ≠ 0 then some (t.wide.bias ++ t.wide.fmt) else s.myCore.xp.fillTag := by
    cases s.myCore.xp.fillTag with
    | none => by_cases h0 : t.wide.fmt = 0 <;> simp [h0]
    | some g => rfl
  simp only [ht, bind_of_ok, tagField_eq, if_neg h12, Xp.rows, if_neg (Nat.not_le.2 hroom), hg, List.isEmpty_iff, setXp_eq_withXp]
  split
  case h_1 g hx =>
    have hsame : ¬(t.wide.fmt ≠ 0 ∧ g ≠ t.wide.bias ++ t.wide.fmt) := fun ⟨h0, hne⟩ => by
      rcases htag with h | h | h
      · exact h0 h
      · exact nomatch hx.symm.trans h
      · exact hne (Option.some.inj (hx.symm.trans h))
    rw [if_neg hsame]
    rfl
  case h_2 => rfl

/-- xpin on a full fill buffer (R235). -/
theorem opXpin_full (hfull : 1024 / s.myCore.xp.w ≤ s.myCore.xp.fill.length) : opXpin f s = inSlot 6 (raise 10 0 30) := by
  refine (xpOp_acts (op := 1) rfl hr).trans ?_
  simp only [ht, bind_of_ok, if_neg h12]
  exact congrArg (inSlot 6) ((if_pos hfull).trans rfl)

end

end

/-- Settles O27: each operation of the transposer by what it makes of the two buffers. -/
theorem transposerOperations : Obligations.TransposerOperations := by
  unfold Obligations.TransposerOperations
  intro f s x n
  refine ⟨fun t hr ht h12 => ⟨fun hroom htag => ?fills, fun hfull => ?full⟩, fun hr => ⟨fun hd ha => ?pops, fun he => ?empty⟩,
    fun hr => ?clears, fun t hr ht h3 => ⟨fun he => ?sets, fun he => ?occupied⟩⟩
  case fills => exact exec_of_opOf (v := .ofS 6 30 1 f) rfl (opXpin_fills hr ht h12 hroom htag)
  case full => exact exec_xp_trap (i := .xpin f) (op := 1) rfl (opXpin_full hr ht h12 hfull)
  case pops => exact exec_of_opOf (v := .ofS 6 30 2 f) rfl (opXpout_pops hr hd ha)
  case empty => exact exec_xp_trap (i := .xpout f) (op := 2) rfl (opXpout_empty hr he)
  case clears => exact exec_of_opOf (v := .ofS 6 30 3 f) rfl (opXpclr_empties hr)
  case sets => exact exec_of_opOf (v := .ofS 6 30 4 f) rfl (opXpmode_sets hr ht h3 he)
  case occupied => exact exec_xp_trap (i := .xpmode f) (op := 4) rfl (opXpmode_occupied hr ht h3 he)

end Sys2Proof.Machine
end

section
/-! The operations of the tile sequencer (R239). -/

namespace Sys2Proof.Machine

section
variable {s : State} {i : Instr} {f : OpT} {op : Nat} {t : Src} {l : Wide}

/-- Under a true guard, where no other context's table runs, an operation of ts is its action. -/
theorem tsOp_acts {act : Ts → Res State} (hv : i.view = some (.ofT 29 op f)) (hr : Spec.tready s i f) :
    s.tsOp i f act = inSlot 5 (act (s.seqr s.cur.core)) := by
  obtain ⟨hc, hon, hx⟩ := hr
  have hfree : ((s.seqr s.cur.core).run && (s.seqr s.cur.core).owner != s.cid) = false := by
    rcases hx with hx | hx
    all_goals simp [hx]
  rw [State.tsOp]
  refine (guarded_acts hv rfl rfl hc hon).trans ?_
  simp only [hfree, Bool.false_eq_true, if_false]

theorem opTsload_waits (hr : Spec.tready s (.tsload f) f) (ht : s.readT f.t = .ok t) (h : (s.seqr s.cur.core).run = false) :
    opTsload f s = .ok (s.addRel 0 29 (.tsload t.word)) := by
  refine (tsOp_acts (op := 1) rfl hr).trans ?_
  simp only [ht, bind_of_ok, h, Bool.false_eq_true, if_false]
  rfl

theorem opTsload_running (hr : Spec.tready s (.tsload f) f) (ht : s.readT f.t = .ok t) (h : (s.seqr s.cur.core).run = true) :
    opTsload f s = inSlot 5 (raise 4 0 29) := by
  refine (tsOp_acts (op := 1) rfl hr).trans ?_
  simp only [ht, bind_of_ok, h, if_true]

theorem opTsrun_waits (hr : Spec.tready s (.tsrun f) f) (ht : s.readT f.t = .ok t) (hl : s.readLatch 28 = .ok l)
    (hh : Spec.held s (l.data.toNat / 2 ^ 114 % 16)) (hm : Spec.rounding s)
    (hst : (s.handle (l.data.toNat / 2 ^ 114 % 16)).st = .valid ∨ (s.handle (l.data.toNat / 2 ^ 114 % 16)).st = .null) :
    opTsrun f s = .ok (s.addRel 0 29 (.tsrun (t.word.setWidth 8) l.data (s.handle (l.data.toNat / 2 ^ 114 % 16))
      (BitVec.ofNat 2 s.me.bank.fmode))) := by
  have hm : s.intact (.sp 15) = .ok () := hm
  refine (tsOp_acts (op := 2) rfl hr).trans ?_
  simp only [ht, hl, mxHnd_eq, useHandle_valid_or_null hst hh, hm, bind_of_ok]
  rfl

theorem opTsstop_asks (hr : Spec.tready s (.tsstop f) f) : opTsstop f s =
    .ok (if (s.seqr s.cur.core).run then s.setSeqr s.cur.core { s.seqr s.cur.core with stop := true } else s) :=
  tsOp_acts (op := 3) rfl hr

/-- Two fields side by side, as a number. -/
theorem toNat_append_eq {m n : Nat} (x : BitVec m) (y : BitVec n) : (x ++ y).toNat = x.toNat * 2 ^ n + y.toNat := by
  rw [BitVec.toNat_append, ← Nat.shiftLeft_add_eq_or_of_lt y.isLt, Nat.shiftLeft_eq]

/-- The report of tsstat by its fields (R239). -/
theorem Ts.word_eq (x : Ts) : x.word = (BitVec.ofBool x.run ++ BitVec.ofBool x.stop ++ BitVec.ofBool x.loaded ++ x.err ++ x.state ++
    (0 : BitVec 16) ++ x.steps : BitVec 64) := by
  have herr := x.err.isLt
  have hstate := x.state.isLt
  have hsteps := x.steps.isLt
  have hrun := x.run.toNat_le
  have hstop := x.stop.toNat_le
  have hloaded := x.loaded.toNat_le
  have hflag (b : Bool) (n : Nat) : (if b = true then n else 0) = b.toNat * n := by cases b <;> simp
  refine BitVec.eq_of_toNat_eq ?_
  have hzero : (0 : BitVec 16).toNat = 0 := rfl
  simp only [Ts.word, hflag, BitVec.toNat_ofNat, toNat_append_eq, BitVec.toNat_ofBool, hzero]
  omega

theorem opTsstat_lands (hr : Spec.tready s (.tsstat f) f) : opTsstat f s = .ok (s.land 5 29 1 [wr64 (.rl 0x15)
    (BitVec.ofBool (s.seqr s.cur.core).run ++ BitVec.ofBool (s.seqr s.cur.core).stop ++ BitVec.ofBool (s.seqr s.cur.core).loaded ++
      (s.seqr s.cur.core).err ++ (s.seqr s.cur.core).state ++ (0 : BitVec 16) ++ (s.seqr s.cur.core).steps : BitVec 64)]) := by
  rw [← Ts.word_eq]
  exact tsOp_acts (op := 4) rfl hr

end

section
variable {s : State} {core : Nat} {e : BitVec 8} {mxo : Lanes} {h : Handle} {fm : BitVec 2} {slot : BitVec 4} {gen : BitVec 12}
  (hr : (s.seqr core).run = false) (hl : (s.seqr core).loaded = true)
include hr hl

/-- A released tsrun of a loaded, stopped sequencer (R239). -/
theorem tsRunDo_eq : s.tsRunDo core e mxo h fm slot gen = if e.toNat < 3 ∨ (s.seqr core).nent ≤ e.toNat
    then s.setSeqr core { s.seqr core with err := 6 }
    else s.setSeqr core { s.seqr core with
      mxo := mxo, h := h, fm := fm, run := true, stop := false, err := 0, state := e, steps := 0, slot := slot, gen := gen } := by
  simp only [State.tsRunDo, hr, hl, Bool.false_eq_true, Bool.not_true, or_self, if_false]

end

/-- R239: the four operations, and a released tsrun. -/
theorem sequencerOperations : Spec.SequencerOperations := by
  constructor
  · intro f s x
    refine ⟨fun t hr ht => ⟨fun h => ?waits, fun h => ?running⟩, fun t l hr ht hl => ?run, fun hr => ?stop, fun hr => ?stat⟩
    case waits => exact exec_of_opOf (v := .ofT 29 1 f) rfl (opTsload_waits hr ht h)
    case running => exact exec_of_opOf_error (v := .ofT 29 1 f) rfl (x := .trap { cause := 4, unit := 29, slot := 5 }) (opTsload_running hr ht h)
    case run =>
      intro h hh hm hst
      exact exec_of_opOf (v := .ofT 29 2 f) rfl (opTsrun_waits hr ht hl hh hm hst)
    case stop => exact exec_of_opOf (v := .ofT 29 3 f) rfl (opTsstop_asks hr)
    case stat => exact exec_of_opOf (v := .ofT 29 4 f) rfl (opTsstat_lands hr)
  · intro s core e mxo h fm slot gen x hr hl
    exact ⟨fun h3 hn => (tsRunDo_eq hr hl).trans (if_neg (not_or.2 ⟨h3.not_gt, hn.not_ge⟩)), fun hout => (tsRunDo_eq hr hl).trans (if_pos hout)⟩

end Sys2Proof.Machine
end

section
/-! The validity of a sequencer's table (R236, R237). -/

namespace Sys2Proof.Machine

/-! The fields of a state (R236). -/

section
variable (x y : BitVec 128)

theorem tsOpc_eq : tsOpc x = x.toNat / 2 ^ 124 := by
  have := x.isLt
  rw [tsOpc, field_eq_div_mod, Nat.mod_eq_of_lt (by omega)]
theorem tsTgt_eq : tsTgt x = x.toNat / 2 ^ 56 % 256 := field_eq_div_mod x 56 8
theorem tsLn_eq : tsLn x = (x.getLsbD 96).toNat := by
  rw [tsLn, field_eq_div_mod]
  exact (Nat.toNat_testBit ..).symm
theorem tsLn_eq_iff : tsLn x = tsLn y ↔ x.getLsbD 96 = y.getLsbD 96 := by
  rw [tsLn_eq, tsLn_eq]
  cases x.getLsbD 96 <;> cases y.getLsbD 96 <;> decide
theorem tsNent_eq : tsNent x = Spec.entries x := by
  have := x.isLt
  have h : field x 120 8 = x.toNat / 2 ^ 120 := by rw [field_eq_div_mod, Nat.mod_eq_of_lt (by omega)]
  rw [tsNent, h]
  rfl

/-- The reserved bits 118:112 of a table's head are zero. -/
theorem headBits_eq_zero : (x.getLsbD 112 = false ∧ x.getLsbD 113 = false ∧ x.getLsbD 114 = false ∧ x.getLsbD 115 = false ∧
    x.getLsbD 116 = false ∧ x.getLsbD 117 = false ∧ x.getLsbD 118 = false) ↔ x.toNat / 2 ^ 112 % 2 ^ 7 = 0 := by
  have h0 : x.toNat / 2 ^ 112 % 2 ^ 7 = 0 ↔ x.extractLsb' 112 7 = 0#7 := by
    rw [← BitVec.toNat_inj, BitVec.extractLsb'_toNat, Nat.shiftRight_eq_div_pow]
    rfl
  have hbit (k : Nat) (hk : k < 7) : (x.extractLsb' 112 7).getLsbD k = x.getLsbD (112 + k) := by
    rw [BitVec.getLsbD_extractLsb', decide_eq_true hk, Bool.true_and]
  rw [h0]
  constructor
  · rintro ⟨h0, h1, h2, h3, h4, h5, h6⟩
    refine BitVec.eq_of_getLsbD_eq fun k hk => ?_
    rw [hbit k hk, BitVec.getLsbD_zero]
    match k, hk with
    | 0, _ => exact h0
    | 1, _ => exact h1
    | 2, _ => exact h2
    | 3, _ => exact h3
    | 4, _ => exact h4
    | 5, _ => exact h5
    | 6, _ => exact h6
  · intro h
    have hk (k : Nat) (hk : k < 7) : x.getLsbD (112 + k) = false := by rw [← hbit k hk, h, BitVec.getLsbD_zero]
    exact ⟨hk 0 (by decide), hk 1 (by decide), hk 2 (by decide), hk 3 (by decide), hk 4 (by decide), hk 5 (by decide),
      hk 6 (by decide)⟩

end

/-- A state of a table is well formed by itself (R237). -/
theorem tsStateOk_iff (i : Nat) (x : BitVec 128) : tsStateOk i x = true ↔
    x.toNat / 2 ^ 97 % 2 ^ 10 = 0 ∧ x.toNat % 2 ^ 56 = 0 ∧ x.toNat / 2 ^ 124 ≤ 7 ∧
    (x.toNat / 2 ^ 124 = 5 → 3 ≤ x.toNat / 2 ^ 56 % 256 ∧ x.toNat / 2 ^ 56 % 256 ≤ i) ∧
    (x.toNat / 2 ^ 124 = 5 ∨ x.toNat / 2 ^ 124 = 0 → x.getLsbD 123 = true) := by
  simp only [tsStateOk, tsOpc_eq, tsTgt_eq, field_eq_div_mod, tsCairn, pow_zero, Nat.div_one, Bool.and_eq_true, Bool.or_eq_true,
    decide_eq_true_eq, bne_iff_ne, imp_iff_not_or, not_or, ne_eq, and_assoc]

/-! The scan of a table (R237). -/

section
variable (e : Nat → BitVec 128)

/-- States without CAIRN just before entry i, from entry 3 on. -/
def tsQuiet : Nat → Nat
  | 0 => 0
  | i + 1 => if 3 ≤ i ∧ tsCairn (e i) = false then tsQuiet i + 1 else 0

/-- The loop states before entry i, from entry 3 on, each with its counter. -/
def tsLoops (i : Nat) : List (Nat × Nat) :=
  ((List.range i).filter fun j => decide (3 ≤ j ∧ tsOpc (e j) = 5)).map fun j => (tsLn (e j), j)

/-- Entry i is the first of an overlap of two loops of one counter. -/
def tsOverlaps (i : Nat) : Prop :=
  tsOpc (e i) = 5 ∧ ∃ j, 3 ≤ j ∧ j < i ∧ tsOpc (e j) = 5 ∧ tsLn (e j) = tsLn (e i) ∧ tsTgt (e i) ≤ j

/-- Entry i of a table of n entries is found to fail (R237). -/
def tsFails (n i : Nat) : Prop :=
  tsStateOk i (e i) = false ∨ tsOverlaps e i ∨ 32 < tsQuiet e (i + 1) ∨ (i + 1 = n ∧ tsOpc (e i) ≠ 0)

variable {e}

/-- A run of states without CAIRN. -/
theorem le_tsQuiet_iff {m i : Nat} (hi : 3 ≤ i) :
    m ≤ tsQuiet e i ↔ 3 + m ≤ i ∧ ∀ j, i ≤ j + m → j < i → tsCairn (e j) = false := by
  induction m generalizing i with
  | zero => exact ⟨fun _ => ⟨hi, fun j h1 h2 => by omega⟩, fun _ => Nat.zero_le _⟩
  | succ m ih =>
    obtain ⟨i, rfl⟩ : ∃ k, i = k + 1 := ⟨i - 1, by omega⟩
    rw [tsQuiet]
    by_cases h : 3 ≤ i ∧ tsCairn (e i) = false
    · rw [if_pos h, Nat.add_le_add_iff_right, ih h.1]
      refine and_congr (by omega) ⟨fun hq j h1 h2 => ?_, fun hq j h1 h2 => hq j (by omega) (by omega)⟩
      by_cases hj : j = i
      · exact hj ▸ h.2
      · exact hq j (by omega) (by omega)
    · rw [if_neg h]
      exact ⟨fun h0 => absurd h0 (by omega), fun ⟨h3, hq⟩ => absurd ⟨by omega, hq i (by omega) (by omega)⟩ h⟩

theorem tsLoops_succ {i : Nat} (hi : 3 ≤ i) :
    tsLoops e (i + 1) = if tsOpc (e i) = 5 then tsLoops e i ++ [(tsLn (e i), i)] else tsLoops e i := by
  rw [tsLoops, List.range_succ, List.filter_append, List.map_append]
  by_cases h : tsOpc (e i) = 5
  · rw [if_pos h, List.filter_singleton, decide_eq_true ⟨hi, h⟩]
    rfl
  · rw [if_neg h, List.filter_singleton, decide_eq_false fun hh => h hh.2]
    exact List.append_nil _

theorem tsQuiet_succ {i : Nat} (hi : 3 ≤ i) : tsQuiet e (i + 1) = if tsCairn (e i) then 0 else tsQuiet e i + 1 := by
  rw [tsQuiet]
  cases h : tsCairn (e i)
  · simp [hi]
  · simp

theorem overlaps_iff {i : Nat} : (tsOpc (e i) = 5 ∧ ((tsLoops e i).any fun l => l.1 == tsLn (e i) && decide (tsTgt (e i) ≤ l.2)) = true) ↔
    tsOverlaps e i := by
  simp only [tsOverlaps, tsLoops, List.any_eq_true, List.mem_map, List.mem_filter, List.mem_range, decide_eq_true_eq,
    Bool.and_eq_true, beq_iff_eq]
  refine and_congr_right fun _ => ⟨?_, ?_⟩
  · rintro ⟨-, ⟨j, ⟨hj, h3, h5⟩, rfl⟩, hln, ht⟩
    exact ⟨j, h3, hj, h5, hln, ht⟩
  · rintro ⟨j, h3, hj, h5, hln, ht⟩
    exact ⟨_, ⟨j, ⟨hj, h3, h5⟩, rfl⟩, hln, ht⟩

/-- A scan stops at an entry that fails. -/
theorem tsCheck_of_fails {n i k : Nat} (hi : 3 ≤ i) (h : tsFails e n i) :
    tsCheck n i ((List.range' i (k + 1)).map e) (tsLoops e i) (tsQuiet e i) = some i := by
  rw [List.range'_succ, List.map_cons, tsCheck]
  simp only [← tsQuiet_succ hi]
  split
  · rfl
  split
  · rfl
  split
  · rfl
  split
  · rfl
  next hok hov hq hend =>
    obtain hf | hf | hf | hf := h
    · exact absurd (Bool.not_eq_true' _ ▸ hf) hok
    · exact absurd (overlaps_iff.2 hf) hov
    · exact absurd hf hq
    · exact absurd hf hend

/-- A scan goes on after an entry that does not fail. -/
theorem tsCheck_of_not_fails {n i k : Nat} (hi : 3 ≤ i) (h : ¬ tsFails e n i) :
    tsCheck n i ((List.range' i (k + 1)).map e) (tsLoops e i) (tsQuiet e i) =
      tsCheck n (i + 1) ((List.range' (i + 1) k).map e) (tsLoops e (i + 1)) (tsQuiet e (i + 1)) := by
  simp only [tsFails, not_or] at h
  obtain ⟨hok, hov, hq, hend⟩ := h
  rw [List.range'_succ, List.map_cons, tsCheck]
  simp only [← tsQuiet_succ hi, ← tsLoops_succ hi]
  rw [if_neg (by simpa using hok), if_neg (overlaps_iff.not.2 hov), if_neg hq, if_neg hend]

/-- The scan of the entries from i on finds the first that fails. -/
theorem tsCheck_cases {n : Nat} (k i : Nat) (hi : 3 ≤ i) :
    (tsCheck n i ((List.range' i k).map e) (tsLoops e i) (tsQuiet e i) = none ∧ ∀ j, i ≤ j → j < i + k → ¬ tsFails e n j) ∨
    ∃ j, i ≤ j ∧ j < i + k ∧ tsFails e n j ∧ tsCheck n i ((List.range' i k).map e) (tsLoops e i) (tsQuiet e i) = some j := by
  induction k generalizing i with
  | zero => exact .inl ⟨rfl, fun j h1 h2 => by omega⟩
  | succ k ih =>
    by_cases hf : tsFails e n i
    · exact .inr ⟨i, Nat.le_refl i, by omega, hf, tsCheck_of_fails hi hf⟩
    · rw [tsCheck_of_not_fails hi hf]
      obtain ⟨hnone, hall⟩ | ⟨j, h1, h2, hj, hsome⟩ := ih (i + 1) (by omega)
      · refine .inl ⟨hnone, fun j h1 h2 => ?_⟩
        by_cases hj : j = i
        · exact hj ▸ hf
        · exact hall j (by omega) (by omega)
      · exact .inr ⟨j, by omega, by omega, hj, hsome⟩

/-- A table of at least four entries with a zero head is valid where none of its entries fails (R237). -/
theorem validTable_iff {n : Nat} : Spec.validTable n e ↔
    4 ≤ n ∧ (e 0).toNat / 2 ^ 112 % 2 ^ 7 = 0 ∧ (e 0).toNat % 2 ^ 104 = 0 ∧ ∀ i, 3 ≤ i → i < n → ¬ tsFails e n i := by
  unfold Spec.validTable
  simp only [tsFails, not_or]
  refine and_congr_right fun h4 => and_congr_right fun _ => and_congr_right fun _ => ?_
  constructor
  · rintro ⟨hok, hov, hrun, hend⟩ i h3 hn
    refine ⟨?_, ?_, ?_, ?_⟩
    · rw [Bool.not_eq_false, tsStateOk_iff]
      exact hok i h3 hn
    · rintro ⟨h5, j, hj3, hj, hj5, hln, ht⟩
      rw [tsOpc_eq] at h5 hj5
      rw [tsTgt_eq] at ht
      exact absurd (hov j i hj3 hj hn hj5 h5 ((tsLn_eq_iff ..).1 hln)) (by omega)
    · intro hq
      obtain ⟨h1, h2⟩ := (le_tsQuiet_iff (by omega)).1 hq
      obtain ⟨j, hj1, hj2, hj⟩ := hrun (i - 32) (by omega) (by omega)
      exact Bool.false_ne_true ((h2 j (by omega) (by omega)).symm.trans hj)
    · rintro ⟨rfl, h0⟩
      rw [tsOpc_eq] at h0
      exact h0 hend
  · intro h
    refine ⟨fun i h3 hn => ?_, fun i j h3 hij hn hi5 hj5 hln => ?_, fun i h3 hn => ?_, ?_⟩
    · obtain ⟨hok, -⟩ := h i h3 hn
      rwa [Bool.not_eq_false, tsStateOk_iff] at hok
    · obtain ⟨-, hov, -⟩ := h j (by omega) hn
      by_contra ht
      refine hov ⟨by rwa [tsOpc_eq], i, h3, hij, by rwa [tsOpc_eq], (tsLn_eq_iff ..).2 hln, ?_⟩
      rw [tsTgt_eq]
      omega
    · obtain ⟨-, -, hq, -⟩ := h (i + 32) (by omega) (by omega)
      by_contra hc
      refine hq ((le_tsQuiet_iff (m := 33) (by omega)).2 ⟨by omega, fun j h1 h2 => ?_⟩)
      by_contra hj
      exact hc ⟨j, by omega, by omega, by simpa [tsCairn] using hj⟩
    · obtain ⟨-, -, -, hend⟩ := h (n - 1) (by omega) (by omega)
      by_contra h0
      exact hend ⟨by omega, by rwa [tsOpc_eq]⟩

/-- The check of a table of n entries: none where it is valid, else one of its entries (R237). -/
theorem tsInvalid_cases {n : Nat} (hn : n = tsNent (e 0)) :
    (tsInvalid ((List.range n).map e) = none ∧ Spec.validTable n e) ∨
    ∃ i < n, tsInvalid ((List.range n).map e) = some i ∧ ¬ Spec.validTable n e := by
  have hpos : 0 < n := by
    rw [hn, tsNent]
    split
    · decide
    · omega
  have h0 : ((List.range n).map e).getD 0 0 = e 0 := by
    rw [List.getD_eq_getElem _ _ (by simpa using hpos), List.getElem_map, List.getElem_range]
  have hl : (((List.range n).map e).take n).drop 3 = (List.range' 3 (n - 3)).map e := by
    rw [List.take_of_length_le (by simp), ← List.map_drop, List.range_eq_range', List.drop_range']
  have hhead : (n < 4 ∨ (e 0).getLsbD 112 = true ∨ (e 0).getLsbD 113 = true ∨ (e 0).getLsbD 114 = true ∨
      (e 0).getLsbD 115 = true ∨ (e 0).getLsbD 116 = true ∨ (e 0).getLsbD 117 = true ∨ (e 0).getLsbD 118 = true ∨
      field (e 0) 0 104 ≠ 0) ↔ ¬(4 ≤ n ∧ (e 0).toNat / 2 ^ 112 % 2 ^ 7 = 0 ∧ (e 0).toNat % 2 ^ 104 = 0) := by
    rw [← headBits_eq_zero, field_eq_div_mod, pow_zero, Nat.div_one]
    simp only [not_and_or, not_le, Bool.not_eq_false, or_assoc, ne_eq]
  rw [validTable_iff]
  unfold tsInvalid
  simp only [h0, ← hn, hl, hhead]
  by_cases hv : 4 ≤ n ∧ (e 0).toNat / 2 ^ 112 % 2 ^ 7 = 0 ∧ (e 0).toNat % 2 ^ 104 = 0
  · rw [if_neg (not_not.2 hv)]
    obtain ⟨h4, h112, h104⟩ := hv
    obtain ⟨hnone, hall⟩ | ⟨j, h3, hj, hf, hsome⟩ := tsCheck_cases (e := e) (n := n) (n - 3) 3 (Nat.le_refl 3)
    · exact .inl ⟨hnone, h4, h112, h104, fun i h3 hi => hall i h3 (by omega)⟩
    · exact .inr ⟨j, by omega, hsome, fun ⟨_, _, _, hall⟩ => hall j h3 (by omega) hf⟩
  · rw [if_pos hv]
    exact .inr ⟨0, hpos, rfl, fun ⟨h4, h112, h104, _⟩ => hv ⟨h4, h112, h104⟩⟩

end

end Sys2Proof.Machine
end

section
/-! A table's load (R239). -/

namespace Sys2Proof.Machine

/-- A table filled from a list: entry i is the list's element i. -/
theorem get_foldl_zipIdx {α β : Type} {d : α} {op : Tab α → Nat → α → Tab α} (f : β → α)
    (hop : ∀ t k v j, Tab.get d (op t k v) j = if j = k then v else Tab.get d t j) (l : List β) (m : Nat) (t : Tab α) (i : Nat) :
    Tab.get d (((l.zipIdx m).map fun e => (e.2, f e.1)).foldl (fun t e => op t e.1 e.2) t) i =
      if m ≤ i then (l.map f).getD (i - m) (Tab.get d t i) else Tab.get d t i := by
  induction l generalizing m t with
  | nil => simp
  | cons a l ih =>
    rw [List.zipIdx_cons, List.map_cons, List.foldl_cons, ih, List.map_cons]
    obtain h | rfl | h := Nat.lt_trichotomy i m
    · rw [if_neg (by omega), if_neg (by omega), hop, if_neg (by omega)]
    · rw [if_neg (by omega), if_pos (Nat.le_refl i), hop, if_pos rfl, Nat.sub_self, List.getD_cons_zero]
    · rw [if_pos (by omega), if_pos (by omega), hop, if_neg (by omega), show i - m = (i - (m + 1)) + 1 by omega, List.getD_cons_succ]

/-- A table filled entry by entry. -/
theorem get_foldl_put {α : Type} [DecidableEq α] {d : α} (g : Nat → α) (l : List Nat) (t : Tab α) (i : Nat) :
    Tab.get d (l.foldl (fun t k => Tab.put d t k (g k)) t) i = if i ∈ l then g i else Tab.get d t i := by
  induction l generalizing t with
  | nil => rfl
  | cons k l ih =>
    rw [List.foldl_cons, ih, Tab.get_put]
    by_cases hl : i ∈ l
    · rw [if_pos hl, if_pos (List.mem_cons_of_mem _ hl)]
    · rw [if_neg hl]
      refine (if_congr ?_ rfl rfl).trans (ite_congr rfl (fun h => ?_) fun _ => rfl)
      all_goals simp_all

/-- An entry of the table at an offset of the scratchpad (R236). -/
def State.tsEntry (s : State) (core : Nat) (off : Word) (i : Nat) : BitVec 128 :=
  ofBytes 128 ((List.range 16).map fun j => (s.spadByte core (off.toNat + 16 * i + j)).1)

/-- A sequencer with a table of n entries loaded for a context (R239). -/
def Ts.withTable (x : Ts) (ci n : Nat) (e : Nat → BitVec 128) : Ts :=
  let l := (List.range n).map e
  { x with
    entries := (l.zipIdx.map fun e => (e.2, e.1)).foldl (fun t e => Tab.set t e.1 e.2) []
    nent := n
    c := (List.range 4).foldl (fun t k => Tab.put 0 t k ((l.getD 1 0).extractLsb' (32 * k) 32)) []
    l := [], loaded := true, err := 0, state := 3, owner := ci }

theorem Ts.withTable_entries {x : Ts} {ci n : Nat} {e : Nat → BitVec 128} {i : Nat} (hi : i < n) :
    Tab.get 0 (x.withTable ci n e).entries i = e i := by
  refine (get_foldl_zipIdx (fun a => a) (fun t k v j => Tab.get_set 0 t k j v) _ 0 [] i).trans ?_
  rw [if_pos (Nat.zero_le i), Nat.sub_zero, List.map_id', List.getD_eq_getElem _ _ (by simpa using hi), List.getElem_map,
    List.getElem_range]

theorem Ts.withTable_c {x : Ts} {ci n : Nat} {e : Nat → BitVec 128} {k : Nat} (hn : 1 < n) (hk : k < 4) :
    Tab.get 0 (x.withTable ci n e).c k = (e 1).extractLsb' (32 * k) 32 := by
  rw [Ts.withTable, get_foldl_put, if_pos (List.mem_range.2 hk), List.getD_eq_getElem _ _ (by simpa using hn), List.getElem_map, List.getElem_range]

section
variable {s : State} {core ci n i : Nat} {off : Word} (hn : tsNent (s.tsEntry core off 0) = n) (hoff : off.toNat % 128 = 0)
  (hin : off.toNat + 16 * n ≤ 2 ^ 20)
include hn hoff hin

/-- A table that is found valid is loaded (R239). -/
theorem tsLoadDo_loads (h : tsInvalid ((List.range n).map (s.tsEntry core off)) = none) :
    s.tsLoadDo core ci off = s.setSeqr core ((s.seqr core).withTable ci n (s.tsEntry core off)) := by
  unfold State.tsEntry at hn h
  have hbound : ¬(off.toNat % 128 ≠ 0 ∨ 2 ^ 20 < off.toNat + 16 * n) := by omega
  simp only [State.tsLoadDo, hn, if_neg hbound, h]
  rfl

/-- Of a table that is not, an entry is reported (R239). -/
theorem tsLoadDo_reports (h : tsInvalid ((List.range n).map (s.tsEntry core off)) = some i) :
    s.tsLoadDo core ci off = s.setSeqr core { s.seqr core with err := 1, state := BitVec.ofNat 8 i } := by
  unfold State.tsEntry at hn h
  have hbound : ¬(off.toNat % 128 ≠ 0 ∨ 2 ^ 20 < off.toNat + 16 * n) := by omega
  simp only [State.tsLoadDo, hn, if_neg hbound, h]

end

/-- R237, R239: a table that is read is loaded where it is valid. -/
theorem tableLoads : Spec.TableLoads := by
  intro s core ci off x entry n hoff hin
  have hn : tsNent (s.tsEntry core off 0) = n := tsNent_eq (entry 0)
  obtain ⟨hnone, hvalid⟩ | ⟨i, hi, hsome, hinvalid⟩ := tsInvalid_cases (e := s.tsEntry core off) hn.symm
  · have h4 : 4 ≤ n := hvalid.1
    exact ⟨fun _ => ⟨_, _, tsLoadDo_loads hn hoff hin hnone, fun i hi => Ts.withTable_entries (x := x) (ci := ci) hi,
      fun k hk => Ts.withTable_c (x := x) (ci := ci) (by omega) hk⟩, fun h => absurd hvalid h⟩
  · exact ⟨fun h => absurd h hinvalid, fun _ => ⟨i, hi, tsLoadDo_reports hn hoff hin hsome⟩⟩

end Sys2Proof.Machine
end

section
/-! The states a sequencer performs (R238): loops, signals, waits and ends. -/

namespace Sys2Proof.Machine

/-- The entry a sequencer stands at (R236). -/
def Ts.entry (x : Ts) : BitVec 128 := Tab.get 0 x.entries x.state.toNat

/-- A sequencer whose performed state has advanced its counter (R236, R238). -/
def Ts.counted (x : Ts) (e : BitVec 128) : Ts :=
  let k := e.toNat / 2 ^ 120 % 4
  { x with c := if e.getLsbD 122 then Tab.put 0 x.c k (Tab.get 0 x.c k + (Tab.get (0 : BitVec 128) x.entries 2).extractLsb' (32 * k) 32) else x.c }

/-- The loop counter of a loop state, once performed (R238). -/
def Ts.left (x : Ts) (e : BitVec 128) : BitVec 32 :=
  let cur := Tab.get 0 x.l (e.toNat / 2 ^ 96 % 2)
  (if cur ≠ 0 then cur else if e.extractLsb' 64 32 = 0 then 1 else e.extractLsb' 64 32) - 1

/-- A sequencer that has performed a state and goes on at entry nxt, or stops where a stop was asked for (R238, R239). -/
def Ts.moved (x : Ts) (e : BitVec 128) (nxt : Nat) : Ts :=
  let halt := x.stop && e.getLsbD 123
  { x with state := BitVec.ofNat 8 nxt, steps := x.steps + 1, run := x.run && !halt, stop := x.stop && !halt }

section
variable {s z : State} {core nxt : Nat} {y : Ts} (hrun : (s.seqr core).run = true) (hdown : s.hub.down = false)
include hrun hdown

theorem sequencerState_done (h : s.seqDo core (s.seqr core) (s.seqr core).entry = (.done z, nxt, y)) :
    exec (.sequencerState core) s = .next (z.setSeqr core (y.moved (s.seqr core).entry nxt)) := by
  unfold Ts.entry at h ⊢
  show execSequencerState core s = _
  simp only [execSequencerState, hrun, hdown, h]
  rfl

theorem sequencerState_wait (h : s.seqDo core (s.seqr core) (s.seqr core).entry = (.wait, nxt, y)) :
    exec (.sequencerState core) s = .next s := by
  unfold Ts.entry at h
  show execSequencerState core s = _
  simp only [execSequencerState, hrun, hdown, h]
  rfl

theorem sequencerState_fail {c : BitVec 5} (h : s.seqDo core (s.seqr core) (s.seqr core).entry = (.fail c, nxt, y)) :
    exec (.sequencerState core) s = .next (s.setSeqr core { s.seqr core with run := false, stop := false, err := c }) := by
  unfold Ts.entry at h
  show execSequencerState core s = _
  simp only [execSequencerState, hrun, hdown, h]
  rfl

end

section
variable {s : State} {core : Nat} {x : Ts} {e : BitVec 128}

/-- The counter of a state advances where its bit 122 says so (R236). -/
theorem counted_eq (x : Ts) (e : BitVec 128) : (if e.getLsbD 122 then
    { x with c := Tab.put 0 x.c (field e 120 2) (Tab.get 0 x.c (field e 120 2) +
      (Tab.get (0 : BitVec 128) x.entries 2).extractLsb' (32 * field e 120 2) 32) } else x) = x.counted e := by
  rw [Ts.counted, field_eq_div_mod]
  split
  · rfl
  · rfl

theorem tsOpc_eq_mod (e : BitVec 128) : tsOpc e = e.toNat / 2 ^ 124 % 16 := field_eq_div_mod e 124 4

theorem seqDo_end (h : tsOpc e = 0) : s.seqDo core x e =
    (.done (if (Tab.get (0 : BitVec 128) x.entries 0).getLsbD 119
      then s.addSem core ((Tab.get (0 : BitVec 128) x.entries 0).extractLsb' 104 8) 1 else s),
      x.state.toNat, { x.counted e with run := false, stop := false }) := by
  rw [← counted_eq]
  simp only [State.seqDo, h]

theorem seqDo_loop (h : tsOpc e = 5) : s.seqDo core x e =
    (.done s, if x.left e ≠ 0 then e.toNat / 2 ^ 56 % 256 else x.state.toNat + 1,
      { x with l := Tab.put 0 x.l (e.toNat / 2 ^ 96 % 2) (x.left e) }.counted e) := by
  have hln : tsLn e = e.toNat / 2 ^ 96 % 2 := field_eq_div_mod e 96 1
  have hn : field e 64 32 = 0 ↔ e.extractLsb' 64 32 = 0 := by
    rw [← BitVec.toNat_inj]
    rfl
  rw [← counted_eq]
  simp only [State.seqDo, h, hln, tsTgt_eq, hn, Ts.left, ne_eq, ite_not]

theorem seqDo_signal (h : tsOpc e = 6) : s.seqDo core x e =
    (.done (s.addSem core (e.extractLsb' 64 8) (e.toNat / 2 ^ 72 % 16)), x.state.toNat + 1, x.counted e) := by
  rw [← counted_eq]
  simp only [State.seqDo, h, field_eq_div_mod e 72 4]
  rfl

theorem seqDo_take (h : tsOpc e = 7) : s.seqDo core x e =
    if s.sem core (e.extractLsb' 64 8) < e.toNat / 2 ^ 72 % 256 then (.wait, x.state.toNat, x)
    else (.done (s.setSem core (e.extractLsb' 64 8) (s.sem core (e.extractLsb' 64 8) - e.toNat / 2 ^ 72 % 256)),
      x.state.toNat + 1, x.counted e) := by
  rw [← counted_eq]
  simp only [State.seqDo, h, field_eq_div_mod e 72 8]
  rfl

end

/-- R238: the loop, signal, wait and end states. -/
theorem sequencerPerformsItsState : Spec.SequencerPerformsItsState := by
  intro s core x i e opc sem k inc c halt done hrun hdown
  have hopc : tsOpc e = opc := tsOpc_eq_mod e
  have hgo (z : State) (nxt : Nat) (l : Tab (BitVec 32)) (h : s.seqDo core x e = (.done z, nxt, { x with l := l }.counted e)) :
      done z nxt l := by
    refine (sequencerState_done hrun hdown h).trans ?_
    have hr : x.run = true := hrun
    simp only [Ts.moved, Ts.counted, hr, Bool.true_and]
    rfl
  refine ⟨fun h => hgo _ _ _ (seqDo_loop (hopc.trans h)), fun h => hgo _ _ _ (seqDo_signal (hopc.trans h)), ?take, ?stop⟩
  case take =>
    intro h n
    have hdo := seqDo_take (s := s) (core := core) (x := x) (hopc.trans h)
    exact ⟨fun hn => hgo _ _ _ (hdo.trans (if_neg (Nat.not_lt.2 hn))), fun hn => sequencerState_wait hrun hdown (hdo.trans (if_pos hn))⟩
  case stop =>
    intro h e0
    refine (sequencerState_done hrun hdown (seqDo_end (hopc.trans h))).trans ?_
    simp only [Ts.moved, Ts.counted, Bool.false_and, BitVec.ofNat_toNat, BitVec.setWidth_eq]
    rfl

end Sys2Proof.Machine
end

section
/-! The matrix states a sequencer performs (R238). -/

namespace Sys2Proof.Machine

/-- T of a matrix state: its counter, as it stands (R236, R238). -/
def Ts.operand (x : Ts) (e : BitVec 128) : Word := (Tab.get (0 : BitVec 32) x.c (field e 120 2)).signExtend 64

/-- The state in which an operation of a sequencer has its number and its place among the others. -/
def State.numbered (s : State) : State := { s with fresh := s.fresh + 1, seq := s.seq + 1 }

/-- OPC names a matrix operation (R236). -/
def matrixState (e : BitVec 128) : Prop := tsOpc e = 1 ∨ tsOpc e = 2 ∨ tsOpc e = 3 ∨ tsOpc e = 4

section
variable {s z : State} {core : Nat} {x : Ts} {e : BitVec 128} (ho : matrixState e)

theorem usedHandle_c (h : Res Handle) : (x.usedHandle e h).c = x.c := by
  unfold Ts.usedHandle
  split
  · split
    · rfl
    · rfl
  · rfl

include ho

/-! What a matrix state comes to (R238): it is performed, it waits, or it faults. -/

theorem seqDo_performed (h : s.seqMx core x e (x.operand e) (s.seqHandle x) = .ok z) : s.seqDo core x e =
    (.done z, x.state.toNat + 1, (x.usedHandle e (s.seqHandle x)).counted e) := by
  unfold Ts.operand at h
  rw [← counted_eq]
  rcases ho with ho | ho | ho | ho
  all_goals simp only [State.seqDo, ho, h, usedHandle_c]

theorem seqDo_waits {b : BlockPoint} {a : Option Nat} (h : s.seqMx core x e (x.operand e) (s.seqHandle x) = .error (.block b a)) :
    s.seqDo core x e = (.wait, x.state.toNat, x) := by
  unfold Ts.operand at h
  rcases ho with ho | ho | ho | ho
  all_goals simp only [State.seqDo, ho, h]

theorem seqDo_faults {t : TrapInfo} (h : s.seqMx core x e (x.operand e) (s.seqHandle x) = .error (.trap t)) :
    s.seqDo core x e = (.fail (seqErr t), x.state.toNat, x) := by
  unfold Ts.operand at h
  rcases ho with ho | ho | ho | ho
  all_goals simp only [State.seqDo, ho, h]

end

section
variable {s : State} {core : Nat} {x : Ts} {e : BitVec 128} {t : Word} (hm : field e 107 2 < 2)
include hm

/-- MODE and B of a matrix state are among those its operation has. -/
theorem matrixState_allowed (hb : tsOpc e = 1 → field e 107 2 = 1 → (e.extractLsb' 113 7).toNat < 64)
    (h4 : tsOpc e = 4 → field e 107 2 = 0) : ¬(2 ≤ field e 107 2 ∨
      (tsOpc e = 1 ∧ field e 107 2 = 1 ∧ 64 ≤ (e.extractLsb' 113 7).toNat) ∨ (tsOpc e = 4 ∧ field e 107 2 ≠ 0)) := by
  rintro (h | ⟨ho, h1, h⟩ | ⟨ho, h⟩)
  · exact absurd hm (Nat.not_lt.2 h)
  · exact absurd (hb ho h1) (Nat.not_lt.2 h)
  · exact h (h4 ho)

/-! The operation of each matrix state (R238). -/

theorem seqMx_load {h : Handle} (ho : tsOpc e = 1) (hb : field e 107 2 = 1 → (e.extractLsb' 113 7).toNat < 64) :
    s.seqMx core x e t (.ok h) = s.mloadPlan core 512 x.mxo t (e.extractLsb' 113 7) (field e 107 2) h (s.fresh + 1) >>= fun m =>
      pure (s.numbered.enterMx core m) := by
  have hgo := matrixState_allowed (e := e) hm (fun _ => hb) (by simp [ho])
  simp only [State.seqMx, if_neg hgo]
  simp only [ho]
  rfl

theorem seqMx_push (h : Res Handle) (ho : tsOpc e = 2) : s.seqMx core x e t h =
    s.mpushPlan core 512 x.mxo t (e.extractLsb' 113 7) (e.extractLsb' 109 4) (field e 107 2) (s.fresh + 1) >>= fun m =>
      pure ((if field e 107 2 = 1 then s.numbered.clearTile core (e.extractLsb' 109 4).toNat m.tag else s.numbered).enterMx core m) := by
  have hgo := matrixState_allowed (e := e) hm (by simp [ho]) (by simp [ho])
  simp only [State.seqMx, if_neg hgo]
  simp only [ho]
  rfl

section
variable {h : Res Handle} {v : Wide} {k : Mark} (ho : tsOpc e = 3)
include ho

theorem seqMx_pop (hp : s.mpopxPlan core 512 [] x.mxo t (e.extractLsb' 109 4) (field e 107 2) x.fm.toNat h = .ok (v, k, none)) :
    s.seqMx core x e t h = .ok s := by
  have hgo := matrixState_allowed (e := e) hm (by simp [ho]) (by simp [ho])
  simp only [State.seqMx, if_neg hgo]
  simp only [ho, hp]
  rfl

theorem seqMx_pop_stores {g : Gated}
    (hp : s.mpopxPlan core 512 [] x.mxo t (e.extractLsb' 109 4) (field e 107 2) x.fm.toNat h = .ok (v, k, some g)) :
    s.seqMx core x e t h = if g.h.ps = 15 ∧ g.chunks.any fun c => s.spadLocked core c.2.1 c.2.2.length then blockAt .locked
      else .ok (s.performStore core x.slot x.gen g) := by
  have hgo := matrixState_allowed (e := e) hm (by simp [ho]) (by simp [ho])
  simp only [State.seqMx, if_neg hgo]
  simp only [ho, hp]
  rfl

end

end

theorem seqMx_zero {s : State} {core : Nat} {x : Ts} {e : BitVec 128} {t : Word} (h : Res Handle) (ho : tsOpc e = 4)
    (hm : field e 107 2 = 0) : s.seqMx core x e t h =
      s.tileWait core 512 (e.extractLsb' 109 4).toNat none >>= fun _ => pure (s.clearTile core (e.extractLsb' 109 4).toNat 0) := by
  have hgo := matrixState_allowed (e := e) (by omega) (by simp [ho]) (fun _ => hm)
  simp only [State.seqMx, if_neg hgo]
  simp only [ho]

end Sys2Proof.Machine
end

section
/-! The sequencer performs its matrix states (R238). -/

namespace Sys2Proof.Machine

section
variable {s z : State} {core : Nat}

/-- The copied handle, where it needs no re-translation (R115, R121, R238). -/
theorem seqHandle_ok {x : Ts} (h : (s.judgeHandle x.h).ps = 15 ∨ (s.judgeHandle x.h).st ≠ .revoked) :
    s.seqHandle x = .ok (s.judgeHandle x.h) := by
  unfold State.seqHandle
  by_cases hps : (s.judgeHandle x.h).ps = 15
  · rw [if_pos hps]
  · rw [if_neg hps, if_neg (h.resolve_left hps)]

/-! The handle that stays copied (R238). -/

theorem usedHandle_kept {x : Ts} {e : BitVec 128} (hl : tsOpc e ≠ 1) (hp : tsOpc e = 3 → field e 107 2 ≠ 1) (h : Res Handle) :
    x.usedHandle e h = x := by
  unfold Ts.usedHandle
  split
  · exact if_neg (not_or.2 ⟨hl, fun ⟨h3, h1⟩ => hp h3 h1⟩)
  · rfl

theorem usedHandle_ok {x : Ts} {e : BitVec 128} {h : Handle} (hu : tsOpc e = 1 ∨ (tsOpc e = 3 ∧ field e 107 2 = 1)) :
    x.usedHandle e (.ok h) = { x with h := h } := if_pos hu

/-! A matrix state that is performed, waits or faults. -/

theorem seqAt_t : (Spec.seqAt s core).t = (s.seqr core).operand (s.seqr core).entry := by
  rw [Ts.operand, field_eq_div_mod]
  rfl

theorem seqAt_mode : (Spec.seqAt s core).mode = field (s.seqr core).entry 107 2 := (field_eq_div_mod _ 107 2).symm

section
variable (hrun : (s.seqr core).run = true) (hdown : s.hub.down = false) (ho : matrixState (s.seqr core).entry)
include hrun hdown ho

theorem matrixState_performed {h : Handle}
    (hu : (s.seqr core).usedHandle (s.seqr core).entry (s.seqHandle (s.seqr core)) = { s.seqr core with h := h })
    (hmx : s.seqMx core (s.seqr core) (s.seqr core).entry (Spec.seqAt s core).t (s.seqHandle (s.seqr core)) = .ok z) :
    exec (.sequencerState core) s = .next (z.setSeqr core ((Spec.seqAt s core).after { s.seqr core with h := h })) := by
  rw [seqAt_t] at hmx
  refine (sequencerState_done hrun hdown (seqDo_performed ho hmx)).trans ?_
  rw [hu]
  simp only [Ts.moved, Ts.counted, hrun]
  rfl

theorem matrixState_waits {b : BlockPoint} {a : Option Nat}
    (hmx : s.seqMx core (s.seqr core) (s.seqr core).entry (Spec.seqAt s core).t (s.seqHandle (s.seqr core)) = .error (.block b a)) :
    exec (.sequencerState core) s = .next s := by
  rw [seqAt_t] at hmx
  exact sequencerState_wait hrun hdown (seqDo_waits ho hmx)

theorem matrixState_faults {t : TrapInfo}
    (hmx : s.seqMx core (s.seqr core) (s.seqr core).entry (Spec.seqAt s core).t (s.seqHandle (s.seqr core)) = .error (.trap t)) :
    exec (.sequencerState core) s = .next (s.setSeqr core { s.seqr core with run := false, stop := false, err := seqErr t }) := by
  rw [seqAt_t] at hmx
  exact sequencerState_fail hrun hdown (seqDo_faults ho hmx)

end

/-! The entry that a sequencer's load or push is once in its queue (R238). -/

theorem enterMx_getLast_load {m : MOp} (hl : m.load = true) : ∃ data, ((s.enterMx core m).core core).mops.getLast? =
    some { m with released := true, relAt := s.cycle, data := data } := by
  rw [State.enterMx, if_pos hl, State.modCore_core, if_pos rfl, List.getLast?_concat]
  exact ⟨_, rfl⟩

theorem enterMx_getLast_push {m : MOp} (hl : m.load = false) : ((s.enterMx core m).core core).mops.getLast? =
    some { m with released := true, relAt := s.cycle } := by
  rw [State.enterMx, if_neg (Bool.eq_false_iff.1 hl), State.modCore_core, if_pos rfl, List.getLast?_concat]

end

section
variable {s : State} {core ci mode id : Nat} {d : Lanes} {t : Word} {b : BitVec 7} {h : Handle}

/-! Loads that fault (R226). -/

theorem mloadPlan_format (hfm : d.toNat / 2 ^ 104 % 16 ∉ [1, 10, 11]) : s.mloadPlan core ci d t b mode h id = raise 9 1 := by
  have hf : (!(d.toNat / 2 ^ 104 % 16 == 1 || d.toNat / 2 ^ 104 % 16 == 10 || d.toNat / 2 ^ 104 % 16 == 11)) = true := by
    simpa [and_assoc] using hfm
  simp only [State.mloadPlan, mxFmt_toNat, hf, if_true]
  rfl

/-- The first row's address is formed first. -/
theorem mloadPlan_row {c sub : Nat}
    (hfm : d.toNat / 2 ^ 104 % 16 = 1 ∨ d.toNat / 2 ^ 104 % 16 = 10 ∨ d.toNat / 2 ^ 104 % 16 = 11)
    (hrow : ∀ off n, formAddr h off 0 0 n 32 true false false false false = raiseAt c sub (effAddr h off 0 0)) :
    ∃ ea, s.mloadPlan core ci d t b mode h id = raiseAt c sub ea := by
  have hf : (!(d.toNat / 2 ^ 104 % 16 == 1 || d.toNat / 2 ^ 104 % 16 == 10 || d.toNat / 2 ^ 104 % 16 == 11)) = false := by
    rcases hfm with h | h | h <;> rw [h] <;> rfl
  have hrows (st n k : Nat) : mloadRows h t st n (k + 1) 0 = raiseAt c sub (effAddr h (t + BitVec.ofNat 64 (0 * st)) 0 0) := by
    rw [mloadRows, hrow]
    rfl
  refine ⟨effAddr h (t + BitVec.ofNat 64 (0 * Spec.stride d (d.toNat / 2 ^ 104 % 16))) 0 0, ?_⟩
  simp only [State.mloadPlan, mxFmt_toNat, hf, rowStride_eq_stride, hrows _ _ 127, Bool.false_eq_true, if_false]
  rfl

theorem formAddr_null {off : Word} {n : Nat} (hst : h.st = .null) :
    formAddr h off 0 0 n 32 true false false false false = raiseAt 6 1 (effAddr h off 0 0) := if_pos hst

theorem formAddr_fabric {off : Word} {n : Nat} (hst : h.st = .valid) (hps : h.ps = 14) :
    formAddr h off 0 0 n 32 true false false false false = raiseAt 8 4 (effAddr h off 0 0) := by
  simp [formAddr, hst, hps]

end

end Sys2Proof.Machine
end

section
/-! The sequencer performs its matrix states (R238): loads, pushes, pops and clears. -/

namespace Sys2Proof.Machine

/-- What the sequencer's mpopx reads is what the scratchpad holds (R231, R238). -/
theorem seenByte_nil (s : State) (core off : Nat) : s.seenByte core [] off = s.spadByte core off := rfl

/-- A store of one chunk that a push holds locked (R220). -/
theorem storeLocked_iff {s : State} {core : Nat} {g : Gated} {a p n : Nat} {l : List Byte} (hc : g.chunks = [(a, p, l)])
    (hl : l.length = n) (hp : g.h.ps = 15 → p = a) :
    (g.h.ps = 15 ∧ (g.chunks.any fun c => s.spadLocked core c.2.1 c.2.2.length) = true) ↔
      g.h.ps = 15 ∧ ∃ m ∈ (s.core core).mops, m.touches a n = true := by
  refine and_congr_right fun hps => ?_
  rw [hc, List.any_cons, List.any_nil, Bool.or_false, hl, hp hps]
  exact List.any_eq_true

/-- R238: the matrix states. -/
theorem sequencerPerformsMatrixStates : Spec.SequencerPerformsMatrixStates := by
  intro s core q x d h fm st go fails joins
  have hopc : tsOpc x.entry = x.entry.toNat / 2 ^ 124 := tsOpc_eq _
  have hmode : field x.entry 107 2 = q.mode := seqAt_mode.symm
  refine ⟨?load, ?push, ?pop, ?zero⟩
  case load =>
    rintro ⟨hrun, hdown, hs⟩ hm hb
    have ho : tsOpc x.entry = 1 := hopc.trans hs
    have hx : (s.seqHandle x = .ok h) → s.seqMx core x x.entry q.t (s.seqHandle x) =
        s.mloadPlan core 512 d q.t q.b q.mode h (s.fresh + 1) >>= fun m => pure (s.numbered.enterMx core m) := fun hh => by
      rw [hh, seqMx_load (hmode ▸ hm) ho (hmode ▸ hb), hmode]
      rfl
    refine ⟨fun hfm => ⟨fun ha hroom => ?joins, fun hst => ?null, fun hst hps => ?fabric⟩, fun hfm hst => ?format⟩
    case joins =>
      have hh : s.seqHandle x = .ok h := seqHandle_ok (.inr (by rw [(ha 0 (by decide)).1]; decide))
      have hplan := mloadPlan_ok (s := s) (ci := 512) (b := q.b) (id := s.fresh + 1) (mode := q.mode) hfm ha (by
        simpa only [MOp.macros, State.loadEntry, beq_iff_eq] using hroom)
      obtain ⟨data, hlast⟩ := enterMx_getLast_load (s := s.numbered) (core := core)
        (m := s.loadEntry core 512 d q.t q.b q.mode h (s.fresh + 1)) rfl
      exact ⟨_, _, matrixState_performed hrun hdown (.inl ho) (h := h) ((congrArg (x.usedHandle x.entry) hh).trans (usedHandle_ok (.inl ho)))
        ((hx hh).trans (by rw [hplan]; rfl)), hlast, rfl, rfl, rfl, rfl, rfl, rfl, rfl, rfl, rfl, rfl⟩
    case null =>
      have hst : h.st = .null := hst
      obtain ⟨ea, hplan⟩ := mloadPlan_row (s := s) (core := core) (ci := 512) (b := q.b) (id := s.fresh + 1) (mode := q.mode) (t := q.t)
        hfm fun off n => formAddr_null hst
      exact matrixState_faults hrun hdown (.inl ho) ((hx (seqHandle_ok (.inr (by rw [hst]; decide)))).trans (by rw [hplan]; rfl))
    case fabric =>
      have hst : h.st = .valid := hst
      obtain ⟨ea, hplan⟩ := mloadPlan_row (s := s) (core := core) (ci := 512) (b := q.b) (id := s.fresh + 1) (mode := q.mode) (t := q.t)
        hfm fun off n => formAddr_fabric hst hps
      exact matrixState_faults hrun hdown (.inl ho) ((hx (seqHandle_ok (.inr (by rw [hst]; decide)))).trans (by rw [hplan]; rfl))
    case format =>
      exact matrixState_faults hrun hdown (.inl ho) ((hx (seqHandle_ok (.inr hst))).trans (by rw [mloadPlan_format hfm]; rfl))
  case push =>
    rintro r tag ⟨hrun, hdown, hs⟩ hm hp hin ht hst hlim hclear hroom
    have ho : tsOpc x.entry = 2 := hopc.trans hs
    have hplan := mpushPlan_ok (ci := 512) (id := s.fresh + 1) hp hin ht hst hlim hclear (by
      simpa only [MOp.macros, State.pushEntry, beq_iff_eq] using hroom)
    have hx : s.seqMx core x x.entry q.t (s.seqHandle x) = .ok ((if q.mode = 1
        then s.numbered.clearTile core q.acc.toNat tag else s.numbered).enterMx core (s.pushEntry core 512 d q.t q.b q.acc (s.fresh + 1) r tag)) := by
      rw [seqMx_push (hmode ▸ hm) _ ho, hmode]
      exact (congrArg (· >>= _) hplan).trans rfl
    have hlast (z : State) := enterMx_getLast_push (s := z) (core := core)
      (m := s.pushEntry core 512 d q.t q.b q.acc (s.fresh + 1) r tag) rfl
    exact ⟨_, _, matrixState_performed hrun hdown (.inr (.inl ho)) (h := x.h)
      (usedHandle_kept (x := x) (e := x.entry) (by rw [ho]; decide) (by rw [ho]; nofun) _) hx, hlast _,
      rfl, rfl, rfl, rfl, rfl, rfl, rfl, rfl, rfl, rfl, rfl, rfl, rfl, rfl, rfl⟩
  case pop =>
    rintro ⟨hrun, hdown, hs⟩ hm hfm
    intro r e tile tbl a g howed he hl
    have ho : tsOpc x.entry = 3 := hopc.trans hs
    have hw : ∀ m ∈ Spec.flyingAt s core q.acc, m.owes (q.t.toNat % 128) = false := fun m hm => owes_eq_false (howed m hm)
    refine ⟨fun h0 => ?lands, fun h1 ha => ?stores⟩
    case lands =>
      have hne : field x.entry 107 2 ≠ 1 := by rw [hmode, h0]; decide
      have hplan := mpopxPlan_lands (s := s) (core := core) (ci := 512) (own := []) (fmode := x.fm.toNat) hfm hw he hl hne (s.seqHandle x)
      exact matrixState_performed hrun hdown (.inr (.inr (.inl ho))) (h := x.h)
        (usedHandle_kept (x := x) (e := x.entry) (by rw [ho]; decide) (fun _ => hne) _) (seqMx_pop (hmode ▸ hm) ho hplan)
    case stores =>
      intro locked
      have h1 : field x.entry 107 2 = 1 := hmode.trans h1
      have hh : s.seqHandle x = .ok h := seqHandle_ok (.inr (by rw [ha.1]; decide))
      have hplan := mpopxPlan_stores (s := s) (core := core) (ci := 512) (own := []) (fmode := x.fm.toNat) hfm hw he hl h1 (h := h) ha
      have hlen : (packVec (mxFmt d) (s.epiWide core [] d q.t q.acc x.fm.toNat).data).length = Spec.rowBytes fm := by
        rw [packVec_length (by rw [mxFmt_toNat]; omega), mxFmt_toNat]
      have hg : s.epiStore core [] d q.t q.acc x.fm.toNat h = g := by
        simp only [State.epiStore, State.epiWide, State.epiPoison, State.epiTable, seenByte_nil]
        rfl
      have hlock := storeLocked_iff (s := s) (core := core) (g := s.epiStore core [] d q.t q.acc x.fm.toNat h) (p := Spec.place h a)
        (a := a) rfl hlen fun hps => if_pos hps
      have hx := (seqMx_pop_stores (s := s) (core := core) (x := x) (e := x.entry) (t := q.t) (hmode ▸ hm) ho hplan).trans
        (if_congr hlock rfl rfl)
      rw [← hh, hg] at hx
      refine ⟨fun hfree => ?_, fun hl => matrixState_waits hrun hdown (.inr (.inr (.inl ho))) (hx.trans (if_pos hl))⟩
      exact matrixState_performed hrun hdown (.inr (.inr (.inl ho))) (h := h)
        ((congrArg (x.usedHandle x.entry) hh).trans (usedHandle_ok (.inr ⟨ho, h1⟩))) (hx.trans (if_neg hfree))
  case zero =>
    rintro ⟨hrun, hdown, hs⟩ h0
    have ho : tsOpc x.entry = 4 := hopc.trans hs
    have hx := seqMx_zero (s := s) (core := core) (x := x) (e := x.entry) (t := q.t) (s.seqHandle x) ho (hmode.trans h0)
    refine ⟨fun hf => ?empties, fun hf hu => ?waits⟩
    case empties =>
      have hwait : s.tileWait core 512 (x.entry.extractLsb' 109 4).toNat none = .ok () := tileWait_clear (acc := q.acc) hf
      rw [hwait, bind_of_ok] at hx
      exact matrixState_performed hrun hdown (.inr (.inr (.inr ho))) (h := x.h)
        (usedHandle_kept (x := x) (e := x.entry) (by rw [ho]; decide) (by rw [ho]; nofun) _) hx
    case waits =>
      have hown : ((Spec.flyingAt s core q.acc).any fun m => m.ownPitch 512 (s.ctx 512).pitch) = false := by
        rw [List.any_eq_false]
        intro m hm
        by_cases hc : m.ctx = 512
        · simp [MOp.ownPitch, hu m (mem_flyingAt.1 hm).1 hc]
        · simp [MOp.ownPitch, hc]
      have hwait : s.tileWait core 512 (x.entry.extractLsb' 109 4).toNat none = blockAt .busyTile := by
        rw [show x.entry.extractLsb' 109 4 = q.acc from rfl, tileWait_flying hf, hown]
        rfl
      rw [hwait] at hx
      exact matrixState_waits hrun hdown (.inr (.inr (.inr ho))) hx

/-- Settles O28: the operations, the tables, and the states by what each comes to. -/
theorem sequencerOperationsAndStates : Obligations.SequencerOperationsAndStates :=
  ⟨sequencerOperations, tableLoads, sequencerPerformsItsState, sequencerPerformsMatrixStates⟩

end Sys2Proof.Machine
end

section
/-! Tiles and B slots after an update of their core, and the events of the matrix unit (R214, R215, R218). -/

namespace Sys2Proof.Machine

section
variable {s : State} {core : Nat}

/-! A core's tiles and slots (R214, R215, R308). -/

theorem tile_setTile {acc : Nat} {t : Tile} (ht : t.stamp = s.coreGen core) : (s.setTile core acc t).tile core acc = t := by
  have hgen : (s.setTile core acc t).coreGen core = s.coreGen core := State.modCore_coreGen s core core fun _ => rfl
  rw [State.tile, hgen, State.setTile, State.modCore_core, if_pos rfl, Tab.get_set_same]
  exact if_pos ht

theorem bslot_setBslot {b : Nat} {x : BSlot} (hx : x.gen = s.coreGen core) : (s.setBslot core b x).bslot core b = x := by
  have hgen : (s.setBslot core b x).coreGen core = s.coreGen core := State.modCore_coreGen s core core fun _ => rfl
  rw [State.bslot, hgen, State.setBslot, State.modCore_core, if_pos rfl, Tab.get_set_same]
  exact if_pos hx

/-- The rows of a tile that reads as current stand under the core's generation. -/
theorem tile_stamp {acc : Nat} : (s.tile core acc).stamp = s.coreGen core := by
  simp only [State.tile]
  split
  · assumption
  · rfl

/-- The core with its queue entries changed. -/
def State.modMops (s : State) (core : Nat) (g : List MOp → List MOp) : State := s.modCore core fun k => { k with mops := g k.mops }

theorem coreGen_modMops (g : List MOp → List MOp) : (s.modMops core g).coreGen core = s.coreGen core :=
  State.modCore_coreGen s core core fun _ => rfl
theorem bslot_modMops (g : List MOp → List MOp) (b : Nat) : (s.modMops core g).bslot core b = s.bslot core b := by
  rw [State.bslot, coreGen_modMops, State.modMops, State.modCore_core, if_pos rfl]
  rfl
theorem mops_modMops (g : List MOp → List MOp) : ((s.modMops core g).core core).mops = g (s.core core).mops := by
  rw [State.modMops, State.modCore_core, if_pos rfl]
theorem macts_modMops (g : List MOp → List MOp) : ((s.modMops core g).core core).macts = (s.core core).macts := by
  rw [State.modMops, State.modCore_core, if_pos rfl]
theorem mops_setBslot (b : Nat) (x : BSlot) : ((s.setBslot core b x).core core).mops = (s.core core).mops := by
  rw [State.setBslot, State.modCore_core, if_pos rfl]
theorem macts_setBslot (b : Nat) (x : BSlot) : ((s.setBslot core b x).core core).macts = (s.core core).macts := by
  rw [State.setBslot, State.modCore_core, if_pos rfl]
theorem macts_setTile (acc : Nat) (t : Tile) : ((s.setTile core acc t).core core).macts = (s.core core).macts := by
  rw [State.setTile, State.modCore_core, if_pos rfl]

/-- Where no macc and no mrel waits, none acts (R218, R233). -/
theorem settleMx_eq_self (h : (s.core core).macts = []) : s.settleMx core = s := by
  rw [State.settleMx, h]
  rfl

end

/-! The events (R218, R223, R226). -/

section
variable {s : State} {core : Nat} {m : MOp}

/-- An entry that may start (R218). -/
theorem mayStart_of (hacts : (s.core core).macts = []) (hs : m.start = none) (hrel : m.relAt < s.cycle)
    (hrun : (s.core core).macrosRunning + m.macros.length ≤ s.macroLimit)
    (hhead : ∀ p ∈ m.macros, ((s.core core).macroHead p).map (·.id) = some m.id)
    (hlim : m.load = false → ((s.core core).mops.filter fun x => x.flying && x.acc == m.acc && x.id != m.id).length < m.lim) :
    s.mayStart core m = true := by
  have hload : (m.load || decide (((s.core core).mops.filter fun x => x.flying && x.acc == m.acc && x.id != m.id).length < m.lim)) = true := by
    cases hl : m.load
    · simpa using hlim hl
    · rfl
  have hall : (m.macros.all fun q => ((s.core core).macroHead q).map (·.id) == some m.id) = true :=
    List.all_eq_true.2 fun p hp => beq_iff_eq.2 (hhead p hp)
  simp only [State.mayStart, hs, hacts, hload, hall, Option.isNone_none, decide_eq_true hrel, decide_eq_true hrun, List.all_nil, Bool.and_self]

/-- The entry at the head of its queues that may start, with what it reads at hand, starts (R218). -/
theorem startEntry_starts {q : Nat} (hq : (s.core core).macroHead q = some m) (hmay : s.mayStart core m = true)
    (hdata : m.load = false ∨ m.data.isSome = true) : s.startEntry core q =
      s.modMops core (List.map fun x => if x.id == m.id then { x with start := some s.cycle, data := m.data } else x) := by
  have hnone : (m.load && m.data.isNone) = false := by
    rcases hdata with h | h
    · simp [h]
    · simp [Option.isNone_eq_false_iff.2 h]
  simp only [State.startEntry, hq, hmay, hnone]
  rfl

/-- A row added leaves what waits as it is. -/
theorem macts_rowAdd : ((s.rowAdd core m).core core).macts = (s.core core).macts := by
  unfold State.rowAdd
  split
  · exact macts_modMops _
  · exact (macts_setTile ..).trans (macts_modMops _)

theorem pushRowAdded_eq (hacts : (s.core core).macts = []) (hp : (s.core core).push m.id = some m) (hdue : s.rowDue m = true) :
    execPushRowAdded core m.id s = .next (s.rowAdd core m) := by
  simp only [execPushRowAdded, hp, hdue, if_true, settleMx_eq_self (macts_rowAdd.trans hacts)]

/-- The operands of a push given up (R220). -/
theorem operandsConsumed_eq (hp : (s.core core).push m.id = some m) (hc : m.consumed = false) (hf : m.flying = false) :
    execOperandsConsumed core m.id s = .next (s.consume core m) := by
  simp only [execOperandsConsumed, hp, hc, hf]
  rfl

theorem pushComplete_eq (hacts : (s.core core).macts = []) (hp : (s.core core).push m.id = some m) (hc : m.consumed = true)
    (hf : m.flying = false) : execPushComplete core m.id s = .next (s.modMops core fun l => l.filter fun x => x.id != m.id) := by
  have hset := settleMx_eq_self (core := core) ((macts_modMops fun l : List MOp => l.filter fun x => x.id != m.id).trans hacts)
  simp only [execPushComplete, hp, hc, hf, Bool.false_eq_true, if_false, if_true]
  exact congrArg _ hset

/-- The slot of a completed mload (R214, R226). -/
def State.loadedSlot (s : State) (core : Nat) (m : MOp) (l : List (Lanes × BitVec 128)) : BSlot :=
  { s.bslot core m.b.toNat with
    gen := s.coreGen core
    rows := (l.zipIdx.map fun e => (e.2, e.1.1)).foldl (fun t e => Tab.put 0 t e.1 e.2) []
    dtag := m.tag
    poison := (l.zipIdx.map fun e => (e.2, e.1.2)).foldl (fun t e => Tab.put 0 t e.1 e.2) []
    loading := (s.core core).mops.any fun y => y.load && y.released && y.id != m.id && y.slots.contains m.b.toNat }

theorem mloadComplete_eq {c : Nat} {l : List (Lanes × BitVec 128)} (hacts : (s.core core).macts = [])
    (hl : (s.core core).loadOf m.b.toNat = some m) (hs : m.start = some c) (hd : m.data = some l) (hg : m.gang = false)
    (hgen : m.gen = s.gen m.slot) (hc : c + 128 ≤ s.cycle) : execMloadComplete core m.b.toNat s =
      .next ((s.setBslot core m.b.toNat (s.loadedSlot core m l)).modMops core fun l => l.filter fun x => x.id != m.id) := by
  have hset := settleMx_eq_self (core := core) (((macts_modMops (s := s.setBslot core m.b.toNat (s.loadedSlot core m l))
    fun l : List MOp => l.filter fun x => x.id != m.id).trans (macts_setBslot ..)).trans hacts)
  have hslots : m.slots = [m.b.toNat] := by simp [MOp.slots, hg]
  simp only [execMloadComplete, hl, hs, hd, if_neg (Nat.not_lt.2 hc), if_neg (not_not.2 hgen), hslots, List.foldl_cons, List.foldl_nil]
  exact congrArg _ hset

theorem loadedSlot_rows {l : List (Lanes × BitVec 128)} {i : Nat} (hi : i < l.length) :
    Tab.get 0 (s.loadedSlot core m l).rows i = (l.getD i (0, 0)).1 := by
  refine (get_foldl_zipIdx (op := Tab.put 0) Prod.fst (fun t k v j => Tab.get_put 0 t k j v) l 0 [] i).trans ?_
  rw [if_pos (Nat.zero_le i), Nat.sub_zero, List.getD_eq_getElem _ _ (by simpa using hi), List.getElem_map, List.getD_eq_getElem _ _ hi]

end

end Sys2Proof.Machine
end

section
/-! A row of a tile after a push has added to it (R215, R222, R223). -/

namespace Sys2Proof.Machine

section
variable {s : State} {core : Nat} {m : MOp}

/-- The row a push adds next (R227, R228). -/
def MOp.row (m : MOp) : Nat :=
  match m.vec with
  | some (q, _) => q.toNat
  | none => m.rows

/-- The row of a push's tile, once it has added to it (R223). -/
def State.pushedRow (s : State) (core : Nat) (m : MOp) : BitVec 4096 :=
  pushRow (tagFmt m.tag == 5) m.fmt.toNat m.bias.toInt (s.pushCodes core m).1 (s.bslot core m.b.toNat) (Config.sumOrder m.id m.row)
    ((s.tile core m.acc.toNat).row m.row)

/-- The elements that poison reaches as a push adds its row (R225). -/
def State.pushPoison (s : State) (core : Nat) (m : MOp) : BitVec 128 :=
  if (s.pushCodes core m).2 then BitVec.allOnes 128 else (s.bslot core m.b.toNat).poison.foldl (fun a e => a ||| e.2) 0

/-- The tile of a push, once it has added its row (R215, R223, R225). -/
def State.pushedTile (s : State) (core : Nat) (m : MOp) : Tile :=
  let t := s.tile core m.acc.toNat
  { t with
    rows := Tab.put 0 t.rows m.row (s.pushedRow core m)
    tag := if tagFmt t.tag = 0 then m.tag else t.tag
    poison := Tab.put 0 t.poison m.row (Tab.get 0 t.poison m.row ||| s.pushPoison core m) }

theorem rowAdd_tile (hslot : m.gen = s.gen m.slot) : (s.rowAdd core m).tile core m.acc.toNat = s.pushedTile core m := by
  have hadd : s.rowAdd core m = (s.modMops core (List.map fun x => if x.id == m.id then { x with rows := x.rows + 1 } else x)).setTile core
      m.acc.toNat (s.pushedTile core m) := if_neg (not_not.2 hslot)
  rw [hadd]
  refine tile_setTile ?_
  rw [coreGen_modMops]
  simp only [State.pushedTile, tile_stamp]

/-- Every other row is as before. -/
theorem pushedTile_other {q : Nat} (hq : q ≠ m.row) : Tab.get 0 (s.pushedTile core m).rows q = Tab.get 0 (s.tile core m.acc.toNat).rows q := by
  rw [State.pushedTile, Tab.get_put, if_neg hq]

theorem pushedTile_row : Tab.get 0 (s.pushedTile core m).rows m.row = s.pushedRow core m := by
  rw [State.pushedTile, Tab.get_put, if_pos rfl]

/-- An untyped tile takes the tag of its first push (R219, R227). -/
theorem pushedTile_tag (h : (s.tile core m.acc.toNat).tag.toNat % 16 = 0) : (s.pushedTile core m).tag = m.tag := by
  simp only [State.pushedTile, tagFmt_eq, h, if_true]

/-- A row has 128 codes (R227, R228). -/
theorem pushCodes_length : (s.pushCodes core m).1.length = 128 := by
  unfold State.pushCodes
  cases m.vec with
  | some q => simp
  | none =>
    by_cases h7 : m.fmt = 7
    · simp [h7]
    · by_cases h11 : m.fmt = 11
      · simp [h11]
      · have hw : packedWidth m.fmt.toNat = 128 := by
          have h7 : m.fmt.toNat ≠ 7 := fun e => h7 (BitVec.eq_of_toNat_eq e)
          have h11 : m.fmt.toNat ≠ 11 := fun e => h11 (BitVec.eq_of_toNat_eq e)
          simp [packedWidth, h7, h11]
        simp only [hw]
        rw [if_neg h7, if_neg h11]
        simp

end

/-- An element of a tile row given by its elements (R215). -/
theorem rowElem_ofElems {l : List Nat} {c : Nat} (hc : c < 128) :
    (BitVec.ofNat 4096 (ofElems 32 l)).toNat / 2 ^ (32 * c) % 2 ^ 32 = l.getD c 0 % 2 ^ 32 := by
  refine Nat.eq_of_testBit_eq fun i => ?_
  rw [Nat.testBit_mod_two_pow, Nat.testBit_mod_two_pow]
  by_cases hi : i < 32
  · rw [Nat.testBit_div_two_pow, BitVec.testBit_toNat, BitVec.getLsbD_ofNat, testBit_ofElems (by decide),
      decide_eq_true (show i + 32 * c < 4096 by omega), show (i + 32 * c) / 32 = c by omega, show (i + 32 * c) % 32 = i by omega,
      Bool.true_and]
  · simp [hi]

/-- An integer modulo 2^32, as an element (R223). -/
theorem wrap_mod (x : Int) : ((wrap 32 x % 2 ^ 32 : Nat) : Int) = x % 2 ^ 32 := by
  rw [wrap]
  omega

/-- A column of a B slot (R214). -/
def BSlot.column (b : BSlot) (c : Nat) : List Nat := (List.range 128).map fun k => elem 8 (Tab.get 0 b.rows k) c

/-- The exact sum of products, as a sum (R222). -/
theorem dotInt_eq_sum (a b : List Int) : dotInt a b = (List.zipWith (· * ·) a b).sum := by
  induction a generalizing b with
  | nil => rfl
  | cons x a ih =>
    cases b with
    | nil => rfl
    | cons y b => rw [dotInt, ih, List.zipWith_cons_cons, List.sum_cons]

/-- A list of 128 by its elements. -/
theorem eq_map_getD {α : Type} {n : Nat} (d : α) {l : List α} (h : l.length = n) : l = (List.range n).map fun i => l.getD i d := by
  refine List.ext_getElem (by simp [h]) fun i h1 h2 => ?_
  rw [List.getElem_map, List.getElem_range, List.getD_eq_getElem]

/-- An element of an i32 row after a push (R223). -/
theorem pushRow_i32 {fa : Nat} {ba : Int} {row : List Nat} {b : BSlot} {order : Nat → Nat} {old : BitVec 4096} {c : Nat}
    (hrow : row.length = 128) (hc : c < 128) :
    (((pushRow true fa ba row b order old).toNat / 2 ^ (32 * c) % 2 ^ 32 : Nat) : Int) =
      (((old.toNat / 2 ^ (32 * c) % 2 ^ 32 : Nat) : Int) + ((List.range 128).map fun i =>
          Int.bmod ((row.getD i 0 : Nat) % 256 : Int) 256 * Int.bmod (elem 8 (Tab.get 0 b.rows i) c : Nat) 256).sum) % (2 ^ 32 : Int) := by
  have hsum : dotInt (row.map (signed 8)) ((b.column c).map (signed 8)) = ((List.range 128).map fun i =>
          Int.bmod ((row.getD i 0 : Nat) % 256 : Int) 256 * Int.bmod (elem 8 (Tab.get 0 b.rows i) c : Nat) 256).sum := by
    rw [dotInt_eq_sum]
    conv_lhs => rw [eq_map_getD 0 hrow]
    rw [BSlot.column, List.map_map, List.map_map, List.zipWith_map, List.zipWith_self]
    refine congrArg List.sum (List.map_congr_left fun i _ => ?_)
    simp only [Function.comp, signed_eq_bmod (show 0 < 8 by decide)]
    have : ((2 : Nat) ^ 8) = 256 := rfl
    rw [this, show (256 : Int) = ((256 : Nat) : Int) from rfl, Int.emod_bmod]
  unfold BSlot.column at hsum
  simp only [pushRow, rowElem_ofElems hc, if_true, tileElem_eq]
  rw [List.getD_eq_getElem _ _ (by simpa using hc), List.getElem_map, List.getElem_range, hsum]
  exact wrap_mod _

end Sys2Proof.Machine
end

section
/-! The alignment of a block and the block sums (R222, R223). -/

namespace Sys2Proof

open Machine

/-! Exact values as rational numbers (R178). -/

/-- The value of a finite number; a special one counts as zero. -/
def FVal.value : FVal → ℚ
  | .fin neg m e => (if neg then -1 else 1) * m * 2 ^ e
  | _ => 0

/-- A special value: no finite number. -/
def FVal.special : FVal → Bool
  | .fin _ _ _ => false
  | _ => true

/-- The leading exponent of a finite number other than zero (R222). -/
def FVal.lead : FVal → Option Int
  | .fin _ m e => if m = 0 then none else some ((Nat.log2 m : Int) + e)
  | _ => none

/-- A finite number cut toward zero to a multiple of 2^q, as that multiple (R222). -/
def FVal.cut (q : Int) : FVal → Int
  | .fin neg m e => if neg then -(roundMag 1 neg m (e - q) : Int) else roundMag 1 neg m (e - q)
  | _ => 0

end Sys2Proof

namespace Sys2Proof.Machine

theorem fval_of_finite {x : FVal} (h : x.special = false) : Spec.fval x = some x.value := by
  cases x with
  | fin neg m e => rfl
  | nan => exact nomatch h
  | inf neg => exact nomatch h

theorem fval_eq_none_iff {x : FVal} : Spec.fval x = none ↔ x.special = true := by
  cases x with
  | fin neg m e => exact ⟨nofun, nofun⟩
  | nan => exact ⟨fun _ => rfl, fun _ => rfl⟩
  | inf neg => exact ⟨fun _ => rfl, fun _ => rfl⟩

theorem none_mem_map_fval {l : List FVal} : none ∈ l.map Spec.fval ↔ l.any FVal.special = true := by
  rw [List.mem_map, List.any_eq_true]
  exact exists_congr fun x => and_congr_right fun _ => fval_eq_none_iff

theorem reduceOption_map_fval {l : List FVal} (h : l.any FVal.special = false) : (l.map Spec.fval).reduceOption = l.map FVal.value := by
  have hl : l.map Spec.fval = (l.map FVal.value).map some := by
    rw [List.map_map]
    exact List.map_congr_left fun x hx => fval_of_finite (Bool.eq_false_iff.2 (List.any_eq_false.1 h x hx))
  rw [hl, List.reduceOption, List.filterMap_map]
  simp

/-- The absolute value of a number. -/
theorem abs_value (neg : Bool) (m : Nat) (e : Int) : |(FVal.fin neg m e).value| = m * 2 ^ e := by
  have h : (0 : ℚ) ≤ m * 2 ^ e := by positivity
  cases neg
  · simp [FVal.value, abs_of_nonneg h]
  · simp [FVal.value, abs_of_nonneg h]

theorem value_eq_zero_iff {neg : Bool} {m : Nat} {e : Int} : (FVal.fin neg m e).value = 0 ↔ m = 0 := by
  rw [← abs_eq_zero, abs_value]
  simp [zpow_ne_zero]

/-- The leading exponent of a number is that of its value. -/
theorem log_value {m : Nat} (hm : m ≠ 0) (e : Int) : Int.log 2 ((m : ℚ) * 2 ^ e) = (Nat.log2 m : Int) + e := by
  have he : (0 : ℚ) < 2 ^ e := by positivity
  have hpos : (0 : ℚ) < m * 2 ^ e := by positivity
  have hlo : (2 : ℚ) ^ (Nat.log2 m) ≤ m := by exact_mod_cast Nat.log2_self_le hm
  have hhi : (m : ℚ) < 2 ^ (Nat.log2 m + 1) := by exact_mod_cast Nat.lt_log2_self
  refine le_antisymm ?_ ?_
  · have hlt : (m : ℚ) * 2 ^ e < ((2 : Nat) : ℚ) ^ ((Nat.log2 m : Int) + e + 1) := by
      rw [add_right_comm, Nat.cast_ofNat, zpow_add₀ two_ne_zero]
      exact mul_lt_mul_of_pos_right (by exact_mod_cast hhi) he
    have := (Int.lt_zpow_iff_log_lt Nat.one_lt_two hpos).1 hlt
    omega
  · refine (Int.zpow_le_iff_le_log Nat.one_lt_two hpos).1 ?_
    rw [Nat.cast_ofNat, zpow_add₀ two_ne_zero]
    exact mul_le_mul_of_nonneg_right (by exact_mod_cast hlo) he.le

/-- A magnitude cut toward zero is the integer below its value. -/
theorem roundMag_eq_floor (neg : Bool) (m : Nat) (e : Int) : (roundMag 1 neg m e : Int) = ⌊(m : ℚ) * 2 ^ e⌋ := by
  cases e with
  | ofNat k =>
    have h : (m : ℚ) * 2 ^ (Int.ofNat k) = ((m * 2 ^ k : Nat) : ℚ) := by simp
    rw [h, Int.floor_natCast]
    rfl
  | negSucc k =>
    rw [roundMag_trunc (Int.negSucc_lt_zero k), zpow_negSucc, ← div_eq_mul_inv]
    have h : (2 : ℚ) ^ (k + 1) = ((2 ^ (k + 1) : Nat) : ℚ) := by push_cast; rfl
    rw [h, Rat.floor_natCast_div_natCast]
    rfl

end Sys2Proof.Machine
end

section
/-! Blocks aligned and multiplied (R222, R223). -/

namespace Sys2Proof.Machine

/-! The leading exponent of a block. -/

/-- The greater of a leading exponent and what stands before it. -/
def leadMax (b : Option Int) (x : FVal) : Option Int :=
  match x.lead, b with
  | none, b => b
  | some v, none => some v
  | some v, some b => some (max v b)

theorem leadMax_none {x : FVal} {b : Option Int} (h : x.lead = none) : leadMax b x = b := by simp [leadMax, h]
theorem leadMax_first {x : FVal} {v : Int} (h : x.lead = some v) : leadMax none x = some v := by simp [leadMax, h]
theorem leadMax_some {x : FVal} {v b : Int} (h : x.lead = some v) : leadMax (some b) x = some (max b v) := by
  simp [leadMax, h, max_comm]

theorem foldl_leadMax_some (l : List FVal) (b : Int) : l.foldl leadMax (some b) = some ((l.filterMap FVal.lead).foldl max b) := by
  induction l generalizing b with
  | nil => rfl
  | cons x l ih =>
    rw [List.foldl_cons]
    cases h : x.lead with
    | none => rw [List.filterMap_cons_none h, leadMax_none h, ih]
    | some v => rw [List.filterMap_cons_some h, leadMax_some h, List.foldl_cons, ih]

theorem foldl_leadMax (l : List FVal) : l.foldl leadMax none = (l.filterMap FVal.lead).max? := by
  induction l with
  | nil => rfl
  | cons x l ih =>
    rw [List.foldl_cons]
    cases h : x.lead with
    | none => rw [List.filterMap_cons_none h, leadMax_none h, ih]
    | some v => rw [List.filterMap_cons_some h, leadMax_first h, foldl_leadMax_some, List.max?_cons']

/-- A block aligned at its leading exponent, if it has one (R222). -/
def alignAt (w : Nat) (l : List FVal) : Option Int → List Int × Int × Bool
  | none => (l.map fun _ => 0, 0, l.any FVal.special)
  | some e => (l.map (FVal.cut (e + 1 - w)), e + 1 - w, l.any FVal.special)

theorem alignBlock_eq_alignAt (w : Nat) (l : List FVal) : alignBlock w l = alignAt w l (l.filterMap FVal.lead).max? := by
  rw [← foldl_leadMax]
  rfl

/-! An aligned block, as numbers. -/

theorem log_values_eq_leads (l : List FVal) :
    ((l.map FVal.value).filter (· ≠ 0)).map (fun x => Int.log 2 |x|) = l.filterMap FVal.lead := by
  induction l with
  | nil => rfl
  | cons x l ih =>
    rw [List.map_cons, List.filter_cons]
    cases x with
    | nan => rw [if_neg (by simp [FVal.value]), List.filterMap_cons_none rfl, ih]
    | inf neg => rw [if_neg (by simp [FVal.value]), List.filterMap_cons_none rfl, ih]
    | fin neg m e =>
      by_cases hm : m = 0
      · have hlead : (FVal.fin neg m e).lead = none := if_pos hm
        rw [if_neg (by simpa [value_eq_zero_iff] using hm), List.filterMap_cons_none hlead, ih]
      · have hlead : (FVal.fin neg m e).lead = some ((Nat.log2 m : Int) + e) := if_neg hm
        rw [if_pos (by simpa [value_eq_zero_iff] using hm), List.filterMap_cons_some hlead, List.map_cons, ih, abs_value, log_value hm]

/-- A number cut toward zero (R222). -/
theorem cut_eq (q : Int) (x : FVal) :
    (if x.value < 0 then -1 else 1) * (⌊|x.value| / 2 ^ q⌋ : ℚ) * 2 ^ q = (x.cut q : ℚ) * 2 ^ q := by
  cases x with
  | nan => simp [FVal.value, FVal.cut]
  | inf neg => simp [FVal.value, FVal.cut]
  | fin neg m e =>
    have hfloor : ⌊|(FVal.fin neg m e).value| / 2 ^ q⌋ = (roundMag 1 neg m (e - q) : Int) := by
      rw [roundMag_eq_floor, abs_value, zpow_sub₀ two_ne_zero, mul_div_assoc]
    rw [hfloor]
    have hp : (0 : ℚ) ≤ m * 2 ^ e := by positivity
    cases neg with
    | false => rw [if_neg (by simpa [FVal.value] using hp), one_mul]; rfl
    | true =>
      by_cases hm : m = 0
      · simp [hm, FVal.cut, roundMag_zero]
      · have hneg : (FVal.fin true m e).value < 0 := by
          have : (0 : ℚ) < m * 2 ^ e := by positivity
          simpa [FVal.value] using this
        rw [if_pos hneg, FVal.cut, if_pos rfl]
        push_cast
        ring

theorem aligned_eq (w : Nat) (l : List FVal) : Spec.aligned w (l.map FVal.value) =
    (alignBlock w l).1.map fun z : Int => (z : ℚ) * 2 ^ (alignBlock w l).2.1 := by
  rw [Spec.aligned, log_values_eq_leads, alignBlock_eq_alignAt]
  cases (l.filterMap FVal.lead).max? with
  | none =>
    simp only [alignAt, List.map_map]
    exact List.map_congr_left fun x _ => by simp
  | some e =>
    simp only [alignAt, List.map_map]
    exact List.map_congr_left fun x _ => cut_eq (e + 1 - w) x

theorem alignBlock_special (w : Nat) (l : List FVal) : (alignBlock w l).2.2 = l.any FVal.special := by
  rw [alignBlock_eq_alignAt]
  cases (l.filterMap FVal.lead).max? with
  | none => rfl
  | some e => rfl

/-! Block sums (R223). -/

theorem sum_scaled_products (a b : List Int) (q r : Int) :
    (List.zipWith (· * ·) (a.map fun z : Int => (z : ℚ) * 2 ^ q) (b.map fun z : Int => (z : ℚ) * 2 ^ r)).sum = (dotInt a b : ℚ) * 2 ^ (q + r) := by
  induction a generalizing b with
  | nil => simp [dotInt]
  | cons x a ih =>
    cases b with
    | nil => simp [dotInt]
    | cons y b =>
      rw [List.map_cons, List.map_cons, List.zipWith_cons_cons, List.sum_cons, ih, dotInt, zpow_add₀ two_ne_zero]
      push_cast
      ring

/-- The sum of products of two blocks, aligned (R223). -/
def blockValue (wa wb : Nat) (a b : List FVal) : FVal :=
  if (alignBlock wa a).2.2 || (alignBlock wb b).2.2 then .nan
  else
    let v := dotInt (alignBlock wa a).1 (alignBlock wb b).1
    .fin (v < 0) v.natAbs ((alignBlock wa a).2.1 + (alignBlock wb b).2.1)

theorem fval_of_int (v e : Int) : Spec.fval (.fin (v < 0) v.natAbs e) = some ((v : ℚ) * 2 ^ e) := by
  have h : ((if decide (v < 0) = true then -1 else 1) * (v.natAbs : ℚ)) = v := by
    by_cases hv : v < 0
    · have : ((v.natAbs : Int) : ℚ) = ((-v : Int) : ℚ) := congrArg _ (by omega)
      rw [decide_eq_true hv, if_pos rfl, ← Int.cast_natCast, this]
      push_cast
      ring
    · have : ((v.natAbs : Int) : ℚ) = (v : ℚ) := congrArg _ (by omega)
      rw [decide_eq_false hv, if_neg Bool.false_ne_true, ← Int.cast_natCast, this, one_mul]
  rw [Spec.fval, h]

theorem blockValue_blockSum (wa wb : Nat) (a b : List FVal) :
    Spec.blockSum wa wb (a.map Spec.fval) (b.map Spec.fval) (blockValue wa wb a b) := by
  unfold Spec.blockSum blockValue
  rw [alignBlock_special, alignBlock_special]
  by_cases hs : (a.any FVal.special || b.any FVal.special) = true
  · rw [if_pos hs, if_pos (by simpa [none_mem_map_fval] using hs)]
  · obtain ⟨ha, hb⟩ : a.any FVal.special = false ∧ b.any FVal.special = false := by simpa using hs
    rw [if_neg hs, if_neg (by simp [none_mem_map_fval, ha, hb])]
    refine ⟨_, _, _, rfl, fun h0 => ?_, ?_⟩
    · simp [Int.natAbs_eq_zero.1 h0]
    · rw [fval_of_int, reduceOption_map_fval ha, reduceOption_map_fval hb, aligned_eq, aligned_eq, sum_scaled_products]

end Sys2Proof.Machine
end

section
/-! A row of an f32 tile after a push has added to it (R223). -/

namespace Sys2Proof.Machine

/-- An order of a list's elements holds them all once (R223). -/
theorem permute_perm (n k : Nat) (l : List Nat) (h : l.length = k) : (permute n k l).Perm l := by
  induction k generalizing n l with
  | zero =>
    rw [List.eq_nil_of_length_eq_zero h]
    exact .refl []
  | succ k ih =>
    cases l with
    | nil => exact nomatch h
    | cons x r =>
      have hi : n % (x :: r).length < (x :: r).length := Nat.mod_lt _ (Nat.succ_pos _)
      rw [permute, List.getD_eq_getElem _ _ hi]
      · exact ((ih _ _ (by rw [List.length_eraseIdx_of_lt hi, h]; rfl)).cons _).trans (List.getElem_cons_eraseIdx_perm hi)
      · exact nofun

/-- A code of f32 has 32 bits (R189). -/
theorem encodeIeee_f32_lt (x : FVal) : encodeIeee 9 0 x < 2 ^ 32 := by
  have hsign (neg : Bool) : (if neg = true then 2 ^ (expBits 9 + fracBits 9) else 0) ≤ 2 ^ 31 := by cases neg <;> decide
  have hlim : (2 ^ expBits 9 - 1) * 2 ^ fracBits 9 < 2 ^ 31 := by decide
  cases x with
  | nan => exact (by decide : ieeeNan 9 < 2 ^ 32)
  | inf neg =>
    cases neg
    · exact (by decide : ieeeInf 9 false < 2 ^ 32)
    · exact (by decide : ieeeInf 9 true < 2 ^ 32)
  | fin neg m e =>
    have := hsign neg
    simp only [encodeIeee, if_true]
    generalize (2 ^ expBits 9 - 1) * 2 ^ fracBits 9 = lim at hlim ⊢
    split
    · omega
    split
    · omega
    · omega

/-- A block of a list of 128, by its elements. -/
theorem block32_eq {α : Type} {j : Nat} (d : α) {l : List α} (hl : l.length = 128) (hj : j < 4) :
    block32 j l = (List.range 32).map fun k => l.getD (32 * j + k) d := by
  have hlen : (block32 j l).length = 32 := by
    rw [block32, List.length_take, List.length_drop, hl]
    omega
  refine List.ext_getElem (by simp [hlen]) fun k h1 h2 => ?_
  have hk : 32 * j + k < l.length := by omega
  rw [List.getElem_map, List.getElem_range, List.getD_eq_getElem _ _ hk]
  simp [block32]

/-- The bits kept of the formats of a push of an f32 tile (R221). -/
theorem widthA_eq {fa : Nat} (h : fa ∈ [7, 10, 11]) : widthA fa = Spec.keptBits fa := by
  simp only [List.mem_cons, List.not_mem_nil, or_false] at h
  rcases h with rfl | rfl | rfl
  all_goals rfl
theorem widthB_eq {fb : Nat} (h : fb ∈ [10, 11]) : widthB fb = Spec.keptBits fb := by
  simp only [List.mem_cons, List.not_mem_nil, or_false] at h
  rcases h with rfl | rfl
  all_goals rfl

section
variable (fa : Nat) (ba : Int) (row : List Nat) (b : BSlot)

/-- The sum of block j of a push's row and column c of its slot (R223). -/
def pushBlock (c j : Nat) : FVal :=
  blockValue (widthA fa) (widthB (tagFmt b.dtag)) ((block32 j row).map (fmtValue fa ba))
    ((block32 j (b.column c)).map (fmtValue (tagFmt b.dtag) (tagBias b.dtag)))

/-- One block sum taken into an element (R223). -/
def addBlock (p : FVal) (y : Nat) : Nat := encodeIeee 9 0 (FVal.add 0 (ieeeValue 9 y) (roundF32 p))

variable {fa ba row b} {order : Nat → Nat} {old : BitVec 4096} {c : Nat}

/-- An element after its four block sums is a code. -/
theorem foldl_addBlock_lt {p : Nat → FVal} {l : List Nat} {y : Nat} (hy : y < 2 ^ 32) : l.foldl (fun y j => addBlock (p j) y) y < 2 ^ 32 := by
  induction l generalizing y with
  | nil => exact hy
  | cons j l ih => exact ih (encodeIeee_f32_lt ..)

/-- An element of an f32 row after a push (R223). -/
theorem pushRow_f32 (hc : c < 128) : (pushRow false fa ba row b order old).toNat / 2 ^ (32 * c) % 2 ^ 32 =
    (permute (order c) 4 [0, 1, 2, 3]).foldl (fun y j => addBlock (pushBlock fa ba row b c j) y) (old.toNat / 2 ^ (32 * c) % 2 ^ 32) := by
  have hmem (j : Nat) (hj : j ∈ permute (order c) 4 [0, 1, 2, 3]) : j < 4 := by
    have := (permute_perm (order c) 4 [0, 1, 2, 3] rfl).mem_iff.1 hj
    simp only [List.mem_cons, List.not_mem_nil, or_false] at this
    omega
  have hold : old.toNat / 2 ^ (32 * c) % 2 ^ 32 < 2 ^ 32 := Nat.mod_lt _ (by decide)
  rw [← Nat.mod_eq_of_lt (foldl_addBlock_lt (p := pushBlock fa ba row b c) (l := permute (order c) 4 [0, 1, 2, 3]) hold)]
  simp only [pushRow, rowElem_ofElems hc, tileElem_eq]
  rw [List.getD_eq_getElem _ _ (by simpa using hc), List.getElem_map, List.getElem_range, if_neg Bool.false_ne_true]
  refine congrArg (· % 2 ^ 32) (List.foldl_ext _ _ _ fun y j hj => ?_)
  rw [List.getD_eq_getElem _ _ (by simpa using hmem j hj), List.getElem_map, List.getElem_range]
  rfl

end

end Sys2Proof.Machine
end

section
/-! The events of the matrix unit (R218, R222, R223, R226). -/

namespace Sys2Proof.Machine

section
variable {b : BSlot} {c j : Nat}

theorem column_length : (b.column c).length = 128 := by simp [BSlot.column]

/-- The values of a block of a column of a slot. -/
theorem columnBlock_values (hj : j < 4) (g : Nat → FVal) : ((block32 j (b.column c)).map g).map Spec.fval =
    (List.range 32).map fun k => Spec.fval (g (elem 8 (Tab.get 0 b.rows (32 * j + k)) c)) := by
  rw [block32_eq 0 column_length hj, List.map_map, List.map_map]
  refine List.map_congr_left fun k hk => ?_
  have hk : 32 * j + k < 128 := by
    have := List.mem_range.1 hk
    omega
  simp only [Function.comp]
  rw [List.getD_eq_getElem _ _ (by simpa [BSlot.column] using hk)]
  simp [BSlot.column]

/-- The values of a block of a row. -/
theorem rowBlock_values {row : List Nat} (hrow : row.length = 128) (hj : j < 4) (g : Nat → FVal) :
    ((block32 j row).map g).map Spec.fval = (List.range 32).map fun k => Spec.fval (g (row.getD (32 * j + k) 0)) := by
  rw [block32_eq 0 hrow hj, List.map_map, List.map_map]
  rfl

/-- A block sum of a push of an f32 tile (R221 to R223). -/
theorem pushBlock_blockSum {fa : Nat} {ba : Int} {row : List Nat} (hfa : fa ∈ [7, 10, 11]) (hfb : b.dtag.toNat % 16 ∈ [10, 11])
    (hrow : row.length = 128) (hj : j < 4) : Spec.blockSum (Spec.keptBits fa) (Spec.keptBits (b.dtag.toNat % 16))
      ((List.range 32).map fun k => Spec.fval (fmtValue fa ba (row.getD (32 * j + k) 0)))
      ((List.range 32).map fun k => Spec.fval (fmtValue (b.dtag.toNat % 16) (Spec.tagB b.dtag) (elem 8 (Tab.get 0 b.rows (32 * j + k)) c)))
      (pushBlock fa ba row b c j) := by
  rw [pushBlock, tagFmt_eq, tagBias_eq, widthA_eq hfa, widthB_eq hfb, ← rowBlock_values hrow hj, ← columnBlock_values hj]
  exact blockValue_blockSum ..

end

/-- Settles O26: the events of the matrix unit. -/
theorem matrixUnitEvents : Obligations.MatrixUnitEvents := by
  unfold Obligations.MatrixUnitEvents
  intro s core m k only hacts
  refine ⟨fun q hq hs hrel hrun hhead hdata hlim => ?start, fun c l hl hs hd hg hlen hgen hc => ?load, fun hp hdue => ?row,
    fun hslot _ htag => ?i32, fun hslot _ htag hfa => ?f32, fun hp hl hrows => ?consume⟩
  case start =>
    show Host.Outcome.next ((s.settleMx core).startEntry core q) = _
    rw [settleMx_eq_self hacts, startEntry_starts hq (mayStart_of hacts hs hrel hrun hhead hlim) hdata]
    rfl
  case load =>
    refine ⟨_, mloadComplete_eq hacts hl hs hd hg hgen hc, ?_⟩
    rw [bslot_modMops, mops_modMops, mops_setBslot, bslot_setBslot rfl]
    exact ⟨fun i hi => loadedSlot_rows (hi.trans_eq hlen.symm), rfl, rfl⟩
  case row => exact pushRowAdded_eq hacts hp hdue
  case i32 =>
    intro t u r codes
    have hu : u = s.pushedTile core m := rowAdd_tile hslot
    rw [hu]
    refine ⟨fun q hq => pushedTile_other hq, pushedTile_tag, fun c hc => ?_⟩
    have hfmt : (tagFmt m.tag == 5) = true := by rw [tagFmt_eq, htag]; rfl
    have hrow : Tab.get 0 (s.pushedTile core m).rows r = s.pushedRow core m := pushedTile_row
    rw [hrow, State.pushedRow, hfmt]
    have := pushRow_i32 (fa := m.fmt.toNat) (ba := m.bias.toInt) (b := s.bslot core m.b.toNat) (order := Config.sumOrder m.id m.row)
      (old := t.row m.row) (pushCodes_length (s := s) (core := core) (m := m)) hc
    push_cast at this ⊢
    exact this
  case f32 =>
    intro t u x r a b block hfb
    have hu : u = s.pushedTile core m := rowAdd_tile hslot
    rw [hu]
    refine ⟨fun q hq => pushedTile_other hq, pushedTile_tag, fun c hc => ?_⟩
    have hfmt : (tagFmt m.tag == 5) = false := by rw [htag]; decide
    have hrow : Tab.get 0 (s.pushedTile core m).rows r = s.pushedRow core m := pushedTile_row
    refine ⟨permute (Config.sumOrder m.id m.row c) 4 [0, 1, 2, 3],
      pushBlock m.fmt.toNat m.bias.toInt (s.pushCodes core m).1 x c, permute_perm _ 4 _ rfl,
      fun j hj => pushBlock_blockSum hfa hfb pushCodes_length hj, ?_⟩
    rw [hrow, State.pushedRow, hfmt]
    exact pushRow_f32 hc
  case consume =>
    have hf : m.flying = false := by
      have htotal : m.total ≤ m.rows := hrows
      simp [MOp.flying, htotal]
    exact ⟨fun hc => operandsConsumed_eq hp hc hf, fun hc => pushComplete_eq hacts hp hc hf⟩

end Sys2Proof.Machine
end

section
/-! Remote accesses that a handle allows (R123, R285, R291), and the operations of rm under a true guard. -/

namespace Sys2Proof.Machine

/-- A remote access that its handle allows is given its address (R123, R291). -/
theorem formAddr_of_remotely {h : Handle} {off : Word} {f : OpM} {n : Nat} {rd wr : Bool}
    (ha : Spec.remotely h (Spec.ea h off f n) n rd wr) :
    formAddr h off (dispOf f) n n n rd wr false true false = .ok (Spec.ea h off f n, Spec.place h (Spec.ea h off f n)) := by
  obtain ⟨hst, hps, hlo, hhi, hal, hrd, hwr⟩ := ha
  rw [formAddr_eq, if_neg (by simp [hst]), if_neg (by simp [hst]), if_neg fun x => Bool.false_ne_true x.1,
    if_neg fun x => Bool.false_ne_true x.2.symm, if_neg fun x => hps x.1, if_neg (not_or.2 ⟨hlo.not_gt, hhi.not_gt⟩),
    if_neg (not_not.2 hal), if_neg, if_neg]
  · rintro ⟨hw, hf⟩
    exact absurd (hwr hw) (by simp [hf])
  · rintro ⟨hr, hf⟩
    exact absurd (hrd hr) (by simp [hf])

/-- The offset of a request that does not name the scratchpad: in its window, or the physical address (R285, R291). -/
theorem remoteOff_place {h : Handle} (hps : h.ps ≠ 15) (e : Nat) : remoteOff h (e, Spec.place h e) =
    if h.ps = 14 then e % 2 ^ 32 else h.pfn.toNat * 4096 + (e - Spec.pageOf h) := by
  simp only [remoteOff, Handle.fabric, beq_iff_eq, Spec.place, if_neg hps]

section
variable {s : State} {i : Instr} {f : OpM} {t : Src} {l : Wide}

/-- An operation of rm below its pitch's limit is its action on the counted state (log 36). -/
theorem rmOp_acts {op kind max : Nat} {act : State → Res State} (hv : i.view = some (.ofM 12 op f))
    (hw : Spec.within s i f.g kind max) :
    (inSlot 2 do s.opens i; let s0 ← s.limit kind max 12; if !s.guard f.g then pure s0 else act s0) =
      inSlot 2 (act (Spec.counted s kind)) := by
  obtain ⟨hc, hon, hroom⟩ := hw
  exact limited_acts hv rfl rfl hc hon hroom

/-- A remote load that its handle allows, with room among those outstanding, waits for its reply and is requested (R291). -/
theorem remoteLoad_of_remotely {op n : Nat} {kind : BitVec 6} {wb : Option Reg} (hv : i.view = some (.ofM 12 op f))
    (hc : i.check = none) (hon : Spec.on s f.g) (ht : s.readT f.t = .ok t) (hh : Spec.held s f.h.toNat)
    (hroom : s.me.remote.length < 16)
    (ha : Spec.remotely (s.handle f.h.toNat) (Spec.ea (s.handle f.h.toNat) t.word f n) n true false) :
    let h := s.handle f.h.toNat
    let r := Spec.remote s h (Spec.ea h t.word f n) n kind 0 0 0 0
    s.remoteLoad i f n kind wb = .ok (((({ s with fresh := s.fresh + 1 } : State).pendOn (.rl 0xC :: wb.toList) (s.fresh + 1) 12
      (loadWaits s.me.rel (remoteItems s.me.rel) (s.fresh + 1) r)).modMe fun c =>
        { c with remote := c.remote ++ [(s.fresh + 1, c.pitch, s.cur.seq)] }).request s.cid (s.fresh + 1) r) := by
  intro h r
  obtain ⟨hst, hps, -⟩ := id ha
  rw [State.remoteLoad, guarded_acts (g := f.g) hv rfl rfl hc hon, ht, bind_of_ok, useHandle_valid hst hh,
    bind_of_ok, formAddr_of_remotely ha, bind_of_ok, if_neg (Nat.not_le.2 hroom), remoteOff_place hps]
  rfl

/-- A remote store that its handle allows waits for the release with its bytes (R291). -/
theorem remoteStore_of_remotely {op n : Nat} {b : BitVec 2} {kind : BitVec 6} (hv : i.view = some (.ofM 12 op f))
    (hw : Spec.within s i f.g 4 16) (ht : s.readT f.t = .ok t) (hl : s.readLatch 12 = .ok l) (hh : Spec.held s f.h.toNat)
    (ha : Spec.remotely (s.handle f.h.toNat) (Spec.ea (s.handle f.h.toNat) l.lo f n) n false true) :
    let h := s.handle f.h.toNat
    s.remoteStore i b f n kind = .ok ((Spec.tokened s 4).addRel (s.fresh + 1) 12 (.remote (Spec.remote s h (Spec.ea h l.lo f n) n
      kind b 0 (if n = 8 then t.word.setWidth 1024 else t.wide.data) 0))) := by
  intro h
  obtain ⟨hst, hps, -⟩ := id ha
  rw [State.remoteStore, limRm, rmOp_acts hv hw, ht, bind_of_ok, hl, bind_of_ok, useHandle_valid hst hh, bind_of_ok,
    formAddr_of_remotely ha, bind_of_ok, remoteOff_place hps]
  rfl

end

end Sys2Proof.Machine
end

section
/-! The control word of an rop (R297). -/

namespace Sys2Proof.Machine

theorem kopOf_eq (w : Word) : kopOf w = w.toNat % 256 := by
  simp [kopOf, field_eq_div_mod]

/-- A control word without reserved bits and with a KOP of the table is defined (R297). -/
theorem kopOk_of_defined {w : Word} (hz : w.toNat / 2 ^ 29 = 0)
    (hk : (1 ≤ w.toNat % 256 ∧ w.toNat % 256 ≤ 6) ∨ (64 ≤ w.toNat % 256 ∧ w.toNat % 256 ≤ 127)) : kopOk w = true := by
  simp only [kopOk, field_eq_div_mod, hz, kopOf_eq, Nat.zero_mod, beq_self_eq_true, Bool.true_and, Bool.or_eq_true,
    Bool.and_eq_true, decide_eq_true_eq]
  exact hk

/-- The low n bits of a value, in its width. -/
theorem and_lowMask_eq {w : Nat} (x : BitVec w) (n : Nat) : x &&& BitVec.ofNat w (2 ^ n - 1) = (x.setWidth n).setWidth w := by
  ext j hj
  simp [← BitVec.getLsbD_eq_getElem, BitVec.getLsbD_ofNat, Nat.testBit_two_pow_sub_one, hj, Bool.and_comm]

end Sys2Proof.Machine
end

section
/-! The bytes that a load takes from its context's own remote writes (R291). -/

namespace Sys2Proof.Machine

/-- The byte at an address of a space that a context's own remote writes, oldest first, hold for its loads (R291): that of the youngest
write there, but none of an rop. -/
def ownByte (l : List RemoteOp) (sp : Option (BitVec 20)) (a : Nat) : Option Byte :=
  match l.reverse.find? fun r => r.isWrite && r.covers sp a with
  | none => none
  | some r => if r.kind = 5 then none else some (r.data.extractLsb' (8 * (a - r.off)) 8)

section
variable {l : List RemoteOp} {sp : Option (BitVec 20)} {off : Nat}

/-- One more byte of a load. -/
theorem ownBytes_succ (n : Nat) : ownBytes l sp off (n + 1) =
    match ownByte l sp (off + n) with
    | none => ownBytes l sp off n
    | some b => ((ownBytes l sp off n).1 ||| ((1 : BitVec 128) <<< n),
        (ownBytes l sp off n).2 ||| ((b.setWidth 1024 : Lanes) <<< (8 * n))) := by
  rw [ownBytes, List.range_succ, List.foldl_append, List.foldl_cons, List.foldl_nil, ← ownBytes, ownByte]
  cases l.reverse.find? fun r => r.isWrite && r.covers sp (off + n) with
  | none => rfl
  | some r =>
    dsimp only
    split
    · rfl
    · rfl

/-- Bit n of a mask. -/
theorem getLsbD_one_shiftLeft {i : Nat} (hi : i < 128) (n : Nat) : ((1 : BitVec 128) <<< n).getLsbD i = decide (i = n) := by
  rw [BitVec.getLsbD_shiftLeft, show (1 : BitVec 128) = 1#128 from rfl, BitVec.getLsbD_one, Bool.eq_iff_iff]
  simp only [decide_eq_true hi, Bool.true_and, Bool.and_eq_true, Bool.not_eq_true', decide_eq_false_iff_not, decide_eq_true_eq]
  omega

/-- A byte put in place n of a wide value. -/
theorem getLsbD_byte_shiftLeft (b : Byte) {j : Nat} (hj : j < 1024) (n : Nat) :
    ((b.setWidth 1024 : Lanes) <<< (8 * n)).getLsbD j = (decide (j / 8 = n) && b.getLsbD (j % 8)) := by
  rw [BitVec.getLsbD_shiftLeft, BitVec.getLsbD_setWidth]
  rcases eq_or_ne (j / 8) n with rfl | hne
  · have hlo : ¬j < 8 * (j / 8) := by omega
    have hsub : j - 8 * (j / 8) = j % 8 := by omega
    have hin : j % 8 < 1024 := by omega
    simp [hj, hlo, hsub, hin]
  · by_cases h : j < 8 * n
    · simp [h, hne]
    · rw [BitVec.getLsbD_of_ge b (j - 8 * n) (by omega)]
      simp [hne]

/-- The mask of a load names the bytes that its context's writes hold. -/
theorem getLsbD_ownBytes_mask {i : Nat} (hi : i < 128) (n : Nat) :
    (ownBytes l sp off n).1.getLsbD i = (decide (i < n) && (ownByte l sp (off + i)).isSome) := by
  induction n with
  | zero => simp [ownBytes]
  | succ n ih =>
    rw [ownBytes_succ]
    rcases eq_or_ne i n with rfl | hne
    · cases hb : ownByte l sp (off + i) with
      | none => simp [ih, hb]
      | some b =>
        rw [BitVec.getLsbD_or, getLsbD_one_shiftLeft hi]
        simp
    · have hlt : i < n + 1 ↔ i < n := by omega
      rw [decide_eq_decide.2 hlt, ← ih]
      cases ownByte l sp (off + n) with
      | none => rfl
      | some b => rw [BitVec.getLsbD_or, getLsbD_one_shiftLeft hi, decide_eq_false hne, Bool.or_false]

/-- The data of a load are the bytes that its context's writes hold, and zeros. -/
theorem getLsbD_ownBytes_data {j : Nat} (hj : j < 1024) (n : Nat) : (ownBytes l sp off n).2.getLsbD j =
    (decide (j / 8 < n) && ((ownByte l sp (off + j / 8)).getD 0).getLsbD (j % 8)) := by
  induction n with
  | zero => simp [ownBytes]
  | succ n ih =>
    rw [ownBytes_succ]
    rcases eq_or_ne (j / 8) n with rfl | hne
    · cases hb : ownByte l sp (off + j / 8) with
      | none => simp [ih, hb]
      | some b =>
        rw [BitVec.getLsbD_or, ih, getLsbD_byte_shiftLeft b hj]
        simp
    · have hlt : j / 8 < n + 1 ↔ j / 8 < n := by omega
      rw [decide_eq_decide.2 hlt, ← ih]
      cases ownByte l sp (off + n) with
      | none => rfl
      | some b => rw [BitVec.getLsbD_or, getLsbD_byte_shiftLeft b hj, decide_eq_false hne, Bool.false_and, Bool.or_false]

/-- Byte i of a load's own bytes. -/
theorem ownBytes_data_byte {i n : Nat} {b : Byte} (hi : i < n) (hn : n ≤ 128) (hb : ownByte l sp (off + i) = some b) :
    (ownBytes l sp off n).2.extractLsb' (8 * i) 8 = b := by
  ext k hk
  have hdiv : (8 * i + k) / 8 = i := by omega
  have hmod : (8 * i + k) % 8 = k := by omega
  rw [← BitVec.getLsbD_eq_getElem, BitVec.getLsbD_extractLsb', getLsbD_ownBytes_data (by omega), hdiv, hmod, hb]
  simp [hk, hi, BitVec.getLsbD_eq_getElem]

end

/-- A remote write is a request of kind 3, 4 or 5 (R291). -/
theorem isWrite_iff (w : RemoteOp) : w.isWrite = true ↔ w.kind.toNat ∈ [3, 4, 5] := by
  simp [RemoteOp.isWrite, ← BitVec.toNat_inj, or_assoc]

/-- A request that is a write and covers a byte (R291). -/
theorem writes_at_eq (w : RemoteOp) (sp : Option (BitVec 20)) (a : Nat) :
    (w.isWrite && w.covers sp a) = decide (w.kind.toNat ∈ [3, 4, 5] ∧ w.space = sp ∧ w.off ≤ a ∧ a < w.off + w.n) := by
  rw [Bool.eq_iff_iff, Bool.and_eq_true, isWrite_iff, RemoteOp.covers, decide_eq_true_eq]
  simp only [Bool.and_eq_true, beq_iff_eq, decide_eq_true_eq, and_assoc]

/-- A load as it is sent takes the bytes of the youngest of its context's writes that hold them, but no rop's (R291). -/
theorem withOwn_byte {r : RemoteOp} (hr : r.isLoad = true) (hn : r.n ≤ 128) (l : List RemoteOp) :
    let q := r.withOwn l
    ∀ i < r.n,
      match l.reverse.find? fun w => w.kind.toNat ∈ [3, 4, 5] ∧ w.space = r.space ∧ w.off ≤ r.off + i ∧
        r.off + i < w.off + w.n with
      | none => q.mask.getLsbD i = false
      | some w => q.mask.getLsbD i = decide (w.kind ≠ 5) ∧
          (w.kind ≠ 5 → q.data.extractLsb' (8 * i) 8 = w.data.extractLsb' (8 * (r.off + i - w.off)) 8) := by
  intro q i hi
  have hq : q = { r with mask := (ownBytes l r.space r.off r.n).1, data := (ownBytes l r.space r.off r.n).2 } := if_pos hr
  have hmask : q.mask.getLsbD i = (ownByte l r.space (r.off + i)).isSome := by
    rw [hq, getLsbD_ownBytes_mask (by omega), decide_eq_true hi, Bool.true_and]
  have hdata {b : Byte} (hb : ownByte l r.space (r.off + i) = some b) : q.data.extractLsb' (8 * i) 8 = b := by
    rw [hq]
    exact ownBytes_data_byte hi hn hb
  simp only [ownByte, writes_at_eq] at hmask hdata
  revert hmask hdata
  cases l.reverse.find? fun w => decide (w.kind.toNat ∈ [3, 4, 5] ∧ w.space = r.space ∧ w.off ≤ r.off + i ∧
    r.off + i < w.off + w.n) with
  | none => exact fun hmask _ => hmask
  | some w =>
    intro hmask hdata
    refine ⟨?_, fun hw => hdata (if_neg hw)⟩
    rw [hmask]
    dsimp only
    split
    · rename_i hw
      rw [decide_eq_false (not_not.2 hw)]
      rfl
    · rename_i hw
      rw [decide_eq_true hw]
      rfl

end Sys2Proof.Machine
end

section
/-! The remote operations issue (R248, R291, R297). -/

namespace Sys2Proof.Machine

/-- An rop under a defined control word that its handle allows waits for the release, its results for the reply (R291, R297). -/
theorem opRop_of_remotely {s : State} {f : OpM} {t : Src} {l : Wide} (hw : Spec.within s (.rop f) f.g 4 16)
    (hk : kopOk l.hi = true) (ht : s.readT f.t = .ok t) (hl : s.readLatch 12 = .ok l) (hh : Spec.held s f.h.toNat)
    (ha : Spec.remotely (s.handle f.h.toNat) (Spec.ea (s.handle f.h.toNat) l.lo f (kopSize (kopOf l.hi)))
      (kopSize (kopOf l.hi)) true true) :
    let h := s.handle f.h.toNat
    let n := kopSize (kopOf l.hi)
    opRop f s = .ok ((Spec.pended s 4 0xC 12 (wbV f.w)).addRel (s.fresh + 1) 12 (.remote
      (Spec.remote s h (Spec.ea h l.lo f n) n 5 0 l.hi ((t.wide.data.setWidth 512).setWidth 1024) 0))) := by
  intro h n
  have hdef : ¬(!kopOk l.hi) = true := by simp [hk]
  obtain ⟨hst, hps, -⟩ := id ha
  rw [opRop, limRm, rmOp_acts rfl hw, ht, bind_of_ok, hl, bind_of_ok, if_neg hdef]
  dsimp only
  rw [useHandle_valid hst hh, bind_of_ok, formAddr_of_remotely ha, bind_of_ok, remoteOff_place hps, and_lowMask_eq]
  rfl

/-- R291: rld and rldv wait for their reply and are requested. -/
theorem remoteLoadIssues : Spec.RemoteLoadIssues := by
  intro f s t hon ht hh hroom h
  simp only [List.forall_mem_cons, List.not_mem_nil, false_implies, implies_true, and_true]
  have h8 : 8 ≤ 128 := by decide
  refine ⟨fun hc ha => ⟨?_, withOwn_byte (r := Spec.remote ..) rfl h8⟩,
    fun hc ha => ⟨?_, withOwn_byte (r := Spec.remote ..) rfl le_rfl⟩⟩
  all_goals exact exec_of_opOf (v := .ofM 12 _ f) rfl (remoteLoad_of_remotely rfl hc hon ht hh hroom ha)

/-- R248, R291, R297: rst, rstv, rop, bclose and rdrain wait for the release. -/
theorem remoteWritesIssue : Spec.RemoteWritesIssue := by
  intro b f s t l ht hl hh h off w kop
  refine ⟨?stores, fun hw hz hk => ?rop, fun hw => ?bclose, fun hw hquiet => ?rdrain⟩
  case stores =>
    simp only [List.forall_mem_cons, List.not_mem_nil, false_implies, implies_true, and_true]
    refine ⟨fun hw ha => ?_, fun hw ha => ?_⟩
    all_goals exact exec_of_opOf (v := .ofM 12 _ f) rfl (remoteStore_of_remotely rfl hw ht hl hh ha)
  case rop =>
    intro n ha
    have hn : kopSize (kopOf l.hi) = n := by rw [kopOf_eq]; rfl
    rw [← hn] at ha ⊢
    exact exec_of_opOf (i := .rop f) (v := .ofM 12 _ f) rfl
      (opRop_of_remotely hw (kopOk_of_defined (w := l.hi) hz hk) ht hl hh ha)
  case bclose =>
    refine exec_of_opOf (i := .bclose b f) (v := .ofM 12 _ f) rfl ?_
    show opBclose b f s = _
    rw [opBclose, limRm, rmOp_acts (i := .bclose b f) rfl hw, ht, bind_of_ok]
    rfl
  case rdrain =>
    have hidle : ¬(!s.me.remote.isEmpty) = true := by simp [hquiet]
    refine exec_of_opOf (i := .rdrain f) (v := .ofM 12 _ f) rfl ?_
    show opRdrain f s = _
    rw [opRdrain, limFence, rmOp_acts (i := .rdrain f) rfl hw, if_neg hidle]
    rfl

/-- Settles O31: the remote loads, and the remote operations that wait for the release. -/
theorem remoteOperationsIssue : Obligations.RemoteOperationsIssue := ⟨remoteLoadIssues, remoteWritesIssue⟩

end Sys2Proof.Machine
end

section
/-! The pushes of the engine unit and cstat (R272 to R274, R282). -/

namespace Sys2Proof.Machine

section
variable {s : State} {f : OpM} {q : BitVec 3}

/-- A push of a well-formed packet to an enabled queue with room waits for its promise and for the release (R272 to R274). -/
theorem ecPush_waits {i : Instr} {op cmd : Nat} {t : Src} (hv : i.view = some (.ofM 11 op f)) (hw : Spec.within s i f.g 3 16)
    (ht : s.readT f.t = .ok t) (hround : Spec.rounding s) :
    let core := s.cur.core
    let x := s.eq core q.toNat
    let p := formPacket (t.val.data.setWidth 512) cmd s.me.bank.fmode (s.coreSlot core) (s.coreGen core) s.cur.ctx
    packetBad p = false → eqEn x.cfg = true → s.me.reserved q.toNat < eqSize x.cfg →
    s.widx core q.toNat - s.ridx core q.toNat +
      ((List.range 4).map fun k => (s.ctx (4 * core + k)).reserved q.toNat).sum < eqSize x.cfg →
    s.ecPush i cmd q f = .ok ((Spec.pended s 3 8 11 (s.wbS f.w)).addRel (s.fresh + 1) 11 (.engine q p)) := by
  intro core x p hp hen hown hall
  obtain ⟨hc, hon, hroom⟩ := hw
  have hen' : ¬(!eqEn x.cfg) = true := by simp [hen]
  rw [State.ecPush, limEc, limited_acts (g := f.g) hv rfl rfl hc hon hroom, ht, bind_of_ok, hround, bind_of_ok]
  dsimp only
  rw [if_neg (Bool.eq_false_iff.1 hp), if_neg hen', if_neg (Nat.not_le.2 hown), if_neg (Nat.not_le.2 hall)]
  rfl

/-- Each operation of R272 is the push of its command. -/
theorem opOf_pushes : ∀ e ∈ Spec.pushes, ∃ op, (e.1 q f).view = some (.ofM 11 op f) ∧
    opOf (e.1 q f) s = s.ecPush (e.1 q f) e.2 q f := by
  simp only [Spec.pushes, List.forall_mem_cons, List.not_mem_nil, false_implies, implies_true, and_true]
  refine ⟨?_, ?_, ?_, ?_, ?_, ?_, ?_⟩
  all_goals exact ⟨_, rfl, rfl⟩

/-- cstat lands the queue's state after eight cycles (R282). -/
theorem cstat_lands (hc : (Instr.cstat q f).check = none) (hon : Spec.on s f.g) :
    Spec.lands s (.cstat q f) 2 11 8 (Spec.writes s 8 f.w (s.cstatWord s.cur.core q.toNat)) := by
  refine exec_of_opOf (i := .cstat q f) (v := .ofM 11 _ f) rfl ?_
  show opCstat q f s = _
  rw [opCstat, guarded_acts (v := .ofM 11 _ f) (g := f.g) rfl rfl rfl hc hon, ← State.scalarWrites_eq]
  rfl

end

end Sys2Proof.Machine
end

section
/-! The packet a push forms (R272). -/

namespace Sys2Proof.Machine

/-- The bits of T that a push keeps. -/
def keptBits : Packet64 :=
  ~~~(BitVec.ofNat 512 (maskBits 64 64 + maskBits 45 19 + maskBits 40 4 + maskBits 36 2 + maskBits 32 4 + maskBits 29 3))

/-- The fields a push puts in. -/
def issuerBits (cmd mode : Nat) (slot : BitVec 4) (gen : BitVec 12) (ctx : Nat) : Nat :=
  cmd * 2 ^ 32 + mode * 2 ^ 36 + 2 ^ 45 + ctx * 2 ^ 46 + slot.toNat * 2 ^ 48 + gen.toNat * 2 ^ 52

section
variable (p : Packet64) {cmd mode ctx lo n : Nat} (slot : BitVec 4) (gen : BitVec 12)

theorem formPacket_eq : formPacket p cmd mode slot gen ctx =
    (p &&& keptBits) ||| BitVec.ofNat 512 (issuerBits cmd mode slot gen ctx) := rfl

theorem issuerBits_lt (hcmd : cmd < 16) (hmode : mode < 4) (hctx : ctx < 4) : issuerBits cmd mode slot gen ctx < 2 ^ 64 := by
  have hslot := slot.isLt
  have hgen := gen.isLt
  unfold issuerBits
  omega

/-- What a push puts in stands in the packet's header. -/
theorem toNat_issuerBits (hcmd : cmd < 16) (hmode : mode < 4) (hctx : ctx < 4) :
    (BitVec.ofNat 512 (issuerBits cmd mode slot gen ctx)).toNat = issuerBits cmd mode slot gen ctx := by
  have hheader : (64 : Nat) ≤ 512 := by decide
  have hlt := (issuerBits_lt slot gen hcmd hmode hctx).trans_le (Nat.pow_le_pow_right Nat.two_pos hheader)
  rw [BitVec.toNat_ofNat]
  exact Nat.mod_eq_of_lt hlt

/-- A field that a push fills has the issuer's value. -/
theorem formPacket_filled (hcmd : cmd < 16) (hmode : mode < 4) (hctx : ctx < 4) (hk : keptBits.extractLsb' lo n = 0#n) :
    ((formPacket p cmd mode slot gen ctx).extractLsb' lo n).toNat = issuerBits cmd mode slot gen ctx / 2 ^ lo % 2 ^ n := by
  rw [formPacket_eq, BitVec.extractLsb'_or, BitVec.extractLsb'_and, hk, BitVec.and_zero, BitVec.zero_or,
    BitVec.extractLsb'_toNat, toNat_issuerBits slot gen hcmd hmode hctx, Nat.shiftRight_eq_div_pow]

/-- A field that a push does not fill is the packet's. -/
theorem formPacket_kept (hcmd : cmd < 16) (hmode : mode < 4) (hctx : ctx < 4) (hk : keptBits.extractLsb' lo n = BitVec.allOnes n)
    (hi : issuerBits cmd mode slot gen ctx / 2 ^ lo % 2 ^ n = 0) :
    (formPacket p cmd mode slot gen ctx).extractLsb' lo n = p.extractLsb' lo n := by
  have hzero : (BitVec.ofNat 512 (issuerBits cmd mode slot gen ctx)).extractLsb' lo n = 0#n := BitVec.eq_of_toNat_eq <| by
    rw [BitVec.extractLsb'_toNat, toNat_issuerBits slot gen hcmd hmode hctx, Nat.shiftRight_eq_div_pow, hi]
    rfl
  rw [formPacket_eq, BitVec.extractLsb'_or, BitVec.extractLsb'_and, hk, BitVec.and_allOnes, hzero, BitVec.or_zero]

/-- R272: the packet keeps its body and the header's waits and signals, and names its command, rounding mode and issuer. -/
theorem formPacket_fields (hcmd : cmd < 16) (hmode : mode < 4) (hctx : ctx < 4) :
    let y := formPacket p cmd mode slot gen ctx
    y.extractLsb' 128 384 = p.extractLsb' 128 384 ∧ y.extractLsb' 0 28 = p.extractLsb' 0 28 ∧
    (y.extractLsb' 32 4).toNat = cmd ∧ (y.extractLsb' 36 2).toNat = mode ∧ (y.extractLsb' 46 2).toNat = ctx ∧
    y.extractLsb' 48 4 = slot ∧ y.extractLsb' 52 12 = gen := by
  intro y
  have hslot := slot.isLt
  have hgen := gen.isLt
  have hlt := issuerBits_lt slot gen hcmd hmode hctx
  have hfilled {lo n : Nat} (hk : keptBits.extractLsb' lo n = 0#n) := formPacket_filled p slot gen hcmd hmode hctx hk
  refine ⟨formPacket_kept p slot gen hcmd hmode hctx (by decide +kernel) ?_,
    formPacket_kept p slot gen hcmd hmode hctx (by decide +kernel) ?_, (hfilled (by decide +kernel)).trans ?_,
    (hfilled (by decide +kernel)).trans ?_, (hfilled (by decide +kernel)).trans ?_,
    BitVec.eq_of_toNat_eq ((hfilled (by decide +kernel)).trans ?_),
    BitVec.eq_of_toNat_eq ((hfilled (by decide +kernel)).trans ?_)⟩
  · rw [Nat.div_eq_of_lt (lt_of_lt_of_le hlt (Nat.pow_le_pow_right Nat.two_pos (by decide))), Nat.zero_mod]
  all_goals
    unfold issuerBits
    omega

end

/-- Settles O30: the pushes, the packet each forms, and cstat. -/
theorem enginePushIssues : Obligations.EnginePushIssues := by
  refine ⟨?pushes, fun p cmd mode ctx slot gen hcmd hmode hctx => formPacket_fields p slot gen hcmd hmode hctx,
    fun q f s hc hon => cstat_lands hc hon⟩
  intro q f s t e he hw ht core x n p hround hp hen hown hall
  obtain ⟨op, hv, hop⟩ := opOf_pushes (s := s) (f := f) (q := q) e he
  exact exec_of_opOf hv (hop.trans (ecPush_waits hv hw ht hround hp hen hown hall))

end Sys2Proof.Machine
end

section
/-! The queues of the engines: what a change of a queue gives, and what leaves the queues alone (R265). -/

namespace Sys2Proof.Machine

section
variable {s t : State} {core q : Nat}

@[simp] theorem State.setEq_eq (s : State) (core q : Nat) (x : EngQ) (j : Nat) :
    (s.setEq core q x).eq core j = if j = q then x else s.eq core j := by
  simp only [State.eq, State.setEq, modCore_core, if_pos, Tab.get_set]

@[simp] theorem State.modEq_eq (s : State) (core q : Nat) (f : EngQ → EngQ) (j : Nat) :
    (s.modEq core q f).eq core j = if j = q then f (s.eq core q) else s.eq core j := s.setEq_eq core q _ j

/-- Where the cores are as before, so are the queues. -/
theorem State.eq_of_cores (h : t.cores = s.cores) (core q : Nat) : t.eq core q = s.eq core q := by
  unfold State.eq State.core
  rw [h]

/-- A change of a core that is not one of its queues. -/
theorem State.modCore_eq (s : State) (k core q : Nat) {f : Core → Core} (hf : ∀ c, (f c).eq = c.eq) :
    (s.modCore k f).eq core q = s.eq core q := by
  unfold State.eq
  rw [modCore_core]
  split
  · rw [hf, ‹core = k›]
  · rfl

/-- Functions that agree on a queue change it alike. -/
theorem State.modEq_congr {f g : EngQ → EngQ} (h : f (s.eq core q) = g (s.eq core q)) : s.modEq core q f = s.modEq core q g :=
  congrArg (s.setEq core q) h

/-- The head of a queue, replaced. -/
theorem State.setHead_cmds (s : State) (core q : Nat) (c : Cmd) :
    ((s.setHead core q c).eq core q).cmds = c :: (s.eq core q).cmds.drop 1 := by
  rw [State.setHead, modEq_eq, if_pos rfl]

/-- The same where the queue held a command. -/
theorem State.headIs_setHead {c d : Cmd} {r : List Cmd} (h : (s.eq core q).cmds = d :: r) :
    Spec.headIs (s.setHead core q c) core q c r := by
  rw [Spec.headIs, setHead_cmds, h, List.drop_one, List.tail_cons]

end

section
variable (s : State)

/-- A run of bytes written at home changes no core. -/
theorem State.homeWrites_cores (a : Acc) (pa : Nat) (l : List Byte) : (s.homeWrites a pa l).cores = s.cores :=
  cores_of_caches (foldl_keeps (v := State.caches) (fun x c => x.homeWrite_caches a c) _ s)

/-- Nor anything but the dies and DRAM. -/
theorem State.homeWrites_offMemory (a : Acc) (pa : Nat) (l : List Byte) : (s.homeWrites a pa l).offMemory = s.offMemory :=
  foldl_keeps (v := State.offMemory) (fun x c => x.homeWrite_offMemory a c) _ s

end

end Sys2Proof.Machine
end

section
/-! A command's retirement and signal (R268, R270, R271). -/

namespace Sys2Proof.Machine

section
variable {s : State} {core q : Nat} {c : Cmd} {r : List Cmd}

/-- A queue once its head has retired with a STAT (R268, R282). -/
def EngQ.retired (x : EngQ) (c : Cmd) (r : List Cmd) (stat : Nat) : EngQ :=
  { x with cmds := r, claims := x.claims.filter fun k => k.idx != c.idx,
           errc := if stat = 2 ∨ stat = 3 ∨ stat = 5 then min (x.errc + 1) 255 else x.errc }

/-- A retirement writes STAT and RIDX at home and takes the command from its queue. -/
theorem State.retireCmd_eq (h : (s.eq core q).cmds = c :: r) (stat : Nat) : ∃ z : State, z.offMemory = s.offMemory ∧
    z.cores = s.cores ∧ s.retireCmd core q stat = z.setEq core q ((s.eq core q).retired c r stat) := by
  refine ⟨_, ?_, ?_, by unfold State.retireCmd; simp only [h]; rfl⟩
  · exact (State.homeWrites_offMemory _ _ _ _).trans (State.homeWrite_offMemory _ _ _)
  · exact (State.homeWrites_cores _ _ _ _).trans (cores_of_caches (State.homeWrite_caches _ _ _))

/-- The queue after a retirement. -/
theorem State.retireCmd_queue (h : (s.eq core q).cmds = c :: r) (stat : Nat) :
    (s.retireCmd core q stat).eq core q = (s.eq core q).retired c r stat := by
  obtain ⟨z, -, -, hz⟩ := retireCmd_eq h stat
  rw [hz, setEq_eq, if_pos rfl]

/-! The lines a command has marked become full, and its signal is given. -/

theorem State.spadFresh_eq (s : State) (core line j q : Nat) : (s.spadFresh core line).eq j q = s.eq j q := by
  unfold State.spadFresh
  split
  · exact s.modCore_eq _ _ _ fun _ => rfl
  · rfl

theorem State.setLine_eq (s : State) (core line : Nat) (slot : BitVec 4) (gen : BitVec 12) (full : Bool) (j q : Nat) :
    (s.setLine core line slot gen full).eq j q = s.eq j q := by
  unfold State.setLine
  split
  · rfl
  · refine (State.modCore_eq _ _ _ _ ?_).trans (s.spadFresh_eq core line j q)
    exact fun _ => rfl

/-- What a read of a semaphore looks at (R146, R308). -/
def State.semView (s : State) (core : Nat) : Hub × Tab (BitVec 16) × Tab (BitVec 12) × BitVec 4 :=
  (s.hub, (s.core core).q, (s.core core).qStamp, (s.core core).slot)

theorem State.sem_of_semView {t : State} (h : t.semView core = s.semView core) (n : BitVec 8) : t.sem core n = s.sem core n := by
  simp only [State.semView, Prod.mk.injEq] at h
  obtain ⟨hhub, hq, hstamp, hslot⟩ := h
  have hgen : t.coreGen core = s.coreGen core := by
    unfold State.coreGen State.coreSlot State.gen State.tslot
    rw [hhub, hslot]
  unfold State.sem
  rw [hgen, hq, hstamp]

theorem State.modCore_semView (s : State) (k core : Nat) {f : Core → Core}
    (hf : ∀ c, (f c).q = c.q ∧ (f c).qStamp = c.qStamp ∧ (f c).slot = c.slot) :
    (s.modCore k f).semView core = s.semView core := by
  unfold State.semView
  rw [modCore_core, modCore_hub]
  split
  · obtain ⟨hq, hstamp, hslot⟩ := hf (s.core k)
    rw [hq, hstamp, hslot, ‹core = k›]
  · rfl

theorem State.setLine_semView (s : State) (core line : Nat) (slot : BitVec 4) (gen : BitVec 12) (full : Bool) (j : Nat) :
    (s.setLine core line slot gen full).semView j = s.semView j := by
  have hfresh : (s.spadFresh core line).semView j = s.semView j := by
    unfold State.spadFresh
    split
    · exact s.modCore_semView _ _ fun _ => ⟨rfl, rfl, rfl⟩
    · rfl
  unfold State.setLine
  split
  · rfl
  · refine (State.modCore_semView _ _ _ ?_).trans hfresh
    exact fun _ => ⟨rfl, rfl, rfl⟩

theorem State.retireCmd_semView (h : (s.eq core q).cmds = c :: r) (stat j : Nat) :
    (s.retireCmd core q stat).semView j = s.semView j := by
  obtain ⟨z, hoff, hcores, hz⟩ := retireCmd_eq h stat
  have hhub : z.offMemory.hub = s.offMemory.hub := congrArg State.hub hoff
  have hz' : z.semView j = s.semView j := by
    unfold State.semView State.core
    rw [show z.hub = s.hub from hhub, hcores]
  rw [hz]
  refine (State.modCore_semView _ _ _ ?_).trans hz'
  exact fun _ => ⟨rfl, rfl, rfl⟩

/-- A command's marked lines, set full at its end. -/
def State.fillMarked (s : State) (core : Nat) (c : Cmd) : State :=
  c.marked.foldl (fun x l => x.setLine core l (c.packet.extractLsb' 48 4) (c.packet.extractLsb' 52 12) true) s

theorem State.fillMarked_eq (s : State) (core : Nat) (c : Cmd) (j q : Nat) : (s.fillMarked core c).eq j q = s.eq j q :=
  foldl_keeps (v := fun x : State => x.eq j q) (fun x _ => x.setLine_eq ..) _ s

theorem State.fillMarked_sem (s : State) (core : Nat) (c : Cmd) (n : BitVec 8) : (s.fillMarked core c).sem core n = s.sem core n :=
  sem_of_semView (foldl_keeps (v := fun x : State => x.semView core) (fun x _ => x.setLine_semView ..) _ s) n

/-- A command's signal (R270). -/
def State.signalCmd (s : State) (core : Nat) (c : Cmd) : State :=
  if field c.packet 24 4 = 0 then s else s.addSem core (c.packet.extractLsb' 16 8) (field c.packet 24 4)

theorem State.signalCmd_eq (s : State) (core : Nat) (c : Cmd) (j q : Nat) : (s.signalCmd core c).eq j q = s.eq j q := by
  unfold State.signalCmd
  split
  · rfl
  · exact s.modCore_eq _ _ _ fun _ => rfl

theorem State.finishCmd_of_current {d : Cmd} (hs : s.engStale core d.packet = false) (stat : Nat) :
    s.finishCmd core q d stat = ((s.fillMarked core d).signalCmd core d).retireCmd core q stat := by
  rw [State.finishCmd, if_neg (by simp [hs])]
  rfl

/-- A command that ends leaves its queue, with its STAT or as stale (R270). -/
theorem State.finishCmd_queue (h : (s.eq core q).cmds = c :: r) (d : Cmd) (stat : Nat) :
    ∃ n, (n = stat ∨ n = 3) ∧ (s.finishCmd core q d stat).eq core q = (s.eq core q).retired c r n := by
  cases hs : s.engStale core d.packet with
  | true =>
    refine ⟨3, .inr rfl, ?_⟩
    rw [State.finishCmd, if_pos hs, retireCmd_queue h]
  | false =>
    have heq : ((s.fillMarked core d).signalCmd core d).eq core q = s.eq core q := by rw [signalCmd_eq, fillMarked_eq]
    refine ⟨stat, .inl rfl, ?_⟩
    rw [finishCmd_of_current hs, retireCmd_queue (by rw [heq, h]), heq]

/-- A command of the current tenancy that ends gives its signal (R270). -/
theorem State.finishCmd_sem (h : (s.eq core q).cmds = c :: r) {d : Cmd} (hs : s.engStale core d.packet = false) (stat : Nat)
    (hinc : field d.packet 24 4 ≠ 0) : (s.finishCmd core q d stat).sem core (d.packet.extractLsb' 16 8) =
      min (s.sem core (d.packet.extractLsb' 16 8) + field d.packet 24 4) 65535 := by
  have heq : ((s.fillMarked core d).signalCmd core d).eq core q = s.eq core q := by rw [signalCmd_eq, fillMarked_eq]
  rw [finishCmd_of_current hs, sem_of_semView (retireCmd_semView (by rw [heq, h]) stat core), State.signalCmd, if_neg hinc,
    State.addSem, sem_setSem, if_pos rfl, fillMarked_sem]

end

end Sys2Proof.Machine
end

section
/-! The events around the commands of the engine queues (R265, R268, R273 to R276, R283). -/

namespace Sys2Proof.Machine

section
variable {s : State} {core q : Nat}

/-! Admission (R268). -/

/-- A head that is bound to no STAT stays. -/
theorem State.dropFated_of_fate {c : Cmd} {r : List Cmd} (h : (s.eq core q).cmds = c :: r) (hf : c.fate = 0) (n : Nat) :
    s.dropFated core q n = s := by
  cases n with
  | zero => rfl
  | succ n =>
    rw [State.dropFated, h]
    exact if_neg fun x => x.1 hf

/-- The packet of the next entry. -/
def State.nextPacket (s : State) (core q : Nat) : Packet64 :=
  ofBytes 512 ((s.homeReads hwAcc (entryAddr (s.eq core q).cfg (s.eq core q).adm) 64).map Prod.fst)

/-- The claim of the next entry, where a context of the core made it. -/
def State.nextClaim (s : State) (core q : Nat) : Option Claim := (s.eq core q).claims.find? fun k => k.idx == (s.eq core q).adm

/-- The promise that the next entry is given. -/
def State.nextProm (s : State) (core q : Nat) : Word :=
  BitVec.ofNat 64 (s.dtime + Config.estimate (s.fresh + 1) (s.nextPacket core q))

/-- The STAT the next entry is bound to, 0 for none (R270, R284). -/
def State.nextFate (s : State) (core q : Nat) : Nat :=
  if s.engStale core (s.nextPacket core q) then 3
  else match s.nextClaim core q with | some k => if k.dropped then 4 else 0 | none => 0

/-- The command of the next entry. -/
def State.nextCmd (s : State) (core q : Nat) : Cmd :=
  let p := s.nextPacket core q
  { idx := (s.eq core q).adm, packet := p, prom := s.nextProm core q, owner := s.nextClaim core q, fate := s.nextFate core q,
    missed := false, began := false, done := 0, finished := false, err := false, fixes := [], rpos := (0, 0),
    marked := linesWritten p, skipped := [], fence := s.fenceOf core q p, csr := (0, 0), rows := [], members := [], first := none,
    result := none }

/-- A queue with its next entry taken in. -/
def State.takeIn (s : State) (core q : Nat) (y : EngQ) : EngQ :=
  { y with adm := y.adm + 1, cmds := y.cmds ++ [s.nextCmd core q],
           proms := y.proms ++ (s.nextClaim core q).toList.map fun k => ⟨k.ctx, k.tok, s.cycle + 20, s.nextProm core q⟩ }

/-- The next entry may be admitted: it is claimed and written, and the queue takes it (R265, R268). -/
def State.admissible (s : State) (core q : Nat) : Prop :=
  let x := s.eq core q
  eqEn x.cfg = true ∧ x.closing = false ∧ x.adm < s.widx core q ∧ field (s.nextPacket core q) 29 3 = x.adm / eqSize x.cfg % 8

/-- An admissible entry is taken in, and its promise is written into it (R268, R272). -/
theorem State.takeEntry_eq (h : s.admissible core q) :
    let z := (({ s with fresh := s.fresh + 1 } : State).homeWrites hwAcc (entryAddr (s.eq core q).cfg (s.eq core q).adm + 8)
      (bytesOf (s.nextProm core q) 8)).modEq core q (s.takeIn core q)
    s.takeEntry core q = z.dropFated core q (z.eq core q).cmds.length := by
  obtain ⟨hen, hopen, hw, hlap⟩ := h
  have hgo : ¬(!eqEn (s.eq core q).cfg || (s.eq core q).closing || decide (s.widx core q ≤ (s.eq core q).adm) ||
      field (s.nextPacket core q) 29 3 != (s.eq core q).adm / eqSize (s.eq core q).cfg % 8) = true := by
    simp [hen, hopen, hw, hlap]
  exact if_neg hgo

/-- A queue that held no command holds the one it has admitted, where nothing binds it to a STAT. -/
theorem State.takeEntry_queue (h : s.admissible core q) (hempty : (s.eq core q).cmds = []) (hfate : s.nextFate core q = 0) :
    (s.takeEntry core q).eq core q = s.takeIn core q (s.eq core q) := by
  have heq (pa : Nat) (l : List Byte) :
      ((({ s with fresh := s.fresh + 1 } : State).homeWrites hwAcc pa l).modEq core q (s.takeIn core q)).eq core q =
        s.takeIn core q (s.eq core q) := by
    rw [modEq_eq, if_pos rfl, eq_of_cores (homeWrites_cores _ _ _ _)]
    rfl
  have hcmds : (s.takeIn core q (s.eq core q)).cmds = [s.nextCmd core q] := by
    rw [State.takeIn, hempty]
    rfl
  rw [takeEntry_eq h, dropFated_of_fate (by rw [heq, hcmds]) hfate, heq]

/-- A current packet whose claim stands is bound to no STAT. -/
theorem State.nextFate_eq_zero (hcur : s.engStale core (s.nextPacket core q) = false)
    (hkept : ∀ k ∈ (s.eq core q).claims, k.idx = (s.eq core q).adm → k.dropped = false) : s.nextFate core q = 0 := by
  rw [State.nextFate, hcur, if_neg Bool.false_ne_true]
  cases hk : s.nextClaim core q with
  | none => rfl
  | some k =>
    have hidx := List.find?_some (p := fun k : Claim => k.idx == (s.eq core q).adm) hk
    exact if_neg (Bool.eq_false_iff.1 (hkept k (List.mem_of_find?_eq_some hk) (beq_iff_eq.1 hidx)))

/-! A promise lands (R274). -/

/-- Of n places one alone answers. -/
theorem filterMap_range_single {β : Type} {f : Nat → Option β} {n k : Nat} {b : β} (hk : k < n) (hb : f k = some b)
    (hf : ∀ j, j ≠ k → f j = none) : (List.range n).filterMap f = [b] := by
  induction n with
  | zero => omega
  | succ n ih =>
    rw [List.range_succ, List.filterMap_append]
    rcases eq_or_ne n k with rfl | hne
    · have hrest : (List.range n).filterMap f = [] :=
        List.filterMap_eq_nil_iff.2 fun j hj => hf j (List.mem_range.1 hj).ne
      rw [hrest, List.filterMap_cons_some hb]
      rfl
    · rw [ih (by omega), List.filterMap_cons_none (hf n hne)]
      rfl

/-- A result reaches the one context of its core that waits for it (R127). -/
theorem State.answer_waits {i tok : Nat} (hi : i < 4) (hw : (s.ctx (4 * core + i)).bank.waiting tok ≠ [])
    (hothers : ∀ j < 4, j ≠ i → (s.ctx (4 * core + j)).bank.waiting tok = [] ∧
      (s.ctx (4 * core + j)).shadow.bank.waiting tok = []) (v : Wide) (m : Mark) :
    s.answer (4 * core + i) tok v m = s.modCtx (4 * core + i) fun c => (c.landDue s.cycle).deliver tok v m := by
  have hcore : (4 * core + i) / 4 = core := by omega
  have hfind : ((List.range 4).find? fun j => !((s.ctx (4 * core + j)).bank.waiting tok).isEmpty ||
      !((s.ctx (4 * core + j)).shadow.bank.waiting tok).isEmpty) = some i := by
    rw [List.find?_range_eq_some]
    refine ⟨by simp [hw], List.mem_range.2 hi, fun j hj => ?_⟩
    obtain ⟨hb, hs⟩ := hothers j (by omega) (by omega)
    simp [hb, hs]
  unfold State.answer
  rw [hcore]
  dsimp only
  rw [hfind]

/-- The promise that alone waits in a core's queues lands once it is due (R274). -/
theorem promiseLanding_lands {p : Promise} {i : Nat} (hi : i < 4) (hq : q < 8) (hp : (s.eq core q).proms = [p])
    (hnone : ∀ j, j ≠ q → (s.eq core j).proms = []) (hctx : p.ctx = 4 * core + i) (hdue : p.due ≤ s.cycle)
    (hw : (s.ctx p.ctx).bank.waiting p.tok ≠ []) (hothers : ∀ j < 4, j ≠ i →
      (s.ctx (4 * core + j)).bank.waiting p.tok = [] ∧ (s.ctx (4 * core + j)).shadow.bank.waiting p.tok = []) :
    execPromiseLanding core i p.tok s = .next ((s.modEq core q fun x => { x with proms := [] }).modCtx p.ctx fun c =>
      (c.landDue s.cycle).deliver p.tok { data := p.prom.setWidth 1024 } .clean) := by
  have hdues : ((List.range 8).filterMap fun j => ((s.eq core j).proms.find? fun r =>
      r.tok == p.tok && r.ctx == 4 * core + i && decide (r.due ≤ s.cycle)).map (j, ·)) = [(q, p)] := by
    refine filterMap_range_single hq ?_ fun j hj => ?_
    · rw [hp, List.find?_cons_of_pos (by simp [hctx, hdue])]
      rfl
    · rw [hnone j hj]
      rfl
  have hdrop : (s.modEq core q fun x => { x with proms := x.proms.filter (· != p) }) =
      s.modEq core q fun x => { x with proms := [] } := State.modEq_congr (by simp [hp])
  rw [execPromiseLanding, hdues]
  dsimp only
  rw [hdrop, hctx]
  exact congrArg Host.Outcome.next (State.answer_waits (s := s.modEq core q _) hi (hctx ▸ hw) hothers _ _)

/-! A promise is missed (R275). -/

/-- A context that is ready keeps an asynchronous trap for later, where it holds fewer than four (R399). -/
theorem State.holdAsync_ready {ci : Nat} (hst : (s.ctx ci).st = .ready) (hroom : (s.ctx ci).held.length < 4) (a : AsyncTrap) :
    s.holdAsync ci a = s.modCtx ci fun c => { c with held := c.held ++ [a] } := by
  have hheld : (s.modCtx ci fun c =>
      if 4 ≤ c.held.length then { c with lost := c.lost + 1 } else { c with held := c.held ++ [a] }) =
      s.modCtx ci fun c => { c with held := c.held ++ [a] } := modCtx_congr (if_neg (Nat.not_le.2 hroom))
  have hready : ((s.modCtx ci fun c => { c with held := c.held ++ [a] }).ctx ci).st = .ready := by
    rw [modCtx_ctx_self, hst]
  rw [State.holdAsync, hheld, State.asyncAtBlock, hready]

/-- A queue whose late command has raised its trap, which it does once. -/
def EngQ.noteMissed (x : EngQ) (c : Cmd) : EngQ :=
  { x with cmds := x.cmds.map fun y => if y.idx = c.idx then { y with missed := true } else y }

/-- A change of a queue moves no unit. -/
theorem State.modEq_whereUnit (f : EngQ → EngQ) (k : Claim) : (s.modEq core q f).whereUnit core k = s.whereUnit core k := by
  unfold State.whereUnit
  simp only [State.modEq, State.setEq, State.modCore_ctx, State.modCore_core, if_pos]

/-- A late command's trap is held by the unit that issued it (R275). -/
theorem promiseMissed_held {c : Cmd} {k : Claim} {ci : Nat} (hc : (s.eq core q).cmds = [c]) (hm : c.missed = false)
    (hprom : c.prom.toNat ≤ s.dtime) (hown : c.owner = some k) (hline : ∃ l ∈ c.marked, s.lineFull core l = false)
    (hunit : s.whereUnit core k = some (.inl ci)) (hst : (s.ctx ci).st = .ready) (hroom : (s.ctx ci).held.length < 4) :
    execPromiseMissed core q s = .next ((s.modEq core q fun x => x.noteMissed c).modCtx ci fun d =>
      { d with held := d.held ++ [⟨q, c.idx⟩] }) := by
  rw [execPromiseMissed, hc]
  dsimp only
  rw [List.find?_cons_of_pos (by simpa [hm, hprom, hown] using hline)]
  dsimp only
  rw [hown]
  dsimp only
  rw [State.modEq_whereUnit, hunit]
  exact congrArg Host.Outcome.next (State.holdAsync_ready (s := s.modEq core q fun x => x.noteMissed c) hst hroom ⟨q, c.idx⟩)

/-! The kernel's answer to a fix-up (R276), and a collective that times out (R283). -/

theorem segmentReplay_answers {c : Cmd} {r : List Cmd} {f : FixUp} {fs : List FixUp} (b : Bool) (hc : (s.eq core q).cmds = c :: r)
    (hb : c.began = true) (hd : s.hub.down = false) (hf : c.finished = false) (hfix : c.fixes = f :: fs) (ha : f.answer = none) :
    execSegmentReplay core q [b] s = .next (s.setHead core q { c with fixes := { f with answer := some b } :: fs }) := by
  have hans : answerFixes c.fixes [b] = { f with answer := some b } :: fs := by
    rw [hfix, answerFixes, if_neg (by simp [ha])]
    cases fs <;> rfl
  simp only [execSegmentReplay, hc, hb, hd, hans, hf]
  rfl

theorem collTimeout_fails {c : Cmd} {r : List Cmd} {n : Nat} (hc : (s.eq core q).cmds = c :: r) (hf : c.first = some n)
    (hr : c.result = none) (hcmd : pkCmd c.packet = 6) (hb : c.began = true) (hn : n + 100000000 ≤ s.dtime) :
    execCollTimeout core q s = .next (s.finishCmd core q c 2) := by
  simp only [execCollTimeout, hc, hf, hr, hcmd, hb, hn, and_self, if_true]
  rfl

/-! EQCFG (R265). -/

/-- A word with its reserved bits zero. -/
theorem and_eqcfgRes_eq_zero {v : Word} (hlow : v.toNat % 2 ^ 12 = 0) (hmid : v.toNat / 2 ^ 39 % 2 ^ 20 = 0) :
    v &&& eqcfgRes = 0 := by
  refine BitVec.eq_of_getLsbD_eq fun j hj => ?_
  have hmask : eqcfgRes.getLsbD j = (decide (j < 12) || (decide (39 ≤ j) && decide (j < 59))) := by
    revert j
    decide
  have hbit {lo n : Nat} (h : v.toNat / 2 ^ lo % 2 ^ n = 0) (h1 : lo ≤ j) (h2 : j < lo + n) : v.getLsbD j = false := by
    have hin : j - lo < n := by omega
    have hj : j - lo + lo = j := by omega
    have hzero := congrArg (fun x => x.testBit (j - lo)) h
    simpa [Nat.testBit_mod_two_pow, Nat.testBit_div_two_pow, BitVec.testBit_toNat, hin, hj] using hzero
  rw [BitVec.getLsbD_and, hmask]
  by_cases h12 : j < 12
  · rw [hbit (lo := 0) (n := 12) (by simpa using hlow) (Nat.zero_le j) (by omega)]
    simp
  · by_cases h39 : 39 ≤ j ∧ j < 59
    · rw [hbit hmid h39.1 h39.2]
      simp
    · simp
      omega

/-- An enable write configures a disabled queue from its RIDX (R265). -/
theorem EngQ.writeCfg_enable {x : EngQ} {v : Word} (ridx : Word → Nat) (hres : v &&& eqcfgRes = 0) (hoff : eqEn x.cfg = false)
    (hon : eqEn v = true) : x.writeCfg ridx v = { x with cfg := v, closing := false, errc := 0, adm := ridx v } := by
  simp [EngQ.writeCfg, hres, hoff, hon]

/-- A disable write leaves a queue with commands to drain (R265). -/
theorem EngQ.writeCfg_disable {x : EngQ} {v : Word} (ridx : Word → Nat) (hres : v &&& eqcfgRes = 0) (hon : eqEn x.cfg = true)
    (hoff : eqEn v = false) (hbody : v.setWidth 63 = x.cfg.setWidth 63) (hcmds : x.cmds ≠ []) :
    x.writeCfg ridx v = { x with closing := true } := by
  have hsame : v &&& BitVec.ofNat 64 (2 ^ 63 - 1) = x.cfg &&& BitVec.ofNat 64 (2 ^ 63 - 1) := by
    rw [and_lowMask_eq, and_lowMask_eq, hbody]
  have hkeep : ¬x.cmds.isEmpty = true := by simpa using hcmds
  rw [EngQ.writeCfg, if_neg (not_not.2 hres), if_pos hon, if_neg (not_not.2 hsame), if_neg (Bool.eq_false_iff.1 hoff), if_neg hkeep]

end

/-- Settles O40: each event by the rule of its own above. -/
theorem engineQueueEvents : Obligations.EngineQueueEvents := by
  intro s core q x
  refine ⟨?admission, ?promise, ?missed, ?answer, ?timeout, ?config, ?disable⟩
  case admission =>
    intro p hd hen hopen hw hempty hlap hcur hkept
    have hadm : s.admissible core q := ⟨hen, hopen, hw, (field_eq_div_mod _ 29 3).trans hlap⟩
    have hfate := State.nextFate_eq_zero hcur hkept
    have hqueue := State.takeEntry_queue hadm hempty hfate
    have hexec : exec (.entryAdmit core q) s = .next (s.takeEntry core q) := by
      show execEntryAdmit core q s = _
      rw [execEntryAdmit, hd]
      rfl
    have hcmds : (s.takeIn core q x).cmds = [s.nextCmd core q] := by
      rw [State.takeIn, hempty]
      rfl
    refine ⟨_, hexec, ?_⟩
    rw [hqueue]
    refine ⟨rfl, ⟨s.nextCmd core q, hcmds, rfl, rfl, rfl, hfate⟩, fun k hk => ?_⟩
    refine ⟨⟨k.ctx, k.tok, s.cycle + 20, s.nextProm core q⟩, List.mem_append_right _ ?_, rfl, rfl, rfl⟩
    rw [State.nextClaim, hk]
    exact List.mem_singleton_self _
  case promise =>
    intro p i hi hq hp hnone hctx hdue hw hothers
    exact promiseLanding_lands hi hq hp hnone hctx hdue hw hothers
  case missed =>
    intro c k ci hc hm hprom hown hline hunit hst hroom
    refine ⟨_, promiseMissed_held hc hm hprom hown hline hunit hst hroom, ?_, ?_⟩
    · rw [State.modCtx_ctx_self]
      rfl
    · show ((s.modEq core q fun x => x.noteMissed c).eq core q).cmds = _
      rw [State.modEq_eq, if_pos rfl, EngQ.noteMissed, hc, List.map_singleton, if_pos rfl]
  case answer =>
    intro c r f fs b hc hb hd hf hfix ha
    exact segmentReplay_answers b hc hb hd hf hfix ha
  case timeout =>
    intro c r n hc hf hr hcmd hb hn
    obtain ⟨m, hm, hqueue⟩ := State.finishCmd_queue hc c 2
    refine ⟨_, collTimeout_fails hc hf hr ((field_eq_div_mod _ 32 4).trans hcmd) hb hn, ?_⟩
    rw [hqueue]
    refine ⟨rfl, if_pos ?_⟩
    rcases hm with rfl | rfl
    · exact .inl rfl
    · exact .inr (.inl rfl)
  case config =>
    intro v hlow hmid
    have hres := and_eqcfgRes_eq_zero hlow hmid
    refine ⟨fun hoff hon => ?_, fun hon hoff hbody hcmds => ?_⟩
    · exact congrArg Host.Outcome.next (State.modEq_congr (EngQ.writeCfg_enable _ hres hoff hon))
    · exact congrArg Host.Outcome.next (State.modEq_congr (EngQ.writeCfg_disable _ hres hon hoff hbody hcmds))
  case disable =>
    intro hclosing hempty
    have hidle : (x.closing && x.cmds.isEmpty) = true := by rw [hclosing, hempty]; rfl
    refine congrArg Host.Outcome.next (State.modEq_congr ((if_pos hidle).trans ?_))
    rw [and_lowMask_eq]

end Sys2Proof.Machine
end

section
/-! Reads of an engine, and the lines it fills and evicts (R139, R276, R280). -/

namespace Sys2Proof.Machine

section
variable {s t : State}

/-! A read meets its home slices, and changes the dies alone. -/

theorem State.engFill_offDies (s : State) (p : Packet64) (pl : List (Nat × BitVec 8)) : (s.engFill p pl).offDies = s.offDies :=
  foldl_keeps (v := State.offDies) (fun x _ => x.l2Fill_offDies _ _) _ s

theorem State.engLook_offDies (s : State) (p : Packet64) (pl : List (Nat × BitVec 8)) : (s.engLook p pl).offDies = s.offDies := by
  cases pl with
  | nil => exact s.engFill_offDies p _
  | cons e r => exact (State.countRead_offDies ..).trans (s.engFill_offDies p _)

/-- A sequence that succeeds is two that do. -/
theorem except_bind_ok {ε α β : Type} {x : Except ε α} {f : α → Except ε β} {b : β} (h : (x >>= f) = .ok b) :
    ∃ a, x = .ok a ∧ f a = .ok b := by
  cases x with
  | error _ => cases h
  | ok a => exact ⟨a, rfl, h⟩

theorem State.engRead_offDies {p : Packet64} (k : Nat) : ∀ {s : State} {va n : Nat} {l : List (Byte × Bool)},
    s.engRead p va n k = .ok (l, t) → t.offDies = s.offDies := by
  induction k with
  | zero =>
    intro s va n l h
    cases h
    rfl
  | succ k ih =>
    intro s va n l h
    rw [State.engRead] at h
    split at h
    · cases h
      rfl
    · obtain ⟨pl, -, h⟩ := except_bind_ok h
      obtain ⟨x, hx, h⟩ := except_bind_ok h
      cases h
      exact (ih hx).trans (s.engLook_offDies p pl)

/-- So does a read of a collective that succeeds. -/
theorem State.collRead_offDies {core q va n : Nat} {c : Cmd} {l : List (Byte × Bool)} (h : s.collRead core q c va n = .ok (l, t)) :
    t.offDies = s.offDies := by
  unfold State.collRead at h
  split at h
  · rename_i x hx
    cases h
    exact engRead_offDies _ hx
  · dsimp only at h
    split at h
    · cases h
    · split at h <;> cases h

/-! What a read of memory looks at in a die: its owner table and its remapping (R300, R307, R417). -/

def Die.tables (d : Die) : Tab (BitVec 5) × Tab Nat × Nat := (d.owner, d.remap, d.spared)

theorem State.owner_of_tables (hd : ∀ d, (t.die d).tables = (s.die d).tables) (pa : Nat) : t.owner pa = s.owner pa := by
  have h : (t.die (paDie pa)).owner = (s.die (paDie pa)).owner := congrArg Prod.fst (hd _)
  unfold State.owner
  rw [h]

theorem State.placed_of_tables (hd : ∀ d, (t.die d).tables = (s.die d).tables) (pa : Nat) : t.placed pa = s.placed pa := by
  have h : (t.die (paDie pa)).remap = (s.die (paDie pa)).remap := congrArg (fun x => x.2.1) (hd _)
  unfold State.placed
  rw [h]

theorem State.refused_of_tables (hd : ∀ d, (t.die d).tables = (s.die d).tables) (a : Acc) (pa : Nat) :
    t.refused a pa = s.refused a pa := by
  have h : (t.die (paDie pa)).spared = (s.die (paDie pa)).spared := congrArg (fun x => x.2.2) (hd _)
  unfold State.refused State.spareUsed
  rw [h, owner_of_tables hd]

section
variable (hoff : t.offDies = s.offDies) (hd : ∀ d, (t.die d).tables = (s.die d).tables)
include hoff

theorem State.hub_of_offDies : t.hub = s.hub := by
  have h := congrArg State.hub hoff
  exact h

theorem State.mem_of_offDies : t.mem = s.mem := by
  have h := congrArg State.mem hoff
  exact h

theorem State.cores_of_offDies : t.cores = s.cores := by
  have h := congrArg State.cores hoff
  exact h

theorem State.dtime_of_offDies : t.dtime = s.dtime := by
  have h := congrArg State.dtime hoff
  exact h

theorem State.tslot_of_offDies (k : Nat) : t.tslot k = s.tslot k := by
  unfold State.tslot
  rw [hub_of_offDies hoff]

theorem State.accWorld_of_offDies (a : Acc) : t.accWorld a = s.accWorld a := by
  unfold State.accWorld State.prot
  rw [hub_of_offDies hoff]

theorem State.keyId_of_offDies (w o k : Nat) : t.keyId w o k = s.keyId w o k := by
  unfold State.keyId
  rw [hub_of_offDies hoff]

include hd

theorem State.blockWorld_of_tables (pa : Nat) : t.blockWorld pa = s.blockWorld pa := by
  unfold State.blockWorld State.prot
  rw [owner_of_tables hd, hub_of_offDies hoff]

theorem State.staleSector_of_tables (pa : Nat) : t.staleSector pa = s.staleSector pa := by
  unfold State.staleSector
  rw [owner_of_tables hd, mem_of_offDies hoff, tslot_of_offDies hoff]

theorem State.cipherBlock_of_tables (pa : Nat) : t.cipherBlock pa = s.cipherBlock pa := by
  unfold State.cipherBlock
  rw [placed_of_tables hd, mem_of_offDies hoff]

/-- A read at home looks at no more of the dies than their tables (R309 to R312, R421 to R423). -/
theorem State.homeRead_of_tables (a : Acc) (pa : Nat) : t.homeRead a pa = s.homeRead a pa := by
  have howner : (t.die (paDie pa)).owner = (s.die (paDie pa)).owner := congrArg Prod.fst (hd _)
  have hburst : t.burst = s.burst := by
    have h := congrArg State.burst hoff
    exact h
  unfold State.homeRead State.ownerByte State.cipherByte State.decipher
  rw [refused_of_tables hd, howner, staleSector_of_tables hoff hd, mem_of_offDies hoff, hburst, accWorld_of_offDies hoff,
    blockWorld_of_tables hoff hd, owner_of_tables hd, keyId_of_offDies hoff, cipherBlock_of_tables hoff hd,
    placed_of_tables hd]

/-- Memory reads as before where the dies' tables and all but the dies are as before. -/
theorem State.sameMemory_of_tables : Spec.sameMemory s t := by
  refine ⟨homeRead_of_tables hoff hd, fun k pa => ?_, fun k off => ?_⟩
  · unfold State.l1Byte State.judgeSector State.core
    simp only [cores_of_offDies hoff, owner_of_tables hd, tslot_of_offDies hoff]
  · unfold State.spadByte State.spadStale State.coreGen State.coreSlot State.gen State.core
    rw [cores_of_offDies hoff, tslot_of_offDies hoff]

end

theorem State.modDie_tables (s : State) (k d : Nat) {f : Die → Die} (hf : ∀ x, (f x).tables = x.tables) :
    ((s.modDie k f).die d).tables = (s.die d).tables := by
  rw [modDie_die]
  split
  · rw [hf, ‹d = k›]
  · rfl

theorem State.l2Fill_tables (s : State) (pa : Nat) (slot : Option (BitVec 4)) (d : Nat) :
    ((s.l2Fill pa slot).die d).tables = (s.die d).tables := by
  unfold State.l2Fill
  split
  · rfl
  · dsimp only
    split
    · rfl
    · split
      · exact s.modDie_tables _ _ fun _ => rfl
      · split
        · rfl
        · exact s.modDie_tables _ _ fun _ => rfl

theorem State.l2Fill_sameMemory (s : State) (pa : Nat) (slot : Option (BitVec 4)) : Spec.sameMemory s (s.l2Fill pa slot) :=
  sameMemory_of_tables (s.l2Fill_offDies pa slot) (s.l2Fill_tables pa slot)

/-- A prefetch of a line fills it or does nothing (R280). -/
theorem State.lineAct_fill (s : State) (p : Packet64) (va : Nat) :
    s.lineAct p false va = s ∨ ∃ pa slot, s.lineAct p false va = s.l2Fill pa slot := by
  unfold State.lineAct
  dsimp only
  split
  · exact .inl rfl
  · split
    · exact .inl rfl
    · exact .inr ⟨_, _, if_neg Bool.false_ne_true⟩

/-- An eviction writes the line back and takes it from every RDC (R280). -/
theorem State.lineAct_evict {p : Packet64} {va : Nat} {l : Leaf} (hl : s.engLeaf (p.extractLsb' 48 4) va false = .ok l)
    (hr : s.refused (engAcc p l.key) (leafPa l (BitVec.ofNat 64 va)) = false) :
    (s.lineAct p true va).caches = (s.cores, fun d => if d ∈ List.range 4 then
      (s.die d).rdc.filter fun y => !(y.line == leafPa l (BitVec.ofNat 64 va) / 1024) else (s.die d).rdc) := by
  unfold State.lineAct
  dsimp only
  rw [hl]
  dsimp only
  rw [if_neg (Bool.eq_false_iff.1 hr), if_pos rfl, modDie_caches]
  · exact State.dropRdcHits_foldl_caches (hit := fun y => y.line == leafPa l (BitVec.ofNat 64 va) / 1024) (List.range 4) s
  · exact fun _ => rfl

end

end Sys2Proof.Machine
end

section
/-! The scratchpad: what a byte reads after writes (R131, R309). -/

namespace Sys2Proof.Machine

theorem Tab.get_eraseRange {α : Type} (d : α) (t : Tab α) (lo hi k : Nat) :
    (Tab.eraseRange t lo hi).get d k = if lo ≤ k ∧ k < hi then d else t.get d k := by
  induction t with
  | nil => simp [Tab.eraseRange, Tab.get]
  | cons e r ih =>
    obtain ⟨j, v⟩ := e
    unfold Tab.eraseRange at ih ⊢
    by_cases hj : j < lo ∨ hi ≤ j
    · rw [List.filter_cons_of_pos (by simpa using hj), Tab.get, ih, Tab.get]
      split
      · rw [if_neg (by omega)]
      · rfl
    · rw [List.filter_cons_of_neg (by simpa using hj), ih, Tab.get]
      split
      · rfl
      · rw [if_neg (by omega)]

section
variable (s : State) (core : Nat)

theorem State.modCore_spadStale (line : Nat) {f : Core → Core}
    (hf : ∀ k, (f k).spadStamp = k.spadStamp ∧ (f k).slot = k.slot) :
    (s.modCore core f).spadStale core line = s.spadStale core line := by
  unfold State.spadStale
  rw [modCore_coreGen s core core fun k => (hf k).2, modCore_core, if_pos rfl, (hf _).1]

/-- A line brought up to date reads as before: a stale line reads as zero (R308, R309). -/
theorem State.spadFresh_spadByte (line off : Nat) : (s.spadFresh core line).spadByte core off = s.spadByte core off := by
  by_cases hst : s.spadStale core line = true
  · unfold State.spadByte
    rw [spadFresh_spadStale]
    unfold State.spadFresh
    rw [if_pos hst, modCore_core, if_pos rfl]
    dsimp only
    rw [Tab.get_eraseRange, Tab.get_put]
    by_cases hline : off / 128 = line
    · have hin : 128 * line ≤ off ∧ off < 128 * line + 128 := by omega
      rw [if_pos hline, if_pos hline, hline, if_pos hst, if_neg Bool.false_ne_true, if_pos hin]
    · have hout : ¬(128 * line ≤ off ∧ off < 128 * line + 128) := by omega
      rw [if_neg hline, if_neg hline, if_neg hout]
  · rw [State.spadFresh, if_neg hst]

/-- A change of a core that keeps its scratchpad. -/
theorem State.modCore_spadByte {f : Core → Core}
    (hf : ∀ k, (f k).spad = k.spad ∧ (f k).spadStamp = k.spadStamp ∧ (f k).slot = k.slot) (off : Nat) :
    ((s.modCore core f).spadByte core off).1 = (s.spadByte core off).1 := by
  unfold State.spadByte
  rw [modCore_spadStale s core _ fun k => (hf k).2, modCore_core, if_pos rfl, (hf _).1]
  split <;> rfl

theorem State.setLine_spadByte (line : Nat) (slot : BitVec 4) (gen : BitVec 12) (full : Bool) (off : Nat) :
    ((s.setLine core line slot gen full).spadByte core off).1 = (s.spadByte core off).1 := by
  unfold State.setLine
  split
  · rfl
  · rw [modCore_spadByte, spadFresh_spadByte]
    exact fun _ => ⟨rfl, rfl, rfl⟩

section
variable {slot : BitVec 4} {gen : BitVec 12}

/-- A byte written under a current generation is read back; every other reads as before. -/
theorem State.spadPut_spadByte (hgen : gen = s.gen slot) (a : Nat) (b : Byte) (off : Nat) :
    ((s.spadPut core slot gen (a, b)).spadByte core off).1 = if off = a then b else (s.spadByte core off).1 := by
  have hput : s.spadPut core slot gen (a, b) =
      (s.spadFresh core (a / 128)).modCore core fun k => { k with spad := Tab.put 0 k.spad a b } := if_neg (not_not.2 hgen)
  have hstale (line : Nat) : (s.spadPut core slot gen (a, b)).spadStale core line =
      (s.spadFresh core (a / 128)).spadStale core line := by
    rw [hput, modCore_spadStale]
    exact fun _ => ⟨rfl, rfl⟩
  have hbytes : ((s.spadPut core slot gen (a, b)).core core).spad =
      Tab.put 0 ((s.spadFresh core (a / 128)).core core).spad a b := by
    rw [hput, modCore_core, if_pos rfl]
  rw [← spadFresh_spadByte s core (a / 128) off]
  unfold State.spadByte
  rw [hstale, hbytes, Tab.get_put]
  by_cases hoff : off = a
  · rw [hoff, spadFresh_spadStale, if_pos rfl, if_neg Bool.false_ne_true, if_pos rfl, if_pos rfl]
  · rw [if_neg hoff, if_neg hoff]
    split <;> rfl

theorem State.spadPut_gen (e : Nat × Byte) (t : BitVec 4) : (s.spadPut core slot gen e).gen t = s.gen t := by
  have hhub : (s.spadPut core slot gen e).offMemory.hub = s.offMemory.hub :=
    congrArg State.hub (s.spadPut_offMemory core slot gen e)
  unfold State.gen State.tslot
  rw [show (s.spadPut core slot gen e).hub = s.hub from hhub]

/-- A run of bytes written from a place on. -/
theorem State.spadPuts_spadByte (off j : Nat) (l : List Byte) : ∀ (k : Nat) (s : State), gen = s.gen slot →
    (((l.zipIdx k).foldl (fun x e => x.spadPut core slot gen (off + e.2, e.1)) s).spadByte core j).1 =
      if off + k ≤ j ∧ j < off + k + l.length then l.getD (j - (off + k)) 0 else (s.spadByte core j).1 := by
  induction l with
  | nil =>
    intro k s _
    rw [if_neg (by simp)]
    rfl
  | cons b r ih =>
    intro k s hgen
    have hgen' : gen = (s.spadPut core slot gen (off + k, b)).gen slot := hgen.trans (s.spadPut_gen core _ slot).symm
    rw [List.zipIdx_cons, List.foldl_cons, ih (k + 1) _ hgen', spadPut_spadByte s core hgen]
    rw [List.length_cons]
    rcases Nat.lt_trichotomy j (off + k) with h | h | h
    · rw [if_neg (by omega), if_neg (by omega), if_neg (by omega)]
    · subst h
      rw [if_neg (by omega), if_pos rfl, if_pos (by omega), Nat.sub_self]
      rfl
    · rw [if_neg (show ¬j = off + k by omega)]
      by_cases hin : j < off + k + (r.length + 1)
      · rw [if_pos (by omega), if_pos (by omega), show j - (off + k) = j - (off + (k + 1)) + 1 by omega]
        rfl
      · rw [if_neg (by omega), if_neg (by omega)]

/-- A run of bytes written under a current generation is read back. -/
theorem State.spadWrites_spadByte (hgen : gen = s.gen slot) (pois : Bool) (off : Nat) (l : List Byte) {i : Nat}
    (hi : i < l.length) : ((s.spadWrites core slot gen pois off l).spadByte core (off + i)).1 = l.getD i 0 := by
  have hput : (((l.zipIdx 0).foldl (fun x e => x.spadPut core slot gen (off + e.2, e.1)) s).spadByte core (off + i)).1 =
      l.getD i 0 := by
    rw [spadPuts_spadByte core off (off + i) l 0 s hgen, if_pos (by omega)]
    congr 1
    omega
  unfold State.spadWrites
  dsimp only
  rw [if_neg (not_not.2 hgen)]
  split
  · rw [modCore_spadByte]
    · exact hput
    · exact fun _ => ⟨rfl, rfl, rfl⟩
  · split
    · rw [modCore_spadByte]
      · exact hput
      · exact fun _ => ⟨rfl, rfl, rfl⟩
    · exact hput

end

/-- Writes of the scratchpad leave the queues alone. -/
theorem State.spadWrites_eq (slot : BitVec 4) (gen : BitVec 12) (pois : Bool) (off : Nat) (l : List Byte) (j q : Nat) :
    (s.spadWrites core slot gen pois off l).eq j q = s.eq j q := by
  have hput (x : State) (e : Nat × Byte) : (x.spadPut core slot gen e).eq j q = x.eq j q := by
    unfold State.spadPut
    split
    · rfl
    · refine (State.modCore_eq _ _ _ _ ?_).trans (x.spadFresh_eq core _ j q)
      exact fun _ => rfl
  have hputs := foldl_keeps (v := fun x : State => x.eq j q)
    (f := fun x (e : Byte × Nat) => x.spadPut core slot gen (off + e.2, e.1)) (fun x e => hput x _) l.zipIdx s
  unfold State.spadWrites
  dsimp only
  split
  · exact hputs
  · split
    · refine (State.modCore_eq _ _ _ _ ?_).trans hputs
      exact fun _ => rfl
    · split
      · refine (State.modCore_eq _ _ _ _ ?_).trans hputs
        exact fun _ => rfl
      · exact hputs

end

end Sys2Proof.Machine
end

section
/-! A command that performs goes on: the next access of its main part (R270, R276 to R279). -/

namespace Sys2Proof.Machine

section
variable {s : State} {core q : Nat} {c : Cmd} {r : List Cmd} {cmd : Nat}

/-! The head of a queue. -/

theorem pkCmd_of_performing (h : Spec.performing s core q c r cmd) : pkCmd c.packet = cmd := by
  obtain ⟨-, -, -, -, -, -, hcmd⟩ := h
  exact (field_eq_div_mod _ 32 4).trans hcmd

/-- A command that performs has been begun (R270). -/
theorem State.beginCmd_of_performing (h : Spec.performing s core q c r cmd) : s.beginCmd core q = (s, some c) := by
  obtain ⟨hd, hc, hf, hs, hb, -, -⟩ := h
  simp [State.beginCmd, hd, hc, hf, hs, hb]

theorem State.workCmd_of_performing (h : Spec.performing s core q c r cmd) (n : Nat) :
    s.workCmd core q cmd n = s.runCmd core q c n := by
  rw [State.workCmd, beginCmd_of_performing h]
  exact if_pos (pkCmd_of_performing h)

/-- One chunk of the main part, once more of it is to come. -/
theorem State.runCmd_one (h : Spec.performing s core q c r cmd) {x : State} {y : Cmd} (hmore : s.mainChunk core q c = .more x y) :
    s.runCmd core q c 1 = x.setHead core q y := by
  obtain ⟨-, -, -, hs, -, hf, -⟩ := h
  rw [State.runCmd, if_neg (Bool.eq_false_iff.1 hs), if_pos (by simp [hf]), hmore]
  rfl

/-! Without fix-ups no access is put off. -/

theorem Cmd.touches_of_no_fixes (h : c.fixes = []) (a : Access) (j : Nat) : c.touches a j = none := by
  obtain ⟨src, dst, n, less⟩ := a
  unfold Cmd.touches
  rw [h]
  rcases src with _ | ⟨_ | _, _⟩ <;> rcases dst with _ | ⟨_ | _, _⟩ <;> rfl

theorem Cmd.ownerOf_of_no_fixes (h : c.fixes = []) (a : Access) (j : Nat) : c.ownerOf a j = none := by
  have hnone (l : List Nat) : (l.filterMap fun i => (c.access i).bind fun b => c.touches b j) = [] :=
    List.filterMap_eq_nil_iff.2 fun i _ => by simp [touches_of_no_fixes h]
  rw [Cmd.ownerOf, hnone, touches_of_no_fixes h]
  rfl

/-- An access within the scratchpad meets no page (R276). -/
theorem State.accessFault_scratchpad {a : Access} {d : Nat} (hsrc : ∀ va, a.src ≠ some (false, va))
    (hdst : a.dst = some (true, d)) : s.accessFault c a = none := by
  unfold State.accessFault
  rw [hdst]
  cases hs : a.src with
  | none => rfl
  | some x =>
    obtain ⟨sp, va⟩ := x
    cases sp with
    | true => rfl
    | false => exact absurd hs (hsrc va)

/-- With no access after it, a chunk is one access. -/
theorem State.mergeAccess_of_none (hlast : c.access c.done = none) (chunk n : Nat) :
    s.mergeAccess core q c chunk n = .more s c := by
  cases n with
  | zero => rfl
  | succ n => rw [State.mergeAccess, hlast]

theorem Cmd.mergeUp_of_none {j : Nat} (hlast : c.access (j + 1) = none) (n : Nat) : c.mergeUp j n = [] := by
  cases n with
  | zero => rfl
  | succ n =>
    have hchunk : c.chunkOf (j + 1) = none := by simp [Cmd.chunkOf, hlast]
    rw [Cmd.mergeUp, hchunk]
    refine if_neg fun h => ?_
    cases hj : c.chunkOf j <;> simp [hj] at h

/-- An access of the main part that is done, in a command without fix-ups, fills its lines. -/
theorem State.mainAccess_done {a : Access} {j : Nat} {x : State} {data : List Byte} {pois : Bool} (hfix : c.fixes = [])
    (hacc : s.engAccess core c a = .done x data pois) :
    let z := x.fillLines core { c.csrNote j data pois with done := j + 1 } a j
    s.mainAccess core q c a j = .more z.1 z.2 := by
  intro z
  rw [State.mainAccess, Cmd.ownerOf_of_no_fixes hfix, hacc]

/-- What the filling of lines keeps: the queues, the scratchpad's bytes, and of the command its accesses. -/
theorem State.fillLines_keeps (s : State) (c : Cmd) (a : Access) (j : Nat) :
    let x := s.fillLines core c a j
    (fun q => x.1.eq core q, fun off => (x.1.spadByte core off).1, x.2.done, x.2.access) =
      (fun q => s.eq core q, fun off => (s.spadByte core off).1, c.done, c.access) := by
  refine foldl_keeps (v := fun x : State × Cmd =>
    ((fun q => x.1.eq core q, fun off => (x.1.spadByte core off).1, x.2.done, x.2.access) :
      (Nat → EngQ) × (Nat → Byte) × Nat × (Nat → Option Access))) (fun x l => ?_) a.lines (s, c)
  dsimp only
  split
  · simp only [setLine_eq, setLine_spadByte]
    rfl
  · rfl

/-- The last access of a command, within the scratchpad, and the lines that it fills (R273, R277). -/
theorem State.mainChunk_last {a : Access} {d : Nat} {x : State} {data : List Byte} {pois : Bool}
    (ha : c.access c.done = some a) (hlast : c.access (c.done + 1) = none) (hfix : c.fixes = [])
    (hsrc : ∀ va, a.src ≠ some (false, va)) (hdst : a.dst = some (true, d)) (hcsr : pkCmd c.packet ≠ 2)
    (hacc : s.engAccess core c a = .done x data pois) : ∃ y c', s.mainChunk core q c = .more y c' ∧ c'.done = c.done + 1 ∧
      (∀ k, y.eq core k = x.eq core k) ∧ ∀ off, (y.spadByte core off).1 = (x.spadByte core off).1 := by
  have hnote : s.noteChunk core q c (if pkCmd c.packet = 1 then c.done :: c.mergeUp c.done 15 else []) = .more s c := by
    split
    · rw [Cmd.mergeUp_of_none hlast, State.noteChunk, ha]
      simp [accessFault_scratchpad hsrc hdst, State.noteChunk]
    · rfl
  have hcsrNote : c.csrNote c.done data pois = c := if_pos (.inl hcsr)
  have hmain := State.mainAccess_done (q := q) (j := c.done) hfix hacc
  rw [hcsrNote] at hmain
  have hkeep := x.fillLines_keeps (core := core) { c with done := c.done + 1 } a c.done
  simp only [Prod.mk.injEq] at hkeep
  obtain ⟨hqueue, hbytes, hdone, haccess⟩ := hkeep
  refine ⟨_, _, ?_, hdone, congrFun hqueue, congrFun hbytes⟩
  rw [State.mainChunk, ha]
  dsimp only
  rw [hnote]
  dsimp only
  rw [hmain]
  dsimp only
  rw [hdst]
  exact mergeAccess_of_none (by rw [hdone, haccess]; exact hlast) _ _

/-- A command that performs its last access, within the scratchpad, moves its bytes (R277, R278). -/
theorem runCmd_last {a : Access} {d : Nat} {x : State} {data : List Byte} {pois : Bool} (h : Spec.performing s core q c r cmd)
    (ha : c.access c.done = some a) (hlast : c.access (c.done + 1) = none) (hfix : c.fixes = [])
    (hsrc : ∀ va, a.src ≠ some (false, va)) (hdst : a.dst = some (true, d)) (hcsr : cmd ≠ 2)
    (hacc : s.engAccess core c a = .done x data pois) (hqueue : (x.eq core q).cmds = c :: r) :
    (∃ c', Spec.headIs (s.runCmd core q c 1) core q c' r ∧ c'.done = c.done + 1) ∧
      ∀ off, ((s.runCmd core q c 1).spadByte core off).1 = (x.spadByte core off).1 := by
  obtain ⟨y, c', hmore, hdone, heq, hbytes⟩ :=
    State.mainChunk_last (q := q) ha hlast hfix hsrc hdst (pkCmd_of_performing h ▸ hcsr) hacc
  rw [State.runCmd_one h hmore]
  refine ⟨⟨c', State.headIs_setHead (by rw [heq, hqueue]), hdone⟩, fun off => ?_⟩
  refine (State.modCore_spadByte y core ?_ off).trans (hbytes off)
  exact fun _ => ⟨rfl, rfl, rfl⟩

/-! What an access reads, and what it then does (R276 to R279). -/

/-- The bytes that an access reads, and the state that has read them. -/
def State.accessSource (s : State) (core : Nat) (c : Cmd) (a : Access) : Except (Nat × Nat) (List (Byte × Bool) × State) :=
  match a.src with
  | none =>
    match pkCmd c.packet, a.dst with
    | 6, some (_, d) => .ok (((c.result.getD []).drop (d - field c.packet 192 56)).take a.n, s)
    | _, _ => .ok ((List.range a.n).map fun _ => (0, false), s)
  | some (true, o) => .ok ((List.range a.n).map fun i => s.spadByte core (o + i), s)
  | some (false, va) => do
    let l ← s.engPlace (c.packet.extractLsb' 48 4) va a.n false
    pure (l.map fun e => s.homeRead (engAcc c.packet e.2) e.1, s.engLook c.packet l)

section
variable {a : Access} {l : List (Byte × Bool)} {x : State}

theorem State.accessSource_scratchpad {o : Nat} (h : a.src = some (true, o)) :
    s.accessSource core c a = .ok ((List.range a.n).map fun i => s.spadByte core (o + i), s) := by
  unfold State.accessSource
  rw [h]

theorem State.accessSource_zeros (h : a.src = none) (hcmd : pkCmd c.packet ≠ 6) :
    s.accessSource core c a = .ok ((List.range a.n).map fun _ => (0, false), s) := by
  unfold State.accessSource
  rw [h]
  dsimp only
  split
  · rename_i h6 _
    exact absurd h6 hcmd
  · rfl

theorem State.accessSource_virtual {va : Nat} {pl : List (Nat × BitVec 8)} (h : a.src = some (false, va))
    (hpl : s.engPlace (c.packet.extractLsb' 48 4) va a.n false = .ok pl) :
    s.accessSource core c a = .ok (pl.map fun e => s.homeRead (engAcc c.packet e.2) e.1, s.engLook c.packet pl) := by
  unfold State.accessSource
  rw [h]
  dsimp only
  rw [hpl]
  rfl

/-- An access is what it reads, written to its place. -/
theorem State.engAccess_eq (s : State) (core : Nat) (c : Cmd) (a : Access) : s.engAccess core c a =
    match s.accessSource core c a with
    | .error e => .seg e.1 e.2
    | .ok (l, s) =>
      let p := c.packet
      let data := l.map Prod.fst
      let out := if a.less = 0 then data else bytesOf (ofBytes 32 data - BitVec.ofNat 32 a.less) a.n
      let pois := l.any Prod.snd || (pkCmd p == 2 && a.dst.isSome && c.dpois)
      match a.dst with
      | none => .done s data pois
      | some (true, o) =>
        if s.spadLocked core o a.n then .wait
        else .done (s.spadWrites core (p.extractLsb' 48 4) (p.extractLsb' 52 12) pois o out) data pois
      | some (false, va) =>
        match s.engPlace (p.extractLsb' 48 4) va a.n true with
        | .error e => .seg e.1 e.2
        | .ok pl =>
          let s1 := s.engPut p (pl.zip out)
          .done (if pois then pl.foldl (fun x e =>
            if x.refused (engAcc p e.2) e.1 || x.staleAcc (engAcc p e.2) then x else x.poisonFlag (e.1 / 128)) s1
            else s1) data pois :=
  rfl

/-- An access into the scratchpad writes what it reads, where no push has locked its lines (R220). -/
theorem State.engAccess_scratchpad {d : Nat} (hsrc : s.accessSource core c a = .ok (l, x)) (hdst : a.dst = some (true, d))
    (hless : a.less = 0) (hlock : x.spadLocked core d a.n = false) : ∃ pois, s.engAccess core c a =
      .done (x.spadWrites core (c.packet.extractLsb' 48 4) (c.packet.extractLsb' 52 12) pois d (l.map Prod.fst))
        (l.map Prod.fst) pois := by
  refine ⟨l.any Prod.snd || (pkCmd c.packet == 2 && a.dst.isSome && c.dpois), ?_⟩
  rw [engAccess_eq, hsrc, hless, hdst]
  exact if_neg (Bool.eq_false_iff.1 hlock)

/-- An access without a place to write to only reads (R279). -/
theorem State.engAccess_read (hsrc : s.accessSource core c a = .ok (l, x)) (hdst : a.dst = none) :
    s.engAccess core c a = .done x (l.map Prod.fst) (l.any Prod.snd) := by
  rw [engAccess_eq, hsrc, hdst]
  simp

/-- The last access of a command, into the scratchpad: what it reads stands in its place (R277, R278). -/
theorem lastAccess_moves {d : Nat} (h : Spec.performing s core q c r cmd) (ha : c.access c.done = some a)
    (hlast : c.access (c.done + 1) = none) (hfix : c.fixes = []) (hin : ∀ va, a.src ≠ some (false, va))
    (hdst : a.dst = some (true, d)) (hless : a.less = 0) (hcsr : cmd ≠ 2) (hlock : s.spadLocked core d a.n = false)
    (hsrc : s.accessSource core c a = .ok (l, s)) :
    (∃ c', Spec.headIs (s.runCmd core q c 1) core q c' r ∧ c'.done = c.done + 1) ∧
      ∀ i < l.length, ((s.runCmd core q c 1).spadByte core (d + i)).1 = (l.map Prod.fst).getD i 0 := by
  obtain ⟨pois, hacc⟩ := State.engAccess_scratchpad hsrc hdst hless hlock
  obtain ⟨-, hc, -, hs, -⟩ := id h
  have hgen : c.packet.extractLsb' 52 12 = s.gen (c.packet.extractLsb' 48 4) := by
    simp only [State.engStale, Bool.or_eq_false_iff, bne_eq_false_iff_eq] at hs
    exact hs.2
  obtain ⟨hhead, hbytes⟩ := runCmd_last h ha hlast hfix hin hdst hcsr hacc (by rw [State.spadWrites_eq, hc])
  refine ⟨hhead, fun i hi => ?_⟩
  rw [hbytes, State.spadWrites_spadByte s core hgen]
  rwa [List.length_map]

/-- A cpy moves the bytes of its last access within the scratchpad (R277). -/
theorem cpyCommand_moves {o d : Nat} (h : Spec.performing s core q c r 1) (ha : c.access c.done = some a)
    (hlast : c.access (c.done + 1) = none) (hfix : c.fixes = []) (hless : a.less = 0) (hdst : a.dst = some (true, d))
    (hlock : s.spadLocked core d a.n = false) (hsrc : a.src = some (true, o)) : ∃ t : State,
      exec (.cpyCommand core q 1) s = .next t ∧ (∃ c', Spec.headIs t core q c' r ∧ c'.done = c.done + 1) ∧
      ∀ i < a.n, (t.spadByte core (d + i)).1 = (s.spadByte core (o + i)).1 := by
  obtain ⟨hhead, hbytes⟩ := lastAccess_moves h ha hlast hfix (by simp [hsrc]) hdst hless (by decide) hlock
    (State.accessSource_scratchpad hsrc)
  refine ⟨_, congrArg Host.Outcome.next (State.workCmd_of_performing h 1), hhead, fun i hi => ?_⟩
  rw [hbytes i (by simpa using hi)]
  simp [hi]

/-- A zfill zeroes the bytes of its last access (R278). -/
theorem zfillCommand_zeroes {d : Nat} (h : Spec.performing s core q c r 4) (ha : c.access c.done = some a)
    (hlast : c.access (c.done + 1) = none) (hfix : c.fixes = []) (hless : a.less = 0) (hdst : a.dst = some (true, d))
    (hlock : s.spadLocked core d a.n = false) (hsrc : a.src = none) : ∃ t : State,
      exec (.zfillCommand core q 1) s = .next t ∧ (∃ c', Spec.headIs t core q c' r ∧ c'.done = c.done + 1) ∧
      ∀ i < a.n, (t.spadByte core (d + i)).1 = 0 := by
  obtain ⟨hhead, hbytes⟩ := lastAccess_moves h ha hlast hfix (by simp [hsrc]) hdst hless (by decide) hlock
    (State.accessSource_zeros hsrc (by rw [pkCmd_of_performing h]; decide))
  refine ⟨_, congrArg Host.Outcome.next (State.workCmd_of_performing h 1), hhead, fun i hi => ?_⟩
  rw [hbytes i (by simpa using hi)]
  simp [hi]

end

/-- A csr reads its base row start first (R279). -/
theorem csrCommand_reads {l : List (Nat × BitVec 8)} (h : Spec.performing s core q c r 2) (hdone : c.done = 0)
    (hrows : Spec.pk c 352 16 ≠ 0) (hfix : c.fixes = [])
    (hl : s.engPlace (c.packet.extractLsb' 48 4) (Spec.pk c 128 56 + 4 * Spec.pk c 320 32) 4 false = .ok l) :
    exec (.csrCommand core q 1) s = .next ((s.engLook c.packet l).setHead core q { c with
      csr := (natOfBytes (l.map fun e => (s.homeRead (engAcc c.packet e.2) e.1).1), 0), done := 1
      dpois := l.any fun e => (s.homeRead (engAcc c.packet e.2) e.1).2 }) := by
  have hcmd := pkCmd_of_performing h
  have hpk (lo n : Nat) : field c.packet lo n = Spec.pk c lo n := field_eq_div_mod _ lo n
  have ha : c.access 0 = some { src := some (false, Spec.pk c 128 56 + 4 * Spec.pk c 320 32), dst := none, n := 4 } := by
    simp only [Cmd.access, hcmd, hpk, if_neg hrows, if_pos, Nat.add_zero]
  have hacc := State.engAccess_read (core := core)
    (a := { src := some (false, Spec.pk c 128 56 + 4 * Spec.pk c 320 32), dst := none, n := 4 })
    (State.accessSource_virtual rfl hl) rfl
  have hmain := State.mainAccess_done (q := q) (j := 0) hfix hacc
  have hnote : c.csrNote 0 ((l.map fun e => s.homeRead (engAcc c.packet e.2) e.1).map Prod.fst)
      ((l.map fun e => s.homeRead (engAcc c.packet e.2) e.1).any Prod.snd) = { c with
        csr := (natOfBytes (l.map fun e => (s.homeRead (engAcc c.packet e.2) e.1).1), 0)
        dpois := l.any fun e => (s.homeRead (engAcc c.packet e.2) e.1).2 } := by
    rw [Cmd.csrNote, if_neg (by simp [hcmd]), if_pos rfl, List.map_map, List.any_map]
    rfl
  have hchunk : s.mainChunk core q c = .more (s.engLook c.packet l) { c with
      csr := (natOfBytes (l.map fun e => (s.homeRead (engAcc c.packet e.2) e.1).1), 0), done := 1
      dpois := l.any fun e => (s.homeRead (engAcc c.packet e.2) e.1).2 } := by
    rw [hnote] at hmain
    rw [State.mainChunk, hdone, ha]
    dsimp only
    rw [hcmd, if_neg (by decide), State.noteChunk]
    dsimp only
    rw [hdone, hmain]
    rfl
  show Host.Outcome.next (s.workCmd core q 2 1) = _
  rw [State.workCmd_of_performing h, State.runCmd_one h hchunk]

end

end Sys2Proof.Machine
end

section
/-! Prefetches, evictions and fences (R280, R281). -/

namespace Sys2Proof.Machine

section
variable {s : State} {core q : Nat} {c : Cmd} {r : List Cmd} {cmd : Nat}

/-- The line that a pfr or an evict acts on next (R280). -/
def Cmd.nextLine (c : Cmd) : Nat := (Spec.pk c 128 56 / 1024 + c.done) * 1024

/-- A pfr or an evict with a line left acts on it. -/
theorem State.workLines_one (h : Spec.performing s core q c r cmd) (hline : c.nextLine < Spec.pk c 128 56 + Spec.pk c 256 32)
    (hlen : Spec.pk c 256 32 ≠ 0) : s.workLines core q cmd 1 =
      (s.lineAct c.packet (cmd == 7) c.nextLine).setHead core q { c with done := c.done + 1 } := by
  obtain ⟨-, -, -, hs, -, -, -⟩ := id h
  have hpk (lo n : Nat) : field c.packet lo n = Spec.pk c lo n := field_eq_div_mod _ lo n
  have hleft : ¬(Spec.pk c 256 32 = 0 ∨ Spec.pk c 128 56 + Spec.pk c 256 32 ≤ c.nextLine) := not_or.2 ⟨hlen, hline.not_ge⟩
  rw [State.workLines, beginCmd_of_performing h]
  dsimp only
  rw [if_pos (pkCmd_of_performing h), State.runLines, hpk, hpk, ← Cmd.nextLine, if_neg (Bool.eq_false_iff.1 hs), if_neg hleft]
  rfl

/-- R280: a pfr changes no byte of memory. -/
theorem pfrCommand_fills (h : Spec.performing s core q c r 3) (hline : c.nextLine < Spec.pk c 128 56 + Spec.pk c 256 32)
    (hlen : Spec.pk c 256 32 ≠ 0) : ∃ t : State, exec (.pfrCommand core q 1) s = .next t ∧
      Spec.headIs t core q { c with done := c.done + 1 } r ∧ Spec.sameMemory s t := by
  obtain ⟨-, hc, -⟩ := id h
  refine ⟨_, congrArg Host.Outcome.next (State.workLines_one h hline hlen), ?_⟩
  have hhead (z : State) : (z.storesAs (z.setHead core q { c with done := c.done + 1 })) :=
    z.storesAs_modCore core fun _ => rfl
  show Spec.headIs ((s.lineAct c.packet false c.nextLine).setHead core q _) core q _ r ∧
    Spec.sameMemory s ((s.lineAct c.packet false c.nextLine).setHead core q _)
  rcases s.lineAct_fill c.packet c.nextLine with hz | ⟨pa, slot, hz⟩
  · rw [hz]
    exact ⟨State.headIs_setHead hc, (hhead s).sameMemory⟩
  · rw [hz]
    have heq : ((s.l2Fill pa slot).eq core q).cmds = c :: r := by
      rw [State.eq_of_cores (State.cores_of_offDies (s.l2Fill_offDies pa slot)), hc]
    refine ⟨State.headIs_setHead heq, ?_⟩
    obtain ⟨hmem, hl1, hspad⟩ := s.l2Fill_sameMemory pa slot
    obtain ⟨hmem', hl1', hspad'⟩ := (hhead (s.l2Fill pa slot)).sameMemory
    exact ⟨fun a p => (hmem' a p).trans (hmem a p), fun k p => (hl1' k p).trans (hl1 k p),
      fun k o => (hspad' k o).trans (hspad k o)⟩

/-- R280: an evict leaves its line in no RDC. -/
theorem evictCommand_drops (h : Spec.performing s core q c r 7) (hline : c.nextLine < Spec.pk c 128 56 + Spec.pk c 256 32)
    (hlen : Spec.pk c 256 32 ≠ 0) {l : Leaf} (hl : s.engLeaf (c.packet.extractLsb' 48 4) c.nextLine false = .ok l)
    (hr : s.refused (engAcc c.packet l.key) (leafPa l (BitVec.ofNat 64 c.nextLine)) = false) : ∃ t : State,
      exec (.evictCommand core q 1) s = .next t ∧ Spec.headIs t core q { c with done := c.done + 1 } r ∧
      ∀ d < 4, ∀ y ∈ (t.die d).rdc, y.line ≠ leafPa l (BitVec.ofNat 64 c.nextLine) / 1024 := by
  obtain ⟨-, hc, -⟩ := id h
  have hcaches := State.lineAct_evict hl hr
  have hcores : (s.lineAct c.packet true c.nextLine).cores = s.cores := congrArg Prod.fst hcaches
  have hrdc (d : Nat) : ((s.lineAct c.packet true c.nextLine).die d).rdc = if d ∈ List.range 4 then
      (s.die d).rdc.filter fun y => !(y.line == leafPa l (BitVec.ofNat 64 c.nextLine) / 1024) else (s.die d).rdc :=
    congrFun (congrArg Prod.snd hcaches) d
  have heq : ((s.lineAct c.packet true c.nextLine).eq core q).cmds = c :: r := by rw [State.eq_of_cores hcores, hc]
  refine ⟨_, congrArg Host.Outcome.next (State.workLines_one h hline hlen), State.headIs_setHead heq, fun d hd y hy => ?_⟩
  have hmem : y ∈ ((s.lineAct c.packet true c.nextLine).die d).rdc := hy
  rw [hrdc, if_pos (List.mem_range.2 hd), List.mem_filter] at hmem
  simpa using hmem.2

/-- R281: a qfence whose queues have got there signals and retires. -/
theorem qfenceCommand_signals (h : Spec.performing s core q c r 5) (hmet : s.fenceMet core c = true) : ∃ t : State,
    exec (.qfenceCommand core q) s = .next t ∧ (t.eq core q).cmds = r ∧
      (Spec.pk c 24 4 ≠ 0 → t.sem core (c.packet.extractLsb' 16 8) =
        min (s.sem core (c.packet.extractLsb' 16 8) + Spec.pk c 24 4) 65535) := by
  obtain ⟨-, hc, -, hs, -⟩ := id h
  have hpk : field c.packet 24 4 = Spec.pk c 24 4 := field_eq_div_mod _ 24 4
  obtain ⟨n, -, hqueue⟩ := State.finishCmd_queue hc c 1
  have hexec : exec (.qfenceCommand core q) s = .next (s.finishCmd core q c 1) := by
    show execQfenceCommand core q s = _
    rw [execQfenceCommand, State.beginCmd_of_performing h]
    exact if_pos ⟨pkCmd_of_performing h, hmet⟩
  refine ⟨_, hexec, by rw [hqueue]; rfl, fun hinc => ?_⟩
  rw [← hpk] at hinc ⊢
  exact State.finishCmd_sem hc hs 1 hinc

end

end Sys2Proof.Machine
end

section
/-! A collective that sends its contribution and waits for the others' (R283). -/

namespace Sys2Proof.Machine

section
variable {s : State} {core q : Nat} {c : Cmd} {members : List CollMember}

/-- The contributions kept, one for each rank, are among those that came. -/
theorem foldl_byRank (l : List CollMember) : ∀ acc : List CollMember,
    let got := l.foldl (fun (a : List CollMember) m => if a.any (fun x => x.rank == m.rank) then a else a ++ [m]) acc
    (∀ m ∈ got, m ∈ acc ∨ m ∈ l) ∧ got.length ≤ acc.length + l.length := by
  induction l with
  | nil => exact fun acc => ⟨fun m hm => .inl hm, le_rfl⟩
  | cons x r ih =>
    intro acc
    rw [List.foldl_cons]
    split
    · obtain ⟨hmem, hlen⟩ := ih acc
      refine ⟨fun m hm => (hmem m hm).imp_right (List.mem_cons_of_mem _), ?_⟩
      rw [List.length_cons]
      omega
    · obtain ⟨hmem, hlen⟩ := ih (acc ++ [x])
      refine ⟨fun m hm => ?_, ?_⟩
      · rcases hmem m hm with h | h
        · rcases List.mem_append.1 h with h | h
          · exact .inl h
          · exact .inr (List.mem_cons.2 (.inl (List.mem_singleton.1 h)))
        · exact .inr (List.mem_cons_of_mem _ h)
      · rw [List.length_append, List.length_singleton] at hlen
        rw [List.length_cons]
        omega

/-- The time of the first packet is no later than a bound where the start is, and no earlier than one that all respect. -/
theorem foldl_came (l : List CollMember) : ∀ t lo : Nat, lo ≤ t → (∀ m ∈ l, lo ≤ m.came) →
    lo ≤ l.foldl (fun t m => min t m.came) t ∧ l.foldl (fun t m => min t m.came) t ≤ t := by
  induction l with
  | nil => exact fun t lo h _ => ⟨h, le_rfl⟩
  | cons x r ih =>
    intro t lo h hl
    obtain ⟨hx, hr⟩ := List.forall_mem_cons.1 hl
    obtain ⟨hlo, hhi⟩ := ih (min t x.came) lo (le_min h hx) hr
    exact ⟨hlo, hhi.trans (min_le_left _ _)⟩

/-- Messages go out to other modules. -/
def State.sends (s : State) (l : List Msg) : State := { s with out := s.out ++ l }

/-- A collective without all its contributions, none of them late, sends its own and waits (R283). -/
theorem State.collGo_waits {desc : List Byte} {own : List (Byte × Bool)} (hown : c.own = none) (hmem : c.members = [])
    (hfirst : c.first = none) (hcame : ∀ m ∈ members, m.came ≤ s.dtime ∧ s.dtime ≤ m.came + 100000000)
    (hwait : members.length + 1 < (desc.getD 0 0).toNat) : ∃ c' f,
      s.collGo core q c members desc own =
        (s.sends (collMsgs c.packet (desc.getD 1 0).toNat (desc.getD 0 0).toNat desc own)).setHead core q c' ∧
      c'.own = some (desc, own) ∧ c'.first = some f ∧ f ≤ s.dtime ∧ (members = [] → f = s.dtime) := by
  have hsub (m : CollMember) (hm : m ∈ members.filter fun m =>
      collMatches c.packet (desc.getD 0 0).toNat (desc.getD 1 0).toNat m) : m ∈ members := (List.mem_filter.1 hm).1
  have hlen := List.length_filter_le (fun m => collMatches c.packet (desc.getD 0 0).toNat (desc.getD 1 0).toNat m) members
  have hempty : members = [] → (members.filter fun m =>
      collMatches c.packet (desc.getD 0 0).toNat (desc.getD 1 0).toNat m) = [] := fun h => by rw [h]; rfl
  unfold State.collGo
  dsimp only
  rw [hown, hmem, hfirst]
  generalize (members.filter fun m => collMatches c.packet (desc.getD 0 0).toNat (desc.getD 1 0).toNat m) = fresh
    at hsub hlen hempty ⊢
  obtain ⟨hgot, hgotlen⟩ := foldl_byRank fresh []
  obtain ⟨hlo, hhi⟩ := foldl_came fresh s.dtime (s.dtime - 100000000) (Nat.sub_le _ _) fun m hm =>
    Nat.sub_le_iff_le_add.2 (hcame m (hsub m hm)).2
  have htime : members = [] → fresh.foldl (fun t m => min t m.came) s.dtime = s.dtime := fun h => by rw [hempty h]; rfl
  rw [Option.getD_none]
  generalize fresh.foldl (fun t m => min t m.came) s.dtime = f at hlo hhi htime ⊢
  generalize fresh.foldl (fun (l : List CollMember) m => if l.any (fun x => x.rank == m.rank) then l else l ++ [m]) [] = got
    at hgot hgotlen ⊢
  have hlate : ¬(decide (f + 100000000 < s.dtime ∧ (none : Option (List Byte × List (Byte × Bool))).isNone = true) ||
      got.any fun m => decide (f + 100000000 < m.came)) = true := by
    simp only [Bool.or_eq_true, decide_eq_true_eq, List.any_eq_true, not_or, not_exists, not_and]
    refine ⟨by omega, fun m hm => ?_⟩
    have := (hcame m (hsub m ((hgot m hm).resolve_left List.not_mem_nil))).1
    omega
  rw [if_neg hlate, if_pos (by simp at hgotlen; omega)]
  exact ⟨_, f, rfl, rfl, rfl, hhi, htime⟩

/-- The n members that a group descriptor lists are well formed, and none is reported down (R283). -/
def State.groupUp (s : State) (desc : List Byte) (n : Nat) : Prop :=
  ∀ k < n, memberOk ((desc.drop (64 + 16 * k)).take 16) = true ∧
    ofBytes 12 ((desc.drop (64 + 16 * k)).take 2) ∉ s.hub.downMods

section
variable {hdr d own : List (Byte × Bool)} {s1 s2 s3 : State}

/-- A collective that has read a group descriptor in order and its own contribution goes on (R283). -/
theorem State.collStart_goes (hhdr : s.collRead core q c (Spec.pk c 256 56) 64 = .ok (hdr, s1))
    (hok : groupOk (hdr.map Prod.fst) = true) :
    let n := (hdr.getD 0 (0, false)).1.toNat
    let desc := d.map Prod.fst
    s1.collRead core q c (Spec.pk c 256 56) (64 + 16 * n) = .ok (d, s2) →
    s.groupUp desc n →
    (Spec.pk c 356 2 = 0 → Spec.pk c 320 32 % n = 0) →
    s2.collRead core q c (Spec.pk c 128 56) (collElem c.packet * Spec.pk c 320 32) = .ok (own, s3) →
    s.collStart core q c members = s3.collGo core q { c with dpois := d.any Prod.snd } members desc own := by
  intro n desc hdesc hmembers hcount hcontrib
  have hpk (lo n : Nat) : field c.packet lo n = Spec.pk c lo n := field_eq_div_mod _ lo n
  have hgroup : ¬(!groupOk (hdr.map Prod.fst)) = true := by simp [hok]
  have hentries : ¬(!(List.range n).all (fun k => memberOk ((desc.drop (64 + 16 * k)).take 16)) ||
      (List.range n).any fun k => s.hub.downMods.contains (ofBytes 12 ((desc.drop (64 + 16 * k)).take 2))) = true := by
    simp only [Bool.or_eq_true, Bool.not_eq_true', List.all_eq_false, List.any_eq_true, List.mem_range, List.contains_iff_mem]
    rintro (⟨k, hk, hbad⟩ | ⟨k, hk, hdown⟩)
    · exact hbad (hmembers k hk).1
    · exact (hmembers k hk).2 hdown
  have hdivides : ¬(Spec.pk c 356 2 = 0 ∧ Spec.pk c 320 32 % n ≠ 0) := fun x => x.2 (hcount x.1)
  rw [State.collStart]
  simp only [hpk]
  rw [hhdr]
  dsimp only
  rw [if_neg hgroup, hdesc]
  dsimp only
  rw [if_neg hentries, if_neg hdivides, hcontrib]

/-- R283: a collective that has read its group and its contribution sends that and waits for the others'. -/
theorem collCommand_sends {r : List Cmd} (h : Spec.performing s core q c r 6) (hres : c.result = none) (hown : c.own = none)
    (hmem : c.members = []) (hfirst : c.first = none)
    (hcame : ∀ m ∈ members, m.came ≤ s.dtime ∧ s.dtime ≤ m.came + 100000000)
    (hhdr : s.collRead core q c (Spec.pk c 256 56) 64 = .ok (hdr, s1)) (hok : groupOk (hdr.map Prod.fst) = true) :
    let n := (hdr.getD 0 (0, false)).1.toNat
    let desc := d.map Prod.fst
    s1.collRead core q c (Spec.pk c 256 56) (64 + 16 * n) = .ok (d, s2) → desc.take 2 = (hdr.map Prod.fst).take 2 →
    s.groupUp desc n →
    (Spec.pk c 356 2 = 0 → Spec.pk c 320 32 % n = 0) →
    s2.collRead core q c (Spec.pk c 128 56) (collElem c.packet * Spec.pk c 320 32) = .ok (own, s3) → members.length + 1 < n →
    ∃ t : State, exec (.collCommand core q members) s = .next t ∧
      t.out = s3.out ++ collMsgs c.packet (desc.getD 1 0).toNat n desc own ∧
      ∃ c', Spec.headIs t core q c' ((s3.eq core q).cmds.drop 1) ∧ c'.own = some (desc, own) ∧
        ∃ f, c'.first = some f ∧ f ≤ s3.dtime ∧ (members = [] → f = s3.dtime) := by
  intro n desc hdesc htake hmembers hcount hcontrib hwait
  have htime : s3.dtime = s.dtime := by
    rw [State.dtime_of_offDies (State.collRead_offDies hcontrib), State.dtime_of_offDies (State.collRead_offDies hdesc),
      State.dtime_of_offDies (State.collRead_offDies hhdr)]
  have hn : (desc.getD 0 0).toNat = n := by
    have h0 : (desc.take 2)[0]? = ((hdr.map Prod.fst).take 2)[0]? := by rw [htake]
    rw [List.getElem?_take_of_lt Nat.zero_lt_two, List.getElem?_take_of_lt Nat.zero_lt_two] at h0
    rw [List.getD_eq_getElem?_getD, h0, ← List.getD_eq_getElem?_getD]
    exact congrArg BitVec.toNat (List.getD_map (f := Prod.fst) (d := ((0 : Byte), false)) ..)
  have hexec : exec (.collCommand core q members) s = .next (s.collStart core q c members) := by
    show execCollCommand core q members s = _
    rw [execCollCommand, State.beginCmd_of_performing h]
    dsimp only
    rw [if_neg (not_not.2 (pkCmd_of_performing h)), hres, hown]
    rfl
  obtain ⟨c', f, hgo, hown', hfirst', hle, hstart⟩ :=
    State.collGo_waits (s := s3) (core := core) (q := q) (desc := desc) (own := own) (c := { c with dpois := d.any Prod.snd })
      hown hmem hfirst (by rwa [htime]) (by rwa [hn])
  rw [State.collStart_goes hhdr hok hdesc hmembers hcount hcontrib, hgo, hn] at hexec
  exact ⟨_, hexec, rfl, c', State.setHead_cmds _ core q c', hown', f, hfirst', hle, hstart⟩

end

end

/-- Settles O39: each command by the rule of its own above. -/
theorem engineCommandsPerform : Obligations.EngineCommandsPerform := by
  intro s core q c r p
  refine ⟨?moves, ?csr, ?lines, ?fence, ?coll⟩
  case moves =>
    intro a o d ha hlast hfix hless hdst hlock
    exact ⟨fun h hsrc => cpyCommand_moves h ha hlast hfix hless hdst hlock hsrc,
      fun h hsrc => zfillCommand_zeroes h ha hlast hfix hless hdst hlock hsrc⟩
  case csr =>
    intro l h hdone hrows hfix hl
    exact csrCommand_reads h hdone hrows hfix hl
  case lines =>
    intro va hline hlen
    exact ⟨fun h => pfrCommand_fills h hline hlen, fun l h hl hr => evictCommand_drops h hline hlen hl hr⟩
  case fence => exact fun h hmet => qfenceCommand_signals h hmet
  case coll =>
    intro members hdr d own s1 s2 s3 h hres hown hmem hfirst hcame hhdr hok n hdesc desc htake hmembers hcount hcontrib hwait
    exact collCommand_sends h hres hown hmem hfirst hcame hhdr hok hdesc htake hmembers hcount hcontrib hwait

end Sys2Proof.Machine
end

section
/-! Writes at home look at no L2 directory and at little of the hub: where two states agree in the rest, a write makes the same memory of
both (R139, R309 to R312, R421 to R423). -/

namespace Sys2Proof.Machine

/-- A die but its L2 directory. -/
def Die.offL2 (d : Die) : Die := { d with l2 := [] }

/-- What looks at no L2 directory is the same of dies that agree but there. -/
theorem Die.congr_offL2 {β : Type} {x y : Die} (h : y.offL2 = x.offL2) (f : Die → β) (hf : ∀ d, f d = f d.offL2) : f y = f x := by
  rw [hf y, hf x, h]

/-- What a write at home looks at beside the dies: memory, bursts and time, and of the hub the slots, worlds and keys. -/
def State.writeView (s : State) : State :=
  { mem := s.mem, burst := s.burst, dtime := s.dtime,
    hub :=
      { slots := s.hub.slots, wldcfg := s.hub.wldcfg, caddyBlocks := s.hub.caddyBlocks, keys := s.hub.keys, caddy := s.hub.caddy } }

/-- A write at home finds the same in both states. -/
def State.writesAs (s t : State) : Prop := t.writeView = s.writeView ∧ ∀ d, (t.die d).offL2 = (s.die d).offL2

section
variable {s t u : State}

theorem State.writesAs.refl (s : State) : s.writesAs s := ⟨rfl, fun _ => rfl⟩
theorem State.writesAs.trans (h : s.writesAs t) (h' : t.writesAs u) : s.writesAs u :=
  ⟨h'.1.trans h.1, fun d => (h'.2 d).trans (h.2 d)⟩
theorem State.writesAs.mem (h : s.writesAs t) : t.mem = s.mem := congrArg (fun x => x.mem) h.1

/-- Where memory, the dies and the rest that a write looks at stand as before. -/
theorem State.writesAs_of_dies (hv : t.writeView = s.writeView) (hd : t.dies = s.dies) : s.writesAs t :=
  ⟨hv, fun d => congrArg (fun x => (Tab.get {} x d).offL2) hd⟩

theorem State.writesAs.tables (h : s.writesAs t) (d : Nat) : (t.die d).tables = (s.die d).tables :=
  Die.congr_offL2 (h.2 d) Die.tables fun _ => rfl

theorem State.writesAs.dtime (h : s.writesAs t) : t.dtime = s.dtime := congrArg (fun x => x.dtime) h.1
theorem State.writesAs.tslot (h : s.writesAs t) (k : Nat) : t.tslot k = s.tslot k := congrArg (fun x => x.tslot k) h.1
theorem State.writesAs.staleAcc (h : s.writesAs t) (a : Acc) : t.staleAcc a = s.staleAcc a := congrArg (fun x => x.staleAcc a) h.1
theorem State.writesAs.accWorld (h : s.writesAs t) (a : Acc) : t.accWorld a = s.accWorld a := congrArg (fun x => x.accWorld a) h.1
theorem State.writesAs.prot (h : s.writesAs t) (k : Nat) : t.prot k = s.prot k := congrArg (fun x => x.prot k) h.1
theorem State.writesAs.keyId (h : s.writesAs t) (w o k : Nat) : t.keyId w o k = s.keyId w o k :=
  congrArg (fun x => x.keyId w o k) h.1
theorem State.writesAs.owner (h : s.writesAs t) (pa : Nat) : t.owner pa = s.owner pa := owner_of_tables h.tables pa
theorem State.writesAs.placed (h : s.writesAs t) (pa : Nat) : t.placed pa = s.placed pa := placed_of_tables h.tables pa
theorem State.writesAs.refused (h : s.writesAs t) (a : Acc) (pa : Nat) : t.refused a pa = s.refused a pa :=
  refused_of_tables h.tables a pa

theorem State.writesAs.blockWorld (h : s.writesAs t) (pa : Nat) : t.blockWorld pa = s.blockWorld pa := by
  have hblocks : t.hub.caddyBlocks = s.hub.caddyBlocks := congrArg (fun x => x.hub.caddyBlocks) h.1
  unfold State.blockWorld
  simp only [h.owner, h.prot, hblocks]

theorem State.writesAs.staleSector (h : s.writesAs t) (pa : Nat) : t.staleSector pa = s.staleSector pa := by
  unfold State.staleSector
  rw [h.owner, h.mem, h.tslot]

theorem State.writesAs.decipher (h : s.writesAs t) (k pa : Nat) : t.decipher k pa = s.decipher k pa := by
  unfold State.decipher State.cipherBlock
  simp only [h.mem, h.placed]

/-- A change of memory that is the same in both. -/
theorem State.writesAs.withMem (h : s.writesAs t) (m : Mem) : ({ s with mem := m } : State).writesAs { t with mem := m } :=
  ⟨congrArg (fun x : State => { x with mem := m }) h.1, h.2⟩

/-- A change of one die that looks at no L2 directory. -/
theorem State.writesAs.modDie (h : s.writesAs t) (d : Nat) {f : Die → Die} (hf : ∀ x, (f x).offL2 = (f x.offL2).offL2) :
    (s.modDie d f).writesAs (t.modDie d f) := by
  refine ⟨h.1, fun k => ?_⟩
  rw [modDie_die, modDie_die]
  split
  · exact Die.congr_offL2 (h.2 d) (fun x => (f x).offL2) hf
  · exact h.2 k

/-- A line that comes into an L2 slice. -/
theorem State.writesAs_l2Fill (s : State) (pa : Nat) (slot : Option (BitVec 4)) : s.writesAs (s.l2Fill pa slot) := by
  have hmod (d : Nat) {f : Die → Die} (hf : ∀ x, (f x).offL2 = x.offL2) : s.writesAs (s.modDie d f) := by
    refine ⟨rfl, fun k => ?_⟩
    rw [modDie_die]
    split
    · rw [hf, ‹k = d›]
    · rfl
  unfold State.l2Fill
  split
  · exact .refl s
  · dsimp only
    split
    · exact .refl s
    · split
      · exact hmod _ fun _ => rfl
      · split
        · exact .refl s
        · exact hmod _ fun _ => rfl

theorem State.writesAs.countRef (h : s.writesAs t) (pa : Nat) : (s.countRef pa).writesAs (t.countRef pa) :=
  h.modDie _ fun _ => rfl

theorem State.writesAs.homePut (h : s.writesAs t) (k : Nat) (e : Nat × Byte) : (s.homePut k e).writesAs (t.homePut k e) := by
  unfold State.homePut
  simp only [h.mem, h.decipher]
  exact h.withMem _

theorem Die.offL2_startMigr (d : Die) : d.startMigr.offL2 = d.offL2.startMigr.offL2 := by
  obtain ⟨migr, hmigr⟩ : ∃ m, d.migr = m := ⟨_, rfl⟩
  obtain ⟨cands, hcands⟩ : ∃ l, d.cands = l := ⟨_, rfl⟩
  have hmigr' : d.offL2.migr = migr := hmigr
  have hcands' : d.offL2.cands = cands := hcands
  unfold Die.startMigr
  rw [hmigr, hcands, hmigr', hcands']
  cases migr with
  | some _ => rfl
  | none =>
    cases cands with
    | nil => rfl
    | cons b rest =>
      show Die.offL2 (if field d.rtctl 41 11 = 0 then _ else _) = Die.offL2 (if field d.rtctl 41 11 = 0 then _ else _)
      split
      · unfold Die.logPend
        show Die.offL2 (if d.logged.contains b then _ else _) = Die.offL2 (if d.logged.contains b then _ else _)
        split <;> rfl
      · rfl

theorem Die.offL2_switchMigr (d : Die) : d.switchMigr.offL2 = d.offL2.switchMigr.offL2 := by
  obtain ⟨migr, hmigr⟩ : ∃ m, d.migr = m := ⟨_, rfl⟩
  have hmigr' : d.offL2.migr = migr := hmigr
  unfold Die.switchMigr
  rw [hmigr, hmigr']
  cases migr with
  | none => rfl
  | some g => exact Die.offL2_startMigr _

theorem State.writesAs.noteMigr (h : s.writesAs t) (pa : Nat) : (s.noteMigr pa).writesAs (t.noteMigr pa) := by
  have hmigr : (t.die (paDie pa)).migr = (s.die (paDie pa)).migr := Die.congr_offL2 (h.2 _) Die.migr fun _ => rfl
  unfold State.noteMigr
  rw [hmigr, h.dtime]
  split
  · exact h
  · split
    · exact h
    · split
      · split
        · exact h.modDie _ Die.offL2_switchMigr
        · exact h.modDie _ fun _ => rfl
      · exact h.modDie _ fun _ => rfl

theorem State.writesAs_foldl {α : Type} {f : State → α → State} (hf : ∀ {s t : State} (x : α), s.writesAs t → (f s x).writesAs (f t x))
    (l : List α) : ∀ {s t : State}, s.writesAs t → (l.foldl f s).writesAs (l.foldl f t) := by
  induction l with
  | nil => exact id
  | cons x r ih => exact fun h => ih (hf x h)

theorem State.writesAs_ite {c : Prop} [Decidable c] {s' t' : State} (h : s.writesAs t) (h' : s'.writesAs t') :
    (if c then s else s').writesAs (if c then t else t') := by
  split
  · exact h
  · exact h'

theorem State.writesAs.setStamp (h : s.writesAs t) (sec o : Nat) :
    ({ s with mem := { s.mem with stamp := Tab.put 0 s.mem.stamp sec (s.tslot o).gen } } : State).writesAs
      { t with mem := { t.mem with stamp := Tab.put 0 t.mem.stamp sec (t.tslot o).gen } } := by
  rw [h.mem, h.tslot]
  exact h.withMem _

theorem State.writesAs.setPoison (h : s.writesAs t) (sec : Nat) :
    ({ s with mem := { s.mem with poison := Tab.put false s.mem.poison sec false } } : State).writesAs
      { t with mem := { t.mem with poison := Tab.put false t.mem.poison sec false } } := by
  rw [h.mem]
  exact h.withMem _

/-- A write at home makes the same of both states. -/
theorem State.writesAs.homeWrite (h : s.writesAs t) (a : Acc) (cells : List (Nat × Byte)) :
    (s.homeWrite a cells).writesAs (t.homeWrite a cells) := by
  cases cells with
  | nil => exact h
  | cons e r =>
    obtain ⟨pa, b⟩ := e
    unfold State.homeWrite
    simp only [h.staleAcc, h.refused, h.accWorld, h.blockWorld, h.keyId, h.owner, h.staleSector]
    by_cases h1 : s.staleAcc a = true
    · simp only [if_pos h1]
      exact h
    simp only [if_neg h1]
    by_cases h2 : s.refused a pa = true
    · simp only [if_pos h2]
      exact h.countRef pa
    simp only [if_neg h2]
    by_cases h3 : inOwnerTable pa = true
    · simp only [if_pos h3]
      exact h
    simp only [if_neg h3]
    by_cases h4 : s.accWorld a ≠ s.blockWorld pa ∧ s.accWorld a ≠ 2
    · simp only [if_pos h4]
      exact h.countRef pa
    simp only [if_neg h4]
    by_cases h5 : s.keyId (s.blockWorld pa) (s.owner pa) a.key.toNat = 0
    · simp only [if_pos h5]
      exact h.countRef pa
    simp only [if_neg h5]
    refine (writesAs_foldl (fun e h => h.homePut _ e) _ ?_).noteMigr pa
    have hclear : (if s.staleSector pa = true then { s with mem := s.mem.zeroSector (pa / 128) } else s).writesAs
        (if s.staleSector pa = true then { t with mem := t.mem.zeroSector (pa / 128) } else t) :=
      writesAs_ite (by rw [h.mem]; exact h.withMem _) h
    have hstamp := writesAs_ite (c := s.owner pa < 16) (hclear.setStamp (pa / 128) (s.owner pa)) hclear
    exact writesAs_ite (hstamp.setPoison (pa / 128)) hstamp

/-- A run of bytes written at home makes the same of both states. -/
theorem State.writesAs.homeWrites (h : s.writesAs t) (a : Acc) (pa : Nat) (l : List Byte) :
    (s.homeWrites a pa l).writesAs (t.homeWrites a pa l) :=
  writesAs_foldl (fun c h => h.homeWrite a c) _ h

end

end Sys2Proof.Machine
end

section
/-! Requests from the fabric are checked, performed once and answered (R287, R290 to R292, R297, R298, R427). -/

namespace Sys2Proof.Machine

/-! The answer that goes out (R290, R427, R428). -/

/-- What the fabric port looks at as it answers: its registers, worlds and keys, and the messages that have gone out. -/
def State.portView (s : State) : State :=
  { net := s.net, out := s.out,
    hub := { regs := s.hub.regs, wldcfg := s.hub.wldcfg, keys := s.hub.keys, caddy := s.hub.caddy } }

section
variable {s t u z : State} {p : Packet}

theorem State.portView_of_offMemory (h : t.offMemory = s.offMemory) : t.portView = s.portView := by
  have e := congrArg State.portView h
  exact e

/-- AUTH covers the header but itself (R428). -/
theorem State.authOf_auth (s : State) (x : Packet) (a : BitVec 64) : s.authOf { x with auth := a } = s.authOf x := by
  have h : headerBits { x with auth := a } = headerBits x := rfl
  unfold State.authOf
  rw [h]

/-- The packet's data go out as they are: of a request of the module's own memory, or under no key (R263, R427). -/
def State.plainData (s : State) (slot : BitVec 4) (x : Packet) : Prop :=
  x.own = true ∨ s.slotKey slot x.key = 0 ∨ dataChunks x.kind = 0

theorem State.sealed_plain {slot : BitVec 4} {x : Packet} (h : s.plainData slot x) : s.sealed slot x = x := if_pos h

theorem State.sealed_cipher {slot : BitVec 4} {x : Packet} (h : ¬s.plainData slot x) : s.sealed slot x =
    { x with data := cipherData x (fun t b => xtsEnc (keyBits (s.slotKey slot x.key)) t 0 b) (x.data <<< dataShift x) } := if_neg h

theorem State.sealed_birth (s : State) (slot : BitVec 4) (x : Packet) (b : BitVec 12) :
    s.sealed slot { x with birth := b } = { s.sealed slot x with birth := b } := by
  have hplain : s.plainData slot { x with birth := b } ↔ s.plainData slot x := Iff.rfl
  by_cases h : s.plainData slot x
  · rw [sealed_plain h, sealed_plain (hplain.2 h)]
  · rw [sealed_cipher h, sealed_cipher (hplain.not.2 h)]
    rfl

/-- A packet that goes out carries its number and its AUTH (R428). -/
theorem State.emit_sent (s : State) (x : Packet) : ∃ f a, let q := { x with fseq := f, auth := a }
    Spec.sent s (s.emit x) q ∧ a = s.authOf q := by
  refine ⟨Tab.get 0 s.hub.fseqOut (x.dmod.toNat * 4 + x.world.toNat),
    s.authOf { x with fseq := Tab.get 0 s.hub.fseqOut (x.dmod.toNat * 4 + x.world.toNat) }, ?_, (s.authOf_auth _ _).symm⟩
  unfold Spec.sent State.emit
  dsimp only
  split
  · exact ⟨rfl, rfl⟩
  · exact ⟨rfl, rfl⟩

theorem State.sealed_eq (s : State) (slot : BitVec 4) (x : Packet) : s.sealed slot x = { x with data := (s.sealed slot x).data } := by
  by_cases h : s.plainData slot x
  · rw [sealed_plain h]
  · rw [sealed_cipher h]

/-- What a packet that goes out depends on: this module's number and header keys, and what has gone out before (R288, R428). -/
def State.sendView (s : State) : BitVec 12 × Tab Nat × List Msg × List Msg := (s.fabid, s.hub.caddy.fabKey, s.net, s.out)

theorem State.sendView_of_portView (hv : u.portView = z.portView) : u.sendView = z.sendView := by
  have e := congrArg State.sendView hv
  exact e

/-- A reply that goes out (R290). -/
theorem replies_of_emit (hv : u.sendView = z.sendView) (cls : Option (BitVec 4)) (data : Lanes) (b : BitVec 12) :
    Spec.replies z (u.emit { replyOf u.fabid p cls data with birth := b }) p cls data := by
  simp only [State.sendView, Prod.mk.injEq] at hv
  obtain ⟨hfabid, hkey, hnet, hout⟩ := hv
  have hauth (x : Packet) : u.authOf x = z.authOf x := by
    unfold State.authOf
    rw [hkey]
  have hsent (t : State) (q : Packet) (h : Spec.sent u t q) : Spec.sent z t q := by
    unfold Spec.sent at h ⊢
    rw [hnet, hout, hfabid] at h
    exact h
  obtain ⟨f, a, hq, ha⟩ := u.emit_sent { replyOf u.fabid p cls data with birth := b }
  exact ⟨_, hsent _ _ hq, rfl, rfl, hfabid, rfl, rfl, rfl, rfl, rfl, ha.trans (hauth _)⟩

/-- An answer that goes out, its data enciphered by the port (R290, R427). -/
theorem answers_of_emit (hv : u.portView = z.portView) (cls : Option (BitVec 4)) (data : Lanes) (b : BitVec 12) :
    Spec.answers z (u.emit (u.sealed (u.windowSlot p) { replyOf u.fabid p cls data with birth := b })) p cls data := by
  have hsealed (x : Packet) : u.sealed (u.windowSlot p) x = z.sealed (z.windowSlot p) x := by
    have e := congrArg (fun w : State => w.sealed (w.windowSlot p) x) hv
    exact e
  have hfabid : u.fabid = z.fabid := by
    have e := congrArg State.fabid hv
    exact e
  have hreply : u.sealed (u.windowSlot p) { replyOf u.fabid p cls data with birth := b } =
      { replyOf u.fabid p cls (z.sealed (z.windowSlot p) (replyOf z.fabid p cls data)).data with birth := b } := by
    rw [State.sealed_birth, hsealed, State.sealed_eq, hfabid]
    rfl
  rw [hreply]
  exact replies_of_emit (State.sendView_of_portView hv) cls _ b

theorem State.emit_eq (s : State) (x : Packet) : ∃ h n o, s.emit x = { s with hub := { s.hub with fseqOut := h }, net := n, out := o } := by
  unfold State.emit
  dsimp only
  split <;> exact ⟨_, _, _, rfl⟩

theorem State.emit_mem (s : State) (x : Packet) : (s.emit x).mem = s.mem := by
  obtain ⟨h, n, o, e⟩ := s.emit_eq x
  rw [e]

theorem State.emit_tally (s : State) (x : Packet) : (s.emit x).hub.tally = s.hub.tally := by
  obtain ⟨h, n, o, e⟩ := s.emit_eq x
  rw [e]

theorem State.storesAs_emit (s : State) (x : Packet) : s.storesAs (s.emit x) := by
  obtain ⟨h, n, o, e⟩ := s.emit_eq x
  rw [e]
  exact storesAs_of_cores rfl rfl

/-! A request is served once (R287, R290). -/

/-- The answer to a request whose service ended in u. -/
def State.answered (u : State) (p : Packet) (cls : Option (BitVec 4)) (data : Lanes) : State :=
  u.emit (u.sealed (u.windowSlot p) { replyOf u.fabid p cls data with birth := BitVec.ofNat 12 (u.dtime / 1000) })

theorem State.serve_accepted (hp : Spec.accepted s p) {kind : BitVec 6} (hk : p.kind = kind)
    {act : State → Option (BitVec 4) × Lanes × State} {cls : Option (BitVec 4)} {data : Lanes}
    (hact : act (Spec.taken s (.packet p)) = (cls, data, u)) : s.serve p kind act = u.answered p cls data := by
  obtain ⟨hdst, hnet, hold⟩ := hp
  have htake : s.takeNet (.packet p) = some (Spec.taken s (.packet p)) := if_pos (by simpa using hnet)
  have hold' : ¬((Spec.taken s (.packet p)).tooOld p = true) := by
    rw [show (Spec.taken s (.packet p)).tooOld p = s.tooOld p from rfl, hold]
    exact Bool.false_ne_true
  unfold State.serve
  rw [if_neg (by simp [hk, hdst]), htake]
  dsimp only
  rw [if_neg hold', hact]
  rfl

theorem answers_answered (hv : u.portView = z.portView) (cls : Option (BitVec 4)) (data : Lanes) :
    Spec.answers z (u.answered p cls data) p cls data := answers_of_emit hv cls data _

theorem State.answered_mem (u : State) (p : Packet) (cls : Option (BitVec 4)) (data : Lanes) : (u.answered p cls data).mem = u.mem :=
  u.emit_mem _

theorem State.answered_tally (u : State) (p : Packet) (cls : Option (BitVec 4)) (data : Lanes) :
    (u.answered p cls data).hub.tally = u.hub.tally := u.emit_tally _

theorem State.storesAs_answered (u : State) (p : Packet) (cls : Option (BitVec 4)) (data : Lanes) :
    u.storesAs (u.answered p cls data) := u.storesAs_emit _

theorem sameMemory_trans (h : Spec.sameMemory s t) (h' : Spec.sameMemory t u) : Spec.sameMemory s u := by
  obtain ⟨hhome, hl1, hspad⟩ := h
  obtain ⟨hhome', hl1', hspad'⟩ := h'
  exact ⟨fun a pa => (hhome' a pa).trans (hhome a pa), fun k pa => (hl1' k pa).trans (hl1 k pa),
    fun k o => (hspad' k o).trans (hspad k o)⟩

theorem State.countRef_tables (s : State) (pa d : Nat) : ((s.countRef pa).die d).tables = (s.die d).tables :=
  s.modDie_tables _ _ fun _ => rfl

theorem State.countRef_offDies (s : State) (pa : Nat) : (s.countRef pa).offDies = s.offDies := rfl

/-- A refused access is counted, and no more (R310). -/
theorem State.countAdmit_cases (s : State) (p : Packet) : s.countAdmit p = s ∨ ∃ pa, s.countAdmit p = s.countRef pa := by
  have counted {c : Prop} [Decidable c] (pa : Nat) : (if c then s.countRef pa else s) = s ∨
      ∃ a, (if c then s.countRef pa else s) = s.countRef a := by
    split
    · exact .inr ⟨_, rfl⟩
    · exact .inl rfl
  unfold State.countAdmit
  dsimp only
  split
  · exact counted _
  · exact counted _

theorem State.countAdmit_sameMemory (s : State) (p : Packet) : Spec.sameMemory s (s.countAdmit p) := by
  rcases s.countAdmit_cases p with h | ⟨pa, h⟩
  · rw [h]
    exact (storesAs.refl s).sameMemory
  · rw [h]
    exact sameMemory_of_tables (s.countRef_offDies pa) (s.countRef_tables pa)

theorem State.countAdmit_offMemory (s : State) (p : Packet) : (s.countAdmit p).offMemory = s.offMemory := by
  rcases s.countAdmit_cases p with h | ⟨pa, h⟩ <;> rw [h]
  rfl

/-! Loads. -/

/-- A load that is served leaves memory as it was (R287). -/
theorem State.serveLoad_keeps (s : State) (p : Packet) (n : Nat) :
    Spec.sameMemory s (s.serveLoad p n).2.2 ∧ (s.serveLoad p n).2.2.offMemory = s.offMemory := by
  unfold State.serveLoad
  split
  · dsimp only
    split
    · exact ⟨s.countAdmit_sameMemory p, s.countAdmit_offMemory p⟩
    · exact ⟨(storesAs.refl s).sameMemory, rfl⟩
  · dsimp only
    split <;> exact ⟨s.l2Fill_sameMemory _ _, s.l2Fill_offMemory _ _⟩

/-- A load's answer is what its service gave, and memory is as it was. -/
theorem serve_load (hp : Spec.accepted s p) {kind : BitVec 6} (hk : p.kind = kind) {n : Nat} {cls : Option (BitVec 4)} {data : Lanes}
    (hserve : (Spec.taken s (.packet p)).serveLoad p n = (cls, data, u)) :
    Spec.answers (Spec.taken s (.packet p)) (s.serve p kind fun x => x.serveLoad p n) p cls data ∧
      Spec.sameMemory s (s.serve p kind fun x => x.serveLoad p n) := by
  obtain ⟨hmem, hoff⟩ := (Spec.taken s (.packet p)).serveLoad_keeps p n
  rw [hserve] at hmem hoff
  rw [State.serve_accepted hp hk (act := fun x => x.serveLoad p n) hserve]
  refine ⟨answers_answered (State.portView_of_offMemory hoff) _ _, ?_⟩
  have htaken : s.storesAs (Spec.taken s (.packet p)) := State.storesAs_of_cores rfl rfl
  exact sameMemory_trans (sameMemory_trans htaken.sameMemory hmem) (State.storesAs_answered _ p _ _).sameMemory

theorem State.serveLoad_ok {n : Nat} {v : Served} (hv : s.admitPacket p n true false = .ok v)
    (hpois : (s.homeReads v.acc v.pa n).any Prod.snd = false) :
    s.serveLoad p n = (none, ofBytes 1024 ((s.homeReads v.acc v.pa n).map Prod.fst), s.l2Fill v.pa v.acc.slot) := by
  unfold State.serveLoad
  rw [hv]
  dsimp only
  rw [hpois]
  rfl

theorem State.serveLoad_error {n : Nat} {c : BitVec 4} (hc : s.admitPacket p n true false = .error c) :
    s.serveLoad p n = (some c, 0, if c = 0 then s.countAdmit p else s) := by
  unfold State.serveLoad
  rw [hc]

/-! Stores and their tally (R292). -/

/-- A tally entry once a write of its batch has been noted (R292). -/
def Tally.noted (x : Tally) (p : Packet) (cls : Option (BitVec 4)) (now : Nat) : Tally :=
  if x.forPacket p then
    { x with used := now, count := if cls.isNone then x.count + 1 else x.count,
             map := match cls with | none => x.map | some c => x.map ||| (1 <<< c.toNat) }
  else x

theorem State.tallyNote_eq (s : State) (p : Packet) (cls : Option (BitVec 4)) :
    (s.tallyNote p cls).hub.tally = s.hub.tally.map fun x => x.noted p cls s.dtime := rfl

theorem Tally.forPacket_noted (x : Tally) (p : Packet) (cls : Option (BitVec 4)) (now : Nat) :
    (x.noted p cls now).forPacket p = x.forPacket p := by
  unfold Tally.noted
  split <;> rfl

theorem Spec.tallied_eq (s : State) (p : Packet) : Spec.tallied s p = s.hub.tally.find? fun x => x.forPacket p := rfl

/-- The entry of a write's batch after the write is noted. -/
theorem State.tallied_tallyNote (s : State) (p : Packet) :
    (Spec.tallied (s.tallyNote p none) p).map (·.count) = (Spec.tallied s p).map (·.count + 1) := by
  have hsame : ((fun x : Tally => x.forPacket p) ∘ fun x : Tally => x.noted p none s.dtime) = fun x => x.forPacket p :=
    funext fun x : Tally => x.forPacket_noted p none s.dtime
  rw [Spec.tallied_eq, Spec.tallied_eq, tallyNote_eq, List.find?_map, hsame, Option.map_map]
  cases h : s.hub.tally.find? fun x => x.forPacket p with
  | none => rfl
  | some x =>
    have hx : x.forPacket p = true := List.find?_some (p := fun x : Tally => x.forPacket p) h
    simp [Tally.noted, hx]

/-- The state in which a store's tally entry stands (R292): found, or made. -/
def State.withTally (s : State) (p : Packet) : State :=
  if s.hub.tally.any fun t => t.forPacket p then s
  else { s with hub := { s.hub with tally := s.hub.tally ++ [⟨p.smod, p.sctx, p.batch, 0, 0, s.dtime⟩] } }

theorem State.withTally_eq (s : State) (p : Packet) : ∃ l, s.withTally p = { s with hub := { s.hub with tally := l } } := by
  unfold State.withTally
  split
  · exact ⟨s.hub.tally, rfl⟩
  · exact ⟨_, rfl⟩

theorem State.any_forPacket (s : State) (p : Packet) : (s.hub.tally.any fun t => t.forPacket p) = (Spec.tallied s p).isSome :=
  List.isSome_find?.symm

theorem State.tallied_withTally (s : State) (p : Packet) :
    (Spec.tallied (s.withTally p) p).map (·.count) = some (((Spec.tallied s p).map (·.count)).getD 0) := by
  have hself : (⟨p.smod, p.sctx, p.batch, 0, 0, s.dtime⟩ : Tally).forPacket p = true := by simp [Tally.forPacket]
  unfold State.withTally
  rw [any_forPacket]
  cases h : Spec.tallied s p with
  | some y =>
    rw [if_pos Option.isSome_some, h]
    rfl
  | none =>
    rw [if_neg (Bool.eq_false_iff.1 Option.isSome_none), Spec.tallied_eq, List.find?_append, ← Spec.tallied_eq, h, List.find?_singleton, hself]
    rfl

/-- A store that passes its checks is written at its home, and its tally counts it (R287, R292). -/
theorem State.serveStore_ok {n : Nat} {v : Served} (hroom : (∃ y, Spec.tallied s p = some y) ∨ s.hub.tally.length < 4096)
    (hv : s.admitPacket p n false true = .ok v) : s.serveStore p n = (none, 0,
      (((s.withTally p).l2Fill v.pa v.acc.slot).homeWrites v.acc v.pa (bytesOf (s.opened (s.windowSlot p) p) n)).tallyNote p none) := by
  have hfull : ¬((s.hub.tally.any fun t => t.forPacket p) = false ∧ 4096 ≤ s.hub.tally.length) := by
    rw [any_forPacket]
    rintro ⟨hunknown, hlen⟩
    rcases hroom with ⟨y, hy⟩ | h
    · rw [hy] at hunknown
      cases hunknown
    · omega
  have hsame : (s.withTally p).admitPacket p n false true = .ok v ∧
      (s.withTally p).opened ((s.withTally p).windowSlot p) p = s.opened (s.windowSlot p) p := by
    obtain ⟨l, hl⟩ := s.withTally_eq p
    rw [hl]
    exact ⟨hv, rfl⟩
  unfold State.serveStore
  dsimp only
  simp only [Bool.not_eq_true']
  rw [if_neg hfull, show (if (s.hub.tally.any fun t => t.forPacket p) = true then s else _) = s.withTally p from rfl, hsame.1, ← hsame.2]

theorem State.hub_of_offMemory (h : t.offMemory = s.offMemory) : t.hub = s.hub := congrArg (fun x => x.hub) h

theorem serve_store (hp : Spec.accepted s p) {kind : BitVec 6} (hk : p.kind = kind) {n : Nat} {v : Served}
    (hroom : (∃ y, Spec.tallied s p = some y) ∨ s.hub.tally.length < 4096)
    (hv : (Spec.taken s (.packet p)).admitPacket p n false true = .ok v) :
    let z := Spec.taken s (.packet p)
    let t := s.serve p kind fun x => x.serveStore p n
    Spec.answers z t p none 0 ∧ t.mem = (z.homeWrites v.acc v.pa (bytesOf (z.opened (z.windowSlot p) p) n)).mem ∧
      (Spec.tallied t p).map (·.count) = some (((Spec.tallied s p).map (·.count)).getD 0 + 1) := by
  intro z t
  have ht : t = _ := State.serve_accepted hp hk (act := fun x => x.serveStore p n) (State.serveStore_ok hroom hv)
  rw [ht]
  obtain ⟨l, hl⟩ := z.withTally_eq p
  have hwritten : (((z.withTally p).l2Fill v.pa v.acc.slot).homeWrites v.acc v.pa (bytesOf (z.opened (z.windowSlot p) p) n)).offMemory =
      (z.withTally p).offMemory := (State.homeWrites_offMemory _ _ _ _).trans (State.l2Fill_offMemory _ _ _)
  have hport := State.portView_of_offMemory hwritten
  refine ⟨answers_answered ?_ _ _, ?_, ?_⟩
  · refine Eq.trans (b := (z.withTally p).portView) hport ?_
    rw [hl]
    rfl
  · refine (State.answered_mem _ _ _ _).trans ?_
    have hwrites : z.writesAs ((z.withTally p).l2Fill v.pa v.acc.slot) := by
      refine State.writesAs.trans ?_ (State.writesAs_l2Fill _ _ _)
      rw [hl]
      exact State.writesAs_of_dies rfl rfl
    exact (hwrites.homeWrites v.acc v.pa _).mem
  · have htally {x y : State} (h : x.hub.tally = y.hub.tally) : Spec.tallied x p = Spec.tallied y p :=
      congrArg (List.find? _) h
    have hcount := z.tallied_withTally p
    rw [htally (State.answered_tally _ _ _ _), State.tallied_tallyNote, htally (congrArg Hub.tally (State.hub_of_offMemory hwritten)),
      show ∀ o : Option Tally, o.map (·.count + 1) = (o.map (·.count)).map (· + 1) from fun o => by rw [Option.map_map]; rfl, hcount]
    rfl

/-! Kettle operations (R297, R298). -/

/-- What a kettle operation touches meets its home slices, and memory stands (R139, R310). -/
theorem State.ketTouch_offDies (s : State) (k : Ket) : (s.ketTouch k).offDies = s.offDies := by
  refine foldl_keeps (v := State.offDies) (fun x a => ?_) _ s
  split
  · rfl
  · rw [State.countRead_offDies, State.l2Fill_offDies]

theorem State.ketApply_offMemory (s : State) (k : Ket) : (s.ketApply k).offMemory = s.offMemory :=
  foldl_keeps (v := State.offMemory) (fun x _ => x.homeWrite_offMemory _ _) _ s

theorem serve_rop (hp : Spec.accepted s p) (hk : p.kind = 5) {v : Served} {r : Except (BitVec 4) (List Word × Bool)} {k : Ket} :
    let z := Spec.taken s (.packet p)
    let d := z.opened (z.windowSlot p) p
    let c : Word := d.setWidth 64
    let t := s.serve p 5 fun x => x.serveRop p
    z.admitPacket p (kopSize (kopOf c)) true true = .ok v →
    (z.kettle (BitVec.ofNat 64 (v.pa - v.base)) c fun i => d.extractLsb' (256 + 64 * i) 64).run.run { v := v } = (r, k) →
    (∀ y, r = .ok y → Spec.answers z t p none (ketReply r) ∧ t.mem = ((z.ketTouch k).ketApply k).mem) ∧
      ∀ c, r = .error c → Spec.answers z t p (some c) (ketReply r) ∧ t.mem = s.mem := by
  intro z d c t hv hrun
  have htouch := z.ketTouch_offDies k
  have hoff : (z.ketTouch k).offMemory = z.offMemory := State.offMemory_of_offDies htouch
  constructor
  · intro y hy
    have hserve : z.serveRop p = (none, ketReply r, (z.ketTouch k).ketApply k) := by
      unfold State.serveRop
      dsimp only
      rw [hv]
      dsimp only
      rw [hrun, hy]
    rw [show t = _ from State.serve_accepted hp hk (act := fun x => x.serveRop p) hserve]
    exact ⟨answers_answered (State.portView_of_offMemory ((State.ketApply_offMemory _ k).trans hoff)) _ _, State.answered_mem _ _ _ _⟩
  · intro e he
    have hserve : z.serveRop p = (some e, ketReply r, z.ketTouch k) := by
      unfold State.serveRop
      dsimp only
      rw [hv]
      dsimp only
      rw [hrun, he]
    rw [show t = _ from State.serve_accepted hp hk (act := fun x => x.serveRop p) hserve]
    exact ⟨answers_answered (State.portView_of_offMemory hoff) _ _, (State.answered_mem _ _ _ _).trans (State.mem_of_offDies (s := z) htouch)⟩

/-- A close served (R292): the summary of its batch, whose entry goes. -/
def State.serveClose (s : State) (p : Packet) : Option (BitVec 4) × Lanes × State :=
  let sum : Nat := match Spec.tallied s p with | some t => t.map.toNat + t.count % 2 ^ 32 * 2 ^ 32 | none => 0
  (none, BitVec.ofNat 1024 sum, { s with hub := { s.hub with tally := s.hub.tally.filter fun t => !t.forPacket p } })

theorem execCloseRequest_quiet (hnet : ∀ m ∈ s.net, Msg.batchWrite p m = false) :
    exec (.closeRequest p) s = .next (s.serve p 6 fun x => x.serveClose p) := by
  have hquiet : ¬(s.net.any (Msg.batchWrite p)) = true := by
    rw [List.any_eq_true]
    rintro ⟨m, hm, hb⟩
    rw [hnet m hm] at hb
    cases hb
  exact if_neg hquiet

/-- A close's answer is the summary of its batch, whose entry goes (R292). -/
theorem closeRequest_answers (hp : Spec.accepted s p) (hk : p.kind = 6) {y : Tally} (hy : Spec.tallied s p = some y)
    (hnet : ∀ m ∈ s.net, Msg.batchWrite p m = false) : ∃ t : State, exec (.closeRequest p) s = .next t ∧
      Spec.answers (Spec.taken s (.packet p)) t p none (BitVec.ofNat 1024 (y.map.toNat + y.count % 2 ^ 32 * 2 ^ 32)) ∧
      Spec.tallied t p = none := by
  have hserve : (Spec.taken s (.packet p)).serveClose p = (none, BitVec.ofNat 1024 (y.map.toNat + y.count % 2 ^ 32 * 2 ^ 32),
      ((Spec.taken s (.packet p)).serveClose p).2.2) := by
    have htally : Spec.tallied (Spec.taken s (.packet p)) p = some y := hy
    refine congrArg (Prod.mk none) (congrArg (Prod.mk · _) ?_)
    rw [htally]
  refine ⟨_, execCloseRequest_quiet hnet, ?_⟩
  rw [State.serve_accepted hp hk (act := fun x => x.serveClose p) hserve]
  have hport : ((Spec.taken s (.packet p)).serveClose p).2.2.portView = (Spec.taken s (.packet p)).portView := rfl
  refine ⟨answers_answered hport _ _, ?_⟩
  rw [Spec.tallied_eq, State.answered_tally]
  refine List.find?_eq_none.2 fun x hx hxp => ?_
  have h := (List.mem_filter.1 hx).2
  rw [hxp] at h
  cases h

/-! A fetch-and-add (R297): what it reads, and what a read then gives. -/

theorem Tab.find?_set {α : Type} (t : Tab α) (k j : Nat) (v : α) :
    (Tab.set t k v).find? (fun e => e.1 == j) = if j = k then some (k, v) else t.find? fun e => e.1 == j := by
  induction t with
  | nil =>
    by_cases h : j = k
    · simp [Tab.set, h]
    · simp [Tab.set, h, Ne.symm h]
  | cons x r ih =>
    obtain ⟨i, w⟩ := x
    unfold Tab.set
    split
    · by_cases h : j = k
      · simp [h]
      · simp [h, Ne.symm h]
    · split
      · rename_i hki
        by_cases h : j = k
        · simp [h]
        · simp [h, Ne.symm h, ← hki]
      · rename_i hlt hne
        by_cases h : i = j
        · subst h
          simp [Ne.symm hne]
        · simp [h, ih]

theorem KetM.get_bind {α : Type} (f : Ket → KetM α) (k : Ket) : (get >>= f).run.run k = (f k).run.run k := rfl

/-- A part that is refused refuses the whole; one that succeeds goes on. -/
theorem KetM.bind_ok {α β : Type} {x : KetM α} {f : α → KetM β} {k k' : Ket} {a : α} (h : x.run.run k = (.ok a, k')) :
    (x >>= f).run.run k = (f a).run.run k' := by
  rw [ExceptT.run_bind, StateT.run_bind, h]
  rfl

theorem KetM.bind_error {α β : Type} {x : KetM α} {f : α → KetM β} {k k' : Ket} {e : BitVec 4} (h : x.run.run k = (.error e, k')) :
    (x >>= f).run.run k = (.error e, k') := by
  rw [ExceptT.run_bind, StateT.run_bind, h]
  rfl
/-- An address that a kettle operation may touch (R287, R297). -/
def State.ketReaches (s : State) (k : Ket) (x : Word) : Prop :=
  x.toNat + 8 ≤ k.v.size ∧ x.toNat % 8 = 0 ∧ s.refused k.v.acc (k.v.base + x.toNat) = false

/-- The operation has come to an address. -/
def Ket.sees (k : Ket) (x : Word) : Ket := { k with seen := k.seen ++ [k.v.base + x.toNat] }

theorem State.ketAddr_run (s : State) (k : Ket) (x : Word) : (s.ketAddr x).run.run k =
    if k.v.size < x.toNat + 8 then (.error 4, k)
    else if x.toNat % 8 ≠ 0 then (.error 5, k)
    else if s.refused k.v.acc (k.v.base + x.toNat) then (.error 0, k.sees x) else (.ok (), k.sees x) := by
  unfold State.ketAddr
  rw [KetM.get_bind]
  dsimp only
  by_cases h1 : k.v.size < x.toNat + 8
  · rw [if_pos h1, if_pos h1]
    rfl
  rw [if_neg h1, if_neg h1]
  by_cases h2 : x.toNat % 8 ≠ 0
  · rw [if_pos h2, if_pos h2]
    rfl
  rw [if_neg h2, if_neg h2]
  split
  · rfl
  · rfl

theorem State.ketAddr_ok {k : Ket} {x : Word} (h : s.ketReaches k x) : (s.ketAddr x).run.run k = (.ok (), k.sees x) := by
  obtain ⟨hsize, halign, hrefused⟩ := h
  rw [ketAddr_run, if_neg (by omega), if_neg (by omega), hrefused]
  rfl

/-- The byte that a kettle operation reads: what it has buffered, or the home's (R298). -/
def State.ketByte (s : State) (k : Ket) (x : Word) (i : Nat) : Byte × Bool :=
  match k.w.find? fun e => e.1 == x.toNat + i with
  | some e => (e.2, false)
  | none => s.homeRead k.v.acc (k.v.base + x.toNat + i)

def State.ketBytes (s : State) (k : Ket) (x : Word) : List (Byte × Bool) := (List.range 8).map (s.ketByte k x)

theorem State.m8_of_addr {s : State} {k k' : Ket} {x : Word} (h : (s.ketAddr x).run.run k = (.ok (), k')) : (s.m8 x).run.run k =
    if (s.ketBytes k' x).any Prod.snd then (.error 6, k') else (.ok (ofBytes 64 ((s.ketBytes k' x).map Prod.fst)), k') := by
  unfold State.m8
  rw [KetM.bind_ok h, KetM.get_bind]
  dsimp only
  generalize hl : List.map _ (List.range 8) = l
  obtain rfl : l = s.ketBytes k' x := by
    rw [← hl]
    refine List.map_congr_left fun i _ => ?_
    unfold State.ketByte
    cases k'.w.find? fun e => e.1 == x.toNat + i <;> rfl
  split
  · rfl
  · rfl

/-- What a kettle operation reads is there for it, and it has come to the address. -/
theorem State.m8_ok {s : State} {k k' : Ket} {x v : Word} (h : (s.m8 x).run.run k = (.ok v, k')) :
    s.ketReaches k x ∧ k' = k.sees x := by
  have haddr := s.ketAddr_run k x
  by_cases hr : s.ketReaches k x
  · refine ⟨hr, ?_⟩
    rw [m8_of_addr (ketAddr_ok hr)] at h
    split at h
    · cases h
    · exact (congrArg Prod.snd h).symm
  · obtain ⟨e, q, he⟩ : ∃ e q, (s.ketAddr x).run.run k = (.error e, q) := by
      rw [haddr]
      split
      · exact ⟨_, _, rfl⟩
      · split
        · exact ⟨_, _, rfl⟩
        · split
          · exact ⟨_, _, rfl⟩
          · rename_i h1 h2 h3
            exact absurd ⟨by omega, by omega, by simpa using h3⟩ hr
    have hm8 : (s.m8 x).run.run k = (.error e, q) := KetM.bind_error he
    rw [hm8] at h
    cases h

/-- A buffered word. -/
def Ket.buffer (k : Ket) (x v : Word) : Ket :=
  { k with w := (bytesOf v 8).zipIdx.foldl (fun w e => Tab.set w (x.toNat + e.2) e.1) k.w }

theorem State.m8Set_ok {s : State} {k : Ket} {x : Word} (h : s.ketReaches k x) (v : Word) :
    (s.m8Set x v).run.run k = (.ok (), (k.sees x).buffer x v) := by
  unfold State.m8Set
  rw [KetM.bind_ok (ketAddr_ok h)]
  rfl

theorem State.ketByte_buffer (s : State) (k : Ket) (x v : Word) {i : Nat} (hi : i < 8) :
    s.ketByte (k.buffer x v) x i = (v.extractLsb' (8 * i) 8, false) := by
  have hw : ((k.buffer x v).w.find? fun e => e.1 == x.toNat + i) = some (x.toNat + i, v.extractLsb' (8 * i) 8) := by
    unfold Ket.buffer
    simp only [bytesOf, List.range, List.range.loop, List.map, List.zipIdx, List.foldl, Tab.find?_set]
    interval_cases i <;> simp
  unfold State.ketByte
  rw [hw]

/-- A word that has been buffered is what is read (R298). -/
theorem State.m8_buffer {s : State} {k : Ket} {x : Word} (h : s.ketReaches k x) (v : Word) :
    (s.m8 x).run.run (k.buffer x v) = (.ok v, (k.buffer x v).sees x) := by
  have hbytes : s.ketBytes ((k.buffer x v).sees x) x = (bytesOf v 8).map fun b => (b, false) := by
    unfold State.ketBytes bytesOf
    rw [List.map_map]
    exact List.map_congr_left fun i hi => s.ketByte_buffer (k.sees x) x v (List.mem_range.1 hi)
  have hvalue : ofBytes 64 (((bytesOf v 8).map fun b => (b, false)).map Prod.fst) = v := by
    rw [List.map_map, show (Prod.fst ∘ fun b : Byte => (b, false)) = id from rfl, List.map_id]
    exact ofBytes_bytesOf (n := 8) v
  rw [m8_of_addr (ketAddr_ok (k := k.buffer x v) h), hbytes, hvalue]
  exact if_neg (by simp [List.any_map])

/-- A fetch-and-add reads the word, and the word is then its sum (R297). -/
theorem fetchAdd_adds {s : State} {k k0 : Ket} {off c old : Word} {a : Nat → Word} (hc : c.toNat = 1)
    (hold : (s.m8 off).run.run k = (.ok old, k0)) :
    ∃ k1 k2, (s.kettle off c a).run.run k = (.ok ([old], false), k1) ∧ (s.m8 off).run.run k1 = (.ok (old + a 0), k2) := by
  obtain rfl : c = 1 := BitVec.eq_of_toNat_eq hc
  obtain ⟨hr, rfl⟩ := State.m8_ok hold
  refine ⟨((k.sees off).sees off).buffer off (old + a 0), _, ?_, State.m8_buffer (k := (k.sees off).sees off) hr _⟩
  show (s.m8 off >>= fun old => s.m8Set off (old + a 0) >>= fun _ => pure ([old], false) : KetRes).run.run k = _
  rw [KetM.bind_ok hold, KetM.bind_ok (State.m8Set_ok (k := k.sees off) hr _)]
  rfl

end

/-- Settles O41: loads, stores, kettle operations and closes, and the fetch-and-add. -/
theorem fabricRequestsServed : Obligations.FabricRequestsServed := by
  refine ⟨fun p s hp => ⟨?loads, ?stores, ?rops, ?close⟩, ?fetchAdd⟩
  case loads =>
    have served {n : Nat} {kind : BitVec 6} {i : Instr} (hk : p.kind = kind)
        (hi : exec i s = .next (s.serve p kind fun x => x.serveLoad p n)) :
        let z := Spec.taken s (.packet p)
        (∀ v, z.admitPacket p n true false = .ok v → (z.homeReads v.acc v.pa n).any Prod.snd = false → ∃ t : State, exec i s = .next t ∧
          Spec.answers z t p none (ofBytes 1024 ((z.homeReads v.acc v.pa n).map Prod.fst)) ∧ Spec.sameMemory s t) ∧
        (∀ c, z.admitPacket p n true false = .error c → ∃ t : State, exec i s = .next t ∧
          Spec.answers z t p (some c) 0 ∧ Spec.sameMemory s t) :=
      ⟨fun v hv hpois => ⟨_, hi, serve_load hp hk (State.serveLoad_ok hv hpois)⟩,
        fun c hc => ⟨_, hi, serve_load hp hk (State.serveLoad_error hc)⟩⟩
    intro e he hk
    rcases List.mem_cons.1 he with rfl | he
    · exact served hk rfl
    · obtain rfl := List.mem_singleton.1 he
      exact served hk rfl
  case stores =>
    intro e he hk hroom v hv
    rcases List.mem_cons.1 he with rfl | he
    · exact ⟨_, rfl, serve_store hp hk hroom hv⟩
    · obtain rfl := List.mem_singleton.1 he
      exact ⟨_, rfl, serve_store hp hk hroom hv⟩
  case rops => exact fun v r k hk hv hrun => ⟨_, rfl, serve_rop hp hk hv hrun⟩
  case close => exact fun y hk hy hnet => closeRequest_answers hp hk hy hnet
  case fetchAdd => exact fun s k k0 off c old a hc hold => fetchAdd_adds hc hold

end Sys2Proof.Machine
end

section
/-! Replies, timeouts and the tally table; FABSLOT, FXWIN and the arrival of packets (R285, R288 to R296, R428). -/

namespace Sys2Proof.Machine

section
variable {s : State} {p : Packet} {ci tok : Nat} {r : RemoteOp}

/-! Results that reach their contexts (R291, R295). -/

theorem State.answer_hub (s : State) (ci tok : Nat) (v : Wide) (m : Mark) : (s.answer ci tok v m).hub = s.hub := by
  unfold State.answer
  dsimp only
  split
  · rfl
  · split <;> rfl

theorem State.remoteDone_hub (s : State) (ci tok : Nat) (r : RemoteOp) (cls : Option (BitVec 4)) (data : Lanes) :
    (s.remoteDone ci tok r cls data).hub = s.hub := by
  unfold State.remoteDone
  dsimp only
  rw [modCtx_hub]
  split
  · exact s.answer_hub _ _ _ _
  · rfl

/-- With nothing that waits to be sent, nothing is (R294). -/
theorem State.pump_of_none (h : s.hub.waiting = []) : s.pump = s := by
  unfold State.pump
  rw [h]
  rfl

/-- The tag of an answered request is free. -/
def State.untagged (s : State) (p : Packet) : State :=
  { Spec.taken s (.packet p) with hub := { s.hub with
      tags := Tab.set s.hub.tags p.tag.toNat { Tab.get {} s.hub.tags p.tag.toNat with req := none } } }

/-- A reply to an outstanding request reaches its context (R291, R295). -/
theorem State.takeReply_outstanding (hp : Spec.accepted s p) (hreq : (Tab.get {} s.hub.tags p.tag.toNat).req = some (ci, tok, r))
    (hinc : (Tab.get {} s.hub.tags p.tag.toNat).inc = p.inc) (hk : p.kind = r.kind + 32) (hgen : r.gen = s.gen r.slot)
    (hwait : s.hub.waiting = []) {ok : BitVec 6 → Bool} (hok : ok r.kind = true) (hreply : 33 ≤ p.kind.toNat) :
    s.takeReply p ok = (s.untagged p).remoteDone ci tok r (if p.errv then some p.err else none) ((s.untagged p).opened r.slot p) := by
  obtain ⟨hdst, hnet, hold⟩ := hp
  have htake : s.takeNet (.packet p) = some (Spec.taken s (.packet p)) := if_pos (by simpa using hnet)
  have hold' : ¬((Spec.taken s (.packet p)).tooOld p = true) := by
    rw [show (Spec.taken s (.packet p)).tooOld p = s.tooOld p from rfl, hold]
    exact Bool.false_ne_true
  have hkind : p.kind - 32 = r.kind := by
    rw [hk]
    exact BitVec.add_sub_cancel r.kind 32
  have hguard : ¬(p.dmod ≠ s.fabid ∨ (!(decide (33 ≤ p.kind.toNat) && ok (p.kind - 32))) = true) := by
    rw [hkind]
    simp [hdst, hok, hreply]
  have hmatch : ¬((Tab.get {} s.hub.tags p.tag.toNat).inc ≠ p.inc ∨ r.kind ≠ p.kind - 32) := by
    rw [hinc, hkind]
    simp
  unfold State.takeReply
  rw [if_neg hguard, htake]
  dsimp only
  rw [if_neg hold', show (Spec.taken s (.packet p)).hub.tags = s.hub.tags from rfl, hreq]
  dsimp only
  rw [if_neg hmatch, if_neg (not_not.2 hgen)]
  exact pump_of_none ((congrArg Hub.waiting (State.remoteDone_hub _ _ _ _ _ _)).trans hwait)

/-- A write to another register leaves what a scalar register waits for. -/
theorem Bank.pends_write_other (b : Bank) {w : RegWrite} {n : Nat} (hn : n < 64) (hw : w.reg ≠ .s n) :
    (b.write w).pends (.s n) = b.pends (.s n) := by
  have hkey : n ≠ w.reg.key := by
    intro e
    cases h : w.reg with
    | s i =>
      rw [h] at e hw
      exact hw (congrArg Reg.s e.symm)
    | _ =>
      rw [h] at e
      simp only [Reg.key] at e
      omega
  simp only [Bank.write, Bank.pends, Tab.get_put, Bank.store_pend]
  exact if_neg hkey

/-- Landings of other registers leave what a scalar register waits for (R93). -/
theorem Ctx.landDue_pends (c : Ctx) (cycle : Nat) {n : Nat} (hn : n < 64) (hf : ∀ f ∈ c.flight, ∀ w ∈ f.writes, w.reg ≠ .s n) :
    (c.landDue cycle).bank.pends (.s n) = c.bank.pends (.s n) := by
  have writes (l : List RegWrite) (hl : ∀ w ∈ l, w.reg ≠ .s n) (b : Bank) : (l.foldl Bank.write b).pends (.s n) = b.pends (.s n) := by
    induction l generalizing b with
    | nil => rfl
    | cons w r ih =>
      exact (ih (fun x hx => hl x (List.mem_cons_of_mem _ hx)) _).trans (b.pends_write_other hn (hl w (List.mem_cons_self ..)))
  have landings (l : List Landing) (hl : ∀ f ∈ l, ∀ w ∈ f.writes, w.reg ≠ .s n) (b : Bank) :
      (l.foldl (fun b f => f.writes.foldl Bank.write b) b).pends (.s n) = b.pends (.s n) := by
    induction l generalizing b with
    | nil => rfl
    | cons f r ih =>
      exact (ih (fun x hx => hl x (List.mem_cons_of_mem _ hx)) _).trans (writes f.writes (hl f (List.mem_cons_self ..)) b)
  exact landings _ (fun f hf' => hf f (List.mem_filter.1 hf').1) _

/-- A load of eight bytes none of which is the context's own takes the first eight bytes of the reply. -/
theorem lanesOf_eight {mask : BitVec 128} (hmask : mask = 0) {n : Nat} (hn : n = 8) (own data : Lanes) :
    (lanesOf 8 ((List.range 128).map fun i => if mask.getLsbD i then elem 8 own i else if i < n then elem 8 data i else 0)).setWidth 64 =
      data.setWidth 64 := by
  subst hmask hn
  refine BitVec.eq_of_getLsbD_eq fun j hj => ?_
  rw [BitVec.getLsbD_setWidth, BitVec.getLsbD_setWidth, ← lanesOf_elem data, getLsbD_lanesOf (by decide) _ (by omega),
    getLsbD_lanesOf (by decide) _ (by omega), lanesOf_elem]
  have hlane : j / 8 < 8 := by omega
  have hrange : j / 8 < 128 := by omega
  simp [hrange, hlane]

theorem State.remoteDone_load (hk : r.kind = 1) (cls : Option (BitVec 4)) (data : Lanes) : ∃ m : Mark,
    (s.remoteDone ci tok r cls data).ctx ci =
      ({ (s.ctx ci).landDue s.cycle with remote := (s.ctx ci).remote.filter (·.1 != tok) } : Ctx).deliver tok
        { data := lanesOf 8 ((List.range 128).map fun i =>
            if r.mask.getLsbD i then elem 8 r.data i else if i < r.n then elem 8 data i else 0) } m := by
  have hload : r.isLoad = true := by simp [RemoteOp.isLoad, hk]
  unfold State.remoteDone
  dsimp only
  rw [if_neg (fun h => by simp [hk] at h), State.modCtx_ctx_self, if_pos hload]
  exact ⟨_, rfl⟩

/-- The bytes of a remote load of one register (R291). -/
theorem remoteDone_loads {n : Nat} {y : Pend} (hk : r.kind = 1) (hn : r.n = 8) (hmask : r.mask = 0) (h0 : 0 < n) (h64 : n < 64)
    (hp : (s.ctx ci).bank.pends (.s n) = [y]) (hy : y.tok = tok) (hf : ∀ f ∈ (s.ctx ci).flight, ∀ w ∈ f.writes, w.reg ≠ .s n)
    (data : Lanes) : let d := (s.remoteDone ci tok r none data).ctx ci
    d.bank.getS n = data.setWidth 64 ∧ d.bank.pends (.s n) = [] ∧ ∀ x ∈ d.remote, x.1 ≠ tok := by
  intro d
  obtain ⟨m, hd⟩ := State.remoteDone_load (s := s) (ci := ci) (tok := tok) hk none data
  obtain ⟨hpends, hval⟩ := Bank.deliver_to_waiting (v := { data := lanesOf 8 ((List.range 128).map fun i =>
    if r.mask.getLsbD i then elem 8 r.data i else if i < r.n then elem 8 data i else 0) }) m h0 h64
    (((s.ctx ci).landDue_pends s.cycle h64 hf).trans hp) hy
  rw [lanesOf_eight hmask hn] at hval
  rw [show d = _ from hd]
  exact ⟨hval, hpends, fun x hx => by simpa using (List.mem_filter.1 hx).2⟩

/-- An acknowledgement ends its write's wait (R291, R295). -/
theorem remoteDone_acknowledges (hk : r.kind = 3 ∨ r.kind = 4) (cls : Option (BitVec 4)) (data : Lanes) :
    ∀ w ∈ ((s.remoteDone ci tok r cls data).ctx ci).unacked, w.1 ≠ tok := by
  have h5 : ¬r.kind = 5 := by rcases hk with h | h <;> rw [h] <;> decide
  have h6 : ¬r.kind = 6 := by rcases hk with h | h <;> rw [h] <;> decide
  have hload : ¬r.isLoad = true := by rcases hk with h | h <;> simp [RemoteOp.isLoad, h]
  unfold State.remoteDone
  dsimp only
  rw [if_neg fun h => h5 h.1, State.modCtx_ctx_self, if_neg hload, if_neg h6]
  intro w hw
  split at hw
  · simpa using (List.mem_filter.1 hw).2
  · rename_i hany
    exact fun hwt => hany (List.any_eq_true.2 ⟨w, hw, by simp [hwt]⟩)

/-- A request with no reply after RTOUT lands with class 9, and its tag goes to the next incarnation (R295). -/
theorem requestTimeout_lands {tag : Nat} (hreq : (Tab.get {} s.hub.tags tag).req = some (ci, tok, r)) (hgen : r.gen = s.gen r.slot)
    (hwait : s.hub.waiting = []) (hdue : (Tab.get {} s.hub.tags tag).sent + (s.hubReg 8).toNat * 1000 ≤ s.dtime) :
    let g := Tab.get {} s.hub.tags tag
    s.requestTimeout tag = (({ s with hub := { s.hub with
      tags := Tab.set s.hub.tags tag { g with req := none, inc := g.inc + 1 } } } : State).remoteDone ci tok r (some 9) 0) := by
  intro g
  have hlate : ¬s.dtime < g.sent + s.rtout := Nat.not_lt.2 hdue
  unfold State.requestTimeout
  dsimp only
  rw [hreq]
  dsimp only
  rw [if_neg hlate, if_neg (not_not.2 hgen)]
  exact State.pump_of_none ((congrArg Hub.waiting (State.remoteDone_hub _ _ _ _ _ _)).trans hwait)

end

theorem fabricRepliesArrive : Spec.FabricRepliesArrive := by
  refine ⟨?replies, ?timeout, ?tally⟩
  case replies =>
    intro p s ci tok r g hp hreq hinc hk hgen hwait z cls
    refine ⟨?kinds, ?load, ?acks⟩
    case kinds =>
      have takes {ok : BitVec 6 → Bool} (hok : ok r.kind = true) (h : 1 ≤ r.kind.toNat ∧ r.kind.toNat ≤ 6) :
          s.takeReply p ok = z.remoteDone ci tok r cls (z.opened r.slot p) := by
        refine State.takeReply_outstanding hp hreq hinc hk hgen hwait hok ?_
        rw [hk, BitVec.toNat_add]
        show 33 ≤ (r.kind.toNat + 32) % 64
        omega
      intro e he hmem
      simp only [List.mem_cons, List.not_mem_nil, or_false] at he
      rcases he with rfl | rfl | rfl | rfl | rfl
      all_goals simp only [List.mem_cons, List.not_mem_nil, or_false] at hmem
      · exact congrArg Host.Outcome.next (takes (ok := (· == 1)) (by simp [hmem]) (by rw [hmem]; decide))
      · exact congrArg Host.Outcome.next (takes (ok := (· == 2)) (by simp [hmem]) (by rw [hmem]; decide))
      · exact congrArg Host.Outcome.next (takes (ok := (· == 5)) (by simp [hmem]) (by rw [hmem]; decide))
      · exact congrArg Host.Outcome.next (takes (ok := fun k => k == 3 || k == 4) (by simpa using hmem)
          (by rcases hmem with h | h <;> rw [h] <;> decide))
      · exact congrArg Host.Outcome.next (takes (ok := (· == 6)) (by simp [hmem]) (by rw [hmem]; decide))
    case load => exact fun n y data hk hn hmask h0 h64 hpend hy hf => remoteDone_loads (s := z) hk hn hmask h0 h64 hpend hy hf data
    case acks => exact fun data hk => remoteDone_acknowledges hk cls data
  case timeout =>
    exact fun s tag ci tok r htag hreq hgen hwait hdue =>
      (if_pos htag).trans (congrArg Host.Outcome.next (requestTimeout_lands hreq hgen hwait hdue))
  case tally =>
    intro s m x b
    refine ⟨_, rfl, fun y => ?_⟩
    rw [List.mem_filter]
    refine and_congr_right fun _ => ?_
    simp only [Bool.not_eq_true', Bool.and_eq_false_iff, beq_eq_false_iff_ne, decide_eq_false_iff_not]
    tauto

/-! FABSLOT and FXWIN (R285, R288, R289). -/

section
variable {s : State} {p : Packet}

theorem State.revokeFabric_ctx (s : State) (slot : BitVec 4) (ci : Nat) : (s.revokeFabric slot).ctx ci =
    (s.ctx ci).mapHandle fun h => if h.ps = 14 ∧ h.slot = slot ∧ h.st = .valid then { h with st := .revoked } else h :=
  Tab.get_map (f := fun c : Ctx => c.mapHandle fun h => if h.ps = 14 ∧ h.slot = slot ∧ h.st = .valid then { h with st := .revoked } else h)
    rfl s.ctxs ci

theorem fabslotWrite_revokes (slot : BitVec 4) {v : Word} (hv : v.toNat / 2 ^ 24 % 2 ^ 37 = 0) :
    ∃ t : State, exec (.fabslotWrite slot v) s = .next t ∧ t.fabslot slot = v ∧ ∀ ci n, let h := Tab.get {} (s.ctx ci).bank.h n
      Tab.get {} (t.ctx ci).bank.h n = if h.ps = 14 ∧ h.slot = slot ∧ h.st = .valid then { h with st := .revoked } else h := by
  have hres : ¬field v 24 37 ≠ 0 := by
    rw [field_eq_div_mod]
    exact not_not.2 hv
  refine ⟨_, if_neg hres, ?_, fun ci n => ?_⟩
  · show (s.setHubReg (0x100 + 8 * slot.toNat) v).hubReg (0x100 + 8 * slot.toNat) = v
    rw [State.setHubReg_hubReg, if_pos rfl]
  · rw [State.revokeFabric_ctx]
    exact Tab.get_map (f := fun h : Handle => if h.ps = 14 ∧ h.slot = slot ∧ h.st = .valid then { h with st := .revoked } else h)
      rfl (s.ctx ci).bank.h n

theorem registerWrite_fxwin {off : Nat} (hlo : 0x1000 ≤ off) (hhi : off < 0x2000) (halign : off % 8 = 0) (v : Word) :
    exec (.registerWrite .hub (BitVec.ofNat 25 off) v) s = .next (s.setHubReg off v) := by
  have hoff : (BitVec.ofNat 25 off).toNat = off := by
    rw [BitVec.toNat_ofNat]
    omega
  show execRegisterWrite .hub (BitVec.ofNat 25 off) v s = _
  rw [execRegisterWrite, hoff, if_pos halign]
  show Host.Outcome.next (s.writeHub off 0 v) = _
  rw [State.writeHub, if_pos (by omega), State.writeLow, if_neg (by omega), if_neg (by omega), if_neg (by omega), if_neg (by omega),
    if_pos ⟨hlo, hhi⟩]

theorem fxwin_setHubReg (x : BitVec 8) (hi : Bool) (v : Word) (y : Nat) :
    (s.setHubReg (0x1000 + 16 * x.toNat + if hi then 8 else 0) v).fxwin y =
      if y = x.toNat then (if hi then v ++ (s.fxwin y).extractLsb' 0 64 else (s.fxwin y).extractLsb' 64 64 ++ v) else s.fxwin y := by
  have hlow (a b : Word) : (a ++ b).extractLsb' 0 64 = b := by
    refine BitVec.eq_of_getLsbD_eq fun i hi => ?_
    rw [BitVec.getLsbD_extractLsb', BitVec.getLsbD_append]
    simp [hi]
  have hhigh (a b : Word) : (a ++ b).extractLsb' 64 64 = a := by
    refine BitVec.eq_of_getLsbD_eq fun i hi => ?_
    rw [BitVec.getLsbD_extractLsb', BitVec.getLsbD_append]
    simp [hi]
  unfold State.fxwin
  rw [State.setHubReg_hubReg, State.setHubReg_hubReg, hlow, hhigh]
  cases hi with
  | true =>
    simp only [if_true]
    rw [if_neg (c := 0x1000 + 16 * y = _) (by omega)]
    by_cases hy : y = x.toNat
    · rw [if_pos hy, if_pos (by omega)]
    · rw [if_neg hy, if_neg (by omega)]
  | false =>
    simp only [Bool.false_eq_true, if_false, Nat.add_zero]
    rw [if_neg (c := 0x1000 + 16 * y + 8 = _) (by omega)]
    by_cases hy : y = x.toNat
    · rw [if_pos hy, if_pos (by omega)]
    · rw [if_neg hy, if_neg (by omega)]

/-- An entry that does not count (R289). -/
theorem fxEnabled_false {e : BitVec 128} (h : e.getLsbD 127 = false ∨ 20 < (e.extractLsb' 104 5).toNat ∨ e.extractLsb' 27 53 ≠ 0 ∨
    ∃ i < (e.extractLsb' 104 5).toNat, e.getLsbD i = true) : fxEnabled e = false := by
  unfold fxEnabled field
  simp only [Bool.and_eq_false_iff, decide_eq_false_iff_not, beq_eq_false_iff_ne]
  rcases h with h | h | h | ⟨i, hi, hbit⟩
  · exact .inl (.inl (.inl h))
  · exact .inl (.inl (.inr (Nat.not_le.2 h)))
  · exact .inl (.inr fun h0 => h (BitVec.eq_of_toNat_eq h0))
  · by_cases hsize : (e.extractLsb' 104 5).toNat ≤ 20
    · have hbase : ¬(e.extractLsb' 0 27).toNat % 2 ^ (e.extractLsb' 104 5).toNat = 0 := by
        intro h0
        have htest : ((e.extractLsb' 0 27).toNat % 2 ^ (e.extractLsb' 104 5).toNat).testBit i = true := by
          rw [Nat.testBit_mod_two_pow, BitVec.testBit_toNat, BitVec.getLsbD_extractLsb']
          simp only [Nat.zero_add, hbit, Bool.and_true, Bool.and_eq_true, decide_eq_true_eq]
          omega
        rw [h0, Nat.zero_testBit] at htest
        cases htest
      exact .inr hbase
    · exact .inl (.inl (.inr hsize))

theorem State.admitPacket_disabled (hown : p.own = false) (hdown : s.hub.down = false) (he : fxEnabled (s.fxwin p.win.toNat) = false)
    (n : Nat) (rd wr : Bool) : s.admitPacket p n rd wr = .error 0 := by
  unfold State.admitPacket
  rw [hown]
  dsimp only
  rw [if_neg (by simp [hdown]), if_pos (by simp [he])]

/-! The arrival of packets (R290, R428). -/

theorem networkPacketArrival_accepts (hdst : p.dmod = s.fabid) (hold : s.tooOld p = false) (hworld : p.world ≠ 3)
    (hawake : s.hub.caddy.asleep = false) (hkey : Tab.get 0 s.hub.caddy.fabKey p.world.toNat ≠ 0)
    (hauth : p.auth = macWord (Tab.get 0 s.hub.caddy.fabKey p.world.toNat) (bytesOf (headerBits p) 24))
    (hflow : Tab.get none s.hub.fseqIn (p.smod.toNat * 4 + p.world.toNat) = none) (hkind : knownKind p.kind = true) :
    exec (.networkPacketArrival p) s = .next { s with
      net := s.net ++ [.packet { p with own := false }]
      hub := { s.hub with fseqIn := Tab.set s.hub.fseqIn (p.smod.toNat * 4 + p.world.toNat) (some (p.fseq, 0)) } } := by
  have hverifies : s.verifies p = true := by
    unfold State.verifies State.authOf
    simp [hawake, hkey, hauth]
  show execNetworkPacketArrival p s = _
  unfold execNetworkPacketArrival
  rw [if_neg (by simp [hdst, hold]), if_neg hworld]
  dsimp only
  rw [if_pos hverifies, hflow]
  dsimp only [seqAccept]
  rw [if_pos hkind]

theorem networkPacketArrival_rejects (hdst : p.dmod = s.fabid) (hold : s.tooOld p = false) (hworld : p.world ≠ 3)
    (hauth : p.auth ≠ macWord (Tab.get 0 s.hub.caddy.fabKey p.world.toNat) (bytesOf (headerBits p) 24))
    (hlo : 1 ≤ p.kind.toNat) (hhi : p.kind.toNat ≤ 6) (hcount : (s.hubReg 0xB080).toNat < 2 ^ 32 - 1) : ∃ t : State,
      exec (.networkPacketArrival p) s = .next t ∧ t.hubReg 0xB080 = s.hubReg 0xB080 + 1 ∧
      Spec.replies s t p (some 7) 0 ∧ t.hub.fseqIn = s.hub.fseqIn := by
  have hverifies : ¬s.verifies p = true := by
    unfold State.verifies State.authOf
    simp [hauth]
  have hfabid : s.countAuth.fabid = s.fabid := by
    unfold State.countAuth State.fabid
    rw [State.setHubReg_hubReg, if_neg (by decide)]
  have hexec : exec (.networkPacketArrival p) s =
      .next (s.countAuth.emit { replyOf s.countAuth.fabid p (some 7) 0 with birth := BitVec.ofNat 12 (s.dtime / 1000) }) := by
    show execNetworkPacketArrival p s = _
    unfold execNetworkPacketArrival
    rw [if_neg (by simp [hdst, hold]), if_neg hworld]
    dsimp only
    rw [if_neg hverifies]
    dsimp only
    rw [if_pos ⟨hlo, hhi⟩, hfabid]
  have hreg : s.countAuth.hubReg 0xB080 = s.hubReg 0xB080 + 1 := by
    unfold State.countAuth
    rw [State.setHubReg_hubReg, if_pos rfl, Nat.min_eq_left (by omega)]
    exact BitVec.eq_of_toNat_eq (by simp [BitVec.toNat_add])
  have hview : s.countAuth.sendView = s.sendView := by
    unfold State.sendView
    rw [hfabid]
    rfl
  refine ⟨_, hexec, ?_, replies_of_emit hview _ _ _, ?_⟩
  · obtain ⟨h, n, o, e⟩ := s.countAuth.emit_eq { replyOf s.countAuth.fabid p (some 7) 0 with birth := BitVec.ofNat 12 (s.dtime / 1000) }
    rw [e]
    exact hreg
  · obtain ⟨h, n, o, e⟩ := s.countAuth.emit_eq { replyOf s.countAuth.fabid p (some 7) 0 with birth := BitVec.ofNat 12 (s.dtime / 1000) }
    rw [e]
    rfl

end

theorem fabricPortEvents : Spec.FabricPortEvents := by
  refine ⟨?fabslot, ?fxwin, ?disabled, ?arrival⟩
  case fabslot => exact fun s slot v hv => fabslotWrite_revokes slot hv
  case fxwin =>
    intro s x hi v
    have hx := x.isLt
    refine ⟨_, registerWrite_fxwin (by omega) (by split <;> omega) (by split <;> omega) v, rfl, fxwin_setHubReg x hi v⟩
  case disabled => exact fun p s n rd wr hown hdown h => State.admitPacket_disabled hown hdown (fxEnabled_false h) n rd wr
  case arrival =>
    intro p s hdst hold hworld k key
    refine ⟨fun hawake hkey hauth hflow hkind => networkPacketArrival_accepts hdst hold hworld hawake hkey hauth hflow ?_,
      networkPacketArrival_rejects hdst hold hworld⟩
    simpa [knownKind] using hkind

/-- Settles O42: the replies, and the events of the port. -/
theorem fabricRepliesAndPortEvents : Obligations.FabricRepliesAndPortEvents := ⟨fabricRepliesArrive, fabricPortEvents⟩

end Sys2Proof.Machine
end

section
/-! Fields of a word, written and read back. -/

namespace Sys2Proof.Machine

section
variable {w : Nat}

theorem getLsbD_setField (x : BitVec w) (lo n v i : Nat) : (setField x lo n v).getLsbD i =
    (decide (i < w) && if lo ≤ i ∧ i < lo + n then v.testBit (i - lo) else x.getLsbD i) := by
  have hin : decide (i - lo < n) = decide (i < lo + n) ∨ i < lo := by
    by_cases h : lo ≤ i
    · exact .inl (decide_eq_decide.2 (by omega))
    · exact .inr (by omega)
  simp only [setField, BitVec.getLsbD_or, BitVec.getLsbD_and, BitVec.getLsbD_not, BitVec.getLsbD_ofNat, Nat.testBit_mul_two_pow,
    Nat.testBit_two_pow_sub_one, Nat.testBit_mod_two_pow]
  by_cases hw : i < w
  · by_cases hlo : lo ≤ i
    · by_cases hhi : i < lo + n
      · simp [hw, hlo, hhi, show i - lo < n by omega]
      · simp [hw, hlo, hhi, show ¬i - lo < n by omega]
    · simp [hw, hlo]
  · simp [hw]

theorem testBit_field (x : BitVec w) (lo n i : Nat) : (field x lo n).testBit i = (decide (i < n) && x.getLsbD (lo + i)) := by
  rw [field, BitVec.testBit_toNat, BitVec.getLsbD_extractLsb']

theorem field_lt (x : BitVec w) (lo n : Nat) : field x lo n < 2 ^ n := (x.extractLsb' lo n).isLt

/-- A field reads as it was written. -/
theorem field_setField_same (x : BitVec w) {lo n : Nat} (h : lo + n ≤ w) (v : Nat) : field (setField x lo n v) lo n = v % 2 ^ n := by
  refine Nat.eq_of_testBit_eq fun i => ?_
  rw [testBit_field, getLsbD_setField, Nat.testBit_mod_two_pow]
  by_cases hi : i < n
  · simp [hi, show lo + i < w by omega]
  · simp [hi]

/-- A field keeps where another is written. -/
theorem field_setField_other (x : BitVec w) {lo n lo' n' : Nat} (h : lo + n ≤ lo' ∨ lo' + n' ≤ lo) (v : Nat) :
    field (setField x lo' n' v) lo n = field x lo n := by
  refine Nat.eq_of_testBit_eq fun i => ?_
  rw [testBit_field, testBit_field, getLsbD_setField]
  by_cases hi : i < n
  · rw [if_neg (by omega)]
    by_cases hw : lo + i < w
    · simp [hw]
    · simp [hw, BitVec.getLsbD_of_ge x (lo + i) (by omega)]
  · simp [hi]

/-- A bit outside a field that is written keeps. -/
theorem getLsbD_setField_other (x : BitVec w) {lo n i : Nat} (h : i < lo ∨ lo + n ≤ i) (v : Nat) :
    (setField x lo n v).getLsbD i = x.getLsbD i := by
  rw [getLsbD_setField, if_neg (by omega)]
  by_cases hw : i < w
  · simp [hw]
  · simp [hw, BitVec.getLsbD_of_ge x i (by omega)]

theorem getLsbD_setField_bit (x : BitVec w) {lo : Nat} (h : lo < w) (v : Nat) : (setField x lo 1 v).getLsbD lo = decide (v % 2 = 1) := by
  rw [getLsbD_setField, if_pos ⟨Nat.le_refl _, Nat.lt_succ_self _⟩, Nat.sub_self, Nat.testBit_zero]
  simp [h]

/-- A field read by extraction keeps where another is written. -/
theorem extractLsb'_setField_other (x : BitVec w) {lo n lo' n' : Nat} (h : lo + n ≤ lo' ∨ lo' + n' ≤ lo) (v : Nat) :
    (setField x lo' n' v).extractLsb' lo n = x.extractLsb' lo n :=
  BitVec.eq_of_toNat_eq (field_setField_other x h v)

theorem field_zero (lo n : Nat) : field (0 : BitVec w) lo n = 0 :=
  Nat.eq_of_testBit_eq fun i => by rw [testBit_field]; simp

end

end Sys2Proof.Machine
end

section
/-! Retries and lane swaps of the vertical bus, migration and retirement, soft errors and the error logs (R300, R410 to R418, R428). -/

namespace Sys2Proof.Machine

section
variable {s : State}

/-! The counters of a die's log (R418). -/

theorem State.modDie_modDie (s : State) (d : Nat) (f g : Die → Die) : (s.modDie d f).modDie d g = s.modDie d fun y => g (f y) := by
  simp only [State.modDie, State.setDie, State.die, Tab.set_set, Tab.get_set_same]


/-- A counter of a die's log after k more events. -/
def Die.counted (y : Die) (off lo n k : Nat) : Die :=
  let v := Tab.get 0 y.regs off
  { y with regs := Tab.put 0 y.regs off (setField v lo n (min (field v lo n + k) (2 ^ n - 1))) }

theorem State.countDie_eq (s : State) (d off lo n k : Nat) : s.countDie d off lo n k = s.modDie d fun y => y.counted off lo n k := by
  have hfit (m : Nat) : min m (2 ^ n - 1) % 2 ^ n = min m (2 ^ n - 1) := by
    have := Nat.two_pow_pos n
    exact Nat.mod_eq_of_lt (by omega)
  unfold State.countDie Die.counted setField maskBits
  simp only [hfit]

theorem Die.counted_reg (y : Die) (off lo n k o : Nat) : Tab.get 0 (y.counted off lo n k).regs o =
    if o = off then (let v := Tab.get 0 y.regs off; setField v lo n (min (field v lo n + k) (2 ^ n - 1))) else Tab.get 0 y.regs o :=
  Tab.get_put ..

/-! Sectors as the decoder reads them (R411, R412). -/

/-- Cells without errors are read as they are. -/
theorem State.readCell_nil (s : State) (sec : Nat) : s.readCell sec [] = .clean := by
  unfold State.readCell
  refine if_pos ?_
  unfold addErrors
  simp

/-- A burst in which no bit flipped arrives as it was sent (R414). -/
theorem State.deliver_nil (s : State) (b : Burst) : s.deliver b [] = s := by
  refine foldl_keeps (v := id) (fun x k => ?_) (List.range 8) s
  show x.decoded _ (x.readCell _ []) 0 = x
  rw [State.readCell_nil]
  rfl

/-! Bursts on the vertical bus (R414, R415, R418). -/

theorem channelOf_lt (line : Nat) : channelOf line < 32 :=
  Nat.xor_lt_two_pow (n := 5) (Nat.mod_lt _ (by decide)) (Nat.mod_lt _ (by decide))

/-- What XFRLAST says of a burst that has passed (R418). -/
theorem xfrLast_fields {b : Burst} {k : Nat} (hk : k < 8) (grp : BitVec 6) : let l := xfrLast b k false false grp 0
    l.getLsbD 63 = true ∧ field l 59 3 = k ∧ field l 57 2 = 0 ∧ field l 10 29 = b.line.toNat := by
  intro l
  have hch := channelOf_lt b.line.toNat
  have hline := b.line.isLt
  have hgrp := grp.isLt
  obtain ⟨w, hw, hw1⟩ : ∃ w, (if b.write then 2 ^ 62 else 0) = w * 2 ^ 62 ∧ w ≤ 1 := by
    by_cases h : b.write
    · exact ⟨1, if_pos h, Nat.le_refl 1⟩
    · exact ⟨0, if_neg h, Nat.zero_le 1⟩
  have hl : l.toNat = 2 ^ 63 + w * 2 ^ 62 + k * 2 ^ 59 + channelOf b.line.toNat * 2 ^ 52 + grp.toNat * 2 ^ 46 + b.line.toNat * 2 ^ 10 := by
    show (BitVec.ofNat 64 _).toNat = _
    rw [BitVec.toNat_ofNat, hw]
    simp only [Bool.false_eq_true, if_false]
    omega
  refine ⟨?_, ?_, ?_, ?_⟩
  · rw [← BitVec.testBit_toNat, hl, Nat.testBit_eq_decide_div_mod_eq, decide_eq_true_eq]
    omega
  all_goals
    rw [field_eq_div_mod, hl]
    omega

/-- The log after a burst's last event (R418). -/
def Die.loggedXfer (y : Die) (last : Word) (retries swaps fails : Nat) : Die :=
  let z := ((y.counted 0x2118 0 32 retries).counted 0x2118 48 16 swaps).counted 0x2118 32 16 fails
  { z with regs := Tab.put 0 z.regs 0x2120 last }

theorem State.logXfer_eq (s : State) (d : Nat) (last : Word) (retries swaps fails : Nat) :
    s.logXfer d last retries swaps fails = s.modDie d fun y => y.loggedXfer last retries swaps fails := by
  unfold State.logXfer Die.loggedXfer
  simp only [State.countDie_eq, State.modDie_modDie]

theorem Die.loggedXfer_last (y : Die) (last : Word) (retries swaps fails : Nat) :
    Tab.get 0 (y.loggedXfer last retries swaps fails).regs 0x2120 = last :=
  (Tab.get_put ..).trans (if_pos rfl)

theorem Die.loggedXfer_retries (y : Die) (last : Word) (retries swaps fails : Nat) :
    field (Tab.get 0 (y.loggedXfer last retries swaps fails).regs 0x2118) 0 32 =
      min (field (Tab.get 0 y.regs 0x2118) 0 32 + retries) (2 ^ 32 - 1) := by
  have hkeep : Tab.get 0 (y.loggedXfer last retries swaps fails).regs 0x2118 =
      Tab.get 0 (((y.counted 0x2118 0 32 retries).counted 0x2118 48 16 swaps).counted 0x2118 32 16 fails).regs 0x2118 :=
    (Tab.get_put ..).trans (if_neg (by decide))
  rw [hkeep, Die.counted_reg, if_pos rfl]
  dsimp only
  rw [field_setField_other _ (.inl (by decide)), Die.counted_reg, if_pos rfl]
  dsimp only
  rw [field_setField_other _ (.inl (by decide)), Die.counted_reg, if_pos rfl]
  dsimp only
  rw [field_setField_same _ (by decide)]
  exact Nat.mod_eq_of_lt (by omega)

/-- A burst that passes parity after k retries is logged with k (R414, R418). -/
theorem parityRetry_logs {b : Burst} {k : Nat} (hpos : 1 ≤ k)
    (hpass : burstPasses b ((s.die (burstDie b)).laneUsed (channelOf b.line.toNat)) = some k)
    (hflips : burstFlips b ((s.die (burstDie b)).laneUsed (channelOf b.line.toNat)) k = []) : ∃ grp : BitVec 6,
    exec (.parityRetry b) s = .next (s.modDie (burstDie b) fun y => y.loggedXfer (xfrLast b k false false grp 0) k 0 0) := by
  obtain ⟨j, rfl⟩ : ∃ j, k = j + 1 := ⟨k - 1, by omega⟩
  refine ⟨(failGroup (burstFlips b ((s.die (burstDie b)).laneUsed (channelOf b.line.toNat)) j)).getD 0, ?_⟩
  show execParityRetry b s = _
  unfold execParityRetry
  dsimp only
  rw [hpass]
  dsimp only
  rw [hflips, State.deliver_nil, State.logXfer_eq]

/-- Wires moved to spares, and the burst sent once more (R415). -/
theorem laneSwap_moves {b : Burst} (hpass : burstPasses b ((s.die (burstDie b)).laneUsed (channelOf b.line.toNat)) = none) :
    let used := (s.die (burstDie b)).laneUsed (channelOf b.line.toNat)
    let now := used ++ b.wires.map fun w => ((failGroup (burstFlips b used 4)).getD 0, w)
    b.wires ≠ [] → now.length ≤ 16 → burstFlips b now 5 = [] → ∃ last : Word,
      exec (.laneSwap b) s = .next ((s.modDie (burstDie b) fun y => { y with
        lanes := Tab.set y.lanes (channelOf b.line.toNat) now }.loggedXfer last 4 b.wires.length 0).irq 2) := by
  intro used now hwires hfit hflips
  have hfits : (!b.wires.isEmpty && decide (now.length ≤ 16)) = true := by simp [hwires, hfit]
  show ∃ last, execLaneSwap b s = _
  unfold execLaneSwap
  dsimp only
  rw [hpass]
  dsimp only
  rw [if_pos hfits, show burstFlips b (_ ++ b.wires.map _) 5 = [] from hflips, if_pos (show (failGroup []).isNone = true from rfl),
    State.deliver_nil, State.logXfer_eq, State.modDie_modDie]
  exact ⟨_, rfl⟩

/-- A burst that fails for good (R415). -/
theorem laneSwap_fails {b : Burst} (hpass : burstPasses b ((s.die (burstDie b)).laneUsed (channelOf b.line.toNat)) = none) :
    let used := (s.die (burstDie b)).laneUsed (channelOf b.line.toNat)
    let now := used ++ b.wires.map fun w => ((failGroup (burstFlips b used 4)).getD 0, w)
    b.wires = [] ∨ 16 < now.length → ∃ last : Word,
      exec (.laneSwap b) s = .next (((s.modDie (burstDie b) fun y => y.loggedXfer last 4 0 1).irq 2).failBurst b) := by
  intro used now h
  have hfits : ¬(!b.wires.isEmpty && decide (now.length ≤ 16)) = true := by
    rcases h with h | h
    · simp [h]
    · simp [Nat.not_le.2 h]
  show ∃ last, execLaneSwap b s = _
  unfold execLaneSwap
  dsimp only
  rw [hpass]
  dsimp only
  rw [if_neg hfits, State.logXfer_eq]
  exact ⟨_, rfl⟩

theorem Die.loggedXfer_lanes (y : Die) (last : Word) (retries swaps fails ch : Nat) :
    (y.loggedXfer last retries swaps fails).laneUsed ch = y.laneUsed ch := rfl

/-! Migration (R300). -/

/-- Copying sectors again clears their bits. -/
theorem copyAgain_bit (l : List Nat) (m : BitVec 512) {j : Nat} (hj : j < 512) :
    (l.foldl (fun m i => m &&& ~~~((1 : BitVec 512) <<< i)) m).getLsbD j = (m.getLsbD j && !l.contains j) := by
  induction l generalizing m with
  | nil => simp
  | cons i l ih =>
    have hbit : ((1 : BitVec 512) <<< i).getLsbD j = (j == i) := by
      rw [BitVec.getLsbD_shiftLeft]
      by_cases h : j = i
      · simp [h, show i < 512 by omega]
      · by_cases hlt : j < i
        · simp [h, hlt]
        · simp [h, hlt, show ¬j - i = 0 by omega]
    rw [List.foldl_cons, ih, BitVec.getLsbD_and, BitVec.getLsbD_not, hbit, List.contains_cons]
    simp [hj, Bool.and_assoc]

/-- Once every written sector is copied again no bit is set (R300). -/
theorem copyAgain_all (m : BitVec 512) {n : Nat} (hn : 512 ≤ n) :
    (((List.range 512).filter fun i => m.getLsbD i).take n).foldl (fun m i => m &&& ~~~((1 : BitVec 512) <<< i)) m = 0 := by
  have hlen : ((List.range 512).filter fun i => m.getLsbD i).length ≤ n :=
    (List.length_filter_le _ _).trans (by rw [List.length_range]; exact hn)
  refine BitVec.eq_of_getLsbD_eq fun j hj => ?_
  rw [List.take_of_length_le hlen, copyAgain_bit _ _ hj]
  by_cases h : m.getLsbD j = true
  · have hmem : ((List.range 512).filter fun i => m.getLsbD i).contains j = true := by simp [h, hj]
    rw [hmem]
    simp
  · simp [h]

theorem Die.startMigr_remap (d : Die) : d.startMigr.remap = d.remap := by
  unfold Die.startMigr Die.logPend
  dsimp only
  split
  · split
    · split <;> rfl
    · rfl
  · rfl

theorem Die.switchMigr_remap {d : Die} {g : Migr} (h : d.migr = some g) : Tab.get 0 d.switchMigr.remap g.src = g.dst := by
  unfold Die.switchMigr
  rw [h]
  dsimp only
  rw [Die.startMigr_remap]
  exact Tab.get_set_same ..

theorem migration_moves (d : BitVec 2) (g : Migr) (n : Nat) (hmigr : (s.die d.toNat).migr = some g) :
    let put := fun x : Migr => s.modDie d.toNat fun y => { y with migr := some x }
    (g.hold = none → g.copied < 512 → exec (.migration d n) s = .next (put { g with copied := min 512 (g.copied + n) })) ∧
    (g.hold = none → 512 ≤ g.copied → g.dirty = 0 → exec (.migration d 0) s = .next (put { g with hold := some s.dtime })) ∧
    (g.hold = none → 512 ≤ g.copied → 512 ≤ n → exec (.migration d n) s = .next (put { g with dirty := 0 })) ∧
    (∀ h, g.hold = some h → (∃ t : State, exec (.migration d n) s = .next t ∧
        Tab.get 0 (t.die d.toNat).remap g.src = g.dst ∧ t.mem = s.mem) ∧
      (h + 2000 ≤ s.dtime → exec (.migrationHoldTimeout d) s = .next (put { g with hold := none }))) := by
  intro put
  have hexec (k : Nat) : exec (.migration d k) s = execMigration d k s := rfl
  have hexec' : exec (.migrationHoldTimeout d) s = execMigrationHoldTimeout d s := rfl
  refine ⟨fun hhold hcopy => ?copy, fun hhold hcopy hdirty => ?hold, fun hhold hcopy hn => ?again, fun h hhold => ⟨?switch, fun hlate => ?timeout⟩⟩
  case copy =>
    rw [hexec, execMigration, hmigr]
    dsimp only
    rw [hhold]
    exact if_pos hcopy
  case hold =>
    have hfew : ((List.range 512).filter fun i => g.dirty.getLsbD i).length ≤ fewBits := by
      rw [hdirty]
      simp [fewBits]
    rw [hexec, execMigration, hmigr]
    dsimp only
    rw [hhold]
    dsimp only
    rw [if_neg (Nat.not_lt.2 hcopy), if_pos rfl, if_pos hfew]
  case again =>
    rw [hexec, execMigration, hmigr]
    dsimp only
    rw [hhold]
    dsimp only
    rw [if_neg (Nat.not_lt.2 hcopy), if_neg (show ¬n = 0 by omega), copyAgain_all _ hn]
  case switch =>
    refine ⟨s.modDie d.toNat Die.switchMigr, ?_, ?_, rfl⟩
    · rw [hexec, execMigration, hmigr]
      dsimp only
      rw [hhold]
    · rw [State.modDie_die, if_pos rfl]
      exact Die.switchMigr_remap hmigr
  case timeout =>
    rw [hexec', execMigrationHoldTimeout, hmigr]
    dsimp only
    rw [hhold]
    exact if_neg (Nat.not_lt.2 hlate)

/-! Retirement (R417). -/

theorem Die.setRtctl_rtctl (y : Die) (v : Word) : (y.setRtctl v).rtctl = v := Tab.get_set_same ..

/-- A block that may be retired is migrated at once (R300, R417). -/
theorem Die.candidate_migrates {y : Die} {blk : Nat} (hmigr : y.migr = none) (hcands : y.cands = [])
    (hauto : y.rtctl.getLsbD 63 = true) (hfree : field y.rtctl 41 11 ≠ 0) :
    (y.candidate blk).migr.map (·.src) = some blk ∧ field (y.candidate blk).rtctl 41 11 = field y.rtctl 41 11 - 1 := by
  have hlt := field_lt y.rtctl 41 11
  have hnew : ¬(y.cands.contains blk = true ∨ y.migr.map (·.src) = some blk) := by simp [hmigr, hcands]
  have htake : ¬((!y.rtctl.getLsbD 63) = true ∨ field y.rtctl 41 11 = 0) := by simp [hauto, hfree]
  have hsame : ({ y with cands := y.cands ++ [blk] } : Die).rtctl = y.rtctl := rfl
  unfold Die.candidate
  rw [if_neg hnew, if_neg htake]
  unfold Die.startMigr
  rw [hsame]
  dsimp only
  rw [hmigr, hcands]
  dsimp only [List.nil_append]
  rw [if_neg hfree]
  refine ⟨rfl, ?_⟩
  rw [Die.setRtctl_rtctl]
  split
  · rw [field_setField_other _ (.inr (by decide)), field_setField_same _ (by decide), Nat.mod_eq_of_lt (by omega)]
  · rw [field_setField_same _ (by decide), Nat.mod_eq_of_lt (by omega)]

/-- A request to retire starts a migration (R417, R418). -/
theorem retireRequest_migrates (d : BitVec 2) {v : Word} (hreq : v.getLsbD 62 = true) (hauto : v.getLsbD 63 = true)
    (h : Spec.retirable (s.die d.toNat) (field v 0 21)) : ∃ t : State, exec (.retireRequest d v) s = .next t ∧
      (t.die d.toNat).migr.map (·.src) = some (field v 0 21) ∧
      field (t.die d.toNat).rtctl 41 11 = field (s.die d.toNat).rtctl 41 11 - 1 ∧ t.mem = s.mem := by
  obtain ⟨hblk, hmigr, hcands, hfree⟩ := h
  obtain ⟨b, hb, hb63, hbfree⟩ : ∃ b : Word, s.rtctlWrite d.toNat v = (s.modDie d.toNat fun y => (y.setRtctl b).candidate (field v 0 21)) ∧
      b.getLsbD 63 = true ∧ field b 41 11 = field (s.die d.toNat).rtctl 41 11 := by
    have hfield : field v 63 1 = 1 := by
      rw [BitVec.getLsbD, Nat.testBit_eq_decide_div_mod_eq, decide_eq_true_eq] at hauto
      rw [field_eq_div_mod]
      exact hauto
    have ha63 : (setField (setField (s.die d.toNat).rtctl 63 1 (field v 63 1)) 0 21 (field v 0 21)).getLsbD 63 = true := by
      rw [getLsbD_setField_other _ (.inr (by decide)), getLsbD_setField_bit _ (by decide), hfield]
      rfl
    have hafree : field (setField (setField (s.die d.toNat).rtctl 63 1 (field v 63 1)) 0 21 (field v 0 21)) 41 11 =
        field (s.die d.toNat).rtctl 41 11 := by
      rw [field_setField_other _ (.inr (by decide)), field_setField_other _ (.inl (by decide))]
    have hcond : v.getLsbD 62 = true ∧ field v 0 21 < dieBlocks := ⟨hreq, hblk⟩
    unfold State.rtctlWrite
    simp only [if_pos hcond]
    refine ⟨_, rfl, ?_, ?_⟩
    · split
      · exact ha63
      · rw [getLsbD_setField_other _ (.inr (by decide)), ha63]
    · split
      · exact hafree
      · rw [field_setField_other _ (.inl (by decide)), hafree]
  have hset := Die.setRtctl_rtctl (s.die d.toNat) b
  obtain ⟨hsrc, hleft⟩ := Die.candidate_migrates (y := (s.die d.toNat).setRtctl b) (blk := field v 0 21) hmigr hcands
    (by rw [hset]; exact hb63) (by rw [hset, hbfree]; exact hfree)
  rw [hset, hbfree] at hleft
  refine ⟨_, congrArg Host.Outcome.next hb, ?_, ?_, rfl⟩
  · rw [State.modDie_die, if_pos rfl]
    exact hsrc
  · rw [State.modDie_die, if_pos rfl]
    exact hleft

/-! Error logs (R418) and soft errors (R410, R412, R428). -/

theorem errorLogClear_clears (d : BitVec 2) {off : BitVec 16} {v : Word}
    (h : isErrCounter off.toNat = true ∨ (isErrLast off.toNat = true ∧ v = 0)) : ∃ t : State, exec (.errorLogClear d off v) s = .next t ∧
      Tab.get 0 (t.die d.toNat).regs off.toNat = 0 ∧
      ∀ o, o ≠ off.toNat → Tab.get 0 (t.die d.toNat).regs o = Tab.get 0 (s.die d.toNat).regs o := by
  refine ⟨_, congrArg Host.Outcome.next (if_pos h), ?_, fun o ho => ?_⟩
  · rw [State.modDie_die, if_pos rfl, Tab.get_erase, if_pos rfl]
  · rw [State.modDie_die, if_pos rfl, Tab.get_erase, if_neg ho]

theorem State.setHubReg_clears (s : State) (k : Nat) : (s.setHubReg k 0).hubReg k = 0 ∧
    ∀ o, o ≠ k → (s.setHubReg k 0).hubReg o = s.hubReg o := by
  refine ⟨?_, fun o ho => ?_⟩
  · rw [State.setHubReg_hubReg, if_pos rfl]
  · rw [State.setHubReg_hubReg, if_neg ho]

/-- An uncorrectable word of a register poisons it (R410). -/
theorem upset_poisons {c : Nat} (hc : c < 512) (r : Reg) : let t := s.upset (.sram (.reg c r) true)
    (t.ctx c).bank.mark r = .poison ∧ t.mem = s.mem := by
  have hthere : ¬(!(Granule.reg c r).there) = true := by simp [Granule.there, hc]
  intro t
  have ht : t = (s.countDie (Granule.reg c r).die 0x2308 32 32 1).spoil (.reg c r) := (if_neg hthere).trans (if_pos rfl)
  rw [ht, State.countDie_eq]
  refine ⟨?_, rfl⟩
  show (((s.modDie _ _).modCtx c _).ctx c).bank.mark r = _
  rw [State.modCtx_ctx_self]
  simp only [Ctx.mapMark, Bank.mark]
  rw [Tab.get_put, if_pos rfl]

/-- A corrected word is counted (R410, R418). -/
theorem upset_counts {g : Granule} (hg : g.there = true) : let t := s.upset (.sram g false)
    field (Tab.get 0 (t.die g.die).regs 0x2308) 0 32 = min (field (Tab.get 0 (s.die g.die).regs 0x2308) 0 32 + 1) (2 ^ 32 - 1) ∧
    t.mem = s.mem := by
  intro t
  have ht : t = s.countDie g.die 0x2308 0 32 1 := (if_neg (by simp [hg])).trans (if_neg Bool.false_ne_true)
  rw [ht, State.countDie_eq]
  refine ⟨?_, rfl⟩
  rw [State.modDie_die, if_pos rfl, Die.counted_reg, if_pos rfl]
  dsimp only
  rw [field_setField_same _ (by decide)]
  exact Nat.mod_eq_of_lt (by omega)

/-- A sector that cannot be decoded is poisoned, with an error interrupt (R412). -/
theorem State.decoded_uncorrectable (s : State) (sec src : Nat) : let t := s.decoded (128 * sec) .uncorrectable src
    Tab.get false t.mem.poison sec = true ∧ t.hub.irqs = s.hub.irqs ++ [2] := by
  intro t
  have hsec : 128 * sec / 128 = sec := Nat.mul_div_cancel_left sec (by decide)
  have hlog : (s.logCell (paDie (128 * sec)) (128 * sec / 128) true 0 src).hub = s.hub := rfl
  generalize hu : s.logCell (paDie (128 * sec)) (128 * sec / 128) true 0 src = u at hlog
  have ht : t = ((u.poisonHome (128 * sec / 128)).irq 2).modDie (paDie (128 * sec)) fun x => x.candidate (blockOf (128 * sec)) := by
    rw [← hu]
    rfl
  have hhub : (u.noteMigr (128 * sec)).hub = u.hub := by
    have e := congrArg State.hub (u.noteMigr_offMemory (128 * sec))
    exact e
  rw [ht, hsec]
  constructor
  · show Tab.get false (u.poisonHome sec).mem.poison sec = true
    unfold State.poisonHome
    dsimp only
    split
    · dsimp only
      rw [Tab.get_put, if_pos rfl]
    · dsimp only
      rw [Tab.get_put, if_pos rfl]
  · show (u.noteMigr (128 * sec)).hub.irqs ++ [2] = _
    rw [hhub, hlog]

theorem upset_rejected {sec : Nat} (hpop : populated (128 * sec) = true) (write : Bool) : let t := s.upset (.packet sec write false)
    (t.hubReg 0xB080).toNat = min ((s.hubReg 0xB080).toNat + 1) (2 ^ 32 - 1) ∧ t.mem = s.mem := by
  intro t
  have ht : t = s.countAuth := (if_neg (by simp [hpop])).trans (if_pos rfl)
  rw [ht]
  refine ⟨?_, rfl⟩
  unfold State.countAuth
  rw [State.setHubReg_hubReg, if_pos rfl, BitVec.toNat_ofNat]
  exact Nat.mod_eq_of_lt (by omega)

end

/-- Settles O51: each event of the reliability machinery. -/
theorem reliabilityEvents : Obligations.ReliabilityEvents := by
  intro s
  refine ⟨fun b => ?bursts, fun d g n => migration_moves d g n, fun d v hreq hauto h => retireRequest_migrates d hreq hauto h,
    fun d off v h => errorLogClear_clears d h, ?counts, fun c r hc => upset_poisons hc r, fun g hg => upset_counts hg, ?cell,
    fun sec write hpop => upset_rejected hpop write⟩
  case bursts =>
    intro d y ch used
    refine ⟨fun hpass hflips => ?_, fun k hpos hpass hflips => ?_, fun hpass => ⟨fun hwires hfit hflips => ?_, fun h => ?_⟩⟩
    · show execParityRetry b s = _
      unfold execParityRetry
      dsimp only
      rw [show burstPasses b ((s.die (burstDie b)).laneUsed (channelOf b.line.toNat)) = some 0 from hpass]
      dsimp only
      rw [show burstFlips b ((s.die (burstDie b)).laneUsed (channelOf b.line.toNat)) 0 = [] from hflips, State.deliver_nil]
    · have hk : k < 8 := by
        have := List.mem_of_find?_eq_some hpass
        have := List.mem_range.1 this
        omega
      obtain ⟨grp, hexec⟩ := parityRetry_logs hpos hpass hflips
      refine ⟨_, hexec, rfl, rfl, ?_, ?_⟩
      · rw [State.modDie_die, if_pos rfl]
        exact Die.loggedXfer_retries ..
      · rw [State.modDie_die, if_pos rfl, Die.loggedXfer_last]
        exact xfrLast_fields hk grp
    · obtain ⟨last, hexec⟩ := laneSwap_moves hpass hwires hfit hflips
      refine ⟨_, hexec, ?_, rfl, rfl, rfl⟩
      rw [show ∀ (u : State), (u.irq 2).die d = u.die d from fun _ => rfl, State.modDie_die, if_pos rfl]
      exact Tab.get_set_same ..
    · obtain ⟨last, hexec⟩ := laneSwap_fails hpass h
      refine ⟨_, hexec, ?_⟩
      unfold State.failBurst
      have hlanes : ((s.modDie d fun y => y.loggedXfer last 4 0 1).die d).laneUsed ch = used := by
        rw [State.modDie_die, if_pos rfl]
        exact Die.loggedXfer_lanes ..
      split
      · exact ⟨hlanes, rfl, rfl, rfl⟩
      · exact ⟨hlanes, rfl, rfl, rfl⟩
  case counts =>
    intro e he v
    simp only [List.mem_cons, List.not_mem_nil, or_false] at he
    rcases he with rfl | rfl
    · exact ⟨_, rfl, s.setHubReg_clears 0x10⟩
    · exact ⟨_, rfl, s.setHubReg_clears 0xB080⟩
  case cell =>
    intro sec errs copy hpop hread t
    have ht : t = s.decoded (128 * sec) .uncorrectable (if copy then 2 else 0) := (if_pos hpop).trans (by rw [hread])
    rw [ht]
    exact s.decoded_uncorrectable sec _

end Sys2Proof.Machine
end

section
/-! The end of a unit (R368, R369, R378): memory and the tenancy slots stay, and a free context stays free. -/

namespace Sys2Proof.Machine

section
variable {s t u : State}

/-! The work table (R366): what a count may change in it and beside it. -/

/-- The table and the tenancy slots, which its entries are read with. -/
def State.work (s : State) : Tab Packet64 × Tab TSlot := (s.hub.wobj, s.hub.slots)

theorem State.work_of_hub (h : t.hub = s.hub) : t.work = s.work := congrArg (fun x : Hub => (x.wobj, x.slots)) h

theorem State.wobj_of_work (h : t.work = s.work) (i : Nat) : t.wobj i = s.wobj i := by
  obtain ⟨hwobj, hslots⟩ := Prod.mk.inj h
  unfold State.wobj State.gen State.tslot
  rw [hwobj, hslots]

/-- The object is of the same slot and generation, and cancelled where it was. -/
def woKeeps (o o' : Packet64) : Prop := woGen o' = woGen o ∧ woSlot o' = woSlot o ∧ o'.getLsbD 225 = o.getLsbD 225

/-- A field of an object beside SLOT, GEN and the mark of a cancellation is written. -/
theorem woKeeps_setField {o o' : Packet64} (h : woKeeps o o') {lo n : Nat} (hlo : 198 ≤ lo) (hmark : lo + n ≤ 225 ∨ 226 ≤ lo) (v : Nat) :
    woKeeps o (setField o' lo n v) := by
  obtain ⟨hgen, hslot, hcancel⟩ := h
  refine ⟨?_, ?_, ?_⟩
  · exact (extractLsb'_setField_other o' (by omega) v).trans hgen
  · exact (extractLsb'_setField_other o' (by omega) v).trans hslot
  · exact (getLsbD_setField_other o' (by omega) v).trans hcancel

theorem woKeeps_refl (o : Packet64) : woKeeps o o := ⟨rfl, rfl, rfl⟩

theorem woKeeps_woFail {o o' : Packet64} (h : woKeeps o o') (n : Nat) : woKeeps o (woFail o' n) :=
  woKeeps_setField h (by decide) (.inr (by decide)) _

/-- One change that an object's completion makes beside the table: tasks go, a semaphore counts, a signal waits, an item is queued
(R369, R371). -/
inductive State.Told : State → State → Prop
  | tasks {s : State} (lobj : BitVec 12) (slot : BitVec 4) (gen : BitVec 12) : Told s (s.removeTasks lobj slot gen).2
  | sem {s : State} (core : Nat) (n : BitVec 8) (v : Nat) : Told s (s.addSem core n v)
  | signal {s : State} (l : List (Nat × BitVec 8 × Nat)) : Told s { s with hub := { s.hub with sigs := l } }
  | item {s : State} (x : StreamId) (f : StreamEntry → StreamEntry) : Told s (s.modStream x f)

section
variable {R : State → State → Prop} (hrefl : ∀ s, R s s) (htrans : ∀ s t u, R s t → R t u → R s u) (htold : ∀ s t, State.Told s t → R s t)
include htold

theorem State.signalWork_rule (s : State) (core : Nat) (n : BitVec 8) (v : Nat) : R s (s.signalWork core n v) := by
  unfold State.signalWork
  split
  · exact htold _ _ (.sem core n v)
  · exact htold _ _ (.signal _)

include hrefl

theorem State.endTasks_rule (s : State) (i : Nat) (o : Packet64) : R s (s.endTasks i o).2 := by
  unfold State.endTasks
  split
  · exact htold _ _ (.tasks _ _ _)
  · exact hrefl s

theorem State.sendCompletion_rule (s : State) (i : Nat) (o : Packet64) : R s (s.sendCompletion i o) := by
  unfold State.sendCompletion
  dsimp only
  split
  · exact hrefl s
  · split
    · exact hrefl s
    · exact htold _ _ (.item _ _)

include htrans

theorem State.woNotify_rule (s : State) (i : Nat) (o : Packet64) : R s (s.woNotify i o) := by
  have hsignal : R s (if o.getLsbD 224 ∧ s.coreSlot (field o 217 7) = woSlot o then
      s.signalWork (field o 217 7) (o.extractLsb' 209 8) (field o 205 4) else s) := by
    split
    · exact signalWork_rule htold s _ _ _
    · exact hrefl s
  unfold State.woNotify
  dsimp only
  split
  · exact hsignal
  · exact htrans _ _ _ hsignal (sendCompletion_rule hrefl htold _ i o)

/-- What relates the states of every change of a count relates those around the count: each writes a live entry, as woKeeps says, or tells
of one that is complete (R368, R369). -/
theorem State.woDec_rule (hset : ∀ (s : State) (i : Nat) (o : Packet64), woState (s.wobj i) = 1 → woKeeps (s.wobj i) o → R s (s.setWobj i o))
    (s : State) (i : Nat) (fails : Bool) (fuel : Nat) : R s (s.woDec i fails fuel) := by
  induction fuel generalizing s i fails with
  | zero => exact hrefl s
  | succ fuel ih =>
    unfold State.woDec
    dsimp only
    split
    · exact hrefl s
    · next hlive =>
      have hcount : woKeeps (s.wobj i) (setField (woFail (s.wobj i) (if fails = true then 1 else 0)) 240 32 (woPend (s.wobj i) - 1)) :=
        woKeeps_setField (woKeeps_woFail (woKeeps_refl _) _) (by decide) (.inr (by decide)) _
      generalize setField (woFail (s.wobj i) (if fails = true then 1 else 0)) 240 32 (woPend (s.wobj i) - 1) = o1 at hcount
      split
      · exact hset s i o1 (not_not.1 hlive) hcount
      · have hread : (s.endTasks i (s.wobj i)).2.wobj i = s.wobj i := by
          unfold State.endTasks
          split <;> rfl
        have hdone (n : Nat) : R s (((s.endTasks i (s.wobj i)).2.setWobj i (woFail (setField o1 198 3 2) n)).woNotify i
            (woFail (setField o1 198 3 2) n)) := by
          refine htrans _ _ _ (endTasks_rule hrefl htold s i (s.wobj i)) (htrans _ _ _ (hset _ i _ ?_ ?_)
            (woNotify_rule hrefl htrans htold _ _ _))
          · rw [hread]
            exact not_not.1 hlive
          · rw [hread]
            exact woKeeps_woFail (woKeeps_setField hcount (by decide) (.inl (by decide)) _) _
        split
        · exact htrans _ _ _ (hdone _) (ih _ _ _)
        · exact hdone _

end

/-! Operations that leave memory, the tenancy slots and every context alone. -/

/-- An operation that leaves memory, the tenancy slots and every context alone. -/
def State.quiet (s t : State) : Prop := s.storesAs t ∧ t.ctxs = s.ctxs

theorem State.quiet.refl (s : State) : s.quiet s := ⟨.refl s, rfl⟩
theorem State.quiet.trans (h : s.quiet t) (h' : t.quiet u) : s.quiet u := ⟨h.1.trans h'.1, h'.2.trans h.2⟩

theorem State.quiet_of_cores (hv : t.homeView = s.homeView) (hc : t.cores = s.cores) (hx : t.ctxs = s.ctxs) : s.quiet t :=
  ⟨storesAs_of_cores hv hc, hx⟩

theorem State.quiet_modCore (s : State) (i : Nat) {f : Core → Core} (hf : ∀ k, (f k).stored = k.stored) : s.quiet (s.modCore i f) :=
  ⟨storesAs_modCore s i hf, rfl⟩

theorem State.quiet_foldl {α : Type} {f : State → α → State} (hf : ∀ (s : State) (x : α), s.quiet (f s x)) (l : List α) (s : State) :
    s.quiet (l.foldl f s) := by
  induction l generalizing s with
  | nil => exact .refl s
  | cons x r ih => exact (hf s x).trans (ih _)

theorem State.quiet.mem (h : s.quiet t) : t.mem = s.mem := by
  have e := congrArg State.mem h.1.1
  exact e

theorem State.quiet.slots (h : s.quiet t) : t.hub.slots = s.hub.slots := by
  have e := congrArg (fun x : State => x.hub.slots) h.1.1
  exact e

theorem State.quiet.ctx (h : s.quiet t) (ci : Nat) : t.ctx ci = s.ctx ci := by
  unfold State.ctx
  rw [h.2]

theorem State.Told.quiet {s t : State} (h : State.Told s t) : s.quiet t := by
  cases h with
  | tasks lobj slot gen =>
    refine ⟨⟨rfl, fun k => ?_⟩, rfl⟩
    show (Tab.get {} (s.cores.map fun e => (e.1, dropTasks e.2 fun t => t.of lobj slot gen)) k).stored = _
    rw [Tab.get_map (f := fun c => dropTasks c fun t => t.of lobj slot gen) rfl]
    rfl
  | sem core n v => exact quiet_modCore s core fun _ => rfl
  | signal l => exact quiet_of_cores rfl rfl rfl
  | item x f => exact quiet_of_cores rfl rfl rfl

theorem State.quiet_woDec (s : State) (i : Nat) (fails : Bool) (fuel : Nat) : s.quiet (s.woDec i fails fuel) :=
  woDec_rule State.quiet.refl (fun _ _ _ h h' => h.trans h') (fun _ _ h => h.quiet) (fun _ _ _ _ _ => quiet_of_cores rfl rfl rfl) s i fails fuel

/-! Slot-table rows and units. -/

theorem State.quiet_setRow (s : State) (core i : Nat) (r : Packet64) : s.quiet (s.setRow core i r) :=
  quiet_modCore s core fun _ => rfl

theorem State.quiet_killSaved (s : State) (core : Nat) (w : SavedUnit) : s.quiet (s.killSaved core w) := by
  have hgone : s.quiet (s.modCore core fun k =>
      { k with units := k.units.erase w, saved := k.saved.filter (fun p => p.area != w.savea),
               replies := Tab.set k.replies w.row ((Tab.get [] k.replies w.row).filter fun p => p.1 != w.savea),
               toSaved := k.toSaved.filter fun p => p.1 != w.savea }) := quiet_modCore s core fun _ => rfl
  unfold State.killSaved
  dsimp only
  refine .trans ?_ (quiet_woDec _ _ _ _)
  split
  · exact hgone.trans (quiet_setRow _ _ _ _)
  · exact hgone

/-- An operation that leaves memory and the tenancy slots alone, and every free context free. -/
def State.endsOnly (s t : State) : Prop := s.storesAs t ∧ ∀ ci, (s.ctx ci).st = .free → (t.ctx ci).st = .free

theorem State.endsOnly.refl (s : State) : s.endsOnly s := ⟨.refl s, fun _ h => h⟩
theorem State.endsOnly.trans (h : s.endsOnly t) (h' : t.endsOnly u) : s.endsOnly u :=
  ⟨h.1.trans h'.1, fun ci hci => h'.2 ci (h.2 ci hci)⟩

theorem State.quiet.endsOnly (h : s.quiet t) : s.endsOnly t := ⟨h.1, fun ci hci => by rw [h.ctx ci, hci]⟩

theorem State.endsOnly_foldl {α : Type} {f : State → α → State} (hf : ∀ (s : State) (x : α), s.endsOnly (f s x)) (l : List α)
    (s : State) : s.endsOnly (l.foldl f s) := by
  induction l generalizing s with
  | nil => exact .refl s
  | cons x r ih => exact (hf s x).trans (ih _)

/-- Where each step of a fold makes its own context free, the fold leaves all of them free. -/
theorem State.endsOnly_foldl_free {α : Type} {f : State → α → State} (hf : ∀ (s : State) (x : α), s.endsOnly (f s x))
    {p : α → Nat → Prop} (hp : ∀ (s : State) x ci, p x ci → ((f s x).ctx ci).st = .free) {l : List α} {x : α} (hx : x ∈ l) {ci : Nat}
    (hci : p x ci) (s : State) : ((l.foldl f s).ctx ci).st = .free := by
  induction l generalizing s with
  | nil => cases hx
  | cons y r ih =>
    rcases List.mem_cons.1 hx with rfl | hx
    · exact (endsOnly_foldl hf r _).2 ci (hp s x ci hci)
    · exact ih hx _

theorem State.endsOnly_leaveCore (s : State) (ci start : Nat) : s.endsOnly (s.leaveCore ci start) :=
  ⟨s.storesAs_leaveCore ci start, fun cj h => by rw [leaveCore_ctx (by rw [h]; exact fun e => nomatch e), h]⟩

/-- A unit that ends leaves its context free (R378). -/
theorem State.endUnit_ends (s : State) (ci rst : Nat) (exit : Word) (fails : Bool) :
    s.endsOnly (s.endUnit ci rst exit fails) ∧ ((s.endUnit ci rst exit fails).ctx ci).st = .free := by
  by_cases hfree : (s.ctx ci).st = .free
  · rw [show s.endUnit ci rst exit fails = s from if_pos hfree]
    exact ⟨.refl s, hfree⟩
  · have hset (x : State) (c : Ctx) (hc : c.st = .free) : x.endsOnly (x.setCtx ci c) ∧ ((x.setCtx ci c).ctx ci).st = .free := by
      refine ⟨⟨storesAs_setCtx x ci c, fun cj hcj => ?_⟩, ?_⟩
      · rw [setCtx_ctx]
        split
        · exact hc
        · exact hcj
      · rw [setCtx_ctx, if_pos rfl]
        exact hc
    have hstep {x y : State} (hxy : x.endsOnly y) (hx : s.endsOnly x ∧ (x.ctx ci).st = .free) :
        s.endsOnly y ∧ (y.ctx ci).st = .free := ⟨hx.1.trans hxy, hxy.2 ci hx.2⟩
    have hcount {x : State} (hx : s.endsOnly x ∧ (x.ctx ci).st = .free) (c : Prop) [Decidable c] (i : Nat) (b : Bool) :
        s.endsOnly (if c then x.woDec i b woMax else x) ∧ ((if c then x.woDec i b woMax else x).ctx ci).st = .free := by
      split
      · exact hstep (x.quiet_woDec _ _ _).endsOnly hx
      · exact hx
    have hmod {x : State} (f : Core → Core) (hf : ∀ k, (f k).stored = k.stored) (hx : s.endsOnly x ∧ (x.ctx ci).st = .free) :
        s.endsOnly (x.modCore (ci / 4) f) ∧ ((x.modCore (ci / 4) f).ctx ci).st = .free :=
      hstep (quiet_modCore x (ci / 4) hf).endsOnly hx
    unfold State.endUnit
    dsimp only
    rw [if_neg hfree]
    apply hcount
    apply hstep (endsOnly_leaveCore _ ci _)
    refine hmod _ ?_ ?_
    · exact fun _ => rfl
    obtain ⟨hends, hnow⟩ := hset (s.setRow (ci / 4) (ci % 4) (if rst = 4 then setField (setField (s.row (ci / 4) (ci % 4)) 0 4 rst) 64 64 exit.toNat
      else setField (s.row (ci / 4) (ci % 4)) 0 4 rst)) { (s.ctx ci).carried with pitch := (s.ctx ci).pitch + 1 } rfl
    exact ⟨(quiet_setRow s _ _ _).endsOnly.trans hends, hnow⟩

end

end Sys2Proof.Machine
end

section
/-! Increments of a generation, the on-chip sweep, a core's change of slot and the reassignment of a block (R303 to R307, R313 to
R315). -/

namespace Sys2Proof.Machine

section
variable {s t u : State}

/-! The sweep of what stands outside the cores: streams, journals, requests and windows (R289, R296, R315, R340, R362). -/

/-- The cores and the tenancy slots. -/
def State.tenants (s : State) : Tab Core × Tab TSlot := (s.cores, s.hub.slots)

theorem State.post_tenants (s : State) (dst : BitVec 12) (m : Msg) : (s.post dst m).tenants = s.tenants := by
  unfold State.post
  split <;> rfl

theorem State.loseXfer_tenants (s : State) (x : XferBody) : (s.loseXfer x).tenants = s.tenants := by
  unfold State.loseXfer
  dsimp only
  split
  · exact s.post_tenants _ _
  · exact (State.post_tenants _ _ _).trans (s.post_tenants _ _)

theorem State.loseStored_tenants (s : State) (e : EndRec) : (s.loseStored e).tenants = s.tenants := by
  refine foldl_keeps (v := State.tenants) (fun x i => ?_) e.store s
  split
  · exact x.loseXfer_tenants _
  · rfl

theorem State.tellClosed_tenants (s : State) (x : StreamId) (cons : Bool) (e : EndRec) (aseq : BitVec 32) (orphan : Bool) :
    (s.tellClosed x cons e aseq orphan).tenants = s.tenants := by
  unfold State.tellClosed
  dsimp only
  split
  · exact s.post_tenants _ _
  · exact (State.post_tenants _ _ _).trans (s.post_tenants _ _)

theorem State.removeEnd_tenants (s : State) (x : StreamId) (cons orphan : Bool) : (s.removeEnd x cons orphan).tenants = s.tenants := by
  unfold State.removeEnd
  split
  · rfl
  · dsimp only
    rw [tellClosed_tenants]
    split
    · exact (State.loseStored_tenants _ _).trans rfl
    · rfl

theorem State.sweepJournals_tenants (s : State) (slot : BitVec 4) : (s.sweepJournals slot).tenants = s.tenants := by
  have hjournals (l : List (Nat × Journal)) (x : State) := foldl_keeps (v := State.tenants) (f := fun x e =>
    let y := (State.freeJournal x e.1).removeEnd e.2.sid false true
    let free := fun (z : State) (d : BitVec 12) => z.post d (.release ⟨d, s.fabid, BitVec.ofNat 12 e.1, true, 0, 0⟩)
    if e.2.state = 1 then y
    else (x.hub.jops.filter fun o => o.jidx == e.1 && o.stage == .copying).foldl (fun z o => free z o.asked) (free y e.2.part))
    (fun x e => by
      dsimp only
      have hend : ((x.freeJournal e.1).removeEnd e.2.sid false true).tenants = x.tenants := State.removeEnd_tenants _ _ _ _
      split
      · exact hend
      · exact (foldl_keeps (fun z o => z.post_tenants _ _) _ _).trans ((State.post_tenants _ _ _).trans hend)) l x
  have hrings (l : List Ring) (x : State) := foldl_keeps (v := State.tenants) (f := fun x r =>
    let y := ({ x with hub := { x.hub with rings := x.hub.rings.erase r } } : State).poolFree r.slot r.addr
    if r.iss = s.fabid then y else y.post r.iss (.notice ⟨r.iss, s.fabid, r.jidx⟩)) (fun x r => by
      dsimp only
      split
      · rfl
      · exact State.post_tenants _ _ _) l x
  exact (hrings _ _).trans (hjournals _ s)

theorem State.sweepStreams_tenants (s : State) (slot : BitVec 4) : (s.sweepStreams slot).tenants = s.tenants := by
  unfold State.sweepStreams
  dsimp only
  refine (foldl_keeps (v := State.tenants) (fun x i => ?_) _ _).trans (foldl_keeps (v := State.tenants) (fun x i => ?_) _ s)
  · exact foldl_keeps (v := State.tenants) (f := fun y (k : Inst) => y.poolFree k.slot k.buf) (fun _ _ => rfl) _ x
  · refine foldl_keeps (v := State.tenants) (fun x cons => ?_) [false, true] x
    have hend : ∀ y : State, y.tenants = x.tenants → (match (y.stream i).fwd cons with
        | some f =>
          if f.slot = slot ∧ f.gen ≠ y.gen slot then
            match cons, f.dest with
            | true, some t => (y.modStream i fun e => e.setFwd cons none).post t (lostNotice t i)
            | _, _ => y.modStream i fun e => e.setFwd cons none
          else y
        | none => y).tenants = x.tenants := by
      intro y hy
      split
      · split
        · split
          · exact (State.post_tenants _ _ _).trans hy
          · exact hy
        · exact hy
      · exact hy
    refine hend _ ?_
    split
    · split
      · exact State.removeEnd_tenants _ _ _ _
      · rfl
    · rfl

theorem State.setHubReg_tenants (s : State) (k : Nat) (v : Word) : (s.setHubReg k v).tenants = s.tenants := rfl

theorem State.sweepWindows_tenants (s : State) (slot : BitVec 4) : (s.sweepWindows slot).tenants = s.tenants := by
  unfold State.sweepWindows
  dsimp only
  refine (foldl_keeps (v := State.tenants) (fun x i => ?_) _ _).trans (foldl_keeps (v := State.tenants) (fun x i => ?_) _ s)
  · split <;> rfl
  · split <;> rfl

theorem State.modCtx_tenants (s : State) (ci : Nat) (f : Ctx → Ctx) : (s.modCtx ci f).tenants = s.tenants := rfl

theorem State.modTags_tenants (s : State) (l : Tab Tag) : ({ s with hub := { s.hub with tags := l } } : State).tenants = s.tenants := rfl

theorem State.emit_tenants (s : State) (p : Packet) : (s.emit p).tenants = s.tenants := by
  obtain ⟨h, n, o, e⟩ := s.emit_eq p
  rw [e]
  rfl

/-! The sweep of the cores (R308, R315). -/

/-- Of a core's storage the tiles, B slots and dictionary stay, and no task comes to its deque. -/
def Core.tidied (k k' : Core) : Prop :=
  k'.tiles = k.tiles ∧ k'.bslots = k.bslots ∧ k'.dict = k.dict ∧ ∀ x ∈ k'.deque, x ∈ k.deque

/-- The tenancy slots stay, and each core keeps its tiles, B slots and dictionary, and takes no task. -/
def State.tidied (s t : State) : Prop := t.hub.slots = s.hub.slots ∧ ∀ k, (s.core k).tidied (t.core k)

theorem State.tidied.refl (s : State) : s.tidied s := ⟨rfl, fun _ => ⟨rfl, rfl, rfl, fun _ h => h⟩⟩

theorem State.tidied.trans (h : s.tidied t) (h' : t.tidied u) : s.tidied u := by
  refine ⟨h'.1.trans h.1, fun k => ?_⟩
  obtain ⟨htiles, hslots, hdict, hdeque⟩ := h.2 k
  obtain ⟨htiles', hslots', hdict', hdeque'⟩ := h'.2 k
  exact ⟨htiles'.trans htiles, hslots'.trans hslots, hdict'.trans hdict, fun x hx => hdeque x (hdeque' x hx)⟩

theorem State.tidied_foldl {α : Type} {f : State → α → State} (hf : ∀ (s : State) (x : α), s.tidied (f s x)) (l : List α)
    (s : State) : s.tidied (l.foldl f s) := by
  induction l generalizing s with
  | nil => exact .refl s
  | cons x r ih => exact (hf s x).trans (ih _)

theorem State.tidied_of_tenants (h : t.tenants = s.tenants) : s.tidied t := by
  have hcores : t.cores = s.cores := congrArg Prod.fst h
  have hcore (k : Nat) : t.core k = s.core k := by
    unfold State.core
    rw [hcores]
  refine ⟨congrArg Prod.snd h, fun k => ?_⟩
  rw [hcore]
  exact ⟨rfl, rfl, rfl, fun _ h => h⟩

theorem State.tidied_modCore (s : State) (i : Nat) {f : Core → Core} (hf : ∀ k : Core, k.tidied (f k)) : s.tidied (s.modCore i f) := by
  refine ⟨rfl, fun k => ?_⟩
  rw [modCore_core]
  split
  · rw [‹k = i›]
    exact hf _
  · exact ⟨rfl, rfl, rfl, fun _ h => h⟩

/-- A change of every core alike. -/
theorem State.tidied_mapCores (s : State) {f : Core → Core} (hzero : f {} = {}) (hf : ∀ k : Core, k.tidied (f k)) :
    s.tidied { s with cores := s.cores.map fun e => (e.1, f e.2) } := by
  refine ⟨rfl, fun k => ?_⟩
  show (s.core k).tidied (Tab.get {} (s.cores.map fun e => (e.1, f e.2)) k)
  rw [Tab.get_map hzero]
  exact hf _

/-! Requests that are abandoned or sent (R294, R296). -/

theorem State.tidied_answer (s : State) (ci tok : Nat) (v : Wide) (m : Mark) : s.tidied (s.answer ci tok v m) := by
  unfold State.answer
  dsimp only
  split
  · exact tidied_of_tenants rfl
  · split
    · exact .refl s
    · exact s.tidied_modCore _ fun _ => ⟨rfl, rfl, rfl, fun _ h => h⟩

theorem State.tidied_remoteDone (s : State) (ci tok : Nat) (r : RemoteOp) (cls : Option (BitVec 4)) (data : Lanes) :
    s.tidied (s.remoteDone ci tok r cls data) := by
  unfold State.remoteDone
  dsimp only
  refine .trans ?_ (tidied_of_tenants (State.modCtx_tenants _ ci _))
  split
  · exact s.tidied_answer _ _ _ _
  · exact .refl s

theorem State.tidied_sendRequest (s : State) (ci tok tag : Nat) (r : RemoteOp) : s.tidied (s.sendRequest ci tok tag r) := by
  unfold State.sendRequest
  dsimp only
  split
  · exact tidied_of_tenants rfl
  · have hctx (f : Ctx → Ctx) : s.tidied (s.modCtx ci f) := tidied_of_tenants (s.modCtx_tenants ci f)
    split
    · exact (hctx _).trans (State.tidied_remoteDone _ _ _ _ _ _)
    · exact (hctx _).trans (tidied_of_tenants ((State.modTags_tenants _ _).trans (State.emit_tenants _ _)))

theorem State.tidied_pumpGo (s : State) (n : Nat) : s.tidied (s.pumpGo n) := by
  induction n generalizing s with
  | zero => exact .refl s
  | succ n ih =>
    unfold State.pumpGo
    split
    · next w rest t _ _ =>
      have hwaits : s.tidied { s with hub := { s.hub with waiting := rest } } := tidied_of_tenants rfl
      exact (hwaits.trans (State.tidied_sendRequest _ _ _ _ _)).trans (ih _)
    · exact .refl s

theorem State.tidied_sweepTags (s : State) (slot : BitVec 4) : s.tidied (s.sweepTags slot) := by
  unfold State.sweepTags
  dsimp only
  refine .trans ?_ (State.tidied_pumpGo _ _)
  refine .trans ?_ (tidied_foldl (fun x g => ?_) _ _)
  · exact tidied_of_tenants rfl
  · exact tidied_of_tenants rfl

/-! The cores' caches, queues and deques (R269, R315, R371). -/

theorem State.tidied_sweepCaches (s : State) (slot : BitVec 4) : s.tidied (s.sweepCaches slot) :=
  (s.tidied_mapCores (f := fun k => { k with l1 := s.dropStale slot k.l1, fifo := fixFifo (s.dropStale slot k.l1) k.fifo }) rfl
    fun _ => ⟨rfl, rfl, rfl, fun _ h => h⟩).trans ⟨rfl, fun _ => ⟨rfl, rfl, rfl, fun _ h => h⟩⟩

theorem State.tidied_retireCmd (s : State) (core q stat : Nat) : s.tidied (s.retireCmd core q stat) := by
  have hwrites (z : State) (a : Acc) (pa : Nat) (l : List Byte) : z.tidied (z.homeWrites a pa l) := by
    have e := congrArg (fun x : State => x.hub.slots) (z.homeWrites_offMemory a pa l)
    exact tidied_of_tenants (Prod.ext (z.homeWrites_cores a pa l) e)
  have hwrite (z : State) (a : Acc) (cells : List (Nat × Byte)) : z.tidied (z.homeWrite a cells) := by
    have e := congrArg (fun x : State => x.hub.slots) (z.homeWrite_offMemory a cells)
    exact tidied_of_tenants (Prod.ext (cores_of_caches (z.homeWrite_caches a cells)) e)
  unfold State.retireCmd
  dsimp only
  split
  · exact .refl s
  · exact ((hwrite s _ _).trans (hwrites _ _ _ _)).trans (tidied_modCore _ core fun _ => ⟨rfl, rfl, rfl, fun _ h => h⟩)

theorem State.tidied_dropFated (s : State) (core q n : Nat) : s.tidied (s.dropFated core q n) := by
  induction n generalizing s with
  | zero => exact .refl s
  | succ n ih =>
    unfold State.dropFated
    split
    · split
      · exact (s.tidied_retireCmd _ _ _).trans (ih _)
      · exact .refl s
    · exact .refl s

theorem State.tidied_sweepCommands (s : State) (core : Nat) (slot : BitVec 4) : s.tidied (s.sweepCommands core slot) := by
  refine tidied_foldl (fun x q => ?_) _ s
  have hqueue (f : EngQ → EngQ) : x.tidied (x.modEq core q f) := tidied_modCore x core fun _ => ⟨rfl, rfl, rfl, fun _ h => h⟩
  exact (hqueue _).trans (State.tidied_dropFated _ _ _ _)

theorem State.tidied_sweepWork (s : State) (slot : BitVec 4) : s.tidied (s.sweepWork slot) :=
  (show s.tidied { s with hub := { s.hub with wobj := s.hub.wobj.filter fun e => !(woSlot e.2 == slot && woGen e.2 != s.gen slot) } } from
    tidied_of_tenants rfl).trans
    (tidied_mapCores _ (f := fun k => dropTasks k fun t => t.slot == slot && t.gen != s.gen slot) rfl
      fun _ => ⟨rfl, rfl, rfl, fun _ h => (List.mem_filter.1 h).1⟩)

theorem State.freshKeys_tenants (s : State) (slot : BitVec 4) : (s.freshKeys slot).tenants = s.tenants := rfl

/-- The rest of the sweep, past the cores' own storage (R315). -/
def State.sweptRest (s : State) (slot : BitVec 4) : State :=
  let s2 := (s.sweepCaches slot).sweepWindows slot
  let s3 := (s2.cores.map (·.1)).foldl (fun x k => x.sweepCommands k slot) s2
  ((((s3.sweepJournals slot).sweepStreams slot).sweepWork slot).sweepTags slot).freshKeys slot

theorem State.tidied_sweptRest (s : State) (slot : BitVec 4) : s.tidied (s.sweptRest slot) := by
  have hcaches := (s.tidied_sweepCaches slot).trans (tidied_of_tenants (State.sweepWindows_tenants _ slot))
  unfold State.sweptRest
  dsimp only
  generalize (s.sweepCaches slot).sweepWindows slot = s2 at hcaches
  have hcommands := hcaches.trans (tidied_foldl (fun x k => x.tidied_sweepCommands k slot) (s2.cores.map (·.1)) s2)
  generalize (s2.cores.map (·.1)).foldl (fun x k => x.sweepCommands k slot) s2 = s3 at hcommands
  have hstreams := hcommands.trans (tidied_of_tenants ((State.sweepStreams_tenants _ slot).trans (s3.sweepJournals_tenants slot)))
  have hwork := hstreams.trans (State.tidied_sweepWork _ slot)
  exact (hwork.trans (State.tidied_sweepTags _ slot)).trans (tidied_of_tenants (State.freshKeys_tenants _ slot))

/-! A core's storage as the sweep leaves it. -/

/-- What the sweep keeps of a core's tiles, B slots, dictionary and deque (R308). -/
def Core.sweptOf (k : Core) (g : BitVec 12) (k' : Core) : Prop :=
  k'.tiles = k.tiles.filter (fun e => e.2.stamp == g) ∧ k'.bslots = k.bslots.filter (fun e => e.2.gen == g) ∧
  (∀ e ∈ k'.dict, ∃ d, e.2 = some d ∧ d.stamp = g) ∧ ∀ x ∈ k'.deque, x.gen = g

theorem Core.swept_sweptOf (k : Core) (g : BitVec 12) : k.sweptOf g (k.swept g) := by
  refine ⟨rfl, rfl, fun e he => ?_, fun x hx => ?_⟩
  · have hany := (List.mem_filter.1 he).2
    obtain ⟨d, hd, hg⟩ := (Option.any_eq_true _ _).1 hany
    exact ⟨d, hd, by simpa using hg⟩
  · simpa using (List.mem_filter.1 hx).2

/-- Sweeping a core twice sweeps it once. -/
theorem Core.sweptOf.again {k k' : Core} {g : BitVec 12} (h : k.sweptOf g k') : k.sweptOf g (k'.swept g) := by
  obtain ⟨htiles, hslots, hdict, hdeque⟩ := h
  obtain ⟨htiles', hslots', hdict', hdeque'⟩ := k'.swept_sweptOf g
  refine ⟨?_, ?_, hdict', hdeque'⟩
  · rw [htiles', htiles, List.filter_filter]
    simp
  · rw [hslots', hslots, List.filter_filter]
    simp

theorem Core.sweptOf.tidied {k k' k'' : Core} {g : BitVec 12} (h : k.sweptOf g k') (h' : k'.tidied k'') : k.sweptOf g k'' := by
  obtain ⟨htiles, hslots, hdict, hdeque⟩ := h
  obtain ⟨htiles', hslots', hdict', hdeque'⟩ := h'
  refine ⟨htiles'.trans htiles, hslots'.trans hslots, ?_, fun x hx => hdeque x (hdeque' x hx)⟩
  rw [hdict']
  exact hdict

/-- Every core of a list is swept (R315). -/
theorem State.sweepCores_core (l : List Nat) (g : BitVec 12) {k : Nat} (hk : k ∈ l) (s : State) :
    (s.core k).sweptOf g ((l.foldl (fun x k => x.modCore k fun y => y.swept g) s).core k) := by
  have hlater (l : List Nat) (x : State) (hx : (s.core k).sweptOf g (x.core k)) :
      (s.core k).sweptOf g ((l.foldl (fun x k => x.modCore k fun y => y.swept g) x).core k) := by
    induction l generalizing x with
    | nil => exact hx
    | cons i r ih =>
      refine ih _ ?_
      rw [modCore_core]
      split
      · rw [← ‹k = i›]
        exact hx.again
      · exact hx
  induction l generalizing s with
  | nil => cases hk
  | cons i r ih =>
    have hfirst : k = i → (s.core k).sweptOf g ((s.modCore i fun y => y.swept g).core k) := fun h => by
      rw [modCore_core, if_pos h, ← h]
      exact Core.swept_sweptOf _ _
    by_cases hi : k = i
    · exact hlater r _ (hfirst hi)
    · have hrest := ih ((List.mem_cons.1 hk).resolve_left hi) (s.modCore i fun y => y.swept g)
      rw [modCore_core, if_neg hi] at hrest
      exact hrest hlater

/-- The on-chip sweep leaves of the storage of a slot's cores what is of its current generation (R308, R315). -/
theorem onchipSweep_sweeps {slot : BitVec 4} (hbusy : (s.tslot slot.toNat).busy = true) : ∃ t : State,
    exec (.onchipSweepComplete slot) s = .next t ∧ (t.tslot slot.toNat).busy = false ∧ (t.tslot slot.toNat).gen = s.gen slot ∧
    ∀ k ∈ s.coresOf slot, (s.core k).sweptOf (s.gen slot) (t.core k) := by
  have hexec : exec (.onchipSweepComplete slot) s = .next ((((s.coresOf slot).foldl (fun x k => x.modCore k fun y => y.swept (s.gen slot)) s).sweptRest
      slot).modTslot slot.toNat fun t => { t with busy := false }) := if_neg (by simp [hbusy])
  have hswept := foldl_keeps (v := fun x : State => x.hub.slots) (f := fun x k => x.modCore k fun y => y.swept (s.gen slot))
    (fun _ _ => rfl) (s.coresOf slot) s
  have hcores (k : Nat) (hk : k ∈ s.coresOf slot) := State.sweepCores_core (s.coresOf slot) (s.gen slot) hk s
  generalize (s.coresOf slot).foldl (fun x k => x.modCore k fun y => y.swept (s.gen slot)) s = s1 at hexec hswept hcores
  obtain ⟨hslots, htidy⟩ := s1.tidied_sweptRest slot
  have hgen : (s1.sweptRest slot).tslot slot.toNat = s.tslot slot.toNat := by
    unfold State.tslot
    rw [hslots, hswept]
  generalize s1.sweptRest slot = u at hexec htidy hgen
  refine ⟨_, hexec, ?_, ?_, fun k hk => (hcores k hk).tidied (htidy k)⟩
  · rw [State.modTslot_tslot, if_pos rfl]
  · rw [State.modTslot_tslot, if_pos rfl, hgen]
    rfl

/-! An increment (R303, R304, R314). -/

theorem State.killStale_ends (s : State) (ci : Nat) : s.endsOnly (s.killStale ci) ∧ ((s.killStale ci).ctx ci).st = .free := by
  obtain ⟨hends, hfree⟩ := State.endUnit_ends (s.modCore (ci / 4) fun k =>
    { k with mops := k.mops.filter fun m => !m.ownPitch ci (s.ctx ci).pitch }) ci 5 0 true
  refine ⟨.trans (quiet.endsOnly ?_) hends, hfree⟩
  exact quiet_modCore s _ fun _ => rfl

/-- Every context of a core is freed. -/
theorem State.killStaleCore_ends (s : State) (k : Nat) : let t := (List.range 4).foldl (fun x i => x.killStale (4 * k + i)) s
    s.endsOnly t ∧ ∀ i < 4, (t.ctx (4 * k + i)).st = .free :=
  ⟨endsOnly_foldl (fun x _ => (x.killStale_ends _).1) _ s, fun _ hi =>
    endsOnly_foldl_free (fun x j => (x.killStale_ends (4 * k + j)).1) (p := fun i ci => ci = 4 * k + i)
      (fun x i _ h => h ▸ (x.killStale_ends (4 * k + i)).2) (List.mem_range.2 hi) rfl s⟩

/-- What an ended generation left for joins and dispatch is gone (R308, R315), memory and the contexts as they were. -/
theorem State.quiet_absent (s : State) (slot : BitVec 4) :
    s.quiet { s with cores := s.cores.map fun e : Nat × Core => if e.2.slot = slot then (e.1, e.2.absent) else e } := by
  have hmap : (s.cores.map fun e : Nat × Core => if e.2.slot = slot then (e.1, e.2.absent) else e) =
      s.cores.map fun e : Nat × Core => (e.1, if e.2.slot = slot then e.2.absent else e.2) :=
    List.map_congr_left fun e _ => by split <;> rfl
  rw [hmap]
  refine ⟨⟨rfl, fun k => ?_⟩, rfl⟩
  show (Tab.get {} (s.cores.map fun e : Nat × Core => (e.1, if e.2.slot = slot then e.2.absent else e.2)) k).stored = _
  rw [Tab.get_map (f := fun c : Core => if c.slot = slot then c.absent else c) (by split <;> rfl)]
  show (if (s.core k).slot = slot then (s.core k).absent else s.core k).stored = _
  split <;> rfl

theorem genAdvance_ends {slot : BitVec 4} {v : Word} (hadv : v.getLsbD 0 = true) (hres : field v 1 61 = 0)
    (hbusy : (s.tslot slot.toNat).busy = false) (hroom : ((s.tslot slot.toNat).gen + 1 - (s.tslot slot.toNat).floor).toNat < 4095) :
    let t := s.genAdvance slot v
    (t.tslot slot.toNat).gen = (s.tslot slot.toNat).gen + 1 ∧ (t.tslot slot.toNat).busy = true ∧ (t.tslot slot.toNat).deny = false ∧
    t.mem = s.mem ∧ ∀ k < 128, s.coreSlot k = slot → Spec.idle t k := by
  intro t
  have hgo : ¬(field v 1 61 ≠ 0 ∨ (s.tslot slot.toNat).busy = true ∨ (!v.getLsbD 0) = true) := by simp [hres, hbusy, hadv]
  generalize hs1 : (s.modTslot slot.toNat fun t => { t with gen := t.gen + 1, deny := false, busy := true }) = s1
  generalize hs2 : (s.allCoresOf slot).foldl (fun x k => (List.range 4).foldl (fun x i => x.killStale (4 * k + i)) x) s1 = s2
  generalize hs3 : ({ s2 with cores := s2.cores.map fun e => if e.2.slot = slot then (e.1, e.2.absent) else e } : State) = s3
  have ht : t = (s3.cores.map (·.1)).foldl (fun x k =>
      ((x.core k).units.filter fun u => u.slot == slot && u.gen != x.gen slot).foldl (fun y u => y.killSaved k u) x) s3 := by
    rw [← hs3, ← hs2, ← hs1]
    exact (if_neg hgo).trans (if_neg (Nat.not_le.2 hroom))
  have hends2 : s1.endsOnly s2 := hs2 ▸ State.endsOnly_foldl (fun x k => (x.killStaleCore_ends k).1) _ s1
  have hends3 : s2.endsOnly t := by
    rw [ht]
    have h3 : s2.endsOnly s3 := hs3 ▸ (s2.quiet_absent slot).endsOnly
    exact h3.trans (State.endsOnly_foldl (fun x k => State.endsOnly_foldl (fun y u => (y.quiet_killSaved k u).endsOnly) _ x) _ s3)
  have hview : t.homeView = s1.homeView := (hends2.trans hends3).1.1
  have hslot : t.tslot slot.toNat = { s.tslot slot.toNat with gen := (s.tslot slot.toNat).gen + 1, deny := false, busy := true } := by
    have e := congrArg (fun x : State => x.tslot slot.toNat) hview
    have e' : t.tslot slot.toNat = s1.tslot slot.toNat := e
    rw [e', ← hs1, State.modTslot_tslot, if_pos rfl]
  have hmem : t.mem = s.mem := by
    have e := congrArg State.mem hview
    have e' : t.mem = s1.mem := e
    rw [e', ← hs1]
    rfl
  refine ⟨by rw [hslot], by rw [hslot], by rw [hslot], hmem, fun k hk hslot i hi => hends3.2 _ ?_⟩
  rw [← hs2]
  exact State.endsOnly_foldl_free (fun x k => (x.killStaleCore_ends k).1) (p := fun k ci => ∃ i < 4, ci = 4 * k + i)
    (fun x k ci ⟨i, hi, h⟩ => h ▸ (x.killStaleCore_ends k).2 i hi)
    (List.mem_filter.2 ⟨List.mem_range.2 hk, by simpa using hslot⟩) ⟨i, hi, rfl⟩ s1

/-! A core's change of slot (R306) and the reassignment of a block (R307). -/

theorem coreslotChange_zeroes {core : Nat} {v : Word} (hres : field v 4 59 = 0) :
    (Spec.idle s core → ∃ t : State, exec (.coreslotChange core v) s = .next t ∧ (t.core core).slot = v.setWidth 4 ∧
      (t.core core).q = [] ∧ (t.core core).spad = [] ∧ (t.core core).tiles = [] ∧ (t.core core).deque = [] ∧
      (t.core core).l1 = [] ∧ (t.core core).tc = []) ∧
    (¬ Spec.idle s core → exec (.coreslotChange core v) s = .next s) := by
  have hbusy : ((List.range 4).any fun i => (s.ctx (4 * core + i)).st != .free) = true ↔ ¬Spec.idle s core := by
    rw [List.any_eq_true]
    simp only [Spec.idle, List.mem_range, bne_iff_ne, ne_eq]
    push Not
    rfl
  refine ⟨fun hidle => ?_, fun hbusy' => ?_⟩
  · have hgo : ¬(field v 4 59 ≠ 0 ∨ ((List.range 4).any fun i => (s.ctx (4 * core + i)).st != .free) = true) := by
      rw [hbusy]
      exact fun h => h.elim (fun h => h hres) (fun h => h hidle)
    refine ⟨_, congrArg Host.Outcome.next (if_neg hgo), ?_⟩
    rw [State.modCore_core, if_pos rfl]
    exact ⟨rfl, rfl, rfl, rfl, rfl, rfl, rfl⟩
  · exact congrArg Host.Outcome.next (if_pos (.inr (hbusy.2 hbusy')))

/-- A copy of a line of the block. -/
def lineOfBlock (d blk : Nat) (c : CLine) : Prop := paDie (1024 * c.line) = d ∧ blockOf (1024 * c.line) = blk

theorem Tab.get_mapKey {α : Type} {d : α} {f : Nat → α → α} (t : Tab α) {k : Nat} (hf : f k d = d) :
    Tab.get d (t.map fun e => (e.1, f e.1 e.2)) k = f k (Tab.get d t k) := by
  induction t with
  | nil => exact hf.symm
  | cons e r ih =>
    obtain ⟨j, x⟩ := e
    rw [List.map_cons, Tab.get, Tab.get]
    split
    · rw [‹j = k›]
    · exact ih

theorem State.dropBlock_drops (s : State) (d blk : Nat) :
    (∀ k, ∀ c ∈ ((s.dropBlock d blk).core k).l1, ¬lineOfBlock d blk c) ∧
    ∀ e, ∀ c ∈ ((s.dropBlock d blk).die e).rdc, ¬lineOfBlock d blk c := by
  have hhit (c : CLine) (h : (!(paDie (1024 * c.line) == d && blockOf (1024 * c.line) == blk)) = true) : ¬lineOfBlock d blk c := by
    rintro ⟨hd, hb⟩
    simp [hd, hb] at h
  refine ⟨fun k c hc => ?_, fun e c hc => ?_⟩
  · have hcore : (s.dropBlock d blk).core k = { s.core k with
        l1 := (s.core k).l1.filter fun c => !(paDie (1024 * c.line) == d && blockOf (1024 * c.line) == blk)
        fifo := fixFifo ((s.core k).l1.filter fun c => !(paDie (1024 * c.line) == d && blockOf (1024 * c.line) == blk)) (s.core k).fifo } :=
      Tab.get_map (f := fun k : Core => { k with
        l1 := k.l1.filter fun c => !(paDie (1024 * c.line) == d && blockOf (1024 * c.line) == blk)
        fifo := fixFifo (k.l1.filter fun c => !(paDie (1024 * c.line) == d && blockOf (1024 * c.line) == blk)) k.fifo }) rfl s.cores k
    rw [hcore] at hc
    exact hhit c (List.mem_filter.1 hc).2
  · have hdie : ((s.dropBlock d blk).die e).rdc = (s.die e).rdc.filter fun c => !(paDie (1024 * c.line) == d && blockOf (1024 * c.line) == blk) :=
      congrArg Die.rdc (Tab.get_mapKey (d := ({} : Die)) (f := fun e y => { y with
        rdc := y.rdc.filter (fun c => !(paDie (1024 * c.line) == d && blockOf (1024 * c.line) == blk))
        l2 := y.l2.filter fun x => !(e == d && blockOf (1024 * x.2.1) == blk) }) s.dies (k := e) rfl)
    rw [hdie] at hc
    exact hhit c (List.mem_filter.1 hc).2

theorem Mem.zeroBlock_bytes (m : Mem) (sec : Nat) (g : BitVec 12) {i : Nat} (hi : i < 65536) :
    Tab.get 0 (m.zeroBlock sec g).bytes (128 * sec + i) = 0 := by
  show Tab.get 0 (Tab.eraseRange m.bytes (128 * sec) (128 * sec + 65536)) _ = 0
  rw [Tab.get_eraseRange, if_pos (by omega)]

theorem Mem.zeroBlock_stamp (m : Mem) (sec : Nat) (g : BitVec 12) {i : Nat} (hi : i < 512) :
    Tab.get 0 (m.zeroBlock sec g).stamp (sec + i) = g := by
  have hstamp (l : List Nat) (t : Tab (BitVec 12)) : Tab.get 0 (l.foldl (fun t i => Tab.put 0 t (sec + i) g) t) (sec + i) =
      if i ∈ l then g else Tab.get 0 t (sec + i) := by
    induction l generalizing t with
    | nil => rfl
    | cons j l ih =>
      rw [List.foldl_cons, ih, Tab.get_put]
      by_cases h : i = j
      · simp [h]
      · simp [h]
  unfold Mem.zeroBlock
  dsimp only
  rw [hstamp, if_pos (List.mem_range.2 hi)]

theorem blockReassign_zeroes (d : BitVec 2) {v : Word} (hgo : v.getLsbD 63 = true) (hres : field v 29 34 = 0) (hres' : field v 21 3 = 0)
    (howner : field v 24 5 ≤ 16) (hblk : field v 0 21 < 1572864) :
    let t := s.blockReassign d.toNat v
    let sec := d.toNat * 2 ^ 30 + field v 0 21 * 512
    Tab.get 16 (t.die d.toNat).owner (field v 0 21) = BitVec.ofNat 5 (field v 24 5) ∧
    (∀ i < 65536, Tab.get 0 t.mem.bytes (128 * sec + i) = 0) ∧
    (∀ i < 512, Tab.get 0 t.mem.stamp (sec + i) = if field v 24 5 = 16 then 0 else (s.tslot (field v 24 5)).gen) ∧
    (∀ k, ∀ c ∈ (t.core k).l1, ¬lineOfBlock d.toNat (field v 0 21) c) ∧
    ∀ e, ∀ c ∈ (t.die e).rdc, ¬lineOfBlock d.toNat (field v 0 21) c := by
  intro t sec
  have hlegal : ¬(field v 29 34 ≠ 0 ∨ field v 21 3 ≠ 0 ∨ 16 < field v 24 5 ∨ dieBlocks ≤ field v 0 21) := by
    simp only [dieBlocks]
    omega
  generalize hs2 : (List.range 512).foldl (fun x i => x.noteMigr (128 * (sec + i))) (s.dropBlock d.toNat (field v 0 21)) = s2
  have ht : t = ({ s2 with mem := s2.mem.zeroBlock sec (if field v 24 5 = 16 then 0 else (s.tslot (field v 24 5)).gen) } : State).modDie d.toNat fun x =>
      { x with owner := Tab.put 16 x.owner (field v 0 21) (BitVec.ofNat 5 (field v 24 5)), blkasn := setField v 63 1 0 } := by
    rw [← hs2]
    exact (if_neg hlegal).trans (if_neg (by simp [hgo]))
  have hcaches : t.caches = (s.dropBlock d.toNat (field v 0 21)).caches := by
    rw [ht]
    refine (State.modDie_caches _ _ ?_).trans ?_
    · exact fun _ => rfl
    rw [← hs2]
    generalize List.range 512 = l
    exact foldl_keeps (v := State.caches) (f := fun x i => x.noteMigr (128 * (sec + i))) (fun x i => x.noteMigr_caches _) l _
  obtain ⟨hl1, hrdc⟩ := s.dropBlock_drops d.toNat (field v 0 21)
  refine ⟨?_, fun i hi => ?_, fun i hi => ?_, fun k c hc => hl1 k c ?_, fun e c hc => hrdc e c ?_⟩
  · rw [ht, State.modDie_die, if_pos rfl]
    dsimp only
    rw [Tab.get_put, if_pos rfl]
  · rw [ht]
    exact Mem.zeroBlock_bytes _ _ _ hi
  · rw [ht]
    exact Mem.zeroBlock_stamp _ _ _ hi
  · have e := congrArg (fun x => (Tab.get ({} : Core) x.1 k).l1) hcaches
    have e' : (t.core k).l1 = ((s.dropBlock d.toNat (field v 0 21)).core k).l1 := e
    rwa [e'] at hc
  · have e' : (t.die e).rdc = ((s.dropBlock d.toNat (field v 0 21)).die e).rdc := congrFun (congrArg Prod.snd hcaches) e
    rwa [e'] at hc

end

/-- Settles O47: each event of the tenancy machinery. -/
theorem tenancyEvents : Obligations.TenancyEvents := by
  intro s
  refine ⟨fun slot v => ?increment, fun slot hbusy => ?sweep, fun core v hres => coreslotChange_zeroes hres, fun d v => ?reassign⟩
  case increment =>
    intro y hadv hres hbusy
    refine ⟨fun hdeny => ?_, fun hroom => ⟨_, rfl, genAdvance_ends hadv hres hbusy hroom⟩⟩
    have hgo : ¬(field v 1 61 ≠ 0 ∨ (s.tslot slot.toNat).busy = true ∨ (!v.getLsbD 0) = true) := by
      rw [hres, hadv, show (s.tslot slot.toNat).busy = false from hbusy]
      simp
    exact congrArg Host.Outcome.next ((if_neg hgo).trans (if_pos hdeny))
  case sweep => exact onchipSweep_sweeps hbusy
  case reassign =>
    intro owner blk sec hgo hres hres' howner hblk
    obtain ⟨hown, hbytes, hstamp, hl1, hrdc⟩ := blockReassign_zeroes (s := s) d hgo hres hres' howner hblk
    exact ⟨_, rfl, hown, hbytes, hstamp, fun k c hc => not_and_or.1 (hl1 k c hc), fun e c hc => not_and_or.1 (hrdc e c hc)⟩

end Sys2Proof.Machine
end

section
/-! The sweep of DRAM and the end of its pass (R318 to R320, R416), and the images of a core (R404, R405). -/

namespace Sys2Proof.Machine

section
variable {s t u : State}

/-! A visit of the sweep (R318, R416). -/

/-- What a die's sweep goes by: the owner table and the place it has reached. -/
def State.sweepView (s : State) : Nat → Tab (BitVec 5) × Nat := fun d => ((s.die d).owner, (s.die d).swpos)

theorem State.modDie_sweepView (s : State) (k : Nat) {f : Die → Die} (hf : ∀ y, (f y).owner = y.owner ∧ (f y).swpos = y.swpos) :
    (s.modDie k f).sweepView = s.sweepView := by
  funext d
  unfold State.sweepView
  rw [modDie_die]
  split
  · obtain ⟨howner, hpos⟩ := hf (s.die k)
    rw [howner, hpos, ‹d = k›]
  · rfl

theorem Die.logPend_sweep (d : Die) (b : Nat) : (d.logPend b).owner = d.owner ∧ (d.logPend b).swpos = d.swpos := by
  unfold Die.logPend
  split <;> exact ⟨rfl, rfl⟩

theorem Die.startMigr_sweep (d : Die) : d.startMigr.owner = d.owner ∧ d.startMigr.swpos = d.swpos := by
  unfold Die.startMigr
  split
  · dsimp only
    split
    · exact (Die.logPend_sweep _ _)
    · exact ⟨rfl, rfl⟩
  · exact ⟨rfl, rfl⟩

theorem Die.switchMigr_sweep (d : Die) : d.switchMigr.owner = d.owner ∧ d.switchMigr.swpos = d.swpos := by
  unfold Die.switchMigr
  split
  · exact ⟨rfl, rfl⟩
  · exact Die.startMigr_sweep _

theorem Die.candidate_sweep (d : Die) (b : Nat) : (d.candidate b).owner = d.owner ∧ (d.candidate b).swpos = d.swpos := by
  unfold Die.candidate
  split
  · exact ⟨rfl, rfl⟩
  · split
    · exact d.logPend_sweep b
    · exact Die.startMigr_sweep _

theorem State.noteMigr_sweepView (s : State) (pa : Nat) : (s.noteMigr pa).sweepView = s.sweepView := by
  unfold State.noteMigr
  split
  · rfl
  · split
    · rfl
    · split
      · split
        · exact s.modDie_sweepView _ Die.switchMigr_sweep
        · exact s.modDie_sweepView _ fun _ => ⟨rfl, rfl⟩
      · exact s.modDie_sweepView _ fun _ => ⟨rfl, rfl⟩

theorem State.logCell_sweepView (s : State) (d sec : Nat) (unc : Bool) (n src : Nat) : (s.logCell d sec unc n src).sweepView = s.sweepView := by
  refine (State.modDie_sweepView _ _ ?_).trans (State.modDie_sweepView _ _ ?_)
  · exact fun _ => ⟨rfl, rfl⟩
  · exact fun _ => ⟨rfl, rfl⟩

/-- A sector of the current generation of its owner is not stale. -/
theorem State.staleSector_of_fresh {sec o : Nat} (ho : s.owner (128 * sec) = o)
    (hs : o < 16 → Tab.get 0 s.mem.stamp sec = (s.tslot o).gen) : s.staleSector (128 * sec) = false := by
  unfold State.staleSector
  rw [ho, Nat.mul_div_cancel_left sec (by decide)]
  by_cases h : o < 16
  · rw [hs h]
    simp
  · simp [h]

/-- A sector that is not stale is left by the sweep as it is. -/
theorem State.restamp_of_fresh {sec : Nat} (h : s.staleSector (128 * sec) = false) : s.restamp sec = s := by
  unfold State.restamp
  rw [if_neg (Bool.eq_false_iff.1 h)]

/-- The next place of the sweep, past a sector. -/
theorem sweepVisit_moves {d : BitVec 2} {cell : List SymErr} (hgoes : (s.die d.toNat).passDone = false) :
    exec (.sweepVisit d cell) s = .next (((s.decoded (128 * (d.toNat * 2 ^ 30 + (s.die d.toNat).swpos))
      (s.readCell (d.toNat * 2 ^ 30 + (s.die d.toNat).swpos) cell) 1).restamp (d.toNat * 2 ^ 30 + (s.die d.toNat).swpos)).modDie d.toNat fun x =>
        { x with swpos := x.swpos + 1, passDone := decide (dieSectors ≤ x.swpos + 1) }) :=
  if_neg (Bool.eq_false_iff.1 hgoes)

/-- Where the sweep stands after a step that keeps its place. -/
theorem State.modDie_moves (hu : u.sweepView = s.sweepView) (d : Nat) :
    let t := u.modDie d fun x => { x with swpos := x.swpos + 1, passDone := decide (dieSectors ≤ x.swpos + 1) }
    (t.die d).swpos = (s.die d).swpos + 1 ∧ ((t.die d).passDone = true ↔ dieSectors ≤ (s.die d).swpos + 1) := by
  intro t
  have hpos : (u.die d).swpos = (s.die d).swpos := congrArg Prod.snd (congrFun hu d)
  have ht : t.die d = { u.die d with swpos := (u.die d).swpos + 1, passDone := decide (dieSectors ≤ (u.die d).swpos + 1) } := by
    rw [State.modDie_die, if_pos rfl]
  rw [ht, hpos, decide_eq_true_eq]
  exact ⟨rfl, Iff.rfl⟩

/-- A stale sector is zeroed under its owner's generation (R318). -/
theorem State.restamp_zeroes {sec : Nat} (h : s.staleSector (128 * sec) = true) : let t := s.restamp sec
    (∀ i < 128, Tab.get 0 t.mem.bytes (128 * sec + i) = 0) ∧ Tab.get 0 t.mem.stamp sec = (s.tslot (s.owner (128 * sec))).gen ∧
    Tab.get false t.mem.poison sec = false := by
  intro t
  have ht : t.mem = { s.mem.zeroSector sec with stamp := Tab.put 0 (s.mem.zeroSector sec).stamp sec (s.tslot (s.owner (128 * sec))).gen } := by
    show (s.restamp sec).mem = _
    unfold State.restamp
    rw [if_pos h]
  rw [ht]
  refine ⟨fun i hi => ?_, ?_, ?_⟩
  · show Tab.get 0 (Tab.eraseRange s.mem.bytes (128 * sec) (128 * sec + 128)) _ = 0
    rw [Tab.get_eraseRange, if_pos (by omega)]
  · dsimp only
    rw [Tab.get_put, if_pos rfl]
  · show Tab.get false (Tab.put false s.mem.poison sec false) sec = false
    rw [Tab.get_put, if_pos rfl]

theorem State.restamp_sweepView (s : State) (sec : Nat) : (s.restamp sec).sweepView = s.sweepView := by
  unfold State.restamp
  split
  · exact (s.noteMigr_sweepView (128 * sec))
  · rfl

theorem sweepVisit_clean {d : BitVec 2} {cell : List SymErr} (hgoes : (s.die d.toNat).passDone = false) :
    let sec := d.toNat * 2 ^ 30 + (s.die d.toNat).swpos
    s.readCell sec cell = .clean → ∃ t : State, exec (.sweepVisit d cell) s = .next t ∧ (t.die d.toNat).swpos = (s.die d.toNat).swpos + 1 ∧
      ((t.die d.toNat).passDone = true ↔ dieSectors ≤ (s.die d.toNat).swpos + 1) ∧
      (s.staleSector (128 * sec) = false → t.mem = s.mem) ∧
      (s.staleSector (128 * sec) = true → (∀ i < 128, Tab.get 0 t.mem.bytes (128 * sec + i) = 0) ∧
        Tab.get 0 t.mem.stamp sec = (s.tslot (s.owner (128 * sec))).gen ∧ Tab.get false t.mem.poison sec = false) := by
  intro sec hread
  have hexec := sweepVisit_moves (cell := cell) hgoes
  rw [hread] at hexec
  obtain ⟨hpos, hdone⟩ := State.modDie_moves (s.restamp_sweepView sec) d.toNat
  refine ⟨_, hexec, hpos, hdone, fun h => ?_, fun h => State.restamp_zeroes h⟩
  have e := congrArg State.mem (State.restamp_of_fresh h)
  exact e

/-- What a sector that cannot be decoded leaves (R412, R416): it is poisoned and may be retired. -/
theorem State.decoded_uncorrectable_eq (s : State) (sec src : Nat) : ∃ u : State, u.sweepView = s.sweepView ∧
    s.decoded (128 * sec) .uncorrectable src =
      ((u.poisonHome sec).irq 2).modDie (paDie (128 * sec)) fun x => x.candidate (blockOf (128 * sec)) := by
  refine ⟨s.logCell (paDie (128 * sec)) (128 * sec / 128) true 0 src, s.logCell_sweepView _ _ _ _ _, ?_⟩
  unfold State.decoded
  dsimp only
  rw [Nat.mul_div_cancel_left sec (by decide)]

/-- A sector poisoned at home is of its owner's generation (R309, R412). -/
theorem State.poisonHome_stamp (s : State) {sec : Nat} (ho : s.owner (128 * sec) < 16) :
    Tab.get 0 (s.poisonHome sec).mem.stamp sec = (s.tslot (s.owner (128 * sec))).gen := by
  unfold State.poisonHome
  dsimp only
  rw [if_pos ho]
  dsimp only
  rw [Tab.get_put, if_pos rfl]

theorem State.poisonHome_sweepView (s : State) (sec : Nat) : (s.poisonHome sec).sweepView = s.sweepView := by
  unfold State.poisonHome
  exact s.noteMigr_sweepView (128 * sec)

theorem State.poisonHome_hub (s : State) (sec : Nat) : (s.poisonHome sec).hub = s.hub := by
  have e := congrArg State.hub (s.noteMigr_offMemory (128 * sec))
  exact e

/-- A sector that cannot be decoded is poisoned under its owner's generation, and no place of the sweep changes (R412, R416). -/
theorem State.decoded_uncorrectable_sweep (s : State) (sec src : Nat) :
    (s.decoded (128 * sec) .uncorrectable src).sweepView = s.sweepView ∧
    (s.decoded (128 * sec) .uncorrectable src).staleSector (128 * sec) = false := by
  obtain ⟨u, huv, ht⟩ := s.decoded_uncorrectable_eq sec src
  generalize s.decoded (128 * sec) .uncorrectable src = t at ht
  have htv : t.sweepView = u.sweepView := by
    rw [ht, State.modDie_sweepView _ _ fun y => y.candidate_sweep _]
    exact u.poisonHome_sweepView sec
  have hmem : t.mem = (u.poisonHome sec).mem := by
    rw [ht]
    rfl
  have hslot (k : Nat) : t.tslot k = u.tslot k := by
    rw [ht, State.modDie_tslot]
    show Tab.get {} (u.poisonHome sec).hub.slots k = _
    rw [u.poisonHome_hub]
    rfl
  have howner : t.owner (128 * sec) = u.owner (128 * sec) := by
    have e : (t.die (paDie (128 * sec))).owner = (u.die (paDie (128 * sec))).owner := congrArg Prod.fst (congrFun htv _)
    unfold State.owner
    rw [e]
  refine ⟨htv.trans huv, State.staleSector_of_fresh howner fun ho => ?_⟩
  rw [hslot, hmem]
  exact u.poisonHome_stamp ho

theorem sweepVisit_uncorrectable {d : BitVec 2} {cell : List SymErr} (hgoes : (s.die d.toNat).passDone = false) :
    let sec := d.toNat * 2 ^ 30 + (s.die d.toNat).swpos
    s.readCell sec cell = .uncorrectable → ∃ t : State, exec (.sweepVisit d cell) s = .next t ∧
      (t.die d.toNat).swpos = (s.die d.toNat).swpos + 1 ∧ Tab.get false t.mem.poison sec = true ∧ t.hub.irqs = s.hub.irqs ++ [2] := by
  intro sec hread
  have hexec := sweepVisit_moves (cell := cell) hgoes
  rw [hread] at hexec
  obtain ⟨hview, hfresh⟩ := s.decoded_uncorrectable_sweep sec 1
  obtain ⟨hpoison, hirqs⟩ := s.decoded_uncorrectable sec 1
  rw [State.restamp_of_fresh hfresh] at hexec
  exact ⟨_, hexec, (State.modDie_moves hview d.toNat).1, hpoison, hirqs⟩

/-! The end of a pass (R319). -/

theorem State.modTslots_tslot (s : State) (f : TSlot → TSlot) (n k : Nat) :
    ((List.range n).foldl (fun x t => x.modTslot t f) s).tslot k = if k < n then f (s.tslot k) else s.tslot k := by
  induction n generalizing k with
  | zero => rfl
  | succ n ih =>
    rw [List.range_succ, List.foldl_append, List.foldl_cons, List.foldl_nil, modTslot_tslot, ih, ih, if_neg (Nat.lt_irrefl n)]
    by_cases h : k = n
    · rw [if_pos h, if_pos (by omega), h]
    · rw [if_neg h]
      by_cases hk : k < n
      · rw [if_pos hk, if_pos (by omega)]
      · rw [if_neg hk, if_neg (by omega)]

theorem State.modDies_die (s : State) (f : Die → Die) (n k : Nat) :
    ((List.range n).foldl (fun x d => x.modDie d f) s).die k = if k < n then f (s.die k) else s.die k := by
  induction n generalizing k with
  | zero => rfl
  | succ n ih =>
    rw [List.range_succ, List.foldl_append, List.foldl_cons, List.foldl_nil, modDie_die, ih, ih, if_neg (Nat.lt_irrefl n)]
    by_cases h : k = n
    · rw [if_pos h, if_pos (by omega), h]
    · rw [if_neg h]
      by_cases hk : k < n
      · rw [if_pos hk, if_pos (by omega)]
      · rw [if_neg hk, if_neg (by omega)]

/-- The floor of every slot moves up (R319). -/
def State.moveFloors (s : State) : State :=
  (List.range 16).foldl (fun x t => x.modTslot t fun y => { y with floor := y.pstart, pstart := y.gen }) s

/-- Every die's sweep starts over (R319). -/
def State.restartSweeps (s : State) : State :=
  (List.range 4).foldl (fun x d => x.modDie d fun y => { y with swpos := 0, passDone := false, corrBlk := [] }) s

theorem State.restartSweeps_slots (s : State) : s.restartSweeps.hub.slots = s.hub.slots :=
  foldl_keeps (v := fun x : State => x.hub.slots)
    (f := fun x d => x.modDie d fun y => { y with swpos := 0, passDone := false, corrBlk := [] }) (fun _ _ => rfl) (List.range 4) s

theorem State.restartSweeps_mem (s : State) : s.restartSweeps.mem = s.mem :=
  foldl_keeps (v := State.mem)
    (f := fun x d => x.modDie d fun y => { y with swpos := 0, passDone := false, corrBlk := [] }) (fun _ _ => rfl) (List.range 4) s

theorem State.moveFloors_mem (s : State) : s.moveFloors.mem = s.mem :=
  foldl_keeps (v := State.mem)
    (f := fun x t => x.modTslot t fun y => { y with floor := y.pstart, pstart := y.gen }) (fun _ _ => rfl) (List.range 16) s

/-- The floors move and the next pass begins (R319). -/
def State.nextPass (s : State) : State :=
  let s2 := s.moveFloors.restartSweeps
  { s2 with hub := { s2.hub with passes := (s2.hub.passes + 1) % 65536, passStart := s2.dtime } }

theorem State.die_setHub (s : State) (h : Hub) (d : Nat) : { s with hub := h }.die d = s.die d := rfl

theorem State.nextPass_tslot (s : State) {k : Nat} (hk : k < 16) :
    s.nextPass.tslot k = { s.tslot k with floor := (s.tslot k).pstart, pstart := (s.tslot k).gen } := by
  have hkeep : s.nextPass.tslot k = s.moveFloors.tslot k := by
    show Tab.get {} s.moveFloors.restartSweeps.hub.slots k = _
    rw [s.moveFloors.restartSweeps_slots]
    rfl
  rw [hkeep, State.moveFloors, State.modTslots_tslot, if_pos hk]

theorem State.nextPass_slot (s : State) {k : Nat} (hk : k < 16) : (s.nextPass.tslot k).gen = (s.tslot k).gen ∧
    (s.nextPass.tslot k).floor = (s.tslot k).pstart ∧ (s.nextPass.tslot k).pstart = (s.tslot k).gen := by
  rw [s.nextPass_tslot hk]
  exact ⟨rfl, rfl, rfl⟩

theorem State.nextPass_die (s : State) {d : Nat} (hd : d < 4) : (s.nextPass.die d).swpos = 0 ∧ (s.nextPass.die d).passDone = false := by
  rw [State.nextPass, State.die_setHub, State.restartSweeps, State.modDies_die, if_pos hd]
  exact ⟨rfl, rfl⟩

theorem State.nextPass_mem (s : State) : s.nextPass.mem = s.mem :=
  (show s.nextPass.mem = s.moveFloors.restartSweeps.mem from rfl).trans (s.moveFloors.restartSweeps_mem.trans s.moveFloors_mem)

theorem passEnd_begins (h : ∀ d < 4, (s.die d).passDone = true) : exec .passEnd s = .next ((List.range 16).foldl State.retryLock s.nextPass) := by
  have hdone : ((List.range 4).all fun d => (s.die d).passDone) = true := List.all_eq_true.2 fun d hd => h d (List.mem_range.1 hd)
  show execPassEnd s = _
  unfold execPassEnd
  rw [hdone]
  exact if_neg (by simp)

/-! Core images (R404, R405). -/

theorem setField_setField {w : Nat} (x : BitVec w) (lo n a b : Nat) : setField (setField x lo n a) lo n b = setField x lo n b := by
  refine BitVec.eq_of_getLsbD_eq fun i hi => ?_
  simp only [getLsbD_setField, hi, decide_true, Bool.true_and]
  split <;> rfl

theorem csave_eq {core : Nat} {v : Word} (hres : csReserved v = false) (hgo : v.getLsbD 63 = true) (hidle : Spec.idle s core)
    (howned : s.imageOwned core (field v 12 27 * 4096) = true) (hfree : (s.core core).csave.getLsbD 63 = false)
    (hrun : (s.seqr core).run = false) (hmops : (s.core core).mops = []) (hmacts : (s.core core).macts = []) :
    exec (.csave core v) s = .next (((s.modCore core fun k => { k with csave := setField v 60 3 0 }).csaveWrite core
      (field v 12 27 * 4096)).modCore core fun k => { k with csave := csDone v 0 }) := by
  have hquiet : s.coreQuiet core = true := List.all_eq_true.2 fun i hi => by simpa using hidle i (List.mem_range.1 hi)
  have hdone : csDone (setField v 60 3 0) 0 = csDone v 0 := by
    unfold csDone
    rw [setField_setField]
  generalize hs1 : (s.modCore core fun k => { k with csave := setField v 60 3 0 }) = s1
  have hcore : s1.core core = { s.core core with csave := setField v 60 3 0 } := by
    rw [← hs1, State.modCore_core, if_pos rfl]
  have hseqr : s1.seqr core = s.seqr core := by
    have hgen : s1.coreGen core = s.coreGen core := hs1 ▸ State.modCore_coreGen s core core fun _ => rfl
    unfold State.seqr
    rw [hgen, hcore]
  have hbusy : (setField v 60 3 0).getLsbD 63 = true := by rw [getLsbD_setField_other _ (.inr (by decide)), hgo]
  have hstep : s1.csaveStep core = (s1.csaveWrite core (field v 12 27 * 4096)).modCore core fun k => { k with csave := csDone v 0 } := by
    have hstill : ¬((s1.seqr core).run || !(s1.core core).mops.isEmpty || !(s1.core core).macts.isEmpty) = true := by
      rw [hseqr, hcore]
      simp [hrun, hmops, hmacts]
    have hcsave : (s1.core core).csave = setField v 60 3 0 := by rw [hcore]
    unfold State.csaveStep
    dsimp only
    rw [hcsave, if_neg (by rw [hbusy]; simp), if_neg hstill, field_setField_other _ (.inl (by decide)), hdone]
  show execCsave core v s = _
  unfold execCsave
  dsimp only
  rw [if_neg (by rw [hfree]; exact Bool.false_ne_true), if_neg (by rw [hres]; exact Bool.false_ne_true), if_neg (by rw [hgo]; decide),
    if_neg (by rw [hquiet]; decide), if_neg (by rw [howned]; decide), if_neg (by rw [hrun]; decide), hs1, hstep]

/-- What the cores' images are written by keeps every context (R405). -/
theorem State.csaveWrite_offMemory (s : State) (core img : Nat) : (s.csaveWrite core img).offMemory = s.offMemory :=
  (foldl_keeps (v := State.offMemory) (fun x _ => x.poisonFlag_offMemory _) _ _).trans
    (foldl_keeps (v := State.offMemory) (fun x _ => x.homeWrites_offMemory _ _ _) _ s)

/-- What a core's CREST keeps: DRAM, and the semaphores (R146, R405). -/
def State.crestView (s : State) (core : Nat) : Mem × Hub × Tab (BitVec 16) × Tab (BitVec 12) × BitVec 4 := (s.mem, s.semView core)

theorem State.modCore_crestView (s : State) (k core : Nat) {f : Core → Core}
    (hf : ∀ c, (f c).q = c.q ∧ (f c).qStamp = c.qStamp ∧ (f c).slot = c.slot) :
    (s.modCore k f).crestView core = s.crestView core :=
  Prod.ext rfl (s.modCore_semView k core hf)

theorem State.spadFresh_crestView (s : State) (core line j : Nat) : (s.spadFresh core line).crestView j = s.crestView j := by
  unfold State.spadFresh
  split
  · exact s.modCore_crestView _ _ fun _ => ⟨rfl, rfl, rfl⟩
  · rfl

theorem State.setLine_crestView (s : State) (core line : Nat) (slot : BitVec 4) (gen : BitVec 12) (full : Bool) (j : Nat) :
    (s.setLine core line slot gen full).crestView j = s.crestView j := by
  unfold State.setLine
  split
  · rfl
  · refine (State.modCore_crestView _ _ _ ?_).trans (s.spadFresh_crestView core line j)
    exact fun _ => ⟨rfl, rfl, rfl⟩

theorem State.spadWrites_crestView (s : State) (core : Nat) (slot : BitVec 4) (gen : BitVec 12) (poison : Bool) (off : Nat) (l : List Byte)
    (j : Nat) : (s.spadWrites core slot gen poison off l).crestView j = s.crestView j := by
  have hput (x : State) (e : Nat × Byte) : (x.spadPut core slot gen e).crestView j = x.crestView j := by
    unfold State.spadPut
    split
    · rfl
    · refine (State.modCore_crestView _ _ _ ?_).trans (x.spadFresh_crestView core _ j)
      exact fun _ => ⟨rfl, rfl, rfl⟩
  have hbytes := foldl_keeps (v := fun x : State => x.crestView j) (f := fun x (e : Byte × Nat) => x.spadPut core slot gen (off + e.2, e.1))
    (fun x e => hput x _) l.zipIdx s
  unfold State.spadWrites
  dsimp only
  split
  · exact hbytes
  · split
    · refine (State.modCore_crestView _ _ _ ?_).trans hbytes
      exact fun _ => ⟨rfl, rfl, rfl⟩
    · split
      · refine (State.modCore_crestView _ _ _ ?_).trans hbytes
        exact fun _ => ⟨rfl, rfl, rfl⟩
      · exact hbytes

theorem State.crestArrays_crestView (s : State) (core img : Nat) : (s.crestArrays core img).crestView core = s.crestView core := by
  unfold State.crestArrays
  dsimp only
  generalize List.range 8192 = l
  refine (State.modCore_crestView _ _ _ ?_).trans ?_
  · exact fun _ => ⟨rfl, rfl, rfl⟩
  refine foldl_keeps (v := fun x : State => x.crestView core) (fun x i => ?_) l s
  exact (State.setLine_crestView _ _ _ _ _ _ _).trans (State.spadWrites_crestView _ _ _ _ _ _ _ _)

theorem State.crestSlots_crestView (s : State) (core img : Nat) : (s.crestSlots core img).2.crestView core = s.crestView core := by
  unfold State.crestSlots
  dsimp only
  refine foldl_keeps (v := fun x : Bool × State => x.2.crestView core) (fun acc e => ?_) _ (true, s)
  split
  · rfl
  · split
    · exact State.modCore_crestView _ _ _ fun _ => ⟨rfl, rfl, rfl⟩
    · exact State.modCore_crestView _ _ _ fun _ => ⟨rfl, rfl, rfl⟩

/-- A read of DRAM after the lines of a run have met their home slices reads as before (R139). -/
theorem State.touchRun_tables (s : State) (a : Acc) (pa n d : Nat) : ((s.touchRun a pa n).die d).tables = (s.die d).tables := by
  refine (foldl_keeps (v := fun x : State => (x.die d).tables) (fun x _ => ?_) _ _).trans
    (foldl_keeps (v := fun x : State => (x.die d).tables) (fun x _ => x.l2Fill_tables _ _ d) _ s)
  unfold State.countRead
  split
  · exact x.modDie_tables _ _ fun _ => rfl
  · rfl

theorem State.touchImage_reads (s : State) (core img : Nat) : (s.touchImage core img).offDies = s.offDies ∧
    ∀ d, ((s.touchImage core img).die d).tables = (s.die d).tables := by
  have hhead (a : Acc) (m n : Nat) : ((s.touchRun a img m).touchRun a (img + 0x10000) n).offDies = s.offDies ∧
      ∀ d, (((s.touchRun a img m).touchRun a (img + 0x10000) n).die d).tables = (s.die d).tables := by
    refine ⟨?_, fun d => ?_⟩
    · rw [touchRun_offDies, touchRun_offDies]
    · rw [touchRun_tables, touchRun_tables]
  obtain ⟨hoff, htables⟩ := hhead (s.saveAcc core) 0x4800 0x130000
  unfold State.touchImage
  dsimp only
  generalize (s.touchRun (s.saveAcc core) img 0x4800).touchRun (s.saveAcc core) (img + 0x10000) 0x130000 = x at hoff htables ⊢
  generalize List.range 16 = l
  refine ⟨(foldl_keeps (v := State.offDies) (fun y t => ?_) l x).trans hoff, fun d =>
    (foldl_keeps (v := fun y : State => (y.die d).tables) (fun y t => ?_) l x).trans (htables d)⟩
  · split
    · exact y.touchRun_offDies _ _ _
    · rfl
  · split
    · exact y.touchRun_tables _ _ _ d
    · rfl

theorem State.homeReads_drop_take (s : State) (a : Acc) (pa : Nat) {n o k : Nat} (h : o + k ≤ n) :
    (((s.homeReads a pa n).map Prod.fst).drop o).take k = (s.homeReads a (pa + o) k).map Prod.fst := by
  refine List.ext_getElem ?_ fun i h1 h2 => ?_
  · simp [State.homeReads]
    omega
  · simp [State.homeReads, Nat.add_assoc]

theorem State.imageRead_drop_take (s : State) (core img : Nat) {o k : Nat} (h : o + k ≤ 4096) :
    (((s.imageRead core img 4096).map Prod.fst).drop o).take k = (s.imageRead core (img + o) k).map Prod.fst :=
  s.homeReads_drop_take _ _ h

theorem natOfBytes_lt (l : List Byte) : natOfBytes l < 256 ^ l.length := by
  induction l with
  | nil => exact Nat.one_pos
  | cons b l ih =>
    have hb := b.isLt
    rw [natOfBytes, List.length_cons, Nat.pow_succ]
    omega

/-- The semaphores of a core as its image has them (R405). -/
theorem State.setSems_sem (s : State) (core : Nat) (v : Nat → Nat) (hv : ∀ i, v i < 65536) {n i : Nat} (hn : n ≤ 256) (hi : i < n) :
    ((List.range n).foldl (fun x i => x.setSem core (BitVec.ofNat 8 i) (v i)) s).sem core (BitVec.ofNat 8 i) = v i := by
  induction n with
  | zero => omega
  | succ n ih =>
    rw [List.range_succ, List.foldl_append, List.foldl_cons, List.foldl_nil, sem_setSem]
    have hvi := hv n
    by_cases h : i = n
    · rw [if_pos (by rw [h]), h]
      omega
    · have hne : ¬BitVec.ofNat 8 i = BitVec.ofNat 8 n := by
        intro e
        have e' := congrArg BitVec.toNat e
        rw [BitVec.toNat_ofNat, BitVec.toNat_ofNat] at e'
        omega
      rw [if_neg hne]
      exact ih (by omega) (by omega)

/-- The semaphores read back from an image (R405). -/
def State.crestSems (s : State) (core img : Nat) : State :=
  (List.range 256).foldl (fun x i => x.setSem core (BitVec.ofNat 8 i)
    (natOfBytes ((((s.imageRead core img 4096).map Prod.fst).drop (2 * i)).take 2))) s

theorem State.crestSems_sem (s : State) (core img : Nat) {i : Nat} (hi : i < 256) :
    (s.crestSems core img).sem core (BitVec.ofNat 8 i) = natOfBytes ((s.imageRead core (img + 2 * i) 2).map Prod.fst) := by
  have hsmall (j : Nat) : natOfBytes ((((s.imageRead core img 4096).map Prod.fst).drop (2 * j)).take 2) < 65536 := by
    refine (natOfBytes_lt _).trans_le ?_
    exact (Nat.pow_le_pow_right (by decide) (List.length_take_le 2 _)).trans (by decide)
  rw [State.crestSems, s.setSems_sem core _ hsmall (Nat.le_refl 256) hi, s.imageRead_drop_take core img (by omega)]

theorem State.fresh_crestView (s : State) (core n : Nat) : ({ s with fresh := n } : State).crestView core = s.crestView core := rfl

/-- What CREST reads back of a core's small state besides its semaphores (R405). -/
theorem State.crestHead_crestView (s : State) (core img : Nat) : (s.crestHead core img).crestView core = (s.crestSems core img).crestView core := by
  unfold State.crestHead
  extract_lets h at_ s1 s2 st tbl ts words idx objs deque
  have hsems : s1 = s.crestSems core img := rfl
  have hjc : s2.crestView core = s1.crestView core := foldl_keeps (v := fun y : State => y.crestView core)
    (f := fun x i => x.setJc core i (at_ (512 + 4 * i) 4)) (fun y j => y.modCore_crestView _ _ fun _ => ⟨rfl, rfl, rfl⟩) (List.range 64) s1
  rw [← hsems, ← hjc]
  clear_value ts deque idx s2
  refine (State.modCore_crestView _ _ _ ?_).trans ((State.modCore_crestView _ _ _ ?_).trans (s2.fresh_crestView core _))
  · exact fun _ => ⟨rfl, rfl, rfl⟩
  · exact fun _ => ⟨rfl, rfl, rfl⟩

theorem State.crestSems_mem (s : State) (core img : Nat) : (s.crestSems core img).mem = s.mem := by
  unfold State.crestSems
  generalize List.range 256 = l
  refine foldl_keeps (v := State.mem) (fun x i => ?_) l s
  rfl

/-- A CREST that reads its image (R404, R405). -/
theorem crest_eq {core : Nat} {v : Word} (hres : csReserved v = false) (hgo : v.getLsbD 63 = true) (hidle : Spec.idle s core)
    (howned : s.imageOwned core (field v 12 27 * 4096) = true) : ∃ (u : State) (res : Nat), (res = 0 ∨ res = 3) ∧
      exec (.crest core v) s = .next (u.modCore core fun k => { k with crest := csDone v res }) ∧
      u.crestView core = ((s.touchImage core (field v 12 27 * 4096)).crestSems core (field v 12 27 * 4096)).crestView core := by
  have hquiet : s.coreQuiet core = true := List.all_eq_true.2 fun i hi => by simpa using hidle i (List.mem_range.1 hi)
  generalize himg : field v 12 27 * 4096 = img at howned ⊢
  generalize hx : ((s.touchImage core img).crestHead core img).crestArrays core img = x
  refine ⟨(x.crestSlots core img).2, if (x.crestSlots core img).1 then 0 else 3, ?_, ?_, ?_⟩
  · split
    · exact .inl rfl
    · exact .inr rfl
  · show execCrest core v s = _
    unfold execCrest
    dsimp only
    rw [himg, if_neg (by rw [hres]; exact Bool.false_ne_true), if_neg (by rw [hgo]; decide), if_neg (by rw [hquiet]; decide),
      if_neg (by rw [howned]; decide), hx]
  · rw [x.crestSlots_crestView, ← hx, State.crestArrays_crestView, State.crestHead_crestView]

theorem crest_reads {core : Nat} {v : Word} (hres : csReserved v = false) (hgo : v.getLsbD 63 = true) (hidle : Spec.idle s core)
    (howned : s.imageOwned core (field v 12 27 * 4096) = true) : ∃ t : State, exec (.crest core v) s = .next t ∧
      ((t.core core).crest = csDone v 0 ∨ (t.core core).crest = csDone v 3) ∧ t.mem = s.mem ∧
      ∀ i < 256, t.sem core (BitVec.ofNat 8 i) = natOfBytes ((s.imageRead core (field v 12 27 * 4096 + 2 * i) 2).map Prod.fst) := by
  obtain ⟨u, res, hcases, hexec, hu⟩ := crest_eq hres hgo hidle howned
  obtain ⟨hoff, htables⟩ := s.touchImage_reads core (field v 12 27 * 4096)
  have hacc : (s.touchImage core (field v 12 27 * 4096)).saveAcc core = s.saveAcc core := by
    unfold State.saveAcc State.coreGen State.gen State.coreSlot State.core
    rw [State.cores_of_offDies hoff, State.tslot_of_offDies hoff]
  have hread (pa n : Nat) : (s.touchImage core (field v 12 27 * 4096)).imageRead core pa n = s.imageRead core pa n := by
    unfold State.imageRead State.homeReads
    rw [hacc]
    exact List.map_congr_left fun j _ => State.homeRead_of_tables hoff htables _ _
  have hsems (i : Nat) (hi : i < 256) :=
    (s.touchImage core (field v 12 27 * 4096)).crestSems_sem core (field v 12 27 * 4096) hi
  have hmem := ((s.touchImage core (field v 12 27 * 4096)).crestSems_mem core (field v 12 27 * 4096)).trans (State.mem_of_offDies hoff)
  generalize (s.touchImage core (field v 12 27 * 4096)).crestSems core (field v 12 27 * 4096) = z at hu hsems hmem
  have hput : (u.modCore core fun k => { k with crest := csDone v res }).crestView core = u.crestView core :=
    u.modCore_crestView core core (f := fun k => { k with crest := csDone v res }) fun _ => ⟨rfl, rfl, rfl⟩
  have hview := hput.trans hu
  have hcrest : ((u.modCore core fun k => { k with crest := csDone v res }).core core).crest = csDone v res := by
    rw [State.modCore_core, if_pos rfl]
  generalize (u.modCore core fun k => { k with crest := csDone v res }) = t at hexec hview hcrest
  have htm : t.mem = z.mem := congrArg Prod.fst hview
  refine ⟨t, hexec, ?_, htm.trans hmem, fun i hi => ?_⟩
  · rcases hcases with rfl | rfl
    · exact .inl hcrest
    · exact .inr hcrest
  · rw [State.sem_of_semView (congrArg Prod.snd hview), hsems i hi, hread]

end

/-- Settles O48: the sweep, its pass end and the images. -/
theorem sweepAndImageEvents : Obligations.SweepAndImageEvents := by
  intro s
  refine ⟨fun d => ?visit, fun hdone => ?pass, fun v hres hlo hhi => ?swctl, fun core v => ?image⟩
  case visit =>
    intro y sec hgoes
    exact ⟨fun cell hread => sweepVisit_clean hgoes hread, fun cell hread => sweepVisit_uncorrectable hgoes hread⟩
  case pass =>
    exact ⟨s.nextPass, passEnd_begins hdone, fun k hk => s.nextPass_slot hk, fun d hd => s.nextPass_die hd, s.nextPass_mem⟩
  case swctl =>
    have hlegal : ¬(field v 32 32 ≠ 0 ∨ v.toNat < 60 ∨ 172800 < v.toNat) := by omega
    refine ⟨s.setHubReg 0x3800 v, congrArg Host.Outcome.next (if_neg hlegal), ?_, rfl⟩
    rw [State.setHubReg_hubReg, if_pos rfl]
  case image =>
    intro img hres hgo hidle howned
    refine ⟨fun hfree hrun hmops hmacts => ⟨_, csave_eq hres hgo hidle howned hfree hrun hmops hmacts, ?_, ?_, State.modCore_mem _ _ _⟩,
      crest_reads hres hgo hidle howned⟩
    · rw [State.modCore_core, if_pos rfl]
    · have e := congrArg State.ctxs (State.csaveWrite_offMemory (s.modCore core fun k => { k with csave := setField v 60 3 0 }) core img)
      exact e

end Sys2Proof.Machine
end

section
/-! The device: accesses from outside, the management port, the power step, power-fail and the ways back (R312, R439 to R450). -/

namespace Sys2Proof.Machine

section
variable {s t u : State}

/-! Accesses of an outside agent (R312, R442). -/

/-- The bytes an access may touch are device memory. -/
def Spec.onDevice (a : BusAccess) : Prop :=
  ∀ x, a.pa.toNat ≤ x → x < a.pa.toNat + max a.n 8 → populated x = true ∧ blockAddr x = none

theorem State.busAccess_read {a : BusAccess} (w : BitVec 2) (hmem : Spec.onDevice a) (hread : a.write = false) :
    s.busAccess a w = s.answerOut ((s.homeReads (busAcc w.toNat) a.pa.toNat a.n).map Prod.fst) := by
  unfold State.busAccess
  rw [if_neg (by rw [hread]; exact Bool.false_ne_true), State.homeReads, List.map_map]
  refine congrArg s.answerOut (List.map_congr_left fun i hi => ?_)
  have hlt := List.mem_range.1 hi
  obtain ⟨hpop, hblock⟩ := hmem (a.pa.toNat + i) (by omega) (by omega)
  unfold State.busByte
  rw [hblock]
  exact if_pos hpop

theorem State.busAccess_write {a : BusAccess} (w : BitVec 2) (hmem : Spec.onDevice a) (hwrite : a.write = true) (hlen : a.data.length = 8)
    (halign : a.pa.toNat % 8 = 0) : s.busAccess a w = s.homeWrites (busAcc w.toNat) a.pa.toNat a.data := by
  obtain ⟨hpop, hblock⟩ := hmem a.pa.toNat (Nat.le_refl _) (by omega)
  have htake : a.data.take (8 - a.pa.toNat % 8) = a.data := List.take_of_length_le (by omega)
  have hdrop : a.data.drop (8 - a.pa.toNat % 8) = [] := List.drop_eq_nil_of_le (by omega)
  have hpart : s.busPart w a.pa.toNat a.data = s.homeWrites (busAcc w.toNat) a.pa.toNat a.data := by
    unfold State.busPart
    rw [hblock]
    exact if_pos hpop
  have hne : a.data ≠ [] := fun h => by simp [h] at hlen
  have hstep : s.busWrite w 9 a.pa.toNat a.data = (s.busPart w a.pa.toNat (a.data.take (8 - a.pa.toNat % 8))).busWrite w 8
      (a.pa.toNat + (8 - a.pa.toNat % 8)) (a.data.drop (8 - a.pa.toNat % 8)) := by
    cases h : a.data with
    | nil => exact absurd h hne
    | cons b l => rfl
  unfold State.busAccess
  rw [if_pos hwrite, hlen, hstep, htake, hdrop, hpart]
  rfl

/-! The power step (R445 to R447). -/

/-- PSCTL as it is put, with its fields (R445). -/
theorem State.putPsctl_eq (s : State) (busy : Bool) {src level target : Nat} (hsrc : src < 8) (hlevel : level < 16) (htarget : target < 16) :
    ∃ v : Word, s.putPsctl busy src level target = s.setHubReg 0xC000 v ∧ field v 0 4 = level ∧ field v 4 4 = target ∧ field v 60 3 = src ∧
      v.getLsbD 63 = busy := by
  generalize hv : BitVec.ofNat 64 ((if busy then 2 ^ 63 else 0) + src * 2 ^ 60 + target * 2 ^ 4 + level) = v
  have hn : v.toNat = (if busy then 2 ^ 63 else 0) + src * 2 ^ 60 + target * 2 ^ 4 + level := by
    rw [← hv, BitVec.toNat_ofNat]
    exact Nat.mod_eq_of_lt (by split <;> omega)
  refine ⟨v, by rw [State.putPsctl, hv], ?_⟩
  rw [field_eq_div_mod, field_eq_div_mod, field_eq_div_mod, hn]
  refine ⟨by split <;> omega, by split <;> omega, by split <;> omega, ?_⟩
  rw [← BitVec.testBit_toNat, hn, Nat.testBit_eq_decide_div_mod_eq]
  cases busy with
  | true => exact decide_eq_true (by simp only [if_true]; omega)
  | false => exact decide_eq_false (by simp only [Bool.false_eq_true, if_false]; omega)

/-- The fields of PSCTL once its register is written (R445). -/
theorem State.setHubReg_psctl (s : State) (v : Word) : (s.setHubReg 0xC000 v).level = field v 0 4 ∧
    (s.setHubReg 0xC000 v).psTarget = field v 4 4 ∧ (s.setHubReg 0xC000 v).psSrc = field v 60 3 ∧ (s.setHubReg 0xC000 v).hubReg 0xC000 = v := by
  have h : (s.setHubReg 0xC000 v).hubReg 0xC000 = v := by rw [State.setHubReg_hubReg, if_pos rfl]
  unfold State.level State.psTarget State.psSrc
  rw [h]
  exact ⟨rfl, rfl, rfl, rfl⟩

/-- What the power step's register becomes, of a state that is otherwise as it was (R445). -/
theorem State.setPsctl_eq (s : State) {src level target : Nat} (hsrc : src < 8) (hlevel : level < 16) (htarget : target < 16) :
    ∃ v : Word, s.setPsctl src level target = s.setHubReg 0xC000 v ∧ (s.setHubReg 0xC000 v).level = level ∧
      (s.setHubReg 0xC000 v).psTarget = target ∧ (s.setHubReg 0xC000 v).psSrc = src ∧
      ((s.setHubReg 0xC000 v).hubReg 0xC000).getLsbD 63 = (level != target || s.mhz != clockOf level) := by
  obtain ⟨v, hput, hl, ht, hs, hb⟩ := s.putPsctl_eq (level != target || s.mhz != clockOf level) hsrc hlevel htarget
  obtain ⟨hl', ht', hs', hr'⟩ := s.setHubReg_psctl v
  exact ⟨v, hput, hl'.trans hl, ht'.trans ht, hs'.trans hs, by rw [hr', hb]⟩

theorem State.level_lt (s : State) : s.level < 16 := field_lt (s.hubReg 0xC000) 0 4
theorem State.psTarget_lt (s : State) : s.psTarget < 16 := field_lt (s.hubReg 0xC000) 4 4
theorem State.psSrc_lt (s : State) : s.psSrc < 8 := field_lt (s.hubReg 0xC000) 60 3

/-- A core parks, or its clock runs again: the hub, memory and the clock stay (R446). -/
theorem State.park_keeps (s : State) (core : Nat) : (s.park core).hub = s.hub ∧ (s.park core).mem = s.mem ∧ (s.park core).mhz = s.mhz := by
  have hrows := foldl_keeps (v := fun x : State => (x.hub, x.mem, x.mhz)) (f := fun x i =>
    (x.setRow core i (setField (x.row core i) 7 1 1)).modCtx (4 * core + i) fun c => { c with pre := c.st != .free })
    (fun _ _ => rfl) (List.range 4) s
  exact ⟨congrArg (fun x => x.1) hrows, congrArg (fun x => x.2.1) hrows, congrArg (fun x => x.2.2) hrows⟩

theorem State.parkAll_keeps (s : State) (on : Bool) :
    (s.parkAll on).hub = s.hub ∧ (s.parkAll on).mem = s.mem ∧ (s.parkAll on).mhz = s.mhz := by
  have hall := foldl_keeps (v := fun x : State => (x.hub, x.mem, x.mhz)) (f := fun x c =>
    if on then State.park x c else x.modCore c fun k => { k with parked := false }) (fun x c => by
      split
      · obtain ⟨hhub, hmem, hmhz⟩ := x.park_keeps c
        rw [hhub, hmem, hmhz]
      · rfl) ((List.range 128).filter parkable) s
  exact ⟨congrArg (fun x => x.1) hall, congrArg (fun x => x.2.1) hall, congrArg (fun x => x.2.2) hall⟩

/-- A core that parks is parked; the others stay. -/
theorem State.park_parked (s : State) (core k : Nat) : ((s.park core).core k).parked = if k = core then true else (s.core k).parked := by
  have hrows := foldl_keeps (v := fun x : State => (x.core k).parked) (f := fun x i =>
    (x.setRow core i (setField (x.row core i) 7 1 1)).modCtx (4 * core + i) fun c => { c with pre := c.st != .free })
    (fun x i => by
      show ((x.setRow core i _).core k).parked = _
      unfold State.setRow
      rw [modCore_core]
      split
      · rw [‹k = core›]
      · rfl) (List.range 4) s
  unfold State.park
  dsimp only
  rw [modCore_core]
  split
  · rfl
  · exact hrows

theorem State.parkAll_parked (s : State) {k : Nat} (hk : k < 128) (hpark : 4 ≤ k % 8) : ((s.parkAll true).core k).parked = true := by
  have hkeep (l : List Nat) (x : State) (hx : (x.core k).parked = true) : ((l.foldl State.park x).core k).parked = true := by
    induction l generalizing x with
    | nil => exact hx
    | cons i r ih =>
      refine ih _ ?_
      rw [park_parked]
      split
      · rfl
      · exact hx
  have hfold (l : List Nat) (hl : k ∈ l) (x : State) : ((l.foldl State.park x).core k).parked = true := by
    induction l generalizing x with
    | nil => cases hl
    | cons i r ih =>
      rcases List.mem_cons.1 hl with rfl | hl
      · exact hkeep r _ ((x.park_parked k k).trans (if_pos rfl))
      · exact ih hl _
  exact hfold _ (List.mem_filter.2 ⟨List.mem_range.2 hk, decide_eq_true hpark⟩) s

theorem powerStepPins_sets (level : BitVec 4) : ∃ t : State, exec (.powerStepPins level) s = .next t ∧ t.level = s.level ∧
    t.psTarget = level.toNat ∧ t.psSrc = 1 := by
  obtain ⟨v, hput, hl, ht, hsrc, _⟩ := s.setPsctl_eq (src := 1) (by decide) s.level_lt level.isLt
  have hexec : exec (.powerStepPins level) s = .next { s.setPsctl 1 s.level level.toNat with
      hub := { (s.setPsctl 1 s.level level.toNat).hub with pinTime := some s.dtime } } := rfl
  rw [hput] at hexec
  exact ⟨_, hexec, hl, ht, hsrc⟩

theorem powerStepDatagram_sets {d : PowerDatagram} (hok : s.datagramOk d = true) : ∃ t : State, exec (.powerStepDatagram d) s = .next t ∧
    (t.hubReg 0xC018).toNat = d.seq.toNat ∧ t.level = s.level ∧
    (s.hub.pinTime ≠ some s.dtime → t.psTarget = d.level.toNat ∧ t.psSrc = 2) ∧ (s.hub.pinTime = some s.dtime → t.psTarget = s.psTarget) := by
  have hlevel : d.level.toNat < 16 := by
    simp only [State.datagramOk, Bool.and_eq_true, decide_eq_true_eq] at hok
    omega
  have hseq : ((d.seq.setWidth 64 : Word)).toNat = d.seq.toNat := by
    have := d.seq.isLt
    rw [BitVec.toNat_setWidth]
    omega
  generalize hs1 : s.setHubReg 0xC018 (d.seq.setWidth 64) = s1
  have hpsctl : s1.hubReg 0xC000 = s.hubReg 0xC000 := by
    rw [← hs1, State.setHubReg_hubReg, if_neg (by decide)]
  have hreg : (s1.hubReg 0xC018).toNat = d.seq.toNat := by
    rw [← hs1, State.setHubReg_hubReg, if_pos rfl, hseq]
  have hlev : s1.level = s.level := congrArg (fun x => field x 0 4) hpsctl
  have htgt : s1.psTarget = s.psTarget := congrArg (fun x => field x 4 4) hpsctl
  have hexec : exec (.powerStepDatagram d) s =
      .next (if s.hub.pinTime = some s.dtime then s1 else s1.setPsctl 2 s1.level d.level.toNat) := by
    rw [← hs1]
    exact congrArg Host.Outcome.next (if_neg (by simp [hok]))
  by_cases hpin : s.hub.pinTime = some s.dtime
  · rw [if_pos hpin] at hexec
    exact ⟨_, hexec, hreg, hlev, fun h => absurd hpin h, fun _ => htgt⟩
  · obtain ⟨v, hput, hl, ht, hsrc, _⟩ := s1.setPsctl_eq (src := 2) (by decide) s1.level_lt hlevel
    rw [if_neg hpin, hput] at hexec
    refine ⟨_, hexec, ?_, hl.trans hlev, fun _ => ⟨ht, hsrc⟩, fun h => absurd h hpin⟩
    rw [State.setHubReg_hubReg, if_neg (by decide), hreg]

theorem ceilingApply_down (hdown : s.psTarget < s.level) (hclock : s.mhz ≤ clockOf (s.level - 1)) : ∃ t : State, exec .ceilingApply s = .next t ∧
    t.level = s.level - 1 ∧ t.mhz = s.mhz ∧ t.psTarget = s.psTarget ∧ (s.level = 1 → ∀ k < 128, 4 ≤ k % 8 → (t.core k).parked = true) := by
  have hexec : exec .ceilingApply s =
      .next ((if s.level - 1 = 0 then s.parkAll true else s).setPsctl s.psSrc (s.level - 1) s.psTarget) :=
    (if_pos hdown).trans (if_neg (Nat.not_lt.2 hclock))
  have hlt := s.level_lt
  by_cases h0 : s.level - 1 = 0
  · obtain ⟨v, hput, hl, ht, _, _⟩ := (s.parkAll true).setPsctl_eq (level := s.level - 1) s.psSrc_lt (by omega) s.psTarget_lt
    have hmhz := (s.parkAll_keeps true).2.2
    have hparked (k : Nat) (hk : k < 128) (hpark : 4 ≤ k % 8) := s.parkAll_parked hk hpark
    rw [if_pos h0, hput] at hexec
    generalize s.parkAll true = u at hexec hl ht hmhz hparked
    exact ⟨_, hexec, hl, hmhz, ht, fun _ => hparked⟩
  · obtain ⟨v, hput, hl, ht, _, _⟩ := s.setPsctl_eq (level := s.level - 1) s.psSrc_lt (by omega) s.psTarget_lt
    rw [if_neg h0, hput] at hexec
    exact ⟨_, hexec, hl, rfl, ht, fun h => by omega⟩

theorem ceilingApply_up (hup : s.level < s.psTarget) (hclock : clockOf s.level ≤ s.mhz) : ∃ t : State, exec .ceilingApply s = .next t ∧
    t.level = s.level + 1 ∧ t.mhz = s.mhz ∧ t.psTarget = s.psTarget := by
  have hexec : exec .ceilingApply s =
      .next ((if s.level = 0 then s.parkAll false else s).setPsctl s.psSrc (s.level + 1) s.psTarget) :=
    (if_neg (by omega)).trans ((if_neg (by omega)).trans (if_pos hup))
  have hlt := s.psTarget_lt
  by_cases h0 : s.level = 0
  · obtain ⟨v, hput, hl, ht, _, _⟩ := (s.parkAll false).setPsctl_eq (level := s.level + 1) s.psSrc_lt (by omega) s.psTarget_lt
    have hmhz := (s.parkAll_keeps false).2.2
    rw [if_pos h0, hput] at hexec
    generalize s.parkAll false = u at hexec hl ht hmhz
    exact ⟨_, hexec, hl, hmhz, ht⟩
  · obtain ⟨v, hput, hl, ht, _, _⟩ := s.setPsctl_eq (level := s.level + 1) s.psSrc_lt (by omega) s.psTarget_lt
    rw [if_neg h0, hput] at hexec
    exact ⟨_, hexec, hl, rfl, ht⟩

theorem ceilingApply_rests (hlevel : s.level = s.psTarget) (hclock : s.mhz = clockOf s.level) : ∃ t : State, exec .ceilingApply s = .next t ∧
    t.level = s.level ∧ t.mhz = s.mhz ∧ (t.hubReg 0xC000).getLsbD 63 = false := by
  have hexec : exec .ceilingApply s = .next (s.setPsctl s.psSrc s.level s.psTarget) :=
    (if_neg (by omega)).trans ((if_neg (by omega)).trans (if_neg (by omega)))
  obtain ⟨v, hput, hl, _, _, hbusy⟩ := s.setPsctl_eq s.psSrc_lt s.level_lt s.psTarget_lt
  rw [hput] at hexec
  refine ⟨_, hexec, hl, rfl, ?_⟩
  rw [hbusy, ← hlevel, hclock]
  simp

/-! Power-fail (R448). -/

theorem State.addSem_hub (s : State) (core : Nat) (n : BitVec 8) (v : Nat) : (s.addSem core n v).hub = s.hub := by
  unfold State.addSem State.setSem
  rw [modCore_hub]

/-- One change that a rollback makes outside its context (R148, R213, R335, R384, R394): a semaphore takes back what was taken, a stream
or a journal what was reserved, a request that waits goes, and a core's tasks, tile operations, walks and transposer are as before. -/
inductive State.Returned : State → State → Prop
  | sem {s : State} (core : Nat) (n : BitVec 8) (v : Nat) : Returned s (s.addSem core n v)
  | streams {s : State} (ci pitch : Nat) : Returned s (s.returnStreams ci pitch)
  | journals {s : State} (l : Tab Journal) : Returned s { s with hub := { s.hub with journals := l } }
  | waiting {s : State} (ci : Nat) (l : List Nat) : Returned s (s.dropWaiting ci l)
  | tasks {s : State} (core : Nat) (f : List Task → List Task) : Returned s (s.modCore core fun k => { k with deque := f k.deque })
  | pitch {s : State} (core : Nat) (f : Core → List MOp) (g : Core → List Walk) (h : Core → Xp) :
      Returned s (s.modCore core fun k => { k with mops := f k, walks := g k, xp := h k })

/-- A rollback replaces its context, in the same state as it was, after changes that keep what each of them keeps. -/
theorem State.rollback_keeps {β : Type} {v : State → β} (hv : ∀ s t : State, State.Returned s t → v t = v s) (s : State) (ci : Nat) :
    ∃ (y : State) (d : Ctx), s.rollback ci = y.setCtx ci d ∧ d.st = (s.ctx ci).st ∧ v y = v s := by
  have hwaits (x : State) (core : Nat) (log : Tab Nat) : v (x.returnWaits core log) = v x :=
    foldl_keeps (v := v) (f := fun x (e : Nat × Nat) => x.addSem core (BitVec.ofNat 8 e.1) e.2) (fun x _ => hv _ _ (.sem _ _ _)) log x
  have hreplay (x : State) (l : List RelItem) : v (x.returnReplay l) = v x := by
    refine foldl_keeps (v := v) (fun x i => ?_) l.reverse x
    split
    · exact hv _ _ (.journals _)
    · rfl
  have htasks (x : State) := foldl_keeps (v := v) (f := fun x k => x.modCore k fun y =>
    { y with deque := returnTasks ci (s.ctx ci).pitch y.deque }) (fun x k => hv _ _ (.tasks k _)) (clusterCores (ci / 4)) x
  unfold State.rollback
  extract_lets core c s1 s2 s3
  have h1 : v s1 = v s := calc
    v s1 = v (((s.returnWaits core c.log).returnStreams ci c.pitch).returnReplay c.rel) := hv _ _ (.waiting _ _)
    _ = v ((s.returnWaits core c.log).returnStreams ci c.pitch) := hreplay _ _
    _ = v (s.returnWaits core c.log) := hv _ _ (.streams _ _)
    _ = v s := hwaits s core c.log
  have h2 : v s2 = v s1 := htasks s1
  have h3 : v s3 = v s2 := hv _ _ (.pitch core _ _ _)
  exact ⟨s3, _, rfl, rfl, h3.trans (h2.trans h1)⟩

/-- What a rollback leaves of the hub: the registers and the state of power. -/
theorem State.rollback_power (s : State) (ci : Nat) : (s.rollback ci).hub.regs = s.hub.regs ∧ (s.rollback ci).hub.power = s.hub.power ∧
    (s.rollback ci).hub.down = s.hub.down := by
  obtain ⟨y, d, hroll, _, hkeep⟩ := State.rollback_keeps (v := fun x => (x.hub.regs, x.hub.power, x.hub.down)) (fun s t h => by
    cases h with
    | sem core n v => rw [s.addSem_hub core n v]
    | _ => rfl) s ci
  rw [hroll, State.setCtx_hub]
  exact ⟨congrArg (fun x => x.1) hkeep, congrArg (fun x => x.2.1) hkeep, congrArg (fun x => x.2.2) hkeep⟩

theorem State.failBlocked_power (s : State) (ci : Nat) : (s.failBlocked ci).hub.regs = s.hub.regs ∧
    (s.failBlocked ci).hub.power = s.hub.power ∧ (s.failBlocked ci).hub.down = s.hub.down := by
  unfold State.failBlocked
  split
  · split
    · exact ⟨rfl, rfl, rfl⟩
    · exact s.rollback_power ci
  · exact ⟨rfl, rfl, rfl⟩

theorem powerFail_begins (hon : s.hub.power = .on) : ∃ t : State, exec .powerFail s = .next t ∧ t.hub.down = true ∧
    t.hub.power = .failing none ∧ t.psTarget = s.level := by
  generalize hs1 : s.setHubReg 0xC008 (setField (s.hubReg 0xC008) 0 32 ((field (s.hubReg 0xC008) 0 32 + 1) % 2 ^ 32)) = s1
  obtain ⟨v, hput, _, ht, _, _⟩ := s1.putPsctl_eq false s.psSrc_lt s.level_lt s.level_lt
  generalize hs2 : s1.setHubReg 0xC000 v = s2 at hput
  have hexec : exec .powerFail s = .next ((s2.ctxs.map (·.1)).foldl (fun x ci => x.failBlocked ci)
      { s2 with hub := { s2.hub with power := .failing none, down := true } }) := by
    show execPowerFail s = _
    rw [execPowerFail, hon]
    unfold State.failStart
    dsimp only
    rw [hs1, hput]
  have hkeep := foldl_keeps (v := fun x : State => (x.hub.regs, x.hub.power, x.hub.down)) (f := fun x ci => State.failBlocked x ci)
    (fun x ci => by
      obtain ⟨hregs, hpower, hdown⟩ := x.failBlocked_power ci
      rw [hregs, hpower, hdown]) (s2.ctxs.map (·.1)) { s2 with hub := { s2.hub with power := .failing none, down := true } }
  generalize (s2.ctxs.map (·.1)).foldl (fun x ci => State.failBlocked x ci)
    { s2 with hub := { s2.hub with power := .failing none, down := true } } = t at hexec hkeep
  have hregs : t.hub.regs = s2.hub.regs := congrArg (fun x => x.1) hkeep
  refine ⟨t, hexec, congrArg (fun x => x.2.2) hkeep, congrArg (fun x => x.2.1) hkeep, ?_⟩
  have htarget : t.psTarget = s2.psTarget := congrArg (fun r => field (Tab.get 0 r 0xC000) 4 4) hregs
  rw [htarget, ← hs2, (s1.setHubReg_psctl v).2.1, ht]

/-- A flush of caches leaves all but the memory system (R120, R448). -/
theorem State.flushLines_offMemory (s : State) (hit : CLine → Bool) : (s.flushLines hit).offMemory = s.offMemory := by
  unfold State.flushLines
  extract_lets s1
  have hl1 : s1.offMemory = s.offMemory := foldl_keeps (v := State.offMemory) (f := fun x k =>
    ((x.core k).l1.filter hit).foldl (fun y c => State.dropL1Line y k c.line) x)
    (fun x k => foldl_keeps (v := State.offMemory) (f := fun y (c : CLine) => State.dropL1Line y k c.line) (fun y c => y.dropL1Line_offMemory _ _) _ x)
    (s.cores.map (·.1)) s
  have hrdc := foldl_keeps (v := State.offMemory) (f := fun x d =>
    (((State.die x d).rdc.filter hit).foldl State.wbRdcLine x).modDie d fun y => { y with rdc := y.rdc.filter fun c => !hit c })
    (fun x d => (State.modDie_offMemory _ _ _).trans (foldl_keeps (v := State.offMemory) (fun y c => y.wbRdcLine_offMemory c) _ x))
    (List.range 4) s1
  exact hrdc.trans hl1

/-- The caches are written back and empty (R448), and all but the memory system stays. -/
theorem State.flushAll_empties (s : State) : (∀ k, (s.flushAll.core k).l1 = []) ∧ (∀ d < 4, (s.flushAll.die d).rdc = []) ∧
    s.flushAll.offMemory = s.offMemory := by
  obtain ⟨hl1, hrdc⟩ := State.flushLines_clears (hit := fun _ => true) (line := fun _ => true) (fun _ => rfl) s
  have hempty {l : List CLine} (h : ∀ c ∈ l, true = false) : l = [] := List.eq_nil_iff_forall_not_mem.2 fun c hc => by cases h c hc
  have hoff := s.flushLines_offMemory fun _ => true
  unfold State.flushAll
  generalize s.flushLines (fun _ => true) = u at hl1 hrdc hoff
  refine ⟨fun k => hempty (hl1 k), fun d hd => ?_, hoff⟩
  have hdie : (State.die { u with dies := u.dies.map fun d => (d.1, { d.2 with l2 := [] }) } d) = { u.die d with l2 := [] } :=
    Tab.get_map (f := fun y : Die => { y with l2 := [] }) rfl u.dies d
  rw [hdie]
  exact hempty (hrdc d hd)

/-- The keys go into the retained domain (R437). -/
theorem State.sealKeys_seals (h : s.hub.caddy.asleep = false) : s.sealKeys.hub.caddy.asleep = true ∧ s.sealKeys.hub.keys = [] ∧
    s.sealKeys.cores = s.cores ∧ s.sealKeys.dies = s.dies := by
  unfold State.sealKeys
  dsimp only
  rw [if_neg (by rw [h]; exact Bool.false_ne_true)]
  exact ⟨rfl, rfl, rfl, rfl⟩

theorem powerFail_drains (hfail : s.hub.power = .failing none) (hquiet : s.allQuiet = true) (hawake : s.hub.caddy.asleep = false) :
    ∃ t : State, exec .powerFail s = .next t ∧ t.hub.power = .refresh ∧ t.hub.caddy.asleep = true ∧ t.hub.keys = [] ∧
      (∀ k, (t.core k).l1 = []) ∧ ∀ d < 4, (t.die d).rdc = [] := by
  have hexec : exec .powerFail s = .next (s.drainDone .refresh) := by
    show execPowerFail s = _
    rw [execPowerFail, hfail]
    dsimp only
    rw [if_pos hquiet]
  obtain ⟨hl1, hrdc, hoff⟩ := s.flushAll_empties
  unfold State.drainDone at hexec
  generalize s.flushAll = u at hexec hl1 hrdc hoff
  have hasleep : u.hub.caddy.asleep = false := by
    have e := congrArg (fun x : State => x.hub.caddy.asleep) hoff
    exact e.trans hawake
  obtain ⟨hasleep', hkeys, hcores, hdies⟩ := State.sealKeys_seals hasleep
  generalize u.sealKeys = z at hexec hasleep' hkeys hcores hdies
  refine ⟨_, hexec, rfl, hasleep', hkeys, fun k => ?_, fun d hd => ?_⟩
  · rw [← hl1 k]
    exact congrArg (fun l => (Tab.get ({} : Core) l k).l1) hcores
  · rw [← hrdc d hd]
    exact congrArg (fun l => (Tab.get ({} : Die) l d).rdc) hdies

/-! Boot and the ways back (R440, R441, R449, R450). -/

theorem State.setBootstat_reg (s : State) (phase err : Nat) : (s.setBootstat phase err).hubReg 0xC010 = BitVec.ofNat 64 (err * 2 ^ 8 + phase) := by
  unfold State.setBootstat
  rw [State.setHubReg_hubReg, if_pos rfl]

/-- Power within the window (R450). -/
theorem powerReturn_boots {b : BootBlob} (href : s.hub.power = .refresh) : exec (.powerReturn b) s = .next (s.bootResume b) := by
  show execPowerReturn b s = _
  rw [execPowerReturn, href]

theorem bootResume_resumes {b : BootBlob} (hok : blobFails b = none) (hdrain : b.drainOk = true) : let t := s.bootResume b
    t.hub.power = .resuming b ∧ t.hub.caddy.leaf = s.hub.caddy.pleaf ∧ t.mem = s.mem ∧ t.ctxs = s.ctxs ∧ t.hubReg 0xC010 = 5 := by
  have ht : s.bootResume b = ({ s.modCaddy fun c => { c with leaf := c.pleaf } with
      hub := { (s.modCaddy fun c => { c with leaf := c.pleaf }).hub with power := .resuming b } } : State).setBootstat 5 0 := by
    unfold State.bootResume
    rw [hok]
    exact if_pos hdrain
  dsimp only
  rw [ht, State.setBootstat_reg]
  exact ⟨rfl, rfl, rfl, rfl, rfl⟩

theorem bootResume_stops {b : BootBlob} {i : Nat} (hfails : blobFails b = some i) : let t := s.bootResume b
    t.hub.power = .lost ∧ t.hubReg 0xC010 = BitVec.ofNat 64 ((i + 1) * 256 + 2) := by
  have ht : s.bootResume b = State.bootStop { s.modCaddy fun c => { c with leaf := c.pleaf } with
      hub := { (s.modCaddy fun c => { c with leaf := c.pleaf }).hub with power := .lost } } b i := by
    unfold State.bootResume
    rw [hfails]
  dsimp only
  rw [ht, State.bootStop, State.setBootstat_reg]
  exact ⟨rfl, rfl⟩

/-! The exact resume (R450). -/

theorem State.switchFrom_hub (s : State) (core start : Nat) : (s.switchFrom core start).hub = s.hub := by
  unfold State.switchFrom
  split
  · rfl
  · split
    · rfl
    · split <;> rfl

theorem State.makeReady_hub (s : State) (ci : Nat) : (s.makeReady ci).hub = s.hub := by
  unfold State.makeReady
  dsimp only
  split
  · exact State.switchFrom_hub _ _ _
  · split
    · exact State.switchFrom_hub _ _ _
    · split
      · exact State.switchFrom_hub _ _ _
      · rfl
    · rfl

theorem State.loadDict_hub (s : State) (core : Nat) (k : Kernel) : (s.loadDict core k).hub = s.hub := by
  unfold State.loadDict
  refine foldl_keeps (v := State.hub) (fun x n => ?_) _ s
  split <;> rfl

theorem State.reloadSlots_hub (s : State) (core : Nat) : (s.reloadSlots core).hub = s.hub := by
  unfold State.reloadSlots
  refine foldl_keeps (v := State.hub) (fun x b => ?_) _ s
  dsimp only
  split
  · rfl
  · split <;> rfl

/-- After the exact resume the module runs (R450). -/
theorem State.exactResume_runs (s : State) : s.exactResume.hub.power = .on ∧ s.exactResume.hub.down = false := by
  unfold State.exactResume
  extract_lets ctxs cores hub s1 s2 s3 s4
  have h2 : s2.hub = s1.hub := by
    refine foldl_keeps (v := State.hub) (fun x ci => ?_) (s1.ctxs.map (·.1)) s1
    split
    · rfl
    · exact x.loadDict_hub _ _
  have h3 : s3.hub = s2.hub := foldl_keeps (v := State.hub) (fun x k => x.reloadSlots_hub k) (s2.cores.map (·.1)) s2
  have h4 : s4.hub = s3.hub := by
    refine foldl_keeps (v := State.hub) (fun x ci => ?_) (s3.ctxs.map (·.1)) s3
    split
    · rfl
    · rfl
    · exact x.makeReady_hub ci
  have hpower : s4.hub.power = .on := congrArg Hub.power (h4.trans (h3.trans h2))
  have hdown : s4.hub.down = false := congrArg Hub.down (h4.trans (h3.trans h2))
  clear_value s4
  exact ⟨hpower, hdown⟩

theorem powerReturn_resumes {b b' : BootBlob} (hres : s.hub.power = .resuming b') : ∃ t : State, exec (.powerReturn b) s = .next t ∧
    t.hub.power = .on ∧ t.hub.down = false := by
  have hexec : exec (.powerReturn b) s = .next ((s.wakeKeys b'.images true).exactResume) := by
    show execPowerReturn b s = _
    rw [execPowerReturn, hres]
  exact ⟨_, hexec, State.exactResume_runs _⟩

/-! The cold start (R440, R449, R450). -/

/-- What the persistent set keeps of the generations, and that all else is new (R322, R449). -/
theorem State.persistent_keeps (s : State) (valid : Bool) : (s.persistent valid).mem = {} ∧ (s.persistent valid).ctxs = [] ∧
    (s.persistent valid).hub.power = .on ∧ (valid = true → ∀ k, ((s.persistent valid).tslot k).gen = (s.tslot k).gen) ∧
    (valid = false → s.persistent valid = State.reset) := by
  cases valid with
  | false => exact ⟨rfl, rfl, rfl, fun h => (nomatch h), fun _ => rfl⟩
  | true =>
    refine ⟨rfl, rfl, rfl, fun _ k => ?_, fun h => (nomatch h)⟩
    have hslot : (s.persistent true).tslot k =
        { s.tslot k with pstart := (s.tslot k).gen, busy := false, deny := false, root := 0 } :=
      Tab.get_map (f := fun y : TSlot => { y with pstart := y.gen, busy := false, deny := false, root := 0 }) rfl s.hub.slots k
    rw [hslot]

/-- The blob's registers (R441). -/
theorem State.applyBlob_keeps (s : State) (b : BootBlob) : (s.applyBlob b).mem = s.mem ∧ (s.applyBlob b).ctxs = s.ctxs ∧
    (s.applyBlob b).hub.power = s.hub.power ∧ (s.applyBlob b).hub.slots = s.hub.slots ∧
    (s.applyBlob b).hubReg 0 = b.fabmod.setWidth 64 ∧ (s.applyBlob b).hubReg 0xC000 = s.hubReg 0xC000 := by
  unfold State.applyBlob
  extract_lets s1 hub s2
  have hkeep := foldl_keeps (v := fun x : State => (x.mem, x.ctxs, x.hub)) (f := fun x d => x.modDie d fun y =>
    y.setRtctl (setField y.rtctl 41 11 b.spare.toNat)) (fun _ _ => rfl) (List.range 4) s2
  have h0 : s2.hubReg 0 = b.fabmod.setWidth 64 := by
    show (((s.setHubReg 0 _).setHubReg 0x3800 _).hubReg 0) = _
    rw [State.setHubReg_hubReg, if_neg (by decide), State.setHubReg_hubReg, if_pos rfl]
  have hps : s2.hubReg 0xC000 = s.hubReg 0xC000 := by
    show (((s.setHubReg 0 _).setHubReg 0x3800 _).hubReg 0xC000) = _
    rw [State.setHubReg_hubReg, if_neg (by decide), State.setHubReg_hubReg, if_neg (by decide)]
  have hrest : s2.mem = s.mem ∧ s2.ctxs = s.ctxs ∧ s2.hub.power = s.hub.power ∧ s2.hub.slots = s.hub.slots := ⟨rfl, rfl, rfl, rfl⟩
  clear_value s2
  generalize (List.range 4).foldl (fun x d => State.modDie x d fun y => y.setRtctl (setField y.rtctl 41 11 b.spare.toNat)) s2 = u at hkeep
  have hmem : u.mem = s2.mem := congrArg (fun x => x.1) hkeep
  have hctxs : u.ctxs = s2.ctxs := congrArg (fun x => x.2.1) hkeep
  have hhub : u.hub = s2.hub := congrArg (fun x => x.2.2) hkeep
  obtain ⟨hm, hc, hp, hs⟩ := hrest
  unfold State.hubReg at h0 hps ⊢
  rw [hmem, hctxs, hhub]
  exact ⟨hm, hc, hp, hs, h0, hps⟩

/-- A cold start whose images pass (R440, R450): the persistent set, the blob, and the end of the boot. -/
theorem State.coldStart_eq {b : BootBlob} (hok : blobFails b = none) (s : State) (valid : Bool) : ∃ z : State,
    z.mem = (s.persistent valid).mem ∧ z.ctxs = (s.persistent valid).ctxs ∧ z.hub.power = (s.persistent valid).hub.power ∧
    z.hub.slots = (s.persistent valid).hub.slots ∧ z.hub.regs = (s.persistent valid).hub.regs ∧
    ∃ v : Word, s.coldStart b valid = (State.setHubReg { (if (z.applyBlob b).level = 0 then (z.applyBlob b).parkAll true else z.applyBlob b) with
      mhz := clockOf (z.applyBlob b).level } 0xC008 v).setBootstat 7 0 := by
  unfold State.coldStart
  rw [hok]
  generalize s.persistent valid = p
  dsimp only
  refine ⟨_, ?_, ?_, ?_, ?_, ?_, _, rfl⟩
  · rfl
  · rfl
  · rfl
  · rfl
  · rfl

theorem State.coldStart_starts {b : BootBlob} (hok : blobFails b = none) (valid : Bool) : let t := s.coldStart b valid
    t.hub.power = .on ∧ t.mem = {} ∧ (valid = true → ∀ k, (t.tslot k).gen = (s.tslot k).gen) ∧ (valid = false → t.ctxs = []) ∧
    t.hubReg 0 = b.fabmod.setWidth 64 ∧ t.hubReg 0xC010 = 7 := by
  obtain ⟨hmem, hctxs, hpower, hgens, hreset⟩ := s.persistent_keeps valid
  obtain ⟨z, hzmem, hzctxs, hzpower, hzslots, hzregs, v, ht⟩ := s.coldStart_eq hok valid
  obtain ⟨hm, hc, hp, hs, hmod, hps⟩ := z.applyBlob_keeps b
  dsimp only
  rw [ht]
  generalize z.applyBlob b = y at hm hc hp hs hmod hps
  have hlevel : valid = false → ¬y.level = 0 := by
    intro hv
    have hreg : y.hubReg 0xC000 = 0xFF := by
      rw [hps, State.hubReg, hzregs, hreset hv]
      rfl
    unfold State.level
    rw [hreg]
    decide
  have hu : ∃ u : State, u = (if y.level = 0 then y.parkAll true else y) ∧ u.hub = y.hub ∧ u.mem = y.mem ∧ (valid = false → u.ctxs = y.ctxs) := by
    by_cases h : y.level = 0
    · obtain ⟨hhub, hmem, _⟩ := y.parkAll_keeps true
      exact ⟨_, (if_pos h).symm, hhub, hmem, fun hv => absurd h (hlevel hv)⟩
    · exact ⟨_, (if_neg h).symm, rfl, rfl, fun _ => rfl⟩
  obtain ⟨u, hueq, huhub, humem, huctxs⟩ := hu
  rw [← hueq, State.setBootstat_reg]
  refine ⟨?_, ?_, fun hv k => ?_, fun hv => ?_, ?_, rfl⟩
  · exact (congrArg Hub.power huhub).trans (hp.trans (hzpower.trans hpower))
  · exact humem.trans (hm.trans (hzmem.trans hmem))
  · have hslots : u.hub.slots = (s.persistent valid).hub.slots := (congrArg Hub.slots huhub).trans (hs.trans hzslots)
    exact (congrArg (fun l => (Tab.get ({} : TSlot) l k).gen) hslots).trans (hgens hv k)
  · exact (huctxs hv).trans (hc.trans (hzctxs.trans hctxs))
  · have hreg : u.hubReg 0 = b.fabmod.setWidth 64 := by
      rw [State.hubReg, huhub]
      exact hmod
    unfold State.setBootstat
    rw [State.setHubReg_hubReg, if_neg (by decide), State.setHubReg_hubReg, if_neg (by decide)]
    exact hreg

/-! Registers written (R439). -/

theorem registerWrite_wmask {off : BitVec 25} {v : Word} (d : BitVec 2) (hoff : off.toNat < 0x400) (halign : off.toNat % 8 = 0)
    (hres : field v 16 48 = 0) : ∃ t : State, exec (.registerWrite (.ms d) off v) s = .next t ∧
      t.readReg (.ms d) off.toNat = v ∧ t.mem = s.mem := by
  have hexec : exec (.registerWrite (.ms d) off v) s =
      .next (s.modDie d.toNat fun x => { x with wmask := Tab.put 0xFFFF x.wmask (off.toNat / 8) (v.setWidth 16) }) :=
    congrArg Host.Outcome.next ((if_pos halign).trans ((if_pos hoff).trans (if_neg (not_not.2 hres))))
  have hv : ((v.setWidth 16).setWidth 64 : Word) = v := by
    refine BitVec.eq_of_toNat_eq ?_
    rw [field_eq_div_mod] at hres
    rw [BitVec.toNat_setWidth, BitVec.toNat_setWidth]
    omega
  refine ⟨_, hexec, ?_, rfl⟩
  refine (if_pos hoff).trans ?_
  rw [State.modDie_die, if_pos rfl]
  dsimp only
  rw [Tab.get_put, if_pos rfl, hv]

theorem registerWrite_rtout {v : Word} (hlo : 1 ≤ v.toNat) (hhi : v.toNat ≤ 1000) : ∃ t : State,
    exec (.registerWrite .hub 8 v) s = .next t ∧ t.readReg .hub 8 = v := by
  have hlegal : ¬(v = 0 ∨ 1000 < v.toNat) := by
    rintro (rfl | h)
    · exact absurd hlo (by decide)
    · omega
  have hexec : exec (.registerWrite .hub 8 v) s = .next (s.setHubReg 8 v) := congrArg Host.Outcome.next (if_neg hlegal)
  refine ⟨_, hexec, ?_⟩
  show (s.setHubReg 8 v).hubReg 8 = v
  rw [State.setHubReg_hubReg, if_pos rfl]

end

/-- Settles O53: each event of the device. -/
theorem deviceEvents : Obligations.DeviceEvents := by
  intro s
  refine ⟨fun a w i hi hmem => ?access, fun k m hroom => ?verifier, fun l hboot => ?frame, powerStepPins_sets,
    fun d hok => powerStepDatagram_sets hok, ⟨ceilingApply_down, ?lower, ?raise, ceilingApply_up, ceilingApply_rests⟩,
    ⟨powerFail_begins, powerFail_drains, fun href => ?expiry⟩, fun b => ?back, fun off v d => ?registers⟩
  case access =>
    have hexec : exec i s = .next (s.busAccess a w) := by
      rcases hi with ⟨rfl, rfl⟩ | ⟨rfl, rfl, hworld⟩
      · rfl
      · exact congrArg Host.Outcome.next (if_neg hworld)
    refine ⟨fun hread => ⟨_, hexec.trans (congrArg Host.Outcome.next (State.busAccess_read w hmem hread)), rfl, rfl⟩, fun hwrite hlen halign => ?_⟩
    exact hexec.trans (congrArg Host.Outcome.next (State.busAccess_write w hmem hwrite hlen halign))
  case verifier => exact ⟨_, congrArg Host.Outcome.next (if_neg (Nat.not_le.2 hroom)), rfl⟩
  case frame => exact ⟨_, congrArg Host.Outcome.next (if_neg (Bool.eq_false_iff.1 hboot)), rfl⟩
  case lower => exact fun hdown hclock => (if_pos hdown).trans (if_pos hclock)
  case raise => exact fun hlevel hclock => (if_neg (Nat.not_lt.2 hlevel)).trans (if_pos hclock)
  case expiry =>
    show execSelfRefreshExpiry s = _
    rw [execSelfRefreshExpiry, href]
  case back =>
    refine ⟨fun href hok hdrain => ⟨_, powerReturn_boots href, bootResume_resumes hok hdrain⟩,
      fun i href hfails => ⟨_, powerReturn_boots href, bootResume_stops hfails⟩, fun hres => powerReturn_resumes hres,
      fun hlost hok => ?_, fun hon hok => ?_⟩
    · obtain ⟨hpower, hmem, hgens, _⟩ := State.coldStart_starts (s := s) hok b.drainOk
      refine ⟨s.coldStart b b.drainOk, ?_, hpower, hmem, fun hdrain x => hgens hdrain x.toNat⟩
      show execPowerReturn b s = _
      rw [execPowerReturn, hlost]
    · obtain ⟨_, hmem, _, hctxs, hmod, hboot⟩ := State.coldStart_starts (s := s) hok false
      refine ⟨s.coldStart b false, ?_, hmem, hctxs rfl, hmod, hboot⟩
      show execResetBoot b s = _
      rw [execResetBoot, hon]
  case registers =>
    refine ⟨fun hoff halign hres => registerWrite_wmask d hoff halign hres, fun hoff hlo hhi => ?_, fun halign b => ?_⟩
    · rw [hoff]
      exact registerWrite_rtout hlo hhi
    · exact congrArg Host.Outcome.next (if_neg halign)

end Sys2Proof.Machine
end

section
/-! Writes at home: what the writer reads there afterwards, and that all else reads as before (R309 to R311, R421, R422, R426). -/

namespace Sys2Proof.Machine

section
variable (s u : State) (a : Acc) (k : Nat)

/-! What a read at home sees of a byte. -/

theorem State.homeRead_refused {a : Acc} {pa : Nat} (h : s.refused a pa = true) : s.homeRead a pa = (0, false) := by
  rw [State.homeRead, if_pos h]

theorem State.homeRead_stale {a : Acc} {pa : Nat} (hs : s.staleSector pa = true) (ht : inOwnerTable pa = false) :
    s.homeRead a pa = (0, false) := by
  rw [State.homeRead, if_neg (Bool.eq_false_iff.1 ht), if_pos hs, ite_self]

/-- An access that its home takes reads a sector of the current generation under its own key (R309, R422). -/
theorem State.homeRead_taken {a : Acc} {pa : Nat} (h : Spec.taken_ s a pa) (hs : s.staleSector pa = false) :
    (s.homeRead a pa).1 = s.decipher (s.keyId (s.blockWorld pa) (s.owner pa) a.key.toNat) pa := by
  obtain ⟨-, hr, ht, hw, hk⟩ := h
  have hw' : ¬ (s.accWorld a ≠ s.blockWorld pa ∧ s.accWorld a ≠ 2) := fun h => hw.elim h.1 h.2
  rw [State.homeRead, if_neg (Bool.eq_false_iff.1 hr), if_neg (Bool.eq_false_iff.1 ht), if_neg (Bool.eq_false_iff.1 hs), if_neg hw',
    if_neg hk]

/-- Where a block stands under the reader's key, or under none, its place in DRAM does not matter. -/
theorem State.decipher_congr {s t : State} {k x : Nat} (hm : t.mem = s.mem)
    (hp : t.placed x = s.placed x ∨ Tab.get 0 s.mem.key (x / 16) = k) : t.decipher k x = s.decipher k x := by
  unfold State.decipher State.cipherBlock
  rw [hm]
  dsimp only
  rcases hp with hp | hk
  · rw [hp]
  · rw [if_pos (.inr hk), if_pos (.inr hk)]

/-- The owners of the blocks and what the hub says of their slots, worlds and keys. -/
def State.owners (s : State) : Hub × (Nat → Tab (BitVec 5)) := (s.hub, fun d => (s.die d).owner)

section
variable {s t : State} (h : t.owners = s.owners)
include h

theorem State.hub_of_owners : t.hub = s.hub := by
  have e := congrArg Prod.fst h
  exact e

theorem State.dieOwner_of_owners (d : Nat) : (t.die d).owner = (s.die d).owner := by
  have e := congrFun (congrArg Prod.snd h) d
  exact e

theorem State.owner_of_owners (x : Nat) : t.owner x = s.owner x := by
  rw [State.owner, dieOwner_of_owners h, State.owner]

theorem State.blockWorld_of_owners (x : Nat) : t.blockWorld x = s.blockWorld x := by
  unfold State.blockWorld State.prot
  rw [owner_of_owners h, hub_of_owners h]

theorem State.accWorld_of_owners (a : Acc) : t.accWorld a = s.accWorld a := by
  unfold State.accWorld State.prot
  rw [hub_of_owners h]

theorem State.keyId_of_owners (w o n : Nat) : t.keyId w o n = s.keyId w o n := by
  unfold State.keyId
  rw [hub_of_owners h]

theorem State.staleAcc_of_owners (a : Acc) : t.staleAcc a = s.staleAcc a := by
  unfold State.staleAcc State.gen State.tslot
  rw [hub_of_owners h]

theorem State.refused_of_owners {x : Nat} (hs : t.spareUsed x = s.spareUsed x) (a : Acc) : t.refused a x = s.refused a x := by
  unfold State.refused
  rw [hs, owner_of_owners h]

theorem State.staleSector_of_owners {x : Nat} (hg : Tab.get 0 t.mem.stamp (x / 128) = Tab.get 0 s.mem.stamp (x / 128)) :
    t.staleSector x = s.staleSector x := by
  unfold State.staleSector State.tslot
  rw [hg, owner_of_owners h, hub_of_owners h]

theorem State.taken_of_owners {x : Nat} (hs : t.spareUsed x = s.spareUsed x) {a : Acc} (hx : Spec.taken_ s a x) : Spec.taken_ t a x := by
  unfold Spec.taken_ at hx ⊢
  rwa [staleAcc_of_owners h, refused_of_owners h hs, accWorld_of_owners h, blockWorld_of_owners h, owner_of_owners h, keyId_of_owners h]

/-- A byte reads as before where its sector's stamp, its block of 16 bytes, its key and its place are as before. -/
theorem State.homeRead_fst_congr {x : Nat} (hs : t.spareUsed x = s.spareUsed x) (hp : t.placed x = s.placed x)
    (hg : Tab.get 0 t.mem.stamp (x / 128) = Tab.get 0 s.mem.stamp (x / 128))
    (hk : Tab.get 0 t.mem.key (x / 16) = Tab.get 0 s.mem.key (x / 16))
    (hb : ∀ y, y / 16 = x / 16 → Tab.get 0 t.mem.bytes y = Tab.get 0 s.mem.bytes y) (a : Acc) :
    (t.homeRead a x).1 = (s.homeRead a x).1 := by
  have hc : t.cipherBlock x = s.cipherBlock x := by
    unfold State.cipherBlock
    rw [hk, hp]
    congr 2
    refine List.map_congr_left fun i hi => hb _ ?_
    have := List.mem_range.1 hi
    omega
  unfold State.homeRead State.ownerByte State.cipherByte State.decipher
  rw [refused_of_owners h hs, dieOwner_of_owners h, staleSector_of_owners h hg, accWorld_of_owners h, blockWorld_of_owners h,
    owner_of_owners h, keyId_of_owners h, hc, hk, hp, hb x rfl]
  dsimp only
  repeat' split
  all_goals rfl

end

/-! One byte written under key k. -/

theorem foldl_put_get {α : Type} [DecidableEq α] (d : α) (v : Nat → α) (lo n x : Nat) (t : Tab α) :
    ((List.range n).foldl (fun b i => Tab.put d b (lo + i) (v (lo + i))) t).get d x = if lo ≤ x ∧ x < lo + n then v x else t.get d x := by
  induction n with
  | zero => rw [if_neg (by omega)]; rfl
  | succ n ih =>
    rw [List.range_succ, List.foldl_append, List.foldl_cons, List.foldl_nil, Tab.get_put, ih]
    by_cases hx : x = lo + n
    · rw [if_pos hx, if_pos (by omega), hx]
    · rw [if_neg hx]
      exact if_congr (by omega) rfl rfl

/-- A byte written stands; the rest of its block of 16 is what the key deciphers (R426). -/
theorem State.homePut_bytes (e : Nat × Byte) (x : Nat) :
    Tab.get 0 (u.homePut k e).mem.bytes x =
      if x = e.1 then e.2 else if x / 16 = e.1 / 16 then u.decipher k x else Tab.get 0 u.mem.bytes x := by
  unfold State.homePut
  dsimp only
  rw [Tab.get_put]
  split
  · rfl
  · by_cases hst : Tab.get 0 u.mem.key (e.1 / 16) = 0 ∨ Tab.get 0 u.mem.key (e.1 / 16) = k
    · rw [if_pos hst]
      split
      · rename_i hx
        rw [State.decipher, hx, if_pos hst]
      · rfl
    · rw [if_neg hst, foldl_put_get]
      exact if_congr (by omega) rfl rfl

theorem State.homePut_key (e : Nat × Byte) (c : Nat) :
    Tab.get 0 (u.homePut k e).mem.key c = if c = e.1 / 16 then k else Tab.get 0 u.mem.key c := by
  unfold State.homePut
  dsimp only
  rw [Tab.get_put]

/-- A byte written under a key is what that key reads there, and all else reads under it as before. -/
theorem State.homePut_decipher (e : Nat × Byte) (x : Nat) :
    (u.homePut k e).decipher k x = if x = e.1 then e.2 else u.decipher k x := by
  by_cases hx : x / 16 = e.1 / 16
  · rw [State.decipher, homePut_key, if_pos hx, if_pos (.inr rfl), homePut_bytes, if_pos hx]
  · have hne : x ≠ e.1 := fun h => hx (by rw [h])
    have hc : (u.homePut k e).cipherBlock x = u.cipherBlock x := by
      unfold State.cipherBlock
      rw [homePut_key, if_neg hx]
      have hp : (u.homePut k e).placed x = u.placed x := rfl
      rw [hp]
      congr 2
      refine List.map_congr_left fun i hi => ?_
      have := List.mem_range.1 hi
      rw [homePut_bytes, if_neg (by omega), if_neg (by omega)]
    rw [if_neg hne, State.decipher, homePut_key, if_neg hx, homePut_bytes, if_neg hne, if_neg hx, hc]
    rfl

/-! A run of bytes written under key k. -/

/-- The bytes l written from pa + i on. -/
def runCells (pa i : Nat) (l : List Byte) : List (Nat × Byte) := (l.zipIdx i).map fun e => (pa + e.2, e.1)

theorem runCells_cons (pa i : Nat) (b : Byte) (l : List Byte) : runCells pa i (b :: l) = (pa + i, b) :: runCells pa (i + 1) l := by
  simp [runCells]

theorem runCells_length (pa i : Nat) (l : List Byte) : (runCells pa i l).length = l.length := by
  simp [runCells]

theorem mem_runCells {pa i : Nat} {l : List Byte} {e : Nat × Byte} (h : e ∈ runCells pa i l) :
    pa + i ≤ e.1 ∧ e.1 < pa + i + l.length := by
  obtain ⟨⟨b, j⟩, hb, rfl⟩ := List.mem_map.1 h
  have hj := List.mem_zipIdx hb
  dsimp only
  omega

/-- The state once every cell has been written under key k. -/
def State.homePuts (s : State) (k : Nat) (cells : List (Nat × Byte)) : State := cells.foldl (fun x e => x.homePut k e) s

theorem State.homePuts_runCells_cons (pa i : Nat) (b : Byte) (l : List Byte) :
    u.homePuts k (runCells pa i (b :: l)) = (u.homePut k (pa + i, b)).homePuts k (runCells pa (i + 1) l) := by
  rw [runCells_cons]
  rfl

theorem State.homePuts_decipher (pa i : Nat) (l : List Byte) (x : Nat) :
    (u.homePuts k (runCells pa i l)).decipher k x =
      if pa + i ≤ x ∧ x < pa + i + l.length then l.getD (x - (pa + i)) 0 else u.decipher k x := by
  induction l generalizing i u with
  | nil => rw [if_neg (by rw [List.length_nil]; omega)]; rfl
  | cons b l ih =>
    rw [homePuts_runCells_cons, ih, homePut_decipher]
    rw [List.length_cons]
    by_cases hx : x = pa + i
    · rw [if_neg (by omega), if_pos hx, if_pos (by omega), hx, Nat.sub_self]
      rfl
    · rw [if_neg hx]
      by_cases hin : pa + i ≤ x ∧ x < pa + i + (l.length + 1)
      · rw [if_pos (by omega), if_pos hin, show x - (pa + i) = x - (pa + (i + 1)) + 1 by omega]
        rfl
      · rw [if_neg (by omega), if_neg hin]

theorem State.homePuts_key_of (cells : List (Nat × Byte)) {c : Nat} (h : Tab.get 0 u.mem.key c = k ∨ ∃ e ∈ cells, e.1 / 16 = c) :
    Tab.get 0 (u.homePuts k cells).mem.key c = k := by
  induction cells generalizing u with
  | nil => exact h.resolve_right fun ⟨_, he, _⟩ => nomatch he
  | cons e cells ih =>
    refine ih (u.homePut k e) ?_
    rw [homePut_key]
    by_cases hc : c = e.1 / 16
    · exact .inl (if_pos hc)
    · rw [if_neg hc]
      rcases h with h | ⟨e', he', rfl⟩
      · exact .inl h
      · rcases List.mem_cons.1 he' with rfl | he'
        · exact absurd rfl hc
        · exact .inr ⟨e', he', rfl⟩

theorem State.homePuts_key_written {pa : Nat} {l : List Byte} {x : Nat} (hx : pa ≤ x ∧ x < pa + l.length) :
    Tab.get 0 (u.homePuts k (runCells pa 0 l)).mem.key (x / 16) = k := by
  refine u.homePuts_key_of k _ (.inr ⟨(pa + (x - pa), l[x - pa]'(by omega)), ?_, by dsimp only; rw [Nat.add_sub_cancel' hx.1]⟩)
  refine List.mem_map.2 ⟨(l[x - pa]'(by omega), x - pa), ?_, rfl⟩
  exact List.mem_zipIdx_iff_getElem?.2 (by simp)

/-- What the sectors but one hold. -/
def Mem.elsewhere (m : Mem) (sec : Nat) : (Nat → Byte) × (Nat → Nat) × (Nat → BitVec 12) :=
  (fun x => if x / 128 = sec then 0 else Tab.get 0 m.bytes x, fun c => if c / 8 = sec then 0 else Tab.get 0 m.key c,
    fun q => if q = sec then 0 else Tab.get 0 m.stamp q)

section
variable {m n : Mem} {sec : Nat} (h : n.elsewhere sec = m.elsewhere sec)
include h

theorem Mem.bytes_of_elsewhere {x : Nat} (hx : x / 128 ≠ sec) : Tab.get 0 n.bytes x = Tab.get 0 m.bytes x := by
  have e := congrFun (congrArg Prod.fst h) x
  simpa only [Mem.elsewhere, if_neg hx] using e

theorem Mem.key_of_elsewhere {c : Nat} (hc : c / 8 ≠ sec) : Tab.get 0 n.key c = Tab.get 0 m.key c := by
  have e := congrFun (congrArg (fun v => v.2.1) h) c
  simpa only [Mem.elsewhere, if_neg hc] using e

theorem Mem.stamp_of_elsewhere {q : Nat} (hq : q ≠ sec) : Tab.get 0 n.stamp q = Tab.get 0 m.stamp q := by
  have e := congrFun (congrArg (fun v => v.2.2) h) q
  simpa only [Mem.elsewhere, if_neg hq] using e

end

theorem State.homePut_elsewhere {e : Nat × Byte} {sec : Nat} (he : e.1 / 128 = sec) :
    (u.homePut k e).mem.elsewhere sec = u.mem.elsewhere sec := by
  refine Prod.ext (funext fun x => ?_) (Prod.ext (funext fun c => ?_) rfl)
  · dsimp only [Mem.elsewhere]
    split
    · rfl
    · rw [homePut_bytes, if_neg (by rintro rfl; contradiction), if_neg (by omega)]
  · dsimp only [Mem.elsewhere]
    split
    · rfl
    · rw [homePut_key, if_neg (by omega)]

theorem State.homePuts_elsewhere {cells : List (Nat × Byte)} {sec : Nat} (h : ∀ e ∈ cells, e.1 / 128 = sec) :
    (u.homePuts k cells).mem.elsewhere sec = u.mem.elsewhere sec := by
  induction cells generalizing u with
  | nil => rfl
  | cons e cells ih =>
    exact (ih (u.homePut k e) fun e' he' => h e' (List.mem_cons_of_mem _ he')).trans
      (u.homePut_elsewhere k (h e List.mem_cons_self))

theorem State.homePuts_stamp (cells : List (Nat × Byte)) : (u.homePuts k cells).mem.stamp = u.mem.stamp :=
  foldl_keeps (v := fun x : State => x.mem.stamp) (f := fun (x : State) (e : Nat × Byte) => x.homePut k e) (fun _ _ => rfl) cells u

theorem State.homePuts_owners (cells : List (Nat × Byte)) : (u.homePuts k cells).owners = u.owners :=
  foldl_keeps (v := State.owners) (f := fun (x : State) (e : Nat × Byte) => x.homePut k e) (fun _ _ => rfl) cells u

theorem State.homePuts_dies (cells : List (Nat × Byte)) : (u.homePuts k cells).dies = u.dies :=
  foldl_keeps (v := State.dies) (f := fun (x : State) (e : Nat × Byte) => x.homePut k e) (fun _ _ => rfl) cells u

/-! The sector made ready for a write, and the note of a migration. -/

/-- The sector of an address as a write finds it: in its zero form where it was stale, under its owner's generation, and without
its poison where all of it is written (R308, R309, R413). -/
def State.renewed (s : State) (pa n : Nat) : State :=
  let s1 := if s.staleSector pa then { s with mem := s.mem.zeroSector (pa / 128) } else s
  let s2 := if s.owner pa < 16 then
      { s1 with mem := { s1.mem with stamp := Tab.put 0 s1.mem.stamp (pa / 128) (s1.tslot (s.owner pa)).gen } } else s1
  if n = 128 then { s2 with mem := { s2.mem with poison := Tab.put false s2.mem.poison (pa / 128) false } } else s2

theorem State.renewed_owners (pa n : Nat) : (s.renewed pa n).owners = s.owners := by
  unfold State.renewed
  dsimp only
  split <;> split <;> split <;> rfl

theorem State.renewed_dies (pa n : Nat) : (s.renewed pa n).dies = s.dies := by
  unfold State.renewed
  dsimp only
  split <;> split <;> split <;> rfl

theorem State.renewed_bytes (pa n : Nat) :
    (s.renewed pa n).mem.bytes = if s.staleSector pa then (s.mem.zeroSector (pa / 128)).bytes else s.mem.bytes := by
  unfold State.renewed
  dsimp only
  split <;> split <;> split <;> rfl

theorem State.renewed_key (pa n : Nat) :
    (s.renewed pa n).mem.key = if s.staleSector pa then (s.mem.zeroSector (pa / 128)).key else s.mem.key := by
  unfold State.renewed
  dsimp only
  split <;> split <;> split <;> rfl

theorem State.renewed_stamp (pa n : Nat) :
    (s.renewed pa n).mem.stamp =
      if s.owner pa < 16 then Tab.put 0 s.mem.stamp (pa / 128) (s.tslot (s.owner pa)).gen else s.mem.stamp := by
  unfold State.renewed
  dsimp only
  split <;> split <;> split <;> rfl

theorem State.renewed_elsewhere (pa n : Nat) : (s.renewed pa n).mem.elsewhere (pa / 128) = s.mem.elsewhere (pa / 128) := by
  refine Prod.ext (funext fun x => ?_) (Prod.ext (funext fun c => ?_) (funext fun q => ?_)) <;> dsimp only [Mem.elsewhere] <;> split
  · rfl
  · rw [renewed_bytes]
    split
    · rw [Mem.zeroSector, Tab.get_eraseRange, if_neg (by omega)]
    · rfl
  · rfl
  · rw [renewed_key]
    split
    · rw [Mem.zeroSector, Tab.get_eraseRange, if_neg (by omega)]
    · rfl
  · rfl
  · rw [renewed_stamp]
    split
    · rw [Tab.get_put, if_neg (by assumption)]
    · rfl

/-- The renewed sector is of the current generation. -/
theorem State.renewed_fresh {pa n x : Nat} (hx : x / 128 = pa / 128) : (s.renewed pa n).staleSector x = false := by
  have ho : s.owner x = s.owner pa := by
    unfold State.owner paDie
    rw [show x / 2 ^ 37 % 4 = pa / 2 ^ 37 % 4 by omega, show x % 2 ^ 37 / 65536 = pa % 2 ^ 37 / 65536 by omega]
  have hsl : ∀ t, (s.renewed pa n).tslot t = s.tslot t := fun t => by
    rw [State.tslot, hub_of_owners (s.renewed_owners pa n), State.tslot]
  rw [State.staleSector, owner_of_owners (s.renewed_owners pa n), hsl, renewed_stamp, ho, hx]
  split
  · rw [Tab.get_put, if_pos rfl, bne_self_eq_false, Bool.and_false]
  · rw [decide_eq_false (by assumption), Bool.false_and]

/-- A stale sector is renewed with zeros, which every key reads as zeros; any other keeps what is there. -/
theorem State.renewed_decipher {pa x : Nat} (n : Nat) (hx : x / 128 = pa / 128) :
    (s.renewed pa n).decipher k x = if s.staleSector pa then 0 else s.decipher k x := by
  by_cases hs : s.staleSector pa = true
  · have hkey : Tab.get 0 (s.renewed pa n).mem.key (x / 16) = 0 := by
      rw [renewed_key, if_pos hs, Mem.zeroSector, Tab.get_eraseRange, if_pos (by omega)]
    rw [if_pos hs, State.decipher, if_pos (.inl hkey), renewed_bytes, if_pos hs, Mem.zeroSector, Tab.get_eraseRange, if_pos (by omega)]
  · have hp : (s.renewed pa n).placed x = s.placed x := by
      unfold State.placed State.die
      rw [renewed_dies]
    unfold State.decipher State.cipherBlock
    rw [renewed_key, renewed_bytes, if_neg hs, if_neg hs, if_neg hs, hp]

theorem Die.logPend_owner (d : Die) (b : Nat) : (d.logPend b).owner = d.owner := by
  unfold Die.logPend
  split <;> rfl

theorem Die.startMigr_owner (d : Die) : d.startMigr.owner = d.owner := by
  unfold Die.startMigr
  split
  · dsimp only
    split
    · exact Die.logPend_owner _ _
    · rfl
  · rfl

theorem Die.switchMigr_owner (d : Die) : d.switchMigr.owner = d.owner := by
  unfold Die.switchMigr
  split
  · rfl
  · exact Die.startMigr_owner _

theorem State.modDie_owners {f : Die → Die} (hf : ∀ d, (f d).owner = d.owner) (d : Nat) : (s.modDie d f).owners = s.owners := by
  refine Prod.ext rfl (funext fun i => ?_)
  show ((s.modDie d f).die i).owner = _
  rw [modDie_die]
  split
  · rename_i hi
    rw [hf, hi]
    rfl
  · rfl

theorem State.noteMigr_owners (pa : Nat) : (s.noteMigr pa).owners = s.owners := by
  unfold State.noteMigr
  split
  · rfl
  · split
    · rfl
    · split
      · split
        · exact s.modDie_owners Die.switchMigr_owner _
        · refine s.modDie_owners ?_ _
          exact fun _ => rfl
      · refine s.modDie_owners ?_ _
        exact fun _ => rfl

theorem State.noteMigr_mem (pa : Nat) : (s.noteMigr pa).mem = s.mem := by
  unfold State.noteMigr
  repeat' split
  all_goals rfl

/-! A write at home. -/

/-- A write that its home takes: the sector is renewed and every byte written under the access's key (R309, R413, R422, R426). -/
theorem State.homeWrite_taken {a : Acc} {pa : Nat} {b : Byte} {l : List (Nat × Byte)} (h : Spec.taken_ s a pa) :
    s.homeWrite a ((pa, b) :: l) = ((s.renewed pa (l.length + 1)).homePuts
      (s.keyId (s.blockWorld pa) (s.owner pa) a.key.toNat) ((pa, b) :: l)).noteMigr pa := by
  obtain ⟨hst, hr, ht, hw, hk⟩ := h
  have hw' : ¬ (s.accWorld a ≠ s.blockWorld pa ∧ s.accWorld a ≠ 2) := fun h => hw.elim h.1 h.2
  rw [State.homeWrite, if_neg (Bool.eq_false_iff.1 hst), if_neg (Bool.eq_false_iff.1 hr), if_neg (Bool.eq_false_iff.1 ht), if_neg hw']
  dsimp only
  rw [if_neg hk]
  rfl

theorem State.homeWrite_refused_mem {a : Acc} {pa : Nat} (h : s.refused a pa = true) (b : Byte) (l : List (Nat × Byte)) :
    (s.homeWrite a ((pa, b) :: l)).mem = s.mem := by
  rw [State.homeWrite, if_pos h]
  split <;> rfl

theorem State.homeWrite_turned_mem {a : Acc} {pa : Nat}
    (h : s.staleAcc a = true ∨ (s.accWorld a ≠ s.blockWorld pa ∧ s.accWorld a ≠ 2)) (b : Byte) (l : List (Nat × Byte)) :
    (s.homeWrite a ((pa, b) :: l)).mem = s.mem := by
  rw [State.homeWrite]
  split
  · rfl
  · split
    · rfl
    · split
      · rfl
      · rw [if_pos (h.resolve_left (by assumption))]
        rfl

/-- An access by a slot to a block that is not its own is refused, but to one of the system's through a page of its own (R310,
R311). -/
theorem State.refused_of_foreign {a : Acc} {t : BitVec 4} {pa : Nat} (ht : a.slot = some t) (ho : s.owner pa ≠ t.toNat)
    (hs : s.owner pa ≠ 16 ∨ a.sysOk = false) : s.refused a pa = true := by
  have hsys : (s.owner pa == 16 && a.sysOk) = false := by
    rcases hs with h | h
    · rw [beq_false_of_ne h, Bool.false_and]
    · rw [h, Bool.and_false]
  rw [State.refused, ht]
  dsimp only
  rw [hsys, bne_iff_ne.2 ho]
  exact Bool.or_true _

end

theorem homeIsolation : Spec.HomeIsolation := fun s _ _ _ =>
  ⟨fun _ ht ho hs => ⟨s.homeRead_refused (s.refused_of_foreign ht ho hs), fun b =>
      s.homeWrite_refused_mem (s.refused_of_foreign ht ho hs) b _⟩,
    s.homeRead_stale, fun h b => s.homeWrite_turned_mem h b _⟩

/-- The sector of a taken access is taken throughout. -/
theorem taken_of_sector {s : State} {a : Acc} {pa x : Nat} (h : Spec.taken_ s a pa) (hx : x / 128 = pa / 128) :
    Spec.taken_ s a x ∧ s.owner x = s.owner pa ∧ s.blockWorld x = s.blockWorld pa := by
  have hd : paDie x = paDie pa := by unfold paDie; omega
  have hb : x % 2 ^ 37 / 65536 = pa % 2 ^ 37 / 65536 := by omega
  have ho : s.owner x = s.owner pa := by unfold State.owner; rw [hd, hb]
  have hw : s.blockWorld x = s.blockWorld pa := by
    unfold State.blockWorld
    rw [ho, show x / 65536 = pa / 65536 by omega]
  have hsp : s.spareUsed x = s.spareUsed pa := by unfold State.spareUsed blockOf; rw [hd, hb]
  have hr : s.refused a x = s.refused a pa := by unfold State.refused; rw [hsp, ho]
  have hin : inOwnerTable x = inOwnerTable pa := by unfold inOwnerTable blockOf; rw [hb]
  unfold Spec.taken_ at h ⊢
  rw [hr, hin, hw, ho]
  exact ⟨h, rfl, rfl⟩

theorem staleSector_of_sector {s : State} {pa x : Nat} (ho : s.owner x = s.owner pa) (hx : x / 128 = pa / 128) :
    s.staleSector x = s.staleSector pa := by
  unfold State.staleSector
  rw [ho, hx]

/-- In the sector that is written, the access reads what it wrote, and the rest as before. -/
theorem homeWrite_reads_sector {s w t : State} {a : Acc} {pa : Nat} {l : List Byte} (h : Spec.taken_ s a pa)
    (hw : w = (s.renewed pa l.length).homePuts (s.keyId (s.blockWorld pa) (s.owner pa) a.key.toNat) (runCells pa 0 l))
    (htm : t.mem = w.mem) (hto : t.owners = s.owners) {x : Nat} (hx : x / 128 = pa / 128) (hsp : t.spareUsed x = s.spareUsed x)
    (hpl : t.placed x = s.placed x ∨ (pa ≤ x ∧ x < pa + l.length)) :
    (t.homeRead a x).1 = if pa ≤ x ∧ x < pa + l.length then l.getD (x - pa) 0 else (s.homeRead a x).1 := by
  obtain ⟨hxt, ho, hbw⟩ := taken_of_sector h hx
  have hfresh : t.staleSector x = false := by
    have hst : Tab.get 0 t.mem.stamp (x / 128) = Tab.get 0 (s.renewed pa l.length).mem.stamp (x / 128) := by
      rw [htm, hw, State.homePuts_stamp]
    rw [State.staleSector_of_owners (hto.trans (s.renewed_owners pa l.length).symm) hst, s.renewed_fresh hx]
  have hkt : t.keyId (t.blockWorld x) (t.owner x) a.key.toNat = s.keyId (s.blockWorld pa) (s.owner pa) a.key.toNat := by
    rw [State.keyId_of_owners hto, State.blockWorld_of_owners hto, State.owner_of_owners hto, hbw, ho]
  have hpw : w.placed x = s.placed x := by
    rw [State.placed, State.die, hw, State.homePuts_dies, State.renewed_dies]
    rfl
  rw [State.homeRead_taken t (State.taken_of_owners hto hsp hxt) hfresh, hkt]
  generalize hk : s.keyId (s.blockWorld pa) (s.owner pa) a.key.toNat = k at *
  have hdec : t.decipher k x = w.decipher k x := by
    refine State.decipher_congr htm (hpl.imp (fun e => e.trans hpw.symm) fun hin => ?_)
    rw [hw]
    exact State.homePuts_key_written _ _ hin
  rw [hdec, hw, State.homePuts_decipher, Nat.add_zero, s.renewed_decipher k l.length hx]
  split
  · rfl
  · cases hss : s.staleSector pa with
    | true => rw [if_pos rfl, s.homeRead_stale ((staleSector_of_sector ho hx).trans hss) hxt.2.2.1]
    | false =>
      rw [if_neg Bool.false_ne_true, s.homeRead_taken hxt ((staleSector_of_sector ho hx).trans hss), ho, hbw, hk]

/-- Outside the sector that is written every byte reads as before. -/
theorem homeWrite_reads_elsewhere {s w t : State} {a : Acc} {pa k n : Nat} {l : List Byte} (hlen : pa % 128 + l.length ≤ 128)
    (hw : w = (s.renewed pa n).homePuts k (runCells pa 0 l))
    (htm : t.mem = w.mem) (hto : t.owners = s.owners) {x : Nat} (hx : x / 128 ≠ pa / 128) (hsp : t.spareUsed x = s.spareUsed x)
    (hpl : t.placed x = s.placed x) : (t.homeRead a x).1 = (s.homeRead a x).1 := by
  have hm : t.mem.elsewhere (pa / 128) = s.mem.elsewhere (pa / 128) := by
    rw [htm, hw, State.homePuts_elsewhere, State.renewed_elsewhere]
    intro e he
    have := mem_runCells he
    omega
  exact State.homeRead_fst_congr hto hsp hpl (Mem.stamp_of_elsewhere hm hx) (Mem.key_of_elsewhere hm (by omega))
    (fun y hy => Mem.bytes_of_elsewhere hm (by omega)) a

theorem homeWriteIsReadBack : Spec.HomeWriteIsReadBack := by
  intro s a pa l h hl hlen t x hsp hpl
  obtain ⟨b, l, rfl⟩ := List.exists_cons_of_ne_nil hl
  have hcells : ((b :: l).zipIdx.map fun e => (pa + e.2, e.1)) = (pa, b) :: runCells pa 1 l := runCells_cons pa 0 b l
  have ht : t = ((s.renewed pa (b :: l).length).homePuts (s.keyId (s.blockWorld pa) (s.owner pa) a.key.toNat)
      (runCells pa 0 (b :: l))).noteMigr pa := by
    show s.homeWrite a ((b :: l).zipIdx.map fun e => (pa + e.2, e.1)) = _
    rw [hcells, s.homeWrite_taken h, runCells_cons, runCells_length]
    rfl
  have htm := (congrArg State.mem ht).trans (State.noteMigr_mem _ _)
  have hto := (congrArg State.owners ht).trans (((State.noteMigr_owners _ _).trans (State.homePuts_owners _ _ _)).trans (s.renewed_owners _ _))
  by_cases hx : x / 128 = pa / 128
  · exact homeWrite_reads_sector h rfl htm hto hx hsp hpl
  · have hout : ¬ (pa ≤ x ∧ x < pa + (b :: l).length) := by omega
    rw [if_neg hout]
    exact homeWrite_reads_elsewhere hlen rfl htm hto hx hsp (hpl.resolve_right hout)

/-- Settles O60: a write that is taken renews its sector and puts each byte under the access's key, which reads it back and all
else as before; what is refused, stale or of another world changes no memory. -/
theorem homeMemory : Obligations.HomeMemory := ⟨homeIsolation, homeWriteIsReadBack⟩

end Sys2Proof.Machine
end

section
/-! The operations of the stream unit on a live end (R332 to R338, R341, R342). -/

namespace Sys2Proof.Machine

section
variable {s : State} {i : Instr} {f : OpM} {op : Nat} {t : Src} {l : Wide} {r c : EndRec}

/-- An operation of sx below its pitch's limit is its action on the counted state (log 36). -/
theorem sxRelease_acts {act : State → Res State} (hv : i.view = some (.ofM 13 op f)) (hw : Spec.within s i f.g 5 16) :
    s.sxRelease i f act = inSlot 2 (act (Spec.counted s 5)) := by
  obtain ⟨hc, hon, hroom⟩ := hw
  exact limited_acts hv rfl rfl hc hon hroom

theorem freeOfJournal_ok (w : Word) (hj : r.journal = none) : freeOfJournal r w = .ok () := by
  rw [freeOfJournal, hj]
  rfl

theorem State.sxRoom_ok (h : s.me.sx.length < 64) : s.sxRoom = .ok () := if_neg (Nat.not_le.2 h)

theorem counted_wbS (kind : Nat) (w : BitVec 6) : (Spec.counted s kind).wbS w = s.wbS w := by
  rw [State.wbS, Spec.counted, State.modMe_me, State.wbS]

/-- Of AVAIL and SPACE the kind of the end reports one (R336). -/
theorem spoll_report (c : Bool) (a p q : Nat) :
    a + (if c = true then 0 else p) + (if c = true then q else 0) = a + if c = true then q else p := by
  cases c <;> simp

theorem counted_sxPend (w : BitVec 6) : (Spec.counted s 5).sxPend w =
    (s.fresh + 1, (Spec.pended s 5 0xA 13 (s.wbS w)).modMe fun c => { c with sx := c.sx ++ [s.fresh + 1] }) := by
  rw [State.sxPend, counted_wbS]
  rfl

theorem opSclose_acts (hw : Spec.within s (.sclose f) f.g 5 16) (ht : s.readT f.t = .ok t) (hr : s.checkEnd t.word none = .ok r)
    (hj : r.journal = none) : opSclose f s = .ok ((Spec.counted s 5).addRel 0 13 (.sclose t.word)) := by
  rw [opSclose, sxRelease_acts (i := .sclose f) rfl hw, ht, bind_of_ok, hr, bind_of_ok, freeOfJournal_ok _ hj]
  rfl

theorem opSsend_acts (hw : Spec.within s (.ssend f) f.g 5 16) (ht : s.readT f.t = .ok t) (hl : s.readLatch 13 = .ok l)
    (hr : s.checkEnd l.lo (some false) = .ok r) (hj : r.journal = none) (hroom : s.me.sx.length < 64) :
    opSsend f s = .ok (((Spec.pended s 5 0xA 13 (s.wbS f.w)).modMe fun c => { c with sx := c.sx ++ [s.fresh + 1] }).addRel
      (s.fresh + 1) 13 (.ssend l.lo (t.wide.data.setWidth 512))) := by
  rw [opSsend, sxRelease_acts (i := .ssend f) rfl hw, ht, bind_of_ok, hl, bind_of_ok, hr, bind_of_ok, freeOfJournal_ok _ hj,
    State.sxRoom_ok hroom, bind_of_ok, bind_of_ok, counted_sxPend]
  rfl

theorem opSxfer_acts (hw : Spec.within s (.sxfer f) f.g 5 16) (ht : s.readT f.t = .ok t) (hl : s.readLatch 13 = .ok l)
    (hr : s.checkEnd t.word none = .ok r) (hcar : s.checkEnd l.lo (some false) = .ok c) (hj : r.journal = none)
    (hjc : c.journal = none) (hne : handleSid t.word ≠ handleSid l.lo) (hresv : ∀ x ∈ r.resv, x.1 = s.cid → x.2.1 ≠ s.me.pitch)
    (hroom : s.me.sx.length < 64) :
    opSxfer f s = .ok ((((Spec.pended s 5 0xA 13 (s.wbS f.w)).modMe fun c => { c with sx := c.sx ++ [s.fresh + 1] }).modStream
      (handleSid t.word) fun e => e.setEnd (handleCons t.word) ((e.endOf (handleCons t.word)).map
        fun r => { r with xferBy := r.xferBy ++ [(s.cid, s.me.pitch)] })).addRel (s.fresh + 1) 13 (.sxfer t.word l.lo)) := by
  have hfree : ¬ (r.resv.any fun x => x.1 == s.cid && x.2.1 == s.me.pitch) = true := by
    rw [List.any_eq_true]
    rintro ⟨x, hx, hb⟩
    obtain ⟨hctx, hpitch⟩ := Bool.and_eq_true_iff.1 hb
    exact hresv x hx (beq_iff_eq.1 hctx) (beq_iff_eq.1 hpitch)
  rw [opSxfer, sxRelease_acts (i := .sxfer f) rfl hw, ht, bind_of_ok, hl, bind_of_ok, hr, bind_of_ok, hcar, bind_of_ok,
    freeOfJournal_ok _ hj, bind_of_ok, freeOfJournal_ok _ hjc, bind_of_ok, if_neg hne, if_neg hfree, State.sxRoom_ok hroom]
  dsimp only [bind_of_ok]
  rw [counted_sxPend]
  rfl

end

/-- R332 to R338: the operations of sx but srecv. -/
theorem streamOperationsIssue : Spec.StreamOperationsIssue := by
  intro f s t l r c ht hl w lo sxed
  refine ⟨fun hw => ?sopen, fun hw hr hj => ?sclose, fun hw hr hj hroom => ?ssend, fun hw hr hcar hj hjc hne hresv hroom => ?sxfer,
    fun hc hon hr => ?spoll, fun hc hon hr => ?sstat⟩
  case sopen =>
    refine exec_of_opOf (i := .sopen f) (v := .ofM 13 1 f) rfl ?_
    show opSopen f s = _
    rw [opSopen, sxRelease_acts (i := .sopen f) rfl hw, ht, bind_of_ok]
    rfl
  case sclose => exact exec_of_opOf (i := .sclose f) (v := .ofM 13 2 f) rfl (opSclose_acts hw ht hr hj)
  case ssend => exact exec_of_opOf (i := .ssend f) (v := .ofM 13 3 f) rfl (opSsend_acts hw ht hl hr hj hroom)
  case sxfer =>
    exact exec_of_opOf (i := .sxfer f) (v := .ofM 13 6 f) rfl (opSxfer_acts hw ht hl hr hcar hj hjc hne hresv hroom)
  case spoll =>
    refine exec_of_opOf (i := .spoll f) (v := .ofM 13 5 f) rfl ?_
    show opSpoll f s = _
    rw [opSpoll, guarded_acts (g := f.g) (i := .spoll f) (v := .ofM 13 5 f) rfl rfl rfl hc hon, ht, bind_of_ok, hr, bind_of_ok]
    dsimp only
    rw [State.scalarWrites_eq, spoll_report]
    rfl
  case sstat =>
    refine exec_of_opOf (i := .sstat f) (v := .ofM 13 7 f) rfl ?_
    show opSstat f s = _
    rw [opSstat, guarded_acts (g := f.g) (i := .sstat f) (v := .ofM 13 7 f) rfl rfl rfl hc hon, ht, bind_of_ok, hr, bind_of_ok]
    rfl

/-! srecv (R335, R341). -/

/-- The number an srecv asks for next, after those that its context has reserved. -/
def EndRec.asked (r : EndRec) : BitVec 32 := r.nseq + BitVec.ofNat 32 r.resv.length

/-- The reservation of an item for the issuing context's pitch (R335). -/
def State.reserved (s : State) (w : Word) (n : BitVec 32) : State :=
  s.modStream (handleSid w) fun e => { e with cons := e.cons.map fun r => { r with resv := r.resv ++ [(s.cid, s.me.pitch, n)] } }

/-- No more of the stream's items is to come to an end (R335). -/
def EndRec.over (r : EndRec) : Prop := (r.state = 2 ∨ r.state = 3) ∧ ∀ b, r.endSeq = some b → later b r.asked = false

theorem State.modStream_hub {s t : State} (h : t.hub = s.hub) (x : StreamId) (f : StreamEntry → StreamEntry) :
    (t.modStream x f).hub = (s.modStream x f).hub := by
  unfold State.modStream State.setStream State.stream
  rw [h]

theorem counted_reserved (s : State) (w : Word) (n : BitVec 32) : (Spec.counted s 6).reserved w n =
    (Spec.counted s 6).modStream (handleSid w) fun e =>
      { e with cons := e.cons.map fun r => { r with resv := r.resv ++ [(s.cid, s.me.pitch, n)] } } := by
  have hp : (Spec.counted s 6).me.pitch = s.me.pitch := by rw [Spec.counted, State.modMe_me]
  rw [State.reserved, hp]
  rfl

section
variable {s : State} {f : OpM} {t : Src} {r : EndRec} (hc : (Instr.srecv f).check = none) (hon : Spec.on s f.g)
  (ht : s.readT f.t = .ok t) (hr : s.checkEnd t.word (some true) = .ok r) (hresv : ∀ x ∈ r.resv, x.1 = s.cid)
include hc hon ht hr hresv

theorem opSrecv_data {k : Nat} {d : BitVec 12} (hs : r.store.find? (fun x => x.1 == r.asked.toNat) = some (k, .data d))
    (hroom : Tab.get 0 s.me.counts 6 < 16) :
    let l := s.homeReads r.acc (r.place r.asked) 64
    opSrecv f s = .ok ((((Spec.counted s 6).reserved t.word r.asked).addRel 0 13 (.srecv t.word none)).recvLoad f
      (recvBytes (l.map Prod.fst) 0 r.asked) (l.any Prod.snd)) := by
  intro l
  have hfree : ¬ (r.resv.any fun x => x.1 != s.cid) = true := by simpa using hresv
  have hn : r.nseq + BitVec.ofNat 32 r.resv.length = r.asked := rfl
  rw [opSrecv, guarded_acts (g := f.g) (i := .srecv f) (v := .ofM 13 4 f) rfl rfl rfl hc hon, ht, bind_of_ok]
  dsimp only
  rw [hr, bind_of_ok, if_neg hfree, hn, hs, State.limit, limSrecv, if_neg (Nat.not_le.2 hroom)]
  rfl

theorem opSrecv_over (hs : r.store.find? (fun x => x.1 == r.asked.toNat) = none) (ho : r.over) :
    opSrecv f s = .ok (s.recvLoad f (recvBytes (List.replicate 64 0) 1 r.asked) false) := by
  have hfree : ¬ (r.resv.any fun x => x.1 != s.cid) = true := by simpa using hresv
  have hn : r.nseq + BitVec.ofNat 32 r.resv.length = r.asked := rfl
  obtain ⟨hst, hend⟩ := ho
  rw [opSrecv, guarded_acts (g := f.g) (i := .srecv f) (v := .ofM 13 4 f) rfl rfl rfl hc hon, ht, bind_of_ok]
  dsimp only
  rw [hr, bind_of_ok, if_neg hfree, hn, hs]
  dsimp only
  cases he : r.endSeq with
  | none => exact congrArg (inSlot 2) (if_pos ⟨hst, rfl⟩)
  | some b => exact congrArg (inSlot 2) (if_pos ⟨hst, by simp [hend b he]⟩)

theorem opSrecv_empty (hs : r.store.find? (fun x => x.1 == r.asked.toNat) = none) (ho : ¬ r.over) :
    opSrecv f s = .error (.block .emptyStream) := by
  have hfree : ¬ (r.resv.any fun x => x.1 != s.cid) = true := by simpa using hresv
  have hn : r.nseq + BitVec.ofNat 32 r.resv.length = r.asked := rfl
  rw [opSrecv, guarded_acts (g := f.g) (i := .srecv f) (v := .ofM 13 4 f) rfl rfl rfl hc hon, ht, bind_of_ok]
  dsimp only
  rw [hr, bind_of_ok, if_neg hfree, hn, hs]
  dsimp only
  cases he : r.endSeq with
  | none => exact congrArg (inSlot 2) (if_neg fun h => ho ⟨h.1, fun b hb => by rw [he] at hb; cases hb⟩)
  | some b => exact congrArg (inSlot 2) (if_neg fun h => ho ⟨h.1, fun b' hb => by
      rw [he] at hb
      cases hb
      simpa using h.2⟩)

end

/-- What an srecv lands waits as a load: its destinations pend on it, and it has all its bytes (R335). -/
theorem State.recvLoad_got (s : State) (f : OpM) (bytes : List Byte) (p : Bool) :
    let u := s.recvLoad f bytes p
    u.cur.pends = s.cur.pends ++ (.rl 0xA :: (Spec.wbVec f.w).toList).map (fun g => (g, ⟨s.fresh + 1, 13, s.me.pitch, false⟩)) ∧
      u.me.loads.length = s.me.loads.length + 1 ∧ u.hub = s.hub ∧
      ∃ ld ∈ u.me.loads, ld.tok = s.fresh + 1 ∧ ld.ovl.map Prod.snd = bytes ∧ ld.pois = p := by
  intro u
  obtain ⟨ld, hloads, hld⟩ : ∃ ld : PendLoad, u.me.loads = s.me.loads ++ [ld] ∧
      ld.tok = s.fresh + 1 ∧ ld.ovl.map Prod.snd = bytes ∧ ld.pois = p := by
    refine ⟨_, congrArg Ctx.loads (State.modMe_me _ _), rfl, ?_, rfl⟩
    simp [List.map_map, Function.comp_def]
  refine ⟨rfl, ?_, rfl, ld, ?_, hld⟩
  · rw [hloads, List.length_append]
    rfl
  · rw [hloads]
    exact List.mem_append_right _ List.mem_cons_self

/-- The reservation and the release entry leave the context's loads and its pitch. -/
theorem reserved_me (s : State) (w : Word) (n : BitVec 32) :
    let z := ((Spec.counted s 6).reserved w n).addRel 0 13 (.srecv w none)
    z.me.loads = s.me.loads ∧ z.me.pitch = s.me.pitch := by
  intro z
  have hcounted : (Spec.counted s 6).me.loads = s.me.loads ∧ (Spec.counted s 6).me.pitch = s.me.pitch := by
    rw [Spec.counted, State.modMe_me]
    exact ⟨rfl, rfl⟩
  obtain ⟨hl, hp⟩ := hcounted
  have hz := State.modMe_me ((Spec.counted s 6).reserved w n) fun c =>
    { c with rel := c.rel ++ [⟨s.cur.seq, 0, 13, s.coreSlot s.cur.core, s.coreGen s.cur.core, .srecv w none⟩] }
  exact ⟨(congrArg Ctx.loads hz).trans hl, (congrArg Ctx.pitch hz).trans hp⟩

/-- R335, R341: what an srecv lands, or that it blocks. -/
theorem streamReceives {f : OpM} {s : State} {t : Src} {r : EndRec} (hc : (Instr.srecv f).check = none) (hon : Spec.on s f.g)
    (ht : s.readT f.t = .ok t) (hr : s.checkEnd t.word (some true) = .ok r) (hresv : ∀ x ∈ r.resv, x.1 = s.cid) :
    let n := r.asked
    let got := fun (z : State) (bytes : List Byte) (p : Bool) =>
      ∃ u : State, exec (.srecv f) s = .next u.commit ∧ u.cur.pends = s.cur.pends ++
        (.rl 0xA :: (Spec.wbVec f.w).toList).map (fun g => (g, ⟨s.fresh + 1, 13, s.me.pitch, false⟩)) ∧
      u.me.loads.length = s.me.loads.length + 1 ∧ u.hub.streams = z.hub.streams ∧
      (∃ ld ∈ u.me.loads, ld.tok = s.fresh + 1 ∧ ld.ovl.map Prod.snd = bytes ∧ ld.pois = p)
    (∀ k d, r.store.find? (fun x => x.1 == n.toNat) = some (k, .data d) → Tab.get 0 s.me.counts 6 < 16 →
      let l := s.homeReads r.acc (r.place n) 64
      got (s.reserved t.word n) (recvBytes (l.map Prod.fst) 0 n) (l.any Prod.snd)) ∧
    (r.store.find? (fun x => x.1 == n.toNat) = none →
      (r.over → got s (recvBytes (List.replicate 64 0) 1 n) false) ∧
      (¬ r.over → exec (.srecv f) s = .next (s.stop (.block .emptyStream)))) := by
  intro n got
  refine ⟨fun k d hs hroom => ?_, fun hs => ⟨fun ho => ?_, fun ho => ?_⟩⟩
  · intro l
    obtain ⟨hpends, hloads, hhub, hld⟩ := State.recvLoad_got (((Spec.counted s 6).reserved t.word n).addRel 0 13 (.srecv t.word none)) f
      (recvBytes (l.map Prod.fst) 0 n) (l.any Prod.snd)
    obtain ⟨hl, hp⟩ := reserved_me s t.word n
    rw [hl] at hloads
    rw [hp] at hpends
    have hres : (((Spec.counted s 6).reserved t.word n).addRel 0 13 (.srecv t.word none)).hub = (s.reserved t.word n).hub := by
      rw [State.addRel, State.modMe_hub, counted_reserved]
      exact State.modStream_hub (s := s) (t := Spec.counted s 6) rfl _ _
    exact ⟨_, exec_of_opOf (i := .srecv f) (v := .ofM 13 4 f) rfl (opSrecv_data hc hon ht hr hresv hs hroom), hpends, hloads,
      congrArg Hub.streams (hhub.trans hres), hld⟩
  · obtain ⟨hpends, hloads, hhub, hld⟩ := s.recvLoad_got f (recvBytes (List.replicate 64 0) 1 n) false
    exact ⟨_, exec_of_opOf (i := .srecv f) (v := .ofM 13 4 f) rfl (opSrecv_over hc hon ht hr hresv hs ho), hpends, hloads,
      congrArg Hub.streams hhub, hld⟩
  · exact exec_of_opOf_error (i := .srecv f) (v := .ofM 13 4 f) rfl (opSrecv_empty hc hon ht hr hresv hs ho)

/-- R341, R342: the faults of a handle in the order of their subcauses. -/
theorem checkEnd_faults (s : State) (w : Word) (hres : w.toNat / 2 ^ 32 % 8 = 0) (hchk : w.toNat % 2 ^ 32 ≠ 0)
    (hinst : (s.stream (handleSid w)).inst = []) :
    let gone := if s.me.rcvWait = true ∧ w.setWidth 32 ∈ (s.stream (handleSid w)).left then 4 else 1
    s.checkEnd w none = match (s.stream (handleSid w)).endOf (handleCons w) with
      | none => raiseStream gone w
      | some r =>
        if r.chk ≠ w.setWidth 32 then raiseStream gone w
        else if r.slot ≠ s.coreSlot s.cur.core then raiseStream 2 w
        else if r.gen ≠ s.gen r.slot then raiseStream 3 w
        else if r.state = 1 ∨ (s.cid, s.me.pitch) ∈ r.xferBy then raiseStream 4 w
        else .ok r := by
  intro gone
  have hform : ¬ (field w 32 3 ≠ 0 ∨ handleChk w = 0) := by
    rw [field_eq_div_mod]
    rintro (h | h)
    · exact h hres
    · exact hchk (by simpa [handleChk] using congrArg BitVec.toNat h)
  have hnew : ¬ ((s.stream (handleSid w)).inst.any fun i => i.ctx == s.cid && i.pitch == s.me.pitch && i.cons == handleCons w &&
      i.chk == handleChk w) = true := by
    rw [hinst]
    exact Bool.false_ne_true
  unfold State.checkEnd
  dsimp only
  rw [if_neg hform, if_neg nofun, if_neg hnew]
  simp only [List.contains_eq_mem, decide_eq_true_eq, handleChk]
  rfl

/-- R335, R341, R342: srecv, and the faults of a handle. -/
theorem streamReceive : Spec.StreamReceive := by
  refine ⟨fun f s t r hc hon ht hr hresv => streamReceives hc hon ht hr hresv, fun s w => ?_⟩
  intro fault hres hchk hinst gone
  have h := checkEnd_faults s w hres hchk hinst
  cases he : (s.stream (handleSid w)).endOf (handleCons w) with
  | none =>
    rw [he] at h
    exact h
  | some r =>
    rw [he] at h
    dsimp only at h ⊢
    simp only [fault, gone, h]
    split_ifs <;> rfl

/-- Settles O32: each operation of sx on a live end, srecv on its three cases, and the faults of a handle in order. -/
theorem streamOperations : Obligations.StreamOperations := ⟨streamOperationsIssue, streamReceive⟩

end Sys2Proof.Machine
end

section
/-! The operations of the belay unit on a live journal (R348 to R358). -/

namespace Sys2Proof.Machine

section
variable {s : State} {i : Instr} {f : OpM} {op : Nat} {t : Src} {l : Wide} {x : Journal} {r : EndRec}

/-- An operation of bj below its pitch's limit is its action on the counted state (log 36). -/
theorem bjRelease_acts {act : State → Res State} (hv : i.view = some (.ofM 14 op f)) (hw : Spec.within s i f.g 7 16) :
    s.bjRelease i f act = inSlot 2 (act (Spec.counted s 7)) := by
  obtain ⟨hc, hon, hroom⟩ := hw
  exact limited_acts hv rfl rfl hc hon hroom

theorem counted_bjPend (w : BitVec 6) :
    (Spec.counted s 7).bjPend w = (s.fresh + 1, Spec.pended s 7 0xB 14 (s.wbS w)) := by
  rw [State.bjPend, counted_wbS]
  rfl

theorem jidxOf_eq (w : Word) : jidxOf w = w.toNat / 2 ^ 40 % 2 ^ 12 := field_eq_div_mod w 40 12

theorem ofNat_jidxOf (w : Word) : BitVec.ofNat 12 (jidxOf w) = w.extractLsb' 40 12 := by
  refine BitVec.eq_of_toNat_eq ?_
  rw [jidxOf_eq, BitVec.toNat_ofNat, BitVec.extractLsb'_toNat, Nat.shiftRight_eq_div_pow, Nat.mod_mod]

theorem later_self (a : BitVec 32) : later a a = false := by simp [later]

/-- Of two numbers at most one is later. -/
theorem later_asymm {a b : BitVec 32} (h : later a b = true) : later b a = false := by
  simp only [later, Bool.and_eq_true, decide_eq_true_eq, Bool.and_eq_false_iff, decide_eq_false_iff_not] at h ⊢
  right
  bv_omega

theorem opJopen_acts (hw : Spec.within s (.jopen f) f.g 7 16) (ht : s.readT f.t = .ok t)
    (hr : s.checkEnd ((t.wide.data.setWidth 512).extractLsb' 64 64) (some false) = .ok r)
    (hcap : 8 ≤ field (t.wide.data.setWidth 512 : Packet64) 140 4) (hres : field (t.wide.data.setWidth 512 : Packet64) 144 16 = 0) :
    opJopen f s = .ok ((Spec.pended s 7 0xB 14 (s.wbS f.w)).addRel (s.fresh + 1) 14 (.jopen (t.wide.data.setWidth 512))) := by
  have hok : ¬ (field (t.wide.data.setWidth 512 : Packet64) 140 4 < 8 ∨ field (t.wide.data.setWidth 512 : Packet64) 144 16 ≠ 0) := by
    omega
  rw [opJopen, bjRelease_acts (i := .jopen f) rfl hw, ht, bind_of_ok]
  dsimp only
  rw [hr]
  generalize (t.wide.data.setWidth 512 : Packet64) = d at *
  rw [if_neg hok, counted_bjPend]
  rfl

theorem opJtrunc_acts (hw : Spec.within s (.jtrunc f) f.g 7 16) (ht : s.readT f.t = .ok t) (hl : s.readLatch 14 = .ok l)
    (hx : s.checkJournal l.lo = .ok x) (hlo : later x.cstep (t.word.setWidth 32) = false)
    (hhi : later (t.word.setWidth 32) x.tail = false) : opJtrunc f s =
      .ok ((Spec.counted s 7).addRel 0 14 (.jtrunc l.lo ((t.word.setWidth 32 : BitVec 32).setWidth 64) l.hi)) := by
  have hok : ¬ (later x.cstep (t.word.setWidth 32) = true ∨ later (t.word.setWidth 32) x.tail = true) := by simp [hlo, hhi]
  rw [opJtrunc, bjRelease_acts (i := .jtrunc f) rfl hw, ht, bind_of_ok, hl, bind_of_ok, hx, bind_of_ok]
  dsimp only
  rw [if_neg hok]
  rfl

theorem opJpart_acts (hw : Spec.within s (.jpart f) f.g 7 16) (ht : s.readT f.t = .ok t) (hl : s.readLatch 14 = .ok l)
    (hx : s.checkJournal l.lo = .ok x) : opJpart f s =
      .ok ((Spec.pended s 7 0xB 14 (s.wbS f.w)).addRel (s.fresh + 1) 14 (.jpart l.lo (t.word &&& 0xFFF))) := by
  rw [opJpart, bjRelease_acts (i := .jpart f) rfl hw, ht, bind_of_ok, hl, bind_of_ok, hx, counted_bjPend]
  rfl

theorem opJrep_acts (hw : Spec.within s (.jrep f) f.g 7 16) (ht : s.readT f.t = .ok t) : opJrep f s =
      .ok ((Spec.pended s 7 0xB 14 (s.wbS f.w)).addRel (s.fresh + 1) 14 (.jrep t.word)) := by
  rw [opJrep, bjRelease_acts (i := .jrep f) rfl hw, ht, bind_of_ok, counted_bjPend]
  rfl

/-- A jrec's results wait for its record (R352). -/
def State.recWaits (s : State) (f : OpM) : State :=
  (({ s with fresh := s.fresh + 1 } : State).pendOn (.rl 0xB :: (wbV f.w).toList) (s.fresh + 1) 14 false).modMe
    fun c => { c with jrecs := c.jrecs ++ [s.fresh + 1] }

/-- A jrec waits for its record and asks the partner for it (R352). -/
def State.recAsked (s : State) (f : OpM) (x : Journal) (w : Word) (n : BitVec 32) : State :=
  let s2 := s.recWaits f
  { s2 with hub := { s2.hub with jrecs := s2.hub.jrecs ++ [(s.cid, s.fresh + 1, x.part, s.dtime)] } }.post x.part
    (.jrecReq ⟨x.part, s.fabid, BitVec.ofNat 12 (jidxOf w), n, s.fresh + 1⟩)

theorem opJrec_acts (hc : (Instr.jrec f).check = none) (hon : Spec.on s f.g) (ht : s.readT f.t = .ok t) (hl : s.readLatch 14 = .ok l)
    (hx : s.checkJournal l.lo = .ok x) (hst : x.state ≠ 3) (hroom : s.me.jrecs.length < 4) :
    opJrec f s = .ok (s.recAsked f x l.lo (t.word.setWidth 32)) := by
  rw [opJrec, guarded_acts (g := f.g) (i := .jrec f) (v := .ofM 14 2 f) rfl rfl rfl hc hon, ht, bind_of_ok, hl, bind_of_ok, hx,
    bind_of_ok, if_neg hst, if_neg (Nat.not_le.2 hroom)]
  rfl

theorem State.recAsked_waits (s : State) (f : OpM) (x : Journal) (w : Word) (n : BitVec 32) :
    (s.recAsked f x w n).me.jrecs = s.me.jrecs ++ [s.fresh + 1] ∧
    (s.recAsked f x w n).cur.pends = s.cur.pends ++
      (.rl 0xB :: (Spec.wbVec f.w).toList).map (fun g => (g, ⟨s.fresh + 1, 14, s.me.pitch, false⟩)) := by
  have hme : (s.recAsked f x w n).me = (s.recWaits f).me := by
    unfold State.recAsked State.post
    dsimp only
    split <;> rfl
  have hcur : (s.recAsked f x w n).cur = (s.recWaits f).cur := by
    unfold State.recAsked State.post
    dsimp only
    split <;> rfl
  rw [hme, hcur]
  exact ⟨congrArg Ctx.jrecs (State.modMe_me _ _), rfl⟩

theorem State.recAsked_asks (s : State) (f : OpM) (x : Journal) (w : Word) (n : BitVec 32) :
    let m : Msg := .jrecReq ⟨x.part, s.fabid, w.extractLsb' 40 12, n, s.fresh + 1⟩
    if x.part = s.fabid then (s.recAsked f x w n).net = s.net ++ [m] else (s.recAsked f x w n).out = s.out ++ [m] := by
  intro m
  rw [State.recAsked, ofNat_jidxOf]
  split
  · exact congrArg State.net (if_pos (by assumption))
  · exact congrArg State.out (if_neg (by assumption))

/-! jemit of a step that the journal holds (R350, R351, R353). -/

/-- A journalled step meets no obstacle where fewer than 64 emissions wait. -/
theorem jemitCheck_ok {w : Word} {d : Packet64} (hst : x.state ≠ 3) (hlo : later x.cstep (recStep d) = false)
    (hhi : later x.tail (recStep d) = true) (hcur : x.state = 2 → recStep d = x.cur) (hroom : (s.emissions x.sid).length < 64) :
    s.jemitCheck x w d = .ok () := by
  have hin : ¬ (later x.cstep (recStep d) = true ∨ later (recStep d) x.tail = true) := by simp [hlo, later_asymm hhi]
  have htail : recStep d ≠ x.tail := by
    intro h
    rw [h, later_self] at hhi
    cases hhi
  have hplay : ¬ (x.state = 2 ∧ recStep d ≠ x.cur) := fun h => h.2 (hcur h.1)
  unfold State.jemitCheck
  dsimp only
  rw [if_neg hst, if_neg hin, if_neg hplay, if_neg fun h => htail h.1, if_neg fun h => htail h.1, if_neg (Nat.not_le.2 hroom),
    if_neg htail]

/-- The journal steps on where it replays (R353). -/
def State.stepped (s : State) (w : Word) (x : Journal) (step : BitVec 32) : State :=
  if x.state = 2 then s.setJournal (jidxOf w) { x with cur := step + 1, state := if step + 1 = x.tail then 0 else 2 } else s

theorem State.stepped_wbS (s : State) (w : Word) (x : Journal) (step : BitVec 32) (r : BitVec 6) :
    (s.stepped w x step).wbS r = s.wbS r := by
  unfold State.stepped
  split <;> rfl

theorem counted_jemitGo (w : Word) (wb : BitVec 6) (step : BitVec 32) (first : Bool) :
    (Spec.counted s 7).jemitGo x w wb step first =
      (((Spec.counted s 7).stepped w x step).land 2 14 2 (Spec.writes s 0xB wb ((recToken (Tab.get (0 : Packet64) x.recs step.toNat)).setWidth 64
        ||| if first then 0 else 0x100000000))).addRel 0 14 (.jemit w (Tab.get (0 : Packet64) x.recs step.toNat) (x.state = 2)) := by
  have hwb : ∀ v, ((Spec.counted s 7).stepped w x step).scalarWrites 0xB wb v = Spec.writes s 0xB wb v := fun v => by
    rw [← State.scalarWrites_eq, State.scalarWrites, State.stepped_wbS, counted_wbS, State.scalarWrites]
  rw [← hwb]
  rfl

theorem opJemit_acts (hw : Spec.within s (.jemit f) f.g 7 16) (ht : s.readT f.t = .ok t) (hl : s.readLatch 14 = .ok l)
    (hx : s.checkJournal l.lo = .ok x) (hok : s.jemitCheck x l.lo (t.wide.data.setWidth 512) = .ok ()) :
    opJemit f s = .ok ((Spec.counted s 7).jemitGo x l.lo f.w (recStep (t.wide.data.setWidth 512))
      (s.me.jfirst == some (jidxOf l.lo, recStep (t.wide.data.setWidth 512)))) := by
  rw [opJemit, bjRelease_acts (i := .jemit f) rfl hw, ht, bind_of_ok, hl, bind_of_ok]
  dsimp only
  rw [hx, bind_of_ok, hok]
  rfl

end

/-- Settles O33: each operation of bj on a live journal of the context's slot. -/
theorem journalOperationsIssue : Obligations.JournalOperationsIssue := by
  intro f s t l x r ht hl d w n late
  refine ⟨fun hw hr hcap hres => ?jopen, fun hw hx hlo hhi => ?jtrunc, fun hw hx => ?jpart, fun hw => ?jrep, fun hc hon hx => ?jstat,
    fun hc hon hx hst hroom => ?jrec, ?jemit⟩
  case jopen =>
    rw [show d.toNat / 2 ^ 140 % 16 = field d 140 4 from (field_eq_div_mod d 140 4).symm] at hcap
    rw [show d.toNat / 2 ^ 144 % 2 ^ 16 = field d 144 16 from (field_eq_div_mod d 144 16).symm] at hres
    exact exec_of_opOf (i := .jopen f) (v := .ofM 14 1 f) rfl (opJopen_acts hw ht hr hcap hres)
  case jtrunc => exact exec_of_opOf (i := .jtrunc f) (v := .ofM 14 4 f) rfl (opJtrunc_acts hw ht hl hx hlo hhi)
  case jpart => exact exec_of_opOf (i := .jpart f) (v := .ofM 14 5 f) rfl (opJpart_acts hw ht hl hx)
  case jrep => exact exec_of_opOf (i := .jrep f) (v := .ofM 14 6 f) rfl (opJrep_acts hw ht)
  case jstat =>
    intro v
    refine exec_of_opOf (i := .jstat f) (v := .ofM 14 7 f) rfl ?_
    show opJstat f s = _
    rw [opJstat, guarded_acts (g := f.g) (i := .jstat f) (v := .ofM 14 7 f) rfl rfl rfl hc hon, ht, bind_of_ok, hx, bind_of_ok, jidxOf_eq]
    rfl
  case jrec =>
    obtain ⟨hwait, hpends⟩ := s.recAsked_waits f x w n
    exact ⟨_, exec_of_opOf (i := .jrec f) (v := .ofM 14 2 f) rfl (opJrec_acts hc hon ht hl hx hst hroom), hwait, hpends,
      s.recAsked_asks f x w n⟩
  case jemit =>
    intro step hw hx hst hlo hhi hcur hroom rec' j res u
    have hgo := opJemit_acts hw ht hl hx (jemitCheck_ok hst hlo hhi hcur hroom)
    rw [show recStep (t.wide.data.setWidth 512) = step from rfl, show l.lo = w from rfl, counted_jemitGo] at hgo
    have hj : jidxOf w = j := jidxOf_eq w
    have hu : (Spec.counted s 7).stepped w x step = u := by rw [State.stepped, hj]
    have hfirst : (if (s.me.jfirst == some (jidxOf w, step)) = true then 0 else 0x100000000 : Word) =
        if s.me.jfirst = some (j, step) then 0 else 0x100000000 := by
      rw [hj]
      exact if_congr beq_iff_eq rfl rfl
    have hrun := exec_of_opOf (i := .jemit f) (v := .ofM 14 3 f) rfl hgo
    rw [hu, hfirst] at hrun
    exact hrun

end Sys2Proof.Machine
end

section
/-! The operations of the work unit and what their releases do (R379 to R385). -/

namespace Sys2Proof.Machine

section
variable {s : State} {i : Instr} {f : OpS} {op : Nat} {a : ScalarArgs}

/-- An operation of wk below its pitch's limit is its action on the counted state (log 36). -/
theorem wkRelease_acts {act : State → ScalarArgs → Res State} (hv : i.view = some (.ofS 0 15 op f)) (hw : Spec.wready s i f)
    (ha : s.scalarArgs 15 i.shape f = .ok a) : s.wkRelease i f act = inSlot 0 (act (Spec.counted s 8) a) := by
  obtain ⟨hc, hon, hroom⟩ := hw
  rw [State.wkRelease, limWk, limited_acts (g := f.g) hv rfl rfl hc hon hroom, ha, bind_of_ok]

theorem opFork_acts {t : Src} (hw : Spec.wready s (.fork f) f) (ht : s.readT f.t = .ok t) (hforks : forksOf s.me < 256)
    (hroom : (s.myCore.deque.filter fun t => t.gen == s.gen t.slot).length +
      ((List.range 4).map fun i => forksOf (s.ctx (4 * s.cur.core + i))).sum < 256) :
    opFork f s = .ok ((Spec.counted s 8).addRel 0 15 (.fork (t.wide.data.setWidth 256))) := by
  obtain ⟨hc, hon, hlim⟩ := hw
  have hsum : (List.range 4).foldl (fun a i => a + forksOf (s.ctx (4 * s.cur.core + i))) 0 =
      ((List.range 4).map fun i => forksOf (s.ctx (4 * s.cur.core + i))).sum := by
    rw [List.sum_eq_foldl, List.foldl_map]
  have hdeque : ¬ 256 ≤ ((s.core s.cur.core).deque.filter s.taskHere).length +
      (List.range 4).foldl (fun a i => a + forksOf (s.ctx (4 * s.cur.core + i))) 0 := by
    rw [hsum]
    exact Nat.not_le.2 hroom
  rw [opFork, limWk, limited_acts (g := f.g) (i := .fork f) (v := .ofS 0 15 1 f) rfl rfl rfl hc hon hlim, ht, bind_of_ok]
  dsimp only
  rw [if_neg (Nat.not_le.2 hforks), if_neg hdeque]
  rfl

/-- With a false guard an operation of wk counts in the limit and does no more (log 36). -/
theorem wkRelease_off {act : State → Res State} (hv : i.view = some (.ofS 0 15 op f)) (hc : i.check = none) (hoff : Spec.off s f.g)
    (hroom : Tab.get 0 s.me.counts 8 < 16) :
    (inSlot 0 do s.opens i; let s0 ← s.limit limWk 16 15; if !s.guard f.g then pure s0 else act s0) = .ok (Spec.counted s 8) := by
  have hk : ¬ ((0 : Nat) = 3 ∨ (0 : Nat) = 4) := by decide
  have hsil : Spec.silent s (.ofS 0 15 op f) := by
    rw [Spec.silent, if_neg (show ¬ ((View.ofS 0 15 op f).slot = 3 ∨ (View.ofS 0 15 op f).slot = 4) from hk)]
    exact hoff
  exact limited_of_silent (g := f.g) hv hc hsil hk rfl hroom

/-! join (R382, R384). -/

/-- The registers W to W + 3 take four words (R382). -/
def State.fourWrites (s : State) (w : BitVec 6) (l : List Word) : List RegWrite :=
  l.zipIdx.map fun (v, i) => wr64 (.s (physS s.me.bank.rrb (w.toNat + i))) v

section
variable (hc : (Instr.join f).check = none) (hon : Spec.on s f.g) (ha : s.scalarArgs 15 (Instr.join f).shape f = .ok a)
  (hfree : ∀ x ∈ s.me.rel, ∀ k t, x.body ≠ .joinTake k t)
include hc hon ha hfree

theorem opJoin_acts : opJoin f s = inSlot 0 (
      if s.jc s.cur.core (field a.t 0 6) = 0 then pure (s.land 0 15 1 (s.fourWrites f.w [0, 0, 0, 0]))
      else
        match s.findTask with
        | none => blockAt .join
        | some (k, fromHead, t) =>
          let w := fun (i : Nat) => t.word.extractLsb' (64 * i) 64
          pure (((s.holdTask k t.key fromHead).addRel 0 15 (.joinTake k t.key)).land 0 15 1
            (s.fourWrites f.w [w 0 ||| 0x8000000000000000, w 1, w 2, w 3]))) := by
  have hnone : ¬ (s.me.rel.any fun x => match x.body with | .joinTake _ _ => true | _ => false) = true := by
    rw [List.any_eq_true]
    rintro ⟨x, hx, hb⟩
    split at hb
    · exact hfree x hx _ _ (by assumption)
    · cases hb
  rw [opJoin, guarded_acts (g := f.g) (i := .join f) (v := .ofS 0 15 2 f) rfl rfl rfl hc hon, ha, bind_of_ok]
  exact congrArg (inSlot 0) (if_neg hnone)

theorem opJoin_zero (hz : s.jc s.cur.core (a.t.toNat % 64) = 0) :
    opJoin f s = .ok (s.land 0 15 1 (s.fourWrites f.w [0, 0, 0, 0])) := by
  have hz' : s.jc s.cur.core (field a.t 0 6) = 0 := by rwa [field_eq_div_mod, pow_zero, Nat.div_one]
  rw [opJoin_acts hc hon ha hfree, if_pos hz']
  rfl

theorem opJoin_takes {k : Nat} {fromHead : Bool} {t : Task} (hz : s.jc s.cur.core (a.t.toNat % 64) ≠ 0)
    (ht : s.findTask = some (k, fromHead, t)) :
    let word := fun (i : Nat) => t.word.extractLsb' (64 * i) 64
    opJoin f s = .ok (((s.holdTask k t.key fromHead).addRel 0 15 (.joinTake k t.key)).land 0 15 1
      (s.fourWrites f.w [word 0 ||| 1#64 <<< 63, word 1, word 2, word 3])) := by
  have hz' : ¬ s.jc s.cur.core (field a.t 0 6) = 0 := by rwa [field_eq_div_mod, pow_zero, Nat.div_one]
  have hbit : (0x8000000000000000 : Word) = 1#64 <<< 63 := by decide
  rw [opJoin_acts hc hon ha hfree, if_neg hz', ht, hbit]
  rfl

theorem opJoin_none (hz : s.jc s.cur.core (a.t.toNat % 64) ≠ 0) (ht : s.findTask = none) :
    opJoin f s = .error (.block .join) := by
  have hz' : ¬ s.jc s.cur.core (field a.t 0 6) = 0 := by rwa [field_eq_div_mod, pow_zero, Nat.div_one]
  rw [opJoin_acts hc hon ha hfree, if_neg hz', ht]
  rfl

end

end

/-- R379 to R385: the operations of wk. -/
theorem workOperations : Spec.WorkOperations := by
  intro f s a c
  refine ⟨fun t hw ht hforks hroom => ?fork, fun hw ha => ?jadd, fun hw ha => ?wdone, fun hw ha => ?wcan,
    fun hc hon ha hfree => ?join, ?limitedOff, fun hc hoff => ?joinOff⟩
  case fork => exact exec_of_opOf (i := .fork f) (v := .ofS 0 15 1 f) rfl (opFork_acts hw ht hforks hroom)
  case jadd => exact exec_of_opOf (i := .jadd f) (v := .ofS 0 15 3 f) rfl (wkRelease_acts (i := .jadd f) rfl hw ha)
  case wdone => exact exec_of_opOf (i := .wdone f) (v := .ofS 0 15 5 f) rfl (wkRelease_acts (i := .wdone f) rfl hw ha)
  case wcan =>
    refine exec_of_opOf (i := .wcan f) (v := .ofS 0 15 4 f) rfl (wkRelease_acts (i := .wcan f) rfl hw ha)
  case join =>
    refine ⟨fun hz => ?_, fun hz k fromHead t ht => ?_, fun hz ht => ?_⟩
    · exact exec_of_opOf (i := .join f) (v := .ofS 0 15 2 f) rfl (opJoin_zero hc hon ha hfree hz)
    · exact exec_of_opOf (i := .join f) (v := .ofS 0 15 2 f) rfl (opJoin_takes hc hon ha hfree hz ht)
    · exact exec_of_opOf_error (i := .join f) (v := .ofS 0 15 2 f) rfl (opJoin_none hc hon ha hfree hz ht)
  case limitedOff =>
    intro e he hc hoff hroom
    simp only [List.mem_cons, List.not_mem_nil, or_false] at he
    obtain rfl | rfl | rfl | rfl := he
    · exact exec_of_opOf (v := .ofS 0 15 1 f) rfl (wkRelease_off (op := 1) rfl hc hoff hroom)
    · exact exec_of_opOf (v := .ofS 0 15 3 f) rfl (wkRelease_off (op := 3) rfl hc hoff hroom)
    · exact exec_of_opOf (v := .ofS 0 15 5 f) rfl (wkRelease_off (op := 5) rfl hc hoff hroom)
    · exact exec_of_opOf (v := .ofS 0 15 4 f) rfl (wkRelease_off (op := 4) rfl hc hoff hroom)
  case joinOff =>
    have hk : ¬ ((0 : Nat) = 3 ∨ (0 : Nat) = 4) := by decide
    have hsil : Spec.silent s (.ofS 0 15 2 f) := by
      rw [Spec.silent, if_neg (show ¬ ((View.ofS 0 15 2 f).slot = 3 ∨ (View.ofS 0 15 2 f).slot = 4) from hk)]
      exact hoff
    exact exec_of_opOf (i := .join f) (v := .ofS 0 15 2 f) rfl
      (guarded_of_silent (g := f.g) (i := .join f) (v := .ofS 0 15 2 f) rfl hc hsil hk rfl)

/-! The join counters, and what the releases do (R380, R381, R384, R385). -/

theorem State.jc_lt (s : State) (c n : Nat) : s.jc c n < 2 ^ 32 := by
  unfold State.jc
  split
  · exact BitVec.isLt _
  · decide

/-- Of a core a join counter looks at the counters, their stamps and the slot. -/
theorem State.modCore_jc (s : State) (core : Nat) {f : Core → Core}
    (hf : ∀ k, (f k).jc = k.jc ∧ (f k).jcStamp = k.jcStamp ∧ (f k).slot = k.slot) (c k : Nat) : (s.modCore core f).jc c k = s.jc c k := by
  rw [State.jc, modCore_coreGen s core c fun x => (hf x).2.2, modCore_core]
  split
  · rename_i hc
    obtain ⟨hjc, hstamp, -⟩ := hf (s.core core)
    rw [hjc, hstamp, hc]
    rfl
  · rfl

theorem State.setJc_jc (s : State) (core n v c k : Nat) (hv : v < 2 ^ 32) :
    (s.setJc core n v).jc c k = if c = core ∧ k = n then v else s.jc c k := by
  have hgen : (s.setJc core n v).coreGen c = s.coreGen c := modCore_coreGen s core c fun _ => rfl
  have hcore := modCore_core s core c (f := fun x : Core => { x with jc := Tab.put 0 x.jc n (BitVec.ofNat 32 v), jcStamp := Tab.put 0 x.jcStamp n (s.coreGen core) })
  rw [State.jc, hgen]
  show (if Tab.get 0 ((s.modCore core _).core c).jcStamp k = _ then _ else _) = _
  unfold State.setJc
  rw [hcore]
  by_cases hc : c = core
  · subst hc
    rw [if_pos rfl]
    dsimp only
    rw [Tab.get_put, Tab.get_put]
    by_cases hk : k = n
    · rw [if_pos hk, if_pos rfl, if_pos hk, if_pos ⟨rfl, hk⟩, BitVec.toNat_ofNat, Nat.mod_eq_of_lt hv]
    · have hne : ¬ (c = c ∧ k = n) := fun h => hk h.2
      rw [if_neg hk, if_neg hk, if_neg hne]
      rfl
  · have hne : ¬ (c = core ∧ k = n) := fun h => hc h.1
    rw [if_neg hc, if_neg hne]
    rfl

theorem taskCounter_eq (core : Nat) {w : Word} (h : w.getLsbD 31 = true) :
    taskCounter core w = some (core / 8 * 8 + w.toNat / 2 ^ 22 % 8, w.toNat / 2 ^ 16 % 64) := by
  rw [taskCounter, if_pos h, field_eq_div_mod, field_eq_div_mod]
  rfl

theorem State.staleItem_of_gen {s : State} {x : RelItem} (h : x.gen = s.gen x.slot) : s.staleItem x = false := by
  rw [State.staleItem, h, bne_self_eq_false]

/-- The counter of a forked task is counted before its push (R381). -/
def State.forkCounted (s : State) (core : Nat) (w : BitVec 256) : State :=
  match taskCounter core (w.setWidth 64) with
  | some (k, n) => s.setJc k n (min (s.jc k n + 1) (2 ^ 32 - 1))
  | none => s

theorem State.forkCounted_deque (s : State) (core : Nat) (w : BitVec 256) (c : Nat) :
    ((s.forkCounted core w).core c).deque = (s.core c).deque := by
  unfold State.forkCounted
  split
  · rw [State.setJc, modCore_core]
    split
    · rename_i hc
      rw [hc]
    · rfl
  · rfl

theorem State.forkCounted_jc (s : State) (core : Nat) {w : BitVec 256} (h : w.getLsbD 31 = true) :
    let k := core / 8 * 8 + w.toNat / 2 ^ 22 % 8
    let n := w.toNat / 2 ^ 16 % 64
    s.jc k n < 2 ^ 32 - 1 → (s.forkCounted core w).jc k n = s.jc k n + 1 := by
  intro k n hlt
  have hw : (w.setWidth 64).toNat = w.toNat % 2 ^ 64 := BitVec.toNat_setWidth ..
  have hk : core / 8 * 8 + (w.setWidth 64).toNat / 2 ^ 22 % 8 = k := by omega
  have hn : (w.setWidth 64).toNat / 2 ^ 16 % 64 = n := by omega
  have hb : (w.setWidth 64).getLsbD 31 = true := by simpa using h
  have hmin : min (s.jc k n + 1) (2 ^ 32 - 1) = s.jc k n + 1 := Nat.min_eq_left hlt
  rw [State.forkCounted, taskCounter_eq core hb, hk, hn]
  dsimp only
  rw [hmin]
  have hlt' : s.jc k n + 1 < 2 ^ 32 := (Nat.succ_le_of_lt hlt).trans_lt (by decide)
  exact (s.setJc_jc k n _ k n hlt').trans (if_pos ⟨rfl, rfl⟩)

/-- A sum clamped to 0 to 2^32 − 1 (R380). -/
theorem clamped_eq (z : Int) : min z.toNat (2 ^ 32 - 1) = (max 0 (min z (2 ^ 32 - 1))).toNat := by omega

theorem clamped_lt (z : Int) : min z.toNat (2 ^ 32 - 1) < 2 ^ 32 := by omega

theorem State.jaddRel_jc {s : State} {ci : Nat} {x : RelItem} (hlive : ¬ s.staleItem x = true) (j : BitVec 6) (n : Word) (c k : Nat) :
    (s.jaddRel ci x j n).jc c k = if c = ci / 4 ∧ k = j.toNat then
      (max 0 (min ((s.jc (ci / 4) j.toNat : Int) + n.toInt) (2 ^ 32 - 1))).toNat else s.jc c k := by
  rw [State.jaddRel, if_neg hlive, ← clamped_eq]
  exact s.setJc_jc _ _ _ _ _ (clamped_lt _)

theorem State.wdoneRel_jc {s : State} {ci : Nat} {x : RelItem} (hlive : ¬ s.staleItem x = true) {w : Word} (hw : w.getLsbD 31 = true) :
    let k := ci / 4 / 8 * 8 + w.toNat / 2 ^ 22 % 8
    let n := w.toNat / 2 ^ 16 % 64
    (s.wdoneRel ci x w).jc k n = s.jc k n - 1 := by
  intro k n
  rw [State.wdoneRel, if_neg hlive, taskCounter_eq _ hw]
  exact (s.setJc_jc k n _ k n ((Nat.sub_le _ _).trans_lt (s.jc_lt k n))).trans (if_pos ⟨rfl, rfl⟩)

/-- R380, R381, R384, R385: what a release does for the work unit. -/
theorem workReleaseEffects : Spec.WorkReleaseEffects := by
  intro s ci x hgen core
  have hlive : ¬ s.staleItem x = true := by rw [State.staleItem_of_gen hgen]; exact Bool.false_ne_true
  refine ⟨fun j n => ⟨?jadd, fun c k hck => ?other⟩, fun w hw => State.wdoneRel_jc hlive hw, fun w => ?fork, fun c key => ?join,
    fun t ht => ?head⟩
  case jadd => exact (State.jaddRel_jc hlive j n _ _).trans (if_pos ⟨rfl, rfl⟩)
  case other => exact (State.jaddRel_jc hlive j n c k).trans (if_neg fun h => hck (by rw [h.1, h.2]))
  case fork =>
    let t : Task := { key := (s.forkCounted core w).fresh + 1, word := w, lobj := (s.ctx ci).relHead.lobj, slot := x.slot, gen := x.gen, held := none }
    have hf : s.forkRel ci x w = ({ s.forkCounted core w with fresh := (s.forkCounted core w).fresh + 1 } : State).modCore core
        fun k => { k with deque := t :: k.deque } := if_neg hlive
    refine ⟨t, rfl, rfl, rfl, rfl, rfl, ?_, fun hw => ?_⟩
    · rw [hf, State.modCore_core, if_pos rfl]
      exact congrArg (t :: ·) (s.forkCounted_deque core w core)
    · intro k n hlt
      rw [hf, State.modCore_jc]
      · exact s.forkCounted_jc core hw hlt
      · exact fun _ => ⟨rfl, rfl, rfl⟩
  case join =>
    rw [State.joinRel, State.modCore_core, if_pos rfl]
    rfl
  case head =>
    rw [State.findTask, ht]

/-- Settles O29: each operation of wk, and what its release does. -/
theorem workOperationsAndReleases : Obligations.WorkOperationsAndReleases := ⟨workOperations, workReleaseEffects⟩

end Sys2Proof.Machine
end

section
/-! The stream table, the journal table and the messages of their engines. -/

namespace Sys2Proof.Machine

section
variable {s t z : State}

/-! One stream's entry. -/

theorem State.setStream_stream (s : State) (x : StreamId) (e : StreamEntry) : (s.setStream x e).stream x = e := by
  rw [State.stream, State.setStream]
  dsimp only
  rw [Tab.get_put, if_pos rfl]

theorem State.modStream_stream (s : State) (x : StreamId) (f : StreamEntry → StreamEntry) :
    (s.modStream x f).stream x = f (s.stream x) := s.setStream_stream x _

theorem State.stream_of_hub (h : t.hub = s.hub) (x : StreamId) : t.stream x = s.stream x := by
  rw [State.stream, h, State.stream]

theorem State.fabid_of_hub (h : t.hub.regs = s.hub.regs) : t.fabid = s.fabid := by
  unfold State.fabid State.hubReg
  rw [h]

theorem State.gen_of_hub (h : t.hub.slots = s.hub.slots) (k : BitVec 4) : t.gen k = s.gen k := by
  unfold State.gen State.tslot
  rw [h]

/-! Messages. -/

theorem State.post_hub (s : State) (d : BitVec 12) (m : Msg) : (s.post d m).hub = s.hub := by
  unfold State.post
  split <;> rfl

theorem State.post_stream (s : State) (d : BitVec 12) (m : Msg) (x : StreamId) : (s.post d m).stream x = s.stream x :=
  State.stream_of_hub (s.post_hub d m) x

/-- A message posted by a state that has sent nothing since z. -/
theorem State.posted_post {d : BitVec 12} {m : Msg} (hf : s.fabid = z.fabid) (hn : s.net = z.net) (ho : s.out = z.out) :
    Spec.posted z (s.post d m) d m := by
  unfold Spec.posted State.post
  rw [hf]
  by_cases h : d = z.fabid
  · rw [if_pos h, if_pos h]
    exact ⟨congrArg (· ++ [m]) hn, ho⟩
  · rw [if_neg h, if_neg h]
    exact ⟨congrArg (· ++ [m]) ho, hn⟩

theorem Spec.posted_congr {d : BitVec 12} {m : Msg} {u : State} (h : Spec.posted z t d m) (hn : u.net = t.net) (ho : u.out = t.out) :
    Spec.posted z u d m := by
  unfold Spec.posted at h ⊢
  rwa [hn, ho]

/-! Results of the stream unit. -/

theorem State.modCtx_foldl_hub (l : List Nat) (i : Nat → Nat) (f : Ctx → Ctx) (s : State) :
    (l.foldl (fun x k => x.modCtx (i k) f) s).hub = s.hub :=
  foldl_keeps (v := State.hub) (f := fun x k => State.modCtx x (i k) f) (fun _ _ => rfl) l s

theorem State.sxDone_hub (s : State) (ci tok kind : Nat) (seq : BitVec 32) : (s.sxDone ci tok kind seq).hub = s.hub := by
  unfold State.sxDone
  split
  · rfl
  · exact (State.answer_hub _ _ _ _ _).trans (State.modCtx_foldl_hub _ _ _ _)

theorem State.answer_sx (s : State) (ci tok : Nat) (v : Wide) (m : Mark) (k : Nat) :
    ((s.answer ci tok v m).ctx k).sx = (s.ctx k).sx := by
  unfold State.answer
  dsimp only
  split
  · rw [modCtx_ctx]
    split
    · rename_i h
      rw [h]
      rfl
    · rfl
  · split <;> rfl

/-- A change of the four contexts of a core. -/
theorem State.modCtx_four (s : State) (core : Nat) (f : Ctx → Ctx) {i : Nat} (hi : i < 4) :
    ((List.range 4).foldl (fun x k => x.modCtx (4 * core + k) f) s).ctx (4 * core + i) = f (s.ctx (4 * core + i)) := by
  have h4 : List.range 4 = [0, 1, 2, 3] := rfl
  rw [h4]
  simp only [List.foldl_cons, List.foldl_nil, State.modCtx_ctx]
  obtain rfl | rfl | rfl | rfl : i = 0 ∨ i = 1 ∨ i = 2 ∨ i = 3 := by omega
  all_goals simp

/-- A result that has landed is no longer among those of its context (R334). -/
theorem State.sxDone_sx (s : State) {ci tok : Nat} (kind : Nat) (seq : BitVec 32) (ht : tok ≠ 0) :
    tok ∉ ((s.sxDone ci tok kind seq).ctx ci).sx := by
  have hci : ci = 4 * (ci / 4) + ci % 4 := by omega
  rw [State.sxDone, if_neg ht]
  dsimp only
  rw [State.answer_sx]
  show tok ∉ (((List.range 4).foldl (fun x i => State.modCtx x (4 * (ci / 4) + i) fun c => { c with sx := c.sx.filter (· != tok) }) s).ctx ci).sx
  rw [hci, Nat.mul_add_div (by decide), Nat.div_eq_of_lt (Nat.mod_lt _ (by decide)), Nat.add_zero,
    State.modCtx_four _ _ _ (Nat.mod_lt _ (by decide))]
  simp

/-! The belay engine at rest, and the journal table. -/

theorem State.belayPump_of_quiet (h : s.hub.jops = []) : s.belayPump = s := by
  unfold State.belayPump
  rw [h]
  dsimp only [List.foldl_nil]
  rw [← h]

theorem Tab.find?_erase {α : Type} (t : Tab α) (k : Nat) : (Tab.erase t k).find? (fun e => e.1 == k) = none := by
  induction t with
  | nil => rfl
  | cons e r ih =>
    obtain ⟨j, w⟩ := e
    rw [Tab.erase]
    split
    · exact ih
    · rename_i h
      rw [List.find?_cons_of_neg (by simpa using h), ih]

theorem Tab.mem_set {α : Type} (t : Tab α) (k : Nat) (v : α) : (k, v) ∈ Tab.set t k v :=
  List.mem_of_find?_eq_some ((Tab.find?_set t k k v).trans (if_pos rfl))

theorem State.setJournal_journal (s : State) (j : Nat) (x : Journal) : (s.setJournal j x).journal j = some x := by
  rw [State.journal, State.setJournal]
  dsimp only
  rw [Tab.find?_set, if_pos rfl]
  rfl

theorem State.freeJournal_journal (s : State) (j : Nat) : (s.freeJournal j).journal j = none := by
  rw [State.journal, State.freeJournal]
  dsimp only
  rw [Tab.find?_erase]
  rfl

theorem State.journal_of_hub (h : t.hub = s.hub) (j : Nat) : t.journal j = s.journal j := by
  rw [State.journal, h, State.journal]

end

end Sys2Proof.Machine
end

section
/-! The items of a stream: sent, stored, accepted; space and closing (R328, R331, R334, R336, R338). -/

namespace Sys2Proof.Machine

section
variable {s : State}

/-! An item goes out (R334). -/

/-- An end that is neither closed nor orphaned, nor moving. -/
theorem EndRec.ended_of_open {e : EndRec} (h : e.state = 0) : e.ended = false := by
  unfold EndRec.ended EndRec.real
  rw [h]
  rfl

theorem State.nextItem_head {sid : StreamId} {e : EndRec} {h : SendItem} {rest : List SendItem} (hq : Spec.quiet s)
    (hqueue : e.queue = h :: rest) (hj : e.journal = none) : s.nextItem sid e = some h := by
  have hemit : s.emitted e = none := by
    unfold State.emitted
    rw [hj]
    rfl
  have hbind : s.binding sid e = false := by
    unfold State.binding
    rw [hq]
    rfl
  unfold State.nextItem
  rw [hemit]
  dsimp only
  rw [hbind, hqueue]
  rfl

theorem State.sendReady_data {e : EndRec} {h : SendItem} {x : Packet64} (hbody : h.body = .data x) (hgen : h.gen = s.gen h.slot)
    (hopen : e.state = 0) (hspace : 0 < e.space) : s.sendReady e h = true := by
  have hlive : ¬ (h.gen ≠ s.gen h.slot ∨ e.ended = true) := by
    rw [EndRec.ended_of_open hopen]
    simp [hgen]
  unfold State.sendReady
  rw [if_neg hlive, hbody]
  simpa using hspace

/-- The head of an open end's queue is handed out (R334). -/
theorem State.sendHead_data {sid : StreamId} {e : EndRec} {h : SendItem} {rest : List SendItem} {x : Packet64} (hq : Spec.quiet s)
    (hprod : (s.stream sid).prod = some e) (hqueue : e.queue = h :: rest) (hbody : h.body = .data x) (hgen : h.gen = s.gen h.slot)
    (hj : e.journal = none) (hopen : e.state = 0) (hspace : 0 < e.space) :
    s.sendHead sid = (s.modStream sid fun t => { t with prod := t.prod.map fun r => { r with queue := r.queue.erase h } }).sendItem
      sid e h (.data x) := by
  have hready : ¬ (!s.sendReady e h) = true := by simp [State.sendReady_data hbody hgen hopen hspace]
  have hstale : ¬ h.gen ≠ s.gen h.slot := not_not.2 hgen
  have hended : ¬ e.ended = true := by
    rw [EndRec.ended_of_open hopen]
    exact Bool.false_ne_true
  have hnote : ∀ y : State, y.noteEmitted e h = y := fun y => by
    unfold State.noteEmitted
    rw [hj]
  unfold State.sendHead
  rw [hprod]
  dsimp only
  rw [State.nextItem_head hq hqueue hj]
  dsimp only
  rw [if_neg hready, if_neg hstale, if_neg hstale, if_neg hended, hnote, hbody]

/-- A sent item takes the next number and is remembered until it is accepted (R329, R334). -/
theorem State.sendItem_stream (s : State) (sid : StreamId) (e : EndRec) {h : SendItem} (body : ItemBody) (hf : h.forced = none) :
    ((s.sendItem sid e h body).stream sid).prod = (s.stream sid).prod.map (fun r => { r with nseq := e.nseq + 1 }) ∧
    ((s.sendItem sid e h body).stream sid).sent = (s.stream sid).sent ++ [(e.nseq, h)] ∧
    (s.sendItem sid e h body).hub.jops = s.hub.jops ∧
    Spec.posted s (s.sendItem sid e h body) e.peer (.item ⟨e.peer, sid, s.fabid, e.nseq, body⟩) := by
  unfold State.sendItem
  rw [hf]
  dsimp only [Option.isSome_none]
  rw [State.post_hub, State.post_stream, State.modStream_stream]
  exact ⟨rfl, rfl, rfl, State.posted_post rfl rfl rfl⟩

/-- R334: the head of an open producer end's queue goes to the consumer's holder. -/
theorem itemSend_data {sid : StreamId} {e : EndRec} {h : SendItem} {rest : List SendItem} {x : Packet64} (hq : Spec.quiet s)
    (hprod : (s.stream sid).prod = some e) (hqueue : e.queue = h :: rest) (hbody : h.body = .data x) (hforced : h.forced = none)
    (hgen : h.gen = s.gen h.slot) (hj : e.journal = none) (hopen : e.state = 0) (hspace : 0 < e.space) : ∃ t : State,
      exec (.itemSend sid) s = .next t ∧ (t.stream sid).prod = some { e with queue := rest, nseq := e.nseq + 1 } ∧
      (t.stream sid).sent = (s.stream sid).sent ++ [(e.nseq, h)] ∧
      Spec.posted s t e.peer (.item ⟨e.peer, sid, s.fabid, e.nseq, .data x⟩) := by
  let s0 := s.modStream sid fun t => { t with prod := t.prod.map fun r => { r with queue := r.queue.erase h } }
  obtain ⟨hp, hsent, hjops, hposted⟩ := s0.sendItem_stream sid e (.data x) hforced
  have hs0 : s0.stream sid = { s.stream sid with prod := (s.stream sid).prod.map fun r => { r with queue := r.queue.erase h } } :=
    s.modStream_stream sid _
  have hrun : exec (.itemSend sid) s = .next (s0.sendItem sid e h (.data x)) := by
    show Host.Outcome.next (s.sendHead sid).belayPump = _
    rw [State.sendHead_data hq hprod hqueue hbody hgen hj hopen hspace]
    exact congrArg _ (State.belayPump_of_quiet (hjops.trans hq))
  refine ⟨_, hrun, ?_, ?_, hposted⟩
  · rw [hp, hs0, hprod, Option.map_some, Option.map_some, hqueue, List.erase_cons_head]
  · rw [hsent, hs0]

/-! An item arrives (R329, R331). -/

theorem EndRec.bump_store (e : EndRec) : e.bump.store = e.store ∧ e.bump.nseq = e.nseq := ⟨rfl, rfl⟩

theorem State.accept_hub (s : State) (e : EndRec) (m : ItemMsg) : (s.accept e m).hub = s.hub := by
  unfold State.accept
  dsimp only
  split
  · exact s.post_hub _ _
  · exact (State.post_hub _ _ _).trans (s.post_hub _ _)

theorem State.post_mem (s : State) (d : BitVec 12) (m : Msg) : (s.post d m).mem = s.mem := by
  unfold State.post
  split <;> rfl

/-- R329, R331: an arriving item is stored at its place and accepted. -/
theorem itemArrival_data {m : ItemMsg} {r : EndRec} {x : Packet64} (hdst : m.dst = s.fabid) (hcons : (s.stream m.sid).cons = some r)
    (hbody : m.body = .data x) (hgen : r.gen = s.gen r.slot) (hnew : later r.nseq m.seq = false)
    (hfree : ∀ i ∈ r.store, i.1 ≠ m.seq.toNat) (hend : r.endSeq = none) (hpeer : r.peer = m.prod) :
    let z := Spec.taken s (.item m)
    ∃ t : State, exec (.itemArrival m) s = .next t ∧
      t.mem = (z.homeWrites r.acc (r.place m.seq) (bytesOf x 64)).mem ∧
      (∃ r', (t.stream m.sid).cons = some r' ∧ (m.seq.toNat, .data m.prod) ∈ r'.store ∧ r'.nseq = r.nseq) ∧
      Spec.posted z t m.prod (.ack ⟨m.prod, m.sid, m.seq⟩) := by
  intro z
  have hstale : ¬ r.gen ≠ s.gen r.slot := not_not.2 hgen
  have hknown : ¬ (later r.nseq m.seq || r.store.any fun i => i.1 == m.seq.toNat) = true := by
    rw [hnew, Bool.false_or, List.any_eq_true]
    rintro ⟨i, hi, hb⟩
    exact hfree i hi (beq_iff_eq.1 hb)
  let w := z.homeWrites r.acc (r.place m.seq) (bytesOf x 64)
  have hrun : exec (.itemArrival m) s = .next (z.storeItem r m) := by
    show execItemArrival m s = _
    rw [execItemArrival, if_neg (not_not.2 hdst)]
    dsimp only
    rw [show (s.receive (.item m)).stream m.sid = s.stream m.sid from rfl, hcons]
    dsimp only
    rw [show (s.receive (.item m)).gen r.slot = s.gen r.slot from rfl, if_neg hstale, if_neg hknown, hend]
    rfl
  have hstore : z.storeItem r m = (w.modStream m.sid fun t =>
      { t with cons := t.cons.map fun r => ({ r with store := Tab.set r.store m.seq.toNat (.data m.prod) }).bump }).post m.prod
        (.ack ⟨m.prod, m.sid, m.seq⟩) := by
    unfold State.storeItem State.accept
    rw [hbody]
    exact if_pos hpeer
  have hoff : w.offMemory = z.offMemory := z.homeWrites_offMemory _ _ _
  have hhub : w.hub = s.hub := by
    have h := congrArg State.hub hoff
    exact h
  have hnet : w.net = z.net := by
    have h := congrArg State.net hoff
    exact h
  have hout : w.out = z.out := by
    have h := congrArg State.out hoff
    exact h
  refine ⟨_, hrun, ?_, ⟨({ r with store := Tab.set r.store m.seq.toNat (.data m.prod) } : EndRec).bump, ?_,
    Tab.mem_set r.store m.seq.toNat (.data m.prod), rfl⟩, ?_⟩
  · rw [hstore, State.post_mem]
    rfl
  · rw [hstore, State.post_stream, State.modStream_stream, State.stream_of_hub hhub, hcons]
    rfl
  · rw [hstore]
    have hregs : w.hub.regs = z.hub.regs := congrArg Hub.regs hhub
    exact State.posted_post (State.fabid_of_hub hregs) hnet hout

/-! An acceptance (R331, R334). -/

/-- ASEQ advances over the one item that has been accepted. -/
theorem EndRec.ackGo_one {r : EndRec} (n : Nat) (h : r.acked = []) :
    ({ r with acked := [r.aseq] } : EndRec).ackGo (n + 2) = { r with aseq := r.aseq + 1 } := by
  have hfirst : ({ r with acked := [r.aseq] } : EndRec).ackGo (n + 2) = ({ r with aseq := r.aseq + 1 } : EndRec).ackGo (n + 1) := by
    have hhit : [r.aseq].contains r.aseq = true := by simp
    have hrest : [r.aseq].filter (· != r.aseq) = r.acked := by simp [h]
    rw [EndRec.ackGo]
    dsimp only
    rw [if_pos hhit, hrest]
  rw [hfirst, EndRec.ackGo, h]
  exact if_neg Bool.false_ne_true

/-- R331, R334: an acceptance lands its result and advances ASEQ. -/
theorem itemAcceptance_lands {m : AckMsg} {r : EndRec} {h : SendItem} (hq : Spec.quiet s) (hdst : m.dst = s.fabid)
    (hprod : (s.stream m.sid).prod = some r) (hsent : (s.stream m.sid).sent = [(m.seq, h)]) (haseq : r.aseq = m.seq)
    (hacked : r.acked = []) (htok : h.tok ≠ 0) : ∃ t : State,
      exec (.itemAcceptance m) s = .next t ∧ (t.stream m.sid).prod = some { r with aseq := r.aseq + 1 } ∧
      (t.stream m.sid).sent = [] ∧ h.tok ∉ (t.ctx h.ctx).sx := by
  let s1 := s.receive (.ack m)
  let s2 := (s1.modStream m.sid fun e => { e with sent := e.sent.eraseP fun x => x.1 == m.seq }).sxDone h.ctx h.tok 0 m.seq
  have hstream : s2.stream m.sid = { s.stream m.sid with sent := (s.stream m.sid).sent.eraseP fun x => x.1 == m.seq } :=
    (State.stream_of_hub (State.sxDone_hub _ _ _ _ _) m.sid).trans (s1.modStream_stream m.sid _)
  have hp2 : (s2.stream m.sid).prod = some r := by rw [hstream]; exact hprod
  have hlate : ¬ later r.aseq m.seq = true := by
    rw [haseq, later_self]
    exact Bool.false_ne_true
  let t := s2.modStream m.sid fun e => { e with prod := some (({ r with acked := [r.aseq] } : EndRec).ackGo 2049) }
  have hgo : s.itemAccepted m = t := by
    have hhit : ((s1.stream m.sid).sent.find? fun x => x.1 == m.seq) = some (m.seq, h) := by
      rw [show s1.stream m.sid = s.stream m.sid from rfl, hsent]
      simp
    rw [State.itemAccepted, if_neg (not_not.2 hdst)]
    dsimp only
    rw [hhit]
    dsimp only
    rw [hp2]
    dsimp only
    rw [if_neg hlate, hacked]
    show (s2.modStream m.sid fun e => { e with prod := some (({ r with acked := [m.seq] } : EndRec).ackGo 2049) }) = t
    rw [← haseq]
  have htq : t.hub.jops = [] := (congrArg Hub.jops (State.sxDone_hub _ _ _ _ _)).trans hq
  refine ⟨t, ?_, ?_, ?_, ?_⟩
  · show Host.Outcome.next (s.itemAccepted m).belayPump = _
    rw [hgo, State.belayPump_of_quiet htq]
  · rw [s2.modStream_stream, r.ackGo_one 2047 hacked]
  · rw [s2.modStream_stream, hstream, hsent]
    simp
  · exact State.sxDone_sx _ 0 m.seq htok

/-! Space and closing (R331, R336, R338). -/

/-- R331: a space report is noted. -/
theorem spaceReport_noted {m : SpaceMsg} {r : EndRec} (hdst : m.dst = s.fabid) (hprod : (s.stream m.sid).prod = some r) : ∃ t : State,
    exec (.spaceReport m) s = .next t ∧ (t.stream m.sid).prod = some { r with consumed := latest m.consumed r.consumed } := by
  refine ⟨(s.receive (.space m)).modStream m.sid fun e => { e with prod := some { r with consumed := latest m.consumed r.consumed } }, ?_, ?_⟩
  · show execSpaceReport m s = _
    rw [execSpaceReport, if_neg (not_not.2 hdst)]
    dsimp only
    rw [show (s.receive (.space m)).stream m.sid = s.stream m.sid from rfl, hprod]
  · rw [State.modStream_stream]

/-- R331: the report that is due goes to the peer. -/
theorem spaceReportSend_due {sid : StreamId} {r : EndRec} {n : Nat} (hcons : (s.stream sid).cons = some r) (hdue : r.report = some n) :
    ∃ t : State, exec (.spaceReportSend sid) s = .next t ∧ (t.stream sid).cons = some { r with report := none } ∧
    Spec.posted s t r.peer (.space ⟨r.peer, sid, r.nseq⟩) := by
  refine ⟨(s.modStream sid fun e => { e with cons := some { r with report := none } }).post r.peer (.space ⟨r.peer, sid, r.nseq⟩), ?_, ?_,
    State.posted_post rfl rfl rfl⟩
  · show execSpaceReportSend sid s = _
    rw [execSpaceReportSend, hcons]
    dsimp only
    rw [hdue]
    rfl
  · rw [State.post_stream, State.modStream_stream]

/-- With nothing sent that awaits acceptance, nothing fails. -/
theorem State.failSent_none {sid : StreamId} (h : (s.stream sid).sent = []) (a b : BitVec 32) :
    ((s.failSent sid a b).stream sid) = s.stream sid ∧ (s.failSent sid a b).hub.jops = s.hub.jops := by
  have hgo : s.failSent sid a b = s.setStream sid { s.stream sid with sent := [] } := by
    unfold State.failSent
    dsimp only
    rw [h]
    rfl
  rw [hgo, State.setStream_stream, ← h]
  exact ⟨rfl, rfl⟩

/-- R338: a close notice of the consumer end closes or orphans the producer end. -/
theorem closeNotice_closes {m : CloseMsg} {r : EndRec} (hq : Spec.quiet s) (hdst : m.dst = s.fabid) (hmod : m.sid.hmod ≠ s.fabid)
    (hcons : m.cons = true) (hlost : m.lost = false) (hprod : (s.stream m.sid).prod = some r) (hsent : (s.stream m.sid).sent = [])
    (hopen : r.state = 0) : ∃ t : State, exec (.closeNotice m) s = .next t ∧
      (t.stream m.sid).prod = some { r with state := if m.orphan then 2 else 3, hold := none } := by
  let s0 := (s.receive (.close m)).modStream m.sid fun e => e.setEnded (!m.cons) none
  let u := s0.modStream m.sid fun e => { e with prod := some (r.lose (if m.orphan then 2 else 3)) }
  have hs0 : s0.stream m.sid = (s.stream m.sid).setEnded false none := by
    rw [State.modStream_stream, hcons]
    rfl
  have hend : (s0.stream m.sid).endOf false = some r := by
    rw [hs0]
    exact hprod
  have husent : (u.stream m.sid).sent = [] := by
    rw [State.modStream_stream, hs0]
    exact hsent
  obtain ⟨hkeep, hjops⟩ := State.failSent_none husent m.aseq r.nseq
  have hlose : r.lose (if m.orphan then 2 else 3) = { r with state := if m.orphan then 2 else 3, hold := none } := by
    unfold EndRec.lose
    rw [if_neg (by rw [hopen]; decide)]
  have hreal : ¬ r.real = 3 := by
    unfold EndRec.real
    rw [hopen, if_neg (by decide)]
    decide
  have hgo : s.closeNoted m = u.failSent m.sid m.aseq r.nseq := by
    unfold State.closeNoted
    rw [if_neg (not_not.2 hdst), hlost, if_neg Bool.false_ne_true]
    dsimp only
    rw [show (if m.sid.hmod = s.fabid then s0.modStream m.sid fun e => e.noteClosed m.cons else s0) = s0 from if_neg hmod]
    rw [hcons]
    rw [show (!true) = false from rfl]
    rw [hend]
    dsimp only
    rw [if_pos rfl, if_neg hreal]
  refine ⟨u.failSent m.sid m.aseq r.nseq, ?_, ?_⟩
  · show Host.Outcome.next (s.closeNoted m).belayPump = _
    rw [hgo, State.belayPump_of_quiet (hjops.trans hq)]
  · rw [hkeep, State.modStream_stream, hlose]

end

/-- Settles O43: an item is sent, stored and accepted, an acceptance lands, space is told and noted, and a close notice closes. -/
theorem streamItemEvents : Obligations.StreamItemEvents :=
  ⟨fun _ _ _ _ _ _ hq hp hqueue hb hf hg hj ho hs => itemSend_data hq hp hqueue hb hf hg hj ho hs,
    fun _ _ _ _ hd hc hb hg hn hf he hp => itemArrival_data hd hc hb hg hn hf he hp,
    fun _ _ _ _ hq hd hp hs ha hk ht => itemAcceptance_lands hq hd hp hs ha hk ht,
    fun _ _ _ hd hp => spaceReport_noted hd hp, fun _ _ _ _ hc hr => spaceReportSend_due hc hr,
    fun _ _ _ hq hd hm hc hl hp hs ho => closeNotice_closes hq hd hm hc hl hp hs ho⟩

end Sys2Proof.Machine
end

section
/-! The messages of an end that moves, and a module that is down (R337, R339, R340, R349, R355, R357). -/

namespace Sys2Proof.Machine

section
variable {s : State}

/-! The end that moved away: its forwarding record (R339). -/

theorem StreamEntry.fwd_setFwd (e : StreamEntry) (cons : Bool) (f : Option FwdRec) : (e.setFwd cons f).fwd cons = f := by
  cases cons <;> rfl

theorem State.checkDrained_unbounded {sid : StreamId} {f : FwdRec} (hf : (s.stream sid).fcons = some f)
    (h : f.dest = none ∨ f.bnd = none) : s.checkDrained sid = s := by
  unfold State.checkDrained
  rw [hf]
  dsimp only
  rcases h with h | h
  · rw [h]
  · rw [h]
    cases f.dest <;> rfl

/-- An old consumer holder that owes nothing below the bound is done (R339). -/
theorem State.checkDrained_done {sid : StreamId} {f : FwdRec} {d : BitVec 12} {b : BitVec 32} (hf : (s.stream sid).fcons = some f)
    (hd : f.dest = some d) (hb : f.bnd = some b) (hl : later b f.base = false) :
    s.checkDrained sid =
      (s.modStream sid fun e => { e with fcons := none }).post d (.drained ⟨d, sid, true, f.mc, d, s.fabid⟩) := by
  unfold State.checkDrained
  rw [hf]
  dsimp only
  rw [hd, hb]
  dsimp only
  rw [hl]
  rfl

theorem State.freeProd_unbounded {sid : StreamId} {f : FwdRec} (hf : (s.stream sid).fprod = some f) (hb : f.bnd = none) :
    s.freeProd sid = s := by
  unfold State.freeProd
  rw [hf]
  dsimp only
  rw [hb]
  exact if_neg (by simp)

/-- R339: the old holder learns the new one. -/
theorem arrived_learns {m : MoveMsg} {f : FwdRec} (hdst : m.dst = s.fabid) (hf : (s.stream m.sid).fwd m.cons = some f)
    (hmc : f.mc = m.mc) (hitems : f.items = []) (hheld : f.held = []) (hbnd : f.bnd = none) : ∃ t : State,
      exec (.arrived m) s = .next t ∧ (t.stream m.sid).fwd m.cons = some { f with dest := some m.loc } := by
  let g : FwdRec := { f with dest := some m.loc, held := [], items := [] }
  let u := (s.receive (.arrived m)).modStream m.sid fun e => e.setFwd m.cons (some g)
  have hg : g = { f with dest := some m.loc } := by
    show ({ f with dest := some m.loc, held := [], items := [] } : FwdRec) = _
    rw [← hitems, ← hheld]
  have hu : (u.stream m.sid).fwd m.cons = some g := by
    rw [State.modStream_stream, StreamEntry.fwd_setFwd]
  have hlast : (if m.cons then u.checkDrained m.sid else u.freeProd m.sid) = u := by
    cases hc : m.cons with
    | true =>
      rw [hc] at hu
      exact State.checkDrained_unbounded (f := g) hu (.inr hbnd)
    | false =>
      rw [hc] at hu
      exact State.freeProd_unbounded (f := g) hu hbnd
  have hrun : exec (.arrived m) s = .next u := by
    show execArrived m s = _
    rw [execArrived, if_neg (not_not.2 hdst)]
    dsimp only
    rw [show (s.receive (.arrived m)).stream m.sid = s.stream m.sid from rfl, hf]
    dsimp only
    rw [if_neg (not_not.2 hmc), hitems, hheld]
    exact congrArg Host.Outcome.next hlast
  exact ⟨u, hrun, hu.trans (congrArg some hg)⟩

/-- R339: the acknowledgement of a producer end's move ends its record. -/
theorem movedAcknowledgement_ends {m : MoveMsg} {f : FwdRec} {d : BitVec 12} (hdst : m.dst = s.fabid)
    (hf : (s.stream m.sid).fprod = some f) (hmc : f.mc = m.mc) (hd : f.dest = some d) : ∃ t : State,
      exec (.movedAcknowledgement m) s = .next t ∧ (t.stream m.sid).fprod = none ∧ (t.stream m.sid).went = some d := by
  let u := (s.receive (.movedAck m)).modStream m.sid fun e =>
    { e with fprod := e.fprod.map fun f => if f.mc = m.mc then { f with bnd := some 0 } else f }
  have hu : (u.stream m.sid).fprod = some { f with bnd := some 0 } := by
    rw [State.modStream_stream]
    show ((s.stream m.sid).fprod.map _) = _
    rw [hf, Option.map_some, if_pos hmc]
  have hfree : u.freeProd m.sid = u.modStream m.sid fun e => { e with fprod := none, went := some d } := by
    unfold State.freeProd
    rw [hu]
    dsimp only
    rw [hd]
    rfl
  refine ⟨u.modStream m.sid fun e => { e with fprod := none, went := some d }, ?_, ?_, ?_⟩
  · show execMovedAcknowledgement m s = _
    rw [execMovedAcknowledgement, if_neg (not_not.2 hdst)]
    exact congrArg Host.Outcome.next hfree
  all_goals rw [State.modStream_stream]

/-- The old consumer holder learns the bound, of the move it belongs to (R339). -/
theorem redirected_bound {m : RedirMsg} {f : FwdRec} (hdst : m.dst = s.fabid) (hf : (s.stream m.sid).fcons = some f)
    (hbnd : f.bnd = none) : ∃ u : State, u.fabid = s.fabid ∧ u.net = s.net.erase (.redirected m) ∧ u.out = s.out ∧
      exec (.redirected m) s = .next (u.checkDrained m.sid) ∧
      (u.stream m.sid).fcons = some (if f.mc = m.mc then { f with bnd := some m.bnd } else f) := by
  refine ⟨(s.receive (.redirected m)).modStream m.sid fun e =>
    { e with fcons := e.fcons.map fun f => if f.mc = m.mc then { f with bnd := some (f.bnd.getD m.bnd) } else f }, rfl, rfl, rfl, ?_, ?_⟩
  · show execRedirected m s = _
    rw [execRedirected, if_neg (not_not.2 hdst)]
  · rw [State.modStream_stream]
    show ((s.stream m.sid).fcons.map _) = _
    rw [hf, Option.map_some, hbnd]
    rfl

/-- R339: while its new holder is not known the record keeps the bound. -/
theorem redirected_keeps {m : RedirMsg} {f : FwdRec} (hdst : m.dst = s.fabid) (hf : (s.stream m.sid).fcons = some f)
    (hbnd : f.bnd = none) (hd : f.dest = none) : ∃ t : State, exec (.redirected m) s = .next t ∧
      (t.stream m.sid).fcons = some (if f.mc = m.mc then { f with bnd := some m.bnd } else f) := by
  obtain ⟨u, -, -, -, hrun, hu⟩ := redirected_bound hdst hf hbnd
  have hnone : (if f.mc = m.mc then { f with bnd := some m.bnd } else f : FwdRec).dest = none := by
    split <;> exact hd
  rw [State.checkDrained_unbounded hu (.inl hnone)] at hrun
  exact ⟨u, hrun, hu⟩

/-- R339: with everything below the bound passed on, the record ends and the new holder is told. -/
theorem redirected_drains {m : RedirMsg} {f : FwdRec} {d : BitVec 12} (hdst : m.dst = s.fabid) (hf : (s.stream m.sid).fcons = some f)
    (hbnd : f.bnd = none) (hmc : f.mc = m.mc) (hd : f.dest = some d) (hl : later m.bnd f.base = false) : ∃ t : State,
      exec (.redirected m) s = .next t ∧ (t.stream m.sid).fcons = none ∧
      Spec.posted (Spec.taken s (.redirected m)) t d (.drained ⟨d, m.sid, true, f.mc, d, s.fabid⟩) := by
  obtain ⟨u, hfab, hnet, hout, hrun, hu⟩ := redirected_bound hdst hf hbnd
  rw [if_pos hmc] at hu
  have hdone := State.checkDrained_done (f := { f with bnd := some m.bnd }) hu hd rfl hl
  rw [hdone, hfab] at hrun
  refine ⟨_, hrun, ?_, State.posted_post hfab hnet hout⟩
  rw [State.post_stream, State.modStream_stream]

/-! The peer of an end that moves (R339). -/

/-- R339: the peer records the new place and answers the old holder. -/
theorem moved_recorded {m : MoveMsg} {r : EndRec} (hdst : m.dst = s.fabid) (hcons : m.cons = true)
    (hprod : (s.stream m.sid).prod = some r) (hnew : newer m.mc r.pmc = true) (hpeer : r.peer = m.old) : ∃ t : State,
      exec (.moved m) s = .next t ∧ (t.stream m.sid).prod = some { r with peer := m.loc, pmc := m.mc, hold := none } ∧
      Spec.posted (Spec.taken s (.moved m)) t m.old (.redirected ⟨m.old, m.sid, m.mc, r.nseq⟩) := by
  have hend : ((s.receive (.moved m)).stream m.sid).endOf false = some r := hprod
  have hknown : ¬ (!newer m.mc r.pmc) = true := by simp [hnew]
  refine ⟨((s.receive (.moved m)).modStream m.sid fun e =>
      e.setEnd false (some { r with peer := m.loc, pmc := m.mc, hold := none })).post m.old (.redirected ⟨m.old, m.sid, m.mc, r.nseq⟩),
    ?_, ?_, State.posted_post rfl rfl rfl⟩
  · show execMoved m s = _
    rw [execMoved, if_neg (not_not.2 hdst)]
    dsimp only
    rw [hcons, show (!true) = false from rfl, hend]
    dsimp only
    rw [if_neg hknown, if_pos rfl, State.answerMove, hpeer, if_pos rfl, if_pos hcons]
    rfl
  · rw [State.post_stream, State.modStream_stream]
    rfl

/-- R339: the new holder learns that the old one has passed everything on. -/
theorem drained_noted {m : MoveMsg} {r : EndRec} (hdst : m.dst = s.fabid) (hcons : (s.stream m.sid).cons = some r) : ∃ t : State,
    exec (.drained m) s = .next t ∧
    (t.stream m.sid).cons = some (if r.old.map Prod.fst = some m.mc then { r with old := none } else r) := by
  refine ⟨(s.receive (.drained m)).modStream m.sid fun e =>
    { e with cons := e.cons.map (EndRec.drainedBy · m.mc), fcons := e.fcons.map fun f => { f with last := f.last.drainedBy m.mc } }, ?_, ?_⟩
  · show execDrained m s = _
    rw [execDrained, if_neg (not_not.2 hdst)]
  · have hany : (r.old.any (·.1 == m.mc)) = true ↔ r.old.map Prod.fst = some m.mc := by
      cases r.old <;> simp
    rw [State.modStream_stream]
    show ((s.stream m.sid).cons.map _) = _
    rw [hcons, Option.map_some]
    exact congrArg some (if_congr hany rfl rfl)

/-- R349, R355: the consumer's holder learns the partner. -/
theorem belayNote_noted {m : NoteMsg} {r : EndRec} (hdst : m.dst = s.fabid) (hcons : (s.stream m.sid).cons = some r) : ∃ t : State,
    exec (.belayNote m) s = .next t ∧ (t.stream m.sid).cons = some { r with note := some m.part } := by
  refine ⟨(s.receive (.note m)).modStream m.sid fun e => { e with cons := some { r with note := some m.part } }, ?_, ?_⟩
  · show execBelayNote m s = _
    rw [execBelayNote, if_neg (not_not.2 hdst)]
    dsimp only
    rw [show (s.receive (.note m)).stream m.sid = s.stream m.sid from rfl, hcons]
  · rw [State.modStream_stream]

/-! Orphans and modules that are down (R340, R357). -/

theorem StreamEntry.noteClosed_ends (e : StreamEntry) (cons : Bool) :
    (e.noteClosed cons).prod = e.prod ∧ (e.noteClosed cons).cons = e.cons := by
  have hfree (x : StreamEntry) :
      let y := if x.live && x.prodClosed && x.consClosed then { x with live := false, prodClosed := false, consClosed := false } else x
      y.prod = x.prod ∧ y.cons = x.cons := by
    split <;> exact ⟨rfl, rfl⟩
  cases cons
  · exact hfree { e with prodClosed := true }
  · exact hfree { e with consClosed := true }

/-- R340: a consumer end whose hold has run out is orphaned. -/
theorem orphanHoldoff_orphans {sid : StreamId} {r : EndRec} {n : Nat} {f : BitVec 12} (hcons : (s.stream sid).cons = some r)
    (hhold : r.hold = some (n, f)) (hover : n ≤ s.dtime) (hopen : r.state = 0) (hmod : sid.hmod = s.fabid)
    (hstored : s.endStored sid false = false) (hprod : ∀ p, (s.stream sid).prod = some p → p.hold = none) : ∃ t : State,
      exec (.orphanHoldoffExpiry sid) s = .next t ∧ ∃ r', (t.stream sid).cons = some r' ∧ r'.state = 2 ∧ r'.hold = none := by
  have hend : (s.stream sid).endOf true = some r := hcons
  let s1 := s.modStream sid fun e => e.noteClosed false
  let t := s1.modStream sid fun e => { e with cons := e.cons.map fun r => r.finish 2 r.gap }
  have ht : t.stream sid = { (s.stream sid).noteClosed false with cons := some (r.finish 2 r.gap) } := by
    rw [State.modStream_stream, State.modStream_stream, ((s.stream sid).noteClosed_ends false).2, hcons]
    rfl
  have hfirst : s.holdOver sid true = true := by
    unfold State.holdOver
    rw [hend, Option.bind_some, hhold]
    simp [hover, hstored]
  have horphan : s.orphanEnd sid true = t := by
    unfold State.orphanEnd
    rw [hend]
    dsimp only
    rw [if_pos hmod]
    rfl
  have hsecond : t.holdOver sid false = false := by
    have hp : (t.stream sid).endOf false = (s.stream sid).prod := by
      rw [ht]
      exact ((s.stream sid).noteClosed_ends false).1
    unfold State.holdOver
    rw [hp]
    cases hpr : (s.stream sid).prod with
    | none => rfl
    | some p => rw [Option.bind_some, hprod p hpr]
  refine ⟨t, ?_, r.finish 2 r.gap, ?_, ?_, rfl⟩
  · show Host.Outcome.next _ = _
    rw [List.foldl_cons, List.foldl_cons, List.foldl_nil, hfirst, if_pos rfl, horphan, hsecond, if_neg Bool.false_ne_true]
  · rw [ht]
  · unfold EndRec.finish EndRec.lose
    rw [hopen, if_neg (by decide)]

/-- A journal without a jpart under way that loses its partner runs without one (R356). -/
theorem State.losePartner_journal {j : Nat} {x : Journal} (hq : Spec.quiet s) (hx : s.journal j = some x) :
    s.losePartner j = s.setJournal j { x with state := 3, prev := 3, sent := none } := by
  have hmod : (s.modJournal j fun x => { x with state := 3, prev := 3, sent := none }) =
      s.setJournal j { x with state := 3, prev := 3, sent := none } := by
    unfold State.modJournal
    rw [hx]
  have hjops : (s.setJournal j { x with state := 3, prev := 3, sent := none }).hub.jops = [] := hq
  unfold State.losePartner
  dsimp only
  rw [hmod]
  generalize s.setJournal j { x with state := 3, prev := 3, sent := none } = u at hjops ⊢
  rw [hjops]
  show { u with hub := { u.hub with jops := [] } } = u
  rw [← hjops]

/-- R340, R357: a module that is down is noted, and its journal runs without a partner. -/
theorem moduleDown_noted {f : BitVec 12} {j : Nat} {x : Journal} (hq : Spec.quiet s) (hstreams : s.hub.streams = [])
    (hrings : s.hub.rings = []) (hjrecs : s.hub.jrecs = []) (hjournals : s.hub.journals = [(j, x)]) (hlive : x.live = true)
    (hpart : x.part = f) (hstate : x.state ≠ 1) : ∃ t : State,
      exec (.moduleDownNotice f) s = .next t ∧ f ∈ t.hub.downMods ∧
      t.journal j = some { x with state := 3, prev := 3, sent := none } := by
  obtain ⟨s1, hs1, hdown, hsame⟩ : ∃ s1 : State,
      s1 = (if s.hub.downMods.contains f then s else { s with hub := { s.hub with downMods := s.hub.downMods ++ [f] } }) ∧
      f ∈ s1.hub.downMods ∧ { s1.hub with downMods := s.hub.downMods } = s.hub := by
    refine ⟨_, rfl, ?_, ?_⟩
    · split
      · rename_i h
        simpa using h
      · exact List.mem_append_right _ List.mem_cons_self
    · split <;> rfl
  have hq1 : s1.hub.jops = [] := (congrArg Hub.jops hsame).trans hq
  have hstr1 : s1.hub.streams = [] := (congrArg Hub.streams hsame).trans hstreams
  have hr1 : s1.hub.rings = [] := (congrArg Hub.rings hsame).trans hrings
  have hjr1 : s1.hub.jrecs = [] := (congrArg Hub.jrecs hsame).trans hjrecs
  have hj1 : s1.hub.journals = [(j, x)] := (congrArg Hub.journals hsame).trans hjournals
  have hx1 : s1.journal j = some x := by
    rw [State.journal, hj1]
    simp
  have hdn : s1.streamsDown f = s1 := by
    unfold State.streamsDown State.streamIds
    rw [hstr1]
    rfl
  have hbelay : s1.belayDown f = s1.losePartner j := by
    have hlose := State.losePartner_journal hq1 hx1
    have hq2 : (s1.losePartner j).hub.jops = [] := by rw [hlose]; exact hq1
    have hjr2 : (s1.losePartner j).hub.jrecs = [] := by rw [hlose]; exact hjr1
    unfold State.belayDown
    rw [hr1]
    dsimp only [List.foldl_nil]
    rw [hj1]
    dsimp only [List.foldl_cons, List.foldl_nil]
    rw [if_pos ⟨hlive, hpart, hstate⟩]
    generalize s1.losePartner j = u at hq2 hjr2 ⊢
    rw [hjr2]
    dsimp only [List.filter_nil, List.foldl_nil]
    rw [hq2]
    dsimp only [List.filter_nil, List.foldl_nil]
    rw [hq2]
    exact State.belayPump_of_quiet hq2
  refine ⟨s1.losePartner j, ?_, ?_, ?_⟩
  · show execModuleDownNotice f s = _
    rw [execModuleDownNotice, ← hs1, hdn, hbelay]
  · rw [State.losePartner_journal hq1 hx1]
    exact hdown
  · rw [State.losePartner_journal hq1 hx1, State.setJournal_journal]

end

/-- Settles O44: the old holder, the peer and the new holder of an end that moves; a hold that runs out; a module that is down. -/
theorem streamMoveEvents : Obligations.StreamMoveEvents :=
  ⟨fun _ _ _ hd hf hm hi hh hb => arrived_learns hd hf hm hi hh hb, fun _ _ _ hd hc hp hn he => moved_recorded hd hc hp hn he,
    fun _ _ _ _ hd hf hm hde => movedAcknowledgement_ends hd hf hm hde,
    fun _ _ _ hd hf hb => ⟨fun hn => redirected_keeps hd hf hb hn, fun _ hm hde hl => redirected_drains hd hf hb hm hde hl⟩,
    fun _ _ _ hd hc => drained_noted hd hc,
    fun _ _ _ _ _ hc hh hn hs hm he hp => orphanHoldoff_orphans hc hh hn hs hm he hp,
    fun _ _ _ hd hc => belayNote_noted hd hc,
    fun _ _ _ _ hq hs hr hj hjs hl hp hst => moduleDown_noted hq hs hr hj hjs hl hp hst⟩

end Sys2Proof.Machine
end

section
/-! The messages of journals and rings (R346 to R356, R362). -/

namespace Sys2Proof.Machine

/-! A result that reaches a vector register (R127). -/

section
variable {b : Bank} {tok n : Nat} {p : Pend} (v : Wide) (m : Mark)

theorem Reg.v_mem_allRegs (hn : n < 64) : Reg.v n ∈ allRegs := by
  simp [allRegs, hn]

/-- The numbers of the other places that take late results are not those of the vector registers. -/
theorem Reg.key_ne_v_of_mem_allRegs {r : Reg} (hr : r ∈ allRegs) (hn : n < 64) (h : r ≠ .v n) : (Reg.v n).key ≠ r.key := by
  simp only [allRegs, List.mem_append, List.mem_map, List.mem_range] at hr
  rcases hr with (⟨i, hi, rfl⟩ | ⟨i, -, rfl⟩) | ⟨i, -, rfl⟩
  · simp only [Reg.key]
    omega
  · intro e
    refine h (congrArg Reg.v ?_)
    simp only [Reg.key] at e
    omega
  · simp only [Reg.key]
    omega

theorem resultWrite_v (n : Nat) : resultWrite v m (.v n) = some (wrW (.v n) v m) := by
  simp [resultWrite]

theorem Bank.deliver_one_getV {w : Reg → Option RegWrite} {r : Reg} {x : RegWrite} (hx : w r = some x) (i : Nat) :
    (b.deliver tok w [r]).getV i = if (b.pends r).any (fun p => p.tok == tok) = true then (b.store x).getV i else b.getV i := by
  simp only [Bank.deliver, List.foldl_cons, List.foldl_nil, hx]
  split <;> rfl

theorem Bank.getV_store_other {w : RegWrite} (h : w.reg ≠ .v n) (hm : w.mask = fullMask) (ht : w.tag = true) :
    (b.store w).getV n = b.getV n := by
  cases hr : w.reg
  case v i =>
    rw [Bank.getV_store hr hm ht, if_neg]
    exact fun e => h (hr.trans (congrArg Reg.v e.symm))
  all_goals
    simp only [Bank.store, hr]
    repeat' split
    all_goals rfl

/-- A result that reaches another place changes neither the vector register nor what it waits for. -/
theorem Bank.deliver_other_v {r : Reg} (hr : r ∈ allRegs) (hn : n < 64) (h : r ≠ .v n) :
    (b.deliver tok (resultWrite v m) [r]).pends (.v n) = b.pends (.v n) ∧
      (b.deliver tok (resultWrite v m) [r]).getV n = b.getV n := by
  constructor
  · rw [deliver_one_pends (w := resultWrite v m) rfl, if_neg fun e => Reg.key_ne_v_of_mem_allRegs hr hn h e.2]
  · rw [deliver_one_getV (w := resultWrite v m) rfl]
    split
    · exact getV_store_other h rfl rfl
    · rfl

/-- A vector register that waits for nothing more keeps its value, whatever places the result reaches. -/
theorem Bank.deliver_settled_v {rs : List Reg} (hrs : ∀ r ∈ rs, r ∈ allRegs) (hn : n < 64) (h : b.pends (.v n) = []) :
    (b.deliver tok (resultWrite v m) rs).pends (.v n) = [] ∧ (b.deliver tok (resultWrite v m) rs).getV n = b.getV n := by
  induction rs generalizing b with
  | nil => exact ⟨h, rfl⟩
  | cons r rs ih =>
    have hone : (b.deliver tok (resultWrite v m) [r]).pends (.v n) = [] ∧
        (b.deliver tok (resultWrite v m) [r]).getV n = b.getV n := by
      by_cases hr : r = .v n
      · rw [hr, show b.deliver tok (resultWrite v m) [.v n] = b by simp [Bank.deliver, h]]
        exact ⟨h, rfl⟩
      · obtain ⟨hp, hg⟩ := deliver_other_v v m (hrs r List.mem_cons_self) hn hr (b := b) (tok := tok)
        exact ⟨hp.trans h, hg⟩
    obtain ⟨hp, hg⟩ := ih (fun x hx => hrs x (List.mem_cons_of_mem _ hx)) hone.1
    exact ⟨hp, hg.trans hone.2⟩

/-- The vector register that waits for the result alone takes it, and waits no more. -/
theorem Bank.deliver_waiting_v (hn : n < 64) (hp : b.pends (.v n) = [p]) (ht : p.tok = tok) {rs : List Reg}
    (hrs : ∀ r ∈ rs, r ∈ allRegs) (hmem : .v n ∈ rs) :
    (b.deliver tok (resultWrite v m) rs).pends (.v n) = [] ∧ (b.deliver tok (resultWrite v m) rs).getV n = v := by
  induction rs generalizing b with
  | nil => exact absurd hmem List.not_mem_nil
  | cons r rs ih =>
    have hrest : ∀ x ∈ rs, x ∈ allRegs := fun x hx => hrs x (List.mem_cons_of_mem _ hx)
    by_cases hr : r = .v n
    · subst hr
      have hany : (b.pends (.v n)).any (fun p => p.tok == tok) = true := by simp [hp, ht]
      have hone : (b.deliver tok (resultWrite v m) [.v n]).pends (.v n) = [] := by
        rw [deliver_one_pends (resultWrite_v v m n), if_pos ⟨hany, rfl⟩, hp]
        simp [ht]
      have hval : (b.deliver tok (resultWrite v m) [.v n]).getV n = v := by
        rw [deliver_one_getV (resultWrite_v v m n), if_pos hany, Bank.getV_store (w := wrW (.v n) v m) rfl rfl rfl, if_pos rfl]
        rfl
      obtain ⟨h1, h2⟩ := deliver_settled_v v m hrest hn hone
      exact ⟨h1, h2.trans hval⟩
    · obtain ⟨hp', -⟩ := deliver_other_v v m (hrs r List.mem_cons_self) hn hr (b := b) (tok := tok)
      exact ih (hp'.trans hp) hrest ((List.mem_cons.1 hmem).resolve_left fun e => hr e.symm)

theorem Bank.v_mem_waiting (hn : n < 64) (hp : b.pends (.v n) = [p]) (ht : p.tok = tok) : Reg.v n ∈ b.waiting tok :=
  List.mem_filter.2 ⟨Reg.v_mem_allRegs hn, by simp [hp, ht]⟩

end

section
variable {s z : State}

/-! Hosting a ring (R346). -/

theorem State.poolAlloc_keeps {slot : BitVec 4} {bytes a : Nat} {u : State} (h : s.poolAlloc slot bytes = some (a, u)) :
    u.hub.regs = s.hub.regs ∧ u.net = s.net ∧ u.out = s.out := by
  unfold State.poolAlloc at h
  dsimp only at h
  split at h
  · cases h
  · split at h
    · cases h
    · split at h
      · cases h
      · cases h
        exact ⟨rfl, rfl, rfl⟩

theorem State.hostRing_keeps {slot : BitVec 4} {entry : Option Nat} {m : RingReq} {u : State} (h : s.hostRing slot entry m = some u) :
    u.hub.regs = s.hub.regs ∧ u.net = s.net ∧ u.out = s.out := by
  unfold State.hostRing at h
  split at h
  · cases h
  · cases h
    rename_i h
    obtain ⟨hregs, hnet, hout⟩ := State.poolAlloc_keeps h
    exact ⟨hregs, hnet, hout⟩

/-- The lowest slot whose BJHOST offers the tag. -/
def State.hostSlot (s : State) (ftag : BitVec 16) : Option Nat :=
  (List.range 16).find? fun t => (s.bjhost t).getLsbD 63 && (s.bjhost t).setWidth 16 == ftag

theorem State.hostSlot_lowest {ftag : BitVec 16} {n : Nat} (hn : n < 16) (ho : (s.bjhost n).getLsbD 63 = true ∧ (s.bjhost n).setWidth 16 = ftag)
    (hlow : ∀ k < n, ¬ ((s.bjhost k).getLsbD 63 = true ∧ (s.bjhost k).setWidth 16 = ftag)) : s.hostSlot ftag = some n := by
  unfold State.hostSlot
  rw [List.find?_range_eq_some]
  refine ⟨by simp [ho], List.mem_range.2 hn, fun k hk => ?_⟩
  rw [Bool.not_eq_true', Bool.eq_false_iff]
  exact fun h => hlow k hk (by simpa using h)

theorem State.hostSlot_none {ftag : BitVec 16} (h : ∀ k < 16, ¬ ((s.bjhost k).getLsbD 63 = true ∧ (s.bjhost k).setWidth 16 = ftag)) :
    s.hostSlot ftag = none := by
  unfold State.hostSlot
  rw [List.find?_eq_none]
  intro k hk
  exact fun hk' => h k (List.mem_range.1 hk) (by simpa using hk')

theorem ringHostRequest_hosts {m : RingReq} {n e : Nat} {u : State} (hdst : m.dst = s.fabid) (hslot : s.hostSlot m.ftag = some n)
    (hentry : s.freeEntry = some e) (hhost : (Spec.taken s (.ringReq m)).hostRing (BitVec.ofNat 4 n) (some e) m = some u) : ∃ t : State,
      exec (.ringHostRequest m) s = .next t ∧
      Spec.posted (Spec.taken s (.ringReq m)) t m.iss (.ringAns ⟨m.iss, s.fabid, m.jidx, true⟩) ∧ t.hub.rings = u.hub.rings := by
  obtain ⟨hregs, hnet, hout⟩ := State.hostRing_keeps hhost
  have hrun : exec (.ringHostRequest m) s = .next (u.post m.iss (.ringAns ⟨m.iss, s.fabid, m.jidx, true⟩)) := by
    show execRingHostRequest m s = _
    rw [execRingHostRequest, if_neg (not_not.2 hdst)]
    dsimp only
    rw [show ((List.range 16).find? fun t => ((s.receive (.ringReq m)).bjhost t).getLsbD 63 &&
      ((s.receive (.ringReq m)).bjhost t).setWidth 16 == m.ftag) = some n from hslot,
      show (s.receive (.ringReq m)).freeEntry = some e from hentry]
    dsimp only
    rw [show (s.receive (.ringReq m)).hostRing (BitVec.ofNat 4 n) (some e) m = some u from hhost]
  exact ⟨_, hrun, State.posted_post (State.fabid_of_hub hregs) hnet hout, congrArg Hub.rings (u.post_hub _ _)⟩

theorem ringHostRequest_refuses {m : RingReq} (hdst : m.dst = s.fabid) (hslot : s.hostSlot m.ftag = none) : ∃ t : State,
      exec (.ringHostRequest m) s = .next t ∧
      Spec.posted (Spec.taken s (.ringReq m)) t m.iss (.ringAns ⟨m.iss, s.fabid, m.jidx, false⟩) ∧ t.hub.rings = s.hub.rings := by
  refine ⟨(Spec.taken s (.ringReq m)).post m.iss (.ringAns ⟨m.iss, s.fabid, m.jidx, false⟩), ?_, State.posted_post rfl rfl rfl,
    congrArg Hub.rings (State.post_hub _ _ _)⟩
  show execRingHostRequest m s = _
  rw [execRingHostRequest, if_neg (not_not.2 hdst)]
  dsimp only
  rw [show ((List.range 16).find? fun t => ((s.receive (.ringReq m)).bjhost t).getLsbD 63 &&
    ((s.receive (.ringReq m)).bjhost t).setWidth 16 == m.ftag) = none from hslot]
  rfl

/-! The end of a jopen's wait (R349, R353). -/

/-- The operation that alone waits for a partner is taken out of the belay engine. -/
theorem State.takeAsked_single {o : JOp} {n : Nat} (hj : s.hub.jops = [o]) (hst : o.stage = .asked n) :
    s.takeAsked o.jidx = some (o, { s with hub := { s.hub with jops := [] } }) := by
  unfold State.takeAsked
  rw [hj, List.find?_cons_of_pos (by rw [hst]; simp)]
  simp

/-- A jopen's wait ends with the end of its operation. -/
theorem State.ringAnswered_jopen {o : JOp} {n code : Nat} {d : Packet64} (part : BitVec 12) (hj : s.hub.jops = [o])
    (hst : o.stage = .asked n) (hb : o.body = .jopen d) :
    s.ringAnswered o.jidx code part = (({ s with hub := { s.hub with jops := [] } } : State).jopenEnd o code).belayPump := by
  unfold State.ringAnswered
  rw [State.takeAsked_single hj hst]
  dsimp only
  rw [hb]

theorem State.newChk_ne_zero (s : State) : s.newChk.1 ≠ 0 := by
  unfold State.newChk
  dsimp only
  split
  · decide
  · assumption

/-- R349: a jopen whose partner hosts the ring binds its end. -/
theorem State.jopenEnd_binds {o : JOp} {d : Packet64} {x : Journal} {r : EndRec} (hb : o.body = .jopen d)
    (hx : s.journal o.jidx = some x) (hend : s.endNow (d.extractLsb' 64 64) = some r) (hprod : (s.stream x.sid).prod = some r)
    (hst : r.state ≠ 1) (hfree : r.journal = none) (hqueue : r.queue = []) :
    let t := s.jopenEnd o 0
    (∃ chk, chk ≠ 0 ∧ t.journal o.jidx = some { x with live := true, chk := chk, neseq := r.nseq }) ∧
      (t.stream x.sid).prod = some { r with journal := some o.jidx } ∧ t.hub.jops = s.hub.jops := by
  intro t
  let u := (s.newChk.2.setJournal o.jidx { x with live := true, chk := s.newChk.1, neseq := r.nseq }).modStream x.sid fun e =>
    { e with prod := e.prod.map fun p => { p with journal := some o.jidx, queue := [] } }
  have hgo : t = (u.post r.peer (.note ⟨r.peer, x.sid, x.part⟩)).bjDone o (journalHandle s.fabid o.jidx s.newChk.1) := by
    show s.jopenEnd o 0 = _
    unfold State.jopenEnd
    rw [hx, hb]
    dsimp only
    rw [if_neg (not_not.2 rfl), hend]
    dsimp only
    rw [if_neg hst, hfree, hqueue]
    rfl
  have hhub : t.hub = u.hub := by
    rw [hgo]
    exact (State.answer_hub _ _ _ _ _).trans (u.post_hub _ _)
  refine ⟨⟨s.newChk.1, s.newChk_ne_zero, ?_⟩, ?_, ?_⟩
  · rw [State.journal_of_hub hhub]
    exact State.setJournal_journal _ _ _
  · rw [State.stream_of_hub hhub, State.modStream_stream]
    show ((s.stream x.sid).prod.map _) = _
    rw [hprod, Option.map_some, ← hqueue]
  · rw [hhub]
    rfl

/-- R353: a jopen that is refused leaves no journal. -/
theorem State.jopenEnd_fails {o : JOp} {code : Nat} (hc : code ≠ 0) :
    (s.jopenEnd o code).journal o.jidx = none ∧ (s.jopenEnd o code).hub.jops = s.hub.jops := by
  unfold State.jopenEnd
  cases hx : s.journal o.jidx with
  | none =>
    have hhub : (s.bjDone o (failed 3)).hub = s.hub := State.answer_hub _ _ _ _ _
    exact ⟨(State.journal_of_hub hhub _).trans hx, congrArg Hub.jops hhub⟩
  | some x =>
    have hhub : ((s.freeJournal o.jidx).bjDone o (failed code)).hub = (s.freeJournal o.jidx).hub := State.answer_hub _ _ _ _ _
    dsimp only
    rw [if_pos hc]
    exact ⟨(State.journal_of_hub hhub _).trans (s.freeJournal_journal _), (congrArg Hub.jops hhub).trans rfl⟩

theorem ringHostAnswer_binds {m : RingAns} {o : JOp} {d : Packet64} {x : Journal} {r : EndRec} {n : Nat} (hdst : m.dst = s.fabid)
    (hok : m.ok = true) (hj : s.hub.jops = [o]) (hstage : o.stage = .asked n) (hb : o.body = .jopen d) (hidx : o.jidx = m.jidx.toNat)
    (hasked : o.asked = m.part) (hx : s.journal o.jidx = some x) (hprod : (s.stream x.sid).prod = some r)
    (hsid : x.sid = handleSid (d.extractLsb' 64 64)) (hcons : handleCons (d.extractLsb' 64 64) = false)
    (hchk : r.chk = handleChk (d.extractLsb' 64 64)) (hfree : r.journal = none) (hst : r.state ≠ 1) (hqueue : r.queue = []) :
    ∃ t : State, exec (.ringHostAnswer m) s = .next t ∧
      (∃ chk, chk ≠ 0 ∧ t.journal o.jidx = some { x with live := true, chk := chk, neseq := r.nseq }) ∧
      (t.stream x.sid).prod = some { r with journal := some o.jidx } ∧ t.hub.jops = [] := by
  let u : State := { s.receive (.ringAns m) with hub := { s.hub with jops := [] } }
  have hend : u.endNow (d.extractLsb' 64 64) = some r := by
    unfold State.endNow
    rw [hcons, ← hsid, show (u.stream x.sid).endOf false = some r from hprod]
    exact if_pos hchk
  obtain ⟨hjournal, hstream, hjops⟩ := State.jopenEnd_binds (s := u) hb hx hend hprod hst hfree hqueue
  refine ⟨u.jopenEnd o 0, ?_, hjournal, hstream, hjops⟩
  have hwaits : (s.hub.jops.any fun o =>
      o.jidx == m.jidx.toNat && o.asked == m.part && (match o.stage with | .asked _ => true | _ => false)) = true := by
    rw [hj, List.any_cons, hstage, hidx, hasked]
    simp
  have hgo := State.ringAnswered_jopen (s := s.receive (.ringAns m)) (code := 0) m.part hj hstage hb
  rw [hidx] at hgo
  show execRingHostAnswer m s = _
  rw [execRingHostAnswer, if_neg (not_not.2 hdst)]
  refine congrArg Host.Outcome.next ((if_pos hwaits).trans ?_)
  rw [hok, if_pos rfl, hgo]
  exact State.belayPump_of_quiet hjops

theorem ringHostTimeout_frees {j : BitVec 12} {o : JOp} {d : Packet64} {n : Nat} (hj : s.hub.jops = [o]) (hstage : o.stage = .asked n)
    (hb : o.body = .jopen d) (hidx : o.jidx = j.toNat) (hlate : n + 1000000 ≤ s.dtime) : ∃ t : State,
      exec (.ringHostTimeout j) s = .next t ∧ t.journal o.jidx = none ∧ t.hub.jops = [] := by
  let u : State := { s with hub := { s.hub with jops := [] } }
  obtain ⟨hnone, hjops⟩ := State.jopenEnd_fails (s := u) (o := o) (code := 3) (by decide)
  refine ⟨u.jopenEnd o 3, ?_, hnone, hjops⟩
  have hfind : (s.hub.jops.find? fun o =>
      o.jidx == j.toNat && (match o.stage with | .asked t => decide (t + ms ≤ s.dtime) | _ => false)) = some o := by
    rw [hj, List.find?_cons_of_pos]
    rw [hstage, hidx]
    show (j.toNat == j.toNat && decide (n + ms ≤ s.dtime)) = true
    rw [beq_self_eq_true, Bool.true_and]
    exact decide_eq_true hlate
  have hgo := State.ringAnswered_jopen (s := s) (code := 3) o.asked hj hstage hb
  rw [hidx] at hgo
  show execRingHostTimeout j s = _
  unfold execRingHostTimeout
  dsimp only
  split
  · rename_i h
    exact absurd (hfind.symm.trans h) nofun
  · rename_i h
    obtain rfl := Option.some.inj (hfind.symm.trans h)
    rw [hgo]
    exact congrArg Host.Outcome.next (State.belayPump_of_quiet hjops)

/-! Appends and their acknowledgements (R347, R351, R362). -/

/-- A list with its first element of a kind changed. -/
def changeFirst (p : Ring → Bool) (f : Ring → Ring) : List Ring → List Ring
  | [] => []
  | r :: l => if p r then f r :: l else r :: changeFirst p f l

theorem changeFirst_find? {p : Ring → Bool} {f : Ring → Ring} (hf : ∀ r, p r = true → p (f r) = true) (l : List Ring) :
    (changeFirst p f l).find? p = (l.find? p).map f := by
  induction l with
  | nil => rfl
  | cons r l ih =>
    unfold changeFirst
    by_cases hr : p r = true
    · rw [if_pos hr, List.find?_cons_of_pos (hf r hr), List.find?_cons_of_pos hr]
      rfl
    · rw [if_neg hr, List.find?_cons_of_neg hr, List.find?_cons_of_neg hr, ih]

/-- The newest ring of a journal is changed, the last of the list. -/
theorem State.modRing_rings (s : State) (iss jidx : BitVec 12) (f : Ring → Ring) :
    (s.modRing iss jidx f).hub.rings.reverse = changeFirst (fun r => r.isFor iss jidx) f s.hub.rings.reverse := by
  let step := fun (acc : Bool × List Ring) (r : Ring) =>
    if !acc.1 && r.isFor iss jidx then (true, f r :: acc.2) else (acc.1, r :: acc.2)
  have hdone (l acc : List Ring) : (l.foldl step (true, acc)).2.reverse = acc.reverse ++ l := by
    induction l generalizing acc with
    | nil => simp
    | cons r l ih =>
      rw [List.foldl_cons, show step (true, acc) r = (true, r :: acc) from rfl, ih]
      simp
  have hgo (l acc : List Ring) :
      (l.foldl step (false, acc)).2.reverse = acc.reverse ++ changeFirst (fun r => r.isFor iss jidx) f l := by
    induction l generalizing acc with
    | nil => simp [changeFirst]
    | cons r l ih =>
      rw [List.foldl_cons]
      by_cases hr : r.isFor iss jidx = true
      · rw [show step (false, acc) r = (true, f r :: acc) from if_pos (by simpa using hr), hdone]
        simp [changeFirst, hr]
      · rw [show step (false, acc) r = (false, r :: acc) from if_neg (by simpa using hr), ih]
        simp [changeFirst, hr]
  exact hgo s.hub.rings.reverse []

theorem State.modRing_ringOf (s : State) {iss jidx : BitVec 12} {f : Ring → Ring} (hf : ∀ r, (f r).iss = r.iss ∧ (f r).jidx = r.jidx) :
    (s.modRing iss jidx f).ringOf iss jidx = (s.ringOf iss jidx).map f := by
  rw [State.ringOf, State.modRing_rings]
  refine changeFirst_find? (fun r hr => ?_) _
  obtain ⟨hi, hj⟩ := hf r
  unfold Ring.isFor at hr ⊢
  rwa [hi, hj]

theorem journalAppend_writes {m : AppendMsg} {r : Ring} (hdst : m.dst = s.fabid) (hiss : m.iss ≠ s.fabid)
    (hring : s.ringOf m.iss m.jidx = some r) (hgen : r.gen = s.gen r.slot) :
    let z := Spec.taken s (.append m)
    ∃ t : State, exec (.journalAppend m) s = .next t ∧
      t.mem = (z.homeWrites r.acc (r.place (recStep m.recd)) (bytesOf m.recd 64)).mem ∧
      t.ringOf m.iss m.jidx = some { r with tail := recStep m.recd + 1, neseq := recEseq m.recd + 1, holder := m.holder } ∧
      Spec.posted z t m.iss (.appendAck ⟨m.iss, s.fabid, m.jidx, recStep m.recd, true⟩) := by
  intro z
  obtain ⟨w, hw⟩ : ∃ w, w = z.ringWrite r (recStep m.recd) m.recd := ⟨_, rfl⟩
  have hoff : w.offMemory = z.offMemory := by
    rw [hw]
    exact z.homeWrites_offMemory _ _ _
  have hhub : w.hub = s.hub := by
    have h := congrArg State.hub hoff
    exact h
  have hnet : w.net = z.net := by
    have h := congrArg State.net hoff
    exact h
  have hout : w.out = z.out := by
    have h := congrArg State.out hoff
    exact h
  have hregs : w.hub.regs = z.hub.regs := congrArg Hub.regs hhub
  obtain ⟨u, hu⟩ : ∃ u, u = w.modRing m.iss m.jidx fun g =>
    { g with tail := recStep m.recd + 1, neseq := recEseq m.recd + 1, holder := m.holder } := ⟨_, rfl⟩
  have hukeep : u.hub.regs = z.hub.regs ∧ u.net = z.net ∧ u.out = z.out ∧ u.mem = w.mem := by
    rw [hu]
    exact ⟨hregs, hnet, hout, rfl⟩
  obtain ⟨huregs, hunet, huout, humem⟩ := hukeep
  have hown : (m.iss == s.fabid) = false := beq_false_of_ne hiss
  have hof : w.ringOf m.iss m.jidx = some r := by
    unfold State.ringOf
    rw [hhub]
    exact hring
  have huof : u.ringOf m.iss m.jidx = some { r with tail := recStep m.recd + 1, neseq := recEseq m.recd + 1, holder := m.holder } := by
    rw [hu, w.modRing_ringOf, hof]
    · rfl
    · exact fun _ => ⟨rfl, rfl⟩
  refine ⟨u.post m.iss (.appendAck ⟨m.iss, s.fabid, m.jidx, recStep m.recd, true⟩), ?_, ?_, ?_,
    State.posted_post (State.fabid_of_hub huregs) hunet huout⟩
  · show execJournalAppend m s = _
    rw [execJournalAppend, if_neg (not_not.2 hdst)]
    dsimp only
    rw [hown, Bool.false_and, if_neg Bool.false_ne_true,
      show (s.receive (.append m)).ringOf m.iss m.jidx = some r from hring]
    dsimp only
    rw [show (s.receive (.append m)).gen r.slot = s.gen r.slot from rfl, if_neg (not_not.2 hgen),
      show (s.receive (.append m)).ringWrite r (recStep m.recd) m.recd = w from hw.symm, ← hu]
    rfl
  · rw [u.post_mem, humem, hw]
    rfl
  · rw [State.ringOf, u.post_hub]
    exact huof

theorem appendAcknowledgement_holds {m : AppendAck} {x : Journal} {y : Packet64} (hdst : m.dst = s.fabid) (hq : Spec.quiet s)
    (hx : s.journal m.jidx.toNat = some x) (hsent : x.sent = some (m.step, y)) (hpart : x.part = m.part) (hok : m.ok = true) :
    ∃ t : State, exec (.appendAcknowledgement m) s = .next t ∧ t.journal m.jidx.toNat = some { x with
      tail := m.step + 1, neseq := x.neseq + 1, recs := Tab.set x.recs m.step.toNat y, sent := none } := by
  let u := (s.receive (.appendAck m)).setJournal m.jidx.toNat { x with
    tail := m.step + 1, neseq := x.neseq + 1, recs := Tab.set x.recs m.step.toNat y, sent := none }
  refine ⟨u, ?_, State.setJournal_journal _ _ _⟩
  have hours : ¬ (m.step ≠ m.step ∨ x.part ≠ m.part) := by simp [hpart]
  have hyes : ¬ (!m.ok) = true := by simp [hok]
  show execAppendAcknowledgement m s = _
  rw [execAppendAcknowledgement, if_neg (not_not.2 hdst)]
  dsimp only
  rw [show (s.receive (.appendAck m)).journal m.jidx.toNat = some x from hx]
  dsimp only
  rw [hsent]
  dsimp only
  rw [if_neg hours, if_neg hyes]
  exact congrArg Host.Outcome.next (State.belayPump_of_quiet (s := u) hq)

/-! Records that are asked for (R347, R352, R362). -/

theorem State.readRec_ok {r : Ring} {step : BitVec 32} {d : Packet64} (h : s.ringRec r step = some d) :
    s.readRec r step = (some d, s) := by
  unfold State.readRec
  rw [h]

theorem jrecRequest_answers {m : JrecReq} {r : Ring} {d : Packet64} (hdst : m.dst = s.fabid)
    (hring : s.hub.rings.find? (fun r => r.isFor m.iss m.jidx) = some r) (hgen : r.gen = s.gen r.slot)
    (hlo : later r.cstep m.step = false) (hhi : later r.tail m.step = true) (hrec : s.ringRec r m.step = some d) : ∃ t : State,
      exec (.jrecRequest m) s = .next t ∧
      Spec.posted (Spec.taken s (.jrecReq m)) t m.iss (.jrecRep ⟨m.iss, s.fabid, m.jidx, m.token, true, d, false⟩) := by
  refine ⟨(Spec.taken s (.jrecReq m)).post m.iss (.jrecRep ⟨m.iss, s.fabid, m.jidx, m.token, true, d, false⟩), ?_,
    State.posted_post rfl rfl rfl⟩
  have hheld : ¬ (later r.cstep m.step = true ∨ (!later r.tail m.step) = true) := by simp [hlo, hhi]
  have hread := State.readRec_ok (s := s.receive (.jrecReq m)) (r := r) (step := m.step) (d := d) hrec
  show execJrecRequest m s = _
  rw [execJrecRequest, if_neg (not_not.2 hdst)]
  dsimp only
  rw [show (s.receive (.jrecReq m)).hub.rings.find? (fun r => r.isFor m.iss m.jidx) = some r from hring]
  dsimp only
  rw [show (s.receive (.jrecReq m)).gen r.slot = s.gen r.slot from rfl, if_neg (not_not.2 hgen), if_neg hheld, hread]
  rfl

/-- The jrec that waits under a token is forgotten, in its contexts and in the hub (R352). -/
def State.jrecGone (s : State) (ci tok : Nat) : State :=
  let s1 := { s with hub := { s.hub with jrecs := s.hub.jrecs.filter fun x => x.2.1 != tok } }
  let s2 := (List.range 4).foldl (fun x i =>
    x.modCtx (4 * (ci / 4) + i) fun c => { c with jrecs := c.jrecs.filter (· != tok) }) s1
  s2.modCore (ci / 4) fun k => { k with units := k.units.map fun u => { u with jrecs := u.jrecs.filter (· != tok) } }

theorem State.jrecDone_eq {tok ci c : Nat} {p : BitVec 12} (h : s.hub.jrecs.find? (fun x => x.2.1 == tok) = some (ci, tok, p, c))
    (v : Lanes) (m : Mark) : s.jrecDone tok v m = (s.jrecGone ci tok).answer ci tok { data := v } m := by
  unfold State.jrecDone
  rw [h]
  rfl

theorem State.jrecGone_hub (s : State) (ci tok : Nat) :
    (s.jrecGone ci tok).hub = { s.hub with jrecs := s.hub.jrecs.filter fun x => x.2.1 != tok } :=
  State.modCtx_foldl_hub _ _ _ _

theorem State.jrecGone_ctx (s : State) (ci tok k : Nat) :
    ((s.jrecGone ci tok).ctx k).bank = (s.ctx k).bank ∧ ((s.jrecGone ci tok).ctx k).shadow = (s.ctx k).shadow ∧
      ((s.jrecGone ci tok).ctx k).flight = (s.ctx k).flight := by
  have h (l : List Nat) (x : State) : (((l.foldl (fun x i => x.modCtx (4 * (ci / 4) + i) fun c =>
      { c with jrecs := c.jrecs.filter (· != tok) }) x).ctx k).bank, ((l.foldl (fun x i => x.modCtx (4 * (ci / 4) + i) fun c =>
      { c with jrecs := c.jrecs.filter (· != tok) }) x).ctx k).shadow, ((l.foldl (fun x i => x.modCtx (4 * (ci / 4) + i) fun c =>
      { c with jrecs := c.jrecs.filter (· != tok) }) x).ctx k).flight) = ((x.ctx k).bank, (x.ctx k).shadow, (x.ctx k).flight) := by
    refine foldl_keeps (v := fun x : State => ((x.ctx k).bank, (x.ctx k).shadow, (x.ctx k).flight)) (fun y i => ?_) l x
    rw [State.modCtx_ctx]
    split
    · rename_i hk
      rw [hk]
    · rfl
  obtain ⟨hb, hrest⟩ := Prod.mk.inj (h (List.range 4) { s with hub := { s.hub with jrecs := s.hub.jrecs.filter fun x => x.2.1 != tok } })
  obtain ⟨hs, hf⟩ := Prod.mk.inj hrest
  exact ⟨hb, hs, hf⟩

theorem State.jrecGone_cycle (s : State) (ci tok : Nat) : (s.jrecGone ci tok).cycle = s.cycle :=
  foldl_keeps (v := State.cycle) (f := fun (x : State) i => x.modCtx (4 * (ci / 4) + i) fun c =>
    { c with jrecs := c.jrecs.filter (· != tok) }) (fun _ _ => rfl) (List.range 4) _

theorem Ctx.landDue_bank {c d : Ctx} (hb : c.bank = d.bank) (hf : c.flight = d.flight) (k : Nat) :
    (c.landDue k).bank = (d.landDue k).bank := by
  unfold Ctx.landDue
  rw [hb, hf]

/-- R352: the record that a jrec waits for lands. -/
theorem State.jrecDone_lands {tok ci n c : Nat} {p : BitVec 12} {y : Pend}
    (h : s.hub.jrecs.find? (fun x => x.2.1 == tok) = some (ci, tok, p, c)) (hn : n < 64) (hp : (s.ctx ci).bank.pends (.v n) = [y])
    (hdue : ((s.ctx ci).landDue s.cycle).bank.pends (.v n) = [y]) (hy : y.tok = tok)
    (hothers : ∀ k, k ≠ ci → (s.ctx k).bank.waiting tok = [] ∧ (s.ctx k).shadow.bank.waiting tok = []) (v : Lanes) (m : Mark) :
    let t := s.jrecDone tok v m
    (t.ctx ci).bank.getV n = { data := v } ∧ (t.ctx ci).bank.pends (.v n) = [] ∧ ∀ x ∈ t.hub.jrecs, x.2.1 ≠ tok := by
  intro t
  let u := s.jrecGone ci tok
  have hci : 4 * (ci / 4) + ci % 4 = ci := by omega
  obtain ⟨hbank, -, hflight⟩ := s.jrecGone_ctx ci tok ci
  have hwait : (u.ctx ci).bank.waiting tok ≠ [] := by
    rw [hbank]
    exact List.ne_nil_of_mem (Bank.v_mem_waiting hn hp hy)
  have hans : t = u.modCtx ci fun c => (c.landDue u.cycle).deliver tok { data := v } m := by
    have := State.answer_waits (s := u) (core := ci / 4) (i := ci % 4) (tok := tok) (Nat.mod_lt _ (by decide)) (by rwa [hci])
      (fun j hj hne => by
        have hk : 4 * (ci / 4) + j ≠ ci := by omega
        obtain ⟨hb, hs, -⟩ := s.jrecGone_ctx ci tok (4 * (ci / 4) + j)
        rw [show (u.ctx _).bank = _ from hb, show (u.ctx _).shadow = _ from hs]
        exact hothers _ hk) { data := v } m
    rw [hci] at this
    exact (State.jrecDone_eq h v m).trans this
  have hctx : t.ctx ci = ((u.ctx ci).landDue u.cycle).deliver tok { data := v } m := by
    rw [hans, State.modCtx_ctx_self]
  have hland : ((u.ctx ci).landDue u.cycle).bank.pends (.v n) = [y] := by
    rw [show u.cycle = s.cycle from s.jrecGone_cycle ci tok, Ctx.landDue_bank hbank hflight]
    exact hdue
  obtain ⟨hpend, hval⟩ := Bank.deliver_waiting_v { data := v } m hn hland hy (rs := ((u.ctx ci).landDue u.cycle).bank.waiting tok)
    (fun r hr => (List.mem_filter.1 hr).1) (Bank.v_mem_waiting hn hland hy)
  refine ⟨by rw [hctx]; exact hval, by rw [hctx]; exact hpend, fun x hx => ?_⟩
  have hhub : t.hub = u.hub := by rw [hans]; rfl
  rw [hhub, show u.hub = _ from s.jrecGone_hub ci tok] at hx
  simpa using (List.mem_filter.1 hx).2

theorem jrecReply_lands {m : JrecRep} {ci n c : Nat} {p : BitVec 12} {y : Pend} (hdst : m.dst = s.fabid) (hstale : m.stale = false)
    (hheld : m.held = true) (h : s.hub.jrecs.find? (fun x => x.2.1 == m.token) = some (ci, m.token, p, c)) (hn : n < 64)
    (hp : (s.ctx ci).bank.pends (.v n) = [y]) (hdue : ((s.ctx ci).landDue s.cycle).bank.pends (.v n) = [y]) (hy : y.tok = m.token)
    (hothers : ∀ k, k ≠ ci → (s.ctx k).bank.waiting m.token = [] ∧ (s.ctx k).shadow.bank.waiting m.token = []) :
    ∃ t : State, exec (.jrecReply m) s = .next t ∧ (t.ctx ci).bank.getV n = { data := ((1 : BitVec 512) ++ m.recd).setWidth 1024 } ∧
      (t.ctx ci).bank.pends (.v n) = [] ∧ ∀ x ∈ t.hub.jrecs, x.2.1 ≠ m.token := by
  refine ⟨(s.receive (.jrecRep m)).jrecDone m.token ((1 : BitVec 512) ++ m.recd) .clean, ?_, ?_⟩
  · show execJrecReply m s = _
    rw [execJrecReply, if_neg (not_not.2 hdst)]
    dsimp only
    rw [hstale, if_neg Bool.false_ne_true, hheld, if_pos rfl]
  · rw [BitVec.setWidth_eq]
    exact State.jrecDone_lands (s := s.receive (.jrecRep m)) h hn hp hdue hy hothers _ _

/-! Releases, notices and copies (R354, R355, R362). -/

theorem Ring.isFor_self {r : Ring} {iss jidx : BitVec 12} (hi : r.iss = iss) (hj : r.jidx = jidx) : r.isFor iss jidx = true := by
  simp [Ring.isFor, hi, hj]

theorem Ring.find?_only {r : Ring} {iss jidx : BitVec 12} (hr : r.isFor iss jidx = true) :
    [r].find? (fun r => r.isFor iss jidx) = some r := by
  simp [hr]

theorem releaseMessage_frees {m : ReleaseMsg} {r : Ring} (hdst : m.dst = s.fabid) (hrings : s.hub.rings = [r])
    (hr : r.isFor m.iss m.jidx = true) (hall : m.all = true) : ∃ t : State,
      exec (.releaseMessage m) s = .next t ∧ t.hub.rings = [] := by
  refine ⟨(s.receive (.release m)).freeRing m.iss m.jidx, ?_, ?_⟩
  · show execReleaseMessage m s = _
    rw [execReleaseMessage, if_neg (not_not.2 hdst), hall]
    rfl
  · have hfind : (s.receive (.release m)).hub.rings.find? (fun r => r.isFor m.iss m.jidx) = some r := by
      rw [show (s.receive (.release m)).hub.rings = [r] from hrings, Ring.find?_only hr]
    have herase : (s.receive (.release m)).hub.rings.erase r = [] := by
      rw [show (s.receive (.release m)).hub.rings = [r] from hrings, List.erase_cons_head]
    rw [State.freeRing, hfind]
    exact herase

theorem releaseMessage_advances {m : ReleaseMsg} {r : Ring} (hdst : m.dst = s.fabid) (hrings : s.hub.rings = [r])
    (hr : r.isFor m.iss m.jidx = true) (hall : m.all = false) : ∃ t : State,
      exec (.releaseMessage m) s = .next t ∧ t.hub.rings = [{ r with cstep := m.step, ckpt := m.ckpt }] := by
  refine ⟨(s.receive (.release m)).modRing m.iss m.jidx fun g => { g with cstep := m.step, ckpt := m.ckpt }, ?_, ?_⟩
  · show execReleaseMessage m s = _
    rw [execReleaseMessage, if_neg (not_not.2 hdst), hall]
    rfl
  · have hrev := (s.receive (.release m)).modRing_rings m.iss m.jidx fun g => { g with cstep := m.step, ckpt := m.ckpt }
    rw [show (s.receive (.release m)).hub.rings = [r] from hrings, List.reverse_singleton, changeFirst, if_pos hr] at hrev
    exact List.reverse_injective hrev

theorem releaseNotice_loses {m : NoticeMsg} {x : Journal} (hq : Spec.quiet s) (hdst : m.dst = s.fabid)
    (hx : s.journal m.jidx.toNat = some x) (hpart : x.part = m.part) (hiss : x.iss = s.fabid) : ∃ t : State,
      exec (.releaseNotice m) s = .next t ∧ t.journal m.jidx.toNat = some { x with state := 3, prev := 3, sent := none } := by
  have hlose := State.losePartner_journal (s := s.receive (.notice m)) hq hx
  refine ⟨_, ?_, State.setJournal_journal (s.receive (.notice m)) m.jidx.toNat { x with state := 3, prev := 3, sent := none }⟩
  show execReleaseNotice m s = _
  rw [execReleaseNotice, if_neg (not_not.2 hdst)]
  dsimp only
  rw [show (s.receive (.notice m)).journal m.jidx.toNat = some x from hx]
  dsimp only
  rw [if_pos ⟨hpart, hiss⟩, hlose]
  exact congrArg Host.Outcome.next (State.belayPump_of_quiet hq)

/-- Records all of which are whole are read one after the other (R347). -/
theorem State.readRecs_ok {r : Ring} {step : BitVec 32} {n : Nat} {d : Nat → Packet64}
    (h : ∀ i < n, s.ringRec r (step + BitVec.ofNat 32 i) = some (d i)) :
    s.readRecs r step n = ((List.range n).map fun i => (step + BitVec.ofNat 32 i, some (d i)), s) := by
  unfold State.readRecs
  induction n with
  | zero => rfl
  | succ n ih =>
    rw [List.range_succ, List.foldl_append, ih fun i hi => h i (by omega), List.foldl_cons, List.foldl_nil, List.map_append]
    dsimp only
    rw [State.readRec_ok (h n (by omega))]
    rfl

theorem ringCopy_sends {m : CopyMsg} {r : Ring} (hdst : m.dst = s.fabid) (hrings : s.hub.rings = [r])
    (hr : r.isFor m.iss m.jidx = true) (hdone : m.done = false) (hrecs : m.recs = []) {d : Nat → Packet64}
    (hok : ∀ i < (m.tail - m.cstep).toNat, s.ringRec r (m.cstep + BitVec.ofNat 32 i) = some (d i)) : ∃ t : State,
      exec (.ringCopy m) s = .next t ∧ Spec.posted (Spec.taken s (.copy m)) t m.newp
        (.copy { m with dst := m.newp, recs := (List.range (m.tail - m.cstep).toNat).map d }) := by
  refine ⟨_, ?_, State.posted_post (s := s.receive (.copy m)) rfl rfl rfl⟩
  have hfind : (s.receive (.copy m)).hub.rings.find? (fun r => r.isFor m.iss m.jidx) = some r := by
    rw [show (s.receive (.copy m)).hub.rings = [r] from hrings, Ring.find?_only hr]
  have hread := State.readRecs_ok (s := s.receive (.copy m)) (r := r) (step := m.cstep) hok
  show execRingCopy m s = _
  rw [execRingCopy, if_neg (not_not.2 hdst)]
  dsimp only
  rw [hdone, if_neg Bool.false_ne_true, if_pos (by rw [hrecs]; rfl), hfind]
  dsimp only
  rw [hread, List.map_map]
  rfl

theorem ringCopy_stores {m : CopyMsg} {r : Ring} (hdst : m.dst = s.fabid) (hrings : s.hub.rings = [r])
    (hr : r.isFor m.iss m.jidx = true) (hdone : m.done = false) {d : Packet64} (hrecs : m.recs = [d]) (hgen : r.gen = s.gen r.slot) :
    let z := Spec.taken s (.copy m)
    ∃ t : State, exec (.ringCopy m) s = .next t ∧
      t.mem = (z.homeWrites r.acc (r.place (m.cstep + BitVec.ofNat 32 0)) (bytesOf d 64)).mem ∧
      Spec.posted z t m.iss (.copy { m with dst := m.iss, recs := [], done := true }) := by
  intro z
  let w := z.ringWrite r (m.cstep + BitVec.ofNat 32 0) d
  have hoff : w.offMemory = z.offMemory := z.homeWrites_offMemory _ _ _
  have hregs : w.hub.regs = z.hub.regs := by
    have h := congrArg (fun x : State => x.hub.regs) hoff
    exact h
  have hnet : w.net = z.net := by
    have h := congrArg State.net hoff
    exact h
  have hout : w.out = z.out := by
    have h := congrArg State.out hoff
    exact h
  refine ⟨w.post m.iss (.copy { m with dst := m.iss, recs := [], done := true }), ?_, w.post_mem _ _,
    State.posted_post (State.fabid_of_hub hregs) hnet hout⟩
  have hof : (s.receive (.copy m)).ringOf m.iss m.jidx = some r := by
    rw [State.ringOf, show (s.receive (.copy m)).hub.rings = [r] from hrings, List.reverse_singleton, Ring.find?_only hr]
  have hsome : ¬ m.recs.isEmpty = true := by
    rw [hrecs]
    exact Bool.false_ne_true
  show execRingCopy m s = _
  rw [execRingCopy, if_neg (not_not.2 hdst)]
  dsimp only
  rw [hdone, if_neg Bool.false_ne_true, if_neg hsome, hof]
  dsimp only
  rw [show (s.receive (.copy m)).gen r.slot = s.gen r.slot from rfl, if_neg (not_not.2 hgen), hrecs]
  rfl

end

/-- Settles O45: a ring is hosted or refused, a jopen bound or freed, records written, held, read back, released and copied. -/
theorem journalEvents : Obligations.JournalEvents := by
  refine ⟨fun s m hd => ⟨fun n e u hn ho hlow he hh => ringHostRequest_hosts hd (State.hostSlot_lowest hn ho hlow) he hh,
      fun hno => ringHostRequest_refuses hd (State.hostSlot_none hno)⟩,
    fun _ _ _ _ _ _ _ hd hok hj hs hb hi ha hx hp hsid hc hk hf hst hq => ringHostAnswer_binds hd hok hj hs hb hi ha hx hp hsid hc hk hf hst hq,
    fun _ _ _ _ _ hj hs hb hi hl => ringHostTimeout_frees hj hs hb hi hl,
    fun _ _ _ hd hi hr hg => journalAppend_writes hd hi hr hg,
    fun _ _ _ _ hd hq hx hs hp hok => appendAcknowledgement_holds hd hq hx hs hp hok,
    fun _ _ _ _ hd hr hg hlo hhi hrec => jrecRequest_answers hd hr hg hlo hhi hrec,
    fun _ _ _ _ _ _ _ hd hs hh hj hn hp hdue hy ho => jrecReply_lands hd hs hh hj hn hp hdue hy ho,
    fun _ _ _ hd hr hi hj => ⟨releaseMessage_frees hd hr (Ring.isFor_self hi hj), releaseMessage_advances hd hr (Ring.isFor_self hi hj)⟩,
    fun _ _ _ hq hd hx hp hi => releaseNotice_loses hq hd hx hp hi, fun s m r hd hr hi hj hdone => ?_⟩
  intro z acc at' rec'
  refine ⟨fun hrecs hok => ringCopy_sends hd hr (Ring.isFor_self hi hj) hdone hrecs fun i hi => ?_,
    fun d hrecs hgen => ringCopy_stores hd hr (Ring.isFor_self hi hj) hdone hrecs hgen⟩
  exact if_pos (hok i hi)

end Sys2Proof.Machine
end

section
/-! The commands of the work table (R366 to R371). -/

namespace Sys2Proof.Machine

section
variable {s t : State}

/-! The table: an object as it is written and read back. -/

theorem State.setWobj_wobj (i : Nat) {o : Packet64} (h : woGen o = s.gen (woSlot o)) (j : Nat) :
    (s.setWobj i o).wobj j = if j = i then o else s.wobj j := by
  have hread : Tab.get 0 (s.setWobj i o).hub.wobj j = if j = i then o else Tab.get 0 s.hub.wobj j := Tab.get_put ..
  have hgen (x : BitVec 4) : (s.setWobj i o).gen x = s.gen x := rfl
  unfold State.wobj
  dsimp only
  rw [hread, hgen]
  by_cases hj : j = i
  · simp only [if_pos hj]
    exact if_pos h
  · simp only [if_neg hj]

theorem State.setWobj_wobj_other {i j : Nat} (h : j ≠ i) (o : Packet64) : (s.setWobj i o).wobj j = s.wobj j := by
  have hread : Tab.get 0 (s.setWobj i o).hub.wobj j = Tab.get 0 s.hub.wobj j := (Tab.get_put ..).trans (if_neg h)
  have hgen (x : BitVec 4) : (s.setWobj i o).gen x = s.gen x := rfl
  unfold State.wobj
  dsimp only
  rw [hread, hgen]

/-- What reads as other than the zero form is of its slot's generation (R371). -/
theorem State.wobj_fresh {i : Nat} (h : s.wobj i ≠ 0) : woGen (s.wobj i) = s.gen (woSlot (s.wobj i)) := by
  revert h
  unfold State.wobj
  dsimp only
  split
  · next hgen => exact fun _ => hgen
  · exact fun h => absurd rfl h

theorem State.wobj_fresh_of_state {i n : Nat} (h : woState (s.wobj i) = n) (hn : n ≠ 0) :
    woGen (s.wobj i) = s.gen (woSlot (s.wobj i)) := by
  refine wobj_fresh fun h0 => hn ?_
  rw [← h, h0, woState, field_zero]

/-! The commands' results. -/

theorem State.woDone_hubReg (v : Word) (r : Nat) : (s.woDone v r).hubReg 0x7000 = setField (setField v 44 4 r) 63 1 0 :=
  (setHubReg_hubReg _ _ _ _).trans (if_pos rfl)

theorem woRes_woDone (s : State) (v : Word) {r : Nat} (h : r < 16) : Spec.woRes (s.woDone v r) r := by
  unfold Spec.woRes
  rw [State.woDone_hubReg, field_setField_other _ (.inl (by decide)), field_setField_same _ (by decide)]
  exact Nat.mod_eq_of_lt h

theorem State.woDone_wobj (s : State) (v : Word) (r i : Nat) : (s.woDone v r).wobj i = s.wobj i := rfl

/-- A command word with no reserved bit is performed (R367). -/
theorem woCommand_runs {v : Word} {op : Nat} (h : Spec.woCommand v op) (s x : State) :
    (if woReserved v = true ∨ field v 60 3 ≠ op then s else x) = x := by
  obtain ⟨hzero, hop⟩ := h
  refine if_neg ?_
  rintro (hres | hne)
  · rw [woReserved, hzero] at hres
    exact Bool.false_ne_true hres
  · exact hne hop

/-! Create (R367). -/

theorem woMade_eq (w : Packet64) : woMade w =
    setField (setField (setField (setField (setField w 198 3 1) 272 24 0) 225 1 0) 226 1 (if woKind w = 0 then 1 else 0)) 240 32
      (if woKind w = 0 then field w 296 24 else 0) := by
  unfold woMade
  split <;> rfl

/-- SLOT and GEN are the image's. -/
theorem woMade_slot (w : Packet64) : woSlot (woMade w) = woSlot w ∧ woGen (woMade w) = woGen w := by
  rw [woMade_eq]
  unfold woSlot woGen
  constructor <;>
    rw [extractLsb'_setField_other _ (by decide), extractLsb'_setField_other _ (by decide), extractLsb'_setField_other _ (by decide),
      extractLsb'_setField_other _ (by decide), extractLsb'_setField_other _ (by decide)]

/-- The object is live, of the image's kind, with its counts cleared, and sealed where it is a launch (R367). -/
theorem woMade_fields (w : Packet64) : woState (woMade w) = 1 ∧ woKind (woMade w) = woKind w ∧ woNfail (woMade w) = 0 ∧
    (woMade w).getLsbD 225 = false ∧ ((woMade w).getLsbD 226 = true ↔ woKind w = 0) ∧
    woPend (woMade w) = if woKind w = 0 then field w 296 24 else 0 := by
  rw [woMade_eq]
  refine ⟨?_, ?_, ?_, ?_, ?_, ?_⟩
  · rw [woState, field_setField_other _ (by decide), field_setField_other _ (by decide), field_setField_other _ (by decide),
      field_setField_other _ (by decide), field_setField_same _ (by decide)]
    rfl
  · rw [woKind, field_setField_other _ (by decide), field_setField_other _ (by decide), field_setField_other _ (by decide),
      field_setField_other _ (by decide), field_setField_other _ (by decide)]
    rfl
  · rw [woNfail, field_setField_other _ (by decide), field_setField_other _ (by decide), field_setField_other _ (by decide),
      field_setField_same _ (by decide), Nat.zero_mod]
  · rw [getLsbD_setField_other _ (by decide), getLsbD_setField_other _ (by decide), getLsbD_setField_bit _ (by decide)]
    rfl
  · rw [getLsbD_setField_other _ (by decide), getLsbD_setField_bit _ (by decide)]
    by_cases h : woKind w = 0 <;> simp [h]
  · rw [woPend, field_setField_same _ (by decide)]
    split
    · exact Nat.mod_eq_of_lt (Nat.lt_trans (field_lt w 296 24) (by decide))
    · rfl

theorem State.fresh_of_not_refused {w : Packet64} (h : s.woRefused w = false) : woGen w = s.gen (woSlot w) := by
  simp only [State.woRefused, Bool.or_eq_false_iff, bne_eq_false_iff_eq] at h
  exact h.1.2

theorem woCreate_makes {v : Word} (hv : Spec.woCommand v 1) (hfree : woState (s.wobj (woIdx v)) = 0)
    (himg : s.woRefused s.hub.wostage = false) : ∃ t : State, exec (.woCreate v) s = .next t ∧ Spec.woRes t 0 ∧
    t.wobj (woIdx v) = woMade s.hub.wostage := by
  have hrun : s.woCreate v = (s.setWobj (woIdx v) (woMade s.hub.wostage)).woDone v 0 :=
    (if_neg (not_not.2 hfree)).trans (if_neg (by rw [himg]; exact Bool.false_ne_true))
  refine ⟨_, congrArg Host.Outcome.next ((woCommand_runs hv s _).trans hrun), woRes_woDone _ v (by decide), ?_⟩
  obtain ⟨hslot, hgen⟩ := woMade_slot s.hub.wostage
  rw [State.woDone_wobj, State.setWobj_wobj, if_pos rfl]
  rw [hslot, hgen, State.fresh_of_not_refused himg]

theorem woCreate_refuses {v : Word} (hv : Spec.woCommand v 1) (hfree : woState (s.wobj (woIdx v)) = 0)
    (himg : s.woRefused s.hub.wostage = true) : ∃ t : State, exec (.woCreate v) s = .next t ∧ Spec.woRes t 2 ∧
    t.hub.wobj = s.hub.wobj := by
  have hrun : s.woCreate v = s.woDone v 2 := (if_neg (not_not.2 hfree)).trans (if_pos himg)
  exact ⟨_, congrArg Host.Outcome.next ((woCommand_runs hv s _).trans hrun), woRes_woDone _ v (by decide), rfl⟩

/-- A command that finds its object in another state reports 1 and changes no object (R367). -/
theorem woCommand_wrong {i : Instr} {v : Word} {op : Nat} (hv : Spec.woCommand v op) {x : State}
    (hexec : exec i s = .next (if woReserved v = true ∨ field v 60 3 ≠ op then s else x)) (hrun : x = s.woDone v 1) :
    ∃ t : State, exec i s = .next t ∧ Spec.woRes t 1 ∧ t.hub.wobj = s.hub.wobj :=
  ⟨_, hexec.trans (congrArg Host.Outcome.next ((woCommand_runs hv s _).trans hrun)), woRes_woDone _ v (by decide), rfl⟩

/-! An object's count falls (R368, R369). -/

theorem State.Told.work {s t : State} (h : State.Told s t) : t.work = s.work := by
  cases h with
  | tasks lobj slot gen => rfl
  | sem core n v => exact work_of_hub (s.addSem_hub core n v)
  | signal l => rfl
  | item x f => rfl

theorem State.endTasks_work (s : State) (i : Nat) (o : Packet64) : (s.endTasks i o).2.work = s.work :=
  endTasks_rule (R := fun s t => t.work = s.work) (fun _ => rfl) (fun _ _ h => h.work) s i o

theorem State.woNotify_work (s : State) (i : Nat) (o : Packet64) : (s.woNotify i o).work = s.work :=
  woNotify_rule (R := fun s t => t.work = s.work) (fun _ => rfl) (fun _ _ _ h h' => h'.trans h) (fun _ _ h => h.work) s i o

/-- What every change of a count keeps, the count keeps. -/
theorem State.woDec_keeps {P : State → Prop} (hwork : ∀ s t : State, t.work = s.work → P s → P t)
    (hset : ∀ (s : State) (j : Nat) (o : Packet64), woState (s.wobj j) = 1 → woKeeps (s.wobj j) o → P s → P (s.setWobj j o))
    {s : State} (hs : P s) (i : Nat) (fails : Bool) (fuel : Nat) : P (s.woDec i fails fuel) :=
  woDec_rule (R := fun s t => P s → P t) (fun _ h => h) (fun _ _ _ h h' hs => h' (h hs)) (fun s t h => hwork s t h.work) hset s i fails fuel hs

/-- An object that is not live stays as it is, whatever ends below it. -/
theorem State.woDec_wobj_of_not_live {i : Nat} (h : woState (s.wobj i) ≠ 1) (j : Nat) (fails : Bool) (fuel : Nat) :
    (s.woDec j fails fuel).wobj i = s.wobj i := by
  refine State.woDec_keeps (P := fun x => x.wobj i = s.wobj i) (fun x y hwork hx => (wobj_of_work hwork i).trans hx)
    (fun x j o hlive _ hx => ?_) rfl j fails fuel
  refine (setWobj_wobj_other ?_ o).trans hx
  rintro rfl
  exact h (hx ▸ hlive)

/-- The last of a sealed object's units ends: it completes (R369). -/
theorem State.woDec_last {i n : Nat} (hlive : woState (s.wobj i) = 1) (hsealed : (s.wobj i).getLsbD 226 = true)
    (hpend : woPend (s.wobj i) = 1) :
    woState ((s.woDec i false (n + 1)).wobj i) = 2 ∧ ((s.woDec i false (n + 1)).wobj i).getLsbD 226 = true := by
  obtain ⟨o1, ho1⟩ : ∃ o1, o1 = setField (woFail (s.wobj i) (if false = true then 1 else 0)) 240 32 (woPend (s.wobj i) - 1) := ⟨_, rfl⟩
  have hkeep : woKeeps (s.wobj i) o1 :=
    ho1 ▸ woKeeps_setField (woKeeps_woFail (woKeeps_refl _) _) (by decide) (.inr (by decide)) _
  have hseal1 : o1.getLsbD 226 = true := by
    rw [ho1, getLsbD_setField_other _ (.inl (by decide)), woFail, getLsbD_setField_other _ (.inl (by decide)), hsealed]
  have hpend1 : woPend o1 = 0 := by
    rw [ho1, woPend, field_setField_same _ (by decide), hpend]
    rfl
  obtain ⟨o2, ho2⟩ : ∃ o2, o2 = woFail (setField o1 198 3 2) (s.endTasks i (s.wobj i)).1 := ⟨_, rfl⟩
  have hkeep2 : woKeeps (s.wobj i) o2 := ho2 ▸ woKeeps_woFail (woKeeps_setField hkeep (by decide) (.inl (by decide)) _) _
  have hstate2 : woState o2 = 2 := by
    rw [ho2, woState, woFail, field_setField_other _ (.inl (by decide)), field_setField_same _ (by decide)]
    rfl
  have hseal2 : o2.getLsbD 226 = true := by
    rw [ho2, woFail, getLsbD_setField_other _ (.inl (by decide)), getLsbD_setField_other _ (.inr (by decide)), hseal1]
  obtain ⟨u, hu⟩ : ∃ u, u = ((s.endTasks i (s.wobj i)).2.setWobj i o2).woNotify i o2 := ⟨_, rfl⟩
  have hread : u.wobj i = o2 := by
    rw [hu, wobj_of_work (State.woNotify_work _ _ _), setWobj_wobj, if_pos rfl]
    rw [hkeep2.1, hkeep2.2.1, wobj_fresh_of_state hlive (by decide)]
    exact congrArg (fun x : Tab TSlot => (Tab.get {} x (woSlot (s.wobj i)).toNat).gen)
      (Prod.mk.inj (s.endTasks_work i (s.wobj i))).2.symm
  have hrun : s.woDec i false (n + 1) =
      if o2.getLsbD 227 = true then u.woDec (field o2 228 12) (woNfail o2 != 0 || o2.getLsbD 225) n else u := by
    rw [State.woDec]
    dsimp only
    rw [if_neg (not_not.2 hlive), ← ho1, if_neg (by simp [hseal1, hpend1]), ← ho2, ← hu]
  have hfinal : (s.woDec i false (n + 1)).wobj i = o2 := by
    rw [hrun]
    split
    · rw [woDec_wobj_of_not_live (by rw [hread, hstate2]; decide), hread]
    · exact hread
  rw [hfinal]
  exact ⟨hstate2, hseal2⟩

/-! The end of a unit leaves the table to the counts (R378). -/

/-- What is told of the hub and the contexts by all but the cores, the dies and memory. -/
theorem State.work_of_offMemory (h : t.offMemory = s.offMemory) : t.work = s.work ∧ ∀ ci, t.ctx ci = s.ctx ci := by
  have hhub := congrArg State.hub h
  have hctxs : t.ctxs = s.ctxs := by
    have e := congrArg State.ctxs h
    exact e
  refine ⟨work_of_hub hhub, fun ci => ?_⟩
  unfold State.ctx
  rw [hctxs]

theorem State.rollback_work (s : State) (ci : Nat) : (s.rollback ci).work = s.work := by
  obtain ⟨y, d, hroll, _, hkeep⟩ := State.rollback_keeps (v := State.work) (fun s t h => by
    cases h with
    | sem core n v => exact work_of_hub (s.addSem_hub core n v)
    | _ => rfl) s ci
  rw [hroll]
  exact hkeep

theorem State.leaveCore_work (s : State) (ci start : Nat) : (s.leaveCore ci start).work = s.work := by
  unfold State.leaveCore
  dsimp only
  split
  · exact work_of_hub (State.switchFrom_hub _ _ _)
  · rfl

theorem State.retireCmd_offMemory (s : State) (core q stat : Nat) : (s.retireCmd core q stat).offMemory = s.offMemory := by
  unfold State.retireCmd
  dsimp only
  split
  · rfl
  · exact (State.modCore_offMemory _ _ _).trans ((State.homeWrites_offMemory _ _ _ _).trans (s.homeWrite_offMemory _ _))

theorem State.dropFated_offMemory (s : State) (core q n : Nat) : (s.dropFated core q n).offMemory = s.offMemory := by
  induction n generalizing s with
  | zero => rfl
  | succ n ih =>
    unfold State.dropFated
    split
    · split
      · exact (ih _).trans (s.retireCmd_offMemory core q _)
      · rfl
    · rfl

theorem State.dropCommands_offMemory (s : State) (core : Nat) (own : Claim → Bool) :
    (s.dropCommands core own).offMemory = s.offMemory := by
  unfold State.dropCommands
  refine foldl_keeps (v := State.offMemory) (fun x q => ?_) _ s
  exact (State.dropFated_offMemory _ _ _ _).trans (State.modCore_offMemory _ _ _)

/-- The commands of a unit that are dropped change no entry of the table and no context's state. -/
theorem State.dropOf_keeps (s : State) (core : Nat) (lobj : BitVec 12) (uid : BitVec 32) (lid : Word) :
    (s.dropOf core lobj uid lid).work = s.work ∧ ∀ ci, ((s.dropOf core lobj uid lid).ctx ci).st = (s.ctx ci).st := by
  unfold State.dropOf
  extract_lets mark s1
  obtain ⟨hwork, hctx⟩ := State.work_of_offMemory (s1.dropCommands_offMemory core fun k => k.lobj == lobj && k.uid == uid && k.lid == lid)
  have hmarked : s1.work = s.work := foldl_keeps (v := State.work) (f := fun x i => x.modCtx (4 * core + i) fun c =>
    { c with path := c.path.map mark }) (fun _ _ => rfl) (List.range 4) s
  refine ⟨hwork.trans hmarked, fun ci => ?_⟩
  rw [hctx]
  refine foldl_keeps (v := fun x : State => (x.ctx ci).st) (f := fun x i => x.modCtx (4 * core + i) fun c =>
    { c with path := c.path.map mark }) (fun x i => ?_) (List.range 4) s
  rw [State.modCtx_ctx]
  split
  · next h => rw [h]
  · rfl

/-- Where a unit ends its context is free, and one that is not ready stays as it is (R378). -/
theorem State.endUnit_st {ci : Nat} (h : (s.ctx ci).st ≠ .ready) (cj rst : Nat) (exit : Word) (fails : Bool) :
    ((s.endUnit cj rst exit fails).ctx ci).st = if ci = cj then .free else (s.ctx ci).st := by
  by_cases hsame : ci = cj
  · rw [if_pos hsame, hsame]
    exact (s.endUnit_ends cj rst exit fails).2
  · rw [if_neg hsame]
    by_cases hfree : (s.ctx cj).st = .free
    · rw [show s.endUnit cj rst exit fails = s from if_pos hfree]
    · unfold State.endUnit
      dsimp only
      rw [if_neg hfree]
      generalize (if rst = 4 then setField (setField (s.row (cj / 4) (cj % 4)) 0 4 rst) 64 64 exit.toNat
        else setField (s.row (cj / 4) (cj % 4)) 0 4 rst) = r
      generalize hz : State.modCore ((s.setRow (cj / 4) (cj % 4) r).setCtx cj _) (cj / 4) _ = z
      have hctx : z.ctx ci = s.ctx ci := by
        rw [← hz, State.modCore_ctx, State.setCtx_ctx, if_neg hsame]
        rfl
      have hleave : (z.leaveCore cj (s.cycle + 1)).ctx ci = s.ctx ci := (State.leaveCore_ctx (by rw [hctx]; exact h)).trans hctx
      split
      · rw [(State.quiet_woDec _ _ _ _).ctx, hleave]
      · rw [hleave]

theorem State.rollback_st (s : State) (ci cj : Nat) : ((s.rollback cj).ctx ci).st = (s.ctx ci).st := by
  obtain ⟨y, d, hroll, hst, hkeep⟩ := State.rollback_keeps (v := State.ctxs) (fun s t h => by cases h <;> rfl) s cj
  rw [hroll, State.setCtx_ctx]
  split
  · next hsame => rw [hst, hsame]
  · exact congrArg (fun x : Tab Ctx => (Tab.get {} x ci).st) hkeep

theorem State.killUnit_st {ci : Nat} (h : (s.ctx ci).st ≠ .ready) (cj : Nat) :
    ((s.killUnit cj).ctx ci).st = if ci = cj then .free else (s.ctx ci).st := by
  by_cases hfree : (s.ctx cj).st = .free
  · rw [show s.killUnit cj = s from if_pos hfree]
    split
    · next hsame => rw [hsame, hfree]
    · rfl
  · rw [show s.killUnit cj = (s.rollback cj).endUnit cj 5 0 true from if_neg hfree,
      State.endUnit_st (by rw [State.rollback_st]; exact h), State.rollback_st]

/-- A unit stopped by a cancellation leaves its context free, and one that is not ready stays as it is (R370). -/
theorem State.killCancelled_st {ci : Nat} (h : (s.ctx ci).st ≠ .ready) (cj : Nat) :
    ((s.killCancelled cj).ctx ci).st = if ci = cj then .free else (s.ctx ci).st := by
  unfold State.killCancelled
  rw [(State.dropOf_keeps _ _ _ _ _).2, State.killUnit_st h]

/-! The mark of a cancellation (R370). -/

/-- Object i has been cancelled. -/
def State.marked (i : Nat) (s : State) : Prop := (s.wobj i).getLsbD 225 = true

theorem State.marked_of_work {i : Nat} (h : t.work = s.work) (hs : s.marked i) : t.marked i := by
  unfold State.marked
  rw [wobj_of_work h]
  exact hs

theorem State.marked_woDec {i : Nat} (hs : s.marked i) (j : Nat) (fails : Bool) (fuel : Nat) : (s.woDec j fails fuel).marked i := by
  refine State.woDec_keeps (P := State.marked i) (fun x y hwork hx => marked_of_work hwork hx) (fun x j o hlive hkeep hx => ?_) hs j fails fuel
  obtain ⟨hgen, hslot, hmark⟩ := hkeep
  unfold State.marked
  rw [State.setWobj_wobj j (by rw [hgen, hslot]; exact wobj_fresh_of_state hlive (by decide))]
  split
  · next hj =>
    rw [hmark, ← hj]
    exact hx
  · exact hx

theorem State.marked_endUnit {i : Nat} (hs : s.marked i) (ci rst : Nat) (exit : Word) (fails : Bool) :
    (s.endUnit ci rst exit fails).marked i := by
  by_cases hfree : (s.ctx ci).st = .free
  · rw [show s.endUnit ci rst exit fails = s from if_pos hfree]
    exact hs
  · unfold State.endUnit
    dsimp only
    rw [if_neg hfree]
    generalize hz : State.modCore (State.setCtx _ ci _) (ci / 4) _ = z
    have hwork : z.work = s.work := by
      rw [← hz]
      rfl
    have hleave : (z.leaveCore ci (s.cycle + 1)).marked i := marked_of_work ((z.leaveCore_work _ _).trans hwork) hs
    split
    · exact marked_woDec hleave _ _ _
    · exact hleave

theorem State.marked_killCancelled {i : Nat} (hs : s.marked i) (ci : Nat) : (s.killCancelled ci).marked i := by
  refine marked_of_work (State.dropOf_keeps _ _ _ _ _).1 ?_
  unfold State.killUnit
  split
  · exact hs
  · exact marked_endUnit (marked_of_work (s.rollback_work ci) hs) _ _ _ _

/-! Cancel (R370), in its steps. -/

/-- Every member of a list descends from it. -/
theorem State.mem_woTree {l : List Nat} {i : Nat} (h : i ∈ l) (n : Nat) : i ∈ s.woTree n l := by
  induction n generalizing l with
  | zero => exact h
  | succ n ih =>
    unfold State.woTree
    dsimp only
    split
    · exact h
    · exact ih (List.mem_append_left _ h)

/-- The mark is set in an object. -/
def State.cancelMark (s : State) (k : Nat) : State := s.setWobj k (setField (s.wobj k) 225 1 1)
/-- A context whose unit is cancelled: one that waits is killed, another at its next point. -/
def State.cancelCtx (s : State) (ci : Nat) : State :=
  match (s.ctx ci).st with
  | .blocked _ => s.killCancelled ci
  | .stopped => s.killCancelled ci
  | _ => s.modCtx ci fun c => { c with cancel := true }
/-- The saved units and pending entries of cancelled launches on a core. -/
def State.cancelCore (l : List (Nat × BitVec 4)) (s : State) (core : Nat) : State :=
  let hit := (s.core core).units.filter fun u => !u.restored && l.any fun l => l.1 == u.lobj.toNat && l.2 == u.slot
  (hit.foldl (fun y u => (y.killSaved core u).dropOf core u.lobj u.uid u.lid) s).cancelPending core l
/-- The objects a cancel marks. -/
def State.cancelled (s : State) (i : Nat) : List Nat := (s.woTree woMax [i]).filter fun k => woState (s.wobj k) == 1
/-- The launches among them. -/
def State.cancelledLaunches (s : State) (i : Nat) : List (Nat × BitVec 4) :=
  ((s.cancelled i).filter fun k => woKind (s.wobj k) == 0).map fun k => (k, woSlot (s.wobj k))

theorem State.woCancelAt_eq (s : State) (i : Nat) : s.woCancelAt i =
    let s1 := (s.cancelled i).foldl State.cancelMark s
    let s2 := (s.cancelledLaunches i).foldl (fun x l => (x.removeTasks (BitVec.ofNat 12 l.1) l.2 (x.gen l.2)).2) s1
    let s3 := ((s.ctxs.map (·.1)).filter fun ci => s.unitOf (s.cancelledLaunches i) ci).foldl State.cancelCtx s2
    (s3.cores.map (·.1)).foldl (State.cancelCore (s.cancelledLaunches i)) s3 := rfl

theorem State.mem_cancelled {i : Nat} (hlive : woState (s.wobj i) = 1) : i ∈ s.cancelled i :=
  List.mem_filter.2 ⟨s.mem_woTree (List.mem_singleton.2 rfl) woMax, by simp [hlive]⟩

/-- What one step of a fold makes true, where all of them keep it. -/
theorem foldl_makes {α : Type} {f : State → α → State} {P Q : State → Prop} (hP : ∀ s x, P s → P (f s x))
    (hQ : ∀ s x, Q s → Q (f s x)) {a : α} (ha : ∀ s, P s → Q (f s a)) {l : List α} (hl : a ∈ l) {s : State} (hs : P s) : Q (l.foldl f s) := by
  obtain ⟨l1, l2, rfl⟩ := List.append_of_mem hl
  rw [List.foldl_append, List.foldl_cons]
  refine List.foldlRecOn l2 f (ha _ (List.foldlRecOn l1 f hs fun x hx b _ => hP x b hx)) fun x hx b _ => hQ x b hx

/-- A predicate that every step of a fold keeps. -/
theorem foldl_invariant {α : Type} {f : State → α → State} {P : State → Prop} (hP : ∀ s x, P s → P (f s x)) (l : List α) {s : State}
    (hs : P s) : P (l.foldl f s) := List.foldlRecOn l f hs fun x hx b _ => hP x b hx

theorem State.cancelMark_marks {i : Nat} (hlive : woState (s.wobj i) = 1) : (s.cancelMark i).marked i := by
  have hfresh := wobj_fresh_of_state hlive (by decide)
  unfold State.marked State.cancelMark
  rw [State.setWobj_wobj i, if_pos rfl, getLsbD_setField_bit _ (by decide)]
  · rfl
  · rw [woGen, woSlot, extractLsb'_setField_other _ (.inl (by decide)), extractLsb'_setField_other _ (.inl (by decide))]
    exact hfresh

theorem State.cancelMark_live {i : Nat} (hlive : woState (s.wobj i) = 1) (k : Nat) : woState ((s.cancelMark k).wobj i) = 1 := by
  unfold State.cancelMark
  by_cases hk : i = k
  · have hfresh := wobj_fresh_of_state hlive (by decide)
    rw [← hk, State.setWobj_wobj i, if_pos rfl, woState, field_setField_other _ (.inl (by decide))]
    · exact hlive
    · rw [woGen, woSlot, extractLsb'_setField_other _ (.inl (by decide)), extractLsb'_setField_other _ (.inl (by decide))]
      exact hfresh
  · rw [State.setWobj_wobj_other hk]
    exact hlive

theorem State.cancelMark_keeps {i : Nat} (h : woState (s.wobj i) = 1 ∧ s.marked i) (k : Nat) :
    woState ((s.cancelMark k).wobj i) = 1 ∧ (s.cancelMark k).marked i := by
  obtain ⟨hlive, hmark⟩ := h
  refine ⟨cancelMark_live hlive k, ?_⟩
  by_cases hk : i = k
  · rw [← hk]
    exact cancelMark_marks hlive
  · unfold State.marked State.cancelMark
    rw [State.setWobj_wobj_other hk]
    exact hmark

theorem State.marked_cancelCtx {i : Nat} (hs : s.marked i) (ci : Nat) : (s.cancelCtx ci).marked i := by
  unfold State.cancelCtx
  split
  · exact marked_killCancelled hs ci
  · exact marked_killCancelled hs ci
  · exact hs

theorem State.marked_killSaved {i : Nat} (hs : s.marked i) (core : Nat) (w : SavedUnit) : (s.killSaved core w).marked i := by
  unfold State.killSaved
  extract_lets s1 r s2
  have hrow : s2.work = s.work := by
    have h1 : s1.work = s.work := rfl
    have h2 : s2.work = s1.work := by
      unfold s2
      split <;> rfl
    exact h2.trans h1
  clear_value s2
  exact marked_woDec (marked_of_work hrow hs) _ _ _

theorem State.marked_cancelPending {i : Nat} (hs : s.marked i) (core : Nat) (l : List (Nat × BitVec 4)) :
    (s.cancelPending core l).marked i := by
  unfold State.cancelPending
  extract_lets hit gone s1
  have h1 : s1.work = s.work := rfl
  clear_value s1 gone
  refine foldl_invariant (P := State.marked i) (fun x k hx => marked_woDec (marked_of_work ?_ hx) _ _ _) gone (marked_of_work h1 hs)
  rfl

theorem State.cancelPending_ctx (s : State) (core : Nat) (l : List (Nat × BitVec 4)) (ci : Nat) :
    (s.cancelPending core l).ctx ci = s.ctx ci := by
  unfold State.cancelPending
  extract_lets hit gone s1
  refine (foldl_keeps (v := fun x : State => x.ctx ci) (fun x k => ?_) gone s1).trans rfl
  exact ((State.quiet_setRow x core k _).trans (State.quiet_woDec _ _ _ _)).ctx ci

theorem State.marked_cancelCore {i : Nat} (l : List (Nat × BitVec 4)) (hs : s.marked i) (core : Nat) : (s.cancelCore l core).marked i :=
  marked_cancelPending (foldl_invariant (P := State.marked i) (fun _ w hx =>
    marked_of_work (State.dropOf_keeps _ _ _ _ _).1 (marked_killSaved hx core w)) _ hs) core l

theorem State.cancelCore_st (l : List (Nat × BitVec 4)) (s : State) (core ci : Nat) : ((s.cancelCore l core).ctx ci).st = (s.ctx ci).st := by
  unfold State.cancelCore
  rw [State.cancelPending_ctx]
  refine foldl_keeps (v := fun x : State => (x.ctx ci).st) (fun x w => ?_) _ s
  rw [(State.dropOf_keeps _ _ _ _ _).2, (x.quiet_killSaved core w).ctx]

/-- A context that waits and is no longer ready: it is blocked or free. -/
def Ctx.waits (c : Ctx) : Prop := c.st = .free ∨ ∃ b, c.st = .blocked b

theorem Ctx.waits_not_ready {c : Ctx} (h : c.waits) : c.st ≠ .ready := by
  rcases h with h | ⟨b, h⟩ <;> rw [h] <;> exact fun e => nomatch e

theorem State.cancelCtx_st {ci : Nat} (h : (s.ctx ci).waits) (cj : Nat) :
    ((s.cancelCtx cj).ctx ci).st = if ci = cj then .free else (s.ctx ci).st := by
  have hready := Ctx.waits_not_ready h
  unfold State.cancelCtx
  split
  · exact killCancelled_st hready cj
  · exact killCancelled_st hready cj
  · next hblocked hstopped =>
    rw [State.modCtx_ctx]
    split
    · next hsame =>
      rcases h with h | ⟨b, h⟩
      · rw [← hsame]
        exact h
      · rw [hsame] at h
        exact absurd h (hblocked b)
    · rfl

theorem State.cancelCtx_waits {ci : Nat} (h : (s.ctx ci).waits) (cj : Nat) : ((s.cancelCtx cj).ctx ci).waits := by
  have hst := cancelCtx_st h cj
  unfold Ctx.waits
  rw [hst]
  split
  · exact .inl rfl
  · exact h

theorem State.cancelCtx_free {ci : Nat} (h : (s.ctx ci).st = .free) (cj : Nat) : ((s.cancelCtx cj).ctx ci).st = .free := by
  rw [cancelCtx_st (.inl h)]
  split
  · rfl
  · exact h

theorem State.woCancelAt_marks {i : Nat} (hlive : woState (s.wobj i) = 1) : (s.woCancelAt i).marked i := by
  rw [State.woCancelAt_eq]
  extract_lets s1 s2 s3
  have h1 : s1.marked i := (foldl_makes (P := fun x : State => woState (x.wobj i) = 1)
    (Q := fun x => woState (x.wobj i) = 1 ∧ x.marked i) (fun x k hx => cancelMark_live hx k) (fun x k hx => cancelMark_keeps hx k)
    (fun x hx => ⟨cancelMark_live hx i, cancelMark_marks hx⟩) (mem_cancelled hlive) hlive).2
  have h2 : s2.marked i := foldl_invariant (P := State.marked i) (fun x l hx => marked_of_work (t := (x.removeTasks _ _ _).2) rfl hx) _ h1
  have h3 : s3.marked i := foldl_invariant (P := State.marked i) (fun x ci hx => marked_cancelCtx hx ci) _ h2
  exact foldl_invariant (P := State.marked i) (fun _ core hx => marked_cancelCore _ hx core) _ h3

/-- The units of a cancelled launch's blocked contexts are killed (R370). -/
theorem State.woCancelAt_frees {i ci : Nat} {b : BlockPoint} (hlive : woState (s.wobj i) = 1) (hlaunch : woKind (s.wobj i) = 0)
    (hblocked : (s.ctx ci).st = .blocked b) (hunit : Spec.unitIn s ci i (woSlot (s.wobj i))) :
    ((s.woCancelAt i).ctx ci).st = .free := by
  obtain ⟨hobj, hslot⟩ := hunit
  have hmem : ci ∈ (s.ctxs.map (·.1)).filter fun ci => s.unitOf (s.cancelledLaunches i) ci := by
    refine List.mem_filter.2 ⟨?_, ?_⟩
    · by_contra h
      have hnone : s.ctx ci = {} := Tab.get_of_not_mem h
      rw [hnone] at hblocked
      cases hblocked
    · have hin : (i, woSlot (s.wobj i)) ∈ s.cancelledLaunches i :=
        List.mem_map.2 ⟨i, List.mem_filter.2 ⟨mem_cancelled hlive, by simp [hlaunch]⟩, rfl⟩
      simp only [State.unitOf, hblocked, Bool.and_eq_true, List.any_eq_true]
      refine ⟨rfl, _, hin, ?_⟩
      simp [hobj, hslot]
  rw [State.woCancelAt_eq]
  extract_lets s1 s2 s3
  have h1 : s1.ctxs = s.ctxs := foldl_keeps (v := State.ctxs) (f := State.cancelMark) (fun _ _ => rfl) _ s
  have h2 : s2.ctxs = s.ctxs := (foldl_keeps (v := State.ctxs)
    (f := fun x (l : Nat × BitVec 4) => (x.removeTasks (BitVec.ofNat 12 l.1) l.2 (x.gen l.2)).2) (fun _ _ => rfl) _ s1).trans h1
  have hwait : (s2.ctx ci).waits := by
    have h : s2.ctx ci = s.ctx ci := by
      unfold State.ctx
      rw [h2]
    rw [h]
    exact .inr ⟨b, hblocked⟩
  have h3 : (s3.ctx ci).st = .free := foldl_makes (P := fun x : State => (x.ctx ci).waits) (Q := fun x => (x.ctx ci).st = .free)
    (fun x cj hx => cancelCtx_waits hx cj) (fun x cj hx => cancelCtx_free hx cj)
    (fun x hx => (cancelCtx_st hx ci).trans (if_pos rfl)) hmem hwait
  exact (foldl_keeps (v := fun x : State => (x.ctx ci).st) (fun x core => State.cancelCore_st _ x core ci) _ s3).trans h3

/-! The commands on a live or done object (R367 to R371). -/

theorem woSeal_seals {v : Word} (hv : Spec.woCommand v 2) (hlive : woState (s.wobj (woIdx v)) = 1) :
    ∃ t : State, exec (.woSeal v) s = .next t ∧ Spec.woRes t 0 ∧ (t.wobj (woIdx v)).getLsbD 226 = true ∧
      woState (t.wobj (woIdx v)) = if woPend (s.wobj (woIdx v)) = 0 then 2 else 1 := by
  generalize hi : woIdx v = i at hlive ⊢
  have hrun : s.woSealCmd v = (s.woSealAt i).woDone v 0 := by
    rw [← hi] at hlive ⊢
    exact if_neg (not_not.2 hlive)
  refine ⟨_, congrArg Host.Outcome.next ((woCommand_runs hv s _).trans hrun), woRes_woDone _ v (by decide), ?_⟩
  rw [State.woDone_wobj]
  have hfresh := State.wobj_fresh_of_state hlive (by decide)
  obtain ⟨o, ho⟩ : ∃ o, o = setField (s.wobj i) 226 1 1 := ⟨_, rfl⟩
  have hkeep : woKeeps (s.wobj i) o := ho ▸ woKeeps_setField (woKeeps_refl _) (by decide) (.inr (by decide)) _
  have hsealed : o.getLsbD 226 = true := by
    rw [ho, getLsbD_setField_bit _ (by decide)]
    rfl
  have hstate : woState o = 1 := by rw [ho, woState, field_setField_other _ (.inl (by decide)), ← woState, hlive]
  have hpend : woPend o = woPend (s.wobj i) := by rw [ho, woPend, field_setField_other _ (.inr (by decide)), ← woPend]
  have hread {o' : Packet64} (h : woKeeps (s.wobj i) o') : (s.setWobj i o').wobj i = o' := by
    obtain ⟨hgen, hslot, _⟩ := h
    rw [State.setWobj_wobj i (by rw [hgen, hslot, hfresh]), if_pos rfl]
  have hseal : s.woSealAt i =
      if woPend o = 0 then (s.setWobj i (setField o 240 32 1)).woDec i false (4095 + 1) else s.setWobj i o := by
    rw [ho]
    rfl
  rw [hseal, ← hpend]
  by_cases h0 : woPend o = 0
  · rw [if_pos h0, if_pos h0]
    have hone := hread (woKeeps_setField hkeep (lo := 240) (n := 32) (by decide) (.inr (by decide)) 1)
    refine (State.woDec_last ?_ ?_ ?_).symm
    · rw [hone, woState, field_setField_other _ (.inl (by decide))]
      exact hstate
    · rw [hone, getLsbD_setField_other _ (.inl (by decide)), hsealed]
    · rw [hone, woPend, field_setField_same _ (by decide)]
      rfl
  · rw [if_neg h0, if_neg h0, hread hkeep]
    exact ⟨hsealed, hstate⟩

theorem woAdd_adds {v : Word} (hv : Spec.woCommand v 3) (hlive : woState (s.wobj (woIdx v)) = 1)
    (hopen : (s.wobj (woIdx v)).getLsbD 226 = false) : ∃ t : State, exec (.woAdd v) s = .next t ∧ Spec.woRes t 0 ∧
    woPend (t.wobj (woIdx v)) = min (woPend (s.wobj (woIdx v)) + field v 0 32) (2 ^ 32 - 1) := by
  generalize hn : min (woPend (s.wobj (woIdx v)) + field v 0 32) (2 ^ 32 - 1) = n
  have hfit : n % 2 ^ 32 = n := Nat.mod_eq_of_lt (by omega)
  have hrun : s.woAddCmd v = (s.setWobj (woIdx v) (setField (s.wobj (woIdx v)) 240 32 n)).woDone v 0 := by
    rw [← hn]
    refine if_neg ?_
    rintro (h | h)
    · exact h hlive
    · rw [hopen] at h
      exact Bool.false_ne_true h
  refine ⟨_, congrArg Host.Outcome.next ((woCommand_runs hv s _).trans hrun), woRes_woDone _ v (by decide), ?_⟩
  obtain ⟨hgen, hslot, _⟩ : woKeeps (s.wobj (woIdx v)) (setField (s.wobj (woIdx v)) 240 32 n) :=
    woKeeps_setField (woKeeps_refl _) (by decide) (.inr (by decide)) _
  rw [State.woDone_wobj, State.setWobj_wobj _ (by rw [hgen, hslot, State.wobj_fresh_of_state hlive (by decide)]), if_pos rfl, woPend,
    field_setField_same _ (by decide), hfit]

theorem woCancel_cancels {v : Word} (hv : Spec.woCommand v 4) (hlive : woState (s.wobj (woIdx v)) = 1) :
    ∃ t : State, exec (.woCancel v) s = .next t ∧ Spec.woRes t 0 ∧ (t.wobj (woIdx v)).getLsbD 225 = true ∧
      (woKind (s.wobj (woIdx v)) = 0 → ∀ ci b, (s.ctx ci).st = .blocked b →
        Spec.unitIn s ci (woIdx v) (woSlot (s.wobj (woIdx v))) → (t.ctx ci).st = .free) := by
  have hrun : s.woCancelCmd v = (s.woCancelAt (woIdx v)).woDone v 0 := if_neg (not_not.2 hlive)
  exact ⟨_, congrArg Host.Outcome.next ((woCommand_runs hv s _).trans hrun), woRes_woDone _ v (by decide),
    State.woCancelAt_marks hlive, fun hlaunch ci b hblocked hunit => State.woCancelAt_frees hlive hlaunch hblocked hunit⟩

theorem woFree_frees {v : Word} (hv : Spec.woCommand v 5) (hdone : woState (s.wobj (woIdx v)) = 2) :
    ∃ t : State, exec (.woFree v) s = .next t ∧ Spec.woRes t 0 ∧ t.wobj (woIdx v) = 0 := by
  have hrun : s.woFreeCmd v = (s.setWobj (woIdx v) 0).woDone v 0 := if_neg (not_not.2 hdone)
  refine ⟨_, congrArg Host.Outcome.next ((woCommand_runs hv s _).trans hrun), woRes_woDone _ v (by decide), ?_⟩
  have hread : Tab.get (0 : Packet64) (s.setWobj (woIdx v) 0).hub.wobj (woIdx v) = 0 := by
    unfold State.setWobj
    rw [Tab.get_put, if_pos rfl]
  rw [State.woDone_wobj]
  unfold State.wobj
  dsimp only
  rw [hread]
  split <;> rfl

/-- Settles O49: each command of the work table, by the entry it writes and what its counts and its cancellation keep of that entry. -/
theorem workObjectCommands : Obligations.WorkObjectCommands := by
  unfold Obligations.WorkObjectCommands
  intro s v i o w
  refine ⟨fun hv => ⟨fun hfree himg => ?_, fun hfree himg => woCreate_refuses hv hfree himg, fun hbusy => ?_⟩,
    fun hv hlive => woSeal_seals hv hlive, fun hv hlive hopen => woAdd_adds hv hlive hopen,
    fun hv hlive => woCancel_cancels hv hlive, fun hv hdone => woFree_frees hv hdone, fun e he hv hwrong => ?_, fun hv hwrong => ?_⟩
  · obtain ⟨t, hexec, hres, hmade⟩ := woCreate_makes hv hfree himg
    obtain ⟨hstate, hkind, hfail, hcancel, hsealed, hpend⟩ := woMade_fields s.hub.wostage
    obtain ⟨hslot, _⟩ := woMade_slot s.hub.wostage
    rw [← hmade] at hstate hkind hfail hcancel hsealed hpend hslot
    exact ⟨t, hexec, hres, hstate, hkind, hslot, hfail, hcancel, hsealed, hpend⟩
  · exact woCommand_wrong hv rfl (if_pos hbusy)
  · rcases List.mem_cons.1 he with rfl | he
    · exact woCommand_wrong hv rfl (if_pos hwrong)
    · rcases List.mem_cons.1 he with rfl | he
      · exact woCommand_wrong hv rfl (if_pos hwrong)
      · obtain rfl := List.mem_singleton.1 he
        exact woCommand_wrong hv rfl (if_pos hwrong)
  · exact woCommand_wrong hv rfl (if_pos hwrong)

end

end Sys2Proof.Machine
end

section
/-! Launch packets, committed rows and dispatch (R367, R372 to R377). -/

namespace Sys2Proof.Machine

section
variable {s t : State}

/-! What a core keeps for dispatch: its rows with their stamps, its slot, and what waits (R374, R375). -/

/-- The slot table of a core with what waits there. -/
def Core.binds (k : Core) : Tab Packet64 × Tab (BitVec 12) × BitVec 4 × List Nat × List Nat :=
  (k.rows, k.rowStamp, k.slot, k.goRows, k.goPend)
/-- The slot tables of the cores, and the tenancy slots that they are read with. -/
def State.binds (s : State) : (Nat → Tab Packet64 × Tab (BitVec 12) × BitVec 4 × List Nat × List Nat) × Tab TSlot :=
  (fun k => (s.core k).binds, s.hub.slots)

/-- What a core with the same bindings has: its slot, its rows and what waits. -/
theorem State.binds_reads (h : t.binds = s.binds) (core : Nat) : t.coreSlot core = s.coreSlot core ∧ (∀ i, t.row core i = s.row core i) ∧
    (t.core core).goRows = (s.core core).goRows ∧ (t.core core).goPend = (s.core core).goPend := by
  obtain ⟨hcores, hslots⟩ := Prod.mk.inj h
  have hcore : (t.core core).binds = (s.core core).binds := congrFun hcores core
  simp only [Core.binds, Prod.mk.injEq] at hcore
  obtain ⟨hrows, hstamp, hslot, hgo, hpend⟩ := hcore
  refine ⟨hslot, fun i => ?_, hgo, hpend⟩
  unfold State.row State.coreGen State.coreSlot State.gen State.tslot
  rw [hrows, hstamp, hslot, hslots]

theorem State.binds_of_cores (hcores : t.cores = s.cores) (hslots : t.hub.slots = s.hub.slots) : t.binds = s.binds := by
  unfold State.binds State.core
  rw [hcores, hslots]

theorem State.binds_modCore (s : State) (i : Nat) {f : Core → Core} (hf : ∀ k, (f k).binds = k.binds) :
    (s.modCore i f).binds = s.binds := by
  refine Prod.ext (funext fun k => ?_) rfl
  show ((s.modCore i f).core k).binds = _
  rw [modCore_core]
  split
  · next h =>
    rw [hf, h]
    rfl
  · rfl

theorem State.setRow_row (s : State) (core i : Nat) (r : Packet64) (core' j : Nat) :
    (s.setRow core i r).row core' j = if core' = core ∧ j = i then r else s.row core' j := by
  unfold State.row State.setRow
  have hgen : (s.modCore core fun k => { k with rows := Tab.put 0 k.rows i r, rowStamp := Tab.put 0 k.rowStamp i (s.coreGen core) }).coreGen
      core' = s.coreGen core' := by
    unfold State.coreGen State.coreSlot
    rw [modCore_core]
    split
    · next h =>
      rw [h]
      rfl
    · rfl
  rw [hgen, modCore_core]
  by_cases hcore : core' = core
  · subst hcore
    simp only [if_true, Tab.get_put, true_and]
    by_cases hi : j = i
    · rw [if_pos hi, if_pos hi, if_pos rfl, if_pos hi]
    · rw [if_neg hi, if_neg hi, if_neg hi]
  · have hother : ¬(core' = core ∧ j = i) := fun h => hcore h.1
    rw [if_neg hcore, if_neg hother]

theorem State.setRow_waits (s : State) (core i : Nat) (r : Packet64) (k : Nat) :
    ((s.setRow core i r).core k).goRows = (s.core k).goRows ∧ ((s.setRow core i r).core k).goPend = (s.core k).goPend := by
  unfold State.setRow
  rw [modCore_core]
  split
  · next h =>
    rw [h]
    exact ⟨rfl, rfl⟩
  · exact ⟨rfl, rfl⟩

theorem State.Told.binds {s t : State} (h : State.Told s t) : t.binds = s.binds := by
  cases h with
  | tasks lobj slot gen =>
    refine Prod.ext (funext fun k => ?_) rfl
    show (Tab.get {} (s.cores.map fun e => (e.1, dropTasks e.2 fun t => t.of lobj slot gen)) k).binds = _
    rw [Tab.get_map (f := fun c => dropTasks c fun t => t.of lobj slot gen) rfl]
    rfl
  | sem core n v => exact s.binds_modCore core fun _ => rfl
  | signal l => rfl
  | item x f => rfl

/-- A count in the work table leaves the slot tables alone (R368). -/
theorem State.woDec_binds (s : State) (i : Nat) (fails : Bool) (fuel : Nat) : (s.woDec i fails fuel).binds = s.binds :=
  woDec_rule (R := fun s t => t.binds = s.binds) (fun _ => rfl) (fun _ _ _ h h' => h'.trans h) (fun _ _ h => h.binds) (fun _ _ _ _ _ => rfl)
    s i fails fuel

/-! A context becomes ready (R141, R144). -/

/-- A core that goes to its best ready context changes only the state of that one, which issues (R144). -/
theorem State.switchFrom_changes (s : State) (core start j : Nat) : (s.switchFrom core start).binds = s.binds ∧
    ∃ x, (x = (s.ctx j).st ∨ x = .issuing) ∧ (s.switchFrom core start).ctx j = { s.ctx j with st := x } := by
  unfold State.switchFrom
  split
  · next i _ =>
    refine ⟨State.binds_modCore _ core fun _ => rfl, ?_⟩
    by_cases h : j = 4 * core + i
    · refine ⟨.issuing, .inr rfl, ?_⟩
      rw [State.modCore_ctx, State.modCtx_ctx, if_pos h, h]
    · refine ⟨_, .inl rfl, ?_⟩
      rw [State.modCore_ctx, State.modCtx_ctx, if_neg h]
  · split
    · exact ⟨rfl, _, .inl rfl, rfl⟩
    · split
      · exact ⟨rfl, _, .inl rfl, rfl⟩
      · exact ⟨s.binds_modCore core fun _ => rfl, _, .inl rfl, rfl⟩

/-- A context made ready is ready, or issues, and is otherwise as it was. -/
theorem State.makeReady_changes (s : State) (ci : Nat) : (s.makeReady ci).binds = s.binds ∧
    ∃ x, (x = .ready ∨ x = .issuing) ∧ (s.makeReady ci).ctx ci = { s.ctx ci with st := x } := by
  obtain ⟨z, hz⟩ : ∃ z, z = s.modCtx ci fun c => { c with st := .ready } := ⟨_, rfl⟩
  have hzb : z.binds = s.binds := by rw [hz]; rfl
  have hzc : z.ctx ci = { s.ctx ci with st := .ready } := by rw [hz, State.modCtx_ctx, if_pos rfl]
  have hswitch (w : State) (hwb : w.binds = s.binds) (hwc : w.ctx ci = { s.ctx ci with st := .ready }) (start : Nat) :
      (w.switchFrom (ci / 4) start).binds = s.binds ∧
        ∃ x, (x = .ready ∨ x = .issuing) ∧ (w.switchFrom (ci / 4) start).ctx ci = { s.ctx ci with st := x } := by
    obtain ⟨hb, x, hx, hctx⟩ := w.switchFrom_changes (ci / 4) start ci
    refine ⟨hb.trans hwb, x, ?_, ?_⟩
    · rw [hwc] at hx
      exact hx
    · rw [hctx, hwc]
  have hstays : z.binds = s.binds ∧ ∃ x, (x = .ready ∨ x = .issuing) ∧ z.ctx ci = { s.ctx ci with st := x } :=
    ⟨hzb, .ready, .inl rfl, hzc⟩
  unfold State.makeReady
  dsimp only
  rw [← hz]
  split
  · exact hswitch z hzb hzc _
  · next i _ =>
    split
    · exact hswitch z hzb hzc _
    · split
      · refine hswitch _ (Eq.trans ?_ hzb) ?_ _
        · rfl
        · rw [State.modCtx_ctx]
          split
          · next h => rw [← h, hzc]
          · exact hzc
      · exact hstays
    · exact hstays

/-! A record is bound (R376, R377). -/

/-- A dictionary that is loaded changes the dictionary alone (R58). -/
theorem State.loadDict_keeps (s : State) (core : Nat) (k : Kernel) :
    (s.loadDict core k).binds = s.binds ∧ (s.loadDict core k).ctxs = s.ctxs := by
  have hkeep := foldl_keeps (v := fun x : State => (x.binds, x.ctxs)) (f := fun x n =>
    match x.readVA (x.coreSlot core) (k.dict + BitVec.ofNat 64 (48 * n)) 48 with
    | .error _ => x
    | .ok l =>
      let e : DictEntry := { bits := ofBytes 384 (l.map (·.1)), stamp := x.coreGen core, poison := l.any (·.2) }
      x.modCore core fun c => { c with dict := Tab.set c.dict (k.dbase + n) (some e) }) (fun x n => by
      dsimp only
      split
      · rfl
      · exact Prod.ext (x.binds_modCore core fun _ => rfl) rfl) (List.range k.dlen) s
  exact Prod.mk.inj hkeep

/-- A table filled from 0 up reads as it was filled. -/
theorem Tab.get_foldl_put {α : Type} [DecidableEq α] (d : α) (f : Nat → α) (n j : Nat) (h : j < n) :
    Tab.get d ((List.range n).foldl (fun (t : Tab α) k => Tab.put d t k (f k)) []) j = f j := by
  induction n with
  | zero => omega
  | succ n ih =>
    rw [List.range_succ, List.foldl_append, List.foldl_cons, List.foldl_nil, Tab.get_put]
    by_cases hj : j = n
    · rw [if_pos hj, hj]
    · rw [if_neg hj, ih (by omega)]

/-- What dispatch reads at home does not depend on what waits there. -/
theorem State.dispatchRead_of_slot (hslot : t.coreSlot = s.coreSlot) (hhub : t.hub = s.hub) (hmem : t.mem = s.mem) (hdies : t.dies = s.dies)
    (hburst : t.burst = s.burst) (core pa : Nat) : t.dispatchRead core pa = s.dispatchRead core pa := by
  have hhome : t.homeView = s.homeView := by
    unfold State.homeView
    rw [hhub, hmem, hdies, hburst]
  have hacc : t.dispatchAcc core = s.dispatchAcc core := by
    unfold State.dispatchAcc State.prot
    rw [hslot, hhub]
  unfold State.dispatchRead State.homeReads
  rw [hacc]
  have hread (a : Acc) (x : Nat) : t.homeRead a x = s.homeRead a x := by
    rw [← State.homeRead_homeView, hhome, State.homeRead_homeView]
  simp only [hread]

/-- A record that is bound and restores nothing starts its unit (R377). -/
theorem State.bindInto_starts (s : State) {core i : Nat} {r : Packet64} (hfresh : r.getLsbD 248 = false) :
    Spec.started s (s.bindInto core i r) core i r ∧ ((s.bindInto core i r).core core).goRows = (s.core core).goRows ∧
      ((s.bindInto core i r).core core).goPend = (s.core core).goPend ∧
      ∀ j, j ≠ i → (s.bindInto core i r).row core j = s.row core j := by
  obtain ⟨k, hk⟩ : ∃ k, k = kernelOf (s.dispatchRead core (field r 320 39)) (field r 264 12) (field r 252 12 + 1) := ⟨_, rfl⟩
  obtain ⟨la, hla⟩ : ∃ la, la = (List.range 8).foldl
    (fun (t : Tab Word) n => Tab.put 0 t n ((s.dispatchRead core (field r 384 39)).extractLsb' (64 * n) 64)) [] := ⟨_, rfl⟩
  obtain ⟨s1, hs1⟩ : ∃ s1, s1 = if r.getLsbD 251 then s.loadDict core k else s := ⟨_, rfl⟩
  obtain ⟨s2, hs2⟩ : ∃ s2, s2 = (s1.modCtx (4 * core + i) fun c => startCtx c r k la (s.coreGen core)).modCore core fun k =>
    { k with xp := k.xp.unitStart } := ⟨_, rfl⟩
  have hrun : s.bindInto core i r = (s2.setRow core i (setField r 0 4 1)).makeReady (4 * core + i) := by
    rw [hs2, hs1, hla, hk]
    unfold State.bindInto
    dsimp only
    rw [if_neg (by rw [hfresh]; exact Bool.false_ne_true)]
  have hb1 : s1.binds = s.binds := by
    rw [hs1]
    split
    · exact (s.loadDict_keeps core k).1
    · rfl
  have hb2 : s2.binds = s.binds := by
    rw [hs2]
    refine (State.binds_modCore _ core ?_).trans ?_
    · exact fun _ => rfl
    · exact hb1
  have hc2 : s2.ctx (4 * core + i) = startCtx (s1.ctx (4 * core + i)) r k la (s.coreGen core) := by
    rw [hs2, State.modCore_ctx, State.modCtx_ctx, if_pos rfl]
  obtain ⟨_, hrow2, hgo2, hpend2⟩ := State.binds_reads hb2 core
  obtain ⟨hb3, x, hx, hctx⟩ := (s2.setRow core i (setField r 0 4 1)).makeReady_changes (4 * core + i)
  obtain ⟨_, hrow3, hgo3, hpend3⟩ := State.binds_reads hb3 core
  obtain ⟨hgorow, hpendrow⟩ := s2.setRow_waits core i (setField r 0 4 1) core
  have hctx3 : (s2.setRow core i (setField r 0 4 1)).ctx (4 * core + i) = s2.ctx (4 * core + i) := rfl
  rw [hctx3, hc2] at hctx
  rw [hrun]
  refine ⟨?_, hgo3.trans (hgorow.trans hgo2), hpend3.trans (hpendrow.trans hpend2), fun j hj => ?_⟩
  · unfold Spec.started
    dsimp only
    rw [hctx, hrow3, State.setRow_row, if_pos ⟨rfl, rfl⟩, field_setField_same _ (by decide), ← hk]
    refine ⟨?_, rfl, rfl, rfl, rfl, rfl, rfl, fun n hn => ?_, rfl⟩
    · rcases hx with rfl | rfl <;> exact fun e => nomatch e
    · show Tab.get 0 la n = _
      rw [hla]
      exact Tab.get_foldl_put 0 _ 8 n hn
  · rw [hrow3, State.setRow_row, if_neg (fun h => hj h.2), hrow2]

/-! Dispatch of a row and of a pending entry (R375, R376). -/

theorem State.bindWhy_lt (s : State) (core : Nat) (r : Packet64) : s.bindWhy core r < 16 := by
  unfold State.bindWhy
  dsimp only
  repeat' split
  all_goals decide

/-- A record that is refused is marked with the reason (R376). -/
theorem State.bindRefuse_marks (s : State) (core e : Nat) (r : Packet64) {why : Nat} (hwhy : why < 16) :
    field ((s.bindRefuse core e r why).row core e) 0 4 = 3 ∧ field ((s.bindRefuse core e r why).row core e) 12 4 = why ∧
      ((s.bindRefuse core e r why).core core).goRows = (s.core core).goRows := by
  obtain ⟨z, hz⟩ : ∃ z, z = s.setRow core e (setField (setField r 12 4 why) 0 4 3) := ⟨_, rfl⟩
  have hbinds : (s.bindRefuse core e r why).binds = z.binds := by
    rw [hz]
    unfold State.bindRefuse
    dsimp only
    split
    · exact State.woDec_binds _ _ _ _
    · rfl
  obtain ⟨_, hrow, hgo, _⟩ := State.binds_reads hbinds core
  rw [hrow, hgo, hz, State.setRow_row, if_pos ⟨rfl, rfl⟩, field_setField_same _ (by decide), field_setField_other _ (.inr (by decide)),
    field_setField_same _ (by decide)]
  exact ⟨rfl, Nat.mod_eq_of_lt hwhy, (s.setRow_waits core e _ core).1⟩

/-- A core with other waiting rows or entries dispatches what it reads as before. -/
theorem State.dispatchRead_modCore (s : State) (core : Nat) {f : Core → Core} (hf : ∀ k, (f k).slot = k.slot) (c pa : Nat) :
    (s.modCore core f).dispatchRead c pa = s.dispatchRead c pa := by
  refine State.dispatchRead_of_slot (s := s) (t := s.modCore core f) (funext fun k => ?_) rfl rfl rfl rfl c pa
  unfold State.coreSlot
  rw [State.modCore_core]
  split
  · next h => rw [hf, h]
  · rfl

theorem Spec.started_congr {core i : Nat} {r : Packet64} {u : State} (h : ∀ pa, s.dispatchRead core pa = u.dispatchRead core pa)
    (hs : Spec.started s t core i r) : Spec.started u t core i r := by
  unfold Spec.started at hs ⊢
  rw [← h, ← h]
  exact hs

section
variable {core i : Nat}

theorem dispatchBind_binds (hgo : i ∈ (s.core core).goRows) (hparked : (s.core core).parked = false)
    (hfree : (s.ctx (4 * core + i)).st = .free) :
    let z := s.modCore core fun k => { k with goRows := k.goRows.filter (· != i) }
    let r := z.row core i
    (z.bindWhy core r = 0 → r.getLsbD 248 = false → ∃ t : State, exec (.dispatchBind core i) s = .next t ∧
      Spec.started s t core i r ∧ i ∉ (t.core core).goRows) ∧
    (z.bindWhy core r ≠ 0 → ∃ t : State, exec (.dispatchBind core i) s = .next t ∧ field (t.row core i) 0 4 = 3 ∧
      field (t.row core i) 12 4 = z.bindWhy core r ∧ i ∉ (t.core core).goRows) := by
  intro z r
  have hexec : exec (.dispatchBind core i) s =
      if z.bindWhy core r = 0 then .next (z.bindInto core i r) else .next (z.bindRefuse core i r (z.bindWhy core r)) := by
    refine (if_neg (by simp [hgo, hparked, hfree])).trans ?_
    split
    · next h => exact (if_pos h).symm
    · next h => exact (if_neg h).symm
  have hread (pa : Nat) : z.dispatchRead core pa = s.dispatchRead core pa := by
    refine s.dispatchRead_modCore core ?_ core pa
    exact fun _ => rfl
  have hgone : i ∉ (z.core core).goRows := by
    show i ∉ ((s.modCore core fun k => { k with goRows := k.goRows.filter (· != i) }).core core).goRows
    rw [State.modCore_core, if_pos rfl]
    simp
  refine ⟨fun hwhy hfresh => ?_, fun hwhy => ?_⟩
  · rw [if_pos hwhy] at hexec
    obtain ⟨hstart, hrows, _, _⟩ := z.bindInto_starts (core := core) (i := i) hfresh
    exact ⟨_, hexec, Spec.started_congr hread hstart, by rw [hrows]; exact hgone⟩
  · obtain ⟨hrst, hwhy', hrows⟩ := z.bindRefuse_marks core i r (z.bindWhy_lt core r)
    exact ⟨_, hexec.trans (if_neg hwhy), hrst, hwhy', by rw [hrows]; exact hgone⟩

theorem State.freeCtx_lt (h : s.freeCtx core = some i) : i < 4 := List.mem_range.1 (List.mem_of_find?_eq_some h)

theorem pendingBind_binds {e : Nat} {rest : List Nat} (hpend : (s.core core).goPend = e :: rest) (hfree : s.freeCtx core = some i)
    (he : 4 ≤ e) (hparked : (s.core core).parked = false) :
    let z := s.modCore core fun k => { k with goPend := rest }
    let r := z.row core e
    z.bindWhy core r = 0 → r.getLsbD 248 = false → ∃ t : State, exec (.pendingBind core) s = .next t ∧
      Spec.started s t core i r ∧ (t.core core).goPend = rest ∧ t.row core e = 0 := by
  intro z r hwhy hfresh
  have hi : i < 4 := State.freeCtx_lt hfree
  have hread (pa : Nat) : (z.setRow core e 0).dispatchRead core pa = s.dispatchRead core pa := by
    refine (z.dispatchRead_modCore core ?_ core pa).trans (s.dispatchRead_modCore core ?_ core pa)
    · exact fun _ => rfl
    · exact fun _ => rfl
  have hexec : exec (.pendingBind core) s = .next ((z.setRow core e 0).bindInto core i r) := by
    show execPendingBind core s = _
    unfold execPendingBind
    rw [hpend, hfree]
    refine (if_neg (by rw [hparked]; exact Bool.false_ne_true)).trans ?_
    dsimp only
    split
    · rfl
    · next h => exact absurd hwhy h
  obtain ⟨hstart, _, hleft, hrow⟩ := (z.setRow core e 0).bindInto_starts (core := core) (i := i) hfresh
  refine ⟨_, hexec, Spec.started_congr hread hstart, ?_, ?_⟩
  · rw [hleft, (z.setRow_waits core e 0 core).2]
    show ((s.modCore core fun k => { k with goPend := rest }).core core).goPend = rest
    rw [State.modCore_core, if_pos rfl]
  · rw [hrow e (by omega), State.setRow_row, if_pos ⟨rfl, rfl⟩]

end

/-! A row or pending entry is written (R374, R375). -/

/-- The upper 384 bits of a record are no field that dispatch writes. -/
theorem extractLsb'_keepDispatch (old new : Packet64) : (keepDispatch old new).extractLsb' 128 384 = new.extractLsb' 128 384 := by
  unfold keepDispatch
  dsimp only
  rw [extractLsb'_setField_other _ (.inr (by decide)), extractLsb'_setField_other _ (.inr (by decide)),
    extractLsb'_setField_other _ (.inr (by decide)), extractLsb'_setField_other _ (.inr (by decide))]

/-- What waits at a core. -/
def State.waits (s : State) (core : Nat) : List Nat × List Nat := ((s.core core).goRows, (s.core core).goPend)

section
variable {core i : Nat} (s : State) (v : Packet64)

/-- A write of a row or pending entry that asks for no dispatch (R374). -/
def State.goWrite (s : State) (core i : Nat) (v : Packet64) : State :=
  let s1 := s.setRow core i (keepDispatch (s.row core i) v)
  if i < 4 then s1.modCtx (4 * core + i) fun c => { c with pre := v.getLsbD 7 && c.st != .free } else s1

theorem State.goWrite_keeps : (s.goWrite core i v).waits core = s.waits core ∧ (s.goWrite core i v).hub = s.hub ∧
    (∀ ci, ((s.goWrite core i v).ctx ci).st = (s.ctx ci).st) ∧
    (s.goWrite core i v).row core i = keepDispatch (s.row core i) v := by
  obtain ⟨hgo, hpend⟩ := s.setRow_waits core i (keepDispatch (s.row core i) v) core
  have hrow : (s.setRow core i (keepDispatch (s.row core i) v)).row core i = keepDispatch (s.row core i) v := by
    rw [State.setRow_row, if_pos ⟨rfl, rfl⟩]
  unfold State.goWrite
  dsimp only
  split
  · refine ⟨Prod.ext hgo hpend, rfl, fun ci => ?_, hrow⟩
    rw [State.modCtx_ctx]
    split
    · next h =>
      rw [h]
      rfl
    · rfl
  · exact ⟨Prod.ext hgo hpend, rfl, fun _ => rfl, hrow⟩

theorem State.go_eq (hi : i < 12) : s.go core i v =
    let z := s.goWrite core i v
    if !v.getLsbD 8 then z
    else if i < 4 then
      if (z.ctx (4 * core + i)).st ≠ .free ∨ (z.core core).goRows.contains i then z
      else z.modCore core fun k => { k with goRows := k.goRows ++ [i] }
    else if (z.core core).goPend.contains i then z
    else (z.setRow core i (setField (z.row core i) 0 4 6)).modCore core fun k => { k with goPend := k.goPend ++ [i] } :=
  if_neg (Nat.not_le.2 hi)

theorem State.go_hub : (s.go core i v).hub = s.hub := by
  by_cases hi : i < 12
  · rw [s.go_eq v hi]
    obtain ⟨_, hhub, _, _⟩ := s.goWrite_keeps (core := core) (i := i) v
    dsimp only
    repeat' split
    all_goals exact hhub
  · rw [show s.go core i v = s from if_pos (Nat.not_lt.1 hi)]

/-- A committed row waits for dispatch where its context is free (R375). -/
theorem State.go_row_waits (hi : i < 4) (hgo : v.getLsbD 8 = true) (hfree : (s.ctx (4 * core + i)).st = .free) :
    i ∈ ((s.go core i v).core core).goRows := by
  obtain ⟨_, _, hst, _⟩ := s.goWrite_keeps (core := core) (i := i) v
  rw [s.go_eq v (by omega)]
  dsimp only
  rw [if_neg (by simp [hgo]), if_pos hi]
  split
  · next h =>
    rcases h with h | h
    · exact absurd ((hst _).trans hfree) h
    · exact List.contains_iff_mem.1 h
  · rw [State.modCore_core, if_pos rfl]
    exact List.mem_append_right _ (List.mem_singleton.2 rfl)

theorem State.go_pending_waits (hi : 4 ≤ i) (hlt : i < 12) (hgo : v.getLsbD 8 = true) : i ∈ ((s.go core i v).core core).goPend := by
  rw [s.go_eq v hlt]
  dsimp only
  rw [if_neg (by simp [hgo]), if_neg (by omega)]
  split
  · next h => exact List.contains_iff_mem.1 h
  · rw [State.modCore_core, if_pos rfl]
    exact List.mem_append_right _ (List.mem_singleton.2 rfl)

/-- The record is written as it is given, above what dispatch writes (R374). -/
theorem State.go_record (hi : i < 12) : ((s.go core i v).row core i).extractLsb' 128 384 = v.extractLsb' 128 384 := by
  obtain ⟨_, _, _, hrow⟩ := s.goWrite_keeps (core := core) (i := i) v
  have hwritten : ((s.goWrite core i v).row core i).extractLsb' 128 384 = v.extractLsb' 128 384 := by
    rw [hrow, extractLsb'_keepDispatch]
  have hcommit {z : State} {f : Core → Core} (hf : ∀ k, (f k).rows = k.rows ∧ (f k).rowStamp = k.rowStamp ∧ (f k).slot = k.slot) :
      (z.modCore core f).row core i = z.row core i := by
    unfold State.row State.coreGen State.coreSlot
    rw [State.modCore_core, if_pos rfl, (hf _).1, (hf _).2.1, (hf _).2.2]
    rfl
  rw [s.go_eq v hi]
  dsimp only
  split
  · exact hwritten
  · split
    · split
      · exact hwritten
      · rw [hcommit]
        · exact hwritten
        · exact fun _ => ⟨rfl, rfl, rfl⟩
    · split
      · exact hwritten
      · rw [hcommit, State.setRow_row, if_pos ⟨rfl, rfl⟩, extractLsb'_setField_other _ (.inr (by decide))]
        · exact hwritten
        · exact fun _ => ⟨rfl, rfl, rfl⟩

/-- A write that asks for no dispatch commits nothing. -/
theorem State.go_commits_nothing (hi : i < 12) (hgo : v.getLsbD 8 = false) : (s.go core i v).waits core = s.waits core := by
  rw [s.go_eq v hi]
  dsimp only
  rw [if_pos (by rw [hgo]; rfl)]
  exact (s.goWrite_keeps v).1

end

theorem go_commits {core i : Nat} (v : Packet64) (hi : i < 12) : ∃ t : State, exec (.go core i v) s = .next t ∧
    (t.row core i).extractLsb' 128 384 = v.extractLsb' 128 384 ∧
    (v.getLsbD 8 = true → (i < 4 → (s.ctx (4 * core + i)).st = .free → i ∈ (t.core core).goRows) ∧
      (4 ≤ i → i ∈ (t.core core).goPend)) ∧
    (v.getLsbD 8 = false → (t.core core).goRows = (s.core core).goRows ∧ (t.core core).goPend = (s.core core).goPend) := by
  refine ⟨s.go core i v, rfl, s.go_record v hi, fun hgo => ⟨fun hrow hfree => s.go_row_waits v hrow hgo hfree, fun hpend =>
    s.go_pending_waits v hpend hi hgo⟩, fun hgo => ?_⟩
  exact Prod.mk.inj (s.go_commits_nothing v hi hgo)

/-! The launch object of a packet (R372, R373): its fields stand side by side. -/

theorem field_ofNat {w lo n : Nat} (h : lo + n ≤ w) (N : Nat) : field (BitVec.ofNat w N) lo n = N / 2 ^ lo % 2 ^ n := by
  refine Nat.eq_of_testBit_eq fun i => ?_
  rw [testBit_field, BitVec.getLsbD_ofNat, Nat.testBit_mod_two_pow, Nat.testBit_div_two_pow]
  by_cases hi : i < n
  · simp [hi, show lo + i < w by omega, Nat.add_comm]
  · simp [hi]

/-- A part that stands above a field is no part of it. -/
theorem field_below {lo n k : Nat} (h : lo + n ≤ k) (a N : Nat) : (a * 2 ^ k + N) / 2 ^ lo % 2 ^ n = N / 2 ^ lo % 2 ^ n := by
  obtain ⟨d, rfl⟩ := Nat.exists_eq_add_of_le h
  have hsplit : a * 2 ^ (lo + n + d) + N = N + 2 ^ lo * (2 ^ n * (2 ^ d * a)) := by
    rw [Nat.pow_add, Nat.pow_add]
    ring
  rw [hsplit, Nat.add_mul_div_left _ _ (Nat.two_pow_pos lo), Nat.add_mul_mod_self_left]

/-- A field with what stands below it. -/
theorem field_above {lo n v L : Nat} (hL : L < 2 ^ lo) : (v * 2 ^ lo + L) / 2 ^ lo % 2 ^ n = v % 2 ^ n := by
  rw [Nat.mul_comm, Nat.mul_add_div (Nat.two_pow_pos lo), Nat.div_eq_of_lt hL, Nat.add_zero]

/-- A field and what stands below it stay below a bound above both. -/
theorem packed_lt {w : Nat} (x : BitVec w) {lo n k m L : Nat} (hm : k + n ≤ m) (hL : L < 2 ^ k) : field x lo n * 2 ^ k + L < 2 ^ m := by
  have hv := field_lt x lo n
  calc field x lo n * 2 ^ k + L < (field x lo n + 1) * 2 ^ k := by rw [Nat.add_mul, Nat.one_mul]; exact Nat.add_lt_add_left hL _
    _ ≤ 2 ^ n * 2 ^ k := Nat.mul_le_mul_right _ hv
    _ = 2 ^ (k + n) := by rw [← Nat.pow_add, Nat.add_comm]
    _ ≤ 2 ^ m := Nat.pow_le_pow_right (by decide) hm

theorem packed_last_lt {w : Nat} (x : BitVec w) {lo n k m : Nat} (hm : k + n ≤ m) : field x lo n * 2 ^ k < 2 ^ m :=
  packed_lt x hm (Nat.two_pow_pos k)

theorem launchObject_fields (p : Packet64) : woKind (launchObject p) = 0 ∧ woSlot (launchObject p) = p.extractLsb' 48 4 ∧
    woGen (launchObject p) = p.extractLsb' 52 12 ∧ field (launchObject p) 296 24 = field p 248 24 := by
  have hfield {lo n : Nat} (h : lo + n ≤ 512) : field (launchObject p) lo n = _ := field_ofNat h _
  simp only [Nat.add_assoc] at hfield
  refine ⟨?_, BitVec.eq_of_toNat_eq ?_, BitVec.eq_of_toNat_eq ?_, ?_⟩
  · show field _ 201 2 = 0
    rw [hfield (by decide)]
    iterate 11 rw [field_below (by decide)]
    rw [Nat.div_eq_of_lt (packed_lt p (by decide) (packed_last_lt p (by decide))), Nat.zero_mod]
  · show field _ 182 4 = _
    rw [hfield (by decide)]
    iterate 12 rw [field_below (by decide)]
    rw [Nat.mul_div_cancel _ (Nat.two_pow_pos _)]
    exact Nat.mod_eq_of_lt (field_lt p 48 4)
  · show field _ 186 12 = _
    rw [hfield (by decide)]
    iterate 11 rw [field_below (by decide)]
    rw [field_above (packed_last_lt p (by decide))]
    exact Nat.mod_eq_of_lt (field_lt p 52 12)
  · rw [hfield (by decide)]
    iterate 3 rw [field_below (by decide)]
    rw [field_above]
    · exact Nat.mod_eq_of_lt (field_lt p 248 24)
    · iterate 8 refine packed_lt p (by decide) ?_
      exact packed_last_lt p (by decide)

/-! A launch packet (R372, R373). -/

theorem State.homeWrites_hub (s : State) (a : Acc) (pa : Nat) (l : List Byte) : (s.homeWrites a pa l).hub = s.hub ∧
    (s.homeWrites a pa l).ctxs = s.ctxs := by
  have h := s.homeWrites_offMemory a pa l
  have hhub := congrArg State.hub h
  have hctxs := congrArg State.ctxs h
  exact ⟨hhub, hctxs⟩

theorem getLsbD_of_field {w i : Nat} {x : BitVec w} (h : field x i 1 = 1) : x.getLsbD i = true := by
  have hbit := testBit_field x i 1 0
  rw [h, Nat.add_zero] at hbit
  exact hbit.symm

/-- The record asks for dispatch (R374). -/
theorem bindRecord_commits (p desc : Packet64) (obj : BitVec 12) (desca uid : Nat) (x : Place) :
    (bindRecord p desc obj desca uid x).getLsbD 8 = true := by
  have hload : (if x.dload then 2 ^ 251 else 0) = (if x.dload then 1 else 0) * 2 ^ 251 := by
    split
    · exact (Nat.one_mul _).symm
    · exact (Nat.zero_mul _).symm
  have hbit : field (bindRecord p desc obj desca uid x) 8 1 = 1 := by
    unfold bindRecord
    rw [hload]
    simp only [Nat.add_assoc]
    rw [field_ofNat (by decide)]
    iterate 12 rw [field_below (by decide)]
    rfl
  exact getLsbD_of_field hbit

/-- The records of a launch change nothing of the hub. -/
theorem State.launchPlaces_hub (s : State) (l : LaunchRest) (places : List Place) : (s.launchPlaces l places).2.hub = s.hub := by
  unfold State.launchPlaces
  dsimp only
  refine List.foldlRecOn (motive := fun acc : LaunchRest × State => acc.2.hub = s.hub) places _ rfl fun acc hacc x _ => ?_
  split
  · exact hacc
  · split
    · exact hacc
    · exact (State.go_hub _ _).trans ((State.homeWrites_hub _ _ _ _).1.trans hacc)

theorem State.launchOn_work (s : State) (l : LaunchRest) (places : List Place) : (s.launchOn l places).work = s.work := by
  obtain ⟨s0, hs0⟩ : ∃ s0, s0 = ({ s with hub := { s.hub with launches := s.hub.launches.erase l } } : State) := ⟨_, rfl⟩
  have h0 : s0.work = s.work := by
    rw [hs0]
    rfl
  have hplaces : (s0.launchPlaces l places).2.work = s.work := (State.work_of_hub (s0.launchPlaces_hub l places)).trans h0
  unfold State.launchOn
  dsimp only
  rw [← hs0]
  split
  · exact h0
  · split
    · exact hplaces
    · exact hplaces

/-- A place whose row is free takes the first record (R373, R375). -/
theorem State.launchPlaces_commits {l : LaunchRest} {x : Place} {k : BitVec 2} (hunits : l.uid < field l.pkt 248 24)
    (hplace : s.placeOk l.pkt x = true) (hrow : x.row = some k.toNat) (hfree : (s.ctx (4 * x.core + k.toNat)).st = .free) :
    k.toNat ∈ ((s.launchPlaces l [x]).2.core x.core).goRows := by
  have hmod : k.toNat % 4 = k.toNat := Nat.mod_eq_of_lt k.isLt
  by_cases hgo : k.toNat ∈ (s.core x.core).goRows
  · have hbusy : s.placeFree x = none := by
      unfold State.placeFree
      rw [hrow]
      dsimp only
      rw [hmod, if_neg (by simp [hgo])]
    have hrun : s.launchPlaces l [x] = (l, s) := by
      unfold State.launchPlaces
      dsimp only [List.foldl]
      rw [if_neg (by simp [hplace, hunits]), hbusy]
    rw [hrun]
    exact hgo
  · have htakes : s.placeFree x = some k.toNat := by
      unfold State.placeFree
      rw [hrow]
      dsimp only
      rw [hmod, if_pos ⟨hfree, by simp [hgo]⟩]
    obtain ⟨w, hw⟩ : ∃ w : Nat, w = if s.prot (field l.pkt 48 4) then 1 else 0 := ⟨_, rfl⟩
    obtain ⟨y, hy⟩ : ∃ y, y = s.homeWrites (busAcc w) (x.arga.toNat / 64 * 64) (bytesOf l.args 64) := ⟨_, rfl⟩
    have hrun : (s.launchPlaces l [x]).2 = y.go x.core k.toNat (bindRecord l.pkt l.desc l.obj l.desca l.uid x) := by
      rw [hy, hw]
      unfold State.launchPlaces
      dsimp only [List.foldl]
      rw [if_neg (by simp [hplace, hunits]), htakes]
    have hyfree : (y.ctx (4 * x.core + k.toNat)).st = .free := by
      rw [← hfree, hy]
      unfold State.ctx
      rw [(s.homeWrites_hub _ _ _).2]
    rw [hrun]
    exact y.go_row_waits _ k.isLt (bindRecord_commits ..) hyfree

theorem State.launchOn_commits {l : LaunchRest} {x : Place} {k : BitVec 2} (hunits : l.uid < field l.pkt 248 24)
    (hgen : l.pkt.extractLsb' 52 12 = s.gen (l.pkt.extractLsb' 48 4)) (hplace : s.placeOk l.pkt x = true) (hrow : x.row = some k.toNat)
    (hfree : (s.ctx (4 * x.core + k.toNat)).st = .free) : k.toNat ∈ ((s.launchOn l [x]).core x.core).goRows := by
  obtain ⟨s0, hs0⟩ : ∃ s0, s0 = ({ s with hub := { s.hub with launches := s.hub.launches.erase l } } : State) := ⟨_, rfl⟩
  have hgo := State.launchPlaces_commits (s := s0) hunits (by rw [hs0]; exact hplace) hrow (by rw [hs0]; exact hfree)
  unfold State.launchOn
  dsimp only
  rw [← hs0, if_neg (not_not.2 hgen)]
  split <;> exact hgo

/-- What a packet that is taken has passed (R372, R373). -/
theorem State.launchStat_taken {p : Packet64} (h : s.launchStat p = 1) : 0 < field p 248 24 ∧
    p.extractLsb' 52 12 = s.gen (p.extractLsb' 48 4) ∧ ∃ d desc args, s.launchParts p = some (d, desc, args) := by
  unfold State.launchStat at h
  dsimp only at h
  split at h
  · cases h
  · next hbad =>
    split at h
    · cases h
    · next hgen =>
      split at h
      · cases h
      · split at h
        · cases h
        · next hparts =>
          refine ⟨Nat.pos_of_ne_zero fun h0 => hbad ?_, not_not.1 hgen, ?_⟩
          · simp [launchBad, h0]
          · obtain ⟨⟨d, desc, args⟩, he⟩ := Option.ne_none_iff_exists'.1 fun e => hparts (Option.isNone_iff_eq_none.2 e)
            exact ⟨d, desc, args, he⟩

section
variable {wq i : Nat} {obj : BitVec 12} {places : List Place} {p : Packet64}

/-- The object of a launch is made, and its parent counts it (R367, R373). -/
def State.launched (s : State) (p : Packet64) (obj : Nat) : State :=
  (if p.getLsbD 219 then s.setWobj (field p 220 12) (setField (s.wobj (field p 220 12)) 240 32
    (min (woPend (s.wobj (field p 220 12)) + 1) (2 ^ 32 - 1))) else s).setWobj obj (woMade (launchObject p))
/-- RSTAT and OBJ are written to the packet, and RIDX moves on (R372). -/
def State.launchReply (s : State) (cfg : Word) (i : Nat) (p : Packet64) (stat obj : Nat) : State :=
  (s.homeWrites hwAcc (entryAddr cfg i) (bytesOf (setField (setField p 76 4 stat) 64 12 obj) 64)).homeWrites hwAcc (eqBase cfg + 8)
    (bytesOf (BitVec.ofNat 64 (i + 1)) 8)

theorem State.launchReply_keeps (cfg : Word) (stat n : Nat) : (s.launchReply cfg i p stat n).hub = s.hub ∧
    (s.launchReply cfg i p stat n).ctxs = s.ctxs ∧ (s.launchReply cfg i p stat n).cores = s.cores := by
  obtain ⟨hhub, hctxs⟩ := s.homeWrites_hub hwAcc (entryAddr cfg i) (bytesOf (setField (setField p 76 4 stat) 64 12 n) 64)
  obtain ⟨hhub', hctxs'⟩ := State.homeWrites_hub (s.homeWrites hwAcc (entryAddr cfg i) (bytesOf (setField (setField p 76 4 stat) 64 12 n) 64))
    hwAcc (eqBase cfg + 8) (bytesOf (BitVec.ofNat 64 (i + 1)) 8)
  exact ⟨hhub'.trans hhub, hctxs'.trans hctxs, (State.homeWrites_cores _ _ _ _).trans (s.homeWrites_cores _ _ _)⟩

theorem State.launched_eq (s : State) (p : Packet64) (n : Nat) : ∃ u : State, s.launched p n = u.setWobj n (woMade (launchObject p)) ∧
    (u = s ∨ ∃ o, u = s.setWobj (field p 220 12) o) := by
  refine ⟨_, rfl, ?_⟩
  split
  · exact .inr ⟨_, rfl⟩
  · exact .inl rfl

theorem State.setWobj_keeps (s : State) (i : Nat) (o : Packet64) : (s.setWobj i o).hub.slots = s.hub.slots ∧
    (s.setWobj i o).ctxs = s.ctxs ∧ (s.setWobj i o).cores = s.cores := ⟨rfl, rfl, rfl⟩

theorem State.launched_keeps (p : Packet64) (n : Nat) : (s.launched p n).hub.slots = s.hub.slots ∧ (s.launched p n).ctxs = s.ctxs ∧
    (s.launched p n).cores = s.cores := by
  obtain ⟨u, hu, hcase⟩ := s.launched_eq p n
  rw [hu]
  rcases hcase with rfl | ⟨o, rfl⟩
  · exact State.setWobj_keeps _ _ _
  · obtain ⟨hslots, hctxs, hcores⟩ := State.setWobj_keeps (s.setWobj (field p 220 12) o) n (woMade (launchObject p))
    obtain ⟨hslots', hctxs', hcores'⟩ := State.setWobj_keeps s (field p 220 12) o
    exact ⟨hslots.trans hslots', hctxs.trans hctxs', hcores.trans hcores'⟩

theorem launchObject_made (p : Packet64) : woSlot (woMade (launchObject p)) = p.extractLsb' 48 4 ∧
    woGen (woMade (launchObject p)) = p.extractLsb' 52 12 := by
  obtain ⟨_, hslot, hgen, _⟩ := launchObject_fields p
  obtain ⟨hmade, hmade'⟩ := woMade_slot (launchObject p)
  exact ⟨hmade.trans hslot, hmade'.trans hgen⟩

theorem State.launched_wobj (hgen : p.extractLsb' 52 12 = s.gen (p.extractLsb' 48 4)) (n : Nat) :
    (s.launched p n).wobj n = woMade (launchObject p) := by
  obtain ⟨u, hu, hcase⟩ := s.launched_eq p n
  have hslots : u.hub.slots = s.hub.slots := by
    rcases hcase with rfl | ⟨o, rfl⟩
    · rfl
    · rfl
  obtain ⟨hslot, hgen'⟩ := launchObject_made p
  generalize woMade (launchObject p) = o at hu hslot hgen'
  have hfresh : woGen o = u.gen (woSlot o) := by
    rw [hslot, hgen', hgen]
    unfold State.gen State.tslot
    rw [hslots]
  rw [hu, State.setWobj_wobj n hfresh, if_pos rfl]

/-- A packet that can be taken is taken or refused by its checks (R372). -/
theorem execLaunchPacket_eq (hwq : wq < 64) (hnone : s.launchOf wq = none) (hen : (s.wqcfg wq).getLsbD 63 = true)
    (hi : (s.physWord (eqBase (s.wqcfg wq) + 8)).toNat = i) (hnew : i < (s.physWord (eqBase (s.wqcfg wq))).toNat)
    (hp : ofBytes 512 ((s.homeReads hwAcc (entryAddr (s.wqcfg wq) i) 64).map Prod.fst) = p)
    (hlap : field p 29 3 = i / eqSize (s.wqcfg wq) % 8) :
    (s.launchStat p ≠ 1 → exec (.launchPacket wq obj places) s = .next (s.launchReply (s.wqcfg wq) i p (s.launchStat p) 0)) ∧
    (s.launchStat p = 1 → woState (s.wobj obj.toNat) = 0 → ∀ d desc args, s.launchParts p = some (d, desc, args) →
      exec (.launchPacket wq obj places) s =
        .next (((s.launched p obj.toNat).launchReply (s.wqcfg wq) i p 1 obj.toNat).launchOn ⟨wq, p, desc, args, obj, d, 0⟩ places)) := by
  have hready : ¬(64 ≤ wq ∨ (!eqEn (s.wqcfg wq)) = true ∨ (s.physWord (eqBase (s.wqcfg wq))).toNat ≤ i ∨
      field p 29 3 ≠ i / eqSize (s.wqcfg wq) % 8) := by
    have hen' : (!eqEn (s.wqcfg wq)) = false := by
      rw [eqEn, hen]
      rfl
    rw [hen']
    simp only [Bool.false_eq_true, false_or, not_or, not_le, not_not]
    exact ⟨hwq, hnew, hlap⟩
  refine ⟨fun hstat => ?_, fun hstat hobj d desc args hparts => ?_⟩
  · show execLaunchPacket wq obj places s = _
    unfold execLaunchPacket
    rw [hnone]
    dsimp only
    rw [hi, hp, if_neg hready, if_neg (fun h => hstat h.1), if_pos hstat, if_neg hstat, if_neg hstat]
    rfl
  · show execLaunchPacket wq obj places s = _
    unfold execLaunchPacket
    rw [hnone]
    dsimp only
    rw [hi, hp, if_neg hready, if_neg (fun h => h.2 hobj), if_neg (not_not.2 hstat), if_pos hstat, if_pos hstat, hparts, hstat]
    rfl

theorem launchPacket_launches (hwq : wq < 64) (hnone : s.launchOf wq = none) (hen : (s.wqcfg wq).getLsbD 63 = true)
    (hi : (s.physWord (eqBase (s.wqcfg wq) + 8)).toNat = i) (hnew : i < (s.physWord (eqBase (s.wqcfg wq))).toNat)
    (hp : ofBytes 512 ((s.homeReads hwAcc (entryAddr (s.wqcfg wq) i) 64).map Prod.fst) = p)
    (hlap : field p 29 3 = i / eqSize (s.wqcfg wq) % 8) (hstat : s.launchStat p = 1) (hobj : woState (s.wobj obj.toNat) = 0) :
    ∃ t : State, exec (.launchPacket wq obj places) s = .next t ∧ t.wobj obj.toNat = woMade (launchObject p) ∧
      ∀ (x : Place) (k : BitVec 2), places = [x] → x.row = some k.toNat → s.placeOk p x = true → (s.ctx (4 * x.core + k.toNat)).st = .free →
        k.toNat ∈ (t.core x.core).goRows := by
  obtain ⟨hunits, hgen, d, desc, args, hparts⟩ := State.launchStat_taken hstat
  obtain ⟨hslots1, hctxs1, hcores1⟩ := State.launched_keeps (s := s) p obj.toNat
  obtain ⟨hhub2, hctxs2, hcores2⟩ := State.launchReply_keeps (s := s.launched p obj.toNat) (i := i) (p := p) (s.wqcfg wq) 1 obj.toNat
  have hexec := (execLaunchPacket_eq (obj := obj) (places := places) hwq hnone hen hi hnew hp hlap).2 hstat hobj d desc args hparts
  have hmade := State.launched_wobj hgen obj.toNat
  generalize s.launched p obj.toNat = u at hslots1 hctxs1 hcores1 hhub2 hctxs2 hcores2 hexec hmade
  generalize u.launchReply (s.wqcfg wq) i p 1 obj.toNat = z at hhub2 hctxs2 hcores2 hexec
  refine ⟨_, hexec, ?_, ?_⟩
  · exact (State.wobj_of_work ((z.launchOn_work _ _).trans (State.work_of_hub hhub2)) _).trans hmade
  · rintro x k rfl hrow hplace hfree
    have hcores : z.cores = s.cores := hcores2.trans hcores1
    have hctxs : z.ctxs = s.ctxs := hctxs2.trans hctxs1
    have hslots : z.hub.slots = s.hub.slots := (congrArg Hub.slots hhub2).trans hslots1
    refine State.launchOn_commits (k := k) hunits ?_ ?_ hrow ?_
    · unfold State.gen State.tslot at hgen ⊢
      rw [hslots]
      exact hgen
    · unfold State.placeOk State.coreSlot State.core at hplace ⊢
      rw [hcores]
      exact hplace
    · unfold State.ctx at hfree ⊢
      rw [hctxs]
      exact hfree

end

/-- Settles O50: the launch packet by its checks, the object it makes and the row of its place; a GO, a dispatch and a pending entry by
what they write in the slot table and the context. -/
theorem dispatchEvents : Obligations.DispatchEvents := by
  unfold Obligations.DispatchEvents
  intro s
  refine ⟨?_, fun core i v hi => go_commits v hi, ?_, ?_⟩
  · intro wq obj places cfg i pa p hwq hnone hen hnew hlap
    refine ⟨fun hstat hobj => ?_, fun hstat => ?_⟩
    · obtain ⟨t, hexec, hmade, hgo⟩ := launchPacket_launches (obj := obj) (places := places) hwq hnone hen rfl hnew rfl hlap hstat hobj
      obtain ⟨hkind, hslot, _, hunits⟩ := launchObject_fields p
      obtain ⟨hstate, hkind', _, _, hsealed, hpend⟩ := woMade_fields (launchObject p)
      obtain ⟨hslot', _⟩ := woMade_slot (launchObject p)
      refine ⟨t, hexec, ?_, hgo⟩
      intro n
      have hn : n = woMade (launchObject p) := hmade
      rw [hn]
      exact ⟨hstate, hkind'.trans hkind, hslot'.trans hslot, by rw [hpend, if_pos hkind, hunits], hsealed.2 hkind⟩
    · exact (execLaunchPacket_eq (obj := obj) (places := places) hwq hnone hen rfl hnew rfl hlap).1 hstat
  · intro core i z r hgo hparked hfree _
    exact dispatchBind_binds hgo hparked hfree
  · intro core e i rest z r hpend hfree he hparked hwhy hfresh
    exact pendingBind_binds hpend hfree he hparked hwhy hfresh

end

end Sys2Proof.Machine
end

section
/-! The kernel's commands on a stopped context, the save of a context at its point, and replies to a saved unit (R397, R400, R402,
R403). -/

namespace Sys2Proof.Machine

section
variable {s t : State} {core i : Nat} {v : Word}

/-! The loop registers (R391, R397). -/

/-- The loop registers take the words given, and no scalar register changes (R168, R397). -/
theorem Bank.setLoops_reads (b : Bank) (l : List Word) {j : Nat} (hj : j < 9) (h7 : j ≠ 7) :
    (b.setLoops l).getSp j = if j < l.length then l.getD j 0 else b.getSp j := by
  induction l using List.reverseRecOn with
  | nil => rfl
  | append_singleton l x ih =>
    have hstep : b.setLoops (l ++ [x]) = if l.length < 9 then (b.setLoops l).store (wr64 (.sp l.length) x) else b.setLoops l := by
      unfold Bank.setLoops
      rw [List.zipIdx_append, List.foldl_append]
      simp
    rw [hstep, List.length_append, List.length_singleton]
    by_cases hl : j = l.length
    · subst hl
      rw [if_pos hj, if_pos (Nat.lt_succ_self _), Bank.getSp_store (w := wr64 (.sp l.length) x) rfl rfl, if_pos rfl]
      simp [h7, show l.length ≠ 15 by omega]
    · have hget : (if l.length < 9 then (b.setLoops l).store (wr64 (.sp l.length) x) else b.setLoops l).getSp j = (b.setLoops l).getSp j := by
        split
        · rw [Bank.getSp_store (w := wr64 (.sp l.length) x) rfl rfl, if_neg hl]
        · rfl
      rw [hget, ih]
      by_cases hlt : j < l.length
      · rw [if_pos hlt, if_pos (by omega), List.getD_append _ _ _ _ hlt]
      · rw [if_neg hlt, if_neg (by omega)]

theorem Bank.setLoops_getS (b : Bank) (l : List Word) (j : Nat) : (b.setLoops l).getS j = b.getS j := by
  unfold Bank.setLoops
  refine foldl_keeps (v := fun b : Bank => b.getS j) (f := fun b (x : Word × Nat) => if x.2 < 9 then b.store (wr64 (.sp x.2) x.1) else b)
    (fun b x => ?_) l.zipIdx b
  split
  · exact Bank.getS_store_sp b x.2 x.1 j
  · rfl

theorem State.trapEntry_length (s : State) (core n : Nat) : (s.trapEntry core n).length = 16 := by
  unfold State.trapEntry
  dsimp only
  rw [List.length_map, List.length_range]

/-- Words 7 to 15 of an entry stand in the loop registers that are loaded from it. -/
theorem setLoops_entry (b : Bank) {e : List Word} (he : e.length = 16) {j : Nat} (hj : j < 9) (h7 : j ≠ 7) :
    (b.setLoops (e.drop 7)).getSp j = e.getD (7 + j) 0 := by
  rw [Bank.setLoops_reads b _ hj h7, List.length_drop, he, if_pos (by omega), List.getD_eq_getElem?_getD, List.getElem?_drop,
    List.getD_eq_getElem?_getD]

theorem Tab.get_zipIdx (l : List Word) (n j : Nat) :
    Tab.get 0 ((l.zipIdx n).map fun (v, i) => (i, v)) j = if n ≤ j then l.getD (j - n) 0 else 0 := by
  induction l generalizing n with
  | nil => simp [Tab.get]
  | cons x r ih =>
    rw [List.zipIdx_cons, List.map_cons]
    by_cases hj : n = j
    · subst hj
      simp [Tab.get]
    · have hskip : Tab.get 0 ((n, x) :: (r.zipIdx (n + 1)).map fun (v, i) => (i, v)) j =
          Tab.get 0 ((r.zipIdx (n + 1)).map fun (v, i) => (i, v)) j := by
        simp [Tab.get, hj]
      refine hskip.trans ((ih (n + 1)).trans ?_)
      by_cases hlt : n ≤ j
      · obtain ⟨d, rfl⟩ := Nat.exists_eq_add_of_le hlt
        obtain ⟨d, rfl⟩ := Nat.exists_eq_succ_of_ne_zero (show d ≠ 0 by omega)
        rw [if_pos (by omega), if_pos hlt, show n + d.succ - (n + 1) = d by omega, show n + d.succ - n = d + 1 by omega]
        rfl
      · rw [if_neg (by omega), if_neg hlt]

/-! The commands of TCTL on a stopped context (R397). -/

theorem State.tctlDone_ctx (s : State) (core i : Nat) (v : Word) (r ci : Nat) : (s.tctlDone core i v r).ctx ci = s.ctx ci := rfl

theorem State.tctlDone_binds (s : State) (core i : Nat) (v : Word) (r : Nat) : (s.tctlDone core i v r).binds = s.binds := by
  unfold State.tctlDone
  refine s.binds_modCore core ?_
  exact fun _ => rfl

/-- A command of TCTL that is current is carried out at once (R397). -/
theorem tctlCmd_acts {op : Nat} (hop : 1 ≤ op ∧ op ≤ 3) (hcmd : Spec.commands s core v op) (hidle : (s.tctl core i).getLsbD 63 = false) :
    field v 0 3 = op ∧ s.tctlCmd core i v = s.tctlAct core i v := by
  obtain ⟨hop', hzero, hzero', _⟩ := hcmd
  have hfield : field v 0 3 = op := by
    rw [field_eq_div_mod, Nat.pow_zero, Nat.div_one]
    exact hop'
  refine ⟨hfield, if_neg ?_⟩
  rw [hidle, hfield, field_eq_div_mod v 32, field_eq_div_mod v 3, hzero']
  have h : v.toNat / 2 ^ 3 % 2 ^ 13 = 0 := hzero
  rw [h]
  simp
  omega

section
variable (hstopped : (s.ctx (4 * core + i)).st = .stopped) (hqueued : (s.ctx (4 * core + i)).queued = true)
  (hdying : (s.ctx (4 * core + i)).dying = false)
include hstopped hqueued hdying

/-- What a command does to a context that is stopped with its record in the queue (R392, R397). -/
theorem State.tctlAct_stopped (hgen : v.extractLsb' 48 12 = s.coreGen core) : s.tctlAct core i v =
    if field v 0 3 = 3 then (s.killUnit (4 * core + i)).tctlDone core i v 0
    else if (s.ctx (4 * core + i)).nr = true ∨ (field v 0 3 = 2 ∧ (s.ctx (4 * core + i)).hnd = true) then s.tctlDone core i v 2
    else if field v 0 3 = 1 then
      (s.doResume (4 * core + i) (s.trapEntry core (s.ctx (4 * core + i)).recIdx)).tctlDone core i v 0
    else (s.doRedirect (4 * core + i) (s.trapEntry core (s.ctx (4 * core + i)).recIdx) (field v 16 16)).tctlDone core i v 0 := by
  unfold State.tctlAct
  dsimp only
  rw [if_neg (not_not.2 hgen), hstopped]
  dsimp only
  rw [if_neg (by rw [hdying]; exact Bool.false_ne_true), if_neg (by rw [hqueued]; exact Bool.false_ne_true)]

/-- A resumed context goes on at the return address of its record (R397). -/
theorem resume_goes (hidle : (s.tctl core i).getLsbD 63 = false) (hnr : (s.ctx (4 * core + i)).nr = false)
    (hcmd : Spec.commands s core v 1) : ∃ (t : State) (x : CtxState), exec (.resume core i v) s = .next t ∧ (x = .ready ∨ x = .issuing) ∧
    let e := s.trapEntry core (s.ctx (4 * core + i)).recIdx
    t.ctx (4 * core + i) = { (s.ctx (4 * core + i)).resumeAt s.cycle ((s.ctx (4 * core + i)).next.resume (field (e.getD 1 0) 16 16))
      (e.drop 7) with st := x } := by
  obtain ⟨hop, hacts⟩ := tctlCmd_acts (by decide) hcmd hidle
  have hact := State.tctlAct_stopped hstopped hqueued hdying hcmd.2.2.2
  rw [if_neg (by rw [hop]; decide), if_neg (by simp [hnr, hop]), if_pos hop] at hact
  obtain ⟨_, x, hx, hctx⟩ := State.makeReady_changes (s.modCtx (4 * core + i) fun c => c.resumeAt s.cycle
    (c.next.resume (field ((s.trapEntry core (s.ctx (4 * core + i)).recIdx).getD 1 0) 16 16))
    ((s.trapEntry core (s.ctx (4 * core + i)).recIdx).drop 7)) (4 * core + i)
  refine ⟨_, x, congrArg Host.Outcome.next ((if_pos hop).trans (hacts.trans hact)), hx, ?_⟩
  intro e
  rw [State.tctlDone_ctx]
  refine hctx.trans ?_
  rw [State.modCtx_ctx, if_pos rfl]

/-- A redirected context goes to the handler with its trap frame filled (R397). -/
theorem redirect_goes (hidle : (s.tctl core i).getLsbD 63 = false) (hnr : (s.ctx (4 * core + i)).nr = false)
    (hcmd : Spec.commands s core v 2) (hhnd : (s.ctx (4 * core + i)).hnd = false) :
    ∃ (t : State) (x : CtxState), exec (.redirect core i v) s = .next t ∧ (x = .ready ∨ x = .issuing) ∧
    let e := s.trapEntry core (s.ctx (4 * core + i)).recIdx
    let c := (s.ctx (4 * core + i)).landDue (s.cycle + 1)
    let n : NextAddr := { pc := field v 16 16, enter := true }
    t.ctx (4 * core + i) = { c with
      hnd := true, next := n, shadow := { bank := c.bank, next := n, wake := c.wake }, record := none, queued := false, st := x,
      frame := { taddr := field (e.getD 1 0) 0 16, raddr := field (e.getD 1 0) 16 16,
                 loops := (e.drop 7).zipIdx.map fun (v, i) => (i, v),
                 next := c.next.resume (field (e.getD 1 0) 16 16) } } := by
  obtain ⟨hop, hacts⟩ := tctlCmd_acts (by decide) hcmd hidle
  have hact := State.tctlAct_stopped hstopped hqueued hdying hcmd.2.2.2
  rw [if_neg (by rw [hop]; decide), if_neg (by simp [hnr, hhnd]), if_neg (by rw [hop]; decide)] at hact
  unfold State.doRedirect at hact
  dsimp only at hact
  generalize hz : s.modCtx (4 * core + i) _ = z at hact
  obtain ⟨_, x, hx, hctx⟩ := z.makeReady_changes (4 * core + i)
  refine ⟨_, x, congrArg Host.Outcome.next ((if_pos hop).trans (hacts.trans hact)), hx, ?_⟩
  intro e c n
  rw [State.tctlDone_ctx, hctx, ← hz, State.modCtx_ctx, if_pos rfl]

end

/-! The end of a unit and the save of a context: the row, and what the core keeps (R374, R378, R400). -/

/-- A core that another context may take over keeps all but that. -/
theorem State.switchFrom_core (s : State) (core start k : Nat) :
    ∃ a n, (s.switchFrom core start).core k = { s.core k with issuing := a, nextIssue := n } := by
  have hmod (z : State) (hz : z.core k = s.core k) (a : Option Nat) (n : Core → Nat) :
      ∃ b m, (z.modCore core fun k => { k with issuing := a, nextIssue := n k }).core k = { s.core k with issuing := b, nextIssue := m } := by
    rw [State.modCore_core]
    split
    · next h =>
      rw [← h, hz]
      exact ⟨_, _, rfl⟩
    · rw [hz]
      exact ⟨_, _, rfl⟩
  unfold State.switchFrom
  split
  · exact hmod _ rfl _ fun _ => start + 2
  · split
    · exact ⟨_, _, rfl⟩
    · split
      · exact ⟨_, _, rfl⟩
      · exact hmod s rfl none fun k => k.nextIssue

theorem State.leaveCore_core (s : State) (ci start k : Nat) :
    ∃ a n, (s.leaveCore ci start).core k = { s.core k with issuing := a, nextIssue := n } := by
  unfold State.leaveCore
  dsimp only
  split
  · obtain ⟨a, n, h⟩ := (s.modCore (ci / 4) fun k => { k with issuing := none }).switchFrom_core (ci / 4) start k
    rw [h, State.modCore_core]
    split
    · next he =>
      rw [he]
      exact ⟨_, _, rfl⟩
    · exact ⟨_, _, rfl⟩
  · exact ⟨_, _, rfl⟩

theorem State.leaveCore_binds (s : State) (ci start : Nat) : (s.leaveCore ci start).binds = s.binds := by
  refine Prod.ext (funext fun k => ?_) (Prod.mk.inj (s.leaveCore_work ci start)).2
  obtain ⟨a, n, h⟩ := s.leaveCore_core ci start k
  have e := congrArg Core.binds h
  exact e

theorem State.rollback_binds (s : State) (ci : Nat) : (s.rollback ci).binds = s.binds := by
  obtain ⟨y, d, hroll, _, hkeep⟩ := State.rollback_keeps (v := fun x => x.binds) (fun s t h => by
    cases h with
    | sem core n v => exact s.binds_modCore core fun _ => rfl
    | tasks core f => exact s.binds_modCore core fun _ => rfl
    | pitch core f g h => exact s.binds_modCore core fun _ => rfl
    | _ => rfl) s ci
  rw [hroll]
  exact hkeep

/-- The row of a unit that ends tells how (R374, R378). -/
theorem State.endUnit_rst {ci rst : Nat} (hlive : (s.ctx ci).st ≠ .free) (hrst : rst < 16) (exit : Word) (fails : Bool) :
    field ((s.endUnit ci rst exit fails).row (ci / 4) (ci % 4)) 0 4 = rst := by
  generalize hr : (if rst = 4 then setField (setField (s.row (ci / 4) (ci % 4)) 0 4 rst) 64 64 exit.toNat
    else setField (s.row (ci / 4) (ci % 4)) 0 4 rst) = r
  have hfield : field r 0 4 = rst := by
    rw [← hr]
    split
    · rw [field_setField_other _ (.inl (by decide)), field_setField_same _ (by decide)]
      exact Nat.mod_eq_of_lt hrst
    · rw [field_setField_same _ (by decide)]
      exact Nat.mod_eq_of_lt hrst
  have hbinds : (s.endUnit ci rst exit fails).binds = (s.setRow (ci / 4) (ci % 4) r).binds := by
    unfold State.endUnit
    dsimp only
    rw [if_neg hlive, hr]
    generalize hz : State.modCore ((s.setRow (ci / 4) (ci % 4) r).setCtx ci _) (ci / 4) _ = z
    have hzb : z.binds = (s.setRow (ci / 4) (ci % 4) r).binds := by
      rw [← hz]
      refine (State.binds_modCore _ (ci / 4) ?_).trans rfl
      exact fun _ => rfl
    have hleave := (z.leaveCore_binds ci (s.cycle + 1)).trans hzb
    split
    · exact (State.woDec_binds _ _ _ _).trans hleave
    · exact hleave
  rw [(State.binds_reads hbinds (ci / 4)).2.1, State.setRow_row, if_pos ⟨rfl, rfl⟩, hfield]

theorem Spec.rst_eq (s : State) (core i : Nat) : Spec.rst s core i = field (s.row core i) 0 4 := by
  rw [field_eq_div_mod, Nat.pow_zero, Nat.div_one]
  rfl

section
variable (hi : i < 4)
include hi

theorem ctxIndex_div : (4 * core + i) / 4 = core := by omega
theorem ctxIndex_mod : (4 * core + i) % 4 = i := by omega

theorem kill_ends (hstopped : (s.ctx (4 * core + i)).st = .stopped) (hqueued : (s.ctx (4 * core + i)).queued = true)
    (hdying : (s.ctx (4 * core + i)).dying = false) (hidle : (s.tctl core i).getLsbD 63 = false) (hcmd : Spec.commands s core v 3) :
    ∃ t : State, exec (.kill core i v) s = .next t ∧ (t.ctx (4 * core + i)).st = .free ∧ Spec.rst t core i = 5 := by
  obtain ⟨hop, hacts⟩ := tctlCmd_acts (by decide) hcmd hidle
  have hact := State.tctlAct_stopped hstopped hqueued hdying hcmd.2.2.2
  rw [if_pos hop] at hact
  have hlive : (s.ctx (4 * core + i)).st ≠ .free := by
    rw [hstopped]
    exact fun e => nomatch e
  refine ⟨_, congrArg Host.Outcome.next ((if_pos hop).trans (hacts.trans hact)), ?_, ?_⟩
  · rw [State.tctlDone_ctx, State.killUnit_st (by rw [hstopped]; exact fun e => nomatch e), if_pos rfl]
  · have hkill : s.killUnit (4 * core + i) = (s.rollback (4 * core + i)).endUnit (4 * core + i) 5 0 true := if_neg hlive
    have hrst := State.endUnit_rst (s := s.rollback (4 * core + i)) (ci := 4 * core + i) (rst := 5) (by rw [State.rollback_st]; exact hlive)
      (by decide) 0 true
    rw [ctxIndex_div hi, ctxIndex_mod hi] at hrst
    rw [Spec.rst_eq, (State.binds_reads (State.tctlDone_binds _ _ _ _ _) core).2.1, hkill, hrst]

/-! The save of a context (R400). -/

/-- The context a save writes: rolled back to its last pitch end where it is blocked, else with its results landed (R400). -/
def State.saving (s : State) (ci : Nat) : State :=
  match (s.ctx ci).st with
  | .blocked _ => s.rollback ci
  | _ => s.modCtx ci fun c => c.landDue s.cycle

omit hi in
theorem State.saving_keeps (s : State) (ci : Nat) : (s.saving ci).binds = s.binds ∧ ((s.saving ci).ctx ci).uid = (s.ctx ci).uid ∧
    ((s.saving ci).ctx ci).lobj = (s.ctx ci).lobj := by
  unfold State.saving
  split
  · refine ⟨s.rollback_binds ci, ?_, ?_⟩
    · unfold State.rollback
      dsimp only
      rw [State.setCtx_ctx, if_pos rfl]
    · unfold State.rollback
      dsimp only
      rw [State.setCtx_ctx, if_pos rfl]
  · refine ⟨rfl, ?_, ?_⟩
    · rw [State.modCtx_ctx, if_pos rfl]
      rfl
    · rw [State.modCtx_ctx, if_pos rfl]
      rfl

omit hi in
/-- The state that is left by a save (R400): the area written, the core's list of saved units with one more, the row and the context. -/
theorem State.saveCtx_eq (s : State) (ci : Nat) : ∃ (y : State) (u : SavedUnit) (f : Core → Core),
    y.cores = (s.saving ci).cores ∧ y.ctxs = (s.saving ci).ctxs ∧ y.hub = (s.saving ci).hub ∧ u.row = ci % 4 ∧ u.restored = false ∧
    u.uid = ((s.saving ci).ctx ci).uid ∧ u.lobj = ((s.saving ci).ctx ci).lobj ∧
    u.savea = field ((s.saving ci).row (ci / 4) (ci % 4)) 448 39 ∧ (∀ k, (f k).binds = k.binds ∧ u ∈ (f k).units) ∧
    s.saveCtx ci = (((y.modCore (ci / 4) f).setRow (ci / 4) (ci % 4) (setField ((s.saving ci).row (ci / 4) (ci % 4)) 0 4 2)).setCtx ci
      { ((s.saving ci).ctx ci).carried with pitch := ((s.saving ci).ctx ci).pitch + 1 }).leaveCore ci (s.cycle + 1) := by
  unfold State.saveCtx
  extract_lets core i s0 c stopped r area s1 u waits s2 s3 s4
  have hs0 : s0 = s.saving ci := rfl
  have hs1 : s1.cores = s0.cores ∧ s1.ctxs = s0.ctxs ∧ s1.hub = s0.hub := by
    have hkeep := foldl_keeps (v := fun x : State => (x.cores, x.ctxs, x.hub))
      (f := fun x (p : Nat × List Byte) => x.homeWrites (s.saveAcc core) (area + p.1) p.2) (fun x p => by
        obtain ⟨hhub, hctxs⟩ := x.homeWrites_hub (s.saveAcc core) (area + p.1) p.2
        rw [x.homeWrites_cores, hhub, hctxs]) (s0.saveParts ci stopped) s0
    obtain ⟨hcores, hrest⟩ := Prod.mk.inj hkeep
    exact ⟨hcores, Prod.mk.inj hrest⟩
  obtain ⟨hcores, hctxs, hhub⟩ := hs1
  refine ⟨{ s1 with fresh := s1.fresh + 64 }, u, _, hcores, hctxs, hhub, rfl, rfl, rfl, rfl, rfl, ?_, rfl⟩
  exact fun k => ⟨rfl, List.mem_append_right _ (List.mem_singleton.2 rfl)⟩

theorem preemptSave_saves (hpre : (s.ctx (4 * core + i)).pre = true) (hpoint : s.savePoint (4 * core + i) = true) :
    ∃ t : State, exec (.preemptSave core i) s = .next t ∧ (t.ctx (4 * core + i)).st = .free ∧ Spec.rst t core i = 2 ∧
      ∃ u ∈ (t.core core).units, u.row = i ∧ u.restored = false ∧ u.uid = (s.ctx (4 * core + i)).uid ∧
        u.lobj = (s.ctx (4 * core + i)).lobj ∧ u.savea = field (s.row core i) 448 39 := by
  obtain ⟨hbinds, huid, hlobj⟩ := s.saving_keeps (4 * core + i)
  obtain ⟨y, u, f, hcores, hctxs, hhub, hurow, hurest, huuid, hulobj, husave, hf, hsave⟩ := s.saveCtx_eq (4 * core + i)
  rw [ctxIndex_div hi, ctxIndex_mod hi] at *
  obtain ⟨z, hz⟩ : ∃ z, z = (y.modCore core f).setRow core i (setField ((s.saving (4 * core + i)).row core i) 0 4 2) := ⟨_, rfl⟩
  have hunits : (z.core core).units = (f (y.core core)).units := by
    rw [hz]
    unfold State.setRow
    rw [State.modCore_core, if_pos rfl, State.modCore_core, if_pos rfl]
  have hrow : field (z.row core i) 0 4 = 2 := by
    rw [hz, State.setRow_row, if_pos ⟨rfl, rfl⟩, field_setField_same _ (by decide)]
    rfl
  rw [← hz] at hsave
  obtain ⟨w, hw⟩ : ∃ w, w = z.setCtx (4 * core + i) { ((s.saving (4 * core + i)).ctx (4 * core + i)).carried with
    pitch := ((s.saving (4 * core + i)).ctx (4 * core + i)).pitch + 1 } := ⟨_, rfl⟩
  have hfree : (w.ctx (4 * core + i)).st = .free := by
    rw [hw, State.setCtx_ctx, if_pos rfl]
    rfl
  have hwrow : w.row core i = z.row core i := by
    rw [hw]
    rfl
  have hwcore : w.core core = z.core core := by
    rw [hw]
    rfl
  rw [← hw] at hsave
  refine ⟨_, congrArg Host.Outcome.next ((if_pos (by rw [hpre, hpoint]; rfl)).trans hsave), ?_, ?_, u, ?_, hurow, hurest, huuid.trans huid,
    hulobj.trans hlobj, ?_⟩
  · rw [State.leaveCore_ctx (by rw [hfree]; exact fun e => nomatch e), hfree]
  · rw [Spec.rst_eq, (State.binds_reads (State.leaveCore_binds _ _ _) core).2.1, hwrow, hrow]
  · obtain ⟨a, n, h⟩ := w.leaveCore_core (4 * core + i) (s.cycle + 1) core
    rw [h]
    show u ∈ (w.core core).units
    rw [hwcore, hunits]
    exact (hf _).2
  · rw [husave, (State.binds_reads hbinds core).2.1]

theorem preRequest_asks : ∃ t : State, exec (.preRequest core i) s = .next t ∧ (t.row core i).getLsbD 7 = true ∧
    (t.ctx (4 * core + i)).pre = decide ((s.ctx (4 * core + i)).st ≠ .free) := by
  refine ⟨_, if_neg (Nat.not_le.2 hi), ?_, ?_⟩
  · show ((s.setRow core i (setField (s.row core i) 7 1 1)).row core i).getLsbD 7 = true
    rw [State.setRow_row, if_pos ⟨rfl, rfl⟩, getLsbD_setField_bit _ (by decide)]
    rfl
  · rw [State.modCtx_ctx, if_pos rfl]
    exact Bool.eq_iff_iff.2 (by rw [bne_iff_ne, decide_eq_true_iff]; rfl)

omit hi in
/-- A reply takes the lowest free slot of its row (R403). -/
theorem replyToSaved_takes {r : Reply} {u : SavedUnit}
    (hfind : (s.core core).units.find? (fun u => u.row == i && !u.restored && (s.core core).toSaved.contains (u.savea, r)) = some u)
    (hroom : (Tab.get [] (s.core core).replies i).length < 16) (hown : ∀ p ∈ Tab.get [] (s.core core).replies i, p.1 = u.savea) :
    ∃ t : State, exec (.replyToSaved core i r) s = .next t ∧
      Tab.get [] (t.core core).replies i = Tab.get [] (s.core core).replies i ++ [(u.savea, r)] ∧
      (t.core core).toSaved = (s.core core).toSaved.erase (u.savea, r) := by
  have hexec : exec (.replyToSaved core i r) s =
      .next ((s.modCore core fun k => { k with toSaved := k.toSaved.erase (u.savea, r) }).modCore core fun k =>
        { k with replies := Tab.set k.replies i (Tab.get [] (s.core core).replies i ++ [(u.savea, r)]) }) := by
    show execReplyToSaved core i r s = _
    unfold execReplyToSaved
    dsimp only
    rw [hfind]
    dsimp only
    rw [if_pos ⟨hroom, by simpa using hown⟩]
  refine ⟨_, hexec, ?_, ?_⟩
  · rw [State.modCore_core, if_pos rfl, Tab.get_set, if_pos rfl]
  · rw [State.modCore_core, if_pos rfl, State.modCore_core, if_pos rfl]

end

/-- Settles O38: each command by what it leaves of the context, of the row and of the core's saved units. -/
theorem unitControlEvents : Obligations.UnitControlEvents := by
  unfold Obligations.UnitControlEvents
  intro s core i v hi k c goes e raddr there hdying hidle
  have hraddr : raddr = field (e.getD 1 0) 16 16 := (field_eq_div_mod _ 16 16).symm
  have hlen : e.length = 16 := s.trapEntry_length core c.recIdx
  refine ⟨fun hstopped hqueued hnr => ⟨fun hcmd => ?_, fun hcmd hhnd => ?_⟩, fun hstopped hqueued hcmd =>
    kill_ends hi hstopped hqueued hdying hidle hcmd, fun hpre hpoint => ?_, preRequest_asks hi, fun r u hfind hroom hown =>
    replyToSaved_takes hfind hroom hown⟩
  · obtain ⟨t, x, hexec, hx, hctx⟩ := resume_goes hstopped hqueued hdying hidle hnr hcmd
    refine ⟨t, hexec, ?_⟩
    intro d
    have hd : d = { c.resumeAt s.cycle (c.next.resume (field (e.getD 1 0) 16 16)) (e.drop 7) with st := x } := hctx
    rw [hd, hraddr]
    refine ⟨hx, ?_, fun hne => if_neg hne, rfl, rfl, rfl, fun j hj h7 => setLoops_entry _ hlen hj h7, fun j => Bank.setLoops_getS _ _ j⟩
    show (c.next.resume _).pc = _
    unfold NextAddr.resume
    split
    · next h => exact h
    · rfl
  · obtain ⟨t, x, hexec, hx, hctx⟩ := redirect_goes hstopped hqueued hdying hidle hnr hcmd hhnd
    refine ⟨t, hexec, ?_⟩
    intro d
    have hpc : v.toNat / 2 ^ 16 % 2 ^ 16 = field v 16 16 := (field_eq_div_mod v 16 16).symm
    have hlow : (e.getD 1 0).toNat % 2 ^ 16 = field (e.getD 1 0) 0 16 := by
      rw [field_eq_div_mod, Nat.pow_zero, Nat.div_one]
    rw [show d = _ from hctx, hraddr, hpc, hlow]
    refine ⟨hx, rfl, rfl, rfl, rfl, rfl, fun j hj => ?_⟩
    show Tab.get 0 ((e.drop 7).zipIdx.map fun (v, i) => (i, v)) j = _
    rw [Tab.get_zipIdx, if_pos (Nat.zero_le j), Nat.sub_zero, List.getD_eq_getElem?_getD, List.getElem?_drop, List.getD_eq_getElem?_getD]
  · obtain ⟨t, hexec, hfree, hrst, u, hmem, hrow, hrest, huid, hlobj, hsave⟩ := preemptSave_saves hi hpre hpoint
    exact ⟨t, hexec, hfree, hrst, u, hmem, hrow, hrest, huid, hlobj, hsave.trans (field_eq_div_mod _ 448 39)⟩

end

end Sys2Proof.Machine
end

section
/-! The caddy: worlds of slots, mailbox commands, wake, and the verifier's messages (R420, R423, R430 to R438). -/

namespace Sys2Proof.Machine

section
variable {s t : State}

/-! Worlds of slots (R420). -/

/-- A table that is filtered by its numbers. -/
theorem Tab.get_filterKey {α : Type} (d : α) (p : Nat → Bool) (t : Tab α) (k : Nat) :
    Tab.get d (t.filter fun e => p e.1) k = if p k then Tab.get d t k else d := by
  induction t with
  | nil => simp [Tab.get]
  | cons e r ih =>
    rw [List.filter_cons]
    by_cases hk : e.1 = k
    · subst hk
      by_cases hp : p e.1 = true
      · rw [if_pos hp, if_pos hp]
        simp [Tab.get]
      · rw [if_neg hp, ih, if_neg hp, if_neg hp]
    · have hskip (l : Tab α) : Tab.get d (e :: l) k = Tab.get d l k := if_neg hk
      split
      · rw [hskip, ih, hskip]
      · rw [ih, hskip]

/-- The place of a slot's own key is a number among those of its world and slot. -/
theorem keyCode_ofSlot {w slot k : Nat} (hk : 1 ≤ k) (hlt : k < 128) :
    (w * 17 + slot) * 128 < keyCode w slot k ∧ keyCode w slot k < (w * 17 + slot + 1) * 128 := by
  unfold keyCode
  rw [if_pos hlt]
  omega

/-- The place is none of a slot's own keys in a world. -/
def keptFrom (world slot k : Nat) : Bool :=
  !(decide ((world * 17 + slot) * 128 < k) && decide (k < (world * 17 + slot + 1) * 128))

theorem State.erasePrivate_keyAt (s : State) (world slot place : Nat) :
    Spec.keyAt (s.erasePrivate world slot) place = if keptFrom world slot place then Spec.keyAt s place else 0 :=
  Tab.get_filterKey 0 (keptFrom world slot) s.hub.keys place

theorem keptFrom_ofSlot {w slot k : Nat} (hk : 1 ≤ k) (hlt : k < 128) : keptFrom w slot (keyCode w slot k) = false := by
  obtain ⟨hlow, hhigh⟩ := keyCode_ofSlot (w := w) (slot := slot) hk hlt
  simp [keptFrom, hlow, hhigh]

theorem wldcfgWrite_changes {slot : BitVec 4} {v : Word} (hres : field v 0 62 = 0) (hnew : v.getLsbD 63 ≠ s.prot slot.toNat)
    (hnone : ∀ k < 128, s.coreSlot k ≠ slot) : ∃ t : State, exec (.wldcfgWrite slot 1 v) s = .next t ∧ t.prot slot.toNat = v.getLsbD 63 ∧
    ∀ k, 1 ≤ k → k < 128 → ∀ w < 2, Spec.keyAt t (keyCode w slot.toNat k) = 0 := by
  obtain ⟨s1, hs1⟩ : ∃ s1, s1 = (s.erasePrivate 0 slot.toNat).erasePrivate 1 slot.toNat := ⟨_, rfl⟩
  have hempty : ¬(!(s.allCoresOf slot).isEmpty) = true := by
    have h : s.allCoresOf slot = [] := List.filter_eq_nil_iff.2 fun k hk => by simpa using hnone k (List.mem_range.1 hk)
    rw [h]
    exact Bool.false_ne_true
  have hgo : ¬((1 : BitVec 2) ≠ 1 ∨ field v 0 62 ≠ 0) := fun h => h.elim (fun h => h rfl) (fun h => h hres)
  have hexec : exec (.wldcfgWrite slot 1 v) s = .next { s1 with hub := { s1.hub with
      wldcfg := Tab.put 0 s1.hub.wldcfg slot.toNat (setField (s.wldcfgReg slot.toNat) 63 1 (field v 63 1)) } } := by
    rw [hs1]
    exact congrArg Host.Outcome.next ((if_neg hgo).trans ((if_neg hnew).trans (if_neg hempty)))
  refine ⟨_, hexec, ?_, fun k hk hlt w hw => ?_⟩
  · unfold State.prot
    dsimp only
    rw [Tab.get_put, if_pos rfl, getLsbD_setField_bit _ (by decide)]
    have hbit := testBit_field v 63 1 0
    rw [Nat.testBit_zero] at hbit
    exact hbit
  · show Spec.keyAt s1 _ = 0
    rw [hs1, State.erasePrivate_keyAt, State.erasePrivate_keyAt]
    rcases Nat.lt_or_ge w 1 with h0 | h1
    · rw [show w = 0 by omega, keptFrom_ofSlot (w := 0) hk hlt]
      split <;> rfl
    · rw [show w = 1 by omega, keptFrom_ofSlot (w := 1) hk hlt]
      rfl

/-! The mailbox (R430). -/

section
variable {mbox world : BitVec 2} {v : Word}

/-- What a command that is performed does, by its number (R430). -/
def State.mboxRun (s : State) (w : Nat) (m : MboxCmd) (n : Nat) : Nat × State :=
  match n with
  | 1 => s.kgenCmd w m
  | 2 => s.kimpCmd w m
  | 3 => s.kdropCmd w m
  | 4 => s.certwCmd w m
  | 5 => s.sleepCmd w
  | _ => (field (Config.freeWord s.fresh) 0 3, { s with fresh := s.fresh + 1 })

theorem State.mboxCmd_mailed {n : Nat} (h : Spec.mailed mbox world v n) (s : State) :
    s.mboxCmd mbox world v = (s.mboxRun mbox.toNat (mboxOf v) n).2.mboxDone mbox.toNat v (s.mboxRun mbox.toNat (mboxOf v) n).1 := by
  obtain ⟨hworld, hthree, hres, hbusy, hcmd⟩ := h
  unfold State.mboxCmd
  dsimp only
  rw [if_neg (by simp [hworld, hres]; rw [← hworld]; exact hthree), if_neg (by simp [hbusy]), show (mboxOf v).cmd = n from hcmd]
  unfold State.mboxRun
  rcases n with _ | _ | _ | _ | _ | _ | n <;> rfl

theorem State.mboxDone_answered (s : State) (mbox : BitVec 2) (v : Word) {res : Nat} (h : res < 8) :
    Spec.answered (s.mboxDone mbox.toNat v res) mbox res := by
  have hword : Tab.get 0 (s.mboxDone mbox.toNat v res).hub.caddy.mbox mbox.toNat = setField (setField v 60 3 res) 63 1 0 := by
    unfold State.mboxDone State.modCaddy
    dsimp only
    rw [Tab.get_put, if_pos rfl]
  unfold Spec.answered
  dsimp only
  rw [hword, field_setField_other _ (.inl (by decide)), field_setField_same _ (by decide), getLsbD_setField_bit _ (by decide)]
  exact ⟨Nat.mod_eq_of_lt h, rfl⟩

theorem State.mboxDone_keys (s : State) (w : Nat) (v : Word) (res : Nat) : (s.mboxDone w v res).hub.keys = s.hub.keys := rfl

theorem State.setKey_keyAt (s : State) (place k p : Nat) : Spec.keyAt (s.setKey place k) p = if p = place then k else Spec.keyAt s p :=
  Tab.get_put ..

/-- A command that is carried out answers its mailbox with its result (R430). -/
theorem mailed_runs {n : Nat} (h : Spec.mailed mbox world v n) {i : Instr}
    (hexec : exec i s = .next (if (mboxOf v).cmd = n then s.mboxCmd mbox world v else s)) {r : Nat} {x : State} (hr : r < 8)
    (hrun : s.mboxRun mbox.toNat (mboxOf v) n = (r, x)) :
    ∃ t : State, exec i s = .next t ∧ Spec.answered t mbox r ∧ t = x.mboxDone mbox.toNat v r := by
  have ht := State.mboxCmd_mailed h s
  rw [hrun] at ht
  exact ⟨_, hexec.trans (congrArg Host.Outcome.next ((if_pos h.2.2.2.2).trans ht)), x.mboxDone_answered mbox v hr, rfl⟩

theorem kgen_makes (h : Spec.mailed mbox world v 1) (hkey : 1 ≤ (mboxOf v).key) (hlt : (mboxOf v).key < 128)
    (hown : s.slotWorld (mboxOf v).slot = mbox.toNat) : ∃ t : State, exec (.kgen mbox world v) s = .next t ∧ Spec.answered t mbox 0 ∧
    Spec.keyAt t (keyCode mbox.toNat (mboxOf v).slot (mboxOf v).key) ≠ 0 ∧
    ∀ p, p ≠ keyCode mbox.toNat (mboxOf v).slot (mboxOf v).key → Spec.keyAt t p = Spec.keyAt s p := by
  have hrun : s.mboxRun mbox.toNat (mboxOf v) 1 = (0, s.drawKey (keyCode mbox.toNat (mboxOf v).slot (mboxOf v).key)) :=
    (if_neg (by omega)).trans (if_neg (not_not.2 hown))
  obtain ⟨t, hexec, hans, ht⟩ := mailed_runs h (i := .kgen mbox world v) rfl (by decide) hrun
  have hread (p : Nat) : Spec.keyAt t p = if p = keyCode mbox.toNat (mboxOf v).slot (mboxOf v).key then s.nextKey 0 else Spec.keyAt s p := by
    rw [ht]
    exact s.setKey_keyAt (keyCode mbox.toNat (mboxOf v).slot (mboxOf v).key) (s.nextKey 0) p
  refine ⟨t, hexec, hans, ?_, fun p hp => ?_⟩
  · rw [hread, if_pos rfl, State.nextKey]
    omega
  · rw [hread, if_neg hp]

theorem kgen_refuses (h : Spec.mailed mbox world v 1) (hkey : 1 ≤ (mboxOf v).key) (hlt : (mboxOf v).key < 128)
    (hother : s.slotWorld (mboxOf v).slot ≠ mbox.toNat) : ∃ t : State, exec (.kgen mbox world v) s = .next t ∧ Spec.answered t mbox 1 ∧
    t.hub.keys = s.hub.keys := by
  have hrun : s.mboxRun mbox.toNat (mboxOf v) 1 = (1, s) := (if_neg (by omega)).trans (if_pos hother)
  obtain ⟨t, hexec, hans, rfl⟩ := mailed_runs h (i := .kgen mbox world v) rfl (by decide) hrun
  exact ⟨_, hexec, hans, rfl⟩

/-- A key that was brought reads as it was brought (R423). -/
theorem keyBits_keyNumber (k : BitVec 512) : keyNumber k ≠ 0 ∧ keyBits (keyNumber k) = k := by
  unfold keyNumber keyBits
  refine ⟨by omega, ?_⟩
  rw [if_neg (by omega), Nat.add_sub_cancel_left, BitVec.ofNat_toNat, BitVec.setWidth_eq]

theorem kimp_brings (h : Spec.mailed mbox world v 2) (hkey : 1 ≤ (mboxOf v).key) (hlt : (mboxOf v).key < 128)
    (hown : s.slotWorld (mboxOf v).slot = mbox.toNat) (himp : Tab.get 0 s.hub.caddy.imports (mboxOf v).slot ≠ 0)
    {key : Option (BitVec 512)}
    (hunwrap : keyUnwrap (BitVec.ofNat 256 (Tab.get 0 s.hub.caddy.imports (mboxOf v).slot - 1)) (s.caddyRead (mboxOf v).addr 72) = key) :
    ∃ t : State, exec (.kimp mbox world v) s = .next t ∧
      (∀ p, p ≠ keyCode mbox.toNat (mboxOf v).slot (mboxOf v).key → Spec.keyAt t p = Spec.keyAt s p) ∧
      (∀ k, key = some k → Spec.answered t mbox 0 ∧ Spec.keyAt t (keyCode mbox.toNat (mboxOf v).slot (mboxOf v).key) ≠ 0 ∧
        keyBits (Spec.keyAt t (keyCode mbox.toNat (mboxOf v).slot (mboxOf v).key)) = k) ∧
      (key = none → Spec.answered t mbox 3 ∧ t.hub.keys = s.hub.keys) := by
  have hpriv : (decide (1 ≤ (mboxOf v).key) && decide ((mboxOf v).key < 128)) = true := by simp [hkey, hlt]
  have hplace : importPlace mbox.toNat (if (decide (1 ≤ (mboxOf v).key) && decide ((mboxOf v).key < 128)) = true then
      some (mboxOf v).slot else none) = (mboxOf v).slot := by
    rw [hpriv]
    rfl
  have hrun : s.mboxRun mbox.toNat (mboxOf v) 2 =
      key.elim (3, s) fun k => (0, s.installKey mbox.toNat (mboxOf v) (keyNumber k)) := by
    show s.kimpCmd mbox.toNat (mboxOf v) = _
    unfold State.kimpCmd
    dsimp only
    rw [hplace, if_neg (fun h => h.2 hown), if_neg (by omega), if_neg himp, hunwrap]
    cases key <;> rfl
  cases key with
  | none =>
    obtain ⟨t, hexec, hans, rfl⟩ := mailed_runs h (i := .kimp mbox world v) rfl (by decide) hrun
    exact ⟨_, hexec, fun _ _ => rfl, (fun k hk => nomatch hk), fun _ => ⟨hans, rfl⟩⟩
  | some k =>
    obtain ⟨t, hexec, hans, ht⟩ := mailed_runs h (i := .kimp mbox world v) rfl (by decide) hrun
    have hread (p : Nat) : Spec.keyAt t p =
        if p = keyCode mbox.toNat (mboxOf v).slot (mboxOf v).key then keyNumber k else Spec.keyAt s p := by
      rw [ht, State.installKey, if_pos (by omega)]
      exact s.setKey_keyAt (keyCode mbox.toNat (mboxOf v).slot (mboxOf v).key) (keyNumber k) p
    obtain ⟨hne, hbits⟩ := keyBits_keyNumber k
    refine ⟨t, hexec, fun p hp => ?_, fun k' hk' => ?_, (fun hk => nomatch hk)⟩
    · rw [hread, if_neg hp]
    · obtain rfl := Option.some.inj hk'
      rw [hread, if_pos rfl]
      exact ⟨hans, hne, hbits⟩

theorem kdrop_drops (h : Spec.mailed mbox world v 3) (hkey : 1 ≤ (mboxOf v).key)
    (hown : s.slotWorld (mboxOf v).slot = mbox.toNat) (hthere : Spec.keyAt s (keyCode mbox.toNat (mboxOf v).slot (mboxOf v).key) ≠ 0) :
    ∃ t : State, exec (.kdrop mbox world v) s = .next t ∧ Spec.answered t mbox 0 ∧
      Spec.keyAt t (keyCode mbox.toNat (mboxOf v).slot (mboxOf v).key) = 0 ∧
      ∀ p, p ≠ keyCode mbox.toNat (mboxOf v).slot (mboxOf v).key → Spec.keyAt t p = Spec.keyAt s p := by
  have hrun : s.mboxRun mbox.toNat (mboxOf v) 3 = (0, s.setKey (keyCode mbox.toNat (mboxOf v).slot (mboxOf v).key) 0) :=
    (if_neg (by omega)).trans ((if_neg (fun h => h.2 hown)).trans (if_neg hthere))
  obtain ⟨t, hexec, hans, ht⟩ := mailed_runs h (i := .kdrop mbox world v) rfl (by decide) hrun
  have hread (p : Nat) : Spec.keyAt t p = if p = keyCode mbox.toNat (mboxOf v).slot (mboxOf v).key then 0 else Spec.keyAt s p := by
    rw [ht]
    exact s.setKey_keyAt (keyCode mbox.toNat (mboxOf v).slot (mboxOf v).key) 0 p
  refine ⟨t, hexec, hans, ?_, fun p hp => ?_⟩
  · rw [hread, if_pos rfl]
  · rw [hread, if_neg hp]

theorem certw_replaces (h : Spec.mailed mbox world v 4) (hmbox : mbox = 1) (hlen : natOfBytes (s.caddyRead (mboxOf v).addr 4) ≤ 16384) :
    ∃ t : State, exec (.certw mbox world v) s = .next t ∧ Spec.answered t mbox 0 ∧
      Tab.get [] t.hub.caddy.certs (mboxOf v).cslot = s.caddyRead ((mboxOf v).addr + 4) (natOfBytes (s.caddyRead (mboxOf v).addr 4)) ∧
      Tab.get 0 t.hub.caddy.vers (mboxOf v).cslot = Tab.get 0 s.hub.caddy.vers (mboxOf v).cslot + 1 := by
  have hone : mbox.toNat = 1 := by rw [hmbox]; rfl
  have hrun : s.mboxRun mbox.toNat (mboxOf v) 4 = (0, s.modCaddy fun c =>
      { c with certs := Tab.set c.certs (mboxOf v).cslot (s.caddyRead ((mboxOf v).addr + 4) (natOfBytes (s.caddyRead (mboxOf v).addr 4))),
               vers := Tab.set c.vers (mboxOf v).cslot (Tab.get 0 c.vers (mboxOf v).cslot + 1) }) :=
    (if_neg (not_not.2 hone)).trans (if_neg (Nat.not_lt.2 hlen))
  obtain ⟨t, hexec, hans, ht⟩ := mailed_runs h (i := .certw mbox world v) rfl (by decide) hrun
  refine ⟨t, hexec, hans, ?_, ?_⟩
  · rw [ht]
    exact (Tab.get_set ..).trans (if_pos rfl)
  · rw [ht]
    exact (Tab.get_set ..).trans (if_pos rfl)

/-- The module goes to sleep with its keys in the retained domain (R437). -/
theorem sleep_seals (h : Spec.mailed mbox world v 5) (hmbox : mbox = 1) (hfree : ∀ e ∈ s.ctxs, e.2.st = .free)
    (hawake : s.hub.caddy.asleep = false) : ∃ t : State, exec (.sleepCommand mbox world v) s = .next t ∧ Spec.answered t mbox 0 ∧
    t.hub.caddy.asleep = true ∧ t.hub.keys = [] ∧ t.hub.caddy.imports = [] ∧ t.hub.caddy.fabKey = [] ∧ t.hub.caddy.psKey = none ∧
    t.hub.power = .sleep ∧
    (∃ k, t.hub.caddy.wrapped = some k ∧ k.keys = s.hub.keys ∧ k.imports = s.hub.caddy.imports ∧ k.pub = s.hub.caddy.pub ∧
      k.fabKey = s.hub.caddy.fabKey ∧ k.chipKey = s.hub.caddy.chipKey ∧ k.psKey = s.hub.caddy.psKey) ∧
    t.hub.caddy.kept = s.hub.caddy.meas := by
  have hone : mbox.toNat = 1 := by rw [hmbox]; rfl
  have hall : s.allFree = true := List.all_eq_true.2 fun e he => by simp [hfree e he]
  have hrun : s.mboxRun mbox.toNat (mboxOf v) 5 = (0, { s.sealKeys with hub := { s.sealKeys.hub with power := .sleep } }) :=
    (if_neg (not_not.2 hone)).trans (if_neg (by simp [hall]))
  have hseal : s.sealKeys = s.noKeys.modCaddy fun c =>
      { c with wrapped := some { keys := s.hub.keys, imports := s.hub.caddy.imports, pub := s.hub.caddy.pub, fabKey := s.hub.caddy.fabKey,
                                 chipKey := s.hub.caddy.chipKey, psKey := s.hub.caddy.psKey },
               kept := c.meas, asleep := true } := if_neg (by rw [hawake]; exact Bool.false_ne_true)
  obtain ⟨t, hexec, hans, ht⟩ := mailed_runs h (i := .sleepCommand mbox world v) rfl (by decide) hrun
  rw [hseal] at ht
  refine ⟨t, hexec, hans, ?_⟩
  rw [ht]
  exact ⟨rfl, rfl, rfl, rfl, rfl, rfl, ⟨_, rfl, rfl, rfl, rfl, rfl, rfl, rfl⟩, rfl⟩

end

/-! Wake (R438). -/

/-- What decides over the keys and the worlds: the caddy, and each slot's WLDCFG and generation. -/
def State.tellsAs (s t : State) (x : BitVec 4) : Prop :=
  t.hub.caddy = s.hub.caddy ∧ Tab.get 0 t.hub.wldcfg x.toNat = Tab.get 0 s.hub.wldcfg x.toNat ∧ t.gen x = s.gen x

theorem State.tellsAs.refl (s : State) (x : BitVec 4) : s.tellsAs s x := ⟨rfl, rfl, rfl⟩

theorem State.tellsAs.trans {u : State} {x : BitVec 4} (h : s.tellsAs t x) (h' : t.tellsAs u x) : s.tellsAs u x :=
  ⟨h'.1.trans h.1, h'.2.1.trans h.2.1, h'.2.2.trans h.2.2⟩

theorem State.tellsAs_of_view (h : t.homeView = s.homeView) (x : BitVec 4) : s.tellsAs t x := by
  have hcaddy := congrArg (fun y : State => y.hub.caddy) h
  have hwld := congrArg (fun y : State => Tab.get 0 y.hub.wldcfg x.toNat) h
  have hgen := congrArg (fun y : State => y.gen x) h
  exact ⟨hcaddy, hwld, hgen⟩

theorem State.wldcfg_of_view (h : t.homeView = s.homeView) (x : Nat) : Tab.get 0 t.hub.wldcfg x = Tab.get 0 s.hub.wldcfg x := by
  have e := congrArg (fun y : State => Tab.get 0 y.hub.wldcfg x) h
  exact e

theorem State.endsOnly_killUnit (s : State) (ci : Nat) : s.endsOnly (s.killUnit ci) := by
  unfold State.killUnit
  split
  · exact .refl s
  · have hroll : s.endsOnly (s.rollback ci) := ⟨s.storesAs_rollback ci, fun cj h => (s.rollback_st cj ci).trans h⟩
    exact hroll.trans (State.endUnit_ends _ _ _ _ _).1

/-- An increment moves on the generation of its slot alone, if at all (R303, R304). -/
theorem State.genAdvance_view (s : State) (slot : BitVec 4) (v : Word) : (s.genAdvance slot v).homeView = s.homeView ∨
    ∃ f : TSlot → TSlot, (s.genAdvance slot v).homeView = (s.modTslot slot.toNat f).homeView ∧
      ∀ t, (f t).gen = t.gen ∨ (f t).gen = t.gen + 1 := by
  unfold State.genAdvance
  extract_lets t s1 cores s2 s3
  split
  · exact .inl rfl
  · split
    · exact .inr ⟨_, rfl, fun _ => .inl rfl⟩
    · have hends2 : s1.endsOnly s2 := State.endsOnly_foldl (fun x k => (x.killStaleCore_ends k).1) _ s1
      have h3 : s2.endsOnly s3 := (s2.quiet_absent slot).endsOnly
      have hsaved (z : State) : z.endsOnly ((z.cores.map (·.1)).foldl (fun x k =>
          ((x.core k).units.filter fun u => u.slot == slot && u.gen != x.gen slot).foldl (fun y u => y.killSaved k u) x) z) :=
        State.endsOnly_foldl (fun x k => State.endsOnly_foldl (fun y u => (y.quiet_killSaved k u).endsOnly) _ x) _ z
      have hview := ((hends2.trans h3).trans (hsaved s3)).1.1
      exact .inr ⟨_, hview, fun _ => .inr rfl⟩

theorem State.genAdvance_tells (s : State) (slot : BitVec 4) (v : Word) : (∀ x, x ≠ slot → s.tellsAs (s.genAdvance slot v) x) ∧
    (s.genAdvance slot v).hub.caddy = s.hub.caddy ∧
    (∀ x : Nat, Tab.get 0 (s.genAdvance slot v).hub.wldcfg x = Tab.get 0 s.hub.wldcfg x) ∧
    ((s.genAdvance slot v).gen slot = s.gen slot ∨ (s.genAdvance slot v).gen slot = s.gen slot + 1) := by
  rcases s.genAdvance_view slot v with h | ⟨f, h, hf⟩
  · exact ⟨fun x _ => State.tellsAs_of_view h x, (State.tellsAs_of_view h slot).1,
      fun x => State.wldcfg_of_view h x, .inl (State.tellsAs_of_view h slot).2.2⟩
  · have hgen (x : BitVec 4) : (s.modTslot slot.toNat f).gen x = if x = slot then (f (s.tslot slot.toNat)).gen else s.gen x := by
      unfold State.gen
      rw [State.modTslot_tslot]
      by_cases hx : x = slot
      · rw [if_pos hx, if_pos (by rw [hx])]
      · rw [if_neg hx, if_neg (fun e => hx (BitVec.eq_of_toNat_eq e))]
    refine ⟨fun x hx => ?_, ?_, fun x => ?_, ?_⟩
    · refine State.tellsAs.trans (t := s.modTslot slot.toNat f) ⟨rfl, rfl, ?_⟩ (State.tellsAs_of_view h x)
      rw [hgen, if_neg hx]
    · exact (State.tellsAs_of_view h slot).1
    · exact State.wldcfg_of_view h x
    · rw [(State.tellsAs_of_view h slot).2.2, hgen, if_pos rfl]
      exact hf _

theorem State.setLock_wldcfg (s : State) (n j : Nat) (b : Bool) : Tab.get 0 (s.setLock n b).hub.wldcfg j =
    if j = n then setField (Tab.get 0 s.hub.wldcfg n) 62 1 (if b then 1 else 0) else Tab.get 0 s.hub.wldcfg j :=
  Tab.get_put ..

/-- A protected slot whose keys are lost is advanced, or locked; nothing is told of another slot (R438). -/
theorem State.endProtected_ends (s : State) (slot : BitVec 4) : (∀ x, x ≠ slot → s.tellsAs (s.endProtected slot.toNat) x) ∧
    (s.endProtected slot.toNat).hub.caddy = s.hub.caddy ∧
    ((s.endProtected slot.toNat).gen slot = s.gen slot + 1 ∨ (Tab.get 0 (s.endProtected slot.toNat).hub.wldcfg slot.toNat).getLsbD 62 = true) := by
  have hslot : BitVec.ofNat 4 slot.toNat = slot := BitVec.ofNat_toNat .. |>.trans (BitVec.setWidth_eq slot)
  obtain ⟨hother, hcaddy, hwld, hgen⟩ := s.genAdvance_tells slot 1
  unfold State.endProtected
  rw [hslot]
  dsimp only
  generalize s.genAdvance slot 1 = s1 at hother hcaddy hwld hgen
  split
  · next hne =>
    exact ⟨hother, hcaddy, .inl (hgen.resolve_left hne)⟩
  · have hkill : s1.endsOnly ((s1.killSavedOf slot).killHeldOf slot) := by
      refine State.endsOnly.trans (t := s1.killSavedOf slot) ?_ ?_
      · exact State.endsOnly_foldl (fun x k => State.endsOnly_foldl (fun y u => (y.quiet_killSaved k u).endsOnly) _ x) _ s1
      · refine State.endsOnly_foldl (fun x ci => ?_) _ (s1.killSavedOf slot)
        split
        · exact x.endsOnly_killUnit ci
        · exact .refl x
    generalize (s1.killSavedOf slot).killHeldOf slot = s2 at hkill
    have hview (x : BitVec 4) : s1.tellsAs s2 x := State.tellsAs_of_view hkill.1.1 x
    refine ⟨fun x hx => ?_, ?_, .inr ?_⟩
    · refine ((hother x hx).trans (hview x)).trans ⟨rfl, ?_, rfl⟩
      rw [State.setLock_wldcfg, if_neg (fun e => hx (BitVec.eq_of_toNat_eq e))]
    · exact (hview slot).1.trans hcaddy
    · rw [State.setLock_wldcfg, if_pos rfl, getLsbD_setField_bit _ (by decide)]
      rfl

/-- Every protected slot ends, from the first to the n-th (R438). -/
theorem State.endEach_ends (s : State) {n : Nat} (hn : n ≤ 16) :
    let t := (List.range n).foldl (fun x t => if x.prot t then (x.erasePrivate 1 t).endProtected t else x) s
    t.hub.caddy = s.hub.caddy ∧ (∀ x : BitVec 4, n ≤ x.toNat → s.tellsAs t x) ∧
    ∀ x : BitVec 4, x.toNat < n → s.prot x.toNat = true → t.gen x = s.gen x + 1 ∨ (Tab.get 0 t.hub.wldcfg x.toNat).getLsbD 62 = true := by
  induction n with
  | zero => exact ⟨rfl, fun x _ => .refl s x, fun x hx => absurd hx (Nat.not_lt_zero _)⟩
  | succ n ih =>
    obtain ⟨hcaddy, hlater, hdone⟩ := ih (by omega)
    rw [List.range_succ, List.foldl_append]
    generalize (List.range n).foldl (fun x t => if x.prot t then (x.erasePrivate 1 t).endProtected t else x) s = z at hcaddy hlater hdone
    intro t
    have ht : t = if z.prot n then (z.erasePrivate 1 n).endProtected n else z := rfl
    obtain ⟨slot, rfl⟩ : ∃ slot : BitVec 4, slot.toNat = n := ⟨BitVec.ofNat 4 n, BitVec.toNat_ofNat n 4 |>.trans (Nat.mod_eq_of_lt (by omega))⟩
    by_cases hprot : z.prot slot.toNat = true
    · rw [if_pos hprot] at ht
      obtain ⟨hother, hcaddy', hends⟩ := (z.erasePrivate 1 slot.toNat).endProtected_ends slot
      rw [← ht] at hother hcaddy' hends
      refine ⟨hcaddy'.trans hcaddy, fun x hx => ?_, fun x hx hp => ?_⟩
      · exact (hlater x (by omega)).trans (hother x fun e => by rw [e] at hx; omega)
      · by_cases hxs : x = slot
        · subst hxs
          rcases hends with h | h
          · exact .inl (h.trans (congrArg (· + 1) (hlater x (Nat.le_refl _)).2.2))
          · exact .inr h
        · have hlt : x.toNat < slot.toNat := by
            have : x.toNat ≠ slot.toNat := fun e => hxs (BitVec.eq_of_toNat_eq e)
            omega
          obtain ⟨_, hwld, hgen⟩ := hother x hxs
          rw [hwld, hgen]
          exact hdone x hlt hp
    · rw [if_neg hprot] at ht
      rw [ht]
      refine ⟨hcaddy, fun x hx => hlater x (by omega), fun x hx hp => ?_⟩
      by_cases hxs : x = slot
      · subst hxs
        have h : z.prot x.toNat = s.prot x.toNat := congrArg (fun w : Word => w.getLsbD 63) (hlater x (Nat.le_refl _)).2.1
        exact absurd (h.trans hp) hprot
      · have : x.toNat ≠ slot.toNat := fun e => hxs (BitVec.eq_of_toNat_eq e)
        exact hdone x (by omega) hp

section
variable {images : List (BitVec 256)} {k : Sealed} (hsleep : s.hub.power = .sleep)
include hsleep

theorem wake_runs (kept : Bool) : exec (.wake images kept) s =
    .next { s.wakeKeys images kept with hub := { (s.wakeKeys images kept).hub with power := .on } } := by
  have h : (s.hub.power == .sleep) = true := by rw [hsleep]; rfl
  exact congrArg Host.Outcome.next (if_pos h)

theorem wake_returns (hwrapped : s.hub.caddy.wrapped = some k) (hmeas : measureAll images = s.hub.caddy.kept) :
    ∃ t : State, exec (.wake images true) s = .next t ∧ t.hub.caddy.asleep = false ∧ t.hub.power = .on ∧ t.hub.keys = k.keys ∧
      t.hub.caddy.imports = k.imports ∧ t.hub.caddy.pub = k.pub ∧ t.hub.caddy.fabKey = k.fabKey ∧ t.hub.caddy.psKey = k.psKey ∧
      t.hub.caddy.meas = measureAll images := by
  refine ⟨_, wake_runs hsleep true, ?_⟩
  unfold State.wakeKeys
  dsimp only
  rw [hwrapped]
  dsimp only
  rw [if_pos ⟨rfl, hmeas⟩]
  exact ⟨rfl, rfl, rfl, rfl, rfl, rfl, rfl, rfl⟩

theorem wake_loses (hwrapped : s.hub.caddy.wrapped = some k) :
    ∃ t : State, exec (.wake images false) s = .next t ∧ t.hub.caddy.asleep = false ∧ t.hub.caddy.fabKey = [] ∧
      ∀ x : BitVec 4, s.prot x.toNat = true → t.gen x = s.gen x + 1 ∨ (Tab.get 0 t.hub.wldcfg x.toNat).getLsbD 62 = true := by
  refine ⟨_, wake_runs hsleep false, ?_⟩
  obtain ⟨z, hz⟩ : ∃ z, z = (s.modCaddy fun c => { c with meas := measureAll images, asleep := false, wrapped := none }).noKeys := ⟨_, rfl⟩
  have hrun : s.wakeKeys images false = (List.range 16).foldl (fun x t => if x.prot t then (x.erasePrivate 1 t).endProtected t else x) z := by
    rw [hz]
    unfold State.wakeKeys
    dsimp only
    rw [hwrapped]
    dsimp only
    rw [if_neg (fun h => Bool.false_ne_true h.1)]
    rfl
  obtain ⟨hcaddy, _, hends⟩ := z.endEach_ends (Nat.le_refl 16)
  rw [← hrun] at hcaddy hends
  generalize s.wakeKeys images false = u at hcaddy hends
  have hasleep : z.hub.caddy.asleep = false ∧ z.hub.caddy.fabKey = [] ∧ z.hub.wldcfg = s.hub.wldcfg ∧ z.hub.slots = s.hub.slots := by
    rw [hz]
    exact ⟨rfl, rfl, rfl, rfl⟩
  obtain ⟨hawake, hfab, hwld, hslots⟩ := hasleep
  refine ⟨?_, ?_, fun x hp => ?_⟩
  · exact (congrArg Caddy.asleep hcaddy).trans hawake
  · exact (congrArg Caddy.fabKey hcaddy).trans hfab
  · have hprot : z.prot x.toNat = s.prot x.toNat := by
      unfold State.prot
      rw [hwld]
    have hgen : z.gen x = s.gen x := by
      unfold State.gen State.tslot
      rw [hslots]
    rw [← hgen]
    exact hends x x.isLt (hprot.trans hp)

end

/-! The verifier's messages (R433, R435, R436): the lengths of a signature's parts. -/

theorem bytesOf_length {w : Nat} (x : BitVec w) (n : Nat) : (bytesOf x n).length = n := by
  rw [bytesOf, List.length_map, List.length_range]

theorem bigBytes_length (n v : Nat) : (bigBytes n v).length = n := by
  rw [bigBytes, List.length_reverse, bytesOf_length]

theorem shaBytes_length (l : List Byte) : (shaBytes l).length = 32 := bytesOf_length _ 32

theorem length_flatten_const {α : Type} {n : Nat} {l : List (List α)} (h : ∀ x ∈ l, x.length = n) : l.flatten.length = l.length * n := by
  induction l with
  | nil => rw [List.flatten_nil, List.length_nil, List.length_nil, Nat.zero_mul]
  | cons x r ih =>
    rw [List.flatten_cons, List.length_append, h x List.mem_cons_self, ih fun y hy => h y (List.mem_cons_of_mem x hy), List.length_cons,
      Nat.add_mul, Nat.one_mul, Nat.add_comm]

theorem HssTree.chain_length (t : HssTree) (q i n j : Nat) {x : List Byte} (hx : x.length = 32) : (t.chain q i n j x).length = 32 := by
  induction n generalizing j x with
  | zero => exact hx
  | succ n ih => exact ih (j + 1) (shaBytes_length _)

theorem HssTree.node_length (t : HssTree) (h r : Nat) : (t.node h r).length = 32 := by
  cases h with
  | zero => exact shaBytes_length _
  | succ h => exact shaBytes_length _

theorem HssTree.key_length (t : HssTree) : t.key.length = 56 := by
  rw [HssTree.key, List.length_append, List.length_append, List.length_append, bigBytes_length, bigBytes_length, HssTree.ident,
    bytesOf_length, t.node_length]

/-- A digest has 64 digits, and its checksum three. -/
theorem otsDigits_length {m : List Byte} (h : m.length = 32) : (otsDigits m).length = 67 := by
  have hdigits (l : List Byte) : (l.flatMap fun b => [b.toNat / 16, b.toNat % 16]).length = 2 * l.length := by
    induction l with
    | nil => rfl
    | cons b r ih =>
      rw [List.flatMap_cons, List.length_append, ih]
      show 2 + 2 * r.length = 2 * (r.length + 1)
      omega
  rw [otsDigits, List.length_append, hdigits, h]
  rfl

theorem HssTree.sign_length (t : HssTree) (q : Nat) (msg : List Byte) : (t.sign q msg).length = 2828 := by
  unfold HssTree.sign
  extract_lets c d y path
  have hc : c.length = 32 := bytesOf_length _ 32
  have hd : d.length = 67 := otsDigits_length (shaBytes_length _)
  have hy : y.length = 2144 := by
    refine (length_flatten_const (n := 32) fun x hx => ?_).trans ?_
    · obtain ⟨⟨a, i⟩, _, rfl⟩ := List.mem_map.1 hx
      exact t.chain_length q i a 0 (bytesOf_length _ 32)
    · rw [List.length_map, List.length_zipIdx, hd]
  have hpath : path.length = 640 := by
    refine (length_flatten_const (n := 32) fun x hx => ?_).trans ?_
    · obtain ⟨h, _, rfl⟩ := List.mem_map.1 hx
      exact t.node_length _ _
    · rw [List.length_map, List.length_range]
  clear_value c d y path
  rw [List.length_append, List.length_append, List.length_append, List.length_append, List.length_append, bigBytes_length, bigBytes_length,
    bigBytes_length, hc, hy, hpath]

/-- The bytes of a report's signature (R433). -/
theorem hssSign_length (seed leaf : Nat) (msg : List Byte) : (hssSign seed leaf msg).length = 5716 := by
  unfold hssSign
  dsimp only
  rw [List.length_append, List.length_append, List.length_append, bigBytes_length, HssTree.sign_length, HssTree.key_length,
    HssTree.sign_length]

section
variable {m : VerifierMsg} {ver : BitVec 32} {r : List (VerifierKind × VerifierMsg × BitVec 32)}

/-- The queue without the entry at its head. -/
def State.nextVerifier (s : State) (r : List (VerifierKind × VerifierMsg × BitVec 32)) : State :=
  s.modCaddy fun c => { c with queue := r }

theorem State.verifierHead_eq {k : VerifierKind} (hq : s.hub.caddy.queue = (k, m, ver) :: r) :
    s.verifierHead k = some (m, ver, s.nextVerifier r) := by
  unfold State.verifierHead
  rw [hq]
  exact if_pos rfl

/-- A report tells of what stood in the state before its message left the queue. -/
theorem State.nextVerifier_body (status : Nat) (nonce : BitVec 256) (cslot : Nat) (v : BitVec 32) (leaf : Nat) :
    (s.nextVerifier r).reportBody status nonce cslot v leaf = s.reportBody status nonce cslot v leaf := rfl

theorem State.report_keeps (s : State) (nonce : BitVec 256) (cslot : Nat) (bound : BitVec 32) :
    (s.report nonce cslot bound).hub.caddy.queue = s.hub.caddy.queue ∧
    (s.report nonce cslot bound).hub.caddy.imports = s.hub.caddy.imports := by
  unfold State.report
  dsimp only
  split
  · exact ⟨rfl, rfl⟩
  · split
    · exact ⟨rfl, rfl⟩
    · exact ⟨rfl, rfl⟩

/-- A report that is due is signed with the next leaf (R432, R433). -/
theorem State.report_signs {nonce : BitVec 256} {cslot : Nat} (hboot : s.bootFailed = false) (hleaf : s.hub.caddy.leaf < 2 ^ 40)
    (hver : Tab.get 0 s.hub.caddy.vers cslot = ver) : (s.report nonce cslot ver).hub.caddy.queue = s.hub.caddy.queue ∧
    (s.report nonce cslot ver).hub.caddy.leaf = s.hub.caddy.leaf + 1 ∧
    (s.report nonce cslot ver).out = s.out ++ [.out (s.reportBody 0 nonce cslot ver s.hub.caddy.leaf ++
      hssSign s.hub.caddy.seed s.hub.caddy.leaf (s.reportBody 0 nonce cslot ver s.hub.caddy.leaf))] := by
  have hgo : ¬(s.bootFailed = true ∨ 2 ^ 40 ≤ s.hub.caddy.leaf) := by
    rw [hboot]
    rintro (h | h)
    · exact Bool.false_ne_true h
    · exact absurd h (Nat.not_le.2 hleaf)
  unfold State.report
  dsimp only
  rw [if_neg hgo, hver, if_neg (not_not.2 rfl)]
  exact ⟨rfl, rfl, rfl⟩

theorem chal_reports (hq : s.hub.caddy.queue = (.chal, m, ver) :: r) (hboot : s.bootFailed = false) (hleaf : s.hub.caddy.leaf < 2 ^ 40)
    (hver : Tab.get 0 s.hub.caddy.vers m.cslot.toNat = ver) : ∃ t : State, exec .chal s = .next t ∧ t.hub.caddy.queue = r ∧
    t.hub.caddy.leaf = s.hub.caddy.leaf + 1 ∧
    t.out = s.out ++ [.out (s.reportBody 0 m.nonce m.cslot.toNat ver s.hub.caddy.leaf ++
      hssSign s.hub.caddy.seed s.hub.caddy.leaf (s.reportBody 0 m.nonce m.cslot.toNat ver s.hub.caddy.leaf))] := by
  have hexec : exec .chal s = .next ((s.nextVerifier r).report m.nonce m.cslot.toNat ver) := by
    show execChal s = _
    unfold execChal
    rw [State.verifierHead_eq hq]
  obtain ⟨hqueue, hnext, hout⟩ := State.report_signs (s := s.nextVerifier r) (nonce := m.nonce) (cslot := m.cslot.toNat) (ver := ver)
    hboot hleaf hver
  rw [State.nextVerifier_body] at hout
  exact ⟨_, hexec, hqueue, hnext, hout⟩

theorem cert_answers (hq : s.hub.caddy.queue = (.cert, m, ver) :: r) : ∃ t : State, exec .cert s = .next t ∧ t.hub.caddy.queue = r ∧
    t.out = s.out ++ [.out (bytesOf (Tab.get 0 s.hub.caddy.vers m.cslot.toNat) 4 ++ Tab.get [] s.hub.caddy.certs m.cslot.toNat)] := by
  have hexec : exec .cert s = .next ((s.nextVerifier r).answerOut
      (bytesOf (Tab.get 0 (s.nextVerifier r).hub.caddy.vers m.cslot.toNat) 4 ++ Tab.get [] (s.nextVerifier r).hub.caddy.certs m.cslot.toNat)) := by
    show execCert s = _
    unfold execCert
    rw [State.verifierHead_eq hq]
  exact ⟨_, hexec, rfl, rfl⟩

theorem import_keeps (hq : s.hub.caddy.queue = (.imp, m, ver) :: r) : ∃ t : State, exec .importKey s = .next t ∧
    t.hub.caddy.queue = r ∧
    Tab.get 0 t.hub.caddy.imports (importPlace m.world.toNat (m.slot.map BitVec.toNat)) = (Config.decap m.cipher).toNat + 1 := by
  obtain ⟨z, hz⟩ : ∃ z, z = (s.nextVerifier r).modCaddy fun c => { c with
    imports := Tab.set c.imports (importPlace m.world.toNat (m.slot.map BitVec.toNat)) ((Config.decap m.cipher).toNat + 1) } := ⟨_, rfl⟩
  have hexec : exec .importKey s = .next (z.report (sha256 m.cipher) m.cslot.toNat ver) := by
    rw [hz]
    show execImportKey s = _
    unfold execImportKey
    rw [State.verifierHead_eq hq]
  obtain ⟨hqueue, himports⟩ := z.report_keeps (sha256 m.cipher) m.cslot.toNat ver
  refine ⟨_, hexec, hqueue.trans ?_, ?_⟩
  · rw [hz]
    rfl
  · rw [himports, hz]
    unfold State.modCaddy
    dsimp only
    rw [Tab.get_set, if_pos rfl]

end

/-- Settles O52: the write of WLDCFG, the mailbox by its commands, the wake by what each protected slot's end keeps of the others, and
the verifier's queue by its head. -/
theorem caddyEvents : Obligations.CaddyEvents := by
  unfold Obligations.CaddyEvents
  intro s c
  refine ⟨fun slot v hres hnew hnone => wldcfgWrite_changes hres hnew hnone, ?_, fun images k hsleep hwrapped =>
    ⟨fun hmeas => wake_returns hsleep hwrapped hmeas, wake_loses hsleep hwrapped⟩, fun m ver r =>
    ⟨fun hq hboot hleaf hver => ?_, fun hq => cert_answers hq, fun hq => import_keeps hq⟩⟩
  · intro mbox world v w m place own
    refine ⟨fun h hown => ?_, fun h hkey hlt hother => kgen_refuses h hkey hlt hother, fun h hown himp => ?_, fun h hown hthere => ?_, ?_,
      fun h hmbox hfree hawake => sleep_seals h hmbox hfree hawake⟩
    · obtain ⟨hkey, hlt, hworld⟩ := hown
      exact kgen_makes h hkey hlt hworld
    · intro key
      obtain ⟨hkey, hlt, hworld⟩ := hown
      exact kimp_brings h hkey hlt hworld himp rfl
    · obtain ⟨hkey, hlt, hworld⟩ := hown
      exact kdrop_drops h hkey hworld hthere
    · intro n h hmbox hlen
      exact certw_replaces h hmbox hlen
  · obtain ⟨t, hexec, hqueue, hleaf', hout⟩ := chal_reports hq hboot hleaf hver
    exact ⟨t, hexec, hqueue, hleaf', hssSign_length _ _ _, hout⟩

end

end Sys2Proof.Machine
end
